-- ==== Sys2Proof/Word.lean ====
section
/-! DEFINITION. The word types of the NY4 and their plainest arithmetic (spec 00 R6, 04 R62). -/

namespace Sys2Proof

/-- A byte of memory. -/
abbrev Byte := BitVec 8

/-- A general register, an address, an instruction word: 64 bits. -/
abbrev Word := BitVec 64

/-- A vector register (R9): 512 bits. -/
abbrev VWord := BitVec 512

/-- A descriptor register (R9): 256 bits. -/
abbrev DWord := BitVec 256

/-- A mask register (R9): 16 bits, one for each 32-bit lane. -/
abbrev KWord := BitVec 16

/-- Number of a g register (six bits of a word, R47). -/
abbrev GReg := BitVec 6
/-- Number of a v register. -/
abbrev VReg := BitVec 5
/-- Number of a k register. -/
abbrev KReg := BitVec 3
/-- Number of an m, d or q register. -/
abbrev XReg := BitVec 4

end Sys2Proof
end

