-- ==== Sys2Proof/Syntax.lean ====
section
/-! DEFINITION. The instructions and steps of the NY4: one constructor of `Instr` for each row of
spec/opcode_table.json, with the operand types they carry. Rows made by an instruction word come first, in
the table's order; rows made by a unit, the host, a peer or the physical world carry what the outside or the
schedule decides. -/

namespace Sys2Proof

/-- The sixteen operand formats (02 R21, Table 02-1), in the order of their codes. -/
inductive Fmt where
  | f32 | bf16 | f16 | e4m3 | e5m2 | e3m2 | e2m3 | e2m1 | i16 | i8 | n8 | i4 | n4 | t2 | t5 | b1
  deriving DecidableEq, Repr

/-- The rounding modes (02 R28). -/
inductive RMode where
  | rne | rtz | rdn | rup
  deriving DecidableEq, Repr

/-- The RND field (02 R28): rounding mode and SAT. -/
structure Rnd where
  mode : RMode
  sat : Bool
  deriving DecidableEq, Repr

/-- The mask operand of a vector instruction (03 R46, 07 R130): MK and MI. -/
structure VMask where
  reg : KReg
  mi : Bool
  deriving DecidableEq, Repr

/-- The scope codes 1 to 6 (03 Table 03-3). Code 0, no ordering, is the absence of a scope. -/
inductive Scope where
  | core | quad | die | pkg | pod | sys
  deriving DecidableEq, Repr

/-- The access paths (03 Table 03-3). -/
inductive Path where
  | ls | cp | gs | ar
  deriving DecidableEq, Repr

/-- Access sizes 1 to 64 bytes: SIZE 0 to 6 (03 Table 03-3). -/
inductive AccSize where
  | s1 | s2 | s4 | s8 | s16 | s32 | s64
  deriving DecidableEq, Repr

/-- The message header (06 Table 06-1), field by field. -/
structure Hdr where
  dchip : BitVec 16
  dcore : BitVec 10
  kind : BitVec 2
  gen : BitVec 2
  prio : BitVec 2
  hidx : BitVec 12
  tag : BitVec 16
  schip : BitVec 16
  score : BitVec 10
  ctx : BitVec 5
  jslot : BitVec 3
  seqn : BitVec 16
  plen : BitVec 9
  chan : BitVec 5
  rsc : BitVec 3
  ctrn : BitVec 6
  ccnt : BitVec 16
  rroute : BitVec 64
  rstat : BitVec 8
  midx : BitVec 6
  deriving DecidableEq, Repr

/-- A message: header, payload bytes and the side-band word that travels beside it (06 R106, 11 Table 11-5). -/
structure Msg where
  hdr : Hdr
  payload : List Byte
  scale : Option (BitVec 34)
  deriving DecidableEq, Repr

/-- What an owner does for an access (05 R93 to R96). -/
inductive MemOp where
  | read
  | write
  /-- A WATCH registration (05 R104). -/
  | watch
  /-- The cancellation of a peer's registrations of a word (05 R104). -/
  | unwatch
  /-- Whether a write may be applied: an engine asks before it writes any byte of a chunk or a row (08 R166, R173). -/
  | check
  | aadd | afadd | amin | amax | aminn | amaxn | aand | aor | axor | aswap | acas | aclaim
  deriving DecidableEq, Repr

/-- A ring operation on a ring in another chip's memory (06 R120, R121). -/
inductive PeerRing where
  | push (v : Word)
  | pop
  | adv (n : Nat)
  | wait (n : Nat) (rec : Nat)
  deriving DecidableEq, Repr

/-- A barn entry (20 Table 20-3): envelope and body. -/
structure BarnEntry where
  etype : Nat
  ctx : Nat
  src : Nat
  seq : BitVec 32
  step : BitVec 32
  body : List Byte
  deriving DecidableEq, Repr

/-- What a peer sends over a Druntasy link (18 R312 to R316). `eidx` names the remote-table entry of the
issuing chip. -/
inductive PeerUnit where
  /-- A message of KIND 0, 2 or 3, or a KIND 1 reply. -/
  | msg (from_ : Nat) (eidx : Nat) (m : Msg)
  /-- A memory request: context, requester rank, operation, physical address, size, data, expected value, and where the
  range goes on in another page: offset and physical address (17 R296). -/
  | req (from_ : Nat) (eidx : Nat) (ctx : Nat) (op : MemOp) (pa : Nat) (size : Nat) (data : List Byte) (expect : Word)
      (more : Option (Nat × Nat))
  /-- A WATCH registration: watching logical core, physical and virtual address, handler, gC (05 R104). -/
  | watch (from_ : Nat) (eidx : Nat) (ctx : Nat) (lcore : Nat) (pa va hidx : Nat) (value : Word)
  /-- The cancellation of every registration of a word by a logical core. -/
  | unwatch (from_ : Nat) (eidx : Nat) (ctx : Nat) (lcore : Nat) (pa va : Nat)
  /-- A ring operation: the issuing logical core, the control block's physical and virtual address. -/
  | ring (from_ : Nat) (eidx : Nat) (ctx : Nat) (lcore : Nat) (op : PeerRing) (pa va : Nat)
  /-- A WPUT insertion (06 R122), which is not acknowledged. -/
  | wput (ctx : Nat) (lcore : Nat) (key : BitVec 32) (ident : Nat) (note : Option Nat)
  /-- The dispatch of a continuation that waits on this chip for a ring of the sender's (06 R121). -/
  | ringWake (ctx : Nat) (lcore : Nat) (rec : Nat) (gd : Word) (cur : Nat)
  /-- A ring reply: gD, the new CUR, whether the operation failed its checks at the owner and the words that its fault
  record carries. -/
  | ringRep (eidx : Nat) (gd : Word) (cur : Option Nat) (bad : Option (Nat × Nat × Nat))
  /-- A memory reply: status MST (Table 18-6) and data. -/
  | memReply (eidx : Nat) (mst : Nat) (data : List Byte)
  /-- An acceptance acknowledgement: RSTAT and arrival stamp (R314, 22 R368). -/
  | ack (eidx : Nat) (rstat : Nat) (stamp : Nat)
  /-- A barrier arrival of a POD barrier (05 R383). -/
  | barrier (from_ : Nat) (eidx : Nat) (ctx : Nat) (lcore : Nat) (n : Nat) (count : Nat) (value : Word) (hidx : Nat) (tag : Nat)
  /-- A unit on its way through the pod: the coordinates of the chip that it is bound for, and of the one that sent it and
  takes its answer, and its virtual-channel class (R311). -/
  | via (dst src : Nat × Nat × Nat) (cls : Bool) (u : PeerUnit)
  /-- Management: the receiver asks for its frames again, from a frame sequence number on (R320). -/
  | again (fseq : Nat)
  /-- Management: the sender has retired its old key bank (R321). -/
  | retired
  /-- On the barn network (20 R331): an entry for a slot of the receiver; a barn's acknowledgement of an entry or of the
  records up to a step, with the chip that holds the barn; a chip's read of the slot bound to a client, one entry of the
  answer, and its end with their number, or none where no slot is bound to the client. -/
  | barnEntry (slot : Nat) (e : BarnEntry)
  | barnAck (holder : Nat) (ctx : Nat) (seq step : BitVec 32) (marker : Bool)
  | barnRead (reader client : Nat)
  | barnData (client : Nat) (e : BarnEntry)
  | barnEnd (client : Nat) (count : Option Nat)
  deriving DecidableEq, Repr

/-- A Druntasy frame as the receiver sees it (18 R319, R320): the results of its checks in order (FEC
decodes, CRC holds, TAG verifies, the KG bits are equal), the fields of its trailer (Table 18-7), and what it carries. -/
structure Frame where
  fecOk : Bool
  crcOk : Bool
  tagOk : Bool
  kgEqual : Bool
  kg : Bool
  fcnt : Nat
  fseq : Nat
  /-- The last FSEQ that the sender of this frame has received intact. -/
  ack : Nat
  /-- Flit credits freed, on VN0 and VN1. -/
  cred0 : Nat
  cred1 : Nat
  units : List PeerUnit
  deriving DecidableEq, Repr

/-- The storage structures of Table 21-4, numbered as DET. -/
inductive Structure21 where
  | registers | scratchpad | accumulator | weightBuffer | queueSram | cache | hbm | spring | flits | frames | silo
  deriving DecidableEq, Repr

/-- The way that a request takes out of a router (11 R230): an adaptive buffer in X or Y, or the escape lane. -/
inductive RouteWay where
  | adaptiveX | adaptiveY | escape
  deriving DecidableEq, Repr

/-- A register of a slot that a soft error can strike: a g, v, k, m or d register (21 Table 21-4). -/
inductive RegName where
  | g (r : GReg) | v (r : VReg) | k (r : KReg) | m (r : XReg) | d (r : XReg)
  deriving DecidableEq, Repr

/-- One soft error (21 Table 21-4). -/
inductive Finding where
  /-- A corrected error of a structure of a die (4 is the hub). -/
  | corrected (die : Nat) (st : Structure21)
  /-- An uncorrectable error in a 64-byte block of memory. -/
  | block (die : Nat) (st : Structure21) (pa : Nat)
  /-- An uncorrectable error in a register of a slot. -/
  | register (p sl : Nat) (r : RegName)
  /-- An uncorrectable error in a queue, sheaf, counter, tag group, reservation or monitor entry of a context, at a core of a
  quad. -/
  | queue (q : Nat) (ctx : Nat)
  /-- An uncorrectable error in the silo or the save area of a context, in a stack of a die. -/
  | silo (die : Nat) (ctx : Nat)
  /-- An uncorrectable weight-buffer error in an entry. -/
  | entry (q e : Nat)
  /-- A spring slot copy (A is true) whose CRC fails. -/
  | springCopy (q ctx ps : Nat) (copyA : Bool)
  /-- A parity error in the working state of a quad's spring while it streams (09 R202). -/
  | springWork (q : Nat)
  /-- An uncorrectable error in a flit of a flight (11 R228). -/
  | flit (id : Nat)
  deriving DecidableEq, Repr

/-- One row of spec/opcode_table.json. -/
inductive Instr where
  -- 04: scalar arithmetic, logic, compares, counts (R63, R64)
  | add (d a b : GReg)
  | sub (d a b : GReg)
  | mul (d a b : GReg)
  | mulh (d a b : GReg)
  | mulhn (d a b : GReg)
  | div (d a b : GReg)
  | divn (d a b : GReg)
  | rem (d a b : GReg)
  | remn (d a b : GReg)
  | and (d a b : GReg)
  | or (d a b : GReg)
  | xor (d a b : GReg)
  | andn (d a b : GReg)
  | sll (d a b : GReg)
  | srl (d a b : GReg)
  | sra (d a b : GReg)
  | rol (d a b : GReg)
  | ror (d a b : GReg)
  | min (d a b : GReg)
  | max (d a b : GReg)
  | minn (d a b : GReg)
  | maxn (d a b : GReg)
  | adds (d a b : GReg)
  | subs (d a b : GReg)
  | cmpeq (d a b : GReg)
  | cmpne (d a b : GReg)
  | cmplt (d a b : GReg)
  | cmple (d a b : GReg)
  | cmpltn (d a b : GReg)
  | cmplen (d a b : GReg)
  | sel (d a b c : GReg)
  | clz (d a : GReg)
  | ctz (d a : GReg)
  | popc (d a : GReg)
  | brev (d a : GReg)
  | bswap (d a : GReg)
  -- bit fields (R66), CRC (R68), generator (R69, R70)
  | bext (d a : GReg) (pos wm1 : BitVec 6)
  | bextz (d a : GReg) (pos wm1 : BitVec 6)
  | bins (d a : GReg) (pos wm1 : BitVec 6)
  | crcc8 (d a b : GReg)
  | crcc16 (d a b : GReg)
  | crcc32 (d a b : GReg)
  | crcc64 (d a b : GReg)
  | rng (d a b : GReg)
  | rngf (d a b : GReg)
  -- immediate forms (R65)
  | addi (d a : GReg) (imm : BitVec 32)
  | andi (d a : GReg) (imm : BitVec 32)
  | ori (d a : GReg) (imm : BitVec 32)
  | xori (d a : GReg) (imm : BitVec 32)
  | slli (d a : GReg) (sh : BitVec 6)
  | srli (d a : GReg) (sh : BitVec 6)
  | srai (d a : GReg) (sh : BitVec 6)
  | muli (d a : GReg) (imm : BitVec 32)
  | cmpeqi (d a : GReg) (imm : BitVec 32)
  | cmplti (d a : GReg) (imm : BitVec 32)
  | cmpltni (d a : GReg) (imm : BitVec 32)
  | mini (d a : GReg) (imm : BitVec 32)
  | maxi (d a : GReg) (imm : BitVec 32)
  | li (d : GReg) (imm : BitVec 32)
  | lih (d : GReg) (imm : BitVec 32)
  -- message, link and ring reads; address arithmetic (R67)
  | mfm (d : GReg) (a : XReg)
  | mfl (d : GReg)
  | mfq (d : GReg) (a : XReg)
  | la (d a : GReg) (imm : BitVec 32)
  | idx (d a b : GReg) (sh : BitVec 6)
  -- control (R71, R72, R75, R78, R80, R81)
  | br (imm : BitVec 32)
  | beq (a b : GReg) (imm : BitVec 32)
  | bne (a b : GReg) (imm : BitVec 32)
  | blt (a b : GReg) (imm : BitVec 32)
  | bge (a b : GReg) (imm : BitVec 32)
  | bltn (a b : GReg) (imm : BitVec 32)
  | bgen (a b : GReg) (imm : BitVec 32)
  | jal (imm : BitVec 32)
  | jr (a : GReg)
  | ret
  | loop (a : GReg) (level : BitVec 1) (imm : BitVec 32)
  | chunk (d : GReg) (n : BitVec 4)
  | chunkUnitRequest (q : Nat)
  | endI
  | yieldI
  -- system (R82, R83, R85, R86)
  | trap (a : GReg) (code : BitVec 16)
  | bkpt (a : GReg) (code : BitVec 16)
  | trmark (a : GReg) (code : BitVec 16)
  | srd (d : GReg) (sreg : BitVec 16)
  | swr (sreg : BitVec 16) (a : GReg)
  | sw1c (sreg : BitVec 16) (a : GReg)
  | cntrd (d : GReg) (n : BitVec 16)
  -- 05: loads, stores, GET, PUT, atomics (R93, R94, R96)
  | ld8 (d a : GReg) (ord : Option Scope) (imm : BitVec 32)
  | ld16 (d a : GReg) (ord : Option Scope) (imm : BitVec 32)
  | ld32 (d a : GReg) (ord : Option Scope) (imm : BitVec 32)
  | ld64 (d a : GReg) (ord : Option Scope) (imm : BitVec 32)
  | ldz8 (d a : GReg) (ord : Option Scope) (imm : BitVec 32)
  | ldz16 (d a : GReg) (ord : Option Scope) (imm : BitVec 32)
  | ldz32 (d a : GReg) (ord : Option Scope) (imm : BitVec 32)
  | st8 (a b : GReg) (ord : Option Scope) (imm : BitVec 32)
  | st16 (a b : GReg) (ord : Option Scope) (imm : BitVec 32)
  | st32 (a b : GReg) (ord : Option Scope) (imm : BitVec 32)
  | st64 (a b : GReg) (ord : Option Scope) (imm : BitVec 32)
  | vld (d : VReg) (a : GReg) (ord : Option Scope) (imm : BitVec 32)
  | vst (a : GReg) (b : VReg) (ord : Option Scope) (imm : BitVec 32)
  | get (d a b : GReg) (size : AccSize) (imm : BitVec 32)
  | put (d a b : GReg) (size : AccSize) (ord : Option Scope) (imm : BitVec 32)
  | aadd (d a b : GReg) (wide : Bool) (ord : Option Scope) (imm : BitVec 32)
  | afadd (d a b : GReg) (ord : Option Scope) (imm : BitVec 32)
  | amin (d a b : GReg) (wide : Bool) (ord : Option Scope) (imm : BitVec 32)
  | amax (d a b : GReg) (wide : Bool) (ord : Option Scope) (imm : BitVec 32)
  | aminn (d a b : GReg) (wide : Bool) (ord : Option Scope) (imm : BitVec 32)
  | amaxn (d a b : GReg) (wide : Bool) (ord : Option Scope) (imm : BitVec 32)
  | aand (d a b : GReg) (wide : Bool) (ord : Option Scope) (imm : BitVec 32)
  | aor (d a b : GReg) (wide : Bool) (ord : Option Scope) (imm : BitVec 32)
  | axor (d a b : GReg) (wide : Bool) (ord : Option Scope) (imm : BitVec 32)
  | aswap (d a b : GReg) (wide : Bool) (ord : Option Scope) (imm : BitVec 32)
  | acas (d a b : GReg) (wide : Bool) (ord : Option Scope) (imm : BitVec 32)
  | aclaim (d a b : GReg) (wide : Bool) (ord : Option Scope) (imm : BitVec 32)
  -- fences, barriers, watches (R99 to R104)
  | fence (scope : Scope)
  | xfence (p1 p2 : Path)
  | drain (p : Path) (a : GReg)
  | barrive (a b c : GReg) (hidx : BitVec 12) (scope : Scope) (n : BitVec 4)
  | watchRegister (d a b c : GReg) (hidx : BitVec 12)
  | watchCancel (d a b c : GReg) (hidx : BitVec 12)
  -- 06: messages, tags, counters, rings, weir, journal (R109 to R127)
  | send (d a b c : GReg) (hidx : BitVec 12) (norel : Bool)
  | reply (a b c : GReg) (norel : Bool)
  | sendm (d a b c : GReg) (hidx : BitVec 12) (norel : Bool) (mcnt : BitVec 7)
  | post (a b : GReg) (norel : Bool)
  | msgld8 (d a : GReg) (imm : BitVec 32)
  | msgld16 (d a : GReg) (imm : BitVec 32)
  | msgld32 (d a : GReg) (imm : BitVec 32)
  | msgld64 (d a : GReg) (imm : BitVec 32)
  | tagnew (d : GReg) (n : BitVec 4)
  | tagfree (a : GReg) (n : BitVec 4)
  | tagpark (d : GReg) (n : BitVec 4)
  | arm (d a b c : GReg) (hidx : BitVec 12) (act : Bool) (prio : BitVec 2)
  | qpush (d : GReg) (a : XReg) (b : GReg)
  | qpop (d : GReg) (a : XReg)
  | qwait (d : GReg) (a : XReg) (b : GReg)
  | qadv (d : GReg) (a : XReg) (b : GReg)
  | wput (a b c : GReg)
  | wtakeFirst (d a : GReg)
  | wtakeStatus (d a : GReg)
  | wtakeEmpty (d a : GReg)
  | jrec (d a b c : GReg)
  | jemit (d a b c : GReg)
  | jckpt (d a b : GReg)
  | jtruncCheckpoint (d a : GReg)
  | jtruncClose (d a : GReg)
  -- 07: vector instructions (R133 to R153)
  | vadd (d a b : VReg) (m : VMask) (f : Fmt) (r : Rnd)
  | vsub (d a b : VReg) (m : VMask) (f : Fmt) (r : Rnd)
  | vmul (d a b : VReg) (m : VMask) (f : Fmt) (r : Rnd)
  | vdiv (d a b : VReg) (m : VMask) (f : Fmt) (r : Rnd)
  | vmin (d a b : VReg) (m : VMask) (f : Fmt) (r : Rnd)
  | vmax (d a b : VReg) (m : VMask) (f : Fmt) (r : Rnd)
  | vabs (d a : VReg) (m : VMask) (f : Fmt) (r : Rnd)
  | vneg (d a : VReg) (m : VMask) (f : Fmt) (r : Rnd)
  | vsqrt (d a : VReg) (m : VMask) (f : Fmt) (r : Rnd)
  | vand (d a b : VReg) (m : VMask)
  | vor (d a b : VReg) (m : VMask)
  | vxor (d a b : VReg) (m : VMask)
  | vsll (d a b : VReg) (m : VMask) (f : Fmt)
  | vsrl (d a b : VReg) (m : VMask) (f : Fmt)
  | vsra (d a b : VReg) (m : VMask) (f : Fmt)
  | vfma (d a b c : VReg) (m : VMask) (f : Fmt) (r : Rnd)
  | vfms (d a b c : VReg) (m : VMask) (f : Fmt) (r : Rnd)
  | vfnma (d a b c : VReg) (m : VMask) (f : Fmt) (r : Rnd)
  | vfnms (d a b c : VReg) (m : VMask) (f : Fmt) (r : Rnd)
  | vcmpeq (d : KReg) (a b : VReg) (m : VMask) (f : Fmt) (md : RMode)
  | vcmpne (d : KReg) (a b : VReg) (m : VMask) (f : Fmt) (md : RMode)
  | vcmplt (d : KReg) (a b : VReg) (m : VMask) (f : Fmt) (md : RMode)
  | vcmple (d : KReg) (a b : VReg) (m : VMask) (f : Fmt) (md : RMode)
  | vcmpun (d : KReg) (a b : VReg) (m : VMask) (f : Fmt) (md : RMode)
  | vsel (d a b : VReg) (m : VMask)
  | vperm (d a b : VReg) (m : VMask) (f : Fmt) (md : RMode)
  | vbcast (d : VReg) (a : GReg) (m : VMask) (f : Fmt) (md : RMode)
  | vslide (d a b c : VReg) (m : VMask) (f : Fmt) (md : RMode)
  | vzip (d a b : VReg) (m : VMask) (f : Fmt) (md : RMode)
  | vunzip (d a b : VReg) (m : VMask) (f : Fmt) (md : RMode)
  | vins (d a : VReg) (b : GReg) (m : VMask) (f : Fmt) (md : RMode)
  | vext (d : GReg) (a : VReg) (m : VMask) (f : Fmt) (md : RMode)
  | vcvt (d a : VReg) (m : VMask) (dst src : Fmt) (r : Rnd)
  | quant (d a b : VReg) (m : VMask) (f : Fmt) (r : Rnd)
  | dequant (d a b : VReg) (m : VMask) (f : Fmt) (r : Rnd)
  | dequantChannel (d b : VReg) (m : VMask) (r : Rnd)
  | vredadd (d a : VReg) (m : VMask) (f : Fmt) (r : Rnd)
  | vredmin (d a : VReg) (m : VMask) (f : Fmt) (r : Rnd)
  | vredmax (d a : VReg) (m : VMask) (f : Fmt) (r : Rnd)
  | vscanadd (d a : VReg) (m : VMask) (f : Fmt) (r : Rnd)
  | vscanmin (d a : VReg) (m : VMask) (f : Fmt) (r : Rnd)
  | vscanmax (d a : VReg) (m : VMask) (f : Fmt) (r : Rnd)
  | vexp2 (d a : VReg) (m : VMask) (f : Fmt) (sat : Bool)
  | vlog2 (d a : VReg) (m : VMask) (f : Fmt) (sat : Bool)
  | vrcp (d a : VReg) (m : VMask) (f : Fmt) (sat : Bool)
  | vrsqrt (d a : VReg) (m : VMask) (f : Fmt) (sat : Bool)
  | vsin (d a : VReg) (m : VMask) (f : Fmt) (sat : Bool)
  | vcos (d a : VReg) (m : VMask) (f : Fmt) (sat : Bool)
  | vtanh (d a : VReg) (m : VMask) (f : Fmt) (sat : Bool)
  | vsigm (d a : VReg) (m : VMask) (f : Fmt) (sat : Bool)
  | vexp (d a : VReg) (m : VMask) (f : Fmt) (sat : Bool)
  | vpacknz (d a b : VReg) (m : VMask) (f : Fmt) (md : RMode)
  | vtopk (d a b c : VReg) (m : VMask) (md : RMode)
  | vargmax (d a : VReg) (m : VMask) (md : RMode)
  | kand (d a b : KReg)
  | kor (d a b : KReg)
  | kxor (d a b : KReg)
  | knot (d a : KReg)
  | kmov (d : KReg) (a : GReg)
  | krd (d : GReg) (a : KReg)
  | kpopc (d : GReg) (a : KReg)
  | vectorComplete (p sl n : Nat)
  -- 08, 09: array, weight buffer, copies, gather, spring (R155 to R202)
  | dld (d : XReg) (a : GReg) (ord : Option Scope) (imm : BitVec 32)
  | opaMma (d : GReg) (a : XReg)
  | opaSel (d : GReg) (a : XReg)
  | opaSparse (d : GReg) (a : XReg)
  | opaZero (d : GReg) (a : XReg)
  | opaDrain (d : GReg) (a : XReg)
  | arrayCommandStart (q : Nat)
  | arrayCommandComplete (q : Nat)
  | wbload (d : GReg) (a : XReg)
  | wbloadComplete (q e : Nat)
  | wbevict (d : GReg) (a : XReg)
  | wbpin (d : GReg) (a : XReg)
  | wbunpin (d : GReg) (a : XReg)
  | wbEntryFree (q e : Nat)
  | cplin (d : GReg) (a : XReg)
  | cp2d (d : GReg) (a : XReg)
  | cpten (d : GReg) (a b : XReg)
  | copyChunk (p : Nat)
  | gather (d : GReg) (a b : XReg)
  | scatter (d : GReg) (a b : XReg)
  | gatherElementIssue (p : Nat)
  | gatherElementApply (id : Nat)
  | gatherComplete (p : Nat)
  | eresume (d : GReg) (a : XReg)
  | estat (d : GReg) (a : XReg)
  | spload (d : GReg) (a : XReg)
  | spseed (d : GReg) (a : XReg)
  | springServe (q : Nat)
  -- 01, 05, 11, 17: slots, replies, owners, networks, translation
  | budgetSafePoint (p sl : Nat)
  | forcedSafePoint (p sl : Nat)
  | loadReturn (id : Nat)
  | ackReturn (id : Nat)
  | errorReply (id : Nat)
  | pageFaultReply (id : Nat)
  | orderQueueRelease (id : Nat)
  | ownerApply (id : Nat)
  | ringOpApply (id : Nat)
  | ringReply (id : Nat)
  | sendAcceptAck (id : Nat)
  | multicastMemberAck (id : Nat)
  | barrierArrival (id : Nat)
  | balanceUpdate (die : Nat)
  | weirInsert (id : Nat)
  | arrivalAccept (id : Nat)
  | replyDelivery (id : Nat)
  | sheafArrival (id : Nat)
  | sheafListReadback (c lc : Nat)
  | siloRefill (c lc pr : Nat)
  | counterEvent (p : Nat)
  | continuationWake (c lc rec : Nat)
  | dispatch (p : Nat)
  | recordDispatch (die c : Nat)
  | tlbSliceLookup (id : Nat)
  | pageWalkRead (id : Nat)
  | pageFaultRewalk (id : Nat)
  | tlbRetry (id : Nat)
  | tlbInvalidate (die slice : Nat)
  -- a link and direction: 64 more than the link's number for frames towards the higher-numbered die of its pair
  | d2dFrameReceive (link : Nat) (crcOk : Bool)
  | linkHalfRate (link : Nat)
  | druntasyFrameReceive (port : Nat) (f : Frame)
  | heartbeatFrame (port : Nat)
  | portDown (port : Nat)
  | remoteTableEntry (id : Nat)
  | rekey (port : Nat)
  | bankFcntLimit (port : Nat)
  | getVersion (port : Nat)
  | getCapabilities (port : Nat)
  | negotiateAlgorithms (port : Nat)
  | getDigests (port : Nat)
  | getCertificate (port : Nat)
  | keyExchange (port : Nat)
  | finish (port : Nat)
  | keyUpdate (port : Nat)
  | heartbeat (port : Nat)
  | endSession (port : Nat)
  | bankReady (port : Nat)
  | bankRetired (port : Nat)
  -- 16, 18, 20 to 23: mailbox commands, by cell
  | launch (cell : Nat)
  | rebind (cell : Nat)
  | preempt (cell : Nat)
  | restore (cell : Nat)
  | mailboxEnd (cell : Nat)
  | unmap (cell : Nat)
  | protect (cell : Nat)
  | setdbg (cell : Nat)
  | jconfig (cell : Nat)
  | roster (cell : Nat)
  | partner (cell : Nat) (answers : Bool)
  | lost (cell : Nat)
  | replay (cell : Nat) (held : Option (List BarnEntry))
  | bfree (cell : Nat)
  | jstat (cell : Nat)
  | health (cell : Nat)
  | verify (cell : Nat)
  | geometry (cell : Nat)
  | stmt (cell : Nat)
  | glean (cell : Nat)
  | lmconfig (cell : Nat)
  | lmread (cell : Nat)
  | trconfig (cell : Nat)
  | sheaflist (cell : Nat)
  | cntread (cell : Nat)
  | mailboxInvalidCode (cell : Nat)
  -- 18: the host at the endpoint
  | mbdoneWrite (v : Word)
  | rxtailWrite (c : Nat) (v : Word)
  | registerWrite (off : Nat) (bytes : List Byte)
  | hostWindowRead (off n : Nat)
  | hostWindowWrite (off : Nat) (bytes : List Byte)
  | hostInject (c cell : Nat) (bytes : List Byte)
  | hostBoundMessage (id : Nat)
  -- 20: journal and barn
  | jrecHubApply (id : Nat)
  | emissionGate (id : Nat)
  | barnEntryReceive (slot : Nat) (e : BarnEntry)
  | barnAck (c : Nat) (seq step : BitVec 32) (marker : Bool)
  -- 21, 22: dumps, errors, counters, power
  | dumpComplete (c : Nat)
  | patrolScrub (found : List Finding)
  | quadFail (q : Nat)
  | counterForward (die : Nat)
  | thermalThrottle (die : Nat) (on : Bool)
  | thermalTrip
  | powerOn
  | hotReset
  | functionLevelReset
  | quadRouterForward (id : Nat) (way : RouteWay)
  | logicMatrixCycle (die : Nat) (sample : List (Nat × Nat))
  | portDownFor24Hours (port : Nat)
  | memoryPortFail (die port : Nat)
  | druntasyPortUp (port : Nat)
  | powerLoss
  | barnReadRequest (client : Nat)
  deriving DecidableEq, Repr

end Sys2Proof
end

