-- ==== Sys2Proof/WellFormed.lean ====
section
/-! DEFINITION. Which instructions have a word of their own, and which operand values a word of each admits
(03 R46 to R48, 04 Table 04-6, 05 Table 05-2, 07 Table 07-2, 22 Table 22-1). Ranges that the spec answers with
a fault when the word executes (operand-range, register-footprint) are no part of well-formedness. -/

namespace Sys2Proof

/-- A float format (Table 02-1). -/
def Fmt.isFloat : Fmt → Bool
  | .f32 | .bf16 | .f16 | .e4m3 | .e5m2 | .e3m2 | .e2m3 | .e2m1 => true
  | _ => false

/-- Formats of the lane arithmetic, the ordered compares, the reductions and the scans (Table 07-2). -/
def Fmt.arith : Fmt → Bool
  | .f32 | .bf16 | .f16 | .i16 | .i8 | .n8 => true
  | _ => false

/-- Formats of VSQRT, the fused operations, VCMPUN and the transcendentals (Table 07-2). -/
def Fmt.wideFloat : Fmt → Bool
  | .f32 | .bf16 | .f16 => true
  | _ => false

/-- Formats of the lane shifts (Table 07-2). -/
def Fmt.shiftable : Fmt → Bool
  | .i16 | .i8 | .n8 => true
  | _ => false

/-- Formats of width 8, 16 or 32: the shuffles and VPACKNZ (Table 07-2). -/
def Fmt.shuffled : Fmt → Bool
  | .f32 | .bf16 | .f16 | .e4m3 | .e5m2 | .i16 | .i8 | .n8 => true
  | _ => false

/-- Formats of QUANT, and of DEQUANT with a scale operand (Table 07-2). -/
def Fmt.quantised : Fmt → Bool
  | .f32 => false
  | _ => true

/-- VTOPK and VARGMAX take f32 alone and carry no format operand. -/
def Fmt.onlyF32 : Fmt → Bool
  | .f32 => true
  | _ => false

/-- With an integer format RND[14:12] is 0 (R131). -/
def modeOk (f : Fmt) (m : RMode) : Bool := f.isFloat || m == .rne

/-- The system registers of Table 04-6. -/
def sregAssigned (n : BitVec 16) : Bool :=
  decide (n.toNat < 8) || (decide (0x20 ≤ n.toNat) && decide (n.toNat < 0x50))

/-- The system registers marked RW in Table 04-6: CH0 to CH31 and CHK0 to CHK15. -/
def sregWritable (n : BitVec 16) : Bool :=
  decide (0x20 ≤ n.toNat) && decide (n.toNat < 0x50)

/-- The counter numbers of Table 22-1. -/
def counterAssigned (n : Nat) : Bool :=
  decide (n < 0x12) || (decide (0x20 ≤ n) && decide (n < 0x30))
    || (decide (0x100 ≤ n) && decide (n < 0x107)) || (decide (0x110 ≤ n) && decide (n < 0x112))

/-- The scope codes that BARRIVE takes (R102). -/
def Scope.barrier : Scope → Bool
  | .quad | .die | .pkg | .pod => true
  | _ => false

/-- Made by an instruction word. The other rows are steps of a unit, of the host, of a peer or of the physical
world, and have no word. -/
def Instr.isWord : Instr → Bool
  | .chunkUnitRequest .. | .vectorComplete .. | .arrayCommandStart .. | .arrayCommandComplete ..
  | .wbloadComplete .. | .wbEntryFree .. | .copyChunk .. | .gatherElementIssue .. | .gatherElementApply ..
  | .gatherComplete .. | .springServe .. | .budgetSafePoint .. | .forcedSafePoint .. | .loadReturn ..
  | .ackReturn .. | .errorReply .. | .pageFaultReply .. | .orderQueueRelease .. | .ownerApply ..
  | .ringOpApply .. | .ringReply .. | .sendAcceptAck .. | .multicastMemberAck .. | .barrierArrival ..
  | .balanceUpdate .. | .weirInsert .. | .arrivalAccept .. | .replyDelivery .. | .sheafArrival ..
  | .sheafListReadback .. | .siloRefill .. | .counterEvent .. | .continuationWake .. | .dispatch ..
  | .recordDispatch .. | .tlbSliceLookup .. | .pageWalkRead .. | .pageFaultRewalk .. | .tlbRetry ..
  | .tlbInvalidate .. | .d2dFrameReceive .. | .linkHalfRate .. | .druntasyFrameReceive .. | .heartbeatFrame ..
  | .portDown .. | .remoteTableEntry .. | .rekey .. | .bankFcntLimit .. | .getVersion .. | .getCapabilities ..
  | .negotiateAlgorithms .. | .getDigests .. | .getCertificate .. | .keyExchange .. | .finish ..
  | .keyUpdate .. | .heartbeat .. | .endSession .. | .bankReady .. | .bankRetired .. | .launch .. | .rebind ..
  | .preempt .. | .restore .. | .mailboxEnd .. | .unmap .. | .protect .. | .setdbg .. | .jconfig .. | .roster ..
  | .partner .. | .lost .. | .replay .. | .bfree .. | .jstat .. | .health .. | .verify .. | .geometry ..
  | .stmt .. | .glean .. | .lmconfig .. | .lmread .. | .trconfig .. | .sheaflist .. | .cntread ..
  | .mailboxInvalidCode .. | .mbdoneWrite .. | .rxtailWrite .. | .registerWrite .. | .hostWindowRead ..
  | .hostWindowWrite .. | .hostInject .. | .hostBoundMessage .. | .jrecHubApply .. | .emissionGate ..
  | .barnEntryReceive .. | .barnAck .. | .dumpComplete .. | .patrolScrub .. | .quadFail .. | .counterForward ..
  | .thermalThrottle .. | .thermalTrip | .powerOn | .hotReset | .functionLevelReset | .quadRouterForward ..
  | .logicMatrixCycle .. | .portDownFor24Hours .. | .memoryPortFail .. | .druntasyPortUp .. | .powerLoss
  | .barnReadRequest .. => false
  | _ => true

/-- The operand values that a word of the instruction admits (R47, R48 steps 1 and 2). Every other limit on an
operand is in its type. -/
def Instr.wellFormed : Instr → Bool
  | .bext _ _ pos wm1 | .bextz _ _ pos wm1 | .bins _ _ pos wm1 => decide (pos.toNat + wm1.toNat + 1 ≤ 64)
  | .srd _ n => sregAssigned n
  | .swr n _ => sregWritable n
  | .sw1c n _ => n == 0
  | .cntrd _ n => counterAssigned (n.toNat % 0x8000)
  | .xfence p1 p2 => p1 != p2
  | .barrive _ _ _ _ scope _ => scope.barrier
  | .arm _ _ _ _ _ act prio => act || prio == 0
  | .vadd _ _ _ _ f r | .vsub _ _ _ _ f r | .vmul _ _ _ _ f r | .vdiv _ _ _ _ f r | .vmin _ _ _ _ f r
  | .vmax _ _ _ _ f r | .vabs _ _ _ f r | .vneg _ _ _ f r | .vredadd _ _ _ f r | .vredmin _ _ _ f r
  | .vredmax _ _ _ f r | .vscanadd _ _ _ f r | .vscanmin _ _ _ f r | .vscanmax _ _ _ f r =>
      f.arith && modeOk f r.mode
  | .vsqrt _ _ _ f _ | .vfma _ _ _ _ _ f _ | .vfms _ _ _ _ _ f _ | .vfnma _ _ _ _ _ f _
  | .vfnms _ _ _ _ _ f _ => f.wideFloat
  | .vsll _ _ _ _ f | .vsrl _ _ _ _ f | .vsra _ _ _ _ f => f.shiftable
  | .vcmpeq _ _ _ _ f md | .vcmpne _ _ _ _ f md | .vcmplt _ _ _ _ f md | .vcmple _ _ _ _ f md =>
      f.arith && modeOk f md
  | .vcmpun _ _ _ _ f _ => f.wideFloat
  | .vperm _ _ _ _ f md | .vbcast _ _ _ f md | .vslide _ _ _ _ _ f md | .vzip _ _ _ _ f md
  | .vunzip _ _ _ _ f md | .vins _ _ _ _ f md | .vext _ _ _ f md => f.shuffled && modeOk f md
  | .vpacknz d _ _ _ f md => f.shuffled && modeOk f md && d.toNat % 2 == 0
  | .quant _ _ _ _ f _ | .dequant _ _ _ _ f _ => f.quantised
  | .vexp2 _ _ _ f _ | .vlog2 _ _ _ f _ | .vrcp _ _ _ f _ | .vrsqrt _ _ _ f _ | .vsin _ _ _ f _
  | .vcos _ _ _ f _ | .vtanh _ _ _ f _ | .vsigm _ _ _ f _ | .vexp _ _ _ f _ => f.wideFloat
  | _ => true

end Sys2Proof
end

