-- ==== Sys2Proof/Decode.lean ====
section
/-! DEFINITION. The decoder, total on 64-bit words, and the encoder (03 R44 to R50). A word that is no
instruction is refused by name: illegal (R48 step 1) or reserved (R48 step 2). The register footprint (step 3)
is checked when the instruction executes. -/

namespace Sys2Proof

/-- Why a word is no instruction (R48 steps 1 and 2). -/
inductive DecodeErr where
  /-- illegal-instruction: an unassigned OPC or FN, or a format outside the subset. -/
  | illegal
  /-- reserved-field: a reserved bit that is 1, or a sub-field value that is not accepted. -/
  | reserved
  deriving DecidableEq, Repr

/-- The fixed fields of a word (Table 03-1); `lo` is bits [31:0]. -/
structure Fields where
  opc : BitVec 8
  d : BitVec 6
  a : BitVec 6
  b : BitVec 6
  c : BitVec 6
  lo : BitVec 32
  deriving DecidableEq, Repr

/-- Table 03-1. -/
def fields (w : Word) : Fields where
  opc := w.extractLsb' 56 8
  d := w.extractLsb' 50 6
  a := w.extractLsb' 44 6
  b := w.extractLsb' 38 6
  c := w.extractLsb' 32 6
  lo := w.extractLsb' 0 32

/-- The word of its fixed fields (Table 03-1). -/
def Fields.pack (f : Fields) : Word := (f.opc ++ f.d ++ f.a ++ f.b ++ f.c ++ f.lo : BitVec 64)

abbrev DecodeRes := Except DecodeErr Instr

/-- The instruction, when every reserved bit is 0 and every sub-field value is accepted. -/
def okIf (c : Bool) (i : Instr) : DecodeRes := if c then .ok i else .error .reserved

def illegalWord : DecodeRes := .error .illegal

/-! Sub-fields of form A (Table 03-2). -/

def Fields.fn (f : Fields) : Nat := (f.lo.extractLsb' 24 8).toNat
def Fields.mask (f : Fields) : VMask := ⟨f.lo.extractLsb' 20 3, f.lo.extractLsb' 23 1 == 1⟩
def Fields.fmtCode (f : Fields) : BitVec 4 := f.lo.extractLsb' 16 4
def Fields.sat (f : Fields) : Bool := f.lo.extractLsb' 15 1 == 1
def Fields.modeCode (f : Fields) : BitVec 3 := f.lo.extractLsb' 12 3
/-- Bits [11:0] of form A are reserved. -/
def Fields.lowZero (f : Fields) : Bool := f.lo.extractLsb' 0 12 == 0

/-- Table 02-1. -/
def fmtOfCode (c : BitVec 4) : Fmt :=
  match c.toNat with
  | 0 => .f32 | 1 => .bf16 | 2 => .f16 | 3 => .e4m3 | 4 => .e5m2 | 5 => .e3m2 | 6 => .e2m3 | 7 => .e2m1
  | 8 => .i16 | 9 => .i8 | 10 => .n8 | 11 => .i4 | 12 => .n4 | 13 => .t2 | 14 => .t5 | _ => .b1

/-- R28; modes 4 to 7 are not accepted. -/
def modeOfCode (c : BitVec 3) : Option RMode :=
  match c.toNat with
  | 0 => some .rne | 1 => some .rtz | 2 => some .rdn | 3 => some .rup | _ => none

/-- Table 03-3. -/
def scopeOfCode (c : BitVec 3) : Option Scope :=
  match c.toNat with
  | 1 => some .core | 2 => some .quad | 3 => some .die | 4 => some .pkg | 5 => some .pod | 6 => some .sys
  | _ => none

/-- Table 03-3. -/
def pathOfCode (c : BitVec 2) : Path :=
  match c.toNat with
  | 0 => .ls | 1 => .cp | 2 => .gs | _ => .ar

/-- Table 03-3. -/
def sizeOfCode (c : BitVec 3) : Option AccSize :=
  match c.toNat with
  | 0 => some .s1 | 1 => some .s2 | 2 => some .s4 | 3 => some .s8 | 4 => some .s16 | 5 => some .s32
  | 6 => some .s64 | _ => none

/-! Register fields narrower than six bits (R47). -/

def vOk (x : BitVec 6) : Bool := x.extractLsb' 5 1 == 0
def xOk (x : BitVec 6) : Bool := x.extractLsb' 4 2 == 0
def kOk (x : BitVec 6) : Bool := x.extractLsb' 3 3 == 0
def toV (x : BitVec 6) : VReg := x.extractLsb' 0 5
def toX (x : BitVec 6) : XReg := x.extractLsb' 0 4
def toK (x : BitVec 6) : KReg := x.extractLsb' 0 3

/-! Form A without MI, MK, FMT, RND: [23:0] reserved. -/

/-- Bits [23:0] reserved. -/
def Fields.plain (f : Fields) : Bool := f.lo.extractLsb' 0 24 == 0

def aDAB (f : Fields) (k : GReg → GReg → GReg → Instr) : DecodeRes := okIf (f.c == 0 && f.plain) (k f.d f.a f.b)
def aDA (f : Fields) (k : GReg → GReg → Instr) : DecodeRes := okIf (f.b == 0 && f.c == 0 && f.plain) (k f.d f.a)
def aNone (f : Fields) (i : Instr) : DecodeRes :=
  okIf (f.d == 0 && f.a == 0 && f.b == 0 && f.c == 0 && f.plain) i

/-- OPC 0x00 (Table 03-5). -/
def dec00 (f : Fields) : DecodeRes :=
  match f.fn with
  | 0x00 => aDAB f .add | 0x01 => aDAB f .sub | 0x02 => aDAB f .mul | 0x03 => aDAB f .mulh
  | 0x04 => aDAB f .mulhn | 0x05 => aDAB f .div | 0x06 => aDAB f .divn | 0x07 => aDAB f .rem
  | 0x08 => aDAB f .remn | 0x09 => aDAB f .and | 0x0A => aDAB f .or | 0x0B => aDAB f .xor
  | 0x0C => aDAB f .andn | 0x0D => aDAB f .sll | 0x0E => aDAB f .srl | 0x0F => aDAB f .sra
  | 0x10 => aDAB f .rol | 0x11 => aDAB f .ror | 0x12 => aDAB f .min | 0x13 => aDAB f .max
  | 0x14 => aDAB f .minn | 0x15 => aDAB f .maxn | 0x16 => aDAB f .adds | 0x17 => aDAB f .subs
  | _ => illegalWord

/-- OPC 0x01. -/
def dec01 (f : Fields) : DecodeRes :=
  match f.fn with
  | 0 => aDAB f .cmpeq | 1 => aDAB f .cmpne | 2 => aDAB f .cmplt | 3 => aDAB f .cmple
  | 4 => aDAB f .cmpltn | 5 => aDAB f .cmplen
  | 6 => okIf f.plain (.sel f.d f.a f.b f.c)
  | _ => illegalWord

/-- OPC 0x02. -/
def dec02 (f : Fields) : DecodeRes :=
  match f.fn with
  | 0 => aDA f .clz | 1 => aDA f .ctz | 2 => aDA f .popc | 3 => aDA f .brev | 4 => aDA f .bswap
  | _ => illegalWord

/-- OPC 0x03 to 0x05: POS, WM1 and [31:12] reserved (R66). -/
def decBits (f : Fields) (k : GReg → GReg → BitVec 6 → BitVec 6 → Instr) : DecodeRes :=
  let pos := f.lo.extractLsb' 0 6
  let wm1 := f.lo.extractLsb' 6 6
  okIf (f.b == 0 && f.c == 0 && f.lo.extractLsb' 12 20 == 0 && decide (pos.toNat + wm1.toNat + 1 ≤ 64))
    (k f.d f.a pos wm1)

/-- OPC 0x06. -/
def dec06 (f : Fields) : DecodeRes :=
  match f.fn with
  | 0 => aDAB f .crcc8 | 1 => aDAB f .crcc16 | 2 => aDAB f .crcc32 | 3 => aDAB f .crcc64
  | _ => illegalWord

/-- OPC 0x07. -/
def dec07 (f : Fields) : DecodeRes :=
  match f.fn with
  | 0 => aDAB f .rng | 1 => aDAB f .rngf
  | _ => illegalWord

/-- Form I with D, A and IMM32. -/
def iDA (f : Fields) (k : GReg → GReg → BitVec 32 → Instr) : DecodeRes :=
  okIf (f.b == 0 && f.c == 0) (k f.d f.a f.lo)

/-- Form I with D and IMM32. -/
def iD (f : Fields) (k : GReg → BitVec 32 → Instr) : DecodeRes :=
  okIf (f.a == 0 && f.b == 0 && f.c == 0) (k f.d f.lo)

/-- The immediate shifts (R65). -/
def iShift (f : Fields) (k : GReg → GReg → BitVec 6 → Instr) : DecodeRes :=
  okIf (f.b == 0 && f.c == 0 && f.lo.extractLsb' 6 26 == 0) (k f.d f.a (f.lo.extractLsb' 0 6))

/-- OPC 0x17 (R67). -/
def dec17 (f : Fields) : DecodeRes :=
  match f.fn with
  | 0 => okIf (xOk f.a && f.b == 0 && f.c == 0 && f.plain) (.mfm f.d (toX f.a))
  | 1 => okIf (f.a == 0 && f.b == 0 && f.c == 0 && f.plain) (.mfl f.d)
  | 2 => okIf (xOk f.a && f.b == 0 && f.c == 0 && f.plain) (.mfq f.d (toX f.a))
  | _ => illegalWord

/-- OPC 0x19: C is the shift (R67). -/
def dec19 (f : Fields) : DecodeRes :=
  match f.fn with
  | 0 => okIf f.plain (.idx f.d f.a f.b f.c)
  | _ => illegalWord

/-- OPC 0x30 (R51, Table 03-7). -/
def dec30 (f : Fields) : DecodeRes :=
  let z := f.c == 0
  match f.d.toNat with
  | 0 => okIf (z && f.a == 0 && f.b == 0) (.br f.lo)
  | 1 => okIf z (.beq f.a f.b f.lo)
  | 2 => okIf z (.bne f.a f.b f.lo)
  | 3 => okIf z (.blt f.a f.b f.lo)
  | 4 => okIf z (.bge f.a f.b f.lo)
  | 5 => okIf z (.bltn f.a f.b f.lo)
  | 6 => okIf z (.bgen f.a f.b f.lo)
  | _ => .error .reserved

/-- OPC 0x32 (R72). -/
def dec32 (f : Fields) : DecodeRes :=
  match f.fn with
  | 0 => okIf (f.d == 0 && f.b == 0 && f.c == 0 && f.plain) (.jr f.a)
  | 1 => aNone f .ret
  | _ => illegalWord

/-- OPC 0x35 (R80, R81). -/
def dec35 (f : Fields) : DecodeRes :=
  match f.fn with
  | 0 => aNone f .endI
  | 1 => aNone f .yieldI
  | _ => illegalWord

/-! Form M: C holds SIZE and ORD (Table 03-2). -/

def Fields.sizeCode (f : Fields) : BitVec 3 := f.c.extractLsb' 3 3
def Fields.ordCode (f : Fields) : BitVec 3 := f.c.extractLsb' 0 3
/-- ORD 7 is reserved (Table 03-3). -/
def Fields.ordOk (f : Fields) : Bool := f.ordCode != 7
/-- ORD 0 is no ordering. -/
def Fields.ord (f : Fields) : Option Scope := scopeOfCode f.ordCode

def mLoad (f : Fields) (k : GReg → GReg → Option Scope → BitVec 32 → Instr) : DecodeRes :=
  okIf (f.b == 0 && f.ordOk) (k f.d f.a f.ord f.lo)
def mStore (f : Fields) (k : GReg → GReg → Option Scope → BitVec 32 → Instr) : DecodeRes :=
  okIf (f.d == 0 && f.ordOk) (k f.a f.b f.ord f.lo)

def dec40 (f : Fields) : DecodeRes :=
  match f.sizeCode.toNat with
  | 0 => mLoad f .ld8 | 1 => mLoad f .ld16 | 2 => mLoad f .ld32 | 3 => mLoad f .ld64 | _ => .error .reserved
def dec41 (f : Fields) : DecodeRes :=
  match f.sizeCode.toNat with
  | 0 => mLoad f .ldz8 | 1 => mLoad f .ldz16 | 2 => mLoad f .ldz32 | _ => .error .reserved
def dec42 (f : Fields) : DecodeRes :=
  match f.sizeCode.toNat with
  | 0 => mStore f .st8 | 1 => mStore f .st16 | 2 => mStore f .st32 | 3 => mStore f .st64 | _ => .error .reserved
def dec43 (f : Fields) : DecodeRes :=
  okIf (vOk f.d && f.b == 0 && f.sizeCode == 6 && f.ordOk) (.vld (toV f.d) f.a f.ord f.lo)
def dec44 (f : Fields) : DecodeRes :=
  okIf (f.d == 0 && vOk f.b && f.sizeCode == 6 && f.ordOk) (.vst f.a (toV f.b) f.ord f.lo)
/-- GET takes ORD 0 only (R94). -/
def dec45 (f : Fields) : DecodeRes :=
  match sizeOfCode f.sizeCode with
  | some sz => okIf (f.ordCode == 0) (.get f.d f.a f.b sz f.lo)
  | none => .error .reserved
def dec46 (f : Fields) : DecodeRes :=
  match sizeOfCode f.sizeCode with
  | some sz => okIf f.ordOk (.put f.d f.a f.b sz f.ord f.lo)
  | none => .error .reserved
/-- Atomics of 32 or 64 bits (R96). -/
def mAtomic (f : Fields) (k : GReg → GReg → GReg → Bool → Option Scope → BitVec 32 → Instr) : DecodeRes :=
  match f.sizeCode.toNat with
  | 2 => okIf f.ordOk (k f.d f.a f.b false f.ord f.lo)
  | 3 => okIf f.ordOk (k f.d f.a f.b true f.ord f.lo)
  | _ => .error .reserved
def dec49 (f : Fields) : DecodeRes :=
  okIf (f.sizeCode == 2 && f.ordOk) (.afadd f.d f.a f.b f.ord f.lo)

/-- OPC 0x54 (R99 to R101). -/
def dec54 (f : Fields) : DecodeRes :=
  match f.fn with
  | 0 =>
    match scopeOfCode (f.b.extractLsb' 0 3) with
    | some sc => okIf (f.b.extractLsb' 3 3 == 0 && f.d == 0 && f.a == 0 && f.c == 0 && f.plain) (.fence sc)
    | none => .error .reserved
  | 1 =>
    let p1 := pathOfCode (f.c.extractLsb' 2 2)
    let p2 := pathOfCode (f.c.extractLsb' 0 2)
    okIf (p1 != p2 && f.c.extractLsb' 4 2 == 0 && f.d == 0 && f.a == 0 && f.b == 0 && f.plain) (.xfence p1 p2)
  | 2 => okIf (f.c.extractLsb' 2 4 == 0 && f.d == 0 && f.b == 0 && f.plain)
      (.drain (pathOfCode (f.c.extractLsb' 0 2)) f.a)
  | _ => illegalWord

/-! Form X. -/

def Fields.hidx (f : Fields) : BitVec 12 := f.lo.extractLsb' 20 12
def Fields.bit19 (f : Fields) : Bool := f.lo.extractLsb' 19 1 == 1

/-- BARRIVE (R102). -/
def dec55 (f : Fields) : DecodeRes :=
  match scopeOfCode (f.lo.extractLsb' 17 3) with
  | some sc => okIf (sc.barrier && f.lo.extractLsb' 0 13 == 0 && f.d == 0)
      (.barrive f.a f.b f.c f.hidx sc (f.lo.extractLsb' 13 4))
  | none => .error .reserved
/-- WATCH (R104). gB selects the operation, which the word does not show: the register form stands for both. -/
def dec56 (f : Fields) : DecodeRes :=
  okIf (f.lo.extractLsb' 0 20 == 0) (.watchRegister f.d f.a f.b f.c f.hidx)
def dec60 (f : Fields) : DecodeRes :=
  okIf (f.lo.extractLsb' 0 19 == 0) (.send f.d f.a f.b f.c f.hidx f.bit19)
def dec61 (f : Fields) : DecodeRes :=
  okIf (f.lo.extractLsb' 0 19 == 0 && f.hidx == 0 && f.d == 0) (.reply f.a f.b f.c f.bit19)
def dec62 (f : Fields) : DecodeRes :=
  okIf (f.lo.extractLsb' 0 12 == 0) (.sendm f.d f.a f.b f.c f.hidx f.bit19 (f.lo.extractLsb' 12 7))
def dec63 (f : Fields) : DecodeRes :=
  okIf (f.lo.extractLsb' 0 19 == 0 && f.hidx == 0 && f.d == 0 && f.c == 0) (.post f.a f.b f.bit19)
/-- MSGLD takes ORD 0 and SIZE 0 to 3 (R115). -/
def dec64 (f : Fields) : DecodeRes :=
  let go (k : GReg → GReg → BitVec 32 → Instr) : DecodeRes := okIf (f.b == 0 && f.ordCode == 0) (k f.d f.a f.lo)
  match f.sizeCode.toNat with
  | 0 => go .msgld8 | 1 => go .msgld16 | 2 => go .msgld32 | 3 => go .msgld64 | _ => .error .reserved

/-- The low four bits name a counter or a group; [31:4] reserved (R78, R117). -/
def Fields.nib (f : Fields) : BitVec 4 := f.lo.extractLsb' 0 4
def Fields.nibOk (f : Fields) : Bool := f.lo.extractLsb' 4 28 == 0

/-- ARM: without ACT, PRIO is reserved (R118). -/
def dec68 (f : Fields) : DecodeRes :=
  let prio : BitVec 2 := f.lo.extractLsb' 17 2
  okIf (f.lo.extractLsb' 0 17 == 0 && (f.bit19 || prio == 0)) (.arm f.d f.a f.b f.c f.hidx f.bit19 prio)

/-- OPC 0x69 (R120, R121). -/
def dec69 (f : Fields) : DecodeRes :=
  let go (k : GReg → XReg → GReg → Instr) : DecodeRes :=
    okIf (xOk f.a && f.c == 0 && f.plain) (k f.d (toX f.a) f.b)
  match f.fn with
  | 0 => go .qpush
  | 1 => okIf (xOk f.a && f.b == 0 && f.c == 0 && f.plain) (.qpop f.d (toX f.a))
  | 2 => go .qwait
  | 3 => go .qadv
  | _ => illegalWord

/-- OPC 0x6A (R122, R123). gA selects WTAKE's operation, which the word does not show: the first stands for all. -/
def dec6A (f : Fields) : DecodeRes :=
  match f.fn with
  | 0 => okIf (f.d == 0 && f.plain) (.wput f.a f.b f.c)
  | 1 => aDA f .wtakeFirst
  | _ => illegalWord

/-- OPC 0x6B (R125 to R127). gA[31:0] selects JTRUNC's operation: the checkpoint form stands for both. -/
def dec6B (f : Fields) : DecodeRes :=
  match f.fn with
  | 0 => okIf f.plain (.jrec f.d f.a f.b f.c)
  | 1 => okIf f.plain (.jemit f.d f.a f.b f.c)
  | 2 => aDAB f .jckpt
  | 3 => aDA f .jtruncCheckpoint
  | _ => illegalWord

/-! Vector instructions (R131): illegal-instruction for a format outside the subset, then reserved-field. -/

/-- Format and RND with SAT admitted. -/
def withRnd (f : Fields) (adm : Fmt → Bool) (free : Bool) (c : Bool) (k : VMask → Fmt → Rnd → Instr) : DecodeRes :=
  let fm := fmtOfCode f.fmtCode
  if adm fm then
    match modeOfCode f.modeCode with
    | some m => okIf (c && f.lowZero && (free || modeOk fm m)) (k f.mask fm ⟨m, f.sat⟩)
    | none => .error .reserved
  else .error .illegal

/-- Format and rounding mode, with SAT reserved. -/
def withMode (f : Fields) (adm : Fmt → Bool) (c : Bool) (k : VMask → Fmt → RMode → Instr) : DecodeRes :=
  let fm := fmtOfCode f.fmtCode
  if adm fm then
    match modeOfCode f.modeCode with
    | some m => okIf (c && f.lowZero && modeOk fm m && !f.sat) (k f.mask fm m)
    | none => .error .reserved
  else .error .illegal

/-- Mask alone: FMT and RND reserved. -/
def withMask (f : Fields) (c : Bool) (k : VMask → Instr) : DecodeRes :=
  okIf (c && f.lo.extractLsb' 0 20 == 0) (k f.mask)

def dab (f : Fields) : Bool := vOk f.d && vOk f.a && vOk f.b && f.c == 0
def da (f : Fields) : Bool := vOk f.d && vOk f.a && f.b == 0 && f.c == 0
def dabc (f : Fields) : Bool := vOk f.d && vOk f.a && vOk f.b && vOk f.c

def vBin (f : Fields) (k : VReg → VReg → VReg → VMask → Fmt → Rnd → Instr) : DecodeRes :=
  withRnd f Fmt.arith false (dab f) (k (toV f.d) (toV f.a) (toV f.b))
def vUn (f : Fields) (adm : Fmt → Bool) (k : VReg → VReg → VMask → Fmt → Rnd → Instr) : DecodeRes :=
  withRnd f adm false (da f) (k (toV f.d) (toV f.a))
def vLogic (f : Fields) (k : VReg → VReg → VReg → VMask → Instr) : DecodeRes :=
  withMask f (dab f) (k (toV f.d) (toV f.a) (toV f.b))
def vShift (f : Fields) (k : VReg → VReg → VReg → VMask → Fmt → Instr) : DecodeRes :=
  let fm := fmtOfCode f.fmtCode
  if fm.shiftable then
    okIf (dab f && f.lo.extractLsb' 0 16 == 0) (k (toV f.d) (toV f.a) (toV f.b) f.mask fm)
  else .error .illegal

/-- OPC 0x80 (R133 to R135). -/
def dec80 (f : Fields) : DecodeRes :=
  match f.fn with
  | 0 => vBin f .vadd | 1 => vBin f .vsub | 2 => vBin f .vmul | 3 => vBin f .vdiv | 4 => vBin f .vmin
  | 5 => vBin f .vmax | 6 => vUn f Fmt.arith .vabs | 7 => vUn f Fmt.arith .vneg | 8 => vUn f Fmt.wideFloat .vsqrt
  | 9 => vLogic f .vand | 10 => vLogic f .vor | 11 => vLogic f .vxor
  | 12 => vShift f .vsll | 13 => vShift f .vsrl | 14 => vShift f .vsra
  | _ => illegalWord

/-- OPC 0x81 (R136). -/
def dec81 (f : Fields) : DecodeRes :=
  let go (k : VReg → VReg → VReg → VReg → VMask → Fmt → Rnd → Instr) : DecodeRes :=
    withRnd f Fmt.wideFloat false (dabc f) (k (toV f.d) (toV f.a) (toV f.b) (toV f.c))
  match f.fn with
  | 0 => go .vfma | 1 => go .vfms | 2 => go .vfnma | 3 => go .vfnms
  | _ => illegalWord

/-- OPC 0x82 (R137). -/
def dec82 (f : Fields) : DecodeRes :=
  let go (adm : Fmt → Bool) (k : KReg → VReg → VReg → VMask → Fmt → RMode → Instr) : DecodeRes :=
    withMode f adm (kOk f.d && vOk f.a && vOk f.b && f.c == 0) (k (toK f.d) (toV f.a) (toV f.b))
  match f.fn with
  | 0 => go Fmt.arith .vcmpeq | 1 => go Fmt.arith .vcmpne | 2 => go Fmt.arith .vcmplt | 3 => go Fmt.arith .vcmple
  | 4 => go Fmt.wideFloat .vcmpun
  | _ => illegalWord

/-- OPC 0x83 (R138). -/
def dec83 (f : Fields) : DecodeRes :=
  match f.fn with
  | 0 => vLogic f .vsel
  | _ => illegalWord

/-- OPC 0x84 (R139 to R141). -/
def dec84 (f : Fields) : DecodeRes :=
  let s := Fmt.shuffled
  match f.fn with
  | 0 => withMode f s (dab f) (.vperm (toV f.d) (toV f.a) (toV f.b))
  | 1 => withMode f s (vOk f.d && f.b == 0 && f.c == 0) (.vbcast (toV f.d) f.a)
  | 2 => withMode f s (dabc f) (.vslide (toV f.d) (toV f.a) (toV f.b) (toV f.c))
  | 3 => withMode f s (dab f) (.vzip (toV f.d) (toV f.a) (toV f.b))
  | 4 => withMode f s (dab f) (.vunzip (toV f.d) (toV f.a) (toV f.b))
  | 5 => withMode f s (vOk f.d && vOk f.a && f.c == 0) (.vins (toV f.d) (toV f.a) f.b)
  | 6 => withMode f s (vOk f.a && f.b == 0 && f.c == 0) (.vext f.d (toV f.a))
  | _ => illegalWord

/-- OPC 0x85: FN[3:0] is the destination format (R142). -/
def dec85 (f : Fields) : DecodeRes :=
  if f.lo.extractLsb' 28 4 == 0 then
    withRnd f (fun _ => true) true (da f)
      (fun m src r => .vcvt (toV f.d) (toV f.a) m (fmtOfCode (f.lo.extractLsb' 24 4)) src r)
  else illegalWord

/-- OPC 0x86: DEQUANT with FMT f32 is the channel form, which leaves A reserved (R143 to R145). -/
def dec86 (f : Fields) : DecodeRes :=
  match f.fn with
  | 0 => withRnd f Fmt.quantised true (dab f) (.quant (toV f.d) (toV f.a) (toV f.b))
  | 1 =>
    match fmtOfCode f.fmtCode with
    | .f32 => withRnd f Fmt.onlyF32 true (vOk f.d && f.a == 0 && vOk f.b && f.c == 0)
        (fun m _ r => .dequantChannel (toV f.d) (toV f.b) m r)
    | _ => withRnd f Fmt.quantised true (dab f) (.dequant (toV f.d) (toV f.a) (toV f.b))
  | _ => illegalWord

/-- OPC 0x87 (R146, R147). -/
def dec87 (f : Fields) : DecodeRes :=
  match f.fn with
  | 0x00 => vUn f Fmt.arith .vredadd | 0x01 => vUn f Fmt.arith .vredmin | 0x02 => vUn f Fmt.arith .vredmax
  | 0x10 => vUn f Fmt.arith .vscanadd | 0x11 => vUn f Fmt.arith .vscanmin | 0x12 => vUn f Fmt.arith .vscanmax
  | _ => illegalWord

/-- OPC 0x88: RND[14:12] reserved, SAT admitted (R148). -/
def dec88 (f : Fields) : DecodeRes :=
  let go (k : VReg → VReg → VMask → Fmt → Bool → Instr) : DecodeRes :=
    let fm := fmtOfCode f.fmtCode
    if fm.wideFloat then
      okIf (da f && f.lowZero && f.modeCode == 0) (k (toV f.d) (toV f.a) f.mask fm f.sat)
    else .error .illegal
  match f.fn with
  | 0 => go .vexp2 | 1 => go .vlog2 | 2 => go .vrcp | 3 => go .vrsqrt | 4 => go .vsin | 5 => go .vcos
  | 6 => go .vtanh | 7 => go .vsigm | 8 => go .vexp
  | _ => illegalWord

/-- OPC 0x89: an odd D is refused (R150). -/
def dec89 (f : Fields) : DecodeRes :=
  match f.fn with
  | 0 => withMode f Fmt.shuffled (dab f && (toV f.d).toNat % 2 == 0) (.vpacknz (toV f.d) (toV f.a) (toV f.b))
  | _ => illegalWord

/-- OPC 0x8A: f32 only (R151, R152). -/
def dec8A (f : Fields) : DecodeRes :=
  match f.fn with
  | 0 => withMode f Fmt.onlyF32 (dabc f) (fun m _ md => .vtopk (toV f.d) (toV f.a) (toV f.b) (toV f.c) m md)
  | 1 => withMode f Fmt.onlyF32 (da f) (fun m _ md => .vargmax (toV f.d) (toV f.a) m md)
  | _ => illegalWord

/-- OPC 0x8B (Table 07-5). -/
def dec8B (f : Fields) : DecodeRes :=
  let z := f.c == 0 && f.plain
  match f.fn with
  | 0 => okIf (kOk f.d && kOk f.a && kOk f.b && z) (.kand (toK f.d) (toK f.a) (toK f.b))
  | 1 => okIf (kOk f.d && kOk f.a && kOk f.b && z) (.kor (toK f.d) (toK f.a) (toK f.b))
  | 2 => okIf (kOk f.d && kOk f.a && kOk f.b && z) (.kxor (toK f.d) (toK f.a) (toK f.b))
  | 3 => okIf (kOk f.d && kOk f.a && f.b == 0 && z) (.knot (toK f.d) (toK f.a))
  | 4 => okIf (kOk f.d && f.b == 0 && z) (.kmov (toK f.d) f.a)
  | 5 => okIf (kOk f.a && f.b == 0 && z) (.krd f.d (toK f.a))
  | 6 => okIf (kOk f.a && f.b == 0 && z) (.kpopc f.d (toK f.a))
  | _ => illegalWord

/-! Engine instructions (R155, R156, R194). -/

def decC0 (f : Fields) : DecodeRes :=
  okIf (xOk f.d && f.b == 0 && f.sizeCode == 5 && f.ordOk) (.dld (toX f.d) f.a f.ord f.lo)

/-- D a g register, A a d register. -/
def eDA (f : Fields) (k : GReg → XReg → Instr) : DecodeRes :=
  okIf (xOk f.a && f.b == 0 && f.c == 0 && f.plain) (k f.d (toX f.a))
/-- D a g register, A and B d registers. -/
def eDAB (f : Fields) (k : GReg → XReg → XReg → Instr) : DecodeRes :=
  okIf (xOk f.a && xOk f.b && f.c == 0 && f.plain) (k f.d (toX f.a) (toX f.b))

def decC1 (f : Fields) : DecodeRes :=
  match f.fn with
  | 0 => eDA f .opaMma | 1 => eDA f .opaSel | 2 => eDA f .opaSparse | 3 => eDA f .opaZero | 4 => eDA f .opaDrain
  | _ => illegalWord
def decC2 (f : Fields) : DecodeRes :=
  match f.fn with
  | 0 => eDA f .wbload | 1 => eDA f .wbevict | 2 => eDA f .wbpin | 3 => eDA f .wbunpin
  | _ => illegalWord
def decC3 (f : Fields) : DecodeRes :=
  match f.fn with
  | 0 => eDA f .cplin | 1 => eDA f .cp2d | 2 => eDAB f .cpten
  | _ => illegalWord
def decC4 (f : Fields) : DecodeRes :=
  match f.fn with
  | 0 => eDAB f .gather | 1 => eDAB f .scatter
  | _ => illegalWord
def decC5 (f : Fields) : DecodeRes :=
  match f.fn with
  | 0 => eDA f .eresume | 1 => eDA f .estat
  | _ => illegalWord
def decC6 (f : Fields) : DecodeRes :=
  match f.fn with
  | 0 => eDA f .spload | 1 => eDA f .spseed
  | _ => illegalWord

/-! System instructions (R85, R86, R82, R83). -/

def Fields.sreg (f : Fields) : BitVec 16 := f.lo.extractLsb' 16 16
def Fields.fnS (f : Fields) : Nat := (f.lo.extractLsb' 0 16).toNat

def decE0 (f : Fields) : DecodeRes :=
  match f.fnS with
  | 0 => okIf (f.a == 0 && f.b == 0 && f.c == 0 && sregAssigned f.sreg) (.srd f.d f.sreg)
  | 1 => okIf (f.d == 0 && f.b == 0 && f.c == 0 && sregWritable f.sreg) (.swr f.sreg f.a)
  | 2 => okIf (f.d == 0 && f.b == 0 && f.c == 0 && f.sreg == 0) (.sw1c f.sreg f.a)
  | _ => illegalWord
def decE1 (f : Fields) : DecodeRes :=
  match f.fnS with
  | 0 => okIf (f.a == 0 && f.b == 0 && f.c == 0 && counterAssigned (f.sreg.toNat % 0x8000)) (.cntrd f.d f.sreg)
  | _ => illegalWord
def decCode (f : Fields) (k : GReg → BitVec 16 → Instr) : DecodeRes :=
  okIf (f.d == 0 && f.b == 0 && f.c == 0 && f.lo.extractLsb' 16 16 == 0) (k f.a (f.lo.extractLsb' 0 16))

/-- The opcode map (R49, Table 03-4). -/
def decodeFields (f : Fields) : DecodeRes :=
  match f.opc.toNat with
  | 0x00 => dec00 f | 0x01 => dec01 f | 0x02 => dec02 f
  | 0x03 => decBits f .bext | 0x04 => decBits f .bextz | 0x05 => decBits f .bins
  | 0x06 => dec06 f | 0x07 => dec07 f
  | 0x08 => iDA f .addi | 0x09 => iDA f .andi | 0x0A => iDA f .ori | 0x0B => iDA f .xori
  | 0x0C => iShift f .slli | 0x0D => iShift f .srli | 0x0E => iShift f .srai
  | 0x0F => iDA f .muli | 0x10 => iDA f .cmpeqi | 0x11 => iDA f .cmplti | 0x12 => iDA f .cmpltni
  | 0x13 => iDA f .mini | 0x14 => iDA f .maxi | 0x15 => iD f .li | 0x16 => iD f .lih
  | 0x17 => dec17 f | 0x18 => iDA f .la | 0x19 => dec19 f
  | 0x30 => dec30 f
  | 0x31 => okIf (f.d == 0 && f.a == 0 && f.b == 0 && f.c == 0) (.jal f.lo)
  | 0x32 => dec32 f
  | 0x33 => okIf (f.d == 0 && f.b == 0 && f.c.extractLsb' 1 5 == 0) (.loop f.a (f.c.extractLsb' 0 1) f.lo)
  | 0x34 => okIf (f.a == 0 && f.b == 0 && f.c == 0 && f.nibOk) (.chunk f.d f.nib)
  | 0x35 => dec35 f
  | 0x40 => dec40 f | 0x41 => dec41 f | 0x42 => dec42 f | 0x43 => dec43 f | 0x44 => dec44 f
  | 0x45 => dec45 f | 0x46 => dec46 f
  | 0x48 => mAtomic f .aadd | 0x49 => dec49 f | 0x4A => mAtomic f .amin | 0x4B => mAtomic f .amax
  | 0x4C => mAtomic f .aminn | 0x4D => mAtomic f .amaxn | 0x4E => mAtomic f .aand | 0x4F => mAtomic f .aor
  | 0x50 => mAtomic f .axor | 0x51 => mAtomic f .aswap | 0x52 => mAtomic f .acas | 0x53 => mAtomic f .aclaim
  | 0x54 => dec54 f | 0x55 => dec55 f | 0x56 => dec56 f
  | 0x60 => dec60 f | 0x61 => dec61 f | 0x62 => dec62 f | 0x63 => dec63 f | 0x64 => dec64 f
  | 0x65 => okIf (f.a == 0 && f.b == 0 && f.c == 0 && f.nibOk) (.tagnew f.d f.nib)
  | 0x66 => okIf (f.d == 0 && f.b == 0 && f.c == 0 && f.nibOk) (.tagfree f.a f.nib)
  | 0x67 => okIf (f.a == 0 && f.b == 0 && f.c == 0 && f.nibOk) (.tagpark f.d f.nib)
  | 0x68 => dec68 f | 0x69 => dec69 f | 0x6A => dec6A f | 0x6B => dec6B f
  | 0x80 => dec80 f | 0x81 => dec81 f | 0x82 => dec82 f | 0x83 => dec83 f | 0x84 => dec84 f | 0x85 => dec85 f
  | 0x86 => dec86 f | 0x87 => dec87 f | 0x88 => dec88 f | 0x89 => dec89 f | 0x8A => dec8A f | 0x8B => dec8B f
  | 0xC0 => decC0 f | 0xC1 => decC1 f | 0xC2 => decC2 f | 0xC3 => decC3 f | 0xC4 => decC4 f | 0xC5 => decC5 f
  | 0xC6 => decC6 f
  | 0xE0 => decE0 f | 0xE1 => decE1 f
  | 0xE2 => decCode f .trap | 0xE3 => decCode f .bkpt | 0xE4 => decCode f .trmark
  | _ => illegalWord

/-- The decoder (R48 steps 1 and 2). -/
def decode (w : Word) : DecodeRes := decodeFields (fields w)

/-- The host's probe: the row's word, its first byte lowest. A word of another length is no instruction (R44). -/
def decodeTableWord (nbits w : Nat) : Option Instr :=
  if nbits ≤ 64 && w < 2 ^ 64 then
    match decode (BitVec.ofNat 64 w) with
    | .ok i => some i
    | .error _ => none
  else none

/-! The encoder, from the same tables. -/

/-- Table 02-1. -/
def Fmt.code : Fmt → BitVec 4
  | .f32 => 0 | .bf16 => 1 | .f16 => 2 | .e4m3 => 3 | .e5m2 => 4 | .e3m2 => 5 | .e2m3 => 6 | .e2m1 => 7
  | .i16 => 8 | .i8 => 9 | .n8 => 10 | .i4 => 11 | .n4 => 12 | .t2 => 13 | .t5 => 14 | .b1 => 15

/-- R28. -/
def RMode.code : RMode → BitVec 3
  | .rne => 0 | .rtz => 1 | .rdn => 2 | .rup => 3

/-- Table 03-3. -/
def Scope.code : Scope → BitVec 3
  | .core => 1 | .quad => 2 | .die => 3 | .pkg => 4 | .pod => 5 | .sys => 6

/-- ORD, with 0 for no ordering (Table 03-3). -/
def ordField : Option Scope → BitVec 3
  | none => 0
  | some s => s.code

/-- Table 03-3. -/
def Path.code : Path → BitVec 2
  | .ls => 0 | .cp => 1 | .gs => 2 | .ar => 3

/-- Table 03-3. -/
def AccSize.code : AccSize → BitVec 3
  | .s1 => 0 | .s2 => 1 | .s4 => 2 | .s8 => 3 | .s16 => 4 | .s32 => 5 | .s64 => 6

def bitOf (b : Bool) : BitVec 1 := if b then 1 else 0

/-- Form A with every field below FN zero. -/
def loFn (fn : BitVec 8) : BitVec 32 := fn ++ (0 : BitVec 24)
/-- Form A in full (Table 03-2). -/
def loA (fn : BitVec 8) (m : VMask) (f : BitVec 4) (sat : Bool) (md : BitVec 3) : BitVec 32 :=
  (fn ++ bitOf m.mi ++ m.reg ++ f ++ bitOf sat ++ md ++ (0 : BitVec 12) : BitVec 32)
def loX (hidx : BitVec 12) (sub : BitVec 20) : BitVec 32 := (hidx ++ sub : BitVec 32)
def fromV (x : VReg) : BitVec 6 := (0 : BitVec 1) ++ x
def fromX (x : XReg) : BitVec 6 := (0 : BitVec 2) ++ x
def fromK (x : KReg) : BitVec 6 := (0 : BitVec 3) ++ x
def szOrd (sz : BitVec 3) (o : BitVec 3) : BitVec 6 := (sz ++ o : BitVec 6)
def wideSize (w : Bool) : BitVec 3 := if w then 3 else 2

def eA (opc fn : BitVec 8) (d a b c : BitVec 6) : Word := Fields.pack ⟨opc, d, a, b, c, loFn fn⟩
def eI (opc : BitVec 8) (d a b c : BitVec 6) (lo : BitVec 32) : Word := Fields.pack ⟨opc, d, a, b, c, lo⟩
def eV (opc fn : BitVec 8) (d a b c : BitVec 6) (m : VMask) (f : BitVec 4) (sat : Bool) (md : BitVec 3) : Word :=
  Fields.pack ⟨opc, d, a, b, c, loA fn m f sat md⟩
def eVR (opc fn : BitVec 8) (d a b c : BitVec 6) (m : VMask) (f : Fmt) (r : Rnd) : Word :=
  eV opc fn d a b c m f.code r.sat r.mode.code
def loBits (pos wm1 : BitVec 6) : BitVec 32 := ((0 : BitVec 20) ++ wm1 ++ pos : BitVec 32)
def loShift (sh : BitVec 6) : BitVec 32 := ((0 : BitVec 26) ++ sh : BitVec 32)
def loNib (n : BitVec 4) : BitVec 32 := ((0 : BitVec 28) ++ n : BitVec 32)
def loS (sreg fn : BitVec 16) : BitVec 32 := (sreg ++ fn : BitVec 32)
def eLoad (opc : BitVec 8) (sz : BitVec 3) (d a : GReg) (o : Option Scope) (imm : BitVec 32) : Word :=
  eI opc d a 0 (szOrd sz (ordField o)) imm
def eStore (sz : BitVec 3) (a b : GReg) (o : Option Scope) (imm : BitVec 32) : Word :=
  eI 0x42 0 a b (szOrd sz (ordField o)) imm
def eAtomic (opc : BitVec 8) (d a b : GReg) (w : Bool) (o : Option Scope) (imm : BitVec 32) : Word :=
  eI opc d a b (szOrd (wideSize w) (ordField o)) imm
def subNorel (n : Bool) : BitVec 20 := (bitOf n ++ (0 : BitVec 19) : BitVec 20)

/-- The word of an instruction (R44 to R57); none for a step that no word makes. -/
def encode : Instr → Option Word
  | .add d a b => some (eA 0x00 0x00 d a b 0)
  | .sub d a b => some (eA 0x00 0x01 d a b 0)
  | .mul d a b => some (eA 0x00 0x02 d a b 0)
  | .mulh d a b => some (eA 0x00 0x03 d a b 0)
  | .mulhn d a b => some (eA 0x00 0x04 d a b 0)
  | .div d a b => some (eA 0x00 0x05 d a b 0)
  | .divn d a b => some (eA 0x00 0x06 d a b 0)
  | .rem d a b => some (eA 0x00 0x07 d a b 0)
  | .remn d a b => some (eA 0x00 0x08 d a b 0)
  | .and d a b => some (eA 0x00 0x09 d a b 0)
  | .or d a b => some (eA 0x00 0x0A d a b 0)
  | .xor d a b => some (eA 0x00 0x0B d a b 0)
  | .andn d a b => some (eA 0x00 0x0C d a b 0)
  | .sll d a b => some (eA 0x00 0x0D d a b 0)
  | .srl d a b => some (eA 0x00 0x0E d a b 0)
  | .sra d a b => some (eA 0x00 0x0F d a b 0)
  | .rol d a b => some (eA 0x00 0x10 d a b 0)
  | .ror d a b => some (eA 0x00 0x11 d a b 0)
  | .min d a b => some (eA 0x00 0x12 d a b 0)
  | .max d a b => some (eA 0x00 0x13 d a b 0)
  | .minn d a b => some (eA 0x00 0x14 d a b 0)
  | .maxn d a b => some (eA 0x00 0x15 d a b 0)
  | .adds d a b => some (eA 0x00 0x16 d a b 0)
  | .subs d a b => some (eA 0x00 0x17 d a b 0)
  | .cmpeq d a b => some (eA 0x01 0x00 d a b 0)
  | .cmpne d a b => some (eA 0x01 0x01 d a b 0)
  | .cmplt d a b => some (eA 0x01 0x02 d a b 0)
  | .cmple d a b => some (eA 0x01 0x03 d a b 0)
  | .cmpltn d a b => some (eA 0x01 0x04 d a b 0)
  | .cmplen d a b => some (eA 0x01 0x05 d a b 0)
  | .sel d a b c => some (eA 0x01 0x06 d a b c)
  | .clz d a => some (eA 0x02 0x00 d a 0 0)
  | .ctz d a => some (eA 0x02 0x01 d a 0 0)
  | .popc d a => some (eA 0x02 0x02 d a 0 0)
  | .brev d a => some (eA 0x02 0x03 d a 0 0)
  | .bswap d a => some (eA 0x02 0x04 d a 0 0)
  | .bext d a pos wm1 => some (eI 0x03 d a 0 0 (loBits pos wm1))
  | .bextz d a pos wm1 => some (eI 0x04 d a 0 0 (loBits pos wm1))
  | .bins d a pos wm1 => some (eI 0x05 d a 0 0 (loBits pos wm1))
  | .crcc8 d a b => some (eA 0x06 0x00 d a b 0)
  | .crcc16 d a b => some (eA 0x06 0x01 d a b 0)
  | .crcc32 d a b => some (eA 0x06 0x02 d a b 0)
  | .crcc64 d a b => some (eA 0x06 0x03 d a b 0)
  | .rng d a b => some (eA 0x07 0x00 d a b 0)
  | .rngf d a b => some (eA 0x07 0x01 d a b 0)
  | .addi d a imm => some (eI 0x08 d a 0 0 imm)
  | .andi d a imm => some (eI 0x09 d a 0 0 imm)
  | .ori d a imm => some (eI 0x0A d a 0 0 imm)
  | .xori d a imm => some (eI 0x0B d a 0 0 imm)
  | .slli d a sh => some (eI 0x0C d a 0 0 (loShift sh))
  | .srli d a sh => some (eI 0x0D d a 0 0 (loShift sh))
  | .srai d a sh => some (eI 0x0E d a 0 0 (loShift sh))
  | .muli d a imm => some (eI 0x0F d a 0 0 imm)
  | .cmpeqi d a imm => some (eI 0x10 d a 0 0 imm)
  | .cmplti d a imm => some (eI 0x11 d a 0 0 imm)
  | .cmpltni d a imm => some (eI 0x12 d a 0 0 imm)
  | .mini d a imm => some (eI 0x13 d a 0 0 imm)
  | .maxi d a imm => some (eI 0x14 d a 0 0 imm)
  | .li d imm => some (eI 0x15 d 0 0 0 imm)
  | .lih d imm => some (eI 0x16 d 0 0 0 imm)
  | .mfm d a => some (eA 0x17 0x00 d (fromX a) 0 0)
  | .mfl d => some (eA 0x17 0x01 d 0 0 0)
  | .mfq d a => some (eA 0x17 0x02 d (fromX a) 0 0)
  | .la d a imm => some (eI 0x18 d a 0 0 imm)
  | .idx d a b sh => some (eA 0x19 0x00 d a b sh)
  | .br imm => some (eI 0x30 0 0 0 0 imm)
  | .beq a b imm => some (eI 0x30 1 a b 0 imm)
  | .bne a b imm => some (eI 0x30 2 a b 0 imm)
  | .blt a b imm => some (eI 0x30 3 a b 0 imm)
  | .bge a b imm => some (eI 0x30 4 a b 0 imm)
  | .bltn a b imm => some (eI 0x30 5 a b 0 imm)
  | .bgen a b imm => some (eI 0x30 6 a b 0 imm)
  | .jal imm => some (eI 0x31 0 0 0 0 imm)
  | .jr a => some (eA 0x32 0x00 0 a 0 0)
  | .ret => some (eA 0x32 0x01 0 0 0 0)
  | .loop a level imm => some (eI 0x33 0 a 0 ((0 : BitVec 5) ++ level) imm)
  | .chunk d n => some (eI 0x34 d 0 0 0 (loNib n))
  | .endI => some (eA 0x35 0x00 0 0 0 0)
  | .yieldI => some (eA 0x35 0x01 0 0 0 0)
  | .trap a code => some (eI 0xE2 0 a 0 0 ((0 : BitVec 16) ++ code))
  | .bkpt a code => some (eI 0xE3 0 a 0 0 ((0 : BitVec 16) ++ code))
  | .trmark a code => some (eI 0xE4 0 a 0 0 ((0 : BitVec 16) ++ code))
  | .srd d n => some (eI 0xE0 d 0 0 0 (loS n 0))
  | .swr n a => some (eI 0xE0 0 a 0 0 (loS n 1))
  | .sw1c n a => some (eI 0xE0 0 a 0 0 (loS n 2))
  | .cntrd d n => some (eI 0xE1 d 0 0 0 (loS n 0))
  | .ld8 d a o imm => some (eLoad 0x40 0 d a o imm)
  | .ld16 d a o imm => some (eLoad 0x40 1 d a o imm)
  | .ld32 d a o imm => some (eLoad 0x40 2 d a o imm)
  | .ld64 d a o imm => some (eLoad 0x40 3 d a o imm)
  | .ldz8 d a o imm => some (eLoad 0x41 0 d a o imm)
  | .ldz16 d a o imm => some (eLoad 0x41 1 d a o imm)
  | .ldz32 d a o imm => some (eLoad 0x41 2 d a o imm)
  | .st8 a b o imm => some (eStore 0 a b o imm)
  | .st16 a b o imm => some (eStore 1 a b o imm)
  | .st32 a b o imm => some (eStore 2 a b o imm)
  | .st64 a b o imm => some (eStore 3 a b o imm)
  | .vld d a o imm => some (eI 0x43 (fromV d) a 0 (szOrd 6 (ordField o)) imm)
  | .vst a b o imm => some (eI 0x44 0 a (fromV b) (szOrd 6 (ordField o)) imm)
  | .get d a b sz imm => some (eI 0x45 d a b (szOrd sz.code 0) imm)
  | .put d a b sz o imm => some (eI 0x46 d a b (szOrd sz.code (ordField o)) imm)
  | .aadd d a b w o imm => some (eAtomic 0x48 d a b w o imm)
  | .afadd d a b o imm => some (eAtomic 0x49 d a b false o imm)
  | .amin d a b w o imm => some (eAtomic 0x4A d a b w o imm)
  | .amax d a b w o imm => some (eAtomic 0x4B d a b w o imm)
  | .aminn d a b w o imm => some (eAtomic 0x4C d a b w o imm)
  | .amaxn d a b w o imm => some (eAtomic 0x4D d a b w o imm)
  | .aand d a b w o imm => some (eAtomic 0x4E d a b w o imm)
  | .aor d a b w o imm => some (eAtomic 0x4F d a b w o imm)
  | .axor d a b w o imm => some (eAtomic 0x50 d a b w o imm)
  | .aswap d a b w o imm => some (eAtomic 0x51 d a b w o imm)
  | .acas d a b w o imm => some (eAtomic 0x52 d a b w o imm)
  | .aclaim d a b w o imm => some (eAtomic 0x53 d a b w o imm)
  | .fence sc => some (eA 0x54 0x00 0 0 ((0 : BitVec 3) ++ sc.code) 0)
  | .xfence p1 p2 => some (eA 0x54 0x01 0 0 0 ((0 : BitVec 2) ++ p1.code ++ p2.code : BitVec 6))
  | .drain p a => some (eA 0x54 0x02 0 a 0 ((0 : BitVec 4) ++ p.code))
  | .barrive a b c h sc n => some (eI 0x55 0 a b c (loX h (sc.code ++ n ++ (0 : BitVec 13) : BitVec 20)))
  | .watchRegister d a b c h | .watchCancel d a b c h => some (eI 0x56 d a b c (loX h 0))
  | .send d a b c h nr => some (eI 0x60 d a b c (loX h (subNorel nr)))
  | .reply a b c nr => some (eI 0x61 0 a b c (loX 0 (subNorel nr)))
  | .sendm d a b c h nr n => some (eI 0x62 d a b c (loX h (bitOf nr ++ n ++ (0 : BitVec 12) : BitVec 20)))
  | .post a b nr => some (eI 0x63 0 a b 0 (loX 0 (subNorel nr)))
  | .msgld8 d a imm => some (eI 0x64 d a 0 (szOrd 0 0) imm)
  | .msgld16 d a imm => some (eI 0x64 d a 0 (szOrd 1 0) imm)
  | .msgld32 d a imm => some (eI 0x64 d a 0 (szOrd 2 0) imm)
  | .msgld64 d a imm => some (eI 0x64 d a 0 (szOrd 3 0) imm)
  | .tagnew d n => some (eI 0x65 d 0 0 0 (loNib n))
  | .tagfree a n => some (eI 0x66 0 a 0 0 (loNib n))
  | .tagpark d n => some (eI 0x67 d 0 0 0 (loNib n))
  | .arm d a b c h act prio => some (eI 0x68 d a b c (loX h (bitOf act ++ prio ++ (0 : BitVec 17) : BitVec 20)))
  | .qpush d a b => some (eA 0x69 0x00 d (fromX a) b 0)
  | .qpop d a => some (eA 0x69 0x01 d (fromX a) 0 0)
  | .qwait d a b => some (eA 0x69 0x02 d (fromX a) b 0)
  | .qadv d a b => some (eA 0x69 0x03 d (fromX a) b 0)
  | .wput a b c => some (eA 0x6A 0x00 0 a b c)
  | .wtakeFirst d a | .wtakeStatus d a | .wtakeEmpty d a => some (eA 0x6A 0x01 d a 0 0)
  | .jrec d a b c => some (eA 0x6B 0x00 d a b c)
  | .jemit d a b c => some (eA 0x6B 0x01 d a b c)
  | .jckpt d a b => some (eA 0x6B 0x02 d a b 0)
  | .jtruncCheckpoint d a | .jtruncClose d a => some (eA 0x6B 0x03 d a 0 0)
  | .vadd d a b m f r => some (eVR 0x80 0x00 (fromV d) (fromV a) (fromV b) 0 m f r)
  | .vsub d a b m f r => some (eVR 0x80 0x01 (fromV d) (fromV a) (fromV b) 0 m f r)
  | .vmul d a b m f r => some (eVR 0x80 0x02 (fromV d) (fromV a) (fromV b) 0 m f r)
  | .vdiv d a b m f r => some (eVR 0x80 0x03 (fromV d) (fromV a) (fromV b) 0 m f r)
  | .vmin d a b m f r => some (eVR 0x80 0x04 (fromV d) (fromV a) (fromV b) 0 m f r)
  | .vmax d a b m f r => some (eVR 0x80 0x05 (fromV d) (fromV a) (fromV b) 0 m f r)
  | .vabs d a m f r => some (eVR 0x80 0x06 (fromV d) (fromV a) 0 0 m f r)
  | .vneg d a m f r => some (eVR 0x80 0x07 (fromV d) (fromV a) 0 0 m f r)
  | .vsqrt d a m f r => some (eVR 0x80 0x08 (fromV d) (fromV a) 0 0 m f r)
  | .vand d a b m => some (eV 0x80 0x09 (fromV d) (fromV a) (fromV b) 0 m 0 false 0)
  | .vor d a b m => some (eV 0x80 0x0A (fromV d) (fromV a) (fromV b) 0 m 0 false 0)
  | .vxor d a b m => some (eV 0x80 0x0B (fromV d) (fromV a) (fromV b) 0 m 0 false 0)
  | .vsll d a b m f => some (eV 0x80 0x0C (fromV d) (fromV a) (fromV b) 0 m f.code false 0)
  | .vsrl d a b m f => some (eV 0x80 0x0D (fromV d) (fromV a) (fromV b) 0 m f.code false 0)
  | .vsra d a b m f => some (eV 0x80 0x0E (fromV d) (fromV a) (fromV b) 0 m f.code false 0)
  | .vfma d a b c m f r => some (eVR 0x81 0x00 (fromV d) (fromV a) (fromV b) (fromV c) m f r)
  | .vfms d a b c m f r => some (eVR 0x81 0x01 (fromV d) (fromV a) (fromV b) (fromV c) m f r)
  | .vfnma d a b c m f r => some (eVR 0x81 0x02 (fromV d) (fromV a) (fromV b) (fromV c) m f r)
  | .vfnms d a b c m f r => some (eVR 0x81 0x03 (fromV d) (fromV a) (fromV b) (fromV c) m f r)
  | .vcmpeq d a b m f md => some (eV 0x82 0x00 (fromK d) (fromV a) (fromV b) 0 m f.code false md.code)
  | .vcmpne d a b m f md => some (eV 0x82 0x01 (fromK d) (fromV a) (fromV b) 0 m f.code false md.code)
  | .vcmplt d a b m f md => some (eV 0x82 0x02 (fromK d) (fromV a) (fromV b) 0 m f.code false md.code)
  | .vcmple d a b m f md => some (eV 0x82 0x03 (fromK d) (fromV a) (fromV b) 0 m f.code false md.code)
  | .vcmpun d a b m f md => some (eV 0x82 0x04 (fromK d) (fromV a) (fromV b) 0 m f.code false md.code)
  | .vsel d a b m => some (eV 0x83 0x00 (fromV d) (fromV a) (fromV b) 0 m 0 false 0)
  | .vperm d a b m f md => some (eV 0x84 0x00 (fromV d) (fromV a) (fromV b) 0 m f.code false md.code)
  | .vbcast d a m f md => some (eV 0x84 0x01 (fromV d) a 0 0 m f.code false md.code)
  | .vslide d a b c m f md => some (eV 0x84 0x02 (fromV d) (fromV a) (fromV b) (fromV c) m f.code false md.code)
  | .vzip d a b m f md => some (eV 0x84 0x03 (fromV d) (fromV a) (fromV b) 0 m f.code false md.code)
  | .vunzip d a b m f md => some (eV 0x84 0x04 (fromV d) (fromV a) (fromV b) 0 m f.code false md.code)
  | .vins d a b m f md => some (eV 0x84 0x05 (fromV d) (fromV a) b 0 m f.code false md.code)
  | .vext d a m f md => some (eV 0x84 0x06 d (fromV a) 0 0 m f.code false md.code)
  | .vcvt d a m dst src r => some (eVR 0x85 ((0 : BitVec 4) ++ dst.code) (fromV d) (fromV a) 0 0 m src r)
  | .quant d a b m f r => some (eVR 0x86 0x00 (fromV d) (fromV a) (fromV b) 0 m f r)
  | .dequant d a b m f r => some (eVR 0x86 0x01 (fromV d) (fromV a) (fromV b) 0 m f r)
  | .dequantChannel d b m r => some (eVR 0x86 0x01 (fromV d) 0 (fromV b) 0 m .f32 r)
  | .vredadd d a m f r => some (eVR 0x87 0x00 (fromV d) (fromV a) 0 0 m f r)
  | .vredmin d a m f r => some (eVR 0x87 0x01 (fromV d) (fromV a) 0 0 m f r)
  | .vredmax d a m f r => some (eVR 0x87 0x02 (fromV d) (fromV a) 0 0 m f r)
  | .vscanadd d a m f r => some (eVR 0x87 0x10 (fromV d) (fromV a) 0 0 m f r)
  | .vscanmin d a m f r => some (eVR 0x87 0x11 (fromV d) (fromV a) 0 0 m f r)
  | .vscanmax d a m f r => some (eVR 0x87 0x12 (fromV d) (fromV a) 0 0 m f r)
  | .vexp2 d a m f sat => some (eV 0x88 0x00 (fromV d) (fromV a) 0 0 m f.code sat 0)
  | .vlog2 d a m f sat => some (eV 0x88 0x01 (fromV d) (fromV a) 0 0 m f.code sat 0)
  | .vrcp d a m f sat => some (eV 0x88 0x02 (fromV d) (fromV a) 0 0 m f.code sat 0)
  | .vrsqrt d a m f sat => some (eV 0x88 0x03 (fromV d) (fromV a) 0 0 m f.code sat 0)
  | .vsin d a m f sat => some (eV 0x88 0x04 (fromV d) (fromV a) 0 0 m f.code sat 0)
  | .vcos d a m f sat => some (eV 0x88 0x05 (fromV d) (fromV a) 0 0 m f.code sat 0)
  | .vtanh d a m f sat => some (eV 0x88 0x06 (fromV d) (fromV a) 0 0 m f.code sat 0)
  | .vsigm d a m f sat => some (eV 0x88 0x07 (fromV d) (fromV a) 0 0 m f.code sat 0)
  | .vexp d a m f sat => some (eV 0x88 0x08 (fromV d) (fromV a) 0 0 m f.code sat 0)
  | .vpacknz d a b m f md => some (eV 0x89 0x00 (fromV d) (fromV a) (fromV b) 0 m f.code false md.code)
  | .vtopk d a b c m md => some (eV 0x8A 0x00 (fromV d) (fromV a) (fromV b) (fromV c) m 0 false md.code)
  | .vargmax d a m md => some (eV 0x8A 0x01 (fromV d) (fromV a) 0 0 m 0 false md.code)
  | .kand d a b => some (eA 0x8B 0x00 (fromK d) (fromK a) (fromK b) 0)
  | .kor d a b => some (eA 0x8B 0x01 (fromK d) (fromK a) (fromK b) 0)
  | .kxor d a b => some (eA 0x8B 0x02 (fromK d) (fromK a) (fromK b) 0)
  | .knot d a => some (eA 0x8B 0x03 (fromK d) (fromK a) 0 0)
  | .kmov d a => some (eA 0x8B 0x04 (fromK d) a 0 0)
  | .krd d a => some (eA 0x8B 0x05 d (fromK a) 0 0)
  | .kpopc d a => some (eA 0x8B 0x06 d (fromK a) 0 0)
  | .dld d a o imm => some (eI 0xC0 (fromX d) a 0 (szOrd 5 (ordField o)) imm)
  | .opaMma d a => some (eA 0xC1 0x00 d (fromX a) 0 0)
  | .opaSel d a => some (eA 0xC1 0x01 d (fromX a) 0 0)
  | .opaSparse d a => some (eA 0xC1 0x02 d (fromX a) 0 0)
  | .opaZero d a => some (eA 0xC1 0x03 d (fromX a) 0 0)
  | .opaDrain d a => some (eA 0xC1 0x04 d (fromX a) 0 0)
  | .wbload d a => some (eA 0xC2 0x00 d (fromX a) 0 0)
  | .wbevict d a => some (eA 0xC2 0x01 d (fromX a) 0 0)
  | .wbpin d a => some (eA 0xC2 0x02 d (fromX a) 0 0)
  | .wbunpin d a => some (eA 0xC2 0x03 d (fromX a) 0 0)
  | .cplin d a => some (eA 0xC3 0x00 d (fromX a) 0 0)
  | .cp2d d a => some (eA 0xC3 0x01 d (fromX a) 0 0)
  | .cpten d a b => some (eA 0xC3 0x02 d (fromX a) (fromX b) 0)
  | .gather d a b => some (eA 0xC4 0x00 d (fromX a) (fromX b) 0)
  | .scatter d a b => some (eA 0xC4 0x01 d (fromX a) (fromX b) 0)
  | .eresume d a => some (eA 0xC5 0x00 d (fromX a) 0 0)
  | .estat d a => some (eA 0xC5 0x01 d (fromX a) 0 0)
  | .spload d a => some (eA 0xC6 0x00 d (fromX a) 0 0)
  | .spseed d a => some (eA 0xC6 0x01 d (fromX a) 0 0)
  | _ => none

/-- The instruction that the decoder gives for the words that several rows share, where a register's value at
execution tells the rows apart (R104, R123, R127). -/
def canon : Instr → Instr
  | .watchCancel d a b c h => .watchRegister d a b c h
  | .wtakeStatus d a => .wtakeFirst d a
  | .wtakeEmpty d a => .wtakeFirst d a
  | .jtruncClose d a => .jtruncCheckpoint d a
  | i => i

end Sys2Proof
end

