-- ==== Sys2Proof/Config.lean ====
section
/-! DEFINITION. What the spec fixes for every NY4, and the values it leaves open. An opaque constant has no body:
nothing can be proved of its value. Its entry in notes/assumptions names it. -/

namespace Sys2Proof.Config

/-- Core positions, quads, contexts, dies (00 R3). -/
def nCores : Nat := 1024
def nQuads : Nat := 256
def nCtx : Nat := 32
def nSlots : Nat := 8
/-- Scratchpad bytes of a core: 384 KiB (12 R237). -/
def scratchBytes : Nat := 393216
/-- Returning accesses of a slot (05 R88). -/
def maxReturning : Nat := 16
/-- Array commands of a core (08 R162). -/
def arrayPerCore : Nat := 4
/-- Requests that a TLB slice holds, and walks that it runs (17 R297, R298). -/
def heldPerSlice : Nat := 256
def walksPerSlice : Nat := 16
/-- Instructions between forced safe points (01 R18). -/
def forcedCount : Nat := 4096

/-- Which die positions are spare at first power-on: the last four of each die (00 R3 gives four of 64; DESIGN
CHOICE, log 7). -/
def spareAtFirst (q : Nat) : Bool := decide (60 ≤ q % 64)

/-- A value that the spec leaves open: the `n`th one that a run takes (log 3). -/
opaque freeNat : Nat → Nat

/-- A transcendental code of f32, by function (0 VEXP2 to 8 VEXP, Table 07-4) and input code. Each NY4 has one
fixed function of the input (07 R149); the spec bounds it and does not give it (log 8). -/
opaque transF32 : Nat → BitVec 32 → BitVec 32

/-- SLH-DSA-SHAKE-256f signature of bytes by the hub's key, as one function of a module and its statement number
(22 R373, log 9). -/
opaque sign : List Byte → List Byte

/-- Whether the hub's firmware carries image-authority key `k`, and that key: its seed and its root, 32 bytes each (23 R375,
log 9). -/
opaque keyLoaded : Nat → Bool
opaque imageKey : Nat → List Byte

/-- The hub's public key and the measurement of its firmware (22 Table 22-4, log 9). -/
opaque hubPublicKey : List Byte
opaque firmwareMeasurement : List Byte

/-- Flits of an output buffer of a router beyond one whole message: the spec gives no size (11 R230, log 46). -/
opaque bufferFlits : Nat

/-- Flits of VN0 and of VN1 that a Druntasy port's peer takes beyond one frame: the spec gives no size (18 R311, R319,
log 46). -/
opaque linkFlits : Nat

/-- The handle that an entry of a handler table, of 8 bytes, binds to ring register `k`; 0 where it binds none
(01 Table 01-1, log 20). -/
opaque ringBinding : Nat → Nat → BitVec 64

/-- How far the cycle count of a die stands ahead of the module's: less than 3 after reduction (04 R85, log 2). -/
opaque dieSkew : Nat → Nat

end Sys2Proof.Config
end

