-- ==== Sys2Proof/Machine/State.lean ====
section
/-! DEFINITION. The whole state of one NY4 module, as plain data, and its value right after reset. Each field names
the rule that gives it. Fields marked MODEL are the model's own bookkeeping. -/

namespace Sys2Proof.Machine

open Sys2Proof

/-- A sparse table: an index that is not listed holds the default that its reader names. -/
abbrev Tab (α : Type) := List (Nat × α)

/-- The seven sticky flags (01 R16, Table 01-3). -/
structure Flags where
  rc : Bool := false
  sat : Bool := false
  nv : Bool := false
  dz : Bool := false
  ovf : Bool := false
  unf : Bool := false
  nx : Bool := false
  deriving DecidableEq, Repr

/-- A register destination of a result that is written later (01 R12, R19). -/
inductive Dest where
  | none
  | g (r : GReg)
  | v (r : VReg)
  | d (r : XReg)
  /-- gD and a handle: the reply of a ring operation (06 R120). -/
  | ring (r : GReg) (q : XReg)
  /-- No register: the completion of a write of CHKn, a result that a park waits for (01 R17, 04 R85). -/
  | chunk
  deriving DecidableEq, Repr

/-- A result issued and not yet written (01 R12, R17, R19). -/
structure Pend where
  id : Nat
  dst : Dest
  /-- No younger instruction has written the destination: the result is still to be written (R12). -/
  live : Bool
  /-- One of the slot's 16 returning accesses (05 R88). -/
  returning : Bool
  /-- The result, when its unit has already formed it. -/
  value : Option Word
  deriving DecidableEq, Repr

/-- A vector instruction issued and not yet complete (07 R132): its writes, its flags, and what it adds to VEC
(22 R365). -/
structure VPend where
  vw : List (VReg × VWord)
  kw : Option (KReg × KWord)
  gw : Option (GReg × Word)
  /-- Which of the writes a younger one has not replaced (R12). -/
  glive : Bool
  flags : Flags
  vec : Option (Nat × Nat)
  deriving DecidableEq, Repr

/-- Why an instance exists, for the gleaner (22 R368). -/
inductive Cause where
  | none
  | message (chip core stamp : Nat)
  | sheaf (chip core stamp : Nat)
  | counter (chip core stamp : Nat)
  | tagHand (inum : Nat)
  /-- The issuing instance of an engine's command: logical core and number. -/
  | engine (core inum : Nat)
  deriving DecidableEq, Repr

/-- The handler header (03 Table 03-8). -/
structure HHdr where
  prio : Nat
  join : Nat
  gcnt : Nat
  vcnt : Nat
  dcnt : Nat
  rsf : Bool
  rcl : Bool
  glive : Nat
  vlive : Nat
  dlive : Nat
  budget : Nat
  len : Nat
  deriving DecidableEq, Repr

/-- Why the slot of an instance is stopped (18, 16 R288, 21 R348, 22 R371). The number is byte 40 of its slot
record: 0 safe point, 4 page fault, 5 dump, 6 stop (16 Table 16-7). -/
inductive Stopped where
  | no
  | pending
  | halted (code : Nat)
  deriving DecidableEq, Repr

/-- One memory, as DRAIN names it (05 R101). -/
inductive MemName where
  | scratch (p : Nat)
  | accum (q : Nat)
  | wbuf (q : Nat)
  | stack (s : Nat)
  | chip (r : Nat)
  deriving DecidableEq, Repr

/-- The registers and the running state of a handler instance (01 R9 to R19). -/
structure Inst where
  /-- MODEL: the instance's number in the run. -/
  iid : Nat
  ctx : Nat
  lcore : Nat
  gen : Nat
  hidx : Nat
  tag : Nat
  hdr : HHdr
  /-- Code address of word index 0 (04 R62). -/
  hbase : Word
  pc : Word
  g : Vector Word 64
  v : Vector VWord 32
  k : Vector KWord 8
  m : Vector Word 16
  d : Vector DWord 16
  q : Vector Word 16
  link : Word
  /-- PRIO, JOIN, REPLY and RSAFE of the status word (Table 01-3). -/
  prio : Nat
  join : Bool
  reply : Bool
  rsafe : Bool
  flags : Flags
  /-- Payload bytes 64 to 255, held in the queue entry (06 R115, 10 R207), and the priority whose entry is held. -/
  tail : List Byte
  heldPrio : Option Nat
  /-- The side-band scale paired with the message (11 R235). -/
  scale : Option (BitVec 16)
  pend : List Pend
  vpend : List VPend
  /-- Operations that a FENCE waits to be performed; those that an XFENCE or DRAIN waits to complete; the acquiring
  access that later memory accesses wait for; the requests to the hub that a later journal instruction waits for
  (05 R91, R99 to R101). -/
  fenceOn : List Nat
  drainOn : List Nat
  /-- Operations of which a DRAIN waits for those into a memory: an operation, and the memory (05 R101). -/
  drainInto : List (Nat × MemName)
  acquireOn : List Nat
  hubOn : List Nat
  /-- A JEMIT, RING or engine answer without which the slot does not go on (Table 01-5). -/
  waitOn : Option Nat
  /-- The instruction that waits for a page (01 R18, 17 R299): the requests held. -/
  pageWait : List Nat
  /-- Instructions issued since dispatch or the last safe point (R17), and since pre-emption became pending (R18). -/
  sinceSafe : Nat
  sincePre : Nat
  stopped : Stopped
  /-- Started by a fault record (21 R346). -/
  fromFault : Bool
  inum : Nat
  cause : Cause
  /-- The loop check of the boundary at `pc` waits for a result to g1 or g2 (R12, 04 R76): `pc` still names the word
  that has issued. -/
  edge : Bool
  /-- The oldest of 16 returning accesses, for which a 17th waits (05 R88). -/
  fullOn : Option Nat
  /-- Registers that hold an uncorrectable error, until they are written or read (21 Table 21-4). -/
  bad : List RegName
  deriving DecidableEq, Repr

/-- Who made a request: what a reply or a fault record needs of the instance (21 R345, 17 R301). -/
structure Who where
  ctx : Nat
  lcore : Nat
  p : Nat
  sl : Nat
  iid : Nat
  gen : Nat
  hidx : Nat
  tag : Nat
  iaddr : Word
  fromFault : Bool
  inum : Nat
  deriving DecidableEq, Repr

/-- The four paths, and `snd` for messages and `hub` for requests to the hub (05 Table 05-1). -/
inductive OpPath where
  | ls | cp | gs | ar | snd | hub
  deriving DecidableEq, Repr

/-- An operation of a core that has not completed (05 R89). -/
structure Op where
  id : Nat
  ctx : Nat
  iid : Nat
  path : OpPath
  /-- Reads only. -/
  rd : Bool
  /-- A read whose value its owner has taken (12 Table 12-4). -/
  taken : Bool
  /-- On a peer chip or the host. -/
  peer : Bool
  /-- The memories it is into; ranges (first address, length) that translation has not yet fixed; and whether the spring has
  still to say what it touches (05 R101). -/
  mems : List MemName
  loose : List (Nat × Nat)
  unserved : Bool
  /-- The virtual 64-byte blocks of a request, by context (11 R231). -/
  blks : List (Nat × Nat)
  /-- The bytes it touches: (context, first address, length) (05 R92). -/
  span : List (Nat × Nat × Nat)
  deriving DecidableEq, Repr

/-- A message in a queue, the silo or the flush reserve (10 R207, R210), with its stamp. -/
inductive QItem where
  | msg (m : Msg)
  /-- A fired sheaf: lead header, operands, note (10 R217, R219). -/
  | sheaf (lead : Hdr) (ops : List Word) (note : Nat × Nat × Nat)
  /-- A woken continuation record (10 R220). -/
  | wake (rec : Nat)
  deriving DecidableEq, Repr

structure QEntry where
  item : QItem
  prio : Nat
  stamp : Nat
  cause : Cause
  /-- A fault record: its instance is one that a fault record started (21 R346). -/
  record : Bool
  /-- It may be dispatched: false for a wake whose record has not been read (10 R220). -/
  ready : Bool
  /-- The record of the message pool or of the flush reserve that it stands in (10 R210). -/
  place : Option Nat
  deriving DecidableEq, Repr

/-- A sheaf (10 Table 10-5). -/
structure Sheaf where
  gen : Nat
  hidx : Nat
  tag : Nat
  arity : Nat
  count : Nat
  /-- Operand slots: the word kept, its source (SCHIP, SCORE) and its header. -/
  opnds : List (Option (Word × Nat × Nat × Hdr))
  /-- The lead arrival: its first payload word and header. -/
  lead : Option (Word × Hdr)
  note : Nat × Nat × Nat
  deriving DecidableEq, Repr

/-- A tag group (06 Table 06-4, R117): the tags that are live, and the continuation records parked, oldest first. -/
structure TagGroup where
  base : Nat
  span : Nat
  limit : Nat
  live : List Nat
  parked : List Nat
  deriving DecidableEq, Repr

/-- A weir entry: key and ID in arrival order within equals (06 R122). -/
structure Weir where
  entries : List (BitVec 32 × Nat)
  drop : Nat
  tie : Bool
  deriving DecidableEq, Repr

/-- What a continuation waits for (10 Table 10-6, byte 40). -/
inductive ParkWait where
  | tag (n : Nat)
  | ring (block : Nat)
  | gate (seq step : BitVec 32)
  deriving DecidableEq, Repr

/-- A continuation record (01 R17, 10 Table 10-6): the instance with its live set, the register that the wake
writes, and the values that the wake hands over. -/
structure Cont where
  inst : Inst
  wait : ParkWait
  dst : GReg
  /-- Written at resumption: gD, and CUR of a handle (06 R117, R121). -/
  value : Option Word
  cur : Option (XReg × Nat)
  /-- A JEMIT that parked: route, token word, step word (06 R126). -/
  emit : Option (Word × Word × Word)
  wcause : Cause
  deriving DecidableEq, Repr

/-- Who is told when a memory request is answered (05 R89, 11 Table 11-4). -/
inductive Answer where
  /-- A load, VLD, DLD or atomic: destination, sign extension width when signed. -/
  | reg (dst : Dest) (signed : Option Nat)
  /-- ACLAIM: the claim's bound and width in bytes decide gD (05 Table 05-3). -/
  | claim (dst : Dest) (bound : Nat)
  /-- GET: scratchpad address and note. -/
  | get (pa : Nat) (note : Option Nat)
  /-- A store, PUT or atomic with D = g0: note of a PUT. -/
  | ack (note : Option Nat)
  /-- ARM's descriptor (06 R118): counter, target, gD. -/
  | arm (dst : GReg) (ctr : Nat) (target : Nat)
  /-- SPLOAD's words (09 R194): gD, descriptor and byte position of this part. -/
  | spload (dst : GReg) (desc : DWord)
  /-- WATCH (05 R104). -/
  | watch (dst : GReg)
  /-- A cancelling WATCH of a peer's word: the peer answers the number of entries that it has removed. -/
  | unwatch (dst : GReg)
  /-- A gather element (08 R177): core position, command number, element. -/
  | elem (p cmd n : Nat)
  /-- A piece of an engine's access to a peer chip: core position, command number, piece (08 R160, R166, R173). -/
  | piece (p cmd n : Nat)
  /-- A DRAIN of an unmapped address that parked (05 R101). -/
  | probe
  /-- A peer's request, answered on its port (18 R313): chip, remote-table entry, port. -/
  | peer (chip eidx port : Nat)
  /-- A host window access (18 R307). -/
  | host
  deriving DecidableEq, Repr

/-- Where a translated request goes. -/
inductive Target where
  | here (pa : Nat)
  | chip (rank : Nat) (pa : Nat)
  deriving DecidableEq, Repr

/-- A ring operation (06 R120, R121). -/
inductive RingOp where
  | push (v : Word) | pop | adv (n : Nat) | wait (n : Nat) (rec : Nat)
  deriving DecidableEq, Repr

/-- A ring operation's request (06 R120): its handle's register, the consumer's cursor and gD. -/
structure RingReq where
  op : RingOp
  handle : XReg
  cur : Nat
  dst : GReg
  deriving DecidableEq, Repr

/-- A memory request (05, 17). -/
structure MemReq where
  op : MemOp
  ctx : Nat
  va : Nat
  n : Nat
  data : List Byte
  expect : Word
  /-- PUT's scratchpad source, read when the request leaves the order queue (05 R94). -/
  src : Option Nat
  region : Nat
  page : Nat
  target : Option Target
  ans : Answer
  /-- A ring operation on the control block at `va`. -/
  ring : Option RingReq
  /-- The slice has answered that its page is absent (17 R299). -/
  pfSent : Bool
  /-- An engine's or a program's range of several 64-byte blocks is applied block by block (12 R242): the bytes applied,
  the data read so far, and where the range goes on in the page after its first: offset and target, as the slice
  translated it (17 R296). -/
  off : Nat := 0
  got : List Byte := []
  later : Option (Nat × Target) := none
  /-- The page that a slice looks up when it is not the one of `va`: the later page of a range, or the page of a ring's BASE or
  entry (17 R298): its region, its number, and the address in it. -/
  look : Option (Nat × Nat × Nat) := none
  /-- The pages, by die, region and number, through which a slice or an engine has translated it (17 R303). -/
  via : List (Nat × Nat × Nat) := []
  deriving DecidableEq, Repr

/-- A peer's WATCH of a word of this chip (05 R104): the watcher's rank and logical core. -/
structure PeerWatch where
  rank : Nat
  lcore : Nat
  pa : Nat
  va : Nat
  hidx : Nat
  value : Word
  deriving DecidableEq, Repr

/-- A request to the hub's journal (06 R124 to R127). -/
inductive JReq where
  /-- JREC: record address, record bytes, digest, gD. -/
  | jrec (addr : Nat) (bytes : List Byte) (digest : BitVec 32) (dst : GReg)
  /-- JEMIT: step word, route, token word, gD. -/
  | jemit (step route token : Word) (dst : GReg)
  /-- JCKPT: step word and locator. -/
  | jckpt (step locator : Word)
  /-- JTRUNC of the records before the latest checkpoint, and of the whole sequence. -/
  | jtrunc (seq : BitVec 32)
  | jclose (seq : BitVec 32)
  deriving DecidableEq, Repr

/-- What the hub answers, by its bridge (11 R227): gD, or a fault with its DET, and the bytes that a replayed JREC writes at the
core; a JEMIT's message may go, or its gate is shut, and may have opened since it was judged (06 R125, R126, 20 R335). `lost`: a
JEMIT that did not reach the hub. -/
inductive HubAns where
  | done (gd : Word) (wr : Option (Nat × List Byte))
  | fault (code det : Nat) (wr : Option (Nat × List Byte))
  | emit (step route token : Word) (dst : GReg)
  | shut (step route token : Word) (dst : GReg) (opened : Bool)
  | lost (gd : Word) (dst : GReg)
  deriving DecidableEq, Repr

/-- A parked consumer that a ring's WAITER word names (06 R121): the control block, the word that stands there, and
the continuation's chip, logical core and record. -/
structure Waiter where
  pa : Nat
  word : Word
  rank : Nat
  lcore : Nat
  recNo : Nat
  /-- Entries that it waits for. -/
  need : Nat
  deriving DecidableEq, Repr

/-- A barrier arrival (05 R102, R383). -/
structure BArr where
  ctx : Nat
  level : Nat
  n : Nat
  target : Nat
  value : Word
  rank : Nat
  lcore : Nat
  hidx : Nat
  tag : Nat
  deriving DecidableEq, Repr

/-- What a message's acceptance acknowledgement tells its sender (06 R110, 18 R314, R315). -/
inductive Track where
  | none
  /-- A fault record of this chip (21 R346): nothing is told. -/
  | record
  | send
  /-- A REPLY on this chip: its acknowledgement tells the sender's log its stamp, and nothing else (22 R368). -/
  | reply
  /-- Member of a SENDM through a reservation of the sending core. -/
  | member (res : Nat)
  /-- A gather element's value message. -/
  | elem (p cmd : Nat)
  /-- An initial message of a launch (16 R276). -/
  | initial (ctx : Nat)
  /-- A peer's message, acknowledged on its port. -/
  | peer (chip eidx port : Nat)
  deriving DecidableEq, Repr

/-- What a flight carries. -/
inductive Body where
  | req (r : MemReq)
  | rep (r : MemReq) (mst : Nat) (data : List Byte)
  /-- A slice's page-fault reply (17 R299). -/
  | pf (reqId : Nat)
  | msg (m : Msg) (t : Track)
  /-- An acceptance acknowledgement: RSTAT, arrival stamp, what it answers, and for a member its MIDX and MCNT. -/
  | ack (t : Track) (rstat : Nat) (stamp : Nat) (midx : Nat) (opId : Nat) (chip core : Nat)
  /-- A ring owner's reply: gD, the new CUR, and the fault when the operation failed its checks at the owner. -/
  | ringRep (r : RingReq) (gd : Word) (cur : Option Nat) (bad : Option (Nat × Nat × Nat))
  /-- A ring owner's dispatch of a parked consumer (06 R121): its record, gD and CUR. -/
  | ringWake (lcore rec : Nat) (gd : Word) (cur : Nat)
  | wput (key : BitVec 32) (ident : Nat) (note : Option Nat) (chip lcore : Nat)
  | barrier (a : BArr)
  /-- A unit on its way through this chip to another of the pod (18 R311): that chip's coordinate. -/
  | transit (x y z : Nat) (u : PeerUnit)
  | hubReq (j : JReq)
  | hubRep (a : HubAns)
  /-- A CNTRD on its way back: counter number and sticky bit wanted (04 R86). -/
  | cntrd (n : Nat) (sticky : Bool)
  deriving DecidableEq, Repr

/-- The unit that a flight is bound for, at its destination router (11 R226, R227). -/
inductive Goal where
  | core (p : Nat)
  | slice (die sl : Nat)
  | owner
  | hub (die : Nat)
  | egress (port : Nat)
  | barrier
  deriving DecidableEq, Repr

/-- Where a flight is. -/
inductive Stage where
  /-- In its core's order queue (05 R90, 11 R231). -/
  | held
  /-- At a router; `escape` once it has taken VN0's escape lane. -/
  | router (x y : Nat) (escape : Bool)
  /-- In an output buffer of a router: in X or in Y, the positive way, adaptive or escape (11 R230). -/
  | lane (x y : Nat) (inX up escape : Bool)
  /-- On a die-to-die link, bound for a router (11 R229). -/
  | link (l : Nat) (x y : Nat) (escape : Bool)
  /-- At its slice: waiting for a walk, joined to one, held on an absent page's word, or returned (17 R297, R298). -/
  | sliceWait
  | sliceWalk (word : Nat) (level : Nat) (table : Nat)
  | sliceJoin (walker : Nat)
  | sliceHeld (word : Nat) (written : Bool)
  | sliceBack
  /-- Off the chip, with its remote-table entry (18 R316). -/
  | remote (port eidx : Nat)
  /-- Deferred in a silo of a context that is being or has been saved (16 R288), in a record of its flush reserve. -/
  | deferred (lc : Nat) (stamp : Nat) (rec : Nat)
  deriving DecidableEq, Repr

/-- A request, a reply or a message under way. -/
structure Flight where
  id : Nat
  /-- The operation of the issuing core that it belongs to. -/
  opId : Nat
  who : Who
  /-- VN1. -/
  reply : Bool
  /-- Virtual-channel class, which changes where a wrap edge is crossed (11 R230, R232). -/
  vc : Bool
  body : Body
  goal : Goal
  dx : Nat
  dy : Nat
  /-- Router at which it entered the fabric. -/
  sx : Nat
  sy : Nat
  stage : Stage
  /-- Number of its arrival at the present router: messages cross a lane in that order (11 R228). -/
  arr : Nat
  /-- Cycle of that arrival, and the input port, ten times its place in Table 11-2 (11 R226). -/
  cyc : Nat
  inp : Nat
  /-- Operations that it waits for in the order queue, to complete or to be performed. -/
  after : List Nat
  afterPerf : List Nat
  /-- A releasing access or send: discarded when an error reply reaches its instance (18 R318). -/
  releasing : Bool
  /-- Of a peer's unit, the coordinate of the chip that it came from; of an answer to it, the one that it returns to. -/
  home : Option (Nat × Nat × Nat)
  deriving DecidableEq, Repr

/-- A reply reservation (06 R111, 18 R315). -/
structure Resv where
  ctx : Nat
  rhidx : Nat
  gen : Nat
  /-- Merge record of a SENDM: bitmap, members answered, MCNT. -/
  merge : Option (Word × Nat × Nat)
  /-- The waiting reply and its stamp. -/
  reply : Option (Msg × Nat)
  deriving DecidableEq, Repr

/-- A monitor entry (05 R104). -/
structure Mon where
  id : Nat
  ctx : Nat
  va : Nat
  pa : Target
  hidx : Nat
  value : Word
  /-- The owner has acknowledged the registration. -/
  live : Bool
  deriving DecidableEq, Repr

/-- An arrival counter and its stored action (06 R118). -/
inductive CtrAct where
  | none
  | enqueue (hidx tag prio : Nat)
  | post (desc : DWord) (who : Who)
  deriving DecidableEq, Repr

structure Ctr where
  count : Nat
  armed : Bool
  target : Nat
  act : CtrAct
  deriving DecidableEq, Repr

/-- A counter event accepted and not applied (10 R204, R221). -/
inductive CtrWhat where
  | add (n : Nat)
  /-- An ARM: target, action, and the result that it reports. -/
  | arm (target : Nat) (act : CtrAct) (iid : Nat) (pendId : Nat)
  deriving DecidableEq, Repr

structure CtrEvent where
  stamp : Nat
  ctx : Nat
  /-- Number relative to the context's allotment (16 R279). -/
  n : Nat
  what : CtrWhat
  /-- Source of the event, for the gleaner. -/
  src : Nat × Nat
  deriving DecidableEq, Repr

/-- An arrival that a core makes itself: it is accepted at the end of its cycle (10 R204). -/
inductive MadeWhat where
  | ctr (n : Nat) (what : CtrWhat) (src : Nat × Nat)
  | sheaf (lc : Nat) (x : Sheaf)
  /-- A counter's enqueue action, with the event that reached the target. -/
  | enqueue (lc : Nat) (m : Msg) (why : Cause)
  | wake (lc rec : Nat)
  deriving DecidableEq, Repr

/-- Such an arrival, its context, and its place among those of one cycle: 0 copy completions, 1 gather completions, 2 WBLOAD
notes, 3 weir notes, 4 to 11 GET and PUT completions by slot, 12 an ARM, 13 fired sheaves, 14 counter enqueues, 15
continuation wakes (10 R204). -/
structure Made where
  cls : Nat
  ctx : Nat
  what : MadeWhat
  deriving DecidableEq, Repr

/-- A copy command (08 R172): descriptors, progress in chunks. -/
structure CopyCmd where
  id : Nat
  who : Who
  desc : DWord
  ext : Option DWord
  chunk : Nat
  /-- Progress within the chunk (R173, 12 R242): pieces of 64-byte blocks read, and their bytes; once all are read and all may
  be written, where the pieces of its destination lie, and how many of them are written, those on peers first. -/
  reads : Nat := 0
  got : List Byte := []
  dst : Option (List Target) := none
  puts : Nat := 0
  deriving DecidableEq, Repr

/-- A spring cursor (09 Table 09-8): order, positions delivered, and row and column of the last. -/
structure Cursor where
  tro : Bool := false
  done : Nat := 0
  lk : Nat := 0
  lj : Nat := 0
  deriving DecidableEq, Repr

/-- A gather or scatter command (08 R177). -/
structure GatherCmd where
  id : Nat
  who : Who
  scatter : Bool
  desc : DWord
  shape : DWord
  /-- Served by the spring (ISRC 1), or index list. -/
  served : Bool
  /-- Next element; the cursor in the spring's positions when ISRC is 1; elements finished. -/
  next : Nat
  cur : Cursor
  total : Nat
  done : Nat
  /-- A fault record has been sent for the command (R177). -/
  recorded : Bool
  /-- Bytes read so far of the row that a scatter sends next (12 R242). -/
  row : List Byte := []
  deriving DecidableEq, Repr

/-- A log entry of the gleaner (22 R368). -/
structure DLog where
  ctx : Nat
  inum : Nat
  hidx : Nat
  tag : Nat
  start : Nat
  stop : Nat
  cause : Cause
  deriving DecidableEq, Repr

structure SLog where
  ctx : Nat
  inum : Nat
  chip : Nat
  core : Nat
  stamp : Nat
  deriving DecidableEq, Repr

/-- One core position. -/
structure Core where
  slots : Vector (Option Inst) 8
  lastSlot : Nat
  age : Nat
  stamp : Nat
  resv : Tab Resv
  mons : List Mon
  ctrs : Tab Ctr
  ctrEvents : List CtrEvent
  /-- What the core has made in the present cycle, in the order of its acceptance (10 R204). -/
  made : List Made
  seqOut : Tab Nat
  copyQ : List CopyCmd
  copyStop : Option CopyCmd
  gathers : List GatherCmd
  ops : List Op
  fseq : Tab Nat
  inums : Nat
  dlog : List DLog
  slog : List SLog
  parkCache : List (Nat × Nat)
  deriving DecidableEq, Repr

/-- State of a weight-buffer entry (08 R160). -/
inductive WbState where
  | empty | loading | resident | evicting
  deriving DecidableEq, Repr

structure WbEntry where
  st : WbState
  pin : Nat
  ctx : Nat
  desc : DWord
  gran : List Nat
  /-- The load under way: its command number and issuer. The eviction's descriptor and issuer. -/
  load : Option (Nat × Who)
  evict : Option (DWord × Who)
  poisoned : Bool
  /-- Pieces of the load that have been read and stored (12 R242). -/
  filled : Nat
  deriving DecidableEq, Repr

/-- An accepted array command or post (08 R162, 13 R264). -/
structure ACmd where
  id : Nat
  desc : DWord
  who : Who
  /-- 0 instruction, 1 counter post, 2 dispatcher post. -/
  origin : Nat
  /-- Order of acceptance. -/
  stamp : Nat
  deriving DecidableEq, Repr

/-- The array's running command: progress and what its completion reports (08 R165 to R168). -/
structure ARun where
  cmd : ACmd
  /-- Rows that a DRAIN has written; of the next row, where its 64-byte blocks lie once all may be written, and how many of
  them are, those on peers first. -/
  done : Nat
  flt : Bool
  row : Option (List Target) := none
  blocks : Nat := 0
  /-- 64-byte blocks of the set that the command has zeroed: ZERO's rows, or the whole set where ZF asks (12 R242). -/
  zeroed : Nat := 0
  /-- Steps taken; their flags, and non-finite values at absent positions. -/
  steps : Nat := 0
  flags : Flags := {}
  nf : Nat := 0
  /-- The entry's values as the command found them: a later write may or may not be seen (12 R248). -/
  values : Nat := 0
  /-- The spring's cursor of a SPARSE (09 R200). -/
  cur : Cursor := {}
  deriving DecidableEq, Repr

/-- A request waiting at the chunk unit (04 R79). -/
inductive ChunkWhat where
  | chunk | read | write (v : Word)
  deriving DecidableEq, Repr

structure ChunkReq where
  /-- Cycle in which it reaches the unit, and its core. -/
  cycle : Nat
  p : Nat
  iid : Nat
  sl : Nat
  pendId : Nat
  ctx : Nat
  n : Nat
  what : ChunkWhat
  deriving DecidableEq, Repr

/-- A request waiting at the spring (09 R195). -/
inductive SpringWhat where
  | spload (desc : DWord) (words : List Byte) (pendId : Nat)
  | spseed (desc : DWord) (pendId : Nat)
  | wbload (desc : DWord) (pendId cmd : Nat)
  | gather (cmd : Nat)
  deriving DecidableEq, Repr

structure SpringReq where
  /-- Cycle in which it reached the spring, and its core. -/
  cycle : Nat
  p : Nat
  who : Who
  what : SpringWhat
  deriving DecidableEq, Repr

/-- One quad position. -/
structure Quad where
  failed : Bool
  spare : Bool
  arrayQ : List ACmd
  running : Option ARun
  next0 : Nat
  next1 : Nat
  wbe : Tab WbEntry
  chunkReqs : List ChunkReq
  /-- The cycle in which the chunk unit served last (04 R79). -/
  chunkLast : Option Nat
  springReqs : List SpringReq
  /-- The spring's working state has failed its parity: what it streams next ends as pattern-corrupt (09 R202). -/
  springBad : Bool
  /-- The cycle in which the spring served its last slot request (09 R195). -/
  springLast : Option Nat
  /-- The cycle in which the SPARSE that the array would start first asked the spring for its slot (09 R195). -/
  springAsk : Option (Nat × Nat)
  fseq : Tab Nat
  deriving DecidableEq, Repr

/-- A TLB entry (17 R297): context, region, page, physical page address, writable. -/
structure TlbEnt where
  ctx : Nat
  region : Nat
  page : Nat
  pa : Nat
  w : Bool
  deriving DecidableEq, Repr

/-- One TLB slice (17 R297, R298): leaf translations, words whose record has been sent, invalidations pending. -/
structure Slice where
  ents : List TlbEnt
  words : List (Nat × Nat)
  inval : List (Nat × Nat × Nat × Nat)
  /-- Ranges dropped and not yet acknowledged: what was translated through them and has not been applied, requests by
  number and an engine's chunk or row by command and number (17 R303). -/
  drops : List ((Nat × Nat × Nat × Nat) × List Nat × List (Nat × Nat))
  /-- Requests of engines that it holds: the command or unit, the context and the word (17 R298, R299). -/
  engines : List (Nat × Nat × Nat)
  deriving DecidableEq, Repr

/-- One die. -/
structure Die where
  slices : Tab Slice
  /-- Logic matrix registers 0 to 63, the length of the run in progress, and the last value of each term
  (22 R366, R367). -/
  lm : Tab Word
  lmRun : Nat
  lmLast : Tab Bool
  /-- Counter increments not yet forwarded, by context and counter (22 R363). -/
  pendCnt : Tab (Tab Nat)
  throttle : Bool
  fseq : Tab Nat
  deriving DecidableEq, Repr

/-- Context states (16 R276). -/
inductive CtxSt where
  | free | launching | running | saving | saved | restoring | ending
  deriving DecidableEq, Repr

/-- One region (17 Table 17-1). -/
structure Region where
  vbase : Nat
  pages : Nat
  psz : Nat
  kind : Nat
  wen : Bool
  levels : Nat
  chip : Nat
  paddr : Nat
  deriving DecidableEq, Repr

/-- A roster entry (20 Table 20-1). -/
structure RosterEnt where
  chipId : Nat
  x : Nat
  y : Nat
  z : Nat
  domain : Nat
  partner : Option Nat
  meas : List Byte
  deriving DecidableEq, Repr

structure Roster where
  nx : Nat
  ny : Nat
  nz : Nat
  repoch : Nat
  ranks : List RosterEnt
  deriving DecidableEq, Repr

/-- A pattern mask (09 R188, R189). -/
inductive Mask where
  | full (ek ej : Nat)
  | band (ek ej : Nat) (lo hi : Int)
  | dil (ek ej : Nat) (s : Nat) (o : Int)
  | blkd (ek ej bk bj : Nat)
  | hash (ek ej : Nat) (t : Nat) (bsk bsj : Nat)
  | kron (u t : Mask)
  | uni (u t : Mask)
  | isect (u t : Mask)
  | diff (u t : Mask)
  | offs (t : Mask) (dk dj : Int)
  | clipLo (t : Mask) (k j : Int)
  | clipHi (t : Mask) (k j : Int)
  deriving DecidableEq, Repr

/-- A term or composition of a term table, in the order of its creation (09 R193); a composition names earlier entries by
their numbers. -/
inductive Term where
  | full (ek ej : Nat)
  | band (ek ej : Nat) (lo hi : Int)
  | dil (ek ej : Nat) (s : Nat) (o : Int)
  | blkd (ek ej bk bj : Nat)
  | hash (ek ej : Nat) (t : Nat) (bsk bsj : Nat)
  | kron (u t : Nat)
  | uni (u t : Nat)
  | isect (u t : Nat)
  | diff (u t : Nat)
  | offs (t : Nat) (dk dj : Int)
  | clipLo (t : Nat) (k j : Int)
  | clipHi (t : Nat) (k j : Int)
  deriving DecidableEq, Repr

/-- A pattern slot (09 R183, R193, R201): its term table's last entry is the pattern. -/
structure PSlot where
  loaded : Bool
  words : List (BitVec 32)
  seed : Word
  terms : List Term
  ek : Nat
  ej : Nat
  inv : Bool
  goodA : Bool
  goodB : Bool
  deriving DecidableEq, Repr

/-- A barrier (05 R102): counted arrivals, oldest first. -/
structure Barrier where
  target : Nat
  count : Nat
  sum : Word
  episode : Nat
  arrivals : List BArr
  deriving DecidableEq, Repr

/-- Completions of a closed episode that wait for balance updates (13 R258): the dies still to update, and the
messages with the router they leave from. -/
structure Closing where
  dies : List Nat
  msgs : List Msg
  x : Nat
  y : Nat
  deriving DecidableEq, Repr

/-- A handler table (16 R280): the image's address and whether it is resident. -/
structure HTable where
  image : Nat
  bound : Bool
  deriving DecidableEq, Repr

/-- A context on one logical core (10 R205 to R223, 16 R278). -/
structure CtxCore where
  pos : Nat
  dcfg : Word
  callot : Word
  queues : Tab (List QEntry)
  silo : Tab (List QEntry)
  /-- The sheaf list: messages with their stamps and their records of the message pool. -/
  sheafList : List (Msg × Nat × Nat)
  held : Tab Nat
  sheaves : List Sheaf
  tgs : Tab TagGroup
  weir : Weir
  conts : Tab Cont
  /-- Arrivals that overflowed into the flush reserve; deferred arrivals stand there too, as flights (16 R288). -/
  reserve : List QEntry
  /-- Queue entries of a saved context, which the save has put into the flush reserve (R223). -/
  flushed : Tab (List QEntry)
  /-- Format channels (02 R26): context span, so one set for each context on a core. -/
  chans : Tab Word
  deriving DecidableEq, Repr

/-- A slot record of the save area (16 Table 16-7). -/
structure SlotRec where
  lc : Nat
  sl : Nat
  inst : Inst
  code : Nat
  /-- The access that a slot parked on a page fault sends again (17 R300). -/
  again : List Flight
  deriving DecidableEq, Repr

/-- What a saved context keeps of units that other contexts may use meanwhile (16 R289), beside the bytes of its save
area. -/
structure Saved where
  slots : List SlotRec
  ctrs : List (Nat × Nat × Ctr)
  resv : List (Nat × Nat × Resv)
  mons : List (Nat × Mon)
  copyQ : List (Nat × CopyCmd)
  copyStop : List (Nat × CopyCmd)
  gathers : List (Nat × GatherCmd)
  /-- By quad position: entries, next0, next1, commands. -/
  wbe : List (Nat × Nat × WbEntry)
  nexts : List (Nat × Nat × Nat)
  arrayQ : List (Nat × ACmd)
  /-- Poisoned blocks of those windows, by physical address (21 R353). -/
  poison : List Nat
  /-- The placement at the save. -/
  place : List Nat
  deriving DecidableEq, Repr

/-- A reception ring (18 R308, R309). -/
structure Rx where
  base : Word
  ctl : Word
  /-- Taken by LAUNCH. -/
  en : Bool
  ie : Bool
  log : Nat
  head : Word
  tail : Word
  ring : List Msg
  overflow : List Msg
  /-- Messages that have entered the overflow list since the launch: the next takes the record of that number. -/
  listed : Nat
  deriving DecidableEq, Repr

/-- A match entry of TRCONFIG (22 R370). -/
structure MatchEnt where
  hidx : Nat
  tval : Nat
  tmask : Nat
  stop : Bool
  deriving DecidableEq, Repr

structure Trace where
  base : Nat
  size : Nat
  head : Nat
  ents : List MatchEnt
  deriving DecidableEq, Repr

/-- A sampling GLEAN in progress (22 R369). -/
structure Glean where
  hidx : Nat
  tag : Nat
  skip : Nat
  depth : Nat
  addr : Nat
  size : Nat
  cell : Nat
  /-- The firing sampled: core position and stamp of its entry. -/
  hit : Option (Nat × Nat)
  deriving DecidableEq, Repr

/-- Why a context is stopping (16 R288, R277, 21 R348, 22 R371). -/
inductive Halt where
  | none
  /-- PREEMPT or END by a mailbox cell. -/
  | preempt (cell : Nat)
  | finish (cell : Nat)
  /-- A dump, with its primary record. -/
  | dump (primary : Msg)
  | stop
  /-- RESTORE has been accepted: the positions by logical core. -/
  | restore (cell : Nat) (place : List Nat)
  deriving DecidableEq, Repr

/-- The context descriptor's scalars (16 Table 16-3). -/
structure CDesc where
  image : Nat
  dva : Word
  saveba : Nat
  siloba : Nat
  rkey : Word
  rank : Nat
  ncore : Nat
  rsafe : Bool
  fhv : Bool
  fhidx : Nat
  fcore : Nat
  deriving DecidableEq, Repr

/-- A context. -/
structure Ctx where
  st : CtxSt
  desc : CDesc
  dbgctl : Word
  born : Nat
  regions : List Region
  tables : Tab HTable
  gen : Nat
  /-- The generation that a REBIND of the saved context makes current at restore (16 R280). -/
  nextGen : Option Nat
  lcs : Tab CtxCore
  /-- BCTL0, BCTL1, RDCFG by die (13 R256, R261), TAIL of the record ring in memory, DCHN by 2 x quad + set. -/
  bctl0 : Tab Word
  bctl1 : Tab Word
  rdcfg : Tab Word
  dchn : Tab Nat
  pslots : Tab PSlot
  chunks : Tab Word
  barriers : Tab Barrier
  closing : List Closing
  counters : Tab Nat
  sticky : Tab Bool
  roster : Option Roster
  rosters : List (Nat × Nat × Nat × List Byte)
  rx : Rx
  saved : Option Saved
  halt : Halt
  /-- A stop has frozen the sheaf store (22 R371). -/
  frozen : Bool
  dumped : Bool
  /-- Dies whose dump engine has finished the context (21 R348, R350). -/
  dumpDies : List Nat
  loss : Bool
  disc : Nat
  ndrop : Nat
  records : List Msg
  trace : Option Trace
  gleaning : Bool
  glean : Option Glean
  finalStmt : Option (List Byte)
  launched : Bool
  /-- Launch messages not yet accepted. -/
  toLaunch : Nat
  /-- Writes of m0 that injection cells hold while the context is launched: cell and bytes (16 R286). -/
  injects : List (Nat × List Byte)
  watchers : List PeerWatch
  waiters : List Waiter
  /-- Dies whose record dispatcher has reported that a poisoned block hides TAIL (21 R353). -/
  badTails : List Nat
  /-- Uncorrectable errors that a scrub has found and no access has met: structure 5 with a quad, or 11 with a die
  (21 Table 21-4, R354). -/
  marks : List (Nat × Nat)
  deriving DecidableEq, Repr

/-- A journalled sequence (20 R334, Table 20-4). -/
inductive SeqSt where
  | closed | live | replaying | diverged
  deriving DecidableEq, Repr

structure JSeq where
  ctx : Nat
  seq : BitVec 32
  st : SeqSt
  /-- Last recorded step. -/
  last : Option (BitVec 32)
  /-- Highest step that the barn has acknowledged. -/
  acked : Option (BitVec 32)
  /-- Latest established marker: last covered step. -/
  marker : Option (BitVec 32)
  cursor : BitVec 32
  /-- Journalled records to replay: step and bytes. -/
  replay : List (BitVec 32 × List Byte)
  deriving DecidableEq, Repr

/-- A barn slot (20 R332): client chip, its entries, and those that wait for free space (R333). -/
structure BarnSlot where
  client : Option Nat
  entries : List BarnEntry
  waiting : List BarnEntry
  deriving DecidableEq, Repr

/-- Phases of a link's key session, in the order of 18 R321. -/
inductive Phase where
  | none | version | caps | algs | digests | cert | keyEx | active
  deriving DecidableEq, Repr

/-- A rekey of a link (18 R321): begun, the new bank loaded, the sender switched to it. -/
inductive Rekey where
  | none | begun | loaded | switched
  deriving DecidableEq, Repr

/-- A frame's trailer as it is sent (18 Table 18-7), and words m5 and m6 of its header flit (Table 18-6). -/
structure Trailer where
  kg : Bool
  fcnt : Nat
  fseq : Nat
  ack : Nat
  cred0 : Nat
  cred1 : Nat
  fctl : List Nat
  m5 : Word
  m6 : Word
  deriving DecidableEq, Repr

/-- What left the module, and what the host sees (18 R305, R319, 20 R331). The outside reads it; no rule of the
device does. -/
inductive Out where
  | frame (port : Nat) (u : PeerUnit)
  | heartbeat (port : Nat)
  /-- The trailer of the frame that follows, and the link words of its header flit (R312, R319). -/
  | trailer (port : Nat) (t : Trailer)
  /-- The receiver asks for its frames again, from a frame sequence number on (R320). -/
  | again (port : Nat) (fseq : Nat)
  /-- A unit of the barn network towards a chip. -/
  | barn (port chip : Nat) (u : PeerUnit)
  | mgmt (port : Nat) (what : Nat)
  | msix (vector : Nat)
  | hostRead (bytes : Option (List Byte))
  /-- A posted write to host memory (R308). -/
  | hostWrite (addr : Nat) (bytes : List Byte)
  deriving DecidableEq, Repr

/-- The key banks of one direction of a link (18 R320, R321): the frame counter of each bank that is loaded, and the bank in
use. -/
structure KeyBanks where
  bankA : Option Nat
  bankB : Option Nat
  kg : Bool
  deriving DecidableEq, Repr

/-- One Druntasy port (18 R316 to R321). -/
structure Port where
  up : Bool
  /-- Remote table: entry, flight id. -/
  remote : Tab Nat
  /-- Entries retired for a lost peer, whose genuine reply may still come (R317). -/
  owed : List Nat
  phase : Phase
  tx : KeyBanks
  rx : KeyBanks
  rekeying : Rekey
  /-- FSEQ of the next frame, and of the next one to come. -/
  fseq : Nat
  rxSeq : Nat
  /-- Retry buffer: frames sent and not yet acknowledged, oldest first (R320). -/
  unacked : List (Trailer × Out)
  /-- Failed checks in a row, and the cycle of the last frame that passed them (R317). -/
  retries : Nat
  lastGood : Nat
  /-- Flits that the peer has not freed, on VN0 and VN1, and flits freed here and not yet credited (R311, R319). -/
  used0 : Nat
  used1 : Nat
  freed0 : Nat
  freed1 : Nat
  /-- Since when it is down, and down for 24 hours has been recorded. -/
  downAt : Nat
  downDay : Bool
  deriving DecidableEq, Repr

/-- One die-to-die link (11 R229, 21 R358): for each direction, towards the higher-numbered die and back, the sendings
in a row of the present frame whose CRC failed; and that 16 retries of one frame have failed. -/
structure Link where
  half : Bool
  dead : Bool
  failsUp : Nat
  failsDown : Nat
  report : Bool
  deriving DecidableEq, Repr

/-- What a lane has carried in its latest cycle: the router and direction of its output, the network, the flits, and
whether a scaled message was among them (11 R228, R234). -/
structure LaneUse where
  x : Nat
  y : Nat
  inX : Bool
  up : Bool
  vn1 : Bool
  cyc : Nat
  flits : Nat
  scaled : Bool
  deriving DecidableEq, Repr

/-- The health record (21 R355). -/
structure Health where
  replace : Bool
  rwhy : Nat
  hole : Nat
  hepoch : Nat
  half : Nat
  act : Tab Nat
  counts : Tab Nat
  /-- Frames whose TAG failed under a correct CRC (18 R320); no counter of Table 21-5 is named for them. -/
  integrity : Nat
  deriving DecidableEq, Repr

/-- The pod geometry (18 R310, R381). -/
structure Geom where
  px : Nat
  py : Nat
  pz : Nat
  x : Nat
  y : Nat
  z : Nat
  ident : Nat
  deriving DecidableEq, Repr

/-- A unit of the barn network that has not left yet, and the chip that it is for. -/
structure BarnOut where
  chip : Nat
  unit : PeerUnit
  deriving DecidableEq, Repr

/-- The hub. -/
structure Hub where
  /-- Mailbox cells of 64 bytes, and how far each one's command is: 0 none, 1 started by its doorbell, 2 under way
  (18 R306). -/
  mb : Tab (List Byte)
  busy : Tab Nat
  mbdone : Nat
  mwbase : Nat
  /-- MSI-X table by offset within BAR0 and pending bits (18 Table 18-2). -/
  pba : Nat
  msix : Tab Byte
  /-- Bytes of the injection cells: cell i of context x is 256x + i (16 R286). -/
  cells : Tab (List Byte)
  geom : Option Geom
  lost : List Nat
  /-- Partner chip and its slot there; a PARTNER whose entries are still being seeded: its cell, the chip and the slot
  (20 R337). -/
  partner : Option (Nat × Nat)
  seeding : Option (Nat × Nat × Nat)
  /-- PARTNER and REPLAY commands under way: cell, and the entries not yet acknowledged (20 R337, R338). -/
  seedWaits : List (Nat × List BarnEntry)
  /-- JBUF address and size, barn base and slot size (20 R332). -/
  jcfg : Option (Nat × Nat × Nat × Nat)
  /-- Base and slot size of the barn, which a reset keeps (21 R360). -/
  barnAt : Option (Nat × Nat)
  /-- Journal buffer: entry, acknowledged by the barn. -/
  jbuf : List (BarnEntry × Bool)
  seqs : List JSeq
  barn : Tab BarnSlot
  /-- Units that wait for a barn port with room, oldest first (20 R331). -/
  barnQ : List BarnOut
  health : Health
  ssSeq : Nat
  /-- The die-to-die link that failed at half rate since the last reset (21 R358). -/
  linkFailed : Option Nat
  /-- Soft errors of the last 24 hours: cycle, 0 corrected, 1 uncorrectable of a quad, 2 poisoned block of a stack, and
  the structure of a die, the quad or the stack (21 R356, Table 21-6). -/
  errs : List (Nat × Nat × Nat)
  /-- Contexts whose dump or stop is under way, in the order raised, with the cycle of it (21 R350). -/
  dumpQ : List (Nat × Nat)
  fseq : Tab Nat
  deriving DecidableEq, Repr

/-- An engine's access to a peer chip: command, piece, and the reply's status and data once it has come. -/
structure Fetch where
  cmd : Nat
  n : Nat
  /-- The peer's rank and the virtual address. -/
  rank : Nat
  va : Nat
  got : Option (Nat × List Byte)
  deriving DecidableEq, Repr

/-- What moves next. -/
inductive Move where
  /-- Core position `p` has an issue cycle: the slot follows 01 R19. -/
  | issue (p : Nat)
  /-- A step of a unit, of the host, of a peer or of the physical world. -/
  | event (i : Instr)
  /-- An access meets an uncorrectable error (21 R352). -/
  | meet (f : Finding)
  /-- An engine moves on by one 64-byte block, or the array by one step (12 R242, 08 R170): a copy engine, an array's
  command, a load of a weight-buffer entry. -/
  | copyBlock (p : Nat)
  | arrayStep (q : Nat)
  | loadBlock (q e : Nat)
  /-- A scatter reads one 64-byte block of the row that it sends next (12 R242). -/
  | rowBlock (p : Nat)
  /-- The dump engine of a die writes its part of a stopped context (21 R348). -/
  | dieDump (c die : Nat)
  /-- The host reads BAR0 or BAR2, or writes BAR2 (18 Table 18-1). -/
  | bar0Read (off n : Nat)
  | bar2Read (off n : Nat)
  | bar2Write (off : Nat) (bytes : List Byte)
  /-- A reset's bring-up (21 R359): whether the firmware's signature holds, and the positions that fail the self-test. -/
  | bringUp (signed : Bool) (failed : List Nat)
  /-- The peer that a port faces is reset (18 R317). -/
  | peerReset (port : Nat)
  deriving DecidableEq, Repr

/-- One turn of the schedule: cycles that pass first, and what moves. -/
structure Turn where
  dt : Nat
  what : Move
  deriving DecidableEq, Repr

/-- Power (21 R359, R362): on and brought up; off; after a reset, before its bring-up; and a module whose firmware failed
its check, so that it reports no function (R359). -/
inductive Power where
  | on | off | booting | noFunction
  deriving DecidableEq, Repr

/-- The module. -/
structure State where
  agenda : List Turn
  curP : Nat
  curS : Nat
  clock : Nat
  freeCtr : Nat
  nextId : Nat
  mem : List Host.Cell
  poison : List Nat
  flights : List Flight
  fetches : List Fetch
  ctxs : Tab Ctx
  cores : Tab Core
  quads : Tab Quad
  dies : Tab Die
  links : Tab Link
  lanes : List LaneUse
  ports : Tab Port
  hub : Hub
  outbox : List Out
  power : Power
  /-- Raw signals of the logic matrices that units raise as they work: signal, position and cycle (22 Table 22-3). -/
  signals : List (Nat × Nat × Nat)
  deriving DecidableEq, Repr

/-- Why a step of the model stops. -/
inductive Fault where
  /-- `exec` of an instruction word while the issuing slot holds no instance: no NY4 issues so. Raised by every word
  instruction, never by `step`. Safe. -/
  | noInstance
  deriving DecidableEq, Repr

/-- Why a step is refused. -/
inductive Refusal where
  /-- An instruction that has no meaning in this model. Raised by `exec` alone. Safe. -/
  | notModelled (mnemonic : String)
  /-- The agenda names an instruction word as a step of a unit. Raised by `step`. Safe. -/
  | notEvent
  deriving DecidableEq, Repr

abbrev Out1 := Host.Outcome State Fault Refusal

/-! Values before anything is written. -/

def HHdr.zero : HHdr := ⟨3, 0, 1, 0, 0, false, false, 0, 0, 0, 0, 1⟩

/-- The registers of a slot at dispatch (01 Table 01-1), without identity. -/
def Inst.fresh : Inst where
  iid := 0
  ctx := 0
  lcore := 0
  gen := 0
  hidx := 0
  tag := 0
  hdr := HHdr.zero
  hbase := 0
  pc := 0
  g := Vector.replicate 64 0
  v := Vector.replicate 32 0
  k := (Vector.replicate 8 0).set 0 0xFFFF
  m := Vector.replicate 16 0
  d := Vector.replicate 16 0
  q := Vector.replicate 16 0
  link := 0
  prio := 0
  join := false
  reply := false
  rsafe := false
  flags := {}
  tail := []
  heldPrio := none
  scale := none
  pend := []
  vpend := []
  fenceOn := []
  drainOn := []
  drainInto := []
  acquireOn := []
  hubOn := []
  waitOn := none
  pageWait := []
  sinceSafe := 0
  sincePre := 0
  stopped := .no
  fromFault := false
  inum := 0
  cause := .none
  edge := false
  fullOn := none
  bad := []

def Core.reset : Core where
  slots := Vector.replicate 8 none
  lastSlot := 7
  age := 0
  stamp := 0
  resv := []
  mons := []
  ctrs := []
  ctrEvents := []
  made := []
  seqOut := []
  copyQ := []
  copyStop := none
  gathers := []
  ops := []
  fseq := []
  inums := 0
  dlog := []
  slog := []
  parkCache := []

/-- CHn at reset: SCALE 0x3F80 (02 Table 02-3). -/
def chanReset : Word := 0x3F800000

def Ctr.reset : Ctr := ⟨0, false, 0, .none⟩

def WbEntry.reset : WbEntry := ⟨.empty, 0, 0, 0, [], none, none, false, 0⟩

/-- A quad position before any context: spare or not by its number (log 7). -/
def Quad.init (q : Nat) : Quad where
  failed := false
  spare := Config.spareAtFirst q
  arrayQ := []
  running := none
  next0 := 0
  next1 := 0
  wbe := []
  chunkReqs := []
  chunkLast := none
  springReqs := []
  springBad := false
  springLast := none
  springAsk := none
  fseq := []

def Slice.reset : Slice := ⟨[], [], [], [], []⟩

def Die.reset : Die := ⟨[], [], 0, [], [], false, []⟩

def PSlot.empty : PSlot := ⟨false, [], 0, [], 65536, 65536, true, true, true⟩

def Barrier.reset : Barrier := ⟨0, 0, 0, 0, []⟩

def CDesc.zero : CDesc := ⟨0, 0, 0, 0, 0, 0, 0, false, false, 0, 0⟩

def Rx.reset : Rx := ⟨0, 0, false, false, 0, 0, 0, [], [], 0⟩

def CtxCore.init (pos : Nat) : CtxCore where
  pos := pos
  dcfg := 0
  callot := 0
  queues := []
  silo := []
  sheafList := []
  held := []
  sheaves := []
  tgs := []
  weir := ⟨[], 0, false⟩
  conts := []
  reserve := []
  flushed := []
  chans := []

/-- A context that no launch has created since the reset. -/
def Ctx.reset : Ctx where
  st := .free
  desc := CDesc.zero
  dbgctl := 0
  born := 0
  regions := []
  tables := []
  gen := 0
  nextGen := none
  lcs := []
  bctl0 := []
  bctl1 := []
  rdcfg := []
  dchn := []
  pslots := []
  chunks := []
  barriers := []
  closing := []
  counters := []
  sticky := []
  roster := none
  rosters := []
  rx := Rx.reset
  saved := none
  halt := .none
  frozen := false
  dumped := false
  dumpDies := []
  loss := false
  disc := 0
  ndrop := 0
  records := []
  trace := none
  gleaning := false
  glean := none
  finalStmt := none
  launched := false
  toLaunch := 0
  injects := []
  watchers := []
  waiters := []
  badTails := []
  marks := []

def Link.reset : Link := ⟨false, false, 0, 0, false⟩

def KeyBanks.none : KeyBanks := ⟨Option.none, Option.none, false⟩

/-- A port goes down with a reset (21 R360); DRUNTASY_PORT_UP brings it up. -/
def Port.reset : Port where
  up := false
  remote := []
  owed := []
  phase := .none
  tx := KeyBanks.none
  rx := KeyBanks.none
  rekeying := .none
  fseq := 0
  rxSeq := 0
  unacked := []
  retries := 0
  lastGood := 0
  used0 := 0
  used1 := 0
  freed0 := 0
  freed1 := 0
  downAt := 0
  downDay := false

/-- The health record of a module as shipped: 60 active positions on each die (00 R3). -/
def Health.shipped : Health := ⟨false, 0, 0, 0, 0, [(0, 60), (1, 60), (2, 60), (3, 60)], [], 0⟩

def Hub.reset : Hub where
  mb := []
  busy := []
  mbdone := 0
  mwbase := 0
  pba := 0
  msix := []
  cells := []
  geom := none
  lost := []
  partner := none
  seeding := none
  seedWaits := []
  jcfg := none
  barnAt := none
  jbuf := []
  seqs := []
  barn := []
  barnQ := []
  health := Health.shipped
  ssSeq := 0
  linkFailed := none
  errs := []
  dumpQ := []
  fseq := []

/-- The machine right after reset (21 R359, R360): every context, roster and key discarded, every unit idle. -/
def State.reset : State where
  agenda := []
  curP := 0
  curS := 0
  clock := 0
  freeCtr := 0
  nextId := 1
  mem := []
  poison := []
  flights := []
  fetches := []
  ctxs := []
  cores := []
  quads := []
  dies := []
  links := []
  lanes := []
  ports := []
  hub := Hub.reset
  outbox := []
  power := .on
  signals := []

end Sys2Proof.Machine
end

