-- ==== Sys2Proof/Machine/Numbers.lean ====
section
/-! DEFINITION. Exact values, Round and the conversions (02 R21 to R32, R36, R42). -/

namespace Sys2Proof.Machine

open Sys2Proof

/-- An exact value: NaN, an infinity, or sign, n x 2^e. When `rest` holds, the magnitude lies strictly between n x 2^e
and (n + 1) x 2^e: enough to round a quotient or a root once. -/
inductive XR where
  | nan
  | inf (neg : Bool)
  | fin (neg : Bool) (n : Nat) (e : Int) (rest : Bool)
  deriving DecidableEq, Repr

/-- OR of two sets of flags (01 R16: flags accumulate). -/
def Flags.or (a b : Flags) : Flags :=
  ⟨a.rc || b.rc, a.sat || b.sat, a.nv || b.nv, a.dz || b.dz, a.ovf || b.ovf, a.unf || b.unf, a.nx || b.nx⟩

def Flags.bits (f : Flags) : Nat :=
  (cond f.rc 64 0) + (cond f.sat 32 0) + (cond f.nv 16 0) + (cond f.dz 8 0) + (cond f.ovf 4 0)
    + (cond f.unf 2 0) + (cond f.nx 1 0)

/-- A float format (02 Table 02-2): exponent bits, mantissa bits, bias, the largest finite magnitude code, whether it
has infinities, its canonical NaN. -/
structure FP where
  eb : Nat
  mb : Nat
  bias : Nat
  maxMag : Nat
  hasInf : Bool
  canon : Option Nat
  deriving DecidableEq, Repr

def fpOf : Fmt → FP
  | .bf16 => ⟨8, 7, 127, 0x7F7F, true, some 0x7FC0⟩
  | .f16 => ⟨5, 10, 15, 0x7BFF, true, some 0x7E00⟩
  | .e4m3 => ⟨4, 3, 7, 0x7E, false, some 0x7F⟩
  | .e5m2 => ⟨5, 2, 15, 0x7B, true, some 0x7E⟩
  | .e3m2 => ⟨3, 2, 3, 0x1F, false, none⟩
  | .e2m3 => ⟨2, 3, 1, 0x1F, false, none⟩
  | .e2m1 => ⟨2, 1, 1, 0x7, false, none⟩
  | _ => ⟨8, 23, 127, 0x7F7FFFFF, true, some 0x7FC00000⟩

/-- Width in bits of a code (02 Table 02-1); a t5 byte is 8. -/
def fmtWidth : Fmt → Nat
  | .f32 => 32
  | .bf16 | .f16 | .i16 => 16
  | .e4m3 | .e5m2 | .i8 | .n8 | .t5 => 8
  | .e3m2 | .e2m3 => 6
  | .e2m1 | .i4 | .n4 => 4
  | .t2 => 2
  | .b1 => 1

/-- Decode of a float code (02 R22). -/
def decodeFloat (p : FP) (code : Nat) : XR :=
  let mag := code % 2 ^ (p.eb + p.mb)
  let neg := code / 2 ^ (p.eb + p.mb) % 2 == 1
  if mag > p.maxMag then
    if p.hasInf && mag == p.maxMag + 1 then .inf neg else .nan
  else
    let ef := mag / 2 ^ p.mb
    let m := mag % 2 ^ p.mb
    if ef = 0 then .fin neg m (1 - (p.bias : Int) - p.mb) false
    else .fin neg (m + 2 ^ p.mb) ((ef : Int) - p.bias - p.mb) false

/-- Two's complement value of a `w`-bit code. -/
def signedOf (w code : Nat) : Int :=
  let c := code % 2 ^ w
  if c < 2 ^ (w - 1) then (c : Int) else (c : Int) - 2 ^ w

/-- `Wrap(x, w)` as a code: x modulo 2^w (02 Table 02-7). -/
def wrapCode (w : Nat) (x : Int) : Nat := (x % (2 ^ w : Int)).toNat

def xrOfInt (x : Int) : XR := .fin (x < 0) x.natAbs 0 false

/-- The value of a trit digit or t2 code: 0, +1, -1. -/
def tritVal (d : Nat) : Int := if d = 1 then 1 else if d = 2 then -1 else 0

/-- Integer value of a code of a format that is not float; t5 codes are single trits here. -/
def intOf (f : Fmt) (code : Nat) : Int :=
  match f with
  | .i16 => signedOf 16 code
  | .i8 => signedOf 8 code
  | .n8 => ((code % 256 : Nat) : Int)
  | .i4 => signedOf 4 code
  | .n4 => ((code % 16 : Nat) : Int)
  | .t2 => tritVal (code % 4)
  | .t5 => tritVal code
  | _ => if code % 2 = 0 then 1 else -1

/-- Decode (02 R42): the exact value, and RC when the code is reserved (R32). A t5 element is its trit, 3 or more for
an element of a reserved byte. -/
def decodeElem (f : Fmt) (code : Nat) : XR × Bool :=
  if f.isFloat then (decodeFloat (fpOf f) code, false)
  else
    match f with
    | .t2 => if code % 4 = 3 then (.fin false 0 0 false, true) else (xrOfInt (intOf .t2 code), false)
    | .t5 => if code < 3 then (xrOfInt (intOf .t5 code), false) else (.fin false 0 0 false, true)
    | _ => (xrOfInt (intOf f code), false)

/-- Whether rounding moves the magnitude up (02 R28, R29): `r` of `2^s` parts remain below the unit of `sig`, and
`rest` says that something more remains. -/
def roundsUp (mode : RMode) (neg : Bool) (sig r s : Nat) (rest : Bool) : Bool :=
  let inexact := r != 0 || rest
  match mode with
  | .rne =>
    if s = 0 then false
    else
      let half := 2 ^ (s - 1)
      decide (r > half) || (r == half && (rest || sig % 2 == 1))
  | .rtz => false
  | .rdn => neg && inexact
  | .rup => !neg && inexact

/-- A magnitude n x 2^e rounded to a multiple of 2^q: the multiple and whether it is inexact. -/
def roundAt (mode : RMode) (neg : Bool) (n : Nat) (e q : Int) (rest : Bool) : Nat × Bool :=
  if q ≤ e then
    let sig := n * 2 ^ (e - q).toNat
    (if roundsUp mode neg sig 0 0 rest then sig + 1 else sig, rest)
  else
    let s := (q - e).toNat
    let sig := n / 2 ^ s
    let r := n % 2 ^ s
    (if roundsUp mode neg sig r s rest then sig + 1 else sig, r != 0 || rest)

/-- Code of a signed magnitude. -/
def FP.withSign (p : FP) (neg : Bool) (mag : Nat) : Nat := mag + cond neg (2 ^ (p.eb + p.mb)) 0

/-- What overflow or infinity gives (02 Table 02-4). `finite` says that the exact value was finite. -/
def overflowTo (p : FP) (mode : RMode) (sat neg finite : Bool) : Nat × Flags :=
  let base : Flags := if finite then { ovf := true, nx := true } else {}
  let maxCode := p.withSign neg p.maxMag
  match p.canon with
  | none => (maxCode, { base with sat := true })
  | some cn =>
    if sat then (maxCode, { base with sat := true })
    else
      let toInf : Bool :=
        if finite then
          match mode with
          | .rne => true
          | .rtz => false
          | .rdn => neg
          | .rup => !neg
        else true
      if p.hasInf then
        (if toInf then p.withSign neg (p.maxMag + 1) else maxCode, base)
      else if toInf then (cn, if finite then base else { nv := true })
      else (maxCode, base)

/-- Round into a float format (02 R29, R30). -/
def roundFloat (p : FP) (mode : RMode) (sat : Bool) : XR → Nat × Flags
  | .nan =>
    match p.canon with
    | some c => (c, {})
    | none => (0, { nv := true })
  | .inf neg => overflowTo p mode sat neg false
  | .fin neg n e rest =>
    if n = 0 && !rest then (p.withSign neg 0, {})
    else
      let emin : Int := 1 - (p.bias : Int)
      let top : Int := (n.log2 : Int) + e
      let q : Int := max top emin - p.mb
      let (sig, inexact) := roundAt mode neg n e q rest
      let mag := sig + (q - (emin - p.mb)).toNat * 2 ^ p.mb
      if mag > p.maxMag then overflowTo p mode sat neg true
      else
        (p.withSign neg mag, { nx := inexact, unf := inexact && mag != 0 && decide (mag < 2 ^ p.mb) })

/-- A value rounded to an integer: the integer and whether it differs (02 Table 02-5). -/
def roundToInt (mode : RMode) (neg : Bool) (n : Nat) (e : Int) (rest : Bool) : Int × Bool :=
  let (m, inexact) := roundAt mode neg n e 0 rest
  (if neg then -(m : Int) else (m : Int), inexact)

/-- The range of a format that is not float. -/
def intRange : Fmt → Int × Int
  | .i16 => (-32768, 32767)
  | .i8 => (-128, 127)
  | .n8 => (0, 255)
  | .i4 => (-8, 7)
  | .n4 => (0, 15)
  | _ => (-1, 1)

/-- Code of an integer in range; for t5, of a single trit. -/
def intCode (f : Fmt) (x : Int) : Nat :=
  match f with
  | .t2 | .t5 => if x = 0 then 0 else if x < 0 then 2 else 1
  | .b1 => if x < 0 then 1 else 0
  | _ => wrapCode (fmtWidth f) x

/-- Clamp into a range, with whether it changed the value (02 Table 02-7). -/
def clampInt (lo hi x : Int) : Int × Bool := if x < lo then (lo, true) else if hi < x then (hi, true) else (x, false)

/-- Round of a float value into a format that is not float (02 Table 02-5). A NaN into b1 sets NV alone: whether it sets NX
too ("NX unless the value is +-1") the table leaves open (DESIGN CHOICE, log 49). -/
def floatToInt (f : Fmt) (mode : RMode) : XR → Nat × Flags
  | .nan => (0, { nv := true })
  | .inf neg =>
    match f with
    | .b1 => (cond neg 1 0, { nx := true })
    | _ =>
      let (lo, hi) := intRange f
      (intCode f (if neg then lo else hi), { sat := true, nx := true })
  | .fin neg n e rest =>
    match f with
    | .b1 =>
      let negv := neg && (n != 0 || rest)
      let one := !rest && n != 0 && decide (n = 2 ^ n.log2) && decide ((n.log2 : Int) + e = 0)
      (cond negv 1 0, { nx := !one })
    | _ =>
      let (x, inexact) := roundToInt mode neg n e rest
      let (lo, hi) := intRange f
      let (y, c) := clampInt lo hi x
      (intCode f y, { sat := c, nx := inexact || c })

/-- Round of an exact integer into a format that is not float (02 Table 02-5). -/
def intToInt (f : Fmt) (sat : Bool) (x : Int) : Nat × Flags :=
  match f with
  | .b1 => (cond (x < 0) 1 0, { nx := x != 1 && x != -1 })
  | .t2 | .t5 =>
    let (y, c) := clampInt (-1) 1 x
    (intCode f y, { sat := c })
  | _ =>
    let (lo, hi) := intRange f
    if sat then
      let (y, c) := clampInt lo hi x
      (intCode f y, { sat := c })
    else (intCode f x, {})

/-- Round of the helper table: into any format, from a float value (`fromFloat`) or an integer value (02 R31, R42). -/
def roundAny (dst : Fmt) (fromFloat : Bool) (mode : RMode) (sat : Bool) (x : XR) : Nat × Flags :=
  if dst.isFloat then roundFloat (fpOf dst) mode sat x
  else if fromFloat then floatToInt dst mode x
  else
    match x with
    | .fin neg n _ _ => intToInt dst sat (if neg then -(n : Int) else n)
    | _ => (0, {})

/-- A canonical NaN code. -/
def canonNaN (f : Fmt) : Nat := ((fpOf f).canon).getD 0

/-- Convert (02 R31, R32, R42): a conversion to the same format keeps the code, but for NaN and reserved codes. -/
def convertCode (src dst : Fmt) (mode : RMode) (sat : Bool) (code : Nat) : Nat × Flags :=
  let (x, rc) := decodeElem src code
  if src = dst then
    match x with
    | .nan => (canonNaN dst, {})
    | _ => if rc then (0, { rc := true }) else (code, {})
  else
    let (c, fl) := roundAny dst src.isFloat mode sat x
    (c, { fl with rc := rc })

/-! Exact operations (02 R29, R42). Each returns the exact value and NV when it is invalid. -/

def XR.isNaN : XR → Bool
  | .nan => true
  | _ => false

def XR.isZero : XR → Bool
  | .fin _ 0 _ false => true
  | _ => false

def XR.neg : XR → XR
  | .nan => .nan
  | .inf s => .inf (!s)
  | .fin s n e r => .fin (!s) n e r

/-- The value as a multiple of 2^e0, for e0 at most its exponent. -/
def scaledTo (e0 : Int) (neg : Bool) (n : Nat) (e : Int) : Int :=
  let m : Int := ((n * 2 ^ (e - e0).toNat : Nat) : Int)
  if neg then -m else m

/-- Exact sum; a zero sum takes its sign by R29. -/
def addX (mode : RMode) (x y : XR) : XR × Bool :=
  match x, y with
  | .nan, _ => (.nan, false)
  | _, .nan => (.nan, false)
  | .inf s, .inf t => if s = t then (.inf s, false) else (.nan, true)
  | .inf s, .fin .. => (.inf s, false)
  | .fin .., .inf t => (.inf t, false)
  | .fin s n e _, .fin t m f _ =>
    if n = 0 && m = 0 then
      (.fin (if s = t then s else decide (mode = .rdn)) 0 0 false, false)
    else if n = 0 then (.fin t m f false, false)
    else if m = 0 then (.fin s n e false, false)
    else
      let e0 := min e f
      let sum := scaledTo e0 s n e + scaledTo e0 t m f
      if sum = 0 then (.fin (decide (mode = .rdn)) 0 0 false, false)
      else (.fin (sum < 0) sum.natAbs e0 false, false)

/-- Exact product. -/
def mulX (x y : XR) : XR × Bool :=
  match x, y with
  | .nan, _ => (.nan, false)
  | _, .nan => (.nan, false)
  | .inf s, .inf t => (.inf (s != t), false)
  | .inf s, .fin t m _ _ => if m = 0 then (.nan, true) else (.inf (s != t), false)
  | .fin s n _ _, .inf t => if n = 0 then (.nan, true) else (.inf (s != t), false)
  | .fin s n e _, .fin t m f _ => (.fin (s != t) (n * m) (e + f) false, false)

/-- Quotient, to 80 bits below the divisor's and the remainder as `rest`; DZ as the third component. -/
def divX (x y : XR) : XR × Bool × Bool :=
  match x, y with
  | .nan, _ => (.nan, false, false)
  | _, .nan => (.nan, false, false)
  | .inf _, .inf _ => (.nan, true, false)
  | .inf s, .fin t _ _ _ => (.inf (s != t), false, false)
  | .fin s _ _ _, .inf t => (.fin (s != t) 0 0 false, false, false)
  | .fin s n e _, .fin t m f _ =>
    if m = 0 then
      if n = 0 then (.nan, true, false) else (.inf (s != t), false, true)
    else if n = 0 then (.fin (s != t) 0 0 false, false, false)
    else
      let k := 80 + m.log2
      let num := n * 2 ^ k
      (.fin (s != t) (num / m) (e - f - k) (num % m != 0), false, false)

/-- ScaleRemove (02 Table 02-7): by a zero scale the result is a zero with the sign of x. -/
def scaleRemove (x s : XR) : XR :=
  match x with
  | .nan => .nan
  | _ =>
    if s.isZero then
      match x with
      | .inf neg => .fin neg 0 0 false
      | .fin neg _ _ _ => .fin neg 0 0 false
      | .nan => .nan
    else (divX x s).1

/-- Integer square root of n, by one result bit for each step from bit `b` down. -/
def isqrtFrom : Nat → Nat → Nat → Nat
  | 0, acc, n => if (acc + 1) * (acc + 1) ≤ n then acc + 1 else acc
  | b + 1, acc, n =>
    let t := acc + 2 ^ (b + 1)
    isqrtFrom b (if t * t ≤ n then t else acc) n

def isqrt (n : Nat) : Nat := isqrtFrom (n.log2 / 2 + 1) 0 n

/-- Square root (07 R133): sqrt(-0) is -0; of a negative value, NaN with NV. -/
def sqrtX : XR → XR × Bool
  | .nan => (.nan, false)
  | .inf neg => if neg then (.nan, true) else (.inf false, false)
  | .fin neg n e _ =>
    if n = 0 then (.fin neg 0 0 false, false)
    else if neg then (.nan, true)
    else
      let k : Nat := if (e - 160) % 2 = 0 then 160 else 161
      let m := n * 2 ^ k
      let r := isqrt m
      (.fin false r ((e - k) / 2) (r * r != m), false)

/-- Order of two values that are not NaN: x < y, with -0 = +0 (07 R137). -/
def ltX (x y : XR) : Bool :=
  match x, y with
  | .nan, _ => false
  | _, .nan => false
  | .inf s, .inf t => s && !t
  | .inf s, .fin .. => s
  | .fin .., .inf t => !t
  | .fin s n e _, .fin t m f _ =>
    let e0 := min e f
    decide (scaledTo e0 s n e < scaledTo e0 t m f)

/-- Equality of values that are not NaN. -/
def eqX (x y : XR) : Bool :=
  match x, y with
  | .nan, _ => false
  | _, .nan => false
  | .inf s, .inf t => s == t
  | .inf _, .fin .. => false
  | .fin .., .inf _ => false
  | .fin s n e _, .fin t m f _ =>
    let e0 := min e f
    decide (scaledTo e0 s n e = scaledTo e0 t m f)

/-- The sign of a value, with that of a zero. -/
def XR.sign : XR → Bool
  | .nan => false
  | .inf s => s
  | .fin s _ _ _ => s

/-- A block scale is valid when it is a zero, or positive and finite (02 R25). -/
def scaleOk (s : BitVec 16) : Bool :=
  match decodeFloat (fpOf .bf16) s.toNat with
  | .nan => false
  | .inf _ => false
  | .fin neg n _ _ => !neg || n == 0

/-- ScaleApply (02 Table 02-7). Both zero scales mean zero, and a zero product takes the exclusive or of the signs. -/
def scaleApply (x : XR) (s : BitVec 16) : XR × Bool := mulX x (decodeFloat (fpOf .bf16) s.toNat)

/-- One rounded f32 sum: AFADD (05 R96) and the array's accumulation (02 R34). -/
def addF32 (mode : RMode) (a b : Nat) : Nat × Flags :=
  let (x, nv) := addX mode (decodeFloat (fpOf .f32) a) (decodeFloat (fpOf .f32) b)
  let (c, fl) := roundFloat (fpOf .f32) mode false x
  (c, { fl with nv := fl.nv || nv })

end Sys2Proof.Machine
end

