-- ==== Sys2Proof/Machine/Ops.lean ====
section
/-! DEFINITION. The named operations that every meaning is built from: tables, memory, the parts of the state, the
module's geography, messages, handler images, taking a fault and leaving a slot. -/

namespace Sys2Proof.Machine

open Sys2Proof

/-! Tables. -/

/-- Entry `k`, or the default. -/
def Tab.get {α : Type} (dflt : α) : Tab α → Nat → α
  | [], _ => dflt
  | (i, v) :: t, k => if i = k then v else Tab.get dflt t k

/-- Entry `k` when it is listed. -/
def Tab.get? {α : Type} : Tab α → Nat → Option α
  | [], _ => none
  | (i, v) :: t, k => if i = k then some v else Tab.get? t k

/-- Entry `k` set, the indices kept in rising order. -/
def Tab.put {α : Type} : Tab α → Nat → α → Tab α
  | [], k, x => [(k, x)]
  | (i, v) :: t, k, x =>
    if k < i then (k, x) :: (i, v) :: t
    else if k = i then (k, x) :: t
    else (i, v) :: Tab.put t k x

/-- Entry `k` removed. -/
def Tab.del {α : Type} (t : Tab α) (k : Nat) : Tab α := t.filter (fun e => e.1 != k)

/-! Bytes. -/

/-- The low `n` bytes of a number, least significant first (00 R6). -/
def leBytes : Nat → Nat → List Byte
  | 0, _ => []
  | n + 1, x => BitVec.ofNat 8 (x % 256) :: leBytes n (x / 256)

/-- The number that bytes hold, least significant first (00 R6). -/
def ofLe : List Byte → Nat
  | [] => 0
  | b :: t => b.toNat + 256 * ofLe t

/-- The first `n` bytes, padded with zero bytes. -/
def padTo (n : Nat) (bs : List Byte) : List Byte := (bs ++ List.replicate (n - bs.length) 0).take n

/-- Bytes `o` to `o + n - 1`; those beyond the end read 0. -/
def sliceBytes (bs : List Byte) (o n : Nat) : List Byte := padTo n (bs.drop o)

/-! Memory: one list of cells over the 41-bit map. An unlisted byte reads 0 (log 4). -/

namespace Memory

/-- What an address that is not listed reads as. -/
def blank : Byte := 0

def readByte : List Host.Cell → Nat → Byte
  | [], _ => blank
  | (k, v) :: t, a => if k = a then v else if a < k then blank else readByte t a

/-- Addresses strictly rising above a bound, and no entry that equals what an unlisted address reads as. -/
def wfFrom : Option Nat → List Host.Cell → Bool
  | _, [] => true
  | lo, (k, v) :: t =>
    (match lo with
      | none => true
      | some b => decide (b < k))
    && v != blank && wfFrom (some k) t

/-- The canonical form. -/
def wf (m : List Host.Cell) : Bool := wfFrom none m

def writeByte : List Host.Cell → Nat → Byte → List Host.Cell
  | [], a, b => if b = blank then [] else [(a, b)]
  | (k, v) :: t, a, b =>
    if a < k then (if b = blank then (k, v) :: t else (a, b) :: (k, v) :: t)
    else if a = k then (if b = blank then t else (a, b) :: t)
    else (k, v) :: writeByte t a b

def read (m : List Host.Cell) (a : Nat) : Nat → List Byte
  | 0 => []
  | n + 1 => readByte m a :: read m (a + 1) n

def write (m : List Host.Cell) (a : Nat) : List Byte → List Host.Cell
  | [] => m
  | b :: t => write (writeByte m a b) (a + 1) t

/-- The bytes of `[a, a + n)` set to zero: their entries are no longer listed. -/
def clear (m : List Host.Cell) (a n : Nat) : List Host.Cell :=
  m.filter (fun e => !(decide (a ≤ e.1) && decide (e.1 < a + n)))

/-- The listed cells of `[a, a + n)`, as offsets from `a`. -/
def extract (m : List Host.Cell) (a n : Nat) : List Host.Cell :=
  (m.filter (fun e => decide (a ≤ e.1) && decide (e.1 < a + n))).map (fun e => (e.1 - a, e.2))

/-- Cells at offsets written from `a` on. -/
def install (m : List Host.Cell) (a : Nat) : List Host.Cell → List Host.Cell
  | [] => m
  | (o, b) :: t => install (writeByte m (a + o) b) a t

end Memory

/-- Little-endian number of `n` bytes at a physical address. -/
def State.readLe (s : State) (a n : Nat) : Nat := ofLe (Memory.read s.mem a n)

/-! The physical map (12 R237, Table 12-1). -/

/-- What lies at a physical address. -/
inductive Place where
  | hbm (stack : Nat)
  | scratch (p : Nat) (off : Nat)
  | accum (q : Nat) (off : Nat)
  | wbuf (q : Nat) (off : Nat)
  | hole
  deriving DecidableEq, Repr

def hbmBytes : Nat := 2 ^ 40
def scratchBase (p : Nat) : Nat := 0x10000000000 + p * 0x80000
def accumBase (q : Nat) : Nat := 0x10020000000 + q * 0x20000
def wbufBase (q : Nat) : Nat := 0x10040000000 + q * 0x80000

def place (pa : Nat) : Place :=
  if pa < 2 ^ 40 then .hbm (pa / 2 ^ 36)
  else if pa < 0x10020000000 then
    let o := pa - 0x10000000000
    if o % 0x80000 < Config.scratchBytes then .scratch (o / 0x80000) (o % 0x80000) else .hole
  else if pa < 0x10022000000 then
    let o := pa - 0x10020000000
    .accum (o / 0x20000) (o % 0x20000)
  else if 0x10040000000 ≤ pa ∧ pa < 0x10048000000 then
    let o := pa - 0x10040000000
    .wbuf (o / 0x80000) (o % 0x80000)
  else .hole

/-- Two ranges share a byte (05 R92). -/
def overlap (a n b m : Nat) : Bool := decide (a < b + m) && decide (b < a + n)

/-- The first poisoned block of a range (21 R353). -/
def State.poisonAt (s : State) (pa n : Nat) : Option Nat :=
  ((List.range (n / 64 + 2)).map (fun k => pa / 64 + k)).find? (fun b =>
    overlap pa n (64 * b) 64 && s.poison.contains b)

/-- The bits of a structure as DET numbers it (21 Table 21-4). -/
def structureOf (pa : Nat) : Nat :=
  match place pa with
  | .scratch _ _ => 2
  | .accum _ _ => 3
  | .wbuf _ _ => 4
  | _ => 7

/-- A range lies wholly in HBM4. -/
def inHbm (a n : Nat) : Bool := decide (a + n ≤ hbmBytes)

/-- The memory that DRAIN names (05 R101). -/
def memNameOf : Target → Option MemName
  | .chip r _ => some (.chip r)
  | .here pa =>
    match place pa with
    | .hbm st => some (.stack st)
    | .scratch p _ => some (.scratch p)
    | .accum q _ => some (.accum q)
    | .wbuf q _ => some (.wbuf q)
    | .hole => none

/-! The module's geography (11 R225 to R227). -/

def quadOf (p : Nat) : Nat := p / 4
def dieOfQuad (q : Nat) : Nat := q / 64
def dieOf (p : Nat) : Nat := p / 256

/-- Router coordinate of a row and column of a die (R225). -/
def xyOf (die row col : Nat) : Nat × Nat := (col + 8 * (die % 2), row + 8 * (die / 2))
def xyOfQuad (q : Nat) : Nat × Nat := xyOf (q / 64) (q % 64 / 8) (q % 8)
def xyOfCore (p : Nat) : Nat × Nat := xyOfQuad (quadOf p)
/-- The die of a router. -/
def dieAt (x y : Nat) : Nat := x / 8 + 2 * (y / 8)
/-- The quad position of a router. -/
def quadAt (x y : Nat) : Nat := 64 * dieAt x y + 8 * (y % 8) + x % 8

/-- Router of the outer corner quad of a die (R227). -/
def cornerXY (die : Nat) : Nat × Nat := xyOf die (if die < 2 then 0 else 7) (if die % 2 = 0 then 0 else 7)

/-- Router of memory port `k` of a die (R227). -/
def memPortXY (die k : Nat) : Nat × Nat :=
  if k < 8 then xyOf die (if die < 2 then 0 else 7) k
  else xyOf die (k - 8) (if die % 2 = 0 then 0 else 7)

/-- Router of torus port 3 x die + index (Table 11-3). -/
def torusPortXY (port : Nat) : Nat × Nat :=
  let die := port / 3
  let row := if die < 2 then 0 else 7
  let col := if die % 2 = 0 then 0 else 7
  match port % 3 with
  | 0 => xyOf die (if die < 2 then 1 else 6) col
  | 1 => xyOf die row (if die % 2 = 0 then 1 else 6)
  | _ => xyOf die row col

/-- The memory port of an HBM4 address: die and port (Table 12-2). -/
def hbmPort (pa : Nat) : Nat × Nat :=
  let st := pa / 2 ^ 36
  (st / 4, 4 * (st % 4) + pa / 64 % 4)

/-- Router of the owner of a physical address (R240). -/
def ownerXY (pa : Nat) : Nat × Nat :=
  match place pa with
  | .hbm _ => memPortXY (hbmPort pa).1 (hbmPort pa).2
  | .scratch p _ => xyOfCore p
  | .accum q _ => xyOfQuad q
  | .wbuf q _ => xyOfQuad q
  | .hole => (0, 0)

/-- Steps from `a` to `b` round a ring of 16: positive way when true; a tie takes the positive way (11 R230). -/
def ringWay (a b : Nat) : Bool × Nat :=
  let f := (b + 16 - a) % 16
  if f ≤ 8 then (true, f) else (false, 16 - f)

/-- Hops of a minimal route. -/
def hops (a b : Nat × Nat) : Nat := (ringWay a.1 b.1).2 + (ringWay a.2 b.2).2

/-! Parts of the state. -/

def State.core (s : State) (p : Nat) : Core := Tab.get Core.reset s.cores p
def State.setCore (s : State) (p : Nat) (c : Core) : State := { s with cores := s.cores.put p c }
def State.quad (s : State) (q : Nat) : Quad := Tab.get (Quad.init q) s.quads q
def State.setQuad (s : State) (q : Nat) (x : Quad) : State := { s with quads := s.quads.put q x }
def State.die (s : State) (d : Nat) : Die := Tab.get Die.reset s.dies d
def State.setDie (s : State) (d : Nat) (x : Die) : State := { s with dies := s.dies.put d x }
def State.ctx (s : State) (c : Nat) : Ctx := Tab.get Ctx.reset s.ctxs c
def State.setCtx (s : State) (c : Nat) (x : Ctx) : State := { s with ctxs := s.ctxs.put c x }
def State.port (s : State) (p : Nat) : Port := Tab.get Port.reset s.ports p
def State.setPort (s : State) (p : Nat) (x : Port) : State := { s with ports := s.ports.put p x }
def State.linkAt (s : State) (l : Nat) : Link := Tab.get Link.reset s.links l
def State.setLink (s : State) (l : Nat) (x : Link) : State := { s with links := s.links.put l x }
def State.setHub (s : State) (h : Hub) : State := { s with hub := h }
def State.emit (s : State) (o : Out) : State := { s with outbox := s.outbox ++ [o] }

/-- A context on one of its logical cores. -/
def Ctx.lc (c : Ctx) (l : Nat) : CtxCore := Tab.get (CtxCore.init 0) c.lcs l
def Ctx.setLc (c : Ctx) (l : Nat) (x : CtxCore) : Ctx := { c with lcs := c.lcs.put l x }
def State.lc (s : State) (c l : Nat) : CtxCore := (s.ctx c).lc l
def State.setLc (s : State) (c l : Nat) (x : CtxCore) : State := s.setCtx c ((s.ctx c).setLc l x)

/-- The logical core of a context at a core position. -/
def Ctx.lcoreAt (c : Ctx) (p : Nat) : Option Nat := (c.lcs.find? (fun e => e.2.pos = p)).map Prod.fst

/-- The instance in a slot. -/
def Core.inst? (c : Core) (sl : Nat) : Option Inst := (c.slots[sl]?).getD none
def Core.setSlot (c : Core) (sl : Nat) (i : Option Inst) : Core := { c with slots := c.slots.setIfInBounds sl i }
def State.inst? (s : State) (p sl : Nat) : Option Inst := (s.core p).inst? sl
def State.setInst (s : State) (p sl : Nat) (i : Option Inst) : State := s.setCore p ((s.core p).setSlot sl i)
def State.setCur (s : State) (i : Inst) : State := s.setInst s.curP s.curS (some i)

/-- A slot of a core that satisfies a test, the lowest first. -/
def Core.findSlot (c : Core) (f : Inst → Bool) : Option Nat :=
  (List.range 8).find? (fun sl =>
    match c.inst? sl with
    | some i => f i
    | none => false)

/-- The lowest-numbered free slot (01 R20). -/
def Core.freeSlot (c : Core) : Option Nat := (List.range 8).find? (fun sl => (c.inst? sl).isNone)

/-- Every instance of a context: core position, slot, instance. -/
def State.insts (s : State) (c : Nat) : List (Nat × Nat × Inst) :=
  s.cores.flatMap (fun e =>
    (List.range 8).filterMap (fun sl =>
      match e.2.inst? sl with
      | some i => if i.ctx = c then some (e.1, sl, i) else none
      | none => none))

/-- Every instance of a context changed. -/
def State.mapInsts (s : State) (c : Nat) (f : Inst → Option Inst) : State :=
  { s with cores := s.cores.map (fun e =>
      (e.1, { e.2 with slots := e.2.slots.map (fun o =>
        match o with
        | some i => if i.ctx = c then f i else some i
        | none => none) })) }

/-- A fresh number for a flight, an instance or a command. -/
def State.fresh (s : State) : Nat × State := (s.nextId, { s with nextId := s.nextId + 1 })

/-- A value that the spec leaves open (log 3). -/
def State.free (s : State) : Nat × State := (Config.freeNat s.freeCtr, { s with freeCtr := s.freeCtr + 1 })

def State.flight? (s : State) (fid : Nat) : Option Flight := s.flights.find? (fun f => f.id = fid)
def State.dropFlight (s : State) (fid : Nat) : State := { s with flights := s.flights.filter (fun f => f.id != fid) }
def State.setFlight (s : State) (f : Flight) : State :=
  { s with flights := s.flights.map (fun g => if g.id = f.id then f else g) }

/-! Registers (01 R9, R10, R12): the only places that read or write them. -/

def Inst.readG (i : Inst) (r : GReg) : Word := if r = 0 then 0 else i.g[r.toNat]
def Inst.readV (i : Inst) (r : VReg) : VWord := i.v[r.toNat]
def Inst.readK (i : Inst) (r : KReg) : KWord := if r = 0 then 0xFFFF else i.k[r.toNat]
def Inst.readM (i : Inst) (r : XReg) : Word := i.m[r.toNat]
def Inst.readD (i : Inst) (r : XReg) : DWord := i.d[r.toNat]
def Inst.readQ (i : Inst) (r : XReg) : Word := i.q[r.toNat]

/-- g0 discards what is written (R10). -/
def Inst.setG (i : Inst) (r : GReg) (x : Word) : Inst := if r = 0 then i else { i with g := i.g.set r.toNat x }
def Inst.setV (i : Inst) (r : VReg) (x : VWord) : Inst := { i with v := i.v.set r.toNat x }
/-- k0 discards what is written (R10). -/
def Inst.setK (i : Inst) (r : KReg) (x : KWord) : Inst := if r = 0 then i else { i with k := i.k.set r.toNat x }
def Inst.setD (i : Inst) (r : XReg) (x : DWord) : Inst := { i with d := i.d.set r.toNat x }
def Inst.setQ (i : Inst) (r : XReg) (x : Word) : Inst := { i with q := i.q.set r.toNat x }

/-- A destination names a register that `e` also names. -/
def Dest.clashes : Dest → Dest → Bool
  | .g a, .g b => a == b
  | .v a, .v b => a == b
  | .d a, .d b => a == b
  | .ring a _, .g b => a == b
  | .g a, .ring b _ => a == b
  | .ring a _, .ring b _ => a == b
  | _, _ => false

/-- The destination of a result in a g register; g0 takes none. -/
def gDest (d : GReg) : Dest := if d = 0 then .none else .g d

/-- A younger write of a destination replaces the result of every older one still to come (R12). -/
def Inst.supersede (i : Inst) (d : Dest) : Inst :=
  { i with
    pend := i.pend.map (fun p => if p.dst.clashes d then { p with live := false } else p)
    vpend := i.vpend.map (fun v =>
      match d, v.gw with
      | .g r, some (r', _) => if r = r' then { v with glive := false } else v
      | _, _ => v) }

/-- The same for a k register: the flags of an older vector instruction still count (01 R12, R16). -/
def Inst.supersedeK (i : Inst) (r : KReg) : Inst :=
  { i with vpend := i.vpend.map (fun v =>
      match v.kw with
      | some (r', _) => if r = r' then { v with kw := none } else v
      | none => v) }

/-- A result of an instruction that completes as it issues. -/
def Inst.writeG (i : Inst) (r : GReg) (x : Word) : Inst := (i.supersede (.g r)).setG r x

/-- A result that will be written later. -/
def Inst.await (i : Inst) (fid : Nat) (d : Dest) (returning : Bool) (value : Option Word) : Inst :=
  let i := i.supersede d
  { i with pend := i.pend ++ [⟨fid, d, true, returning, value⟩] }

def Inst.dropPend (i : Inst) (fid : Nat) : Inst := { i with pend := i.pend.filter (fun p => p.id != fid) }

/-! The status word (01 Table 01-3). -/

def Inst.status (i : Inst) : Word :=
  BitVec.ofNat 64 (i.prio * 2 ^ 30 + cond i.join (2 ^ 29) 0 + cond i.reply (2 ^ 28) 0 + cond i.rsafe (2 ^ 27) 0
    + i.flags.bits)

/-! Messages (06 Table 06-1). -/

def hdrZero : Hdr := ⟨0, 0, 0, 0, 0, 0, 0, 0, 0, 0, 0, 0, 0, 0, 0, 0, 0, 0, 0, 0⟩

def hdrWord (h : Hdr) : Nat → Word
  | 0 => (h.dchip ++ h.dcore ++ h.kind ++ h.gen ++ h.prio ++ h.hidx ++ (0 : BitVec 4) ++ h.tag : BitVec 64)
  | 1 => (h.schip ++ h.score ++ (0 : BitVec 3) ++ h.ctx ++ h.jslot ++ (0 : BitVec 2) ++ h.seqn ++ h.plen : BitVec 64)
  | 2 => (h.chan ++ h.rsc ++ (0 : BitVec 2) ++ h.ctrn ++ h.ccnt ++ (0 : BitVec 32) : BitVec 64)
  | 3 => h.rroute
  | 4 => ((0 : BitVec 48) ++ h.rstat ++ (0 : BitVec 2) ++ h.midx : BitVec 64)
  | _ => 0

/-- The header of its words (06 Table 06-1); reserved bits are not kept. -/
def hdrOfWords (m0 m1 m2 m3 m4 : Word) : Hdr where
  dchip := m0.extractLsb' 48 16
  dcore := m0.extractLsb' 38 10
  kind := m0.extractLsb' 36 2
  gen := m0.extractLsb' 34 2
  prio := m0.extractLsb' 32 2
  hidx := m0.extractLsb' 20 12
  tag := m0.extractLsb' 0 16
  schip := m1.extractLsb' 48 16
  score := m1.extractLsb' 38 10
  ctx := m1.extractLsb' 30 5
  jslot := m1.extractLsb' 27 3
  seqn := m1.extractLsb' 9 16
  plen := m1.extractLsb' 0 9
  chan := m2.extractLsb' 59 5
  rsc := m2.extractLsb' 56 3
  ctrn := m2.extractLsb' 48 6
  ccnt := m2.extractLsb' 32 16
  rroute := m3
  rstat := m4.extractLsb' 8 8
  midx := m4.extractLsb' 0 6

/-- The 64 bytes of a header. -/
def hdrBytes (h : Hdr) : List Byte := (List.range 8).flatMap (fun j => leBytes 8 (hdrWord h j).toNat)

def word64 (n : Nat) : Word := BitVec.ofNat 64 n

/-- The first payload word, 0 when PLEN is below 8 (10 R216). -/
def msgFirstWord (m : Msg) : Word := if m.hdr.plen.toNat < 8 then 0 else word64 (ofLe (m.payload.take 8))

/-- m8 to m15 of a payload: bytes beyond its length read 0 (01 Table 01-2). -/
def payloadWords (bs : List Byte) : List Word := (List.range 8).map (fun j => word64 (ofLe (sliceBytes bs (8 * j) 8)))

/-! Scopes (00 R4, 06 R107). -/

def scopeNum : Scope → Nat
  | .core => 1 | .quad => 2 | .die => 3 | .pkg => 4 | .pod => 5 | .sys => 6

/-- Smallest scope, by code, that contains two core positions of this module. -/
def scopeOfCores (p p' : Nat) : Nat :=
  if p = p' then 1 else if quadOf p = quadOf p' then 2 else if dieOf p = dieOf p' then 3 else 4

/-! Handler images (03 R53, R60). -/

/-- Bits [hi:lo] of a number. -/
def bitsOf (x hi lo : Nat) : Nat := x / 2 ^ lo % 2 ^ (hi - lo + 1)

/-- The handler header of its two words (03 Table 03-8). -/
def HHdr.ofWords (w0 w1 : Nat) : HHdr where
  prio := bitsOf w0 59 58
  join := bitsOf w0 57 54
  gcnt := bitsOf w0 53 47
  vcnt := bitsOf w0 46 41
  dcnt := bitsOf w0 40 36
  rsf := bitsOf w0 35 35 == 1
  rcl := bitsOf w0 34 34 == 1
  glive := bitsOf w0 33 27
  vlive := bitsOf w0 26 21
  dlive := bitsOf w0 20 16
  budget := bitsOf w0 15 0
  len := bitsOf w1 51 32

/-- Address of a handler image of a module image (03 Table 03-11). -/
def State.handlerAddr (s : State) (image hidx : Nat) : Nat :=
  image + s.readLe (image + s.readLe (image + 24) 8 + 8 * hidx) 8

/-- The first poisoned block that the core would read of a module image to find a handler and its header (21 R353). -/
def State.imageBad (s : State) (image hidx : Nat) : Option Nat :=
  match s.poisonAt image 64 with
  | some b => some b
  | none =>
    match s.poisonAt (image + s.readLe (image + 24) 8 + 8 * hidx) 8 with
    | some b => some b
    | none => s.poisonAt (s.handlerAddr image hidx) 16

/-- The poisoned block that hides a handler of a context's generation. -/
def State.handlerBad (s : State) (c gen hidx : Nat) : Option Nat :=
  ((s.ctx c).tables.get? gen).bind (fun t => if t.bound then s.imageBad t.image hidx else none)

/-- Address and header of a handler of a context's generation; none when the generation is not bound, the index names no
handler (10 R214, 16 R281), or a poisoned block of its image returns no data (21 R353). -/
def State.handler? (s : State) (c gen hidx : Nat) : Option (Nat × HHdr) :=
  match (s.ctx c).tables.get? gen with
  | none => none
  | some t =>
    if t.bound && (s.imageBad t.image hidx).isNone && decide (hidx < s.readLe (t.image + 8) 2) then
      let a := s.handlerAddr t.image hidx
      some (a, HHdr.ofWords (s.readLe a 8) (s.readLe (a + 8) 8))
    else none

/-- A handler's default priority; 3 for an index that names none. -/
def State.defaultPrio (s : State) (c gen hidx : Nat) : Nat :=
  match s.handler? c gen hidx with
  | some (_, h) => h.prio
  | none => 3

/-! Per-context counters (22 R363). -/

/-- Counts `n` on a die; the increment reaches the hub with the die's next forwarding. -/
def State.count (s : State) (die c k n : Nat) : State :=
  if n = 0 then s
  else
    let d := s.die die
    let t := Tab.get [] d.pendCnt c
    s.setDie die { d with pendCnt := d.pendCnt.put c (Tab.put t k (Tab.get 0 t k + n)) }

/-- A saturating addition: the sum and whether it would pass 2^64 - 1. -/
def sat64 (a b : Nat) : Nat × Bool := if a + b < 2 ^ 64 then (a + b, false) else (2 ^ 64 - 1, true)

/-- An increment applied to the hub's total of a context. -/
def Ctx.addCounter (c : Ctx) (k n : Nat) : Ctx :=
  let (t, st) := sat64 (Tab.get 0 c.counters k) n
  { c with
    counters := c.counters.put k t
    sticky := if st then c.sticky.put k true else c.sticky }

/-- One die's pending increments of a context moved to the hub. -/
def State.forwardCtx (s : State) (die c : Nat) : State :=
  let d := s.die die
  let t := Tab.get [] d.pendCnt c
  let s := s.setCtx c (t.foldl (fun x e => x.addCounter e.1 e.2) (s.ctx c))
  s.setDie die { d with pendCnt := d.pendCnt.del c }

/-- Every die's increments of a context forwarded: always before a save, a dump or END completes. -/
def State.forwardAll (s : State) (c : Nat) : State := (List.range 4).foldl (fun s d => s.forwardCtx d c) s

/-- What CNTRD reads: the hub's total plus what the issuing die still holds (R363). -/
def State.counterRead (s : State) (die c k : Nat) : Nat × Bool :=
  let x := s.ctx c
  let (t, st) := sat64 (Tab.get 0 x.counters k) (Tab.get 0 (Tab.get [] (s.die die).pendCnt c) k)
  (t, st || Tab.get false x.sticky k)

/-- A unit raises a raw signal of its die's logic matrix in this cycle (22 Table 22-3); the position is module-wide. -/
def State.signal (s : State) (sig pos : Nat) : State :=
  { s with signals := (sig, pos, s.clock) :: s.signals.filter (fun e => e.2.2 == s.clock) }

/-! Flights. -/

/-- A new flight that stands at a router. -/
def State.launchFlight (s : State) (f : Flight) : Nat × State :=
  let (fid, s) := s.fresh
  (fid, { s with flights := s.flights ++ [{ f with id := fid, arr := fid, cyc := s.clock }] })

def Who.zero : Who := ⟨0, 0, 0, 0, 0, 0, 0xFFF, 0, 0, false, 0⟩

/-- The issuer of an instruction. -/
def whoOf (i : Inst) (p sl : Nat) : Who :=
  ⟨i.ctx, i.lcore, p, sl, i.iid, i.gen, i.hidx, i.tag, i.pc, i.fromFault, i.inum⟩

/-- Input ports, ten times their place in Table 11-2. On the local port the cores come first, then the array, the spring
and the chunk unit (11 R226); on the down port the memory ports by number, then the hub bridge (R227). -/
def inpCore (p : Nat) : Nat := 10 + p % 4
def inpArray : Nat := 14
def inpSpring : Nat := 15
def inpUp : Nat := 60
def inpHub : Nat := 90
/-- The hub's own messages for the host, which use no bridge (R227). -/
def inpNoBridge : Nat := 99

/-- Input port by which what an owner sends enters its router. A weight buffer sends in the array's place. -/
def inpOwner (pa : Nat) : Nat :=
  match place pa with
  | .hbm _ => 70 + (hbmPort pa).2
  | .scratch p _ => inpCore p
  | _ => inpArray

/-- Input port by which a flight enters at its first router (11 R226, R227). -/
def entryPort (who : Who) (body : Body) : Nat :=
  match body with
  | .req r => match r.ans with
    | .peer _ _ _ => inpUp
    | .host => inpHub
    | _ => inpCore who.p
  | .rep r _ _ => match r.target with
    | some (.here pa) => inpOwner pa
    | some (.chip _ _) => inpUp
    | none => inpArray
  | .msg _ t => match t with
    | .peer _ _ _ => inpUp
    | .initial _ => inpHub
    | _ => inpCore who.p
  | .transit _ _ _ _ => inpUp
  | .barrier _ | .wput _ _ _ _ _ | .hubReq _ | .ack _ _ _ _ _ _ _ => inpCore who.p
  | .hubRep _ | .cntrd _ _ => inpHub
  | _ => inpArray

/-- Input port of a router on which a flight from another arrives: north, east, south or west (11 R226). -/
def hopPort (x y x' y' : Nat) : Nat :=
  if x = x' then (if (y + 1) % 16 = y' then 20 else 40) else if (x' + 1) % 16 = x then 30 else 50

/-- Of two arrivals at a unit, whether the first comes first: by cycle, then by input port, at one port VN1 before VN0,
then as the port brought them (05 R95, 10 R204, 11 R226). -/
def Flight.comesBefore (g f : Flight) : Bool :=
  decide (g.cyc < f.cyc) || (g.cyc == f.cyc && (decide (g.inp < f.inp) || (g.inp == f.inp &&
    ((g.reply && !f.reply) || (g.reply == f.reply && decide (g.arr < f.arr))))))

/-- A flight that has arrived at its destination router. -/
def Flight.arrived (f : Flight) : Bool :=
  match f.stage with
  | .router x y _ => x == f.dx && y == f.dy
  | _ => false

/-- Arrived in an earlier cycle, so that every arrival of its cycle stands before the unit (05 R95, 10 R204). -/
def State.ripe (s : State) (f : Flight) : Bool := f.arrived && decide (f.cyc < s.clock)

/-- The unit of a router or core that serves what a flight carries: arrivals at a core (1), the hub's journal (2), a
barrier (3); 0 for the rest. -/
def Body.unit : Body → Nat
  | .msg _ _ | .wput _ _ _ _ _ | .ringWake _ _ _ _ => 1
  | .hubReq _ => 2
  | .barrier _ => 3
  | _ => 0

/-- The first of the arrivals that stand before the same unit (05 R95, 10 R204). -/
def State.firstArrival (s : State) (f : Flight) : Bool :=
  s.ripe f && s.flights.all (fun g =>
    !(g.goal == f.goal && g.dx == f.dx && g.dy == f.dy && g.body.unit == f.body.unit && g.arrived && g.comesBefore f))

/-- A flight from one router towards a unit at another. -/
def mkFlight (who : Who) (opId : Nat) (reply : Bool) (body : Body) (goal : Goal) (src dst : Nat × Nat) : Flight where
  id := 0
  opId := opId
  who := who
  reply := reply
  vc := false
  body := body
  goal := goal
  dx := dst.1
  dy := dst.2
  sx := src.1
  sy := src.2
  stage := .router src.1 src.2 false
  arr := 0
  cyc := 0
  inp := entryPort who body
  after := []
  afterPerf := []
  releasing := false
  home := none

/-! Routing between chips (18 R310, R311, R317). -/

/-- Port numbers of a direction (0 X+, 1 X-, 2 Y+, 3 Y-, 4 Z+, 5 Z-), the lower die first (Table 11-3). -/
def dirPorts : Nat → Nat × Nat
  | 0 => (3, 9)
  | 1 => (0, 6)
  | 2 => (7, 10)
  | 3 => (1, 4)
  | 4 => (2, 5)
  | _ => (8, 11)

/-- The way round a ring of `n`: none when the coordinates agree; a tie takes the positive way (R311). -/
def torusWay (a b n : Nat) : Option Bool :=
  if a = b then none
  else if 2 * ((b + n - a) % n) ≤ n then some true else some false

/-- The first direction of the route to a coordinate, dimension order X, Y, Z. -/
def Geom.direction (g : Geom) (x y z : Nat) : Option Nat :=
  match torusWay g.x x g.px with
  | some up => some (if up then 0 else 1)
  | none =>
    match torusWay g.y y g.py with
    | some up => some (if up then 2 else 3)
    | none =>
      match torusWay g.z z g.pz with
      | some up => some (if up then 4 else 5)
      | none => none

/-- The roster entry of a rank of a context. -/
def Ctx.rankEnt (c : Ctx) (rank : Nat) : Option RosterEnt :=
  match c.roster with
  | some r => r.ranks[rank]?
  | none => none

/-- The coordinate of a rank's chip. -/
def Ctx.coordOf (c : Ctx) (rank : Nat) : Option (Nat × Nat × Nat) := (c.rankEnt rank).map (fun e => (e.x, e.y, e.z))

/-- Number of ranks; a context without a roster has its own rank alone (20 R328). -/
def Ctx.hasRank (c : Ctx) (rank : Nat) : Bool :=
  match c.roster with
  | some r => decide (rank < r.ranks.length)
  | none => rank == c.desc.rank

/-- The two ports of the first direction towards a rank. -/
def State.portsTo (s : State) (c : Nat) (rank : Nat) : Option (Nat × Nat) :=
  match s.hub.geom, (s.ctx c).rankEnt rank with
  | some g, some e => (g.direction e.x e.y e.z).map dirPorts
  | _, _ => none

/-- Chip lost on this chip: in the lost set, without geometry, or both ports of its direction down (R317, R381). -/
def State.chipLost (s : State) (c : Nat) (rank : Nat) : Bool :=
  match (s.ctx c).rankEnt rank, s.portsTo c rank with
  | some e, some (a, b) => s.hub.lost.contains e.chipId || (!(s.port a).up && !(s.port b).up)
  | _, _ => true

/-- The port of a direction that a unit takes, the one on the lower die named first (R311): a reply always takes that one, a
request the one with more free flit room, then the one fewer hops away, then the lower die. One that is down leaves the
other. -/
def State.pickPort (s : State) (ab : Nat × Nat) (reply : Bool) (src : Nat × Nat) : Nat :=
  let (a, b) := ab
  if !(s.port a).up then b
  else if !(s.port b).up then a
  else if reply then a
  else if (s.port b).used0 < (s.port a).used0 then b
  else if (s.port a).used0 < (s.port b).used0 then a
  else if hops src (torusPortXY b) < hops src (torusPortXY a) then b else a

/-- Egress port towards a rank. -/
def State.egressPort (s : State) (c rank : Nat) (reply : Bool) (src : Nat × Nat) : Nat :=
  match s.portsTo c rank with
  | none => 0
  | some ab => s.pickPort ab reply src

/-- The two ports of the first direction towards a coordinate. -/
def State.portsBack (s : State) (home : Option (Nat × Nat × Nat)) : Option (Nat × Nat) :=
  match s.hub.geom, home with
  | some g, some (x, y, z) => (g.direction x y z).map dirPorts
  | _, _ => none

/-- An answer to a peer's unit starts back to the chip that it came from, on VN1: the port on the lower die, or the other
while that one is down (R311). It enters as its body does, unless `unit` names another input. -/
def State.answerPeer (s : State) (f : Flight) (who : Who) (body : Body) (src : Nat × Nat) (unit : Option Nat := none) :
    State :=
  let port := match s.portsBack f.home with
    | some ab => s.pickPort ab true src
    | none => 0
  let g := mkFlight who f.opId true body (.egress port) src (torusPortXY port)
  (s.launchFlight { g with home := f.home, inp := unit.getD g.inp }).2

/-! Sending a message. -/

/-- Where a message goes, from a router: the core of its destination, the host through the die's hub bridge, or a
peer's egress port (11 R227). None when its destination core is not one of the context's. -/
def State.msgGoal (s : State) (c : Nat) (h : Hdr) (src : Nat × Nat) : Option (Goal × (Nat × Nat)) :=
  let x := s.ctx c
  if h.dchip.toNat ≠ x.desc.rank then
    let port := s.egressPort c h.dchip.toNat (h.kind == 1) src
    some (.egress port, torusPortXY port)
  else if h.dcore.toNat = 1023 then
    let d := dieAt src.1 src.2
    some (.hub d, cornerXY d)
  else
    match x.lcs.get? h.dcore.toNat with
    | some l => some (.core l.pos, xyOfCore l.pos)
    | none => none

/-- Whether acceptance is acknowledged to anyone. -/
def Track.told : Track → Bool
  | .none | .record | .reply => false
  | _ => true

/-- Hands a message to the fabric at a router (02 Table 02-8 Deliver), by the input port of the unit that sends it: the
issuing core's, unless `unit` names another (11 R226). A destination core that the context does not have is answered with
RSTAT 3 where the message starts (18 R314). -/
def State.deliver (s : State) (who : Who) (opId : Nat) (m : Msg) (t : Track) (src : Nat × Nat)
    (after afterPerf : List Nat) (releasing : Bool) (unit : Option Nat := none) : State :=
  match s.msgGoal m.hdr.ctx.toNat m.hdr src with
  | some (goal, dst) =>
    let f := mkFlight who opId (m.hdr.kind == 1) (.msg m t) goal src dst
    let f := { f with
      inp := unit.getD f.inp
      after := after
      afterPerf := afterPerf
      releasing := releasing
      stage := if after.isEmpty && afterPerf.isEmpty then f.stage else .held }
    (s.launchFlight f).2
  | none =>
    if !t.told then s
    else
      let body := Body.ack t 3 0 m.hdr.midx.toNat opId m.hdr.dchip.toNat m.hdr.dcore.toNat
      (s.launchFlight (mkFlight who opId true body (.core who.p) src (xyOfCore who.p))).2

/-! Fault records (21 R344 to R347). -/

/-- Fault codes (21 Table 21-1). -/
def fIllegal : Nat := 0x0101
def fReserved : Nat := 0x0102
def fFootprint : Nat := 0x0103
def fBounds : Nat := 0x0104
def fTrap : Nat := 0x0105
def fOperand : Nat := 0x0106
def fMisaligned : Nat := 0x0201
def fAddress : Nat := 0x0202
def fAtomicTarget : Nat := 0x0203
def fWriteProtect : Nat := 0x0204
def fPage : Nat := 0x0205
def fPeerLost : Nat := 0x0206
def fNonRepro : Nat := 0x0207
def fBarrier : Nat := 0x0301
def fRing : Nat := 0x0302
def fJournal : Nat := 0x0303
def fDiverge : Nat := 0x0304
def fDispatch : Nat := 0x0305
def fTileRecord : Nat := 0x0306
def fBadScale : Nat := 0x0401
def fChannel : Nat := 0x0402
def fScaleSeq : Nat := 0x0403
def fEncoding : Nat := 0x0404
def fAxis : Nat := 0x0405
def fNonInv : Nat := 0x0406
def fPattern : Nat := 0x0407
def fUncorr : Nat := 0x0501
def fSilo : Nat := 0x0601
def fQuad : Nat := 0x0602
def fFabric : Nat := 0x0603

/-- The source that numbers a record (R347). -/
inductive Source where
  | core (p unit : Nat)
  | quad (q unit : Nat)
  | die (d unit idx : Nat)
  | hub
  deriving DecidableEq, Repr

/-- What a record says beyond its class (21 Table 21-2). -/
structure RecInfo where
  ended : Bool := false
  sec : Bool := false
  tag : Nat := 0
  hidx : Nat := 0xFFF
  gen : Nat := 0
  lcore : Nat := 1023
  slot : Nat := 0
  iaddr : Nat := 0
  addr : Nat := 0
  det : Nat := 0
  unit : Nat := 0
  uidx : Nat := 0
  prog : Nat := 0
  m14 : Nat := 0
  deriving DecidableEq, Repr

/-- The router at which a source's messages start: a TLB slice stands beside its own (17 R297). -/
def Source.xy : Source → Nat × Nat
  | .core p _ => xyOfCore p
  | .quad q _ => xyOfQuad q
  | .die d unit idx => if unit = 7 then xyOfQuad (64 * d + idx) else cornerXY d
  | .hub => cornerXY 0

/-- The input port by which a source's messages enter. -/
def Source.inp : Source → Nat
  | .core p _ => inpCore p
  | .quad _ unit => if unit = 5 then inpSpring else inpArray
  | .die _ unit _ => if unit = 7 then inpArray else inpHub
  | .hub => inpNoBridge

/-- The next record number of a source for a context, from 1 (R347). -/
def State.nextFseq (s : State) (src : Source) (c : Nat) : Nat × State :=
  match src with
  | .core p u =>
    let x := s.core p
    let n := Tab.get 0 x.fseq (u * 32 + c) + 1
    (n, s.setCore p { x with fseq := x.fseq.put (u * 32 + c) n })
  | .quad q u =>
    let x := s.quad q
    let n := Tab.get 0 x.fseq (u * 32 + c) + 1
    (n, s.setQuad q { x with fseq := x.fseq.put (u * 32 + c) n })
  | .die d u j =>
    let x := s.die d
    let n := Tab.get 0 x.fseq ((u * 64 + j) * 32 + c) + 1
    (n, s.setDie d { x with fseq := x.fseq.put ((u * 64 + j) * 32 + c) n })
  | .hub =>
    let n := Tab.get 0 s.hub.fseq c + 1
    (n, s.setHub { s.hub with fseq := s.hub.fseq.put c n })

/-- The eight payload words of a record (21 Table 21-2). -/
def recordWords (code c fseq : Nat) (host done : Bool) (r : RecInfo) : List Nat :=
  [ code * 2 ^ 48 + cond done (2 ^ 35) 0 + cond host (2 ^ 34) 0 + cond r.ended (2 ^ 33) 0 + cond r.sec (2 ^ 32) 0
      + c * 2 ^ 27 + r.tag % 2 ^ 16,
    r.hidx % 4096 * 2 ^ 52 + r.gen % 4 * 2 ^ 50 + r.lcore % 1024 * 2 ^ 40 + (if r.ended then 0 else r.slot % 8) * 2 ^ 37
      + fseq % 2 ^ 32,
    r.iaddr, r.addr, r.det,
    r.unit % 256 * 2 ^ 56 + r.uidx % 256 * 2 ^ 48 + r.prog % 2 ^ 48,
    r.m14, 0 ]

/-- A record as a message: KIND 3, PRIO 0, TAG 0, CHAN 0, RSC 0, the current GEN (R346). -/
def State.recordMsg (s : State) (c : Nat) (score : Nat) (toHost : Bool) (words : List Nat) : Msg :=
  let x := s.ctx c
  { hdr := { hdrZero with
      dchip := BitVec.ofNat 16 x.desc.rank
      dcore := if toHost then 1023 else BitVec.ofNat 10 x.desc.fcore
      kind := 3
      gen := BitVec.ofNat 2 x.gen
      hidx := if toHost then 0xFFF else BitVec.ofNat 12 x.desc.fhidx
      schip := BitVec.ofNat 16 x.desc.rank
      score := BitVec.ofNat 10 score
      ctx := BitVec.ofNat 5 c
      jslot := 7
      plen := 64 }
    payload := words.flatMap (fun w => leBytes 8 w)
    scale := none }

/-- Whether the context's fault handler may receive a record (R346). -/
def State.handlerTakes (s : State) (c : Nat) (fromFault : Bool) : Bool :=
  let x := s.ctx c
  x.desc.fhv && !fromFault &&
    match s.handler? c x.gen x.desc.fhidx with
    | some (_, h) => h.join == 0 && !h.rcl
    | none => false

/-- Builds a fault record and sends it: to the fault handler, to the host, or, while the context's dump is in progress,
into its index (R345 to R347, R350). `fatal` is kind F. -/
def State.record (s : State) (src : Source) (c code : Nat) (fatal fromFault : Bool) (r : RecInfo) : State :=
  let (n, s) := s.nextFseq src c
  let x := s.ctx c
  match x.halt with
  | .dump _ =>
    let m := s.recordMsg c r.lcore true (recordWords code c n false false { r with sec := true })
    if x.records.length < 3071 then s.setCtx c { x with records := x.records ++ [m] }
    else
      let m := s.recordMsg c r.lcore true (recordWords code c n true false { r with sec := true })
      let s := s.setCtx c { x with ndrop := min (x.ndrop + 1) (2 ^ 32 - 1) }
      s.deliver Who.zero 0 m .record src.xy [] [] false (some src.inp)
  | _ =>
    let toHost := fatal || !s.handlerTakes c fromFault
    let m := s.recordMsg c r.lcore toHost (recordWords code c n (toHost && x.desc.fhv) false r)
    s.deliver Who.zero 0 m .record src.xy [] [] false (some src.inp)

/-! Slots that end and slots that stop. -/

/-- A queue entry held for a long payload is let go (10 R207). -/
def State.unhold (s : State) (i : Inst) : State :=
  match i.heldPrio with
  | none => s
  | some p =>
    let l := s.lc i.ctx i.lcore
    s.setLc i.ctx i.lcore { l with held := l.held.put p (Tab.get 0 l.held p - 1) }

/-- The gleaner's record of an instance's end (22 R368). -/
def State.gleanEnd (s : State) (p : Nat) (i : Inst) : State :=
  let c := s.core p
  s.setCore p { c with dlog := c.dlog.map (fun e =>
    if e.ctx = i.ctx && e.inum = i.inum then { e with stop := s.clock } else e) }

/-- The vector operations of a slot that its unit still has to complete (22 R365). -/
def State.countVec (s : State) (p : Nat) (i : Inst) : State :=
  i.vpend.foldl (fun s e =>
    match e.vec with
    | some (f, k) => s.count (dieOf p) i.ctx (0x20 + f) k
    | none => s) s

/-- END, and the end of an instance by a fault: the slot frees at once; loads still outstanding are discarded when
they return (04 R80). -/
def State.endInst (s : State) (p sl : Nat) (i : Inst) : State :=
  (((s.countVec p i).unhold i).gleanEnd p i).setInst p sl none

/-- A slot stops at its instruction boundary (21 R348 step 2, 22 R371 step 2). A fatal fault in a stop or a pre-emption makes
it one of the dump's. -/
def Inst.halt (code : Nat) (i : Inst) : Inst := { i with stopped := .halted code }

/-- The record that names an instance. -/
def recOf (w : Who) (ended : Bool) (addr det : Nat) : RecInfo :=
  { ended := ended, tag := w.tag, hidx := w.hidx, gen := w.gen, lcore := w.lcore, slot := w.sl,
    iaddr := w.iaddr.toNat, addr := addr, det := det }

/-- A dump waits behind those raised before it; of those raised in one cycle, behind lower-numbered contexts (21 R350). -/
def queueDump (c cycle : Nat) : List (Nat × Nat) → List (Nat × Nat)
  | [] => [(c, cycle)]
  | e :: t => if e.1 = c then e :: t else if e.2 = cycle ∧ c < e.1 then (c, cycle) :: e :: t else e :: queueDump c cycle t

/-- A fault of kind F: the primary record goes to the host, the context stops and its dump begins (21 R348). A fault
raised while the context's dump is in progress only adds a record (R350). -/
def State.fatal (s : State) (src : Source) (c code : Nat) (r : RecInfo) : State :=
  let x := s.ctx c
  match x.halt with
  | .dump _ => s.record src c code true false r
  | _ =>
    let (n, s) := s.nextFseq src c
    let m := s.recordMsg c r.lcore true (recordWords code c n x.desc.fhv false r)
    let s := s.deliver Who.zero 0 m .record src.xy [] [] false (some src.inp)
    let s := s.setCtx c { s.ctx c with st := .saving, halt := .dump m, records := [m], ndrop := 0, dumpDies := [] }
    let s := s.mapInsts c (fun i => some (i.halt 5))
    s.setHub { s.hub with dumpQ := queueDump c s.clock s.hub.dumpQ }

/-- TAKING A FAULT of kind I: the issuing instance ends under Raise, its record is built and sent, and the slot frees
(02 Table 02-8, 21 R344 to R346). Memory keeps what the instance did before. -/
def State.raiseAt (s : State) (p sl : Nat) (i : Inst) (code addr det : Nat) : State :=
  let w := whoOf i p sl
  (s.record (.core p 0) i.ctx code false i.fromFault (recOf w false addr det)).endInst p sl i

/-! Steps with nothing to do. -/

/-- A step whose unit, or whose outside party, has nothing to do in this state: nothing moves (as 01 R19 has it of a
core with no ready slot). `_why` says which condition does not hold. -/
def State.idle (s : State) (_why : String) : Out1 := .next s

/-! The issuing slot. -/

/-- Counts the word that issues (22 Table 22-1, 01 R17, R18), and runs the meaning on the issuing instance. -/
def State.onInst (s : State) (f : Inst → State → Out1) : Out1 :=
  match s.inst? s.curP s.curS with
  | none => .fault .noInstance
  | some i =>
    let i := { i with
      sinceSafe := i.sinceSafe + 1
      sincePre := match i.stopped with
        | .pending => i.sincePre + 1
        | _ => i.sincePre }
    f i ((s.count (dieOf s.curP) i.ctx 0x110 1).setCur i)

/-- The fault of the issuing instruction. -/
def State.raise (s : State) (i : Inst) (code addr det : Nat) : Out1 :=
  .next (s.raiseAt s.curP s.curS i code addr det)

/-- The word that issues, for the records that carry it. -/
def State.wordAt (s : State) (i : Inst) : Nat := s.readLe i.pc.toNat 8

/-- Arriving at a safe point (01 R17, R18): both counts begin again, and a slot with pre-emption pending stops. -/
def Inst.safePoint (i : Inst) : Inst :=
  { i with
    sinceSafe := 0
    sincePre := 0
    stopped := match i.stopped with
      | .pending => .halted 0
      | x => x }

/-- Word index of a code address (04 R74). -/
def Inst.index (i : Inst) (a : Word) : Nat := (a.toNat - i.hbase.toNat) / 8

/-- Whether a code address is one of the handler's words (03 R52, 04 R72). -/
def Inst.inBounds (i : Inst) (a : Word) : Bool :=
  decide (i.hbase.toNat ≤ a.toNat) && decide (a.toNat < i.hbase.toNat + 8 * i.hdr.len) && a.toNat % 8 == 0

/-- One loop level at a boundary (04 R76): the new state register, and the back edge's target. -/
def loopCheck (i : Inst) (level : Nat) (idx : Nat) : Inst × Option Word :=
  let r : GReg := BitVec.ofNat 6 (1 + level)
  let x := (i.readG r).toNat
  if bitsOf x 63 63 = 1 ∧ bitsOf x 42 23 = idx then
    if bitsOf x 22 0 > 1 then
      (i.writeG r (word64 (x - 1)), some (i.hbase + word64 (8 * bitsOf x 62 43)))
    else (i.writeG r 0, none)
  else (i, none)

/-- A result that a loop level's register g1 or g2 still waits for (04 R76, 01 R12). -/
def Inst.loopPending (i : Inst) : Bool :=
  i.pend.any (fun e => e.live && (e.dst.clashes (.g 1) || e.dst.clashes (.g 2)))
    || i.vpend.any (fun v =>
      match v.gw with
      | some (r, _) => v.glive && (r == 1 || r == 2)
      | none => false)

/-- The boundary after a word that does not set next itself: the loop levels, then the word that follows (R76). -/
def Inst.boundary (i : Inst) : Inst :=
  let idx := i.index i.pc
  match loopCheck i 1 idx with
  | (i1, some t) => { i1 with pc := t }.safePoint
  | (i1, none) =>
    match loopCheck i1 0 idx with
    | (i0, some t) => { i0 with pc := t }.safePoint
    | (i0, none) => { i0 with pc := i.pc + 8 }

/-- The boundary after a word. The check reads g1 and g2, so it stalls while a result to either is still to be written
(01 R12). -/
def Inst.advance (i : Inst) : Inst := if i.loopPending then { i with edge := true } else i.boundary

/-- A boundary that waited for g1 and g2 is passed once they are written. -/
def Inst.settleEdge (i : Inst) : Inst :=
  if i.edge && !i.loopPending then { i with edge := false }.boundary else i

/-- The boundary after a word whose gD is written while the slot waits: where that is a loop level's register, the check
waits for the value. -/
def Inst.edgeAt (i : Inst) (d : GReg) : Inst := if d = 1 ∨ d = 2 then { i with edge := true } else i.advance

/-- The boundary at which a word parks (01 R17); the wake writes gD. -/
def Inst.parkAt (i : Inst) (d : GReg) : Inst := (i.edgeAt d).safePoint

/-- The instruction ends and the slot goes on at its boundary. -/
def State.retire (s : State) (i : Inst) : Out1 := .next (s.setCur i.advance)

/-- The instruction ends with gD written. -/
def State.retireG (s : State) (i : Inst) (r : GReg) (x : Word) : Out1 := s.retire (i.writeG r x)

/-- The instruction ends with its gD to be written later by a unit. -/
def State.retireLater (s : State) (i : Inst) (r : GReg) (x : Word) : Out1 :=
  let (fid, s) := s.fresh
  s.retire (i.await fid (gDest r) false (some x))

/-- A transfer of control, already checked (04 R71 to R73). -/
def State.jump (s : State) (i : Inst) (target : Word) (safe : Bool) : Out1 :=
  let i := { i with pc := target }
  .next (s.setCur (if safe then i.safePoint else i))

/-! Operations of a core. -/

def Core.addOp (c : Core) (o : Op) : Core := { c with ops := c.ops ++ [o] }
def State.addOp (s : State) (p : Nat) (o : Op) : State := s.setCore p ((s.core p).addOp o)

/-- An operation completes (05 R89). -/
def State.completeOp (s : State) (opId : Nat) : State :=
  { s with cores := s.cores.map (fun e => (e.1, { e.2 with ops := e.2.ops.filter (fun o => o.id != opId) })) }

/-- An operation of any core changed. -/
def State.mapOp (s : State) (opId : Nat) (f : Op → Op) : State :=
  { s with cores := s.cores.map (fun e =>
      (e.1, { e.2 with ops := e.2.ops.map (fun o => if o.id = opId then f o else o) })) }

/-- The owner has taken a read's value. -/
def State.takenOp (s : State) (opId : Nat) : State := s.mapOp opId (fun o => { o with taken := true })

/-- Whether an operation still holds back one that waits for it: it is outstanding and, for a read, its value has not
been taken (12 Table 12-4). -/
def Core.blocks (c : Core) (opId : Nat) : Bool := c.ops.any (fun o => o.id = opId && !(o.rd && o.taken))

/-- Whether an operation has not completed. -/
def Core.outstanding (c : Core) (opId : Nat) : Bool := c.ops.any (fun o => o.id = opId)

/-! Counter events and stamps (10 R204, R221). -/

/-! Vectors to the host (18 R304, R305; log 51). -/

/-- A byte of the MSI-X table: each entry of 16 bytes stands masked until the host writes it. -/
def Hub.msixByte (h : Hub) (o : Nat) : Byte := (h.msix.get? (0x10000 + o)).getD (if o % 16 = 12 then 1 else 0)

/-- Vector v is masked. -/
def Hub.masked (h : Hub) (v : Nat) : Bool := (h.msixByte (16 * v + 12)).getLsbD 0

/-- Signals a vector: its message leaves, or its pending bit is set while it is masked. -/
def State.vector (s : State) (v : Nat) : State :=
  if s.hub.masked v then s.setHub { s.hub with pba := Nat.lor s.hub.pba (2 ^ v) } else s.emit (.msix v)

/-- Vectors that are pending and no longer masked are sent. -/
def State.unmasked (s : State) : State :=
  (List.range 64).foldl (fun s v =>
    if s.hub.pba.testBit v && !s.hub.masked v then
      (s.setHub { s.hub with pba := s.hub.pba - 2 ^ v }).emit (.msix v)
    else s) s

/-- The next arrival stamp of a core. -/
def State.newStamp (s : State) (p : Nat) : Nat × State :=
  let c := s.core p
  (c.stamp, s.setCore p { c with stamp := (c.stamp + 1) % 2 ^ 32 })

/-! Allotments (16 Table 16-2). -/

def CtxCore.spoff (l : CtxCore) : Nat := bitsOf l.callot.toNat 63 60
def CtxCore.splen (l : CtxCore) : Nat := bitsOf l.callot.toNat 59 56
def CtxCore.ctrb (l : CtxCore) : Nat := bitsOf l.callot.toNat 55 50
def CtxCore.ctrn (l : CtxCore) : Nat := bitsOf l.callot.toNat 49 43
def CtxCore.arr (l : CtxCore) : Bool := bitsOf l.callot.toNat 42 42 == 1

/-- The context holds the array rights of a quad (16 R279). -/
def Ctx.holdsArr (c : Ctx) (q : Nat) : Bool := c.lcs.any (fun e => quadOf e.2.pos = q && e.2.arr)

/-- The context has cores in a quad. -/
def Ctx.inQuad (c : Ctx) (q : Nat) : Bool := c.lcs.any (fun e => quadOf e.2.pos = q)

/-- A physical range lies in the context's own scratchpad allotment at a core position. -/
def CtxCore.holdsScratch (l : CtxCore) (off n : Nat) : Bool :=
  decide (l.spoff * 65536 ≤ off) && decide (off + n ≤ (l.spoff + l.splen) * 65536)

end Sys2Proof.Machine
end

