-- ==== Sys2Proof/Machine/Operands.lean ====
section
/-! DEFINITION. Operands: the registers that a word names (03 Table 03-6) with the footprint check, immediates,
effective addresses and their checks (05 R87), the region decoder (17 R294) and page tables (17 R295, R296). -/

namespace Sys2Proof.Machine

open Sys2Proof

/-! Immediates. -/

/-- SignExt(IMM32, 32) in 64 bits (04 R65). -/
def simm (imm : BitVec 32) : Word := imm.signExtend 64

/-- Target of a branch, JAL or LOOP (03 R51). -/
def branchTarget (pc : Word) (imm : BitVec 32) : Word := pc + (simm imm) * 8

/-! Registers that a word names. -/

/-- Registers read and written, by space, and whether the word accesses memory on the LS path. -/
structure Uses where
  gr : List GReg := []
  gw : List GReg := []
  vr : List VReg := []
  vw : List VReg := []
  kr : List KReg := []
  kw : List KReg := []
  dr : List XReg := []
  dw : List XReg := []
  qr : List XReg := []
  mem : Bool := false
  deriving DecidableEq, Repr

/-- D and two sources. -/
def u3 (d a b : GReg) : Uses := { gw := [d], gr := [a, b] }
def u2 (d a : GReg) : Uses := { gw := [d], gr := [a] }
/-- A vector operation that merges into its destination under a mask. -/
def uV (d : VReg) (src : List VReg) (m : VMask) : Uses := { vw := [d], vr := d :: src, kr := [m.reg] }
/-- One that writes its destination whole. -/
def uVW (d : VReg) (src : List VReg) (m : VMask) : Uses := { vw := [d], vr := src, kr := [m.reg] }
def uMemG (w r : List GReg) : Uses := { gw := w, gr := r, mem := true }
def uD (d : GReg) (a : List XReg) : Uses := { gw := [d], dr := a }
/-- A command of an engine that accesses memory: an earlier acquire orders those accesses too (12 Table 12-3). -/
def uE (d : GReg) (a : List XReg) : Uses := { gw := [d], dr := a, mem := true }

/-- The registers of each instruction word (03 Table 03-6 and each instruction's description). -/
def uses : Instr → Uses
  | .add d a b | .sub d a b | .mul d a b | .mulh d a b | .mulhn d a b | .div d a b | .divn d a b | .rem d a b
  | .remn d a b | .and d a b | .or d a b | .xor d a b | .andn d a b | .sll d a b | .srl d a b | .sra d a b
  | .rol d a b | .ror d a b | .min d a b | .max d a b | .minn d a b | .maxn d a b | .adds d a b | .subs d a b
  | .cmpeq d a b | .cmpne d a b | .cmplt d a b | .cmple d a b | .cmpltn d a b | .cmplen d a b | .crcc8 d a b
  | .crcc16 d a b | .crcc32 d a b | .crcc64 d a b | .rng d a b | .rngf d a b | .idx d a b _ => u3 d a b
  | .sel d a b c => { gw := [d], gr := [a, b, c] }
  | .clz d a | .ctz d a | .popc d a | .brev d a | .bswap d a | .bext d a _ _ | .bextz d a _ _ | .addi d a _
  | .andi d a _ | .ori d a _ | .xori d a _ | .slli d a _ | .srli d a _ | .srai d a _ | .muli d a _
  | .cmpeqi d a _ | .cmplti d a _ | .cmpltni d a _ | .mini d a _ | .maxi d a _ | .la d a _ => u2 d a
  | .bins d a _ _ => { gw := [d], gr := [d, a] }
  | .li d _ => { gw := [d] }
  | .lih d _ => { gw := [d], gr := [d] }
  | .mfm d _ => { gw := [d] }
  | .mfl d => { gw := [d] }
  | .mfq d q => { gw := [d], qr := [q] }
  | .beq a b _ | .bne a b _ | .blt a b _ | .bge a b _ | .bltn a b _ | .bgen a b _ => { gr := [a, b] }
  | .jr a => { gr := [a] }
  | .loop a level _ => { gr := [a], gw := [BitVec.ofNat 6 (1 + level.toNat)] }
  | .chunk d _ => { gw := [d] }
  | .trap a _ | .bkpt a _ | .trmark a _ => { gr := [a] }
  | .srd d _ => { gw := [d] }
  | .swr _ a | .sw1c _ a => { gr := [a] }
  | .cntrd d _ => { gw := [d] }
  | .ld8 d a _ _ | .ld16 d a _ _ | .ld32 d a _ _ | .ld64 d a _ _ | .ldz8 d a _ _ | .ldz16 d a _ _
  | .ldz32 d a _ _ => uMemG [d] [a]
  | .st8 a b _ _ | .st16 a b _ _ | .st32 a b _ _ | .st64 a b _ _ => uMemG [] [a, b]
  | .vld d a _ _ => { vw := [d], gr := [a], mem := true }
  | .vst a b _ _ => { vr := [b], gr := [a], mem := true }
  | .get d a b _ _ | .put d a b _ _ _ => uMemG [] [d, a, b]
  | .aadd d a b _ _ _ | .afadd d a b _ _ | .amin d a b _ _ _ | .amax d a b _ _ _ | .aminn d a b _ _ _
  | .amaxn d a b _ _ _ | .aand d a b _ _ _ | .aor d a b _ _ _ | .axor d a b _ _ _ | .aswap d a b _ _ _
  | .aclaim d a b _ _ _ => uMemG [d] [a, b]
  | .acas d a b _ _ _ => uMemG [d] [d, a, b]
  | .drain _ a => { gr := [a] }
  | .barrive a b c _ _ _ => { gr := [a, b, c], mem := true }
  | .watchRegister d a b c _ | .watchCancel d a b c _ => uMemG [d] [a, b, c]
  | .send d a b c _ _ | .sendm d a b c _ _ _ => uMemG [d] [a, b, c]
  | .reply a b c _ => uMemG [] [a, b, c]
  | .post a b _ => uMemG [] [a, b]
  | .msgld8 d a _ | .msgld16 d a _ | .msgld32 d a _ | .msgld64 d a _ => u2 d a
  | .tagnew d _ | .tagpark d _ => { gw := [d] }
  | .tagfree a _ => { gr := [a] }
  | .arm d a b c _ _ _ => uMemG [d] [a, b, c]
  | .qpush d q b | .qwait d q b | .qadv d q b => { gw := [d], gr := [b], qr := [q], mem := true }
  | .qpop d q => { gw := [d], qr := [q], mem := true }
  | .wput a b c => { gr := [a, b, c] }
  | .wtakeFirst d a | .wtakeStatus d a | .wtakeEmpty d a => u2 d a
  | .jrec d a b c | .jemit d a b c => uMemG [d] [a, b, c]
  | .jckpt d a b => u3 d a b
  | .jtruncCheckpoint d a | .jtruncClose d a => u2 d a
  | .vadd d a b m _ _ | .vsub d a b m _ _ | .vmul d a b m _ _ | .vdiv d a b m _ _ | .vmin d a b m _ _
  | .vmax d a b m _ _ => uV d [a, b] m
  | .vabs d a m _ _ | .vneg d a m _ _ | .vsqrt d a m _ _ => uV d [a] m
  | .vand d a b m | .vor d a b m | .vxor d a b m => uV d [a, b] m
  | .vsll d a b m _ | .vsrl d a b m _ | .vsra d a b m _ => uV d [a, b] m
  | .vfma d a b c m _ _ | .vfms d a b c m _ _ | .vfnma d a b c m _ _ | .vfnms d a b c m _ _ => uV d [a, b, c] m
  | .vcmpeq d a b m _ _ | .vcmpne d a b m _ _ | .vcmplt d a b m _ _ | .vcmple d a b m _ _
  | .vcmpun d a b m _ _ => { kw := [d], vr := [a, b], kr := [m.reg] }
  | .vsel d a b m => uVW d [a, b] m
  | .vperm d a b m _ _ | .vzip d a b m _ _ | .vunzip d a b m _ _ => uV d [a, b] m
  | .vbcast d a m _ _ => { vw := [d], vr := [d], gr := [a], kr := [m.reg] }
  | .vslide d a b c m _ _ => uV d [a, b, c] m
  | .vins d a b m _ _ => { vw := [d], vr := [d, a], gr := [b], kr := [m.reg] }
  | .vext d a m _ _ => { gw := [d], vr := [a], kr := [m.reg] }
  | .vcvt d a m _ _ _ => uV d [a] m
  | .quant d a b m _ _ | .dequant d a b m _ _ => uV d [a, b] m
  | .dequantChannel d b m _ => uV d [b] m
  | .vredadd d a m _ _ | .vredmin d a m _ _ | .vredmax d a m _ _ | .vscanadd d a m _ _ | .vscanmin d a m _ _
  | .vscanmax d a m _ _ => uVW d [a] m
  | .vexp2 d a m _ _ | .vlog2 d a m _ _ | .vrcp d a m _ _ | .vrsqrt d a m _ _ | .vsin d a m _ _ | .vcos d a m _ _
  | .vtanh d a m _ _ | .vsigm d a m _ _ | .vexp d a m _ _ => uV d [a] m
  | .vpacknz d a b m _ _ => { vw := [d, d + 1], vr := [a, b], kr := [m.reg] }
  | .vtopk d a b c m _ => uVW d [a, b, c] m
  | .vargmax d a m _ => uVW d [a] m
  | .kand d a b | .kor d a b | .kxor d a b => { kw := [d], kr := [a, b] }
  | .knot d a => { kw := [d], kr := [a] }
  | .kmov d a => { kw := [d], gr := [a] }
  | .krd d a | .kpopc d a => { gw := [d], kr := [a] }
  | .dld d a _ _ => { dw := [d], gr := [a], mem := true }
  | .opaMma d a | .opaSel d a | .opaSparse d a | .opaZero d a | .opaDrain d a | .wbload d a | .cplin d a | .cp2d d a
  | .eresume d a => uE d [a]
  | .wbevict d a | .wbpin d a | .wbunpin d a | .estat d a | .spseed d a => uD d [a]
  | .spload d a => { gw := [d], dr := [a], mem := true }
  | .cpten d a b | .gather d a b | .scatter d a b => uE d [a, b]
  | _ => {}

/-- Every register named lies within the footprint of the handler; g0 always does (01 R13). -/
def HHdr.fits (h : HHdr) (u : Uses) : Bool :=
  (u.gr ++ u.gw).all (fun r => r == 0 || decide (r.toNat < h.gcnt))
    && (u.vr ++ u.vw).all (fun r => decide (r.toNat < h.vcnt))
    && (u.dr ++ u.dw).all (fun r => decide (r.toNat < h.dcnt))

/-! Fetch and decode. -/

/-- What a slot would issue next. -/
inductive Fetched where
  /-- The pc names none of the handler's words. -/
  | bounds
  /-- The word lies in a poisoned block (21 R353). -/
  | poisoned (block : Nat)
  | bad (e : DecodeErr)
  | ok (i : Instr)
  deriving DecidableEq, Repr

def State.fetch (s : State) (i : Inst) : Fetched :=
  if !i.inBounds i.pc then .bounds
  else
    match s.poisonAt i.pc.toNat 8 with
    | some b => .poisoned b
    | none =>
      match decode (word64 (s.wordAt i)) with
      | .error e => .bad e
      | .ok x => .ok x

/-- A returning access (05 R88). -/
def returning : Instr → Bool
  | .ld8 d _ _ _ | .ld16 d _ _ _ | .ld32 d _ _ _ | .ld64 d _ _ _ | .ldz8 d _ _ _ | .ldz16 d _ _ _
  | .ldz32 d _ _ _ => d != 0
  | .vld .. => true
  | .aadd d _ _ _ _ _ | .amin d _ _ _ _ _ | .amax d _ _ _ _ _ | .aminn d _ _ _ _ _ | .amaxn d _ _ _ _ _
  | .aand d _ _ _ _ _ | .aor d _ _ _ _ _ | .axor d _ _ _ _ _ | .aswap d _ _ _ _ _ | .acas d _ _ _ _ _
  | .aclaim d _ _ _ _ _ => d != 0
  | .afadd d _ _ _ _ => d != 0
  | _ => false

/-- A returning access more would be a 17th, or the oldest of 16 for which a 17th waits has not returned (05 R88). -/
def Inst.returningFull (i : Inst) : Bool :=
  decide (Config.maxReturning ≤ (i.pend.filter Pend.returning).length)
    || (match i.fullOn with
        | some o => i.pend.any (fun e => e.id == o)
        | none => false)

/-- A returning access comes back. When the next word is one that 16 outstanding ones hold back, it waits from then on
for the oldest of them (05 R88). -/
def State.latchFull (s : State) (i : Inst) : Inst :=
  let old := i.fullOn.filter (fun o => i.pend.any (fun e => e.id == o))
  match old, s.fetch i with
  | none, .ok x =>
    if returning x && decide (Config.maxReturning ≤ (i.pend.filter Pend.returning).length) then
      { i with fullOn := (i.pend.find? Pend.returning).map Pend.id }
    else { i with fullOn := none }
  | _, _ => { i with fullOn := old }

/-- Runs a meaning on the issuing instance once its registers lie within the footprint (R13, R48 step 3). -/
def State.onFit (s : State) (u : Uses) (f : Inst → State → Out1) : Out1 :=
  s.onInst (fun i s => if i.hdr.fits u then f i s else s.raise i fFootprint 0 (s.wordAt i))

/-! Regions and addresses (17 R292 to R294). -/

/-- Page size of a region (R294). -/
def Region.pageSize (r : Region) : Nat := if r.psz = 0 then 2 ^ 16 else if r.psz = 1 then 2 ^ 21 else 2 ^ 30

/-- The region that holds a range, and its index. -/
def regionIn : List Region → Nat → Nat → Nat → Option (Nat × Region)
  | [], _, _, _ => none
  | r :: t, k, va, n =>
    if r.vbase ≤ va ∧ va + n ≤ r.vbase + r.pages * r.pageSize then some (k, r) else regionIn t (k + 1) va n

def Ctx.regionOf (c : Ctx) (va n : Nat) : Option (Nat × Region) := regionIn c.regions 0 va n

/-- Fixed regions translate at the decoder (R292, R294). -/
def Region.fixed (r : Region) (va : Nat) : Option Target :=
  match r.kind with
  | 1 => some (.here (r.paddr + (va - r.vbase)))
  | 3 => some (.chip r.chip (r.paddr + (va - r.vbase)))
  | _ => none

/-- A failed check: fault code, ADDR and DET (21 Table 21-1). -/
abbrev Check (α : Type) := Except (Nat × Nat × Nat) α

/-- An address in an accumulator or weight-buffer window (05 R87 step 3). -/
def Ctx.inWindow (c : Ctx) (va : Nat) : Bool :=
  match c.regionOf va 1 with
  | none => false
  | some (_, r) =>
    match r.fixed va with
    | some (.here pa) | some (.chip _ pa) =>
      match place pa with
      | .accum _ _ | .wbuf _ _ => true
      | _ => false
    | none => false

/-- Steps 1 and 2 of R87. -/
def checkAlign (va n : Nat) : Check Unit :=
  if va % n ≠ 0 then .error (fMisaligned, va, 0)
  else if va ≥ 2 ^ 56 then .error (fAddress, va, 0)
  else .ok ()

/-- Step 5: the region decoder (17 R294). -/
def Ctx.checkRegion (c : Ctx) (va n : Nat) (wr : Bool) : Check (Nat × Region) :=
  match c.regionOf va n with
  | none => .error (fAddress, va, 0)
  | some (k, r) => if wr && !r.wen then .error (fWriteProtect, va, 0) else .ok (k, r)

/-- An address named by a descriptor or a register: [63:56] zero, then the region (R294). -/
def Ctx.checkAddr (c : Ctx) (va n : Nat) (wr : Bool) : Check (Nat × Region) :=
  if va ≥ 2 ^ 56 then .error (fAddress, va, 0) else c.checkRegion va n wr

/-- Effective address of a form-M instruction (R87). -/
def effAddr (i : Inst) (a : GReg) (imm : BitVec 32) : Nat := (i.readG a + simm imm).toNat

/-- Physical address of a range of the issuing core's scratchpad window, when the whole range lies there. -/
def Ctx.scratchOf (c : Ctx) (p va n : Nat) : Option Nat :=
  match c.regionOf va (max n 1) with
  | none => none
  | some (_, r) =>
    match r.fixed va with
    | some (.here pa) =>
      match place pa with
      | .scratch p' off => if p' = p ∧ off + n ≤ Config.scratchBytes then some pa else none
      | _ => none
    | _ => none

/-! Page tables (17 R295, R296). -/

/-- Result of reading one entry of a walk. -/
inductive WalkRead where
  /-- P = 0: the word to hold the request on. -/
  | absent (word : Nat)
  /-- A bad entry and its address. -/
  | bad (entry : Nat)
  /-- The entry lies in a poisoned block (21 R353). -/
  | poisoned (block : Nat)
  | next (table : Nat)
  | leaf (pa : Nat) (w : Bool)
  deriving DecidableEq, Repr

/-- One entry read at a level (R296). -/
def State.walkRead (s : State) (r : Region) (page level table : Nat) : WalkRead :=
  let word := table + 8 * (page / 2 ^ (9 * level) % 512)
  let e := s.readLe word 8
  if let some b := s.poisonAt word 8 then .poisoned b
  else if e / 2 ^ 63 = 0 then .absent word
  else if level > 0 then
    let nxt := bitsOf e 40 12 * 4096
    if bitsOf e 62 41 ≠ 0 ∨ bitsOf e 11 0 ≠ 0 ∨ !inHbm nxt 4096 then .bad word else .next nxt
  else
    let pa := bitsOf e 40 16 * 65536
    let okPlace := if r.kind = 0 then inHbm pa r.pageSize
      else match place pa with
        | .hbm _ => inHbm pa r.pageSize
        | _ => false
    if bitsOf e 61 41 ≠ 0 ∨ pa % r.pageSize ≠ 0 ∨ !okPlace then .bad word
    else .leaf pa (bitsOf e 62 62 == 1)

/-- A whole walk, level by level (R296): the level too, for the record. -/
def State.walkFrom (s : State) (r : Region) (page : Nat) : Nat → Nat → WalkRead × Nat
  | 0, table => (s.walkRead r page 0 table, 0)
  | l + 1, table =>
    match s.walkRead r page (l + 1) table with
    | .next t => s.walkFrom r page l t
    | x => (x, l + 1)

def State.walk (s : State) (r : Region) (page : Nat) : WalkRead × Nat := s.walkFrom r page (r.levels - 1) r.paddr

/-- The slice of a page: fold(x) xor CTX (R297). -/
def sliceOf (c ridx page : Nat) : Nat :=
  let x := Nat.xor (page % 2 ^ 36) (ridx * 2 ^ 36)
  Nat.xor ((List.range 7).foldl (fun acc k => Nat.xor acc (x / 2 ^ (6 * k) % 64)) 0) c

/-- A slice's translation of a page. -/
def Slice.find (sl : Slice) (c ridx page : Nat) : Option TlbEnt :=
  sl.ents.find? (fun e => e.ctx = c && e.region = ridx && e.page = page)

def State.sliceAt (s : State) (die k : Nat) : Slice := Tab.get Slice.reset (s.die die).slices k
def State.setSlice (s : State) (die k : Nat) (x : Slice) : State :=
  let d := s.die die
  s.setDie die { d with slices := d.slices.put k x }

/-- A translation made at once, for the units that read and write through virtual addresses: a slice's entry, or the
page table as it stands. -/
inductive Trans where
  | ok (t : Target) (w : Bool)
  | absent (ridx : Nat) (word level : Nat)
  | fault (code addr det : Nat)
  deriving DecidableEq, Repr

def Region.target (r : Region) (pa : Nat) : Target := if r.kind = 2 then .chip r.chip pa else .here pa

/-- Translates one address for a unit of a die, checking write permission (R294, R296, R301). -/
def State.translate (s : State) (die c va : Nat) (wr : Bool) : Trans :=
  match (s.ctx c).checkAddr va 1 wr with
  | .error (code, a, d) => .fault code a d
  | .ok (k, r) =>
    match r.fixed va with
    | some t => .ok t r.wen
    | none =>
      let page := (va - r.vbase) / r.pageSize
      let off := (va - r.vbase) % r.pageSize
      let fin (pa : Nat) (w : Bool) : Trans :=
        if wr && !w then .fault fWriteProtect va 0 else .ok (r.target (pa + off)) (w && r.wen)
      match (s.sliceAt die (sliceOf c k page)).find c k page with
      | some e => fin e.pa e.w
      | none =>
        match s.walk r page with
        | (.absent w, l) => .absent k w l
        | (.bad w, _) => .fault fAddress va w
        | (.poisoned b, _) => .fault fUncorr (64 * b) 7
        | (.next _, _) => .fault fAddress va 0
        | (.leaf pa w, _) => fin pa w

end Sys2Proof.Machine
end

