-- ==== Sys2Proof/Machine/Flags.lean ====
section
/-! DEFINITION. The sticky flags of the status word (01 R16, Table 01-3): how an instruction sets them, how SW1C
clears them, and the flags that the scalar instructions compute. -/

namespace Sys2Proof.Machine

open Sys2Proof

/-- SetFlags (02 Table 02-7): flags accumulate. -/
def Inst.setFlags (i : Inst) (f : Flags) : Inst := { i with flags := i.flags.or f }

/-- Flags cleared by ones written to their bits; the other fields of the word are not W1C (04 R85, Table 01-3). -/
def Flags.clear (f : Flags) (w : Word) : Flags where
  rc := f.rc && !w.getLsbD 6
  sat := f.sat && !w.getLsbD 5
  nv := f.nv && !w.getLsbD 4
  dz := f.dz && !w.getLsbD 3
  ovf := f.ovf && !w.getLsbD 2
  unf := f.unf && !w.getLsbD 1
  nx := f.nx && !w.getLsbD 0

/-- Clamp of an exact sum to 64 signed bits, with whether it changed (04 Table 04-1, ADDS and SUBS). -/
def clamp64 (x : Int) : Int × Bool := clampInt (-(2 ^ 63)) (2 ^ 63 - 1) x

/-- Flags of a saturating sum. -/
def satFlags (x : Int) : Flags := { sat := (clamp64 x).2 }

/-- The low 64 bits of an integer (04 R62). -/
def wrap64 (x : Int) : Word := BitVec.ofInt 64 x

end Sys2Proof.Machine
end

