-- ==== Sys2Proof/Machine/Owner.lean ====
section
/-! DEFINITION. Writes at an owner, with the watches that they fire and the page-table words that they wake (05 R95,
R104; 12 R240; 17 R298; 21 R353), messages that units build (06 R382), trace records and stops (22 R370, R371). -/

namespace Sys2Proof.Machine

open Sys2Proof

/-- A range touches a poisoned block (21 R353). -/
def State.poisoned (s : State) (pa n : Nat) : Bool := s.poison.any (fun b => overlap pa n (64 * b) 64)

/-- A message of KIND 3 that a unit builds for a logical core of this chip (06 R382, 16 R280). -/
def State.unitMsg (s : State) (c lcore hidx tag prio rsc : Nat) (words : List Word) : Msg :=
  let x := s.ctx c
  { hdr := { hdrZero with
      dchip := BitVec.ofNat 16 x.desc.rank
      dcore := BitVec.ofNat 10 lcore
      kind := 3
      gen := BitVec.ofNat 2 x.gen
      prio := BitVec.ofNat 2 prio
      hidx := BitVec.ofNat 12 hidx
      tag := BitVec.ofNat 16 tag
      schip := BitVec.ofNat 16 x.desc.rank
      score := BitVec.ofNat 10 lcore
      ctx := BitVec.ofNat 5 c
      jslot := 7
      plen := BitVec.ofNat 9 (8 * words.length)
      rsc := BitVec.ofNat 3 rsc }
    payload := words.flatMap (fun w => leBytes 8 w.toNat)
    scale := none }

/-- Smallest scope that contains the owner of an address and a core of this module (12 R244). -/
def scopeOfOwner (pa p : Nat) : Nat :=
  match place pa with
  | .scratch p' _ => scopeOfCores p p'
  | .accum q _ | .wbuf q _ => if quadOf p = q then 2 else if dieOf p = dieOfQuad q then 3 else 4
  | .hbm _ => if (hbmPort pa).1 = dieOf p then 3 else 4
  | .hole => 4

/-- The watch message (R104): gA, the word's value after the write, gC. -/
def State.sendWatch (s : State) (c lcore p pa va hidx : Nat) (value : Word) : State :=
  let x := s.ctx c
  let m := s.unitMsg c lcore hidx 0 (s.defaultPrio c x.gen hidx) (scopeOfOwner pa p)
    [word64 va, word64 (s.readLe pa 8), value]
  s.deliver Who.zero 0 m .none (ownerXY pa) [] [] false (some (inpOwner pa))

/-- The watch message to a peer's core; its scope is the pod. -/
def State.sendPeerWatch (s : State) (c : Nat) (w : PeerWatch) : State :=
  let x := s.ctx c
  let m := s.unitMsg c w.lcore w.hidx 0 (s.defaultPrio c x.gen w.hidx) 5
    [word64 w.va, word64 (s.readLe w.pa 8), w.value]
  let m := { m with hdr := { m.hdr with dchip := BitVec.ofNat 16 w.rank } }
  s.deliver Who.zero 0 m .none (ownerXY w.pa) [] [] false (some (inpOwner w.pa))

/-- Whether a monitor entry watches a word that a write touches. -/
def Mon.hit (m : Mon) (pa n : Nat) : Bool :=
  m.live && match m.pa with
    | .here w => overlap pa n w 8
    | .chip _ _ => false

def wordOf : Target → Nat
  | .here pa => pa
  | .chip _ pa => pa

/-- Fires the watches of a write: entries on cores, entries saved with a context, and peers' entries (R104). -/
def State.fireWatches (s : State) (pa n : Nat) : State :=
  let onCores : List (Nat × Mon) := s.cores.flatMap (fun e => (e.2.mons.filter (fun m => m.hit pa n)).map (fun m => (e.1, m)))
  let s : State := { s with cores := s.cores.map (fun e =>
    (e.1, { e.2 with mons := e.2.mons.filter (fun m => !m.hit pa n) })) }
  let s := onCores.foldl (fun s (p, m) =>
    match (s.ctx m.ctx).lcoreAt p with
    | some lc => s.sendWatch m.ctx lc p (wordOf m.pa) m.va m.hidx m.value
    | none => s) s
  let saved : List (Nat × Nat × Mon) := s.ctxs.flatMap (fun e =>
    match e.2.saved with
    | some v => (v.mons.filter (fun m => m.2.hit pa n)).map (fun m => (e.1, m.1, m.2))
    | none => [])
  let peers : List (Nat × PeerWatch) := s.ctxs.flatMap (fun e =>
    (e.2.watchers.filter (fun w => overlap pa n w.pa 8)).map (fun w => (e.1, w)))
  let s : State := { s with ctxs := s.ctxs.map (fun e =>
    (e.1, { e.2 with
      saved := e.2.saved.map (fun v => { v with mons := v.mons.filter (fun m => !m.2.hit pa n) })
      watchers := e.2.watchers.filter (fun w => !overlap pa n w.pa 8) })) }
  let s := saved.foldl (fun s (c, lc, m) => s.sendWatch c lc ((s.ctx c).lc lc).pos (wordOf m.pa) m.va m.hidx m.value) s
  peers.foldl (fun s (c, w) => s.sendPeerWatch c w) s

/-- Requests held on a page-table word that is written walk again (17 R298). -/
def State.wakeWords (s : State) (pa n : Nat) : State :=
  { s with
    flights := s.flights.map (fun f =>
      match f.stage with
      | .sliceHeld w _ => if overlap pa n w 8 then { f with stage := .sliceHeld w true } else f
      | _ => f)
    dies := s.dies.map (fun e =>
      (e.1, { e.2 with slices := e.2.slices.map (fun k =>
        (k.1, { k.2 with
          words := k.2.words.filter (fun w => !overlap pa n w.2 8)
          engines := k.2.engines.filter (fun w => !overlap pa n w.2.2 8) })) })) }

/-- A write applied by an owner. A write that covers a whole block clears its poison (21 R353). -/
def State.ownerWrite (s : State) (pa : Nat) (bs : List Byte) : State :=
  if bs.isEmpty then s
  else
    let n := bs.length
    let s : State := { s with
      mem := Memory.write s.mem pa bs
      poison := s.poison.filter (fun b => !(decide (pa ≤ 64 * b) && decide (64 * b + 64 ≤ pa + n))) }
    (s.wakeWords pa n).fireWatches pa n

/-- The write of zeros to a range. -/
def State.ownerZero (s : State) (pa n : Nat) : State :=
  let s : State := { s with
    mem := Memory.clear s.mem pa n
    poison := s.poison.filter (fun b => !(decide (pa ≤ 64 * b) && decide (64 * b + 64 ≤ pa + n))) }
  (s.wakeWords pa n).fireWatches pa n

/-! The health record (21 R355, R357). -/

/-- Words 0 and 1 of the record differ, HEPOCH apart. -/
def Health.differs (a b : Health) : Bool :=
  a.replace != b.replace || a.rwhy != b.rwhy || a.hole != b.hole || a.half != b.half || a.act != b.act

/-- Sets the record: with every change of word 0 or 1, HEPOCH rises and vector 1 is signalled (R355). -/
def State.setHealth (s : State) (h : Health) : State :=
  if h.differs s.hub.health then
    (s.setHub { s.hub with health := { h with hepoch := (h.hepoch + 1) % 2 ^ 32 } }).vector 1
  else s.setHub { s.hub with health := h }

/-- A cause of REPLACE (R357). -/
def State.setReplace (s : State) (bit : Nat) : State :=
  let h := s.hub.health
  s.setHealth { h with replace := true, rwhy := Nat.lor h.rwhy (2 ^ bit) }

/-- HOLE counts; its value beyond its 16 bits is left open (log 3). -/
def State.holeCount (s : State) : State :=
  let h := s.hub.health
  if h.hole < 65535 then s.setHealth { h with hole := h.hole + 1 }
  else
    let (n, s) := s.free
    s.setHealth { h with hole := n % 65536 }

/-! Soft errors (21 R352 to R357). -/

/-- Cycles in 24 hours at 2.4 GHz. -/
def dayCycles : Nat := 207360000000000

/-- Errors of a kind and place within the last 24 hours. -/
def Hub.recentErrs (h : Hub) (now kind k : Nat) : Nat :=
  (h.errs.filter (fun e => e.2.1 = kind && e.2.2 = k && decide (now < e.1 + dayCycles))).length

/-- Notes one error of a kind and place. -/
def State.noteErr (s : State) (kind k : Nat) : State :=
  let old := s.hub.errs.filter (fun e => decide (s.clock < e.1 + dayCycles))
  s.setHub { s.hub with errs := old ++ [(s.clock, kind, k)] }

/-- Counts a soft error of structure `st` of a die (R355). More than 4,096 corrected ones in a day are a cause of
REPLACE (Table 21-6). -/
def State.softError (s : State) (die st : Nat) (uncorr : Bool) : State :=
  let h := s.hub.health
  let n := 2 * (11 * die + st - 1) + cond uncorr 1 0
  let s := s.setHub { s.hub with
    health := { h with counts := Tab.put h.counts n (min (Tab.get 0 h.counts n + 1) (2 ^ 32 - 1)) } }
  if uncorr then s
  else
    let s := s.noteErr 0 (16 * die + st)
    if 4096 < s.hub.recentErrs s.clock 0 (16 * die + st) && bitsOf s.hub.health.rwhy 3 3 == 0 then s.setReplace 3 else s

/-! Trace records and stops (22 R370, R371). -/

/-- Bytes of a trace record. -/
def State.traceBytes (s : State) (ty c lcore sl : Nat) (iaddr code ga : Word) : List Byte :=
  padTo 64 (leBytes 1 ty ++ leBytes 1 c ++ leBytes 2 lcore ++ leBytes 1 sl ++ List.replicate 3 0
    ++ leBytes 8 (s.clock - (s.ctx c).born) ++ leBytes 8 iaddr.toNat ++ leBytes 8 code.toNat ++ leBytes 8 ga.toNat)

/-- Writes a trace record into the context's buffer: the head block of 64 bytes first, then the records (log 21). -/
def State.traceWrite (s : State) (c : Nat) (bs : List Byte) : State :=
  match (s.ctx c).trace with
  | none => s
  | some t =>
    let entries := t.size / 64 - 1
    let x := s.ctx c
    let s := s.setCtx c { x with trace := some { t with head := t.head + 1 } }
    (s.ownerWrite (t.base + 64 + 64 * (t.head % entries)) bs).ownerWrite t.base (leBytes 8 (t.head + 1))

/-- A stop (R371): the trace record is written; a RUNNING context stops at its instruction boundaries and its record
also goes to the host with HIDX 0xFFE. -/
def State.stopCtx (s : State) (c lcore : Nat) (src : Nat × Nat) (bs : List Byte) : State :=
  let s := s.traceWrite c bs
  let x := s.ctx c
  match x.st with
  | .running =>
    let m : Msg :=
      { hdr := { hdrZero with
          dchip := BitVec.ofNat 16 x.desc.rank
          dcore := 1023
          kind := 3
          gen := BitVec.ofNat 2 x.gen
          hidx := 0xFFE
          schip := BitVec.ofNat 16 x.desc.rank
          score := BitVec.ofNat 10 lcore
          ctx := BitVec.ofNat 5 c
          jslot := 7
          plen := 64 }
        payload := bs
        scale := none }
    let s := s.setCtx c { x with st := .saving, halt := .stop, frozen := true }
    (s.mapInsts c (fun i => some (i.halt 6))).deliver Who.zero 0 m .none src [] [] false
      (some (inpCore (x.lc lcore).pos))
  | _ => s

end Sys2Proof.Machine
end

