-- ==== Sys2Proof/Machine/Control.lean ====
section
/-! DEFINITION. Branches, calls, loops, chunks, END and YIELD, with the safe points that a core forces (04 R71 to R81,
01 R17, R18). -/

namespace Sys2Proof.Machine

open Sys2Proof

/-! Branches (R71). -/

/-- A form-B branch: the bounds check whether or not it is taken, then the jump; a taken branch with IMM32 at most 0
ends at a safe point (R73). -/
def State.branch (s : State) (u : Uses) (imm : BitVec 32) (cnd : Inst → Bool) : Out1 :=
  s.onFit u (fun i s =>
    let t := branchTarget i.pc imm
    if !i.inBounds t then s.raise i fBounds t.toNat (s.wordAt i)
    else if cnd i then s.jump i t (decide (imm.toInt ≤ 0))
    else s.retire i)

def execBr (imm : BitVec 32) (s : State) : Out1 := s.branch (uses (.br imm)) imm (fun _ => true)
def execBeq (a b : GReg) (imm : BitVec 32) (s : State) : Out1 :=
  s.branch (uses (.beq a b imm)) imm (fun i => i.readG a == i.readG b)
def execBne (a b : GReg) (imm : BitVec 32) (s : State) : Out1 :=
  s.branch (uses (.bne a b imm)) imm (fun i => i.readG a != i.readG b)
def execBlt (a b : GReg) (imm : BitVec 32) (s : State) : Out1 :=
  s.branch (uses (.blt a b imm)) imm (fun i => decide ((i.readG a).toInt < (i.readG b).toInt))
def execBge (a b : GReg) (imm : BitVec 32) (s : State) : Out1 :=
  s.branch (uses (.bge a b imm)) imm (fun i => decide ((i.readG b).toInt ≤ (i.readG a).toInt))
def execBltn (a b : GReg) (imm : BitVec 32) (s : State) : Out1 :=
  s.branch (uses (.bltn a b imm)) imm (fun i => decide ((i.readG a).toNat < (i.readG b).toNat))
def execBgen (a b : GReg) (imm : BitVec 32) (s : State) : Out1 :=
  s.branch (uses (.bgen a b imm)) imm (fun i => decide ((i.readG b).toNat ≤ (i.readG a).toNat))

/-! Calls (R72). -/

/-- A transfer to a code address; a bad target raises before any register changes. -/
def State.transfer (s : State) (u : Uses) (target : Inst → Word) (f : Inst → Inst) : Out1 :=
  s.onFit u (fun i s =>
    let t := target i
    if !i.inBounds t then s.raise i fBounds t.toNat (s.wordAt i) else s.jump (f i) t false)

def execJal (imm : BitVec 32) (s : State) : Out1 :=
  s.transfer (uses (.jal imm)) (fun i => branchTarget i.pc imm) (fun i => { i with link := i.pc + 8 })
def execJr (a : GReg) (s : State) : Out1 := s.transfer (uses (.jr a)) (fun i => i.readG a) id
def execRet (s : State) : Out1 := s.transfer (uses .ret) (fun i => i.link) id

/-! Hardware loops (R74, R75). -/

/-- Loop state: ACT, START, END, COUNT (Table 04-3). -/
def loopState (start stop n : Nat) : Word := word64 (2 ^ 63 + start * 2 ^ 43 + stop * 2 ^ 23 + n)

def execLoop (a : GReg) (level : BitVec 1) (imm : BitVec 32) (s : State) : Out1 :=
  s.onFit (uses (.loop a level imm)) (fun i s =>
    let r : GReg := BitVec.ofNat 6 (1 + level.toNat)
    let t := branchTarget i.pc imm
    let n := (i.readG a).toNat
    if i.hdr.glive ≤ 1 + level.toNat then s.raise i fFootprint 0 (s.wordAt i)
    else if !i.inBounds t || decide (t.toNat < i.pc.toNat + 8) then s.raise i fBounds t.toNat (s.wordAt i)
    else if n > 8388607 then s.raise i fOperand 0 n
    else if n = 0 then s.jump (i.writeG r 0) (t + 8) false
    else s.jump (i.writeG r (loopState (i.index (i.pc + 8)) (i.index t) n)) (i.pc + 8) false)

/-! END and YIELD (R80, R81). -/

def execEndI (s : State) : Out1 :=
  s.onFit (uses .endI) (fun i s => .next (s.endInst s.curP s.curS i))

def execYieldI (s : State) : Out1 :=
  s.onFit (uses .yieldI) (fun i s => .next (s.setCur i.advance.safePoint))

/-! The chunk unit (R77 to R79). -/

/-- Hands a result to the instance that waits for it, when it still runs. -/
def State.fillPend (s : State) (p sl iid pendId : Nat) (v : Word) : State :=
  match s.inst? p sl with
  | some i =>
    if i.iid = iid then
      s.setInst p sl (some { i with
        pend := i.pend.map (fun e => if e.id = pendId then { e with value := some v } else e) })
    else s
  | none => s

/-- The unit's requests in the order in which they reach it; those of one cycle by ascending core (R79). A request is
served in a later cycle than its own, so that all of its cycle stand before the unit. -/
def chunkQueue (l : List ChunkReq) (r : ChunkReq) : List ChunkReq :=
  let first (o : ChunkReq) : Bool := o.cycle != r.cycle || decide (o.p ≤ r.p)
  l.filter first ++ [r] ++ l.filter (fun o => !first o)

/-- A request of the issuing slot that waits at its quad's chunk unit, with the destination of its result. -/
def State.chunkAsk (s : State) (i : Inst) (d : Dest) (n : Nat) (what : ChunkWhat) : Out1 :=
  let (fid, s) := s.fresh
  let q := quadOf s.curP
  let x := s.quad q
  let s := s.setQuad q { x with chunkReqs := chunkQueue x.chunkReqs ⟨s.clock, s.curP, i.iid, s.curS, fid, i.ctx, n, what⟩ }
  s.retire (i.await fid d false none)

def execChunk (d : GReg) (n : BitVec 4) (s : State) : Out1 :=
  s.onFit (uses (.chunk d n)) (fun i s =>
    if i.rsafe then s.raise i fNonRepro 0 (s.wordAt i) else s.chunkAsk i (gDest d) n.toNat .chunk)

/-- Smallest whole number at least a / b. -/
def ceilDiv (a b : Nat) : Nat := (a + b - 1) / b

/-- CHUNK (R77, R78): the range handed out and the counter after it. -/
def chunkStep (x : Nat) : Nat × Nat :=
  let part := max 1 (bitsOf x 63 56)
  let mn := max 1 (bitsOf x 55 48)
  let nxt := bitsOf x 47 24
  let rem := bitsOf x 23 0 - nxt
  let c := min rem (max mn (ceilDiv rem (2 * part)))
  (c * 2 ^ 32 + nxt, x + c * 2 ^ 24)

/-- The chunk unit serves its oldest request, at most one in a cycle (R79). -/
def execChunkUnitRequest (q : Nat) (s : State) : Out1 :=
  let x := s.quad q
  match x.chunkReqs with
  | [] => s.idle "no request waits at the chunk unit"
  | r :: t =>
    if s.clock ≤ r.cycle then s.idle "requests of this cycle still reach the unit"
    else if x.chunkLast = some s.clock then s.idle "the unit has served a request in this cycle"
    else
    let s := s.setQuad q { x with chunkReqs := t, chunkLast := some s.clock }
    let c := s.ctx r.ctx
    let k := q * 16 + r.n
    let old := Tab.get 0 c.chunks k
    match r.what with
    | .chunk =>
      let (res, new) := chunkStep old.toNat
      .next ((s.setCtx r.ctx { c with chunks := c.chunks.put k (word64 new) }).fillPend r.p r.sl r.iid r.pendId (word64 res))
    | .read => .next (s.fillPend r.p r.sl r.iid r.pendId old)
    | .write v => .next ((s.setCtx r.ctx { c with chunks := c.chunks.put k v }).fillPend r.p r.sl r.iid r.pendId 0)

/-! Safe points that a core forces (01 R17, R18). -/

/-- The boundary after the instruction that exhausts the header's budget. -/
def Inst.budgetDue (i : Inst) : Bool := i.hdr.budget != 0 && decide (i.hdr.budget ≤ i.sinceSafe)

/-- With pre-emption pending, the boundary after the 4,096th instruction. -/
def Inst.forcedDue (i : Inst) : Bool := i.stopped == .pending && decide (Config.forcedCount ≤ i.sincePre)

def execBudgetSafePoint (p sl : Nat) (s : State) : Out1 :=
  match s.inst? p sl with
  | some i =>
    if i.budgetDue then .next (s.setInst p sl (some i.safePoint))
    else s.idle "the budget is not exhausted"
  | none => s.idle "no handler in the slot"

def execForcedSafePoint (p sl : Nat) (s : State) : Out1 :=
  match s.inst? p sl with
  | some i =>
    if i.forcedDue then .next (s.setInst p sl (some i.safePoint))
    else s.idle "no forced safe point is due"
  | none => s.idle "no handler in the slot"

end Sys2Proof.Machine
end

