-- ==== Sys2Proof/Machine/System.lean ====
section
/-! DEFINITION. Traps, breakpoints, trace marks, system registers and counter reads (04 R82 to R86). -/

namespace Sys2Proof.Machine

open Sys2Proof

def execTrap (a : GReg) (code : BitVec 16) (s : State) : Out1 :=
  s.onFit (uses (.trap a code)) (fun i s => s.raise i fTrap (i.readG a).toNat code.toNat)

/-- A trace record of the issuing slot. -/
def State.slotTrace (s : State) (i : Inst) (ty : Nat) (code : BitVec 16) (v : Word) : List Byte :=
  s.traceBytes ty i.ctx i.lcore s.curS i.pc (code.setWidth 64) v

/-- BKPT (R83): with DBGCTL.BKEN, it completes and then performs a stop. -/
def execBkpt (a : GReg) (code : BitVec 16) (s : State) : Out1 :=
  s.onFit (uses (.bkpt a code)) (fun i s =>
    if (s.ctx i.ctx).dbgctl.getLsbD 0 then
      let bs := s.slotTrace i 3 code (i.readG a)
      .next ((s.setCur i.advance).stopCtx i.ctx i.lcore (xyOfCore s.curP) bs)
    else s.retire i)

/-- TRMARK (R83): with DBGCTL.TREN, it writes a trace record. -/
def execTrmark (a : GReg) (code : BitVec 16) (s : State) : Out1 :=
  s.onFit (uses (.trmark a code)) (fun i s =>
    if (s.ctx i.ctx).dbgctl.getLsbD 1 then
      .next ((s.setCur i.advance).traceWrite i.ctx (s.slotTrace i 1 code (i.readG a)))
    else s.retire i)

/-- CYCLE (R84, R85): cycles since the context was created, on the issuing die. -/
def State.cycleOf (s : State) (c die : Nat) : Word := word64 (s.clock + Config.dieSkew die % 3 - (s.ctx c).born)

/-- The bits of CHn that hold what is written (02 Table 02-3). -/
def chanMask : Word := 0x00000000FFFFCFFF

/-- SRD (R85). A CHKn goes to the chunk unit; CYCLE is written later and is refused in a replay-safe context. -/
def execSrd (d : GReg) (sreg : BitVec 16) (s : State) : Out1 :=
  s.onFit (uses (.srd d sreg)) (fun i s =>
    let x := s.ctx i.ctx
    let n := sreg.toNat
    if n = 0 then s.retireG i d i.status
    else if n = 1 then s.retireG i d (word64 i.ctx)
    else if n = 2 then s.retireG i d (word64 i.lcore)
    else if n = 3 then s.retireG i d (word64 x.desc.rank)
    else if n = 4 then s.retireG i d x.desc.dva
    else if n = 5 then s.retireG i d x.desc.rkey
    else if n = 6 then s.retireG i d x.dbgctl
    else if n = 7 then
      if i.rsafe then s.raise i fNonRepro 0 (s.wordAt i) else s.retireLater i d (s.cycleOf i.ctx (dieOf s.curP))
    else if 0x20 ≤ n ∧ n < 0x40 then s.retireG i d (Tab.get chanReset (s.lc i.ctx i.lcore).chans (n - 0x20))
    else if 0x40 ≤ n ∧ n < 0x50 then s.chunkAsk i (gDest d) (n - 0x40) .read
    else s.raise i fReserved 0 (s.wordAt i))

/-- SWR (R85): CHn at once, CHKn through the chunk unit; any other register raises the reserved-field fault. -/
def execSwr (sreg : BitVec 16) (a : GReg) (s : State) : Out1 :=
  s.onFit (uses (.swr sreg a)) (fun i s =>
    let n := sreg.toNat
    if 0x20 ≤ n ∧ n < 0x40 then
      let l := s.lc i.ctx i.lcore
      (s.setLc i.ctx i.lcore { l with chans := l.chans.put (n - 0x20) (i.readG a &&& chanMask) }).retire i
    else if 0x40 ≤ n ∧ n < 0x50 then s.chunkAsk i .chunk (n - 0x40) (.write (i.readG a))
    else s.raise i fReserved 0 (s.wordAt i))

/-- SW1C (R85): of STATUS alone. -/
def execSw1c (sreg : BitVec 16) (a : GReg) (s : State) : Out1 :=
  s.onFit (uses (.sw1c sreg a)) (fun i s =>
    if sreg = 0 then s.retire { i with flags := i.flags.clear (i.readG a) }
    else s.raise i fReserved 0 (s.wordAt i))

/-- CNTRD (R86): the hub's total is read while the request is under way and written when it reaches the core. -/
def execCntrd (d : GReg) (n : BitVec 16) (s : State) : Out1 :=
  s.onFit (uses (.cntrd d n)) (fun i s =>
    let k := n.toNat % 0x8000
    if !counterAssigned k then s.raise i fReserved 0 (s.wordAt i)
    else if i.rsafe then s.raise i fNonRepro 0 (s.wordAt i)
    else
      let die := dieOf s.curP
      let (fid, s) := s.launchFlight
        (mkFlight (whoOf i s.curP s.curS) 0 true (.cntrd k (n.getLsbD 15)) (.hub die) (cornerXY die) (cornerXY die))
      s.retire (i.await fid (gDest d) false none))

end Sys2Proof.Machine
end

