-- ==== Sys2Proof/Machine/Access.lean ====
section
/-! DEFINITION. Loads, stores, GET, PUT, atomics, fences, drains, barrier arrivals and watches at issue: the checks of
05 R87 and the request that leaves for its owner (05 R87 to R104, R383; 11 R231; 17 R294). -/

namespace Sys2Proof.Machine

open Sys2Proof

def sizeBytes : AccSize → Nat
  | .s1 => 1 | .s2 => 2 | .s4 => 4 | .s8 => 8 | .s16 => 16 | .s32 => 32 | .s64 => 64

/-! The order queue (05 R90, R92; 11 R231; 12 Table 12-4). -/

/-- Scopes whose release makes the flush. -/
def scopeWide : Scope → Bool
  | .pod | .sys => true
  | _ => false

/-- The 64-byte blocks that a range touches. -/
def blksOf (c va n : Nat) : List (Nat × Nat) :=
  (List.range ((va + max n 1 - 1) / 64 - va / 64 + 1)).map (fun k => (c, va / 64 + k))

/-- Earlier requests of the core to a block of a range (11 R231). -/
def Core.sameBlocks (c : Core) (l : List (Nat × Nat)) : List Nat :=
  (c.ops.filter (fun o => o.blks.any l.contains)).map Op.id

/-- Earlier LS accesses of the instance that overlap any of some ranges. The rule says byte ranges and not in which address
space: ranges are compared by context and virtual address, so two that two regions map onto the same bytes do not overlap
(05 R92; DESIGN CHOICE, log 49). -/
def Core.overlapping (c : Core) (iid : Nat) (spans : List (Nat × Nat × Nat)) : List Nat :=
  (c.ops.filter (fun o => o.path == .ls && o.iid == iid
    && o.span.any (fun a => spans.any (fun b => a.1 == b.1 && overlap a.2.1 a.2.2 b.2.1 b.2.2)))).map Op.id

/-- Earlier LS accesses of the instance that a release at a scope covers. -/
def Core.covered (c : Core) (iid : Nat) (sc : Scope) : List Nat :=
  (c.ops.filter (fun o => o.path == .ls && o.iid == iid && (scopeWide sc || o.rd || !o.peer))).map Op.id

def Ctx.regionAt (c : Ctx) (k : Nat) : Region := (c.regions[k]?).getD ⟨0, 0, 0, 0, false, 0, 0, 0⟩

/-- The page that a slice looks up for a request, and the address in it. -/
def MemReq.key (r : MemReq) : Nat × Nat × Nat := r.look.getD (r.region, r.page, r.va)

/-- Where a request goes first: its owner, the egress router of its chip, or the slice of its page. -/
def State.reqRoute (s : State) (r : MemReq) (die : Nat) (src : Nat × Nat) : Goal × (Nat × Nat) :=
  match r.target with
  | some (.here pa) => (.owner, ownerXY pa)
  | some (.chip rank _) =>
    let port := s.egressPort r.ctx rank false src
    (.egress port, torusPortXY port)
  | none =>
    let k := sliceOf r.ctx r.key.1 r.key.2.1
    (.slice die k, xyOfQuad (64 * die + k))

/-- A request for a range of a region. -/
def mkReq (op : MemOp) (i : Inst) (k : Nat) (r : Region) (va n : Nat) (data : List Byte) (expect : Word)
    (ans : Answer) : MemReq where
  op := op
  ctx := i.ctx
  va := va
  n := n
  data := data
  expect := expect
  src := none
  region := k
  page := (va - r.vbase) / r.pageSize
  target := r.fixed va
  ans := ans
  ring := none
  pfSent := false

/-- The memory named by a request's target, when translation has fixed it. -/
def targetMems : Option Target → List MemName
  | none => []
  | some t => (memNameOf t).toList

/-- A PUT's data, read from its scratchpad source as it leaves the order queue (R94). -/
def State.takeSource (s : State) (r : MemReq) : MemReq :=
  match r.src with
  | some pa => { r with data := Memory.read s.mem pa r.n, src := none }
  | none => r

/-! Order at an owner (05 R95). -/

/-- The owner of a physical address (12 Table 12-2), as a number. -/
def ownerKey (pa : Nat) : Nat :=
  match place pa with
  | .hbm _ => let (d, k) := hbmPort pa; 16 * d + k
  | .scratch p _ => 1000 + p
  | .accum q _ => 3000 + q
  | .wbuf q _ => 4000 + q
  | .hole => 9999

/-- A gather's or scatter's element. -/
def MemReq.isElem (r : MemReq) : Bool :=
  match r.ans with
  | .elem _ _ _ => true
  | _ => false

/-- An earlier element of the same stream that touches the same bytes has not been applied: elements apply in ascending n
(08 R177). -/
def State.elemAhead (s : State) (f : Flight) (r : MemReq) : Bool :=
  match r.ans with
  | .elem p _ _ => s.flights.any (fun g =>
    match g.body with
    | .req o =>
      match o.ans with
      | .elem p' _ _ => p' == p && decide (g.id < f.id) && o.ctx == r.ctx && overlap o.va o.n r.va r.n
      | _ => false
    | _ => false)
  | _ => false

/-- No access that came to an address's owner in an earlier cycle still waits there: an access that an engine, the host or a
core's own returning data makes now takes its place behind it (R95, 12 R240). -/
def State.ownerClear (s : State) (pa : Nat) : Bool :=
  s.flights.all (fun g =>
    match g.body, g.goal with
    | .req r, .owner =>
      match r.target with
      | some (.here pa') => !(s.ripe g && ownerKey pa' == ownerKey pa && !s.elemAhead g r)
      | _ => true
    | _, _ => true)

/-- Sends a request of the issuing instance: its operation, what it waits for in the order queue, its flight. The read of a
held PUT's source is an access of its own that a release covers (R90; 12 Table 12-4); later accesses to the source are not
ordered after it (R94). -/
def State.request (s : State) (i : Inst) (r : MemReq) (kind : Nat) (rd : Bool) (rel : Option Scope)
    (waits : List (Nat × Nat × Nat)) (extra : List MemName) : Nat × State :=
  let p := s.curP
  let c := s.core p
  let span := (r.ctx, r.va, r.n)
  let spans := span :: waits
  let after := c.sameBlocks (blksOf r.ctx r.va r.n) ++ c.overlapping i.iid spans
  let perf := match rel with
    | none => []
    | some sc => c.covered i.iid sc
  let (goal, dst) := s.reqRoute r (dieOf p) (xyOfCore p)
  let ready := after.isEmpty && perf.isEmpty && r.src.all s.ownerClear
  let r := if ready then s.takeSource r else r
  let f := mkFlight (whoOf i p s.curS) 0 false (.req r) goal (xyOfCore p) dst
  let f := { f with
    opId := s.nextId
    after := after
    afterPerf := perf
    releasing := rel.isSome
    stage := if ready then f.stage else .held }
  let (fid, s) := s.launchFlight f
  let s := s.addOp p
    { id := fid, ctx := i.ctx, iid := i.iid, path := .ls, rd := rd, taken := false, peer := decide (2 ≤ kind),
      mems := extra ++ targetMems r.target, loose := if r.target.isNone then [(r.va, r.n)] else [], unserved := false,
      blks := blksOf r.ctx r.va r.n, span := if r.ring.isSome then spans else [span] }
  if r.src.isSome then
    let (sid, s) := s.fresh
    (fid, s.addOp p
      { id := sid, ctx := i.ctx, iid := i.iid, path := .ls, rd := true, taken := false, peer := false,
        mems := [.scratch p], loose := [], unserved := false, blks := [], span := [] })
  else (fid, s)

/-- An acquiring access (R91). -/
def Inst.acquire (i : Inst) (ord : Option Scope) (fid : Nat) : Inst :=
  if ord.isSome then { i with acquireOn := i.acquireOn ++ [fid] } else i

/-- The checks of R87 and R294, in order. `mid` holds the register checks of GET, PUT and WATCH. -/
def State.checkAccess (s : State) (i : Inst) (va n : Nat) (wr atomic nonRepro : Bool) (mid : Check Unit) :
    Check (Nat × Region) :=
  match checkAlign va n with
  | .error e => .error e
  | .ok () =>
    match mid with
    | .error e => .error e
    | .ok () =>
      if atomic && (s.ctx i.ctx).inWindow va then .error (fAtomicTarget, va, 0)
      else if nonRepro && i.rsafe then .error (fNonRepro, 0, s.wordAt i)
      else (s.ctx i.ctx).checkRegion va n wr

/-! Loads and stores (R93). -/

/-- A load of n bytes; `sx` is the width of a sign extension. -/
def State.load (s : State) (u : Uses) (dst : Dest) (ret : Bool) (a : GReg) (imm : BitVec 32) (n : Nat)
    (sx : Option Nat) (ord : Option Scope) : Out1 :=
  s.onFit u (fun i s =>
    let va := effAddr i a imm
    match s.checkAccess i va n false false false (.ok ()) with
    | .error (code, addr, det) => s.raise i code addr det
    | .ok (k, r) =>
      let (fid, s) := s.request i (mkReq .read i k r va n [] 0 (.reg dst sx)) r.kind true none [] []
      s.retire ((i.await fid dst ret none).acquire ord fid))

def execLd8 (d a : GReg) (ord : Option Scope) (imm : BitVec 32) (s : State) : Out1 :=
  s.load (uses (.ld8 d a ord imm)) (gDest d) (d != 0) a imm 1 (some 8) ord
def execLd16 (d a : GReg) (ord : Option Scope) (imm : BitVec 32) (s : State) : Out1 :=
  s.load (uses (.ld16 d a ord imm)) (gDest d) (d != 0) a imm 2 (some 16) ord
def execLd32 (d a : GReg) (ord : Option Scope) (imm : BitVec 32) (s : State) : Out1 :=
  s.load (uses (.ld32 d a ord imm)) (gDest d) (d != 0) a imm 4 (some 32) ord
def execLd64 (d a : GReg) (ord : Option Scope) (imm : BitVec 32) (s : State) : Out1 :=
  s.load (uses (.ld64 d a ord imm)) (gDest d) (d != 0) a imm 8 (some 64) ord
def execLdz8 (d a : GReg) (ord : Option Scope) (imm : BitVec 32) (s : State) : Out1 :=
  s.load (uses (.ldz8 d a ord imm)) (gDest d) (d != 0) a imm 1 none ord
def execLdz16 (d a : GReg) (ord : Option Scope) (imm : BitVec 32) (s : State) : Out1 :=
  s.load (uses (.ldz16 d a ord imm)) (gDest d) (d != 0) a imm 2 none ord
def execLdz32 (d a : GReg) (ord : Option Scope) (imm : BitVec 32) (s : State) : Out1 :=
  s.load (uses (.ldz32 d a ord imm)) (gDest d) (d != 0) a imm 4 none ord
def execVld (d : VReg) (a : GReg) (ord : Option Scope) (imm : BitVec 32) (s : State) : Out1 :=
  s.load (uses (.vld d a ord imm)) (.v d) true a imm 64 none ord

/-- A store of n bytes. -/
def State.store (s : State) (u : Uses) (a : GReg) (imm : BitVec 32) (n : Nat) (data : Inst → List Byte)
    (ord : Option Scope) : Out1 :=
  s.onFit u (fun i s =>
    let va := effAddr i a imm
    match s.checkAccess i va n true false false (.ok ()) with
    | .error (code, addr, det) => s.raise i code addr det
    | .ok (k, r) =>
      let (_, s) := s.request i (mkReq .write i k r va n (data i) 0 (.ack none)) r.kind false ord [] []
      s.retire i)

def execSt8 (a b : GReg) (ord : Option Scope) (imm : BitVec 32) (s : State) : Out1 :=
  s.store (uses (.st8 a b ord imm)) a imm 1 (fun i => leBytes 1 (i.readG b).toNat) ord
def execSt16 (a b : GReg) (ord : Option Scope) (imm : BitVec 32) (s : State) : Out1 :=
  s.store (uses (.st16 a b ord imm)) a imm 2 (fun i => leBytes 2 (i.readG b).toNat) ord
def execSt32 (a b : GReg) (ord : Option Scope) (imm : BitVec 32) (s : State) : Out1 :=
  s.store (uses (.st32 a b ord imm)) a imm 4 (fun i => leBytes 4 (i.readG b).toNat) ord
def execSt64 (a b : GReg) (ord : Option Scope) (imm : BitVec 32) (s : State) : Out1 :=
  s.store (uses (.st64 a b ord imm)) a imm 8 (fun i => leBytes 8 (i.readG b).toNat) ord
def execVst (a : GReg) (b : VReg) (ord : Option Scope) (imm : BitVec 32) (s : State) : Out1 :=
  s.store (uses (.vst a b ord imm)) a imm 64 (fun i => leBytes 64 (i.readV b).toNat) ord

/-! GET and PUT (R94). -/

/-- The NOTE of a word that names a counter: [7] NOTE, [5:0] number. -/
def noteOf (x : Nat) : Option Nat := if bitsOf x 7 7 = 1 then some (x % 64) else none

/-- A note names a counter of the allotment (16 R279). -/
def State.noteOk (s : State) (i : Inst) : Option Nat → Bool
  | none => true
  | some n => decide (n < (s.lc i.ctx i.lcore).ctrn)

/-- Register checks of GET and PUT: the scratchpad range, gD's stray bits, its counter. With gB and gD both wrong the rule
does not say which is reported: gB is (05 R87, R94; DESIGN CHOICE, log 49). -/
def State.checkSplit (s : State) (i : Inst) (gd gb n : Nat) : Check Nat :=
  match (s.ctx i.ctx).scratchOf s.curP gb n with
  | none => .error (fOperand, 0, gb)
  | some pa =>
    if gd / 256 ≠ 0 ∨ bitsOf gd 6 6 = 1 then .error (fOperand, 0, gd)
    else if !s.noteOk i (noteOf gd) then .error (fOperand, 0, gd)
    else .ok pa

/-- Steps 1 and 2 of R87 for GET and PUT: the scratchpad address is aligned too. With both addresses misaligned the rule does
not say which is reported: ea is (05 R87, R94; DESIGN CHOICE, log 49). -/
def checkSplitAlign (va gb n : Nat) : Check Unit :=
  if va % n ≠ 0 then .error (fMisaligned, va, 0)
  else if gb % n ≠ 0 then .error (fMisaligned, gb, 0)
  else checkAlign va n

/-- Checks of GET and PUT together: the scratchpad's physical address and the region of ea. -/
def State.checkGetPut (s : State) (i : Inst) (va gd gb n : Nat) (wr : Bool) : Check (Nat × Nat × Region) :=
  match checkSplitAlign va gb n with
  | .error e => .error e
  | .ok () =>
    match s.checkSplit i gd gb n with
    | .error e => .error e
    | .ok pa =>
      match (s.ctx i.ctx).checkRegion va n wr with
      | .error e => .error e
      | .ok (k, r) => .ok (pa, k, r)

def execGet (d a b : GReg) (size : AccSize) (imm : BitVec 32) (s : State) : Out1 :=
  s.onFit (uses (.get d a b size imm)) (fun i s =>
    let n := sizeBytes size
    let va := effAddr i a imm
    let gb := (i.readG b).toNat
    match s.checkGetPut i va (i.readG d).toNat gb n false with
    | .error (code, addr, det) => s.raise i code addr det
    | .ok (pa, k, r) =>
      let (_, s) := s.request i (mkReq .read i k r va n [] 0 (.get pa (noteOf (i.readG d).toNat))) 0 false none
        [(i.ctx, gb, n)] [.scratch s.curP]
      s.retire i)

def execPut (d a b : GReg) (size : AccSize) (ord : Option Scope) (imm : BitVec 32) (s : State) : Out1 :=
  s.onFit (uses (.put d a b size ord imm)) (fun i s =>
    let n := sizeBytes size
    let va := effAddr i a imm
    let gb := (i.readG b).toNat
    match s.checkGetPut i va (i.readG d).toNat gb n true with
    | .error (code, addr, det) => s.raise i code addr det
    | .ok (pa, k, r) =>
      match s.poisonAt pa n with
      | some b => s.raise i fUncorr (64 * b) 2
      | none =>
      let q := mkReq .write i k r va n [] 0 (.ack (noteOf (i.readG d).toNat))
      let (_, s) := s.request i { q with src := some pa } r.kind false ord [(i.ctx, gb, n)] [.scratch s.curP]
      s.retire i)

/-! Atomics (R96 to R98). -/

/-- Width in bytes. -/
def wideBytes (wide : Bool) : Nat := if wide then 8 else 4

/-- An atomic at issue; `refused` says that a replay-safe context refuses it (Table 05-4). -/
def State.atomic (s : State) (u : Uses) (op : MemOp) (d a b : GReg) (n : Nat) (ord : Option Scope)
    (imm : BitVec 32) (refused : Bool) : Out1 :=
  s.onFit u (fun i s =>
    let va := effAddr i a imm
    match s.checkAccess i va n true true refused (.ok ()) with
    | .error (code, addr, det) => s.raise i code addr det
    | .ok (k, r) =>
      let ans := if d = 0 then Answer.ack none
        else match op with
          | .aclaim => .claim (.g d) ((i.readG b).toNat % 2 ^ (8 * n))
          | _ => .reg (.g d) none
      let (fid, s) := s.request i (mkReq op i k r va n (leBytes n (i.readG b).toNat) (i.readG d) ans) r.kind false ord
        [] []
      s.retire ((if d = 0 then i else i.await fid (.g d) true none).acquire ord fid))

def execAadd (d a b : GReg) (wide : Bool) (ord : Option Scope) (imm : BitVec 32) (s : State) : Out1 :=
  s.atomic (uses (.aadd d a b wide ord imm)) .aadd d a b (wideBytes wide) ord imm (d != 0)
def execAfadd (d a b : GReg) (ord : Option Scope) (imm : BitVec 32) (s : State) : Out1 :=
  s.atomic (uses (.afadd d a b ord imm)) .afadd d a b 4 ord imm true
def execAmin (d a b : GReg) (wide : Bool) (ord : Option Scope) (imm : BitVec 32) (s : State) : Out1 :=
  s.atomic (uses (.amin d a b wide ord imm)) .amin d a b (wideBytes wide) ord imm (d != 0)
def execAmax (d a b : GReg) (wide : Bool) (ord : Option Scope) (imm : BitVec 32) (s : State) : Out1 :=
  s.atomic (uses (.amax d a b wide ord imm)) .amax d a b (wideBytes wide) ord imm (d != 0)
def execAminn (d a b : GReg) (wide : Bool) (ord : Option Scope) (imm : BitVec 32) (s : State) : Out1 :=
  s.atomic (uses (.aminn d a b wide ord imm)) .aminn d a b (wideBytes wide) ord imm (d != 0)
def execAmaxn (d a b : GReg) (wide : Bool) (ord : Option Scope) (imm : BitVec 32) (s : State) : Out1 :=
  s.atomic (uses (.amaxn d a b wide ord imm)) .amaxn d a b (wideBytes wide) ord imm (d != 0)
def execAand (d a b : GReg) (wide : Bool) (ord : Option Scope) (imm : BitVec 32) (s : State) : Out1 :=
  s.atomic (uses (.aand d a b wide ord imm)) .aand d a b (wideBytes wide) ord imm (d != 0)
def execAor (d a b : GReg) (wide : Bool) (ord : Option Scope) (imm : BitVec 32) (s : State) : Out1 :=
  s.atomic (uses (.aor d a b wide ord imm)) .aor d a b (wideBytes wide) ord imm (d != 0)
def execAxor (d a b : GReg) (wide : Bool) (ord : Option Scope) (imm : BitVec 32) (s : State) : Out1 :=
  s.atomic (uses (.axor d a b wide ord imm)) .axor d a b (wideBytes wide) ord imm (d != 0)
def execAswap (d a b : GReg) (wide : Bool) (ord : Option Scope) (imm : BitVec 32) (s : State) : Out1 :=
  s.atomic (uses (.aswap d a b wide ord imm)) .aswap d a b (wideBytes wide) ord imm true
def execAcas (d a b : GReg) (wide : Bool) (ord : Option Scope) (imm : BitVec 32) (s : State) : Out1 :=
  s.atomic (uses (.acas d a b wide ord imm)) .acas d a b (wideBytes wide) ord imm true
def execAclaim (d a b : GReg) (wide : Bool) (ord : Option Scope) (imm : BitVec 32) (s : State) : Out1 :=
  s.atomic (uses (.aclaim d a b wide ord imm)) .aclaim d a b (wideBytes wide) ord imm false

/-! Fences and drains (R99 to R101). -/

def execFence (scope : Scope) (s : State) : Out1 :=
  s.onFit (uses (.fence scope)) (fun i s =>
    s.retire { i with fenceOn := i.fenceOn ++ (s.core s.curP).covered i.iid scope })

def opPath : Path → OpPath
  | .ls => .ls | .cp => .cp | .gs => .gs | .ar => .ar

/-- Every operation of a path that the core has issued and that has not completed. -/
def Core.onPath (c : Core) (p : Path) : List Op := c.ops.filter (fun o => o.path == opPath p)

/-- XFENCE: every p1 operation completes; every p2 operation was accepted by its engine as it issued. -/
def execXfence (p1 p2 : Path) (s : State) : Out1 :=
  s.onFit (uses (.xfence p1 p2)) (fun i s =>
    s.retire { i with drainOn := i.drainOn ++ ((s.core s.curP).onPath p1).map Op.id })

/-- An operation is into a memory: by the translation that fixed it, or by the one that now stands for what is not fixed yet.
An absent page, and what the spring has still to say, may be in any memory (R101). -/
def State.opInto (s : State) (die : Nat) (o : Op) (m : MemName) : Bool :=
  o.unserved || o.mems.contains m || o.loose.any (fun r =>
    match s.translate die o.ctx r.1 (!o.rd) with
    | .ok t _ => memNameOf t == some m
    | .absent _ _ _ => true
    | .fault _ _ _ => false)

def execDrain (p : Path) (a : GReg) (s : State) : Out1 :=
  s.onFit (uses (.drain p a)) (fun i s =>
    let va := (i.readG a).toNat
    let ops := (s.core s.curP).onPath p
    if va = 2 ^ 64 - 1 then s.retire { i with drainOn := i.drainOn ++ ops.map Op.id }
    else
      match (s.ctx i.ctx).checkAddr va 1 false with
      | .error (code, addr, det) => s.raise i code addr det
      | .ok (k, r) =>
        match s.translate (dieOf s.curP) i.ctx va false with
        | .fault code addr det => s.raise i code addr det
        | .ok t _ =>
          let l := match memNameOf t with
            | some m => (ops.filter (fun (o : Op) => s.opInto (dieOf s.curP) o m)).map (fun o => (o.id, m))
            | none => []
          s.retire { i with drainInto := i.drainInto ++ l }
        | .absent _ _ _ =>
          -- parks on the page fault and issues again after the repair
          let q := mkReq .read i k r va 1 [] 0 .probe
          let (goal, dst) := s.reqRoute q (dieOf s.curP) (xyOfCore s.curP)
          let (fid, s) := s.launchFlight
            (mkFlight (whoOf i s.curP s.curS) 0 false (.req q) goal (xyOfCore s.curP) dst)
          .next (s.setCur { i with pageWait := i.pageWait ++ [fid] }))

/-! Barriers (R102, R383). -/

/-- Router of the unit that holds a barrier. -/
def barrierXY (level p : Nat) : Nat × Nat :=
  if level = 2 then xyOfCore p
  else if level = 3 then cornerXY (dieOf p)
  else cornerXY 0

/-- BARRIVE (R102). With gA and gB both outside their limits the rule does not say which register DET holds: gA is checked
first (DESIGN CHOICE, log 49). -/
def execBarrive (a b c : GReg) (hidx : BitVec 12) (scope : Scope) (n : BitVec 4) (s : State) : Out1 :=
  s.onFit (uses (.barrive a b c hidx scope n)) (fun i s =>
    let ga := (i.readG a).toNat
    let gb := (i.readG b).toNat
    if ga ≥ 2 ^ 16 then s.raise i fOperand 0 ga
    else if gb = 0 ∨ gb ≥ 2 ^ 16 then s.raise i fOperand 0 gb
    else
      let x := s.ctx i.ctx
      let lv := scopeNum scope
      let arr : BArr := ⟨i.ctx, lv, n.toNat, gb, i.readG c, x.desc.rank, i.lcore, hidx.toNat, ga⟩
      let src := xyOfCore s.curP
      let (goal, dst) :=
        if lv = 5 ∧ x.desc.rank ≠ 0 then
          let port := s.egressPort i.ctx 0 false src
          (Goal.egress port, torusPortXY port)
        else (.barrier, barrierXY lv s.curP)
      let perf := (s.core s.curP).covered i.iid scope
      let f := mkFlight (whoOf i s.curP s.curS) 0 false (.barrier arr) goal src dst
      let f := { f with
        afterPerf := perf
        releasing := true
        stage := if perf.isEmpty then f.stage else .held }
      (s.launchFlight f).2.retire i)

/-! Watches (R104). -/

/-- WATCH's checks: the word's alignment, the operation, then those of an atomic. Where the check of gB stands among the steps
of R87 is not given: it follows the address range and precedes the atomic target (05 R104; DESIGN CHOICE, log 49). -/
def State.checkWatch (s : State) (i : Inst) (va gb want : Nat) : Check (Nat × Region) :=
  s.checkAccess i va 8 true true true (if gb = want then .ok () else .error (fOperand, 0, gb))

def execWatchRegister (d a b c : GReg) (hidx : BitVec 12) (s : State) : Out1 :=
  s.onFit (uses (.watchRegister d a b c hidx)) (fun i s =>
    let va := (i.readG a).toNat
    match s.checkWatch i va (i.readG b).toNat 0 with
    | .error (code, addr, det) => s.raise i code addr det
    | .ok (k, r) =>
      let core := s.core s.curP
      if 64 ≤ core.mons.length then s.retireLater i d 1
      else
        let (fid, s) := s.request i (mkReq .watch i k r va 8 [] (i.readG c) (.watch d)) r.kind true none [] []
        let core := s.core s.curP
        let s := s.setCore s.curP { core with
          mons := core.mons ++ [⟨fid, i.ctx, va, if 2 ≤ r.kind then .chip 0 0 else .here 0, hidx.toNat, i.readG c, false⟩] }
        s.retire (i.await fid (gDest d) false none))

def execWatchCancel (d a b c : GReg) (hidx : BitVec 12) (s : State) : Out1 :=
  s.onFit (uses (.watchCancel d a b c hidx)) (fun i s =>
    let va := (i.readG a).toNat
    match s.checkWatch i va (i.readG b).toNat 1 with
    | .error (code, addr, det) => s.raise i code addr det
    | .ok (k, r) =>
      let core := s.core s.curP
      let (gone, kept) := core.mons.partition (fun m => m.ctx = i.ctx && m.va = va)
      let s := s.setCore s.curP { core with mons := kept }
      if gone.isEmpty || decide (r.kind < 2) then s.retireLater i d (word64 gone.length)
      else
        -- the peer that owns the word is told, and gD is the number that it removes there: one that fired first is no more
        let (fid, s) := s.request i (mkReq .unwatch i k r va 8 [] 0 (.unwatch d)) r.kind true none [] []
        s.retire (i.await fid (gDest d) false none))

end Sys2Proof.Machine
end

