-- ==== Sys2Proof/Machine/Frames.lean ====
section
/-! DEFINITION. Frames of a Druntasy link (18 R312, R319, R320): their units, their trailers and the counters of the port that
sends them; and the ports of the barn network (20 R331, 18 R381). -/

namespace Sys2Proof.Machine

open Sys2Proof

/-- Flits of a payload beside its header (11 R228). -/
def flitsOf (n : Nat) : Nat := 1 + (n + 63) / 64

/-- Flits of a unit of a link (R228, 18 R319). -/
def unitFlits : PeerUnit → Nat
  | .msg _ _ m => flitsOf m.hdr.plen.toNat
  | .req _ _ _ _ _ _ data _ _ => flitsOf data.length
  | .ring _ _ _ _ (.push _) _ _ => flitsOf 8
  | .memReply _ _ data => flitsOf data.length
  | .via _ _ _ u => unitFlits u
  | .barnEntry _ e | .barnData _ e => flitsOf (16 + (e.body.length + 15) / 16 * 16)
  | _ => 1

/-- Travels on VN1. -/
def replyUnit : PeerUnit → Bool
  | .msg _ _ m => m.hdr.kind == 1
  | .memReply _ _ _ | .ack _ _ _ | .ringRep _ _ _ _ => true
  | .via _ _ _ u => replyUnit u
  | _ => false

/-- The link words of a unit's header flit (Table 18-6): m5 with the side-band word, m6 with the remote-table entry and the
memory status. -/
def linkWords : PeerUnit → Word × Word
  | .msg _ e m =>
    ((match m.scale with
      | some w => (BitVec.setWidth 64 w) ||| word64 (2 ^ 34)
      | none => 0), entryWord e 0)
  | .req _ e _ _ _ _ _ _ _ | .watch _ e _ _ _ _ _ _ | .unwatch _ e _ _ _ _ | .ring _ e _ _ _ _ _
  | .barrier _ e _ _ _ _ _ _ _ | .ringRep e _ _ _ | .ack e _ _ => (0, entryWord e 0)
  | .memReply e mst _ => (0, entryWord e mst)
  | .via _ _ _ u => linkWords u
  | _ => (0, 0)
where
  /-- EPORT, EIDX and MST. -/
  entryWord (e mst : Nat) : Word := word64 (e / 4096 % 16 * 2 ^ 20 + e % 4096 * 2 ^ 8 + mst % 8)

/-- FCTL of a frame's 25 flits (Table 18-7): those of one unit, and idle flits. -/
def frameCtl (kg : Bool) (u : Option PeerUnit) : List Nat :=
  let k := cond kg (2 ^ 15) 0
  match u with
  | none => List.replicate 25 (k + 2 * 2 ^ 13)
  | some u =>
    let vn := match u with
      | .again _ | .retired => 3
      | _ => cond (replyUnit u) 1 0
    (List.range 25).map (fun j =>
      if j < unitFlits u then k + vn * 2 ^ 13 + (if j = 0 then 2 ^ 12 else 0) else k + 2 * 2 ^ 13)

/-- The frame counter of a bank that is loaded. -/
def KeyBanks.bank (b : KeyBanks) (kg : Bool) : Option Nat := if kg then b.bankB else b.bankA

/-- A bank's counter set, or the bank erased. -/
def KeyBanks.put (b : KeyBanks) (kg : Bool) (n : Option Nat) : KeyBanks := if kg then { b with bankB := n } else { b with bankA := n }

/-- The frame counter of the bank in use. -/
def KeyBanks.inUse (b : KeyBanks) : Option Nat := b.bank b.kg

/-- FCNT at which the hub begins a rekey by itself, so that the new bank is in use before FCNT reaches 2^36 (R321; log 40). -/
def rekeyAt : Nat := 2 ^ 36 - 2 ^ 24

/-- The bank in use takes another frame: its FCNT stays below 2^36 (R321). -/
def Port.keyed (p : Port) : Bool := p.tx.inUse.any (fun n => decide (n < 2 ^ 36))

/-- The port may send a frame of a unit now: a key bank takes it, and the peer has room for its flits. -/
def Port.maySend (p : Port) (n : Nat) (vn1 : Bool) : Bool :=
  let used := if vn1 then p.used1 else p.used0
  p.keyed && (decide (used + n ≤ 25) || decide (used + n ≤ 25 + Config.linkFlits))

/-- Sends a frame (R319, R320): its counters rise, it stands in the retry buffer until it is acknowledged, and the rekey begins
before FCNT reaches 2^36 (R321). -/
def State.sendFrame (s : State) (port : Nat) (u : Option PeerUnit) (what : Out) : State :=
  let p := s.port port
  let n := (u.map unitFlits).getD 0
  let vn1 := (u.map replyUnit).getD false
  let fcnt := p.tx.inUse.getD 0
  let w := (u.map linkWords).getD (0, 0)
  let t : Trailer := ⟨p.tx.kg, fcnt, p.fseq, (p.rxSeq + 65535) % 65536, p.freed0, p.freed1, frameCtl p.tx.kg u, w.1, w.2⟩
  let p := { p with
    fseq := (p.fseq + 1) % 65536
    tx := p.tx.put p.tx.kg (p.tx.inUse.map (· + 1))
    unacked := p.unacked ++ [(t, what)]
    used0 := if vn1 then p.used0 else p.used0 + n
    used1 := if vn1 then p.used1 + n else p.used1
    freed0 := 0
    freed1 := 0
    rekeying := if p.rekeying = .none ∧ p.phase = .active ∧ rekeyAt ≤ fcnt + 1 then .begun else p.rekeying }
  ((s.setPort port p).emit (.trailer port t)).emit what

/-! The barn network (20 R331). -/

/-- A barn port carries frames: it is up, its keys are loaded, and the pod geometry is set (18 R321, R381). -/
def State.barnReady (s : State) (port : Nat) : Bool :=
  s.hub.geom.isSome && (s.port port).up && (s.port port).keyed

/-- The barn port of a sequence: SEQ mod 2, or the other while that one is down (R331). -/
def State.barnPort (s : State) (seq : Nat) : Option Nat :=
  let pr := 12 + seq % 2
  if s.barnReady pr then some pr else if s.barnReady (25 - pr) then some (25 - pr) else none

/-- The sequence whose port a unit takes. -/
def barnSeq : PeerUnit → Nat
  | .barnEntry _ e | .barnData _ e => e.seq.toNat
  | .barnAck _ _ q _ _ => q.toNat
  | _ => 0

/-- One unit that waits: it leaves when its port carries frames and has room, and none that waits for that port stands before
it. -/
def barnTry (x : State × List BarnOut × List Nat) (b : BarnOut) : State × List BarnOut × List Nat :=
  let (s, kept, stuck) := x
  match s.barnPort (barnSeq b.unit) with
  | none => (s, kept ++ [b], stuck)
  | some pr =>
    if stuck.contains pr || !(s.port pr).maySend (unitFlits b.unit) false then (s, kept ++ [b], pr :: stuck)
    else (s.sendFrame pr (some b.unit) (.barn pr b.chip b.unit), kept, stuck)

/-- The units that can leave on the barn ports leave (log 52). -/
def State.barnFlush (s : State) : State :=
  let (s', kept, _) := s.hub.barnQ.foldl barnTry (s, [], [])
  s'.setHub { s'.hub with barnQ := kept }

/-- Sends a unit of the barn network to a chip; while no barn port takes it, it waits. -/
def State.barnSend (s : State) (chip : Nat) (u : PeerUnit) : State :=
  (s.setHub { s.hub with barnQ := s.hub.barnQ ++ [⟨chip, u⟩] }).barnFlush

/-- Units of frames that the neighbour of a barn port has not acknowledged: they go by the other port when this one goes down
(R331). -/
def Port.barnUnits (p : Port) : List BarnOut :=
  p.unacked.filterMap (fun e =>
    match e.2 with
    | .barn _ chip u => some ⟨chip, u⟩
    | _ => none)

/-- Something may arrive on the barn network. -/
def State.barnOpen (s : State) : Bool := s.barnReady 12 || s.barnReady 13

end Sys2Proof.Machine
end

