-- ==== Sys2Proof/Machine/Silo.lean ====
section
/-! DEFINITION. The silo in HBM4 (10 R208 to R211, R220; 16 Table 16-3): where its records stand, and their bytes. -/

namespace Sys2Proof.Machine

open Sys2Proof

/-! Sizes (Tables 10-2 and 10-3). -/

/-- Silo size Z. -/
def CtxCore.siloZ (l : CtxCore) : Nat := 2 ^ (bitsOf l.dcfg.toNat 31 28 + 18)
/-- Message records, continuation records and flush-reserve records (Table 10-3). -/
def CtxCore.poolMax (l : CtxCore) : Nat := l.siloZ / 1024 - 8
def CtxCore.contMax (l : CtxCore) : Nat := l.siloZ / 16384
def CtxCore.reserveMax (l : CtxCore) : Nat := l.siloZ / 2048
/-- Message records in use. -/
def CtxCore.poolUsed (l : CtxCore) : Nat := (l.silo.map (fun e => e.2.length)).sum + l.sheafList.length
/-- Flush-reserve records in use, deferred arrivals apart: a continuation takes eight, and a saved context's queue entries
stand there too (R223). -/
def CtxCore.reserveUsed (l : CtxCore) : Nat :=
  l.reserve.length + 8 * (l.conts.filter (fun e => decide (l.contMax ≤ e.1))).length
    + (l.flushed.map (fun e => e.2.length)).sum
/-- Depth of a queue (Table 10-2). -/
def CtxCore.depth (l : CtxCore) (pr : Nat) : Nat := bitsOf l.dcfg.toNat (39 + 8 * pr) (32 + 8 * pr)
def CtxCore.queue (l : CtxCore) (pr : Nat) : List QEntry := Tab.get [] l.queues pr
def CtxCore.siloOf (l : CtxCore) (pr : Nat) : List QEntry := Tab.get [] l.silo pr

/-! Places (Table 10-3). -/

/-- The silo of a context's logical core: SILOBA + c × Z (16 Table 16-3). -/
def State.siloAt (s : State) (c lc : Nat) : Nat := (s.ctx c).desc.siloba + lc * (s.lc c lc).siloZ

/-- Message record n of the pool. -/
def State.poolAt (s : State) (c lc n : Nat) : Nat := s.siloAt c lc + 4096 + 512 * n

/-- Record n of the flush reserve. -/
def State.reserveAt (s : State) (c lc n : Nat) : Nat := s.siloAt c lc + 3 * (s.lc c lc).siloZ / 4 + 512 * n

/-- Continuation record r; one beyond the last stands in eight records at the end of the flush reserve (R211; log 16). -/
def State.contAt (s : State) (c lc r : Nat) : Nat :=
  let l := s.lc c lc
  if r < l.contMax then s.siloAt c lc + l.siloZ / 2 + 4096 * r
  else s.siloAt c lc + l.siloZ - 4096 * (r - l.contMax + 1)

/-- The lowest number that a list does not hold. -/
def lowestFree (used : List Nat) : Nat := ((List.range (used.length + 1)).find? (fun n => !used.contains n)).getD used.length

/-- The message record that the next spill takes (log 16). -/
def CtxCore.freeRec (l : CtxCore) : Nat :=
  lowestFree (l.silo.flatMap (fun e => e.2.filterMap QEntry.place) ++ l.sheafList.map (fun e => e.2.2))

/-- A read of a silo or of a save area meets a poisoned block: the owning context's fault of kind F (21 Table 21-4, structure
11). -/
def State.siloFault (s : State) (c block : Nat) : State :=
  let die := 64 * block / 2 ^ 38
  s.fatal (.die die 11 0) c fUncorr { lcore := 1023, unit := 11, uidx := die, addr := 64 * block, det := 11 }

/-- The poisoned block of a message record of the pool, and of one of the flush reserve. -/
def State.poolBad (s : State) (c lc : Nat) (n : Option Nat) : Option Nat := n.bind (fun n => s.poisonAt (s.poolAt c lc n) 512)
def State.reserveBad (s : State) (c lc : Nat) (n : Option Nat) : Option Nat :=
  n.bind (fun n => s.poisonAt (s.reserveAt c lc n) 512)

/-! Records (R210). -/

/-- The bytes of a message record. -/
def msgRecord (m : Msg) (st : Nat) : List Byte :=
  let head := (List.range 8).flatMap (fun j => leBytes 8 (hdrWord m.hdr j).toNat)
  let scale := match m.scale with
    | some w => leBytes 2 (bitsOf w.toNat 15 0) ++ leBytes 1 1
    | none => leBytes 3 0
  padTo 512 (head ++ padTo 256 m.payload ++ scale ++ leBytes 1 0 ++ leBytes 4 st)

/-- The message of a record's bytes. -/
def msgOfRecord (bs : List Byte) : Msg :=
  let w (j : Nat) : Word := word64 (ofLe (sliceBytes bs (8 * j) 8))
  let h := hdrOfWords (w 0) (w 1) (w 2) (w 3) (w 4)
  { hdr := h
    payload := sliceBytes bs 64 (min 256 h.plen.toNat)
    scale := if ofLe (sliceBytes bs 322 1) % 2 = 1 then some (BitVec.ofNat 34 (ofLe (sliceBytes bs 320 2))) else none }

/-- Bytes that the hardware writes and whose values the spec does not give (log 3). -/
def State.openBytes (s : State) (a n : Nat) : State :=
  let (x, s) := s.free
  s.ownerWrite a (leBytes n x)

/-- The record of an entry at an address. A fired sheaf stands there as its lead header with its operands; how a wake names
its continuation is not given (log 16). -/
def State.writeRecord (s : State) (a : Nat) (e : QEntry) : State :=
  match e.item with
  | .msg m => s.ownerWrite a (msgRecord m e.stamp)
  | .sheaf h ops _ => s.ownerWrite a (msgRecord ⟨h, ops.flatMap (fun w => leBytes 8 w.toNat), none⟩ e.stamp)
  | .wake _ => s.openBytes a 512

/-- An entry as it is read back from its record. -/
def State.readRecord (s : State) (a : Nat) (e : QEntry) : QEntry :=
  match e.item with
  | .msg _ => { e with item := .msg (msgOfRecord (Memory.read s.mem a 512)), place := none }
  | .sheaf _ _ n =>
    let bs := Memory.read s.mem a 512
    { e with
      item := .sheaf (msgOfRecord bs).hdr ((List.range 4).map (fun j => word64 (ofLe (sliceBytes bs (64 + 8 * j) 8)))) n
      place := none }
  | .wake _ => { e with place := none }

/-- The hardware writes the control block, whose layout the spec does not give (log 16). -/
def State.siloControl (s : State) (c lc : Nat) : State := s.openBytes (s.siloAt c lc) 4096

/-- An entry at the tail of a silo list, in a free record of the pool (R208). -/
def State.spill (s : State) (c lc : Nat) (e : QEntry) : State :=
  let l := s.lc c lc
  let n := l.freeRec
  let e := { e with place := some n }
  ((s.setLc c lc { l with silo := l.silo.put e.prio (l.siloOf e.prio ++ [e]) }).writeRecord (s.poolAt c lc n) e).siloControl c lc

/-- A spilled entry as its refill reads it (R209). -/
def State.unspilled (s : State) (c lc : Nat) (e : QEntry) : QEntry :=
  match e.place with
  | some n => s.readRecord (s.poolAt c lc n) e
  | none => e

/-! Continuation and slot records (Table 10-6). -/

/-- Byte 40 and 41 of a continuation's record. -/
def ParkWait.word : ParkWait → Nat
  | .tag n => 1 + 256 * n
  | .ring _ => 2
  | .gate _ _ => 3

/-- Table 10-6: a continuation or slot record of 4 KiB, with its wait word. -/
def Inst.recordBytes (i : Inst) (wait : Nat) : List Byte :=
  padTo 4096 (leBytes 8 i.pc.toNat ++ leBytes 8 i.link.toNat ++ leBytes 8 i.status.toNat
    ++ i.k.toList.flatMap (fun x => leBytes 2 x.toNat) ++ leBytes 8 wait ++ List.replicate 16 0
    ++ i.m.toList.flatMap (fun x => leBytes 8 x.toNat) ++ i.q.toList.flatMap (fun x => leBytes 8 x.toNat)
    ++ i.g.toList.flatMap (fun x => leBytes 8 x.toNat) ++ i.v.toList.flatMap (fun x => leBytes 64 x.toNat)
    ++ i.d.toList.flatMap (fun x => leBytes 32 x.toNat))

/-- Flags of the low bits of a status word (01 Table 01-3). -/
def Flags.ofBits (w : Nat) : Flags where
  rc := w.testBit 6
  sat := w.testBit 5
  nv := w.testBit 4
  dz := w.testBit 3
  ovf := w.testBit 2
  unf := w.testBit 1
  nx := w.testBit 0

/-- The registers of a record's bytes, in an instance whose identity the record does not hold. -/
def Inst.ofRecord (i : Inst) (bs : List Byte) : Inst :=
  let f (o n : Nat) : Nat := ofLe (sliceBytes bs o n)
  let st := word64 (f 16 8)
  { i with
    pc := word64 (f 0 8)
    link := word64 (f 8 8)
    k := Vector.ofFn (fun k : Fin 8 => if k.val = 0 then 0xFFFF else BitVec.ofNat _ (f (24 + 2 * k.val) 2))
    m := Vector.ofFn (fun k : Fin 16 => word64 (f (64 + 8 * k.val) 8))
    q := Vector.ofFn (fun k : Fin 16 => word64 (f (192 + 8 * k.val) 8))
    g := Vector.ofFn (fun k : Fin 64 => if k.val = 0 then 0 else word64 (f (320 + 8 * k.val) 8))
    v := Vector.ofFn (fun k : Fin 32 => BitVec.ofNat _ (f (832 + 64 * k.val) 64))
    d := Vector.ofFn (fun k : Fin 16 => BitVec.ofNat _ (f (2880 + 32 * k.val) 32))
    prio := bitsOf st.toNat 31 30
    join := bitsOf st.toNat 29 29 == 1
    reply := bitsOf st.toNat 28 28 == 1
    rsafe := bitsOf st.toNat 27 27 == 1
    flags := Flags.ofBits st.toNat }

/-- The registers that a continuation's record holds (R220). -/
def State.readCont (s : State) (c lc r : Nat) (i : Inst) : Inst := i.ofRecord (Memory.read s.mem (s.contAt c lc r) 4096)

end Sys2Proof.Machine
end

