-- ==== Sys2Proof/Machine/Late.lean ====
section
/-! DEFINITION. Faults that reach an instance after issue (05 R89, 21 R344), parking (01 R17, 10 R220) and waking,
and the silo that holds what queues cannot (10 R208, R211). -/

namespace Sys2Proof.Machine

open Sys2Proof

/-! Instances by number. -/

/-- Core position and slot of an instance. -/
def State.findInst (s : State) (iid : Nat) : Option (Nat × Nat × Inst) :=
  s.cores.findSome? (fun e =>
    match e.2.findSlot (fun i => i.iid == iid) with
    | some sl => (e.2.inst? sl).map (fun i => (e.1, sl, i))
    | none => none)

/-- The slot and the pending result with a number. -/
def State.findPend (s : State) (pid : Nat) : Option (Nat × Nat × Inst × Pend) :=
  s.cores.findSome? (fun e =>
    match e.2.findSlot (fun i => i.pend.any (fun x => x.id == pid)) with
    | some sl =>
      match e.2.inst? sl with
      | some i => (i.pend.find? (fun x => x.id == pid)).map (fun x => (e.1, sl, i, x))
      | none => none
    | none => none)

/-- Sets the result that an instance waits for, when it still runs. -/
def State.fillId (s : State) (pid : Nat) (v : Word) : State :=
  match s.findPend pid with
  | some (p, sl, i, _) =>
    s.setInst p sl (some { i with pend := i.pend.map (fun e => if e.id = pid then { e with value := some v } else e) })
  | none => s

/-- The continuation of an instance: context, logical core and record. -/
def State.findCont (s : State) (w : Who) : Option (Nat × Cont) :=
  (s.lc w.ctx w.lcore).conts.find? (fun e => e.2.inst.iid = w.iid)

/-- An instance has ended: it is in no slot, parked nowhere and saved nowhere. Number 0 names none. -/
def State.ended (s : State) (w : Who) : Bool :=
  w.iid != 0 && (s.findInst w.iid).isNone && (s.findCont w).isNone && (match (s.ctx w.ctx).saved with
    | some v => !v.slots.any (fun e => e.inst.iid = w.iid)
    | none => true)

/-- A continuation record given up, with its place in its tag group's list. -/
def State.dropCont (s : State) (c lc rec : Nat) : State :=
  let l := s.lc c lc
  s.setLc c lc { l with
    conts := l.conts.del rec
    tgs := l.tgs.map (fun e => (e.1, { e.2 with parked := e.2.parked.filter (fun k => k != rec) })) }

/-- A fault found after issue ends its instance: in its slot, parked, or saved; otherwise the record says that it had
ended (05 R89, 21 Table 21-2; log 22). -/
def State.raiseLate (s : State) (w : Who) (code addr det : Nat) : State :=
  let src := Source.core (s.lc w.ctx w.lcore).pos 0
  match s.findInst w.iid with
  | some (p, sl, i) =>
    (s.record (.core p 0) w.ctx code false w.fromFault (recOf { w with sl := sl } false addr det)).endInst p sl i
  | none =>
    match s.findCont w with
    | some (r, _) =>
      (s.record src w.ctx code false w.fromFault (recOf { w with sl := 0 } false addr det)).dropCont w.ctx w.lcore r
    | none =>
      match (s.ctx w.ctx).saved with
      | some v =>
        if v.slots.any (fun e => e.inst.iid = w.iid) then
          let s := s.setCtx w.ctx { s.ctx w.ctx with
            saved := some { v with slots := v.slots.filter (fun e => e.inst.iid != w.iid) } }
          let s := (v.slots.filter (fun e => e.inst.iid == w.iid)).foldl (fun s e => s.unhold e.inst) s
          s.record src w.ctx code false w.fromFault (recOf w false addr det)
        else s.record src w.ctx code false w.fromFault (recOf w true addr det)
      | none => s.record src w.ctx code false w.fromFault (recOf w true addr det)

/-! The silo (10 R205 to R211). -/

/-- The context is stopping, saved, or being restored: arrivals spill or are deferred (10 R223, 16 R288). -/
def Ctx.paused (c : Ctx) : Bool :=
  match c.st with
  | .saving | .saved | .restoring | .ending => true
  | _ => false

/-- The silo-overflow fault (10 R211). The dispatcher of the core raises it, or the hub for its host overflow list (18 R309);
its TAG is that of the message or continuation (21 Table 21-2). While the context is stopped by a fatal fault, what a full
flush reserve discards, and what goes to the reserve of a silo that has overflowed already (`again`), builds no further record
(21 R349); a first overflow during a dump adds its record to the index (R350). One in a dumped context, which no dump follows,
builds none (DESIGN CHOICE, log 16). -/
def State.siloOverflow (s : State) (c lc det tag : Nat) (again : Bool) : State :=
  let x := s.ctx c
  let raised (s : State) : State :=
    if det = 2 then s.fatal .hub c fSilo { tag := tag, unit := 10, det := det }
    else s.fatal (.core (s.lc c lc).pos 9) c fSilo { tag := tag, lcore := lc, unit := 9, det := det }
  match x.halt, x.dumped with
  | .dump _, _ => if again then s else raised s
  | _, true => s
  | _, _ => raised s

/-- The context that a flight belongs to. -/
def Flight.ctx (f : Flight) : Nat :=
  match f.body with
  | .req r => r.ctx
  | .rep r _ _ => r.ctx
  | .msg m _ => m.hdr.ctx.toNat
  | .barrier a => a.ctx
  | _ => f.who.ctx

/-- The tag of a queue's entry. -/
def State.tagOf (s : State) (c lc : Nat) (e : QEntry) : Nat :=
  match e.item with
  | .msg m => m.hdr.tag.toNat
  | .sheaf h _ _ => h.tag.toNat
  | .wake r =>
    match (s.lc c lc).conts.get? r with
    | some k => k.inst.tag
    | none => 0

/-- The tag of an arrival, 0 for what has none. -/
def Flight.tag (f : Flight) : Nat :=
  match f.body with
  | .msg m _ => m.hdr.tag.toNat
  | .barrier a => a.tag
  | _ => 0

/-- Deferred arrivals of a core of a context (16 R288). -/
def State.deferredOf (s : State) (c lc : Nat) : List Flight :=
  s.flights.filter (fun f =>
    match f.stage with
    | .deferred l _ _ => l = lc && f.ctx = c
    | _ => false)

/-- The flush reserve of a core has a record free, beside those that the queue entries of a stopping context will take
(R223). -/
def State.reserveRoom (s : State) (c lc : Nat) : Bool :=
  let l := s.lc c lc
  let entries := if (s.ctx c).paused then (l.queues.map (fun e => e.2.length)).sum else 0
  decide (l.reserveUsed + entries + (s.deferredOf c lc).length < l.reserveMax)

/-- The flush-reserve record that the next entry takes (log 16). -/
def State.freeReserve (s : State) (c lc : Nat) : Nat :=
  let l := s.lc c lc
  lowestFree (l.reserve.filterMap QEntry.place ++ l.flushed.flatMap (fun e => e.2.filterMap QEntry.place)
    ++ (s.deferredOf c lc).filterMap (fun f =>
      match f.stage with
      | .deferred _ _ n => some n
      | _ => none))

/-- An entry written into the flush reserve. -/
def State.reserveEntry (s : State) (c lc : Nat) (e : QEntry) : State :=
  let l := s.lc c lc
  let n := s.freeReserve c lc
  let e := { e with place := some n }
  (s.setLc c lc { l with reserve := l.reserve ++ [e] }).writeRecord (s.reserveAt c lc n) e

/-- An arrival that finds the flush reserve full is discarded and counted, in the dump index too when that stands (21 R349,
Table 21-3). -/
def State.discard (s : State) (c : Nat) : State :=
  let x := s.ctx c
  let n := min (x.disc + 1) (2 ^ 32 - 1)
  let s := s.setCtx c { x with disc := n, loss := true }
  if x.dumped then
    let a := x.desc.saveba + 0x50000
    (s.ownerWrite (a + 8) (leBytes 4 n)).ownerWrite (a + 13) (leBytes 1 3)
  else s

/-- A silo that has overflowed and stopped its context: further arrivals go to its flush reserve (R211). -/
def State.overflowed (s : State) (c lc : Nat) : Bool :=
  let l := s.lc c lc
  !l.reserve.isEmpty || ((s.ctx c).paused && l.conts.any (fun e => decide (l.contMax ≤ e.1)))

/-- An entry that overflows the silo: into the flush reserve while it has room (R211). -/
def State.overflow (s : State) (c lc : Nat) (e : QEntry) : State :=
  let room := s.reserveRoom c lc
  (if room then s.reserveEntry c lc e else s.discard c).siloOverflow c lc 0 (s.tagOf c lc e) (!room || s.overflowed c lc)

/-- An arrival bound for a queue: into it, or onto the tail of its silo list (R208); a full message pool overflows the
silo into the flush reserve (R211). -/
def State.enqueue (s : State) (c lc : Nat) (e : QEntry) : State :=
  let x := s.ctx c
  let l := s.lc c lc
  let q := l.queue e.prio
  if q.length + Tab.get 0 l.held e.prio < l.depth e.prio && (l.siloOf e.prio).isEmpty && !x.paused
      && l.reserve.all (fun o => o.prio != e.prio) then
    s.setLc c lc { l with queues := l.queues.put e.prio (q ++ [e]) }
  else if l.poolUsed < l.poolMax && !s.overflowed c lc then (s.spill c lc e).signal 4 (quadOf l.pos)
  else s.overflow c lc e

/-- An arrival written to the flush reserve as a deferred record, with its stamp (R288). The record of what is no message is
not given (log 16). -/
def State.defer (s : State) (f : Flight) (lc : Nat) : State :=
  let c := f.ctx
  if s.reserveRoom c lc then
    let (st, s) := s.newStamp (s.lc c lc).pos
    let n := s.freeReserve c lc
    let s := s.setFlight { f with stage := .deferred lc st n }
    match f.body with
    | .msg m _ => s.ownerWrite (s.reserveAt c lc n) (msgRecord m st)
    | _ => s.openBytes (s.reserveAt c lc n) 512
  else ((s.dropFlight f.id).discard c).siloOverflow c lc 0 f.tag true

/-! Parking (01 R17, 10 R220). -/

/-- Nothing that the instance issued is still to be written. -/
def Inst.settled (i : Inst) : Bool :=
  i.vpend.isEmpty && i.pend.all (fun e =>
    match e.dst with
    | .none => true
    | .ring _ _ | .chunk => false
    | _ => !e.live)

/-- What a continuation or a slot record of a safe point keeps: the live set; every other g, v and d register reads 0
(R17). Payload bytes beyond the first 64 are gone (06 R115). -/
def Inst.kept (i : Inst) : Inst :=
  { i with
    g := Vector.ofFn (fun k => if k.val < i.hdr.glive then i.g[k] else 0)
    v := Vector.ofFn (fun k => if k.val < i.hdr.vlive then i.v[k] else 0)
    d := Vector.ofFn (fun k => if k.val < i.hdr.dlive then i.d[k] else 0)
    pend := []
    vpend := []
    tail := []
    heldPrio := none
    fullOn := none
    sinceSafe := 0
    sincePre := 0 }

/-- The lowest continuation record that is free. With every record in use, the lowest number beyond them: a
continuation in the flush reserve (10 R211). -/
def CtxCore.nextCont (l : CtxCore) : Nat :=
  ((List.range (l.conts.length + 1)).find? (fun k => (l.conts.get? k).isNone)).getD l.conts.length

/-- The park cache keeps the 16 records written last (R220). -/
def Core.cachePark (c : Core) (ctx rec : Nat) : Core :=
  { c with parkCache := ((ctx, rec) :: c.parkCache.filter (fun e => e != (ctx, rec))).take 16 }

/-- Park (02 Table 02-8): the slot writes its continuation and becomes free. The stop of a pre-emption belongs to the
slot and not to the continuation (01 R17, Table 01-4). A park that finds every record in use
overflows the silo (10 R211). -/
def State.park (s : State) (p sl : Nat) (i : Inst) (k : Cont) : State :=
  let s := (s.unhold i).setInst p sl none
  let k := { k with inst := { i.kept with stopped := .no } }
  let l := s.lc i.ctx i.lcore
  let r := l.nextCont
  let s := s.setLc i.ctx i.lcore { l with conts := l.conts.put r k }
  let s := (s.ownerWrite (s.contAt i.ctx i.lcore r) (k.inst.recordBytes k.wait.word)).siloControl i.ctx i.lcore
  if r < l.contMax then s.setCore p ((s.core p).cachePark i.ctx r) else s.siloOverflow i.ctx i.lcore 1 i.tag false

/-- A continuation record whose wait has ended: gD's value and, for a ring, CUR (06 R117, R121). -/
def State.handOver (s : State) (c lc rec : Nat) (v : Word) (cur : Option (XReg × Nat)) (why : Cause) : State :=
  let l := s.lc c lc
  match l.conts.get? rec with
  | some k => s.setLc c lc { l with conts := l.conts.put rec { k with value := some v, cur := cur, wcause := why } }
  | none => s

/-! Counter events of a core (10 R204, R221). -/

/-- A counter event that a core accepts. An addition to a counter of a stopped context is deferred, as a counter event that
arrives is (16 R288). -/
def State.counterEv (s : State) (p c n : Nat) (what : CtrWhat) (src : Nat × Nat) : State :=
  let take (s : State) : State :=
    let (st, s) := s.newStamp p
    let k := s.core p
    s.setCore p { k with ctrEvents := k.ctrEvents ++ [⟨st, c, n, what, src⟩] }
  match what, (s.ctx c).lcoreAt p with
  | .add k, some lc =>
    if (s.ctx c).paused then
      let m : Msg :=
        { hdr := { hdrZero with
            kind := 2, schip := BitVec.ofNat 16 src.1, score := BitVec.ofNat 10 src.2, ctx := BitVec.ofNat 5 c
            ctrn := BitVec.ofNat 6 n, ccnt := BitVec.ofNat 16 k }
          payload := []
          scale := none }
      let xy := xyOfCore p
      let (id, s) := s.launchFlight (mkFlight { Who.zero with ctx := c } 0 false (.msg m .none) (.core p) xy xy)
      match s.flight? id with
      | some f => s.defer f lc
      | none => s
    else take s
  | _, _ => take s

/-- A place in the order in which a core accepts what it makes in a cycle: behind every one of its class and of those before
it (10 R204). -/
def insertMade (m : Made) : List Made → List Made
  | [] => [m]
  | e :: t => if m.cls < e.cls then m :: e :: t else e :: insertMade m t

/-- A core makes an arrival of its own; it accepts it as the cycle ends, behind the fabric's arrivals of the cycle. -/
def State.make (s : State) (p cls c : Nat) (what : MadeWhat) : State :=
  let k := s.core p
  s.setCore p { k with made := insertMade ⟨cls, c, what⟩ k.made }

/-- A note's arrival at the issuing core, when the operation made one; `cls` places it in its cycle. -/
def State.note (s : State) (cls : Nat) (w : Who) (n : Option Nat) : State :=
  match n with
  | none => s
  | some k => s.make (s.lc w.ctx w.lcore).pos cls w.ctx (.ctr k (.add 1) ((s.ctx w.ctx).desc.rank, w.lcore))

end Sys2Proof.Machine
end

