-- ==== Sys2Proof/Machine/Messages.lean ====
section
/-! DEFINITION. Messages, payload reads, tag groups, counters, rings and the weir at issue (06 R106 to R123). -/

namespace Sys2Proof.Machine

open Sys2Proof

/-! Route and control words (R108). -/

/-- The parts of a route word and of a control word that the checks name. -/
def routeChip (x : Nat) : Nat := bitsOf x 63 48
def routeCore (x : Nat) : Nat := bitsOf x 47 38

/-- A route word whose unused bits are 0, on a rank of the context; the host only where it is allowed. -/
def Ctx.routeOk (c : Ctx) (x unused : Nat) (host : Bool) : Bool :=
  Nat.land x unused == 0 && c.hasRank (routeChip x) && (decide (routeCore x < 960) || (host && routeCore x == 1023))

/-- Unused bits: [37:16] always; [15:7] of a reply route; [15:6] of a POST; [15:8] and [6] of a WPUT. -/
def unusedSend : Nat := 2 ^ 38 - 2 ^ 16
def unusedReply : Nat := 2 ^ 38 - 2 ^ 7
def unusedPost : Nat := 2 ^ 38 - 2 ^ 6
def unusedWput : Nat := 2 ^ 38 - 2 ^ 8 + 2 ^ 6

/-- The limits of a control word (R108, R109). -/
def ctlOk (x : Nat) : Bool :=
  bitsOf x 35 24 == 0 && bitsOf x 20 20 == 0
    && (decide (bitsOf x 17 15 < 4) || bitsOf x 17 15 == 7)
    && decide (bitsOf x 8 0 ≤ 256)
    && (bitsOf x 9 9 == 0 || bitsOf x 8 0 == 8)
    && (bitsOf x 23 23 == 1 || bitsOf x 63 48 == 0)
    && (bitsOf x 22 22 == 1 || bitsOf x 47 36 == 0)
    && (bitsOf x 21 21 == 1 || bitsOf x 19 18 == 0)

/-- Send scope (R107) of a destination. -/
def State.sendScope (s : State) (c p chip core : Nat) : Nat :=
  let x := s.ctx c
  if core = 1023 then 6
  else if chip ≠ x.desc.rank then 5
  else
    match x.lcs.get? core with
    | some l => scopeOfCores p l.pos
    | none => 4

/-- Scope of a code. -/
def scopeOfNum : Nat → Scope
  | 1 => .core | 2 => .quad | 3 => .die | 4 => .pkg | 5 => .pod | _ => .sys

/-- The payload of a send: the register, or the bytes of the issuing core's scratchpad window, as they stand at the issue, ahead of
requests that wait at that owner (DESIGN CHOICE, log 19). -/
def State.payloadOf (s : State) (i : Inst) (gb ctl : Nat) : Check (List Byte) :=
  let n := bitsOf ctl 8 0
  if bitsOf ctl 9 9 = 1 then .ok (leBytes 8 gb)
  else if n = 0 then .ok []
  else
    match (s.ctx i.ctx).scratchOf s.curP gb n with
    | none => .error (fOperand, 0, gb)
    | some pa =>
      match s.poisonAt pa n with
      | some b => .error (fUncorr, 64 * b, 2)
      | none => .ok (Memory.read s.mem pa n)

/-- A handler of the current generation: none, or its header. -/
def State.current? (s : State) (c hidx : Nat) : Option HHdr := (s.handler? c (s.ctx c).gen hidx).map Prod.snd

/-- HIDX names a handler that is not of the reply class. -/
def State.plainHandler (s : State) (c hidx : Nat) : Bool :=
  match s.current? c hidx with
  | some h => !h.rcl
  | none => false

/-- HIDX names a reply-class handler. -/
def State.replyHandler (s : State) (c hidx : Nat) : Bool :=
  match s.current? c hidx with
  | some h => h.rcl
  | none => false

/-! Reservations (R111). -/

/-- The lowest-numbered free reservation of a core. -/
def Core.freeResv (c : Core) : Option Nat := (List.range 64).find? (fun r => (c.resv.get? r).isNone)

/-- RROUTE of a reservation (R109). -/
def rrouteWord (rank lcore r : Nat) : Word := word64 (rank * 2 ^ 48 + lcore * 2 ^ 38 + 64 + r)

/-! Sequence numbers (R107). -/

/-- The next SEQN towards a destination core, which then advances. -/
def State.nextSeq (s : State) (p c chip core : Nat) : Nat × State :=
  let k := s.core p
  let key := (c * 65536 + chip) * 1024 + core
  let n := Tab.get 0 k.seqOut key
  (n, s.setCore p { k with seqOut := k.seqOut.put key ((n + 1) % 65536) })

/-! Sending (R109, R110). -/

/-- The header that a send-type instruction fills. -/
def sendHdr (x : Ctx) (i : Inst) (chip core kind prio hidx tag ctl rsc : Nat) (rroute : Word) (midx : Nat) : Hdr :=
  { hdrZero with
    dchip := BitVec.ofNat 16 chip
    dcore := BitVec.ofNat 10 core
    kind := BitVec.ofNat 2 kind
    gen := BitVec.ofNat 2 x.gen
    prio := BitVec.ofNat 2 prio
    hidx := BitVec.ofNat 12 hidx
    tag := BitVec.ofNat 16 tag
    schip := BitVec.ofNat 16 x.desc.rank
    score := BitVec.ofNat 10 i.lcore
    ctx := BitVec.ofNat 5 i.ctx
    jslot := BitVec.ofNat 3 (bitsOf ctl 17 15)
    plen := BitVec.ofNat 9 (bitsOf ctl 8 0)
    chan := BitVec.ofNat 5 (bitsOf ctl 14 10)
    rsc := BitVec.ofNat 3 rsc
    rroute := rroute
    midx := BitVec.ofNat 6 midx }

/-- Earlier sends of an instance that their destinations have not accepted. -/
def Core.sends (c : Core) (iid : Nat) : List Nat :=
  (c.ops.filter (fun o => o.path == .snd && o.iid == iid)).map Op.id

/-- What a releasing send waits for (R110): earlier sends, and the accesses that its scope covers. -/
def State.sendWaits (s : State) (i : Inst) (norel : Bool) (scope : Nat) : List Nat × List Nat :=
  let c := s.core s.curP
  if norel then ([], []) else (c.sends i.iid, c.covered i.iid (scopeOfNum scope))

/-- Hands a message of the issuing slot to the order queue or the fabric; a message that is acknowledged is an
operation of the core until then. -/
def State.sendMsg (s : State) (i : Inst) (m : Msg) (t : Track) (norel : Bool) (waits : List Nat × List Nat) : State :=
  let w := whoOf i s.curP s.curS
  let src := xyOfCore s.curP
  match t with
  | .none | .reply => s.deliver w 0 m t src waits.1 waits.2 (!norel)
  | _ =>
    let (oid, s) := s.fresh
    let s := s.addOp s.curP
      { id := oid, ctx := i.ctx, iid := i.iid, path := .snd, rd := false, taken := false,
        peer := decide (m.hdr.dchip.toNat ≠ (s.ctx i.ctx).desc.rank), mems := [], loose := [], unserved := false,
        blks := [], span := [] }
    s.deliver w oid m t src waits.1 waits.2 (!norel)

/-- Even parity bit of the low 16 bits of a number. -/
def parity16 (x : Nat) : Nat := ((List.range 16).map (fun k => x / 2 ^ k % 2)).sum % 2

/-- A side-band word of a SEQN and a scale (11 Table 11-5). -/
def sideWord (seqn scale : Nat) : BitVec 34 :=
  BitVec.ofNat 34 (parity16 seqn * 2 ^ 33 + parity16 scale * 2 ^ 32 + seqn % 65536 * 2 ^ 16 + scale % 65536)

/-- The side band of a control word: SEQN assigned, and the scale. -/
def State.sideBand (s : State) (i : Inst) (m : Msg) (ctl : Nat) : Msg × State :=
  if bitsOf ctl 23 23 = 1 then
    let (n, s) := s.nextSeq s.curP i.ctx m.hdr.dchip.toNat m.hdr.dcore.toNat
    ({ m with hdr := { m.hdr with seqn := BitVec.ofNat 16 n }, scale := some (sideWord n (bitsOf ctl 63 48)) }, s)
  else (m, s)

/-- R109's checks of SEND, in order, and its payload. -/
def State.checkSend (s : State) (i : Inst) (ga gb ctl hidx : Nat) : Check (List Byte) :=
  let x := s.ctx i.ctx
  if !x.routeOk ga unusedSend true then .error (fOperand, 0, ga)
  else if !ctlOk ctl then .error (fOperand, 0, ctl)
  else if !s.plainHandler i.ctx hidx then .error (fOperand, 0, 0)
  else if bitsOf ctl 22 22 = 1 && !s.replyHandler i.ctx (bitsOf ctl 47 36) then .error (fOperand, 0, ctl)
  else s.payloadOf i gb ctl

/-- Priority of a send: PRIO under POV, or the handler's default. -/
def State.sendPrio (s : State) (c ctl hidx : Nat) : Nat :=
  if bitsOf ctl 21 21 = 1 then bitsOf ctl 19 18 else s.defaultPrio c (s.ctx c).gen hidx

def execSend (d a b c : GReg) (hidx : BitVec 12) (norel : Bool) (s : State) : Out1 :=
  s.onFit (uses (.send d a b c hidx norel)) (fun i s =>
    let ga := (i.readG a).toNat
    let ctl := (i.readG c).toNat
    match s.checkSend i ga (i.readG b).toNat ctl hidx.toNat with
    | .error (code, addr, det) => s.raise i code addr det
    | .ok bytes =>
      let x := s.ctx i.ctx
      let chip := routeChip ga
      let core := routeCore ga
      let scope := s.sendScope i.ctx s.curP chip core
      let go (rr : Word) (gd : Word) (s : State) : Out1 :=
        let h := sendHdr x i chip core 0 (s.sendPrio i.ctx ctl hidx.toNat) hidx.toNat (ga % 65536) ctl
          (if norel then 0 else scope) rr 0
        let (m, s) := s.sideBand i ⟨h, bytes, none⟩ ctl
        (s.sendMsg i m .send norel (s.sendWaits i norel scope)).retireG i d gd
      if bitsOf ctl 22 22 = 1 then
        let k := s.core s.curP
        match k.freeResv with
        | none => s.retireG i d (word64 (2 ^ 64 - 1))
        | some r =>
          go (rrouteWord x.desc.rank i.lcore r) (word64 r)
            (s.setCore s.curP { k with resv := k.resv.put r ⟨i.ctx, bitsOf ctl 47 36, x.gen, none, none⟩ })
      else go 0 0 s)

/-- R112's checks of REPLY. -/
def State.checkReply (s : State) (i : Inst) (ga gb ctl : Nat) : Check (List Byte) :=
  let x := s.ctx i.ctx
  if !x.routeOk ga unusedReply false || bitsOf ga 6 6 == 0 then .error (fOperand, 0, ga)
  else if !ctlOk ctl || decide (bitsOf ctl 8 0 > 64) || bitsOf ctl 22 21 != 0 || bitsOf ctl 19 15 != 0
      || bitsOf ctl 47 36 != 0 then .error (fOperand, 0, ctl)
  else s.payloadOf i gb ctl

def execReply (a b c : GReg) (norel : Bool) (s : State) : Out1 :=
  s.onFit (uses (.reply a b c norel)) (fun i s =>
    let ga := (i.readG a).toNat
    let ctl := (i.readG c).toNat
    match s.checkReply i ga (i.readG b).toNat ctl with
    | .error (code, addr, det) => s.raise i code addr det
    | .ok bytes =>
      let chip := routeChip ga
      let core := routeCore ga
      let scope := s.sendScope i.ctx s.curP chip core
      let h := sendHdr (s.ctx i.ctx) i chip core 1 0 0 (ga % 65536) ctl (if norel then 0 else scope) 0 0
      let (m, s) := s.sideBand i ⟨h, bytes, none⟩ ctl
      (s.sendMsg i m .reply norel (s.sendWaits i norel scope)).retire i)

/-- The member route words of a SENDM: gA 8-aligned in the issuing core's scratchpad window (R113). -/
def State.membersOf (s : State) (i : Inst) (ga n : Nat) : Check (List Nat) :=
  if n = 0 ∨ n > 64 then .error (fOperand, 0, 0)
  else if ga % 8 ≠ 0 then .error (fOperand, 0, ga)
  else
    match (s.ctx i.ctx).scratchOf s.curP ga (8 * n) with
    | none => .error (fOperand, 0, ga)
    | some pa =>
      match s.poisonAt pa (8 * n) with
      | some b => .error (fUncorr, 64 * b, 2)
      | none =>
        let l := (List.range n).map (fun k => s.readLe (pa + 8 * k) 8)
        if l.all (fun w => (s.ctx i.ctx).routeOk w unusedSend false) then .ok l else .error (fOperand, 0, ga)

/-- R113's checks of SENDM: its members, and those of R109 with a reservation. -/
def State.checkSendm (s : State) (i : Inst) (ga gb ctl hidx n : Nat) : Check (List Nat × List Byte) :=
  match s.membersOf i ga n with
  | .error e => .error e
  | .ok l =>
    if !ctlOk ctl || bitsOf ctl 22 22 == 0 then .error (fOperand, 0, ctl)
    else if !s.plainHandler i.ctx hidx then .error (fOperand, 0, 0)
    else if !s.replyHandler i.ctx (bitsOf ctl 47 36) then .error (fOperand, 0, ctl)
    else
      match s.payloadOf i gb ctl with
      | .error e => .error e
      | .ok bytes => .ok (l, bytes)

def execSendm (d a b c : GReg) (hidx : BitVec 12) (norel : Bool) (mcnt : BitVec 7) (s : State) : Out1 :=
  s.onFit (uses (.sendm d a b c hidx norel mcnt)) (fun i s =>
    let ctl := (i.readG c).toNat
    match s.checkSendm i (i.readG a).toNat (i.readG b).toNat ctl hidx.toNat mcnt.toNat with
    | .error (code, addr, det) => s.raise i code addr det
    | .ok (members, bytes) =>
      let x := s.ctx i.ctx
      let k := s.core s.curP
      match k.freeResv with
      | none => s.retireG i d (word64 (2 ^ 64 - 1))
      | some r =>
        let scope := members.foldl (fun acc w => max acc (s.sendScope i.ctx s.curP (routeChip w) (routeCore w))) 1
        let waits := s.sendWaits i norel scope
        let s := s.setCore s.curP { k with
          resv := k.resv.put r ⟨i.ctx, bitsOf ctl 47 36, x.gen, some (0, 0, members.length), none⟩ }
        let s := members.zipIdx.foldl (fun s (w, j) =>
          let h := sendHdr x i (routeChip w) (routeCore w) 0 (s.sendPrio i.ctx ctl hidx.toNat) hidx.toNat (w % 65536)
            ctl (if norel then 0 else scope) (rrouteWord x.desc.rank i.lcore r) j
          let (m, s) := s.sideBand i ⟨h, bytes, none⟩ ctl
          s.sendMsg i m (.member r) norel waits) s
        s.retireG i d (word64 r))

def execPost (a b : GReg) (norel : Bool) (s : State) : Out1 :=
  s.onFit (uses (.post a b norel)) (fun i s =>
    let ga := (i.readG a).toNat
    let gb := (i.readG b).toNat
    if !(s.ctx i.ctx).routeOk ga unusedPost false then s.raise i fOperand 0 ga
    else if gb = 0 ∨ gb > 65535 then s.raise i fOperand 0 gb
    else
      let chip := routeChip ga
      let core := routeCore ga
      let scope := s.sendScope i.ctx s.curP chip core
      let h := sendHdr (s.ctx i.ctx) i chip core 2 0 0 0 (7 * 2 ^ 15) (if norel then 0 else scope) 0 0
      let h := { h with ctrn := BitVec.ofNat 6 ga, ccnt := BitVec.ofNat 16 gb }
      (s.sendMsg i ⟨h, [], none⟩ .send norel (s.sendWaits i norel scope)).retire i)

/-! Payload reads (R115). -/

/-- The running message's payload image: m8 to m15, then the bytes held in the queue entry. -/
def Inst.payload (i : Inst) : List Byte :=
  (List.range 8).flatMap (fun j => leBytes 8 (i.m.toArray.getD (8 + j) 0).toNat) ++ i.tail

/-- A read of the payload image. The offset is gA, taken as signed, plus the immediate: the rule does not say whether gA is
signed, so a gA of 2^63 or more with a positive immediate can name a valid offset (DESIGN CHOICE, log 49). -/
def State.msgld (s : State) (u : Uses) (d a : GReg) (imm : BitVec 32) (n : Nat) : Out1 :=
  s.onFit u (fun i s =>
    let o := (i.readG a).toInt + imm.toInt
    if o % n ≠ 0 then s.raise i fMisaligned (wrap64 o).toNat 0
    else if o < 0 ∨ o + n > 256 then s.raise i fOperand 0 (i.readG a).toNat
    else s.retireLater i d (word64 (ofLe (sliceBytes i.payload o.toNat n))))

def execMsgld8 (d a : GReg) (imm : BitVec 32) (s : State) : Out1 := s.msgld (uses (.msgld8 d a imm)) d a imm 1
def execMsgld16 (d a : GReg) (imm : BitVec 32) (s : State) : Out1 := s.msgld (uses (.msgld16 d a imm)) d a imm 2
def execMsgld32 (d a : GReg) (imm : BitVec 32) (s : State) : Out1 := s.msgld (uses (.msgld32 d a imm)) d a imm 4
def execMsgld64 (d a : GReg) (imm : BitVec 32) (s : State) : Out1 := s.msgld (uses (.msgld64 d a imm)) d a imm 8

/-! Tag groups (R116, R117). -/

/-- The first number from `t` on, among `n`, that is not live. -/
def firstFree : Nat → Nat → List Nat → Option Nat
  | 0, _, _ => none
  | n + 1, t, live => if live.contains t then firstFree n (t + 1) live else some t

/-- The tag that TAGNEW would take. -/
def TagGroup.lowestFree (t : TagGroup) : Option Nat :=
  if t.live.length < t.limit then firstFree (min t.span (t.live.length + 1)) t.base t.live else none

def CtxCore.group (l : CtxCore) (n : Nat) : TagGroup := Tab.get ⟨0, 0, 0, [], []⟩ l.tgs n

def State.setGroup (s : State) (c lc n : Nat) (t : TagGroup) : State :=
  let l := s.lc c lc
  s.setLc c lc { l with tgs := Tab.put l.tgs n t }

def execTagnew (d : GReg) (n : BitVec 4) (s : State) : Out1 :=
  s.onFit (uses (.tagnew d n)) (fun i s =>
    let t := (s.lc i.ctx i.lcore).group n.toNat
    match t.lowestFree with
    | some k => (s.setGroup i.ctx i.lcore n.toNat { t with live := k :: t.live }).retireG i d (word64 k)
    | none => s.retireG i d 0)

def execTagfree (a : GReg) (n : BitVec 4) (s : State) : Out1 :=
  s.onFit (uses (.tagfree a n)) (fun i s =>
    let ga := i.readG a
    let t := (s.lc i.ctx i.lcore).group n.toNat
    if !t.live.contains ga.toNat then s.raise i fOperand 0 ga.toNat
    else
      match t.parked with
      | r :: rest =>
        let s := s.setGroup i.ctx i.lcore n.toNat { t with parked := rest }
        (s.handOver i.ctx i.lcore r ga none (.tagHand i.inum)).retire i
      | [] => (s.setGroup i.ctx i.lcore n.toNat { t with live := t.live.erase ga.toNat }).retire i)

def execTagpark (d : GReg) (n : BitVec 4) (s : State) : Out1 :=
  s.onFit (uses (.tagpark d n)) (fun i s =>
    let t := (s.lc i.ctx i.lcore).group n.toNat
    match t.lowestFree with
    | some k => (s.setGroup i.ctx i.lcore n.toNat { t with live := k :: t.live }).retireG i d (word64 k)
    | none =>
      let i' := i.parkAt d
      let r := (s.lc i.ctx i.lcore).nextCont
      let s := s.setGroup i.ctx i.lcore n.toNat { t with parked := t.parked ++ [r] }
      .next (s.park s.curP s.curS i' ⟨i', .tag n.toNat, d, none, none, none, .none⟩))

/-! Arrival counters (R118). -/

/-- ARM's checks of its registers. A HIDX that names no handler passes: R118 states no check of it at issue, and the firing
then takes the dispatch-target fault (DESIGN CHOICE, log 49). -/
def State.checkArm (s : State) (i : Inst) (ga gb gc hidx : Nat) (act : Bool) : Check (Option (Nat × Region)) :=
  if ga ≥ 64 ∨ ga ≥ (s.lc i.ctx i.lcore).ctrn then .error (fOperand, 0, ga)
  else if gb = 0 ∨ gb ≥ 2 ^ 32 then .error (fOperand, 0, gb)
  else if act then (if gc ≥ 2 ^ 16 then .error (fOperand, 0, gc) else .ok none)
  else if hidx ≠ 0 ∨ gc % 32 ≠ 0 ∨ !(s.ctx i.ctx).holdsArr (quadOf s.curP) then .error (fOperand, 0, gc)
  else
    match (s.ctx i.ctx).checkAddr gc 32 false with
    | .error e => .error e
    | .ok r => .ok (some r)

/-- ARM: the enqueue action goes to the counter unit at once; the tile action after its descriptor is read. -/
def execArm (d a b c : GReg) (hidx : BitVec 12) (act : Bool) (prio : BitVec 2) (s : State) : Out1 :=
  s.onFit (uses (.arm d a b c hidx act prio)) (fun i s =>
    let ga := (i.readG a).toNat
    let gb := (i.readG b).toNat
    let gc := (i.readG c).toNat
    match s.checkArm i ga gb gc hidx.toNat act with
    | .error (code, addr, det) => s.raise i code addr det
    | .ok none =>
      let (fid, s) := s.fresh
      let ev := CtrWhat.arm gb (.enqueue hidx.toNat gc prio.toNat) i.iid fid
      (s.make s.curP 12 i.ctx (.ctr ga ev ((s.ctx i.ctx).desc.rank, i.lcore))).retire (i.await fid (gDest d) false none)
    | .ok (some (k, r)) =>
      let (fid, s) := s.request i (mkReq .read i k r gc 32 [] 0 (.arm d ga gb)) r.kind true none [] []
      s.retire (i.await fid (gDest d) false none))

/-! Rings (R119 to R121). -/

/-- Address of a handle's control block, and its cursor. -/
def handleBlock (q : Word) : Nat := q.toNat % 2 ^ 50 * 64
def handleCur (q : Word) : Nat := q.toNat / 2 ^ 50

/-- Checks of a handle at issue: not null, its block in a region that may be written. -/
def State.checkRing (s : State) (i : Inst) (q : Word) : Check (Nat × Region) :=
  if q = 0 then .error (fOperand, 0, 0) else (s.ctx i.ctx).checkAddr (handleBlock q) 64 true

/-- The bytes that a ring operation accesses beside its block: the ring's entries, as BASE and LSIZE stand when it issues; all of
the block's region where the block is not to be read here (05 R92; log 30). -/
def State.ringSpan (s : State) (c : Nat) (r : Region) (va : Nat) : Nat × Nat × Nat :=
  match s.translate (dieOf s.curP) c va true with
  | .ok (.here pa) _ => (c, s.readLe pa 8, 8 * 2 ^ bitsOf (s.readLe (pa + 8) 8) 3 0)
  | _ => (c, r.vbase, r.pages * r.pageSize)

/-- Sends a ring operation to the block's owner. It reads the block, so a release at any scope covers it (12 Table 12-4). -/
def State.ringAsk (s : State) (i : Inst) (k : Nat) (r : Region) (q : Word) (req : RingReq) : Nat × State :=
  let m := mkReq .write i k r (handleBlock q) 64 [] 0 (.ack none)
  s.request i { m with ring := some req } 0 false none [s.ringSpan i.ctx r (handleBlock q)] []

/-- QPUSH, QPOP and QADV at issue: gD and qA come with the owner's reply. -/
def State.ringOp (s : State) (u : Uses) (d : GReg) (a : XReg) (op : Inst → RingOp) : Out1 :=
  s.onFit u (fun i s =>
    let q := i.readQ a
    match s.checkRing i q with
    | .error (code, addr, det) => s.raise i code addr det
    | .ok (k, r) =>
      let (fid, s) := s.ringAsk i k r q ⟨op i, a, handleCur q, d⟩
      s.retire (i.await fid (.ring d a) false none))

def execQpush (d : GReg) (a : XReg) (b : GReg) (s : State) : Out1 :=
  s.ringOp (uses (.qpush d a b)) d a (fun i => .push (i.readG b))
def execQpop (d : GReg) (a : XReg) (s : State) : Out1 := s.ringOp (uses (.qpop d a)) d a (fun _ => .pop)
def execQadv (d : GReg) (a : XReg) (b : GReg) (s : State) : Out1 :=
  s.ringOp (uses (.qadv d a b)) d a (fun i => .adv (i.readG b).toNat)

/-- QWAIT always parks; the owner records the continuation, dispatches it or refuses it (R121). -/
def execQwait (d : GReg) (a : XReg) (b : GReg) (s : State) : Out1 :=
  s.onFit (uses (.qwait d a b)) (fun i s =>
    let q := i.readQ a
    match s.checkRing i q with
    | .error (code, addr, det) => s.raise i code addr det
    | .ok (k, r) =>
      let i' := i.parkAt d
      let cont : Cont := ⟨i', .ring (handleBlock q), d, none, some (a, handleCur q), none, .none⟩
      let n := (s.lc i.ctx i.lcore).nextCont
      let (_, s) := s.ringAsk i k r q ⟨.wait (i.readG b).toNat n, a, handleCur q, d⟩
      .next (s.park s.curP s.curS i' cont))

/-! The weir (R122, R123). -/

/-- WPUT (R122). A route word with NOTE 0 and CTR not 0 is taken, though R108's sentence on unused fields is read otherwise for
the fields of logs 29 and 31; an insertion for a logical core that the context does not have is dropped without a fault or a
count (DESIGN CHOICE, log 49). -/
def execWput (a b c : GReg) (s : State) : Out1 :=
  s.onFit (uses (.wput a b c)) (fun i s =>
    let ga := (i.readG a).toNat
    let gb := (i.readG b).toNat
    let gc := (i.readG c).toNat
    if !(s.ctx i.ctx).routeOk ga unusedWput false then s.raise i fOperand 0 ga
    else if gb ≥ 2 ^ 32 ∨ (decodeFloat (fpOf .f32) gb).isNaN then s.raise i fOperand 0 gb
    else if gc ≥ 2 ^ 16 then s.raise i fOperand 0 gc
    else
      let src := xyOfCore s.curP
      let x := s.ctx i.ctx
      let body := Body.wput (BitVec.ofNat 32 gb) gc (noteOf ga) (routeChip ga) (routeCore ga)
      let w := whoOf i s.curP s.curS
      if routeChip ga ≠ x.desc.rank then
        let port := s.egressPort i.ctx (routeChip ga) false src
        (s.launchFlight (mkFlight w 0 false body (.egress port) src (torusPortXY port))).2.retire i
      else
        match x.lcs.get? (routeCore ga) with
        | some l => (s.launchFlight (mkFlight w 0 false body (.core l.pos) src (xyOfCore l.pos))).2.retire i
        | none => s.retire i)

/-- WTAKE with gA the operation that its row names; another value raises the operand-range fault. -/
def State.weirOp (s : State) (u : Uses) (d a : GReg) (want : Word) (f : Weir → Word × Weir) : Out1 :=
  s.onFit u (fun i s =>
    if i.readG a ≠ want then s.raise i fOperand 0 (i.readG a).toNat
    else
      let l := s.lc i.ctx i.lcore
      let (v, w) := f l.weir
      (s.setLc i.ctx i.lcore { l with weir := w }).retireG i d v)

/-- gA = 0: removes the first entry. -/
def weirFirst (w : Weir) : Word × Weir :=
  match w.entries with
  | [] => (word64 (2 ^ 64 - 1), w)
  | (k, x) :: t => (word64 (k.toNat * 2 ^ 32 + x), { w with entries := t })

/-- gA = 1: the counts. -/
def weirStatus (w : Weir) : Word × Weir :=
  (word64 (min w.drop 65535 * 2 ^ 32 + cond w.tie 256 0 + w.entries.length), w)

/-- gA = 2: empties the weir. -/
def weirEmpty (w : Weir) : Word × Weir := (word64 w.entries.length, ⟨[], 0, false⟩)

def execWtakeFirst (d a : GReg) (s : State) : Out1 := s.weirOp (uses (.wtakeFirst d a)) d a 0 weirFirst
def execWtakeStatus (d a : GReg) (s : State) : Out1 := s.weirOp (uses (.wtakeStatus d a)) d a 1 weirStatus
def execWtakeEmpty (d a : GReg) (s : State) : Out1 := s.weirOp (uses (.wtakeEmpty d a)) d a 2 weirEmpty

end Sys2Proof.Machine
end

