-- ==== Sys2Proof/Machine/Scalar.lean ====
section
/-! DEFINITION. Scalar arithmetic, logic, compares, counts, bit fields, CRC, the generator, register reads and
address arithmetic (04 R62 to R70). -/

namespace Sys2Proof.Machine

open Sys2Proof

/-- A scalar instruction that completes as it issues: gD takes a value of the registers (R62). -/
def State.alu (s : State) (u : Uses) (d : GReg) (f : Inst → Word) : Out1 :=
  s.onFit u (fun i s => s.retireG i d (f i))

/-- A truth value in gD. -/
def bool64 (b : Bool) : Word := if b then 1 else 0

/-! Functions of Table 04-1 and Table 04-2. -/

/-- High 64 bits of a signed product. -/
def mulhVal (a b : Word) : Word := wrap64 (a.toInt * b.toInt / 2 ^ 64)
/-- High 64 bits of an unsigned product. -/
def mulhnVal (a b : Word) : Word := word64 (a.toNat * b.toNat / 2 ^ 64)

/-- Signed quotient and remainder, truncated towards zero (R64). -/
def divSigned (a b : Word) : Int × Int :=
  if b = 0 then (-1, a.toInt) else (a.toInt.tdiv b.toInt, a.toInt - a.toInt.tdiv b.toInt * b.toInt)
/-- Unsigned quotient and remainder (R64). -/
def divUnsigned (a b : Word) : Int × Int :=
  if b = 0 then (-1, (a.toNat : Int)) else ((a.toNat / b.toNat : Nat), (a.toNat % b.toNat : Nat))

def sllVal (a : Word) (n : Nat) : Word := a <<< (n % 64)
def srlVal (a : Word) (n : Nat) : Word := a >>> (n % 64)
def sraVal (a : Word) (n : Nat) : Word := a.sshiftRight (n % 64)
/-- Rotation left: a shift by 64 gives 0. -/
def rolVal (a : Word) (n : Nat) : Word := (a <<< (n % 64)) ||| (a >>> (64 - n % 64))
def rorVal (a : Word) (n : Nat) : Word := (a >>> (n % 64)) ||| (a <<< (64 - n % 64))

def minVal (a b : Word) : Word := if a.toInt ≤ b.toInt then a else b
def maxVal (a b : Word) : Word := if a.toInt ≤ b.toInt then b else a
def minnVal (a b : Word) : Word := if a.toNat ≤ b.toNat then a else b
def maxnVal (a b : Word) : Word := if a.toNat ≤ b.toNat then b else a

/-- Leading zero bits; 64 of zero. -/
def clzVal (a : Word) : Nat := if a = 0 then 64 else 63 - a.toNat.log2

/-- Trailing zero bits among the lowest `n`. -/
def ctzFrom : Nat → Nat → Nat
  | 0, _ => 0
  | n + 1, x => if x % 2 = 1 then 0 else 1 + ctzFrom n (x / 2)

/-- One bits among the lowest `n`. -/
def popFrom : Nat → Nat → Nat
  | 0, _ => 0
  | n + 1, x => x % 2 + popFrom n (x / 2)

/-- The lowest `n` bits in reverse order. -/
def revFrom : Nat → Nat → Nat
  | 0, _ => 0
  | n + 1, x => x % 2 * 2 ^ n + revFrom n (x / 2)

/-- The lowest `n` bytes in reverse order. -/
def swapFrom : Nat → Nat → Nat
  | 0, _ => 0
  | n + 1, x => x % 256 * 256 ^ n + swapFrom n (x / 256)

/-- A field of width w from POS (R66). -/
def fieldOf (a : Word) (pos w : Nat) : Nat := a.toNat / 2 ^ pos % 2 ^ w

/-- BINS (R66): the field of the old value replaced. -/
def insertField (old a : Word) (pos w : Nat) : Word :=
  word64 (old.toNat - fieldOf old pos w * 2 ^ pos + a.toNat % 2 ^ w * 2 ^ pos)

/-- Eight steps of one byte of CRC-32C (R68). -/
def crcBits : Nat → Nat → Nat
  | 0, c => c
  | n + 1, c => crcBits n (if c % 2 = 1 then Nat.xor (c / 2) 0x82F63B78 else c / 2)

/-- CRC-32C advanced by bytes (R68). -/
def crc32c (c : Nat) : List Byte → Nat
  | [] => c
  | b :: t => crc32c (crcBits 8 (Nat.xor c b.toNat)) t

def crcVal (a b : Word) (n : Nat) : Word := word64 (crc32c (a.toNat % 2 ^ 32) (leBytes n b.toNat))

/-- One round of the generator (R69). -/
def rngRound (key x : Word) (rot : Nat) (m : Word) (sh : Nat) : Word :=
  let y := (x ^^^ ((key <<< rot) ||| (key >>> (64 - rot)))) * m
  y ^^^ (y >>> sh)

/-- The counter-based generator (R69). -/
def rngVal (key ctr : Word) : Word :=
  let x0 := rngRound key ctr 0 0xA3D95B27C14E6F8B 31
  let x1 := rngRound key x0 21 0x8F51C72E39B604D5 29
  rngRound key x1 42 0xE17A2C935D08B6F1 32

/-- RNGF (R70): k x 2^-24 as an f32 code, exact. -/
def rngfVal (key ctr : Word) : Word :=
  word64 (roundFloat (fpOf .f32) .rne false (.fin false ((rngVal key ctr).toNat / 2 ^ 40) (-24) false)).1

/-! Register to register (Table 04-1). -/

def execAdd (d a b : GReg) (s : State) : Out1 := s.alu (uses (.add d a b)) d (fun i => i.readG a + i.readG b)
def execSub (d a b : GReg) (s : State) : Out1 := s.alu (uses (.sub d a b)) d (fun i => i.readG a - i.readG b)
def execMul (d a b : GReg) (s : State) : Out1 := s.alu (uses (.mul d a b)) d (fun i => i.readG a * i.readG b)
def execMulh (d a b : GReg) (s : State) : Out1 := s.alu (uses (.mulh d a b)) d (fun i => mulhVal (i.readG a) (i.readG b))
def execMulhn (d a b : GReg) (s : State) : Out1 :=
  s.alu (uses (.mulhn d a b)) d (fun i => mulhnVal (i.readG a) (i.readG b))
def execDiv (d a b : GReg) (s : State) : Out1 :=
  s.alu (uses (.div d a b)) d (fun i => wrap64 (divSigned (i.readG a) (i.readG b)).1)
def execDivn (d a b : GReg) (s : State) : Out1 :=
  s.alu (uses (.divn d a b)) d (fun i => wrap64 (divUnsigned (i.readG a) (i.readG b)).1)
def execRem (d a b : GReg) (s : State) : Out1 :=
  s.alu (uses (.rem d a b)) d (fun i => wrap64 (divSigned (i.readG a) (i.readG b)).2)
def execRemn (d a b : GReg) (s : State) : Out1 :=
  s.alu (uses (.remn d a b)) d (fun i => wrap64 (divUnsigned (i.readG a) (i.readG b)).2)
def execAnd (d a b : GReg) (s : State) : Out1 := s.alu (uses (.and d a b)) d (fun i => i.readG a &&& i.readG b)
def execOr (d a b : GReg) (s : State) : Out1 := s.alu (uses (.or d a b)) d (fun i => i.readG a ||| i.readG b)
def execXor (d a b : GReg) (s : State) : Out1 := s.alu (uses (.xor d a b)) d (fun i => i.readG a ^^^ i.readG b)
def execAndn (d a b : GReg) (s : State) : Out1 := s.alu (uses (.andn d a b)) d (fun i => i.readG a &&& ~~~ i.readG b)
def execSll (d a b : GReg) (s : State) : Out1 :=
  s.alu (uses (.sll d a b)) d (fun i => sllVal (i.readG a) (i.readG b).toNat)
def execSrl (d a b : GReg) (s : State) : Out1 :=
  s.alu (uses (.srl d a b)) d (fun i => srlVal (i.readG a) (i.readG b).toNat)
def execSra (d a b : GReg) (s : State) : Out1 :=
  s.alu (uses (.sra d a b)) d (fun i => sraVal (i.readG a) (i.readG b).toNat)
def execRol (d a b : GReg) (s : State) : Out1 :=
  s.alu (uses (.rol d a b)) d (fun i => rolVal (i.readG a) (i.readG b).toNat)
def execRor (d a b : GReg) (s : State) : Out1 :=
  s.alu (uses (.ror d a b)) d (fun i => rorVal (i.readG a) (i.readG b).toNat)
def execMin (d a b : GReg) (s : State) : Out1 := s.alu (uses (.min d a b)) d (fun i => minVal (i.readG a) (i.readG b))
def execMax (d a b : GReg) (s : State) : Out1 := s.alu (uses (.max d a b)) d (fun i => maxVal (i.readG a) (i.readG b))
def execMinn (d a b : GReg) (s : State) : Out1 :=
  s.alu (uses (.minn d a b)) d (fun i => minnVal (i.readG a) (i.readG b))
def execMaxn (d a b : GReg) (s : State) : Out1 :=
  s.alu (uses (.maxn d a b)) d (fun i => maxnVal (i.readG a) (i.readG b))

/-- A saturating sum: gD the clamped value, SAT when clamped. -/
def State.aluSat (s : State) (u : Uses) (d : GReg) (f : Inst → Int) : Out1 :=
  s.onFit u (fun i s => s.retireG (i.setFlags (satFlags (f i))) d (wrap64 (clamp64 (f i)).1))

def execAdds (d a b : GReg) (s : State) : Out1 :=
  s.aluSat (uses (.adds d a b)) d (fun i => (i.readG a).toInt + (i.readG b).toInt)
def execSubs (d a b : GReg) (s : State) : Out1 :=
  s.aluSat (uses (.subs d a b)) d (fun i => (i.readG a).toInt - (i.readG b).toInt)

def execCmpeq (d a b : GReg) (s : State) : Out1 :=
  s.alu (uses (.cmpeq d a b)) d (fun i => bool64 (i.readG a == i.readG b))
def execCmpne (d a b : GReg) (s : State) : Out1 :=
  s.alu (uses (.cmpne d a b)) d (fun i => bool64 (i.readG a != i.readG b))
def execCmplt (d a b : GReg) (s : State) : Out1 :=
  s.alu (uses (.cmplt d a b)) d (fun i => bool64 (decide ((i.readG a).toInt < (i.readG b).toInt)))
def execCmple (d a b : GReg) (s : State) : Out1 :=
  s.alu (uses (.cmple d a b)) d (fun i => bool64 (decide ((i.readG a).toInt ≤ (i.readG b).toInt)))
def execCmpltn (d a b : GReg) (s : State) : Out1 :=
  s.alu (uses (.cmpltn d a b)) d (fun i => bool64 (decide ((i.readG a).toNat < (i.readG b).toNat)))
def execCmplen (d a b : GReg) (s : State) : Out1 :=
  s.alu (uses (.cmplen d a b)) d (fun i => bool64 (decide ((i.readG a).toNat ≤ (i.readG b).toNat)))
def execSel (d a b c : GReg) (s : State) : Out1 :=
  s.alu (uses (.sel d a b c)) d (fun i => if i.readG c ≠ 0 then i.readG a else i.readG b)

def execClz (d a : GReg) (s : State) : Out1 := s.alu (uses (.clz d a)) d (fun i => word64 (clzVal (i.readG a)))
def execCtz (d a : GReg) (s : State) : Out1 :=
  s.alu (uses (.ctz d a)) d (fun i => word64 (ctzFrom 64 (i.readG a).toNat))
def execPopc (d a : GReg) (s : State) : Out1 :=
  s.alu (uses (.popc d a)) d (fun i => word64 (popFrom 64 (i.readG a).toNat))
def execBrev (d a : GReg) (s : State) : Out1 :=
  s.alu (uses (.brev d a)) d (fun i => word64 (revFrom 64 (i.readG a).toNat))
def execBswap (d a : GReg) (s : State) : Out1 :=
  s.alu (uses (.bswap d a)) d (fun i => word64 (swapFrom 8 (i.readG a).toNat))

/-! Bit fields (R66), CRC (R68), generator (R69, R70). -/

def execBext (d a : GReg) (pos wm1 : BitVec 6) (s : State) : Out1 :=
  s.alu (uses (.bext d a pos wm1)) d
    (fun i => wrap64 (signedOf (wm1.toNat + 1) (fieldOf (i.readG a) pos.toNat (wm1.toNat + 1))))
def execBextz (d a : GReg) (pos wm1 : BitVec 6) (s : State) : Out1 :=
  s.alu (uses (.bextz d a pos wm1)) d (fun i => word64 (fieldOf (i.readG a) pos.toNat (wm1.toNat + 1)))
def execBins (d a : GReg) (pos wm1 : BitVec 6) (s : State) : Out1 :=
  s.alu (uses (.bins d a pos wm1)) d (fun i => insertField (i.readG d) (i.readG a) pos.toNat (wm1.toNat + 1))
def execCrcc8 (d a b : GReg) (s : State) : Out1 :=
  s.alu (uses (.crcc8 d a b)) d (fun i => crcVal (i.readG a) (i.readG b) 1)
def execCrcc16 (d a b : GReg) (s : State) : Out1 :=
  s.alu (uses (.crcc16 d a b)) d (fun i => crcVal (i.readG a) (i.readG b) 2)
def execCrcc32 (d a b : GReg) (s : State) : Out1 :=
  s.alu (uses (.crcc32 d a b)) d (fun i => crcVal (i.readG a) (i.readG b) 4)
def execCrcc64 (d a b : GReg) (s : State) : Out1 :=
  s.alu (uses (.crcc64 d a b)) d (fun i => crcVal (i.readG a) (i.readG b) 8)
def execRng (d a b : GReg) (s : State) : Out1 := s.alu (uses (.rng d a b)) d (fun i => rngVal (i.readG a) (i.readG b))
def execRngf (d a b : GReg) (s : State) : Out1 :=
  s.alu (uses (.rngf d a b)) d (fun i => rngfVal (i.readG a) (i.readG b))

/-! Immediate forms (R65, Table 04-2). -/

def execAddi (d a : GReg) (imm : BitVec 32) (s : State) : Out1 :=
  s.alu (uses (.addi d a imm)) d (fun i => i.readG a + simm imm)
def execAndi (d a : GReg) (imm : BitVec 32) (s : State) : Out1 :=
  s.alu (uses (.andi d a imm)) d (fun i => i.readG a &&& simm imm)
def execOri (d a : GReg) (imm : BitVec 32) (s : State) : Out1 :=
  s.alu (uses (.ori d a imm)) d (fun i => i.readG a ||| simm imm)
def execXori (d a : GReg) (imm : BitVec 32) (s : State) : Out1 :=
  s.alu (uses (.xori d a imm)) d (fun i => i.readG a ^^^ simm imm)
def execSlli (d a : GReg) (sh : BitVec 6) (s : State) : Out1 :=
  s.alu (uses (.slli d a sh)) d (fun i => sllVal (i.readG a) sh.toNat)
def execSrli (d a : GReg) (sh : BitVec 6) (s : State) : Out1 :=
  s.alu (uses (.srli d a sh)) d (fun i => srlVal (i.readG a) sh.toNat)
def execSrai (d a : GReg) (sh : BitVec 6) (s : State) : Out1 :=
  s.alu (uses (.srai d a sh)) d (fun i => sraVal (i.readG a) sh.toNat)
def execMuli (d a : GReg) (imm : BitVec 32) (s : State) : Out1 :=
  s.alu (uses (.muli d a imm)) d (fun i => i.readG a * simm imm)
def execCmpeqi (d a : GReg) (imm : BitVec 32) (s : State) : Out1 :=
  s.alu (uses (.cmpeqi d a imm)) d (fun i => bool64 (i.readG a == simm imm))
def execCmplti (d a : GReg) (imm : BitVec 32) (s : State) : Out1 :=
  s.alu (uses (.cmplti d a imm)) d (fun i => bool64 (decide ((i.readG a).toInt < (simm imm).toInt)))
def execCmpltni (d a : GReg) (imm : BitVec 32) (s : State) : Out1 :=
  s.alu (uses (.cmpltni d a imm)) d (fun i => bool64 (decide ((i.readG a).toNat < (simm imm).toNat)))
def execMini (d a : GReg) (imm : BitVec 32) (s : State) : Out1 :=
  s.alu (uses (.mini d a imm)) d (fun i => minVal (i.readG a) (simm imm))
def execMaxi (d a : GReg) (imm : BitVec 32) (s : State) : Out1 :=
  s.alu (uses (.maxi d a imm)) d (fun i => maxVal (i.readG a) (simm imm))
def execLi (d : GReg) (imm : BitVec 32) (s : State) : Out1 := s.alu (uses (.li d imm)) d (fun _ => simm imm)
def execLih (d : GReg) (imm : BitVec 32) (s : State) : Out1 :=
  s.alu (uses (.lih d imm)) d (fun i => imm ++ (i.readG d).extractLsb' 0 32)

/-! Register reads and addresses (R67). -/

def execMfm (d : GReg) (a : XReg) (s : State) : Out1 := s.alu (uses (.mfm d a)) d (fun i => i.readM a)
def execMfl (d : GReg) (s : State) : Out1 := s.alu (uses (.mfl d)) d (fun i => i.link)
def execMfq (d : GReg) (a : XReg) (s : State) : Out1 := s.alu (uses (.mfq d a)) d (fun i => i.readQ a)
/-- DBASE + gA + the label's offset. -/
def execLa (d a : GReg) (imm : BitVec 32) (s : State) : Out1 :=
  s.alu (uses (.la d a imm)) d (fun i => (s.ctx i.ctx).desc.dva + i.readG a + simm imm)
def execIdx (d a b : GReg) (sh : BitVec 6) (s : State) : Out1 :=
  s.alu (uses (.idx d a b sh)) d (fun i => i.readG a + sllVal (i.readG b) sh.toNat)

end Sys2Proof.Machine
end

