-- ==== Sys2Proof/Machine/Journal.lean ====
section
/-! DEFINITION. The barn journal: JREC, JEMIT, JCKPT and JTRUNC, the hub's sequences, the emission gate, and this chip's
barn (06 R124 to R127; 20 R331 to R342). -/

namespace Sys2Proof.Machine

open Sys2Proof

/-! Sequences (20 R334). -/

def Hub.seq? (h : Hub) (c : Nat) (q : BitVec 32) : Option JSeq := h.seqs.find? (fun x => x.ctx = c && x.seq = q)

/-- Sets a sequence's state, in ascending (context, SEQ). -/
def putSeq : List JSeq → JSeq → List JSeq
  | [], x => [x]
  | y :: t, x =>
    if y.ctx = x.ctx ∧ y.seq = x.seq then x :: t
    else if x.ctx < y.ctx ∨ (x.ctx = y.ctx ∧ x.seq.toNat < y.seq.toNat) then x :: y :: t
    else y :: putSeq t x

def Hub.putSeq (h : Hub) (x : JSeq) : Hub := { h with seqs := Sys2Proof.Machine.putSeq h.seqs x }

/-- Bytes that an entry takes: its envelope and its body padded to 16 (R333). -/
def entrySize (e : BarnEntry) : Nat := 16 + ceilDiv e.body.length 16 * 16

def Hub.jbufUsed (h : Hub) : Nat := (h.jbuf.map (fun e => entrySize e.1)).sum

/-- JBUF takes a record of a size: it does not reach the last sixteenth (R332). -/
def Hub.jbufTakes (h : Hub) (n : Nat) : Bool :=
  match h.jcfg with
  | none => false
  | some (_, size, _, _) => decide (h.jbufUsed + n ≤ size - size / 16)

/-- The chip's identifier, as its pod geometry gives it. -/
def Hub.chipId (h : Hub) : Nat := (h.geom.map Geom.ident).getD 0

/-- A partner that is held and not lost. -/
def Hub.partnerOk (h : Hub) : Bool :=
  match h.partner with
  | some (chip, _) => !h.lost.contains chip
  | none => false

/-- The barn slot that this chip's entries go to: that of a partner that is not lost, or of the one being seeded. -/
def Hub.barnTarget (h : Hub) : Option (Nat × Nat) :=
  match h.seeding with
  | some (_, t) => some t
  | none => if h.partnerOk then h.partner else none

/-- Sends a barn entry to the slot of the partner on port SEQ mod 2, or on the other while that one is down (R331). -/
def State.sendBarn (s : State) (e : BarnEntry) : State :=
  match s.hub.barnTarget with
  | some (chip, slot) => s.barnSend chip (.barnEntry slot e)
  | none => s

/-- Entries for barns that are the partner's no longer do not leave. -/
def Hub.dropEntries (h : Hub) (p : Nat → Bool) : Hub :=
  { h with barnQ := h.barnQ.filter (fun b =>
      match b.unit with
      | .barnEntry _ _ => !p b.chip
      | _ => true) }

/-- Appends an entry to JBUF and sends it. -/
def State.append (s : State) (e : BarnEntry) : State :=
  (s.setHub { s.hub with jbuf := s.hub.jbuf ++ [(e, false)] }).sendBarn e

/-- Number of a sequence's records in JBUF. -/
def Hub.recordsOf (h : Hub) (c : Nat) (q : BitVec 32) : Nat :=
  (h.jbuf.filter (fun e => e.1.etype = 1 && e.1.ctx = c && e.1.seq = q)).length

/-- PARTNER and REPLAY commands wait no longer for some entries. -/
def Hub.settle (h : Hub) (p : BarnEntry → Bool) : Hub :=
  { h with seedWaits := h.seedWaits.map (fun w => (w.1, w.2.filter (fun e => !p e))) }

/-- Entries for which a command still waits. -/
def Hub.awaited (h : Hub) (cell : Nat) : List BarnEntry := h.seedWaits.flatMap (fun w => if w.1 = cell then w.2 else [])

/-- A command waits for entries. -/
def Hub.await (h : Hub) (cell : Nat) (l : List BarnEntry) : Hub :=
  { h with seedWaits := h.seedWaits.filter (fun w => w.1 != cell) ++ [(cell, l)] }

/-- A command is over. -/
def Hub.unawait (h : Hub) (cell : Nat) : Hub := { h with seedWaits := h.seedWaits.filter (fun w => w.1 != cell) }

/-- Closes a sequence: its entries leave JBUF and a close entry goes to the barn. -/
def State.closeSeq (s : State) (c : Nat) (q : BitVec 32) : State :=
  let h := s.hub.settle (fun e => e.ctx = c && e.seq = q)
  let s := s.setHub { h with
    jbuf := h.jbuf.filter (fun e => !(e.1.ctx = c && e.1.seq = q))
    seqs := h.seqs.filter (fun x => !(x.ctx = c && x.seq = q)) }
  s.sendBarn ⟨4, c, h.chipId, q, 0, []⟩

/-! JREC (06 R125). -/

/-- The CRC-32C of the logit's and the index's four bytes, with initial value all ones and final inversion. -/
def jdigest (gb gc : Nat) : BitVec 32 :=
  BitVec.ofNat 32 (2 ^ 32 - 1 - crc32c (2 ^ 32 - 1) (leBytes 4 gb ++ leBytes 4 gc))

def byteAt (bs : List Byte) (k : Nat) : Nat := ((bs[k]?).getD 0).toNat

/-- A record's limits (R124, R125): NDIV at most 15, each DKIND 1 to 4, reserved bytes 0. -/
def recordOk (bs : List Byte) : Bool :=
  let ndiv := byteAt bs 28
  decide (ndiv ≤ 15) && ((bs.drop 29).take 35).all (fun b => b == 0)
    && (List.range ndiv).all (fun k =>
        decide (1 ≤ byteAt bs (64 + 16 * k)) && decide (byteAt bs (64 + 16 * k) ≤ 4) && byteAt bs (65 + 16 * k) == 0)

/-- JREC's checks: the record's physical address and bytes. -/
def State.checkJrec (s : State) (i : Inst) (ga gb gc : Nat) : Check (Nat × List Byte) :=
  if ga % 64 ≠ 0 then .error (fOperand, 0, ga)
  else
    match (s.ctx i.ctx).scratchOf s.curP ga 304 with
    | none => .error (fOperand, 0, ga)
    | some pa =>
      if gb ≥ 2 ^ 32 then .error (fOperand, 0, gb)
      else if gc ≥ 2 ^ 32 then .error (fOperand, 0, gc)
      else
        match s.poisonAt pa 304 with
        | some b => .error (fUncorr, 64 * b, 2)
        | none =>
          let bs := Memory.read s.mem pa 304
          if recordOk bs then .ok (pa, bs) else .error (fOperand, 0, ga)

/-- A request of the issuing slot to the hub. -/
def State.hubAsk (s : State) (i : Inst) (j : JReq) : Nat × State :=
  let die := dieOf s.curP
  s.launchFlight (mkFlight (whoOf i s.curP s.curS) 0 false (.hubReq j) (.hub die) (xyOfCore s.curP) (cornerXY die))

/-- A request whose gD the hub answers. -/
def State.hubWait (s : State) (i : Inst) (d : GReg) (j : JReq) : Out1 :=
  let (fid, s) := s.hubAsk i j
  let i := i.await fid (gDest d) false none
  s.retire { i with hubOn := i.hubOn ++ [fid] }

/-- A record with its DIGEST, cut to its base and entries (R124). -/
def recordBody (bs : List Byte) (digest : BitVec 32) : List Byte :=
  (bs.take 24 ++ leBytes 4 digest.toNat ++ bs.drop 28).take (64 + 16 * byteAt bs 28)

def execJrec (d a b c : GReg) (s : State) : Out1 :=
  s.onFit (uses (.jrec d a b c)) (fun i s =>
    let ga := (i.readG a).toNat
    match s.checkJrec i ga (i.readG b).toNat (i.readG c).toNat with
    | .error (code, addr, det) => s.raise i code addr det
    | .ok (pa, bs) =>
      let dg := jdigest (i.readG b).toNat (i.readG c).toNat
      let (fid, s) := s.hubAsk i (.jrec pa (recordBody bs dg) dg d)
      let s := s.addOp s.curP
        { id := fid, ctx := i.ctx, iid := i.iid, path := .ls, rd := false, taken := false, peer := false,
          mems := [.scratch s.curP], loose := [], unserved := false, blks := [], span := [(i.ctx, ga, 304)] }
      let i := i.await fid (gDest d) false none
      s.retire { i with hubOn := i.hubOn ++ [fid] })

/-- What the hub answers to a JREC, and what it leaves. -/
def State.jrecApply (s : State) (c : Nat) (pa : Nat) (bs : List Byte) (dg : BitVec 32) : HubAns × State :=
  let stepWord := ofLe (bs.take 4) * 2 ^ 32 + ofLe ((bs.drop 4).take 4)
  let order : HubAns := .fault fJournal stepWord none
  let q : BitVec 32 := BitVec.ofNat 32 (ofLe (bs.take 4))
  let n : BitVec 32 := BitVec.ofNat 32 (ofLe ((bs.drop 4).take 4))
  let h := s.hub
  let e : BarnEntry := ⟨1, c, h.chipId, q, n, bs⟩
  let fresh : JSeq := ⟨c, q, .live, some 0, none, none, 0, []⟩
  let openIt (s : State) : HubAns × State :=
    if !s.hub.jbufTakes (entrySize e) || (s.hub.seq? c q).isNone && decide (65536 ≤ s.hub.seqs.length) then (.done 2 none, s)
    else
      let s' := if (s.hub.seq? c q).isSome then s.closeSeq c q else s
      let s' := (s'.setHub (s'.hub.putSeq fresh)).append e
      (.done 0 none, s')
  match h.seq? c q with
  | none => if n = 0 then openIt s else (order, s)
  | some x =>
    match x.st with
    | .closed => if n = 0 then openIt s else (order, s)
    | .live =>
      if n = 0 then openIt s
      else if x.last.map (fun l => l.toNat + 1) = some n.toNat then
        if h.jbufTakes (entrySize e) then
          let s' := (s.setHub (h.putSeq { x with last := some n })).append e
          (.done 0 none, s')
        else (.done 2 none, s)
      else (order, s)
    | .replaying =>
      if n = x.cursor then
        match x.replay.find? (fun r => r.1 = n) with
        | none => (order, s)
        | some (_, rec) =>
          let wr := some (pa, padTo 304 rec)
          if ofLe ((rec.drop 24).take 4) ≠ dg.toNat then
            (.fault fDiverge stepWord wr, s.setHub (h.putSeq { x with st := .diverged }))
          else
            let done := x.replay.all (fun r => decide (r.1.toNat ≤ n.toNat))
            let x' := { x with cursor := n + 1, last := some n, st := if done then .live else .replaying }
            (.done 1 wr, s.setHub (h.putSeq x'))
      else (order, s)
    | .diverged => (order, s)

/-- Discards the entries of a sequence that an established marker covers; the marker itself stays. -/
def State.truncate (s : State) (c : Nat) (q m : BitVec 32) : Nat × State :=
  let h := s.hub
  let covered (e : BarnEntry) : Bool :=
    e.ctx = c && e.seq = q
      && ((e.etype = 1 && decide (e.step.toNat ≤ m.toNat)) || (e.etype = 2 && decide (e.step.toNat < m.toNat)))
  let gone := (h.jbuf.filter (fun e => covered e.1 && e.1.etype = 1)).length
  let h : Hub := { h.settle covered with jbuf := h.jbuf.filter (fun e => !covered e.1) }
  (gone, (s.setHub h).sendBarn ⟨3, c, h.chipId, q, m, []⟩)

/-- What the hub answers to a JCKPT (06 R127, 20 R336): a marker appended, or a step that has not been recorded. -/
def State.jckptApply (s : State) (c : Nat) (w loc : Word) : HubAns × State :=
  let q : BitVec 32 := w.extractLsb' 32 32
  let n : BitVec 32 := w.extractLsb' 0 32
  match (s.hub.seq? c q).bind JSeq.last with
  | some l =>
    if n.toNat ≤ l.toNat then (.done 0 none, s.append ⟨2, c, s.hub.chipId, q, n, leBytes 8 loc.toNat⟩)
    else (.fault fJournal w.toNat none, s)
  | none => (.fault fJournal w.toNat none, s)

/-- What the hub answers to a JTRUNC of the records before the latest established checkpoint. -/
def State.jtruncApply (s : State) (c : Nat) (q : BitVec 32) : HubAns × State :=
  match (s.hub.seq? c q).bind JSeq.marker with
  | some m =>
    let (n, s) := s.truncate c q m
    (.done (word64 n) none, s)
  | none => (.done 0 none, s)

/-- What the hub answers to a JTRUNC of a whole sequence: it closes. -/
def State.jcloseApply (s : State) (c : Nat) (q : BitVec 32) : HubAns × State :=
  match s.hub.seq? c q with
  | some _ => (.done (word64 (s.hub.recordsOf c q)) none, s.closeSeq c q)
  | none => (.done 0 none, s)

/-- The hub's answer leaves for the issuing core by the bridge that the request came by (11 R227). -/
def State.hubAnswers (s : State) (f : Flight) (a : HubAns) : State :=
  let p := (s.lc f.who.ctx f.who.lcore).pos
  ((s.dropFlight f.id).launchFlight (mkFlight f.who f.id true (.hubRep a) (.core p) (f.dx, f.dy) (xyOfCore p))).2

/-- What the hub makes of a request that changes the journal. -/
def State.journalDo (s : State) (c : Nat) : JReq → Option (HubAns × State)
  | .jrec pa bs dg _ => some (s.jrecApply c pa bs dg)
  | .jckpt w loc => some (s.jckptApply c w loc)
  | .jtrunc q => some (s.jtruncApply c q)
  | .jclose q => some (s.jcloseApply c q)
  | .jemit _ _ _ _ => none

/-- The hub applies a JREC (20 R334), a JCKPT or a JTRUNC, in arrival order: gD, or the fault that ends the issuing instance, goes
back. -/
def execJrecHubApply (id : Nat) (s : State) : Out1 :=
  match s.flight? id with
  | some f =>
    match f.body, s.firstArrival f with
    | .hubReq j, true =>
      match s.journalDo f.who.ctx j with
      | some (a, t) => .next (t.hubAnswers f a)
      | none => s.idle "a JEMIT stands first at the hub"
    | _, _ => s.idle "no request at the hub"
  | none => s.idle "no such request"

/-! The emission gate (06 R126, 20 R335). -/

/-- Unused bits of an emission route: [37:32] and [19:16]. -/
def unusedEmit : Nat := 2 ^ 38 - 2 ^ 32 + (2 ^ 20 - 2 ^ 16)

def execJemit (d a b c : GReg) (s : State) : Out1 :=
  s.onFit (uses (.jemit d a b c)) (fun i s =>
    let route := i.readG b
    if !(s.ctx i.ctx).routeOk route.toNat unusedEmit true then s.raise i fOperand 0 route.toNat
    else
      let (fid, s) := s.hubAsk i (.jemit (i.readG a) route (i.readG c) d)
      .next (s.setCur { (i.edgeAt d) with waitOn := some fid }))

/-- The gate of a sequence is open for a step (R335). -/
def Hub.gateOpen (h : Hub) (c : Nat) (q n : BitVec 32) : Bool :=
  match h.seq? c q with
  | some x =>
    h.partnerOk
      && (match x.acked with
          | some k => decide (n.toNat ≤ k.toNat)
          | none => false)
      && (x.st == .live || x.st == .replaying)
  | none => false

/-- A record of the step has been appended or replayed (R126). -/
def Hub.recorded (h : Hub) (c : Nat) (q n : BitVec 32) : Bool :=
  match h.seq? c q with
  | some x =>
    (x.st == .live || x.st == .replaying)
      && match x.last with
        | some l => decide (n.toNat ≤ l.toNat)
        | none => false
  | none => false

/-- The emission: KIND 0, PLEN 16, payload (step word, token word), channel 0, default priority, releasing (R126). -/
def State.emission (s : State) (i : Inst) (stepw route token : Word) : State :=
  let r := route.toNat
  let hidx := bitsOf r 31 20
  let scope := s.sendScope i.ctx s.curP (routeChip r) (routeCore r)
  let ctl := 7 * 2 ^ 15 + 16
  let h := sendHdr (s.ctx i.ctx) i (routeChip r) (routeCore r) 0 (s.defaultPrio i.ctx (s.ctx i.ctx).gen hidx) hidx
    (r % 65536) ctl scope 0 0
  s.sendMsg i ⟨h, leBytes 8 stepw.toNat ++ leBytes 8 token.toNat, none⟩ .send false (s.sendWaits i false scope)

/-- The sequence and the step of a step word. -/
def seqOf (w : Word) : BitVec 32 := BitVec.ofNat 32 (w.toNat / 2 ^ 32)
def stepOf (w : Word) : BitVec 32 := BitVec.ofNat 32 w.toNat

/-- The hub judges a JEMIT: the fault, the emission with gD = 0, or the park (R335). -/
def execEmissionGate (id : Nat) (s : State) : Out1 :=
  match s.flight? id with
  | some f =>
    match f.body, s.firstArrival f with
    | .hubReq (.jemit stepw route token d), true =>
      let c := f.who.ctx
      .next (s.hubAnswers f
        (if !s.hub.recorded c (seqOf stepw) (stepOf stepw) then .fault fJournal stepw.toNat none
          else if s.hub.gateOpen c (seqOf stepw) (stepOf stepw) then .emit stepw route token d
          else .shut stepw route token d false))
    | _, _ => s.idle "no JEMIT at the hub"
  | none => s.idle "no such request"

/-- A JEMIT that was judged shut, on its way back, learns that its gate has opened. -/
def State.openShut (s : State) (f : Flight) : Flight :=
  match f.body with
  | .hubRep (.shut w route token d o) =>
    { f with body := .hubRep (.shut w route token d (o || s.hub.gateOpen f.who.ctx (seqOf w) (stepOf w))) }
  | _ => f

/-- Wakes every parked JEMIT whose gate is now open (R335). -/
def State.openGates (s : State) : State :=
  let s : State := { s with flights := s.flights.map s.openShut }
  let ready : List (Nat × Nat × Nat) := s.ctxs.flatMap (fun e => e.2.lcs.flatMap (fun l =>
    l.2.conts.filterMap (fun k =>
      match k.2.wait, k.2.value with
      | .gate q n, none => if s.hub.gateOpen e.1 q n then some (e.1, l.1, k.1) else none
      | _, _ => none)))
  ready.foldl (fun s (c, lc, r) => s.handOver c lc r 1 none .none) s

/-! JCKPT and JTRUNC (06 R127, 20 R336). -/

def execJckpt (d a b : GReg) (s : State) : Out1 :=
  s.onFit (uses (.jckpt d a b)) (fun i s =>
    s.hubWait i d (.jckpt (i.readG a) (i.readG b)))

/-- JTRUNC with gA[31:0] = 0. -/
def execJtruncCheckpoint (d a : GReg) (s : State) : Out1 :=
  s.onFit (uses (.jtruncCheckpoint d a)) (fun i s =>
    let w := i.readG a
    if w.toNat % 2 ^ 32 ≠ 0 then s.raise i fOperand 0 w.toNat
    else s.hubWait i d (.jtrunc (w.extractLsb' 32 32)))

/-- JTRUNC with gA[31:0] all ones. -/
def execJtruncClose (d a : GReg) (s : State) : Out1 :=
  s.onFit (uses (.jtruncClose d a)) (fun i s =>
    let w := i.readG a
    if w.toNat % 2 ^ 32 ≠ 2 ^ 32 - 1 then s.raise i fOperand 0 w.toNat
    else s.hubWait i d (.jclose (w.extractLsb' 32 32)))

/-! The barn (20 R333, R335, R336). -/

/-- A step of a sequence has been recorded here, or is one of those that REPLAY appended. -/
def JSeq.holds (x : JSeq) (step : BitVec 32) : Bool :=
  x.last.any (fun l => decide (step.toNat ≤ l.toNat)) || x.replay.any (fun r => decide (step.toNat ≤ r.1.toNat))

/-- An acknowledgement of a chip's barn reaches this chip: records up to a step, or a marker. One of a step that was not
recorded here says nothing. Only the partner's barn acknowledges records; any barn establishes a marker (R335, R336). -/
def State.barnAcked (s : State) (holder : Option Nat) (c : Nat) (seq step : BitVec 32) (marker : Bool) : State :=
  let h := s.hub
  let mine := h.barnTarget.any (fun t => holder == some t.1)
  if !mine && !marker then s
  else
    match h.seq? c seq with
    | none => s
    | some x =>
      if !x.holds step then s
      else
        let hit (e : BarnEntry) : Bool :=
          mine && e.ctx = c && e.seq = seq
            && (if marker then e.etype = 2 && e.step = step else e.etype = 1 && decide (e.step.toNat ≤ step.toNat))
        let jbuf := h.jbuf.map (fun e => if hit e.1 then (e.1, true) else e)
        let up (old : Option (BitVec 32)) : Option (BitVec 32) :=
          match old with
          | some k => some (if k.toNat < step.toNat then step else k)
          | none => some step
        let x := if marker then { x with marker := up x.marker } else { x with acked := up x.acked }
        { s with hub := ({ h.settle hit with jbuf := jbuf } : Hub).putSeq x }.openGates

/-- BARN_ACK: an acknowledgement of the barn that this chip's entries go to. -/
def execBarnAck (c : Nat) (seq step : BitVec 32) (marker : Bool) (s : State) : Out1 :=
  if !s.barnOpen then s.idle "the barn network carries nothing"
  else .next (s.barnAcked (s.hub.barnTarget.map Prod.fst) c seq step marker)

/-- The step after the last one that a slot holds of a sequence without a gap, from its latest marker or step 0. -/
def contigFrom (es : List BarnEntry) : Nat → Nat → Nat
  | 0, n => n
  | f + 1, n => if es.any (fun e => e.etype = 1 && e.step.toNat = n) then contigFrom es f (n + 1) else n

/-- The last covered step of a sequence's latest marker among entries, and its locator. -/
def latestMarker (es : List BarnEntry) : Option (Nat × List Byte) :=
  es.foldl (fun acc e =>
    if e.etype = 2 then
      match acc with
      | some (n, _) => if n ≤ e.step.toNat then some (e.step.toNat, e.body) else acc
      | none => some (e.step.toNat, e.body)
    else acc) none

/-- The first step to replay, and the first one that is not held. -/
def heldSteps (es : List BarnEntry) : Nat × Nat :=
  let first := match latestMarker es with
    | some (n, _) => n + 1
    | none => 0
  (first, contigFrom es es.length first)

def sameSeq (e : BarnEntry) (c : Nat) (q : BitVec 32) : Bool := e.ctx = c && e.seq = q

/-- Entries that a slot of a size holds, and those that still wait: in order of arrival, up to the first that does not
fit. One that is held already takes no space again. -/
def barnAdmit (size : Nat) (es : List BarnEntry) : List BarnEntry → List BarnEntry × List BarnEntry
  | [] => (es, [])
  | e :: w =>
    if es.contains e then barnAdmit size es w
    else if (es.map entrySize).sum + entrySize e ≤ size then barnAdmit size (es ++ [e]) w
    else (es, e :: w)

/-- A truncate's or a close's entries are discarded on arrival (R333, R336). -/
def barnCovers (e x : BarnEntry) : Bool :=
  sameSeq x e.ctx e.seq && (e.etype = 4
    || (e.etype = 3 && ((x.etype = 1 && decide (x.step.toNat ≤ e.step.toNat))
      || (x.etype = 2 && decide (x.step.toNat < e.step.toNat)))))

/-- The barn acknowledges an entry that it holds: a marker, and the records of the sequence without a gap (R333, R336). -/
def State.barnConfirm (s : State) (es : List BarnEntry) (e : BarnEntry) : State :=
  let n := (heldSteps (es.filter (fun x => sameSeq x e.ctx e.seq))).2
  let tell (s : State) (step : BitVec 32) (marker : Bool) : State :=
    s.barnSend e.src (.barnAck s.hub.chipId e.ctx e.seq step marker)
  let s := if e.etype = 2 then tell s e.step true else s
  if n = 0 then s else tell s (BitVec.ofNat 32 (n - 1)) false

/-- A slot of this chip's barn is configured and belongs to no other client (R329, R332). -/
def Hub.barnTakes (h : Hub) (slot : Nat) (e : BarnEntry) : Bool :=
  let b := Tab.get ⟨none, [], []⟩ h.barn slot
  h.jcfg.isSome && decide (slot ≤ 1) && (b.client == none || b.client == some e.src)

/-- This chip, as a barn holder, receives an entry of a client (R333). -/
def State.barnTake (s : State) (slot : Nat) (e : BarnEntry) : State :=
  let h := s.hub
  match h.jcfg with
  | none => s
  | some (_, _, _, size) =>
    let b := Tab.get ⟨none, [], []⟩ h.barn slot
    if !h.barnTakes slot e then s
    else
      let kept := b.entries.filter (fun x => !barnCovers e x)
      let queue := b.waiting.filter (fun x => !barnCovers e x) ++ (if e.etype = 3 ∨ e.etype = 4 then [] else [e])
      let (es, w) := barnAdmit size kept queue
      let s := s.setHub { h with barn := h.barn.put slot ⟨some e.src, es, w⟩ }
      (queue.take (queue.length - w.length)).foldl (fun s x => s.barnConfirm es x) s

def execBarnEntryReceive (slot : Nat) (e : BarnEntry) (s : State) : Out1 :=
  if !s.barnOpen then s.idle "the barn network carries nothing"
  else if !s.hub.barnTakes slot e then s.idle "no slot takes it"
  else .next (s.barnTake slot e)

/-- This chip, as a barn holder, answers a chip's read of the slot bound to a client: entry by entry, then their number
(R338). -/
def State.barnAnswer (s : State) (reader client : Nat) : State :=
  match s.hub.barn.find? (fun e => e.2.client = some client) with
  | some b =>
    let s := b.2.entries.foldl (fun s e => s.barnSend reader (.barnData client e)) s
    s.barnSend reader (.barnEnd client (some b.2.entries.length))
  | none => s.barnSend reader (.barnEnd client none)

/-- BARN_READ_REQUEST: a read that does not say which chip makes it; the pod's barn network takes the answer to the reader,
here as the chip 65,536 that no identifier names. -/
def execBarnReadRequest (client : Nat) (s : State) : Out1 :=
  if !s.barnOpen then s.idle "the barn network carries nothing" else .next (s.barnAnswer 65536 client)

end Sys2Proof.Machine
end

