-- ==== Sys2Proof/Machine/Apply.lean ====
section
/-! DEFINITION. What owners do with requests (05 R95, R96, R104; 06 R120, R121; 12 R239, R240; 18 R313) and what the
issuing core does with their replies (05 R89; 17 R299, R301; 18 R318). -/

namespace Sys2Proof.Machine

open Sys2Proof

/-! Owners. -/

/-- A granule held by an entry of a context, or of any context (12 R239). -/
def Quad.holdsGranule (x : Quad) (g : Nat) (c : Option Nat) : Bool :=
  x.wbe.any (fun e => e.2.st != .empty && e.2.gran.contains g && (match c with
    | some n => e.2.ctx == n
    | none => true))

/-- Whether a weight buffer refuses an access (12 R239). -/
def State.granuleRefused (s : State) (pa : Nat) (c : Option Nat) : Bool :=
  match place pa with
  | .wbuf q off => !(s.quad q).holdsGranule (off / 4096) c
  | _ => false


/-! Atomics (Table 05-3). -/

/-- The new value; none where the word keeps its own. -/
def atomicNew (op : MemOp) (n old b expect : Nat) : Option Nat :=
  let w := 8 * n
  match op with
  | .aadd => some ((old + b) % 2 ^ w)
  | .afadd => some (addF32 .rne old b).1
  | .amin => some (if signedOf w old ≤ signedOf w b then old else b)
  | .amax => some (if signedOf w old ≤ signedOf w b then b else old)
  | .aminn => some (min old b)
  | .amaxn => some (max old b)
  | .aand => some (Nat.land old b)
  | .aor => some (Nat.lor old b)
  | .axor => some (Nat.xor old b)
  | .aswap => some b
  | .acas => if old = expect % 2 ^ w then some b else none
  | .aclaim => if old < b then some (old + 1) else none
  | .read | .write | .watch | .unwatch | .check => none

/-! Replies. -/

/-- What the host is told of its window access: a read's data, or that the read is not supported; a write that was
discarded is counted (18 R307). -/
def State.hostAnswer (s : State) (body : Body) : State :=
  match body with
  | .rep r mst data =>
    if r.op = .read then s.emit (.hostRead (if mst = 0 then some data else none))
    else if mst = 2 then s.holeCount else s
  | _ => s

/-- A reply from a router to a request's issuer (11 R232). It enters as its body does, unless `unit` names another input; one
that comes from a peer keeps its class. -/
def State.reply (s : State) (f : Flight) (src : Nat × Nat) (body : Body) (ans : Answer) (unit : Option Nat := none)
    (vc : Bool := false) : State :=
  let send (p : Nat) : State :=
    let g := mkFlight f.who f.opId true body (.core p) src (xyOfCore p)
    (s.launchFlight { g with inp := unit.getD g.inp, vc := vc }).2
  match ans with
  | .host => s.hostAnswer body
  | .peer _ _ _ => s.answerPeer f f.who body src unit
  | .elem p _ _ | .piece p _ _ => send p
  | _ =>
    send (match (s.ctx f.who.ctx).lcs.get? f.who.lcore with
      | some l => l.pos
      | none => f.who.p)

/-- The memory status that an issuer is given: a peer knows 0 to 4 alone, and an uncorrectable error refuses its request (18
Table 18-6; log 34). -/
def MemReq.status (r : MemReq) (mst : Nat) : Nat :=
  match r.ans with
  | .peer _ _ _ => if 4 < mst then 2 else mst
  | _ => mst

/-- The reply to a memory request. -/
def State.memReply (s : State) (f : Flight) (r : MemReq) (src : Nat × Nat) (mst : Nat) (data : List Byte) : State :=
  s.reply f src (.rep r (r.status mst) data) r.ans

/-! Ranges of several blocks. An owner applies one aligned 64-byte block of a request's range, in one page, at a time;
the request then goes on to the owner of the next (12 R240, R242). Plain accesses are one such block. -/

/-- Bytes of the present part of a range whose next byte lies at `pa`. -/
def MemReq.partLen (r : MemReq) (pa : Nat) : Nat :=
  let left := (match r.later with
    | some (o, _) => if r.off < o then o else r.n
    | none => r.n) - r.off
  min left (64 - pa % 64)

/-- The request after its present part: bytes read so far, and where its next byte lies. -/
def MemReq.onward (r : MemReq) (pa : Nat) (bs : List Byte) : MemReq :=
  let m := r.partLen pa
  let r' := { r with off := r.off + m, got := r.got ++ bs }
  match r.later with
  | some (o, t) => if r.off + m = o then { r' with target := some t, later := none } else { r' with target := some (.here (pa + m)) }
  | none => { r' with target := some (.here (pa + m)) }

/-- A request that has more of its range to come starts from its owner towards the next. -/
def State.passOn (s : State) (f : Flight) (r : MemReq) (src : Nat × Nat) (pa : Nat) : State :=
  let dst := match r.target with
    | some (.here q) => ownerXY q
    | _ => src
  let (n, s) := s.fresh
  { s with flights := s.flights ++ [{ f with
      body := .req r
      dx := dst.1
      dy := dst.2
      stage := .router src.1 src.2 false
      arr := n
      cyc := s.clock
      inp := inpOwner pa }] }

/-- Whether a peer's request may be applied (18 R313; 16 R277, R288): 0, or the memory status that refuses it. A context
without a roster accepts none (20 R328). -/
def State.peerCheck (s : State) (c chip pa n : Nat) (wr : Bool) : Nat :=
  let x := s.ctx c
  let kind1 (w : Bool) : Bool := x.regions.any (fun g =>
    g.kind == 1 && decide (g.paddr ≤ pa) && decide (pa + n ≤ g.paddr + g.pages * g.pageSize) && (!w || g.wen))
  match x.st with
  | .free | .ending => 4
  | .launching => 2
  | _ =>
    let okPlace := match place pa with
      | .hbm _ => kind1 false
      | .scratch p off => match x.lcoreAt p with
        | some l => (x.lc l).holdsScratch off n
        | none => false
      | .accum q _ | .wbuf q _ => x.holdsArr q
      | .hole => false
    if !(x.roster.any (fun r => decide (chip < r.ranks.length))) || !okPlace then 2 else if wr && !kind1 true then 3 else 0

/-- What refuses the part of a request at an address: 0, or a memory status (12 R239, 18 R313). -/
def State.partRefused (s : State) (r : MemReq) (pa n : Nat) : Nat :=
  let refused : Nat := match r.ans with
    | .peer chip _ _ => s.peerCheck r.ctx chip pa n (r.op != .read)
    | _ => 0
  let holder : Option Nat := match r.ans with
    | .host => none
    | _ => some r.ctx
  if refused = 0 && (place pa == .hole || s.granuleRefused pa holder) then 2 else refused

/-- Aligned 64-byte blocks of a range, each by its first byte in it. -/
def blocksOf (pa n : Nat) : List Nat := (List.range ((pa + n + 63) / 64 - pa / 64)).map (fun k => max pa (64 * (pa / 64 + k)))

/-- The ranges that a request has still to go to, each in one page. -/
def MemReq.ranges (r : MemReq) (pa : Nat) : List (Nat × Nat) :=
  match r.later with
  | some (o, .here q) => [(pa, o - r.off), (q, r.n - o)]
  | _ => [(pa, r.n - r.off)]

/-- What refuses a write that touches several blocks: it is refused whole, before any of its blocks is written (08 R177). -/
def State.writeRefused (s : State) (r : MemReq) (pa : Nat) : Nat :=
  ((r.ranges pa).flatMap (fun e => (blocksOf e.1 e.2).map (fun b => s.partRefused r b (min 64 (e.1 + e.2 - b))))).foldl
    (fun a b => if a = 0 then b else a) 0

/-- What refuses a request at an owner: a write as it comes to its first one, whole; a read part by part. -/
def State.reqRefused (s : State) (r : MemReq) (pa : Nat) : Nat :=
  if r.op = .write then (if r.off = 0 then s.writeRefused r pa else 0) else s.partRefused r pa (r.partLen pa)

/-- A read, an atomic: the operations that take a value. -/
def takesValue : MemOp → Bool
  | .write | .watch | .unwatch | .check => false
  | _ => true

/-- A registration at its owner (05 R104). -/
def State.applyWatch (s : State) (f : Flight) (r : MemReq) (pa : Nat) : State :=
  match r.ans with
  | .peer chip _ _ =>
    let x := s.ctx r.ctx
    let w : PeerWatch := ⟨chip, f.who.lcore, pa, r.va, f.who.hidx, r.expect⟩
    s.setCtx r.ctx { x with watchers := x.watchers ++ [w] }
  | _ =>
    { s with cores := s.cores.map (fun e =>
        (e.1, { e.2 with mons := e.2.mons.map (fun m =>
          if m.id = f.opId then { m with live := true, pa := .here pa } else m) })) }

/-- A peer's cancellation at the word's owner, which holds the entries: how many are removed, and the state (05 R104). -/
def State.applyUnwatch (s : State) (f : Flight) (r : MemReq) (pa : Nat) : Nat × State :=
  match r.ans with
  | .peer chip _ _ =>
    let x := s.ctx r.ctx
    let (gone, kept) := x.watchers.partition (fun w =>
      w.rank == chip && w.lcore == f.who.lcore && w.pa == pa && w.va == r.va)
    (gone.length, s.setCtx r.ctx { x with watchers := kept })
  | _ => (0, s)

/-- The answer to a request that meets a poisoned block: the block and its structure (log 34). -/
def State.poisonBack (s : State) (f : Flight) (r : MemReq) (src : Nat × Nat) (block pa : Nat) : State :=
  s.memReply f r src (16 + structureOf pa) (leBytes 8 (64 * block))

/-- An owner applies the part of a request that it holds (R95), and answers it when it is the last. -/
def State.applyReq (s : State) (f : Flight) (r : MemReq) (pa : Nat) : State :=
  let src := ownerXY pa
  let m := r.partLen pa
  let refused := s.reqRefused r pa
  let s := s.dropFlight f.id
  if refused ≠ 0 then s.memReply f r src refused []
  else
    match (if takesValue r.op then s.poisonAt pa m else none) with
    | some b =>
      s.poisonBack f r src b pa
    | none =>
      match r.op with
      | .read =>
        let r' := r.onward pa (Memory.read s.mem pa m)
        if r'.off < r.n then s.passOn f r' src pa else (s.takenOp f.opId).memReply f r src 0 r'.got
      | .write =>
        let r' := r.onward pa []
        let s := s.ownerWrite pa (sliceBytes r.data r.off m)
        if r'.off < r.n then s.passOn f r' src pa else s.memReply f r src 0 []
      | .watch => (s.applyWatch f r pa).memReply f r src 0 []
      | .unwatch =>
        let (n, s) := s.applyUnwatch f r pa
        s.memReply f r src 0 (leBytes 8 n)
      | .check => s.memReply f r src 0 []
      | op =>
        let old := s.readLe pa r.n
        let s := match atomicNew op r.n old (ofLe r.data) r.expect.toNat with
          | some v => s.ownerWrite pa (leBytes r.n v)
          | none => s
        s.memReply f r src 0 (leBytes r.n old)

/-! Deferral while a context is stopped (16 R288). -/

/-- The logical core whose silo holds a deferred window request: the scratchpad's, or the lowest-numbered of the quad. -/
def Ctx.windowCore (c : Ctx) (pa : Nat) : Option Nat :=
  match place pa with
  | .scratch p off =>
    match c.lcoreAt p with
    | some l => if (c.lc l).holdsScratch off 1 then some l else none
    | none => none
  | .accum q _ | .wbuf q _ =>
    if c.holdsArr q then (c.lcs.find? (fun e => quadOf e.2.pos = q)).map Prod.fst else none
  | _ => none

/-- Whether a request for window memory of a stopped context is deferred, and where: its own while it is being saved are
applied (R288; log 23). -/
def State.windowDeferred (s : State) (r : MemReq) (pa : Nat) : Option Nat :=
  let x := s.ctx r.ctx
  if !x.paused then none
  else
    match r.ans, x.st with
    | .peer _ _ _, _ => x.windowCore pa
    | _, .saved | _, .restoring => x.windowCore pa
    | _, _ => none

/-- Order at an owner (05 R95); a memory port presents its own engine's element requests ahead of its router link in any
cycle in which both arrive (11 R227, 12 R240). -/
def Flight.ownerBefore (g f : Flight) (ge fe hbm : Bool) : Bool :=
  if hbm && g.cyc == f.cyc && ge != fe then ge else g.comesBefore f

/-- No earlier arrival waits at the same owner, but for elements that an earlier one of their stream holds back. -/
def State.firstAtOwner (s : State) (f : Flight) (pa : Nat) : Bool :=
  let fe := match f.body with
    | .req r => r.isElem
    | _ => false
  s.flights.all (fun g =>
    match g.body, g.goal with
    | .req r, .owner =>
      match r.target with
      | some (.here pa') =>
        !(g.arrived && ownerKey pa' == ownerKey pa && g.ownerBefore f r.isElem fe (decide (pa < hbmBytes))
          && !s.elemAhead g r)
      | _ => true
    | _, _ => true)

/-- One request at its owner, in the order of arrival (R95). -/
def execOwnerApply (id : Nat) (s : State) : Out1 :=
  match s.flight? id with
  | some f =>
    match f.body, f.goal with
    | .req r, .owner =>
      match r.target with
      | some (.here pa) =>
        if !s.ripe f || r.isElem || r.ring.isSome || !s.firstAtOwner f pa then s.idle "not first at its owner"
        else
          match s.windowDeferred r pa with
          | some lc => .next (s.defer f lc)
          | none => .next (s.applyReq f r pa)
      | _ => s.idle "not translated"
    | _, _ => s.idle "no request at its owner"
  | none => s.idle "no such request"

/-! Page-fault records (17 R298). -/

/-- The one page-fault record of a word for a context, until the word is written (R298). -/
def State.pageRecord (s : State) (die k : Nat) (c word : Nat) (fromFault : Bool) (info : RecInfo) : State :=
  let sl := s.sliceAt die k
  if sl.words.contains (c, word) then s
  else
    let s := s.setSlice die k { sl with words := sl.words ++ [(c, word)] }
    s.record (.die die 7 k) c fPage false fromFault info

/-! Rings (06 R119 to R121). -/

/-- A free value for a word that the spec leaves open, not zero. -/
def State.freeWord (s : State) : Word × State :=
  let (n, s) := s.free
  (word64 (n % (2 ^ 64 - 1) + 1), s)

/-- A control block as it stands: BASE, LSIZE, HEAD, TAIL, WAITER. -/
structure RingBlock where
  base : Nat
  lsize : Nat
  head : Word
  tail : Word
  waiter : Word
  deriving DecidableEq, Repr

def State.ringBlock (s : State) (pa : Nat) : RingBlock :=
  ⟨s.readLe pa 8, bitsOf (s.readLe (pa + 8) 8) 3 0, word64 (s.readLe (pa + 16) 8), word64 (s.readLe (pa + 24) 8),
    word64 (s.readLe (pa + 32) 8)⟩

/-- BASE, 8-aligned and with the block's owner (R119). -/
def State.ringBase (s : State) (die c pa : Nat) (b : RingBlock) : Trans :=
  match s.translate die c b.base true with
  | .ok (.here q) w => if ownerKey q = ownerKey pa ∧ b.base % 8 = 0 then .ok (.here q) w else .fault fOperand 0 0
  | .absent ri w l => .absent ri w l
  | .fault code a d => if code = fUncorr then .fault code a d else .fault fOperand 0 0
  | .ok (.chip _ _) _ => .fault fOperand 0 0

/-- Virtual address of an entry (R120): the entries are virtually contiguous from BASE. -/
def RingBlock.entry (b : RingBlock) (k : Word) : Nat := b.base + 8 * (k.toNat % 2 ^ b.lsize)

/-- What a ring operation comes to at its owner. -/
inductive RingRes where
  /-- gD, the new CUR, and the fault: code, ADDR and DET. -/
  | done (gd : Word) (cur : Option Nat) (bad : Option (Nat × Nat × Nat)) (s : State)
  /-- The page of an address is absent: the address and its region. -/
  | absent (va ri : Nat)
  /-- The entry read lies in a poisoned block: its owner's address. -/
  | poisoned (block pa : Nat)
  deriving DecidableEq, Repr

/-- HEAD - TAIL, exact (00 R8): negative when software wrote a TAIL above HEAD. -/
def RingBlock.used (b : RingBlock) : Int := (b.head.toNat : Int) - b.tail.toNat

/-- Sends the dispatch of a parked consumer to its core (R121). -/
def State.ringWake (s : State) (c : Nat) (src : Nat × Nat) (w : Waiter) (gd : Word) (cur : Nat) : State :=
  let body := Body.ringWake w.lcore w.recNo gd cur
  let who := { Who.zero with ctx := c }
  let x := s.ctx c
  if w.rank ≠ x.desc.rank then
    let port := s.egressPort c w.rank false src
    (s.launchFlight { mkFlight who 0 false body (.egress port) src (torusPortXY port) with
      home := x.coordOf w.rank, inp := inpOwner w.pa }).2
  else
    let p := (x.lc w.lcore).pos
    (s.launchFlight { mkFlight who 0 false body (.core p) src (xyOfCore p) with inp := inpOwner w.pa }).2

/-- The waiter that the WAITER word names. -/
def State.waiterAt (s : State) (c pa : Nat) (word : Word) : Option Waiter :=
  if word = 0 then none else (s.ctx c).waiters.find? (fun w => w.pa = pa && w.word = word)

/-- Dispatches the waiter when its count has come, and clears WAITER in the same step. -/
def State.ringServe (s : State) (c pa : Nat) (need : Waiter → Nat) : State :=
  let b := s.ringBlock pa
  match s.waiterAt c pa b.waiter with
  | some w =>
    if need w ≤ b.used then
      let s := s.ownerWrite (pa + 32) (leBytes 8 0)
      let x := s.ctx c
      let s := s.setCtx c { x with waiters := x.waiters.filter (fun e => e != w) }
      s.ringWake c (ownerXY pa) w (wrap64 b.used) (b.tail.toNat % 16384)
    else s
  | none => s

/-- Words 0 and 1 as the operation needs them: LSIZE 3 to 12 and BASE (R120). -/
def State.ringCheck (s : State) (die c pa : Nat) (b : RingBlock) : Trans :=
  if b.lsize < 3 ∨ b.lsize > 12 then .fault fOperand 0 0 else s.ringBase die c pa b

/-- The physical address of a target, on whichever chip. -/
def Target.pa : Target → Nat
  | .here pa => pa
  | .chip _ pa => pa

/-- Where the entry at an address lies, once its owner lets the request touch it (12 R239, 18 R313). -/
def State.ringSlot (s : State) (die : Nat) (r : MemReq) (va : Nat) (wr : Bool) : Trans :=
  match s.translate die r.ctx va wr with
  | .ok (.here q) w =>
    match s.partRefused { r with op := if wr then .write else .read } q 8 with
    | 0 => .ok (.here q) w
    | 3 => .fault fWriteProtect va 0
    | _ => .fault fAddress va 0
  | .ok (.chip _ _) _ => .fault fAddress va 0
  | t => t

/-- A ring operation that has passed its checks on a block of this chip, and after it the test of the waiter (R121). `rank` and
`lcore` are the issuer's. -/
def State.ringDo (s : State) (r : MemReq) (die pa rank lcore : Nat) (op : RingOp) : RingRes :=
  let b := s.ringBlock pa
  let size : Nat := 2 ^ b.lsize
  let bad (code addr det : Nat) : RingRes := .done 0 none (some (code, addr, det)) s
  let did (gd : Word) (cur : Option Nat) (s : State) : RingRes := .done gd cur none (s.ringServe r.ctx pa Waiter.need)
  match op with
  | .push v =>
    if b.used < size then
      match s.ringSlot die r (b.entry b.head) true with
      | .ok t _ => did 0 none ((s.ownerWrite t.pa (leBytes 8 v.toNat)).ownerWrite (pa + 16) (leBytes 8 (b.head + 1).toNat))
      | .absent ri _ _ => .absent (b.entry b.head) ri
      | .fault code addr det => bad code addr det
    else did 1 none s
  | .pop =>
    if 0 < b.used then
      match s.ringSlot die r (b.entry b.tail) false with
      | .ok d _ =>
        match s.poisonAt d.pa 8 with
        | some k => .poisoned k d.pa
        | none =>
          let t := b.tail + 1
          did (word64 (s.readLe d.pa 8)) (some (t.toNat % 16384)) (s.ownerWrite (pa + 24) (leBytes 8 t.toNat))
      | .absent ri _ _ => .absent (b.entry b.tail) ri
      | .fault code addr det => bad code addr det
    else did 0 none s
  | .adv n =>
    if n = 0 ∨ n > size then bad fOperand 0 n
    else if n ≤ b.used then
      let t := b.tail + word64 n
      did 0 (some (t.toNat % 16384)) (s.ownerWrite (pa + 24) (leBytes 8 t.toNat))
    else did 1 none s
  | .wait n k =>
    if n = 0 ∨ n > size then bad fOperand 0 n
    else if b.waiter ≠ 0 then bad fRing r.va b.waiter.toNat
    else
      let (word, s) := s.freeWord
      let s := s.ownerWrite (pa + 32) (leBytes 8 word.toNat)
      let x := s.ctx r.ctx
      let w : Waiter := ⟨pa, word, rank, lcore, k, n⟩
      did 0 none (s.setCtx r.ctx { x with waiters := x.waiters.filter (fun e => e.pa != pa) ++ [w] })

/-- A request goes from a router to the slice of a page other than its own, to be held there while the page is absent (17
R298). -/
def State.toSlice (s : State) (f : Flight) (r : MemReq) (va ri : Nat) (src : Nat × Nat) (inp : Nat) : State :=
  let die := dieAt src.1 src.2
  let g := (s.ctx r.ctx).regionAt ri
  let page := (va - g.vbase) / g.pageSize
  let k := sliceOf r.ctx ri page
  let dst := xyOfQuad (64 * die + k)
  let (n, s) := s.fresh
  s.setFlight { f with
    body := .req { r with look := some (ri, page, va), pfSent := false }
    goal := .slice die k
    dx := dst.1
    dy := dst.2
    stage := .router src.1 src.2 false
    arr := n
    cyc := s.clock
    inp := inp }

/-- A ring operation whose BASE or entry lies in an absent page goes to that page's slice. This chip's own are translated anew
when the page stands; a peer's keeps the address that its chip gave it. -/
def State.ringToSlice (s : State) (f : Flight) (r : MemReq) (pa va ri : Nat) : State :=
  let r := match r.ans with
    | .peer _ _ _ => r
    | _ => { r with target := none, via := [] }
  s.toSlice f r va ri (ownerXY pa) (inpOwner pa)

/-- Applies a ring request at its owner, and answers it. -/
def State.applyRing (s : State) (f : Flight) (r : MemReq) (rr : RingReq) (pa : Nat) : State :=
  let src := ownerXY pa
  let die := dieAt src.1 src.2
  let q : Word := word64 (rr.cur * 2 ^ 50 + r.va / 64)
  let rank := match r.ans with
    | .peer chip _ _ => chip
    | _ => (s.ctx r.ctx).desc.rank
  let refused := s.partRefused r pa 64
  if refused ≠ 0 then (s.dropFlight f.id).memReply f r src refused []
  else
    match s.poisonAt pa 64 with
    | some b => (s.dropFlight f.id).poisonBack f r src b pa
    | none =>
      match s.ringCheck die r.ctx pa (s.ringBlock pa) with
      | .absent ri _ _ => s.ringToSlice f r pa (s.ringBlock pa).base ri
      | .fault code a d =>
        let bad := if code = fUncorr then (code, a, d) else (fOperand, 0, q.toNat)
        (s.dropFlight f.id).reply f src (.ringRep rr 0 none (some bad)) r.ans (some (inpOwner pa))
      | .ok _ _ =>
        match (s.dropFlight f.id).ringDo r die pa rank f.who.lcore rr.op with
        | .done gd cur bad t => t.reply f src (.ringRep rr gd cur bad) r.ans (some (inpOwner pa))
        | .absent va ri => s.ringToSlice f r pa va ri
        | .poisoned b q => (s.dropFlight f.id).poisonBack f r src b q

def execRingOpApply (id : Nat) (s : State) : Out1 :=
  match s.flight? id with
  | some f =>
    match f.body, f.goal with
    | .req r, .owner =>
      match r.target, r.ring with
      | some (.here pa), some rr =>
        if !s.ripe f || !s.firstAtOwner f pa then s.idle "not first at its owner"
        else
          match s.windowDeferred r pa with
          | some lc => .next (s.defer f lc)
          | none => .next (s.applyRing f r rr pa)
      | _, _ => s.idle "no ring operation"
    | _, _ => s.idle "no ring operation at its owner"
  | none => s.idle "no such request"

/-! Replies at the issuing core. -/

/-- Writes a destination, unless a younger instruction has. -/
def Inst.arrive (i : Inst) (e : Pend) (x : Nat) : Inst :=
  let i := i.dropPend e.id
  if !e.live then i
  else
    match e.dst with
    | .none => i
    | .g r => i.setG r (word64 x)
    | .v r => i.setV r (BitVec.ofNat 512 x)
    | .d r => i.setD r (BitVec.ofNat 256 x)
    | .ring r _ => i.setG r (word64 x)
    | .chunk => i

/-- Gives an instance's pending result its value, and ends its wait for a page (R19, 17 R299). -/
def State.fill (s : State) (pid : Nat) (x : Nat) : State :=
  match s.findPend pid with
  | some (p, sl, i, e) =>
    let i := if e.returning then s.latchFull i else i
    s.setInst p sl (some { (i.arrive e x).settleEdge with pageWait := i.pageWait.filter (fun w => w != pid) })
  | none => s

/-- A load's value, sign-extended from its width where it asks (05 R93). -/
def loadValue (signed : Option Nat) (data : List Byte) : Nat :=
  match signed with
  | some w => (wrap64 (signedOf w (ofLe data))).toNat
  | none => ofLe data

/-- What a reply to a memory request, an acknowledgement or an answer of the hub is. -/
def Body.isReply : Body → Bool
  | .rep _ _ _ | .pf _ | .ack _ _ _ _ _ _ _ | .ringRep _ _ _ _ | .hubRep _ => true
  | _ => false

/-- The context of a flight is away: its replies wait (16 R288). -/
def State.away (s : State) (c : Nat) : Bool :=
  match (s.ctx c).st with
  | .saved | .restoring => true
  | _ => false

/-- An earlier reply, of any kind, has come by the same path and waits at the same unit: the replies of a path arrive in the
order in which they were sent (11 R232). -/
def State.replyBehind (s : State) (f : Flight) : Bool :=
  s.flights.any (fun g => g.reply && g.goal == f.goal && g.inp == f.inp && g.arrived && decide (g.arr < f.arr))

/-- A reply is taken when it has come, in its path's order; it waits while its context is saved (16 R288). -/
def State.canReturn (s : State) (f : Flight) : Bool := f.arrived && !s.away f.who.ctx && !s.replyBehind f

/-- A reply that has come to a core whose context is saved becomes a deferred record (16 R288). -/
def State.deferReply (s : State) (f : Flight) : Out1 :=
  match f.goal with
  | .core _ =>
    if f.body.isReply && f.arrived && !s.replyBehind f && s.away f.who.ctx then .next (s.defer f f.who.lcore)
    else s.idle "the reply is under way"
  | _ => s.idle "the reply is under way"

/-- An instance waits no longer for a page. -/
def State.unwait (s : State) (pid : Nat) : State :=
  { s with cores := s.cores.map (fun e =>
      (e.1, { e.2 with slots := e.2.slots.map (fun o =>
        o.map (fun i => if i.pageWait.contains pid then { i with pageWait := i.pageWait.filter (fun w => w != pid) } else i)) })) }

/-- The data of a returning access reaches the core (R88, R89). -/
def State.applyReturn (s : State) (f : Flight) (r : MemReq) (data : List Byte) : State :=
  let s := (s.dropFlight f.id).unwait f.opId
  match r.ans with
  | .reg _ signed => (s.completeOp f.opId).fill f.opId (loadValue signed data)
  | .claim _ bound =>
    (s.completeOp f.opId).fill f.opId (if ofLe data < bound then ofLe data else 2 ^ 64 - 1)
  | .get pa note => ((s.ownerWrite pa data).completeOp f.opId).note (4 + f.who.sl) f.who note
  | .arm _ ctr target =>
    let d : DWord := BitVec.ofNat 256 (ofLe data)
    let c := f.who.ctx
    ((s.completeOp f.opId).make (s.lc c f.who.lcore).pos 12 c (.ctr ctr (.arm target (.post d f.who) f.who.iid f.opId)
      ((s.ctx c).desc.rank, f.who.lcore)))
  | .spload _ desc =>
    let p := (s.lc f.who.ctx f.who.lcore).pos
    let q := quadOf p
    let x := s.quad q
    (s.completeOp f.opId).setQuad q { x with
      springReqs := x.springReqs ++ [⟨s.clock, p, f.who, .spload desc data f.opId⟩] }
  | .watch _ =>
    let s : State := { s with cores := s.cores.map (fun e =>
      (e.1, { e.2 with mons := e.2.mons.map (fun m =>
        if m.id = f.opId then { m with live := true, pa := r.target.getD m.pa } else m) })) }
    (s.completeOp f.opId).fill f.opId 0
  | .unwatch _ => (s.completeOp f.opId).fill f.opId (ofLe data)
  | _ => s

/-- The data of a GET may be written: the core's scratchpad has applied the accesses that came before (R95). -/
def State.landsClear (s : State) (r : MemReq) : Bool :=
  match r.ans with
  | .get pa _ => s.ownerClear pa
  | _ => true

/-- A replayed JREC writes the journalled record over its own (06 R125). -/
def State.hubWrote (s : State) : Option (Nat × List Byte) → State
  | some (pa, bs) => s.ownerWrite pa bs
  | none => s

/-- The hub's answer reaches its core: gD; the fault that ends the instance; a JEMIT's message, which is sent now with gD = 0; or
its park, whose wake is due when the gate has opened meanwhile (06 R125 to R127, 20 R335). -/
def State.takeHub (s : State) (f : Flight) (a : HubAns) : State :=
  let s := (s.dropFlight f.id).completeOp f.opId
  let freed (s : State) (g : State → Nat → Nat → Inst → State) : State :=
    match s.findInst f.who.iid with
    | none => s
    | some (p, sl, i) =>
      let i := { i with waitOn := none }
      g { s.setInst p sl (some i) with curP := p, curS := sl } p sl i
  match a with
  | .done v wr => (s.hubWrote wr).fill f.opId v.toNat
  | .fault code det wr => (s.hubWrote wr).raiseLate f.who code 0 det
  | .emit stepw route token d =>
    freed s (fun s p sl i => (s.emission i stepw route token).setInst p sl (some (i.writeG d 0).settleEdge))
  | .shut stepw route token d opened =>
    freed s (fun s p sl i =>
      s.park p sl i.safePoint
        ⟨i, .gate (BitVec.ofNat 32 (stepw.toNat / 2 ^ 32)) (BitVec.ofNat 32 stepw.toNat), d,
          if opened then some 1 else none, none, some (route, token, stepw), .none⟩)
  | .lost v d => freed s (fun s p sl i => s.setInst p sl (some (i.writeG d v).settleEdge))

/-- The core's scratchpad has applied the accesses that came before the bytes of an answer (R95). -/
def State.hubClear (s : State) : HubAns → Bool
  | .done _ wr | .fault _ _ wr => wr.all (fun e => s.ownerClear e.1)
  | _ => true

/-- LOAD_RETURN: a reply with data, an answer of the hub, a unit's result, or a counter read in program order. -/
def execLoadReturn (id : Nat) (s : State) : Out1 :=
  match s.flight? id with
  | some f =>
    match f.body with
    | .rep r 0 data =>
      match r.ans with
      | .reg _ _ | .claim _ _ | .get _ _ | .arm _ _ _ | .spload _ _ | .watch _ | .unwatch _ =>
        if !s.canReturn f then s.deferReply f
        else if !s.landsClear r then s.idle "an earlier access waits at the core"
        else .next (s.applyReturn f r data)
      | _ => s.idle "no data is returned"
    | .hubRep a =>
      if !s.canReturn f then s.deferReply f
      else if !s.hubClear a then s.idle "an earlier access waits at the core"
      else .next (s.takeHub f a)
    | .cntrd n sticky =>
      match s.findPend id with
      | none => .next (s.dropFlight id)
      | some (p, _, i, _) =>
        let older := s.flights.any (fun g =>
          match g.body with
          | .cntrd _ _ => decide (g.id < id) && i.pend.any (fun e => e.id == g.id)
          | _ => false)
        if !f.arrived || older then s.idle "an older counter read is under way"
        else
          let (v, st) := s.counterRead (dieOf p) i.ctx n
          .next ((s.dropFlight id).fill id (if sticky then cond st 1 0 else v))
    | _ => s.idle "no data is returned"
  | none =>
    match s.findPend id with
    | some (_, _, _, e) =>
      match e.value with
      | some v => .next (s.fill id v.toNat)
      | none => s.idle "the result is not formed"
    | none => s.idle "nothing waits for it"

/-- The core counts an acknowledgement, and makes a PUT's note (05 R89, R94). -/
def State.applyAck (s : State) (f : Flight) (note : Option Nat) : State :=
  ((s.dropFlight f.id).completeOp f.opId).note (4 + f.who.sl) f.who note

/-- A piece of an engine's access to a peer is answered. -/
def State.gotPiece (s : State) (cmd n mst : Nat) (data : List Byte) : State :=
  { s with fetches := s.fetches.map (fun e => if e.cmd = cmd ∧ e.n = n then { e with got := some (mst, data) } else e) }

def execAckReturn (id : Nat) (s : State) : Out1 :=
  match s.flight? id with
  | some f =>
    match f.body with
    | .rep r mst data =>
      match r.ans with
      | .ack note =>
        if mst ≠ 0 then s.idle "it is an error reply"
        else if s.canReturn f then .next (s.applyAck f note)
        else s.deferReply f
      | .piece _ cmd n =>
        if f.arrived && !s.replyBehind f then .next ((s.dropFlight id).gotPiece cmd n mst data)
        else s.idle "the reply is under way"
      | _ => s.idle "no acknowledgement"
    | _ => s.idle "no acknowledgement"
  | none => s.idle "no such reply"

/-! Error replies (05 R89, 17 R301, 18 R318). -/

/-- The read of a PUT's source that the order queue still holds is a second operation, numbered after the first (05 R94):
it is over once the source has been read, or never will be. -/
def State.sourceOver (s : State) (f : Flight) : State :=
  match f.body with
  | .req r => if r.src.isSome then s.completeOp (f.opId + 1) else s
  | _ => s

/-- The releases of an instance that its order queue still holds are discarded unperformed. -/
def State.discardHeld (s : State) (iid : Nat) : State :=
  let gone := s.flights.filter (fun f =>
    f.who.iid = iid && f.releasing && (match f.stage with
      | .held => true
      | _ => false))
  let s : State := { s with flights := s.flights.filter (fun f => !gone.any (fun g => g.id == f.id)) }
  gone.foldl (fun s f => (s.completeOp f.opId).sourceOver f) s

/-- The record of a memory status: code, ADDR and DET. -/
def errorOf (r : MemReq) (mst : Nat) (data : List Byte) (rank : Nat) : Nat × Nat × Nat :=
  if 16 ≤ mst then (fUncorr, ofLe data, mst - 16)
  else if mst = 2 then (fAddress, r.va, ofLe data)
  else if mst = 3 then (fWriteProtect, r.va, 0)
  else (fPeerLost, r.va, rank * 2 ^ 32 + mst)

/-- Rank of the chip that a request went to. -/
def MemReq.rank (r : MemReq) : Nat :=
  match r.target with
  | some (.chip k _) => k
  | _ => 0

/-- An error reply: held releases go, the operation completes, and the instance faults. -/
def State.applyError (s : State) (f : Flight) (code addr det : Nat) : State :=
  let s := (((s.dropFlight f.id).discardHeld f.who.iid).completeOp f.opId).unwait f.opId
  match (s.ctx f.who.ctx).st with
  | .free => s
  | _ => s.raiseLate f.who code addr det

/-- A flit of the access failed (21 Table 21-4, kind E): a record is made, the operation completes, and its instance goes on
with a free value where one was to be returned (log 48). -/
def State.applyFlitError (s : State) (f : Flight) (addr det : Nat) : State :=
  let s := (((s.dropFlight f.id).completeOp f.opId).unwait f.opId)
  let (v, s) := s.freeWord
  match (s.ctx f.who.ctx).st with
  | .free => s
  | _ => (s.record (.core f.who.p 0) f.who.ctx fUncorr false f.who.fromFault
      (recOf f.who (s.ended f.who) addr det)).fill f.opId v.toNat

/-- A monitor entry whose registration was refused is given up. -/
def State.dropMon (s : State) (mid : Nat) : State :=
  { s with cores := s.cores.map (fun e => (e.1, { e.2 with mons := e.2.mons.filter (fun m => m.id != mid) })) }

def execErrorReply (id : Nat) (s : State) : Out1 :=
  match s.flight? id with
  | some f =>
    if !s.canReturn f then s.deferReply f
    else
      match f.body with
      | .rep r mst data =>
        match mst, r.ans with
        | 0, _ => s.idle "no error"
        | _, .elem _ _ _ => s.idle "a gather element"
        | _, .piece _ _ _ => s.idle "an engine's piece"
        | _, .peer _ _ _ => s.idle "it is a peer's"
        | _, .host => s.idle "it is the host's"
        | _, _ =>
          let (code, addr, det) := errorOf r mst data r.rank
          if mst = 25 then .next ((s.dropMon f.opId).applyFlitError f addr det)
          else .next ((s.dropMon f.opId).applyError f code addr det)
      | .ack .send rstat _ _ _ chip _ =>
        if rstat = 1 ∨ rstat = 3 then .next (s.applyError f fPeerLost 0 (chip * 2 ^ 32 + rstat))
        else s.idle "no error"
      | _ => s.idle "no error reply"
  | none => s.idle "no such reply"

/-- A slice's page-fault reply: the slot is not ready until the data returns (17 R299). -/
def execPageFaultReply (id : Nat) (s : State) : Out1 :=
  match s.flight? id with
  | some f =>
    match f.body with
    | .pf rid =>
      if !f.arrived || s.replyBehind f then s.idle "the reply is under way"
      else
        let s := s.dropFlight id
        match s.findPend rid with
        | some (p, sl, i, _) =>
          if i.pageWait.contains rid then .next s
          else .next (s.setInst p sl (some { i with pageWait := i.pageWait ++ [rid] }))
        | none => .next s
    | _ => s.idle "no page-fault reply"
  | none => s.idle "no such reply"

/-- A flight that is bound for an egress router. -/
def Flight.leaves (f : Flight) : Bool :=
  match f.goal with
  | .egress _ => true
  | _ => false

/-- A held PUT may read its source: the core's scratchpad has applied the accesses that came before (R95). -/
def State.sourceClear (s : State) (f : Flight) : Bool :=
  match f.body with
  | .req r => r.src.all s.ownerClear
  | _ => true

/-- A held request, send or arrival leaves the order queue (05 R90, 11 R231, 12 Table 12-4). -/
def execOrderQueueRelease (id : Nat) (s : State) : Out1 :=
  match s.flight? id with
  | some f =>
    match f.stage with
    | .held =>
      let c := s.core f.who.p
      if s.away f.who.ctx then s.idle "its context is saved"
      else if f.after.any c.outstanding || f.afterPerf.any c.blocks then
        s.idle "an earlier operation is under way"
      else if !s.sourceClear f then s.idle "an earlier access waits at the core's scratchpad"
      else
        let bad : Option Nat := match f.body with
          | .req r => r.src.bind (fun pa => s.poisonAt pa r.n)
          | _ => none
        match bad with
        | some b => .next ((s.sourceOver f).applyError f fUncorr (64 * b) 2)
        | none =>
          let body := match f.body with
            | .req r => Body.req (s.takeSource r)
            | b => b
          let s := s.sourceOver f
          let (n, s) := s.fresh
          .next (s.setFlight { f with body := body, stage := .router f.sx f.sy false, arr := n, cyc := s.clock })
    | _ => s.idle "it is not held"
  | none => s.idle "no such request"

end Sys2Proof.Machine
end

