-- ==== Sys2Proof/Machine/Translate.lean ====
section
/-! DEFINITION. The TLB slices (17 R296 to R303): look-ups, walks, held requests, retries and invalidations. -/

namespace Sys2Proof.Machine

open Sys2Proof

/-! A slice is named by its die and its quad position within the die. -/

/-- The slice of a flight that stands at one. -/
def Flight.sliceOf? (f : Flight) : Option (Nat × Nat) :=
  match f.goal with
  | .slice d k => some (d, k)
  | _ => none

/-- The request of a flight. -/
def Flight.req? (f : Flight) : Option MemReq :=
  match f.body with
  | .req r => some r
  | _ => none

/-- Flights at a slice, in the order in which they stand. -/
def State.atSlice (s : State) (die k : Nat) : List Flight := s.flights.filter (fun f => f.goal == .slice die k)

/-- Walks that a slice runs. -/
def State.walksAt (s : State) (die k : Nat) : List Flight :=
  (s.atSlice die k).filter (fun f =>
    match f.stage with
    | .sliceWalk _ _ _ => true
    | _ => false)

def State.heldAt (s : State) (die k : Nat) : List Flight :=
  (s.atSlice die k).filter (fun f =>
    match f.stage with
    | .sliceHeld _ _ => true
    | _ => false)

def MemReq.samePage (a b : MemReq) : Bool := a.ctx == b.ctx && a.key.1 == b.key.1 && a.key.2.1 == b.key.2.1

/-- A walk of the same page that already runs. -/
def State.walkerFor (s : State) (die k : Nat) (r : MemReq) : Option Flight :=
  (s.walksAt die k).find? (fun f =>
    match f.req? with
    | some x => x.samePage r
    | none => false)

/-- A request that came earlier waits for a walk (R297). -/
def State.waitAhead (s : State) (die k : Nat) (f : Flight) : Bool :=
  (s.atSlice die k).any (fun g => g.stage == .sliceWait && decide (g.arr < f.arr))

/-- A request starts a walk, joins one, or waits for one behind those that came earlier (R297). -/
def State.beginWalk (s : State) (die k : Nat) (f : Flight) (r : MemReq) : State :=
  let g := (s.ctx r.ctx).regionAt r.key.1
  match s.walkerFor die k r with
  | some w => s.setFlight { f with stage := .sliceJoin w.id }
  | none =>
    if (s.walksAt die k).length < Config.walksPerSlice && !s.waitAhead die k f then
      let level := g.levels - 1
      s.setFlight { f with stage := .sliceWalk (g.paddr + 8 * (r.key.2.1 / 2 ^ (9 * level) % 512)) level g.paddr }
    else s.setFlight { f with stage := .sliceWait }

/-- The memories that a request touches besides its target: the issuer's scratchpad for GET and PUT. -/
def Flight.ownScratch (f : Flight) (r : MemReq) : List MemName :=
  match r.ans with
  | .get _ _ => [.scratch f.who.p]
  | .ack _ => if r.src.isSome then [.scratch f.who.p] else []
  | _ => []

/-- The page after the first that a range reaches, where its region is paged: its first address, and what it translates
to. -/
def State.laterPage (s : State) (die : Nat) (r : MemReq) : Option (Nat × Trans) :=
  let g := (s.ctx r.ctx).regionAt r.region
  let last := g.vbase + (r.va + (max r.n 1) - 1 - g.vbase) / g.pageSize * g.pageSize
  if last ≤ r.va ∨ (g.fixed r.va).isSome then none else some (last, s.translate die r.ctx last (r.op != .read))

/-- What a request's first page translates to; a peer's ring operation keeps the address that it came with. -/
def State.firstPage (s : State) (die : Nat) (r : MemReq) : Trans :=
  match r.ring, r.target with
  | some _, some t => .ok t true
  | _, _ => s.translate die r.ctx r.va (r.op != .read)

/-- A page that a request may not use sends it back with the memory status that refuses it (R301), or with the structure of
the poisoned block that its walk met (21 R353); one that is absent sends it to that page's slice first. None when the page
stands. -/
def State.pageBack (s : State) (die k : Nat) (f : Flight) (r : MemReq) (t : Trans) (va : Nat) : Option State :=
  let src := xyOfQuad (64 * die + k)
  match t with
  | .ok _ _ => none
  | .fault code addr det =>
    some ((s.dropFlight f.id).memReply f r src
      (if code = fUncorr then 16 + det else if code = fWriteProtect then 3 else 2)
      (leBytes 8 (if code = fUncorr then addr else det)))
  | .absent ri _ _ =>
    some (s.toSlice f r va ri src inpArray)

/-- A translated request leaves for its owner (R297), with the translation of every page that it touches (R302). -/
def State.sendOn (s : State) (die k : Nat) (f : Flight) (r : MemReq) : State :=
  let src := xyOfQuad (64 * die + k)
  let (goal, dst) := s.reqRoute r die src
  let (n, s) := s.fresh
  let mems := f.ownScratch r ++ ((r.target.toList ++ (r.later.map Prod.snd).toList).filterMap memNameOf)
  let s := s.mapOp f.opId (fun o => { o with mems := mems, loose := [] })
  s.setFlight { f with
    body := .req r
    goal := goal
    dx := dst.1
    dy := dst.2
    stage := .router src.1 src.2 false
    arr := n
    cyc := s.clock
    inp := inpArray }

/-- The pages through which a request is translated: its own, and the next one where it goes on there; none of a peer's ring
operation. -/
def State.pagesOf (s : State) (die : Nat) (r : MemReq) (crosses : Bool) : List (Nat × Nat × Nat) :=
  if ((s.ctx r.ctx).regionAt r.region).kind % 2 = 1 ∨ r.target.isSome then []
  else if crosses then [(die, r.region, r.page), (die, r.region, r.page + 1)] else [(die, r.region, r.page)]

/-- A slice sends a request on, or back. -/
def State.forward (s : State) (die k : Nat) (f : Flight) (r : MemReq) : State :=
  let first := s.firstPage die r
  let later := if r.ring.isSome then none else s.laterPage die r
  match s.pageBack die k f r first r.va with
  | some s => s
  | none =>
    match later.bind (fun e => s.pageBack die k f r e.2 e.1) with
    | some s => s
    | none =>
      match first, r.ans with
      | .ok _ _, .probe => (s.dropFlight f.id).unwait f.id
      | .ok t _, _ =>
        s.sendOn die k f { r with
          target := some t
          later := match later with
            | some (last, .ok t' _) => some (last - r.va, t')
            | _ => none
          look := none
          via := s.pagesOf die r later.isSome }
      | _, _ => s

/-- A slice looks up a request (R297): a hit is forwarded, a miss starts, joins or waits for a walk. -/
def execTlbSliceLookup (id : Nat) (s : State) : Out1 :=
  match s.flight? id with
  | some f =>
    match f.body, f.goal with
    | .req r, .slice die k =>
      let waiting := match f.stage with
        | .sliceWait => decide ((s.walksAt die k).length < Config.walksPerSlice) && !s.waitAhead die k f
        | _ => f.arrived
      if !waiting then s.idle "the request is not at its slice, or an earlier one begins its walk first"
      else
        match (s.sliceAt die k).find r.ctx r.key.1 r.key.2.1 with
        | some _ => .next (s.forward die k f r)
        | none => .next (s.beginWalk die k f r)
    | _, _ => s.idle "no request at a slice"
  | none => s.idle "no such request"

/-- Whether a request's issuer stops on a page fault: a returning access, or an instruction whose own effect needs the
data (R299). -/
def MemReq.stops (r : MemReq) : Bool :=
  match r.ans with
  | .reg d _ | .claim d _ => d != .none
  | .spload _ _ | .arm _ _ _ => true
  | _ => false

/-- Unit of a page-fault record: the level of the page table that the walk had reached. -/
def State.sliceRec (s : State) (f : Flight) (va word level : Nat) : RecInfo :=
  let prog : Nat := match f.req? with
    | some r => match r.ans with
      | .elem _ _ n => n
      | _ => 0
    | none => 0
  { recOf f.who (s.ended f.who) va word with unit := 7, uidx := level, prog := prog }

/-- Requests that a slice holds, of instances and of engines (R298). -/
def State.heldCount (s : State) (die k : Nat) : Nat := (s.heldAt die k).length + (s.sliceAt die k).engines.length

/-- Holds a request on a word with P = 0 (R298), or returns it when the slice is full. -/
def State.holdOn (s : State) (die k : Nat) (f : Flight) (r : MemReq) (word level : Nat) : State :=
  if Config.heldPerSlice ≤ s.heldCount die k then s.setFlight { f with stage := .sliceBack }
  else
    let (n, s) := s.fresh
    let s := s.setFlight { f with body := .req { r with pfSent := true }, stage := .sliceHeld word false, arr := n }
    let s := s.pageRecord die k r.ctx word f.who.fromFault (s.sliceRec f r.key.2.2 word level)
    if r.stops && !r.pfSent then s.reply f (xyOfQuad (64 * die + k)) (.pf f.opId) r.ans else s

/-- A walk and the requests that joined it, in arrival order. -/
def State.walkGroup (s : State) (die k : Nat) (w : Flight) : List Flight :=
  w :: (s.atSlice die k).filter (fun f => f.stage == .sliceJoin w.id)

/-- One page-table entry read of a walk (R296). -/
def execPageWalkRead (id : Nat) (s : State) : Out1 :=
  match s.flight? id with
  | some f =>
    match f.body, f.goal, f.stage with
    | .req r, .slice die k, .sliceWalk _ level table =>
      let g := (s.ctx r.ctx).regionAt r.key.1
      let page := r.key.2.1
      let group := s.walkGroup die k f
      let each (h : Flight → MemReq → State → State) (s : State) : State :=
        group.foldl (fun s x =>
          match x.req? with
          | some q => h x q s
          | none => s) s
      match s.walkRead g page level table with
      | .next t =>
        let l := level - 1
        .next (s.setFlight { f with stage := .sliceWalk (t + 8 * (page / 2 ^ (9 * l) % 512)) l t })
      | .leaf pa w =>
        let sl := s.sliceAt die k
        let kept := sl.ents.drop (sl.ents.length - 2047)
        let s := s.setSlice die k { sl with ents := kept ++ [⟨r.ctx, r.key.1, page, pa, w⟩] }
        .next (each (fun x q s => s.forward die k x q) s)
      | .absent word => .next (each (fun x q s => s.holdOn die k x q word level) s)
      | .bad word =>
        .next (each (fun x q s =>
          (s.dropFlight x.id).memReply x q (xyOfQuad (64 * die + k)) 2 (leBytes 8 word)) s)
      | .poisoned b => .next (each (fun x q s =>
          (s.dropFlight x.id).memReply x q (xyOfQuad (64 * die + k)) (16 + 7) (leBytes 8 (64 * b))) s)
    | _, _, _ => s.idle "no walk"
  | none => s.idle "no such request"

/-- A write to its word restarts a held request's walk, in the order in which the requests were held (R298). -/
def execPageFaultRewalk (id : Nat) (s : State) : Out1 :=
  match s.flight? id with
  | some f =>
    match f.body, f.goal, f.stage with
    | .req r, .slice die k, .sliceHeld word true =>
      let earlier := (s.heldAt die k).any (fun g =>
        match g.stage with
        | .sliceHeld w true => w == word && decide (g.arr < f.arr)
        | _ => false)
      if earlier then s.idle "a request held before it walks first" else .next (s.beginWalk die k f r)
    | _, _, _ => s.idle "its word has not been written"
  | none => s.idle "no such request"

/-- A request that a full slice returned is sent again by its issuer (R298). -/
def execTlbRetry (id : Nat) (s : State) : Out1 :=
  match s.flight? id with
  | some f =>
    match f.stage with
    | .sliceBack =>
      let (n, s) := s.fresh
      .next (s.setFlight { f with stage := .router f.sx f.sy false, arr := n, cyc := s.clock, inp := entryPort f.who f.body })
    | _ => s.idle "it was not returned"
  | none => s.idle "no such request"

end Sys2Proof.Machine
end

