-- ==== Sys2Proof/Machine/Network.lean ====
section
/-! DEFINITION. The two networks of the package (11 R225 to R236), the die-to-die links (11 R229, 21 R358), the
Druntasy ports with their remote tables (18 R311 to R321), and lost peers (18 R317). -/

namespace Sys2Proof.Machine

open Sys2Proof

/-! Routers (11 R230 to R232). -/

/-- One step along a ring of 16. -/
def ringStep (a : Nat) (up : Bool) : Nat := if up then (a + 1) % 16 else (a + 15) % 16

/-- The router after one step in X or in Y. -/
def nextXY (x y : Nat) (inX up : Bool) : Nat × Nat := if inX then (ringStep x up, y) else (x, ringStep y up)

/-- The die-to-die link between two neighbouring routers: 16 x pair + index, index 0 to 7 on the inner edge and 8 to 15
on the wrap edge, by row or column (Table 11-1; the numbering within a pair is log 24). -/
def linkOf (a b : Nat × Nat) : Option Nat :=
  if dieAt a.1 a.2 = dieAt b.1 b.2 then none
  else if a.2 = b.2 then
    let pair := if a.2 < 8 then 0 else 1
    let wrap := (a.1 = 15 ∧ b.1 = 0) ∨ (a.1 = 0 ∧ b.1 = 15)
    some (16 * pair + a.2 % 8 + if wrap then 8 else 0)
  else
    let pair := if a.1 < 8 then 2 else 3
    let wrap := (a.2 = 15 ∧ b.2 = 0) ∨ (a.2 = 0 ∧ b.2 = 15)
    some (16 * pair + a.1 % 8 + if wrap then 8 else 0)

/-- The dimension-order output of a flight at a router: in X, and the positive way (11 R230, R232). None at its
destination. -/
def Flight.dimOutput (f : Flight) (x y : Nat) : Option (Bool × Bool) :=
  if x ≠ f.dx then some (true, (ringWay x f.dx).1)
  else if y ≠ f.dy then some (false, (ringWay y f.dy).1)
  else none

/-- Flits of a flight (R228): its header, and the payload, or the data that it stores or returns. -/
def Flight.flits (f : Flight) : Nat :=
  match f.body with
  | .req r =>
    match r.ring with
    | some ⟨.push _, _, _, _⟩ => flitsOf 8
    | _ => flitsOf r.data.length
  | .rep _ _ data => flitsOf data.length
  | .msg m _ => flitsOf m.hdr.plen.toNat
  | .transit _ _ _ u => unitFlits u
  | .hubReq (.jrec _ bytes _ _) => flitsOf bytes.length
  | _ => 1

/-- A message that a side-band word accompanies (R234). -/
def Flight.scaled (f : Flight) : Bool :=
  match f.body with
  | .msg m _ => m.scale.isSome
  | .transit _ _ _ (.via _ _ _ (.msg _ _ m)) => m.scale.isSome
  | _ => false

/-- Flits in an output buffer of a router: its adaptive one, or one virtual-channel class of its escape lane (R230). -/
def State.buffered (s : State) (x y : Nat) (out : Bool × Bool) (escape vc : Bool) : Nat :=
  ((s.flights.filter (fun g => (!escape || g.vc == vc) && g.stage == .lane x y out.1 out.2 escape)).map Flight.flits).sum

/-- A buffer that holds `used` flits has room for a whole message. Its size is not given: it takes the longest message at
least (log 46). -/
def roomFor (used flits : Nat) : Bool := decide (used + flits ≤ 6) || decide (used + flits ≤ 6 + Config.bufferFlits)

/-- The output buffer that a request enters (R230): of the productive outputs whose adaptive buffer has room, the one with
the most free flits, X at equal room; else the escape lane of the dimension-order output, if it has room; else none, and the
request waits. One that is in the escape lane stays in it. -/
def State.outputFor (s : State) (f : Flight) (x y : Nat) (esc : Bool) : Option ((Bool × Bool) × Bool) :=
  let outX : Option (Bool × Bool) := if x ≠ f.dx then some (true, (ringWay x f.dx).1) else none
  let outY : Option (Bool × Bool) := if y ≠ f.dy then some (false, (ringWay y f.dy).1) else none
  let open_ (o : Option (Bool × Bool)) : Option (Bool × Bool) :=
    if esc then none else o.filter (fun e => roomFor (s.buffered x y e false f.vc) f.flits)
  match open_ outX, open_ outY with
  | some a, some b =>
    some (if s.buffered x y a false f.vc ≤ s.buffered x y b false f.vc then a else b, false)
  | some a, none => some (a, false)
  | none, some b => some (b, false)
  | none, none =>
    match f.dimOutput x y with
    | some o => if roomFor (s.buffered x y o true f.vc) f.flits then some (o, true) else none
    | none => none

def LaneUse.isOf (u : LaneUse) (x y : Nat) (out : Bool × Bool) (vn1 : Bool) : Bool :=
  u.x == x && u.y == y && (u.inX, u.up) == out && u.vn1 == vn1

/-- What a lane has carried in the present cycle: flits, and whether a scaled message was among them. -/
def State.laneNow (s : State) (x y : Nat) (out : Bool × Bool) (vn1 : Bool) : Nat × Bool :=
  match s.lanes.find? (fun u => u.isOf x y out vn1 && u.cyc == s.clock) with
  | some u => (u.flits, u.scaled)
  | none => (0, false)

/-- Another flight entered the same lane earlier and has not crossed it (R228, R232); or a scaled message that came earlier for
the same output, in whichever buffer, waits for the next cycle (R234). -/
def State.aheadOf (s : State) (f : Flight) (x y : Nat) (out : Bool × Bool) (esc : Bool) : Bool :=
  s.flights.any (fun g =>
    g.reply == f.reply && decide (g.arr < f.arr) && match g.stage with
      | .router x' y' _ => f.reply && x' == x && y' == y && g.dimOutput x y == some out
      | .lane x' y' inX up e => x' == x && y' == y && (inX, up) == out
          && (e == esc && (g.vc == f.vc || !esc && !f.reply) || g.scaled && (s.laneNow x y out f.reply).2)
      | _ => false)

/-- A lane takes a flight in the present cycle: 8 flits in all, and one scaled message (R228, R234). -/
def State.laneTakes (s : State) (f : Flight) (x y : Nat) (out : Bool × Bool) : Bool :=
  let (n, sc) := s.laneNow x y out f.reply
  decide (n + f.flits ≤ 8) && !(sc && f.scaled)

def State.useLane (s : State) (f : Flight) (x y : Nat) (out : Bool × Bool) : State :=
  let (n, sc) := s.laneNow x y out f.reply
  { s with lanes :=
      ⟨x, y, out.1, out.2, f.reply, s.clock, n + f.flits, sc || f.scaled⟩ :: s.lanes.filter (fun u => !u.isOf x y out f.reply) }

/-- The link between two neighbouring routers is on a wrap edge. -/
def crossesWrap (x y x' y' : Nat) : Bool := (x == 15 && x' == 0) || (x == 0 && x' == 15) || (y == 15 && y' == 0) || (y == 0 && y' == 15)

/-- A flight crosses the link of an output: onto the next router, or onto a die-to-die link. -/
def State.cross (s : State) (f : Flight) (x y : Nat) (out : Bool × Bool) (esc : Bool) : State :=
  let (x', y') := nextXY x y out.1 out.2
  let (n, s) := (s.useLane f x y out).fresh
  let f := { f with arr := n, inp := hopPort x y x' y', vc := f.vc != crossesWrap x y x' y' }
  match linkOf (x, y) (x', y') with
  | some l => s.setFlight { f with stage := .link l x' y' esc }
  | none => s.setFlight { f with stage := .router x' y' esc, cyc := s.clock }

/-! Units that leave the chip (18 R312, R316). -/

/-- Rank of the chip that a flight is bound for. -/
def Flight.rank? (f : Flight) : Option Nat :=
  match f.body with
  | .req r => match r.target with
    | some (.chip k _) => some k
    | _ => none
  | .msg m _ => some m.hdr.dchip.toNat
  | .barrier _ => some 0
  | .wput _ _ _ chip _ => some chip
  | .rep r _ _ => match r.ans with
    | .peer chip _ _ => some chip
    | _ => none
  | .ack (.peer chip _ _) _ _ _ _ _ _ => some chip
  | .ringRep _ _ _ _ => some f.who.p
  | _ => none

/-- A flight that takes a remote-table entry when it leaves: every one that expects a reply or an acknowledgement. -/
def Flight.needsEntry (f : Flight) : Bool :=
  match f.body with
  | .req _ | .barrier _ => true
  | .msg m _ => m.hdr.kind != 1
  | _ => false

def peerRing : RingOp → PeerRing
  | .push v => .push v
  | .pop => .pop
  | .adv n => .adv n
  | .wait n k => .wait n k

/-- What a flight is on the link. `eidx` names its remote-table entry: 4,096 x port + entry. -/
def State.unitOf (s : State) (f : Flight) (eidx : Nat) : Option PeerUnit :=
  let me := (s.ctx f.ctx).desc.rank
  match f.body with
  | .req r =>
    let pa := (r.target.map wordOf).getD 0
    match r.ring, r.op with
    | some rr, _ => some (.ring me eidx r.ctx f.who.lcore (peerRing rr.op) pa r.va)
    | none, .watch =>
      let hidx := ((s.core f.who.p).mons.find? (fun m => m.id = f.opId)).map Mon.hidx
      some (.watch me eidx r.ctx f.who.lcore pa r.va (hidx.getD 0) r.expect)
    | none, .unwatch => some (.unwatch me eidx r.ctx f.who.lcore pa r.va)
    | none, op => some (.req me eidx r.ctx op pa r.n r.data r.expect (r.later.map (fun e => (e.1, wordOf e.2))))
  | .msg m _ => some (.msg me eidx m)
  | .barrier a => some (.barrier me eidx a.ctx a.lcore a.n a.target a.value a.hidx a.tag)
  | .wput key ident note _ lcore => some (.wput f.who.ctx lcore key ident note)
  | .ringWake lcore k gd cur => some (.ringWake f.who.ctx lcore k gd cur)
  | .rep r mst data => match r.ans with
    | .peer _ e _ => some (.memReply e mst data)
    | _ => none
  | .ack (.peer _ e _) rstat stamp _ _ _ _ => some (.ack e rstat stamp)
  | .ringRep _ gd cur bad => some (.ringRep f.opId gd cur bad)
  | .transit _ _ _ u => some u
  | _ => none

/-- The coordinate that a flight leaves for. -/
def State.coordOf (s : State) (f : Flight) : Option (Nat × Nat × Nat) :=
  match f.body with
  | .transit x y z _ => some (x, y, z)
  | _ =>
    match f.home, f.rank? with
    | some h, _ => some h
    | none, some k => (s.ctx f.ctx).coordOf k
    | none, none => none

/-! Frames (18 R312, R319, R320). -/

/-- What a flight is on a link, with the coordinates that it is bound for and comes from. -/
def State.linkUnit (s : State) (f : Flight) (eidx : Nat) : Option PeerUnit :=
  match f.body, s.hub.geom with
  | .transit _ _ _ (.via d h _ u), _ => some (.via d h f.vc u)
  | .transit _ _ _ u, _ => some u
  | _, none => none
  | _, some g =>
    match s.unitOf f eidx, s.coordOf f with
    | some u, some (x, y, z) => some (.via (x, y, z) (g.x, g.y, g.z) f.vc u)
    | _, _ => none

/-- Sends one unit on a port. -/
def State.sendUnit (s : State) (port : Nat) (f : Flight) (eidx : Nat) : State :=
  match s.linkUnit f eidx with
  | some u => s.sendFrame port (some u) (.frame port u)
  | none => s

/-- The frame that a flight makes may leave on a port now. -/
def State.maySend (s : State) (port : Nat) (f : Flight) (eidx : Nat) : Bool :=
  match s.linkUnit f eidx with
  | some u => (s.port port).maySend (unitFlits u) (replyUnit u)
  | none => true

/-- The reply that enters the reservation of a message to a lost chip (06 R111): RSTAT 1, PLEN 0. -/
def State.lostReply (s : State) (m : Msg) : Msg :=
  let r := s.unitMsg m.hdr.ctx.toNat m.hdr.score.toNat 0 (m.hdr.rroute.toNat % 65536) 0 0 []
  { r with hdr := { r.hdr with kind := 1, rstat := 1 } }

/-- A synthesised reply for a request or message towards a lost chip (R317): memory status 1 or RSTAT 1. -/
def State.synthLost (s : State) (f : Flight) (src : Nat × Nat) : State :=
  let s := s.dropFlight f.id
  match f.body with
  | .req r => s.memReply f r src 1 []
  | .msg m t =>
    if !t.told then s
    else
      let body := Body.ack t 1 0 m.hdr.midx.toNat f.opId m.hdr.dchip.toNat m.hdr.dcore.toNat
      let s := s.reply f src body (.ack none) (some inpUp)
      if t = .send ∧ m.hdr.rroute.getLsbD 6 then s.reply f src (.msg (s.lostReply m) .none) (.ack none) (some inpUp) else s
  | .barrier _ => s.reply f src (.ack .send 1 0 0 f.opId 0 1023) (.ack none) (some inpUp)
  | _ => s

/-- The port that a flight still uses: its own, or the other of the direction when it is down. -/
def State.livePort (s : State) (f : Flight) (port : Nat) : Nat :=
  if (s.port port).up then port
  else
    let other := (List.range 6).findSome? (fun d =>
      let (a, b) := dirPorts d
      if a = port then some b else if b = port then some a else none)
    other.getD port

/-- The chip that a flight is bound for is lost on this chip; one in transit, when both ports of its direction are down
(R317). -/
def State.lostFor (s : State) (f : Flight) (port : Nat) : Bool :=
  match f.body with
  | .transit _ _ _ _ => !(s.port port).up && !(s.port (s.livePort f port)).up
  | _ =>
    match f.home, f.rank? with
    | some _, k =>
      (!(s.port port).up && !(s.port (s.livePort f port)).up) || s.hub.geom.isNone
        || (k.bind (s.ctx f.ctx).rankEnt).any (fun e => s.hub.lost.contains e.chipId)
    | none, some k => s.chipLost f.ctx k
    | none, none => true

/-- An earlier reply stands at the same egress port (R232, 18 R311). -/
def State.behindAtPort (s : State) (f : Flight) (port : Nat) : Bool :=
  f.reply && s.flights.any (fun g => g.reply && g.goal == .egress port && g.arrived && g.comesBefore f)

/-- The way that an output and its lane make. -/
def wayOf (o : Bool × Bool) (esc : Bool) : RouteWay :=
  if esc then .escape else if o.1 then .adaptiveX else .adaptiveY

/-- A router takes a flight one step on (R230, R232). A request at an input enters an output buffer, by the way that R230
gives it, or waits; one in a buffer, and a reply, crosses its link in the lane's order. At the egress router, what needs no
remote-table entry leaves the chip. -/
def execQuadRouterForward (id : Nat) (way : RouteWay) (s : State) : Out1 :=
  match s.flight? id with
  | some f =>
    match f.stage with
    | .lane x y inX up esc =>
      if s.aheadOf f x y (inX, up) esc then s.idle "an earlier message crosses the lane first"
      else if !s.laneTakes f x y (inX, up) then s.idle "the lane is full in this cycle"
      else .next (s.cross f x y (inX, up) esc)
    | .router x y esc =>
      match f.dimOutput x y with
      | some out =>
        if f.reply then
          if s.aheadOf f x y out false then s.idle "an earlier reply crosses the lane first"
          else if !s.laneTakes f x y out then s.idle "the lane is full in this cycle"
          else .next (s.cross f x y out false)
        else
          match s.outputFor f x y esc with
          | some (o, e) =>
            if way = wayOf o e then
              let (n, s) := s.fresh
              .next (s.setFlight { f with stage := .lane x y o.1 o.2 e, arr := n })
            else s.idle "the request takes another way"
          | none => s.idle "no output has room: the request waits"
      | none =>
        match f.goal with
        | .egress port =>
          if f.needsEntry then s.idle "it takes a remote-table entry first"
          else if s.lostFor f port then .next (s.dropFlight id)
          else if (s.port port).up then
            if s.behindAtPort f port then s.idle "an earlier reply leaves first"
            else if s.maySend port f 0 then .next ((s.dropFlight id).sendUnit port f 0)
            else s.idle "the port has no key bank or no room"
          else
            let q := s.livePort f port
            let dst := torusPortXY q
            .next (s.setFlight { f with goal := .egress q, dx := dst.1, dy := dst.2 })
        | _ => s.idle "it has arrived"
    | _ => s.idle "it is not at a router"
  | none => s.idle "no such flight"

/-! Die-to-die links (11 R229, 21 R358). -/

/-- The die whose health counters take a link's retries: the lower of its pair (log 24). -/
def linkDie (link : Nat) : Nat := if link / 16 = 1 then 2 else if link / 16 = 3 then 1 else 0

/-- The direction of a flight on a link: towards the higher-numbered die of the pair. -/
def linkUp (link x y : Nat) : Bool :=
  dieAt x y == (if link / 16 = 0 then 1 else if link / 16 = 1 then 3 else if link / 16 = 2 then 2 else 3)

def Link.fails (l : Link) (up : Bool) : Nat := if up then l.failsUp else l.failsDown
def Link.setFails (l : Link) (up : Bool) (n : Nat) : Link :=
  if up then { l with failsUp := n } else { l with failsDown := n }

/-- A frame of one direction of a link: delivered when its CRC holds; otherwise it is sent again, a corrected error of
structure 10 (21 R352). Sixteen retries of one frame that fail after its first sending are reported (R229). -/
def State.linkFrame (s : State) (link : Nat) (up crcOk : Bool) : Out1 :=
  let l := s.linkAt link
  if l.dead then s.idle "the link has failed"
  else if !crcOk then
    let n := l.fails up + 1
    let l := { l.setFails up n with report := l.report || decide (17 ≤ n) }
    .next ((s.setLink link l).softError (linkDie link) 10 false)
  else
    let s := s.setLink link (l.setFails up 0)
    .next { s with flights := s.flights.map (fun f =>
      match f.stage with
      | .link k x y esc =>
        if k = link ∧ linkUp link x y = up then { f with stage := .router x y esc, cyc := s.clock } else f
      | _ => f) }

/-- D2D_FRAME_RECEIVE: numbers 0 to 63 are the links' frames towards the lower-numbered die, 64 to 127 those towards the
higher-numbered one. -/
def execD2dFrameReceive (link : Nat) (crcOk : Bool) (s : State) : Out1 :=
  if 128 ≤ link then s.idle "there are 64 links" else s.linkFrame (link % 64) (decide (64 ≤ link)) crcOk

/-- A fault of kind F in every context that is not FREE. -/
def State.fatalAll (s : State) (code det : Nat) : State :=
  (List.range Config.nCtx).foldl (fun s c =>
    match (s.ctx c).st with
    | .free => s
    | _ => s.fatal .hub c code { lcore := 1023, unit := 10, det := det }) s

/-- HALF bit of a link: one for each pair and edge (21 Table 21-5). -/
def halfBit (link : Nat) : Nat := 2 * (link / 16) + link % 16 / 8

/-- The report of 16 failed retries reaches the hub: the link goes to half rate, and one at half rate has failed
(R229, 21 R358). -/
def execLinkHalfRate (link : Nat) (s : State) : Out1 :=
  let l := s.linkAt link
  if !l.report ∨ l.dead then s.idle "fewer than 16 retries have failed"
  else if l.half then
    let s := (s.setLink link { l with dead := true, report := false }).setHub { s.hub with linkFailed := some link }
    .next (s.fatalAll fFabric link)
  else
    let s := s.setLink link { l with half := true, failsUp := 0, failsDown := 0, report := false }
    let h := s.hub.health
    .next (s.setHealth { h with half := Nat.lor h.half (2 ^ halfBit link), replace := true, rwhy := Nat.lor h.rwhy 2 })

/-! Egress (18 R316, R317). -/

/-- The lowest entry of a port's remote table that is free. One whose genuine reply may still come is kept apart, so that the
reply meets no other request (R317, log 47). -/
def Port.freeEntry (p : Port) : Option Nat :=
  (List.range (min 4096 (p.remote.length + p.owed.length + 1))).find? (fun k =>
    (p.remote.get? k).isNone && !p.owed.contains k)

/-- A request at its egress router takes a remote-table entry and leaves, or is answered for a lost chip. -/
def execRemoteTableEntry (id : Nat) (s : State) : Out1 :=
  match s.flight? id with
  | some f =>
    match f.goal with
    | .egress port =>
      if !f.arrived || !f.needsEntry then s.idle "it is not at its egress router"
      else if s.lostFor f port then .next (s.synthLost f (torusPortXY port))
      else if !(s.port port).up then
        let q := s.livePort f port
        let dst := torusPortXY q
        .next (s.setFlight { f with goal := .egress q, dx := dst.1, dy := dst.2 })
      else
        match (s.port port).freeEntry with
        | none => s.idle "the remote table is full"
        | some e =>
          if !s.maySend port f (4096 * port + e) then s.idle "the port has no key bank or no room"
          else
          let s := s.sendUnit port f (4096 * port + e)
          let p := s.port port
          let s := s.setPort port { p with remote := p.remote.put e id }
          .next (s.setFlight { f with stage := .remote port e })
    | _ => s.idle "it does not leave the chip"
  | none => s.idle "no such flight"

/-- Retires an entry: the flight that holds it. The reply of an entry that was retired before is discarded (R317). -/
def State.retireEntry (s : State) (eidx : Nat) : Option Flight × State :=
  let port := eidx / 4096
  let p := s.port port
  match p.remote.get? (eidx % 4096) with
  | some fid => (s.flight? fid, (s.setPort port { p with remote := p.remote.del (eidx % 4096) }).dropFlight fid)
  | none => (none, s.setPort port { p with owed := p.owed.filter (fun k => k != eidx % 4096) })

/-- Answers every entry whose chip has become lost (R317). -/
def State.sweepLost (s : State) : State :=
  let gone := s.flights.filter (fun f =>
    match f.stage with
    | .remote port _ => s.lostFor f port
    | _ => false)
  gone.foldl (fun s f =>
    match f.stage with
    | .remote port e =>
      let p := s.port port
      (s.setPort port { p with remote := p.remote.del e, owed := p.owed ++ [e] }).synthLost f (torusPortXY port)
    | _ => s) s

/-! Ingress (18 R312 to R316). -/

def ringOfPeer : PeerRing → RingOp
  | .push v => .push v
  | .pop => .pop
  | .adv n => .adv n
  | .wait n k => .wait n k

/-- A request that a peer made: its physical address is fixed, and no region of this chip gave it. -/
def peerReq (op : MemOp) (c va pa n : Nat) (data : List Byte) (expect : Word) (ans : Answer) (ring : Option RingReq) :
    MemReq where
  op := op
  ctx := c
  va := va
  n := n
  data := data
  expect := expect
  src := none
  region := 999
  page := 0
  target := some (.here pa)
  ans := ans
  ring := ring
  pfSent := false

/-- A flight that starts at a torus port; a peer's unit keeps the coordinate that it came from. -/
def State.enter (s : State) (src : Nat × Nat) (home : Option (Nat × Nat × Nat)) (cls : Bool) (who : Who) (opId : Nat) (vn1 : Bool)
    (body : Body) (goal : Goal) (dst : Nat × Nat) : State :=
  (s.launchFlight { mkFlight who opId vn1 body goal src dst with home := home, inp := inpUp, vc := cls }).2

/-- A unit for this chip enters its fabric at a port, in its virtual-channel class (R311). -/
def State.ingress (s : State) (port : Nat) (home : Nat × Nat × Nat) (cls : Bool) (u : PeerUnit) : State :=
  let src := torusPortXY port
  match u with
  | .msg chip e m =>
    let c := m.hdr.ctx.toNat
    let x := s.ctx c
    let t : Track := if m.hdr.kind = 1 then .none else .peer chip e port
    let who := { Who.zero with ctx := c, p := 4 * quadAt src.1 src.2 }
    let refuse (s : State) : State :=
      match t with
      | .none => s
      | _ =>
        s.answerPeer { mkFlight who 0 true (.msg m t) .owner src src with home := some home } who
          (.ack t 3 0 0 0 chip 0) src (some inpUp)
    match x.st with
    | .free | .ending => refuse s
    | _ =>
      if m.hdr.dcore.toNat = 1023 then
        let d := dieAt src.1 src.2
        s.enter src (some home) cls who 0 (m.hdr.kind == 1) (.msg m t) (.hub d) (cornerXY d)
      else
        match x.lcs.get? m.hdr.dcore.toNat with
        | some l => s.enter src (some home) cls who 0 (m.hdr.kind == 1) (.msg m t) (.core l.pos) (xyOfCore l.pos)
        | none => refuse s
  | .req chip e c op pa n data expect more =>
    let r := { peerReq op c 0 pa n data expect (.peer chip e port) none with
      later := more.map (fun m => (m.1, .here m.2)) }
    s.enter src (some home) cls { Who.zero with ctx := c } e false (.req r) .owner (ownerXY pa)
  | .watch chip e c lcore pa va hidx value =>
    let r := peerReq .watch c va pa 8 [] value (.peer chip e port) none
    s.enter src (some home) cls { Who.zero with ctx := c, lcore := lcore, hidx := hidx } e false (.req r) .owner (ownerXY pa)
  | .unwatch chip e c lcore pa va =>
    let r := peerReq .unwatch c va pa 8 [] 0 (.peer chip e port) none
    s.enter src (some home) cls { Who.zero with ctx := c, lcore := lcore } e false (.req r) .owner (ownerXY pa)
  | .ring chip e c lcore op pa va =>
    let r := peerReq .write c va pa 64 [] 0 (.peer chip e port) (some ⟨ringOfPeer op, 0, 0, 0⟩)
    s.enter src (some home) cls { Who.zero with ctx := c, lcore := lcore, p := chip } e false (.req r) .owner (ownerXY pa)
  | .wput c lcore key ident note =>
    match (s.ctx c).lcs.get? lcore with
    | some l =>
      s.enter src (some home) cls { Who.zero with ctx := c } 0 false (.wput key ident note (s.ctx c).desc.rank lcore) (.core l.pos)
        (xyOfCore l.pos)
    | none => s
  | .ringWake c lcore k gd cur =>
    match (s.ctx c).lcs.get? lcore with
    | some l =>
      s.enter src (some home) cls { Who.zero with ctx := c } 0 false (.ringWake lcore k gd cur) (.core l.pos) (xyOfCore l.pos)
    | none => s
  | .barrier chip e c lcore n count value hidx tag =>
    s.enter src (some home) cls { Who.zero with ctx := c } e false (.barrier ⟨c, 5, n, count, value, chip, lcore, hidx, tag⟩) .barrier
      (cornerXY 0)
  | .memReply e mst data =>
    match s.retireEntry e with
    | (some f, s) =>
      match f.body with
      | .req r => s.reply f src (.rep r mst data) r.ans (some inpUp) cls
      | _ => s
    | (none, s) => s
  | .ack e rstat stamp =>
    match s.retireEntry e with
    | (some f, s) =>
      match f.body with
      | .msg m t =>
        if !t.told then s
        else
          s.reply f src (.ack t rstat stamp m.hdr.midx.toNat f.opId m.hdr.dchip.toNat m.hdr.dcore.toNat) (.ack none)
            (some inpUp) cls
      | .barrier _ =>
        if rstat = 0 then s else s.reply f src (.ack .send rstat 0 0 f.opId 0 1023) (.ack none) (some inpUp) cls
      | _ => s
    | (none, s) => s
  | .ringRep e gd cur bad =>
    match s.retireEntry e with
    | (some f, s) =>
      match f.body with
      | .req r =>
        match r.ring with
        | some rr => s.reply f src (.ringRep rr gd cur bad) (.ack none) (some inpUp) cls
        | none => s
      | _ => s
    | (none, s) => s
  | .via _ _ _ _ | .again _ | .retired | .barnEntry _ _ | .barnAck _ _ _ _ _ | .barnRead _ _ | .barnData _ _ | .barnEnd _ _ => s

/-- The link of a port crosses the wrap of its dimension (R310, R311). -/
def Geom.wraps (g : Geom) (port : Nat) : Bool :=
  let edge (k n : Nat) (up : Bool) : Bool := if up then k + 1 == n else k == 0
  if port = 3 ∨ port = 9 then edge g.x g.px true
  else if port = 0 ∨ port = 6 then edge g.x g.px false
  else if port = 7 ∨ port = 10 then edge g.y g.py true
  else if port = 1 ∨ port = 4 then edge g.y g.py false
  else if port = 2 ∨ port = 5 then edge g.z g.pz true
  else edge g.z g.pz false

/-- Frames from a sequence number on are sent again, bit for bit (R320). -/
def State.resend (s : State) (port fseq : Nat) : State :=
  ((s.port port).unacked.dropWhile (fun e => e.1.fseq != fseq)).foldl
    (fun s e => (s.emit (.trailer port e.1)).emit e.2) s

/-- A unit arrives: for this chip, to be taken on through it in dimension order (R311), or for the port itself. -/
def State.arriveUnit (s : State) (port : Nat) (u : PeerUnit) : State :=
  match u, s.hub.geom with
  | .via (x, y, z) home cls v, some g =>
    let cls := cls != g.wraps port
    match g.direction x y z with
    | none => s.ingress port home cls v
    | some d =>
      let src := torusPortXY port
      let out := s.pickPort (dirPorts d) (replyUnit v) src
      let f := mkFlight Who.zero 0 (replyUnit v) (.transit x y z (.via (x, y, z) home cls v)) (.egress out) src (torusPortXY out)
      (s.launchFlight { f with inp := inpUp, vc := cls }).2
  | .again n, _ => s.resend port n
  | .retired, _ =>
    let p := s.port port
    s.setPort port { p with rx := p.rx.put (!p.rx.kg) none }
  | .barnEntry slot e, some _ => s.barnTake slot e
  | .barnAck holder c q n marker, some _ => s.barnAcked (some holder) c q n marker
  | .barnRead reader client, some _ => s.barnAnswer reader client
  | _, _ => s

/-- The bank that a received frame's KG names is loaded. -/
def Port.bank (p : Port) (kg : Bool) : Option Nat := p.rx.bank kg

/-- The checks of a frame (R320), in order: FEC, CRC, TAG, equal KG bits, a loaded bank. -/
def Port.passes (p : Port) (f : Frame) : Bool := f.fecOk && f.crcOk && f.tagOk && f.kgEqual && (p.bank f.kg).isSome

/-- Frames that an acknowledgement covers leave the retry buffer. -/
def ackedFrames (l : List (Trailer × Out)) (ack : Nat) : List (Trailer × Out) :=
  if l.any (fun e => e.1.fseq = ack) then (l.dropWhile (fun e => e.1.fseq != ack)).drop 1 else l

/-- A port after a frame that passed its checks: what it acknowledges and credits, its sequence, its bank. -/
def Port.received (p : Port) (f : Frame) (now : Nat) : Port :=
  let n (vn1 : Bool) : Nat := ((f.units.filter (fun u => replyUnit u == vn1)).map unitFlits).sum
  { p with
    retries := 0
    lastGood := now
    unacked := ackedFrames p.unacked f.ack
    used0 := p.used0 - f.cred0
    used1 := p.used1 - f.cred1
    freed0 := p.freed0 + n false
    freed1 := p.freed1 + n true
    rxSeq := (f.fseq + 1) % 65536
    rx := { p.rx.put f.kg (some (f.fcnt + 1)) with kg := f.kg } }

/-- A unit of the barn network (20 R331). -/
def barnUnit : PeerUnit → Bool
  | .barnEntry _ _ | .barnAck _ _ _ _ _ | .barnRead _ _ | .barnData _ _ | .barnEnd _ _ => true
  | _ => false

/-- A unit travels on the ports of its network: barn units on the barn ports, 12 and 13, management on each. -/
def unitOn (port : Nat) : PeerUnit → Bool
  | .again _ | .retired => true
  | u => barnUnit u == decide (12 ≤ port)

/-- A frame's checks (R320). One that fails is asked for again, and every later frame after it; one that is not the next of
its sequence has been delivered already, or follows one that failed. -/
def execDruntasyFrameReceive (port : Nat) (f : Frame) (s : State) : Out1 :=
  let p := s.port port
  if !p.up || decide (14 ≤ port) || decide (25 < (f.units.map unitFlits).sum) || !f.units.all (unitOn port) then
    s.idle "no such frame arrives there"
  else if !p.passes f then
    -- retries of one frame: the one that is expected next (R317)
    let n := if f.fseq = p.rxSeq then p.retries + 1 else p.retries
    let s := (s.setPort port { p with retries := n }).emit (.again port p.rxSeq)
    if f.fecOk && f.crcOk && !f.tagOk then
      let h := s.hub.health
      .next (s.setHub { s.hub with health := { h with integrity := h.integrity + 1 } })
    else if !f.fecOk || !f.crcOk then .next (s.softError (min (port / 3) 4) 10 false)
    else .next s
  else if f.fseq ≠ p.rxSeq then .next (s.setPort port { p with lastGood := s.clock })
  else
    let s := f.units.foldl (fun s u => s.arriveUnit port u) (s.setPort port (p.received f s.clock))
    .next (if 12 ≤ port then s.barnFlush else s)

/-! Ports (18 R317, R319). -/

/-- A frame at least every microsecond: every frame is a heartbeat. -/
def execHeartbeatFrame (port : Nat) (s : State) : Out1 :=
  if !(s.port port).up || decide (14 ≤ port) then s.idle "the port is down"
  else if (s.port port).tx.inUse.isSome && !(s.port port).keyed then s.idle "the key bank takes no more frames"
  else .next (s.sendFrame port none (.heartbeat port))

/-- A port goes down; chips that become lost with it are answered for. What its neighbour on the barn network has not
acknowledged goes by the other barn port (20 R331). -/
def State.takeDown (s : State) (port : Nat) : State :=
  let p := s.port port
  let s := (s.setPort port { p with up := false, downAt := s.clock }).sweepLost
  if 12 ≤ port then
    ((s.setPort port { s.port port with unacked := [] }).setHub { s.hub with barnQ := p.barnUnits ++ s.hub.barnQ }).barnFlush
  else s

/-- Cycles in 8 ms at 2.4 GHz. -/
def silenceCycles : Nat := 19200000

/-- What takes a port down (R317): no good frame for 8 ms, or 16 retries of one frame that failed after its first
sending. -/
def State.portFails (s : State) (port : Nat) : Bool :=
  let p := s.port port
  decide (p.lastGood + silenceCycles ≤ s.clock) || decide (17 ≤ p.retries)

/-- A peer's reset takes a port that faces it down (R317). -/
def State.peerReset (s : State) (port : Nat) : Out1 :=
  if !(s.port port).up || decide (14 ≤ port) then s.idle "the port is down already" else .next (s.takeDown port)

def execPortDown (port : Nat) (s : State) : Out1 :=
  if !(s.port port).up || decide (14 ≤ port) then s.idle "the port is down already"
  else if s.portFails port then .next (s.takeDown port)
  else s.idle "frames still pass"

/-- A port is trained again: its frame sequence and its credits begin anew (R319). The entries of its remote table stay until
a reply retires them, which may come by either port (R316). -/
def execDruntasyPortUp (port : Nat) (s : State) : Out1 :=
  let p := s.port port
  if p.up || decide (14 ≤ port) then s.idle "the port is up"
  else .next (s.setPort port { Port.reset with up := true, lastGood := s.clock, remote := p.remote, owed := p.owed })

/-- A port has stayed down for 24 hours while its neighbour is up, as the outside says (21 Table 21-6). -/
def execPortDownFor24Hours (port : Nat) (s : State) : Out1 :=
  let p := s.port port
  if p.up || p.downDay || decide (14 ≤ port) || decide (s.clock < p.downAt + dayCycles) then s.idle "the port has not stayed down"
  else .next ((s.setPort port { p with downDay := true }).setReplace 4)

/-! Link keys (18 R321). -/

/-- A management exchange of a port, whichever side asks: due in one phase, leading to the next. -/
def State.mgmtStep (s : State) (port : Nat) (ok : Phase → Bool) (nxt : Phase) (what : Nat) : Out1 :=
  let p := s.port port
  if !p.up || !ok p.phase || decide (14 ≤ port) then s.idle "the session is not at that message"
  else .next ((s.setPort port { p with phase := nxt }).emit (.mgmt port what))

def execGetVersion (port : Nat) (s : State) : Out1 := s.mgmtStep port (fun _ => true) .version 0
def execGetCapabilities (port : Nat) (s : State) : Out1 := s.mgmtStep port (· == .version) .caps 1
def execNegotiateAlgorithms (port : Nat) (s : State) : Out1 := s.mgmtStep port (· == .caps) .algs 2
def execGetDigests (port : Nat) (s : State) : Out1 := s.mgmtStep port (· == .algs) .digests 3
def execGetCertificate (port : Nat) (s : State) : Out1 :=
  s.mgmtStep port (fun x => x == .algs || x == .digests) .cert 4
/-- KEY_EXCHANGE, once each side has given its certificate: the authentication is mutual. -/
def execKeyExchange (port : Nat) (s : State) : Out1 := s.mgmtStep port (· == .cert) .keyEx 5

/-- FINISH: the session's first keys, one for each direction, go into bank A, its frame counter at 0. On a barn port the
journal's entries may then leave. -/
def execFinish (port : Nat) (s : State) : Out1 :=
  let p := s.port port
  if !p.up || p.phase != .keyEx || decide (14 ≤ port) then s.idle "no key exchange has been made"
  else
    let first : KeyBanks := ⟨some 0, none, false⟩
    let s := (s.setPort port { p with phase := .active, tx := first, rx := first, rekeying := .none }).emit (.mgmt port 6)
    .next (if 12 ≤ port then s.barnFlush else s)

/-- The hub begins a rekey on the host's command; before FCNT reaches 2^36 it has begun one itself (`sendFrame`), and no frame
takes the counter there (`Port.keyed`). -/
def execRekey (port : Nat) (s : State) : Out1 :=
  let p := s.port port
  if p.phase != .active || p.rekeying != .none then s.idle "no rekey can begin"
  else .next (s.setPort port { p with rekeying := .begun })

/-- KEY_UPDATE, as requester once a rekey has begun here, or as responder to the peer's: new secrets of each direction go into
its idle bank, its counter at 0, and bank ready is reported. -/
def execKeyUpdate (port : Nat) (s : State) : Out1 :=
  let p := s.port port
  if !p.up || p.phase != .active || (p.rekeying != .begun && p.rekeying != .none) then s.idle "a rekey is under way"
  else
    let s := s.setPort port { p with
      rekeying := .loaded
      tx := p.tx.put (!p.tx.kg) (some 0)
      rx := p.rx.put (!p.rx.kg) (some 0) }
    .next ((if p.rekeying = .begun then s.emit (.mgmt port 7) else s).emit (.mgmt port 11))

/-- The peer's bank-ready report: KG names the new bank from the next frame on. -/
def execBankReady (port : Nat) (s : State) : Out1 :=
  let p := s.port port
  if p.rekeying != .loaded then s.idle "the new bank is not loaded"
  else
    let s := s.setPort port { p with rekeying := .switched, tx := { p.tx with kg := !p.tx.kg } }
    .next (if 12 ≤ port then s.barnFlush else s)

/-- Bank retired, once every frame that carries the old KG has been acknowledged: the old bank is erased. -/
def execBankRetired (port : Nat) (s : State) : Out1 :=
  let p := s.port port
  if p.rekeying != .switched then s.idle "the old bank is in use"
  else if p.unacked.any (fun e => e.1.kg != p.tx.kg) then s.idle "a frame with the old KG is not acknowledged"
  else .next ((s.setPort port { p with rekeying := .none, tx := p.tx.put (!p.tx.kg) none }).emit (.mgmt port 8))

def execHeartbeat (port : Nat) (s : State) : Out1 := s.mgmtStep port (· == .active) .active 9

/-- END_SESSION: the keys go with the session. -/
def execEndSession (port : Nat) (s : State) : Out1 :=
  let p := s.port port
  if !p.up || p.phase != .active then s.idle "no session is active"
  else
    .next ((s.setPort port { p with
      phase := .none, tx := KeyBanks.none, rx := KeyBanks.none, rekeying := .none }).emit (.mgmt port 10))

/-- A bank whose frame counter reaches 2^48 takes its port down. -/
def execBankFcntLimit (port : Nat) (s : State) : Out1 :=
  let p := s.port port
  let full (n : Option Nat) : Bool := n.any (fun k => decide (2 ^ 48 ≤ k))
  if p.up && (full p.tx.bankA || full p.tx.bankB || full p.rx.bankA || full p.rx.bankB) then
    .next (s.takeDown port)
  else s.idle "no bank is at its limit"

end Sys2Proof.Machine
end

