-- ==== Sys2Proof/Machine/Pattern.lean ====
section
/-! DEFINITION. Pattern code (09 R183 to R193, R197, R201): words, construction, masks, windows, and the checks of a
slot's two copies. -/

namespace Sys2Proof.Machine

open Sys2Proof

/-! Words (R185 to R187). -/

/-- An operand of a word: an index register or a constant. -/
inductive POp where
  | reg (x : Nat)
  | imm (v : Int)
  deriving DecidableEq, Repr

/-- A decoded pattern-code word (Table 09-3). -/
inductive PWord where
  | nop | full | kron | uni | isect | diff | dup | swap | endr | emit
  | dim (a b : POp)
  | band (a b : POp)
  | dil (a b : POp)
  | blkd (a b : POp)
  | hash (a : POp)
  | offs (a b : POp)
  | clipLo (a b : POp)
  | clipHi (a b : POp)
  | setx (d : Nat) (v : Int)
  | setxh (d v : Nat)
  | addx (d a : Nat) (o : POp)
  | mulx (d a : Nat) (o : POp)
  | lcx (d level : Nat)
  | rep (a : POp)
  | invert (a b : POp)
  deriving DecidableEq, Repr

/-- An operand field with its XF bit; none when a reserved bit is set. -/
def pOperand (xf o : Nat) : Option POp :=
  if xf = 1 then (if o < 16 then some (.reg o) else none) else some (.imm (signedOf 12 o))

/-- A word of layout PN. -/
def pNone (w : Nat) (r : PWord) : Option PWord := if w % 2 ^ 26 = 0 then some r else none

/-- A word of layout PG. -/
def pTwo (w : Nat) (f : POp → POp → PWord) : Option PWord :=
  match pOperand (bitsOf w 25 25) (bitsOf w 24 13), pOperand (bitsOf w 12 12) (bitsOf w 11 0) with
  | some a, some b => some (f a b)
  | _, _ => none

/-- A word of layout PG whose second operand is not used. -/
def pOne (w : Nat) (f : POp → PWord) : Option PWord :=
  if bitsOf w 12 0 ≠ 0 then none else (pOperand (bitsOf w 25 25) (bitsOf w 24 13)).map f

/-- A word of layout PA. -/
def pArith (w : Nat) (f : Nat → Nat → POp → PWord) : Option PWord :=
  if bitsOf w 17 13 ≠ 0 then none
  else (pOperand (bitsOf w 12 12) (bitsOf w 11 0)).map (f (bitsOf w 25 22) (bitsOf w 21 18))

/-- A pattern-code word; none for an illegal one. -/
def pDecode (w : Nat) : Option PWord :=
  match bitsOf w 31 26 with
  | 0x00 => pNone w .nop
  | 0x01 => pTwo w .dim
  | 0x02 => pNone w .full
  | 0x03 => pTwo w .band
  | 0x04 => pTwo w .dil
  | 0x05 => pTwo w .blkd
  | 0x06 => pOne w .hash
  | 0x07 => pNone w .kron
  | 0x08 => pNone w .uni
  | 0x09 => pNone w .isect
  | 0x0A => pNone w .diff
  | 0x0B => pTwo w .offs
  | 0x0C => pTwo w .clipLo
  | 0x0D => pTwo w .clipHi
  | 0x0E => pNone w .dup
  | 0x0F => pNone w .swap
  | 0x10 => some (.setx (bitsOf w 25 22) (signedOf 22 (bitsOf w 21 0)))
  | 0x11 => if bitsOf w 21 16 = 0 then some (.setxh (bitsOf w 25 22) (bitsOf w 15 0)) else none
  | 0x12 => pArith w .addx
  | 0x13 => pArith w .mulx
  | 0x14 => if bitsOf w 21 2 = 0 then some (.lcx (bitsOf w 25 22) (bitsOf w 1 0)) else none
  | 0x15 => pOne w .rep
  | 0x16 => pNone w .endr
  | 0x17 => pTwo w .invert
  | 0x18 => pNone w .emit
  | _ => none

/-! Masks (R188, R189). -/

/-- Extent of a mask. -/
def maskExtent : Mask → Nat × Nat
  | .full ek ej => (ek, ej)
  | .band ek ej _ _ => (ek, ej)
  | .dil ek ej _ _ => (ek, ej)
  | .blkd ek ej _ _ => (ek, ej)
  | .hash ek ej _ _ _ => (ek, ej)
  | .kron u t => ((maskExtent u).1 * (maskExtent t).1, (maskExtent u).2 * (maskExtent t).2)
  | .uni u _ => maskExtent u
  | .isect u _ => maskExtent u
  | .diff u _ => maskExtent u
  | .offs t _ _ => maskExtent t
  | .clipLo t _ _ => maskExtent t
  | .clipHi t _ _ => maskExtent t

/-- A position within an extent. -/
def inExtent (e : Nat × Nat) (k j : Int) : Bool :=
  decide (0 ≤ k) && decide (k < e.1) && decide (0 ≤ j) && decide (j < e.2)

/-- Whether (k, j) is present in a mask of a slot with a seed. -/
def maskHas (seed : Word) : Mask → Int → Int → Bool
  | .full ek ej, k, j => inExtent (ek, ej) k j
  | .band ek ej lo hi, k, j => inExtent (ek, ej) k j && decide (lo ≤ j - k) && decide (j - k ≤ hi)
  | .dil ek ej s o, k, j => inExtent (ek, ej) k j && (j - k - o) % (s : Int) == 0
  | .blkd ek ej bk bj, k, j => inExtent (ek, ej) k j && k / (bk : Int) == j / (bj : Int)
  | .hash ek ej t bsk bsj, k, j =>
    inExtent (ek, ej) k j
      && decide ((rngVal seed (word64 (k.toNat / 2 ^ bsk * 2 ^ 32 + j.toNat / 2 ^ bsj))).toNat / 2 ^ 32 < t)
  | .kron u t, k, j =>
    let e := maskExtent t
    inExtent (maskExtent u) (k / (e.1 : Int)) (j / (e.2 : Int)) && maskHas seed u (k / (e.1 : Int)) (j / (e.2 : Int))
      && maskHas seed t (k % (e.1 : Int)) (j % (e.2 : Int))
  | .uni u t, k, j => maskHas seed u k j || maskHas seed t k j
  | .isect u t, k, j => maskHas seed u k j && maskHas seed t k j
  | .diff u t, k, j => maskHas seed u k j && !maskHas seed t k j
  | .offs t dk dj, k, j => inExtent (maskExtent t) k j && maskHas seed t (k - dk) (j - dj)
  | .clipLo t a b, k, j => maskHas seed t k j && decide (a ≤ k) && decide (b ≤ j)
  | .clipHi t a b, k, j => maskHas seed t k j && decide (k < a) && decide (j < b)

/-! Term tables (R193). -/

/-- The mask of a table's entry, given those of the entries before it. -/
def Term.mask (ms : List Mask) : Term → Mask
  | .full ek ej => .full ek ej
  | .band ek ej lo hi => .band ek ej lo hi
  | .dil ek ej s o => .dil ek ej s o
  | .blkd ek ej bk bj => .blkd ek ej bk bj
  | .hash ek ej t bsk bsj => .hash ek ej t bsk bsj
  | .kron u t => .kron (maskAt u) (maskAt t)
  | .uni u t => .uni (maskAt u) (maskAt t)
  | .isect u t => .isect (maskAt u) (maskAt t)
  | .diff u t => .diff (maskAt u) (maskAt t)
  | .offs t dk dj => .offs (maskAt t) dk dj
  | .clipLo t k j => .clipLo (maskAt t) k j
  | .clipHi t k j => .clipHi (maskAt t) k j
where
  maskAt (n : Nat) : Mask := (ms[n]?).getD (.full 0 0)

/-- The masks of a table's entries. -/
def tableMasks (ts : List Term) : List Mask := ts.foldl (fun ms t => ms ++ [t.mask ms]) []

/-- The pattern of a slot: the last entry of its table, since a construction ends with one mask on its stack, the one that
it created last. -/
def PSlot.mask (x : PSlot) : Option Mask := (tableMasks x.terms).getLast?

/-! Construction (R190 to R194). -/

/-- The generator context (Table 09-1), with the words executed, the generators' terms made and the table so far. The stack
holds each mask with its number in the table. -/
structure Gen where
  pc : Nat
  xs : List Nat
  /-- Open loops, outermost first: word after REP, passes, iteration. -/
  loops : List (Nat × Nat × Nat)
  ek : Nat
  ej : Nat
  bsk : Nat
  bsj : Nat
  stack : List (Nat × Mask)
  inv : Bool
  done : Nat
  terms : Nat
  table : List Term
  deriving DecidableEq, Repr

def Gen.start : Gen := ⟨0, List.replicate 16 0, [], 0, 0, 0, 0, [], true, 0, 0, []⟩

def Gen.reg (g : Gen) (x : Nat) : Nat := (g.xs[x]?).getD 0
def Gen.setReg (g : Gen) (x : Nat) (v : Nat) : Gen := { g with xs := g.xs.set x (v % 2 ^ 32) }

/-- An operand read as unsigned: an immediate must not be negative. -/
def Gen.nat (g : Gen) : POp → Option Nat
  | .reg x => some (g.reg x)
  | .imm v => if v < 0 then none else some v.toNat

/-- An operand read as signed. -/
def Gen.int (g : Gen) : POp → Int
  | .reg x => signedOf 32 (g.reg x)
  | .imm v => v

/-- Two unsigned operands within limits. -/
def Gen.pair (g : Gen) (a b : POp) (hi : Nat) : Option (Nat × Nat) :=
  match g.nat a, g.nat b with
  | some x, some y => if 1 ≤ x ∧ x ≤ hi ∧ 1 ≤ y ∧ y ≤ hi then some (x, y) else none
  | _, _ => none

/-- A new entry of the table, whose mask goes onto a stack; the next word follows. -/
def Gen.add (g : Gen) (t : Term) (rest : List (Nat × Mask)) : Gen :=
  { g with
    table := g.table ++ [t]
    stack := (g.table.length, t.mask (tableMasks g.table)) :: rest
    pc := g.pc + 1 }

/-- A generator pushes its mask: a reason of Table 09-7, or the context after it. -/
def Gen.push (g : Gen) (t : Term) : Except Nat Gen :=
  if g.ek = 0 ∨ g.ej = 0 then .error 7
  else if 8 ≤ g.stack.length then .error 5
  else if 64 ≤ g.terms then .error 8
  else .ok ({ g with terms := g.terms + 1 }.add t g.stack)

/-- A composition of the two top masks of equal extents. -/
def Gen.compose (g : Gen) (f : Nat → Nat → Term) : Except Nat Gen :=
  match g.stack with
  | t :: u :: r => if maskExtent t.2 = maskExtent u.2 then .ok (g.add (f u.1 t.1) r) else .error 7
  | _ => .error 5

/-- A change of the top mask. -/
def Gen.modify (g : Gen) (f : Nat → Term) : Except Nat Gen :=
  match g.stack with
  | t :: r => .ok (g.add (f t.1) r)
  | [] => .error 5

/-- The word after the ENDR that matches the REP whose body the words are; `d` levels are open within it. -/
def afterLoop : List PWord → Nat → Nat → Nat
  | [], _, pc => pc
  | .rep _ :: t, d, pc => afterLoop t (d + 1) (pc + 1)
  | .endr :: t, d, pc => if d = 0 then pc + 1 else afterLoop t (d - 1) (pc + 1)
  | _ :: t, d, pc => afterLoop t d (pc + 1)

/-- One word, but for EMIT. -/
def Gen.word (ws : List PWord) (g : Gen) : PWord → Except Nat Gen
  | .nop => .ok { g with pc := g.pc + 1 }
  | .full => g.push (.full g.ek g.ej)
  | .band a b => g.push (.band g.ek g.ej (g.int a) (g.int b))
  | .dil a b =>
    match g.nat a with
    | some n => if 1 ≤ n ∧ n ≤ 65536 then g.push (.dil g.ek g.ej n (g.int b)) else .error 4
    | none => .error 4
  | .blkd a b =>
    match g.pair a b 65536 with
    | some (x, y) => g.push (.blkd g.ek g.ej x y)
    | none => .error 4
  | .hash a =>
    let t := match a with
      | .reg x => g.reg x
      | .imm v => (v % 2 ^ 32).toNat
    match g.push (.hash g.ek g.ej t g.bsk g.bsj) with
    | .ok g' => .ok { g' with inv := g'.inv && g.bsk != 0 }
    | .error r => .error r
  | .kron =>
    match g.stack with
    | t :: u :: r =>
      let e := maskExtent (.kron u.2 t.2)
      if 65536 < e.1 ∨ 65536 < e.2 then .error 7 else .ok (g.add (.kron u.1 t.1) r)
    | _ => .error 5
  | .uni => g.compose .uni
  | .isect => g.compose .isect
  | .diff => g.compose .diff
  | .offs a b => g.modify (fun t => .offs t (g.int a) (g.int b))
  | .clipLo a b => g.modify (fun t => .clipLo t (g.int a) (g.int b))
  | .clipHi a b => g.modify (fun t => .clipHi t (g.int a) (g.int b))
  | .dup =>
    match g.stack with
    | t :: r => if 7 ≤ r.length then .error 5 else .ok { g with stack := t :: t :: r, pc := g.pc + 1 }
    | [] => .error 5
  | .swap =>
    match g.stack with
    | t :: u :: r => .ok { g with stack := u :: t :: r, pc := g.pc + 1 }
    | _ => .error 5
  | .dim a b =>
    match g.pair a b 65536 with
    | some (x, y) => .ok { g with ek := x, ej := y, pc := g.pc + 1 }
    | none => .error 4
  | .invert a b =>
    match g.pair a b 15 with
    | some (x, y) => .ok { g with bsk := x, bsj := y, pc := g.pc + 1 }
    | none => .error 4
  | .setx d v => .ok { g.setReg d (v % 2 ^ 32).toNat with pc := g.pc + 1 }
  | .setxh d v => .ok { g.setReg d (v * 2 ^ 16 + g.reg d % 2 ^ 16) with pc := g.pc + 1 }
  | .addx d a o => .ok { g.setReg d ((signedOf 32 (g.reg a) + g.int o) % 2 ^ 32).toNat with pc := g.pc + 1 }
  | .mulx d a o => .ok { g.setReg d ((signedOf 32 (g.reg a) * g.int o) % 2 ^ 32).toNat with pc := g.pc + 1 }
  | .lcx d level =>
    match g.loops[level]? with
    | some l => .ok { g.setReg d l.2.2 with pc := g.pc + 1 }
    | none => .error 6
  | .rep a =>
    match g.nat a with
    | some 0 => .ok { g with pc := afterLoop (ws.drop (g.pc + 1)) 0 (g.pc + 1) }
    | some n =>
      if n ≤ 4096 then .ok { g with loops := g.loops ++ [(g.pc + 1, n, 0)], pc := g.pc + 1 } else .error 4
    | none => .error 4
  | .endr =>
    match g.loops.getLast? with
    | some (start, n, k) =>
      if k + 1 < n then .ok { g with loops := g.loops.dropLast ++ [(start, n, k + 1)], pc := start }
      else .ok { g with loops := g.loops.dropLast, pc := g.pc + 1 }
    | none => .error 6
  | .emit => .error 5

/-- Construction, with the words that it may still execute. -/
def Gen.run (ws : List PWord) : Nat → Gen → Except Nat Gen
  | 0, _ => .error 8
  | fuel + 1, g =>
    match ws[g.pc]? with
    | none => .error 5
    | some .emit => if g.stack.length = 1 then .ok { g with done := g.done + 1 } else .error 5
    | some w =>
      match g.word ws w with
      | .error r => .error r
      | .ok g' => Gen.run ws fuel { g' with done := g'.done + 1 }

/-- Pairing of REP and ENDR, at most four deep (R190). -/
def loopsOk : List PWord → Nat → Bool
  | [], d => d == 0
  | .rep _ :: t, d => decide (d < 4) && loopsOk t (d + 1)
  | .endr :: t, d => decide (0 < d) && loopsOk t (d - 1)
  | _ :: t, d => loopsOk t d

/-- EMIT last and nowhere else (R192). -/
def emitOk : List PWord → Bool
  | [] => false
  | [w] => w == .emit
  | w :: t => w != .emit && emitOk t

/-- The static scan and the construction: a reason of Table 09-7, or what the slot takes. -/
def construct (words : List Nat) : Except Nat Gen :=
  let ds := words.map pDecode
  if ds.any Option.isNone then .error 3
  else
    let ws := ds.filterMap id
    if !loopsOk ws 0 then .error 6
    else if !emitOk ws then .error 5
    else Gen.run ws 4096 Gen.start

/-- A slot loaded with words and a seed. -/
def loadedSlot (words : List Nat) (seed : Word) (g : Gen) : PSlot :=
  let e := (g.stack.head?.map (fun m => maskExtent m.2)).getD (0, 0)
  ⟨true, words.map (BitVec.ofNat 32), seed, g.table, e.1, e.2, g.inv, true, true⟩

/-! Windows (R197). -/

/-- Whether a slot's pattern holds a position; an EMPTY slot holds none (R183). -/
def PSlot.has (x : PSlot) (k j : Nat) : Bool :=
  match x.mask with
  | some m => decide (k < x.ek) && decide (j < x.ej) && maskHas x.seed m k j
  | none => false

/-- The window's present positions in forward order: a position's index is its forward rank. -/
def PSlot.window (x : PSlot) (k0 nk j0 nj : Nat) : List (Nat × Nat) :=
  (List.range nk).flatMap (fun k =>
    ((List.range nj).filter (fun j => x.has (k0 + k) (j0 + j))).map (fun j => (k0 + k, j0 + j)))

/-- The same positions in transposed order (R197). -/
def PSlot.windowT (x : PSlot) (k0 nk j0 nj : Nat) : List (Nat × Nat) :=
  (List.range nj).flatMap (fun j =>
    ((List.range nk).filter (fun k => x.has (k0 + k) (j0 + j))).map (fun k => (k0 + k, j0 + j)))

/-- The position that follows a cursor in forward order (R200). -/
def Cursor.next (c : Cursor) (l : List (Nat × Nat)) : Option (Nat × Nat) :=
  if c.done = 0 then l.head? else l.find? (fun e => decide (c.lk < e.1) || (c.lk == e.1 && decide (c.lj < e.2)))

/-- The cursor after the first `n` positions of an order. -/
def Cursor.after (tro : Bool) (l : List (Nat × Nat)) (n : Nat) : Cursor :=
  match (l.take n).getLast? with
  | some e => ⟨tro, (l.take n).length, e.1, e.2⟩
  | none => ⟨tro, 0, 0, 0⟩

/-! Slots of a context on a quad (R183). -/

def Ctx.pslot (c : Ctx) (q ps : Nat) : PSlot := Tab.get PSlot.empty c.pslots (16 * q + ps)
def State.setPslot (s : State) (c q ps : Nat) (x : PSlot) : State :=
  let k := s.ctx c
  s.setCtx c { k with pslots := k.pslots.put (16 * q + ps) x }

/-! Copies of a slot (R201). -/

/-- Both copies of a slot are checked (R201): a bad copy is rebuilt from a good one and counted. The second component
says that the slot is corrupt. -/
def State.checkSlot (s : State) (c q ps : Nat) : State × Bool :=
  let x := (s.ctx c).pslot q ps
  if x.goodA && x.goodB then (s, false)
  else if x.goodA || x.goodB then
    ((s.setPslot c q ps { x with goodA := true, goodB := true }).softError (dieOfQuad q) 8 false, false)
  else (s, true)

end Sys2Proof.Machine
end

