-- ==== Sys2Proof/Machine/Trans.lean ====
section
/-! DEFINITION. The transcendental functions of 07 R148 and R149, in fixed point with 512 fraction bits: correctly
rounded for bf16 and f16, and for f32 the part's own code held within the bound of Table 07-4 (log 8). -/

namespace Sys2Proof.Machine

open Sys2Proof

/-- Fraction bits. -/
def fxBits : Nat := 512
def fxOne : Nat := 2 ^ 512

/-- ln 2 in fixed point, rounded down. -/
def fxLn2 : Nat :=
  9293584264128987901384440660653081117630633404975079641076009770578364573633075645167623918067512986930843040596952636663673675798576024949780480621393957

/-- Half of pi with 700 fraction bits, rounded down. -/
def halfPi700 : Nat :=
  8262602152594147061287983805487470089013074215260758626837214422111344939587307205780117695449900780326368897062760429324593906749130338293746360149972059569773623052881230514159146586943722109827020060943767293

/-- Taylor sum of e^r from term k on. -/
def expSum (r : Nat) : Nat → Nat → Nat → Nat
  | 0, _, t => t
  | n + 1, k, t => t + expSum r n (k + 1) (t * r / fxOne / (k + 1))

/-- e^r for 0 ≤ r < 1. -/
def fxExp (r : Nat) : Nat := expSum r 110 0 fxOne

/-- Sum z^(2k+1) / (2k + 1) from term k on. -/
def atanhSum (z2 : Nat) : Nat → Nat → Nat → Nat
  | 0, _, _ => 0
  | n + 1, k, t => t / (2 * k + 1) + atanhSum z2 n (k + 1) (t * z2 / fxOne)

/-- ln y for 1 ≤ y < 2. -/
def fxLn (y : Nat) : Nat :=
  let z := (y - fxOne) * fxOne / (y + fxOne)
  2 * atanhSum (z * z / fxOne) 170 0 z

/-- Alternating Taylor sums of the sine and the cosine: term t, then t r^2 / (j (j + 1)). -/
def trigSum (r2 : Nat) : Nat → Nat → Int → Nat → Int
  | 0, _, _, _ => 0
  | n + 1, j, sg, t => sg * (t : Int) + trigSum r2 n (j + 2) (-sg) (t * r2 / fxOne / (j * (j + 1)))

/-- Sine and cosine of 0 ≤ r < pi / 2. -/
def fxSin (r : Nat) : Int := trigSum (r * r / fxOne) 90 2 1 r
def fxCos (r : Nat) : Int := trigSum (r * r / fxOne) 90 1 1 fxOne

/-- n x 2^e as a fixed-point number of `b` fraction bits. -/
def toFixed (b n : Nat) (e : Int) : Nat :=
  let s := e + b
  if 0 ≤ s then n * 2 ^ s.toNat else n / 2 ^ (-s).toNat

/-- A magnitude that no exact code of a format has: just above n x 2^e. -/
def above (neg : Bool) (n : Nat) (e : Int) : XR := .fin neg n e true

def fxSigned (x : Int) : XR := above (x < 0) x.natAbs (-512)

/-- 2^x for x = n x 2^e with a sign. -/
def exp2X (neg : Bool) (n : Nat) (e : Int) : XR :=
  if toFixed 0 n e ≥ 400 then above false 1 (if neg then -400 else 400)
  else
    let x := toFixed 512 n e
    let ip := x / fxOne
    let fp := x % fxOne
    let (k, f) : Int × Nat := if !neg then ((ip : Int), fp) else if fp = 0 then (-(ip : Int), 0) else (-(ip : Int) - 1, fxOne - fp)
    if f = 0 then .fin false 1 k false else above false (fxExp (f * fxLn2 / fxOne)) (k - 512)

/-- e^x. -/
def expX (neg : Bool) (n : Nat) (e : Int) : XR :=
  if toFixed 0 n e ≥ 280 then above false 1 (if neg then -400 else 400)
  else
    let x := toFixed 512 n e
    if x = 0 then .fin false 1 0 false
    else
      let ip := x / fxLn2
      let r := x % fxLn2
      let (k, f) : Int × Nat := if !neg then ((ip : Int), r) else (-(ip : Int) - 1, fxLn2 - r)
      above false (fxExp f) (k - 512)

/-- log2 x of n x 2^e, n positive. -/
def log2X (n : Nat) (e : Int) : XR :=
  let k := n.log2
  if n = 2 ^ k then xrOfInt (e + k)
  else
    let y := toFixed 512 n (-(k : Int))
    fxSigned ((e + k) * (fxOne : Int) + ((fxLn y * fxOne / fxLn2 : Nat) : Int))

/-- sin x: the quadrant, then the reduced argument. -/
def sinX (neg : Bool) (n : Nat) (e : Int) (quarter : Nat) : XR :=
  let x := toFixed 700 n e
  let q := (x / halfPi700 + quarter) % 4
  let r := x % halfPi700 / 2 ^ 188
  let v : Int := match q with
    | 0 => fxSin r
    | 1 => fxCos r
    | 2 => -(fxSin r)
    | _ => -(fxCos r)
  fxSigned (if neg then -v else v)

/-- e^-x in fixed point for x at most 280. -/
def fxExpNeg (x : Nat) : Nat := fxExp (fxLn2 - x % fxLn2) / 2 ^ (x / fxLn2 + 1)

def tanhX (neg : Bool) (n : Nat) (e : Int) : XR :=
  if toFixed 0 n e ≥ 130 then above neg (fxOne - 1) (-512)
  else
    let t := fxExpNeg (2 * toFixed 512 n e)
    above neg ((fxOne - t) * fxOne / (fxOne + t)) (-512)

def sigmX (neg : Bool) (n : Nat) (e : Int) : XR :=
  if toFixed 0 n e ≥ 280 then (if neg then above false 1 (-400) else above false (fxOne - 1) (-512))
  else if n = 0 then .fin false 1 (-1) false
  else
    let t := fxExpNeg (toFixed 512 n e)
    above false ((if neg then t else fxOne) * fxOne / (fxOne + t)) (-512)

/-- 1 / sqrt(n x 2^e), n positive, with 256 bits below the integer square root. -/
def rsqrtX (n : Nat) (e : Int) : XR :=
  let (m, f) : Nat × Int := if e % 2 = 0 then (n, e) else (2 * n, e - 1)
  let k := m.log2 + 200
  let r := isqrt (2 ^ (2 * k) / m)
  .fin false r (-(k : Int) - f / 2) (r * r * m != 2 ^ (2 * k))

/-- A function of Table 07-4: 0 VEXP2 to 8 VEXP. -/
inductive Trans9 where
  | exp2 | log2 | rcp | rsqrt | sin | cos | tanh | sigm | exp
  deriving DecidableEq, Repr

def transNum : Trans9 → Nat
  | .exp2 => 0 | .log2 => 1 | .rcp => 2 | .rsqrt => 3 | .sin => 4 | .cos => 5 | .tanh => 6 | .sigm => 7 | .exp => 8

/-- The special results of Table 07-4, and the exact ones (R148): value and flags. None where the result is
approximate. -/
def transSpecial (fn : Trans9) (x : XR) : Option (XR × Flags) :=
  match x with
  | .nan => some (.nan, {})
  | .inf neg =>
    match fn with
    | .exp2 | .exp => some (if neg then .fin false 0 0 false else .inf false, {})
    | .log2 => some (if neg then (.nan, { nv := true }) else (.inf false, {}))
    | .rcp => some (.fin neg 0 0 false, {})
    | .rsqrt => some (if neg then (.nan, { nv := true }) else (.fin false 0 0 false, {}))
    | .sin | .cos => some (.nan, { nv := true })
    | .tanh => some (.fin neg 1 0 false, {})
    | .sigm => some (if neg then .fin false 0 0 false else .fin false 1 0 false, {})
  | .fin neg n e _ =>
    let two := n != 0 && decide (n = 2 ^ n.log2)
    match fn with
    | .exp2 =>
      match exp2X neg n e with
      | .fin s k f false => some (.fin s k f false, {})
      | _ => none
    | .log2 =>
      if n = 0 then some (.inf true, { dz := true })
      else if neg then some (.nan, { nv := true })
      else if two then some (log2X n e, {})
      else none
    | .rcp =>
      if n = 0 then some (.inf neg, { dz := true })
      else if two then some ((divX (.fin false 1 0 false) x).1, {})
      else none
    | .rsqrt =>
      if n = 0 then some (.inf neg, { dz := true })
      else if neg then some (.nan, { nv := true })
      else if two && decide ((e + n.log2) % 2 = 0) then some (rsqrtX n e, {})
      else none
    | .sin | .tanh => if n = 0 then some (x, {}) else none
    | .cos => if n = 0 then some (.fin false 1 0 false, {}) else none
    | .sigm | .exp => none

/-- The exact value, where it is not special. -/
def transExact (fn : Trans9) (x : XR) : XR :=
  match x with
  | .fin neg n e _ =>
    match fn with
    | .exp2 => exp2X neg n e
    | .log2 => log2X n e
    | .rcp => (divX (.fin false 1 0 false) x).1
    | .rsqrt => rsqrtX n e
    | .sin => sinX neg n e 0
    | .cos => sinX false n e 1
    | .tanh => tanhX neg n e
    | .sigm => sigmX neg n e
    | .exp => expX neg n e
  | y => y

/-- The bound of Table 07-4 as m x 2^q: in ulps of the exact value, or absolute for the sine and the cosine. -/
def transBound (fn : Trans9) (y : XR) : Nat × Int :=
  let ulp : Int := match y with
    | .fin _ n e _ => max ((n.log2 : Int) + e) (-126) - 23
    | _ => -149
  match fn with
  | .exp2 | .log2 => (2, ulp)
  | .rcp | .rsqrt => (1, ulp)
  | .sin | .cos => (1, -22)
  | .tanh | .sigm => (4, ulp)
  | .exp => (3, ulp)

/-- A finite code within the bound of an exact value. -/
def withinBound (fn : Trans9) (y : XR) (code : Nat) : Bool :=
  let (m, q) := transBound fn y
  match decodeFloat (fpOf .f32) code, y with
  | .fin s n e _, .fin t k f _ =>
    let e0 := min (min e f) q
    decide ((scaledTo e0 s n e - scaledTo e0 t k f).natAbs + 1 ≤ m * 2 ^ (q - e0).toNat)
  | _, _ => false

/-- One transcendental element (R148, R149): code and flags. -/
def transElem (fn : Trans9) (f : Fmt) (sat : Bool) (code : Nat) : Nat × Flags :=
  let p := fpOf f
  let x := decodeFloat p code
  match transSpecial fn x with
  | some (y, fl) =>
    let (c, g) := roundFloat p .rne sat y
    (c, fl.or g)
  | none =>
    let y := transExact fn x
    let (c, g) := roundFloat p .rne sat y
    match f with
    | .f32 =>
      let own := (Config.transF32 (transNum fn) (BitVec.ofNat 32 code)).toNat
      if !g.ovf && withinBound fn y own then
        let mag := own % 2 ^ 31
        (own, { nx := true, unf := mag != 0 && decide (mag < 2 ^ 23) })
      else (c, { g with nx := true })
    | _ => (c, { g with nx := true })

end Sys2Proof.Machine
end

