-- ==== Sys2Proof/Machine/Vector.lean ====
section
/-! DEFINITION. Vector instructions (07 R129 to R154): elements, masks, arithmetic, compares, shuffles, conversions,
quantisation, reductions, scans, transcendentals, packing, top-k and mask operations, and their completion (R132,
22 R365). -/

namespace Sys2Proof.Machine

open Sys2Proof

/-! Elements and lanes (R129, R130). -/

/-- Elements of a v register. -/
def elemCount : Fmt → Nat
  | .f32 => 16
  | .bf16 | .f16 | .i16 => 32
  | .e4m3 | .e5m2 | .i8 | .n8 | .e3m2 | .e2m3 => 64
  | .e2m1 | .i4 | .n4 => 128
  | .t2 => 256
  | .t5 => 320
  | .b1 => 512

/-- Lowest bit of element `i` in a dense run (02 R24). -/
def elemPos (f : Fmt) (i : Nat) : Nat := match f with
  | .t5 => 8 * (i / 5)
  | _ => fmtWidth f * i

/-- Trit `k` of a t5 byte; 3 for a reserved byte (02 R23, R32). -/
def tritOf (b k : Nat) : Nat := if 243 ≤ b then 3 else b / 3 ^ k % 3

/-- Element `i` of a dense run of bits. -/
def readElem (f : Fmt) (x i : Nat) : Nat := match f with
  | .t5 => tritOf (x / 2 ^ elemPos .t5 i % 256) (i % 5)
  | _ => x / 2 ^ elemPos f i % 2 ^ fmtWidth f

/-- Lanes that the mask operand makes active (R130). -/
def lanesOf (i : Inst) (m : VMask) : Nat := if m.mi then 65535 - (i.readK m.reg).toNat else (i.readK m.reg).toNat

def laneActive (lanes j : Nat) : Bool := lanes / 2 ^ j % 2 == 1

/-- An element is active when the lane of its lowest bit is. -/
def elemActive (f : Fmt) (lanes i : Nat) : Bool := laneActive lanes (elemPos f i / 32)

def activeElems (f : Fmt) (lanes : Nat) : List Nat := (List.range (elemCount f)).filter (elemActive f lanes)

/-- Bits of the active lanes. -/
def laneBits (lanes : Nat) : Nat :=
  (List.range 16).foldl (fun acc j => if laneActive lanes j then acc + (2 ^ 32 - 1) * 2 ^ (32 * j) else acc) 0

/-- A t5 byte with some of its trits replaced (R142): a reserved byte gives up the others and reports RC. -/
def writeTrits (old : Nat) (wr : Nat → Option Nat) : Nat × Bool :=
  if (List.range 5).all (fun k => (wr k).isNone) then (old, false)
  else
    ((List.range 5).foldl (fun acc k =>
        acc + (match wr k with
          | some d => d
          | none => if 243 ≤ old then 0 else old / 3 ^ k % 3) * 3 ^ k) 0,
      decide (243 ≤ old))

/-- A register with the elements that `wr` names replaced; bits of active lanes that no element occupies become 0. The
second component is RC of a shared t5 byte. -/
def assemble (f : Fmt) (old lanes : Nat) (wr : Nat → Option Nat) : Nat × Bool :=
  match f with
  | .t5 =>
    (List.range 64).foldl (fun acc b =>
      let (v, rc) := writeTrits (old / 2 ^ (8 * b) % 256) (fun k => wr (5 * b + k))
      (acc.1 + v * 2 ^ (8 * b), acc.2 || rc)) (0, false)
  | _ =>
    let body := (List.range (elemCount f)).foldl (fun acc i =>
      acc + (match wr i with
        | some c => c % 2 ^ fmtWidth f
        | none => readElem f old i) * 2 ^ elemPos f i) 0
    let top := if fmtWidth f = 6 then
        (List.range 4).foldl (fun acc j =>
          if laneActive lanes (12 + j) then acc else acc + old / 2 ^ (32 * (12 + j)) % 2 ^ 32 * 2 ^ (32 * (12 + j))) 0
      else 0
    (body + top, false)

/-! Issue and completion (R132). -/

/-- A vector instruction issued: its destinations are superseded and its writes wait for its completion. -/
def Inst.hold (i : Inst) (e : VPend) : Inst :=
  let i := e.vw.foldl (fun i w => i.supersede (.v w.1)) i
  let i := match e.gw with
    | some (r, _) => i.supersede (.g r)
    | none => i
  let i := match e.kw with
    | some (r, _) => i.supersedeK r
    | none => i
  { i with vpend := i.vpend ++ [e] }

/-- A vector word: its fault, or what it writes when it completes. -/
def State.vec (s : State) (u : Uses) (f : Inst → State → Check VPend) : Out1 :=
  s.onFit u (fun i s =>
    match f i s with
    | .error (code, addr, det) => s.raise i code addr det
    | .ok e => s.retire (i.hold e))

def fmtNum : Fmt → Nat
  | .f32 => 0 | .bf16 => 1 | .f16 => 2 | .e4m3 => 3 | .e5m2 => 4 | .e3m2 => 5 | .e2m3 => 6 | .e2m1 => 7
  | .i16 => 8 | .i8 => 9 | .n8 => 10 | .i4 => 11 | .n4 => 12 | .t2 => 13 | .t5 => 14 | .b1 => 15

/-- One v register written, with flags and VEC. -/
def vOut (d : VReg) (x : Nat) (flags : Flags) (vec : Option (Nat × Nat)) : VPend :=
  ⟨[(d, BitVec.ofNat 512 x)], none, none, true, flags, vec⟩
def kOut (d : KReg) (x : Nat) (vec : Option (Nat × Nat)) : VPend :=
  ⟨[], some (d, BitVec.ofNat 16 x), none, true, {}, vec⟩
def gOut (d : GReg) (x : Word) : VPend := ⟨[], none, some (d, x), true, {}, none⟩

/-- The writes of a vector instruction that completes. -/
def Inst.complete (i : Inst) (e : VPend) : Inst :=
  let i := e.vw.foldl (fun i w => i.setV w.1 w.2) i
  let i := match e.kw with
    | some (r, x) => i.setK r x
    | none => i
  let i := match e.gw with
    | some (r, x) => if e.glive then i.setG r x else i
    | none => i
  (i.setFlags e.flags).settleEdge

/-- The `n`th vector instruction of a slot completes (R132, 22 R365). -/
def execVectorComplete (p sl n : Nat) (s : State) : Out1 :=
  match s.inst? p sl with
  | none => s.idle "no handler in the slot"
  | some i =>
    match i.vpend[n]? with
    | none => s.idle "no such vector instruction"
    | some e =>
      let s := s.setInst p sl (some ({ i with vpend := i.vpend.eraseIdx n }.complete e))
      match e.vec with
      | some (f, k) => .next (s.count (dieOf p) i.ctx (0x20 + f) k)
      | none => .next s

/-! Element arithmetic (R133 to R136). -/

/-- An integer result (R134). -/
def intResult (f : Fmt) (sat : Bool) (x : Int) : Nat × Flags := intToInt f sat x

/-- VMIN and VMAX of floats. -/
def minMaxFloat (mx : Bool) (f : Fmt) (a b : Nat) : Nat :=
  let p := fpOf f
  let x := decodeFloat p a
  let y := decodeFloat p b
  if x.isNaN && y.isNaN then canonNaN f
  else if x.isNaN then b
  else if y.isNaN then a
  else
    let less := ltX x y || (eqX x y && x.sign && !y.sign)
    if mx then (if less then b else a) else if less then a else b

def minMaxInt (mx : Bool) (f : Fmt) (a b : Nat) : Nat :=
  let less := decide (intOf f a ≤ intOf f b)
  if mx then (if less then b else a) else if less then a else b

/-- The operations of OPC 0x80 with a format. -/
inductive VOp where
  | add | sub | mul | div | min | max | abs | neg | sqrt
  deriving DecidableEq, Repr

/-- R133. -/
def floatOp (op : VOp) (f : Fmt) (mode : RMode) (sat : Bool) (a b : Nat) : Nat × Flags :=
  let p := fpOf f
  let x := decodeFloat p a
  let y := decodeFloat p b
  let fin (r : XR × Bool) (dz : Bool) : Nat × Flags :=
    let (c, fl) := roundFloat p mode sat r.1
    (c, { fl with nv := fl.nv || r.2, dz := dz })
  match op with
  | .add => fin (addX mode x y) false
  | .sub => fin (addX mode x y.neg) false
  | .mul => fin (mulX x y) false
  | .div => let (v, nv, dz) := divX x y; fin (v, nv) dz
  | .sqrt => fin (sqrtX x) false
  | .min => (minMaxFloat false f a b, {})
  | .max => (minMaxFloat true f a b, {})
  | .abs => (if x.isNaN then canonNaN f else a % 2 ^ (fmtWidth f - 1), {})
  | .neg => (if x.isNaN then canonNaN f else (a + 2 ^ (fmtWidth f - 1)) % 2 ^ fmtWidth f, {})

/-- R134. -/
def integerOp (op : VOp) (f : Fmt) (sat : Bool) (a b : Nat) : Nat × Flags :=
  let x := intOf f a
  let y := intOf f b
  match op with
  | .add => intResult f sat (x + y)
  | .sub => intResult f sat (x - y)
  | .mul => intResult f sat (x * y)
  | .div => if y = 0 then (2 ^ fmtWidth f - 1, {}) else intResult f sat (Int.tdiv x y)
  | .min => (minMaxInt false f a b, {})
  | .max => (minMaxInt true f a b, {})
  | .abs => intResult f sat x.natAbs
  | .neg => intResult f sat (-x)
  | .sqrt => (a, {})

def arithOp (op : VOp) (f : Fmt) (r : Rnd) (a b : Nat) : Nat × Flags :=
  if f.isFloat then floatOp op f r.mode r.sat a b else integerOp op f r.sat a b

/-- Flags of a list of elements, and the codes of the active ones. -/
def flagsOf (l : List (Nat × Nat × Flags)) : Flags := l.foldl (fun acc e => acc.or e.2.2) {}

def codeAt : List (Nat × Nat × Flags) → Nat → Option Nat
  | [], _ => none
  | (i, c, _) :: t, n => if i = n then some c else codeAt t n

/-- An operation on each active element of a format, merged under the mask (R130). -/
def mapElems (f : Fmt) (lanes old : Nat) (fn : Nat → Nat × Flags) : Nat × Flags :=
  let l := (activeElems f lanes).map (fun k => (k, fn k))
  let (x, rc) := assemble f old lanes (codeAt l)
  (x, (flagsOf l).or { rc := rc })

def Inst.vNat (i : Inst) (r : VReg) : Nat := (i.readV r).toNat

/-- A merged element-wise result with VEC's count of `per` for each active element. -/
def vMap (i : Inst) (d : VReg) (m : VMask) (f : Fmt) (per : Nat) (fn : Nat → Nat × Flags) : VPend :=
  let lanes := lanesOf i m
  let (x, fl) := mapElems f lanes (i.vNat d) fn
  vOut d x fl (if per = 0 then none else some (fmtNum f, per * (activeElems f lanes).length))

def State.vArith (s : State) (u : Uses) (op : VOp) (d a b : VReg) (m : VMask) (f : Fmt) (r : Rnd) : Out1 :=
  s.vec u (fun i _ => .ok (vMap i d m f 1 (fun k =>
    arithOp op f r (readElem f (i.vNat a) k) (readElem f (i.vNat b) k))))

def execVadd (d a b : VReg) (m : VMask) (f : Fmt) (r : Rnd) (s : State) : Out1 :=
  s.vArith (uses (.vadd d a b m f r)) .add d a b m f r
def execVsub (d a b : VReg) (m : VMask) (f : Fmt) (r : Rnd) (s : State) : Out1 :=
  s.vArith (uses (.vsub d a b m f r)) .sub d a b m f r
def execVmul (d a b : VReg) (m : VMask) (f : Fmt) (r : Rnd) (s : State) : Out1 :=
  s.vArith (uses (.vmul d a b m f r)) .mul d a b m f r
def execVdiv (d a b : VReg) (m : VMask) (f : Fmt) (r : Rnd) (s : State) : Out1 :=
  s.vArith (uses (.vdiv d a b m f r)) .div d a b m f r
def execVmin (d a b : VReg) (m : VMask) (f : Fmt) (r : Rnd) (s : State) : Out1 :=
  s.vArith (uses (.vmin d a b m f r)) .min d a b m f r
def execVmax (d a b : VReg) (m : VMask) (f : Fmt) (r : Rnd) (s : State) : Out1 :=
  s.vArith (uses (.vmax d a b m f r)) .max d a b m f r
def execVabs (d a : VReg) (m : VMask) (f : Fmt) (r : Rnd) (s : State) : Out1 :=
  s.vArith (uses (.vabs d a m f r)) .abs d a a m f r
def execVneg (d a : VReg) (m : VMask) (f : Fmt) (r : Rnd) (s : State) : Out1 :=
  s.vArith (uses (.vneg d a m f r)) .neg d a a m f r
def execVsqrt (d a : VReg) (m : VMask) (f : Fmt) (r : Rnd) (s : State) : Out1 :=
  s.vArith (uses (.vsqrt d a m f r)) .sqrt d a a m f r

/-- R135: bitwise in each active lane. -/
def State.vLogic (s : State) (u : Uses) (fn : VWord → VWord → VWord) (d a b : VReg) (m : VMask) : Out1 :=
  s.vec u (fun i _ =>
    let sel : VWord := BitVec.ofNat 512 (laneBits (lanesOf i m))
    .ok (vOut d ((fn (i.readV a) (i.readV b) &&& sel) ||| (i.readV d &&& ~~~sel)).toNat {} none))

def execVand (d a b : VReg) (m : VMask) (s : State) : Out1 :=
  s.vLogic (uses (.vand d a b m)) (· &&& ·) d a b m
def execVor (d a b : VReg) (m : VMask) (s : State) : Out1 :=
  s.vLogic (uses (.vor d a b m)) (· ||| ·) d a b m
def execVxor (d a b : VReg) (m : VMask) (s : State) : Out1 :=
  s.vLogic (uses (.vxor d a b m)) (· ^^^ ·) d a b m

/-- Shifts of an element (R135). -/
def shiftLeft (f : Fmt) (a n : Nat) : Nat := if fmtWidth f ≤ n then 0 else a * 2 ^ n % 2 ^ fmtWidth f
def shiftRight (f : Fmt) (a n : Nat) : Nat := if fmtWidth f ≤ n then 0 else a / 2 ^ n
def shiftArith (f : Fmt) (a n : Nat) : Nat :=
  match f with
  | .n8 => shiftRight f a n
  | _ => wrapCode (fmtWidth f) (intOf f a / 2 ^ (min n (fmtWidth f)))

def State.vShift (s : State) (u : Uses) (fn : Fmt → Nat → Nat → Nat) (d a b : VReg) (m : VMask) (f : Fmt) : Out1 :=
  s.vec u (fun i _ => .ok (vMap i d m f 1 (fun k =>
    (fn f (readElem f (i.vNat a) k) (readElem f (i.vNat b) k), {}))))

def execVsll (d a b : VReg) (m : VMask) (f : Fmt) (s : State) : Out1 :=
  s.vShift (uses (.vsll d a b m f)) shiftLeft d a b m f
def execVsrl (d a b : VReg) (m : VMask) (f : Fmt) (s : State) : Out1 :=
  s.vShift (uses (.vsrl d a b m f)) shiftRight d a b m f
def execVsra (d a b : VReg) (m : VMask) (f : Fmt) (s : State) : Out1 :=
  s.vShift (uses (.vsra d a b m f)) shiftArith d a b m f

/-- R136: one rounding of the exact value; 0 x infinity sets NV even with a NaN addend. -/
def fusedOp (np nz : Bool) (f : Fmt) (r : Rnd) (a b c : Nat) : Nat × Flags :=
  let p := fpOf f
  let (xy, nv) := mulX (decodeFloat p a) (decodeFloat p b)
  let z := decodeFloat p c
  let (v, nv') := addX r.mode (if np then xy.neg else xy) (if nz then z.neg else z)
  let (k, fl) := roundFloat p r.mode r.sat v
  (k, { fl with nv := fl.nv || nv || nv' })

def State.vFused (s : State) (u : Uses) (np nz : Bool) (d a b c : VReg) (m : VMask) (f : Fmt) (r : Rnd) : Out1 :=
  s.vec u (fun i _ => .ok (vMap i d m f 2 (fun k =>
    fusedOp np nz f r (readElem f (i.vNat a) k) (readElem f (i.vNat b) k) (readElem f (i.vNat c) k))))

def execVfma (d a b c : VReg) (m : VMask) (f : Fmt) (r : Rnd) (s : State) : Out1 :=
  s.vFused (uses (.vfma d a b c m f r)) false false d a b c m f r
def execVfms (d a b c : VReg) (m : VMask) (f : Fmt) (r : Rnd) (s : State) : Out1 :=
  s.vFused (uses (.vfms d a b c m f r)) false true d a b c m f r
def execVfnma (d a b c : VReg) (m : VMask) (f : Fmt) (r : Rnd) (s : State) : Out1 :=
  s.vFused (uses (.vfnma d a b c m f r)) true true d a b c m f r
def execVfnms (d a b c : VReg) (m : VMask) (f : Fmt) (r : Rnd) (s : State) : Out1 :=
  s.vFused (uses (.vfnms d a b c m f r)) true false d a b c m f r

/-! Compares and select (R137, R138). -/

inductive VCmp where
  | eq | ne | lt | le | un
  deriving DecidableEq, Repr

def cmpElem (op : VCmp) (f : Fmt) (a b : Nat) : Bool :=
  if f.isFloat then
    let x := decodeFloat (fpOf f) a
    let y := decodeFloat (fpOf f) b
    let un := x.isNaN || y.isNaN
    match op with
    | .eq => !un && eqX x y
    | .ne => un || !eqX x y
    | .lt => !un && ltX x y
    | .le => !un && (ltX x y || eqX x y)
    | .un => un
  else
    match op with
    | .eq => intOf f a == intOf f b
    | .ne => intOf f a != intOf f b
    | .lt => decide (intOf f a < intOf f b)
    | .le => decide (intOf f a ≤ intOf f b)
    | .un => false

/-- Bit j: lane j is active and every element of it meets the condition. -/
def cmpLanes (op : VCmp) (f : Fmt) (lanes a b : Nat) : Nat :=
  let per := 32 / fmtWidth f
  (List.range 16).foldl (fun acc j =>
    if laneActive lanes j && (List.range per).all (fun k =>
        cmpElem op f (readElem f a (per * j + k)) (readElem f b (per * j + k))) then acc + 2 ^ j else acc) 0

def State.vCompare (s : State) (u : Uses) (op : VCmp) (d : KReg) (a b : VReg) (m : VMask) (f : Fmt) : Out1 :=
  s.vec u (fun i _ =>
    let lanes := lanesOf i m
    .ok (kOut d (cmpLanes op f lanes (i.vNat a) (i.vNat b)) (some (fmtNum f, (activeElems f lanes).length))))

def execVcmpeq (d : KReg) (a b : VReg) (m : VMask) (f : Fmt) (md : RMode) (s : State) : Out1 :=
  s.vCompare (uses (.vcmpeq d a b m f md)) .eq d a b m f
def execVcmpne (d : KReg) (a b : VReg) (m : VMask) (f : Fmt) (md : RMode) (s : State) : Out1 :=
  s.vCompare (uses (.vcmpne d a b m f md)) .ne d a b m f
def execVcmplt (d : KReg) (a b : VReg) (m : VMask) (f : Fmt) (md : RMode) (s : State) : Out1 :=
  s.vCompare (uses (.vcmplt d a b m f md)) .lt d a b m f
def execVcmple (d : KReg) (a b : VReg) (m : VMask) (f : Fmt) (md : RMode) (s : State) : Out1 :=
  s.vCompare (uses (.vcmple d a b m f md)) .le d a b m f
def execVcmpun (d : KReg) (a b : VReg) (m : VMask) (f : Fmt) (md : RMode) (s : State) : Out1 :=
  s.vCompare (uses (.vcmpun d a b m f md)) .un d a b m f

/-- R138: the mask selects. -/
def execVsel (d a b : VReg) (m : VMask) (s : State) : Out1 :=
  s.vec (uses (.vsel d a b m)) (fun i _ =>
    let sel : VWord := BitVec.ofNat 512 (laneBits (lanesOf i m))
    .ok (vOut d ((i.readV a &&& sel) ||| (i.readV b &&& ~~~sel)).toNat {} none))

/-! Shuffles, insertion and extraction (R139 to R141). -/

/-- A shuffle: element k of the result is a code, no flag, no VEC. -/
def State.vShuffle (s : State) (u : Uses) (d : VReg) (m : VMask) (f : Fmt) (fn : Inst → Nat → Nat) : Out1 :=
  s.vec u (fun i _ => .ok (vMap i d m f 0 (fun k => (fn i k, {}))))

/-- Element `k` of vA followed by vB, 0 beyond. -/
def pairElem (f : Fmt) (a b k : Nat) : Nat :=
  let n := elemCount f
  if k < n then readElem f a k else if k < 2 * n then readElem f b (k - n) else 0

def execVperm (d a b : VReg) (m : VMask) (f : Fmt) (md : RMode) (s : State) : Out1 :=
  s.vShuffle (uses (.vperm d a b m f md)) d m f (fun i k =>
    readElem f (i.vNat a) (readElem f (i.vNat b) k % elemCount f))
def execVbcast (d : VReg) (a : GReg) (m : VMask) (f : Fmt) (md : RMode) (s : State) : Out1 :=
  s.vShuffle (uses (.vbcast d a m f md)) d m f (fun i _ => (i.readG a).toNat % 2 ^ fmtWidth f)
def execVslide (d a b c : VReg) (m : VMask) (f : Fmt) (md : RMode) (s : State) : Out1 :=
  s.vShuffle (uses (.vslide d a b c m f md)) d m f (fun i k =>
    pairElem f (i.vNat a) (i.vNat b) (k + i.vNat c % 1024))
def execVzip (d a b : VReg) (m : VMask) (f : Fmt) (md : RMode) (s : State) : Out1 :=
  s.vShuffle (uses (.vzip d a b m f md)) d m f (fun i k =>
    readElem f (i.vNat (if k % 2 = 0 then a else b)) (k / 2))
def execVunzip (d a b : VReg) (m : VMask) (f : Fmt) (md : RMode) (s : State) : Out1 :=
  s.vShuffle (uses (.vunzip d a b m f md)) d m f (fun i k => pairElem f (i.vNat a) (i.vNat b) (2 * k))

def execVins (d a : VReg) (b : GReg) (m : VMask) (f : Fmt) (md : RMode) (s : State) : Out1 :=
  s.vec (uses (.vins d a b m f md)) (fun i _ =>
    let gb := (i.readG b).toNat
    let j := bitsOf gb 63 48
    if elemCount f ≤ j then .error (fOperand, 0, gb)
    else
      let wr (k : Nat) : Option Nat := if k = j && elemActive f (lanesOf i m) j then some (gb % 2 ^ fmtWidth f) else none
      .ok (vOut d (assemble f (i.vNat a) 0 wr).1 {} none))

def execVext (d : GReg) (a : VReg) (m : VMask) (f : Fmt) (md : RMode) (s : State) : Out1 :=
  s.vec (uses (.vext d a m f md)) (fun i _ =>
    match (activeElems f (lanesOf i m)).head? with
    | none => .ok (gOut d 0)
    | some j =>
      let c := readElem f (i.vNat a) j
      .ok (gOut d (match f with
        | .i16 | .i8 => wrap64 (intOf f c)
        | _ => word64 c)))

/-! Conversions and quantisation (R142 to R145). -/

def execVcvt (d a : VReg) (m : VMask) (dst src : Fmt) (r : Rnd) (s : State) : Out1 :=
  s.vec (uses (.vcvt d a m dst src r)) (fun i _ =>
    let lanes := lanesOf i m
    let n := min (elemCount src) (elemCount dst)
    let (x, fl) := mapElems dst lanes (i.vNat d) (fun k =>
      if k < n then convertCode src dst r.mode r.sat (readElem src (i.vNat a) k) else (0, {}))
    .ok (vOut d x fl (some (fmtNum dst, ((activeElems dst lanes).filter (fun k => decide (k < n))).length))))

/-- The part and the scale of vB (R143), checked. The check stands whatever the mask: R154 decides over active elements, and a
part and a scale belong to none (DESIGN CHOICE, log 49). -/
def checkPart (f : Fmt) (vb : Nat) : Check (Nat × BitVec 16) :=
  let p := vb / 2 ^ 16 % 32
  let sc : BitVec 16 := BitVec.ofNat 16 vb
  if vb / 2 ^ 21 ≠ 0 ∨ 16 * p + 16 > elemCount f then .error (fOperand, 0, vb % 2 ^ 64)
  else if !scaleOk sc then .error (fBadScale, 0, sc.toNat)
  else .ok (p, sc)

def execQuant (d a b : VReg) (m : VMask) (f : Fmt) (r : Rnd) (s : State) : Out1 :=
  s.vec (uses (.quant d a b m f r)) (fun i _ =>
    match checkPart f (i.vNat b) with
    | .error e => .error e
    | .ok (p, sc) =>
      let lanes := lanesOf i m
      let scale := decodeFloat (fpOf .bf16) sc.toNat
      let l := (activeElems .f32 lanes).map (fun k =>
        (16 * p + k, roundAny f true r.mode r.sat (scaleRemove (decodeFloat (fpOf .f32) (readElem .f32 (i.vNat a) k)) scale)))
      let (x, rc) := assemble f (i.vNat d) lanes (codeAt l)
      .ok (vOut d x ((flagsOf l).or { rc := rc }) (some (fmtNum f, l.length))))

/-- An element times a scale, rounded to f32 (R144, R145). -/
def dequantElem (f : Fmt) (r : Rnd) (sc : BitVec 16) (code : Nat) : Nat × Flags :=
  let (x, rc) := decodeElem f code
  let (v, nv) := scaleApply x sc
  let (c, fl) := roundFloat (fpOf .f32) r.mode r.sat v
  (c, { fl with nv := fl.nv || nv, rc := rc })

def execDequant (d a b : VReg) (m : VMask) (f : Fmt) (r : Rnd) (s : State) : Out1 :=
  s.vec (uses (.dequant d a b m f r)) (fun i _ =>
    match checkPart f (i.vNat b) with
    | .error e => .error e
    | .ok (p, sc) =>
      let (x, fl) := mapElems .f32 (lanesOf i m) (i.vNat d) (fun k =>
        dequantElem f r sc (readElem f (i.vNat a) (16 * p + k)))
      .ok (vOut d x fl (some (fmtNum f, (activeElems .f32 (lanesOf i m)).length))))

/-- Format of a code of Table 02-1. -/
def fmtOfNum : Nat → Fmt
  | 0 => .f32 | 1 => .bf16 | 2 => .f16 | 3 => .e4m3 | 4 => .e5m2 | 5 => .e3m2 | 6 => .e2m3 | 7 => .e2m1
  | 8 => .i16 | 9 => .i8 | 10 => .n8 | 11 => .i4 | 12 => .n4 | 13 => .t2 | 14 => .t5 | _ => .b1

/-- A payload length that a format admits (02 R24, R27). -/
def lengthOk (f : Fmt) (n : Nat) : Bool :=
  match fmtWidth f with
  | 32 => n % 4 == 0
  | 16 => n % 2 == 0
  | 6 => n % 64 % 3 == 0
  | _ => true

/-- Lowest bit and width of element `i` of a payload: 6-bit elements fill units of 64 bytes (R24). -/
def payloadPos (f : Fmt) (i : Nat) : Nat :=
  if fmtWidth f = 6 then 512 * (i / 85) + 6 * (i % 85) else elemPos f i

/-- Element `i` of a payload lies within a number of bytes. -/
def inPayload (f : Fmt) (i n : Nat) : Bool := decide (payloadPos f i + fmtWidth f ≤ 8 * n)

def payloadElem (f : Fmt) (x i : Nat) : Nat :=
  if fmtWidth f = 6 then x / 2 ^ payloadPos f i % 64 else readElem f x i

/-- R27 and steps 1 and 2 of R145: the channel's check and the scale. -/
def channelScale (i : Inst) (ch plen : Nat) : Check (BitVec 16) :=
  let f := fmtOfNum (ch % 16)
  let mode := bitsOf ch 15 14
  let blen := bitsOf ch 11 4 + 1
  if mode = 3 ∨ (mode ≠ 0 ∧ (!lengthOk f blen ∨ plen ≠ blen)) then .error (fChannel, 0, ch)
  else
    let sc : Option (BitVec 16) := match mode with
      | 0 => some 0x3F80
      | 1 => some (BitVec.ofNat 16 (bitsOf ch 31 16))
      | _ => i.scale
    match sc with
    | none => .error (fScaleSeq, 0, bitsOf (i.readM 1).toNat 24 9)
    | some x => if scaleOk x then .ok x else .error (fBadScale, 0, x.toNat)

/-- An element beyond the payload decodes as 0, whatever the format (R145, step 4). -/
def dequantBeyond (r : Rnd) (sc : BitVec 16) : Nat × Flags :=
  let (v, nv) := scaleApply (.fin false 0 0 false) sc
  let (c, fl) := roundFloat (fpOf .f32) r.mode r.sat v
  (c, { fl with nv := fl.nv || nv })

/-- DEQUANT.f32 of a channel (R145). Its rule names vB[15:0] alone as reserved: a 1 in vB[511:21] is refused too, as R144 refuses it
for the other form (DESIGN CHOICE, log 49). -/
def execDequantChannel (d b : VReg) (m : VMask) (r : Rnd) (s : State) : Out1 :=
  s.vec (uses (.dequantChannel d b m r)) (fun i s =>
    let vb := i.vNat b
    let p := vb / 2 ^ 16 % 32
    let ch := (Tab.get chanReset (s.lc i.ctx i.lcore).chans (bitsOf (i.readM 2).toNat 63 59)).toNat
    let plen := bitsOf (i.readM 1).toNat 8 0
    match channelScale i ch plen with
    | .error e => .error e
    | .ok sc =>
      let f := fmtOfNum (ch % 16)
      if vb % 2 ^ 16 ≠ 0 ∨ vb / 2 ^ 21 ≠ 0 ∨ !inPayload f (16 * p) plen then .error (fOperand, 0, vb % 2 ^ 64)
      else
        let x := ofLe i.payload
        let (v, fl) := mapElems .f32 (lanesOf i m) (i.vNat d) (fun k =>
          if inPayload f (16 * p + k) plen then dequantElem f r sc (payloadElem f x (16 * p + k)) else dequantBeyond r sc)
        .ok (vOut d v fl (some (fmtNum f, (activeElems .f32 (lanesOf i m)).length))))

/-! Reductions and scans (R146, R147; 02 R38, R39). -/


inductive VRed where
  | add | min | max
  deriving DecidableEq, Repr

/-- One combination: a float one rounds in the mode without saturation (02 R42); an integer sum wraps, or clamps with .sat
(R146; log 50). -/
def combine (op : VRed) (f : Fmt) (r : Rnd) (a b : Nat) : Nat × Flags :=
  let r := if f.isFloat then { r with sat := false } else r
  match op with
  | .add => arithOp .add f r a b
  | .min => arithOp .min f r a b
  | .max => arithOp .max f r a b

/-- Value of an absent root. -/
def absentRoot (op : VRed) (f : Fmt) : Nat :=
  match op with
  | .add => 0
  | .min => if f.isFloat then (fpOf f).maxMag + 1 else intCode f (intRange f).2
  | .max => if f.isFloat then (fpOf f).withSign true ((fpOf f).maxMag + 1) else intCode f (intRange f).1

/-- A combination with absent elements. -/
def combineOpt (op : VRed) (f : Fmt) (r : Rnd) : Option (Nat × Flags) → Option (Nat × Flags) → Option (Nat × Flags)
  | none, y => y
  | x, none => x
  | some (a, fa), some (b, fb) =>
    let (c, fc) := combine op f r a b
    some (c, (fa.or fb).or fc)

/-- The pairwise tree: element i with element i + n/2 at each level (R38). One present element alone is the root as its code
stands, a NaN with its payload too: R38 combines it with nothing, and R22's canonical NaN is what a unit produces (DESIGN
CHOICE, log 49). -/
def treeReduce (op : VRed) (f : Fmt) (r : Rnd) : Nat → List (Option (Nat × Flags)) → Option (Nat × Flags)
  | 0, l => (l.head?).getD none
  | k + 1, l =>
    let h := l.length / 2
    if h = 0 then (l.head?).getD none
    else treeReduce op f r k (List.zipWith (combineOpt op f r) (l.take h) (l.drop h))

/-- Elements of vA, absent where inactive. -/
def presentElems (f : Fmt) (lanes x : Nat) : List (Option (Nat × Flags)) :=
  (List.range (elemCount f)).map (fun k => if elemActive f lanes k then some (readElem f x k, {}) else none)

def State.vReduce (s : State) (u : Uses) (op : VRed) (d a : VReg) (m : VMask) (f : Fmt) (r : Rnd) : Out1 :=
  s.vec u (fun i _ =>
    let lanes := lanesOf i m
    let (c, fl) := (treeReduce op f r 7 (presentElems f lanes (i.vNat a))).getD (absentRoot op f, {})
    .ok (vOut d c fl (some (fmtNum f, (activeElems f lanes).length))))

def execVredadd (d a : VReg) (m : VMask) (f : Fmt) (r : Rnd) (s : State) : Out1 :=
  s.vReduce (uses (.vredadd d a m f r)) .add d a m f r
def execVredmin (d a : VReg) (m : VMask) (f : Fmt) (r : Rnd) (s : State) : Out1 :=
  s.vReduce (uses (.vredmin d a m f r)) .min d a m f r
def execVredmax (d a : VReg) (m : VMask) (f : Fmt) (r : Rnd) (s : State) : Out1 :=
  s.vReduce (uses (.vredmax d a m f r)) .max d a m f r

/-- Running values after each element (R39), packed from element 0; the first is combined with the absent-root value, the
running value before it (R147). -/
def scanSeq (op : VRed) (f : Fmt) (r : Rnd) : Nat × Flags → Nat → List (Option (Nat × Flags)) → Nat × Flags
  | run, _, [] => (0, run.2)
  | run, k, e :: t =>
    let run := (combineOpt op f r (some run) e).getD run
    let (x, fl) := scanSeq op f r run (k + 1) t
    (x + run.1 * 2 ^ elemPos f k, fl)

def State.vScan (s : State) (u : Uses) (op : VRed) (d a : VReg) (m : VMask) (f : Fmt) (r : Rnd) : Out1 :=
  s.vec u (fun i _ =>
    let lanes := lanesOf i m
    let (x, fl) := scanSeq op f r (absentRoot op f, {}) 0 (presentElems f lanes (i.vNat a))
    .ok (vOut d x fl (some (fmtNum f, (activeElems f lanes).length))))

def execVscanadd (d a : VReg) (m : VMask) (f : Fmt) (r : Rnd) (s : State) : Out1 :=
  s.vScan (uses (.vscanadd d a m f r)) .add d a m f r
def execVscanmin (d a : VReg) (m : VMask) (f : Fmt) (r : Rnd) (s : State) : Out1 :=
  s.vScan (uses (.vscanmin d a m f r)) .min d a m f r
def execVscanmax (d a : VReg) (m : VMask) (f : Fmt) (r : Rnd) (s : State) : Out1 :=
  s.vScan (uses (.vscanmax d a m f r)) .max d a m f r

/-! Transcendental approximations (R148, R149). -/

def State.vTrans (s : State) (u : Uses) (fn : Trans9) (d a : VReg) (m : VMask) (f : Fmt) (sat : Bool) : Out1 :=
  s.vec u (fun i _ => .ok (vMap i d m f 1 (fun k => transElem fn f sat (readElem f (i.vNat a) k))))

def execVexp2 (d a : VReg) (m : VMask) (f : Fmt) (sat : Bool) (s : State) : Out1 :=
  s.vTrans (uses (.vexp2 d a m f sat)) .exp2 d a m f sat
def execVlog2 (d a : VReg) (m : VMask) (f : Fmt) (sat : Bool) (s : State) : Out1 :=
  s.vTrans (uses (.vlog2 d a m f sat)) .log2 d a m f sat
def execVrcp (d a : VReg) (m : VMask) (f : Fmt) (sat : Bool) (s : State) : Out1 :=
  s.vTrans (uses (.vrcp d a m f sat)) .rcp d a m f sat
def execVrsqrt (d a : VReg) (m : VMask) (f : Fmt) (sat : Bool) (s : State) : Out1 :=
  s.vTrans (uses (.vrsqrt d a m f sat)) .rsqrt d a m f sat
def execVsin (d a : VReg) (m : VMask) (f : Fmt) (sat : Bool) (s : State) : Out1 :=
  s.vTrans (uses (.vsin d a m f sat)) .sin d a m f sat
def execVcos (d a : VReg) (m : VMask) (f : Fmt) (sat : Bool) (s : State) : Out1 :=
  s.vTrans (uses (.vcos d a m f sat)) .cos d a m f sat
def execVtanh (d a : VReg) (m : VMask) (f : Fmt) (sat : Bool) (s : State) : Out1 :=
  s.vTrans (uses (.vtanh d a m f sat)) .tanh d a m f sat
def execVsigm (d a : VReg) (m : VMask) (f : Fmt) (sat : Bool) (s : State) : Out1 :=
  s.vTrans (uses (.vsigm d a m f sat)) .sigm d a m f sat
def execVexp (d a : VReg) (m : VMask) (f : Fmt) (sat : Bool) (s : State) : Out1 :=
  s.vTrans (uses (.vexp d a m f sat)) .exp d a m f sat

/-! Packing and top-k (R150 to R152). -/

def nonZero (f : Fmt) (c : Nat) : Bool :=
  if f.isFloat then !(decodeFloat (fpOf f) c).isZero else c != 0

/-- The packing loop from element i with n pairs found: the packed bits, the count and the next start. -/
def packFrom (f : Fmt) (lanes a base cap w : Nat) : Nat → Nat → Nat → Nat → Nat × Nat × Nat
  | 0, i, n, acc => (acc, n, i)
  | fuel + 1, i, n, acc =>
    if i < elemCount f ∧ n < cap then
      let c := readElem f a i
      if elemActive f lanes i && nonZero f c then
        packFrom f lanes a base cap w fuel (i + 1) (n + 1)
          (acc + ((base + i) % 65536 + c * 2 ^ (w / 2)) * 2 ^ (w * n))
      else packFrom f lanes a base cap w fuel (i + 1) n acc
    else (acc, n, i)

def execVpacknz (d a b : VReg) (m : VMask) (f : Fmt) (md : RMode) (s : State) : Out1 :=
  s.vec (uses (.vpacknz d a b m f md)) (fun i _ =>
    let vb := i.vNat b
    let start := vb / 2 ^ 16 % 65536
    if vb / 2 ^ 32 ≠ 0 ∨ start > elemCount f then .error (fOperand, 0, vb % 2 ^ 64)
    else
      let (cap, w) : Nat × Nat := if fmtWidth f = 32 then (8, 64) else (16, 32)
      let (x, n, next) := packFrom f (lanesOf i m) (i.vNat a) (vb % 65536) cap w (elemCount f) start 0 0
      .ok ⟨[(d, BitVec.ofNat 512 x), (d + 1, BitVec.ofNat 512 (next * 2 ^ 16 + n))], none, none, true, {}, none⟩)

/-- Largest value so far: index and value. -/
def argmaxStep (x : Nat) (best : Option (Nat × XR)) (k : Nat) : Option (Nat × XR) :=
  let v := decodeFloat (fpOf .f32) (readElem .f32 x k)
  if v.isNaN then best
  else
    match best with
    | none => some (k, v)
    | some (_, b) => if ltX b v then some (k, v) else best

def execVargmax (d a : VReg) (m : VMask) (md : RMode) (s : State) : Out1 :=
  s.vec (uses (.vargmax d a m md)) (fun i _ =>
    let x := i.vNat a
    let act := activeElems .f32 (lanesOf i m)
    let v := match act.foldl (argmaxStep x) none with
      | some (j, _) => j + readElem .f32 x j * 2 ^ 32
      | none => 0xFFFFFFFF + 0x7FC00000 * 2 ^ 32
    .ok (vOut d v {} (some (0, act.length))))

/-- A candidate goes strictly before another: higher key, then lower ID (R152, 06 R122). -/
def before (a b : Nat × Nat) : Bool :=
  let x := decodeFloat (fpOf .f32) a.1
  let y := decodeFloat (fpOf .f32) b.1
  ltX y x || (eqX x y && decide (a.2 < b.2))

/-- Inserts a candidate after those that it does not precede. -/
def insertCand (l : List (Nat × Nat)) (c : Nat × Nat) : List (Nat × Nat) :=
  match l with
  | [] => [c]
  | e :: t => if before c e then c :: e :: t else e :: insertCand t c

def emptyId : Nat := 0xFFFFFFFF

def execVtopk (d a b c : VReg) (m : VMask) (md : RMode) (s : State) : Out1 :=
  s.vec (uses (.vtopk d a b c m md)) (fun i _ =>
    let act := activeElems .f32 (lanesOf i m)
    let ids := act.map (fun k => (readElem .f32 (i.vNat a) k, readElem .f32 (i.vNat b) k))
    if ids.any (fun e => e.2 == emptyId) then .error (fOperand, 0, i.vNat b % 2 ^ 64)
    else
      let old := ((List.range 8).map (fun k =>
        (readElem .f32 (i.vNat c) (2 * k), readElem .f32 (i.vNat c) (2 * k + 1)))).filter (fun e => e.2 != emptyId)
      let (nans, cand) := (old ++ ids).partition (fun e => (decodeFloat (fpOf .f32) e.1).isNaN)
      let top := (cand.foldl insertCand []).take 8
      let slot (k : Nat) : Nat := match top[k]? with
        | some (key, ident) => key + ident * 2 ^ 32
        | none => 0xFF800000 + emptyId * 2 ^ 32
      .ok (vOut d ((List.range 8).foldl (fun acc k => acc + slot k * 2 ^ (64 * k)) 0)
        { nv := !nans.isEmpty } (some (0, act.length))))

/-! Mask operations (R153). -/

def State.kOp (s : State) (u : Uses) (d : KReg) (f : Inst → KWord) : Out1 :=
  s.vec u (fun i _ => .ok (kOut d (f i).toNat none))

def execKand (d a b : KReg) (s : State) : Out1 := s.kOp (uses (.kand d a b)) d (fun i => i.readK a &&& i.readK b)
def execKor (d a b : KReg) (s : State) : Out1 := s.kOp (uses (.kor d a b)) d (fun i => i.readK a ||| i.readK b)
def execKxor (d a b : KReg) (s : State) : Out1 := s.kOp (uses (.kxor d a b)) d (fun i => i.readK a ^^^ i.readK b)
def execKnot (d a : KReg) (s : State) : Out1 := s.kOp (uses (.knot d a)) d (fun i => ~~~ i.readK a)
def execKmov (d : KReg) (a : GReg) (s : State) : Out1 := s.kOp (uses (.kmov d a)) d (fun i => (i.readG a).setWidth 16)
def execKrd (d : GReg) (a : KReg) (s : State) : Out1 :=
  s.vec (uses (.krd d a)) (fun i _ => .ok (gOut d ((i.readK a).setWidth 64)))
def execKpopc (d : GReg) (a : KReg) (s : State) : Out1 :=
  s.vec (uses (.kpopc d a)) (fun i _ =>
    .ok (gOut d (word64 ((List.range 16).filter (fun k => (i.readK a).getLsbD k)).length)))

end Sys2Proof.Machine
end

