-- ==== Sys2Proof/Machine/Engines.lean ====
section
/-! DEFINITION. Descriptors and DLD (08 R155, R156), the accesses that engines make (08 R160, R166, R173; 17 R299,
R301), and the weight buffer (08 R159 to R161). -/

namespace Sys2Proof.Machine

open Sys2Proof

/-! DLD (R155). -/

def execDld (d : XReg) (a : GReg) (ord : Option Scope) (imm : BitVec 32) (s : State) : Out1 :=
  s.load (uses (.dld d a ord imm)) (.d d) false a imm 32 none ord

/-! Records of engines (21 R345). -/

/-- The record of an engine that names the instance that issued its command. -/
def State.engRec (s : State) (w : Who) (addr det unit uidx prog m14 : Nat) : RecInfo :=
  { recOf w (s.ended w) addr det with unit := unit, uidx := uidx, prog := prog, m14 := m14 }

/-- m14 of a record of the array, the weight buffer or the spring (21 Table 21-2). -/
def m14Of (op set chn wbe psl : Nat) : Nat :=
  op * 2 ^ 61 + set * 2 ^ 60 + chn * 2 ^ 52 + wbe * 2 ^ 46 + psl * 2 ^ 42

/-- Core position of the logical core that issued a command. -/
def State.posOf (s : State) (w : Who) : Nat :=
  match (s.ctx w.ctx).lcs.get? w.lcore with
  | some l => l.pos
  | none => w.p

/-! Accesses of engines: 64-byte pieces, each within one page and with one owner. -/

/-- A range cut at 64-byte boundaries: address and length of each piece. -/
def pieces (va n : Nat) : List (Nat × Nat) :=
  if n = 0 then []
  else
    (List.range ((va + n - 1) / 64 - va / 64 + 1)).map (fun k =>
      let lo := max va (64 * (va / 64 + k))
      let hi := min (va + n) (64 * (va / 64 + k) + 64)
      (lo, hi - lo))

/-- What one piece of a read comes to. -/
inductive PieceR where
  | data (bs : List Byte)
  | absent (va region word level : Nat)
  | bad (code addr det : Nat)
  /-- On a peer chip, and not yet asked for. -/
  | ask (rank pa va n : Nat)
  /-- Asked for, and not yet answered. -/
  | waits
  deriving DecidableEq, Repr

/-- Where one piece stands: refused, absent, on this chip at an address, or on a peer. -/
def State.pieceAt (s : State) (die c va n : Nat) (wr : Bool) : Except PieceR Target :=
  match s.translate die c va wr with
  | .fault code a d => .error (.bad code a d)
  | .absent r w l => .error (.absent va r w l)
  | .ok (.here pa) _ =>
    if place pa == .hole || s.granuleRefused pa (some c) then .error (.bad fAddress va 0) else .ok (.here pa)
  | .ok (.chip rank pa) _ =>
    if s.chipLost c rank then .error (.bad fPeerLost va (rank * 2 ^ 32 + 1))
    else .ok (.chip rank pa)

/-- The answer of a peer to a piece of a command. -/
def State.fetched (s : State) (cmd k : Nat) : Option (Option (Nat × List Byte)) :=
  (s.fetches.find? (fun e => e.cmd = cmd && e.n = k)).map Fetch.got

/-- Code, ADDR and DET of the fault that a peer's memory status gives to a piece (18 Table 18-6, 21 Table 21-1). -/
def mstRecord (mst : Nat) (data : List Byte) (va rank : Nat) : Nat × Nat × Nat :=
  if 16 ≤ mst then (fUncorr, ofLe data, mst - 16)
  else if mst = 2 then (fAddress, va, 0) else if mst = 3 then (fWriteProtect, va, 0)
  else (fPeerLost, va, rank * 2 ^ 32 + mst)

def mstFault (mst : Nat) (data : List Byte) (va rank : Nat) : PieceR :=
  let (code, addr, det) := mstRecord mst data va rank
  .bad code addr det

/-- One piece of a read. It takes its place at an owner of this chip behind the accesses that came in earlier cycles (12
R240). -/
def State.readPiece (s : State) (die c cmd k va n : Nat) : PieceR :=
  match s.pieceAt die c va n false with
  | .error e => e
  | .ok (.here pa) =>
    if !s.ownerClear pa then .waits
    else match s.poisonAt pa n with
    | some b => .bad fUncorr (64 * b) (structureOf pa)
    | none => .data (Memory.read s.mem pa n)
  | .ok (.chip rank pa) =>
    match s.fetched cmd k with
    | none => .ask rank pa va n
    | some none => .waits
    | some (some (0, bs)) => .data bs
    | some (some (mst, data)) => mstFault mst data va rank

/-- Asks a peer for a piece. -/
def State.askPiece (s : State) (w : Who) (op : MemOp) (rank pa va n : Nat) (data : List Byte) (cmd k : Nat) : State :=
  let p := s.posOf w
  let src := xyOfCore p
  let r := { peerReq op w.ctx va pa n data 0 (.piece p cmd k) none with target := some (.chip rank pa) }
  let r := match (s.ctx w.ctx).regionOf va 1 with
    | some (ri, g) => { r with via := if g.kind % 2 = 0 then [(dieOf p, ri, (va - g.vbase) / g.pageSize)] else [] }
    | none => r
  let port := s.egressPort w.ctx rank false src
  let s := (s.launchFlight (mkFlight { w with p := p } 0 false (.req r) (.egress port) src (torusPortXY port))).2
  { s with fetches := s.fetches ++ [⟨cmd, k, rank, va, none⟩] }

/-- The answers of a command's pieces are let go. -/
def State.clearFetches (s : State) (cmd : Nat) : State :=
  { s with fetches := s.fetches.filter (fun e => e.cmd != cmd) }

/-- What an engine's access comes to. -/
inductive EngR where
  | data (bs : List Byte)
  /-- Requests to peers have been sent. -/
  | sent (s : State)
  /-- An answer is under way. -/
  | waits
  /-- The first piece that is refused. -/
  | bad (k code addr det : Nat)
  /-- The first piece whose page is absent. -/
  | absent (k va region word level : Nat)
  deriving DecidableEq, Repr

/-- The first piece, in order, that is refused or absent. -/
def firstBad : List (PieceR × Nat) → Option EngR
  | [] => none
  | (.bad code a d, k) :: _ => some (.bad k code a d)
  | (.absent va r w l, k) :: _ => some (.absent k va r w l)
  | _ :: t => firstBad t

def pieceBytes : PieceR → List Byte
  | .data bs => bs
  | _ => []

/-- A read of an engine, whole: pieces numbered from `base`. -/
def State.engineRead (s : State) (w : Who) (die cmd base : Nat) (ps : List (Nat × Nat)) : EngR :=
  let rs : List (PieceR × Nat) := (ps.zipIdx base).map (fun e => (s.readPiece die w.ctx cmd e.2 e.1.1 e.1.2, e.2))
  let asks := rs.filter (fun e =>
    match e.1 with
    | .ask _ _ _ _ => true
    | _ => false)
  if !asks.isEmpty then
    .sent (asks.foldl (fun s e =>
      match e.1 with
      | .ask rank pa va n => s.askPiece w .read rank pa va n [] cmd e.2
      | _ => s) s)
  else if rs.any (fun e => e.1 == .waits) then .waits
  else
    match firstBad rs with
    | some b => b
    | none => .data (rs.flatMap (fun e => pieceBytes e.1))

/-! Writes of engines: a chunk of a copy, a row of a DRAIN. It is written whole or not at all (R166, R173): first every piece
is checked, here and at its peer, then the pieces on peers are written, and those on this chip once the peers have
acknowledged theirs (log 55). -/

/-- Numbers of the pieces that are written, and of those whose peer is asked whether they may be. -/
def writeBase : Nat := 100000
def checkBase : Nat := 200000

/-- Where the pieces of a write lie: each page translated, each owner of this chip willing; or the first piece that is refused
or absent. -/
def State.engineMay (s : State) (c die : Nat) : List (Nat × Nat) → Except PieceR (List Target)
  | [] => .ok []
  | (va, n) :: t =>
    match s.pieceAt die c va n true with
    | .error r => .error r
    | .ok d =>
      match s.engineMay c die t with
      | .error r => .error r
      | .ok l => .ok (d :: l)

/-- What peers have answered of a command's requests numbered from `base` on: waiting, refused (piece and status), or done. -/
def State.peersSaid (s : State) (cmd base : Nat) : EngR :=
  let l := s.fetches.filter (fun e => e.cmd = cmd && decide (base ≤ e.n) && decide (e.n < base + 100000))
  if l.any (fun e => e.got.isNone) then .waits
  else
    match l.find? (fun e => match e.got with
      | some (m, _) => m != 0
      | none => false) with
    | some e =>
      let (m, data) := e.got.getD (1, [])
      let (code, addr, det) := mstRecord m data e.va e.rank
      .bad e.n code addr det
    | none => .data []

/-- What the checks of a write come to. -/
inductive FixR where
  /-- All may be written, at these places. -/
  | places (l : List Target)
  /-- Peers have been asked. -/
  | sent (s : State)
  | waits
  | bad (code addr det : Nat)
  | absent (va region word level : Nat)
  deriving DecidableEq, Repr

def Target.onPeer : Target → Bool
  | .chip _ _ => true
  | .here _ => false

/-- The checks of a write, before any byte of it is written. -/
def State.engineFix (s : State) (w : Who) (die cmd : Nat) (ps : List (Nat × Nat)) : FixR :=
  match s.engineMay w.ctx die ps with
  | .error (.bad code addr det) => .bad code addr det
  | .error (.absent va r wd l) => .absent va r wd l
  | .error _ => .waits
  | .ok ts =>
    let asks := ((ts.zip ps).zipIdx checkBase).filter (fun e => e.1.1.onPeer && (s.fetched cmd e.2).isNone)
    if !asks.isEmpty then
      .sent (asks.foldl (fun s e =>
        match e.1.1 with
        | .chip rank pa => s.askPiece w .check rank pa e.1.2.1 e.1.2.2 [] cmd e.2
        | .here _ => s) s)
    else
      match s.peersSaid cmd checkBase with
      | .waits => .waits
      | .bad _ code addr det => .bad code addr det
      | _ => .places ts

/-- Bytes cut into the pieces of a range. -/
def cutBytes : List (Nat × Nat) → List Byte → List (Nat × List Byte)
  | [], _ => []
  | (va, n) :: t, bs => (va, bs.take n) :: cutBytes t (bs.drop n)

/-- One piece to write: where it lies, its virtual address, its number and its bytes. -/
structure Put where
  dst : Target
  va : Nat
  k : Nat
  bytes : List Byte
  deriving DecidableEq, Repr

/-- The pieces of a write in the order in which they are written: those on peers first. -/
def engPuts (ts : List Target) (ps : List (Nat × Nat)) (bs : List Byte) : List Put :=
  let l := ((ts.zip (cutBytes ps bs)).zipIdx writeBase).map (fun e => Put.mk e.1.1 e.1.2.1 e.2 e.1.2.2)
  l.filter (fun e => e.dst.onPeer) ++ l.filter (fun e => !e.dst.onPeer)

/-- A piece written: on this chip at once, on a peer by a request. -/
def State.put (s : State) (w : Who) (cmd : Nat) (e : Put) : State :=
  match e.dst with
  | .here pa => s.ownerWrite pa e.bytes
  | .chip rank pa => s.askPiece w .write rank pa e.va e.bytes.length e.bytes cmd e.k

/-- What becomes of the pieces that are left of a write. -/
inductive PutR where
  /-- Some are written, and how many more. -/
  | moved (s : State) (n : Nat)
  | waits
  | bad (code addr det : Nat)
  /-- All are written and acknowledged. -/
  | done (s : State)
  deriving DecidableEq, Repr

/-- The next piece is written: one on this chip once every peer has acknowledged its own, in its place at its owner. -/
def State.putNext (s : State) (w : Who) (cmd : Nat) (l : List Put) : PutR :=
  match l with
  | [] =>
    match s.peersSaid cmd writeBase with
    | .waits => .waits
    | .bad _ code addr det => .bad code addr det
    | _ => .done s
  | e :: _ =>
    match e.dst with
    | .chip _ _ => .moved (s.put w cmd e) 1
    | .here pa =>
      match s.peersSaid cmd writeBase with
      | .waits => .waits
      | .bad _ code addr det => .bad code addr det
      | _ => if s.ownerClear pa then .moved (s.put w cmd e) 1 else .waits

/-- All that are left are written, as far as peers' answers and the order at owners allow: at one go all those on peers, and
at one go all those on this chip. -/
def State.putRest (s : State) (w : Who) (cmd : Nat) (l : List Put) : PutR :=
  let out := l.filter (fun e => e.dst.onPeer)
  if !out.isEmpty then .moved (out.foldl (fun s e => s.put w cmd e) s) out.length
  else
    match s.peersSaid cmd writeBase with
    | .waits => .waits
    | .bad _ code addr det => .bad code addr det
    | _ =>
      if l.all (fun e => match e.dst with
        | .here pa => s.ownerClear pa
        | .chip _ _ => true) then .done (l.foldl (fun s e => s.put w cmd e) s)
      else .waits

/-- The slice, by die and place, of the page of an engine's access. -/
def State.engineSlice (s : State) (w : Who) (va region : Nat) : Nat × Nat :=
  let g := (s.ctx w.ctx).regionAt region
  (dieOf (s.posOf w), sliceOf w.ctx region ((va - g.vbase) / g.pageSize))

/-- A slice holds an engine's request on an absent page, under the number of its command, and sends the word's one record (17
R298, R299). None when it holds it already, or is full. -/
def State.holdEngine (s : State) (w : Who) (key va region word level prog : Nat) : Option State :=
  let (die, k) := s.engineSlice w va region
  let sl := s.sliceAt die k
  if sl.engines.contains (key, w.ctx, word) || decide (Config.heldPerSlice ≤ s.heldCount die k) then none
  else
    let info := { recOf w (s.ended w) va word with unit := 7, uidx := level, prog := prog }
    some ((s.setSlice die k { sl with engines := sl.engines ++ [(key, w.ctx, word)] }).pageRecord die k w.ctx word
      w.fromFault info)

/-- A wait for an absent page, as a step. -/
def State.heldStep (s : State) (w : Who) (key va region word level prog : Nat) : Out1 :=
  match s.holdEngine w key va region word level prog with
  | some s => .next s
  | none => s.idle "a page is absent"

/-! Descriptors (R156). -/

/-- Word 3 of a descriptor, the DET of its operand-range fault. -/
def word3 (d : Nat) : Nat := d / 2 ^ 192 % 2 ^ 64

/-- Whole elements in a number of bytes, packed densely (R158). -/
def denseOk (f : Fmt) (n : Nat) : Bool :=
  match fmtWidth f with
  | 32 => n % 4 == 0
  | 16 => n % 2 == 0
  | 6 => n % 3 == 0
  | _ => true

/-- Bytes of `n` elements packed densely (02 R24). -/
def denseBytes (f : Fmt) (n : Nat) : Nat :=
  match f with
  | .t5 => ceilDiv n 5
  | _ => ceilDiv (n * fmtWidth f) 8

/-- Elements in a number of bytes. -/
def elemsIn (f : Fmt) (n : Nat) : Nat :=
  match f with
  | .t5 => 5 * n
  | _ => 8 * n / fmtWidth f

/-- A range cut at 4 KiB boundaries, within each of which one page and one memory lie. -/
def pages4k (va n : Nat) : List Nat :=
  if n = 0 then [] else (List.range ((va + n - 1) / 4096 - va / 4096 + 1)).map (fun k => max va (4096 * (va / 4096 + k)))

/-- The memories that ranges of a context lie in (05 R101), and the parts of them whose page is absent. -/
def State.memsOf (s : State) (die c : Nat) (wr : Bool) (l : List (Nat × Nat)) : List MemName × List (Nat × Nat) :=
  let ts := (l.flatMap (fun r => pages4k r.1 r.2)).map (fun va => (va, s.translate die c va wr))
  ((ts.filterMap (fun t => match t.2 with
    | .ok t _ => memNameOf t
    | _ => none)).eraseDups,
  ts.filterMap (fun t => match t.2 with
    | .absent _ _ _ => some (t.1, 1)
    | _ => none))

/-- The operation of a core that an engine's command is, until it completes. -/
def engOp (cmd : Nat) (i : Inst) (path : OpPath) (mems : List MemName × List (Nat × Nat)) : Op :=
  { id := cmd, ctx := i.ctx, iid := i.iid, path := path, rd := false, taken := false, peer := false, mems := mems.1,
    loose := mems.2, unserved := false, blks := [], span := [] }

/-- The address of a descriptor lies in a region (17 R294). -/
def State.descAddr (s : State) (c va : Nat) : Check Unit :=
  match (s.ctx c).checkAddr va 1 false with
  | .error e => .error e
  | .ok _ => .ok ()

/-- The issue of an instruction of OPC 0xC1 to 0xC6 that takes one descriptor. -/
def State.onDesc (s : State) (u : Uses) (a : XReg) (ok : Inst → State → Nat → Bool)
    (f : Inst → State → Nat → Out1) : Out1 :=
  s.onFit u (fun i s =>
    let x := (i.readD a).toNat
    if ok i s x then f i s x else s.raise i fOperand 0 (word3 x))

/-! Weight descriptors (R159). -/

def wEntry (x : Nat) : Nat := bitsOf x 251 246
def wFmt (x : Nat) : Fmt := fmtOfNum (bitsOf x 245 242)
def wScale (x : Nat) : Nat := bitsOf x 241 240
def wCols (x : Nat) : Nat := bitsOf x 231 225 + 1
def wRows (x : Nat) : Nat := bitsOf x 223 212 + 1
def wPat (x : Nat) : Bool := bitsOf x 224 224 == 1
def wSlot (x : Nat) : Nat := bitsOf x 211 208

/-- Block scales of an entry (R160). -/
def wScales (x : Nat) : Nat :=
  let eb := elemsIn (wFmt x) (bitsOf x 239 232 + 1)
  match wScale x with
  | 2 => ceilDiv (wRows x) eb * wCols x
  | 3 => wRows x * ceilDiv (wCols x) eb
  | _ => 0

/-- WBLOAD's checks of its descriptor. -/
def wbloadOk (i : Inst) (s : State) (x : Nat) : Bool :=
  let b := decide (2 ≤ wScale x)
  bitsOf x 255 252 == 2 && bitsOf x 178 176 == 0 && bitsOf x 207 186 == 0 && bitsOf x 175 160 == 0
    && (b || (bitsOf x 239 232 == 0 && bitsOf x 87 32 == 0))
    && (!b || denseOk (wFmt x) (bitsOf x 239 232 + 1))
    && (wScale x == 1 || bitsOf x 103 88 == 0)
    && (wPat x || (wSlot x == 0 && bitsOf x 31 0 == 0))
    && (bitsOf x 185 185 == 1 || bitsOf x 184 179 == 0)
    && (bitsOf x 185 185 == 0 || decide (bitsOf x 184 179 < (s.lc i.ctx i.lcore).ctrn))
    && (s.ctx i.ctx).holdsArr (quadOf s.curP)

/-- WBPIN and WBUNPIN read ENTRY alone; WBEVICT also HIDX, ECORE and TAG. -/
def wbEntryOk (evict : Bool) (i : Inst) (s : State) (x : Nat) : Bool :=
  bitsOf x 255 252 == 2 && bitsOf x 245 208 == 0 && bitsOf x 185 176 == 0 && bitsOf x 159 0 == 0
    && (evict || (bitsOf x 207 186 == 0 && bitsOf x 175 160 == 0))
    && (s.ctx i.ctx).holdsArr (quadOf s.curP)

/-! Entries. -/

def Quad.entry (q : Quad) (e : Nat) : WbEntry := Tab.get WbEntry.reset q.wbe e
def State.setEntry (s : State) (q e : Nat) (x : WbEntry) : State :=
  let k := s.quad q
  s.setQuad q { k with wbe := k.wbe.put e x }

/-- Granules that no entry holds. -/
def Quad.freeGranules (q : Quad) : List Nat := (List.range 128).filter (fun g => !q.holdsGranule g none)

/-- Starts a load of an entry that needs room for `n` values (R160): gD, and the state. The rule does not say which free
granules a load takes, nor where the block scales stand in them: the lowest-numbered ones, and directly after the values
(DESIGN CHOICE, log 33). -/
def State.beginLoad (s : State) (q : Nat) (w : Who) (cmd x n : Nat) : Nat × State :=
  let k := s.quad q
  if (k.entry (wEntry x)).st != .empty then (1, s.completeOp cmd)
  else
    let need := ceilDiv (denseBytes (wFmt x) n + 2 * wScales x) 4096
    let room := k.freeGranules
    if room.length < need then (2, s.completeOp cmd)
    else
      (0, s.setEntry q (wEntry x)
        { st := .loading, pin := 0, ctx := w.ctx, desc := BitVec.ofNat 256 x, gran := room.take need,
          load := some (cmd, w), evict := none, poisoned := false, filled := 0 })

/-- WBLOAD (R160): at once for a dense entry, through the spring for a patterned one (09 R195). -/
def execWbload (d : GReg) (a : XReg) (s : State) : Out1 :=
  s.onDesc (uses (.wbload d a)) a wbloadOk (fun i s x =>
    match (match s.descAddr i.ctx (bitsOf x 159 104) with
      | .error e => Except.error e
      | .ok () => if 2 ≤ wScale x then s.descAddr i.ctx (bitsOf x 87 32) else .ok ()) with
    | .error (code, addr, det) => s.raise i code addr det
    | .ok () =>
      let (cmd, s) := s.fresh
      let q := quadOf s.curP
      let w := whoOf i s.curP s.curS
      let s := s.addOp s.curP (engOp cmd i .ar ([.wbuf q], []))
      if wPat x then
        let (pid, s) := s.fresh
        let k := s.quad q
        let s := s.setQuad q { k with
          springReqs := k.springReqs ++ [⟨s.clock, s.curP, w, .wbload (BitVec.ofNat 256 x) pid cmd⟩] }
        s.retire (i.await pid (gDest d) false none)
      else
        let (gd, s) := s.beginLoad q w cmd x (wRows x * wCols x)
        s.retireLater i d (word64 gd))

def execWbpin (d : GReg) (a : XReg) (s : State) : Out1 :=
  s.onDesc (uses (.wbpin d a)) a (wbEntryOk false) (fun i s x =>
    let q := quadOf s.curP
    let e := (s.quad q).entry (wEntry x)
    if e.st = .empty then s.retireLater i d 2
    else if e.pin = 65535 then s.retireLater i d 1
    else (s.setEntry q (wEntry x) { e with pin := e.pin + 1 }).retireLater i d 0)

def execWbunpin (d : GReg) (a : XReg) (s : State) : Out1 :=
  s.onDesc (uses (.wbunpin d a)) a (wbEntryOk false) (fun i s x =>
    let q := quadOf s.curP
    let e := (s.quad q).entry (wEntry x)
    if e.pin = 0 then s.retireLater i d 1
    else (s.setEntry q (wEntry x) { e with pin := e.pin - 1 }).retireLater i d 0)

/-- WBEVICT (R161): a LOADING entry becomes EVICTING when its load completes. Of two WBEVICTs of one LOADING entry, both of
which give gD 0, the rule does not say whose HIDX, ECORE and TAG the one message carries: the first one's (DESIGN CHOICE,
log 33). -/
def execWbevict (d : GReg) (a : XReg) (s : State) : Out1 :=
  s.onDesc (uses (.wbevict d a)) a (wbEntryOk true) (fun i s x =>
    let q := quadOf s.curP
    let e := (s.quad q).entry (wEntry x)
    if e.st = .empty then s.retireLater i d 2
    else if e.st = .evicting then s.retireLater i d 1
    else if e.evict.isSome then s.retireLater i d 0
    else
      let st := if e.st = .loading then WbState.loading else .evicting
      (s.setEntry q (wEntry x) { e with
        st := st, evict := some (BitVec.ofNat 256 x, whoOf i s.curP s.curS) }).retireLater i d 0)

/-! Bytes of an entry, granule by granule. -/

def WbEntry.address (e : WbEntry) (q k : Nat) : Nat := wbufBase q + 4096 * (e.gran[k / 4096]?).getD 0 + k % 4096

/-- Writes an entry's bytes from byte `o` of its granules on. -/
def State.fillEntry (s : State) (q o : Nat) : List Nat → List Byte → State
  | [], _ => s
  | g :: t, bs =>
    if 4096 ≤ o then s.fillEntry q (o - 4096) t bs
    else (s.ownerWrite (wbufBase q + 4096 * g + o) (bs.take (4096 - o))).fillEntry q 0 t (bs.drop (4096 - o))

/-- An entry's bytes. -/
def State.entryBytes (s : State) (q : Nat) (e : WbEntry) : List Byte :=
  e.gran.flatMap (fun g => Memory.read s.mem (wbufBase q + 4096 * g) 4096)

/-- Values that an entry was sized for: those of its dense shape, or of its pattern's window. -/
def State.entryValues (s : State) (q : Nat) (e : WbEntry) : Nat :=
  let x := e.desc.toNat
  if wPat x then
    (((s.ctx e.ctx).pslot q (wSlot x)).window (bitsOf x 31 16) (wRows x) (bitsOf x 15 0) (wCols x)).length
  else wRows x * wCols x

/-- A load that stops (R160): its granules are free, the entry is EMPTY, and the fault handler has its record. -/
def State.stopLoad (s : State) (q en cmd : Nat) (w : Who) (x code addr det : Nat) : State :=
  let s := ((s.setEntry q en WbEntry.reset).completeOp cmd).clearFetches cmd
  s.record (.quad q 4) w.ctx code false w.fromFault
    (s.engRec w addr det 4 en 0 (m14Of 0 0 0 en (wSlot x)))

/-- The pieces that a load reads: its values, then its block scales. -/
def State.loadPieces (s : State) (q : Nat) (en : WbEntry) : List (Nat × Nat) :=
  let x := en.desc.toNat
  pieces (bitsOf x 159 104) (denseBytes (wFmt x) (s.entryValues q en)) ++ pieces (bitsOf x 87 32) (2 * wScales x)

/-- Bytes of the first pieces of a list. -/
def piecesLen (ps : List (Nat × Nat)) (n : Nat) : Nat := ((ps.take n).map Prod.snd).sum

/-- A load reads its next 64-byte block, on this chip, and stores it (12 R242). -/
def State.loadBlock (s : State) (q e : Nat) : Out1 :=
  let en := (s.quad q).entry e
  match en.st, en.load with
  | .loading, some (cmd, w) =>
    let ps := s.loadPieces q en
    match ps[en.filled]? with
    | some (va, n) =>
      match s.readPiece (dieOfQuad q) w.ctx cmd en.filled va n with
      | .data bs =>
        .next ((s.fillEntry q (piecesLen ps en.filled) en.gran bs).setEntry q e { en with filled := en.filled + 1 })
      | _ => s.idle "the rest of the load decides"
    | none => s.idle "every block has been read"
  | _, _ => s.idle "no load is under way"

/-- The last read of a load arrives (R160): the values and scales fill the granules, and the note is made. -/
def execWbloadComplete (q e : Nat) (s : State) : Out1 :=
  let en := (s.quad q).entry e
  match en.st, en.load with
  | .loading, some (cmd, w) =>
    let x := en.desc.toNat
    let ps := s.loadPieces q en
    match s.engineRead w (dieOfQuad q) cmd en.filled (ps.drop en.filled) with
    | .sent s => .next s
    | .waits => s.idle "a peer's answer is under way"
    | .absent _ va r word level => s.heldStep w cmd va r word level 0
    | .bad _ code addr det => .next (s.stopLoad q e cmd w x code addr det)
    | .data bs =>
      let s := (((s.fillEntry q (piecesLen ps en.filled) en.gran bs).completeOp cmd).clearFetches cmd).setEntry q e { en with
        st := if en.evict.isSome then .evicting else .resident, load := none }
      .next (s.note 2 w (if bitsOf x 185 185 = 1 then some (bitsOf x 184 179) else none))
  | _, _ => s.idle "no load is under way"

/-- An array command reads an entry while it runs (R161, R163). -/
def Quad.readsEntry (k : Quad) (e : Nat) : Bool :=
  match k.running with
  | some r => decide (bitsOf r.cmd.desc.toNat 251 249 < 3) && bitsOf r.cmd.desc.toNat 211 206 == e
  | none => false

/-- Smallest scope that contains a quad and a core position. -/
def scopeOfQuad (q p : Nat) : Nat := if quadOf p = q then 2 else if dieOf p = dieOfQuad q then 3 else 4

/-- An EVICTING entry with PIN 0 and no reader is freed, and its completion is sent (R161). -/
def execWbEntryFree (q e : Nat) (s : State) : Out1 :=
  let k := s.quad q
  let en := k.entry e
  match en.st, en.evict with
  | .evicting, some (desc, w) =>
    if en.pin ≠ 0 ∨ k.readsEntry e then s.idle "the entry is in use"
    else
      let x := desc.toNat
      let c := en.ctx
      let hidx := bitsOf x 207 196
      let lc := bitsOf x 195 186
      let m := s.unitMsg c lc hidx (bitsOf x 175 160) (s.defaultPrio c (s.ctx c).gen hidx)
        (scopeOfQuad q (s.lc c lc).pos) [word64 e]
      .next ((s.setEntry q e WbEntry.reset).deliver w 0 m .none (xyOfQuad q) [] [] false (some inpArray))
  | _, _ => s.idle "the entry is not being evicted"

end Sys2Proof.Machine
end

