-- ==== Sys2Proof/Machine/Spring.lean ====
section
/-! DEFINITION. The spring (09 R194 to R196, R201, R202): SPLOAD, SPSEED and the requests it serves. -/

namespace Sys2Proof.Machine

open Sys2Proof

/-- SPLOAD's descriptor (Table 09-6). -/
def sploadOk (i : Inst) (s : State) (x : Nat) : Bool :=
  bitsOf x 255 252 == 7 && bitsOf x 241 240 == 0 && bitsOf x 151 128 == 0 && bitsOf x 63 0 == 0
    && (s.ctx i.ctx).holdsArr (quadOf s.curP)

/-- SPSEED uses PSLOT and SEED alone. -/
def spseedOk (i : Inst) (s : State) (x : Nat) : Bool :=
  bitsOf x 255 252 == 7 && bitsOf x 247 128 == 0 && bitsOf x 63 0 == 0 && (s.ctx i.ctx).holdsArr (quadOf s.curP)

/-- SPLOAD reads its words on the LS path as it issues (R194). -/
def execSpload (d : GReg) (a : XReg) (s : State) : Out1 :=
  s.onDesc (uses (.spload d a)) a sploadOk (fun i s x =>
    let va := bitsOf x 239 184
    let n := 4 * (bitsOf x 247 242 + 1)
    if va % 4 ≠ 0 then s.raise i fMisaligned va 0
    else
      match (s.ctx i.ctx).checkAddr va n false with
      | .error (code, addr, det) => s.raise i code addr det
      | .ok (k, r) =>
        let (fid, s) := s.request i (mkReq .read i k r va n [] 0 (.spload d (BitVec.ofNat 256 x))) r.kind true none [] []
        s.retire (i.await fid (gDest d) false none))

def execSpseed (d : GReg) (a : XReg) (s : State) : Out1 :=
  s.onDesc (uses (.spseed d a)) a spseedOk (fun i s x =>
    let (pid, s) := s.fresh
    let q := quadOf s.curP
    let k := s.quad q
    let s := s.setQuad q { k with
      springReqs := k.springReqs ++ [⟨s.clock, s.curP, whoOf i s.curP s.curS, .spseed (BitVec.ofNat 256 x) pid⟩] }
    s.retire (i.await pid (gDest d) false none))

/-! Serving (R195, R196). -/

/-- A slot is referenced by an entry that names it, or by a gather that has been served (R196). -/
def State.referenced (s : State) (c q ps : Nat) : Bool :=
  (s.quad q).wbe.any (fun e => e.2.st != .empty && e.2.ctx == c && wPat e.2.desc.toNat && wSlot e.2.desc.toNat == ps)
    || (List.range 4).any (fun k => (s.core (4 * q + k)).gathers.any (fun g =>
      g.who.ctx == c && g.served && bitsOf g.desc.toNat 251 251 == 1 && bitsOf g.desc.toNat 51 48 == ps))

/-- Little-endian words of 4 bytes. -/
def words32 (bs : List Byte) : List Nat := (List.range (bs.length / 4)).map (fun k => ofLe (sliceBytes bs (4 * k) 4))

/-- SPLOAD at the spring: gD, and the state (R194). -/
def State.serveLoad (s : State) (c q : Nat) (x : Nat) (bs : List Byte) : Nat × State :=
  let ps := bitsOf x 251 248
  let (s, corrupt) := s.checkSlot c q ps
  if s.referenced c q ps && !corrupt then (1, s)
  else if 2 ^ 32 - 1 - crc32c (2 ^ 32 - 1) bs ≠ bitsOf x 183 152 then (2, s)
  else
    let ws := words32 bs
    match construct ws with
    | .error r => (r, s)
    | .ok g => (0, s.setPslot c q ps (loadedSlot ws (word64 (bitsOf x 127 64)) g))

/-- The oldest request, by cycle and then by core (R195). -/
def firstSpring : List SpringReq → Option SpringReq
  | [] => none
  | r :: t =>
    match firstSpring t with
    | none => some r
    | some o => if o.cycle < r.cycle ∨ (o.cycle = r.cycle ∧ o.p < r.p) then some o else some r

/-- The record of a corrupt slot met by a unit (R202). -/
def State.corruptRec (s : State) (w : Who) (q ps unit wbe : Nat) : State :=
  let src : Source := if unit = 2 then .core (s.posOf w) 2 else .quad q unit
  let uidx := if unit = 4 then wbe else q % 64
  s.record src w.ctx fPattern false w.fromFault
    (s.engRec w 0 ps unit uidx 0 (if unit = 2 then 0 else m14Of 0 0 0 wbe ps))

/-- A served gather's positions: rows and columns of the window, up to COUNT (08 R176). -/
def gatherCoords (p : PSlot) (d sh : Nat) : List (Nat × Nat) :=
  (p.window (bitsOf d 31 16) (bitsOf sh 191 176) (bitsOf d 15 0) (bitsOf sh 175 160)).take (bitsOf d 222 207)

/-! Gathers that the spring serves (08 R174 to R176). -/

def gServed (x : Nat) : Bool := bitsOf x 251 251 == 1
def gLen (x : Nat) : Nat := bitsOf x 231 223

def shBase (sh : Nat) : Nat := bitsOf sh 247 192
def shExtent (sh d : Nat) : Nat := bitsOf sh (191 - 16 * d) (176 - 16 * d)
def shStride (sh d : Nat) : Nat := bitsOf sh (32 * d + 31) (32 * d)

/-- An element: its address unless it is out of range, its tag and its join slot. -/
structure GElem where
  addr : Option Nat
  tag : Nat
  jslot : Nat
  deriving DecidableEq, Repr

/-- Element `n` of the spring's positions. An extent of 0 in a dimension above the window's two bounds it out as well
(Table 08-8). -/
def springElem (x sh n : Nat) (kj : Nat × Nat) : GElem :=
  { addr := if shExtent sh 2 = 0 ∨ shExtent sh 3 = 0 then none
      else some (shBase sh + (kj.1 - bitsOf x 31 16) * shStride sh 0 + (kj.2 - bitsOf x 15 0) * shStride sh 1)
    tag := (bitsOf x 47 32 + n) % 65536
    jslot := 7 }

/-- The memories that the elements of a served gather read, and the elements whose page is absent (05 R101). -/
def State.servedMems (s : State) (c p x sh : Nat) (l : List (Nat × Nat)) : List MemName × List (Nat × Nat) :=
  s.memsOf (dieOf p) c false (l.zipIdx.filterMap (fun e => (springElem x sh e.2 e.1).addr.map (fun va => (va, gLen x))))

/-- The working state of a quad's spring has failed its parity (R202): the next stream ends, and the mark is gone. -/
def State.springFails (s : State) (q : Nat) : Bool × State :=
  let k := s.quad q
  if k.springBad then (true, s.setQuad q { k with springBad := false }) else (false, s)

/-- One request of the spring. A WBLOAD whose count ends at a corrupt slot or a spring that fails its parity has no value of gD
in R160 or R202: the model answers 0 (DESIGN CHOICE, log 33). -/
def State.serve (s : State) (q : Nat) (r : SpringReq) : State :=
  let c := r.who.ctx
  match r.what with
  | .spload d bs pid =>
    let (gd, s) := s.serveLoad c q d.toNat bs
    s.fillId pid (word64 gd)
  | .spseed d pid =>
    let ps := bitsOf d.toNat 251 248
    let (s, corrupt) := s.checkSlot c q ps
    if corrupt then s.raiseLate r.who fPattern 0 ps
    else if s.referenced c q ps then s.fillId pid 1
    else
      let x := (s.ctx c).pslot q ps
      if !x.loaded then s.fillId pid 2
      else (s.setPslot c q ps { x with seed := word64 (bitsOf d.toNat 127 64) }).fillId pid 0
  | .wbload d pid cmd =>
    let x := d.toNat
    if ((s.quad q).entry (wEntry x)).st != .empty then (s.completeOp cmd).fillId pid 1
    else
      let (s, corrupt) := s.checkSlot c q (wSlot x)
      let (parity, s) := s.springFails q
      if corrupt || parity then
        ((s.completeOp cmd).fillId pid 0).corruptRec r.who q (wSlot x) 4 (wEntry x)
      else
        let n := (((s.ctx c).pslot q (wSlot x)).window (bitsOf x 31 16) (wRows x) (bitsOf x 15 0) (wCols x)).length
        let (gd, s) := (s.signal 8 q).beginLoad q r.who cmd x n
        s.fillId pid (word64 gd)
  | .gather cmd =>
    let k := s.core r.p
    match k.gathers.find? (fun g => g.id = cmd) with
    | none => s
    | some g =>
      let d := g.desc.toNat
      let ps := bitsOf d 51 48
      let (s, corrupt) := s.checkSlot c q ps
      let (parity, s) := s.springFails q
      let k := s.core r.p
      if corrupt || parity then
        let s := (s.setCore r.p { k with gathers := k.gathers.filter (fun g => g.id != cmd) }).completeOp cmd
        s.corruptRec r.who q ps 2 0
      else
        let l := gatherCoords ((s.ctx c).pslot q ps) d g.shape.toNat
        let n := l.length
        let (mems, loose) := s.servedMems c r.p d g.shape.toNat l
        let s := s.mapOp cmd (fun o => { o with mems := mems, loose := loose, unserved := false })
        let k := s.core r.p
        s.setCore r.p { k with gathers := k.gathers.map (fun g =>
          if g.id = cmd then { g with served := true, total := n } else g) }

/-- The spring may serve a slot request: it serves one a cycle (R195). -/
def State.springFree (s : State) (q : Nat) : Bool := (s.quad q).springLast != some s.clock

end Sys2Proof.Machine
end

