-- ==== Sys2Proof/Machine/Array.lean ====
section
/-! DEFINITION. The outer-product array (08 R157, R158, R162 to R170; 02 R33 to R37; 22 R364). -/

namespace Sys2Proof.Machine

open Sys2Proof

/-! Tile descriptors (R157, R158). -/

def tOp (x : Nat) : Nat := bitsOf x 251 249
def tSet (x : Nat) : Nat := bitsOf x 248 248
def tZf (x : Nat) : Bool := bitsOf x 247 247 == 1
def tTr (x : Nat) : Bool := bitsOf x 246 246 == 1
def tSat (x : Nat) : Bool := bitsOf x 245 245 == 1
def tMode (x : Nat) : RMode :=
  match bitsOf x 243 242 with
  | 0 => .rne | 1 => .rtz | 2 => .rdn | _ => .rup
def tNm (x : Nat) : Bool := bitsOf x 241 241 == 1
def tChn (x : Nat) : Nat := bitsOf x 239 232
def tRows (x : Nat) : Nat := bitsOf x 231 225 + 1
def tWbe (x : Nat) : Nat := bitsOf x 211 206
def tFmt (x : Nat) : Fmt := fmtOfNum (bitsOf x 205 202)
def tAsm (x : Nat) : Nat := bitsOf x 201 200
def tAddr (x : Nat) : Nat := bitsOf x 143 88
def tScl (x : Nat) : BitVec 16 := BitVec.ofNat 16 (bitsOf x 87 72)
def tScaleAddr (x : Nat) : Nat := bitsOf x 71 16

/-- The checks of a tile descriptor at issue, and when a counter fires or the dispatcher posts (R156, R158, R162). -/
def tileOk (x : Nat) : Bool :=
  let scaled := decide (2 ≤ tAsm x)
  bitsOf x 255 252 == 1 && decide (tOp x ≤ 4) && decide (bitsOf x 244 242 < 4) && bitsOf x 240 240 == 0
    && bitsOf x 224 212 == 0 && bitsOf x 169 160 == 0 && bitsOf x 15 0 == 0
    && (if tOp x < 3 then
        (tAsm x == 1 || tScl x == 0) && (scaled || (bitsOf x 71 16 == 0 && bitsOf x 199 192 == 0))
          && (!scaled || denseOk (tFmt x) (bitsOf x 199 192 + 1))
      else
        bitsOf x 246 242 == 0 && bitsOf x 211 192 == 0 && bitsOf x 87 16 == 0
          && (if tOp x = 4 then tAddr x % 64 == 0 else !tZf x && tAddr x == 0))

/-! Accepting commands (R162). -/

/-- Commands of a core that an instruction gave and that have not completed. -/
def Quad.pendingOf (q : Quad) (p : Nat) : Nat :=
  (q.arrayQ.filter (fun c => c.origin = 0 && c.who.p = p)).length
    + (match q.running with
      | some r => if r.cmd.origin = 0 ∧ r.cmd.who.p = p then 1 else 0
      | none => 0)

/-- A command accepted by a quad's array: from an instruction, a counter (1) or the record dispatcher (2). -/
def State.acceptTile (s : State) (q : Nat) (c : ACmd) : State :=
  let k := s.quad q
  s.setQuad q { k with arrayQ := k.arrayQ ++ [c] }

/-- The memories that an array command writes, and the ranges that are not translated (05 R101). -/
def State.tileMems (s : State) (c q x : Nat) : List MemName × List (Nat × Nat) :=
  let (mems, loose) := if tOp x = 4 then s.memsOf (dieOfQuad q) c true [(tAddr x, 512 * tRows x)] else ([], [])
  (.accum q :: mems, loose)

/-- OPA instructions: FN must equal OP, and the context must hold the array. -/
def State.opa (s : State) (u : Uses) (fn : Nat) (d : GReg) (a : XReg) : Out1 :=
  s.onDesc u a (fun i s x => tileOk x && tOp x == fn && (s.ctx i.ctx).holdsArr (quadOf s.curP)) (fun i s x =>
    let q := quadOf s.curP
    let addrs : Check Unit :=
      if fn = 3 then .ok ()
      else
        match s.descAddr i.ctx (tAddr x) with
        | .error e => .error e
        | .ok () => if fn < 3 ∧ 2 ≤ tAsm x then s.descAddr i.ctx (tScaleAddr x) else .ok ()
    match addrs with
    | .error (code, addr, det) => s.raise i code addr det
    | .ok () =>
      if Config.arrayPerCore ≤ (s.quad q).pendingOf s.curP then s.retireLater i d 1
      else
        let (cmd, s) := s.fresh
        let s := s.addOp s.curP (engOp cmd i .ar (s.tileMems i.ctx q x))
        let s := s.acceptTile q ⟨cmd, BitVec.ofNat 256 x, whoOf i s.curP s.curS, 0, s.clock + 2⟩
        s.retireLater i d 0)

def execOpaMma (d : GReg) (a : XReg) (s : State) : Out1 := s.opa (uses (.opaMma d a)) 0 d a
def execOpaSel (d : GReg) (a : XReg) (s : State) : Out1 := s.opa (uses (.opaSel d a)) 1 d a
def execOpaSparse (d : GReg) (a : XReg) (s : State) : Out1 := s.opa (uses (.opaSparse d a)) 2 d a
def execOpaZero (d : GReg) (a : XReg) (s : State) : Out1 := s.opa (uses (.opaZero d a)) 3 d a
def execOpaDrain (d : GReg) (a : XReg) (s : State) : Out1 := s.opa (uses (.opaDrain d a)) 4 d a

/-! Operands of a command. -/

/-- K, N of a command on an entry (R165). -/
def tileK (x w : Nat) : Nat := if tTr x then wCols w else wRows w
def tileN (x w : Nat) : Nat := if tTr x then wRows w else wCols w

/-- Physical address of a range within the scratchpad window of one core of a quad (R158). -/
def State.quadScratch (s : State) (c q va n : Nat) : Option Nat :=
  (List.range 4).findSome? (fun k => (s.ctx c).scratchOf (4 * q + k) va n)

/-- Elements of one scale block of A and of B. -/
def tileEb (x : Nat) : Nat := elemsIn (tFmt x) (bitsOf x 199 192 + 1)
def wEb (w : Nat) : Nat := elemsIn (wFmt w) (bitsOf w 239 232 + 1)

/-- Scale blocks of A along K. -/
def tileBlocks (x k : Nat) : Nat := ceilDiv k (tileEb x)

/-- Where A and its scale tensor lie, when each lies wholly in a scratchpad of the quad (R158); a tensor of blocks along
M has no layout, and its command faults. -/
def State.tileOperands (s : State) (c q x k : Nat) : Option (Nat × Nat) :=
  match s.quadScratch c q (tAddr x) (denseBytes (tFmt x) (128 * k)) with
  | none => none
  | some a =>
    if tAsm x ≠ 2 then some (a, 0)
    else (s.quadScratch c q (tScaleAddr x) (256 * tileBlocks x k)).map (fun b => (a, b))

/-- A whole operand as one number, from which elements are read. -/
def State.tileBits (s : State) (pa n : Nat) : Nat := s.readLe pa n

/-- How a pair of formats accumulates (02 R33, Table 02-6). -/
inductive PairKind where
  | float (pair : Bool)
  | integer
  | sign
  deriving DecidableEq, Repr

def isSub8 : Fmt → Bool
  | .e3m2 | .e2m3 | .e2m1 => true
  | _ => false

def isIntOperand : Fmt → Bool
  | .i16 | .i8 | .n8 | .i4 | .n4 => true
  | _ => false

def pairKind (a b : Fmt) : Option PairKind :=
  if a.isFloat && b.isFloat then some (.float (isSub8 a && isSub8 b))
  else if isIntOperand a && isIntOperand b then some .integer
  else
    match a, b with
    | .i8, .t2 | .i8, .t5 | .i8, .b1 => some .sign
    | _, _ => none

/-- The commands that a pair admits (R164, step 2). SPARSE takes any pair of Table 02-6. -/
def pairAllowed (op : Nat) : PairKind → Bool
  | .sign => op != 0
  | _ => op != 1

/-- A reserved code among elements of a run. -/
def reservedIn (f : Fmt) (x : Nat) (l : List Nat) : Bool := l.any (fun k => (decodeElem f (readElem f x k)).2)

/-! Scales. -/

/-- The bf16 at element `k` of a scale tensor. -/
def scaleAt (x k : Nat) : BitVec 16 := BitVec.ofNat 16 (x / 2 ^ (16 * k))

/-- A bad scale of a list, the first. -/
def badScale (l : List (BitVec 16)) : Option (BitVec 16) := l.find? (fun v => !scaleOk v)

/-! The checks at a command's start (R164). -/

/-- What a command works on, once its checks have passed. -/
structure Tile where
  x : Nat
  w : Nat
  kind : PairKind
  k : Nat
  n : Nat
  a : Nat
  aScales : Nat
  b : Nat
  /-- The values as the command found them at its start, and the choice, element by element, of what a later write has
  changed (12 R248). -/
  b0 : Nat
  pick : Nat
  bScales : Nat
  deriving DecidableEq, Repr

/-- Block scales that a tile names, in order: those of A for its rows, then those of B. -/
def Tile.scales (t : Tile) : List (BitVec 16) :=
  let sa : List (BitVec 16) := match tAsm t.x with
    | 1 => [tScl t.x]
    | 2 => (List.range (tileBlocks t.x t.k)).flatMap (fun b => (List.range (tRows t.x)).map (fun i => scaleAt t.aScales (128 * b + i)))
    | _ => []
  let sb : List (BitVec 16) := match wScale t.w with
    | 1 => [BitVec.ofNat 16 (bitsOf t.w 103 88)]
    | 2 | 3 => (List.range (wScales t.w)).map (scaleAt t.bScales)
    | _ => []
  sa ++ sb

/-- Reads the operands of a command. -/
def State.tileOf (s : State) (q : Nat) (e : WbEntry) (x : Nat) (kind : PairKind) (a sa values : Nat) : Tile :=
  let w := e.desc.toNat
  let k := tileK x w
  let bs := s.entryBytes q e
  let n := denseBytes (wFmt w) values
  let b := ofLe (bs.take n)
  { x := x, w := w, kind := kind, k := k, n := tileN x w,
    a := s.tileBits a (denseBytes (tFmt x) (128 * k)),
    aScales := if tAsm x = 2 then s.tileBits sa (256 * tileBlocks x k) else 0,
    b := b, b0 := b, pick := 0, bScales := ofLe (sliceBytes bs n (2 * wScales w)) }

/-- Positions that the spring emits for an entry's pattern, in forward order: the index of one is its forward rank (09
R197). The spring takes them from the slot's table whenever it delivers (09 R200). -/
def State.tilePositions (s : State) (q : Nat) (e : WbEntry) : List (Nat × Nat) :=
  let w := e.desc.toNat
  if wPat w then ((s.ctx e.ctx).pslot q (wSlot w)).window (bitsOf w 31 16) (wRows w) (bitsOf w 15 0) (wCols w) else []

/-- The checks of MMA, SEL and SPARSE, in order: the fault's code and DET, or the tile. -/
def State.checkTile (s : State) (c q : Nat) (e : WbEntry) (x : Nat) : Except (Nat × Nat) Tile × State :=
  let w := e.desc.toNat
  let k := tileK x w
  let n := tileN x w
  match s.tileOperands c q x k with
  | none => (.error (fOperand, word3 x), s)
  | some (a, sa) =>
    if 128 < n then (.error (fOperand, word3 x), s)
    else
      match pairKind (tFmt x) (wFmt w) with
      | none => (.error (fEncoding, 0), s)
      | some kind =>
        if !pairAllowed (tOp x) kind || wPat w != (tOp x == 2) then (.error (fEncoding, 0), s)
        else
          let t := s.tileOf q e x kind a sa (s.entryValues q e)
          if reservedIn (wFmt w) t.b (List.range (s.entryValues q e)) then (.error (fEncoding, 0), s)
          else
            let ints : Bool := match kind with
              | .float _ => false
              | _ => true
            let scaled := tAsm x != 0 || wScale w != 0
            match (if ints then (if scaled then some (t.scales.headD 0) else none) else badScale t.scales) with
            | some v => (.error (fBadScale, v.toNat), s)
            | none =>
              if tAsm x = 3 ∨ (wScale w = 3 ∧ !tTr x) ∨ (wScale w = 2 ∧ tTr x) then (.error (fAxis, 0), s)
              else if tOp x ≠ 2 then (.ok t, s)
              else
                let ps := wSlot w
                let slot := (s.ctx e.ctx).pslot q ps
                if tTr x && !slot.inv then (.error (fNonInv, 0), s)
                else
                  let (s, corrupt) := s.checkSlot e.ctx q ps
                  if corrupt then (.error (fPattern, ps), s) else (.ok t, s)

/-! The accumulator sets (R165, R170). -/

def setBase (q set : Nat) : Nat := accumBase q + 65536 * set
def State.next (s : State) (q set : Nat) : Nat := if set = 0 then (s.quad q).next0 else (s.quad q).next1

/-- Zeroes blocks `lo` to `hi - 1` of a set: whole blocks, so their poison clears. -/
def State.zeroBlocks (s : State) (q set lo hi : Nat) : State :=
  if hi ≤ lo then s else s.ownerZero (setBase q set + 64 * lo) (64 * (hi - lo))

/-- Blocks of a set that a command zeroes: ZERO's rows, or the whole set where ZF asks (R165, R166). -/
def zeroCount (x : Nat) : Nat := if tOp x = 3 then 8 * tRows x else if tZf x then 1024 else 0

/-- A running command zeroes what is left for it to zero. -/
def State.zeroRest (s : State) (q : Nat) (r : ARun) : State × ARun :=
  let x := r.cmd.desc.toNat
  (s.zeroBlocks q (tSet x) r.zeroed (zeroCount x), { r with zeroed := zeroCount x })

/-- A running command, changed. -/
def State.setRun (s : State) (q : Nat) (r : ARun) : State := s.setQuad q { s.quad q with running := some r }

/-- A running command zeroes its next block (12 R242). -/
def State.zeroNext (s : State) (q : Nat) (r : ARun) : Out1 :=
  .next ((s.zeroBlocks q (tSet r.cmd.desc.toNat) r.zeroed (r.zeroed + 1)).setRun q { r with zeroed := r.zeroed + 1 })

/-! Starting a command (R163). -/

/-- A command that may start: its chain position has come and, for MMA, SEL and SPARSE, its entry is RESIDENT. One of a
context that stops is saved instead (R181). -/
def State.eligible (s : State) (q : Nat) (c : ACmd) : Bool :=
  let x := c.desc.toNat
  decide (c.stamp ≤ s.clock) && !(s.ctx c.who.ctx).paused && tChn x == s.next q (tSet x)
    && (decide (3 ≤ tOp x) || ((s.quad q).entry (tWbe x)).st == .resident)

/-- Order of acceptance (R162): by cycle, instructions before posts, then by core. -/
def ACmd.before (a b : ACmd) : Bool :=
  decide (a.stamp < b.stamp) || (a.stamp == b.stamp && (decide (a.origin < b.origin)
    || (a.origin == b.origin && decide (a.who.p < b.who.p))))

/-- The oldest of some commands. -/
def oldest : List ACmd → Option ACmd
  | [] => none
  | c :: t =>
    match oldest t with
    | none => some c
    | some o => if o.before c then some o else some c

/-- The record of a command (21 Table 21-2, UNIT 3). -/
def State.tileRecord (s : State) (q : Nat) (c : ACmd) (code addr det prog psl : Nat) : State :=
  let x := c.desc.toNat
  s.record (.quad q 3) c.who.ctx code false c.who.fromFault
    (s.engRec c.who addr det 3 (q % 64) prog (m14Of (tOp x) (tSet x) (tChn x) (tWbe x) psl))

/-- Pattern slot that a command's entry names. -/
def WbEntry.psl (e : WbEntry) : Nat := if wPat e.desc.toNat then wSlot e.desc.toNat else 0

/-- The cycle in which a SPARSE's start first asked the spring for its slot. -/
def State.askedAt (s : State) (q : Nat) (c : ACmd) : Nat :=
  match (s.quad q).springAsk with
  | some (n, k) => if k = c.id then n else s.clock
  | none => s.clock

/-- The command that an idle array starts next: the oldest that is eligible (R163). -/
def State.startable (s : State) (q : Nat) : Option ACmd :=
  if (s.quad q).running.isSome then none else oldest ((s.quad q).arrayQ.filter (s.eligible q))

/-- A SPARSE's start asks the spring for its slot: it comes before the cores' requests of its cycle and after older ones, and
the spring serves one request a cycle (09 R195). -/
def State.springTurn (s : State) (q : Nat) (c : ACmd) : Bool :=
  s.springFree q && (s.quad q).springReqs.all (fun r => decide (s.askedAt q c ≤ r.cycle))

/-- A start that asked the spring in or before the cycle of a core's request comes before it. -/
def State.startFirst (s : State) (q : Nat) (r : SpringReq) : Bool :=
  match s.startable q, (s.quad q).springAsk with
  | some c, some (n, k) => c.id == k && decide (n ≤ r.cycle)
  | _, _ => false

/-- The spring serves its oldest request, once every request of that request's cycle stands before it (09 R195). -/
def execSpringServe (q : Nat) (s : State) : Out1 :=
  let k := s.quad q
  match firstSpring k.springReqs with
  | none => s.idle "no request waits at the spring"
  | some r =>
    if !s.springFree q || decide (s.clock ≤ r.cycle) then s.idle "the spring serves one request a cycle"
    else if s.startFirst q r then s.idle "an array command's start comes first"
    else .next ((s.setQuad q { k with springReqs := k.springReqs.erase r, springLast := some s.clock }).serve q r)

/-- A command that runs, as it starts. -/
def ARun.start (c : ACmd) (flt : Bool) (values : Nat) (tro : Bool) : ARun :=
  { cmd := c, done := 0, flt := flt, values := values, cur := { tro := tro } }

/-- The array starts a command (R163). A start pins its entry whatever its PIN: from 65,535 it counts on to 65,536 (DESIGN
CHOICE, log 33). -/
def execArrayCommandStart (q : Nat) (s : State) : Out1 :=
  let k := s.quad q
  match s.startable q with
  | some c =>
    let x := c.desc.toNat
    if tOp x = 2 && !s.springTurn q c then .next (s.setQuad q { k with springAsk := some (s.askedAt q c, c.id) })
    else
      let s := s.setQuad q { k with
        arrayQ := k.arrayQ.erase c, springAsk := none, springLast := if tOp x = 2 then some s.clock else k.springLast }
      let run (s : State) (flt : Bool) (values : Nat) : State := s.setRun q (ARun.start c flt values (tTr x))
      if 3 ≤ tOp x then .next (run s false 0)
      else
        let e := k.entry (tWbe x)
        let s := s.setEntry q (tWbe x) { e with pin := e.pin + 1 }
        match s.checkTile c.who.ctx q e x with
        | (.error (code, det), s) => .next ((run s true 0).tileRecord q c code 0 det 0 e.psl)
        | (.ok t, s) => .next (run s false t.b)
  | none => s.idle "no command can start"

/-! The steps (R165; 02 R34 to R36). -/

/-- Element (i, k) of A. -/
def Tile.aElem (t : Tile) (i k : Nat) : Nat := readElem (tFmt t.x) t.a (128 * k + i)

/-- Value `n` of the entry. One that a write has changed since the command started is read as it was or as it is (12
R248). -/
def Tile.bValue (t : Tile) (n : Nat) : Nat :=
  readElem (wFmt t.w) (if t.b0 = t.b || t.pick.testBit n then t.b else t.b0) n

/-- The stored value of position (k, j) of B: by its place in the dense entry, or by its forward rank. -/
def Tile.bElem (t : Tile) (coords : List (Nat × Nat)) (k j : Nat) : Option Nat :=
  let (r, c) := if tTr t.x then (j, k) else (k, j)
  if tOp t.x = 2 then
    let at_ := (bitsOf t.w 31 16 + r, bitsOf t.w 15 0 + c)
    let n := coords.idxOf at_
    if n < coords.length then some (t.bValue n) else none
  else some (t.bValue (r * wCols t.w + c))

def one16 : BitVec 16 := 0x3F80

/-- Scale of A at (i, k), and of B at (k, j). -/
def Tile.aScale (t : Tile) (i k : Nat) : BitVec 16 :=
  match tAsm t.x with
  | 1 => tScl t.x
  | 2 => scaleAt t.aScales (128 * (k / tileEb t.x) + i)
  | _ => one16

def Tile.bScale (t : Tile) (k j : Nat) : BitVec 16 :=
  match wScale t.w with
  | 1 => BitVec.ofNat 16 (bitsOf t.w 103 88)
  | 2 => scaleAt t.bScales (k / wEb t.w * wCols t.w + j)
  | 3 => scaleAt t.bScales (j * ceilDiv (wCols t.w) (wEb t.w) + k / wEb t.w)
  | _ => one16

/-- The exact product of one step, with NV when it is invalid. -/
def Tile.product (t : Tile) (i k j b : Nat) : XR × Bool :=
  let (xa, na) := scaleApply (decodeElem (tFmt t.x) (t.aElem i k)).1 (t.aScale i k)
  let (xb, nb) := scaleApply (decodeElem (wFmt t.w) b).1 (t.bScale k j)
  let (p, np) := mulX xa xb
  (p, na || nb || np)

/-- One rounded sum into an f32 accumulator. -/
def accumulate (mode : RMode) (acc : Nat × Flags) (v : XR) (nv : Bool) : Nat × Flags :=
  let (x, n) := addX mode (decodeFloat (fpOf .f32) acc.1) v
  let (c, fl) := roundFloat (fpOf .f32) mode false x
  (c, acc.2.or { fl with nv := fl.nv || n || nv })

/-- One element's steps outside pair mode. -/
def Tile.floatSteps (t : Tile) (coords : List (Nat × Nat)) (i j : Nat) : List Nat → Nat × Flags → Nat × Flags
  | [], acc => acc
  | k :: ks, acc =>
    match t.bElem coords k j with
    | none => t.floatSteps coords i j ks acc
    | some b =>
      let (v, nv) := t.product i k j b
      t.floatSteps coords i j ks (accumulate (tMode t.x) acc v nv)

/-- The exact sum of a step pair's products (02 R34): a product by itself keeps its sign when it is 0 (02 R29). -/
def pairSum (mode : RMode) : List (XR × Bool) → XR × Bool
  | [] => (.fin false 0 0 false, false)
  | e :: t => t.foldl (fun a e =>
      let (x, n) := addX mode a.1 e.1
      (x, a.2 || n || e.2)) e

/-- One element's step pairs (02 R34): pair `h` holds steps 2h and 2h + 1. -/
def Tile.pairSteps (t : Tile) (coords : List (Nat × Nat)) (i j k : Nat) : List Nat → Nat × Flags → Nat × Flags
  | [], acc => acc
  | h :: hs, acc =>
    let vs := ((List.range 2).map (fun o => 2 * h + o)).filterMap (fun n =>
      if n < k then (t.bElem coords n j).map (t.product i n j) else none)
    match vs with
    | [] => t.pairSteps coords i j k hs acc
    | _ =>
      let (v, nv) := pairSum (tMode t.x) vs
      t.pairSteps coords i j k hs (accumulate (tMode t.x) acc v nv)

/-- One element's integer steps (02 R35). -/
def Tile.intSteps (t : Tile) (coords : List (Nat × Nat)) (i j : Nat) : List Nat → Nat × Flags → Nat × Flags
  | [], acc => acc
  | k :: ks, acc =>
    match t.bElem coords k j with
    | none => t.intSteps coords i j ks acc
    | some b =>
      let v := signedOf 32 acc.1 + intOf (tFmt t.x) (t.aElem i k) * intOf (wFmt t.w) b
      if tSat t.x then
        let (y, c) := clampInt (-(2 ^ 31)) (2 ^ 31 - 1) v
        t.intSteps coords i j ks (wrapCode 32 y, acc.2.or { sat := c })
      else t.intSteps coords i j ks (wrapCode 32 v, acc.2)

/-- Steps `lo` to `hi - 1`. -/
def stepRange (lo hi : Nat) : List Nat := (List.range hi).drop lo

/-- Element (i, j) after steps `lo` to `hi - 1`; in pair mode `lo` is even. -/
def Tile.element (t : Tile) (coords : List (Nat × Nat)) (i j lo hi old : Nat) : Nat × Flags :=
  match t.kind with
  | .float true => t.pairSteps coords i j hi (stepRange (lo / 2) (ceilDiv hi 2)) (old, {})
  | .float false => t.floatSteps coords i j (stepRange lo hi) (old, {})
  | _ => t.intSteps coords i j (stepRange lo hi) (old, {})

/-- The steps of a whole set: row by row, its elements read, accumulated and written. -/
def State.tileRows (s : State) (q : Nat) (t : Tile) (coords : List (Nat × Nat)) (lo hi : Nat) :
    List Nat → State × Flags → State × Flags
  | [], acc => acc
  | i :: is, acc =>
    let base := setBase q (tSet t.x) + 512 * i
    let es := (List.range t.n).map (fun j => t.element coords i j lo hi (acc.1.readLe (base + 4 * j) 4))
    let s' := acc.1.ownerWrite base (es.flatMap (fun e => leBytes 4 e.1))
    s.tileRows q t coords lo hi is (s', es.foldl (fun f e => f.or e.2) acc.2)

/-- Positions (k, j) of steps `lo` to `hi - 1` that are present. -/
def Tile.presentCount (t : Tile) (coords : List (Nat × Nat)) (lo hi : Nat) : Nat :=
  ((stepRange lo hi).map (fun n => ((List.range t.n).filter (fun j => (t.bElem coords n j).isSome)).length)).sum

/-- Non-finite values of A at absent positions (02 R36). -/
def Tile.nonFinite (t : Tile) (coords : List (Nat × Nat)) (lo hi : Nat) : Nat :=
  ((stepRange lo hi).map (fun n =>
    let odd := ((List.range (tRows t.x)).filter (fun i =>
      match (decodeElem (tFmt t.x) (t.aElem i n)).1 with
      | .fin _ _ _ _ => false
      | _ => true)).length
    odd * ((List.range t.n).filter (fun j => (t.bElem coords n j).isNone)).length)).sum

/-- K′ of a command, faulted or not (Table 08-3, R168): the steps at which a position is present; 0 for ZERO and DRAIN. -/
def State.kPrime (s : State) (q : Nat) (e : WbEntry) (x : Nat) : Nat :=
  let w := e.desc.toNat
  if 3 ≤ tOp x then 0
  else if tOp x = 2 then
    ((s.tilePositions q e).map (fun c => if tTr x then c.2 else c.1)).eraseDups.length
  else tileK x w

/-- The ARR counter of a command (22 R364). -/
def Tile.arrFmt (t : Tile) : Fmt :=
  if tOp t.x = 1 then wFmt t.w else if fmtWidth (tFmt t.x) < fmtWidth (wFmt t.w) then wFmt t.w else tFmt t.x

/-- A poisoned block of a weight buffer among those that hold an entry's values and scales. -/
def State.entryPoison (s : State) (q : Nat) (e : WbEntry) : Option Nat :=
  let w := e.desc.toNat
  let n := denseBytes (wFmt w) (s.entryValues q e) + 2 * wScales w
  e.gran.zipIdx.findSome? (fun g => s.poisonAt (wbufBase q + 4096 * g.1) (min 4096 (n - 4096 * g.2)))

/-- The first step, from `lo` on, that reads a poisoned block: its number, the block and the structure (R164, 21 R353). -/
def State.tilePoison (s : State) (q : Nat) (e : WbEntry) (t : Tile) (a sa : Nat) (lo : Nat := 0) : Option (Nat × Nat × Nat) :=
  let ofSet := (List.range (tRows t.x)).findSome? (fun i => s.poisonAt (setBase q (tSet t.x) + 512 * i) (4 * t.n))
  if e.poisoned then some (lo, 0, 4)
  else
    match s.entryPoison q e, ofSet with
    | some b, _ => some (lo, 64 * b, 4)
    | none, some b => some (lo, 64 * b, 3)
    | none, none =>
      (stepRange lo t.k).findSome? (fun k =>
        let lo := elemPos (tFmt t.x) (128 * k) / 8
        let n := denseBytes (tFmt t.x) (tRows t.x)
        match s.poisonAt (a + lo) n with
        | some b => some (k, 64 * b, 2)
        | none =>
          if tAsm t.x ≠ 2 then none
          else (s.poisonAt (sa + 256 * (k / tileEb t.x)) (2 * tRows t.x)).map (fun b => (k, 64 * b, 2)))

/-! Completion (R167, R168). -/

/-- m8 of the completion message (Table 08-4). -/
def tileWord (x nf : Nat) (flt : Bool) (f : Flags) : Word :=
  word64 (min nf (2 ^ 32 - 1) * 2 ^ 32 + tOp x * 2 ^ 24 + tChn x * 2 ^ 16 + tSet x * 256 + cond flt 32 0
    + cond f.sat 16 0 + cond f.nv 8 0 + cond f.ovf 4 0 + cond f.unf 2 0 + cond f.nx 1 0)

/-- A command completes: NEXT advances, its entry is unpinned, and its message is sent. -/
def State.finishTile (s : State) (q : Nat) (r : ARun) (flt : Bool) (flags : Flags) (nf kp : Nat) : State :=
  let c := r.cmd
  let x := c.desc.toNat
  let k := s.quad q
  let nxt := (tChn x + 1) % 256
  let k := { k with
    running := none
    next0 := if tSet x = 0 then nxt else k.next0
    next1 := if tSet x = 0 then k.next1 else nxt }
  let k := if tOp x < 3 then
      let e := k.entry (tWbe x)
      { k with wbe := k.wbe.put (tWbe x) { e with pin := e.pin - 1 } }
    else k
  let s := ((s.setQuad q k).completeOp c.id).clearFetches c.id
  if tNm x then s
  else
    let s := s.count (dieOfQuad q) c.who.ctx 0x11 (min nf (2 ^ 32 - 1))
    let ctx := c.who.ctx
    let hidx := bitsOf x 191 180
    let lc := bitsOf x 179 170
    let m := s.unitMsg ctx lc hidx (bitsOf x 159 144) (s.defaultPrio ctx (s.ctx ctx).gen hidx)
      (scopeOfQuad q (s.lc ctx lc).pos) [tileWord x nf flt flags, word64 kp]
    s.deliver c.who 0 m .none (xyOfQuad q) [] [] false (some inpArray)

/-- Positions of a SPARSE's window in the order in which the spring delivers them (09 R197). -/
def State.tileOrder (s : State) (q : Nat) (t : Tile) : List (Nat × Nat) :=
  let w := t.w
  let slot := (s.ctx ((s.quad q).entry (tWbe t.x)).ctx).pslot q (wSlot w)
  if tTr t.x then slot.windowT (bitsOf w 31 16) (wRows w) (bitsOf w 15 0) (wCols w)
  else slot.window (bitsOf w 31 16) (wRows w) (bitsOf w 15 0) (wCols w)

/-- Steps `r.steps` to `hi - 1` of a command: the set, the command's progress, and the counters (22 R364). -/
def State.stepTile (s : State) (q : Nat) (r : ARun) (t : Tile) (coords : List (Nat × Nat)) (hi : Nat) : State × ARun :=
  let (s, flags) := s.tileRows q t coords r.steps hi (List.range (tRows t.x)) (s, r.flags)
  let present := t.presentCount coords r.steps hi
  let die := dieOfQuad q
  let c := r.cmd.who.ctx
  let s := s.count die c (fmtNum t.arrFmt) (2 * tRows t.x * present)
  if tOp t.x = 2 then
    (s.count die c 0x10 (tRows t.x * ((hi - r.steps) * t.n - present)),
      { r with steps := hi, flags := flags, nf := r.nf + t.nonFinite coords r.steps hi
               cur := Cursor.after (tTr t.x) (s.tileOrder q t) (r.cur.done + present) })
  else (s, { r with steps := hi, flags := flags })

/-- Operands of a running command, as they now are: the tile, and where A and its scales lie. -/
def State.runOperands (s : State) (q : Nat) (r : ARun) : Option (Tile × Nat × Nat) × State :=
  let x := r.cmd.desc.toNat
  let e := (s.quad q).entry (tWbe x)
  let w := e.desc.toNat
  match s.tileOperands r.cmd.who.ctx q x (tileK x w), pairKind (tFmt x) (wFmt w) with
  | some (a, sa), some kind =>
    let t := s.tileOf q e x kind a sa (s.entryValues q e)
    if t.b = r.values then (some (t, a, sa), s)
    else
      let (n, s) := s.free
      (some ({ t with b0 := r.values, pick := n }, a, sa), s)
  | _, _ => (none, s)

/-- A SPARSE whose spring fails its parity ends as one whose pattern is corrupt (09 R202). -/
def State.springStop (s : State) (q : Nat) (r : ARun) (e : WbEntry) : State :=
  let s := s.setQuad q { s.quad q with springBad := false }
  (s.tileRecord q r.cmd fPattern 0 e.psl r.steps e.psl).finishTile q r true r.flags r.nf (s.kPrime q e r.cmd.desc.toNat)

/-- The steps that are left of MMA, SEL and SPARSE, or those before a poisoned operand; then completion. -/
def State.runTile (s : State) (q : Nat) (r : ARun) (t : Tile) (e : WbEntry) (a sa : Nat) : State :=
  let coords := s.tilePositions q e
  let bad := s.tilePoison q e t a sa r.steps
  let hi := match bad with
    | some (k, _, _) => if t.kind = .float true then k / 2 * 2 else k
    | none => t.k
  let (s, r) := s.stepTile q r t coords hi
  match bad with
  | some (_, addr, st) =>
    (s.tileRecord q r.cmd fUncorr addr st hi e.psl).finishTile q r true r.flags r.nf (s.kPrime q e t.x)
  | none => s.finishTile q r false r.flags r.nf (s.kPrime q e t.x)

/-- The array takes one step of MMA, SEL or SPARSE, or one step pair (R170). The last steps, and those that meet an error,
are the completion's. -/
def State.tileStep (s : State) (q : Nat) (r : ARun) : Out1 :=
  let x := r.cmd.desc.toNat
  let e := (s.quad q).entry (tWbe x)
  match s.runOperands q r with
  | (some (t, a, sa), s) =>
    let hi := r.steps + (if t.kind = .float true then 2 else 1)
    if t.k ≤ hi || (s.tilePoison q e t a sa r.steps).isSome || (tOp x = 2 && (s.quad q).springBad) then
      s.idle "the completion decides"
    else
      let (s, r) := s.stepTile q r t (s.tilePositions q e) hi
      let s := (s.signal 1 q).setRun q r
      .next (if tOp x = 2 then s.signal 8 q else s)
  | (none, s) => s.idle "the completion decides"

/-- One row of a DRAIN: its pieces. -/
def drainRow (x i : Nat) : List (Nat × Nat) := pieces (tAddr x + 512 * i) 512

/-- The pieces that are left of a DRAIN's row whose places are known. -/
def State.rowLeft (s : State) (q : Nat) (r : ARun) (ts : List Target) : List Put :=
  let x := r.cmd.desc.toNat
  (engPuts ts (drainRow x r.done) (Memory.read s.mem (setBase q (tSet x) + 512 * r.done) 512)).drop r.blocks

/-- A DRAIN stops at a row that is refused, or whose source is poisoned (R166, 21 R353). -/
def State.drainStop (s : State) (q : Nat) (r : ARun) (code addr det : Nat) : State :=
  (s.tileRecord q r.cmd code addr det r.done 0).finishTile q r true {} 0 0

/-- A row of a DRAIN has been written. -/
def ARun.rowDone (r : ARun) : ARun := { r with done := r.done + 1, row := none, blocks := 0 }

/-- A row that may be written has its places; one that is refused stops its command; one whose page is absent waits (R166, 17
R299). -/
def State.drainFix (s : State) (q : Nat) (r : ARun) (go : State → ARun → List Target → Out1) : Out1 :=
  let x := r.cmd.desc.toNat
  let w := r.cmd.who
  match s.poisonAt (setBase q (tSet x) + 512 * r.done) 512 with
  | some b => .next (s.drainStop q r fUncorr (64 * b) 3)
  | none =>
    match s.engineFix w (dieOfQuad q) r.cmd.id (drainRow x r.done) with
    | .sent s => .next (s.setRun q r)
    | .waits => .next (s.setRun q r)
    | .bad code addr det => .next (s.drainStop q r code addr det)
    | .absent va rg word level => .next (((s.holdEngine w r.cmd.id va rg word level r.done).getD s).setRun q r)
    | .places ts => go s { r with row := some ts } ts

/-- A DRAIN writes its next block: its row's pages are translated and checked before its first one (R166, 12 R242). -/
def State.drainBlock (s : State) (q : Nat) (r : ARun) : Out1 :=
  match r.row with
  | none => s.drainFix q r (fun s r _ => .next (s.setRun q r))
  | some ts =>
    match s.putNext r.cmd.who r.cmd.id (s.rowLeft q r ts) with
    | .moved s n => .next (s.setRun q { r with blocks := r.blocks + n })
    | .waits => s.idle "a peer's acknowledgement, or an earlier access at an owner, is under way"
    | .bad code addr det => .next (s.drainStop q r code addr det)
    | .done s => .next ((s.clearFetches r.cmd.id).setRun q r.rowDone)

/-- A DRAIN goes on from the rows it has written, as far as it can (R166); `n` are left. -/
def State.drainRows (q : Nat) : Nat → ARun → State → Out1
  | 0, r, s =>
    let (s, r) := s.zeroRest q r
    .next (s.finishTile q r false {} 0 0)
  | n + 1, r, s =>
    let go (s : State) (r : ARun) (ts : List Target) : Out1 :=
      match s.putRest r.cmd.who r.cmd.id (s.rowLeft q r ts) with
      | .moved s k => .next (s.setRun q { r with blocks := r.blocks + k })
      | .waits => .next (s.setRun q r)
      | .bad code addr det => .next (s.drainStop q r code addr det)
      | .done s => State.drainRows q n r.rowDone (s.clearFetches r.cmd.id)
    match r.row with
    | some ts => go s r ts
    | none => s.drainFix q r go

/-- The array moves on by one step or one block. -/
def State.arrayStep (s : State) (q : Nat) : Out1 :=
  match (s.quad q).running with
  | none => s.idle "no command runs"
  | some r =>
    let x := r.cmd.desc.toNat
    if r.flt then s.idle "the command has faulted"
    else if tOp x = 4 ∧ r.done < tRows x then s.drainBlock q r
    else if r.zeroed < zeroCount x then s.zeroNext q r
    else if 3 ≤ tOp x then s.idle "the completion decides"
    else s.tileStep q r

/-- A command of the array completes with what is left of it: its zeroing, its steps or its rows (R164 to R168). -/
def execArrayCommandComplete (q : Nat) (s : State) : Out1 :=
  match (s.quad q).running with
  | none => s.idle "no command runs"
  | some r =>
    let x := r.cmd.desc.toNat
    let e := (s.quad q).entry (tWbe x)
    if r.flt then .next (s.finishTile q r true {} 0 (s.kPrime q e x))
    else if tOp x = 4 then State.drainRows q (tRows x - r.done) r s
    else
      let (s, r) := s.zeroRest q r
      if tOp x = 3 then .next (s.finishTile q r false {} 0 0)
      else if tOp x = 2 && (s.quad q).springBad then .next (s.springStop q r e)
      else
        match s.runOperands q r with
        | (some (t, a, sa), s) =>
          let s := s.signal 1 q
          .next ((if tOp x = 2 then s.signal 8 q else s).runTile q r t e a sa)
        | (none, s) => .next (s.finishTile q r true {} 0 (s.kPrime q e x))

end Sys2Proof.Machine
end

