-- ==== Sys2Proof/Machine/Copy.lean ====
section
/-! DEFINITION. The copy engine and engine control (08 R171 to R173, R178 to R180). -/

namespace Sys2Proof.Machine

open Sys2Proof

/-! Descriptors (R171). -/

def cNote (x : Nat) : Bool := bitsOf x 249 249 == 1
def cCtr (x : Nat) : Nat := bitsOf x 248 243
def cLen (x : Nat) : Nat := bitsOf x 127 96
def cRows (x : Nat) : Nat := max 1 (bitsOf x 95 80)

/-- A copy descriptor; `lin` for CPLIN, which has no rows. -/
def copyOk (lin : Bool) (i : Inst) (s : State) (x : Nat) : Bool :=
  bitsOf x 255 252 == 3 && bitsOf x 251 250 == 0 && bitsOf x 242 240 == 0 && bitsOf x 23 0 == 0
    && cLen x != 0 && (cNote x || cCtr x == 0)
    && (!cNote x || decide (cCtr x < (s.lc i.ctx i.lcore).ctrn))
    && (if lin then bitsOf x 95 24 == 0 else bitsOf x 95 80 != 0)

def extOk (e : Nat) : Bool :=
  bitsOf e 255 252 == 4 && bitsOf e 251 236 != 0 && bitsOf e 235 220 != 0 && bitsOf e 27 0 == 0

/-- Counts and strides of dimensions 2 and 3: 1, 1 and zeros without an extension. -/
structure CopyExt where
  n2 : Nat := 1
  n3 : Nat := 1
  s2s : Nat := 0
  s2d : Nat := 0
  s3s : Nat := 0
  s3d : Nat := 0
  deriving DecidableEq, Repr

def extOf : Option Nat → CopyExt
  | none => {}
  | some e =>
    { n2 := bitsOf e 251 236, n3 := bitsOf e 235 220, s2s := bitsOf e 219 172, s2d := bitsOf e 171 124,
      s3s := bitsOf e 123 76, s3d := bitsOf e 75 28 }

/-- Bytes of a stream (R172). -/
def streamLen (x : Nat) (e : CopyExt) : Nat := cLen x * cRows x * e.n2 * e.n3

/-- Source and destination of stream byte `o`, and the bytes that follow it in its row. -/
def streamAt (x : Nat) (e : CopyExt) (o : Nat) : Nat × Nat × Nat :=
  let row := o / cLen x
  let off := o % cLen x
  let r := row % cRows x
  let i2 := row / cRows x % e.n2
  let i3 := row / cRows x / e.n2
  (bitsOf x 239 184 + i3 * e.s3s + i2 * e.s2s + r * bitsOf x 79 52 + off,
    bitsOf x 183 128 + i3 * e.s3d + i2 * e.s2d + r * bitsOf x 51 24 + off, cLen x - off)

/-- The rows and parts of rows of stream bytes [o, stop): source, destination, length. -/
def streamParts (x : Nat) (e : CopyExt) (stop : Nat) : Nat → Nat → List (Nat × Nat × Nat)
  | 0, _ => []
  | fuel + 1, o =>
    if stop ≤ o then []
    else
      let (sa, da, n) := streamAt x e o
      let m := min n (stop - o)
      (sa, da, m) :: streamParts x e stop fuel (o + m)

/-! Issue (R172). -/

/-- Accepts a copy command, or refuses it while the engine is stopped. -/
def State.copyIssue (s : State) (i : Inst) (d : GReg) (x : Nat) (ext : Option Nat) : Out1 :=
  if 2 ^ 48 < streamLen x (extOf ext) then s.raise i fOperand 0 (word3 x)
  else
    match (match s.descAddr i.ctx (bitsOf x 239 184) with
      | .error e => Except.error e
      | .ok () => s.descAddr i.ctx (bitsOf x 183 128)) with
    | .error (code, addr, det) => s.raise i code addr det
    | .ok () =>
      let k := s.core s.curP
      if k.copyStop.isSome then s.retireLater i d 1
      else
        let (cmd, s) := s.fresh
        let k := s.core s.curP
        let c : CopyCmd := ⟨cmd, whoOf i s.curP s.curS, BitVec.ofNat 256 x, ext.map (BitVec.ofNat 256), 0, 0, [], none, 0⟩
        let s := s.setCore s.curP { k with copyQ := k.copyQ ++ [c] }
        let e := extOf ext
        let rows := streamParts x e (streamLen x e) (cRows x * e.n2 * e.n3) 0
        let mems := s.memsOf (dieOf s.curP) i.ctx true (rows.map (fun r => (r.2.1, r.2.2)))
        let s := s.addOp s.curP (engOp cmd i .cp mems)
        s.retireLater i d 0

def execCplin (d : GReg) (a : XReg) (s : State) : Out1 :=
  s.onDesc (uses (.cplin d a)) a (copyOk true) (fun i s x => s.copyIssue i d x none)

def execCp2d (d : GReg) (a : XReg) (s : State) : Out1 :=
  s.onDesc (uses (.cp2d d a)) a (copyOk false) (fun i s x => s.copyIssue i d x none)

def execCpten (d : GReg) (a b : XReg) (s : State) : Out1 :=
  s.onDesc (uses (.cpten d a b)) a (copyOk false) (fun i s x =>
    let e := (i.readD b).toNat
    if extOk e then s.copyIssue i d x (some e) else s.raise i fOperand 0 (word3 e))

/-! Chunks (R173). -/

/-- A command at the start of a chunk. -/
def CopyCmd.atChunk (c : CopyCmd) (n : Nat) : CopyCmd := { c with chunk := n, reads := 0, got := [], dst := none, puts := 0 }

/-- A fault of a chunk stops the engine: the command goes to the stop register, to start its chunk again. -/
def State.copyStopped (s : State) (p : Nat) (c : CopyCmd) : State :=
  let k := s.core p
  (s.setCore p { k with copyQ := k.copyQ.drop 1, copyStop := some (c.atChunk c.chunk) }).clearFetches c.id

/-- The record of a stopped engine names the resume offset. -/
def State.copyFault (s : State) (p : Nat) (c : CopyCmd) (code addr det : Nat) : State :=
  let s := s.copyStopped p c
  s.record (.core p 1) c.who.ctx code false c.who.fromFault (s.engRec c.who addr det 1 0 (4096 * c.chunk) 0)

/-- A page fault stops the engine as any fault does. Its record is the slice's, one for each word, with the level and, as
progress, the resume offset (17 R298, R299). A slice that is full returns the request, which the engine sends again. -/
def State.copyPage (s : State) (p : Nat) (c : CopyCmd) (va region word level : Nat) : Out1 :=
  let (die, k) := s.engineSlice c.who va region
  if Config.heldPerSlice ≤ s.heldCount die k then s.idle "the slice is full"
  else
    let info := { recOf c.who (s.ended c.who) va word with unit := 7, uidx := level, prog := 4096 * c.chunk }
    .next ((s.copyStopped p c).pageRecord die k c.who.ctx word c.who.fromFault info)

/-- A chunk has been written: the next one, or the command's end with its note. -/
def State.chunkDone (s : State) (p : Nat) (c : CopyCmd) : State :=
  let x := c.desc.toNat
  let s := s.clearFetches c.id
  let k := s.core p
  if 4096 * (c.chunk + 1) < streamLen x (extOf (c.ext.map BitVec.toNat)) then
    s.setCore p { k with copyQ := c.atChunk (c.chunk + 1) :: k.copyQ.drop 1 }
  else
    ((s.setCore p { k with copyQ := k.copyQ.drop 1 }).completeOp c.id).note 0 c.who (if cNote x then some (cCtr x) else none)

/-- The pieces that a command's present chunk reads, and those that it writes. -/
def CopyCmd.pieces (c : CopyCmd) : List (Nat × Nat) × List (Nat × Nat) :=
  let x := c.desc.toNat
  let e := extOf (c.ext.map BitVec.toNat)
  let lo := 4096 * c.chunk
  let parts := streamParts x e (min (streamLen x e) (lo + 4096)) 4096 lo
  (parts.flatMap (fun r => Machine.pieces r.1 r.2.2), parts.flatMap (fun r => Machine.pieces r.2.1 r.2.2))

/-- The engine of a context that stops goes on to the end of the chunk that it has begun (16 R288). -/
def State.copyHalts (s : State) (c : CopyCmd) : Bool :=
  (s.ctx c.who.ctx).paused && c.reads == 0 && c.dst.isNone && !s.fetches.any (fun f => f.cmd = c.id)

/-- The pieces that are left to write of a chunk whose places are known. -/
def CopyCmd.left (c : CopyCmd) (ts : List Target) : List Put := (engPuts ts c.pieces.2 c.got).drop c.puts

/-- The present command of an engine, changed. -/
def State.setCopy (s : State) (p : Nat) (c : CopyCmd) : State :=
  let k := s.core p
  s.setCore p { k with copyQ := c :: k.copyQ.drop 1 }

/-- What becomes of a chunk's write: it goes on, it ends the chunk, or it faults. -/
def State.copyPut (s : State) (p : Nat) (c : CopyCmd) : PutR → Out1
  | .moved s n => .next (s.setCopy p { c with puts := c.puts + n })
  | .waits => s.idle "a peer's acknowledgement, or an earlier access at an owner, is under way"
  | .bad code addr det => .next (s.copyFault p c code addr det)
  | .done s => .next (s.chunkDone p c)

/-- A chunk that is read is checked before any byte of it is written (R173); `go` says how its write begins. -/
def State.copyFix (s : State) (p : Nat) (c : CopyCmd) (go : State → CopyCmd → List Target → Out1) : Out1 :=
  match s.engineFix c.who (dieOf p) c.id c.pieces.2 with
  | .sent s => .next (s.setCopy p c)
  | .waits => .next (s.setCopy p c)
  | .bad code addr det => .next (s.copyFault p c code addr det)
  | .absent va rg word level => s.copyPage p c va rg word level
  | .places ts => go s { c with dst := some ts } ts

/-- One block of a chunk (R173, 12 R242): first all of it is read, then its destination is translated and checked, then it is
written. -/
def State.copyBlock (s : State) (p : Nat) : Out1 :=
  let k := s.core p
  match k.copyStop, k.copyQ with
  | none, c :: _ =>
    if s.copyHalts c then s.idle "the engine stops at a chunk boundary"
    else
      match c.dst, c.pieces.1[c.reads]? with
      | some ts, _ => s.copyPut p c (s.putNext c.who c.id (c.left ts))
      | none, some (va, n) =>
        match s.readPiece (dieOf p) c.who.ctx c.id c.reads va n with
        | .data bs => .next (s.setCopy p { c with reads := c.reads + 1, got := c.got ++ bs })
        | _ => s.idle "the chunk's own step decides"
      | none, none => s.copyFix p c (fun s c _ => .next (s.setCopy p c))
  | _, _ => s.idle "the copy engine does not run"

/-- COPY_CHUNK: the rest of the present chunk, or its fault (R173). -/
def execCopyChunk (p : Nat) (s : State) : Out1 :=
  let k := s.core p
  match k.copyStop, k.copyQ with
  | none, c :: _ =>
    if s.copyHalts c then s.idle "the engine stops at a chunk boundary"
    else
      match c.dst with
      | some ts => s.copyPut p c (s.putRest c.who c.id (c.left ts))
      | none =>
        let src := c.pieces.1
        match s.engineRead c.who (dieOf p) c.id c.reads (src.drop c.reads) with
        | .sent s => .next s
        | .waits => s.idle "a peer's answer, or an earlier access at an owner, is under way"
        | .absent _ va rg word level => s.copyPage p c va rg word level
        | .bad _ code addr det => .next (s.copyFault p c code addr det)
        | .data bs =>
          s.copyFix p { c with reads := src.length, got := c.got ++ bs } (fun s c ts =>
            match s.putRest c.who c.id (c.left ts) with
            | .waits => .next (s.setCopy p c)
            | r => s.copyPut p c r)
  | _, _ => s.idle "the copy engine does not run"

/-! Engine control (R178 to R180). -/

/-- A selector: only UNIT, index and ABN may be set. -/
def selectorOk (x : Nat) : Bool := bitsOf x 255 17 == 0 && bitsOf x 15 14 == 0 && bitsOf x 7 4 == 0

def eresumeOk (_ : Inst) (_ : State) (x : Nat) : Bool := selectorOk x && bitsOf x 13 8 == 0 && bitsOf x 3 0 == 0

def execEresume (d : GReg) (a : XReg) (s : State) : Out1 :=
  s.onDesc (uses (.eresume d a)) a eresumeOk (fun i s x =>
    let k := s.core s.curP
    match k.copyStop with
    | none => s.retireLater i d 1
    | some c =>
      if bitsOf x 16 16 = 1 then ((s.setCore s.curP { k with copyStop := none }).completeOp c.id).retireLater i d 0
      else (s.setCore s.curP { k with copyStop := none, copyQ := c :: k.copyQ }).retireLater i d 0)

/-- ESTAT's selector: a unit of Table 08-10, with an index for a weight-buffer entry alone. -/
def estatOk (_ : Inst) (_ : State) (x : Nat) : Bool :=
  selectorOk x && bitsOf x 16 16 == 0 && decide (bitsOf x 3 0 < 4) && (bitsOf x 3 0 == 3 || bitsOf x 13 8 == 0)

def wbStateNum : WbState → Nat
  | .empty => 0 | .loading => 1 | .resident => 2 | .evicting => 3

/-- What ESTAT reads (Table 08-10). -/
def State.estatWord (s : State) (p x : Nat) : Nat :=
  let k := s.core p
  let q := s.quad (quadOf p)
  match bitsOf x 3 0 with
  | 0 =>
    match k.copyStop with
    | some c => 2 ^ 63 + k.copyQ.length * 2 ^ 61 + 4096 * c.chunk
    | none => k.copyQ.length * 2 ^ 61
  | 1 => k.gathers.length * 2 ^ 61 + (k.gathers.map (fun g => g.next - g.done)).sum % 2 ^ 32
  | 2 =>
    let mine := (q.arrayQ.filter (fun c => c.origin = 0 && c.who.p = p)).length
      + (match q.running with
        | some r => if r.cmd.origin = 0 ∧ r.cmd.who.p = p then 1 else 0
        | none => 0)
    mine * 2 ^ 61 + q.next0 * 256 + q.next1
  | _ =>
    let e := q.entry (bitsOf x 13 8)
    wbStateNum e.st * 2 ^ 62 + e.pin * 2 ^ 32 + e.gran.length

def execEstat (d : GReg) (a : XReg) (s : State) : Out1 :=
  s.onDesc (uses (.estat d a)) a estatOk (fun i s x => s.retireLater i d (word64 (s.estatWord s.curP x)))

end Sys2Proof.Machine
end

