-- ==== Sys2Proof/Machine/Gather.lean ====
section
/-! DEFINITION. Gather and scatter (08 R174 to R177). -/

namespace Sys2Proof.Machine

open Sys2Proof

/-! Descriptors (R174, R175). -/

def gNote (x : Nat) : Bool := bitsOf x 250 250 == 1
def gCtr (x : Nat) : Nat := bitsOf x 249 244
def gSrc (x : Nat) : Fmt := fmtOfNum (bitsOf x 243 240)
def gDst (x : Nat) : Fmt := fmtOfNum (bitsOf x 239 236)
def gMode (x : Nat) : RMode :=
  match bitsOf x 234 233 with
  | 0 => .rne | 1 => .rtz | 2 => .rdn | _ => .rup
def gSat (x : Nat) : Bool := bitsOf x 232 232 == 1
def gCount (x : Nat) : Nat := bitsOf x 222 207
def gScl (x : Nat) : BitVec 16 := BitVec.ofNat 16 (bitsOf x 179 164)
def gList (x : Nat) : Nat := bitsOf x 163 108
def gData (x : Nat) : Nat := bitsOf x 107 52

/-- Elements of a row. -/
def gElems (x : Nat) : Nat := elemsIn (gSrc x) (gLen x)

/-- Bytes of a delivered row: a 6-bit row has the payload layout, its last unit in whole groups of four (02 R24). -/
def deliveredLen (x : Nat) : Nat :=
  if fmtWidth (gDst x) = 6 then 64 * (gElems x / 85) + 3 * ceilDiv (gElems x % 85) 4
  else denseBytes (gDst x) (gElems x)

/-- Bytes of a written row. -/
def writtenLen (x : Nat) : Nat := denseBytes (gDst x) (gElems x)

/-- The checks of a gather descriptor at issue. -/
def gatherOk (scatter : Bool) (i : Inst) (s : State) (x : Nat) : Bool :=
  let same := bitsOf x 243 240 == bitsOf x 239 236
  bitsOf x 255 252 == 6 && decide (bitsOf x 235 233 < 4) && decide (1 ≤ gLen x) && decide (gLen x ≤ 256) && gCount x != 0
    && (gNote x || gCtr x == 0) && (!gNote x || decide (gCtr x < (s.lc i.ctx i.lcore).ctrn))
    && denseOk (gSrc x) (gLen x) && decide ((if scatter then writtenLen x else deliveredLen x) ≤ 256)
    && (if same then bitsOf x 235 232 == 0 && bitsOf x 179 164 == 0 else scaleOk (gScl x))
    && (if scatter then !gServed x && bitsOf x 206 180 == 0 else gData x == 0)
    && (if gServed x then gList x == 0 && (s.ctx i.ctx).holdsArr (quadOf s.curP) else bitsOf x 51 0 == 0)
    && (gServed x || ((s.ctx i.ctx).scratchOf s.curP (gList x) (16 * gCount x)).isSome)
    && (!scatter || ((s.ctx i.ctx).scratchOf s.curP (gData x) (gLen x * gCount x)).isSome)

/-- The checks of a shape record; a gather served by the spring has two dimensions. -/
def shapeOk (x sh : Nat) : Bool :=
  bitsOf sh 255 252 == 5 && bitsOf sh 249 248 == 0 && (!gServed x || bitsOf sh 251 250 == 1)

/-! Elements (R176). -/

/-- Element `n` of an index list, from its 16 bytes. A join slot of 4 to 6 is out of range, and its message names 7. -/
def indexElem (sh : Nat) (bs : List Byte) : GElem :=
  let x := ofLe bs
  let idx (d : Nat) : Nat := bitsOf x (16 * d + 15) (16 * d)
  let dims := bitsOf sh 251 250 + 1
  let js := bitsOf x 82 80
  let bad := bitsOf x 127 83 != 0 || (decide (4 ≤ js) && js != 7)
    || (List.range 4).any (fun d => decide (shExtent sh d ≤ idx d) || (decide (dims ≤ d) && idx d != 0))
  { addr := if bad then none else some (shBase sh + ((List.range dims).map (fun d => idx d * shStride sh d)).sum)
    tag := bitsOf x 79 64
    jslot := if js < 4 then js else 7 }

/-- The memories that a command's elements write or read (05 R101), and the elements whose page is absent: those of an index
list as it stands. The spring names those of its positions when it serves them. -/
def State.elemMems (s : State) (c p : Nat) (scatter : Bool) (x sh : Nat) : List MemName × List (Nat × Nat) :=
  if gServed x then ([], [])
  else
    let n := if scatter then writtenLen x else gLen x
    let list := ((s.ctx c).scratchOf p (gList x) (16 * gCount x)).getD 0
    s.memsOf (dieOf p) c scatter ((List.range (gCount x)).filterMap (fun k =>
      (indexElem sh (Memory.read s.mem (list + 16 * k) 16)).addr.map (fun va => (va, n))))

/-- GATHER and SCATTER at issue (R177). -/
def State.gatherIssue (s : State) (u : Uses) (scatter : Bool) (d : GReg) (a b : XReg) : Out1 :=
  s.onDesc u a (gatherOk scatter) (fun i s x =>
    let sh := (i.readD b).toNat
    if !shapeOk x sh then s.raise i fOperand 0 (word3 sh)
    else
      match s.descAddr i.ctx (shBase sh) with
      | .error (code, addr, det) => s.raise i code addr det
      | .ok () =>
        let k := s.core s.curP
        if 4 ≤ k.gathers.length then s.retireLater i d 1
        else
          let (cmd, s) := s.fresh
          let w := whoOf i s.curP s.curS
          let k := s.core s.curP
          let g : GatherCmd := ⟨cmd, w, scatter, BitVec.ofNat 256 x, BitVec.ofNat 256 sh, !gServed x, 0, {},
            gCount x, 0, false, []⟩
          let s := s.setCore s.curP { k with gathers := k.gathers ++ [g] }
          let q := quadOf s.curP
          let qd := s.quad q
          let s := if gServed x then
              s.setQuad q { qd with springReqs := qd.springReqs ++ [⟨s.clock, s.curP, w, .gather cmd⟩] }
            else s
          let o := { engOp cmd i .gs (s.elemMems i.ctx s.curP scatter x sh) with unserved := gServed x }
          (s.addOp s.curP o).retireLater i d 0)

def execGather (d : GReg) (a b : XReg) (s : State) : Out1 := s.gatherIssue (uses (.gather d a b)) false d a b
def execScatter (d : GReg) (a b : XReg) (s : State) : Out1 := s.gatherIssue (uses (.scatter d a b)) true d a b

/-! Rows. -/

/-- One code converted (R175), by the row of Table 02-5 that its formats name (02 R31). An integer, ternary or b1 element
times a scale that makes it no integer has no rounding in the row of an integer or ternary format: the model rounds it by
MODE first, and the row then says what becomes of the integer (DESIGN CHOICE, log 49). The row of b1 takes the sign. -/
def gConvert (x code : Nat) : Nat :=
  let (v, _) := scaleApply (decodeElem (gSrc x) code).1 (gScl x)
  if (gSrc x).isFloat || (gDst x).isFloat then (roundAny (gDst x) true (gMode x) (gSat x) v).1
  else if gDst x = .b1 then (floatToInt .b1 (gMode x) v).1
  else
    match v with
    | .fin neg n e rest => (intToInt (gDst x) (gSat x) (roundToInt (gMode x) neg n e rest).1).1
    | _ => 0

/-- Codes packed densely. -/
def packDense (f : Fmt) (l : List Nat) : Nat :=
  (l.zipIdx.map (fun e => match f with
    | .t5 => e.1 * 3 ^ (e.2 % 5) * 2 ^ (8 * (e.2 / 5))
    | _ => e.1 * 2 ^ (fmtWidth f * e.2))).sum

/-- The row of a scatter as it is written. -/
def scatterRow (x : Nat) (bs : List Byte) : List Byte :=
  if bitsOf x 243 240 = bitsOf x 239 236 then bs
  else
    let v := ofLe bs
    leBytes (writtenLen x) (packDense (gDst x) ((List.range (gElems x)).map (fun k => gConvert x (readElem (gSrc x) v k))))

/-- The row of a gather as it is delivered. -/
def gatherRow (x : Nat) (bs : List Byte) : List Byte :=
  let same := bitsOf x 243 240 == bitsOf x 239 236
  if same && fmtWidth (gDst x) != 6 then bs
  else
    let v := ofLe bs
    let codes := (List.range (gElems x)).map (fun k =>
      let c := readElem (gSrc x) v k
      if same then c else gConvert x c)
    if fmtWidth (gDst x) = 6 then
      leBytes (deliveredLen x) ((codes.zipIdx.map (fun e => e.1 * 2 ^ payloadPos (gDst x) e.2)).sum)
    else leBytes (deliveredLen x) (packDense (gDst x) codes)

/-- The value message of an element, from a router and the unit that sends it (R177). -/
def State.sendElem (s : State) (p : Nat) (g : GatherCmd) (tag jslot : Nat) (bs : List Byte) (src : Nat × Nat) (inp : Nat) : State :=
  let x := g.desc.toNat
  let c := g.who.ctx
  let hidx := bitsOf x 206 195
  let m := s.unitMsg c (bitsOf x 194 185) hidx tag (s.defaultPrio c (s.ctx c).gen hidx) 0 []
  let m : Msg := { m with
    hdr := { m.hdr with
      score := BitVec.ofNat 10 g.who.lcore
      jslot := BitVec.ofNat 3 jslot
      chan := BitVec.ofNat 5 (bitsOf x 184 180)
      plen := BitVec.ofNat 9 bs.length }
    payload := bs }
  s.deliver { g.who with p := p } 0 m (.elem p g.id) src [] [] false (some inp)

/-- A command of a core changed. -/
def State.mapGather (s : State) (p cmd : Nat) (f : GatherCmd → GatherCmd) : State :=
  let k := s.core p
  s.setCore p { k with gathers := k.gathers.map (fun g => if g.id = cmd then f g else g) }

/-- One element more is finished. -/
def State.elemDone (s : State) (p cmd : Nat) : State := s.mapGather p cmd (fun g => { g with done := g.done + 1 })

/-- The command's one fault record (R177, 21 R353). Answers return in any order: its first element is the first that the core
hears of (DESIGN CHOICE, log 33). -/
def State.elemRecord (s : State) (p : Nat) (g : GatherCmd) (n code addr det : Nat) : State :=
  if g.recorded then s
  else
    let s := s.mapGather p g.id (fun g => { g with recorded := true })
    s.record (.core p 2) g.who.ctx code false g.who.fromFault (s.engRec g.who addr det 2 0 n 0)

/-- An element that is out of range: counted, delivered as zeros or dropped (R176, R177). -/
def State.elemOut (s : State) (p : Nat) (g : GatherCmd) (tag jslot : Nat) (src : Nat × Nat) (inp : Nat) : State :=
  let s := s.count (dieOf p) g.who.ctx 0x103 1
  if g.scatter then s.elemDone p g.id
  else s.sendElem p g tag jslot (List.replicate (deliveredLen g.desc.toNat) 0) src inp

/-- Tag and join slot of an element, carried in its request. -/
def elemKey (e : GElem) : Word := word64 (e.jslot * 65536 + e.tag)

/-- The position that the spring delivers next to a command: the one after its cursor, from the slot's table and the window
(09 R200). -/
def State.gatherPos (s : State) (p : Nat) (g : GatherCmd) : Option (Nat × Nat) :=
  let x := g.desc.toNat
  g.cur.next (gatherCoords ((s.ctx g.who.ctx).pslot (quadOf p) (bitsOf x 51 48)) x g.shape.toNat)

/-- A command has sent an element: its number, and its cursor for one that the spring delivers. -/
def State.elemSent (s : State) (p : Nat) (g : GatherCmd) : State :=
  let kj := if gServed g.desc.toNat then s.gatherPos p g else none
  s.mapGather p g.id (fun g => { g with
    next := g.next + 1
    row := []
    cur := match kj with
      | some (k, j) => { g.cur with done := g.cur.done + 1, lk := k, lj := j }
      | none => g.cur })

/-- A gather whose spring fails its parity sends no more elements and completes without its note (09 R202). -/
def State.gatherStop (s : State) (p : Nat) (g : GatherCmd) : State :=
  let q := quadOf p
  let s := s.setQuad q { s.quad q with springBad := false }
  let s := (s.setCore p { s.core p with gathers := (s.core p).gathers.filter (fun h => h.id != g.id) }).completeOp g.id
  s.corruptRec g.who q (bitsOf g.desc.toNat 51 48) 2 0

/-- The element that a command sends next; a poisoned block of its list or row otherwise. -/
def State.nextElem (s : State) (p : Nat) (g : GatherCmd) : Except Nat GElem :=
  let x := g.desc.toNat
  let sh := g.shape.toNat
  if gServed x then .ok (springElem x sh g.next ((s.gatherPos p g).getD (0, 0)))
  else
    let pa := ((s.ctx g.who.ctx).scratchOf p (gList x + 16 * g.next) 16).getD 0
    match s.poisonAt pa 16 with
    | some b => .error b
    | none => .ok (indexElem sh (Memory.read s.mem pa 16))

/-- Sends an element of a command to its owner's port. -/
def State.issueElem (s : State) (p : Nat) (g : GatherCmd) (e : GElem) (va : Nat) : State :=
  let x := g.desc.toNat
  let c := g.who.ctx
  let n := if g.scatter then writtenLen x else gLen x
  let src := xyOfCore p
  match (s.ctx c).checkAddr va n g.scatter with
  | .error (code, addr, det) => (s.elemRecord p g g.next code addr det).elemOut p g e.tag e.jslot src (inpCore p)
  | .ok (k, r) =>
    let row := ((s.ctx c).scratchOf p (gData x + g.next * gLen x) (gLen x)).getD 0
    match (if g.scatter then s.poisonAt row (gLen x) else none) with
    | some b => (s.elemRecord p g g.next fUncorr (64 * b) 2).elemDone p g.id
    | none =>
      let got := g.row.length
      let data := if g.scatter then scatterRow x (g.row ++ Memory.read s.mem (row + got) (gLen x - got)) else []
      let q : MemReq :=
        { op := if g.scatter then .write else .read
          ctx := c
          va := va
          n := n
          data := data
          expect := elemKey e
          src := none
          region := k
          page := (va - r.vbase) / r.pageSize
          target := r.fixed va
          ans := .elem p g.id g.next
          ring := none
          pfSent := false }
      let (goal, dst) := s.reqRoute q (dieOf p) src
      (s.launchFlight (mkFlight { g.who with p := p } 0 false (.req q) goal src dst)).2

/-- The command whose elements a stream sends: the oldest that has some left. -/
def Core.sending (k : Core) : Option GatherCmd := k.gathers.find? (fun g => !g.served || decide (g.next < g.total))

/-- The core's scratchpad, from which a command reads its index list and rows, has applied the accesses that came before (12
R240). -/
def State.streamClear (s : State) (p : Nat) (g : GatherCmd) : Bool :=
  (gServed g.desc.toNat && !g.scatter) || s.ownerClear (scratchBase p)

/-- A scatter reads the next 64-byte block of its source row (12 R242). -/
def State.rowBlock (s : State) (p : Nat) : Out1 :=
  match (s.core p).sending with
  | none => s.idle "no element is left"
  | some g =>
    let x := g.desc.toNat
    match ((s.ctx g.who.ctx).scratchOf p (gData x + g.next * gLen x) (gLen x)) with
    | none => s.idle "the element's own step decides"
    | some row =>
      let pa := row + g.row.length
      let n := min (64 - pa % 64) (gLen x - g.row.length)
      if !g.scatter || (s.ctx g.who.ctx).paused || n == 0 || !s.streamClear p g || (s.poisonAt pa n).isSome then
        s.idle "the element's own step decides"
      else .next (s.mapGather p g.id (fun g => { g with row := g.row ++ Memory.read s.mem pa n }))

def execGatherElementIssue (p : Nat) (s : State) : Out1 :=
  match (s.core p).sending with
  | none => s.idle "no element is left"
  | some g =>
    if !g.served then s.idle "the spring has not served the command"
    else if (s.ctx g.who.ctx).paused then s.idle "the stream is stopping"
    else if gServed g.desc.toNat && (s.quad (quadOf p)).springBad then .next (s.gatherStop p g)
    else if !s.streamClear p g then s.idle "an earlier access waits at the core's scratchpad"
    else
      let s' := s.elemSent p g
      let s' := if gServed g.desc.toNat then s'.signal 8 (quadOf p) else s'
      match s.nextElem p g with
      | .error b => .next ((s'.elemRecord p g g.next fUncorr (64 * b) 2).elemDone p g.id)
      | .ok e =>
        match e.addr with
        | none => .next (s'.elemOut p g e.tag e.jslot (xyOfCore p) (inpCore p))
        | some va => .next (s'.issueElem p g e va)

/-- The part of an element's row at its owner's port (R177). The last part completes the element; a row that is written is
refused whole or not at all. -/
def State.applyElem (s : State) (f : Flight) (r : MemReq) (p : Nat) (g : GatherCmd) (n pa : Nat) : State :=
  let src := ownerXY pa
  let m := r.partLen pa
  let s := s.dropFlight f.id
  let tag := r.expect.toNat % 65536
  let js := r.expect.toNat / 65536
  if s.reqRefused r pa ≠ 0 then
    (s.elemRecord p g n fAddress r.va 0).elemOut p g tag js src (inpOwner pa)
  else if g.scatter then
    let r' := r.onward pa []
    let s := s.ownerWrite pa (sliceBytes r.data r.off m)
    if r'.off < r.n then s.passOn f r' src pa else s.memReply f r src 0 []
  else
    match s.poisonAt pa m with
    | some b => (s.elemRecord p g n fUncorr (64 * b) (structureOf pa)).elemDone p g.id
    | none =>
      let r' := r.onward pa (Memory.read s.mem pa m)
      if r'.off < r.n then s.passOn f r' src pa
      else s.sendElem p g tag js (gatherRow g.desc.toNat r'.got) src (inpOwner pa)

/-- GATHER_ELEMENT_APPLY: an element at its owner, or the answer to one that went to a peer or was refused. One that met an
uncorrectable error sends no message (21 R353). -/
def execGatherElementApply (id : Nat) (s : State) : Out1 :=
  match s.flight? id with
  | none => s.idle "no such element"
  | some f =>
    match f.body with
    | .req r =>
      match r.ans, r.target, f.goal with
      | .elem p cmd n, some (.here pa), .owner =>
        if !s.ripe f || !s.firstAtOwner f pa || s.elemAhead f r then
          s.idle "the element is under way, or an earlier access comes first"
        else
          match (s.core p).gathers.find? (fun g => g.id = cmd) with
          | none => .next (s.dropFlight id)
          | some g => .next (s.applyElem f r p g n pa)
      | _, _, _ => s.idle "no element at its owner"
    | .rep r mst data =>
      match r.ans with
      | .elem p cmd n =>
        if !f.arrived || s.replyBehind f then s.idle "the answer is under way"
        else
          let s := s.dropFlight id
          match (s.core p).gathers.find? (fun g => g.id = cmd) with
          | none => .next s
          | some g =>
            let tag := r.expect.toNat % 65536
            let js := r.expect.toNat / 65536
            if mst = 0 then
              .next (if g.scatter then s.elemDone p cmd
                else s.sendElem p g tag js (gatherRow g.desc.toNat data) (xyOfCore p) (inpCore p))
            else
              let (code, addr, det) := errorOf r mst data r.rank
              let s := s.elemRecord p g n code addr det
              .next (if code = fUncorr then s.elemDone p cmd else s.elemOut p g tag js (xyOfCore p) (inpCore p))
      | _ => s.idle "no element"
    | _ => s.idle "no element"

/-- Every element has been accepted, acknowledged or dropped (R177). -/
def execGatherComplete (p : Nat) (s : State) : Out1 :=
  let k := s.core p
  match k.gathers.find? (fun g => g.served && g.next = g.total && g.done = g.total) with
  | none => s.idle "no command is finished"
  | some g =>
    let x := g.desc.toNat
    .next (((s.setCore p { k with gathers := k.gathers.filter (fun h => h.id != g.id) }).completeOp g.id).note 1 g.who
      (if gNote x then some (gCtr x) else none))

end Sys2Proof.Machine
end

