-- ==== Sys2Proof/Machine/Gleaner.lean ====
section
/-! DEFINITION. The gleaner's logs and its walk (22 R368, R369), and the end of a mailbox command (18 R306). -/

namespace Sys2Proof.Machine

open Sys2Proof

/-! Mailbox cells (18 Table 18-2, Table 18-3). -/

def Hub.cell (h : Hub) (n : Nat) : List Byte := padTo 64 (Tab.get [] h.mb n)

/-- A command returns its result word: RESULT is written, MBDONE is set and vector 0 is signalled. -/
def State.mbDone (s : State) (cell result : Nat) : State :=
  let h := s.hub
  (s.setHub { h with
    mb := h.mb.put cell ((h.cell cell).take 56 ++ leBytes 8 result)
    busy := h.busy.put cell 0
    mbdone := Nat.lor h.mbdone (2 ^ cell) }).vector 0

/-! The logs (R368). -/

/-- A log's newest entries. -/
def keepLast {α : Type} (n : Nat) (l : List α) : List α := l.drop (l.length - n)

/-- A dispatch is logged while its context gleans. -/
def State.logDispatch (s : State) (p : Nat) (i : Inst) : State :=
  if (s.ctx i.ctx).gleaning then
    let k := s.core p
    s.setCore p { k with
      dlog := keepLast 4096 (k.dlog ++ [⟨i.ctx, i.inum, i.hidx, i.tag, s.clock, 0, i.cause⟩]) }
  else s

/-- An acceptance acknowledgement's stamp is logged at the sender. -/
def State.logSend (s : State) (p : Nat) (w : Who) (chip core stamp : Nat) : State :=
  if (s.ctx w.ctx).gleaning then
    let k := s.core p
    s.setCore p { k with slog := keepLast 8192 (k.slog ++ [⟨w.ctx, w.inum, chip, core, stamp⟩]) }
  else s

/-! The walk (R369). -/

/-- One hop of the output: rank, core, dispatch entry and edge kind. -/
structure Hop where
  lcore : Nat
  ent : DLog
  edge : Nat
  deriving DecidableEq, Repr

/-- An entry of a logical core's dispatch log. -/
def State.dlogOf (s : State) (c lc inum : Nat) : Option DLog :=
  ((s.core (s.lc c lc).pos).dlog.filter (fun e => e.ctx = c && e.inum = inum)).getLast?

/-- The logical core and instance number of the sender of a message that core `lc` accepted with a stamp, from the send logs or
from the acknowledgement while it is still on its way to one. -/
def State.senderOf (s : State) (c lc stamp : Nat) : Option (Nat × Nat) :=
  let x := s.ctx c
  let logged := x.lcs.findSome? (fun e =>
    ((s.core e.2.pos).slog.find? (fun g =>
      g.ctx = c && g.chip = x.desc.rank && g.core = lc && g.stamp = stamp)).map (fun g => (e.1, g.inum)))
  match logged with
  | some e => some e
  | none =>
    s.flights.findSome? (fun f =>
      match f.body with
      | .ack _ 0 st _ _ chip core =>
        if f.who.ctx = c ∧ chip = x.desc.rank ∧ core = lc ∧ st = stamp then some (f.who.lcore, f.who.inum) else none
      | _ => none)

/-- Where a cause leads: the hop, or the END reason; 5 for a sender on a peer chip. -/
def State.causeHop (s : State) (c : Nat) (h : Hop) : Except Nat Hop :=
  let sent (chip core stamp edge : Nat) : Except Nat Hop :=
    if chip ≠ (s.ctx c).desc.rank then .error 5
    else if core = 1023 then .error 2
    else
      match s.senderOf c h.lcore stamp with
      | none => .error 4
      | some (lc, inum) =>
        match s.dlogOf c lc inum with
        | some e => .ok ⟨lc, e, edge⟩
        | none => .error 4
  let inst (lc inum edge : Nat) : Except Nat Hop :=
    match s.dlogOf c lc inum with
    | some e => .ok ⟨lc, e, edge⟩
    | none => .error 4
  match h.ent.cause with
  | .none => .error 3
  | .message chip core stamp => sent chip core stamp 1
  | .sheaf chip core stamp => sent chip core stamp 2
  | .counter chip core stamp => sent chip core stamp 3
  | .tagHand inum => inst h.lcore inum 4
  | .engine lc inum => inst lc inum 5

/-- The walk: at most `n` hops more, and the END reason. -/
def State.gleanWalk (s : State) (c : Nat) : Nat → Hop → List Hop × Nat
  | 0, _ => ([], 1)
  | n + 1, h =>
    match s.causeHop c h with
    | .error e => ([], e)
    | .ok k =>
      let (l, e) := s.gleanWalk c n k
      (k :: l, e)

def hopBytes (rank : Nat) (h : Hop) : List Byte :=
  leBytes 2 rank ++ leBytes 2 h.lcore ++ leBytes 4 h.ent.inum ++ leBytes 2 h.ent.hidx ++ leBytes 2 h.ent.tag
    ++ leBytes 1 h.edge ++ List.replicate 3 0 ++ leBytes 8 h.ent.start ++ leBytes 8 h.ent.stop

/-- What a peer chip's hub adds to a walk that has `n` hops left: bytes of hops and the END reason. What the peer's logs hold is
not of this chip: whether it gleans, its hops and its end are free values (log 41). -/
def State.peerWalk (s : State) (n : Nat) : (List Byte × Nat) × State :=
  let (w, s) := s.free
  let (bs, s) := s.free
  if n = 0 then (([], 1), s)
  else if w % 2 = 0 then (([], 5), s)
  else
    let m := w / 2 % n + 1
    ((leBytes (32 * m) bs, if m = n then 1 else 1 + w / (2 * n) % 5), s)

/-- Writes the output of a sample, and behind its hops those that a peer adds, and ends its command. -/
def State.gleanOut (s : State) (c : Nat) (g : Glean) (l : List Hop) (more : List Byte) (reason : Nat) : State :=
  let rank := (s.ctx c).desc.rank
  let bs := (l.flatMap (hopBytes rank) ++ more).take (32 * ((g.size - 64) / 32))
  let head := padTo 64 (leBytes 4 (bs.length / 32) ++ leBytes 1 reason)
  let s := s.ownerWrite g.addr (head ++ bs)
  (s.setCtx c { s.ctx c with glean := none }).mbDone g.cell 0

/-- The sampled firing has started its instance: the walk runs and its output is written. -/
def State.gleanSample (s : State) (p : Nat) (i : Inst) (stamp : Nat) : State :=
  match (s.ctx i.ctx).glean with
  | some g =>
    if g.hit = some (p, stamp) then
      match s.dlogOf i.ctx i.lcore i.inum with
      | some e =>
        let h : Hop := ⟨i.lcore, e, 0⟩
        let (l, r) := s.gleanWalk i.ctx (g.depth - 1) h
        if r = 5 then
          let ((more, r), s) := s.peerWalk (g.depth - 1 - l.length)
          s.gleanOut i.ctx g (h :: l) more r
        else s.gleanOut i.ctx g (h :: l) [] r
      | none => s
    else s
  | none => s

/-- A sheaf fires: the sample counts the firings that match. -/
def Ctx.gleanFire (x : Ctx) (p hidx tag stamp : Nat) : Ctx :=
  match x.glean with
  | some g =>
    if g.hit.isNone && g.hidx == hidx && (g.tag == 0 || g.tag == tag) then
      if g.skip = 0 then { x with glean := some { g with hit := some (p, stamp) } }
      else { x with glean := some { g with skip := g.skip - 1 } }
    else x
  | none => x

end Sys2Proof.Machine
end

