-- ==== Sys2Proof/Machine/Arrivals.lean ====
section
/-! DEFINITION. Arrivals at a core (10 R203 to R211, 11 R235, 18 R314): acceptance and its acknowledgement, replies and
multicasts (06 R111 to R113, 18 R315), sheaves (10 R215 to R219), arrival counters (06 R118, 10 R221), continuation wakes
(10 R220), and the weir (06 R122). -/

namespace Sys2Proof.Machine

open Sys2Proof

/-! Generations (16 R281). -/

/-- Items of a list that carry a generation. -/
def entryGen (gen : Nat) (k : Tab Cont) (e : QEntry) : Bool :=
  match e.item with
  | .msg m => m.hdr.gen.toNat == gen
  | .sheaf h _ _ => h.gen.toNat == gen
  | .wake r => (k.get? r).any (fun c => c.inst.gen == gen)

/-- The generation of a fired sheaf, or of a counter enqueue, that its core accepts as the cycle ends. -/
def MadeWhat.gen? : MadeWhat → Option Nat
  | .sheaf _ x => some x.gen
  | .enqueue _ m _ => some m.hdr.gen.toNat
  | _ => none

/-- LIVEG of a generation: messages sent and not accepted, entries, records, sheaves, continuations and instances. -/
def State.liveg (s : State) (c gen : Nat) : Nat :=
  let x := s.ctx c
  let inFlight := (s.flights.filter (fun f =>
    match f.body with
    | .msg m (.peer _ _ _) => (match f.stage with
      | .deferred _ _ _ => true
      | _ => false) && m.hdr.ctx.toNat == c && m.hdr.gen.toNat == gen
    | .msg m _ => m.hdr.ctx.toNat == c && m.hdr.gen.toNat == gen
    | _ => false)).length
  let held := (x.lcs.map (fun e =>
    let l := e.2
    let qs := l.queues.flatMap (fun q => q.2) ++ l.silo.flatMap (fun q => q.2) ++ l.reserve
      ++ l.flushed.flatMap (fun q => q.2)
    (qs.filter (entryGen gen l.conts)).length
      + (l.sheafList.filter (fun m => m.1.hdr.gen.toNat == gen)).length
      + (l.sheaves.filter (fun h => h.gen == gen)).length
      + (l.conts.filter (fun k => k.2.inst.gen == gen)).length
      + ((s.core l.pos).made.filter (fun k => k.ctx == c && k.what.gen? == some gen)).length)).sum
  let running := ((s.insts c).filter (fun e => e.2.2.gen == gen)).length
  let kept := match x.saved with
    | some v => (v.slots.filter (fun e => e.inst.gen == gen)).length
    | none => 0
  inFlight + held + running + kept

/-- A generation whose table is used: the current one, or one that is bound and still live. -/
def State.resident (s : State) (c gen : Nat) : Bool :=
  let x := s.ctx c
  gen == x.gen || ((x.tables.get? gen).any HTable.bound && s.liveg c gen != 0)

/-- The handler that an arrival of KIND 0 or 3 starts, or none: its index names no handler of its generation, or a
reply-class one (10 R214). -/
def State.arrivalHandler (s : State) (c : Nat) (h : Hdr) (fromHere : Bool) : Option HHdr :=
  if fromHere || s.resident c h.gen.toNat then
    match s.handler? c h.gen.toNat h.hidx.toNat with
    | some (_, x) => if x.rcl then none else some x
    | none => none
  else none

/-! Acceptance. -/

/-- A side-band word belongs to a message: both parities and the SEQN agree (11 R235). -/
def sideOk (w : BitVec 34) (seqn : Nat) : Bool :=
  let sq := bitsOf w.toNat 31 16
  let sc := bitsOf w.toNat 15 0
  bitsOf w.toNat 33 33 == parity16 sq && bitsOf w.toNat 32 32 == parity16 sc && sq == seqn

/-- Pairs a message with its side-band word; one that does not belong to it is discarded and counted. -/
def State.pairScale (s : State) (p : Nat) (m : Msg) : Msg × State :=
  match m.scale with
  | none => (m, s)
  | some w =>
    if sideOk w m.hdr.seqn.toNat then (m, s)
    else ({ m with scale := none }, s.count (dieOf p) m.hdr.ctx.toNat 0x104 1)

/-- A message held at an injection cell or built by a launch enters the fabric as R284 and R286 set out. -/
def State.inject (s : State) (c : Nat) (bytes : List Byte) : State :=
  let x := s.ctx c
  let w (j : Nat) : Word := word64 (ofLe (sliceBytes bytes (8 * j) 8))
  let h := hdrOfWords (w 0) (w 1) (w 2) (w 3) (w 4)
  let js := h.jslot.toNat
  if x.desc.ncore ≤ h.dcore.toNat ∨ 256 < h.plen.toNat ∨ (4 ≤ js ∧ js < 7) then s.count 0 c 0x105 1
  else
    let h : Hdr := { hdrZero with
      dchip := BitVec.ofNat 16 x.desc.rank
      dcore := h.dcore
      gen := BitVec.ofNat 2 x.gen
      prio := h.prio
      hidx := h.hidx
      tag := h.tag
      schip := BitVec.ofNat 16 x.desc.rank
      score := 1023
      ctx := BitVec.ofNat 5 c
      jslot := h.jslot
      plen := h.plen
      chan := h.chan
      rsc := 6 }
    s.deliver { Who.zero with ctx := c } 0 ⟨h, sliceBytes bytes 64 h.plen.toNat, none⟩ .none
      (cornerXY (dieOf (x.lc h.dcore.toNat).pos)) [] [] false (some inpHub)

/-- A context becomes RUNNING: the writes that its injection cells hold enter the fabric, in order (16 R276, R286). -/
def State.becomeRunning (s : State) (c : Nat) : State :=
  let x := s.ctx c
  let s := s.setCtx c { x with st := .running, injects := [] }
  x.injects.foldl (fun s e => s.inject c e.2) s

/-- One initial message of a launch has been accepted. -/
def State.launchedOne (s : State) (c : Nat) : State :=
  let x := s.ctx c
  let s := s.setCtx c { x with toLaunch := x.toLaunch - 1 }
  if x.st = .launching ∧ x.toLaunch ≤ 1 then s.becomeRunning c else s

/-- The acceptance acknowledgement of a message, from the router where it was accepted, by the input of the core or the bridge
that accepted it (06 R110, 11 R226, R227, 18 R314). -/
def State.acceptAck (s : State) (f : Flight) (m : Msg) (t : Track) (src : Nat × Nat) (rstat stamp : Nat) : State :=
  let body := Body.ack t rstat stamp m.hdr.midx.toNat f.opId m.hdr.dchip.toNat m.hdr.dcore.toNat
  let inp := match f.goal with
    | .core p => inpCore p
    | _ => inpHub
  match t with
  | .none | .record => s
  | .initial c => s.launchedOne c
  | .peer _ _ _ => s.answerPeer f f.who body src (some inp)
  | _ => s.reply f src body (.ack none) (some inp)

/-- The message of a flight that has arrived at a core, and the core. -/
def Flight.atCore (f : Flight) : Option (Nat × Msg × Track) :=
  if f.arrived then
    match f.goal, f.body with
    | .core p, .msg m t => some (p, m, t)
    | _, _ => none
  else none

/-- Whether a context takes arrivals at a core, and its logical core there (16 R277). -/
def State.receiver (s : State) (c p : Nat) : Option Nat :=
  let x := s.ctx c
  match x.st with
  | .free | .ending => none
  | _ => x.lcoreAt p

/-- Defers a message of a stopped context; it is accepted, and acknowledged, here (16 R288). -/
def State.deferMsg (s : State) (f : Flight) (m : Msg) (t : Track) (lc : Nat) (src : Nat × Nat) : State :=
  let st := (s.core (s.lc m.hdr.ctx.toNat lc).pos).stamp
  let kept : Track := match t with
    | .record => .record
    | _ => .none
  (s.acceptAck f m t src 0 st).defer { f with body := .msg m kept } lc

/-- The dispatch-target fault of an arrival (10 R214). One whose handler a poisoned block hides is recorded as an
uncorrectable error instead (21 R353; log 48). -/
def State.dispatchTarget (s : State) (p lc : Nat) (m : Msg) : State :=
  let h := m.hdr
  let c := h.ctx.toNat
  match s.handlerBad c h.gen.toNat h.hidx.toNat with
  | some b =>
    s.record (.core p 9) c fUncorr false false
      { tag := h.tag.toNat, lcore := lc, addr := 64 * b, det := structureOf (64 * b), unit := 9 }
  | none =>
    s.record (.core p 9) c fDispatch false false
      { tag := h.tag.toNat, lcore := lc, det := (hdrWord h 0).toNat, unit := 9 }

/-- The match entries of a trace configuration act on an accepted arrival (22 R370). -/
def State.traceMatch (s : State) (c p lc : Nat) (h : Hdr) : State :=
  match (s.ctx c).trace with
  | none => s
  | some t =>
    t.ents.foldl (fun s e =>
      if (e.hidx = 0xFFF ∨ e.hidx = h.hidx.toNat) ∧ Nat.land h.tag.toNat e.tmask = e.tval then
        if e.stop then s.stopCtx c lc (xyOfCore p) (s.traceBytes 4 c lc 0 0 0 (hdrWord h 0))
        else s.traceWrite c (s.traceBytes 2 c lc 0 0 0 (hdrWord h 0))
      else s) s

/-! Sheaves. -/

/-- A header as a number, with SEQN 0 (01 R15). -/
def hdrNum (h : Hdr) : Nat :=
  let h := { h with seqn := 0 }
  ((List.range 8).map (fun j => (hdrWord h j).toNat * 2 ^ (64 * j))).sum

/-- R15's order of arrivals: source, first payload word, header. -/
def arrBefore (w : Word) (h : Hdr) (w' : Word) (h' : Hdr) : Bool :=
  let a := h.schip.toNat * 1024 + h.score.toNat
  let b := h'.schip.toNat * 1024 + h'.score.toNat
  decide (a < b) || (a == b && (decide (w.toNat < w'.toNat) || (w == w' && decide (hdrNum h < hdrNum h'))))

/-- An arrival applied to a sheaf, and whether its slot was filled already (10 R216, R219). -/
def Sheaf.add (x : Sheaf) (m : Msg) (st : Nat) : Sheaf × Bool :=
  let h := m.hdr
  let w := msgFirstWord m
  let j := h.jslot.toNat
  let old : Option (Word × Nat × Nat × Hdr) := (x.opnds[j]?).getD none
  let wins : Bool := match old with
    | some (w', _, _, h') => arrBefore w h w' h'
    | none => true
  let lead := match x.lead with
    | some (w', h') => if arrBefore w h w' h' then (w, h) else (w', h')
    | none => (w, h)
  ({ x with
      count := x.count + 1
      opnds := if decide (j < 4) && wins then x.opnds.set j (some (w, h.schip.toNat, h.score.toNat, h)) else x.opnds
      lead := some lead
      note := (h.schip.toNat, h.score.toNat, st) }, decide (j < 4) && old.isSome)

/-- The lead header of a firing: SEQN reads 0 (01 R15). -/
def Sheaf.leadHdr (x : Sheaf) : Hdr :=
  let h := match x.opnds.findSome? id with
    | some (_, _, _, h) => h
    | none => (x.lead.map Prod.snd).getD hdrZero
  { h with seqn := 0 }

/-- The operand words of a firing. -/
def Sheaf.words (x : Sheaf) : List Word := x.opnds.map (fun o => (o.map Prod.fst).getD 0)

def Sheaf.keyOf (x : Sheaf) (h : Hdr) : Bool :=
  x.gen == h.gen.toNat && x.hidx == h.hidx.toNat && x.tag == h.tag.toNat

/-- Sheaves in the store of a core, of every context whose state is on it. -/
def State.storeUsed (s : State) (p : Nat) : Nat :=
  (s.ctxs.map (fun e =>
    match e.2.st with
    | .free | .saved => 0
    | _ => ((e.2.lcs.filter (fun l => l.2.pos = p)).map (fun l => l.2.sheaves.length)).sum)).sum

/-- A context may open another sheaf: the store and SHMAX allow it (R218). -/
def State.mayOpen (s : State) (c lc : Nat) : Bool :=
  let l := s.lc c lc
  decide (s.storeUsed l.pos < 1024) && decide (l.sheaves.length < bitsOf l.dcfg.toNat 26 16)

/-- A sheaf fires: the firing is an arrival of the core itself (R204, R217). -/
def State.fireSheaf (s : State) (c lc : Nat) (x : Sheaf) : State := s.make (s.lc c lc).pos 13 c (.sheaf lc x)

/-- A firing enters the queue of its lead header's PRIO (R217). -/
def State.queueSheaf (s : State) (c lc : Nat) (x : Sheaf) : State :=
  let p := (s.lc c lc).pos
  let h := x.leadHdr
  let (st, s) := s.newStamp p
  let s := s.setCtx c ((s.ctx c).gleanFire p h.hidx.toNat h.tag.toNat st)
  s.enqueue c lc ⟨.sheaf h x.words x.note, h.prio.toNat, st, .sheaf x.note.1 x.note.2.1 x.note.2.2, false, true, none⟩

/-- An arrival applied to the sheaf of its key in the store; the firing takes the sheaf away. -/
def State.applySheaf (s : State) (c lc : Nat) (m : Msg) (st : Nat) : State :=
  let l := s.lc c lc
  match l.sheaves.find? (fun x => x.keyOf m.hdr) with
  | none => s
  | some x =>
    let (x', conflict) := x.add m st
    let s := if conflict then s.count (dieOf l.pos) c 0x101 1 else s
    if x'.arity ≤ x'.count then
      (s.setLc c lc { l with sheaves := l.sheaves.filter (fun y => !y.keyOf m.hdr) }).fireSheaf c lc x'
    else s.setLc c lc { l with sheaves := l.sheaves.map (fun y => if y.keyOf m.hdr then x' else y) }

def Sheaf.opened (h : Hdr) (arity : Nat) : Sheaf :=
  ⟨h.gen.toNat, h.hidx.toNat, h.tag.toNat, arity, 0, List.replicate 4 none, none, (0, 0, 0)⟩

/-- An arrival at the tail of the sheaf list, in a free record of the pool (R218). -/
def State.spillJoin (s : State) (c lc : Nat) (m : Msg) (st : Nat) : State :=
  let l := s.lc c lc
  let n := l.freeRec
  (((s.setLc c lc { l with sheafList := l.sheafList ++ [(m, st, n)] }).ownerWrite (s.poolAt c lc n) (msgRecord m st)).siloControl
    c lc).signal 4 (quadOf l.pos)

/-- An arrival that spills to the tail of the sheaf list; a full pool overflows the silo (R218, R211). -/
def State.spillSheaf (s : State) (c lc : Nat) (m : Msg) (st : Nat) (record : Bool) : State :=
  let l := s.lc c lc
  if l.poolUsed < l.poolMax && !s.overflowed c lc then s.spillJoin c lc m st
  else s.overflow c lc ⟨.msg m, m.hdr.prio.toNat, st, .none, record, true, none⟩

/-- An arrival after a stop, kept out of the frozen store and of its list (22 R371). -/
def State.deferJoin (s : State) (c lc : Nat) (m : Msg) (st : Nat) : State :=
  if s.reserveRoom c lc then
    let p := (s.lc c lc).pos
    let xy := xyOfCore p
    let f := mkFlight { Who.zero with ctx := c } 0 false (.msg m .none) (.core p) xy xy
    let n := s.freeReserve c lc
    ((s.launchFlight { f with stage := .deferred lc st n }).2).ownerWrite (s.reserveAt c lc n) (msgRecord m st)
  else (s.discard c).siloOverflow c lc 0 m.hdr.tag.toNat true

/-- An arrival for a join handler (R215, R218, R223). -/
def State.joinArrival (s : State) (c lc : Nat) (m : Msg) (arity st : Nat) : State :=
  let x := s.ctx c
  let l := s.lc c lc
  if x.paused then (if x.frozen then s.deferJoin c lc m st else s.spillSheaf c lc m st false)
  else if l.sheaves.any (fun y => y.keyOf m.hdr) then s.applySheaf c lc m st
  else if l.sheafList.isEmpty && s.mayOpen c lc then
    (s.setLc c lc { l with sheaves := l.sheaves ++ [Sheaf.opened m.hdr arity] }).applySheaf c lc m st
  else s.spillSheaf c lc m st false

/-- An arrival of KIND 0 or 3 that has its stamp: discarded, into the sheaf store, or into its queue (R203, R214). -/
def State.takeIn (s : State) (c p lc : Nat) (m : Msg) (st : Nat) (record fromHere : Bool) (why : Cause) : State :=
  match s.arrivalHandler c m.hdr fromHere with
  | none => s.dispatchTarget p lc m
  | some x =>
    let s := if x.join = 0 then s.enqueue c lc ⟨.msg m, m.hdr.prio.toNat, st, why, record, true, none⟩
      else s.joinArrival c lc m x.join st
    s.traceMatch c p lc m.hdr

/-- The cause of an instance that a message starts (22 R368): an engine's completion names the instance that issued it, every
other message its source and stamp. -/
def causeOf (f : Flight) (m : Msg) (t : Track) (st : Nat) : Cause :=
  if m.hdr.kind = 3 ∧ f.who.iid ≠ 0 ∧ t = .none then .engine f.who.lcore f.who.inum
  else .message m.hdr.schip.toNat m.hdr.score.toNat st

/-- The message of a watch that a peer's word has fired, at the watching core: the entry is removed there too, whether or not
the acknowledgement of its registration has come (05 R104). -/
def Mon.firedBy (c : Nat) (m : Msg) (e : Mon) : Bool :=
  let w (j : Nat) : Nat := ofLe (sliceBytes m.payload (8 * j) 8)
  e.ctx == c && e.hidx == m.hdr.hidx.toNat && e.va == w 0 && e.value.toNat == w 2 && (match e.pa with
    | .chip _ _ => true
    | .here _ => false)

/-- One entry that a peer's message has fired is removed, on its core or from what a saved context keeps. -/
def State.peerFired (s : State) (p lc : Nat) (m : Msg) : State :=
  let c := m.hdr.ctx.toNat
  if m.hdr.kind ≠ 3 ∨ m.hdr.plen ≠ 24 then s
  else
    let k := s.core p
    match k.mons.find? (Mon.firedBy c m) with
    | some e => s.setCore p { k with mons := k.mons.erase e }
    | none =>
      match (s.ctx c).saved with
      | some v =>
        match v.mons.find? (fun e => e.1 == lc && e.2.firedBy c m) with
        | some e => s.setCtx c { s.ctx c with saved := some { v with mons := v.mons.erase e } }
        | none => s
      | none => s

/-- A message that its core accepts. -/
def State.acceptAt (s : State) (f : Flight) (p : Nat) (m : Msg) (t : Track) : State :=
  let c := m.hdr.ctx.toNat
  let src := xyOfCore p
  let s := s.dropFlight f.id
  match s.receiver c p with
  | none => s.acceptAck f m t src 3 0
  | some lc =>
    let l := s.lc c lc
    if m.hdr.kind = 2 then
      let n := m.hdr.ctrn.toNat
      let st := (s.core p).stamp
      let s := s.acceptAck f m t src 0 st
      if n < l.ctrn then
        s.counterEv p c n (.add m.hdr.ccnt.toNat) (m.hdr.schip.toNat, m.hdr.score.toNat)
      else ((s.newStamp p).2).count (dieOf p) c 0x102 1
    else
      let (m, s) := s.pairScale p m
      let (st, s) := s.newStamp p
      let peer := match t with
        | .peer _ _ _ => true
        | _ => false
      let s := if peer then s.peerFired p lc m else s
      (s.takeIn c p lc m st (t == .record) (!peer) (causeOf f m t st)).acceptAck f m t src 0 st

/-- An arrival goes to the sheaf store: its handler is a join handler (Table 10-1). -/
def State.toSheaf (s : State) (m : Msg) : Bool :=
  (m.hdr.kind == 0 || m.hdr.kind == 3) && (match s.handler? m.hdr.ctx.toNat m.hdr.gen.toNat m.hdr.hidx.toNat with
    | some (_, x) => !x.rcl && x.join != 0
    | none => false)

/-- A message other than a reply at its core: the counter unit defers one of a stopped context, as the sheaf store does
after a stop; every other is accepted (R203, R223; 16 R288). -/
def State.takeMsg (s : State) (f : Flight) (p : Nat) (m : Msg) (t : Track) : State :=
  let c := m.hdr.ctx.toNat
  match s.receiver c p with
  | some lc => if m.hdr.kind = 2 ∧ (s.ctx c).paused then s.deferMsg f m t lc (xyOfCore p) else s.acceptAt f p m t
  | none => s.acceptAt f p m t

def execArrivalAccept (id : Nat) (s : State) : Out1 :=
  match (s.flight? id).bind (fun f => f.atCore.map (fun a => (f, a))) with
  | some (f, p, m, t) =>
    if m.hdr.kind = 1 ∨ s.toSheaf m then s.idle "another unit takes it"
    else if !s.firstArrival f then s.idle "an earlier arrival comes first"
    else .next (s.takeMsg f p m t)
  | none => s.idle "no message at a core"

def execSheafArrival (id : Nat) (s : State) : Out1 :=
  match (s.flight? id).bind (fun f => f.atCore.map (fun a => (f, a))) with
  | some (f, p, m, t) =>
    if !s.toSheaf m then s.idle "it joins no sheaf"
    else if !s.firstArrival f then s.idle "an earlier arrival comes first"
    else .next (s.takeMsg f p m t)
  | none => s.idle "no message at a core"

/-- An overflowed entry leaves the flush reserve for the tail of its list as the pool has a record again (R211). -/
def State.unreserve (s : State) (c lc : Nat) : State :=
  let l := s.lc c lc
  match l.reserve with
  | [] => s
  | e :: t =>
    if l.poolMax ≤ l.poolUsed then s
    else if let some b := s.reserveBad c lc e.place then s.siloFault c b
    else
      let e := match e.place with
        | some n => s.readRecord (s.reserveAt c lc n) e
        | none => e
      let s := s.setLc c lc { l with reserve := t }
      match e.item with
      | .msg m => if s.toSheaf m then s.spillJoin c lc m e.stamp else s.spill c lc e
      | _ => s.spill c lc e

/-- The head of the sheaf list is read back from its record and applied as if it had just arrived (R218). -/
def State.readback (s : State) (c lc : Nat) : State :=
  let l := s.lc c lc
  match l.sheafList with
  | [] => s
  | (_, st, n) :: rest =>
    if let some b := s.poolBad c lc (some n) then s.siloFault c b
    else
    let m := msgOfRecord (Memory.read s.mem (s.poolAt c lc n) 512)
    let s := ((s.setLc c lc { l with sheafList := rest }).siloControl c lc).unreserve c lc
    if l.sheaves.any (fun y => y.keyOf m.hdr) then s.applySheaf c lc m st
    else
      match s.handler? c m.hdr.gen.toNat m.hdr.hidx.toNat with
      | none => s.dispatchTarget (s.lc c lc).pos lc m
      | some (_, h) =>
        let l := s.lc c lc
        (s.setLc c lc { l with sheaves := l.sheaves ++ [Sheaf.opened m.hdr h.join] }).applySheaf c lc m st

def execSheafListReadback (c lc : Nat) (s : State) : Out1 :=
  if (s.lc c lc).sheafList.isEmpty then s.idle "the sheaf list is empty"
  else if (s.ctx c).paused || !s.mayOpen c lc then s.idle "no sheaf may be opened"
  else .next (s.readback c lc)

/-- A queue has a free entry. -/
def CtxCore.queueRoom (l : CtxCore) (pr : Nat) : Bool := decide ((l.queue pr).length + Tab.get 0 l.held pr < l.depth pr)

/-- The head of a silo list goes back, from its record, into a free entry of its queue (R209). -/
def State.refill (s : State) (c lc pr : Nat) : State :=
  let l := s.lc c lc
  match l.siloOf pr with
  | [] => s
  | e :: rest =>
    if let some b := s.poolBad c lc e.place then s.siloFault c b
    else
    ((s.setLc c lc { l with
      silo := l.silo.put pr rest
      queues := l.queues.put pr (l.queue pr ++ [s.unspilled c lc e]) }).siloControl c lc).unreserve c lc

def execSiloRefill (c lc pr : Nat) (s : State) : Out1 :=
  if ((s.lc c lc).siloOf pr).isEmpty then s.idle "the silo list is empty"
  else if (s.ctx c).paused || !(s.lc c lc).queueRoom pr then s.idle "the queue has no free entry"
  else .next (s.refill c lc pr)

/-! Replies (06 R111). -/

/-- A reply enters its reservation, or is stray. -/
def State.deliverReply (s : State) (p : Nat) (m : Msg) : State :=
  let c := m.hdr.ctx.toNat
  let (m, s) := s.pairScale p m
  let (st, s) := s.newStamp p
  let k := s.core p
  let tag := m.hdr.tag.toNat
  let r := tag % 64
  match k.resv.get? r with
  | some v =>
    if bitsOf tag 6 6 = 1 ∧ v.ctx = c ∧ v.reply.isNone then
      s.setCore p { k with resv := k.resv.put r { v with reply := some (m, st) } }
    else s.count (dieOf p) c 0x100 1
  | none => s.count (dieOf p) c 0x100 1

/-- A reply is taken as it comes (11 R233): behind the replies of its path, and of its own cycle's arrivals behind those of
earlier ports, by which stamps go (R204). It never waits for a request that came before it. -/
def State.firstReply (s : State) (f : Flight) : Bool :=
  s.ripe f && !s.replyBehind f && s.flights.all (fun g =>
    !(g.goal == f.goal && g.body.unit == f.body.unit && g.arrived && (g.reply || g.cyc == f.cyc) && g.comesBefore f))

def execReplyDelivery (id : Nat) (s : State) : Out1 :=
  match (s.flight? id).bind (fun f => f.atCore.map (fun a => (f, a))) with
  | some (f, p, m, t) =>
    if m.hdr.kind ≠ 1 ∨ s.firstReply f = false then s.idle "no reply, or an earlier reply comes first"
    else
      let c := m.hdr.ctx.toNat
      match s.receiver c p with
      | none => .next (s.dropFlight id)
      | some lc =>
        if (s.ctx c).paused then .next (s.deferMsg f m t lc (xyOfCore p))
        else
          let st := (s.core p).stamp
          .next (((s.dropFlight id).deliverReply p m).acceptAck f m t (xyOfCore p) 0 st)
  | none => s.idle "no reply at a core"

/-! Acknowledgements at the sender (06 R110, R113; 08 R177; 18 R314, R315). -/

/-- Core position at which a sender's logical core now is. -/
def State.senderPos (s : State) (w : Who) : Nat := s.posOf w

def execSendAcceptAck (id : Nat) (s : State) : Out1 :=
  match s.flight? id with
  | some f =>
    match f.body with
    | .ack t rstat stamp _ opId chip core =>
      if !f.arrived || s.replyBehind f then s.idle "the acknowledgement is under way"
      else
        let p := s.senderPos f.who
        match t with
        | .send =>
          if rstat = 1 ∨ rstat = 3 then s.idle "it is an error reply"
          else .next (((s.dropFlight id).completeOp opId).logSend p f.who chip core stamp)
        | .elem p' cmd => .next (((s.dropFlight id).elemDone p' cmd).logSend p f.who chip core stamp)
        | .reply => .next ((s.dropFlight id).logSend p f.who chip core stamp)
        | .member _ => s.idle "a member's acknowledgement"
        | .peer _ _ _ => s.idle "it is a peer's"
        | .none | .record | .initial _ => .next (s.dropFlight id)
    | _ => s.idle "no acknowledgement"
  | none => s.idle "no such acknowledgement"

/-- The merged reply of a multicast. -/
def State.mergedReply (s : State) (c lc r : Nat) (bitmap : Word) (n : Nat) : Msg :=
  let m := s.unitMsg c lc 0 (64 + r) 0 0 [bitmap, word64 n]
  { m with hdr := { m.hdr with kind := 1, rstat := 2 } }

/-- A member's acknowledgement: counted, with its bit set when it failed; the last delivers the merged reply. -/
def execMulticastMemberAck (id : Nat) (s : State) : Out1 :=
  match s.flight? id with
  | some f =>
    match f.body with
    | .ack (.member r) rstat stamp midx opId chip core =>
      if !s.canReturn f then s.deferReply f
      else
        let p := s.senderPos f.who
        let s := ((s.dropFlight id).completeOp opId).logSend p f.who chip core stamp
        let k := s.core p
        match k.resv.get? r with
        | some v =>
          match v.merge with
          | some (bits, done, n) =>
            let bits := if rstat = 1 ∨ rstat = 3 then bits ||| word64 (2 ^ midx) else bits
            let s := s.setCore p { k with resv := k.resv.put r { v with merge := some (bits, done + 1, n) } }
            if done + 1 < n then .next s
            else
              let m := s.mergedReply f.who.ctx f.who.lcore r bits n
              let xy := xyOfCore p
              .next (s.deliver f.who 0 m .none xy [] [] false)
          | none => .next s
        | none => .next s
    | _ => s.idle "no member's acknowledgement"
  | none => s.idle "no such acknowledgement"

/-! Arrival counters (06 R118, 10 R221). -/

/-- A counter of a context's allotment at a core. -/
def State.ctr (s : State) (p k : Nat) : Ctr := Tab.get Ctr.reset (s.core p).ctrs k
def State.setCtr (s : State) (p k : Nat) (x : Ctr) : State :=
  let c := s.core p
  s.setCore p { c with ctrs := c.ctrs.put k x }

/-- A counter fires when it is armed and its count has come (R118). -/
def State.fireCtr (s : State) (p c lc n : Nat) (e : CtrEvent) : State :=
  let k := (s.lc c lc).ctrb + n
  let x := s.ctr p k
  if x.armed ∧ x.target ≤ x.count then
    let s := s.setCtr p k { x with count := x.count - x.target, armed := false }
    match x.act with
    | .none => s
    | .enqueue hidx tag prio =>
      let m := s.unitMsg c lc hidx tag prio 4 [word64 x.target]
      s.make p 14 c (.enqueue lc m (.counter e.src.1 e.src.2 e.stamp))
    | .post d w =>
      let q := quadOf p
      if tileOk d.toNat && (s.ctx c).holdsArr q then
        let (cmd, s) := s.fresh
        s.acceptTile q ⟨cmd, d, w, 1, s.clock⟩
      else
        s.record (.core p 9) c fOperand false w.fromFault (s.engRec w 0 (word3 d.toNat) 9 0 n 0)
  else s

/-- One counter event applied at its core. -/
def State.applyCtr (s : State) (p : Nat) (e : CtrEvent) : State :=
  match (s.ctx e.ctx).lcoreAt p with
  | none => s.count (dieOf p) e.ctx 0x102 1
  | some lc =>
    let k := (s.lc e.ctx lc).ctrb + e.n
    let x := s.ctr p k
    match e.what with
    | .add n => (s.setCtr p k { x with count := min (x.count + n) (2 ^ 32 - 1) }).fireCtr p e.ctx lc e.n e
    | .arm target act _ pid =>
      if x.armed then s.fillId pid 1
      else ((s.setCtr p k { x with armed := true, target := target, act := act }).fillId pid 0).fireCtr p e.ctx lc e.n e

/-- An ARM that was issued before another. -/
def armBefore (w : CtrWhat) (pid : Nat) : Bool :=
  match w with
  | .arm _ _ _ k => decide (k < pid)
  | .add _ => false

/-- An ARM of the same counter was issued earlier and has not been applied: its descriptor is still being read, or its event
waits. The later one is applied after it (R118). -/
def State.armBehind (s : State) (p : Nat) (e : CtrEvent) : Bool :=
  match e.what with
  | .add _ => false
  | .arm _ _ _ pid =>
    (s.core p).ctrEvents.any (fun x => x.ctx == e.ctx && x.n == e.n && armBefore x.what pid)
      || (s.core p).made.any (fun x => x.ctx == e.ctx && (match x.what with
        | .ctr n w _ => n == e.n && armBefore w pid
        | _ => false))
      || s.flights.any (fun f =>
        match f.body with
        | .req r | .rep r _ _ =>
          match r.ans with
          | .arm _ n _ =>
            n == e.n && f.who.ctx == e.ctx && (s.lc e.ctx f.who.lcore).pos == p && decide (f.opId < pid)
          | _ => false
        | _ => false)

/-- The counter unit applies its earliest event that may be applied (R221). -/
def execCounterEvent (p : Nat) (s : State) : Out1 :=
  let c := s.core p
  match c.ctrEvents.find? (fun e => !s.armBehind p e) with
  | none => s.idle "no counter event waits"
  | some e => .next ((s.setCore p { c with ctrEvents := c.ctrEvents.erase e }).applyCtr p e)

/-! Continuation wakes (10 R220). -/

def QEntry.wakes (e : QEntry) (r : Nat) : Bool :=
  match e.item with
  | .wake k => k == r
  | _ => false

/-- The wake of a record, wherever it is queued. -/
def CtxCore.wakeOf (l : CtxCore) (r : Nat) : Option QEntry :=
  (l.queues.flatMap (fun q => q.2) ++ l.silo.flatMap (fun q => q.2) ++ l.reserve ++ l.flushed.flatMap (fun q => q.2)).find? (fun e => e.wakes r)

def CtxCore.readWake (l : CtxCore) (r : Nat) : CtxCore :=
  let f (e : QEntry) : QEntry := if e.wakes r then { e with ready := true } else e
  { l with
    queues := l.queues.map (fun q => (q.1, q.2.map f))
    silo := l.silo.map (fun q => (q.1, q.2.map f))
    reserve := l.reserve.map f
    flushed := l.flushed.map (fun q => (q.1, q.2.map f)) }

/-- The header that a wake shows to the match entries of a trace configuration: a hardware-generated message to the parked
instance's core, with its handler, tag and priority (06 Table 06-1, R382; DESIGN CHOICE, log 54). -/
def Cont.wakeHdr (k : Cont) (c lc rank : Nat) : Hdr :=
  { hdrZero with
    dchip := BitVec.ofNat 16 rank
    dcore := BitVec.ofNat 10 lc
    kind := 3
    gen := BitVec.ofNat 2 k.inst.gen
    prio := BitVec.ofNat 2 k.inst.prio
    hidx := BitVec.ofNat 12 k.inst.hidx
    tag := BitVec.ofNat 16 k.inst.tag
    schip := BitVec.ofNat 16 rank
    score := BitVec.ofNat 10 lc
    ctx := BitVec.ofNat 5 c
    jslot := 7 }

/-- A wake is accepted: it has its stamp, it enters the queue of the continuation's PRIO, and the match entries act on it
(R204, R220; 22 R370). It may be dispatched at once when the park cache holds its record. -/
def State.queueWake (s : State) (c lc rec st : Nat) (k : Cont) (why : Cause) : State :=
  let p := (s.lc c lc).pos
  let cached := (s.core p).parkCache.contains (c, rec)
  (s.enqueue c lc ⟨.wake rec, k.inst.prio, st, why, false, cached, none⟩).traceMatch c p lc
    (k.wakeHdr c lc (s.ctx c).desc.rank)

/-- The message of a ring's owner that names a parked consumer's record is accepted at its core: gD and the cursor are handed to
the record, and its wake is queued (06 R121, 10 R220; 22 R369 names no instance as its cause). -/
def State.wokenByRing (s : State) (c lc rec : Nat) (gd : Word) (cur : Nat) : State :=
  match (s.lc c lc).conts.get? rec with
  | some k =>
    let (st, s) := s.newStamp (s.lc c lc).pos
    (s.handOver c lc rec gd (k.cur.map (fun e => (e.1, cur))) .none).queueWake c lc rec st k .none
  | none => s

/-- A ring owner's reply writes gD and the handle; a consumer's dispatch, a KIND 3
message, wakes its continuation (06 R120, R121). -/
def execRingReply (id : Nat) (s : State) : Out1 :=
  match s.flight? id with
  | some f =>
    match f.body with
    | .ringRep r gd cur bad =>
      if f.leaves then s.idle "it is on its way to a peer"
      else if !s.canReturn f then s.deferReply f
      else
        let s := (s.dropFlight id).completeOp f.opId
        match bad with
        | some (code, addr, det) => .next (s.raiseLate f.who code addr det)
        | none =>
          match s.findPend f.opId with
          | some (p, sl, i, _) =>
            let q := match cur with
              | some n => word64 (n * 2 ^ 50 + (i.readQ r.handle).toNat % 2 ^ 50)
              | none => i.readQ r.handle
            .next ((s.setInst p sl (some (i.setQ r.handle q))).fill f.opId gd.toNat)
          | none => .next s
    | .ringWake lcore k gd cur =>
      if f.leaves then s.idle "it is on its way to a peer"
      else if !s.firstArrival f then s.idle "the dispatch is under way, or an earlier arrival comes first"
      else .next ((s.dropFlight id).wokenByRing f.who.ctx lcore k gd cur)
    | _ => s.idle "no ring reply"
  | none => s.idle "no such reply"

/-- The wake of a record is an arrival of its core that the present cycle has made. -/
def State.wakeMade (s : State) (c lc rec : Nat) : Bool :=
  (s.core (s.lc c lc).pos).made.any (fun m => m.ctx == c && m.what == .wake lc rec)

/-- A record whose wait has ended wakes as an arrival of its core itself. One that is queued may be dispatched once its record
has been read, which is a second event. -/
def execContinuationWake (c lc rec : Nat) (s : State) : Out1 :=
  let l := s.lc c lc
  match l.conts.get? rec with
  | none => s.idle "no such continuation"
  | some k =>
    if k.value.isNone then s.idle "its wait has not ended"
    else
      match l.wakeOf rec with
      | some e =>
        if e.ready then s.idle "its record has been read"
        else if let some b := s.poisonAt (s.contAt c lc rec) 4096 then
          if (s.ctx c).paused then s.idle "its record cannot be read" else .next (s.siloFault c b)
        else .next (s.setLc c lc { l.readWake rec with conts := l.conts.put rec { k with inst := s.readCont c lc rec k.inst } })
      | none =>
        if s.wakeMade c lc rec then s.idle "it is accepted as the cycle ends"
        else .next (s.make l.pos 15 c (.wake lc rec))

/-- One arrival that a core has made in the cycle that ends is accepted (R204). -/
def State.acceptMade (s : State) (p : Nat) (m : Made) : State :=
  match m.what with
  | .ctr n what src => s.counterEv p m.ctx n what src
  | .sheaf lc x => s.queueSheaf m.ctx lc x
  | .enqueue lc msg why =>
    let (st, s) := s.newStamp p
    s.takeIn m.ctx p lc msg st false true why
  | .wake lc rec =>
    match (s.lc m.ctx lc).conts.get? rec with
    | none => s
    | some k =>
      let (st, s) := s.newStamp p
      s.queueWake m.ctx lc rec st k k.wcause

/-- As a cycle ends, a core accepts what it has made in it, class by class (R204). -/
def State.endCycle (s : State) : State :=
  s.cores.foldl (fun s e =>
    let k := s.core e.1
    k.made.foldl (fun s m => s.acceptMade e.1 m) (s.setCore e.1 { k with made := [] })) s

/-! The weir (06 R122). -/

/-- A key's place: higher first, with both zeros equal. -/
def keyOrder (k : BitVec 32) : Int :=
  let m : Int := k.toNat % 2 ^ 31
  if k.getLsbD 31 then -m else m

/-- An entry placed behind every one that comes before it. -/
def placeKey (k : BitVec 32) (x : Nat) : List (BitVec 32 × Nat) → List (BitVec 32 × Nat)
  | [] => [(k, x)]
  | (k', x') :: t =>
    if keyOrder k' > keyOrder k ∨ (keyOrder k' = keyOrder k ∧ x' ≤ x) then (k', x') :: placeKey k x t
    else (k, x) :: (k', x') :: t

/-- An insertion into a weir of a depth. -/
def Weir.insert (w : Weir) (depth : Nat) (k : BitVec 32) (x : Nat) : Weir :=
  let tie := w.entries.any (fun e => keyOrder e.1 == keyOrder k && e.2 == x)
  let l := placeKey k x w.entries
  { entries := l.take depth
    drop := if depth < l.length then w.drop + 1 else w.drop
    tie := w.tie || tie }

/-- The weir takes an entry, and then makes the note that it asks for. -/
def State.weirTake (s : State) (c p lc : Nat) (k : BitVec 32) (x : Nat) (note : Option Nat) : State :=
  let l := s.lc c lc
  let s := s.setLc c lc { l with weir := l.weir.insert (bitsOf l.dcfg.toNat 15 12 + 1) k x }
  match note with
  | none => s
  | some n =>
    if n < l.ctrn then s.make p 3 c (.ctr n (.add 1) ((s.ctx c).desc.rank, lc)) else s.count (dieOf p) c 0x102 1

def execWeirInsert (id : Nat) (s : State) : Out1 :=
  match s.flight? id with
  | some f =>
    match f.body, f.goal with
    | .wput k x note _ _, .core p =>
      if !s.firstArrival f then s.idle "the insertion is under way, or an earlier arrival comes first"
      else
        let c := f.who.ctx
        match s.receiver c p with
        | none => .next (s.dropFlight id)
        | some lc =>
          if (s.ctx c).paused then .next (s.defer f lc)
          else .next ((s.dropFlight id).weirTake c p lc k x note)
    | _, _ => s.idle "no insertion at a core"
  | none => s.idle "no such insertion"

end Sys2Proof.Machine
end

