-- ==== Sys2Proof/Machine/Experts.lean ====
section
/-! DEFINITION. Barriers (05 R102, R103, R383), the balance controllers (13 R256 to R258) and the record dispatchers
(13 R261 to R266). -/

namespace Sys2Proof.Machine

open Sys2Proof

/-! Barriers. -/

/-- Key of a barrier: level, the quad or die that holds it, and its number. -/
def barrierKey (level unit n : Nat) : Nat := (level * 256 + unit) * 16 + n

/-- The quad or die of a barrier's unit, from the router that it stands at (R383). -/
def barrierUnit (level x y : Nat) : Nat := if level = 2 then quadAt x y else if level = 3 then dieAt x y else 0

/-- Source of a barrier unit's records. -/
def barrierSource (level unit : Nat) : Source := if level = 2 then .quad unit 8 else .die unit 8 0

/-- A completion message (R103). -/
def State.completion (s : State) (a : BArr) (sum : Word) (episode target : Nat) : Msg :=
  let m := s.unitMsg a.ctx a.lcore a.hidx a.tag (s.defaultPrio a.ctx (s.ctx a.ctx).gen a.hidx) a.level
    [sum, word64 episode, word64 target]
  { m with hdr := { m.hdr with dchip := BitVec.ofNat 16 a.rank } }

/-- A barrier unit's completions, from its router and by its input (R103, 11 R227). -/
def State.deliverAll (s : State) (c : Nat) (src : Nat × Nat) (unit : Nat) (ms : List Msg) : State :=
  ms.foldl (fun s m => s.deliver { Who.zero with ctx := c } 0 m .none src [] [] false (some unit)) s

/-! Balance bindings (R256). -/

def bEn (w : Word) : Bool := bitsOf w.toNat 56 56 == 1
def bTable (w : Word) : Nat := bitsOf w.toNat 55 6 * 64
/-- Scope code of the bound barrier's level. -/
def bLevel (w : Word) : Nat := 3 + bitsOf w.toNat 5 4
def bBar (w : Word) : Nat := bitsOf w.toNat 3 0

/-- The dies whose controllers are bound to a barrier: of a DIE barrier, its own die. -/
def Ctx.boundDies (x : Ctx) (level unit n : Nat) : List Nat :=
  (List.range 4).filter (fun d =>
    let w := Tab.get 0 x.bctl0 d
    bEn w && bLevel w == level && bBar w == n && (level != 3 || unit == d))

/-- An arrival that its barrier's unit applies (R102). -/
def State.arrive (s : State) (f : Flight) (a : BArr) : State :=
  let x := s.ctx a.ctx
  let unit := barrierUnit a.level f.dx f.dy
  let key := barrierKey a.level unit a.n
  let b := Tab.get Barrier.reset x.barriers key
  let b := if b.count = 0 then { b with target := a.target, sum := 0 } else b
  if a.target ≠ b.target then
    let w := if a.rank = x.desc.rank then f.who else { f.who with tag := a.tag, lcore := a.lcore }
    s.record (barrierSource a.level unit) a.ctx fBarrier false f.who.fromFault
      (s.engRec w 0 (a.n * 2 ^ 48 + a.target * 2 ^ 32 + b.target) 8 a.level 0 0)
  else
    let b := { b with count := b.count + 1, sum := b.sum + a.value, arrivals := b.arrivals ++ [a] }
    if b.count < b.target then s.setCtx a.ctx { x with barriers := x.barriers.put key b }
    else
      let ms := b.arrivals.map (fun e => s.completion e b.sum (b.episode + 1) b.target)
      let b := { b with count := 0, episode := b.episode + 1, arrivals := [] }
      let dies := x.boundDies a.level unit a.n
      let x := { x with barriers := x.barriers.put key b }
      if dies.isEmpty then (s.setCtx a.ctx x).deliverAll a.ctx (f.dx, f.dy) (barrierSource a.level unit).inp ms
      else s.setCtx a.ctx { x with closing := x.closing ++ [⟨dies, ms, f.dx, f.dy⟩] }

/-- The answer to a peer's arrival. -/
def State.answerArrival (s : State) (f : Flight) (a : BArr) (rstat : Nat) : State :=
  if a.rank = (s.ctx a.ctx).desc.rank then s
  else
    s.answerPeer f { Who.zero with ctx := a.ctx } (.ack (.peer a.rank f.opId 0) rstat 0 0 0 a.rank a.lcore) (f.dx, f.dy)
      (some inpHub)

/-- BARRIER_ARRIVAL: counted, deferred while the holding context is saved, or answered with RSTAT 3 (R383). -/
def execBarrierArrival (id : Nat) (s : State) : Out1 :=
  match s.flight? id with
  | some f =>
    match f.body, f.goal with
    | .barrier a, .barrier =>
      if !s.firstArrival f then s.idle "not first at its barrier"
      else
        let x := s.ctx a.ctx
        let gone := x.st = .free ∨ x.st = .ending
        if gone ∨ !x.hasRank a.rank then .next ((s.dropFlight id).answerArrival f a 3)
        else if x.paused then
          match x.lcs with
          | (lc, _) :: _ => .next (s.defer f lc)
          | [] => .next (s.dropFlight id)
        else .next (((s.dropFlight id).arrive f a).answerArrival f a 0)
    | _, _ => s.idle "no arrival at a barrier"
  | none => s.idle "no such arrival"

/-! Invalidation of translations (17 R303). -/

/-- A page of an invalidated range: context, region, first page, count. -/
def inRange (e : Nat × Nat × Nat × Nat) (c region page : Nat) : Bool :=
  e.1 == c && e.2.1 == region && decide (e.2.2.1 ≤ page) && decide (page < e.2.2.1 + e.2.2.2)

/-- A virtual address lies in a range, at a page of slice `k`. -/
def State.vaIn (s : State) (e : Nat × Nat × Nat × Nat) (k c va : Nat) : Bool :=
  match (s.ctx c).regionOf va 1 with
  | some (ri, r) =>
    let page := (va - r.vbase) / r.pageSize
    inRange e c ri page && sliceOf c ri page == k
  | none => false

/-- Requests that a slice or an engine translated through an entry of a range and that no owner has applied. -/
def State.translatedIn (s : State) (die k : Nat) (e : Nat × Nat × Nat × Nat) : List Nat :=
  s.flights.filterMap (fun f =>
    match f.body with
    | .req r =>
      if r.target.isSome && r.via.any (fun v => v.1 == die && sliceOf r.ctx v.2.1 v.2.2 == k && inRange e r.ctx v.2.1 v.2.2) then
        some f.id
      else none
    | _ => none)

/-- Chunks of copies and rows of DRAINs whose pages have been translated and that are not wholly written (R303, 08 R173):
die, context, the virtual addresses, and the command with the chunk's or row's number. -/
def State.frozen (s : State) : List (Nat × Nat × List Nat × (Nat × Nat)) :=
  s.cores.filterMap (fun e =>
    match e.2.copyQ with
    | c :: _ => if c.dst.isSome then some (dieOf e.1, c.who.ctx, c.pieces.2.map Prod.fst, (c.id, c.chunk)) else none
    | [] => none)
  ++ s.quads.filterMap (fun e =>
    match e.2.running with
    | some r =>
      if r.row.isSome then
        some (dieOfQuad e.1, r.cmd.who.ctx, (drainRow r.cmd.desc.toNat r.done).map Prod.fst, (r.cmd.id, r.done))
      else none
    | none => none)

/-- What a slice translated through a range and is not wholly applied. -/
def State.throughRange (s : State) (die k : Nat) (e : Nat × Nat × Nat × Nat) : List Nat × List (Nat × Nat) :=
  (s.translatedIn die k e,
    (s.frozen.filter (fun x => x.1 == die && x.2.2.1.any (s.vaIn e k x.2.1))).map (fun x => x.2.2.2))

/-- Something translated through a dropped range is not wholly applied. -/
def State.unapplied (s : State) (d : (Nat × Nat × Nat × Nat) × List Nat × List (Nat × Nat)) : Bool :=
  d.2.1.any (fun id => s.flights.any (fun f => f.id == id && (match f.body with
    | .req _ => true
    | _ => false)))
    || d.2.2.any (fun x => s.frozen.any (fun y => y.2.2.2 == x))

/-- A slice drops the entries of the ranges that it has been told of, and restarts their walks from the root (R303). -/
def State.dropRanges (s : State) (die slice : Nat) : State :=
  let sl := s.sliceAt die slice
  let hit (c region page : Nat) : Bool := sl.inval.any (fun e => inRange e c region page)
  let through := sl.inval.map (fun e => (e, s.throughRange die slice e))
  let s := s.setSlice die slice { sl with
    ents := sl.ents.filter (fun e => !hit e.ctx e.region e.page)
    inval := []
    drops := sl.drops ++ through.map (fun x => (x.1, x.2.1, x.2.2)) }
  { s with flights := s.flights.map (fun f =>
      match f.body, f.goal, f.stage with
      | .req r, .slice d k, .sliceWalk _ _ _ =>
        if d = die ∧ k = slice ∧ hit r.ctx r.key.1 r.key.2.1 then
          let g := (s.ctx r.ctx).regionAt r.key.1
          let level := g.levels - 1
          { f with stage := .sliceWalk (g.paddr + 8 * (r.key.2.1 / 2 ^ (9 * level) % 512)) level g.paddr }
        else f
      | _, _, _ => f) }

/-- TLB_INVALIDATE: a slice drops a range, and acknowledges it once all that it translated through the dropped entries has
been applied (R303 step 3). -/
def execTlbInvalidate (die slice : Nat) (s : State) : Out1 :=
  let sl := s.sliceAt die slice
  if !sl.inval.isEmpty then .next (s.dropRanges die slice)
  else if sl.drops.isEmpty then s.idle "no invalidation waits"
  else if sl.drops.any s.unapplied then s.idle "a request translated through the range is under way"
  else .next (s.setSlice die slice { sl with drops := [] })

/-! The balance controller (R257, R258). -/

/-- One expert's row after an update: LOAD 0 and the new BIAS. -/
def newBias (stepf target load bias : Nat) : Nat :=
  let p := fpOf .f32
  let d := (roundFloat p .rne true (mulX (decodeFloat p stepf) (xrOfInt (target - load : Int))).1).1
  (roundFloat p .rne true (addX .rne (decodeFloat p bias) (decodeFloat p d)).1).1

/-- The bytes of a balance table after an update. -/
def balanceBytes (stepf nexp : Nat) (bs : List Byte) : List Byte :=
  let at4 (o : Nat) : Nat := ofLe (sliceBytes bs o 4)
  leBytes 4 (at4 0 + 1) ++ sliceBytes bs 4 60
    ++ (List.range nexp).flatMap (fun e =>
      leBytes 4 0 ++ leBytes 4 (newBias stepf (at4 4) (at4 (64 + 8 * e)) (at4 (68 + 8 * e))))

/-- Physical addresses of the pieces of a range, when each is on this chip and may be written. -/
def State.physPieces (s : State) (die c : Nat) : List (Nat × Nat) → Option (List (Nat × Nat))
  | [] => some []
  | (va, n) :: t =>
    match s.translate die c va true, s.physPieces die c t with
    | .ok (.here pa) _, some l => some ((pa, n) :: l)
    | _, _ => none

def State.writePieces (s : State) : List (Nat × Nat) → List Byte → State
  | [], _ => s
  | (pa, n) :: t, bs => (s.ownerWrite pa (bs.take n)).writePieces t (bs.drop n)

/-- An update's writes: EPOCH, and each expert's row; TARGET and the reserved bytes are not written (R258). -/
def State.writeTable (s : State) (l : List (Nat × Nat)) (bs : List Byte) : State :=
  match l with
  | [] => s
  | h :: t => (s.ownerWrite h.1 (bs.take 4)).writePieces t (bs.drop 64)

/-- One controller updates its table. None while a page of the table is absent. -/
def State.balance (s : State) (die c : Nat) : Option State :=
  let x := s.ctx c
  let nexp := bitsOf (Tab.get 0 x.bctl1 die).toNat 31 16
  let stepf := bitsOf (Tab.get 0 x.bctl1 die).toNat 63 32
  (s.physPieces die c (pieces (bTable (Tab.get 0 x.bctl0 die)) (64 + 8 * nexp))).map (fun l =>
    s.writeTable l (balanceBytes stepf nexp (l.flatMap (fun e => Memory.read s.mem e.1 e.2))))

/-- Each context's first closing episode that waits for a die. -/
def State.closingAt (s : State) (die : Nat) : List (Nat × Closing) :=
  s.ctxs.filterMap (fun e => (e.2.closing.find? (fun k => k.dies.contains die)).map (fun k => (e.1, k)))

/-- Physical blocks of a controller's table that are poisoned: the update meets the first (21 R353). -/
def State.tableBad (s : State) (die c : Nat) : Option Nat :=
  let x := s.ctx c
  let nexp := bitsOf (Tab.get 0 x.bctl1 die).toNat 31 16
  (s.physPieces die c (pieces (bTable (Tab.get 0 x.bctl0 die)) (64 + 8 * nexp))).bind (fun l =>
    l.findSome? (fun e => s.poisonAt e.1 e.2))

/-- One controller updates its table. An update that meets a poisoned block is recorded and leaves the table as it is (log 48).
None while a page of the table is absent. -/
def State.updated (s : State) (die c : Nat) : Option State :=
  match s.tableBad die c with
  | some b => some (s.record (.die die 10 0) c fUncorr false false
      { lcore := 1023, unit := 10, uidx := die, addr := 64 * b, det := structureOf (64 * b) })
  | none => s.balance die c

/-- Number under which a balance controller's reads stand: no command has it. -/
def balCmd (die c : Nat) : Nat := 2 ^ 65 + 32 * die + c

/-- The first absent page of a controller's table is held on as an engine's is: its slice makes the word's one record
(17 R298). None when it has been made. -/
def State.balancePage (s : State) (die c : Nat) : Option State :=
  let x := s.ctx c
  let nexp := bitsOf (Tab.get 0 x.bctl1 die).toNat 31 16
  let first := (pieces (bTable (Tab.get 0 x.bctl0 die)) (64 + 8 * nexp)).findSome? (fun e =>
    match s.translate die c e.1 true with
    | .absent ri word level => some (e.1, ri, word, level)
    | _ => none)
  match first with
  | none => none
  | some (va, ri, word, level) =>
    let g := x.regionAt ri
    let k := sliceOf c ri ((va - g.vbase) / g.pageSize)
    let sl := s.sliceAt die k
    if sl.engines.contains (balCmd die c, c, word) || decide (Config.heldPerSlice ≤ s.heldCount die k) then none
    else
      some ((s.setSlice die k { sl with engines := sl.engines ++ [(balCmd die c, c, word)] }).pageRecord die k c word false
        { lcore := 1023, unit := 7, uidx := level, addr := va, det := word })

/-- Controllers of a chip that does not hold rank 0, bound to a POD barrier: the episode's close is told from
outside. -/
def State.remoteBound (s : State) (die : Nat) : List Nat :=
  (s.ctxs.filter (fun e =>
    let w := Tab.get 0 e.2.bctl0 die
    e.2.st == .running && bEn w && bLevel w == 5 && e.2.desc.rank != 0)).map Prod.fst

/-- The context whose remote episode has closed: with several bound ones, a value that the outside gives (log 3). -/
def State.remoteClose (s : State) (die : Nat) : Option Nat × State :=
  match s.remoteBound die with
  | [] => (none, s)
  | [c] => (some c, s)
  | l =>
    let (n, s) := s.free
    (l[n % l.length]?, s)

/-- A die's part of a closing episode is done; after the last one its completions are delivered. -/
def State.closeDie (s : State) (die c : Nat) (k : Closing) : State :=
  let x := s.ctx c
  let dies := k.dies.erase die
  if dies.isEmpty then (s.setCtx c { x with closing := x.closing.erase k }).deliverAll c (k.x, k.y) inpHub k.msgs
  else s.setCtx c { x with closing := x.closing.map (fun e => if e = k then { e with dies := dies } else e) }

/-- BALANCE_UPDATE: one die's update; after the last one of an episode, its completions are delivered (R258). A page that is
absent holds back its own context alone (17 R299). -/
def execBalanceUpdate (die : Nat) (s : State) : Out1 :=
  let l := s.closingAt die
  match l.findSome? (fun e => (s.updated die e.1).map (fun t => t.closeDie die e.1 e.2)) with
  | some t => .next t
  | none =>
    match l.findSome? (fun e => s.balancePage die e.1) with
    | some t => .next t
    | none =>
      match s.remoteClose die with
      | (some c, s) =>
        match s.updated die c with
        | some t => .next t
        | none =>
          match s.balancePage die c with
          | some t => .next t
          | none => s.idle "a page of the table is absent"
      | (none, s) => s.idle "no episode has closed, or a page of its table is absent"

/-! The record dispatcher (R261 to R266). -/

def rEn (w : Word) : Bool := bitsOf w.toNat 56 56 == 1
def rBase (w : Word) : Nat := bitsOf w.toNat 55 6 * 64
def rSize (w : Word) : Nat := 2 ^ bitsOf w.toNat 63 60

/-- Fields of a tile record as a number of 256 bits (Table 13-5). -/
def recExpert (r : Nat) : Nat := bitsOf r 15 0
def recQpos (r : Nat) : Nat := bitsOf r 23 16
def recFlags (r : Nat) : Nat := bitsOf r 31 24
def recFirst (r : Nat) : Nat := bitsOf r 63 32
def recCount (r : Nat) : Nat := bitsOf r 79 64
def recHidx (r : Nat) : Nat := bitsOf r 95 80
def recEcore (r : Nat) : Nat := bitsOf r 111 96
def recTag (r : Nat) : Nat := bitsOf r 127 112
def recTaddr (r : Nat) : Nat := bitsOf r 191 128
def recAaddr (r : Nat) : Nat := bitsOf r 255 192

/-- R266's checks of a record itself. -/
def Ctx.recOk (x : Ctx) (s : State) (die r : Nat) : Bool :=
  let q := 64 * die + recQpos r
  decide (recCount r ≤ 128) && decide (recFlags r < 2) && decide (recHidx r < 4096) && decide (recEcore r < 1024)
    && decide (recQpos r < 64) && x.holdsArr q && !(s.quad q).failed
    && recTaddr r % 32 == 0 && decide (recTaddr r < 2 ^ 56) && decide (recAaddr r < 2 ^ 56)

/-- R266's checks of a template. -/
def templateOk (t : Nat) : Bool := tileOk t && decide (tOp t < 3) && !tNm t

/-- A field [lo + w - 1 : lo] replaced. -/
def putBits (x lo w v : Nat) : Nat := x - bitsOf x (lo + w - 1) lo * 2 ^ lo + v % 2 ^ w * 2 ^ lo

/-- The tile that a record posts (R263). -/
def tileOfRec (t r chn : Nat) : Nat :=
  let t := putBits t 225 7 (recCount r - 1)
  let t := putBits t 88 56 (recAaddr r)
  let t := putBits t 180 12 (recHidx r)
  let t := putBits t 170 10 (recEcore r)
  let t := putBits t 144 16 (recTag r)
  putBits t 232 8 chn

/-- The dispatcher of a die, as the issuer of its reads and of the tiles that it posts. -/
def dispWho (die c tag : Nat) : Who := { Who.zero with ctx := c, lcore := 1023, p := 256 * die, tag := tag }

/-- Number under which a dispatcher's reads stand: no command has it. -/
def dispCmd (die c : Nat) : Nat := 2 ^ 64 + 32 * die + c

/-- A record of a dispatcher (21 Table 21-2, UNIT 6). -/
def State.dispRecord (s : State) (die c tag code addr det : Nat) : State :=
  s.record (.die die 6 0) c code false false
    { tag := tag, lcore := 1023, addr := addr, det := det, unit := 6, uidx := die }

/-- Consumes a record: TAIL rises in memory. -/
def State.consume (s : State) (die c base tail : Nat) : State :=
  let s := s.clearFetches (dispCmd die c)
  match s.translate die c base true with
  | .ok (.here pa) _ => s.ownerWrite pa (leBytes 8 (tail + 1))
  | _ => s

/-- TAIL lies in a poisoned block: one record is made, until it can be read again (21 R353; log 48). -/
def State.badTail (s : State) (die c b : Nat) : Out1 :=
  let x := s.ctx c
  if x.badTails.contains die then s.idle "TAIL cannot be read"
  else .next ((s.setCtx c { x with badTails := die :: x.badTails }).dispRecord die c 0 fUncorr (64 * b) (structureOf (64 * b)))

/-- Posts a record's tile to its quad's array (R263, R264). -/
def State.postRec (s : State) (die c r t : Nat) : State :=
  let q := 64 * die + recQpos r
  let x := s.ctx c
  let key := 2 * q + tSet t
  let chn := Tab.get 0 x.dchn key
  let s := s.setCtx c { x with dchn := x.dchn.put key ((chn + 2) % 256) }
  let (cmd, s) := s.fresh
  s.acceptTile q ⟨cmd, BitVec.ofNat 256 (tileOfRec t r chn), dispWho die c (recTag r), 2, s.clock⟩

/-- A record that has been read: refused, skipped or posted (R263, R266). -/
def State.takeRec (s : State) (die c base tail slot r : Nat) : Out1 :=
  let bad (s : State) : Out1 :=
    .next ((s.dispRecord die c (recTag r) fTileRecord slot (recExpert r * 2 ^ 32 + recFirst r)).consume die c base tail)
  if !((s.ctx c).recOk s die r) then bad s
  else if recCount r = 0 then .next (s.consume die c base tail)
  else
    let w := dispWho die c (recTag r)
    match s.engineRead w die (dispCmd die c) 8 (pieces (recTaddr r) 32) with
    | .sent s => .next s
    | .waits => s.idle "a peer's answer is under way"
    | .absent _ va rg word level => s.heldStep w (dispCmd die c) va rg word level 0
    | .bad _ code addr det => .next ((s.dispRecord die c (recTag r) code addr det).consume die c base tail)
    | .data bs =>
      let t := ofLe bs
      if templateOk t then .next ((s.postRec die c r t).consume die c base tail) else bad s

/-- RECORD_DISPATCH: the dispatcher takes the record at TAIL once its lap marker is set. -/
def execRecordDispatch (die c : Nat) (s : State) : Out1 :=
  let x := s.ctx c
  let cfg := Tab.get 0 x.rdcfg die
  let begun := s.fetches.any (fun f => f.cmd = dispCmd die c)
  if !rEn cfg || (x.st != .running && x.st != .launching && !begun) then s.idle "no dispatcher runs"
  else
    let base := rBase cfg
    let w := dispWho die c 0
    match s.translate die c base true with
    | .ok (.here pa) _ =>
      match s.poisonAt pa 8 with
      | some b => s.badTail die c b
      | none =>
      let s := if x.badTails.contains die then s.setCtx c { x with badTails := x.badTails.filter (fun d => d != die) } else s
      let tail := s.readLe pa 8
      let slot := base + 64 + 32 * (tail % rSize cfg)
      match s.engineRead w die (dispCmd die c) 0 (pieces slot 32) with
      | .sent s => .next s
      | .waits => s.idle "a peer's answer is under way"
      | .absent _ va rg word level => s.heldStep w (dispCmd die c) va rg word level 0
      | .bad _ code addr det => .next ((s.dispRecord die c 0 code addr det).consume die c base tail)
      | .data bs =>
        let r := ofLe bs
        if bitsOf r 24 24 ≠ (tail / rSize cfg + 1) % 2 then s.idle "the next slot is not filled"
        else s.takeRec die c base tail slot r
    | .absent rg word level => s.heldStep w (dispCmd die c) base rg word level 0
    | _ => s.idle "the ring is not mapped"

end Sys2Proof.Machine
end

