-- ==== Sys2Proof/Machine/Start.lean ====
section
/-! DEFINITION. Choosing the next dispatch and starting its instance (01 R9, R14, R17; 06 R111, R117, R121, R126;
10 R207, R212, R214, R220). -/

namespace Sys2Proof.Machine

open Sys2Proof

/-- A context whose entries and replies a core dispatches: dispatch stops while it is saved or ends (16 R288). -/
def Ctx.dispatches (c : Ctx) : Bool :=
  match c.st with
  | .running | .launching => true
  | _ => false

/-- How long ago a core gave a stamp, across the wrap of its counter (R204). -/
def Core.ageOf (c : Core) (st : Nat) : Nat := (c.stamp + 2 ^ 32 - st) % 2 ^ 32

/-- The element of greatest age, the first of equals. -/
def oldestBy {α : Type} (age : α → Nat) : List α → Option α
  | [] => none
  | x :: t =>
    match oldestBy age t with
    | none => some x
    | some y => if age x < age y then some y else some x

/-! Starting an instance. -/

/-- The m registers of a header and eight further words (Table 01-2). -/
def mRegs (h : Hdr) (ws : List Word) : Vector Word 16 :=
  let l := (List.range 8).map (hdrWord h) ++ ws
  Vector.ofFn (fun k : Fin 16 => (l[k.val]?).getD 0)

/-- The ring handles at dispatch: the bindings of the handler's entry in the handler table (R9, Table 01-1). The spec
gives an entry of 8 bytes and no place in it for a binding, so each is a free function of the entry (log 20). -/
def ringBindings (entry : Nat) : Vector Word 16 := Vector.ofFn (fun k : Fin 16 => Config.ringBinding entry k.val)

/-- The bytes of a handler's entry in its generation's table (03 Table 03-11). -/
def State.handlerEntry (s : State) (c gen hidx : Nat) : Nat :=
  let image := (Tab.get ⟨0, false⟩ (s.ctx c).tables gen).image
  s.readLe (image + s.readLe (image + 24) 8 + 8 * hidx) 8

/-- The registers of a slot at dispatch (R9): a handler of a generation, its image at `a`. -/
def State.newInst (s : State) (c lc gen hidx : Nat) (a : Nat) (h : HHdr) : Inst × State :=
  let (iid, s) := s.fresh
  ({ Inst.fresh with
      iid := iid
      ctx := c
      lcore := lc
      gen := gen
      hidx := hidx
      hdr := h
      hbase := word64 (a + 16)
      pc := word64 (a + 16)
      q := ringBindings (s.handlerEntry c gen hidx)
      rsafe := (s.ctx c).desc.rsafe }, s)

/-- An instance enters a slot: it is counted, numbered and logged. -/
def State.startSlot (s : State) (p sl : Nat) (i : Inst) : State :=
  let k := s.core p
  let i := { i with inum := k.inums + 1 }
  let s := s.setCore p { k.setSlot sl (some i) with inums := k.inums + 1 }
  (s.count (dieOf p) i.ctx 0x111 1).logDispatch p i

/-- Low 16 bits of a side-band word: the scale. -/
def scaleOf (m : Msg) : Option (BitVec 16) := m.scale.map (fun w => w.extractLsb' 0 16)

/-! Replies (R111). -/

/-- Waiting replies of a core: reservation, its number, reply and stamp. -/
def State.waitingReplies (s : State) (p : Nat) : List (Nat × Resv × Msg × Nat) :=
  (s.core p).resv.filterMap (fun e =>
    match e.2.reply with
    | some (m, st) => if (s.ctx e.2.ctx).dispatches then some (e.1, e.2, m, st) else none
    | none => none)

/-- A reply starts the reply-class handler of its reservation, which closes. -/
def State.startReply (s : State) (p sl r : Nat) (v : Resv) (m : Msg) (st : Nat) : State :=
  let k := s.core p
  let s := s.setCore p { k with resv := k.resv.del r }
  let c := v.ctx
  let lc := ((s.ctx c).lcoreAt p).getD 0
  match s.handler? c v.gen v.rhidx with
  | none => s.dispatchTarget p lc m
  | some (a, h) =>
    let hd : Hdr := { m.hdr with hidx := BitVec.ofNat 12 v.rhidx }
    let (i, s) := s.newInst c lc v.gen v.rhidx a h
    s.startSlot p sl { i with
      tag := hd.tag.toNat
      m := mRegs hd (payloadWords m.payload)
      reply := true
      scale := scaleOf m
      cause := .message hd.schip.toNat hd.score.toNat st }

/-! Queue entries (R212). -/

/-- Dispatchable entries of every context on a core: context, logical core, entry. -/
def State.dispatchable (s : State) (p : Nat) : List (Nat × Nat × QEntry) :=
  s.ctxs.flatMap (fun e =>
    if e.2.dispatches then
      match e.2.lcoreAt p with
      | some lc => ((e.2.lc lc).queues.flatMap (fun q => q.2.filter QEntry.ready)).map (fun x => (e.1, lc, x))
      | none => []
    else [])

/-- The entry that R212 chooses, and the new AGE. -/
def State.choose (s : State) (p : Nat) : Option ((Nat × Nat × QEntry) × Nat) :=
  let k := s.core p
  let all := s.dispatchable p
  let age (e : Nat × Nat × QEntry) : Nat := k.ageOf e.2.2.stamp
  match (List.range 4).find? (fun h => all.any (fun e => e.2.2.prio = h)) with
  | none => none
  | some h =>
    let lower := all.filter (fun e => decide (h < e.2.2.prio))
    if k.age = 16 ∧ !lower.isEmpty then (oldestBy age lower).map (fun e => (e, 0))
    else
      (oldestBy age (all.filter (fun e => e.2.2.prio = h))).map (fun e =>
        (e, if lower.isEmpty then 0 else k.age + 1))

/-- An ordinary message starts an instance. Its entry is held for payload bytes 64 to 255 (R207). -/
def State.startMsg (s : State) (p sl c lc : Nat) (m : Msg) (e : QEntry) : State :=
  let h := m.hdr
  match s.handler? c h.gen.toNat h.hidx.toNat with
  | none => s.dispatchTarget p lc m
  | some (a, hh) =>
    let long : Bool := decide (64 < m.payload.length)
    let l := s.lc c lc
    let s := if long then s.setLc c lc { l with held := l.held.put e.prio (Tab.get 0 l.held e.prio + 1) } else s
    let (i, s) := s.newInst c lc h.gen.toNat h.hidx.toNat a hh
    s.startSlot p sl { i with
      tag := h.tag.toNat
      m := mRegs h (payloadWords m.payload)
      prio := e.prio
      tail := m.payload.drop 64
      heldPrio := if long then some e.prio else none
      scale := scaleOf m
      fromFault := e.record
      cause := e.cause }

/-- A fired sheaf starts an instance: the lead header and the operands (Table 01-2). -/
def State.startSheaf (s : State) (p sl c lc : Nat) (h : Hdr) (ops : List Word) (e : QEntry) : State :=
  match s.handler? c h.gen.toNat h.hidx.toNat with
  | none => s.dispatchTarget p lc ⟨h, [], none⟩
  | some (a, hh) =>
    let (i, s) := s.newInst c lc h.gen.toNat h.hidx.toNat a hh
    let i := { i with tag := h.tag.toNat, m := mRegs h ops, prio := e.prio, join := true, cause := e.cause }
    let s := s.startSlot p sl i
    s.gleanSample p { i with inum := (s.core p).inums } e.stamp

/-- A continuation resumes: its registers as they were parked, gD and CUR as the wake hands them over; a parked JEMIT
then sends its message (R17, R117, R121, R126). The record frees. -/
def State.resume (s : State) (p sl c lc rec : Nat) (e : QEntry) : State :=
  let l := s.lc c lc
  match l.conts.get? rec with
  | none => s
  | some k =>
    let s := (s.setLc c lc { l with conts := l.conts.del rec }).siloControl c lc
    let core := s.core p
    let s := s.setCore p { core with parkCache := core.parkCache.filter (fun x => x != (c, rec)) }
    let i := (k.inst.writeG k.dst (k.value.getD 0)).settleEdge
    let i := match k.cur with
      | some (q, n) => i.setQ q (word64 (n * 2 ^ 50 + (i.readQ q).toNat % 2 ^ 50))
      | none => i
    let s := s.startSlot p sl { i with waitOn := none, cause := e.cause }
    match k.emit, s.inst? p sl with
    | some (route, token, stepw), some j =>
      let back := (s.curP, s.curS)
      let s := { s with curP := p, curS := sl }.emission j stepw route token
      { s with curP := back.1, curS := back.2 }
    | _, _ => s

/-- An entry leaves its queue and starts its instance. -/
def State.startEntry (s : State) (p sl c lc : Nat) (e : QEntry) : State :=
  let l := s.lc c lc
  let s := s.setLc c lc { l with queues := l.queues.put e.prio ((l.queue e.prio).erase e) }
  match e.item with
  | .msg m => s.startMsg p sl c lc m e
  | .sheaf h ops _ => s.startSheaf p sl c lc h ops e
  | .wake r => s.resume p sl c lc r e

/-- DISPATCH: the oldest waiting reply, or the entry that R212 chooses, into the lowest free slot (01 R20). -/
def execDispatch (p : Nat) (s : State) : Out1 :=
  let k := s.core p
  match k.freeSlot with
  | none => s.idle "no slot is free"
  | some sl =>
    match oldestBy (fun e => k.ageOf e.2.2.2) (s.waitingReplies p) with
    | some (r, v, m, st) => .next ((s.signal 3 (quadOf p)).startReply p sl r v m st)
    | none =>
      match s.choose p with
      | none => s.idle "no entry is dispatchable"
      | some ((c, lc, e), age) =>
        .next (((s.signal 3 (quadOf p)).setCore p { k with age := age }).startEntry p sl c lc e)

end Sys2Proof.Machine
end

