-- ==== Sys2Proof/Machine/Mailbox.lean ====
section
/-! DEFINITION. Mailbox commands: their cells, codes and result words (16 R276, 18 R306). -/

namespace Sys2Proof.Machine

open Sys2Proof

def Hub.cmdCode (h : Hub) (cell : Nat) : Nat := ofLe (sliceBytes (h.cell cell) 0 2)
def Hub.cmdCtx (h : Hub) (cell : Nat) : Nat := ofLe (sliceBytes (h.cell cell) 2 1)
/-- Argument j of a cell: each is 8 bytes (Table 18-3). -/
def Hub.arg (h : Hub) (cell j : Nat) : Nat := ofLe (sliceBytes (h.cell cell) (8 + 8 * j) 8)

/-- A result word (R276). -/
def resultWord (code reason detail : Nat) : Nat := code + reason * 2 ^ 8 + detail % 2 ^ 16 * 2 ^ 16

/-- A code that names a command. -/
def knownCode (k : Nat) : Bool :=
  (decide (0x01 ≤ k) && decide (k ≤ 0x08)) || (decide (0x10 ≤ k) && decide (k ≤ 0x16))
    || (decide (0x20 ≤ k) && decide (k ≤ 0x22)) || (decide (0x30 ≤ k) && decide (k ≤ 0x36))

/-- A code that acts on a context (R306). -/
def contextCode (k : Nat) : Bool :=
  (decide (0x01 ≤ k) && decide (k ≤ 0x08)) || k == 0x11 || k == 0x14 || k == 0x16
    || (decide (0x30 ≤ k) && decide (k ≤ 0x36) && k != 0x32 && k != 0x33)

/-- A state that no command is about to change. -/
def Ctx.settledState (x : Ctx) : Bool :=
  match x.st with
  | .running | .saved => true
  | _ => false

/-- Another cell's command on a context is under way (16 R276). A GLEAN that samples is no such command: a stop, a save or the
end of the context ends it (22 R369). -/
def Hub.busyOn (h : Hub) (cell c : Nat) : Bool :=
  (List.range 4).any (fun k =>
    k != cell && Tab.get 0 h.busy k == 2 && contextCode (h.cmdCode k) && h.cmdCode k != 0x31 && h.cmdCtx k == c)

/-- The command of a cell that its doorbell has started: `f` takes the context, and whether this is its first step.
A command on a context above 31 is rejected with reason 0xFE. At most one command runs on a context at a time: on one that is
RUNNING or SAVED, a second waits for the first (R276, log 49). -/
def State.onCell (s : State) (cell code : Nat) (f : Nat → Bool → Out1) : Out1 :=
  let h := s.hub
  let phase := Tab.get 0 h.busy cell
  if cell > 3 ∨ phase = 0 ∨ h.cmdCode cell ≠ code then s.idle "the cell's command is not started"
  else if contextCode code ∧ 32 ≤ h.cmdCtx cell then .next (s.mbDone cell (resultWord 3 0xFE 0))
  else if contextCode code && phase == 1 && h.busyOn cell (h.cmdCtx cell) && (s.ctx (h.cmdCtx cell)).settledState then
    s.idle "another command runs on the context"
  else f (h.cmdCtx cell) (phase == 1)

/-- A command answers. -/
def State.answer (s : State) (cell code reason detail : Nat) : Out1 := .next (s.mbDone cell (resultWord code reason detail))

/-- A command goes on in a later step. -/
def State.underWay (s : State) (cell : Nat) : State := s.setHub { s.hub with busy := s.hub.busy.put cell 2 }

/-- MAILBOX_INVALID_CODE: result 3 with reason 0xFF. -/
def execMailboxInvalidCode (cell : Nat) (s : State) : Out1 :=
  let h := s.hub
  if cell > 3 ∨ Tab.get 0 h.busy cell ≠ 1 ∨ knownCode (h.cmdCode cell) then s.idle "the cell's command is known"
  else s.answer cell 3 0xFF 0

end Sys2Proof.Machine
end

