-- ==== Sys2Proof/Machine/Launch.lean ====
section
/-! DEFINITION. LAUNCH and REBIND: the descriptor, the module image, and everything that a launch checks and applies
(03 R54, R60, R61; 10 R206; 06 R116; 13 R256, R261; 16 R276 to R285; 17 R292, R293; 21 R358). -/

namespace Sys2Proof.Machine

open Sys2Proof

/-! Checks: the first failure gives the reason and the detail (R283). -/

abbrev Rej := Except (Nat × Nat)

def require (ok : Bool) (reason detail : Nat) : Rej Unit := if ok then .ok () else .error (reason, detail)

/-- Each element passes its check; the first that fails gives its detail. -/
def eachOk {α : Type} (reason : Nat) (bad : α → Option Nat) : List α → Rej Unit
  | [] => .ok ()
  | x :: t =>
    match bad x with
    | some d => .error (reason, d)
    | none => eachOk reason bad t

/-- Elements with their indices. -/
def indexed {α : Type} (l : List α) : List (Nat × α) := (List.range l.length).zip l

/-- A physical range that can be read: in HBM4, or in one window (12 R237). -/
def readable (a n : Nat) : Bool :=
  if n = 0 then true
  else
    match place a, place (a + n - 1) with
    | .hbm _, .hbm _ => true
    | .scratch p _, .scratch q _ => p == q
    | .accum _ _, .accum _ _ => true
    | .wbuf _ _, .wbuf _ _ => true
    | _, _ => false

/-! The descriptor (Table 16-3). -/

structure LaunchDesc where
  d : CDesc
  pmap : Nat
  ccfg : Nat
  dcfgd : Nat
  regt : Nat
  nreg : Nat
  deriving DecidableEq, Repr

def State.launchDesc (s : State) (a : Nat) : LaunchDesc :=
  let f (o n : Nat) : Nat := s.readLe (a + o) n
  { d :=
      { image := f 0 8
        dva := word64 (f 8 8)
        saveba := f 16 8
        siloba := f 24 8
        rkey := word64 (f 32 8)
        rank := f 40 4
        ncore := f 44 2
        rsafe := f 46 1 % 2 == 1
        fhv := f 46 1 / 2 % 2 == 1
        fhidx := f 48 2
        fcore := f 50 2 }
    pmap := f 56 8
    ccfg := f 64 8
    dcfgd := f 72 8
    regt := f 80 8
    nreg := f 88 2 }

/-! The module image (03 Table 03-12, Table 03-8, Table 03-9). -/

/-- The offset at which an image header breaks Table 03-12. -/
def State.badImage (s : State) (im : Nat) : Option Nat :=
  let f (o n : Nat) : Nat := s.readLe (im + o) n
  let hc := f 8 2
  let recs := 16 * f 12 2 + 32 * f 14 2
  let bad : List (Nat × Bool) :=
    [(0, !readable im 64 || f 0 4 != 0x0034594E), (4, f 4 2 != 1), (6, f 6 2 != 0), (8, hc == 0 || decide (hc > 4094)),
      (20, f 20 4 != 0), (24, f 24 8 % 64 != 0 || !readable (im + f 24 8) (8 * hc)), (32, f 32 8 % 64 != 0),
      (40, f 40 8 % 64 != 0), (56, f 56 8 % 64 != 0 || !readable (im + f 56 8) recs)]
  (bad.find? (fun e => e.2)).map Prod.fst

/-- The R54 reason of a handler header of its two words: the first check of Table 03-9 that fails. -/
def hdrReason (rsafe : Bool) (w0 w1 : Nat) : Option Nat :=
  let h := HHdr.ofWords w0 w1
  if bitsOf w0 63 60 ≠ 1 ∨ bitsOf w1 63 52 ≠ 0 ∨ bitsOf w1 31 0 ≠ 0 then some 1
  else if h.join = 1 ∨ h.join > 8 then some 2
  else if h.gcnt = 0 ∨ h.gcnt > 64 ∨ h.vcnt > 32 ∨ h.dcnt > 16 then some 3
  else if h.glive > h.gcnt ∨ h.vlive > h.vcnt ∨ h.dlive > h.dcnt then some 4
  else if h.len = 0 then some 5
  else if h.rcl ∧ (h.prio ≠ 0 ∨ h.join ≠ 0) then some 6
  else if rsafe && !h.rsf then some 7
  else none

/-- The handler headers of an image checked in index order (R54): the index, with the reason in bits [15:12]. A table entry
that puts an image at an address that is no multiple of 64 (R53) fails no check of Tables 03-9 and 16-4: it is taken as it
stands (DESIGN CHOICE, log 49). -/
def State.checkHeaders (s : State) (rsafe : Bool) (im : Nat) : Rej Unit :=
  eachOk 3 (fun k =>
    let a := s.handlerAddr im k
    (hdrReason rsafe (s.readLe a 8) (s.readLe (a + 8) 8)).map (fun r => k + 4096 * r))
    (List.range (s.readLe (im + 8) 2))

/-! Placement (R285). -/

def Quad.active (q : Quad) : Bool := !q.failed && !q.spare

def State.activePos (s : State) (p : Nat) : Bool := decide (p < 1024) && (s.quad (quadOf p)).active

/-- A placement-map entry (Table 16-5). -/
def pmAuto (e : Nat) : Bool := bitsOf e 15 15 == 1
def pmStack (e : Nat) : Nat := bitsOf e 14 11
def pmPos (e : Nat) : Nat := bitsOf e 9 0

def State.placeMap (s : State) (a ncore : Nat) : List Nat := (List.range ncore).map (fun c => s.readLe (a + 2 * c) 2)

/-- The entries with AUTO = 0: positions by logical core, or the first logical core at fault. -/
def State.placeFixed (s : State) : List (Nat × Nat) → Tab Nat → Except Nat (Tab Nat)
  | [], acc => .ok acc
  | (c, e) :: t, acc =>
    if bitsOf e 10 10 = 1 then .error c
    else if pmAuto e then s.placeFixed t acc
    else if acc.any (fun x => x.2 = pmPos e) || !s.activePos (pmPos e) then .error c
    else s.placeFixed t (acc.put c (pmPos e))

/-- The nearest position of a list to a router, the lower one of equals. -/
def nearest (xy : Nat × Nat) : List Nat → Option Nat
  | [] => none
  | p :: t =>
    match nearest xy t with
    | none => some p
    | some q => if hops (xyOfCore q) xy < hops (xyOfCore p) xy then some q else some p

/-- The entries with AUTO = 1, in ascending logical core. -/
def State.placeAuto (s : State) : List (Nat × Nat) → Tab Nat → Except Nat (Tab Nat)
  | [], acc => .ok acc
  | (c, e) :: t, acc =>
    if pmAuto e then
      let d := pmStack e / 4
      let free := ((List.range 256).map (fun k => 256 * d + k)).filter (fun p =>
        s.activePos p && !acc.any (fun x => x.2 = p))
      match nearest (memPortXY d (4 * (pmStack e % 4))) free with
      | some p => s.placeAuto t (acc.put c p)
      | none => .error c
    else s.placeAuto t acc

/-- The whole map placed. -/
def State.placeCores (s : State) (m : List Nat) : Except Nat (Tab Nat) :=
  match s.placeFixed (indexed m) [] with
  | .error c => .error c
  | .ok acc => s.placeAuto (indexed m) acc

/-! Allotments (R278, R287; 10 R206; 06 R116, 10 R222). -/

/-- A context that keeps its allotments, depths and array rights: one that is saved keeps them only until a launch or a
restore takes them (R287). -/
def Ctx.holds (x : Ctx) : Bool :=
  match x.st with
  | .free | .saved => false
  | .saving => x.saved.isNone
  | _ => true

/-- What other contexts hold at a core position. -/
def State.othersAt (s : State) (c p : Nat) : List CtxCore :=
  s.ctxs.filterMap (fun e => if e.1 = c || !e.2.holds then none else (e.2.lcoreAt p).map e.2.lc)

/-- Another context holds the array rights of a quad. -/
def State.otherArr (s : State) (c q : Nat) : Bool := s.ctxs.any (fun e => e.1 != c && e.2.holds && e.2.holdsArr q)

def CtxCore.depths (l : CtxCore) : Nat := ((List.range 4).map l.depth).sum

/-- R206's limits of a DCFG, without the other contexts of the core. -/
def dcfgOk (l : CtxCore) : Bool :=
  let x := l.dcfg.toNat
  let shmax := bitsOf x 26 16
  (List.range 4).all (fun p => decide (4 ≤ l.depth p) && decide (l.depth p ≤ 128))
    && decide (bitsOf x 31 28 ≤ 8) && decide (1 ≤ shmax) && decide (shmax ≤ 1024)
    && decide (512 * l.depths ≤ l.siloZ / 4) && bitsOf x 27 27 == 0 && bitsOf x 11 0 == 0

/-- The depths of all contexts on a core sum to at most 192 (R206). -/
def State.depthsFit (s : State) (c : Nat) (l : CtxCore) : Bool :=
  decide (l.depths + ((s.othersAt c l.pos).map CtxCore.depths).sum ≤ 192)

/-- R278's limits of a CALLOT by itself. -/
def callotOk (l : CtxCore) : Bool :=
  bitsOf l.callot.toNat 41 0 == 0 && l.splen != 0 && decide (l.spoff + l.splen ≤ 6) && decide (l.ctrb + l.ctrn ≤ 64)

/-- Two ranges share an element. -/
def clash (a n b m : Nat) : Bool := n != 0 && m != 0 && decide (a < b + m) && decide (b < a + n)

/-- No other context's allotment stands in the way at the core's position. -/
def State.callotFree (s : State) (c : Nat) (l : CtxCore) : Bool :=
  (s.othersAt c l.pos).all (fun o => !clash l.spoff l.splen o.spoff o.splen && !clash l.ctrb l.ctrn o.ctrb o.ctrn)
    && !(l.arr && s.otherArr c (quadOf l.pos))

/-- A tag group of its word (Table 06-4). -/
def TagGroup.ofWord (w : Nat) : TagGroup := ⟨bitsOf w 63 48, bitsOf w 47 32, bitsOf w 31 16, [], []⟩

def tagWordOk (w : Nat) : Bool :=
  let g := TagGroup.ofWord w
  w == 0 || (g.base != 0 && decide (g.base + g.span ≤ 65536) && decide (g.limit ≤ g.span))

/-- The groups of a core: each by itself, and no two overlapping (R116, R222). -/
def tagWordsOk (ws : List Nat) : Bool :=
  let gs := (ws.filter (fun w => w != 0)).map TagGroup.ofWord
  ws.all tagWordOk
    && (indexed gs).all (fun a => (indexed gs).all (fun b =>
      a.1 == b.1 || !clash a.2.base a.2.span b.2.base b.2.span))

/-- A core's configuration record (Table 16-3, CCFG). -/
def State.coreConfig (s : State) (a c pos : Nat) : CtxCore × List Nat :=
  let f (k : Nat) : Nat := s.readLe (a + 192 * c + 8 * k) 8
  let tgs := (List.range 16).map (fun k => f (2 + k))
  ({ CtxCore.init pos with
      dcfg := word64 (f 0)
      callot := word64 (f 1)
      tgs := (indexed tgs).map (fun e => (e.1, TagGroup.ofWord e.2)) }, tgs)

/-! Regions (17 R292, R293; R279). -/

/-- A region entry of its 256 bits; none when it breaks Table 17-1. -/
def Region.ofNat (v : Nat) : Option Region :=
  let kind := bitsOf v 161 160
  let r : Region :=
    { vbase := bitsOf v 255 200
      pages := bitsOf v 199 164 + 1
      psz := bitsOf v 163 162
      kind := kind
      wen := bitsOf v 159 159 == 1
      levels := bitsOf v 158 157 + 1
      chip := bitsOf v 143 128
      paddr := bitsOf v 104 64 }
  if bitsOf v 156 144 ≠ 0 ∨ bitsOf v 127 105 ≠ 0 ∨ bitsOf v 63 0 ≠ 0 ∨ r.psz = 3 ∨ r.vbase % r.pageSize ≠ 0 then none
  else if kind < 2 ∧ r.chip ≠ 0 then none
  else if kind % 2 = 1 ∧ r.paddr % r.pageSize ≠ 0 then none
  else if kind % 2 = 0 ∧ r.paddr % 4096 ≠ 0 then none
  else some r

def Region.bytes (r : Region) : Nat := r.pages * r.pageSize

/-- A fixed region reaches no hole, stays in one kind of memory and, on this chip, keeps R279. -/
def Ctx.fixedOk (x : Ctx) (r : Region) : Bool :=
  let n := r.bytes
  let last := r.paddr + n - 1
  let quads (a b : Nat) : Bool := r.kind == 3 || (List.range (b - a + 1)).all (fun k => x.holdsArr (a + k))
  match place r.paddr, place last with
  | .hbm _, .hbm _ => true
  | .scratch p off, .scratch q _ =>
    p == q && decide (off + n ≤ Config.scratchBytes)
      && (r.kind == 3 || (match x.lcoreAt p with
        | some l => (x.lc l).holdsScratch off n
        | none => false))
  | .accum a _, .accum b _ => quads a b
  | .wbuf a _, .wbuf b _ => quads a b
  | _, _ => false

/-- A range cut at multiples of 64 KiB. -/
def pages64k (va n : Nat) : List (Nat × Nat) :=
  if n = 0 then []
  else
    (List.range ((va + n - 1) / 65536 - va / 65536 + 1)).map (fun k =>
      let lo := max va (65536 * (va / 65536 + k))
      let hi := min (va + n) (65536 * (va / 65536 + k) + 65536)
      (lo, hi - lo))

/-- Part of a range is a scratchpad, accumulator or weight-buffer window. -/
def reachesWindow (pa n : Nat) : Bool :=
  (pages64k pa n).any (fun e => match place e.1 with
    | .scratch _ _ | .accum _ _ | .wbuf _ _ => true
    | _ => false)

/-- A present leaf of a region's tables maps a window (R293), from a table of a level on whose first entry is for page
`first`. -/
def State.mapsWindow (s : State) (r : Region) : Nat → Nat → Nat → Bool
  | 0, table, first => (List.range 512).any (fun k =>
      let e := s.readLe (table + 8 * k) 8
      decide (first + k < r.pages) && e.testBit 63 && reachesWindow (bitsOf e 40 16 * 65536) r.pageSize)
  | l + 1, table, first => (List.range 512).any (fun k =>
      let e := s.readLe (table + 8 * k) 8
      let page := first + k * 512 ^ (l + 1)
      decide (page < r.pages) && e.testBit 63 && s.mapsWindow r l (bitsOf e 40 12 * 4096) page)

/-- One entry by itself: R293's cases but for overlaps. -/
def State.regionOk (s : State) (x : Ctx) (r : Region) : Bool :=
  decide (r.vbase + r.bytes ≤ 2 ^ 56)
    && (if r.kind % 2 = 1 then x.fixedOk r
      else decide (r.pages ≤ 512 ^ r.levels) && inHbm r.paddr 4096 && !s.mapsWindow r (r.levels - 1) r.paddr 0)

/-- The region table: the regions, or the index of the first entry refused. -/
def State.takeRegions (s : State) (x : Ctx) : List Nat → Nat → List Region → Rej (List Region)
  | [], _, acc => .ok acc
  | v :: t, k, acc =>
    match Region.ofNat v with
    | none => .error (8, k)
    | some r =>
      if !s.regionOk x r || acc.any (fun o => clash r.vbase r.bytes o.vbase o.bytes) then .error (8, k)
      else s.takeRegions x t (k + 1) (acc ++ [r])

/-- DVA maps onto IMAGE + DOFF; otherwise the index of DVA's region, or 0. -/
def State.checkDva (s : State) (c : Nat) (d : CDesc) : Rej Unit :=
  let want := d.image + s.readLe (d.image + 40) 8
  match s.translate 0 c d.dva.toNat false with
  | .ok (.here pa) _ => require (pa == want) 8 (((s.ctx c).regionOf d.dva.toNat 1).map Prod.fst |>.getD 0)
  | _ => .error (8, (((s.ctx c).regionOf d.dva.toNat 1).map Prod.fst).getD 0)

/-! Die records (13 R256, R261). -/

/-- A virtual range lies wholly in memory of this chip that a test accepts. -/
def State.rangeIn (s : State) (die c va n : Nat) (ok : Place → Bool) : Bool :=
  (pages64k va n).all (fun e =>
    match s.translate die c e.1 false with
    | .ok (.here pa) _ => ok (place pa) && ok (place (pa + e.2 - 1))
    | _ => false)

/-- One die's record: R256 of its balance binding, R261 of its dispatcher. -/
def State.dieOk (s : State) (c die : Nat) (b0 b1 rd w3 : Word) : Bool :=
  let hbmHere (p : Place) : Bool :=
    match p with
    | .hbm st => st / 4 == die
    | _ => false
  let memHere (p : Place) : Bool :=
    match p with
    | .hbm st => st / 4 == die
    | .scratch q _ => dieOf q == die
    | _ => false
  let nexp := bitsOf b1.toNat 31 16
  let step := bitsOf b1.toNat 63 32
  let balance := !bEn b0
    || (bitsOf b0.toNat 5 4 != 3 && nexp != 0 && bitsOf step 30 23 != 255 && s.rangeIn die c (bTable b0) (64 + 8 * nexp) hbmHere)
  let lsize := bitsOf rd.toNat 63 60
  let ring := !rEn rd
    || (bitsOf rd.toNat 59 57 == 0 && bitsOf rd.toNat 5 0 == 0 && decide (3 ≤ lsize) && decide (lsize ≤ 15)
      && s.rangeIn die c (rBase rd) (64 + 32 * rSize rd) memHere)
  balance && ring && w3 == 0

/-! Records of the image (03 R61, 02 Table 02-3). -/

structure ChanRec where
  core : Nat
  ch : Nat
  value : Word
  deriving DecidableEq, Repr

structure CtrRec where
  core : Nat
  n : Nat
  action : Nat
  target : Nat
  hidx : Nat
  tag : Nat
  prio : Nat
  tile : Nat
  deriving DecidableEq, Repr

def State.recsAt (s : State) (im : Nat) : Nat := im + s.readLe (im + 56) 8

def State.chanRecs (s : State) (im : Nat) : List ChanRec :=
  (List.range (s.readLe (im + 12) 2)).map (fun k =>
    let a := s.recsAt im + 16 * k
    ⟨s.readLe a 2, s.readLe (a + 2) 1, word64 (s.readLe (a + 8) 8)⟩)

def State.ctrRecs (s : State) (im : Nat) : List CtrRec :=
  let base := s.recsAt im + 16 * s.readLe (im + 12) 2
  (List.range (s.readLe (im + 14) 2)).map (fun k =>
    let a := base + 32 * k
    ⟨s.readLe a 2, s.readLe (a + 2) 1, s.readLe (a + 3) 1, s.readLe (a + 4) 4, s.readLe (a + 8) 2, s.readLe (a + 10) 2,
      s.readLe (a + 12) 1 % 4, s.readLe (a + 16) 8⟩)

/-- A value that Table 02-3 admits: its reserved bits are 0 and SMODE is not reserved. -/
def chanOk (w : Word) : Bool := w &&& ~~~chanMask == 0 && bitsOf w.toNat 15 14 != 3

def ChanRec.ok (ncore : Nat) (r : ChanRec) : Bool :=
  (r.core == 0xFFFF || decide (r.core < ncore)) && decide (r.ch < 32) && chanOk r.value

/-- A counter record names a core and a counter that the context has, and what ARM would take (06 R118). Table 16-4 names no
case for an action-0 record on a quad whose array the context does not hold, for a tile descriptor of one that is not aligned to 32,
for a handler index above 12 bits, nor for bytes that the record's layout says are 0 and are not: all are accepted (DESIGN CHOICE, log
49). -/
def Ctx.ctrRecOk (x : Ctx) (r : CtrRec) : Bool :=
  decide (r.core < x.desc.ncore) && decide (r.n < (x.lc r.core).ctrn) && decide (r.action < 2) && r.target != 0

/-! LAUNCH. -/

/-- Reason 1: the first field of the descriptor that breaks Table 16-3. -/
def State.checkDesc (s : State) (a : Nat) : Rej LaunchDesc :=
  if !inHbm a 128 then .error (1, 0)
  else
    let l := s.launchDesc a
    let d := l.d
    let hcount := if (s.badImage d.image).isNone then s.readLe (d.image + 8) 2 else 4094
    let zero (o n : Nat) : Bool := (Memory.read s.mem (a + o) n).all (fun b => b == 0)
    let ok : List (Nat × Bool) :=
      [(0, d.image % 64 == 0), (40, decide (d.rank < 65536)), (44, decide (1 ≤ d.ncore) && decide (d.ncore ≤ 960)),
        (46, decide (s.readLe (a + 46) 1 < 4)), (47, zero 47 1), (48, !d.fhv || decide (d.fhidx < hcount)),
        (50, !d.fhv || decide (d.fcore < d.ncore)), (52, zero 52 4), (56, readable l.pmap (2 * d.ncore)),
        (64, readable l.ccfg (192 * d.ncore)), (72, readable l.dcfgd 128),
        (80, readable l.regt (32 * l.nreg)), (90, zero 90 38)]
    match ok.find? (fun e => !e.2) with
    | some e => .error (1, e.1)
    | none => .ok l

/-- The new context as the checks build it: cores at their positions, regions, die words. -/
def State.newCtx (s : State) (c : Nat) (l : LaunchDesc) (lcs : Tab CtxCore) (regions : List Region) : Ctx :=
  let old := s.ctx c
  let die (o : Nat) : Tab Word := (List.range 4).map (fun k => (k, word64 (s.readLe (l.dcfgd + 32 * k + o) 8)))
  let ctl := old.rx.ctl.toNat
  { Ctx.reset with
    st := .launching
    desc := l.d
    regions := regions
    tables := [(0, ⟨l.d.image, true⟩)]
    lcs := lcs
    bctl0 := die 0
    bctl1 := die 8
    rdcfg := die 16
    roster := old.roster
    rosters := old.rosters
    rx := { base := old.rx.base, ctl := old.rx.ctl
            en := bitsOf ctl 63 63 == 1 && decide (6 ≤ bitsOf ctl 4 0) && decide (bitsOf ctl 4 0 ≤ 16)
            ie := bitsOf ctl 62 62 == 1, log := bitsOf ctl 4 0, head := 0, tail := 0, ring := [], overflow := [], listed := 0 }
    launched := true }

/-- Every check of Table 16-4 in its order; the context that passes them. -/
def State.checkLaunch (s : State) (c a : Nat) : Rej Ctx := do
  let l ← s.checkDesc a
  let d := l.d
  match s.badImage d.image with
  | some o => .error (2, o)
  | none =>
    s.checkHeaders d.rsafe d.image
    let placed := s.placeCores (s.placeMap l.pmap d.ncore)
    let pos : Tab Nat := match placed with
      | .ok t => t
      | .error _ => []
    let isPlaced : Bool := match placed with
      | .ok _ => true
      | .error _ => false
    let cfg : List (Nat × CtxCore × List Nat) :=
      (List.range d.ncore).map (fun k => (k, s.coreConfig l.ccfg k (Tab.get 0 pos k)))
    let z := match cfg.head? with
      | some e => e.2.1.siloZ
      | none => 0
    eachOk 4 (fun e =>
      if dcfgOk e.2.1 && e.2.1.siloZ == z && (!isPlaced || s.depthsFit c e.2.1) then none else some e.1) cfg
    eachOk 5 (fun e => if tagWordsOk e.2.2 then none else some e.1) cfg
    eachOk 6 (fun e => if callotOk e.2.1 && (!isPlaced || s.callotFree c e.2.1) then none else some e.1) cfg
    (match placed with
      | .ok _ => .ok ()
      | .error k => .error (7, k))
    require (l.nreg != 0 && decide (l.nreg ≤ 64)) 8 0
    let lcs : Tab CtxCore := cfg.map (fun e => (e.1, e.2.1))
    let regions ← s.takeRegions (s.newCtx c l lcs [])
      ((List.range l.nreg).map (fun k => s.readLe (l.regt + 32 * k) 32)) 0 []
    let x := s.newCtx c l lcs regions
    let t := s.setCtx c x
    t.checkDva c d
    eachOk 9 (fun k =>
      let w (o : Nat) : Word := word64 (s.readLe (l.dcfgd + 32 * k + o) 8)
      if t.dieOk c k (w 0) (w 8) (w 16) (w 24) then none else some k) (List.range 4)
    let chans := s.chanRecs d.image
    eachOk 10 (fun e => if e.2.ok d.ncore then none else some e.1) (indexed chans)
    eachOk 10 (fun e => if x.ctrRecOk e.2 then none else some (chans.length + e.1)) (indexed (s.ctrRecs d.image))
    let quads := ((lcs.map (fun e => quadOf e.2.pos)).eraseDups).length
    require (d.saveba % 2 ^ 20 == 0 && d.siloba % 2 ^ 20 == 0 && inHbm d.saveba (2 ^ 20 * (d.ncore + 1 + quads))
      && inHbm d.siloba (d.ncore * z)) 11 0
    pure x

/-- Silo size of a context's cores, which all have the same (Table 16-3). -/
def Ctx.siloZ (x : Ctx) : Nat :=
  match x.lcs.head? with
  | some e => e.2.siloZ
  | none => 0

/-- A physical address lies in the context's save area or in one of its silos (16 Table 16-3, Table 16-6). -/
def Ctx.ownsArea (x : Ctx) (pa : Nat) : Bool :=
  let quads := ((x.lcs.map (fun e => quadOf e.2.pos)).eraseDups).length
  (decide (x.desc.saveba ≤ pa) && decide (pa < x.desc.saveba + 2 ^ 20 * (x.desc.ncore + 1 + quads)))
    || (decide (x.desc.siloba ≤ pa) && decide (pa < x.desc.siloba + x.desc.ncore * x.siloZ))

/-- A die's stacks hold some of those bytes (21 R355). -/
def Ctx.areaOn (x : Ctx) (die : Nat) : Bool :=
  let quads := ((x.lcs.map (fun e => quadOf e.2.pos)).eraseDups).length
  overlap (die * 2 ^ 38) (2 ^ 38) x.desc.saveba (2 ^ 20 * (x.desc.ncore + 1 + quads))
    || overlap (die * 2 ^ 38) (2 ^ 38) x.desc.siloba (x.desc.ncore * x.siloZ)

/-- Record numbers of a context start over at every source (21 R347). -/
def State.clearFseq (s : State) (c : Nat) : State :=
  let f (t : Tab Nat) : Tab Nat := t.filter (fun e => e.1 % 32 != c)
  { s with
    cores := s.cores.map (fun e => (e.1, { e.2 with fseq := f e.2.fseq }))
    quads := s.quads.map (fun e => (e.1, { e.2 with fseq := f e.2.fseq }))
    dies := s.dies.map (fun e => (e.1, { e.2 with fseq := f e.2.fseq }))
    hub := { s.hub with fseq := s.hub.fseq.del c } }

/-- A core as a launch finds it: scratchpad of the allotment zeroed, counters 0 and disarmed, channels at reset (R284). -/
def State.prepareCore (s : State) (l : CtxCore) : State :=
  let a := scratchBase l.pos + l.spoff * 65536
  let n := l.splen * 65536
  let k := s.core l.pos
  let s := s.setCore l.pos { k with
    ctrs := k.ctrs.filter (fun e => !(decide (l.ctrb ≤ e.1) && decide (e.1 < l.ctrb + l.ctrn))) }
  { s with
    mem := Memory.clear s.mem a n
    poison := s.poison.filter (fun b => !(decide (a ≤ 64 * b) && decide (64 * b < a + n))) }

/-- Channel records, in order (R61). -/
def State.applyChan (s : State) (c : Nat) (r : ChanRec) : State :=
  let on (s : State) (lc : Nat) : State :=
    let l := s.lc c lc
    s.setLc c lc { l with chans := l.chans.put r.ch r.value }
  if r.core = 0xFFFF then (s.ctx c).lcs.foldl (fun s e => on s e.1) s else on s r.core

/-- Counter records arm their counters in record order, as ARM would: one that is armed already does not change (R61, 06
R118). -/
def State.applyCtrRec (s : State) (c : Nat) (r : CtrRec) : State :=
  let x := s.ctx c
  let l := x.lc r.core
  let act : CtrAct :=
    if r.action = 1 then .enqueue r.hidx r.tag r.prio
    else
      .post (BitVec.ofNat 256 (s.readLe (x.desc.image + s.readLe (x.desc.image + 40) 8 + r.tile) 32))
        { Who.zero with ctx := c, lcore := r.core, p := l.pos, hidx := 0xFFF }
  if (s.ctr l.pos (l.ctrb + r.n)).armed then s else s.setCtr l.pos (l.ctrb + r.n) ⟨0, true, r.target, act⟩

/-- The launch records of an image: header and payload, each payload padded to 64 bytes. -/
def State.launchRecs (s : State) : Nat → Nat → List Msg
  | 0, _ => []
  | n + 1, a =>
    let w (j : Nat) : Word := word64 (s.readLe (a + 8 * j) 8)
    let h := hdrOfWords (w 0) (w 1) (w 2) (w 3) (w 4)
    let len := h.plen.toNat
    ⟨h, Memory.read s.mem (a + 64) len, none⟩ :: s.launchRecs n (a + 64 + (len + 63) / 64 * 64)

/-- A launch record as the initial message that it is (R284): none when SEND would refuse it. -/
def Ctx.initialMsg (x : Ctx) (c : Nat) (m : Msg) : Option Msg :=
  let h := m.hdr
  let js := h.jslot.toNat
  if (x.desc.ncore ≤ h.dcore.toNat ∧ h.dcore ≠ 1023) ∨ 256 < h.plen.toNat ∨ (4 ≤ js ∧ js < 7) then none
  else
    some { m with hdr := { hdrZero with
      dchip := BitVec.ofNat 16 x.desc.rank
      dcore := h.dcore
      prio := h.prio
      hidx := h.hidx
      tag := h.tag
      schip := BitVec.ofNat 16 x.desc.rank
      score := 1023
      ctx := BitVec.ofNat 5 c
      jslot := h.jslot
      plen := h.plen
      chan := h.chan
      rsc := 6 } }

/-- Sends an initial message through the bridge of the die that holds its destination core (11 R227). -/
def State.sendInitial (s : State) (c : Nat) (m : Msg) : State :=
  let die := if m.hdr.dcore = 1023 then 0 else dieOf (s.lc c m.hdr.dcore.toNat).pos
  s.deliver { Who.zero with ctx := c } 0 m (.initial c) (cornerXY die) [] [] false

/-- Applies a launch that has passed its checks, in the order of R283. The control block of each silo is zeroed (R284). -/
def State.applyLaunch (s : State) (c a : Nat) (x : Ctx) : State :=
  let l := s.launchDesc a
  let entries := (indexed (s.placeMap l.pmap x.desc.ncore)).flatMap (fun e =>
    leBytes 2 (e.2 / 1024 % 32 * 1024 + (x.lc e.1).pos))
  let s := ((s.ownerWrite l.pmap entries).setCtx c x).clearFseq c
  let s := x.lcs.foldl (fun s e => (s.prepareCore e.2).ownerZero (s.siloAt c e.1) 4096) s
  let s := (List.range 4).foldl (fun s k =>
    let w := Tab.get 0 x.rdcfg k
    if rEn w then
      match s.translate k c (rBase w) false with
      | .ok (.here pa) _ => s.ownerZero pa 64
      | _ => s
    else s) s
  let im := x.desc.image
  let s := (s.chanRecs im).foldl (fun s r => s.applyChan c r) s
  let s := (s.ctrRecs im).foldl (fun s r => s.applyCtrRec c r) s
  let recs := s.recsAt im + 16 * s.readLe (im + 12) 2 + 32 * s.readLe (im + 14) 2
  let ms := (s.launchRecs (s.readLe (im + 16) 4) recs).filterMap (x.initialMsg c)
  let s := s.setCtx c { s.ctx c with born := s.clock, toLaunch := ms.length }
  if ms.isEmpty then s.becomeRunning c else ms.foldl (fun s m => s.sendInitial c m) s

/-- LAUNCH: a context that is not FREE answers 1, one that is between states 2; a failed link refuses first of all
(R276, R283, R358). -/
def execLaunch (cell : Nat) (s : State) : Out1 :=
  s.onCell cell 0x01 (fun c _ =>
    match (s.ctx c).st with
    | .running | .saved => s.answer cell 1 0 0
    | .launching | .saving | .restoring | .ending => s.answer cell 2 0 0
    | .free =>
      match s.hub.linkFailed with
      | some link => s.answer cell 3 12 link
      | none =>
        let a := s.hub.arg cell 0
        match s.checkLaunch c a with
        | .error (r, d) => s.answer cell 3 r d
        | .ok x => (s.applyLaunch c a x).answer cell 0 0 0)

/-! REBIND (R280). -/

/-- REBIND names a new image for the next generation, when that one is not resident. -/
def execRebind (cell : Nat) (s : State) : Out1 :=
  s.onCell cell 0x02 (fun c _ =>
    let x := s.ctx c
    match x.st with
    | .free => s.answer cell 1 0 0
    | .launching | .saving | .restoring | .ending => s.answer cell 2 0 0
    | .running | .saved =>
      let g := (x.nextGen.getD x.gen + 1) % 4
      let im := s.hub.arg cell 0
      if s.resident c g then s.answer cell 5 0 0
      else if (s.badImage im).isSome || im % 64 != 0 then s.answer cell 3 2 ((s.badImage im).getD 0)
      else
        match s.checkHeaders x.desc.rsafe im with
        | .error (r, d) => s.answer cell 3 r d
        | .ok _ =>
          let x := { x with tables := x.tables.put g ⟨im, true⟩ }
          (s.setCtx c (if x.st = .saved then { x with nextGen := some g } else { x with gen := g })).answer cell 0 0 0)

end Sys2Proof.Machine
end

