-- ==== Sys2Proof/Machine/SaveArea.lean ====
section
/-! DEFINITION. The parts of a save area that the spec names and gives no place within their sections (16 R289, Tables 16-6 and
16-7): they stand in the order named, and the bytes between and after them are free values (log 16). -/

namespace Sys2Proof.Machine

open Sys2Proof

/-- Words laid down from an address. -/
def State.putWords (s : State) (a : Nat) (l : List Word) : State := s.ownerWrite a (l.flatMap (fun w => leBytes 8 w.toNat))

/-- Word k from an address. -/
def State.areaWord (s : State) (a k : Nat) : Word := word64 (s.readLe (a + 8 * k) 8)

/-! The module and the dies. -/

/-- The module section's words: GEN, LIVEG of each generation, and CYCLE. -/
def State.moduleWords (s : State) (c : Nat) : List Word :=
  let x := s.ctx c
  (x.gen :: (List.range 4).map (s.liveg c) ++ [s.clock - x.born]).map word64

/-- A die's words: its balance binding BCTL0 and BCTL1, DCHN of its 64 quads' two sets, and RDCFG. -/
def Ctx.dieWords (x : Ctx) (d : Nat) : List Word :=
  [Tab.get 0 x.bctl0 d, Tab.get 0 x.bctl1 d] ++ (List.range 128).map (fun k => word64 (Tab.get 0 x.dchn (128 * d + k)))
    ++ [Tab.get 0 x.rdcfg d]

/-- A die's words taken back. Its quads' positions are those that the context now has. -/
def State.dieBack (s : State) (c d a : Nat) (quad : Nat → Nat) : State :=
  let x := s.ctx c
  let dchn := (List.range 128).foldl (fun t k =>
    let q := quad (64 * d + k / 2)
    let key := 2 * q + k % 2
    if (Tab.get? t key).isSome then Tab.put t key ((s.areaWord a (2 + k)).toNat % 256) else t) x.dchn
  let taken (t : Tab Word) (k : Nat) : Tab Word := if (Tab.get? t d).isSome then Tab.put t d (s.areaWord a k) else t
  s.setCtx c { x with bctl0 := taken x.bctl0 0, bctl1 := taken x.bctl1 1, rdcfg := taken x.rdcfg 130, dchn := dchn }

/-! A core. -/

/-- A tag group as its word (06 Table 06-4). -/
def TagGroup.word (t : TagGroup) : Word := word64 (t.base * 2 ^ 48 + t.span * 2 ^ 32 + t.limit * 2 ^ 16 + t.live.length)

/-- A core's words: DCFG, CALLOT, CH0 to CH31, COUNT of each counter held, and TG0 to TG15. -/
def State.coreWords (s : State) (l : CtxCore) : List Word :=
  l.dcfg :: l.callot :: (List.range 32).map (Tab.get chanReset l.chans)
    ++ (List.range l.ctrn).map (fun n => word64 (((s.core l.pos).ctrs.get? (l.ctrb + n)).map Ctr.count |>.getD 0))
    ++ (List.range 16).map (fun k => (Tab.get ⟨0, 0, 0, [], []⟩ l.tgs k).word)

/-- The channels and the counts of a core taken back. -/
def State.coreBack (s : State) (c lc a : Nat) : State :=
  let l := s.lc c lc
  let k := s.core l.pos
  let ctrs := (List.range l.ctrn).foldl (fun t n =>
    match Tab.get? t (l.ctrb + n) with
    | some v => Tab.put t (l.ctrb + n) { v with count := (s.areaWord a (34 + n)).toNat }
    | none => t) k.ctrs
  let chans := (List.range 32).foldl (fun t n =>
    if (Tab.get? t n).isSome then Tab.put t n (s.areaWord a (2 + n) &&& chanMask) else t) l.chans
  (s.setCore l.pos { k with ctrs := ctrs }).setLc c lc { l with chans := chans }

/-! Sheaves (10 Table 10-5). -/

/-- The words of a sheaf: key, ARITY, COUNT and FILLED; the operands; their sources, two to a word; the lead header; the note and
its stamp. -/
def Sheaf.areaWords (h : Sheaf) (c : Nat) : List Word :=
  let opnd (j : Nat) : Option (Word × Nat × Nat × Hdr) := (h.opnds[j]?).getD none
  let src (j : Nat) : Nat := ((opnd j).map (fun o => o.2.1 * 1024 + o.2.2.1)).getD 0
  let filled := ((List.range 4).map (fun j => if (opnd j).isSome then 2 ^ j else 0)).sum
  word64 (c + h.gen * 2 ^ 5 + h.hidx * 2 ^ 7 + h.tag * 2 ^ 19 + h.arity * 2 ^ 35 + h.count * 2 ^ 39 + filled * 2 ^ 43)
    :: (List.range 4).map (fun j => ((opnd j).map Prod.fst).getD 0)
    ++ [word64 (src 0 + src 1 * 2 ^ 32), word64 (src 2 + src 3 * 2 ^ 32)]
    ++ (List.range 8).map (fun k => (h.lead.map (fun l => hdrWord l.2 k)).getD 0)
    ++ [word64 (h.note.1 * 2 ^ 10 + h.note.2.1), word64 h.note.2.2]

/-- A sheaf's operand words taken back. -/
def Sheaf.back (h : Sheaf) (w : Nat → Word) : Sheaf :=
  { h with opnds := (indexed h.opnds).map (fun e => e.2.map (fun o => (w (1 + e.1), o.2))) }

/-- The sheaves of a core, 192 bytes each. -/
def State.sheavesOut (s : State) (c a : Nat) (l : CtxCore) : State :=
  (indexed l.sheaves).foldl (fun s e => s.putWords (a + 192 * e.1) (e.2.areaWords c)) s

def State.sheavesBack (s : State) (c lc a : Nat) : State :=
  let l := s.lc c lc
  s.setLc c lc { l with sheaves := (indexed l.sheaves).map (fun e => e.2.back (s.areaWord (a + 192 * e.1))) }

/-! A quad. -/

/-- A quad's entry table, descriptor by descriptor; its spring slots, words and seed; CHK0 to CHK15; and NEXT of both sets. -/
def State.quadOut (s : State) (c q a : Nat) : State :=
  let x := s.ctx c
  let k := if x.holdsArr q then s.quad q else Quad.init q
  let s := k.wbe.foldl (fun s e => s.ownerWrite (a + 32 * e.1) (leBytes 32 e.2.desc.toNat)) s
  let s := (List.range 16).foldl (fun s n =>
    let p := x.pslot q n
    if p.loaded then
      s.ownerWrite (a + 0x800 + 2048 * n) (p.words.flatMap (fun w => leBytes 4 w.toNat) ++ leBytes 8 p.seed.toNat)
    else s) s
  (s.putWords (a + 0x8800) ((List.range 16).map (fun n => Tab.get 0 x.chunks (16 * q + n)))).putWords (a + 0x8880)
    [word64 k.next0, word64 k.next1]

/-- CHK0 to CHK15, NEXT and the entries' descriptors taken back. -/
def State.quadBack (s : State) (c q a : Nat) : State :=
  let x := s.ctx c
  let k := s.quad q
  let wbe := k.wbe.map (fun e => (e.1, { e.2 with desc := BitVec.ofNat 256 (s.readLe (a + 32 * e.1) 32) }))
  let chunks := (List.range 16).foldl (fun t n =>
    if (Tab.get? t (16 * q + n)).isSome then Tab.put t (16 * q + n) (s.areaWord (a + 0x8800) n) else t) x.chunks
  let next (j : Nat) : Nat := (s.areaWord (a + 0x8880) j).toNat % 256
  let s := s.setCtx c { x with chunks := chunks }
  if x.holdsArr q then s.setQuad q { k with wbe := wbe, next0 := next 0, next1 := next 1 } else s

end Sys2Proof.Machine
end

