-- ==== Sys2Proof/Machine/HostRing.lean ====
section
/-! DEFINITION. The reception ring and the host overflow list (18 R308, R309), and host-bound messages (R314, 21 R346). -/

namespace Sys2Proof.Machine

open Sys2Proof

/-- Entries that the host has not consumed: RXHEAD - RXTAIL. -/
def Rx.used (r : Rx) : Nat := (r.head - r.tail).toNat

def Rx.full (r : Rx) : Bool := r.used == 2 ^ r.log

/-- One entry written to host memory: the entry, at its place, with the stamp bytes 0; then the new RXHEAD behind the last
place; then the vector when IE is 1 (R308). -/
def State.ringEntry (s : State) (c : Nat) (m : Msg) : State :=
  let x := s.ctx c
  let r := x.rx
  let head := r.head + 1
  let s := s.setCtx c { x with rx := { r with head := head, ring := r.ring ++ [m] } }
  let base := r.base.toNat
  let s := (s.emit (.hostWrite (base + 512 * (r.head.toNat % 2 ^ r.log)) (msgRecord m 0))).emit
    (.hostWrite (base + 512 * 2 ^ r.log) (leBytes 8 head.toNat))
  if r.ie then s.vector (32 + c) else s

/-- Record n of the overflow list: 1,024 records of the save area, taken in turn (R309; log 16). -/
def Ctx.overflowAt (x : Ctx) (n : Nat) : Nat := x.desc.saveba + 0x80000 + 512 * (n % 1024)

/-- Entries leave the overflow list for the ring, in acceptance order, as places free. Each is read from its record; one
that a poisoned block hides stays, with the fault of its context (21 Table 21-4). -/
def State.drainOverflow (s : State) (c : Nat) : List Msg → State
  | [] => s
  | _ :: t =>
    let x := s.ctx c
    let r := x.rx
    let a := x.overflowAt (r.listed - r.overflow.length)
    if r.full then s
    else if let some b := s.poisonAt a 512 then if x.paused then s else s.siloFault c b
    else
      let m := msgOfRecord (Memory.read s.mem a 512)
      ((s.setCtx c { x with rx := { r with overflow := t } }).ringEntry c m).drainOverflow c t

/-- A message for the host enters the ring, or the overflow list when the ring is full or the list is not empty; false
when the list is full too. -/
def State.hostTake (s : State) (c : Nat) (m : Msg) : State × Bool :=
  let x := s.ctx c
  let r := x.rx
  if r.overflow.isEmpty && !r.full then (s.ringEntry c m, true)
  else if r.overflow.length < 1024 then
    ((s.setCtx c { x with rx := { r with overflow := r.overflow ++ [m], listed := r.listed + 1 } }).ownerWrite
      (x.overflowAt r.listed) (msgRecord m 0), true)
  else (s, false)

/-- A host-bound message that finds the overflow list full: a deferred record of the lowest-numbered logical core, and
the silo-overflow fault with DET 2 (R309). -/
def State.hostDefer (s : State) (f : Flight) (c : Nat) : State :=
  match (s.ctx c).lcs with
  | [] => s.dropFlight f.id
  | (lc, _) :: _ =>
    let room := s.reserveRoom c lc
    let again := !room || (s.deferredOf c lc).any (fun g => match g.body with
      | .msg m _ => m.hdr.dcore == 1023
      | _ => false)
    let s := if room then
        let (st, s) := s.newStamp (s.lc c lc).pos
        let n := s.freeReserve c lc
        let s := s.setFlight { f with stage := .deferred lc st n }
        match f.body with
        | .msg m _ => s.ownerWrite (s.reserveAt c lc n) (msgRecord m st)
        | _ => s
      else (s.dropFlight f.id).discard c
    s.siloOverflow c lc 2 f.tag again

/-- A fault record that finds the ring disabled: counted, and vector 1 is signalled (21 R346). -/
def State.undelivered (s : State) (src : Nat × Nat) (c : Nat) : State := (s.count (dieAt src.1 src.2) c 0x106 1).vector 1

/-- HOST_BOUND_MESSAGE: a message for DCORE 1,023 that has reached its bridge. With the ring disabled, or the context FREE
or ENDING, its destination is absent (R308, R314). -/
def execHostBoundMessage (id : Nat) (s : State) : Out1 :=
  match s.flight? id with
  | some f =>
    match f.body, f.goal with
    | .msg m t, .hub _ =>
      if !s.firstArrival f then s.idle "the message is under way, or an earlier one comes first"
      else
        let c := m.hdr.ctx.toNat
        let src := (f.dx, f.dy)
        let x := s.ctx c
        let gone := x.st == .free || (x.st == .ending && t != .record)
        if gone || !x.rx.en then
          let s := s.dropFlight id
          if t = .record then .next (if x.st = .free then s else s.undelivered src c)
          else .next (s.acceptAck f m t src 3 0)
        else
          match s.hostTake c m with
          | (s, true) => .next ((s.dropFlight id).acceptAck f m t src 0 0)
          | (s, false) =>
            let kept : Track := match t with
              | .record => .record
              | _ => .none
            let s := s.acceptAck f m t src 0 0
            .next (s.hostDefer { f with body := .msg m kept } c)
    | _, _ => s.idle "no message for the host"
  | none => s.idle "no such message"

/-- RXTAIL_WRITE: the host consumes entries, and the overflow list moves up. -/
def execRxtailWrite (c : Nat) (v : Word) (s : State) : Out1 :=
  if 32 ≤ c then s.idle "there are 32 contexts"
  else
    let x := s.ctx c
    let r := x.rx
    let s := s.setCtx c { x with rx := { r with tail := v, ring := r.ring.drop (v - r.tail).toNat } }
    .next (s.drainOverflow c r.overflow)

end Sys2Proof.Machine
end

