-- ==== Sys2Proof/Machine/Statement.lean ====
section
/-! DEFINITION. Counter snapshots, rosters as bytes, and context statements (20 Table 20-1; 22 R363, R372, R373). -/

namespace Sys2Proof.Machine

open Sys2Proof

/-- The 43 counters of Table 22-1, in ascending number. -/
def counterNumbers : List Nat :=
  List.range 18 ++ (List.range 16).map (· + 0x20) ++ (List.range 7).map (· + 0x100) ++ [0x110, 0x111]

/-- The counter entries of a statement (Table 22-4). -/
def Ctx.counterBytes (x : Ctx) : List Byte :=
  counterNumbers.flatMap (fun k =>
    leBytes 2 k ++ leBytes 1 (cond (Tab.get false x.sticky k) 1 0) ++ List.replicate 5 0 ++ leBytes 8 (Tab.get 0 x.counters k))

/-- A roster entry and a roster as Table 20-1 lays them out. -/
def RosterEnt.bytes (e : RosterEnt) : List Byte :=
  leBytes 2 e.chipId ++ leBytes 1 e.x ++ leBytes 1 e.y ++ leBytes 1 e.z ++ leBytes 1 0 ++ leBytes 2 e.domain
    ++ leBytes 4 (e.partner.getD (2 ^ 32 - 1)) ++ List.replicate 20 0 ++ padTo 32 e.meas

def Roster.bytes (r : Roster) : List Byte :=
  leBytes 4 r.ranks.length ++ leBytes 2 r.nx ++ leBytes 2 r.ny ++ leBytes 2 r.nz ++ leBytes 2 0 ++ leBytes 4 r.repoch
    ++ List.replicate 48 0 ++ r.ranks.flatMap RosterEnt.bytes

/-- The one-rank roster of a context that has none (R328). -/
def State.oneRank (s : State) : Roster :=
  let g := s.hub.geom.getD ⟨0, 0, 0, 0, 0, 0, 0⟩
  ⟨1, 1, 1, 0, [⟨g.ident, g.x, g.y, g.z, 0, none, Config.firmwareMeasurement⟩]⟩

/-- Words 0 and 1 of the health record (21 Table 21-5). -/
def Health.word0 (h : Health) : Nat :=
  cond h.replace (2 ^ 63) 0 + h.rwhy % 256 * 2 ^ 48 + h.hole % 65536 * 2 ^ 32 + h.hepoch % 2 ^ 32
def Health.word1 (h : Health) : Nat :=
  h.half % 65536 * 2 ^ 32 + ((List.range 4).map (fun d => Tab.get 0 h.act d % 256 * 2 ^ (8 * d))).sum

/-- The roster list of a statement: beyond 256, the last entry holds the latest. -/
def keepRosters (l : List (Nat × Nat × Nat × List Byte)) : List (Nat × Nat × Nat × List Byte) :=
  if l.length ≤ 256 then l else l.take 255 ++ l.drop (l.length - 1)

/-- A statement under number `sseq` (Table 22-4, R373). -/
def State.statement (s : State) (c kind sseq : Nat) (nonce : List Byte) : List Byte :=
  let x := s.ctx c
  let r := x.roster.getD s.oneRank
  let list := keepRosters x.rosters
  let body := leBytes 4 0x53594E ++ leBytes 2 1 ++ leBytes 1 kind ++ leBytes 1 c ++ leBytes 8 sseq
    ++ padTo 32 nonce ++ padTo 32 Config.firmwareMeasurement
    ++ leBytes 8 s.hub.health.word0 ++ leBytes 8 s.hub.health.word1 ++ padTo 64 Config.hubPublicKey
    ++ leBytes 4 x.desc.rank ++ leBytes 4 r.repoch ++ leBytes 4 list.length ++ leBytes 4 43 ++ List.replicate 80 0
    ++ x.counterBytes
    ++ list.flatMap (fun e => leBytes 4 e.1 ++ leBytes 4 e.2.1 ++ leBytes 8 e.2.2.1 ++ padTo 64 e.2.2.2)
    ++ r.bytes
  body ++ padTo 49856 (Config.sign body)

/-- Length of a context's statement (R372). -/
def State.statementLen (s : State) (c : Nat) : Nat :=
  let x := s.ctx c
  944 + 80 * (keepRosters x.rosters).length + 64 * ((x.roster.getD s.oneRank).ranks.length + 1) + 49856

/-- A statement is made under the module's next number. -/
def State.newStatement (s : State) (c kind : Nat) (nonce : List Byte) : List Byte × State :=
  let n := s.hub.ssSeq + 1
  let s := s.setHub { s.hub with ssSeq := n }
  (s.statement c kind n nonce, s)

end Sys2Proof.Machine
end

