-- ==== Sys2Proof/Machine/Save.lean ====
section
/-! DEFINITION. PREEMPT, END, RESTORE and the completion of a dump or a stop (16 R277, R287 to R291; 10 R223; 21 R348 to
R350; 22 R371). -/

namespace Sys2Proof.Machine

open Sys2Proof

/-! Settling (16 R288 steps 1 to 3, 08 R181). -/

/-- A request that waits at its slice for a page, or that a full slice returned. -/
def Flight.onPage (f : Flight) : Bool :=
  match f.stage with
  | .sliceHeld _ _ | .sliceBack => true
  | _ => false

/-- A slot parked on a page fault: every access that it waits for is held at its slice (R288 step 2). -/
def State.parkedOnFault (s : State) (i : Inst) : Bool :=
  !i.pageWait.isEmpty && i.pageWait.all (fun w => s.flights.any (fun f => f.opId == w && f.onPage))

/-- A slot has stopped: at a safe point with its results written, at an instruction boundary, or parked on a fault. -/
def State.slotStopped (s : State) (i : Inst) : Bool :=
  i.vpend.isEmpty && i.waitOn.isNone
    && (s.parkedOnFault i || (i.pageWait.isEmpty && (match i.stopped with
      | .halted 0 => i.settled
      | .halted _ => true
      | _ => false)))

/-- Commands of a context whose accesses to peer chips are under way. -/
def State.commandsOf (s : State) (c : Nat) : List Nat :=
  s.cores.flatMap (fun e => (e.2.copyQ.filter (fun k => k.who.ctx = c)).map CopyCmd.id
      ++ (e.2.gathers.filter (fun k => k.who.ctx = c)).map GatherCmd.id)
    ++ s.quads.flatMap (fun e => e.2.wbe.filterMap (fun w =>
      if w.2.ctx = c then w.2.load.map Prod.fst else none))
    ++ (List.range 4).map (fun d => dispCmd d c)

/-- A flight that writes a slot's registers when it lands. -/
def Flight.writesSlot (f : Flight) : Bool :=
  match f.body with
  | .pf _ | .hubReq _ | .hubRep _ | .cntrd _ _ => true
  | _ => false

/-- Units that still work for a context: its running array command, chunk and spring requests, elements sent, accesses to
peers, counter events, arrivals that its cores have made in this cycle, and balance updates. -/
def State.unitsSettled (s : State) (c : Nat) : Bool :=
  s.quads.all (fun e =>
      (match e.2.running with
        | some r => r.cmd.who.ctx != c
        | none => true)
      && e.2.chunkReqs.all (fun r => r.ctx != c) && e.2.springReqs.all (fun r => r.who.ctx != c))
    && s.cores.all (fun e =>
      e.2.ctrEvents.all (fun v => v.ctx != c) && e.2.made.all (fun m => m.ctx != c)
      && e.2.gathers.all (fun g => g.who.ctx != c || g.next == g.done)
      && e.2.copyQ.all (fun k => k.who.ctx != c || k.reads == 0))
    && (let ids := s.commandsOf c; s.fetches.all (fun f => !ids.contains f.cmd))
    && (s.ctx c).closing.isEmpty
    && s.flights.all (fun f => f.who.ctx != c || !f.writesSlot)

/-- Every slot has stopped and every unit has settled. -/
def State.settledCtx (s : State) (c : Nat) : Bool :=
  (s.insts c).all (fun e => s.slotStopped e.2.2) && s.unitsSettled c

/-- Pre-emption becomes pending in every slot of the context (step 2). -/
def State.pendAll (s : State) (c : Nat) : State :=
  s.mapInsts c (fun i => some { i with sincePre := 0, stopped := match i.stopped with
    | .no => .pending
    | x => x })

/-! Saving (R289, R290). -/

/-- The record of a stopped slot: the live set at a safe point, otherwise the whole footprint (R290). -/
def State.slotRec (s : State) (i : Inst) (sl : Nat) : SlotRec :=
  let code := if !i.pageWait.isEmpty then 4 else match i.stopped with
    | .halted n => n
    | _ => 0
  { lc := i.lcore
    sl := sl
    inst := { (if code = 0 then i.kept else i) with stopped := .no }
    code := code
    again := s.flights.filter (fun f => code == 4 && i.pageWait.contains f.opId && f.onPage) }

/-- Quads of a context in ascending position: a quad's logical index is its place in this list (R289). -/
def Ctx.quadList (x : Ctx) : List Nat := (List.range 256).filter x.inQuad

/-- Quads on which a context holds array rights. -/
def Ctx.arrQuads (x : Ctx) : List Nat := (List.range 256).filter x.holdsArr

/-- Quads of a placement in ascending position. -/
def quadsOf (place : List Nat) : List Nat := (List.range 256).filter (fun q => place.any (fun p => quadOf p == q))

/-- What a context leaves in its units (Table 16-6, Table 16-7). -/
def State.savedOf (s : State) (c : Nat) : Saved :=
  let x := s.ctx c
  let onCore {α : Type} (f : Core → CtxCore → List α) : List (Nat × α) :=
    x.lcs.flatMap (fun e => (f (s.core e.2.pos) e.2).map (fun v => (e.1, v)))
  { slots := (s.insts c).map (fun e => s.slotRec e.2.2 e.2.1)
    ctrs := onCore (fun k l => (List.range l.ctrn).filterMap (fun n =>
      (k.ctrs.get? (l.ctrb + n)).map (fun v => (n, v))))
    resv := onCore (fun k _ => k.resv.filter (fun r => r.2.ctx = c))
    mons := onCore (fun k _ => k.mons.filter (fun m => m.ctx = c))
    copyQ := onCore (fun k _ => k.copyQ.filter (fun v => v.who.ctx = c))
    copyStop := onCore (fun k _ => (k.copyStop.filter (fun v => v.who.ctx = c)).toList)
    gathers := onCore (fun k _ => k.gathers.filter (fun v => v.who.ctx = c))
    wbe := x.arrQuads.flatMap (fun q => (s.quad q).wbe.map (fun e => (q, e.1, e.2)))
    nexts := x.arrQuads.map (fun q => (q, (s.quad q).next0, (s.quad q).next1))
    arrayQ := x.arrQuads.flatMap (fun q => (s.quad q).arrayQ.map (fun k => (q, k)))
    poison := (s.poison.map (64 * ·)).filter (fun a =>
      x.arrQuads.any (fun q => overlap a 1 (accumBase q) 131072 || overlap a 1 (wbufBase q) 524288)
        || x.lcs.any (fun e => overlap a 1 (scratchBase e.2.pos + 65536 * e.2.spoff) (65536 * e.2.splen)))
    place := x.lcs.map (fun e => e.2.pos) }

/-- A context's state leaves the units that other contexts may now use. -/
def State.vacate (s : State) (c : Nat) : State :=
  let x := s.ctx c
  let arr := x.arrQuads
  { s with
    cores := s.cores.map (fun e =>
      match x.lcoreAt e.1 with
      | none => e
      | some lc =>
        let l := x.lc lc
        let k := e.2
        (e.1, { k with
          slots := k.slots.map (fun o => o.filter (fun i => i.ctx != c))
          resv := k.resv.filter (fun r => r.2.ctx != c)
          mons := k.mons.filter (fun m => m.ctx != c)
          ctrs := k.ctrs.filter (fun t => !(decide (l.ctrb ≤ t.1) && decide (t.1 < l.ctrb + l.ctrn)))
          copyQ := k.copyQ.filter (fun v => v.who.ctx != c)
          copyStop := k.copyStop.filter (fun v => v.who.ctx != c)
          gathers := k.gathers.filter (fun v => v.who.ctx != c)
          made := k.made.filter (fun v => v.ctx != c)
          parkCache := k.parkCache.filter (fun v => v.1 != c) }))
    quads := s.quads.map (fun e =>
      if arr.contains e.1 then (e.1, { e.2 with wbe := [], next0 := 0, next1 := 0, arrayQ := [] }) else e) }

/-- Bytes copied by a save engine to or from the save area. -/
def State.copyBytes (s : State) (src dst n : Nat) : State :=
  { s with
    mem := Memory.install (Memory.clear s.mem dst n) dst (Memory.extract s.mem src n)
    poison := s.poison.filter (fun b => !(decide (dst ≤ 64 * b) && decide (64 * b + 64 ≤ dst + n))) }

/-- Section k of a context's save area: 0 the module and the dies, then its cores, then its quads (Table 16-6). -/
def Ctx.area (x : Ctx) (k : Nat) : Nat := x.desc.saveba + 2 ^ 20 * k

/-- Granules of a quad's weight buffer that entries hold. -/
def Quad.granules (q : Quad) : List Nat := q.wbe.flatMap (fun e => e.2.gran)

/-- A core's section (Table 16-7). The bytes that no rule and no choice places are free values, and what they hold is kept in Saved
(log 16). -/
def State.writeCore (s : State) (c lc : Nat) : State :=
  let x := s.ctx c
  let l := x.lc lc
  let a := x.area (1 + lc)
  let recs := (s.insts c).filter (fun e => e.1 == l.pos)
  let s := s.copyBytes (scratchBase l.pos + 65536 * l.spoff) a (65536 * l.splen)
  let s := s.ownerZero (a + 0x60000) 0x8000
  let s := recs.foldl (fun s e =>
    let r := s.slotRec e.2.2 e.2.1
    s.ownerWrite (a + 0x60000 + 4096 * e.2.1) (r.inst.recordBytes r.code)) s
  let s := ((s.openBytes (a + 0x68000) 0x8000).openBytes (a + 0x70000) 0x30000).ownerZero (a + 0xA0000) 0x60000
  (s.putWords (a + 0x68000) (s.coreWords l)).sheavesOut c (a + 0x70000) l

/-- A quad's section, of logical index k: the accumulator sets, the granules held, each at its place in the weight buffer
(log 16), its entries, spring slots, CHK0 to CHK15 and NEXT, and the rest, whose bytes are free. -/
def State.writeQuad (s : State) (c k q : Nat) : State :=
  let x := s.ctx c
  let a := x.area (x.desc.ncore + 1 + k)
  let s := if x.holdsArr q then
      (s.quad q).granules.foldl (fun s g => s.copyBytes (wbufBase q + 4096 * g) (a + 131072 + 4096 * g) 4096)
        (s.copyBytes (accumBase q) a 131072)
    else s
  (s.openBytes (a + 0xA0000) 0x60000).quadOut c q (a + 0xA0000)

/-- The sections of a die, which its context-save or dump engine writes (R289). -/
def State.writeDie (s : State) (c d : Nat) : State :=
  let x := s.ctx c
  let a := x.area 0 + 65536 * (1 + d)
  let s := (s.openBytes a 65536).putWords a (x.dieWords d)
  let s := x.lcs.foldl (fun s e => if dieOf e.2.pos = d then s.writeCore c e.1 else s) s
  (indexed x.quadList).foldl (fun s e => if dieOfQuad e.2 = d then s.writeQuad c e.1 e.2 else s) s

/-- Dies that hold a context. -/
def Ctx.dies (x : Ctx) : List Nat := (List.range 4).filter (fun d => x.lcs.any (fun e => dieOf e.2.pos == d))

/-- The queue entries of a core go into its flush reserve, in stamp order (10 R223 step 2). -/
def State.flushQueues (s : State) (c lc : Nat) : State :=
  let put (pr : Nat) (s : State) (e : QEntry) : State :=
    let l := s.lc c lc
    let n := s.freeReserve c lc
    let e := { e with place := some n }
    (s.setLc c lc { l with flushed := l.flushed.put pr (Tab.get [] l.flushed pr ++ [e]) }).writeRecord (s.reserveAt c lc n) e
  let s := (List.range 4).foldl (fun s pr => ((s.lc c lc).queue pr).foldl (put pr) s) s
  (s.setLc c lc { s.lc c lc with queues := [] }).siloControl c lc

/-- The save is complete and the context is SAVED (R288 steps 4 and 5), once the engines of `dies` have written their
sections. The queue entries that instances at safe points held are let go with their payloads (10 R223 step 2, 06 R115). A
context that had been saved already keeps what was saved. -/
def State.saveCtx (s : State) (c : Nat) (dies : List Nat) : State :=
  let x := s.ctx c
  match x.saved with
  | some _ => (s.forwardAll c).setCtx c { (s.forwardAll c).ctx c with st := .saved, halt := .none }
  | none =>
    let v := s.savedOf c
    let s := (s.insts c).foldl (fun s e => if (s.slotRec e.2.2 e.2.1).code = 0 then s.unhold e.2.2 else s) s
    let s := (dies.foldl (fun s d => s.writeDie c d) s).openBytes (x.area 0) 65536
    let s := s.putWords (x.area 0) (s.moduleWords c)
    let s := x.lcs.foldl (fun s e => s.flushQueues c e.1) s
    let s := (s.vacate c).forwardAll c
    let gone (f : Flight) : Bool := v.slots.any (fun r => r.again.any (fun g => g.id == f.id))
    let s : State := { s with flights := s.flights.filter (fun f => !gone f) }
    s.setCtx c { s.ctx c with st := .saved, halt := .none, saved := some v }

/-- PREEMPT: the context enters SAVING; once its slots and units have settled, it is saved. -/
def execPreempt (cell : Nat) (s : State) : Out1 :=
  s.onCell cell 0x03 (fun c first =>
    let x := s.ctx c
    if first then
      match x.st with
      | .free | .saved => s.answer cell 1 0 0
      | .launching | .saving | .restoring | .ending => s.answer cell 2 0 0
      | .running =>
        .next (((s.setCtx c { x with st := .saving, halt := .preempt cell }).pendAll c).underWay cell)
    else
      match x.st with
      | .saving =>
        if x.halt = .preempt cell && s.settledCtx c then (s.saveCtx c x.dies).answer cell 0 0 0
        else s.idle "the context has not settled"
      | _ => s.answer cell 0 0 0)

/-! Dumps and stops (21 R348 to R350; 22 R371). -/

/-- The dump engine of a die has finished every dump raised before this one (R350). -/
def State.dumpTurn (s : State) (c d : Nat) : Bool :=
  (s.hub.dumpQ.takeWhile (fun e => e.1 != c)).all (fun e =>
    !(s.ctx e.1).dies.contains d || (s.ctx e.1).dumpDies.contains d)

/-- The cycle in which a context's dump was raised has passed. -/
def State.dumpRaised (s : State) (c : Nat) : Bool := s.hub.dumpQ.any (fun e => e.1 == c && decide (e.2 < s.clock))

/-- The dump engine of a die writes its sections of a stopped context (R348 step 4). -/
def State.dieDump (s : State) (c d : Nat) : Out1 :=
  let x := s.ctx c
  match x.halt with
  | .dump _ =>
    if x.st ≠ .saving ∨ !s.settledCtx c then s.idle "the context has not settled"
    else if !x.dies.contains d || x.dumpDies.contains d then s.idle "the die holds nothing of it, or has finished"
    else if !s.dumpRaised c || !s.dumpTurn c d then s.idle "an earlier dump is under way"
    else
      let s := if x.saved.isNone then s.writeDie c d else s
      .next (s.setCtx c { s.ctx c with dumpDies := d :: x.dumpDies })
  | _ => s.idle "no dump is under way"

/-- A message payload with DONE set in m8. -/
def doneRecord (m : Msg) : Msg :=
  { m with payload := leBytes 8 (Nat.lor (ofLe (m.payload.take 8)) (2 ^ 35)) ++ m.payload.drop 8 }

/-- The dump index (Table 21-3). -/
def Ctx.dumpIndex (x : Ctx) : List Byte :=
  let dies := (x.dies.map (fun d => 2 ^ d)).sum
  padTo 64 (leBytes 4 x.records.length ++ leBytes 4 x.ndrop ++ leBytes 4 x.disc ++ leBytes 1 dies
    ++ leBytes 1 (1 + cond x.loss 2 0)) ++ x.records.flatMap (fun m => padTo 64 m.payload)

/-- DUMP_COMPLETE: the last die has written a stopped context. A dump's index is written, DUMPED is set, and the primary
record is sent again. -/
def execDumpComplete (c : Nat) (s : State) : Out1 :=
  let x := s.ctx c
  if x.st ≠ .saving ∨ !s.settledCtx c then s.idle "the context has not settled"
  else
    match x.halt with
    | .stop => .next (s.saveCtx c x.dies)
    | .dump m =>
      if !x.dies.all (fun d => x.dumpDies.contains d) then s.idle "a die has not finished"
      else
        let s := s.saveCtx c []
        let s := s.ownerWrite (x.desc.saveba + 0x50000) x.dumpIndex
        let s := s.setCtx c { s.ctx c with dumped := true }
        let s := s.setHub { s.hub with dumpQ := s.hub.dumpQ.filter (fun k => k.1 != c) }
        .next (s.deliver Who.zero 0 (doneRecord m) .record (cornerXY 0) [] [] false (some inpHub))
    | _ => s.idle "no dump is under way"

/-! END (R277). -/

/-- Requests of the context that no slice has translated: all but those that wait for a page. -/
def State.translatedAll (s : State) (c : Nat) : Bool :=
  s.flights.all (fun f =>
    match f.body with
    | .req r => r.ctx != c || r.target.isSome || f.onPage
    | _ => true)

/-- Everything that the module holds of a context is discarded; its registers at the host, its final statement and its
counters stay. -/
def State.discardCtx (s : State) (c : Nat) (stmt : List Byte) : State :=
  let x := s.ctx c
  let slice (k : Slice) : Slice :=
    { ents := k.ents.filter (fun e => e.ctx != c)
      words := k.words.filter (fun w => w.1 != c)
      engines := k.engines.filter (fun w => w.2.1 != c)
      inval := k.inval.filter (fun v => v.1 != c)
      drops := k.drops.filter (fun v => v.1.1 != c) }
  let s := if x.saved.isSome then s else s.vacate c
  let s : State := { s with
    flights := s.flights.filter (fun f => f.ctx != c || (match f.goal, f.stage with
      | .slice _ _, _ => false
      | _, .deferred _ _ _ => false
      | _, _ => true))
    cores := s.cores.map (fun e => (e.1, { e.2 with
      ops := e.2.ops.filter (fun o => o.ctx != c)
      made := e.2.made.filter (fun v => v.ctx != c)
      seqOut := e.2.seqOut.filter (fun t => t.1 / (65536 * 1024) != c)
      dlog := e.2.dlog.filter (fun t => t.ctx != c)
      slog := e.2.slog.filter (fun t => t.ctx != c) }))
    dies := s.dies.map (fun e => (e.1, { e.2 with slices := e.2.slices.map (fun k => (k.1, slice k.2)) }))
    hub := { s.hub with dumpQ := s.hub.dumpQ.filter (fun k => k.1 != c) } }
  s.setCtx c { Ctx.reset with
    rx := { Rx.reset with base := x.rx.base, ctl := x.rx.ctl, head := x.rx.head, tail := x.rx.tail }
    counters := x.counters
    sticky := x.sticky
    finalStmt := some stmt
    launched := true
    loss := false }

/-- The context ends: its increments reach the hub, its journals close, its statement is signed, a sample of the gleaner
ends with reason 6, and its state is discarded. -/
def State.finish (s : State) (c : Nat) : State :=
  let s := s.forwardAll c
  let s := (s.hub.seqs.filter (fun q => q.ctx = c)).foldl (fun s q => s.closeSeq c q.seq) s
  let s := match (s.ctx c).glean with
    | some g => s.gleanOut c g [] [] 6
    | none => s
  let (b, s) := s.newStatement c 1 []
  s.discardCtx c b

/-- END: a running context stops as for PREEMPT and is then discarded; a saved one at once. -/
def execMailboxEnd (cell : Nat) (s : State) : Out1 :=
  s.onCell cell 0x05 (fun c first =>
    let x := s.ctx c
    match x.st with
    | .saved => (s.finish c).answer cell 0 0 0
    | .ending =>
      if first then s.answer cell 2 0 0
      else if s.settledCtx c && s.translatedAll c then (s.finish c).answer cell 0 0 0
      else s.idle "the context has not settled"
    | .running => .next (((s.setCtx c { x with st := .ending, halt := .finish cell }).pendAll c).underWay cell)
    | .free => s.answer cell 1 0 0
    | .launching | .saving | .restoring =>
      if first then s.answer cell 2 0 0 else s.idle "the context is being dumped")

/-! RESTORE (R291). -/

/-- Where a restored context's cores and quads stand: old position and new one. -/
structure Moves where
  cores : List (Nat × Nat)
  quads : List (Nat × Nat)
  deriving DecidableEq, Repr

def moved (l : List (Nat × Nat)) (k : Nat) : Nat :=
  match l.find? (fun e => e.1 = k) with
  | some e => e.2
  | none => k

def Moves.of (old new : List Nat) : Moves :=
  let cores := old.zip new
  ⟨cores, (cores.map (fun e => (quadOf e.1, quadOf e.2))).eraseDups⟩

def Moves.pos (m : Moves) (p : Nat) : Nat := moved m.cores p
def Moves.quad (m : Moves) (q : Nat) : Nat := moved m.quads q

/-- A physical address of the context's windows, at the new place. -/
def Moves.addr (m : Moves) (pa : Nat) : Nat :=
  match place pa with
  | .scratch p off => scratchBase (m.pos p) + off
  | .accum q off => accumBase (m.quad q) + off
  | .wbuf q off => wbufBase (m.quad q) + off
  | _ => pa

def Moves.target (m : Moves) : Target → Target
  | .here pa => .here (m.addr pa)
  | t => t

def Moves.who (m : Moves) (w : Who) : Who := { w with p := m.pos w.p }

def Moves.ans (m : Moves) : Answer → Answer
  | .get pa n => .get (m.addr pa) n
  | .elem p c n => .elem (m.pos p) c n
  | .piece p c n => .piece (m.pos p) c n
  | a => a

def Moves.req (m : Moves) (r : MemReq) : MemReq :=
  { r with target := r.target.map m.target, src := r.src.map m.addr, ans := m.ans r.ans }

/-- A flight of the context, bound for where its cores now are. -/
def Moves.flight (m : Moves) (f : Flight) : Flight :=
  let f := { f with who := m.who f.who }
  let f := match f.body with
    | .req r => { f with body := .req (m.req r) }
    | .rep r mst data => { f with body := .rep (m.req r) mst data }
    | _ => f
  match f.goal, f.body with
  | .core p, _ =>
    let p := m.pos p
    { f with goal := .core p, dx := (xyOfCore p).1, dy := (xyOfCore p).2 }
  | .owner, .req r =>
    match r.target with
    | some (.here pa) => { f with dx := (ownerXY pa).1, dy := (ownerXY pa).2 }
    | _ => f
  | .barrier, .barrier a =>
    if a.level = 2 then
      let q := m.quad (quadAt f.dx f.dy)
      { f with dx := (xyOfQuad q).1, dy := (xyOfQuad q).2 }
    else f
  | _, _ => f

/-- A fixed region over windows of this chip, at the new place. -/
def Moves.region (m : Moves) (r : Region) : Region := if r.kind = 1 then { r with paddr := m.addr r.paddr } else r

/-- A region of several quads stays in one piece. -/
def Moves.regionWhole (m : Moves) (r : Region) : Bool :=
  r.kind != 1 || (match place r.paddr, place (r.paddr + r.bytes - 1) with
    | .accum a _, .accum b _ | .wbuf a _, .wbuf b _ =>
      (List.range (b - a + 1)).all (fun k => m.quad (a + k) == m.quad a + k)
    | _, _ => true)

/-- Keys of a table of a context's quads, at the new place. -/
def remapTab {α : Type} (f : Nat → Nat) (t : Tab α) : Tab α := t.foldl (fun acc e => Tab.put acc (f e.1) e.2) []

/-- The map's entry of a logical core breaks R291. -/
def State.badMove (s : State) (c : Nat) (x : Ctx) (old new : List Nat) (e : List Nat) (k : Nat) : Bool :=
  let o := old[k]?.getD 0
  let p := new[k]?.getD 0
  let before := (List.range k).map (fun j => (old[j]?.getD 0, new[j]?.getD 0))
  let l := { x.lc k with pos := p }
  let w := e[k]?.getD 0
  pmAuto w || bitsOf w 10 10 == 1 || !s.activePos p || before.any (fun b => b.2 == p)
    || before.any (fun b => (quadOf b.1 == quadOf o) != (quadOf b.2 == quadOf p))
    || !s.callotFree c l

/-- What a restore needs besides the map: queue entries, reservations, monitor entries and the copy engine (R287). -/
def State.roomFor (s : State) (c : Nat) (x : Ctx) (v : Saved) (new : List Nat) : Bool :=
  x.lcs.all (fun e =>
    let p := new[e.1]?.getD 0
    let k := s.core p
    let l := { e.2 with pos := p }
    s.depthsFit c l
      && (v.resv.filter (fun r => r.1 = e.1)).all (fun r => (k.resv.get? r.2.1).isNone)
      && decide (k.mons.length + (v.mons.filter (fun m => m.1 = e.1)).length ≤ 64)
      && (k.copyStop.isNone || !v.copyStop.any (fun m => m.1 = e.1))
      && decide (k.copyQ.length + (v.copyQ.filter (fun m => m.1 = e.1)).length ≤ 2))

/-- The answer of RESTORE's checks: the new positions, or the result word. -/
def State.checkRestore (s : State) (c : Nat) (v : Saved) (map : Nat) : Except Nat (List Nat) :=
  let x := s.ctx c
  let n := x.lcs.length
  let free := v.place.length == n
    && (List.range n).all (fun k => s.callotFree c (x.lc k) && s.depthsFit c (x.lc k))
  match s.hub.linkFailed with
  | some link => .error (resultWord 3 12 link)
  | none =>
    if !free then .error (resultWord 4 0 0)
    else if map ≠ 0 && !readable map (2 * n) then .error (resultWord 3 7 0)
    else
      let e := if map = 0 then v.place else s.placeMap map n
      let new := if map = 0 then v.place else e.map pmPos
      match (List.range n).find? (s.badMove c x v.place new e) with
      | some k => .error (resultWord 3 7 k)
      | none =>
        if !s.roomFor c x v new then .error (resultWord 4 0 0)
        else
          match x.regions.find? (fun r => !(Moves.of v.place new).regionWhole r) with
          | some _ => .error (resultWord 3 7 0)
          | none => .ok new

/-- Step 1: context-wide state at the new place. -/
def Ctx.relocate (x : Ctx) (m : Moves) : Ctx :=
  let perQuad (n : Nat) (k : Nat) : Nat := m.quad (k / n) * n + k % n
  { x with
    lcs := x.lcs.map (fun e => (e.1, { e.2 with pos := m.pos e.2.pos }))
    regions := x.regions.map m.region
    pslots := remapTab (perQuad 16) x.pslots
    chunks := remapTab (perQuad 16) x.chunks
    dchn := remapTab (perQuad 2) x.dchn
    barriers := remapTab (fun k =>
      if k / 4096 = 2 then barrierKey 2 (m.quad (k / 16 % 256)) (k % 16) else k) x.barriers
    watchers := x.watchers.map (fun w => { w with pa := m.addr w.pa })
    waiters := x.waiters.map (fun w => { w with pa := m.addr w.pa }) }

/-- A stamp of the old core as the new core would have given it: of the same age (10 R204; log 17). -/
def restamp (old new st : Nat) : Nat := (new + st + (2 ^ 32 - old)) % 2 ^ 32

/-- The entries of a logical core that moves keep their ages. -/
def CtxCore.restamp (l : CtxCore) (f : Nat → Nat) : CtxCore :=
  let tab (t : Tab (List QEntry)) : Tab (List QEntry) := t.map (fun e => (e.1, e.2.map (fun x => { x with stamp := f x.stamp })))
  { l with
    flushed := tab l.flushed
    silo := tab l.silo
    reserve := l.reserve.map (fun x => { x with stamp := f x.stamp })
    sheafList := l.sheafList.map (fun m => (m.1, f m.2.1, m.2.2)) }

/-- Stamps of the entries, the deferred records and the waiting replies of a logical core that moves. -/
def State.restampCore (s : State) (c lc old new : Nat) : State :=
  if old = new then s
  else
    let f := restamp (s.core old).stamp (s.core new).stamp
    let s := s.setLc c lc ((s.lc c lc).restamp f)
    { s with flights := s.flights.map (fun g =>
        match g.stage with
        | .deferred l st n => if l = lc ∧ g.ctx = c then { g with stage := .deferred l (f st) n } else g
        | _ => g) }

/-- Step 2: quad state. -/
def State.restoreQuads (s : State) (c : Nat) (m : Moves) (v : Saved) : State :=
  let x := s.ctx c
  let s := v.nexts.foldl (fun s e =>
    let q := m.quad e.1
    s.setQuad q { s.quad q with next0 := e.2.1, next1 := e.2.2 }) s
  let s := v.wbe.foldl (fun s e =>
    let q := m.quad e.1
    let w := e.2.2
    s.setEntry q e.2.1 { w with
      load := w.load.map (fun l => (l.1, m.who l.2))
      evict := w.evict.map (fun l => (l.1, m.who l.2)) }) s
  let s := v.arrayQ.foldl (fun s e =>
    let q := m.quad e.1
    let x := s.quad q
    s.setQuad q { x with arrayQ := x.arrayQ ++ [{ e.2 with who := m.who e.2.who }] }) s
  (indexed (quadsOf v.place)).foldl (fun s e =>
    let q := m.quad e.2
    let a := x.area (x.desc.ncore + 1 + e.1)
    let s := if x.holdsArr q then
        (s.quad q).granules.foldl (fun s g => s.copyBytes (a + 131072 + 4096 * g) (wbufBase q + 4096 * g) 4096)
          (s.copyBytes a (accumBase q) 131072)
      else s
    s.quadBack c q (a + 0xA0000)) s

/-- Steps 3 and 4: core state and scratchpad allotments. A gather stream that holds another context's commands already takes the
saved ones after them, and may then hold more than four (08 R181; log 17). -/
def State.restoreCore (s : State) (c : Nat) (m : Moves) (v : Saved) (lc : Nat) : State :=
  let l := s.lc c lc
  let mine {α : Type} (t : List (Nat × α)) : List α := (t.filter (fun e => e.1 = lc)).map Prod.snd
  let k := s.core l.pos
  let k := { k with
    ctrs := (mine v.ctrs).foldl (fun t e =>
      let act := match e.2.act with
        | .post d w => CtrAct.post d (m.who w)
        | a => a
      Tab.put t (l.ctrb + e.1) { e.2 with act := act }) k.ctrs
    resv := (mine v.resv).foldl (fun t e =>
      let old := (s.core (v.place[lc]?.getD 0)).stamp
      Tab.put t e.1 { e.2 with reply := e.2.reply.map (fun r =>
        (r.1, if v.place[lc]? = some l.pos then r.2 else restamp old k.stamp r.2)) }) k.resv
    mons := k.mons ++ (mine v.mons).map (fun e => { e with pa := m.target e.pa })
    copyQ := k.copyQ ++ (mine v.copyQ).map (fun e => { e with who := m.who e.who })
    copyStop := match (mine v.copyStop).head? with
      | some e => some { e with who := m.who e.who }
      | none => k.copyStop
    gathers := k.gathers ++ (mine v.gathers).map (fun e => { e with who := m.who e.who }) }
  let a := (s.ctx c).area (1 + lc)
  let s := ((s.setCore l.pos k).coreBack c lc (a + 0x68000)).sheavesBack c lc (a + 0x70000)
  s.copyBytes a (scratchBase l.pos + 65536 * l.spoff) (65536 * l.splen)

/-- Operations and sequence numbers of the context follow its cores. -/
def State.moveOps (s : State) (c : Nat) (m : Moves) : State :=
  let taken := s.cores.flatMap (fun e => (e.2.ops.filter (fun o => o.ctx = c)).map (fun o => (m.pos e.1, o)))
  let seqs := s.cores.flatMap (fun e =>
    (e.2.seqOut.filter (fun t => t.1 / (65536 * 1024) = c)).map (fun t => (m.pos e.1, t)))
  let s : State := { s with cores := s.cores.map (fun e => (e.1, { e.2 with
    ops := e.2.ops.filter (fun o => o.ctx != c)
    seqOut := e.2.seqOut.filter (fun t => t.1 / (65536 * 1024) != c) })) }
  let s := taken.foldl (fun s e => s.addOp e.1 e.2) s
  seqs.foldl (fun s e =>
    let k := s.core e.1
    s.setCore e.1 { k with seqOut := k.seqOut.put e.2.1 e.2.2 }) s

/-- Applied n times. -/
def iterate {α : Type} (f : α → α) : Nat → α → α
  | 0, x => x
  | n + 1, x => iterate f n (f x)

/-- Step 5: each queue is refilled from the flush reserve, in stamp order, and then from its silo list, and the sheaf list
is replayed, as far as entries and sheaves allow (10 R223, R209, R218). Entries that had overflowed follow, as records of the
pool are free (R211). -/
def State.refillQueues (s : State) (c lc : Nat) : State :=
  let l := s.lc c lc
  let back (e : QEntry) : QEntry :=
    match e.place with
    | some n => s.readRecord (s.reserveAt c lc n) e
    | none => e
  let s := s.setLc c lc { l with queues := l.flushed.map (fun q => (q.1, q.2.map back)), flushed := [] }
  let s := (List.range 4).foldl (fun s pr =>
    iterate (fun s => if (s.lc c lc).queueRoom pr then s.refill c lc pr else s) (l.depth pr) s) s
  let s := iterate (fun s => if s.mayOpen c lc then s.readback c lc else s) l.sheafList.length s
  iterate (fun s => s.unreserve c lc) l.reserve.length s

/-- A deferred record applied (step 6). -/
def State.applyDeferred (s : State) (lc : Nat) (f : Flight) (st : Nat) : State :=
  let c := f.ctx
  let p := (s.lc c lc).pos
  let t := s.dropFlight f.id
  match f.body with
  | .msg m _ =>
    if m.hdr.dcore = 1023 then
      match s.hostTake c m with
      | (u, true) => u.dropFlight f.id
      | (u, false) => u.hostDefer f c
    else if m.hdr.kind = 1 then t.deliverReply p m
    else if m.hdr.kind = 2 then
      let n := m.hdr.ctrn.toNat
      if n < (t.lc c lc).ctrn then
        t.applyCtr p ⟨st, c, n, .add m.hdr.ccnt.toNat, (m.hdr.schip.toNat, m.hdr.score.toNat)⟩
      else t.count (dieOf p) c 0x102 1
    else
      match t.handler? c m.hdr.gen.toNat m.hdr.hidx.toNat with
      | some (_, h) => t.joinArrival c lc m h.join st
      | none => t.dispatchTarget p lc m
  | .rep _ _ _ | .ack _ _ _ _ _ _ _ | .ringRep _ _ _ _ | .hubRep _ | .pf _ =>
    let (n, t) := s.fresh
    t.setFlight { f with stage := .router (xyOfCore p).1 (xyOfCore p).2 false, arr := n, cyc := s.clock }
  | .wput k x note _ _ => t.weirTake c p lc k x note
  | .barrier a => (t.arrive f a).answerArrival f a 0
  | .req r =>
    match r.target with
    | some (.here pa) =>
      match r.ring with
      | some rr => s.applyRing f r rr pa
      | none => s.applyReq f r pa
    | _ => t
  | _ => t

/-- A flight placed by age, oldest first. -/
def placeByAge (age : Flight → Nat) (f : Flight) : List Flight → List Flight
  | [] => [f]
  | g :: t => if age g < age f then f :: g :: t else g :: placeByAge age f t

/-- A core's deferred records, in stamp order. -/
def State.applyAllDeferred (s : State) (c lc : Nat) : State :=
  let k := s.core (s.lc c lc).pos
  let age (f : Flight) : Nat :=
    match f.stage with
    | .deferred _ st _ => k.ageOf st
    | _ => 0
  ((s.deferredOf c lc).foldl (fun l f => placeByAge age f l) []).foldl (fun s f =>
    match f.stage with
    | .deferred l st _ => s.applyDeferred l f st
    | _ => s) s

/-- A request goes to the slice of the die where its core now is. -/
def State.routed (s : State) (p : Nat) (f : Flight) : Flight :=
  match f.goal, f.body with
  | .slice _ _, .req r =>
    let r := { r with look := none }
    let (goal, xy) := s.reqRoute r (dieOf p) (xyOfCore p)
    { f with body := .req r, goal := goal, dx := xy.1, dy := xy.2 }
  | _, _ => f

/-- A request that the order queue of a moved core still holds, or that a full slice had returned to it, leaves from where the core
now is, for its die's slice (17 R297). -/
def State.fromHere (s : State) (f : Flight) : Flight :=
  if f.stage == .held || f.stage == .sliceBack then
    let xy := xyOfCore f.who.p
    s.routed f.who.p { f with sx := xy.1, sy := xy.2 }
  else f

/-- Step 7: a slot record in the lowest free slot; an access held on a page is sent again (17 R300). -/
def State.restoreSlot (s : State) (c : Nat) (m : Moves) (r : SlotRec) : State :=
  let p := (s.lc c r.lc).pos
  match (s.core p).freeSlot with
  | none => s
  | some sl =>
    let bytes := Memory.read s.mem ((s.ctx c).area (1 + r.lc) + 0x60000 + 4096 * r.sl) 4096
    let s := s.setInst p sl (some (r.inst.ofRecord bytes))
    r.again.foldl (fun s f =>
      let f := s.routed p (m.flight f)
      let xy := xyOfCore p
      let (n, s) := s.fresh
      let g := { f with stage := .router xy.1 xy.2 false, sx := xy.1, sy := xy.2, arr := n, cyc := s.clock, inp := entryPort f.who f.body }
      { s with flights := s.flights ++ [g] }) s

/-- Every saved slot finds a free one. -/
def State.slotsFree (s : State) (x : Ctx) (v : Saved) (new : List Nat) : Bool :=
  x.lcs.all (fun e =>
    let k := s.core (new[e.1]?.getD 0)
    decide ((v.slots.filter (fun r => r.lc = e.1)).length ≤ ((List.range 8).filter (fun sl => (k.inst? sl).isNone)).length))

/-- RESTORE clears DUMPED, in the context and in its dump index (21 R348, Table 21-3). -/
def State.clearDumped (s : State) (x : Ctx) : State :=
  let a := x.desc.saveba + 0x5000D
  if x.dumped then s.ownerWrite a (leBytes 1 (s.readLe a 1 / 2 * 2)) else s

/-- Ranges of the save area and of the flush reserve that a restore reads. -/
def State.restoreReads (s : State) (c : Nat) (v : Saved) : List (Nat × Nat) :=
  let x := s.ctx c
  (x.area 0, 0x50000) :: x.lcs.flatMap (fun e =>
      (x.area (1 + e.1), 0xA0000)
        :: e.2.flushed.flatMap (fun q => q.2.filterMap (fun r => r.place.map (fun n => (s.reserveAt c e.1 n, 512)))))
    ++ (indexed (quadsOf v.place)).map (fun e => (x.area (x.desc.ncore + 1 + e.1), 0x100000))

/-- The poisoned block that a restore meets. -/
def State.restoreBad (s : State) (c : Nat) (v : Saved) : Option Nat :=
  let l := s.restoreReads c v
  s.poison.find? (fun b => l.any (fun r => overlap (64 * b) 64 r.1 r.2))

/-- The steps of R291, in order, in one step of the model; the context is then RUNNING. -/
def State.restoreCtx (s : State) (c : Nat) (v : Saved) (new : List Nat) : State :=
  let m := Moves.of v.place new
  let s := s.clearDumped (s.ctx c)
  let s := (s.ctx c).lcs.foldl (fun s e => s.restampCore c e.1 e.2.pos (m.pos e.2.pos)) s
  let x := (s.ctx c).relocate m
  let x := { x with
    st := .running, halt := .none, saved := none, frozen := false, dumped := false, dumpDies := [], records := [], ndrop := 0, disc := 0, loss := false
    gen := x.nextGen.getD x.gen, nextGen := none }
  let s := s.setCtx c x
  let s : State := { s with flights := s.flights.map (fun f => if f.ctx = c || f.who.ctx = c then m.flight f else f) }
  let s : State := { s with flights := s.flights.map (fun f => if f.who.ctx = c then s.fromHere f else f) }
  let s := (dies v.place).foldl (fun s d => s.dieBack c d (x.area 0 + 65536 * (1 + d)) m.quad) s
  let s := (s.restoreQuads c m v).moveOps c m
  let lcs := x.lcs.map Prod.fst
  let s := lcs.foldl (fun s lc => s.restoreCore c m v lc) s
  let s : State := { s with poison := s.poison ++ v.poison.map (fun a => m.addr a / 64) }
  let s := lcs.foldl (fun s lc => s.refillQueues c lc) s
  let s := lcs.foldl (fun s lc => s.applyAllDeferred c lc) s
  (v.slots.foldl (fun s r => s.restoreSlot c m r) s).becomeRunning c
where
  /-- Dies of a placement. -/
  dies (l : List Nat) : List Nat := (List.range 4).filter (fun d => l.any (fun p => dieOf p == d))

/-- A restore that this cell began and that has not completed. -/
def State.restoring (s : State) (cell : Nat) : Option (Nat × Saved × List Nat) :=
  s.ctxs.findSome? (fun e =>
    match e.2.halt, e.2.saved with
    | .restore k new, some v => if k = cell ∧ e.2.st = .restoring then some (e.1, v, new) else none
    | _, _ => none)

/-- RESTORE: its checks and its answer, which leave the context RESTORING; then, once the slots that it needs are free,
its steps. One that reads a poisoned block does not restore: the context takes the fault and is dumped as it was saved (21 Table
21-4; log 48). -/
def execRestore (cell : Nat) (s : State) : Out1 :=
  match s.restoring cell with
  | some (c, v, new) =>
    if !s.slotsFree (s.ctx c) v new then s.idle "no slot is free"
    else
      match s.restoreBad c v with
      | some b => .next ((s.setCtx c { s.ctx c with st := .saved, halt := .none }).siloFault c b)
      | none => .next (s.restoreCtx c v new)
  | none =>
    s.onCell cell 0x04 (fun c _ =>
      let x := s.ctx c
      match x.st, x.saved with
      | .saved, some v =>
        match s.checkRestore c v (s.hub.arg cell 0) with
        | .error w => .next (s.mbDone cell w)
        | .ok new => (s.setCtx c { x with st := .restoring, halt := .restore cell new }).answer cell 0 0 0
      | .launching, _ | .saving, _ | .restoring, _ | .ending, _ => s.answer cell 2 0 0
      | _, _ => s.answer cell 1 0 0)

end Sys2Proof.Machine
end

