-- ==== Sys2Proof/Machine/Host.lean ====
section
/-! DEFINITION. The host's accesses: BAR0 registers, the memory window and the injection windows (01 R7; 16 R286; 18 R304
to R308; 20 R332). -/

namespace Sys2Proof.Machine

open Sys2Proof

/-! BAR0 (18 R305, R306, R308). -/

/-- MBDONE is W1C. -/
def State.mbdoneClear (s : State) (v : Nat) : State :=
  let h := s.hub
  s.setHub { h with mbdone := ((List.range 4).map (fun k => if bitsOf h.mbdone k k = 1 ∧ bitsOf v k k = 0 then 2 ^ k else 0)).sum }

/-- MBDONE_WRITE: the host clears completion bits (R305). -/
def execMbdoneWrite (v : Word) (s : State) : Out1 := .next (s.mbdoneClear v.toNat)

/-- A doorbell: it starts a cell, unless its command has not completed. -/
def State.doorbell (s : State) (n : Nat) : State :=
  let h := s.hub
  if n ≤ 3 ∧ Tab.get 0 h.busy n = 0 then s.setHub { h with busy := h.busy.put n 1 } else s

/-- The host consumes entries of a reception ring (R308, R309). -/
def State.rxtail (s : State) (c : Nat) (v : Word) : State :=
  match execRxtailWrite c v s with
  | .next t => t
  | _ => s

/-- Bytes of a value of 8 bytes replaced. -/
def mergeBytes (old k : Nat) (bs : List Byte) : Nat :=
  let o := leBytes 8 old
  ofLe (o.take k ++ bs ++ o.drop (k + bs.length))

/-- Reception register `sub` of a context: RXBASE and RXCTL take a value while the context is FREE (R308). -/
def State.rxRegister (s : State) (c sub k : Nat) (bs : List Byte) : State :=
  let x := s.ctx c
  let r := x.rx
  if sub = 24 then s.rxtail c (word64 (mergeBytes r.tail.toNat k bs))
  else if x.st ≠ .free then s
  else if sub = 0 then s.setCtx c { x with rx := { r with base := word64 (mergeBytes r.base.toNat k bs / 4096 * 4096) } }
  else if sub = 8 then
    let v := mergeBytes r.ctl.toNat k bs
    s.setCtx c { x with rx := { r with ctl := word64 (bitsOf v 63 62 * 2 ^ 62 + bitsOf v 4 0) } }
  else s

/-- One aligned register of Table 18-2, from byte `k` of it on. -/
def State.bar0Write (s : State) (reg k : Nat) (bs : List Byte) : State :=
  let h := s.hub
  if reg < 0x100 then
    let cell := reg / 64
    let o := reg % 64
    if 56 ≤ o ∨ Tab.get 0 h.busy cell ≠ 0 then s
    else
      let old := h.cell cell
      s.setHub { h with mb := h.mb.put cell (old.take (o + k) ++ bs ++ old.drop (o + k + bs.length)) }
  else if reg = 0x100 then s.doorbell (mergeBytes 0 k bs)
  else if reg = 0x108 then s.mbdoneClear (mergeBytes 0 k bs)
  else if reg = 0x200 then s.setHub { h with mwbase := mergeBytes h.mwbase k bs % 32 }
  else if 0x1000 ≤ reg ∧ reg < 0x1400 then s.rxRegister ((reg - 0x1000) / 32) ((reg - 0x1000) % 32) k bs
  else if 0x10000 ≤ reg ∧ reg < 0x10400 then
    (s.setHub { h with msix := (indexed bs).foldl (fun t e => Tab.put t (reg + k + e.1) e.2) h.msix }).unmasked
  else s

/-- A write cut at register boundaries: register, first byte in it, bytes. -/
def registerParts : Nat → Nat → List Byte → List (Nat × Nat × List Byte)
  | 0, _, _ => []
  | n + 1, off, bs =>
    if bs.isEmpty then []
    else
      let k := 8 - off % 8
      (off - off % 8, off % 8, bs.take k) :: registerParts n (off + k) (bs.drop k)

/-- REGISTER_WRITE: a host write to BAR0, register by register in ascending offset (01 R7). -/
def execRegisterWrite (off : Nat) (bytes : List Byte) (s : State) : Out1 :=
  if 2 ^ 20 < off + bytes.length then s.idle "BAR0 has 1 MiB"
  else .next ((registerParts bytes.length off bytes).foldl (fun s e => s.bar0Write e.1 e.2.1 e.2.2) s)

/-- Byte o of BAR0 as it reads (Table 18-2, 01 R7): unlisted offsets and reserved bits read 0. MBDB has no value to read:
none. -/
def State.bar0Byte (s : State) (o : Nat) : Option Byte :=
  let h := s.hub
  let of (v : Nat) : Option Byte := some (BitVec.ofNat 8 (v / 2 ^ (8 * (o % 8))))
  if o < 0x100 then ((h.cell (o / 64))[o % 64]?).getD 0
  else if o < 0x108 then none
  else if o < 0x110 then of h.mbdone
  else if 0x200 ≤ o ∧ o < 0x208 then of h.mwbase
  else if 0x1000 ≤ o ∧ o < 0x1400 then
    let r := (s.ctx ((o - 0x1000) / 32)).rx
    match o % 32 / 8 with
    | 0 => of r.base.toNat
    | 1 => of r.ctl.toNat
    | 2 => of r.head.toNat
    | _ => of r.tail.toNat
  else if 0x10000 ≤ o ∧ o < 0x10400 then some (h.msixByte (o - 0x10000))
  else if 0x11000 ≤ o ∧ o < 0x11008 then of h.pba
  else some 0

/-- A host read of BAR0 (R305). -/
def State.bar0Read (s : State) (off n : Nat) : Out1 :=
  if n = 0 ∨ 2 ^ 20 < off + n then s.idle "BAR0 has 1 MiB"
  else
    let (x, s) := s.free
    let other := leBytes n x
    .next (s.emit (.hostRead (some ((List.range n).map (fun k => (s.bar0Byte (off + k)).getD (other.getD k 0))))))

/-! The memory window (R307). -/

/-- Accesses of the host that a stopped context's silo holds. -/
def State.hostHeld (s : State) : List MemReq :=
  s.flights.filterMap (fun f =>
    match f.body, f.stage with
    | .req r, .deferred _ _ _ => if r.ans = .host then some r else none
    | _, _ => none)

/-- A window write of the host has not been acknowledged. -/
def State.hostWritePending (s : State) : Bool := s.hostHeld.any (fun r => r.op == .write)

/-- The stopped context whose allotment an address lies in, and the logical core whose silo holds the access, unless a
context that runs has taken the allotment (16 R288). -/
def State.hostDeferral (s : State) (pa : Nat) : Option (Nat × Nat) :=
  let l : List (Nat × CtxSt × Nat) := s.ctxs.filterMap (fun e => (e.2.windowCore pa).map (fun lc => (e.1, e.2.st, lc)))
  let stopped (st : CtxSt) : Bool := st == .saving || st == .saved || st == .restoring
  if l.any (fun e => !stopped e.2.1 && e.2.1 != .free) then none
  else (l.find? (fun e => stopped e.2.1)).map (fun e => (e.1, e.2.2))

/-- A host access as a request: no region, a physical address. -/
def hostReq (c : Nat) (op : MemOp) (pa n : Nat) (data : List Byte) : MemReq where
  op := op
  ctx := c
  va := pa
  n := n
  data := data
  expect := 0
  src := none
  region := 256
  page := 0
  target := some (.here pa)
  ans := .host
  ring := none
  pfSent := false

/-- An access into the area of the journal buffer, and one into the barn's (20 R332). -/
def Hub.jbufHit (h : Hub) (pa n : Nat) : Bool :=
  match h.jcfg with
  | some (ja, js, _, _) => overlap pa n ja js
  | none => false

def Hub.barnHit (h : Hub) (pa n : Nat) : Bool :=
  match h.barnAt with
  | some (ba, bs) => overlap pa n ba (2 * bs)
  | none => false

/-- An entry whose contents are open: every field of its envelope, and its body (Table 20-3). -/
def State.openEntry (s : State) : BarnEntry × State :=
  let (t, s) := s.free
  let (c, s) := s.free
  let (src, s) := s.free
  let (q, s) := s.free
  let (n, s) := s.free
  let (len, s) := s.free
  let (b, s) := s.free
  (⟨t % 256, c % 256, src % 65536, BitVec.ofNat 32 q, BitVec.ofNat 32 n, leBytes (len % 65536) b⟩, s)

/-- Maps a list, with the state handed on. -/
def mapState {α β : Type} (f : State → α → β × State) : State → List α → List β × State
  | s, [] => ([], s)
  | s, x :: t =>
    let (y, s) := f s x
    let (l, s) := mapState f s t
    (y :: l, s)

/-- A list of open things, of an open length of at most `most`. -/
def State.openList {α : Type} (s : State) (f : State → α × State) (most : Nat) : List α × State :=
  let (n, s) := s.free
  mapState (fun s _ => f s) s (List.range (n % (most + 1)))

/-- State of a sequence that is open, in the sense of R334. -/
def openSt : Nat → SeqSt
  | 0 => .live
  | 1 => .replaying
  | 2 => .diverged
  | _ => .closed

/-- A sequence whose records, acknowledgements and replay are open. -/
def State.openSeq (s : State) (most : Nat) (q : JSeq) : JSeq × State :=
  let (t, s) := s.free
  let (a, s) := s.free
  let (b, s) := s.free
  let (k, s) := s.free
  let (u, s) := s.free
  let (l, s) := s.openList (fun s =>
    let (n, s) := s.free
    let (len, s) := s.free
    let (w, s) := s.free
    ((BitVec.ofNat 32 n, leBytes (len % 65536) w), s)) most
  let opt (n : Nat) : Option (BitVec 32) := if n % 2 = 0 then none else some (BitVec.ofNat 32 (n / 2))
  ({ q with
    st := openSt (t % 4), last := opt a, acked := opt b, marker := opt k, cursor := BitVec.ofNat 32 u, replay := l }, s)

/-- Every journal entry of this chip becomes open, and how many there are, with the records, acknowledgements and replays of its
sequences. -/
def State.openJournal (s : State) : State :=
  let most := ((s.hub.jcfg.map (fun j => j.2.1)).getD 0) / 16
  let (jb, s) := s.openList (fun s =>
    let (x, s) := s.openEntry
    let (n, s) := s.free
    ((x, n % 2 == 0), s)) most
  let (sq, s) := mapState (fun s q => s.openSeq most q) s s.hub.seqs
  s.setHub { s.hub with jbuf := jb, seqs := sq }

/-- Every barn entry that this chip holds becomes open, and how many there are. -/
def State.openBarn (s : State) : State :=
  let most := ((s.hub.barnAt.map Prod.snd).getD 0) / 16
  let (bn, s) := mapState (fun s (e : Nat × BarnSlot) =>
    let (l, s) := s.openList State.openEntry most
    ((e.1, { e.2 with entries := l }), s)) s s.hub.barn
  s.setHub { s.hub with barn := bn }

/-- A host write leaves open what the areas that it reaches hold. -/
def State.openHit (s : State) (pa n : Nat) : State :=
  let s := if s.hub.jbufHit pa n then s.openJournal else s
  if s.hub.barnHit pa n then s.openBarn else s

/-- One part of a host access, within a 64-byte block: applied at its owner, deferred, or at a hole. -/
def State.hostPart (s : State) (op : MemOp) (pa n : Nat) (data : List Byte) : State :=
  let f (c : Nat) : Flight :=
    { mkFlight { Who.zero with ctx := c } 0 false (.req (hostReq c op pa n data)) .owner (cornerXY 0) (ownerXY pa) with
      stage := .router (ownerXY pa).1 (ownerXY pa).2 false }
  match place pa with
  | .hole => s.hostAnswer (.rep (hostReq 0 op pa n data) 2 [])
  | _ =>
    match s.hostDeferral pa with
    | some (c, lc) =>
      let (fid, s) := s.launchFlight (f c)
      s.defer { f c with id := fid } lc
    | none =>
      if op = .read && (s.hub.jbufHit pa n || s.hub.barnHit pa n) then
        -- whatever bytes the hub has written there: their layout is not defined (R332)
        let (x, s) := s.free
        s.hostAnswer (.rep (hostReq 0 op pa n data) 0 (leBytes n x))
      else
        let s := s.applyReq (f 0) (hostReq 0 op pa n data) pa
        if op = .write then s.openHit pa n else s

/-- The parts of an access, split at a 64-byte boundary: address and length. -/
def hostParts (pa n : Nat) : List (Nat × Nat) :=
  let k := 64 - pa % 64
  if n ≤ k then [(pa, n)] else [(pa, k), (pa + k, n - k)]

/-- Physical address of a window offset. -/
def Hub.windowPa (h : Hub) (off : Nat) : Nat := h.mwbase * 2 ^ 36 + off

/-- The owners of an access's parts have applied what came to them in earlier cycles: it takes its place behind that (12 R240). -/
def State.hostClear (s : State) (pa n : Nat) : Bool := (hostParts pa n).all (fun e => s.ownerClear e.1)

/-- HOST_WINDOW_READ: a read of 1 to 64 bytes, after every earlier window write has been acknowledged. -/
def execHostWindowRead (off n : Nat) (s : State) : Out1 :=
  if n = 0 ∨ 64 < n ∨ 2 ^ 36 < off + n then s.idle "an access has 1 to 64 bytes in the window"
  else if s.hostWritePending then s.idle "an earlier window write is not acknowledged"
  else if !s.hostClear (s.hub.windowPa off) n then s.idle "an earlier access waits at the owner"
  else .next ((hostParts (s.hub.windowPa off) n).foldl (fun s e => s.hostPart .read e.1 e.2 []) s)

/-- HOST_WINDOW_WRITE: a write of 1 to 64 bytes. -/
def execHostWindowWrite (off : Nat) (bytes : List Byte) (s : State) : Out1 :=
  let n := bytes.length
  if n = 0 ∨ 64 < n ∨ 2 ^ 36 < off + n then s.idle "an access has 1 to 64 bytes in the window"
  else if !s.hostClear (s.hub.windowPa off) n then s.idle "an earlier access waits at the owner"
  else
    let pa := s.hub.windowPa off
    .next ((hostParts pa n).foldl (fun s e => s.hostPart .write e.1 e.2 (sliceBytes bytes (e.1 - pa) e.2)) s)

/-! Injection (16 R286). -/

/-- The 512 bytes of a cell. -/
def Hub.injectCell (h : Hub) (c cell : Nat) : List Byte := Tab.get (List.replicate 512 0) h.cells (256 * c + cell)

/-- A cell holds the write of m0 of a context that is LAUNCHING, and accepts no further write. -/
def Ctx.cellHeld (x : Ctx) (cell : Nat) : Bool := x.injects.any (fun e => e.1 == cell)

/-- The write of m0 injects the message whose bytes the cell holds; a context that is LAUNCHING holds the write. -/
def State.injectFrom (s : State) (c cell : Nat) : State :=
  let x := s.ctx c
  let bytes := s.hub.injectCell c cell
  match x.st with
  | .free | .ending => s.holeCount
  | .launching => s.setCtx c { x with injects := x.injects ++ [(cell, bytes)] }
  | _ => s.inject c bytes

/-- A write within one cell, from its byte `o` on: bytes 320 on are ignored, and one that covers the 8 bytes of m0
injects. -/
def State.cellWrite (s : State) (c cell o : Nat) (bytes : List Byte) : State :=
  let h := s.hub
  let old := h.injectCell c cell
  let bs := bytes.take (320 - o)
  let s := s.setHub { h with cells := h.cells.put (256 * c + cell) (old.take o ++ bs ++ old.drop (o + bs.length)) }
  if o = 0 ∧ 8 ≤ bytes.length then s.injectFrom c cell else s

/-- A host write to BAR2 within one 64-byte block (18 Table 18-1). -/
def State.bar2Write (s : State) (off : Nat) (bytes : List Byte) : Out1 :=
  let c := off / 131072
  let cell := off / 512 % 256
  let o := off % 512
  if bytes.isEmpty ∨ 32 ≤ c ∨ 64 < off % 64 + bytes.length then s.idle "one block of one cell"
  else if (s.ctx c).cellHeld cell then s.idle "the cell's message has not entered the fabric"
  else if (o = 0 ∧ 8 ≤ bytes.length) ∧ s.hostWritePending then s.idle "an earlier window write is not acknowledged"
  else .next (s.cellWrite c cell o bytes)

/-- A host read of BAR2: the spec gives an injection cell no value to read. -/
def State.bar2Read (s : State) (off n : Nat) : Out1 :=
  if n = 0 ∨ 2 ^ 22 < off + n then s.idle "BAR2 has 4 MiB"
  else
    let (x, s) := s.free
    .next (s.emit (.hostRead (some (leBytes n x))))

/-- HOST_INJECT: the host writes a whole cell, its m0 last. -/
def execHostInject (c cell : Nat) (bytes : List Byte) (s : State) : Out1 :=
  if 32 ≤ c ∨ 256 ≤ cell then s.idle "there are 256 cells for each of 32 contexts"
  else if s.hostWritePending then s.idle "an earlier window write is not acknowledged"
  else if (s.ctx c).cellHeld cell then s.idle "the cell's message has not entered the fabric"
  else
    let h := s.hub
    .next ((s.setHub { h with cells := h.cells.put (256 * c + cell) (padTo 512 bytes) }).injectFrom c cell)

end Sys2Proof.Machine
end

