-- ==== Sys2Proof/Machine/Health.lean ====
section
/-! DEFINITION. Soft errors, failed quads, resets, power and cooling, counters and the logic matrix (21 R352 to R362; 22
R363, R366, R367). -/

namespace Sys2Proof.Machine

open Sys2Proof

/-! Soft errors (R352 to R354) and failed quads (R356). -/

/-- A structure's number in DET (Table 21-4). -/
def structNum : Structure21 → Nat
  | .registers => 1 | .scratchpad => 2 | .accumulator => 3 | .weightBuffer => 4 | .queueSram => 5 | .cache => 6
  | .hbm => 7 | .spring => 8 | .flits => 9 | .frames => 10 | .silo => 11

/-- The spare that is enabled for a die's failed position: its lowest that has not failed. -/
def State.spareOf (s : State) (d : Nat) : Option Nat :=
  ((List.range 64).map (64 * d + ·)).find? (fun q => (s.quad q).spare && !(s.quad q).failed)

/-- A position fails: it is marked, its contexts take quad-failed, and a spare is enabled or ACT falls (R356). -/
def State.failQuad (s : State) (q : Nat) : State :=
  let x := s.quad q
  let wasActive := x.active
  let d := dieOfQuad q
  let s := s.setQuad q { x with failed := true, spare := false }
  let s := (List.range Config.nCtx).foldl (fun s c =>
    let k := s.ctx c
    if k.st != .free && k.inQuad q then
      s.fatal .hub c fQuad { lcore := 1023, unit := 10, det := q }
    else s) s
  if !wasActive then s
  else
    match s.spareOf d with
    | some p => s.setQuad p { s.quad p with spare := false }
    | none =>
      let h := s.hub.health
      let n := Tab.get 0 h.act d - 1
      let s := s.setHealth { h with act := h.act.put d n }
      if n < 60 then s.setReplace 0 else s

/-- QUAD_FAIL: a unit of a quad reports an error in its own logic (R356). -/
def execQuadFail (q : Nat) (s : State) : Out1 :=
  if 256 ≤ q || (s.quad q).failed then s.idle "no working quad stands there" else .next (s.failQuad q)

/-- An uncorrectable error in an SRAM of a quad; the fourth in 24 hours fails it (R356). -/
def State.quadError (s : State) (q : Nat) : State :=
  let s := s.noteErr 1 q
  if 4 ≤ s.hub.recentErrs s.clock 1 q && !(s.quad q).failed then s.failQuad q else s

/-- The entries of a quad's weight buffer that hold a granule are poisoned until they are reloaded (Table 21-4); of one that is
being loaded, the blocks that are not yet written anew stay so. -/
def State.poisonEntries (s : State) (q granule : Nat) : State :=
  let x := s.quad q
  s.setQuad q { x with wbe := x.wbe.map (fun e =>
    (e.1, if e.2.gran.contains granule && e.2.st != .loading then { e.2 with poisoned := true } else e.2)) }

/-- A block is poisoned; the sixteenth block of a stack that comes to be so in 24 hours is a cause of REPLACE (R353,
Table 21-6). -/
def State.poisonBlock (s : State) (pa : Nat) : State :=
  let b := pa / 64
  let known := s.poison.contains b
  let s : State := if known then s else { s with poison := b :: s.poison }
  match place pa with
  | .hbm st =>
    if known then s
    else
      let s := s.noteErr 2 st
      if 16 ≤ s.hub.recentErrs s.clock 2 st && bitsOf s.hub.health.rwhy 2 2 == 0 then s.setReplace 2 else s
  | .scratch p _ => s.quadError (quadOf p)
  | .accum q _ => s.quadError q
  | .wbuf q off => (s.poisonEntries q (off / 4096)).quadError q
  | .hole => s

/-- Marks the spring copies that a scrub finds bad (09 R201). -/
def State.markCopy (s : State) : Finding → State
  | .springCopy q c ps a =>
    let x := (s.ctx c).pslot q ps
    if !x.loaded then s
    else s.setPslot c q ps (if a then { x with goodA := false } else { x with goodB := false })
  | _ => s

/-- A block of the silo or the save area of a context counts under structure 11 (R355). -/
def State.ownedBlock (s : State) (pa : Nat) : Bool :=
  s.ctxs.any (fun e => e.2.st != .free && e.2.ownsArea pa)

/-- A result still to come replaces what a register holds. -/
def Inst.replaced (i : Inst) : RegName → Bool
  | .g r => i.pend.any (fun e => e.live && e.dst.clashes (.g r)) || i.vpend.any (fun v => v.glive && (v.gw.map Prod.fst) == some r)
  | .v r => i.pend.any (fun e => e.live && e.dst.clashes (.v r)) || i.vpend.any (fun v => v.vw.any (fun w => w.1 == r))
  | .k r => i.vpend.any (fun v => (v.kw.map Prod.fst) == some r)
  | .m _ => false
  | .d r => i.pend.any (fun e => e.live && e.dst.clashes (.d r))

/-- A register's word is bad until it is written or read. -/
def Inst.markBad (i : Inst) (r : RegName) : Inst :=
  if i.replaced r || i.bad.contains r then i else { i with bad := r :: i.bad }

/-- An uncorrectable error in a context's own structures is marked; it is counted when it is first found. -/
def State.markOwned (s : State) (die st at_ c : Nat) (quad : Option Nat) : State :=
  let x := s.ctx c
  if x.st == .free || x.marks.contains (st, at_) then s
  else
    let s := (s.softError die st true).setCtx c { x with marks := (st, at_) :: x.marks }
    match quad with
    | some q => s.quadError q
    | none => s

/-- What a scrub finds, one finding at a time: it corrects, counts, poisons and marks, and raises no fault (Table 21-4,
R354). -/
def State.finding (s : State) : Finding → State
  | .corrected die st => s.softError die (structNum st) false
  | .block die st pa => (s.softError die (if s.ownedBlock pa then 11 else structNum st) true).poisonBlock pa
  | .register p sl r =>
    let s := (s.softError (dieOf p) 1 true).quadError (quadOf p)
    match s.inst? p sl with
    | some i => s.setInst p sl (some (i.markBad r))
    | none => s
  | .queue q c => s.markOwned (dieOfQuad q) 5 q c (some q)
  | .silo die c => if (s.ctx c).areaOn die then s.markOwned die 11 die c none else s
  | .springWork q => ((s.softError (dieOfQuad q) 8 true).setQuad q { s.quad q with springBad := true }).quadError q
  | .flit _ => s
  | .entry q e =>
    let s := (s.softError (dieOfQuad q) 4 true).quadError q
    let x := s.quad q
    match x.wbe.get? e with
    | some w => s.setQuad q { x with wbe := x.wbe.put e { w with poisoned := true } }
    | none => s
  | .springCopy q c ps _ =>
    let (s, corrupt) := s.checkSlot c q ps
    if corrupt then (s.softError (dieOfQuad q) 8 true).quadError q else s

/-- A finding of a scrub names a structure and a place that the module has: a block's die is the one that holds it, and
the hub, die 4, holds frames alone (R355). A flit is no storage. -/
def Finding.place? : Finding → Bool
  | .corrected die st => decide (die < 4) || (die == 4 && st == .frames)
  | .block die st pa =>
    match st, place pa with
      | .scratchpad, .scratch p _ => die == dieOf p
      | .accumulator, .accum q _ | .weightBuffer, .wbuf q _ => die == dieOfQuad q
      | .cache, .hbm k | .hbm, .hbm k => die == k / 4
      | _, _ => false
  | .register p sl _ => decide (p < 1024) && decide (sl < 8)
  | .queue q c => decide (q < 256) && decide (c < 32)
  | .silo die c => decide (die < 4) && decide (c < 32)
  | .entry q e => decide (q < 256) && decide (e < 64)
  | .springCopy q c ps _ => decide (q < 256) && decide (c < 32) && decide (ps < 16)
  | .springWork q => decide (q < 256)
  | .flit _ => false

/-- PATROL_SCRUB: what a pass of the scrub finds (R354). -/
def execPatrolScrub (found : List Finding) (s : State) : Out1 :=
  if !found.all Finding.place? then s.idle "no such structure"
  else .next (found.foldl (fun s f => s.finding f) (found.foldl (fun s f => s.markCopy f) s))

/-- The message of a bad flit is lost: a record is made for the arrival, and its sender hears that it has been delivered
(Table 21-4: E; log 48). -/
def State.loseMessage (s : State) (f : Flight) (m : Msg) (t : Track) (src : Nat × Nat) : State :=
  let c := m.hdr.ctx.toNat
  let s := (s.dropFlight f.id).record (.core f.who.p 0) c fUncorr false false (recOf f.who true 0 9)
  if t.told then
    (s.launchFlight (mkFlight f.who f.opId true (.ack t 0 0 m.hdr.midx.toNat f.opId m.hdr.dchip.toNat m.hdr.dcore.toNat)
      (.core f.who.p) src (xyOfCore f.who.p))).2
  else s

/-- The record of a flit's error, against the access that the flit carried. -/
def State.flitRecord (s : State) (f : Flight) : State :=
  match (s.ctx f.ctx).st with
  | .free => s
  | _ => s.record (.core f.who.p 0) f.ctx fUncorr false f.who.fromFault (recOf f.who (s.ended f.who) 0 9)

/-- A hub request whose flit failed is not applied: it is answered with a free gD. -/
def State.loseHubReq (s : State) (f : Flight) (j : JReq) : State :=
  let (v, s) := s.freeWord
  s.hubAnswers f (match j with
    | .jemit _ _ _ d => .lost v d
    | _ => .done v none)

/-- A flit of a flight fails beyond correction (Table 21-4, structure 9): the access that it carried is answered with the
error and a free value, a message and an insertion are lost, and a record is made (log 48). A unit that only passes through
this chip is another's access. -/
def State.flitError (s : State) (f : Flight) : State :=
  match f.stage with
  | .router x y _ | .lane x y _ _ _ =>
    let s := s.softError (dieAt x y) 9 true
    match f.body with
    | .req r => (s.dropFlight f.id).memReply f r (x, y) 25 (leBytes 8 0)
    | .rep r _ _ => s.setFlight { f with body := .rep r (r.status 25) (leBytes 8 0) }
    | .msg m t => s.loseMessage f m t (x, y)
    | .transit _ _ _ _ => s
    | .ringRep r _ cur _ =>
      let (v, s) := s.freeWord
      let (n, s) := s.free
      (s.flitRecord f).setFlight { f with body := .ringRep r v (cur.map (fun _ => n % 16384)) none }
    | .ringWake lcore rec _ _ =>
      let (v, s) := s.freeWord
      let (n, s) := s.free
      (s.flitRecord f).setFlight { f with body := .ringWake lcore rec v (n % 16384) }
    | .hubReq j => (s.flitRecord f).loseHubReq f j
    | .hubRep (.done _ _) =>
      let (v, s) := s.freeWord
      (s.flitRecord f).setFlight { f with body := .hubRep (.done v none) }
    | .cntrd _ _ =>
      let (v, s) := s.freeWord
      ((s.flitRecord f).dropFlight f.id).fill f.id v.toNat
    | .wput _ _ _ _ _ => (s.flitRecord f).dropFlight f.id
    | .barrier a => ((s.flitRecord f).dropFlight f.id).answerArrival f a 0
    | .pf _ | .ack _ _ _ _ _ _ _ | .hubRep _ => s.flitRecord f
  | _ => s

/-- An access meets an uncorrectable error (R352): what a scrub would have marked is marked and, where the structure belongs
to a context, its fault is raised (F). A register's fault is raised by the word that reads it. -/
def State.meet (s : State) (f : Finding) : Out1 :=
  match f with
  | .flit id =>
    match s.flight? id with
    | some f => .next (s.flitError f)
    | none => s.idle "no such flight"
  | .queue q c =>
    if !Finding.place? f || (s.ctx c).st == .free then s.idle "no such structure"
    else .next ((s.finding f).fatal (.core (4 * q) 11) c fUncorr { lcore := 1023, unit := 11, uidx := dieOfQuad q, det := 5 })
  | .silo die c =>
    if !Finding.place? f || (s.ctx c).st == .free || !(s.ctx c).areaOn die then s.idle "no such structure"
    else .next ((s.finding f).fatal (.die die 11 0) c fUncorr { lcore := 1023, unit := 11, uidx := die, det := 11 })
  | _ => execPatrolScrub [f] s

/-- MEMORY_PORT_FAIL is a cause of REPLACE (R357, Table 21-6). -/
def execMemoryPortFail (die port : Nat) (s : State) : Out1 :=
  if 4 ≤ die ∨ 16 ≤ port then s.idle "no such port" else .next (s.setReplace 2)

/-! Counters (22 R363). -/

/-- COUNTER_FORWARD: a die forwards its pending increments, of every context, to the hub. -/
def execCounterForward (die : Nat) (s : State) : Out1 :=
  if 4 ≤ die then s.idle "there are four dies"
  else .next ((List.range Config.nCtx).foldl (fun s c => s.forwardCtx die c) s)

/-! Power, cooling and reset (21 R359 to R362). -/

/-- THERMAL_THROTTLE: the hub withholds array steps and vector issue, or stops to; only timing changes (R362). -/
def execThermalThrottle (die : Nat) (on : Bool) (s : State) : Out1 :=
  if 4 ≤ die then s.idle "there are four dies" else .next (s.setDie die { s.die die with throttle := on })

/-- What a reset keeps of a context: its signed final statement, held until the next launch (00 R2, 22 R372). -/
def Ctx.afterReset (x : Ctx) : Ctx := { Ctx.reset with finalStmt := x.finalStmt }

/-- What a reset leaves (R360): HBM4, the health record and its errors, failed and enabled positions, the barn, the
statement number and the final statements. Every port is down from now on. A link at half rate stays so (log 26). The
schedule, the clock and the model's counters go on. -/
def State.afterReset (s : State) (p : Power) : State :=
  { State.reset with
    agenda := s.agenda
    clock := s.clock
    freeCtr := s.freeCtr
    nextId := s.nextId
    mem := s.mem.filter (fun c => decide (c.1 < hbmBytes))
    poison := s.poison.filter (fun b => decide (64 * b < hbmBytes))
    quads := s.quads.map (fun e => (e.1, { Quad.init e.1 with failed := e.2.failed, spare := e.2.spare }))
    links := s.links.map (fun e => (e.1, { Link.reset with half := e.2.half }))
    ports := (List.range 14).map (fun k => (k, { Port.reset with downAt := s.clock }))
    ctxs := s.ctxs.map (fun e => (e.1, e.2.afterReset))
    hub := { Hub.reset with
      health := s.hub.health
      barnAt := s.hub.barnAt
      barn := s.hub.barn
      ssSeq := s.hub.ssSeq
      errs := s.hub.errs }
    outbox := s.outbox
    power := p }

/-- Bring-up after a reset (R359): a firmware that fails its check never runs, so that the endpoint reports no function;
else the positions that fail the self-test are marked and the spares enabled (R356), and the endpoint is ready. -/
def State.bringUp (s : State) (signed : Bool) (failed : List Nat) : Out1 :=
  if s.power ≠ .booting then s.idle "no reset awaits its bring-up"
  else if signed then
    .next (failed.foldl (fun s q => if 256 ≤ q || (s.quad q).failed then s else s.failQuad q) { s with power := .on })
  else .next { s with power := .noFunction }

/-- POWER_ON: a module without power is reset, and its bring-up follows (R359). -/
def execPowerOn (s : State) : Out1 :=
  if s.power = .off then .next (s.afterReset .booting) else s.idle "the module has power"

/-- A reset of a module that has power. -/
def State.warmReset (s : State) : Out1 :=
  if s.power = .off then s.idle "the module has no power" else .next (s.afterReset .booting)

/-- HOT_RESET (R359). -/
def execHotReset (s : State) : Out1 := s.warmReset

/-- FUNCTION_LEVEL_RESET (R359). -/
def execFunctionLevelReset (s : State) : Out1 := s.warmReset

/-- POWER_LOSS: the module stops; what a reset keeps stays. -/
def execPowerLoss (s : State) : Out1 :=
  if s.power = .off then s.idle "the module has no power" else .next (s.afterReset .off)

/-- THERMAL_TRIP: REPLACE is set, and the module stops as at a loss of power (R362). -/
def execThermalTrip (s : State) : Out1 :=
  if s.power = .off then s.idle "the module has no power" else .next ((s.setReplace 5).afterReset .off)

/-! The logic matrix (22 R366, R367). -/

/-- Register n of a die's matrix. -/
def Die.lmReg (d : Die) (n : Nat) : Nat := (Tab.get 0 d.lm n).toNat

/-- The raw signals 1 to 9 that are true on a die in this cycle, with the position within the die that each names (Table
22-3): what its arrays, cores, dispatchers and springs raised, requests that wait at a memory port, VN0 outputs that hold
what they could not send, and slices that walk. -/
def State.rawSignals (s : State) (die : Nat) : List (Nat × Nat) :=
  (s.signals.filter (fun e => e.2.2 == s.clock && dieOfQuad e.2.1 == die)).map (fun e => (e.1, e.2.1 % 64))
    ++ s.flights.filterMap (fun f =>
      match f.goal, f.stage, f.body with
      | .slice d k, .sliceWalk _ _ _, _ => if d = die then some (9, k) else none
      | _, .lane x y _ _ _, _ => if dieAt x y = die ∧ f.cyc < s.clock then some (7, quadAt x y % 64) else none
      | .owner, .router _ _ _, .req r =>
        match r.target with
        | some (.here pa) =>
          if f.arrived && decide (pa < hbmBytes) && (hbmPort pa).1 == die then some (5, (hbmPort pa).2) else none
        | _ => none
      | _, _, _ => none)

/-- A raw signal in a cycle (Table 22-3), given those of 1 to 9 that are true. -/
def Die.rawSignal (d : Die) (on : List (Nat × Nat)) (sig pos : Nat) : Bool :=
  if sig = 0 then true
  else if sig = 10 then d.throttle
  else on.contains (sig, pos)

/-- Output of selector n. -/
def Die.selector (d : Die) (sample : List (Nat × Nat)) (n : Nat) : Bool :=
  let w := d.lmReg n
  bitsOf w 15 15 == 1 && (d.rawSignal sample (bitsOf w 13 8) (bitsOf w 5 0) != (bitsOf w 14 14 == 1))

/-- The AND of a term's selectors, and how many of them are true. -/
def Die.termAnd (d : Die) (sample : List (Nat × Nat)) (t : Nat) : Bool × Nat :=
  let w := d.lmReg (16 + t)
  let on := (List.range 16).filter (fun n => bitsOf w (16 + n) (16 + n) == 1)
  (on.all (d.selector sample), (on.filter (d.selector sample)).length)

/-- A term's value; `open3` stands for the reserved MODE 3 (log 3). -/
def Die.term (d : Die) (sample : List (Nat × Nat)) (open3 : Bool) (t : Nat) : Bool :=
  let w := d.lmReg (16 + t)
  let (a, n) := d.termAnd sample t
  match bitsOf w 15 14 with
  | 0 => a
  | 1 => a && !Tab.get false d.lmLast t
  | 2 => decide (bitsOf w 4 0 ≤ n)
  | _ => open3

/-- The bin of a run of `n` cycles (R367). -/
def Die.bin (d : Die) (n : Nat) : Nat := ((List.range 15).find? (fun b => decide (n ≤ d.lmReg (21 + b)))).getD 15

/-- A count register rises, to the end of its width. -/
def Die.bump (d : Die) (n width : Nat) : Die :=
  { d with lm := d.lm.put n (word64 (min (d.lmReg n + 1) (2 ^ width - 1))) }

/-- One cycle of a die's matrix, given its term values. -/
def Die.matrixCycle (d : Die) (sample : List (Nat × Nat)) (open3 : Bool) : Die :=
  let v (t : Nat) : Bool := d.term sample open3 t
  let last : Tab Bool := (List.range 4).map (fun t => (t, (d.termAnd sample t).1))
  let d' := (List.range 4).foldl (fun (x : Die) t => if v t then x.bump (36 + t) 64 else x) d
  let h := d.lmReg 20
  let d' :=
    if bitsOf h 2 2 = 0 then d'
    else if v (bitsOf h 1 0) then { d' with lmRun := d'.lmRun + 1 }
    else if d'.lmRun = 0 then d'
    else { d'.bump (40 + d.bin d.lmRun) 32 with lmRun := 0 }
  { d' with lmLast := last }

/-- LOGIC_MATRIX_CYCLE: a die's matrix takes in the cycle. The memory-side cache is no state of the model: the outside says
at which ports it misses, signal 6 (log 39). -/
def execLogicMatrixCycle (die : Nat) (sample : List (Nat × Nat)) (s : State) : Out1 :=
  if 4 ≤ die then s.idle "there are four dies"
  else
    let (n, s) := s.free
    let on := s.rawSignals die ++ sample.filter (fun e => e.1 == 6 && decide (e.2 < 16))
    .next (s.setDie die ((s.die die).matrixCycle on (n % 2 == 0)))

end Sys2Proof.Machine
end

