-- ==== Sys2Proof/Machine/Digest.lean ====
section
/-! DEFINITION. SHAKE256, the digest that the spec names (22 R372, Table 22-4). The spec does not define the function:
it is the one of FIPS 202 (PRESUMED, log 9). -/

namespace Sys2Proof.Machine

open Sys2Proof

/-- The round constants of Keccak-f[1600]. -/
def keccakRounds : List (BitVec 64) :=
  [0x0000000000000001#64, 0x0000000000008082#64, 0x800000000000808A#64, 0x8000000080008000#64,
   0x000000000000808B#64, 0x0000000080000001#64, 0x8000000080008081#64, 0x8000000000008009#64,
   0x000000000000008A#64, 0x0000000000000088#64, 0x0000000080008009#64, 0x000000008000000A#64,
   0x000000008000808B#64, 0x800000000000008B#64, 0x8000000000008089#64, 0x8000000000008003#64,
   0x8000000000008002#64, 0x8000000000000080#64, 0x000000000000800A#64, 0x800000008000000A#64,
   0x8000000080008081#64, 0x8000000000008080#64, 0x0000000080000001#64, 0x8000000080008008#64]

/-- How far the lane `x + 5y` turns. -/
def keccakTurns : List Nat :=
  [0, 1, 62, 28, 27, 36, 44, 6, 55, 20, 3, 10, 43, 25, 39, 41, 45, 15, 21, 8, 18, 2, 61, 56, 14]

/-- A lane of the state. -/
def lane (a : List (BitVec 64)) (i : Nat) : BitVec 64 := a.getD i 0

/-- One round: the columns' parities, the turned and moved lanes, the rows, and the constant. -/
def keccakRound (a : List (BitVec 64)) (rc : BitVec 64) : List (BitVec 64) :=
  let c := (List.range 5).map (fun x =>
    lane a x ^^^ lane a (x + 5) ^^^ lane a (x + 10) ^^^ lane a (x + 15) ^^^ lane a (x + 20))
  let d := (List.range 5).map (fun x => lane c ((x + 4) % 5) ^^^ (lane c ((x + 1) % 5)).rotateLeft 1)
  let b := (List.range 25).map (fun j =>
    let i := (j % 5 + 3 * (j / 5)) % 5 + 5 * (j % 5)
    (lane a i ^^^ lane d (i % 5)).rotateLeft (keccakTurns.getD i 0))
  let e := (List.range 25).map (fun j =>
    let y := 5 * (j / 5)
    lane b j ^^^ (~~~ lane b (y + (j + 1) % 5) &&& lane b (y + (j + 2) % 5)))
  e.set 0 (lane e 0 ^^^ rc)

/-- Keccak-f[1600]. -/
def keccakF (a : List (BitVec 64)) : List (BitVec 64) := keccakRounds.foldl keccakRound a

/-- The lane that eight bytes make, the first the least significant. -/
def laneOf : List Byte → BitVec 64
  | [] => 0
  | b :: t => b.setWidth 64 ||| (laneOf t) <<< 8

/-- Bytes of a lane. -/
def laneBytes (x : BitVec 64) : List Byte := (List.range 8).map (fun i => x.extractLsb' (8 * i) 8)

/-- Bytes of a block taken into the first 17 lanes. -/
def keccakTake (a : List (BitVec 64)) (block : List Byte) : List (BitVec 64) :=
  keccakF ((List.range 25).map (fun i =>
    if i < 17 then lane a i ^^^ laneOf ((block.drop (8 * i)).take 8) else lane a i))

/-- Blocks of 136 bytes, the last one padded; at most `fuel` of them. -/
def absorb : Nat → List (BitVec 64) → List Byte → List (BitVec 64)
  | 0, a, _ => a
  | fuel + 1, a, bs =>
    if bs.length < 136 then
      let n := bs.length
      let last := bs ++ (if n = 135 then [0x9F#8] else 0x1F#8 :: List.replicate (134 - n) 0 ++ [0x80#8])
      keccakTake a last
    else absorb fuel (keccakTake a (bs.take 136)) (bs.drop 136)

/-- Output in blocks of 136 bytes. -/
def squeeze : Nat → List (BitVec 64) → List Byte
  | 0, _ => []
  | fuel + 1, a => (a.take 17).flatMap laneBytes ++ squeeze fuel (keccakF a)

/-- SHAKE256 of bytes, `n` bytes of output. -/
def shake256 (bs : List Byte) (n : Nat) : List Byte :=
  (squeeze (n / 136 + 1) (absorb (bs.length / 136 + 1) (List.replicate 25 0) bs)).take n

end Sys2Proof.Machine
end

