-- ==== Sys2Proof/Machine/Signature.lean ====
section
/-! DEFINITION. Verification of an SLH-DSA-SHAKE-256s signature in pure form with an empty context string, which the spec names
(23 R375) and does not define: it is that of FIPS 205 (PRESUMED, log 9). Sizes: n = 32, h = 64, d = 8, a = 14, k = 22, w = 16, 67
chains. -/

namespace Sys2Proof.Machine

open Sys2Proof

/-- A number in `n` bytes, the most significant first. -/
def beBytes (n v : Nat) : List Byte := (List.range n).map (fun i => BitVec.ofNat 8 (v / 2 ^ (8 * (n - 1 - i))))

/-- The number that bytes make, the most significant first. -/
def ofBe (bs : List Byte) : Nat := bs.foldl (fun n b => 256 * n + b.toNat) 0

/-- The first `out` groups of `b` bits of bytes. -/
def bitGroups (bs : List Byte) (b out : Nat) : List Nat :=
  let v := ofBe bs
  (List.range out).map (fun j => v / 2 ^ (8 * bs.length - b * (j + 1)) % 2 ^ b)

/-- The `i`th block of 32 bytes. -/
def slhBlock (bs : List Byte) (i : Nat) : List Byte := (bs.drop (32 * i)).take 32

/-- Blocks `i` to `i + n - 1`. -/
def slhBlocks (bs : List Byte) (i n : Nat) : List Byte := (bs.drop (32 * i)).take (32 * n)

/-- The address of a hash: layer, tree, what it is (0 a chain, 1 a chains' key, 2 a tree, 3 a FORS tree, 4 the FORS roots), key
pair, chain or height, and step or index. -/
def slhAddr (layer tree kind pair p q : Nat) : List Byte :=
  beBytes 4 layer ++ beBytes 12 tree ++ beBytes 4 kind ++ beBytes 4 pair ++ beBytes 4 p ++ beBytes 4 q

/-- The hash of bytes under a key's seed, at an address. -/
def slhHash (seed addr bs : List Byte) : List Byte := shake256 (seed ++ addr ++ bs) 32

/-- The root over a leaf: `auth` is its path's `h` blocks, `idx` its place under the root, `base` the first leaf's index. -/
def slhRoot (seed : List Byte) (addr : Nat → Nat → List Byte) (idx base : Nat) (auth : List Byte) : Nat → List Byte → List Byte
  | 0, leaf => leaf
  | h + 1, leaf =>
    let node := slhRoot seed addr idx base auth h leaf
    let a := addr (h + 1) ((base + idx) / 2 ^ (h + 1))
    let sib := slhBlock auth h
    slhHash seed a (if idx / 2 ^ h % 2 = 0 then node ++ sib else sib ++ node)

/-- `n` steps of a chain, from step `i`. -/
def slhChain (seed : List Byte) (addr : Nat → List Byte) (i : Nat) : Nat → List Byte → List Byte
  | 0, x => x
  | n + 1, x => slhHash seed (addr (i + n)) (slhChain seed addr i n x)

/-- The 67 digits of a block: 64 of it, and three of their checksum. -/
def slhDigits (m : List Byte) : List Nat :=
  let d := bitGroups m 4 64
  d ++ bitGroups (beBytes 2 ((d.map (fun x => 15 - x)).sum * 16)) 4 3

/-- The key that a one-time signature of a block gives. -/
def slhOneTime (seed : List Byte) (layer tree pair : Nat) (sig m : List Byte) : List Byte :=
  let ends := (List.range 67).flatMap (fun i =>
    let x := (slhDigits m).getD i 0
    slhChain seed (fun j => slhAddr layer tree 0 pair i j) x (15 - x) (slhBlock sig i))
  slhHash seed (slhAddr layer tree 1 pair 0 0) ends

/-- The root of one tree of the hypertree: 67 blocks of the one-time signature, and 8 of the path. -/
def slhTree (seed : List Byte) (layer tree leaf : Nat) (sig m : List Byte) : List Byte :=
  slhRoot seed (fun h i => slhAddr layer tree 2 0 h i) leaf 0 (slhBlocks sig 67 8) 8
    (slhOneTime seed layer tree leaf (slhBlocks sig 0 67) m)

/-- The roots of the hypertree's trees, upwards from layer 0 over a block. -/
def slhHyper (seed : List Byte) (tree leaf : Nat) (sig : List Byte) : Nat → List Byte → List Byte
  | 0, m => m
  | j + 1, m =>
    let m' := slhHyper seed tree leaf sig j m
    let at' := if j = 0 then leaf else tree / 2 ^ (8 * (j - 1)) % 256
    slhTree seed j (tree / 2 ^ (8 * j)) at' (slhBlocks sig (75 * j) 75) m'

/-- The key that a few-time signature of 22 indexes gives: for each its leaf's secret and 14 blocks of the path. -/
def slhFewTime (seed : List Byte) (tree leaf : Nat) (sig md : List Byte) : List Byte :=
  let roots := (indexed22 (bitGroups md 14 22)).flatMap (fun (i, x) =>
    let addr (h q : Nat) : List Byte := slhAddr 0 tree 3 leaf h q
    let own := slhBlocks sig (15 * i) 15
    slhRoot seed addr x (i * 2 ^ 14) (slhBlocks own 1 14) 14 (slhHash seed (addr 0 (i * 2 ^ 14 + x)) (slhBlock own 0)))
  slhHash seed (slhAddr 0 tree 4 leaf 0 0) roots
where
  /-- Numbered from 0. -/
  indexed22 (l : List Nat) : List (Nat × Nat) := (List.range l.length).zip l

/-- A signature of 29,792 bytes verifies for data under a public key, seed and root of 32 bytes each. -/
def slhVerify (pk data sig : List Byte) : Bool :=
  let seed := slhBlock pk 0
  let root := slhBlock pk 1
  let digest := shake256 (slhBlock sig 0 ++ seed ++ root ++ [0, 0] ++ data) 47
  let md := digest.take 39
  let tree := ofBe ((digest.drop 39).take 7)
  let leaf := ofBe ((digest.drop 46).take 1)
  let few := slhFewTime seed tree leaf (slhBlocks sig 1 330) md
  sig.length == 29792 && slhHyper seed tree leaf (slhBlocks sig 331 600) 8 few == root

end Sys2Proof.Machine
end

