-- ==== Sys2Proof/Machine/Services.lean ====
section
/-! DEFINITION. The other mailbox commands: UNMAP, PROTECT and SETDBG (17 R302, R303; 18 R306), the journal's (20 R328 to
R338), HEALTH, VERIFY and GEOMETRY (21 R355, 23 R375, 18 R381), and those of observation (22 R366 to R373). -/

namespace Sys2Proof.Machine

open Sys2Proof

/-! UNMAP and PROTECT. -/

/-- Address of a page's leaf entry, through the tables that are present. -/
def State.leafWord (s : State) (r : Region) (page : Nat) : Nat → Nat → Option Nat
  | 0, table => some (table + 8 * (page % 512))
  | l + 1, table =>
    match s.walkRead r page (l + 1) table with
    | .next t => s.leafWord r page l t
    | _ => none

/-- Rewrites the leaf entries of a range that have P = 1, in ascending page order (R303 step 1). One in a poisoned block
returns no data and stays (21 R353). -/
def State.rewriteLeaves (s : State) (r : Region) (f : Nat → Nat) : Nat → Nat → State
  | 0, _ => s
  | n + 1, page =>
    let s := match s.leafWord r page (r.levels - 1) r.paddr with
      | some w =>
        let e := s.readLe w 8
        if e / 2 ^ 63 = 1 ∧ (s.poisonAt w 8).isNone then s.ownerWrite w (leBytes 8 (f e)) else s
      | none => s
    s.rewriteLeaves r f n (page + 1)

/-- One invalidation to each of the 256 slices (step 2). -/
def State.invalidateAll (s : State) (e : Nat × Nat × Nat × Nat) : State :=
  (List.range 4).foldl (fun s d =>
    (List.range 64).foldl (fun s k =>
      let x := s.sliceAt d k
      s.setSlice d k { x with inval := x.inval ++ [e] }) s) s

def State.invalPending (s : State) (e : Nat × Nat × Nat × Nat) : Bool :=
  (List.range 4).any (fun d => (s.die d).slices.any (fun k =>
    k.2.inval.contains e || k.2.drops.any (fun x => x.1 == e)))

/-- The range of an UNMAP or PROTECT: region index, region, first page, count; or the reason. -/
def Ctx.pageRange (x : Ctx) (va count : Nat) : Except Nat (Nat × Region × Nat) :=
  match x.regionOf va 1 with
  | none => .error 1
  | some (k, r) =>
    let page := (va - r.vbase) / r.pageSize
    if r.kind % 2 = 1 then .error 1
    else if count = 0 then .error 2
    else if r.pages < page + count then .error 1
    else .ok (k, r, page)

/-- R302 and R303: leaf entries first, then every slice acknowledges, whatever becomes of the context meanwhile. -/
def State.remap (s : State) (cell code : Nat) (f : Nat → Nat) : Out1 :=
  s.onCell cell code (fun c first =>
    let x := s.ctx c
    let va := s.hub.arg cell 0
    let n := s.hub.arg cell 1
    if first then
      match x.st with
      | .running | .saved =>
        match x.pageRange va n with
        | .error r => s.answer cell 3 r 0
        | .ok (k, r, page) => .next (((s.rewriteLeaves r f n page).invalidateAll (c, k, page, n)).underWay cell)
      | .free => s.answer cell 1 0 0
      | _ => s.answer cell 2 0 0
    else
      match x.pageRange va n with
      | .ok (k, _, page) =>
        if s.invalPending (c, k, page, n) then s.idle "a slice has not acknowledged" else s.answer cell 0 0 0
      | .error _ => s.answer cell 0 0 0)

/-- UNMAP clears P. -/
def execUnmap (cell : Nat) (s : State) : Out1 := s.remap cell 0x06 (fun e => e % 2 ^ 63)

/-- PROTECT sets W := w. -/
def execProtect (cell : Nat) (s : State) : Out1 :=
  s.remap cell 0x07 (fun e => e - bitsOf e 62 62 * 2 ^ 62 + s.hub.arg cell 2 % 2 * 2 ^ 62)

/-- SETDBG writes DBGCTL of every slot of the context (R306, 04 Table 04-6). -/
def execSetdbg (cell : Nat) (s : State) : Out1 :=
  s.onCell cell 0x08 (fun c _ =>
    let x := s.ctx c
    match x.st with
    | .free => s.answer cell 1 0 0
    | .running | .saved => (s.setCtx c { x with dbgctl := word64 (s.hub.arg cell 0 % 4) }).answer cell 0 0 0
    | _ => s.answer cell 2 0 0)

/-! The journal's commands (20 Table 20-2). -/

/-- JCONFIG fixes JBUF and the barn (R332). A barn that keeps its place keeps its entries. -/
def execJconfig (cell : Nat) (s : State) : Out1 :=
  s.onCell cell 0x10 (fun _ _ =>
    let h := s.hub
    let (ja, js, ba, bs) := (h.arg cell 0, h.arg cell 1, h.arg cell 2, h.arg cell 3)
    if !h.seqs.isEmpty then s.answer cell 3 1 0
    else if !inHbm ja js || !inHbm ba (2 * bs) then s.answer cell 3 2 0
    else
      let same := match h.barnAt with
        | some (b, n) => b == ba && n == bs
        | none => false
      (s.setHub { h with
        jcfg := some (ja, js, ba, bs)
        barnAt := some (ba, bs)
        jbuf := []
        barn := if same then h.barn else [] }).answer cell 0 0 0)

/-- A roster of its table in HBM4 (Table 20-1). -/
def State.rosterAt (s : State) (a : Nat) : Roster :=
  let n := s.readLe a 4
  { nx := s.readLe (a + 4) 2
    ny := s.readLe (a + 6) 2
    nz := s.readLe (a + 8) 2
    repoch := s.readLe (a + 12) 4
    ranks := (List.range n).map (fun k =>
      let e := a + 64 + 64 * k
      let p := s.readLe (e + 8) 4
      { chipId := s.readLe e 2
        x := s.readLe (e + 2) 1
        y := s.readLe (e + 3) 1
        z := s.readLe (e + 4) 1
        domain := s.readLe (e + 6) 2
        partner := if p = 2 ^ 32 - 1 then none else some p
        meas := Memory.read s.mem (e + 32) 32 }) }

def distinct {α : Type} [BEq α] : List α → Bool
  | [] => true
  | x :: t => !t.contains x && distinct t

/-- Reason 1 of R328. -/
def State.rosterBad (s : State) (a : Nat) (g : Geom) (r : Roster) : Bool :=
  let n := r.ranks.length
  let zero (o k : Nat) : Bool := (Memory.read s.mem (a + o) k).all (fun b => b == 0)
  let named (j : Nat) : Nat := (r.ranks.filter (fun e => e.partner = some j)).length
  n == 0 || n != r.nx * r.ny * r.nz || decide (g.px < r.nx) || decide (g.py < r.ny) || decide (g.pz < r.nz)
    || r.ranks.any (fun e => decide (g.px ≤ e.x) || decide (g.py ≤ e.y) || decide (g.pz ≤ e.z))
    || !distinct (r.ranks.map (fun e => (e.x, e.y, e.z))) || !distinct (r.ranks.map RosterEnt.chipId)
    || (indexed r.ranks).any (fun e =>
      match e.2.partner with
      | none => false
      | some j => j == e.1 || (match r.ranks[j]? with
        | some o => o.domain == e.2.domain
        | none => true))
    || (List.range n).any (fun j => decide (2 < named j))
    || !(zero 10 2 && zero 16 48)
    || (List.range n).any (fun k => !(zero (64 + 64 * k + 5) 1 && zero (64 + 64 * k + 12) 20))

/-- The rank that holds this chip's identifier at its coordinate. -/
def Roster.rankOf (r : Roster) (g : Geom) : Option Nat :=
  ((indexed r.ranks).find? (fun e =>
    e.2.chipId == g.ident && e.2.x == g.x && e.2.y == g.y && e.2.z == g.z)).map Prod.fst

/-- Chip identifier of the partner that a roster names for this chip. -/
def Roster.partnerOf (r : Roster) (g : Geom) : Option Nat :=
  (r.rankOf g).bind (fun k => (r.ranks[k]?.bind RosterEnt.partner).bind (fun j => r.ranks[j]?.map RosterEnt.chipId))

/-- The partner that a roster must agree with: the one being seeded, or the one bound, unless it is in the lost set (R329; log
53). -/
def Hub.bound (h : Hub) : Option Nat :=
  match h.seeding with
  | some (_, chip, _) => some chip
  | none => if h.partnerOk then h.partner.map Prod.fst else none

/-- R328's checks: the roster, or the reason. -/
def State.checkRoster (s : State) (c a : Nat) : Except Nat Roster :=
  let x := s.ctx c
  match s.hub.geom with
  | none => .error 5
  | some g =>
    if !inHbm a 64 || !inHbm a (64 + 64 * s.readLe a 4) then .error 5
    else
      let r := s.rosterAt a
      let old := match x.roster with
        | some o => decide (r.repoch ≤ o.repoch)
        | none => false
      let bound := match s.hub.bound with
        | some chip => r.partnerOf g != some chip
        | none => false
      if s.rosterBad a g r then .error 1
      else if old then .error 2
      else if bound then .error 3
      else
        match r.rankOf g with
        | none => .error 4
        | some k => if x.st != .free && k != x.desc.rank then .error 4 else .ok r

/-- ROSTER loads a context's roster, in any state but ENDING. -/
def execRoster (cell : Nat) (s : State) : Out1 :=
  s.onCell cell 0x11 (fun c _ =>
    let x := s.ctx c
    let a := s.hub.arg cell 0
    if x.st = .ending then s.answer cell 2 0 0
    else
      match s.checkRoster c a with
      | .error r => s.answer cell 3 r 0
      | .ok r =>
        let n := r.ranks.length
        let digest := shake256 (Memory.read s.mem a (64 + 64 * n)) 64
        let cyc := if x.st = .free then 0 else s.clock - x.born
        (s.setCtx c { x with
          roster := some r
          rosters := keepRosters (x.rosters ++ [(r.repoch, n, cyc, digest)]) }).answer cell 0 0 0)

/-- Entries of JBUF in seeding order: sequence by sequence, in append order within each (R337). -/
def Hub.seedOrder (h : Hub) : List BarnEntry :=
  h.seqs.flatMap (fun q => (h.jbuf.filter (fun e => e.1.ctx = q.ctx && e.1.seq = q.seq)).map Prod.fst)

/-- A roster on this chip disagrees with a partner (R329). -/
def State.partnerClash (s : State) (chip : Nat) : Bool :=
  match s.hub.geom with
  | none => true
  | some g => s.ctxs.any (fun e =>
      match e.2.roster with
      | some r => r.partnerOf g != some chip
      | none => false)

/-- PARTNER binds a partner and seeds its slot; the outside says whether the target answers with a slot that this chip may
have. The command returns once every entry is acknowledged (R337). -/
def execPartner (cell : Nat) (answers : Bool) (s : State) : Out1 :=
  s.onCell cell 0x12 (fun _ first =>
    let h := s.hub
    let chip := h.arg cell 0
    let slot := h.arg cell 1
    if first then
      if h.seeding.isSome then s.answer cell 2 0 0
      else if slot > 1 ∨ !s.barnOpen ∨ chip = h.chipId ∨ h.lost.contains chip ∨ !answers then s.answer cell 3 1 0
      else if s.partnerClash chip then s.answer cell 3 3 0
      else
        let h : Hub := { h with
          partner := none
          seeding := some (cell, chip, slot)
          jbuf := h.jbuf.map (fun e => (e.1, false))
          seqs := h.seqs.map (fun q => { q with acked := none }) }
        let s := s.setHub ((h.dropEntries (fun k => k != chip)).await cell h.seedOrder)
        .next (h.seedOrder.foldl (fun s e => s.sendBarn e) (s.underWay cell))
    else if h.seeding = some (cell, chip, slot) ∧ h.awaited cell = [] then
      (s.setHub { h.unawait cell with partner := some (chip, slot), seeding := none }).openGates.answer cell 0 0 0
    else s.idle "an entry is not acknowledged")

/-- LOST enters a chip in the lost set. A partner that is being seeded is given up, and its PARTNER returns 4. -/
def execLost (cell : Nat) (s : State) : Out1 :=
  s.onCell cell 0x13 (fun _ _ =>
    let h := s.hub
    let chip := h.arg cell 0
    let lost := if h.lost.contains chip then h.lost else h.lost ++ [chip]
    let s := s.setHub { h.dropEntries (fun k => k == chip) with lost := lost }
    let s := match h.seeding with
      | some (k, p, _) =>
        if p = chip then (s.setHub { s.hub.unawait k with seeding := none, partner := none }).mbDone k (resultWord 4 0 0) else s
      | _ => s
    s.sweepLost.answer cell 0 0 0)

/-- One sequence of a replay: SEQ, marker (its step and locator), first step, records. -/
structure Replayed where
  seq : BitVec 32
  marker : Option (Nat × List Byte)
  first : Nat
  records : List (List Byte)
  deriving DecidableEq, Repr

/-- The sequences of a lost chip's slot in one context, in ascending SEQ (R338 step 2). -/
def replayOf (c : Nat) (es : List BarnEntry) : List Replayed :=
  let t : Tab Unit := (es.filter (fun (e : BarnEntry) => e.ctx == c)).foldl
    (fun (l : Tab Unit) (e : BarnEntry) => l.put e.seq.toNat ()) []
  let seqs : List (BitVec 32) := t.map (fun q => BitVec.ofNat 32 q.1)
  seqs.map (fun sq =>
    let mine : List BarnEntry := es.filter (fun e => sameSeq e c sq)
    let first := (heldSteps mine).1
    let stop := (heldSteps mine).2
    { seq := sq
      marker := latestMarker mine
      first := first
      records := (List.range (stop - first)).filterMap (fun k =>
        (mine.find? (fun e => e.etype = 1 && e.step.toNat = first + k)).map BarnEntry.body) })

/-- The replay image (Table 20-5). -/
def replayImage (l : List Replayed) : List Byte :=
  let head := leBytes 4 l.length ++ List.replicate 60 0 ++ l.flatMap (fun r =>
    padTo 64 (leBytes 4 r.seq.toNat ++ leBytes 4 r.first ++ leBytes 4 r.records.length ++ leBytes 4 0
      ++ padTo 8 (match r.marker with
        | some (_, loc) => loc
        | none => [])))
  padTo (ceilDiv (64 + 64 * l.length) 4096 * 4096) head ++ l.flatMap (fun r => r.records.flatMap (padTo 320))

/-- Marker and records of a replayed sequence, as entries of this chip (step 4). -/
def replayEntries (c src : Nat) (r : Replayed) : List BarnEntry :=
  (match r.marker with
    | some (n, loc) => [⟨2, c, src, r.seq, BitVec.ofNat 32 n, loc⟩]
    | none => [])
  ++ (indexed r.records).map (fun e => ⟨1, c, src, r.seq, BitVec.ofNat 32 (r.first + e.1), e.2⟩)

/-- Opens one replayed sequence and appends its entries (step 4). -/
def State.openReplay (s : State) (c : Nat) (r : Replayed) : State :=
  let s := if (s.hub.seq? c r.seq).isSome then s.closeSeq c r.seq else s
  let first : BitVec 32 := BitVec.ofNat 32 r.first
  let steps := (indexed r.records).map (fun e => (first + BitVec.ofNat 32 e.1, e.2))
  let last : Option (BitVec 32) := r.marker.map (fun m => BitVec.ofNat 32 m.1)
  let q : JSeq :=
    { ctx := c, seq := r.seq, st := if r.records.isEmpty then .live else .replaying, last := last
      acked := none, marker := none, cursor := first, replay := steps }
  (replayEntries c s.hub.chipId r).foldl (fun s e => s.append e) (s.setHub (s.hub.putSeq q))

/-- Steps 2 to 4 of REPLAY, on the entries of the slot: the image, and the sequences opened here (R338). -/
def State.replayFrom (s : State) (cell c : Nat) (es : List BarnEntry) : Out1 :=
  let img := s.hub.arg cell 2
  let size := s.hub.arg cell 3
  let l := replayOf c es
  let bs := replayImage l
  if !inHbm img size || decide (size < bs.length) then s.answer cell 3 2 0
  else
    let s := l.foldl (fun s r => s.openReplay c r) (s.ownerWrite img bs)
    let s := s.setHub (s.hub.await cell (l.flatMap (fun r => replayEntries c s.hub.chipId r)))
    .next (s.underWay cell)

/-- REPLAY of a lost chip's slot (R338). A slot of this chip is its own. Another holder's is read over the barn network, and the
outside gives what it answers: the entries, or that no slot is bound to the chip. -/
def execReplay (cell : Nat) (held : Option (List BarnEntry)) (s : State) : Out1 :=
  s.onCell cell 0x14 (fun c first =>
    let h := s.hub
    let lost := h.arg cell 0
    let holder := h.arg cell 1
    if h.seedWaits.any (fun w => w.1 = cell) then
      if h.awaited cell = [] then (s.setHub (h.unawait cell)).answer cell 0 0 0
      else s.idle "an entry is not acknowledged"
    else
      match (s.ctx c).st with
      | .running =>
        if holder = h.chipId ∧ h.geom.isSome then
          match h.barn.find? (fun e => e.2.client = some lost) with
          | some b => s.replayFrom cell c b.2.entries
          | none => s.answer cell 3 1 0
        else if !s.barnOpen then s.answer cell 3 1 0
        else if first then .next ((s.underWay cell).barnSend holder (.barnRead h.chipId lost))
        else
          match held with
          | some es => s.replayFrom cell c es
          | none => s.answer cell 3 1 0
      | .free | .saved => s.answer cell 1 0 0
      | _ => s.answer cell 2 0 0)

/-- BFREE discards a barn slot and its client binding. -/
def execBfree (cell : Nat) (s : State) : Out1 :=
  s.onCell cell 0x15 (fun _ _ =>
    let k := s.hub.arg cell 0
    if k > 1 then s.answer cell 3 1 0 else (s.setHub { s.hub with barn := s.hub.barn.del k }).answer cell 0 0 0)

def seqStNum : SeqSt → Nat
  | .closed => 0 | .live => 1 | .replaying => 2 | .diverged => 3

/-- JSTAT's result word (Table 20-2). -/
def Hub.jstat (h : Hub) (c : Nat) (q : BitVec 32) : Nat :=
  match h.seq? c q with
  | none => 0
  | some x =>
    seqStNum x.st * 2 ^ 28 + (match x.acked with
      | some k => 2 ^ 27 + k.toNat * 2 ^ 32
      | none => 0)

def execJstat (cell : Nat) (s : State) : Out1 :=
  s.onCell cell 0x16 (fun c _ => .next (s.mbDone cell (s.hub.jstat c (BitVec.ofNat 32 (s.hub.arg cell 0)))))

/-! HEALTH, VERIFY, GEOMETRY. -/

/-- Counter n of the health record (21 R355). -/
def Health.counter (h : Health) (n : Nat) : Nat := Tab.get 0 h.counts n

/-- The 512 bytes of the record. -/
def Health.bytes (h : Health) : List Byte :=
  leBytes 8 h.word0 ++ leBytes 8 h.word1 ++ (List.range 124).flatMap (fun n => leBytes 4 (h.counter n))

def execHealth (cell : Nat) (s : State) : Out1 :=
  s.onCell cell 0x20 (fun _ _ =>
    let a := s.hub.arg cell 0
    if a % 64 ≠ 0 ∨ !inHbm a 512 then s.answer cell 3 3 0
    else (s.ownerWrite a s.hub.health.bytes).answer cell 0 0 0)

/-- VERIFY: an SLH-DSA-SHAKE-256s signature over bytes of HBM4, under an image-authority key (23 R375). -/
def execVerify (cell : Nat) (s : State) : Out1 :=
  s.onCell cell 0x21 (fun _ _ =>
    let h := s.hub
    let (a, n, sig, k) := (h.arg cell 0, h.arg cell 1, h.arg cell 2, h.arg cell 3)
    if n = 0 ∨ n > 2 ^ 30 ∨ !inHbm a n ∨ !inHbm sig 29792 then s.answer cell 3 3 0
    else if k > 7 ∨ !Config.keyLoaded k then s.answer cell 3 2 0
    else if slhVerify (Config.imageKey k) (Memory.read s.mem a n) (Memory.read s.mem sig 29792) then s.answer cell 0 0 0
    else s.answer cell 3 1 0)

/-- GEOMETRY (18 R381). -/
def execGeometry (cell : Nat) (s : State) : Out1 :=
  s.onCell cell 0x22 (fun _ _ =>
    let h := s.hub
    let (e, p, ident) := (h.arg cell 0, h.arg cell 1, h.arg cell 2)
    let f (w k : Nat) : Nat := w / 2 ^ (16 * k) % 65536
    let ok (k : Nat) : Bool := decide (1 ≤ f e k) && decide (f e k ≤ 256) && decide (f p k < f e k)
    if e ≥ 2 ^ 48 ∨ p ≥ 2 ^ 48 ∨ ident ≥ 2 ^ 16 ∨ !(ok 0 && ok 1 && ok 2) ∨ f e 0 * f e 1 * f e 2 > 65536 then
      s.answer cell 3 1 0
    else if s.ctxs.any (fun c => c.2.st != .free) then s.answer cell 3 2 0
    else (s.setHub { h with geom := some ⟨f e 0, f e 1, f e 2, f p 0, f p 1, f p 2, ident⟩ }).answer cell 0 0 0)

/-! Observation (22 Table 22-5). -/

/-- The held statement under a new number and nonce, signed again (R372). -/
def resign (b : List Byte) (sseq : Nat) (nonce : List Byte) : List Byte :=
  let body := b.take 8 ++ leBytes 8 sseq ++ padTo 32 nonce ++ (b.take (b.length - 49856)).drop 48
  body ++ padTo 49856 (Config.sign body)

def execStmt (cell : Nat) (s : State) : Out1 :=
  s.onCell cell 0x30 (fun c _ =>
    let x := s.ctx c
    let a := s.hub.arg cell 0
    let size := s.hub.arg cell 1
    let nonce := sliceBytes (s.hub.cell cell) 24 32
    let put (s : State) (bs : List Byte) : Out1 := (s.ownerWrite a bs).answer cell 0 0 0
    match x.st with
    | .running | .saved =>
      let s := s.forwardAll c
      let n := s.statementLen c
      if size < n then s.answer cell 3 1 0
      else if !inHbm a size then s.answer cell 3 3 0
      else
        let (b, s) := s.newStatement c 2 nonce
        put s b
    | .free =>
      match x.finalStmt with
      | none => s.answer cell 1 0 0
      | some b =>
        if size < b.length then s.answer cell 3 1 0
        else if !inHbm a size then s.answer cell 3 3 0
        else if nonce.all (fun v => v == 0) then put s b
        else
          let n := s.hub.ssSeq + 1
          put (s.setHub { s.hub with ssSeq := n }) (resign b n nonce)
    | _ => s.answer cell 2 0 0)

/-- A context's logs cleared (R368). -/
def State.clearLogs (s : State) (c : Nat) : State :=
  { s with cores := s.cores.map (fun e => (e.1, { e.2 with
      dlog := e.2.dlog.filter (fun t => t.ctx != c)
      slog := e.2.slog.filter (fun t => t.ctx != c) })) }

/-- GLEAN enables the logs; with DEPTH it samples, and returns when the sample is written (R368, R369). -/
def execGlean (cell : Nat) (s : State) : Out1 :=
  s.onCell cell 0x31 (fun c first =>
    let h := s.hub
    let x := s.ctx c
    let (w, skip, depth, a, size) := (h.arg cell 0, h.arg cell 1, h.arg cell 2, h.arg cell 3, h.arg cell 4)
    if !first then s.idle "the sampled firing has not come"
    else if x.st = .free then s.answer cell 1 0 0
    else if x.glean.isSome ∨ x.st = .ending then s.answer cell 2 0 0
    else if depth > 255 ∨ (depth ≠ 0 ∧ size < 64) then s.answer cell 3 1 0
    else if depth ≠ 0 ∧ !inHbm a size then s.answer cell 3 3 0
    else
      let s := s.clearLogs c
      if depth = 0 then (s.setCtx c { x with gleaning := true }).answer cell 0 0 0
      else
        let g : Glean := ⟨bitsOf w 27 16, bitsOf w 15 0, skip, depth, a, size, cell, none⟩
        .next ((s.setCtx c { x with gleaning := true, glean := some g }).underWay cell))

/-- Reserved bits of logic matrix register n (Table 22-2). -/
def lmReserved (n : Nat) (w : Nat) : Bool :=
  if n < 16 then bitsOf w 63 16 != 0 || bitsOf w 7 6 != 0
  else if n < 20 then bitsOf w 63 32 != 0 || bitsOf w 13 5 != 0
  else if n = 20 then bitsOf w 63 3 != 0
  else if n < 36 then bitsOf w 63 32 != 0
  else if n < 40 then false
  else if n < 56 then bitsOf w 63 32 != 0
  else w != 0

/-- LMCONFIG loads a die's logic matrix and clears its counts (R366). -/
def execLmconfig (cell : Nat) (s : State) : Out1 :=
  s.onCell cell 0x32 (fun _ _ =>
    let d := s.hub.arg cell 0
    let a := s.hub.arg cell 1
    if a % 64 ≠ 0 ∨ !inHbm a 512 then s.answer cell 3 3 0
    else
      let w (n : Nat) : Nat := s.readLe (a + 8 * n) 8
      if d > 3 ∨ (List.range 64).any (fun n => lmReserved n (w n)) ∨ !(List.range 14).all (fun b => decide (w (21 + b) < w (22 + b))) then
        s.answer cell 3 1 0
      else
        let x := s.die d
        let lm : Tab Word := (List.range 36).map (fun n => (n, word64 (w n)))
        (s.setDie d { x with lm := lm, lmRun := 0, lmLast := [] }).answer cell 0 0 0)

/-- LMREAD copies registers 0 to 63. -/
def execLmread (cell : Nat) (s : State) : Out1 :=
  s.onCell cell 0x33 (fun _ _ =>
    let d := s.hub.arg cell 0
    let a := s.hub.arg cell 1
    if a % 64 ≠ 0 ∨ !inHbm a 512 then s.answer cell 3 3 0
    else if d > 3 then s.answer cell 3 1 0
    else
      let bs := (List.range 64).flatMap (fun n => leBytes 8 (Tab.get 0 (s.die d).lm n).toNat)
      (s.ownerWrite a bs).answer cell 0 0 0)

/-- One entry of a match table: HIDX, TVAL and TMASK of two bytes each, the action in byte 6 (log 25). -/
def State.matchEnt (s : State) (a : Nat) : MatchEnt :=
  ⟨s.readLe a 2, s.readLe (a + 2) 2, s.readLe (a + 4) 2, s.readLe (a + 6) 1 == 1⟩

/-- TRCONFIG gives a context its trace buffer and match entries (R370). -/
def execTrconfig (cell : Nat) (s : State) : Out1 :=
  s.onCell cell 0x34 (fun c _ =>
    let h := s.hub
    let x := s.ctx c
    let (a, size, tab, n) := (h.arg cell 0, h.arg cell 1, h.arg cell 2, h.arg cell 3)
    match x.st with
    | .free => s.answer cell 1 0 0
    | .ending => s.answer cell 2 0 0
    | _ =>
      let pow := (List.range 19).any (fun k => size == 4096 * 2 ^ k)
      if !pow || decide (n > 8) then s.answer cell 3 1 0
      else if a % size ≠ 0 ∨ !inHbm a size ∨ !inHbm tab (8 * n) then s.answer cell 3 3 0
      else
        let ents := (List.range n).map (fun k => s.matchEnt (tab + 8 * k))
        let s := s.ownerZero a 64
        (s.setCtx c { s.ctx c with trace := some ⟨a, size, 0, ents⟩ }).answer cell 0 0 0)

/-- Filled operand slots of a sheaf. -/
def Sheaf.filled (x : Sheaf) : Nat :=
  ((indexed x.opnds).map (fun e => if e.2.isSome then 2 ^ e.1 else 0)).sum

/-- A sheaf, or a record of the sheaf list, in SHEAFLIST's output: 64 bytes each (log 25). -/
def sheafBytes (kind lc c gen hidx tag arity count filled : Nat) (ops : List Word) : List Byte :=
  padTo 64 (leBytes 1 kind ++ leBytes 1 c ++ leBytes 2 lc ++ leBytes 2 hidx ++ leBytes 2 tag ++ leBytes 1 gen
    ++ leBytes 1 arity ++ leBytes 1 count ++ leBytes 1 filled ++ List.replicate 4 0
    ++ (ops.take 4).flatMap (fun w => leBytes 8 w.toNat))

/-- The output of SHEAFLIST: for each core in ascending order, each handler's sheaves and records. -/
def State.sheafListBytes (s : State) (c : Nat) : List Byte :=
  (s.ctx c).lcs.flatMap (fun e =>
    let l := e.2
    let hs : Tab Unit := (l.sheaves.map Sheaf.hidx ++ l.sheafList.map (fun m => m.1.hdr.hidx.toNat)).foldl
      (fun (t : Tab Unit) h => t.put h ()) []
    hs.flatMap (fun h =>
      (l.sheaves.filter (fun x => x.hidx = h.1)).flatMap (fun x =>
        sheafBytes 1 e.1 c x.gen x.hidx x.tag x.arity x.count x.filled x.words)
      ++ (l.sheafList.filter (fun m => m.1.hdr.hidx.toNat = h.1)).flatMap (fun m =>
        let j := m.1.hdr.jslot.toNat
        let arity := match s.handler? c m.1.hdr.gen.toNat h.1 with
          | some (_, x) => x.join
          | none => 0
        sheafBytes 2 e.1 c m.1.hdr.gen.toNat h.1 m.1.hdr.tag.toNat arity 1 (if j < 4 then 2 ^ j else 0)
          ((List.range 4).map (fun k => if k = j then msgFirstWord m.1 else 0)))))

/-- SHEAFLIST on a SAVED context (R371). -/
def execSheaflist (cell : Nat) (s : State) : Out1 :=
  s.onCell cell 0x35 (fun c _ =>
    let a := s.hub.arg cell 0
    let size := s.hub.arg cell 1
    match (s.ctx c).st with
    | .saved =>
      let bs := s.sheafListBytes c
      if size < bs.length then s.answer cell 3 1 0
      else if !inHbm a size then s.answer cell 3 3 0
      else (s.ownerWrite a bs).answer cell 0 0 0
    | .free | .running => s.answer cell 1 0 0
    | _ => s.answer cell 2 0 0)

/-- CNTREAD copies the 43 counters: of a FREE context, those of its end (22 Table 22-5). -/
def execCntread (cell : Nat) (s : State) : Out1 :=
  s.onCell cell 0x36 (fun c _ =>
    let a := s.hub.arg cell 0
    if !(s.ctx c).launched then s.answer cell 1 0 0
    else if !inHbm a 688 then s.answer cell 3 3 0
    else
      let s := s.forwardAll c
      (s.ownerWrite a (s.ctx c).counterBytes).answer cell 0 0 0)

end Sys2Proof.Machine
end

