-- ==== Sys2Proof/Machine/Dispatch.lean ====
section
/-! DEFINITION. One arm for each instruction: the call of its meaning. -/

namespace Sys2Proof.Machine

def exec (i : Instr) (s : State) : Host.Outcome State Fault Refusal :=
  match i with
  | .add d a b => Sys2Proof.Machine.execAdd d a b s
  | .sub d a b => Sys2Proof.Machine.execSub d a b s
  | .mul d a b => Sys2Proof.Machine.execMul d a b s
  | .mulh d a b => Sys2Proof.Machine.execMulh d a b s
  | .mulhn d a b => Sys2Proof.Machine.execMulhn d a b s
  | .div d a b => Sys2Proof.Machine.execDiv d a b s
  | .divn d a b => Sys2Proof.Machine.execDivn d a b s
  | .rem d a b => Sys2Proof.Machine.execRem d a b s
  | .remn d a b => Sys2Proof.Machine.execRemn d a b s
  | .and d a b => Sys2Proof.Machine.execAnd d a b s
  | .or d a b => Sys2Proof.Machine.execOr d a b s
  | .xor d a b => Sys2Proof.Machine.execXor d a b s
  | .andn d a b => Sys2Proof.Machine.execAndn d a b s
  | .sll d a b => Sys2Proof.Machine.execSll d a b s
  | .srl d a b => Sys2Proof.Machine.execSrl d a b s
  | .sra d a b => Sys2Proof.Machine.execSra d a b s
  | .rol d a b => Sys2Proof.Machine.execRol d a b s
  | .ror d a b => Sys2Proof.Machine.execRor d a b s
  | .min d a b => Sys2Proof.Machine.execMin d a b s
  | .max d a b => Sys2Proof.Machine.execMax d a b s
  | .minn d a b => Sys2Proof.Machine.execMinn d a b s
  | .maxn d a b => Sys2Proof.Machine.execMaxn d a b s
  | .adds d a b => Sys2Proof.Machine.execAdds d a b s
  | .subs d a b => Sys2Proof.Machine.execSubs d a b s
  | .cmpeq d a b => Sys2Proof.Machine.execCmpeq d a b s
  | .cmpne d a b => Sys2Proof.Machine.execCmpne d a b s
  | .cmplt d a b => Sys2Proof.Machine.execCmplt d a b s
  | .cmple d a b => Sys2Proof.Machine.execCmple d a b s
  | .cmpltn d a b => Sys2Proof.Machine.execCmpltn d a b s
  | .cmplen d a b => Sys2Proof.Machine.execCmplen d a b s
  | .sel d a b c => Sys2Proof.Machine.execSel d a b c s
  | .clz d a => Sys2Proof.Machine.execClz d a s
  | .ctz d a => Sys2Proof.Machine.execCtz d a s
  | .popc d a => Sys2Proof.Machine.execPopc d a s
  | .brev d a => Sys2Proof.Machine.execBrev d a s
  | .bswap d a => Sys2Proof.Machine.execBswap d a s
  | .bext d a pos wm1 => Sys2Proof.Machine.execBext d a pos wm1 s
  | .bextz d a pos wm1 => Sys2Proof.Machine.execBextz d a pos wm1 s
  | .bins d a pos wm1 => Sys2Proof.Machine.execBins d a pos wm1 s
  | .crcc8 d a b => Sys2Proof.Machine.execCrcc8 d a b s
  | .crcc16 d a b => Sys2Proof.Machine.execCrcc16 d a b s
  | .crcc32 d a b => Sys2Proof.Machine.execCrcc32 d a b s
  | .crcc64 d a b => Sys2Proof.Machine.execCrcc64 d a b s
  | .rng d a b => Sys2Proof.Machine.execRng d a b s
  | .rngf d a b => Sys2Proof.Machine.execRngf d a b s
  | .addi d a imm => Sys2Proof.Machine.execAddi d a imm s
  | .andi d a imm => Sys2Proof.Machine.execAndi d a imm s
  | .ori d a imm => Sys2Proof.Machine.execOri d a imm s
  | .xori d a imm => Sys2Proof.Machine.execXori d a imm s
  | .slli d a sh => Sys2Proof.Machine.execSlli d a sh s
  | .srli d a sh => Sys2Proof.Machine.execSrli d a sh s
  | .srai d a sh => Sys2Proof.Machine.execSrai d a sh s
  | .muli d a imm => Sys2Proof.Machine.execMuli d a imm s
  | .cmpeqi d a imm => Sys2Proof.Machine.execCmpeqi d a imm s
  | .cmplti d a imm => Sys2Proof.Machine.execCmplti d a imm s
  | .cmpltni d a imm => Sys2Proof.Machine.execCmpltni d a imm s
  | .mini d a imm => Sys2Proof.Machine.execMini d a imm s
  | .maxi d a imm => Sys2Proof.Machine.execMaxi d a imm s
  | .li d imm => Sys2Proof.Machine.execLi d imm s
  | .lih d imm => Sys2Proof.Machine.execLih d imm s
  | .mfm d a => Sys2Proof.Machine.execMfm d a s
  | .mfl d => Sys2Proof.Machine.execMfl d s
  | .mfq d a => Sys2Proof.Machine.execMfq d a s
  | .la d a imm => Sys2Proof.Machine.execLa d a imm s
  | .idx d a b sh => Sys2Proof.Machine.execIdx d a b sh s
  | .br imm => Sys2Proof.Machine.execBr imm s
  | .beq a b imm => Sys2Proof.Machine.execBeq a b imm s
  | .bne a b imm => Sys2Proof.Machine.execBne a b imm s
  | .blt a b imm => Sys2Proof.Machine.execBlt a b imm s
  | .bge a b imm => Sys2Proof.Machine.execBge a b imm s
  | .bltn a b imm => Sys2Proof.Machine.execBltn a b imm s
  | .bgen a b imm => Sys2Proof.Machine.execBgen a b imm s
  | .jal imm => Sys2Proof.Machine.execJal imm s
  | .jr a => Sys2Proof.Machine.execJr a s
  | .ret => Sys2Proof.Machine.execRet s
  | .loop a level imm => Sys2Proof.Machine.execLoop a level imm s
  | .chunk d n => Sys2Proof.Machine.execChunk d n s
  | .chunkUnitRequest q => Sys2Proof.Machine.execChunkUnitRequest q s
  | .endI => Sys2Proof.Machine.execEndI s
  | .yieldI => Sys2Proof.Machine.execYieldI s
  | .trap a code => Sys2Proof.Machine.execTrap a code s
  | .bkpt a code => Sys2Proof.Machine.execBkpt a code s
  | .trmark a code => Sys2Proof.Machine.execTrmark a code s
  | .srd d sreg => Sys2Proof.Machine.execSrd d sreg s
  | .swr sreg a => Sys2Proof.Machine.execSwr sreg a s
  | .sw1c sreg a => Sys2Proof.Machine.execSw1c sreg a s
  | .cntrd d n => Sys2Proof.Machine.execCntrd d n s
  | .ld8 d a ord imm => Sys2Proof.Machine.execLd8 d a ord imm s
  | .ld16 d a ord imm => Sys2Proof.Machine.execLd16 d a ord imm s
  | .ld32 d a ord imm => Sys2Proof.Machine.execLd32 d a ord imm s
  | .ld64 d a ord imm => Sys2Proof.Machine.execLd64 d a ord imm s
  | .ldz8 d a ord imm => Sys2Proof.Machine.execLdz8 d a ord imm s
  | .ldz16 d a ord imm => Sys2Proof.Machine.execLdz16 d a ord imm s
  | .ldz32 d a ord imm => Sys2Proof.Machine.execLdz32 d a ord imm s
  | .st8 a b ord imm => Sys2Proof.Machine.execSt8 a b ord imm s
  | .st16 a b ord imm => Sys2Proof.Machine.execSt16 a b ord imm s
  | .st32 a b ord imm => Sys2Proof.Machine.execSt32 a b ord imm s
  | .st64 a b ord imm => Sys2Proof.Machine.execSt64 a b ord imm s
  | .vld d a ord imm => Sys2Proof.Machine.execVld d a ord imm s
  | .vst a b ord imm => Sys2Proof.Machine.execVst a b ord imm s
  | .get d a b size imm => Sys2Proof.Machine.execGet d a b size imm s
  | .put d a b size ord imm => Sys2Proof.Machine.execPut d a b size ord imm s
  | .aadd d a b wide ord imm => Sys2Proof.Machine.execAadd d a b wide ord imm s
  | .afadd d a b ord imm => Sys2Proof.Machine.execAfadd d a b ord imm s
  | .amin d a b wide ord imm => Sys2Proof.Machine.execAmin d a b wide ord imm s
  | .amax d a b wide ord imm => Sys2Proof.Machine.execAmax d a b wide ord imm s
  | .aminn d a b wide ord imm => Sys2Proof.Machine.execAminn d a b wide ord imm s
  | .amaxn d a b wide ord imm => Sys2Proof.Machine.execAmaxn d a b wide ord imm s
  | .aand d a b wide ord imm => Sys2Proof.Machine.execAand d a b wide ord imm s
  | .aor d a b wide ord imm => Sys2Proof.Machine.execAor d a b wide ord imm s
  | .axor d a b wide ord imm => Sys2Proof.Machine.execAxor d a b wide ord imm s
  | .aswap d a b wide ord imm => Sys2Proof.Machine.execAswap d a b wide ord imm s
  | .acas d a b wide ord imm => Sys2Proof.Machine.execAcas d a b wide ord imm s
  | .aclaim d a b wide ord imm => Sys2Proof.Machine.execAclaim d a b wide ord imm s
  | .fence scope => Sys2Proof.Machine.execFence scope s
  | .xfence p1 p2 => Sys2Proof.Machine.execXfence p1 p2 s
  | .drain p a => Sys2Proof.Machine.execDrain p a s
  | .barrive a b c hidx scope n => Sys2Proof.Machine.execBarrive a b c hidx scope n s
  | .watchRegister d a b c hidx => Sys2Proof.Machine.execWatchRegister d a b c hidx s
  | .watchCancel d a b c hidx => Sys2Proof.Machine.execWatchCancel d a b c hidx s
  | .send d a b c hidx norel => Sys2Proof.Machine.execSend d a b c hidx norel s
  | .reply a b c norel => Sys2Proof.Machine.execReply a b c norel s
  | .sendm d a b c hidx norel mcnt => Sys2Proof.Machine.execSendm d a b c hidx norel mcnt s
  | .post a b norel => Sys2Proof.Machine.execPost a b norel s
  | .msgld8 d a imm => Sys2Proof.Machine.execMsgld8 d a imm s
  | .msgld16 d a imm => Sys2Proof.Machine.execMsgld16 d a imm s
  | .msgld32 d a imm => Sys2Proof.Machine.execMsgld32 d a imm s
  | .msgld64 d a imm => Sys2Proof.Machine.execMsgld64 d a imm s
  | .tagnew d n => Sys2Proof.Machine.execTagnew d n s
  | .tagfree a n => Sys2Proof.Machine.execTagfree a n s
  | .tagpark d n => Sys2Proof.Machine.execTagpark d n s
  | .arm d a b c hidx act prio => Sys2Proof.Machine.execArm d a b c hidx act prio s
  | .qpush d a b => Sys2Proof.Machine.execQpush d a b s
  | .qpop d a => Sys2Proof.Machine.execQpop d a s
  | .qwait d a b => Sys2Proof.Machine.execQwait d a b s
  | .qadv d a b => Sys2Proof.Machine.execQadv d a b s
  | .wput a b c => Sys2Proof.Machine.execWput a b c s
  | .wtakeFirst d a => Sys2Proof.Machine.execWtakeFirst d a s
  | .wtakeStatus d a => Sys2Proof.Machine.execWtakeStatus d a s
  | .wtakeEmpty d a => Sys2Proof.Machine.execWtakeEmpty d a s
  | .jrec d a b c => Sys2Proof.Machine.execJrec d a b c s
  | .jemit d a b c => Sys2Proof.Machine.execJemit d a b c s
  | .jckpt d a b => Sys2Proof.Machine.execJckpt d a b s
  | .jtruncCheckpoint d a => Sys2Proof.Machine.execJtruncCheckpoint d a s
  | .jtruncClose d a => Sys2Proof.Machine.execJtruncClose d a s
  | .vadd d a b m f r => Sys2Proof.Machine.execVadd d a b m f r s
  | .vsub d a b m f r => Sys2Proof.Machine.execVsub d a b m f r s
  | .vmul d a b m f r => Sys2Proof.Machine.execVmul d a b m f r s
  | .vdiv d a b m f r => Sys2Proof.Machine.execVdiv d a b m f r s
  | .vmin d a b m f r => Sys2Proof.Machine.execVmin d a b m f r s
  | .vmax d a b m f r => Sys2Proof.Machine.execVmax d a b m f r s
  | .vabs d a m f r => Sys2Proof.Machine.execVabs d a m f r s
  | .vneg d a m f r => Sys2Proof.Machine.execVneg d a m f r s
  | .vsqrt d a m f r => Sys2Proof.Machine.execVsqrt d a m f r s
  | .vand d a b m => Sys2Proof.Machine.execVand d a b m s
  | .vor d a b m => Sys2Proof.Machine.execVor d a b m s
  | .vxor d a b m => Sys2Proof.Machine.execVxor d a b m s
  | .vsll d a b m f => Sys2Proof.Machine.execVsll d a b m f s
  | .vsrl d a b m f => Sys2Proof.Machine.execVsrl d a b m f s
  | .vsra d a b m f => Sys2Proof.Machine.execVsra d a b m f s
  | .vfma d a b c m f r => Sys2Proof.Machine.execVfma d a b c m f r s
  | .vfms d a b c m f r => Sys2Proof.Machine.execVfms d a b c m f r s
  | .vfnma d a b c m f r => Sys2Proof.Machine.execVfnma d a b c m f r s
  | .vfnms d a b c m f r => Sys2Proof.Machine.execVfnms d a b c m f r s
  | .vcmpeq d a b m f md => Sys2Proof.Machine.execVcmpeq d a b m f md s
  | .vcmpne d a b m f md => Sys2Proof.Machine.execVcmpne d a b m f md s
  | .vcmplt d a b m f md => Sys2Proof.Machine.execVcmplt d a b m f md s
  | .vcmple d a b m f md => Sys2Proof.Machine.execVcmple d a b m f md s
  | .vcmpun d a b m f md => Sys2Proof.Machine.execVcmpun d a b m f md s
  | .vsel d a b m => Sys2Proof.Machine.execVsel d a b m s
  | .vperm d a b m f md => Sys2Proof.Machine.execVperm d a b m f md s
  | .vbcast d a m f md => Sys2Proof.Machine.execVbcast d a m f md s
  | .vslide d a b c m f md => Sys2Proof.Machine.execVslide d a b c m f md s
  | .vzip d a b m f md => Sys2Proof.Machine.execVzip d a b m f md s
  | .vunzip d a b m f md => Sys2Proof.Machine.execVunzip d a b m f md s
  | .vins d a b m f md => Sys2Proof.Machine.execVins d a b m f md s
  | .vext d a m f md => Sys2Proof.Machine.execVext d a m f md s
  | .vcvt d a m dst src r => Sys2Proof.Machine.execVcvt d a m dst src r s
  | .quant d a b m f r => Sys2Proof.Machine.execQuant d a b m f r s
  | .dequant d a b m f r => Sys2Proof.Machine.execDequant d a b m f r s
  | .dequantChannel d b m r => Sys2Proof.Machine.execDequantChannel d b m r s
  | .vredadd d a m f r => Sys2Proof.Machine.execVredadd d a m f r s
  | .vredmin d a m f r => Sys2Proof.Machine.execVredmin d a m f r s
  | .vredmax d a m f r => Sys2Proof.Machine.execVredmax d a m f r s
  | .vscanadd d a m f r => Sys2Proof.Machine.execVscanadd d a m f r s
  | .vscanmin d a m f r => Sys2Proof.Machine.execVscanmin d a m f r s
  | .vscanmax d a m f r => Sys2Proof.Machine.execVscanmax d a m f r s
  | .vexp2 d a m f sat => Sys2Proof.Machine.execVexp2 d a m f sat s
  | .vlog2 d a m f sat => Sys2Proof.Machine.execVlog2 d a m f sat s
  | .vrcp d a m f sat => Sys2Proof.Machine.execVrcp d a m f sat s
  | .vrsqrt d a m f sat => Sys2Proof.Machine.execVrsqrt d a m f sat s
  | .vsin d a m f sat => Sys2Proof.Machine.execVsin d a m f sat s
  | .vcos d a m f sat => Sys2Proof.Machine.execVcos d a m f sat s
  | .vtanh d a m f sat => Sys2Proof.Machine.execVtanh d a m f sat s
  | .vsigm d a m f sat => Sys2Proof.Machine.execVsigm d a m f sat s
  | .vexp d a m f sat => Sys2Proof.Machine.execVexp d a m f sat s
  | .vpacknz d a b m f md => Sys2Proof.Machine.execVpacknz d a b m f md s
  | .vtopk d a b c m md => Sys2Proof.Machine.execVtopk d a b c m md s
  | .vargmax d a m md => Sys2Proof.Machine.execVargmax d a m md s
  | .kand d a b => Sys2Proof.Machine.execKand d a b s
  | .kor d a b => Sys2Proof.Machine.execKor d a b s
  | .kxor d a b => Sys2Proof.Machine.execKxor d a b s
  | .knot d a => Sys2Proof.Machine.execKnot d a s
  | .kmov d a => Sys2Proof.Machine.execKmov d a s
  | .krd d a => Sys2Proof.Machine.execKrd d a s
  | .kpopc d a => Sys2Proof.Machine.execKpopc d a s
  | .vectorComplete p sl n => Sys2Proof.Machine.execVectorComplete p sl n s
  | .dld d a ord imm => Sys2Proof.Machine.execDld d a ord imm s
  | .opaMma d a => Sys2Proof.Machine.execOpaMma d a s
  | .opaSel d a => Sys2Proof.Machine.execOpaSel d a s
  | .opaSparse d a => Sys2Proof.Machine.execOpaSparse d a s
  | .opaZero d a => Sys2Proof.Machine.execOpaZero d a s
  | .opaDrain d a => Sys2Proof.Machine.execOpaDrain d a s
  | .arrayCommandStart q => Sys2Proof.Machine.execArrayCommandStart q s
  | .arrayCommandComplete q => Sys2Proof.Machine.execArrayCommandComplete q s
  | .wbload d a => Sys2Proof.Machine.execWbload d a s
  | .wbloadComplete q e => Sys2Proof.Machine.execWbloadComplete q e s
  | .wbevict d a => Sys2Proof.Machine.execWbevict d a s
  | .wbpin d a => Sys2Proof.Machine.execWbpin d a s
  | .wbunpin d a => Sys2Proof.Machine.execWbunpin d a s
  | .wbEntryFree q e => Sys2Proof.Machine.execWbEntryFree q e s
  | .cplin d a => Sys2Proof.Machine.execCplin d a s
  | .cp2d d a => Sys2Proof.Machine.execCp2d d a s
  | .cpten d a b => Sys2Proof.Machine.execCpten d a b s
  | .copyChunk p => Sys2Proof.Machine.execCopyChunk p s
  | .gather d a b => Sys2Proof.Machine.execGather d a b s
  | .scatter d a b => Sys2Proof.Machine.execScatter d a b s
  | .gatherElementIssue p => Sys2Proof.Machine.execGatherElementIssue p s
  | .gatherElementApply id => Sys2Proof.Machine.execGatherElementApply id s
  | .gatherComplete p => Sys2Proof.Machine.execGatherComplete p s
  | .eresume d a => Sys2Proof.Machine.execEresume d a s
  | .estat d a => Sys2Proof.Machine.execEstat d a s
  | .spload d a => Sys2Proof.Machine.execSpload d a s
  | .spseed d a => Sys2Proof.Machine.execSpseed d a s
  | .springServe q => Sys2Proof.Machine.execSpringServe q s
  | .budgetSafePoint p sl => Sys2Proof.Machine.execBudgetSafePoint p sl s
  | .forcedSafePoint p sl => Sys2Proof.Machine.execForcedSafePoint p sl s
  | .loadReturn id => Sys2Proof.Machine.execLoadReturn id s
  | .ackReturn id => Sys2Proof.Machine.execAckReturn id s
  | .errorReply id => Sys2Proof.Machine.execErrorReply id s
  | .pageFaultReply id => Sys2Proof.Machine.execPageFaultReply id s
  | .orderQueueRelease id => Sys2Proof.Machine.execOrderQueueRelease id s
  | .ownerApply id => Sys2Proof.Machine.execOwnerApply id s
  | .ringOpApply id => Sys2Proof.Machine.execRingOpApply id s
  | .ringReply id => Sys2Proof.Machine.execRingReply id s
  | .sendAcceptAck id => Sys2Proof.Machine.execSendAcceptAck id s
  | .multicastMemberAck id => Sys2Proof.Machine.execMulticastMemberAck id s
  | .barrierArrival id => Sys2Proof.Machine.execBarrierArrival id s
  | .balanceUpdate die => Sys2Proof.Machine.execBalanceUpdate die s
  | .weirInsert id => Sys2Proof.Machine.execWeirInsert id s
  | .arrivalAccept id => Sys2Proof.Machine.execArrivalAccept id s
  | .replyDelivery id => Sys2Proof.Machine.execReplyDelivery id s
  | .sheafArrival id => Sys2Proof.Machine.execSheafArrival id s
  | .sheafListReadback c lc => Sys2Proof.Machine.execSheafListReadback c lc s
  | .siloRefill c lc pr => Sys2Proof.Machine.execSiloRefill c lc pr s
  | .counterEvent p => Sys2Proof.Machine.execCounterEvent p s
  | .continuationWake c lc rec => Sys2Proof.Machine.execContinuationWake c lc rec s
  | .dispatch p => Sys2Proof.Machine.execDispatch p s
  | .recordDispatch die c => Sys2Proof.Machine.execRecordDispatch die c s
  | .tlbSliceLookup id => Sys2Proof.Machine.execTlbSliceLookup id s
  | .pageWalkRead id => Sys2Proof.Machine.execPageWalkRead id s
  | .pageFaultRewalk id => Sys2Proof.Machine.execPageFaultRewalk id s
  | .tlbRetry id => Sys2Proof.Machine.execTlbRetry id s
  | .tlbInvalidate die slice => Sys2Proof.Machine.execTlbInvalidate die slice s
  | .d2dFrameReceive link crcOk => Sys2Proof.Machine.execD2dFrameReceive link crcOk s
  | .linkHalfRate link => Sys2Proof.Machine.execLinkHalfRate link s
  | .druntasyFrameReceive port f => Sys2Proof.Machine.execDruntasyFrameReceive port f s
  | .heartbeatFrame port => Sys2Proof.Machine.execHeartbeatFrame port s
  | .portDown port => Sys2Proof.Machine.execPortDown port s
  | .remoteTableEntry id => Sys2Proof.Machine.execRemoteTableEntry id s
  | .rekey port => Sys2Proof.Machine.execRekey port s
  | .bankFcntLimit port => Sys2Proof.Machine.execBankFcntLimit port s
  | .getVersion port => Sys2Proof.Machine.execGetVersion port s
  | .getCapabilities port => Sys2Proof.Machine.execGetCapabilities port s
  | .negotiateAlgorithms port => Sys2Proof.Machine.execNegotiateAlgorithms port s
  | .getDigests port => Sys2Proof.Machine.execGetDigests port s
  | .getCertificate port => Sys2Proof.Machine.execGetCertificate port s
  | .keyExchange port => Sys2Proof.Machine.execKeyExchange port s
  | .finish port => Sys2Proof.Machine.execFinish port s
  | .keyUpdate port => Sys2Proof.Machine.execKeyUpdate port s
  | .heartbeat port => Sys2Proof.Machine.execHeartbeat port s
  | .endSession port => Sys2Proof.Machine.execEndSession port s
  | .bankReady port => Sys2Proof.Machine.execBankReady port s
  | .bankRetired port => Sys2Proof.Machine.execBankRetired port s
  | .launch cell => Sys2Proof.Machine.execLaunch cell s
  | .rebind cell => Sys2Proof.Machine.execRebind cell s
  | .preempt cell => Sys2Proof.Machine.execPreempt cell s
  | .restore cell => Sys2Proof.Machine.execRestore cell s
  | .mailboxEnd cell => Sys2Proof.Machine.execMailboxEnd cell s
  | .unmap cell => Sys2Proof.Machine.execUnmap cell s
  | .protect cell => Sys2Proof.Machine.execProtect cell s
  | .setdbg cell => Sys2Proof.Machine.execSetdbg cell s
  | .jconfig cell => Sys2Proof.Machine.execJconfig cell s
  | .roster cell => Sys2Proof.Machine.execRoster cell s
  | .partner cell answers => Sys2Proof.Machine.execPartner cell answers s
  | .lost cell => Sys2Proof.Machine.execLost cell s
  | .replay cell held => Sys2Proof.Machine.execReplay cell held s
  | .bfree cell => Sys2Proof.Machine.execBfree cell s
  | .jstat cell => Sys2Proof.Machine.execJstat cell s
  | .health cell => Sys2Proof.Machine.execHealth cell s
  | .verify cell => Sys2Proof.Machine.execVerify cell s
  | .geometry cell => Sys2Proof.Machine.execGeometry cell s
  | .stmt cell => Sys2Proof.Machine.execStmt cell s
  | .glean cell => Sys2Proof.Machine.execGlean cell s
  | .lmconfig cell => Sys2Proof.Machine.execLmconfig cell s
  | .lmread cell => Sys2Proof.Machine.execLmread cell s
  | .trconfig cell => Sys2Proof.Machine.execTrconfig cell s
  | .sheaflist cell => Sys2Proof.Machine.execSheaflist cell s
  | .cntread cell => Sys2Proof.Machine.execCntread cell s
  | .mailboxInvalidCode cell => Sys2Proof.Machine.execMailboxInvalidCode cell s
  | .mbdoneWrite v => Sys2Proof.Machine.execMbdoneWrite v s
  | .rxtailWrite c v => Sys2Proof.Machine.execRxtailWrite c v s
  | .registerWrite off bytes => Sys2Proof.Machine.execRegisterWrite off bytes s
  | .hostWindowRead off n => Sys2Proof.Machine.execHostWindowRead off n s
  | .hostWindowWrite off bytes => Sys2Proof.Machine.execHostWindowWrite off bytes s
  | .hostInject c cell bytes => Sys2Proof.Machine.execHostInject c cell bytes s
  | .hostBoundMessage id => Sys2Proof.Machine.execHostBoundMessage id s
  | .jrecHubApply id => Sys2Proof.Machine.execJrecHubApply id s
  | .emissionGate id => Sys2Proof.Machine.execEmissionGate id s
  | .barnEntryReceive slot e => Sys2Proof.Machine.execBarnEntryReceive slot e s
  | .barnAck c seq step marker => Sys2Proof.Machine.execBarnAck c seq step marker s
  | .dumpComplete c => Sys2Proof.Machine.execDumpComplete c s
  | .patrolScrub found => Sys2Proof.Machine.execPatrolScrub found s
  | .quadFail q => Sys2Proof.Machine.execQuadFail q s
  | .counterForward die => Sys2Proof.Machine.execCounterForward die s
  | .thermalThrottle die on => Sys2Proof.Machine.execThermalThrottle die on s
  | .thermalTrip => Sys2Proof.Machine.execThermalTrip s
  | .powerOn => Sys2Proof.Machine.execPowerOn s
  | .hotReset => Sys2Proof.Machine.execHotReset s
  | .functionLevelReset => Sys2Proof.Machine.execFunctionLevelReset s
  | .quadRouterForward id way => Sys2Proof.Machine.execQuadRouterForward id way s
  | .logicMatrixCycle die sample => Sys2Proof.Machine.execLogicMatrixCycle die sample s
  | .portDownFor24Hours port => Sys2Proof.Machine.execPortDownFor24Hours port s
  | .memoryPortFail die port => Sys2Proof.Machine.execMemoryPortFail die port s
  | .druntasyPortUp port => Sys2Proof.Machine.execDruntasyPortUp port s
  | .powerLoss => Sys2Proof.Machine.execPowerLoss s
  | .barnReadRequest client => Sys2Proof.Machine.execBarnReadRequest client s

end Sys2Proof.Machine
end

