-- ==== Sys2Proof/Machine/Issue.lean ====
section
/-! DEFINITION. Issue: fetching and decoding a slot's next word (03 R48, R52), when a slot is ready (01 R19,
Table 01-5), which slot issues, and the word's effect. -/

namespace Sys2Proof.Machine

open Sys2Proof

/-! Rows that share a word. -/

/-- Rows of the table that share a word are told apart by the register that selects the operation (05 R104, 06 R123,
R127). A value that selects none keeps the first row, which raises the fault. -/
def resolve (i : Inst) (x : Instr) : Instr :=
  match x with
  | .watchRegister d a b c h => if i.readG b = 1 then .watchCancel d a b c h else x
  | .wtakeFirst d a =>
    if i.readG a = 1 then .wtakeStatus d a else if i.readG a = 2 then .wtakeEmpty d a else x
  | .jtruncCheckpoint d a => if (i.readG a).toNat % 2 ^ 32 = 2 ^ 32 - 1 then .jtruncClose d a else x
  | _ => x

/-! Readiness. -/

/-- A word needs a result that is still to be written (Table 01-5: load wait and ring wait). -/
def Pend.blocks (e : Pend) (u : Uses) : Bool :=
  match e.dst with
  | .none => false
  | .g r => e.live && u.gr.contains r
  | .v r => e.live && u.vr.contains r
  | .d r => e.live && u.dr.contains r
  | .ring r q => (e.live && r != 0 && u.gr.contains r) || u.qr.contains q
  | .chunk => false

/-- A word meets an incomplete vector instruction (Table 01-5: vector hazard; 07 R132). -/
def VPend.blocks (e : VPend) (u : Uses) : Bool :=
  e.vw.any (fun w => u.vr.contains w.1 || u.vw.contains w.1)
    || (match e.kw with
        | some (k, _) => k != 0 && u.kr.contains k
        | none => false)
    || (match e.gw with
        | some (g, _) => e.glive && u.gr.contains g
        | none => false)

/-- Ranges of the scratchpad that a word reads as it issues (05 R92). -/
def readsAtIssue (i : Inst) : Instr → List (Nat × Nat)
  | .send _ _ b c _ _ | .reply _ b c _ => payloadRange i b c
  | .sendm _ a b c _ _ n => ((i.readG a).toNat, 8 * n.toNat) :: payloadRange i b c
  | .jrec _ a _ _ => [((i.readG a).toNat, 304)]
  | _ => []
where
  payloadRange (i : Inst) (b c : GReg) : List (Nat × Nat) :=
    let ctl := (i.readG c).toNat
    if bitsOf ctl 9 9 = 1 then [] else [((i.readG b).toNat, bitsOf ctl 8 0)]

/-- No earlier write of the instance to those bytes is still under way; nor any earlier read, when the word's effect may
write them too. -/
def Core.readsSettled (c : Core) (i : Inst) (wr : Bool) (l : List (Nat × Nat)) : Bool :=
  l.all (fun r => !c.ops.any (fun o => o.path == .ls && o.iid == i.iid && (wr || !o.rd)
    && o.span.any (fun a => a.1 == i.ctx && overlap a.2.1 a.2.2 r.1 r.2)))

/-- JREC: a replay overwrites the record that it reads (06 R125, 12 Table 12-3). -/
def overwrites : Instr → Bool
  | .jrec .. => true
  | _ => false

/-- Journal words follow one another at the hub. -/
def journal : Instr → Bool
  | .jrec .. | .jemit .. | .jckpt .. | .jtruncCheckpoint .. | .jtruncClose .. => true
  | _ => false

/-- Words that may park the slot: every result issued must have been written first (01 R17). -/
def State.mayPark (s : State) (i : Inst) : Instr → Bool
  | .qwait .. | .jemit .. => true
  | .tagpark _ n => (((s.lc i.ctx i.lcore).group n.toNat).lowestFree).isNone
  | _ => false

/-- XFENCE to AR or GS: the spring has accepted every earlier WBLOAD or GATHER of the core (05 R100). -/
def State.taken (s : State) (p : Nat) : Instr → Bool
  | .xfence _ p2 => !(s.quad (quadOf p)).springReqs.any (fun r => r.p == p && (match r.what, p2 with
    | .wbload _ _ _, .ar => true
    | .gather _, .gs => true
    | _, _ => false))
  | _ => true

/-- Conditions on the word that would issue. -/
def State.wordReady (s : State) (p : Nat) (i : Inst) (x : Instr) : Bool :=
  let u := uses x
  let c := s.core p
  !i.pend.any (fun e => e.blocks u)
    && !i.vpend.any (fun e => e.blocks u)
    && !(u.mem && i.acquireOn.any c.outstanding)
    && !(returning x && i.returningFull)
    && c.readsSettled i (overwrites x) (readsAtIssue i x)
    && s.taken p x
    && !(journal x && i.pend.any (fun e => i.hubOn.contains e.id))
    && !(s.mayPark i x && !i.settled)
    && (match x with
        | .cplin .. | .cp2d .. | .cpten .. => c.copyStop.isSome || decide (c.copyQ.length < 2)
        | .srd _ n => n != 0 || i.vpend.isEmpty
        | .sw1c .. => i.vpend.isEmpty
        | _ => true)

/-- A DRAIN of one memory still waits: an operation that it found on its path has not completed and is, or may be, into that
memory (05 R101). -/
def State.drains (s : State) (p : Nat) (i : Inst) : Bool :=
  i.drainInto.any (fun e => (s.core p).ops.any (fun o => o.id == e.1 && s.opInto (dieOf p) o e.2))

/-- A slot is ready (R19): it holds an instance and no case of Table 01-5 applies. -/
def State.ready (s : State) (p : Nat) (i : Inst) : Bool :=
  let c := s.core p
  (match i.stopped with
    | .halted _ => false
    | _ => true)
    && i.waitOn.isNone && i.pageWait.isEmpty && !i.edge && !i.budgetDue && !i.forcedDue
    && !i.fenceOn.any c.blocks && !i.drainOn.any c.outstanding && !s.drains p i
    && (match s.fetch i with
        | .ok x => s.wordReady p i x
        | _ => true)

/-- The slot that issues: the first ready one after the one that issued last (R19). -/
def State.selectSlot (s : State) (p : Nat) : Option Nat :=
  let c := s.core p
  ((List.range 8).map (fun k => (c.lastSlot + 1 + k) % 8)).find? (fun sl =>
    match c.inst? sl with
    | some i => s.ready p i
    | none => false)

/-- An instance whose word issues no longer waits. -/
def Inst.begun (i : Inst) (c : Core) : Inst := { i with
  fenceOn := []
  drainOn := []
  drainInto := []
  acquireOn := i.acquireOn.filter c.outstanding
  hubOn := i.hubOn.filter (fun h => i.pend.any (fun e => e.id = h)) }

/-- The issuing slot, with an instance that no longer waits. -/
def State.begin (s : State) (p sl : Nat) (i : Inst) : State :=
  let c := s.core p
  let s := (s.setCore p { c with lastSlot := sl }).signal 2 (quadOf p)
  { s.setInst p sl (some (i.begun c)) with curP := p, curS := sl }

/-- A word reads a register (03 Table 03-6). -/
def RegName.readBy (x : Instr) : RegName → Bool
  | .g r => (uses x).gr.contains r
  | .v r => (uses x).vr.contains r
  | .k r => (uses x).kr.contains r
  | .m r => match x with
    | .mfm _ n => n == r
    | _ => false
  | .d r => (uses x).dr.contains r

/-- A word writes a register whole, so that an error in it is gone. -/
def RegName.writtenBy (x : Instr) : RegName → Bool
  | .g r => (uses x).gw.contains r
  | .v r => (uses x).vw.contains r
  | .k r => (uses x).kw.contains r
  | .m _ => false
  | .d r => (uses x).dw.contains r

/-- The instance with the errors gone that its word writes over. -/
def Inst.rewritten (i : Inst) (x : Instr) : Inst := { i with bad := i.bad.filter (fun r => !RegName.writtenBy x r) }

/-- The word issues with its registers' errors: one that it reads raises uncorrectable-error (21 Table 21-4); one that it
only writes is gone. -/
def State.issueDecoded (s : State) (i : Inst) (x : Instr) : Out1 :=
  if i.bad.isEmpty then exec x s
  else if i.bad.any (RegName.readBy x) then s.onInst (fun i s => s.raise i fUncorr 0 1)
  else exec x (s.setCur (i.rewritten x))

/-- The word's effect: a fetch outside the handler, a word that a poisoned block does not return (log 48), one that does not
decode, or the instruction. -/
def State.issueWord (s : State) (i : Inst) : Out1 :=
  match s.fetch i with
  | .bounds => s.raise i fBounds i.pc.toNat 0
  | .poisoned b => s.raise i fUncorr (64 * b) (structureOf (64 * b))
  | .bad .illegal => s.onInst (fun i s => s.raise i fIllegal 0 (s.wordAt i))
  | .bad .reserved => s.onInst (fun i s => s.raise i fReserved 0 (s.wordAt i))
  | .ok x => s.issueDecoded i (resolve i x)

/-- One issue cycle of a core. With no ready slot, nothing issues. -/
def State.issueCore (s : State) (p : Nat) : Out1 :=
  match s.selectSlot p with
  | none => .next s
  | some sl =>
    match (s.core p).inst? sl with
    | none => .next s
    | some i => (s.begin p sl i).issueWord (i.begun (s.core p))

/-- One step of a unit or of the outside: a word is none. -/
def State.eventStep (s : State) (x : Instr) : Out1 := if x.isWord then .refused .notEvent else exec x s

/-- Steps that a module makes without power, and those of one that is not brought up or whose firmware does not run: its
resets, the loss of its power, and the training of its ports, step 3 of a bring-up (21 R359, R362). -/
def Power.allows : Power → Instr → Bool
  | .on, _ => true
  | .off, .powerOn => true
  | .booting, .hotReset | .booting, .functionLevelReset | .booting, .powerLoss | .booting, .thermalTrip
  | .booting, .druntasyPortUp _ => true
  | .noFunction, .hotReset | .noFunction, .functionLevelReset | .noFunction, .powerLoss
  | .noFunction, .thermalTrip => true
  | _, _ => false

/-- A move that the module's power lets it make. -/
def Power.allowsMove (p : Power) : Move → Bool
  | .event x => p.allows x
  | .bringUp _ _ => decide (p = .booting)
  | _ => decide (p = .on)

/-- A move is made. -/
def State.move (s : State) : Move → Out1
  | .event x => s.eventStep x
  | .issue p => s.issueCore p
  | .meet f => s.meet f
  | .copyBlock p => s.copyBlock p
  | .arrayStep q => s.arrayStep q
  | .loadBlock q e => s.loadBlock q e
  | .rowBlock p => s.rowBlock p
  | .dieDump c d => s.dieDump c d
  | .bar0Read off n => s.bar0Read off n
  | .bar2Read off n => s.bar2Read off n
  | .bar2Write off bytes => s.bar2Write off bytes
  | .bringUp signed failed => s.bringUp signed failed
  | .peerReset port => s.peerReset port

/-- Cycles pass: as the present one ends, every core accepts what it has made in it (10 R204). -/
def State.pass (s : State) (dt : Nat) : State := if dt = 0 then s else { s.endCycle with clock := s.clock + dt }

/-- One turn of the schedule: its cycles pass, and its move is made. -/
def State.turn (s : State) (t : Turn) : Out1 :=
  let s := s.pass t.dt
  if s.power.allowsMove t.what then s.move t.what else s.idle "no power, or no firmware that runs"

end Sys2Proof.Machine
end

