-- ==== Sys2Proof/Machine/Step.lean ====
section
/-! DEFINITION. One step of the machine: the next turn of its schedule. -/

namespace Sys2Proof.Machine

open Sys2Proof

/-- One step (log 1): the first turn of the agenda. With none, a cycle passes. -/
def step (s : State) : Host.Outcome State Fault Refusal :=
  match s.agenda with
  | [] => .next (s.pass 1)
  | t :: rest => { s with agenda := rest }.turn t

/-- The instance that withFetchWord places: context 0, whole footprint, one word at code address 16 (log 1). -/
def fetchInst : Inst := { Inst.fresh with
  iid := 1
  hdr := { HHdr.zero with gcnt := 64, vcnt := 32, dcnt := 16, glive := 64, vlive := 32, dlive := 16, len := 1 }
  hbase := 16
  pc := 16 }

/-- The state with an instruction word stored where the next step fetches it: core 0, slot 0 of context 0, which
stands RUNNING on that core, with nothing else in the schedule (log 1). -/
def State.withFetchWord (s : State) (_nbits w : Nat) : State :=
  let ctx : Ctx := { s.ctx 0 with st := .running, lcs := [(0, CtxCore.init 0)] }
  let s := { s with
    agenda := [⟨0, .issue 0⟩]
    mem := Memory.write s.mem 16 (leBytes 8 w)
    nextId := s.nextId + 1
    power := .on }
  (s.setCtx 0 ctx).setCore 0 { s.core 0 with slots := (Vector.replicate 8 none).set 0 (some fetchInst) }

end Sys2Proof.Machine
end

