-- ==== Sys2Proof/Safety.lean ====
section
/-! DEFINITION. What statements about runs are made of: completion, the invariants of a state, what a step keeps, and
what a word leaves as it was. -/

namespace Sys2Proof.Machine

open Sys2Proof

/-- Memory has its canonical form (log 4). -/
def State.memOk (s : State) : Prop := Memory.wf s.mem = true

/-- The instruction has its effect in this state: it neither faults the model nor is refused. -/
def Answers (x : Instr) (s : State) : Prop := ∃ t, exec x s = .next t

/-- A property that every step keeps. -/
def Kept (P : State → Prop) : Prop := ∀ s t, P s → step s = .next t → P t

/-! The issuing slot. -/

/-- The issuing slot holds this instance. -/
def State.Issuing (s : State) (i : Inst) : Prop := s.inst? s.curP s.curS = some i

/-- The issuing slot holds this instance, and every register that the word names lies within its footprint (01 R13). -/
def State.Issues (s : State) (i : Inst) (x : Instr) : Prop := s.Issuing i ∧ i.hdr.fits (uses x) = true

/-- The instance with the word counted among those since its last safe point (01 R17, R18). -/
def Inst.counted (i : Inst) : Inst := { i with
  sinceSafe := i.sinceSafe + 1
  sincePre := match i.stopped with
    | .pending => i.sincePre + 1
    | _ => i.sincePre }

/-- The state with the word counted: the issuing die's counter 0x110 of the context (22 Table 22-1), and the instance's. -/
def State.counted (s : State) (i : Inst) : State := (s.count (dieOf s.curP) i.ctx 0x110 1).setCur i.counted

/-- The state in which the issuing instance has become `j`, and nothing else has changed but the counts of the word. -/
def State.became (s : State) (i j : Inst) : State := (s.counted i).setCur j

/-- The state in which the instance's word has raised a fault (21 R344): the instance has ended and its record is
on its way. -/
def State.faulted (s : State) (i : Inst) (code addr det : Nat) : State :=
  (s.counted i).raiseAt s.curP s.curS i.counted code addr det

/-- A slot holds an instance that is ready to issue (01 R19). -/
def State.slotReady (s : State) (p sl : Nat) : Prop := ∃ i, s.inst? p sl = some i ∧ s.ready p i = true

/-- The instance waits for nothing, and nothing that it issued is outstanding. -/
structure Inst.Idle (i : Inst) : Prop where
  running : i.stopped = .no
  results : i.pend = [] ∧ i.vpend = []
  waits : i.waitOn = none ∧ i.pageWait = [] ∧ i.edge = false
  fences : i.fenceOn = [] ∧ i.drainOn = [] ∧ i.drainInto = [] ∧ i.acquireOn = []

/-! What a word leaves as it was. -/

/-- The instance's loop state register `r` names the issuing word as the last of its body (04 R74, R76). -/
def Inst.endsLoop (i : Inst) (r : GReg) : Bool :=
  (i.readG r).getLsbD 63 && decide (((i.readG r).extractLsb' 23 20).toNat = i.index i.pc)

/-- Every register but the g registers `gs`, and a loop state register whose body the word ends, keeps its value; so do
the flags and what the instance is. -/
structure Inst.Keeps (i j : Inst) (gs : List GReg) : Prop where
  g : ∀ r, r ∉ gs → ((r = 1 ∨ r = 2) → i.endsLoop r = false) → j.readG r = i.readG r
  v : j.v = i.v
  k : j.k = i.k
  m : j.m = i.m
  d : j.d = i.d
  q : j.q = i.q
  link : j.link = i.link
  flags : j.flags = i.flags
  status : j.status = i.status
  hdr : j.hdr = i.hdr
  hbase : j.hbase = i.hbase
  name : (j.iid, j.ctx, j.lcore, j.gen, j.hidx, j.tag) = (i.iid, i.ctx, i.lcore, i.gen, i.hidx, i.tag)

/-- Nothing outside the issuing slot has changed but the counts of issued words. -/
structure State.OnlySlot (s t : State) : Prop where
  mem : ∀ a, Memory.readByte t.mem a = Memory.readByte s.mem a
  poison : t.poison = s.poison
  flights : t.flights = s.flights
  ctxs : t.ctxs = s.ctxs
  quads : t.quads = s.quads
  hub : t.hub = s.hub
  ports : t.ports = s.ports
  links : t.links = s.links
  outbox : t.outbox = s.outbox
  clock : t.clock = s.clock
  power : t.power = s.power
  issuer : (t.curP, t.curS) = (s.curP, s.curS)
  cores : ∀ p, p ≠ s.curP → t.core p = s.core p
  core : { t.core s.curP with slots := (s.core s.curP).slots } = s.core s.curP
  slots : ∀ sl, sl ≠ s.curS → t.inst? s.curP sl = s.inst? s.curP sl

/-! Tables of the scalar instructions (04 Tables 04-1 and 04-2), in the spec's terms. -/

/-- SignExt(IMM32, 32), extended to 64 bits (04 R65). -/
def immWord (imm : BitVec 32) : Word := BitVec.ofInt 64 imm.toInt

/-- 1 for true, 0 for false. -/
def truth (b : Bool) : Word := if b then 1 else 0

/-- Instructions of two sources, with gD's value (R63, R64, R68, R69). -/
def scalarRows : List ((GReg → GReg → GReg → Instr) × (Word → Word → Word)) := [
  (.add, fun a b => BitVec.ofInt 64 (a.toInt + b.toInt)),
  (.sub, fun a b => BitVec.ofInt 64 (a.toInt - b.toInt)),
  (.mul, fun a b => BitVec.ofInt 64 (a.toInt * b.toInt)),
  (.mulh, fun a b => BitVec.ofInt 64 (a.toInt * b.toInt / 2 ^ 64)),
  (.mulhn, fun a b => BitVec.ofNat 64 (a.toNat * b.toNat / 2 ^ 64)),
  (.div, fun a b => if b = 0 then BitVec.ofInt 64 (-1) else BitVec.ofInt 64 (a.toInt.tdiv b.toInt)),
  (.divn, fun a b => if b = 0 then BitVec.ofInt 64 (-1) else BitVec.ofNat 64 (a.toNat / b.toNat)),
  (.rem, fun a b => if b = 0 then a else BitVec.ofInt 64 (a.toInt.tmod b.toInt)),
  (.remn, fun a b => if b = 0 then a else BitVec.ofNat 64 (a.toNat % b.toNat)),
  (.and, fun a b => a &&& b),
  (.or, fun a b => a ||| b),
  (.xor, fun a b => a ^^^ b),
  (.andn, fun a b => a &&& ~~~ b),
  (.sll, fun a b => BitVec.ofNat 64 (a.toNat * 2 ^ (b.toNat % 64))),
  (.srl, fun a b => BitVec.ofNat 64 (a.toNat / 2 ^ (b.toNat % 64))),
  (.sra, fun a b => BitVec.ofInt 64 (a.toInt / 2 ^ (b.toNat % 64))),
  (.rol, fun a b => a.rotateLeft (b.toNat % 64)),
  (.ror, fun a b => a.rotateRight (b.toNat % 64)),
  (.min, fun a b => BitVec.ofInt 64 (min a.toInt b.toInt)),
  (.max, fun a b => BitVec.ofInt 64 (max a.toInt b.toInt)),
  (.minn, fun a b => BitVec.ofNat 64 (min a.toNat b.toNat)),
  (.maxn, fun a b => BitVec.ofNat 64 (max a.toNat b.toNat)),
  (.cmpeq, fun a b => truth (a == b)),
  (.cmpne, fun a b => truth (a != b)),
  (.cmplt, fun a b => truth (a.slt b)),
  (.cmple, fun a b => truth (a.sle b)),
  (.cmpltn, fun a b => truth (a.ult b)),
  (.cmplen, fun a b => truth (a.ule b)),
  (.crcc8, fun a b => crcVal a b 1),
  (.crcc16, fun a b => crcVal a b 2),
  (.crcc32, fun a b => crcVal a b 4),
  (.crcc64, fun a b => crcVal a b 8),
  (.rng, rngVal)]

/-- Instructions of one source and an immediate, with gD's value (R65). -/
def immRows : List ((GReg → GReg → BitVec 32 → Instr) × (Word → Word → Word)) := [
  (.addi, fun a m => BitVec.ofInt 64 (a.toInt + m.toInt)),
  (.andi, fun a m => a &&& m),
  (.ori, fun a m => a ||| m),
  (.xori, fun a m => a ^^^ m),
  (.muli, fun a m => BitVec.ofInt 64 (a.toInt * m.toInt)),
  (.cmpeqi, fun a m => truth (a == m)),
  (.cmplti, fun a m => truth (a.slt m)),
  (.cmpltni, fun a m => truth (a.ult m)),
  (.mini, fun a m => BitVec.ofInt 64 (min a.toInt m.toInt)),
  (.maxi, fun a m => BitVec.ofInt 64 (max a.toInt m.toInt))]

/-- Shifts by an immediate (R65). -/
def shiftRows : List ((GReg → GReg → BitVec 6 → Instr) × (Word → Nat → Word)) := [
  (.slli, fun a n => BitVec.ofNat 64 (a.toNat * 2 ^ n)),
  (.srli, fun a n => BitVec.ofNat 64 (a.toNat / 2 ^ n)),
  (.srai, fun a n => BitVec.ofInt 64 (a.toInt / 2 ^ n))]

/-- The scalar words that write gD as they issue and nothing else (04). -/
def plainScalar : Instr → Bool
  | .add .. | .sub .. | .mul .. | .mulh .. | .mulhn .. | .div .. | .divn .. | .rem .. | .remn .. | .and .. | .or ..
  | .xor .. | .andn .. | .sll .. | .srl .. | .sra .. | .rol .. | .ror .. | .min .. | .max .. | .minn .. | .maxn ..
  | .cmpeq .. | .cmpne .. | .cmplt .. | .cmple .. | .cmpltn .. | .cmplen .. | .sel .. | .clz .. | .ctz .. | .popc ..
  | .brev .. | .bswap .. | .bext .. | .bextz .. | .bins .. | .crcc8 .. | .crcc16 .. | .crcc32 .. | .crcc64 ..
  | .rng .. | .rngf .. | .addi .. | .andi .. | .ori .. | .xori .. | .slli .. | .srli .. | .srai .. | .muli ..
  | .cmpeqi .. | .cmplti .. | .cmpltni .. | .mini .. | .maxi .. | .li .. | .lih .. | .mfm .. | .mfl .. | .mfq ..
  | .la .. | .idx .. => true
  | _ => false

/-- The conditions of Table 03-7, of BR and of the branches with two sources. -/
def branchRows : List ((GReg → GReg → BitVec 32 → Instr) × (Word → Word → Bool)) := [
  (fun _ _ imm => .br imm, fun _ _ => true),
  (.beq, fun a b => a == b), (.bne, fun a b => a != b), (.blt, fun a b => a.slt b), (.bge, fun a b => b.sle a),
  (.bltn, fun a b => a.ult b), (.bgen, fun a b => b.ule a)]

/-! Memory words (05). -/

/-- The loads, with their width in bytes and the width of their sign extension (R93). -/
def loadRows : List ((GReg → GReg → Option Scope → BitVec 32 → Instr) × Nat × Option Nat) := [
  (.ld8, 1, some 8), (.ld16, 2, some 16), (.ld32, 4, some 32), (.ld64, 8, some 64),
  (.ldz8, 1, none), (.ldz16, 2, none), (.ldz32, 4, none)]

/-- The stores of a g register, with their width in bytes (R93). -/
def storeRows : List ((GReg → GReg → Option Scope → BitVec 32 → Instr) × Nat) := [
  (.st8, 1), (.st16, 2), (.st32, 4), (.st64, 8)]

/-- The atomics of two widths, with their operation (Table 05-3). -/
def atomicRows : List ((GReg → GReg → GReg → Bool → Option Scope → BitVec 32 → Instr) × MemOp) := [
  (.aadd, .aadd), (.amin, .amin), (.amax, .amax), (.aminn, .aminn), (.amaxn, .amaxn), (.aand, .aand), (.aor, .aor),
  (.axor, .axor), (.aswap, .aswap), (.acas, .acas), (.aclaim, .aclaim)]

/-- The forms that a replay-safe context takes: no result, and an operation whose order does not show; or ACLAIM
(Table 05-4). -/
def replaySafe (op : MemOp) (d : GReg) : Bool :=
  match op with
  | .aclaim => true
  | .aswap | .acas | .afadd => false
  | _ => d == 0

/-- Base register, offset and width of a word that accesses memory at gA + SignExt(IMM32, 32) (R87). -/
def accessOf : Instr → Option (GReg × BitVec 32 × Nat)
  | .ld8 _ a _ imm | .ldz8 _ a _ imm | .st8 a _ _ imm => some (a, imm, 1)
  | .ld16 _ a _ imm | .ldz16 _ a _ imm | .st16 a _ _ imm => some (a, imm, 2)
  | .ld32 _ a _ imm | .ldz32 _ a _ imm | .st32 a _ _ imm => some (a, imm, 4)
  | .ld64 _ a _ imm | .st64 a _ _ imm => some (a, imm, 8)
  | .vld _ a _ imm | .vst a _ _ imm => some (a, imm, 64)
  | .dld _ a _ imm => some (a, imm, 32)
  | .get _ a _ size imm | .put _ a _ size _ imm => some (a, imm, sizeBytes size)
  | .aadd _ a _ w _ imm | .amin _ a _ w _ imm | .amax _ a _ w _ imm | .aminn _ a _ w _ imm | .amaxn _ a _ w _ imm
  | .aand _ a _ w _ imm | .aor _ a _ w _ imm | .axor _ a _ w _ imm | .aswap _ a _ w _ imm | .acas _ a _ w _ imm
  | .aclaim _ a _ w _ imm => some (a, imm, if w then 8 else 4)
  | .afadd _ a _ _ imm => some (a, imm, 4)
  | .watchRegister _ a _ _ _ | .watchCancel _ a _ _ _ => some (a, 0, 8)
  | _ => none

/-- A word whose request has left the core: one flight more, which carries a request of the instance, its operation
noted, the slot's instance become `j`, and every byte of memory, every context and every queue as it was. -/
structure State.Sent (s t : State) (i j : Inst) (q : MemReq) : Prop where
  flight : ∃ f, t.flights = s.flights ++ [f] ∧ f.id = s.nextId ∧ f.body = .req q ∧ f.who.iid = i.iid
  op : ∃ o ∈ (t.core s.curP).ops, o.id = s.nextId ∧ o.iid = i.iid ∧ o.path = .ls
  slot : t.Issuing j
  mem : ∀ a, Memory.readByte t.mem a = Memory.readByte s.mem a
  ctxs : t.ctxs = s.ctxs
  slots : ∀ p sl, (p, sl) ≠ (s.curP, s.curS) → t.inst? p sl = s.inst? p sl

/-- A word that has put one thing on its way, of body `b`: one flight more, the slot's instance become `j`, every other
slot, every byte of memory and every context as it was. -/
structure State.Launched (s t : State) (i j : Inst) (b : Body) : Prop where
  flight : ∃ f, t.flights = s.flights ++ [f] ∧ f.body = b ∧ f.who.iid = i.iid
  slot : t.Issuing j
  mem : ∀ a, Memory.readByte t.mem a = Memory.readByte s.mem a
  ctxs : t.ctxs = s.ctxs
  slots : ∀ p sl, (p, sl) ≠ (s.curP, s.curS) → t.inst? p sl = s.inst? p sl

/-- A message's destination can be reached: another chip, the host, or a core of the context (06 R108, 18 R314). -/
def State.reaches (s : State) (c chip core : Nat) : Prop :=
  chip ≠ (s.ctx c).desc.rank ∨ core = 1023 ∨ ((s.ctx c).lcs.get? core).isSome = true

/-- The header that a send-type word fills from its route word, its control word and the instance (06 R107 to R109). -/
structure HdrFilled (h : Hdr) (s : State) (i : Inst) (route ctl kind hidx : Nat) : Prop where
  dchip : h.dchip.toNat = bitsOf route 63 48
  dcore : h.dcore.toNat = bitsOf route 47 38
  kind : h.kind.toNat = kind
  hidx : h.hidx.toNat = hidx
  tag : h.tag.toNat = bitsOf route 15 0
  gen : h.gen = BitVec.ofNat 2 (s.ctx i.ctx).gen
  schip : h.schip = BitVec.ofNat 16 (s.ctx i.ctx).desc.rank
  score : h.score = BitVec.ofNat 10 i.lcore
  ctx : h.ctx = BitVec.ofNat 5 i.ctx
  jslot : h.jslot.toNat = bitsOf ctl 17 15
  chan : h.chan.toNat = bitsOf ctl 14 10
  plen : h.plen.toNat = bitsOf ctl 8 0

/-- No watch entry names a byte of the range, and no request waits for a page-table word in it (05 R104, 17 R298). -/
def State.Unwatched (s : State) (pa n : Nat) : Prop :=
  (∀ e ∈ s.cores, ∀ m ∈ e.2.mons, m.hit pa n = false)
    ∧ (∀ e ∈ s.ctxs, (∀ v, e.2.saved = some v → ∀ m ∈ v.mons, m.2.hit pa n = false)
      ∧ ∀ w ∈ e.2.watchers, overlap pa n w.pa 8 = false)
    ∧ ∀ f ∈ s.flights, ∀ w b, f.stage = .sliceHeld w b → overlap pa n w 8 = false

/-- The payload reads, with their width (06 R115). -/
def payloadRows : List ((GReg → GReg → BitVec 32 → Instr) × Nat) := [
  (.msgld8, 1), (.msgld16, 2), (.msgld32, 4), (.msgld64, 8)]

/-- A continuation record of the instance, parked for `w` with destination `d` (10 Table 10-6): its live set, as after
the word that parked it. -/
def Cont.Parks (k : Cont) (i : Inst) (w : ParkWait) (d : GReg) : Prop :=
  k.inst.iid = i.iid ∧ k.inst.pc = (i.parkAt d).pc ∧ k.wait = w ∧ k.dst = d ∧ k.value = none
    ∧ ∀ r : GReg, r ≠ 1 → r ≠ 2 → k.inst.readG r = if r.toNat < i.hdr.glive then i.readG r else 0

/-! Vector words (07). -/

/-- Lane `j` is active under the mask operand (R129, R130). -/
def Inst.laneOn (i : Inst) (m : VMask) (j : Nat) : Bool := (i.readK m.reg).getLsbD j != m.mi

/-- Element `k` is active: the lane of its lowest bit is (R129). -/
def Inst.elemOn (i : Inst) (m : VMask) (f : Fmt) (k : Nat) : Bool := i.laneOn m (elemPos f k / 32)

/-- The state in which a vector word has issued and holds `e` until it completes (R132). -/
def State.holds (s : State) (i : Inst) (e : VPend) : State := s.became i (i.counted.hold e).advance

/-- A vector word's result is register `d` with value `v`, and the flags `fl`. -/
def VPend.Is (e : VPend) (d : VReg) (v : VWord) (fl : Flags) : Prop :=
  e.vw = [(d, v)] ∧ e.kw = none ∧ e.gw = none ∧ e.flags = fl

/-- Element by element: an active one is `fn` of its number, any other keeps what `old` holds, and the flags are those
of the active ones. -/
structure Elementwise (i : Inst) (m : VMask) (f : Fmt) (old v : VWord) (fn : Nat → Nat × Flags) (fl : Flags) : Prop where
  active : ∀ k < elemCount f, i.elemOn m f k = true → readElem f v.toNat k = (fn k).1 % 2 ^ fmtWidth f
  other : ∀ k < elemCount f, i.elemOn m f k = false → readElem f v.toNat k = readElem f old.toNat k
  flags : fl = ((List.range (elemCount f)).filter (i.elemOn m f)).foldl (fun acc k => acc.or (fn k).2) {}

/-- The arithmetic of OPC 0x80 with its operation (R133, R134). -/
def vectorRows : List ((VReg → VReg → VReg → VMask → Fmt → Rnd → Instr) × VOp) := [
  (.vadd, .add), (.vsub, .sub), (.vmul, .mul), (.vdiv, .div), (.vmin, .min), (.vmax, .max),
  (fun d a _ => .vabs d a, .abs), (fun d a _ => .vneg d a, .neg), (fun d a _ => .vsqrt d a, .sqrt)]

/-- The fused operations: the signs of the product and of the addend (R136). -/
def fusedRows : List ((VReg → VReg → VReg → VReg → VMask → Fmt → Rnd → Instr) × Bool × Bool) := [
  (.vfma, false, false), (.vfms, false, true), (.vfnma, true, true), (.vfnms, true, false)]

/-- The lane shifts, on the element's value (R135). -/
def vectorShiftRows : List ((VReg → VReg → VReg → VMask → Fmt → Instr) × (Fmt → Nat → Nat → Nat)) := [
  (.vsll, fun f a n => if fmtWidth f ≤ n then 0 else a * 2 ^ n),
  (.vsrl, fun f a n => if fmtWidth f ≤ n then 0 else a / 2 ^ n),
  (.vsra, fun f a n => wrapCode (fmtWidth f) (intOf f a / 2 ^ (min n (fmtWidth f))))]

/-- The bitwise words (R135). -/
def vectorLogicRows : List ((VReg → VReg → VReg → VMask → Instr) × (Bool → Bool → Bool)) := [
  (.vand, and), (.vor, or), (.vxor, xor)]

/-- The compares (R137). -/
def vectorCompareRows : List ((KReg → VReg → VReg → VMask → Fmt → RMode → Instr) × VCmp) := [
  (.vcmpeq, .eq), (.vcmpne, .ne), (.vcmplt, .lt), (.vcmple, .le), (.vcmpun, .un)]

/-- The shuffles, with element `k` of the result from the elements of vA, vB, gA and vC (R139). -/
def shuffleRows (f : Fmt) (a b c : VReg) (g : GReg) (i : Inst) :
    List ((VReg → VMask → RMode → Instr) × (Nat → Nat)) := [
  (fun d m md => .vperm d a b m f md, fun k => readElem f (i.vNat a) (readElem f (i.vNat b) k % elemCount f)),
  (fun d m md => .vbcast d g m f md, fun _ => (i.readG g).toNat % 2 ^ fmtWidth f),
  (fun d m md => .vslide d a b c m f md, fun k =>
    let t := k + i.vNat c % 1024
    if t < elemCount f then readElem f (i.vNat a) t
    else if t < 2 * elemCount f then readElem f (i.vNat b) (t - elemCount f) else 0),
  (fun d m md => .vzip d a b m f md, fun k =>
    if k % 2 = 0 then readElem f (i.vNat a) (k / 2) else readElem f (i.vNat b) (k / 2)),
  (fun d m md => .vunzip d a b m f md, fun k =>
    if 2 * k < elemCount f then readElem f (i.vNat a) (2 * k) else readElem f (i.vNat b) (2 * k - elemCount f))]

/-- The reductions and the scans, with their operation (R146, R147). -/
def reduceRows : List ((VReg → VReg → VMask → Fmt → Rnd → Instr) × VRed) := [
  (.vredadd, .add), (.vredmin, .min), (.vredmax, .max)]
def scanRows : List ((VReg → VReg → VMask → Fmt → Rnd → Instr) × VRed) := [
  (.vscanadd, .add), (.vscanmin, .min), (.vscanmax, .max)]

/-- The transcendentals (R148). -/
def transRows : List ((VReg → VReg → VMask → Fmt → Bool → Instr) × Trans9) := [
  (.vexp2, .exp2), (.vlog2, .log2), (.vrcp, .rcp), (.vrsqrt, .rsqrt), (.vsin, .sin), (.vcos, .cos), (.vtanh, .tanh),
  (.vsigm, .sigm), (.vexp, .exp)]

/-- The pairwise tree (02 R38) over `2 ^ n` elements: at each level, element i with element i + half. -/
def pairTree (op : VRed) (f : Fmt) (r : Rnd) : Nat → (Nat → Option (Nat × Flags)) → Option (Nat × Flags)
  | 0, e => e 0
  | n + 1, e => pairTree op f r n (fun k => combineOpt op f r (e k) (e (k + 2 ^ n)))

/-- The running value after the first `n` elements: before the first active one, the absent-root value (02 R39, 07
R147). -/
def runningValue (op : VRed) (f : Fmt) (r : Rnd) (e : Nat → Option (Nat × Flags)) : Nat → Nat × Flags
  | 0 => (absentRoot op f, {})
  | n + 1 =>
    match e n with
    | none => runningValue op f r e n
    | some (x, fl) =>
      let (y, g) := combine op f r (runningValue op f r e n).1 x
      (y, ((runningValue op f r e n).2.or fl).or g)

/-- Element `k` of vA, absent when it is not active. -/
def Inst.present (i : Inst) (m : VMask) (f : Fmt) (a : VReg) (k : Nat) : Option (Nat × Flags) :=
  if i.elemOn m f k then some (readElem f (i.vNat a) k, {}) else none

/-! Engines (08, 09). -/

/-- The instance after a word whose gD an engine answers with `v` under the number `n`. -/
def Inst.answered (i : Inst) (n : Nat) (d : GReg) (v : Word) : Inst :=
  (i.counted.await n (gDest d) false (some v)).advance

/-- The state after a word that an engine answers at once and that changes nothing else. -/
def State.answered (s : State) (i : Inst) (d : GReg) (v : Word) : State :=
  ({ s.counted i with nextId := s.nextId + 1 }).setCur (i.answered s.nextId d v)

/-- The OPA words, with the operation that their descriptor must name (08 R162). -/
def opaRows : List ((GReg → XReg → Instr) × Nat) := [
  (.opaMma, 0), (.opaSel, 1), (.opaSparse, 2), (.opaZero, 3), (.opaDrain, 4)]

/-- The words of one descriptor, with the check of it at issue. -/
def descRows : List ((GReg → XReg → Instr) × (Inst → State → Nat → Bool)) := [
  (.wbload, wbloadOk), (.wbpin, wbEntryOk false), (.wbunpin, wbEntryOk false), (.wbevict, wbEntryOk true),
  (.cplin, copyOk true), (.cp2d, copyOk false), (.eresume, eresumeOk), (.estat, estatOk), (.spload, sploadOk),
  (.spseed, spseedOk)]

/-- The array's command has completed: the array is idle, NEXT of the set has moved on, and the core that gave the command has
one less in what ESTAT counts (08 R167, R180). -/
structure State.ArrayDone (t s : State) (q : Nat) (r : ARun) : Prop where
  idle : (t.quad q).running = none
  next : t.next q (tSet r.cmd.desc.toNat) = (tChn r.cmd.desc.toNat + 1) % 256
  queue : (t.quad q).arrayQ = (s.quad q).arrayQ
  pending : ∀ p, (t.quad q).pendingOf p + (if r.cmd.origin = 0 ∧ r.cmd.who.p = p then 1 else 0) = (s.quad q).pendingOf p

/-! Mailbox commands (16 R276, 18 R306). -/

/-- The command of a mailbox cell: phase 1 once its doorbell has started it, 2 once its first step has been taken. A command on
a context names one of the 32, and begins on one that is RUNNING or SAVED while no other cell's command on it is under way
(16 R276, log 49). -/
structure State.Commanded (s : State) (cell code phase : Nat) : Prop where
  valid : cell ≤ 3
  atPhase : Tab.get 0 s.hub.busy cell = phase
  named : s.hub.cmdCode cell = code
  onCtx : contextCode code = true → s.hub.cmdCtx cell < 32
  alone : phase = 1 → contextCode code = true → (s.ctx (s.hub.cmdCtx cell)).settledState = true →
    s.hub.busyOn cell (s.hub.cmdCtx cell) = false

/-- The command of a cell has returned a result word: it stands in RESULT, the cell is free, its bit of MBDONE is set, and
vector 0 is the last thing signalled, or stays pending while it is masked. -/
structure State.Resulted (t : State) (cell result : Nat) : Prop where
  word : ofLe (sliceBytes (t.hub.cell cell) 56 8) = result % 2 ^ 64
  free : Tab.get 0 t.hub.busy cell = 0
  done : t.hub.mbdone.testBit cell = true
  vector : (t.hub.masked 0 = false ∧ t.outbox.getLast? = some (.msix 0)) ∨ (t.hub.masked 0 = true ∧ t.hub.pba.testBit 0 = true)

/-! Arrivals (10). -/

/-- An entry of a priority enters its queue: the context runs, the queue has an entry free, and none stands before it in the
silo (10 R207 to R211). -/
structure State.Room (s : State) (c lc pr : Nat) : Prop where
  runs : (s.ctx c).paused = false
  free : ((s.lc c lc).queue pr).length + Tab.get 0 (s.lc c lc).held pr < (s.lc c lc).depth pr
  list : (s.lc c lc).siloOf pr = []
  reserve : (s.lc c lc).reserve = []

/-- Every byte but those of a range and of the silo's control block keeps its value. -/
def State.keepsBut (s t : State) (c lc pa n : Nat) : Prop :=
  ∀ b, ¬ (pa ≤ b ∧ b < pa + n) → ¬ (s.siloAt c lc ≤ b ∧ b < s.siloAt c lc + 4096) →
    Memory.readByte t.mem b = Memory.readByte s.mem b

/-! Journal (06 R125 to R127, 20 R334). -/

/-- The hub has answered a request: the answer stands at the bridge that the request came by, on its way to the issuing core;
memory and the slots are as they were. -/
structure State.HubSays (t s : State) (f : Flight) (a : HubAns) : Prop where
  answer : ∃ g ∈ t.flights, g.body = .hubRep a ∧ g.who = f.who ∧ g.opId = f.id
    ∧ g.goal = .core (s.lc f.who.ctx f.who.lcore).pos ∧ g.stage = .router f.dx f.dy false
  mem : t.mem = s.mem
  slots : ∀ p sl, t.inst? p sl = s.inst? p sl

/-- JBUF without the entries of a sequence. -/
def withoutSeq (l : List (BarnEntry × Bool)) (c : Nat) (q : BitVec 32) : List (BarnEntry × Bool) :=
  l.filter (fun e => !(e.1.ctx = c && e.1.seq = q))

/-! Rings (06 R121). -/

/-- No parked consumer is due at a ring with these cursors. -/
def State.noWake (s : State) (c pa : Nat) (word head tail : Word) : Prop :=
  ∀ w, s.waiterAt c pa word = some w → (head.toNat : Int) - tail.toNat < w.need

/-- A parked consumer has been dispatched: WAITER is clear, it waits no longer, and its core is told the fill and the cursor. -/
structure State.Woken (t : State) (c pa : Nat) (w : Waiter) (head tail : Word) : Prop where
  clear : t.readLe (pa + 32) 8 = 0
  gone : w ∉ (t.ctx c).waiters
  told : ∃ g ∈ t.flights, g.body = .ringWake w.lcore w.recNo (wrap64 ((head.toNat : Int) - tail.toNat)) (tail.toNat % 16384)

/-! Fault records. -/

/-- A fault record in the state: on its way, or kept in the context's dump index (21 R345, R350). -/
def State.carries (t : State) (c : Nat) (m : Msg) : Prop :=
  (∃ f ∈ t.flights, ∃ k, f.body = .msg m k) ∨ m ∈ (t.ctx c).records

/-- Word `n` of a record's payload. -/
def recordWord (m : Msg) (n : Nat) : Nat := ofLe (sliceBytes m.payload (8 * n) 8)

end Sys2Proof.Machine
end

