-- ==== Sys2Proof/Certificates/Slice0/Obligations.lean ====
section
/-! DEFINITION. The statements for the provers. -/

open Sys2Proof Sys2Proof.Machine

/-! Encodings. -/

/-- Every well-formed instruction that has a word decodes from it, but for rows that share a word, which decode to
the first of them (03 R44 to R48). -/
def Obligations.DecodeReadsWhatEncodeWrites : Prop :=
  ∀ (x : Instr) (w : Word), x.wellFormed = true → encode x = some w → decode w = .ok (canon x)

/-- A word that decodes is the one word of its instruction, and that instruction is well formed: no two words mean one
instruction, and no field of a word is dropped (03 R47, R48). -/
def Obligations.DecodedWordIsItsEncoding : Prop :=
  ∀ (w : Word) (x : Instr), decode w = .ok x → x.wellFormed = true ∧ x.isWord = true ∧ encode x = some w

/-- Words that the spec's tables write out decode to the instructions the tables name, and the words that they give as
illegal or reserved are refused as such (03 Table 03-13, Table 03-14, 04 Table 04-7, 05 Table 05-8, 06 R127, 07 Table 07-7,
08 Table 08-12, 09 Table 09-11). -/
def Obligations.SpecWordsDecode : Prop :=
  decode 0x08145000FFFFFFFF = .ok (.addi 5 5 0xFFFFFFFF) ∧ decode 0x0018108017000000 = .ok (.subs 6 1 2)
  ∧ decode 0x041C2000000000C8 = .ok (.bextz 7 2 8 3) ∧ decode 0x30083000FFFFFFFD = .ok (.bne 3 0 0xFFFFFFFD)
  ∧ decode 0x3200000001000000 = .ok .ret ∧ decode 0xE000900000000002 = .ok (.sw1c 0 9)
  ∧ decode 0x420040D800000010 = .ok (.st64 4 3 none 16) ∧ decode 0x420061D600000100 = .ok (.st32 6 7 (some .sys) 0x100)
  ∧ decode 0x5320929000000000 = .ok (.aclaim 8 9 10 false none 0)
  ∧ decode 0x550020C400564000 = .ok (.barrive 2 3 4 5 .die 2)
  ∧ decode 0x6010100300100000 = .ok (.send 4 1 0 3 1 false) ∧ decode 0x610040C500000000 = .ok (.reply 4 3 5 false)
  ∧ decode 0x801461C000210000 = .ok (.vadd 5 6 7 ⟨2, false⟩ .bf16 ⟨.rne, false⟩)
  ∧ decode 0x820420C002000000 = .ok (.vcmplt 1 2 3 ⟨0, false⟩ .f32 .rne)
  ∧ decode 0xC10C200000000000 = .ok (.opaMma 3 2) ∧ decode 0xC60C400001000000 = .ok (.spseed 3 4)
  ∧ decode 0x0000000040000000 = .error .illegal ∧ decode 0x000C108000000001 = .error .reserved
  ∧ decode 0x801461C000230000 = .error .illegal ∧ decode 0xC008402000000020 = .error .reserved

/-! Steps. -/

/-- Each step keeps memory in its canonical form. -/
def Obligations.StepKeepsMemoryCanonical : Prop := Kept State.memOk

/-- An issue cycle, after the cycles before it have passed, does with the selected slot's next word what the first of these says
that applies (01 R13, R19; 03 R48, R52): a pc outside the handler's words raises the instruction-bounds fault; a word in a poisoned
block the uncorrectable-error fault (the model's choice: log 48); a word that does not decode the illegal-instruction or the
reserved-field fault; any other word is its instruction's meaning, on the state in which the slot issues, and one that names a
register beyond the footprint raises the register-footprint fault. When a register that the word reads holds an uncorrectable error,
it is that fault and the slot is free; an error in another register stays, unless the word writes the register (21 R352, Table
21-4). -/
def Obligations.StepRunsDecodedWord : Prop :=
  (∀ (s u : State) (dt p sl : Nat) (rest : List Turn) (i : Inst),
    s.agenda = ⟨dt, .issue p⟩ :: rest → u = ({ s with agenda := rest }).pass dt → u.power = .on →
    u.selectSlot p = some sl → u.inst? p sl = some i →
    (i.inBounds i.pc = false →
      step s = .next ((u.begin p sl i).raiseAt p sl (i.begun (u.core p)) fBounds i.pc.toNat 0))
    ∧ (∀ b, i.inBounds i.pc = true → u.poisonAt i.pc.toNat 8 = some b →
      step s = .next ((u.begin p sl i).raiseAt p sl (i.begun (u.core p)) fUncorr (64 * b) (structureOf (64 * b))))
    ∧ (∀ e, i.inBounds i.pc = true → u.poisonAt i.pc.toNat 8 = none → decode (word64 (u.readLe i.pc.toNat 8)) = .error e →
      step s = .next ((u.begin p sl i).faulted (i.begun (u.core p)) (if e = .illegal then fIllegal else fReserved) 0
        (u.readLe i.pc.toNat 8)))
    ∧ (∀ x, i.inBounds i.pc = true → u.poisonAt i.pc.toNat 8 = none → decode (word64 (u.readLe i.pc.toNat 8)) = .ok x →
      (i.bad = [] → step s = exec (resolve i x) (u.begin p sl i))
      ∧ ((∃ r ∈ i.bad, RegName.readBy (resolve i x) r = true) →
        ∃ t, step s = .next t ∧ t.inst? p sl = none ∧ t.mem = u.mem)
      ∧ (i.bad ≠ [] → (∀ r ∈ i.bad, RegName.readBy (resolve i x) r = false) →
        step s = exec (resolve i x) ((u.begin p sl i).setCur ((i.begun (u.core p)).rewritten (resolve i x))))))
  ∧ (∀ (s : State) (i : Inst) (x : Instr), x.isWord = true → s.Issuing i → i.hdr.fits (uses x) = false →
    exec x s = .next (s.faulted i fFootprint 0 (s.wordAt i)))

/-- A turn of a unit or of the outside is that step's meaning, after the cycles before it have passed, and any other move is made
as it stands; an empty schedule lets a cycle pass. Without power nothing but power-on moves; after a reset nothing but its bring-up,
the training of ports that is a step of it, another reset and the loss of power (21 R359, R362). That the order of moves stands in
the state, and that a cycle passes with none, is the model's choice (log 1); so is that the outcome of a bring-up's checks is data of
its move (log 12). -/
def Obligations.StepRunsEvents : Prop :=
  (∀ (s u : State) (dt : Nat) (rest : List Turn) (x : Instr),
    s.agenda = ⟨dt, .event x⟩ :: rest → u = ({ s with agenda := rest }).pass dt → x.isWord = false →
    (u.power = .on ∨ (u.power = .off ∧ x = .powerOn) ∨ (u.power = .booting ∧ ∃ port, x = .druntasyPortUp port)
      ∨ ((u.power = .booting ∨ u.power = .noFunction)
        ∧ (x = .hotReset ∨ x = .functionLevelReset ∨ x = .powerLoss ∨ x = .thermalTrip))) →
    step s = exec x u)
  ∧ (∀ (s u : State) (dt : Nat) (rest : List Turn) (m : Move),
    s.agenda = ⟨dt, m⟩ :: rest → u = ({ s with agenda := rest }).pass dt → u.power = .on → step s = u.move m)
  ∧ (∀ s : State, s.agenda = [] → step s = .next (s.pass 1))
  ∧ (∀ (s : State) (dt : Nat), s.pass 0 = s ∧ (s.pass dt).clock = s.clock + dt)
  ∧ (∀ (s u : State) (dt : Nat) (rest : List Turn) (m : Move),
    s.agenda = ⟨dt, m⟩ :: rest → u = ({ s with agenda := rest }).pass dt → u.power = .off → m ≠ .event .powerOn →
    step s = .next u)
  ∧ (∀ (s u : State) (dt : Nat) (rest : List Turn) (signed : Bool) (failed : List Nat),
    s.agenda = ⟨dt, .bringUp signed failed⟩ :: rest → u = ({ s with agenda := rest }).pass dt → u.power = .booting →
      ∃ t, step s = .next t ∧ t.mem = u.mem ∧ t.power = if signed then .on else .noFunction)

/-- Right after reset memory has its canonical form, no message or access is under way, no array command runs, no block is
poisoned, every context is FREE, every slot is free, no port is up, and the health record is that of a module as shipped (21 R360; 00
R3). The values that the spec does not give are those of logs 5 to 7. That every unlisted byte reads 0 is the model's choice (log 4),
and so is that the reset state is one that has power and has been brought up (log 1). -/
def Obligations.ResetState : Prop :=
  State.reset.memOk ∧ State.reset.power = .on ∧ (∀ a, Memory.readByte State.reset.mem a = 0)
    ∧ (∀ c, (State.reset.ctx c).st = .free) ∧ (∀ p sl, State.reset.inst? p sl = none)
    ∧ State.reset.flights = [] ∧ State.reset.poison = []
    ∧ (∀ q, (State.reset.quad q).running = none ∧ (State.reset.quad q).failed = false
        ∧ (State.reset.quad q).spare = decide (60 ≤ q % 64))
    ∧ (∀ p, (State.reset.port p).up = false ∧ (State.reset.port p).phase = .none)
    ∧ State.reset.hub.health.replace = false ∧ (∀ d < 4, Tab.get 0 State.reset.hub.health.act d = 60)

/-- g0 reads 0 and k0 reads all ones, whatever is written to them (01 R10). -/
def Obligations.HardwiredRegisters : Prop :=
  ∀ (i : Inst) (x : Word) (y : KWord), i.readG 0 = 0 ∧ i.readK 0 = 0xFFFF
    ∧ (∀ r, (i.writeG 0 x).readG r = i.readG r) ∧ (∀ r, (i.setK 0 y).readK r = i.readK r)

/-! Scalar words. -/

/-- The two-source rows of Tables 04-1 complete with gD the row's value of gA and gB; a result in g0 is discarded.

The immediate rows of Table 04-2 complete with gD the row's value of gA and the sign-extended immediate, and LI, LIH
and the immediate shifts with theirs (04 R65).

ADDS and SUBS complete with the exact sum or difference clamped to 64 signed bits, and set SAT, alone, when the
clamp changed it; no other flag changes (Table 04-1). -/
def Obligations.ScalarRowsComplete : Prop :=
  (∀ r ∈ scalarRows, ∀ (s : State) (i : Inst) (d a b : GReg), s.Issues i (r.1 d a b) →
      exec (r.1 d a b) s = .next (s.became i (i.counted.writeG d (r.2 (i.readG a) (i.readG b))).advance))
  ∧
  ((∀ r ∈ immRows, ∀ (s : State) (i : Inst) (d a : GReg) (imm : BitVec 32), s.Issues i (r.1 d a imm) →
      exec (r.1 d a imm) s = .next (s.became i (i.counted.writeG d (r.2 (i.readG a) (immWord imm))).advance))
    ∧ (∀ r ∈ shiftRows, ∀ (s : State) (i : Inst) (d a : GReg) (n : BitVec 6), s.Issues i (r.1 d a n) →
      exec (r.1 d a n) s = .next (s.became i (i.counted.writeG d (r.2 (i.readG a) n.toNat)).advance))
    ∧ (∀ (s : State) (i : Inst) (d : GReg) (imm : BitVec 32),
      (s.Issues i (.li d imm) → exec (.li d imm) s = .next (s.became i (i.counted.writeG d (immWord imm)).advance))
      ∧ (s.Issues i (.lih d imm) → ∃ v : Word,
          exec (.lih d imm) s = .next (s.became i (i.counted.writeG d v).advance)
          ∧ v.extractLsb' 32 32 = imm ∧ v.extractLsb' 0 32 = (i.readG d).extractLsb' 0 32)))
  ∧
  (∀ (s : State) (i : Inst) (d a b : GReg) (x : Instr) (exact : Int),
      ((x = .adds d a b ∧ exact = (i.readG a).toInt + (i.readG b).toInt)
        ∨ (x = .subs d a b ∧ exact = (i.readG a).toInt - (i.readG b).toInt)) →
      s.Issues i x → ∃ (v : Word) (f : Flags),
        exec x s = .next (s.became i (({ i.counted with flags := f }).writeG d v).advance)
        ∧ v.toInt = max (-(2 ^ 63)) (min (2 ^ 63 - 1) exact)
        ∧ f = { i.flags with sat := i.flags.sat || decide (v.toInt ≠ exact) })

/-- CLZ, CTZ, POPC, BREV and BSWAP complete with the counts and the reversals of Table 04-1.

The bit-field words complete: BEXT with the field sign-extended, BEXTZ with it zero-extended, BINS with the field of
gD replaced and its other bits kept (04 R66).

SEL, the copies of R67 and the address computations complete with gD as those rules give it. -/
def Obligations.BitWordsAndCopiesComplete : Prop :=
  (∀ (s : State) (i : Inst) (d a : GReg),
      (s.Issues i (.clz d a) → ∃ n ≤ 64, exec (.clz d a) s = .next (s.became i (i.counted.writeG d (word64 n)).advance)
        ∧ (∀ k, 64 - n ≤ k → (i.readG a).getLsbD k = false) ∧ (n < 64 → (i.readG a).getLsbD (63 - n) = true))
      ∧ (s.Issues i (.ctz d a) → ∃ n ≤ 64, exec (.ctz d a) s = .next (s.became i (i.counted.writeG d (word64 n)).advance)
        ∧ (∀ k, k < n → (i.readG a).getLsbD k = false) ∧ (n < 64 → (i.readG a).getLsbD n = true))
      ∧ (s.Issues i (.popc d a) → exec (.popc d a) s = .next (s.became i (i.counted.writeG d
          (word64 ((List.range 64).countP (fun k => (i.readG a).getLsbD k)))).advance))
      ∧ (s.Issues i (.brev d a) → ∃ v : Word, exec (.brev d a) s = .next (s.became i (i.counted.writeG d v).advance)
        ∧ ∀ k < 64, v.getLsbD (63 - k) = (i.readG a).getLsbD k)
      ∧ (s.Issues i (.bswap d a) → ∃ v : Word, exec (.bswap d a) s = .next (s.became i (i.counted.writeG d v).advance)
        ∧ ∀ k < 8, v.extractLsb' (8 * (7 - k)) 8 = (i.readG a).extractLsb' (8 * k) 8))
  ∧
  (∀ (s : State) (i : Inst) (d a : GReg) (pos wm1 : BitVec 6), pos.toNat + wm1.toNat + 1 ≤ 64 →
      (s.Issues i (.bext d a pos wm1) → exec (.bext d a pos wm1) s = .next (s.became i (i.counted.writeG d
          (((i.readG a).extractLsb' pos.toNat (wm1.toNat + 1)).signExtend 64)).advance))
      ∧ (s.Issues i (.bextz d a pos wm1) → exec (.bextz d a pos wm1) s = .next (s.became i (i.counted.writeG d
          (((i.readG a).extractLsb' pos.toNat (wm1.toNat + 1)).setWidth 64)).advance))
      ∧ (s.Issues i (.bins d a pos wm1) → ∃ v : Word,
          exec (.bins d a pos wm1) s = .next (s.became i (i.counted.writeG d v).advance)
          ∧ ∀ k < 64, v.getLsbD k = if pos.toNat ≤ k ∧ k < pos.toNat + wm1.toNat + 1
            then (i.readG a).getLsbD (k - pos.toNat) else (i.readG d).getLsbD k))
  ∧
  (∀ (s : State) (i : Inst) (d a b c : GReg) (x : XReg) (imm : BitVec 32) (sh : BitVec 6),
      (s.Issues i (.sel d a b c) → exec (.sel d a b c) s = .next (s.became i (i.counted.writeG d
          (if i.readG c = 0 then i.readG b else i.readG a)).advance))
      ∧ (s.Issues i (.mfm d x) → exec (.mfm d x) s = .next (s.became i (i.counted.writeG d (i.readM x)).advance))
      ∧ (s.Issues i (.mfl d) → exec (.mfl d) s = .next (s.became i (i.counted.writeG d i.link).advance))
      ∧ (s.Issues i (.mfq d x) → exec (.mfq d x) s = .next (s.became i (i.counted.writeG d (i.readQ x)).advance))
      ∧ (s.Issues i (.la d a imm) → exec (.la d a imm) s = .next (s.became i (i.counted.writeG d
          ((s.ctx i.ctx).desc.dva + i.readG a + immWord imm)).advance))
      ∧ (s.Issues i (.idx d a b sh) → exec (.idx d a b sh) s = .next (s.became i (i.counted.writeG d
          (i.readG a + word64 ((i.readG b).toNat * 2 ^ sh.toNat))).advance)))

/-- A scalar word that writes gD as it issues leaves every other register and every flag, all of memory, and everything
outside its slot as they were, but for a loop state register whose body it ends (04 R62, R76). -/
def Obligations.PlainScalarFrame : Prop :=
  ∀ (x : Instr) (s t : State) (i : Inst), plainScalar x = true → s.Issues i x → exec x s = .next t →
    s.OnlySlot t ∧ ∃ j, t.Issuing j ∧ i.Keeps j (uses x).gw

/-- RNGF computes x as RNG does and writes the f32 code of (x >> 40) x 2^-24, which is exact: no flag is set and the
upper half of gD is 0 (04 R70). -/
def Obligations.RngfIsExact : Prop :=
  ∀ (s : State) (i : Inst) (d a b : GReg), s.Issues i (.rngf d a b) → ∃ v : Word,
    exec (.rngf d a b) s = .next (s.became i (i.counted.writeG d v).advance)
    ∧ v.toNat < 2 ^ 32
    ∧ ∃ (m : Nat) (e : Int), decodeFloat (fpOf .f32) v.toNat = .fin false m e false
      ∧ (m : Rat) * (2 : Rat) ^ e = (((rngVal (i.readG a) (i.readG b)).toNat / 2 ^ 40 : Nat) : Rat) * (2 : Rat) ^ (-24 : Int)

/-! Control. -/

/-- A branch whose target is one of the handler's words completes at its target when its condition holds, a safe point
when IMM32 is at most 0, and otherwise at the boundary that follows; a target outside raises the instruction-bounds
fault whether or not the branch is taken (04 R71, R73).

JAL, JR and RET complete at a target that is one of the handler's words, JAL with link the word after it; another
target raises the instruction-bounds fault with no register changed (04 R72). -/
def Obligations.BranchesAndCallsComplete : Prop :=
  (∀ r ∈ branchRows, ∀ (s : State) (i : Inst) (a b : GReg) (imm : BitVec 32) (target : Word),
      target = i.pc + 8 * immWord imm → s.Issues i (r.1 a b imm) →
      (i.inBounds target = true → r.2 (i.readG a) (i.readG b) = true →
        exec (r.1 a b imm) s = .next (s.became i
          (if imm.toInt ≤ 0 then ({ i.counted with pc := target }).safePoint else { i.counted with pc := target })))
      ∧ (i.inBounds target = true → r.2 (i.readG a) (i.readG b) = false →
        exec (r.1 a b imm) s = .next (s.became i i.counted.advance))
      ∧ (i.inBounds target = false →
        exec (r.1 a b imm) s = .next (s.faulted i fBounds target.toNat (s.wordAt i))))
  ∧
  (∀ (s : State) (i : Inst) (a : GReg) (imm : BitVec 32) (x : Instr) (target link : Word),
      ((x = .jal imm ∧ target = i.pc + 8 * immWord imm ∧ link = i.pc + 8)
        ∨ (x = .jr a ∧ target = i.readG a ∧ link = i.link) ∨ (x = .ret ∧ target = i.link ∧ link = i.link)) →
      s.Issues i x →
      (i.inBounds target = true → exec x s = .next (s.became i { i.counted with link := link, pc := target }))
      ∧ (i.inBounds target = false → exec x s = .next (s.faulted i fBounds target.toNat (s.wordAt i))))

/-- LOOP, with its register live, its end word within the handler and after it, and a count that fits, writes the loop
state register, or 0 and skips the body when the count is 0 (04 R75). The faults come in the order of that rule.

The check for a back edge after a word (04 R76). While a result to g1 or g2 is still to be written, the check waits for it, which is
the model's choice (log 44). When neither loop state register names the word as its last, the
next word follows. When level 1 does, with more than one iteration remaining, its count falls by one and the next word
is its first, at a safe point; with one remaining, its register becomes 0 and level 0 is examined; and so for level 0. -/
def Obligations.LoopCompletes : Prop :=
  (∀ (s : State) (i : Inst) (a : GReg) (level : BitVec 1) (imm : BitVec 32) (r : GReg) (target : Word),
      r = BitVec.ofNat 6 (1 + level.toNat) → target = i.pc + 8 * immWord imm → s.Issues i (.loop a level imm) →
      (i.hdr.glive ≤ 1 + level.toNat →
        exec (.loop a level imm) s = .next (s.faulted i fFootprint 0 (s.wordAt i)))
      ∧ (1 + level.toNat < i.hdr.glive → (i.inBounds target = false ∨ target.toNat < i.pc.toNat + 8) →
        exec (.loop a level imm) s = .next (s.faulted i fBounds target.toNat (s.wordAt i)))
      ∧ (1 + level.toNat < i.hdr.glive → i.inBounds target = true → i.pc.toNat + 8 ≤ target.toNat →
        (8388607 < (i.readG a).toNat →
          exec (.loop a level imm) s = .next (s.faulted i fOperand 0 (i.readG a).toNat))
        ∧ (i.readG a = 0 →
          exec (.loop a level imm) s = .next (s.became i { i.counted.writeG r 0 with pc := target + 8 }))
        ∧ (0 < (i.readG a).toNat → (i.readG a).toNat ≤ 8388607 →
          exec (.loop a level imm) s = .next (s.became i { i.counted.writeG r
            (word64 (2 ^ 63 + i.index (i.pc + 8) * 2 ^ 43 + i.index target * 2 ^ 23 + (i.readG a).toNat))
            with pc := i.pc + 8 }))))
  ∧
  (∀ i : Inst, i.loopPending = true → i.advance = { i with edge := true })
  ∧
  (∀ i : Inst, i.loopPending = false →
      (i.endsLoop 2 = false → i.endsLoop 1 = false → i.advance = { i with pc := i.pc + 8 })
      ∧ (∀ r : GReg, (r = 2 ∨ (r = 1 ∧ i.endsLoop 2 = false)) → i.endsLoop r = true →
          1 < ((i.readG r).extractLsb' 0 23).toNat →
          i.advance = ({ i.writeG r (i.readG r - 1) with
            pc := i.hbase + 8 * (((i.readG r).extractLsb' 43 20).setWidth 64) }).safePoint)
      ∧ (i.endsLoop 2 = false → i.endsLoop 1 = true → ((i.readG 1).extractLsb' 0 23).toNat ≤ 1 →
          i.advance = { i.writeG 1 0 with pc := i.pc + 8 })
      ∧ (i.endsLoop 2 = true → ((i.readG 2).extractLsb' 0 23).toNat ≤ 1 → i.advance = (i.writeG 2 0).advance))

/-- YIELD's word leaves every field but OPC and FN reserved. It completes with no register, flag or byte of memory
changed, at a safe point, and the budget count starts again (04 R81). -/
def Obligations.YieldIsSafePoint : Prop :=
  (∀ w : Word, w.extractLsb' 56 8 = 0x35 → w.extractLsb' 24 8 = 0x01 →
    decode w = if w.extractLsb' 32 24 = 0 ∧ w.extractLsb' 0 24 = 0 then .ok .yieldI else .error .reserved)
  ∧ ∀ (s : State) (i : Inst), s.Issues i .yieldI → ∃ j,
    exec .yieldI s = .next (s.became i j) ∧ s.OnlySlot (s.became i j) ∧ i.Keeps j []
    ∧ j.sinceSafe = 0 ∧ (i.stopped = .pending → j.stopped = .halted 0)

/-- END completes whatever the instance has outstanding: its slot is free, and no other slot, no byte of memory, no
request, message or operation under way changes (04 R80).

When the header's BUDGET is exhausted, or pre-emption has been pending for 4,096 instructions, the boundary is a
safe point: both counts begin again, and a slot with pre-emption pending stops (01 R17, R18).

The slot that issues is the first ready one, in ascending order from the slot after the one that issued last, wrapping from 7 to 0;
with none ready, none issues. A ready slot holds an instance, and no condition of Table 01-5 holds of its next word: a register that
an incomplete load or an outstanding ring operation will write, a register of an incomplete vector word, a full copy queue, a page
fault. A slot that holds an instance with nothing outstanding and nothing to wait for is ready (01 R19). -/
def Obligations.EndAndForcedSafePoints : Prop :=
  ((∀ (s : State) (p sl : Nat), s.selectSlot p = some sl ↔
      ∃ k < 8, sl = ((s.core p).lastSlot + 1 + k) % 8 ∧ s.slotReady p sl
        ∧ ∀ j < k, ¬ s.slotReady p (((s.core p).lastSlot + 1 + j) % 8))
    ∧ (∀ (s : State) (p : Nat), s.selectSlot p = none ↔ ∀ sl < 8, ¬ s.slotReady p sl)
    ∧ (∀ (s : State) (p : Nat) (i : Inst) (x : Instr), s.ready p i = true → s.fetch i = .ok x →
      i.pageWait = [] ∧ i.waitOn = none ∧ (∀ n, i.stopped ≠ .halted n)
      ∧ (∀ e ∈ i.pend, (∀ r, e.dst = .g r → e.live = true → r ∉ (uses x).gr) ∧ (∀ r, e.dst = .v r → e.live = true → r ∉ (uses x).vr)
        ∧ (∀ r, e.dst = .d r → e.live = true → r ∉ (uses x).dr)
        ∧ (∀ r q, e.dst = .ring r q → q ∉ (uses x).qr ∧ (e.live = true → r ≠ 0 → r ∉ (uses x).gr)))
      ∧ (∀ e ∈ i.vpend, (∀ w ∈ e.vw, w.1 ∉ (uses x).vr ∧ w.1 ∉ (uses x).vw)
        ∧ (∀ k w, e.kw = some (k, w) → k ≠ 0 → k ∉ (uses x).kr) ∧ (∀ g w, e.gw = some (g, w) → e.glive = true → g ∉ (uses x).gr))
      ∧ ((∃ d a b, x = .cplin d a ∨ x = .cp2d d a ∨ x = .cpten d a b) → (s.core p).copyStop ≠ none ∨ (s.core p).copyQ.length < 2))
    ∧ (∀ (s : State) (p : Nat) (i : Inst), i.Idle → i.budgetDue = false → (∀ o ∈ (s.core p).ops, o.iid ≠ i.iid) →
      (s.core p).copyQ.length < 2 → (∀ q ∈ (s.quad (quadOf p)).springReqs, q.p ≠ p) → s.ready p i = true))
  ∧
  (∀ (s : State) (i : Inst), s.Issues i .endI → ∃ t, exec .endI s = .next t
      ∧ t.inst? s.curP s.curS = none
      ∧ (∀ p sl, (p, sl) ≠ (s.curP, s.curS) → t.inst? p sl = s.inst? p sl)
      ∧ (∀ a, Memory.readByte t.mem a = Memory.readByte s.mem a)
      ∧ t.flights = s.flights ∧ ∀ p, (t.core p).ops = (s.core p).ops)
  ∧
  (∀ (s : State) (p sl : Nat) (i : Inst), s.inst? p sl = some i →
      ((i.hdr.budget ≠ 0 ∧ i.hdr.budget ≤ i.sinceSafe) →
        ∃ t j, exec (.budgetSafePoint p sl) s = .next t ∧ t.inst? p sl = some j ∧ t.mem = s.mem
          ∧ j = { i with sinceSafe := 0, sincePre := 0, stopped := j.stopped }
          ∧ j.stopped = if i.stopped = .pending then .halted 0 else i.stopped)
      ∧ ((i.stopped = .pending ∧ 4096 ≤ i.sincePre) →
        ∃ t j, exec (.forcedSafePoint p sl) s = .next t ∧ t.inst? p sl = some j ∧ t.mem = s.mem
          ∧ j = { i with sinceSafe := 0, sincePre := 0, stopped := .halted 0 }))

/-- TRAP uses A, and IMM32[15:0] holds the code; its other fields are reserved. It ends the instance with the trap
fault, and the record carries the code and the value of gA (04 R82). The record goes to the host, or to the fault handler
on one of the context's cores. -/
def Obligations.TrapEndsInstance : Prop :=
  (∀ w : Word, w.extractLsb' 56 8 = 0xE2 → decode w =
    if w.extractLsb' 50 6 = 0 ∧ w.extractLsb' 32 12 = 0 ∧ w.extractLsb' 16 16 = 0
    then .ok (.trap (w.extractLsb' 44 6) (w.extractLsb' 0 16)) else .error .reserved)
  ∧ ∀ (s : State) (i : Inst) (a : GReg) (code : BitVec 16), s.Issues i (.trap a code) → i.ctx < 32 →
    ((s.ctx i.ctx).lcs.get? ((s.ctx i.ctx).desc.fcore % 1024)).isSome = true →
    ∃ t m, exec (.trap a code) s = .next t ∧ t.inst? s.curP s.curS = none
      ∧ t.carries i.ctx m ∧ recordWord m 0 / 2 ^ 48 = 0x0105
      ∧ recordWord m 3 = (i.readG a).toNat ∧ recordWord m 4 = code.toNat

/-- With its enable bit 0, BKPT or TRMARK completes and has no effect. With DBGCTL.BKEN 1, BKPT of a running context
completes and stops it. With DBGCTL.TREN 1, TRMARK completes and writes a trace record with the code and gA into the
context's trace buffer, and changes no other byte but the buffer's head word (04 R83; where the record stands in the
buffer is the model's choice, log 21). -/
def Obligations.DebugWordsComplete : Prop :=
  ∀ (s : State) (i : Inst) (a : GReg) (code : BitVec 16),
    (s.Issues i (.bkpt a code) → (s.ctx i.ctx).dbgctl.getLsbD 0 = false →
      exec (.bkpt a code) s = .next (s.became i i.counted.advance))
    ∧ (s.Issues i (.trmark a code) → (s.ctx i.ctx).dbgctl.getLsbD 1 = false →
      exec (.trmark a code) s = .next (s.became i i.counted.advance))
    ∧ (s.Issues i (.bkpt a code) → (s.ctx i.ctx).dbgctl.getLsbD 0 = true → (s.ctx i.ctx).st = .running →
      ∃ t, exec (.bkpt a code) s = .next t ∧ (t.ctx i.ctx).st = .saving ∧ (t.ctx i.ctx).halt = .stop
        ∧ ∃ j, t.inst? s.curP s.curS = some j ∧ j.pc = i.counted.advance.pc ∧ (∃ k, j.stopped = .halted k))
    ∧ (s.memOk → s.Issues i (.trmark a code) → (s.ctx i.ctx).dbgctl.getLsbD 1 = true →
      ∀ tr, (s.ctx i.ctx).trace = some tr → ∃ t bs, exec (.trmark a code) s = .next t
        ∧ t.inst? s.curP s.curS = some i.counted.advance
        ∧ bs.length = 64 ∧ bs.head? = some 1 ∧ ofLe (sliceBytes bs 24 8) = code.toNat
        ∧ ofLe (sliceBytes bs 32 8) = (i.readG a).toNat
        ∧ Memory.read t.mem (tr.base + 64 + 64 * (tr.head % (tr.size / 64 - 1))) 64 = bs
        ∧ ∀ x, ¬ (tr.base + 64 + 64 * (tr.head % (tr.size / 64 - 1)) ≤ x
              ∧ x < tr.base + 64 + 64 * (tr.head % (tr.size / 64 - 1)) + 64) →
            ¬ (tr.base ≤ x ∧ x < tr.base + 8) → Memory.readByte t.mem x = Memory.readByte s.mem x)

/-- SRD completes with the register's value: at once, but for CYCLE, whose value is written later, and CHKn, which the
chunk unit reads. CYCLE of a replay-safe context raises the non-reproducible-operation fault (04 R84, R85).

SWR completes: CHn takes gA but for its bits that read zero, in the core's one set; a write of CHKn goes to the
quad's chunk unit. SW1C of STATUS completes with each flag cleared for which gA holds a 1 at its place (04 R85, 01 Table
01-3, 02 Table 02-3). -/
def Obligations.SystemRegistersComplete : Prop :=
  (∀ (s : State) (i : Inst) (d : GReg) (n : BitVec 16), s.Issues i (.srd d n) →
      (∀ v : Word, (n, v) ∈ [(0, i.status), (1, word64 i.ctx), (2, word64 i.lcore), (3, word64 (s.ctx i.ctx).desc.rank),
          (4, (s.ctx i.ctx).desc.dva), (5, (s.ctx i.ctx).desc.rkey), (6, (s.ctx i.ctx).dbgctl)] →
        exec (.srd d n) s = .next (s.became i (i.counted.writeG d v).advance))
      ∧ (n = 7 → i.rsafe = false → exec (.srd d n) s = .next (({ s.counted i with nextId := s.nextId + 1 }).setCur
          (i.counted.await s.nextId (gDest d) false (some (s.cycleOf i.ctx (dieOf s.curP)))).advance))
      ∧ (n = 7 → i.rsafe = true → exec (.srd d n) s = .next (s.faulted i fNonRepro 0 (s.wordAt i)))
      ∧ (0x20 ≤ n.toNat → n.toNat < 0x40 → exec (.srd d n) s = .next (s.became i (i.counted.writeG d
          (Tab.get chanReset (s.lc i.ctx i.lcore).chans (n.toNat - 0x20))).advance))
      ∧ (0x40 ≤ n.toNat → n.toNat < 0x50 → ∃ t, exec (.srd d n) s = .next t
          ∧ t.Issuing (i.counted.await s.nextId (gDest d) false none).advance
          ∧ (t.quad (quadOf s.curP)).chunkReqs = chunkQueue (s.quad (quadOf s.curP)).chunkReqs
              ⟨s.clock, s.curP, i.iid, s.curS, s.nextId, i.ctx, n.toNat - 0x40, .read⟩))
  ∧
  (∀ (s : State) (i : Inst) (a : GReg) (n : BitVec 16),
      (s.Issues i (.swr n a) → 0x20 ≤ n.toNat → n.toNat < 0x40 → ∃ t, exec (.swr n a) s = .next t
          ∧ t.Issuing i.counted.advance ∧ t.mem = s.mem
          ∧ (∀ k, Tab.get chanReset (t.lc i.ctx i.lcore).chans k =
              if k = n.toNat - 0x20 then i.readG a &&& 0xFFFFCFFF else Tab.get chanReset (s.lc i.ctx i.lcore).chans k))
      ∧ (s.Issues i (.swr n a) → 0x40 ≤ n.toNat → n.toNat < 0x50 → ∃ t, exec (.swr n a) s = .next t
          ∧ t.Issuing (i.counted.await s.nextId .chunk false none).advance
          ∧ (t.quad (quadOf s.curP)).chunkReqs = chunkQueue (s.quad (quadOf s.curP)).chunkReqs
              ⟨s.clock, s.curP, i.iid, s.curS, s.nextId, i.ctx, n.toNat - 0x40, .write (i.readG a)⟩)
      ∧ (s.Issues i (.sw1c 0 a) → ∃ f : Flags,
          exec (.sw1c 0 a) s = .next (s.became i { i.counted with flags := f }.advance)
          ∧ f = ⟨i.flags.rc && !(i.readG a).getLsbD 6, i.flags.sat && !(i.readG a).getLsbD 5,
              i.flags.nv && !(i.readG a).getLsbD 4, i.flags.dz && !(i.readG a).getLsbD 3,
              i.flags.ovf && !(i.readG a).getLsbD 2, i.flags.unf && !(i.readG a).getLsbD 1,
              i.flags.nx && !(i.readG a).getLsbD 0⟩))

/-- CHUNK completes by its request to the chunk unit; in a replay-safe context it raises the fault of R79. CNTRD of an
assigned counter completes by its request to the hub (04 R78, R79, R86).

Requests stand at the unit by cycle and then by core. The chunk unit serves its oldest request in one step: a CHUNK hands out the range that R78 computes and moves NEXT
past it, every other field of the counter unchanged; a read and a write act on the counter as it stands. The instance
that asked receives the result. It serves a request of an earlier cycle, and one in each cycle (04 R77 to R79). -/
def Obligations.CountersAndChunksComplete : Prop :=
  (∀ (s : State) (i : Inst) (d : GReg) (n : BitVec 4) (k : BitVec 16),
      (s.Issues i (.chunk d n) → i.rsafe = false → ∃ t, exec (.chunk d n) s = .next t
        ∧ t.Issuing (i.counted.await s.nextId (gDest d) false none).advance
        ∧ (t.quad (quadOf s.curP)).chunkReqs = chunkQueue (s.quad (quadOf s.curP)).chunkReqs
            ⟨s.clock, s.curP, i.iid, s.curS, s.nextId, i.ctx, n.toNat, .chunk⟩)
      ∧ (s.Issues i (.chunk d n) → i.rsafe = true →
        exec (.chunk d n) s = .next (s.faulted i fNonRepro 0 (s.wordAt i)))
      ∧ (s.Issues i (.cntrd d k) → counterAssigned (k.toNat % 2 ^ 15) = true → i.rsafe = false →
        ∃ t f, exec (.cntrd d k) s = .next t
          ∧ t.Issuing (i.counted.await s.nextId (gDest d) false none).advance
          ∧ t.flights = s.flights ++ [f] ∧ f.id = s.nextId ∧ f.body = .cntrd (k.toNat % 2 ^ 15) (k.getLsbD 15))
      ∧ (s.Issues i (.cntrd d k) → counterAssigned (k.toNat % 2 ^ 15) = true → i.rsafe = true →
        exec (.cntrd d k) s = .next (s.faulted i fNonRepro 0 (s.wordAt i))))
  ∧
  (∀ (s : State) (q : Nat) (r : ChunkReq) (rest : List ChunkReq) (x : Nat) (i : Inst) (e : Pend),
      (s.quad q).chunkReqs = r :: rest → r.cycle < s.clock → (s.quad q).chunkLast ≠ some s.clock → x = (Tab.get 0 (s.ctx r.ctx).chunks (q * 16 + r.n)).toNat →
      s.inst? r.p r.sl = some i → i.iid = r.iid → e ∈ i.pend → e.id = r.pendId →
      ∃ (t : State) (j : Inst) (v new : Word), exec (.chunkUnitRequest q) s = .next t
        ∧ (t.quad q).chunkReqs = rest
        ∧ Tab.get 0 (t.ctx r.ctx).chunks (q * 16 + r.n) = new
        ∧ t.inst? r.p r.sl = some j ∧ { e with value := some v } ∈ j.pend
        ∧ (match r.what with
          | .read => v.toNat = x ∧ new.toNat = x
          | .write y => new = y
          | .chunk =>
            let next := bitsOf x 47 24
            let left := bitsOf x 23 0 - next
            let c := min left (max (max 1 (bitsOf x 55 48)) ((left + 2 * max 1 (bitsOf x 63 56) - 1)
              / (2 * max 1 (bitsOf x 63 56))))
            v.toNat = c * 2 ^ 32 + next ∧ new.toNat = x + c * 2 ^ 24 ∧ bitsOf new.toNat 47 24 = next + c
              ∧ bitsOf new.toNat 63 48 = bitsOf x 63 48 ∧ bitsOf new.toNat 23 0 = bitsOf x 23 0))

/-! Memory words. -/

/-- An address that is no multiple of the access's width raises the misaligned-access fault with that address, before
any other check (05 R87; of DLD's 32 bytes, 08 R155).

A store to a region that may not be written raises the write-protect fault, and an address in no region the
address-range fault, for loads and stores alike (05 R87, 17 R294). -/
def Obligations.AccessChecksFault : Prop :=
  (∀ (x : Instr) (a : GReg) (imm : BitVec 32) (n : Nat) (s : State) (i : Inst) (va : Nat),
      accessOf x = some (a, imm, n) → s.Issues i x → va = (i.readG a + immWord imm).toNat → va % n ≠ 0 →
      exec x s = .next (s.faulted i fMisaligned va 0))
  ∧
  (∀ (s : State) (i : Inst) (d a b : GReg) (ord : Option Scope) (imm : BitVec 32) (va : Nat),
      va = (i.readG a + immWord imm).toNat →
      (∀ r ∈ loadRows, s.Issues i (r.1 d a ord imm) → va % r.2.1 = 0 →
        (2 ^ 56 ≤ va ∨ (s.ctx i.ctx).regionOf va r.2.1 = none) →
        exec (r.1 d a ord imm) s = .next (s.faulted i fAddress va 0))
      ∧ ∀ r ∈ storeRows, s.Issues i (r.1 a b ord imm) → va % r.2 = 0 →
        ((2 ^ 56 ≤ va ∨ (s.ctx i.ctx).regionOf va r.2 = none) →
          exec (r.1 a b ord imm) s = .next (s.faulted i fAddress va 0))
        ∧ (va < 2 ^ 56 → ∀ k g, (s.ctx i.ctx).regionOf va r.2 = some (k, g) → g.wen = false →
          exec (r.1 a b ord imm) s = .next (s.faulted i fWriteProtect va 0)))

/-- A load from an aligned address within a region completes: its request leaves for the owner, and the destination
waits for the data; with D = g0 the access is made and its data discarded (05 R87, R88, R93, 01 R10). VLD loads the 64
bytes of a v register, and DLD the 32 bytes of a d register (08 R155).

A store to an aligned address within a region that may be written completes: the request carries the low bytes of
gB, or the whole of vB. Every byte of memory stands as it did until the owner applies the request (05 R87, R93, R95). -/
def Obligations.LoadsAndStoresComplete : Prop :=
  ((∀ r ∈ loadRows, ∀ (s : State) (i : Inst) (d a : GReg) (ord : Option Scope) (imm : BitVec 32) (va k : Nat) (g : Region),
      s.Issues i (r.1 d a ord imm) → va = (i.readG a + immWord imm).toNat → va % r.2.1 = 0 → va < 2 ^ 56 →
      (s.ctx i.ctx).regionOf va r.2.1 = some (k, g) →
      ∃ t q, exec (r.1 d a ord imm) s = .next t
        ∧ s.Sent t i ((i.counted.await s.nextId (gDest d) (d != 0) none).acquire ord s.nextId).advance q
        ∧ q.op = .read ∧ q.ctx = i.ctx ∧ q.va = va ∧ q.n = r.2.1 ∧ q.ans = .reg (gDest d) r.2.2)
    ∧ (∀ (s : State) (i : Inst) (d : VReg) (a : GReg) (ord : Option Scope) (imm : BitVec 32) (va k : Nat) (g : Region),
      s.Issues i (.vld d a ord imm) → va = (i.readG a + immWord imm).toNat → va % 64 = 0 → va < 2 ^ 56 →
      (s.ctx i.ctx).regionOf va 64 = some (k, g) →
      ∃ t q, exec (.vld d a ord imm) s = .next t
        ∧ s.Sent t i ((i.counted.await s.nextId (.v d) true none).acquire ord s.nextId).advance q
        ∧ q.op = .read ∧ q.ctx = i.ctx ∧ q.va = va ∧ q.n = 64 ∧ q.ans = .reg (.v d) none)
    ∧ ∀ (s : State) (i : Inst) (d : XReg) (a : GReg) (ord : Option Scope) (imm : BitVec 32) (va k : Nat) (g : Region),
      s.Issues i (.dld d a ord imm) → va = (i.readG a + immWord imm).toNat → va % 32 = 0 → va < 2 ^ 56 →
      (s.ctx i.ctx).regionOf va 32 = some (k, g) →
      ∃ t q, exec (.dld d a ord imm) s = .next t
        ∧ s.Sent t i ((i.counted.await s.nextId (.d d) false none).acquire ord s.nextId).advance q
        ∧ q.op = .read ∧ q.ctx = i.ctx ∧ q.va = va ∧ q.n = 32 ∧ q.ans = .reg (.d d) none)
  ∧
  ((∀ r ∈ storeRows, ∀ (s : State) (i : Inst) (a b : GReg) (ord : Option Scope) (imm : BitVec 32) (va k : Nat) (g : Region),
      s.Issues i (r.1 a b ord imm) → va = (i.readG a + immWord imm).toNat → va % r.2 = 0 → va < 2 ^ 56 →
      (s.ctx i.ctx).regionOf va r.2 = some (k, g) → g.wen = true →
      ∃ t q, exec (r.1 a b ord imm) s = .next t ∧ s.Sent t i i.counted.advance q
        ∧ q.op = .write ∧ q.ctx = i.ctx ∧ q.va = va ∧ q.n = r.2 ∧ ofLe q.data = (i.readG b).toNat % 256 ^ r.2
        ∧ q.data.length = r.2)
    ∧ ∀ (s : State) (i : Inst) (a : GReg) (b : VReg) (ord : Option Scope) (imm : BitVec 32) (va k : Nat) (g : Region),
      s.Issues i (.vst a b ord imm) → va = (i.readG a + immWord imm).toNat → va % 64 = 0 → va < 2 ^ 56 →
      (s.ctx i.ctx).regionOf va 64 = some (k, g) → g.wen = true →
      ∃ t q, exec (.vst a b ord imm) s = .next t ∧ s.Sent t i i.counted.advance q
        ∧ q.op = .write ∧ q.ctx = i.ctx ∧ q.va = va ∧ q.n = 64 ∧ ofLe q.data = (i.readV b).toNat ∧ q.data.length = 64)

/-- GET and PUT with both addresses aligned, the scratchpad range within the issuing core's window, a well-formed gD and
ea within a region (for PUT one that may be written, and no poisoned source) complete: GET's request reads at ea and
names the scratchpad address that its data goes to, PUT's writes at ea from there (05 R94).

An atomic on an aligned word of a region that may be written and is no window of the array completes: the request
carries the operation, gB and, for ACAS, gD; with D = g0 nothing waits for its result. A replay-safe context takes the
forms of Table 05-4 alone and faults on the others (05 R87, R96 to R98). -/
def Obligations.SplitAccessesAndAtomicsComplete : Prop :=
  (∀ (s : State) (i : Inst) (d a b : GReg) (size : AccSize) (ord : Option Scope) (imm : BitVec 32)
      (va gb gd n pa k : Nat) (g : Region),
      va = (i.readG a + immWord imm).toNat → gb = (i.readG b).toNat → gd = (i.readG d).toNat → n = sizeBytes size →
      va % n = 0 → gb % n = 0 → va < 2 ^ 56 → (s.ctx i.ctx).scratchOf s.curP gb n = some pa →
      gd < 256 → bitsOf gd 6 6 = 0 → (bitsOf gd 7 7 = 1 → gd % 64 < (s.lc i.ctx i.lcore).ctrn) →
      (s.ctx i.ctx).regionOf va n = some (k, g) →
      (s.Issues i (.get d a b size imm) → ∃ t q, exec (.get d a b size imm) s = .next t
        ∧ s.Sent t i i.counted.advance q
        ∧ q.op = .read ∧ q.va = va ∧ q.n = n ∧ q.ans = .get pa (if bitsOf gd 7 7 = 1 then some (gd % 64) else none))
      ∧ (s.Issues i (.put d a b size ord imm) → g.wen = true → s.poisonAt pa n = none →
        ∃ t q, exec (.put d a b size ord imm) s = .next t ∧ s.Sent t i i.counted.advance q
        ∧ q.op = .write ∧ q.va = va ∧ q.n = n ∧ q.ans = .ack (if bitsOf gd 7 7 = 1 then some (gd % 64) else none)
        ∧ ((q.src = some pa ∧ q.data = []) ∨ (q.src = none ∧ q.data = Memory.read s.mem pa n))))
  ∧
  (∀ (s : State) (i : Inst) (d a b : GReg) (w : Bool) (ord : Option Scope) (imm : BitVec 32) (va n k : Nat) (g : Region)
      (x : Instr) (op : MemOp),
      ((∃ r ∈ atomicRows, x = r.1 d a b w ord imm ∧ op = r.2 ∧ n = if w then 8 else 4)
        ∨ (x = .afadd d a b ord imm ∧ op = .afadd ∧ n = 4)) →
      s.Issues i x → va = (i.readG a + immWord imm).toNat → va % n = 0 → va < 2 ^ 56 →
      (s.ctx i.ctx).inWindow va = false → (s.ctx i.ctx).regionOf va n = some (k, g) → g.wen = true →
      ((i.rsafe = false ∨ replaySafe op d = true) → ∃ t q, exec x s = .next t
        ∧ s.Sent t i ((if d = 0 then i.counted else i.counted.await s.nextId (.g d) true none).acquire ord s.nextId).advance q
        ∧ q.op = op ∧ q.ctx = i.ctx ∧ q.va = va ∧ q.n = n ∧ ofLe q.data = (i.readG b).toNat % 256 ^ n
        ∧ q.expect = i.readG d)
      ∧ (i.rsafe = true → replaySafe op d = false →
        exec x s = .next (s.faulted i fNonRepro 0 (s.wordAt i))))

/-- FENCE, XFENCE and DRAIN complete at issue; the instance then waits for exactly the operations that each names: FENCE
for the earlier LS accesses of the instance that its scope covers to be performed, XFENCE for those of path p1 to
complete, DRAIN for all of its path, or for those of them that are into the memory of gA's address, or whose memory is not yet
known (05 R99 to R101; that an absent page and a request that the spring has not served count as into any memory is the model's choice,
log 31).

BARRIVE with a tag and a count of 16 bits completes: the arrival leaves for the unit that holds the barrier, behind
the accesses that its scope covers. WATCH with gB = 0 on an aligned word registers a monitor entry and sends the
request, or answers 1 when the core's 64 entries are in use; with gB = 1 it cancels the context's entries for the word
and answers how many there were (05 R102, R104); for a peer's word it tells the peer first, and gD waits for the number that the peer
removes, which is the model's choice (log 45). -/
def Obligations.OrderingWordsComplete : Prop :=
  (∀ (s : State) (i : Inst) (sc : Scope) (p1 p2 : Path) (a : GReg),
      (s.Issues i (.fence sc) → ∃ l, exec (.fence sc) s = .next (s.became i { i.counted with fenceOn := i.fenceOn ++ l }.advance)
        ∧ ∀ n, n ∈ l ↔ ∃ o ∈ (s.core s.curP).ops, o.id = n ∧ o.path = .ls ∧ o.iid = i.iid
            ∧ (sc = .pod ∨ sc = .sys ∨ o.rd = true ∨ o.peer = false))
      ∧ (s.Issues i (.xfence p1 p2) → ∃ l,
        exec (.xfence p1 p2) s = .next (s.became i { i.counted with drainOn := i.drainOn ++ l }.advance)
        ∧ ∀ n, n ∈ l ↔ ∃ o ∈ (s.core s.curP).ops, o.id = n ∧ o.path = opPath p1)
      ∧ (s.Issues i (.drain p1 a) → (i.readG a).toNat = 2 ^ 64 - 1 → ∃ l,
        exec (.drain p1 a) s = .next (s.became i { i.counted with drainOn := i.drainOn ++ l }.advance)
        ∧ ∀ n, n ∈ l ↔ ∃ o ∈ (s.core s.curP).ops, o.id = n ∧ o.path = opPath p1)
      ∧ (s.Issues i (.drain p1 a) → ∀ k g tg w m, (i.readG a).toNat < 2 ^ 56 →
        (s.ctx i.ctx).regionOf (i.readG a).toNat 1 = some (k, g) →
        (s.counted i).translate (dieOf s.curP) i.ctx (i.readG a).toNat false = .ok tg w → memNameOf tg = some m → ∃ l,
        exec (.drain p1 a) s = .next (s.became i { i.counted with drainInto := i.drainInto ++ l }.advance)
        ∧ ∀ e, e ∈ l ↔ ∃ o ∈ (s.core s.curP).ops, e = (o.id, m) ∧ o.path = opPath p1
            ∧ (s.counted i).opInto (dieOf s.curP) o m = true))
  ∧
  (∀ (s : State) (p : Nat) (i : Inst) (e : Nat × MemName) (o : Op), e ∈ i.drainInto → o ∈ (s.core p).ops → o.id = e.1 →
      s.opInto (dieOf p) o e.2 = true → s.ready p i = false)
  ∧
  (∀ (s : State) (i : Inst) (d a b c : GReg) (hidx : BitVec 12) (sc : Scope) (n : BitVec 4),
      (s.Issues i (.barrive a b c hidx sc n) → (i.readG a).toNat < 2 ^ 16 → 0 < (i.readG b).toNat →
        (i.readG b).toNat < 2 ^ 16 → ∃ t f, exec (.barrive a b c hidx sc n) s = .next t
          ∧ t.Issuing i.counted.advance ∧ t.mem = s.mem ∧ t.flights = s.flights ++ [f]
          ∧ f.body = .barrier ⟨i.ctx, scopeNum sc, n.toNat, (i.readG b).toNat, i.readG c, (s.ctx i.ctx).desc.rank,
              i.lcore, hidx.toNat, (i.readG a).toNat⟩
          ∧ (f.stage = .held ↔ ∃ o ∈ (s.core s.curP).ops, o.path = .ls ∧ o.iid = i.iid
              ∧ (sc = .pod ∨ sc = .sys ∨ o.rd = true ∨ o.peer = false)))
      ∧ (∀ k g, (i.readG a).toNat % 8 = 0 → (i.readG a).toNat < 2 ^ 56 → (s.ctx i.ctx).inWindow (i.readG a).toNat = false →
        i.rsafe = false → (s.ctx i.ctx).regionOf (i.readG a).toNat 8 = some (k, g) → g.wen = true →
        (s.Issues i (.watchRegister d a b c hidx) → i.readG b = 0 → (s.core s.curP).mons.length < 64 →
          ∃ t q, exec (.watchRegister d a b c hidx) s = .next t
            ∧ s.Sent t i (i.counted.await s.nextId (gDest d) false none).advance q
            ∧ q.op = .watch ∧ q.va = (i.readG a).toNat
            ∧ ∃ m, (t.core s.curP).mons = (s.core s.curP).mons ++ [m] ∧ m.id = s.nextId ∧ m.ctx = i.ctx
              ∧ m.va = (i.readG a).toNat ∧ m.hidx = hidx.toNat ∧ m.value = i.readG c)
        ∧ (s.Issues i (.watchRegister d a b c hidx) → i.readG b = 0 → 64 ≤ (s.core s.curP).mons.length →
          exec (.watchRegister d a b c hidx) s = .next (({ s.counted i with nextId := s.nextId + 1 }).setCur
            (i.counted.await s.nextId (gDest d) false (some 1)).advance))
        ∧ (s.Issues i (.watchCancel d a b c hidx) → i.readG b = 1 → ∃ t, exec (.watchCancel d a b c hidx) s = .next t
            ∧ (t.core s.curP).mons = (s.core s.curP).mons.filter (fun m => !(m.ctx = i.ctx && m.va = (i.readG a).toNat))
            ∧ ∀ n, n = (s.core s.curP).mons.countP (fun m => m.ctx = i.ctx && m.va = (i.readG a).toNat) →
              ((n = 0 ∨ g.kind < 2) →
                t.Issuing (i.counted.await s.nextId (gDest d) false (some (word64 n))).advance)
              ∧ (0 < n → 2 ≤ g.kind → t.Issuing (i.counted.await s.nextId (gDest d) false none).advance
                ∧ ∃ f q, f ∈ t.flights ∧ f.body = .req q ∧ q.op = .unwatch ∧ q.va = (i.readG a).toNat
                  ∧ q.ans = .unwatch d))))

/-! Messages. -/

/-- SEND with operands that pass R109's checks completes. Without a reservation, gD is 0 and one message is on its way,
with the header of the route and control words, the handler's default priority unless POV gives one, RSC its scope or
0 for .norel, and the payload. With one, the lowest free reservation is taken, gD is its number and RROUTE names it; with
none free, gD is all ones and nothing is sent (06 R107 to R111). The header fields that the spec does not fill are the model's choice
(log 29).

REPLY with operands that pass R112's checks completes with a message of KIND 1 whose TAG names the reservation, and
POST with a counter of R114 with one of KIND 2 that carries the counter and the count and no payload.

SENDM with operands that pass R113's checks and a free reservation completes: one message for each member, in
order, of its route word and with its own MIDX, all of one payload and one reservation, whose merge record is empty; gD
is the reservation's number. With none free, gD is all ones and nothing is sent (06 R113). -/
def Obligations.MessagesComplete : Prop :=
  (∀ (s : State) (i : Inst) (d a b c : GReg) (hidx : BitVec 12) (norel : Bool) (ga ctl : Nat) (bytes : List Byte),
      s.Issues i (.send d a b c hidx norel) → ga = (i.readG a).toNat → ctl = (i.readG c).toNat →
      s.checkSend i ga (i.readG b).toNat ctl hidx.toNat = .ok bytes → s.reaches i.ctx (bitsOf ga 63 48) (bitsOf ga 47 38) →
      (bitsOf ctl 22 22 = 0 → ∃ t m, exec (.send d a b c hidx norel) s = .next t
        ∧ s.Launched t i (i.counted.writeG d 0).advance (.msg m .send)
        ∧ HdrFilled m.hdr s i ga ctl 0 hidx.toNat ∧ m.payload = bytes ∧ m.hdr.rroute = 0
        ∧ m.hdr.prio = BitVec.ofNat 2 (if bitsOf ctl 21 21 = 1 then bitsOf ctl 19 18
            else s.defaultPrio i.ctx (s.ctx i.ctx).gen hidx.toNat)
        ∧ m.hdr.rsc = BitVec.ofNat 3 (if norel then 0 else s.sendScope i.ctx s.curP (bitsOf ga 63 48) (bitsOf ga 47 38)))
      ∧ (bitsOf ctl 22 22 = 1 → ∀ r, (s.core s.curP).freeResv = some r → ∃ t m,
        exec (.send d a b c hidx norel) s = .next t
        ∧ s.Launched t i (i.counted.writeG d (word64 r)).advance (.msg m .send)
        ∧ HdrFilled m.hdr s i ga ctl 0 hidx.toNat ∧ m.payload = bytes
        ∧ m.hdr.rroute = word64 ((s.ctx i.ctx).desc.rank * 2 ^ 48 + i.lcore * 2 ^ 38 + 64 + r)
        ∧ (t.core s.curP).resv.get? r = some ⟨i.ctx, bitsOf ctl 47 36, (s.ctx i.ctx).gen, none, none⟩)
      ∧ (bitsOf ctl 22 22 = 1 → (s.core s.curP).freeResv = none →
        exec (.send d a b c hidx norel) s = .next (s.became i (i.counted.writeG d (word64 (2 ^ 64 - 1))).advance)))
  ∧
  (∀ (s : State) (i : Inst) (a b c : GReg) (norel : Bool) (ga : Nat), ga = (i.readG a).toNat →
      s.reaches i.ctx (bitsOf ga 63 48) (bitsOf ga 47 38) →
      (s.Issues i (.reply a b c norel) → ∀ ctl bytes, ctl = (i.readG c).toNat →
        s.checkReply i ga (i.readG b).toNat ctl = .ok bytes → ∃ t m, exec (.reply a b c norel) s = .next t
          ∧ s.Launched t i i.counted.advance (.msg m .none)
          ∧ HdrFilled m.hdr s i ga ctl 1 0 ∧ m.payload = bytes ∧ bitsOf ga 6 6 = 1)
      ∧ (s.Issues i (.post a b norel) → (s.ctx i.ctx).routeOk ga (2 ^ 38 - 2 ^ 6) false = true →
        0 < (i.readG b).toNat → (i.readG b).toNat < 2 ^ 16 → ∃ t m, exec (.post a b norel) s = .next t
          ∧ s.Launched t i i.counted.advance (.msg m .send)
          ∧ m.hdr.kind = 2 ∧ m.hdr.dchip.toNat = bitsOf ga 63 48 ∧ m.hdr.dcore.toNat = bitsOf ga 47 38
          ∧ m.hdr.ctrn.toNat = bitsOf ga 5 0 ∧ m.hdr.ccnt.toNat = (i.readG b).toNat ∧ m.hdr.plen = 0 ∧ m.payload = []))
  ∧
  (∀ (s : State) (i : Inst) (d a b c : GReg) (hidx : BitVec 12) (norel : Bool) (n : BitVec 7) (ctl : Nat)
      (routes : List Nat) (bytes : List Byte),
      s.Issues i (.sendm d a b c hidx norel n) → ctl = (i.readG c).toNat →
      s.checkSendm i (i.readG a).toNat (i.readG b).toNat ctl hidx.toNat n.toNat = .ok (routes, bytes) →
      (∀ w ∈ routes, s.reaches i.ctx (bitsOf w 63 48) (bitsOf w 47 38)) →
      (∀ r, (s.core s.curP).freeResv = some r → ∃ t fs, exec (.sendm d a b c hidx norel n) s = .next t
        ∧ t.Issuing (i.counted.writeG d (word64 r)).advance ∧ t.mem = s.mem
        ∧ (t.core s.curP).resv.get? r
            = some ⟨i.ctx, bitsOf ctl 47 36, (s.ctx i.ctx).gen, some (0, 0, n.toNat), none⟩
        ∧ t.flights = s.flights ++ fs ∧ fs.length = n.toNat ∧ routes.length = n.toNat
        ∧ ∀ k (hk : k < routes.length), ∃ f m, fs[k]? = some f ∧ f.body = .msg m (.member r)
            ∧ HdrFilled m.hdr s i routes[k] ctl 0 hidx.toNat ∧ m.hdr.midx.toNat = k ∧ m.payload = bytes)
      ∧ ((s.core s.curP).freeResv = none → exec (.sendm d a b c hidx norel n) s
          = .next (s.became i (i.counted.writeG d (word64 (2 ^ 64 - 1))).advance)))

/-- MSGLD of an aligned offset within the 256 bytes completes: gD takes, later, the bytes of the running message's
payload from there, zero-extended. A misaligned offset and one outside raise their faults (06 R115). That gA is taken as signed is
the model's choice (log 49), and so is that DET of an offset outside is gA (log 28).

TAGNEW completes with the lowest tag of the group that is free, which is then live, or with 0 when the limit is
reached or none is free. TAGFREE of a live tag completes: it hands the tag to the oldest parked instance, or frees it.
TAGPARK completes as TAGNEW, or parks the instance, oldest last, and its slot becomes free (06 R116, R117).

ARM of a counter of the allotment, with a target of 32 bits, completes: with the enqueue action and a tag of 16
bits, it is among what the core accepts at the end of the cycle (10 R204); with the tile action, the descriptor of its 32 bytes is
read first. gD waits for the unit's answer (06 R118). That the handler index is not checked is the model's choice (log 49). -/
def Obligations.TagsPayloadAndArmComplete : Prop :=
  (∀ r ∈ payloadRows, ∀ (s : State) (i : Inst) (d a : GReg) (imm : BitVec 32) (o : Int),
      s.Issues i (r.1 d a imm) → o = (i.readG a).toInt + imm.toInt →
      (o % r.2 = 0 → 0 ≤ o → o + r.2 ≤ 256 → exec (r.1 d a imm) s = .next (({ s.counted i with nextId := s.nextId + 1 }).setCur
        (i.counted.await s.nextId (gDest d) false (some (word64 (ofLe (sliceBytes i.payload o.toNat r.2))))).advance))
      ∧ (o % r.2 ≠ 0 → exec (r.1 d a imm) s = .next (s.faulted i fMisaligned (BitVec.ofInt 64 o).toNat 0))
      ∧ (o % r.2 = 0 → (o < 0 ∨ 256 < o + r.2) → exec (r.1 d a imm) s = .next (s.faulted i fOperand 0 (i.readG a).toNat)))
  ∧
  (∀ (s : State) (i : Inst) (d a : GReg) (n : BitVec 4) (g : TagGroup), g = (s.lc i.ctx i.lcore).group n.toNat →
      (∀ k, g.live.length < g.limit → g.base ≤ k → k < g.base + g.span → k ∉ g.live →
        (∀ j, g.base ≤ j → j < k → j ∈ g.live) →
        (s.Issues i (.tagnew d n) → ∃ t, exec (.tagnew d n) s = .next t ∧ t.Issuing (i.counted.writeG d (word64 k)).advance
          ∧ ((t.lc i.ctx i.lcore).group n.toNat).live = k :: g.live)
        ∧ (s.Issues i (.tagpark d n) → ∃ t, exec (.tagpark d n) s = .next t
          ∧ t.Issuing (i.counted.writeG d (word64 k)).advance
          ∧ ((t.lc i.ctx i.lcore).group n.toNat).live = k :: g.live))
      ∧ ((g.limit ≤ g.live.length ∨ ∀ k, g.base ≤ k → k < g.base + g.span → k ∈ g.live) →
        (s.Issues i (.tagnew d n) → exec (.tagnew d n) s = .next (s.became i (i.counted.writeG d 0).advance))
        ∧ (s.Issues i (.tagpark d n) → (s.lc i.ctx i.lcore).nextCont < (s.lc i.ctx i.lcore).contMax → ∃ t k,
          exec (.tagpark d n) s = .next t ∧ t.inst? s.curP s.curS = none
          ∧ (t.lc i.ctx i.lcore).conts.get? (s.lc i.ctx i.lcore).nextCont = some k ∧ k.Parks i (.tag n.toNat) d
          ∧ ((t.lc i.ctx i.lcore).group n.toNat).parked = g.parked ++ [(s.lc i.ctx i.lcore).nextCont]))
      ∧ (s.Issues i (.tagfree a n) → (i.readG a).toNat ∈ g.live → ∃ t, exec (.tagfree a n) s = .next t
          ∧ t.Issuing i.counted.advance
          ∧ (∀ r rest, g.parked = r :: rest → ((t.lc i.ctx i.lcore).group n.toNat) = { g with parked := rest }
            ∧ ∀ k, (s.lc i.ctx i.lcore).conts.get? r = some k →
              ((t.lc i.ctx i.lcore).conts.get? r).map Cont.value = some (some (i.readG a)))
          ∧ (g.parked = [] → ((t.lc i.ctx i.lcore).group n.toNat) = { g with live := g.live.erase (i.readG a).toNat }))
      ∧ (s.Issues i (.tagfree a n) → (i.readG a).toNat ∉ g.live →
          exec (.tagfree a n) s = .next (s.faulted i fOperand 0 (i.readG a).toNat)))
  ∧
  (∀ (s : State) (i : Inst) (d a b c : GReg) (hidx : BitVec 12) (prio : BitVec 2),
      (i.readG a).toNat < 64 → (i.readG a).toNat < (s.lc i.ctx i.lcore).ctrn → 0 < (i.readG b).toNat →
      (i.readG b).toNat < 2 ^ 32 →
      (s.Issues i (.arm d a b c hidx true prio) → (i.readG c).toNat < 2 ^ 16 → ∃ t,
        exec (.arm d a b c hidx true prio) s = .next t
        ∧ t.Issuing (i.counted.await s.nextId (gDest d) false none).advance ∧ t.mem = s.mem
        ∧ (t.core s.curP).made = insertMade ⟨12, i.ctx, .ctr (i.readG a).toNat
            (.arm (i.readG b).toNat (.enqueue hidx.toNat (i.readG c).toNat prio.toNat) i.iid s.nextId)
            ((s.ctx i.ctx).desc.rank, i.lcore)⟩ (s.core s.curP).made)
      ∧ (s.Issues i (.arm d a b c 0 false prio) → ∀ k g, (i.readG c).toNat % 32 = 0 → (i.readG c).toNat < 2 ^ 56 →
        (s.ctx i.ctx).holdsArr (quadOf s.curP) = true → (s.ctx i.ctx).regionOf (i.readG c).toNat 32 = some (k, g) →
        ∃ t q, exec (.arm d a b c 0 false prio) s = .next t
          ∧ s.Sent t i (i.counted.await s.nextId (gDest d) false none).advance q
          ∧ q.op = .read ∧ q.va = (i.readG c).toNat ∧ q.n = 32
          ∧ q.ans = .arm d (i.readG a).toNat (i.readG b).toNat))

/-- A ring word whose handle is not null and whose control block lies in a region that may be written completes: its
request leaves for the block's owner with the operation and the handle's cursor. QPUSH, QPOP and QADV leave gD and
the handle to the owner's reply; QWAIT parks the instance, and writes no byte but its continuation record and the control
block of its silo (06 R119 to R121, 10 R210).

WPUT of a route on the context's ranks, an f32 key that is no NaN and an identifier of 16 bits completes: the entry
leaves for the weir of its core. That a NOTE of 0 with a CTR that is not 0 is taken is the model's choice (log 49), and so are the
places of the silo's records and the corners of a ring's checks (logs 16 and 30). WTAKE completes on the weir as it stands: with gA = 0 it removes the first entry, or
answers all ones; with 1 it answers DROP, TIE and the count; with 2 it answers the count and empties the weir (06 R122,
R123). -/
def Obligations.RingAndWeirWordsComplete : Prop :=
  (∀ (s : State) (i : Inst) (d b : GReg) (a : XReg) (k : Nat) (g : Region), i.readQ a ≠ 0 →
      (i.readQ a).toNat % 2 ^ 50 * 64 < 2 ^ 56 → (s.ctx i.ctx).regionOf ((i.readQ a).toNat % 2 ^ 50 * 64) 64 = some (k, g) →
      g.wen = true →
      (∀ x op, ((x = .qpush d a b ∧ op = .push (i.readG b)) ∨ (x = .qpop d a ∧ op = .pop)
          ∨ (x = .qadv d a b ∧ op = .adv (i.readG b).toNat)) → s.Issues i x → ∃ t q, exec x s = .next t
        ∧ s.Sent t i (i.counted.await s.nextId (.ring d a) false none).advance q
        ∧ q.va = (i.readQ a).toNat % 2 ^ 50 * 64 ∧ q.ring = some ⟨op, a, (i.readQ a).toNat / 2 ^ 50, d⟩)
      ∧ (s.Issues i (.qwait d a b) → (s.lc i.ctx i.lcore).nextCont < (s.lc i.ctx i.lcore).contMax → ∃ t f q c, exec (.qwait d a b) s = .next t
        ∧ t.inst? s.curP s.curS = none
        ∧ (∀ x, ¬ (s.contAt i.ctx i.lcore (s.lc i.ctx i.lcore).nextCont ≤ x
              ∧ x < s.contAt i.ctx i.lcore (s.lc i.ctx i.lcore).nextCont + 4096) →
            ¬ (s.siloAt i.ctx i.lcore ≤ x ∧ x < s.siloAt i.ctx i.lcore + 4096) →
            s.memOk → Memory.readByte t.mem x = Memory.readByte s.mem x)
        ∧ (s.Unwatched (s.contAt i.ctx i.lcore (s.lc i.ctx i.lcore).nextCont) 4096 →
          s.Unwatched (s.siloAt i.ctx i.lcore) 4096 → t.flights = s.flights ++ [f])
        ∧ f ∈ t.flights ∧ f.body = .req q ∧ q.va = (i.readQ a).toNat % 2 ^ 50 * 64
        ∧ q.ring = some ⟨.wait (i.readG b).toNat (s.lc i.ctx i.lcore).nextCont, a, (i.readQ a).toNat / 2 ^ 50, d⟩
        ∧ (t.lc i.ctx i.lcore).conts.get? (s.lc i.ctx i.lcore).nextCont = some c
        ∧ c.Parks i (.ring ((i.readQ a).toNat % 2 ^ 50 * 64)) d))
  ∧
  (∀ (s : State) (i : Inst) (d a b c : GReg) (w : Weir), w = (s.lc i.ctx i.lcore).weir →
      (s.Issues i (.wput a b c) → (s.ctx i.ctx).routeOk (i.readG a).toNat unusedWput false = true →
        (i.readG b).toNat < 2 ^ 32 → decodeFloat (fpOf .f32) (i.readG b).toNat ≠ .nan → (i.readG c).toNat < 2 ^ 16 →
        s.reaches i.ctx (bitsOf (i.readG a).toNat 63 48) (bitsOf (i.readG a).toNat 47 38) → ∃ t,
          exec (.wput a b c) s = .next t ∧ s.Launched t i i.counted.advance (.wput (BitVec.ofNat 32 (i.readG b).toNat)
            (i.readG c).toNat (if bitsOf (i.readG a).toNat 7 7 = 1 then some ((i.readG a).toNat % 64) else none)
            (bitsOf (i.readG a).toNat 63 48) (bitsOf (i.readG a).toNat 47 38)))
      ∧ (s.Issues i (.wtakeFirst d a) → i.readG a = 0 → ∃ t v, exec (.wtakeFirst d a) s = .next t
        ∧ t.Issuing (i.counted.writeG d v).advance
        ∧ (w.entries = [] → v = word64 (2 ^ 64 - 1) ∧ (t.lc i.ctx i.lcore).weir = w)
        ∧ ∀ e rest, w.entries = e :: rest → v = word64 (e.1.toNat * 2 ^ 32 + e.2)
            ∧ (t.lc i.ctx i.lcore).weir = { w with entries := rest })
      ∧ (s.Issues i (.wtakeStatus d a) → i.readG a = 1 → ∃ t, exec (.wtakeStatus d a) s = .next t
        ∧ t.Issuing (i.counted.writeG d (word64 (min w.drop 65535 * 2 ^ 32 + (if w.tie then 256 else 0)
            + w.entries.length))).advance ∧ (t.lc i.ctx i.lcore).weir = w)
      ∧ (s.Issues i (.wtakeEmpty d a) → i.readG a = 2 → ∃ t, exec (.wtakeEmpty d a) s = .next t
        ∧ t.Issuing (i.counted.writeG d (word64 w.entries.length)).advance
        ∧ (t.lc i.ctx i.lcore).weir = ⟨[], 0, false⟩))

/-- JREC of a well-formed record in the issuing core's window completes by its request to the hub, with DIGEST filled
and the record cut to its entries; JEMIT of a route on the context's ranks completes by its request, and its slot waits
for the hub. JCKPT, JTRUNC with 0 and JTRUNC with all ones complete by their requests, and gD waits for the hub's answer (06 R124 to
R127). -/
def Obligations.JournalWordsComplete : Prop :=
  ∀ (s : State) (i : Inst) (d a b c : GReg),
    (s.Issues i (.jrec d a b c) → ∀ pa bs, s.checkJrec i (i.readG a).toNat (i.readG b).toNat (i.readG c).toNat = .ok (pa, bs) →
      ∃ t, exec (.jrec d a b c) s = .next t ∧ s.Launched t i
        ({ i.counted.await s.nextId (gDest d) false none with hubOn := i.hubOn ++ [s.nextId] }).advance
        (.hubReq (.jrec pa ((bs.take 24 ++ leBytes 4 (jdigest (i.readG b).toNat (i.readG c).toNat).toNat ++ bs.drop 28).take
          (64 + 16 * byteAt bs 28)) (jdigest (i.readG b).toNat (i.readG c).toNat) d)))
    ∧ (s.Issues i (.jemit d a b c) → (s.ctx i.ctx).routeOk (i.readG b).toNat unusedEmit true = true →
      ∃ t, exec (.jemit d a b c) s = .next t ∧ s.Launched t i { i.counted.edgeAt d with waitOn := some s.nextId }
        (.hubReq (.jemit (i.readG a) (i.readG b) (i.readG c) d)))
    ∧ (∀ x q, ((x = .jckpt d a b ∧ q = .jckpt (i.readG a) (i.readG b))
        ∨ (x = .jtruncCheckpoint d a ∧ (i.readG a).toNat % 2 ^ 32 = 0 ∧ q = .jtrunc ((i.readG a).extractLsb' 32 32))
        ∨ (x = .jtruncClose d a ∧ (i.readG a).toNat % 2 ^ 32 = 2 ^ 32 - 1 ∧ q = .jclose ((i.readG a).extractLsb' 32 32))) →
      s.Issues i x → ∃ t, exec x s = .next t ∧ s.Launched t i
        ({ i.counted.await s.nextId (gDest d) false none with hubOn := i.hubOn ++ [s.nextId] }).advance (.hubReq q))

/-! Vector words. -/

/-- The lane arithmetic, the fused operations and the lane shifts of a format that each takes complete: element by
element on the active lanes, by R133 or R134, R136 and R135, with every other element kept and the flags of the active
elements alone (07 R129, R130). -/
def Obligations.VectorArithmeticCompletes : Prop :=
  ∀ (s : State) (i : Inst) (d a b c : VReg) (m : VMask) (f : Fmt) (r : Rnd),
    (∀ row ∈ vectorRows, (row.1 d a b m f r).wellFormed = true → s.Issues i (row.1 d a b m f r) → ∃ e v fl,
      exec (row.1 d a b m f r) s = .next (s.holds i e) ∧ e.Is d v fl
      ∧ Elementwise i m f (i.readV d) v
          (fun k => arithOp row.2 f r (readElem f (i.vNat a) k)
            (readElem f (i.vNat (match row.2 with | .abs | .neg | .sqrt => a | _ => b)) k)) fl)
    ∧ (∀ row ∈ fusedRows, f.wideFloat = true → s.Issues i (row.1 d a b c m f r) → ∃ e v fl,
      exec (row.1 d a b c m f r) s = .next (s.holds i e) ∧ e.Is d v fl
      ∧ Elementwise i m f (i.readV d) v (fun k => fusedOp row.2.1 row.2.2 f r (readElem f (i.vNat a) k)
          (readElem f (i.vNat b) k) (readElem f (i.vNat c) k)) fl)
    ∧ (∀ row ∈ vectorShiftRows, f.shiftable = true → s.Issues i (row.1 d a b m f) → ∃ e v fl,
      exec (row.1 d a b m f) s = .next (s.holds i e) ∧ e.Is d v fl
      ∧ Elementwise i m f (i.readV d) v
          (fun k => (row.2 f (readElem f (i.vNat a) k) (readElem f (i.vNat b) k), {})) fl)

/-- VAND, VOR and VXOR complete bit by bit in each active lane, every other lane kept, with no flag (07 R135).

A compare of a format that it takes completes: bit j of kD is 1 exactly when lane j is active and the condition holds
for every element of the lane; no flag is set (07 R137). -/
def Obligations.VectorLogicAndComparesComplete : Prop :=
  (∀ row ∈ vectorLogicRows, ∀ (s : State) (i : Inst) (d a b : VReg) (m : VMask), s.Issues i (row.1 d a b m) → ∃ e v,
      exec (row.1 d a b m) s = .next (s.holds i e) ∧ e.Is d v {}
      ∧ ∀ n < 512, v.getLsbD n = if i.laneOn m (n / 32) then row.2 ((i.readV a).getLsbD n) ((i.readV b).getLsbD n)
          else (i.readV d).getLsbD n)
  ∧
  (∀ row ∈ vectorCompareRows, ∀ (s : State) (i : Inst) (d : KReg) (a b : VReg) (m : VMask) (f : Fmt) (md : RMode),
      (row.1 d a b m f md).wellFormed = true → s.Issues i (row.1 d a b m f md) → ∃ e k,
      exec (row.1 d a b m f md) s = .next (s.holds i e) ∧ e.vw = [] ∧ e.gw = none ∧ e.kw = some (d, k) ∧ e.flags = {}
      ∧ ∀ j < 16, k.getLsbD j = (i.laneOn m j && decide (∀ n < elemCount f, elemPos f n / 32 = j →
          cmpElem row.2 f (readElem f (i.vNat a) n) (readElem f (i.vNat b) n) = true)))

/-- VSEL leaves C reserved. Lane j of vD is that of vA when lane j is active, and that of vB otherwise: it writes every
lane, and the mask operand selects (07 R138). -/
def Obligations.VselSelectsLanes : Prop :=
  (∀ w : Word, w.extractLsb' 56 8 = 0x83 → w.extractLsb' 24 8 = 0 → w.extractLsb' 32 6 ≠ 0 → decode w = .error .reserved)
  ∧ (∀ w : Word, w.extractLsb' 56 8 = 0x83 → w.extractLsb' 32 6 = 0 → ∀ x, decode w = .ok x →
    ∃ m, x = .vsel (w.extractLsb' 50 5) (w.extractLsb' 44 5) (w.extractLsb' 38 5) m)
  ∧ ∀ (s : State) (i : Inst) (d a b : VReg) (m : VMask), s.Issues i (.vsel d a b m) → ∃ e v,
    exec (.vsel d a b m) s = .next (s.holds i e) ∧ e.Is d v {}
    ∧ ∀ j < 16, v.extractLsb' (32 * j) 32 =
        if i.laneOn m j then (i.readV a).extractLsb' (32 * j) 32 else (i.readV b).extractLsb' (32 * j) 32

/-- The shuffles complete: an active element of vD is the element that R139 names, moved as it stands, every other element
kept, with no flag. -/
def Obligations.ShufflesComplete : Prop :=
  ∀ (s : State) (i : Inst) (d a b c : VReg) (g : GReg) (m : VMask) (f : Fmt) (md : RMode),
    f.shuffled = true → ∀ row ∈ shuffleRows f a b c g i, s.Issues i (row.1 d m md) → ∃ e v,
    exec (row.1 d m md) s = .next (s.holds i e) ∧ e.Is d v {}
    ∧ Elementwise i m f (i.readV d) v (fun k => (row.2 k, {})) {}

/-- VINS leaves C reserved. With j = gB[63:48] below E, vD becomes vA, and then element j is gB[w-1:0] when it is active;
a j of E or more raises the operand-range fault (07 R140).

VEXT leaves B and C reserved. With j the lowest-numbered active element, gD becomes a(j), sign-extended for i16 and i8
and zero-extended for every other format; with no lane active, gD becomes 0 (07 R141). -/
def Obligations.VinsAndVextComplete : Prop :=
  ((∀ w : Word, w.extractLsb' 56 8 = 0x84 → w.extractLsb' 24 8 = 5 → (fmtOfCode (w.extractLsb' 16 4)).shuffled = true →
      w.extractLsb' 32 6 ≠ 0 → decode w = .error .reserved)
    ∧ ∀ (s : State) (i : Inst) (d a : VReg) (b : GReg) (m : VMask) (f : Fmt) (md : RMode) (j : Nat), f.shuffled = true →
      s.Issues i (.vins d a b m f md) → j = bitsOf (i.readG b).toNat 63 48 →
      (j < elemCount f → ∃ e v, exec (.vins d a b m f md) s = .next (s.holds i e) ∧ e.Is d v {}
        ∧ ∀ k < elemCount f, readElem f v.toNat k =
            if k = j ∧ i.elemOn m f j = true then (i.readG b).toNat % 2 ^ fmtWidth f else readElem f (i.vNat a) k)
      ∧ (elemCount f ≤ j → exec (.vins d a b m f md) s = .next (s.faulted i fOperand 0 (i.readG b).toNat)))
  ∧
  ((∀ w : Word, w.extractLsb' 56 8 = 0x84 → w.extractLsb' 24 8 = 6 → (fmtOfCode (w.extractLsb' 16 4)).shuffled = true →
      w.extractLsb' 32 12 ≠ 0 → decode w = .error .reserved)
    ∧ ∀ (s : State) (i : Inst) (d : GReg) (a : VReg) (m : VMask) (f : Fmt) (md : RMode), f.shuffled = true →
      s.Issues i (.vext d a m f md) → ∃ e g, exec (.vext d a m f md) s = .next (s.holds i e)
        ∧ e.vw = [] ∧ e.kw = none ∧ e.gw = some (d, g) ∧ e.flags = {}
        ∧ ((∀ j < 16, i.laneOn m j = false) → g = 0)
        ∧ ∀ j < elemCount f, i.elemOn m f j = true → (∀ k < j, i.elemOn m f k = false) →
          ((f = .i16 ∨ f = .i8) → g.toInt = signedOf (fmtWidth f) (readElem f (i.vNat a) j))
          ∧ (f ≠ .i16 → f ≠ .i8 → g.toNat = readElem f (i.vNat a) j))

/-- VCVT completes: each active destination element that has a source element is its conversion, and each other active
one is 0. QUANT and DEQUANT with a part within the register and a valid scale complete: the part's active elements are
rounded from f32 with the scale removed, or to f32 with it applied. A bad part and a bad scale raise their faults (07
R142 to R144, 02 R25).

The channel form of DEQUANT completes when its channel decodes the payload: part p of the payload, in the channel's
format and with its scale, becomes f32 element by element; elements beyond the payload count as 0 (07 R145, 02 R27). A
channel that fails its check, such as one whose SMODE is 3, raises the fault of that check, before vB is looked at; a bad vB,
or a part that begins beyond the payload, raises operand-range. The model's choices are DET, the low 64 bits of vB (log 28), the
corners of the 6-bit formats and of t5, and the channel's check first (log 32), and NV alone for a NaN that becomes b1, faults
whatever the mask, and a 1 in vB[511:21] of the channel form (log 49). -/
def Obligations.ConversionsComplete : Prop :=
  (∀ (s : State) (i : Inst) (d a b : VReg) (m : VMask) (r : Rnd),
      (∀ dst src : Fmt, s.Issues i (.vcvt d a m dst src r) → ∃ e v fl,
        exec (.vcvt d a m dst src r) s = .next (s.holds i e) ∧ e.Is d v fl
        ∧ (∀ k < elemCount dst, i.elemOn m dst k = true → readElem dst v.toNat k =
            if k < elemCount src then (convertCode src dst r.mode r.sat (readElem src (i.vNat a) k)).1 % 2 ^ fmtWidth dst else 0)
        ∧ (dst ≠ .t5 → (∀ k < elemCount dst, i.elemOn m dst k = false →
            readElem dst v.toNat k = readElem dst (i.vNat d) k)
          ∧ fl = ((List.range (elemCount dst)).filter (i.elemOn m dst)).foldl (fun acc k => acc.or
              (if k < elemCount src then (convertCode src dst r.mode r.sat (readElem src (i.vNat a) k)).2 else {})) {}))
      ∧ ∀ (f : Fmt) (p : Nat) (sc : BitVec 16), f.quantised = true → p = (i.vNat b) / 2 ^ 16 % 32 →
        sc = BitVec.ofNat 16 (i.vNat b) →
        ((i.vNat b) / 2 ^ 21 = 0 → 16 * p + 16 ≤ elemCount f → scaleOk sc = true →
          (s.Issues i (.quant d a b m f r) → ∃ e v fl, exec (.quant d a b m f r) s = .next (s.holds i e) ∧ e.Is d v fl
            ∧ (∀ k < 16, i.laneOn m k = true → readElem f v.toNat (16 * p + k) =
                (roundAny f true r.mode r.sat (scaleRemove (decodeFloat (fpOf .f32) (readElem .f32 (i.vNat a) k))
                  (decodeFloat (fpOf .bf16) sc.toNat))).1 % 2 ^ fmtWidth f)
            ∧ (f ≠ .t5 → ∀ k < elemCount f, (k < 16 * p ∨ 16 * p + 16 ≤ k ∨ i.laneOn m (k - 16 * p) = false) →
                readElem f v.toNat k = readElem f (i.vNat d) k))
          ∧ (s.Issues i (.dequant d a b m f r) → ∃ e v fl, exec (.dequant d a b m f r) s = .next (s.holds i e) ∧ e.Is d v fl
            ∧ Elementwise i m .f32 (i.readV d) v (fun k => dequantElem f r sc (readElem f (i.vNat a) (16 * p + k))) fl))
        ∧ (((i.vNat b) / 2 ^ 21 ≠ 0 ∨ elemCount f < 16 * p + 16) →
          (s.Issues i (.quant d a b m f r) →
            exec (.quant d a b m f r) s = .next (s.faulted i fOperand 0 (i.vNat b % 2 ^ 64)))
          ∧ (s.Issues i (.dequant d a b m f r) →
            exec (.dequant d a b m f r) s = .next (s.faulted i fOperand 0 (i.vNat b % 2 ^ 64))))
        ∧ ((i.vNat b) / 2 ^ 21 = 0 → 16 * p + 16 ≤ elemCount f → scaleOk sc = false →
          (s.Issues i (.quant d a b m f r) → exec (.quant d a b m f r) s = .next (s.faulted i fBadScale 0 sc.toNat))
          ∧ (s.Issues i (.dequant d a b m f r) → exec (.dequant d a b m f r) s = .next (s.faulted i fBadScale 0 sc.toNat))))
  ∧
  (∀ (s : State) (i : Inst) (d b : VReg) (m : VMask) (r : Rnd) (ch plen p : Nat) (f : Fmt),
      s.Issues i (.dequantChannel d b m r) →
      ch = (Tab.get chanReset (s.lc i.ctx i.lcore).chans (bitsOf (i.readM 2).toNat 63 59)).toNat →
      plen = bitsOf (i.readM 1).toNat 8 0 → p = i.vNat b / 2 ^ 16 % 32 → f = fmtOfNum (ch % 16) →
      (∀ sc, channelScale i ch plen = .ok sc →
        (i.vNat b % 2 ^ 16 = 0 → i.vNat b / 2 ^ 21 = 0 → inPayload f (16 * p) plen = true → ∃ e v fl,
          exec (.dequantChannel d b m r) s = .next (s.holds i e) ∧ e.Is d v fl
          ∧ Elementwise i m .f32 (i.readV d) v (fun k =>
              if inPayload f (16 * p + k) plen then dequantElem f r sc (payloadElem f (ofLe i.payload) (16 * p + k))
              else dequantBeyond r sc) fl)
        ∧ ((i.vNat b % 2 ^ 16 ≠ 0 ∨ i.vNat b / 2 ^ 21 ≠ 0 ∨ inPayload f (16 * p) plen = false) →
          exec (.dequantChannel d b m r) s = .next (s.faulted i fOperand 0 (i.vNat b % 2 ^ 64))))
      ∧ (∀ code addr det, channelScale i ch plen = .error (code, addr, det) →
        exec (.dequantChannel d b m r) s = .next (s.faulted i code addr det))
      ∧ (bitsOf ch 15 14 = 3 → exec (.dequantChannel d b m r) s = .next (s.faulted i fChannel 0 ch)))

/-- A reduction completes with its root in element 0 and every other bit 0: the pairwise tree of R38 over the active
elements, or the value that R146 gives for none. For the integer sums without .sat the root is the sum of the active
elements, wrapped to the width. A scan completes with the running value after each element, the absent-root value before the
first active one (02 R39, 07 R147). That .sat does not act at a combination of floating point, and that a lone NaN stands as it
is, is the model's choice (logs 50 and 49). -/
def Obligations.ReductionsAndScansComplete : Prop :=
  ∀ (s : State) (i : Inst) (d a : VReg) (m : VMask) (f : Fmt) (r : Rnd), f.arith = true →
    (∀ row ∈ reduceRows, s.Issues i (row.1 d a m f r) → ∃ e v fl,
      exec (row.1 d a m f r) s = .next (s.holds i e) ∧ e.Is d v fl
      ∧ (v, fl) = ((fun x : Nat × Flags => (BitVec.ofNat 512 x.1, x.2))
          ((pairTree row.2 f r (Nat.log2 (elemCount f)) (i.present m f a)).getD (absentRoot row.2 f, {})))
      ∧ (row.2 = .add → f.isFloat = false → r.sat = false → v.toNat = wrapCode (fmtWidth f)
          (((List.range (elemCount f)).filter (i.elemOn m f)).map (fun k => intOf f (readElem f (i.vNat a) k))).sum))
    ∧ ∀ row ∈ scanRows, s.Issues i (row.1 d a m f r) → ∃ e v fl,
      exec (row.1 d a m f r) s = .next (s.holds i e) ∧ e.Is d v fl
      ∧ fl = (runningValue row.2 f r (i.present m f a) (elemCount f)).2
      ∧ ∀ k < elemCount f, (runningValue row.2 f r (i.present m f a) (k + 1)).1 < 2 ^ fmtWidth f →
          readElem f v.toNat k = (runningValue row.2 f r (i.present m f a) (k + 1)).1

/-- A transcendental of f32, bf16 or f16 completes element by element: a special argument gives the value and flags of
R148; otherwise a bf16 or f16 result is the exact value rounded to nearest, with NX (07 R148, R149). The exact value as a
fixed-point number of the model's own (log 8), and NX for VEXP of 0 and VSIGM of 0 (log 32), are the model's choices. -/
def Obligations.TranscendentalsComplete : Prop :=
  ∀ row ∈ transRows, ∀ (s : State) (i : Inst) (d a : VReg) (m : VMask) (f : Fmt) (sat : Bool), f.wideFloat = true →
    s.Issues i (row.1 d a m f sat) → ∃ e v fl, exec (row.1 d a m f sat) s = .next (s.holds i e) ∧ e.Is d v fl
      ∧ Elementwise i m f (i.readV d) v (fun k => transElem row.2 f sat (readElem f (i.vNat a) k)) fl
      ∧ ∀ k < elemCount f, i.elemOn m f k = true → ∀ x, x = decodeFloat (fpOf f) (readElem f (i.vNat a) k) →
        (∀ y g, transSpecial row.2 x = some (y, g) →
          readElem f v.toNat k = (roundFloat (fpOf f) .rne sat y).1 % 2 ^ fmtWidth f)
        ∧ (transSpecial row.2 x = none → f ≠ .f32 →
          readElem f v.toNat k = (roundFloat (fpOf f) .rne sat (transExact row.2 x)).1 % 2 ^ fmtWidth f ∧ fl.nx = true)

/-- VPACKNZ with a start within the register completes: vD holds the first non-zero active elements from there, each with
its index, as many as fit, and vD+1 their number and the element where the search stopped; another vB raises operand-range.
VARGMAX completes with the lowest index of a largest active element that is no NaN, and that element, or the values of R151
for none. VTOPK with no active ID all ones completes with the eight first of its candidates; with one, it raises
operand-range (07 R150 to R152). DET of these faults, the low 64 bits of vB, is the model's choice (log 28). -/
def Obligations.PackingAndTopCompletes : Prop :=
  ∀ (s : State) (i : Inst) (d a b c : VReg) (m : VMask) (f : Fmt) (md : RMode),
    (s.Issues i (.vpacknz d a b m f md) → f.shuffled = true → i.vNat b / 2 ^ 32 = 0 → i.vNat b / 2 ^ 16 % 65536 ≤ elemCount f →
      ∃ e x y l, exec (.vpacknz d a b m f md) s = .next (s.holds i e) ∧ e.vw = [(d, x), (d + 1, y)] ∧ e.kw = none
        ∧ e.gw = none ∧ e.flags = {}
        ∧ l = (((List.range (elemCount f)).filter (fun k => decide (i.vNat b / 2 ^ 16 % 65536 ≤ k) && i.elemOn m f k
            && nonZero f (readElem f (i.vNat a) k))).take (if fmtWidth f = 32 then 8 else 16))
        ∧ y.toNat = l.length + 2 ^ 16 * (if l.length = (if fmtWidth f = 32 then 8 else 16) then l.getLastD 0 + 1 else elemCount f)
        ∧ x.toNat < 2 ^ ((if fmtWidth f = 32 then 64 else 32) * l.length)
        ∧ ∀ n (hn : n < l.length), (if fmtWidth f = 32 then x.toNat / 2 ^ (64 * n) % 2 ^ 64 else x.toNat / 2 ^ (32 * n) % 2 ^ 32)
            = (i.vNat b + l[n]) % 65536 + readElem f (i.vNat a) l[n] * (if fmtWidth f = 32 then 2 ^ 32 else 2 ^ 16))
    ∧ (s.Issues i (.vpacknz d a b m f md) → (i.vNat b / 2 ^ 32 ≠ 0 ∨ elemCount f < i.vNat b / 2 ^ 16 % 65536) →
      exec (.vpacknz d a b m f md) s = .next (s.faulted i fOperand 0 (i.vNat b % 2 ^ 64)))
    ∧ (s.Issues i (.vargmax d a m md) → ∃ e v, exec (.vargmax d a m md) s = .next (s.holds i e) ∧ e.Is d v {}
      ∧ ((∀ k < 16, i.laneOn m k = true → (decodeFloat (fpOf .f32) (readElem .f32 (i.vNat a) k)).isNaN = true) →
          v.toNat = 0xFFFFFFFF + 0x7FC00000 * 2 ^ 32)
      ∧ ((∃ k < 16, i.laneOn m k = true ∧ (decodeFloat (fpOf .f32) (readElem .f32 (i.vNat a) k)).isNaN = false) →
          ∃ j < 16, v.toNat = j + readElem .f32 (i.vNat a) j * 2 ^ 32 ∧ i.laneOn m j = true
            ∧ (decodeFloat (fpOf .f32) (readElem .f32 (i.vNat a) j)).isNaN = false
            ∧ ∀ k < 16, i.laneOn m k = true →
              cmpElem .lt .f32 (readElem .f32 (i.vNat a) j) (readElem .f32 (i.vNat a) k) = false
              ∧ (k < j → (decodeFloat (fpOf .f32) (readElem .f32 (i.vNat a) k)).isNaN = false →
                cmpElem .lt .f32 (readElem .f32 (i.vNat a) k) (readElem .f32 (i.vNat a) j) = true)))
    ∧ (s.Issues i (.vtopk d a b c m md) → (∃ k < 16, i.laneOn m k = true ∧ readElem .f32 (i.vNat b) k = 0xFFFFFFFF) →
      exec (.vtopk d a b c m md) s = .next (s.faulted i fOperand 0 (i.vNat b % 2 ^ 64)))
    ∧ (s.Issues i (.vtopk d a b c m md) → (∀ k < 16, i.laneOn m k = true → readElem .f32 (i.vNat b) k ≠ 0xFFFFFFFF) →
      ∃ e v fl l, exec (.vtopk d a b c m md) s = .next (s.holds i e) ∧ e.Is d v fl
        ∧ l = ((((List.range 8).map (fun k => (readElem .f32 (i.vNat c) (2 * k), readElem .f32 (i.vNat c) (2 * k + 1)))).filter
            (fun e => e.2 != 0xFFFFFFFF)
          ++ ((List.range 16).filter (i.laneOn m)).map (fun k => (readElem .f32 (i.vNat a) k, readElem .f32 (i.vNat b) k))))
        ∧ fl = { nv := l.any (fun e => (decodeFloat (fpOf .f32) e.1).isNaN) }
        ∧ ∀ k < 8, v.toNat / 2 ^ (64 * k) % 2 ^ 64 =
          (match (((l.filter (fun e => !(decodeFloat (fpOf .f32) e.1).isNaN)).foldl insertCand []))[k]? with
            | some (key, ident) => key + ident * 2 ^ 32
            | none => 0xFF800000 + 0xFFFFFFFF * 2 ^ 32))

/-- The mask words complete with the k register, or the g register, of Table 07-5 (07 R153).

A vector word completes: its registers take their values, a g register unless a younger word has written it, its
flags are added to the status word, and it leaves the instance's list; k0 and g0 discard what is written (07 R132, 01 R10).
A loop check that waited for its result is then made: that it waits is the model's choice (log 44). -/
def Obligations.MaskWordsAndVectorEndComplete : Prop :=
  (∀ (s : State) (i : Inst) (d a b : KReg) (g : GReg),
      (∀ x k, ((x = .kand d a b ∧ k = i.readK a &&& i.readK b) ∨ (x = .kor d a b ∧ k = i.readK a ||| i.readK b)
          ∨ (x = .kxor d a b ∧ k = i.readK a ^^^ i.readK b) ∨ (x = .knot d a ∧ k = ~~~ i.readK a)
          ∨ (x = .kmov d g ∧ k = (i.readG g).extractLsb' 0 16)) → s.Issues i x → ∃ e,
        exec x s = .next (s.holds i e) ∧ e.vw = [] ∧ e.gw = none ∧ e.kw = some (d, k) ∧ e.flags = {})
      ∧ (∀ x v, ((x = .krd g a ∧ v = (i.readK a).toNat)
          ∨ (x = .kpopc g a ∧ v = (List.range 16).countP (fun n => (i.readK a).getLsbD n))) → s.Issues i x → ∃ e,
        exec x s = .next (s.holds i e) ∧ e.vw = [] ∧ e.kw = none ∧ e.gw = some (g, word64 v) ∧ e.flags = {}))
  ∧
  (∀ (s : State) (p sl n : Nat) (i : Inst) (e : VPend), s.inst? p sl = some i → i.vpend[n]? = some e →
      ∃ (t : State) (j : Inst), exec (.vectorComplete p sl n) s = .next t ∧ t.inst? p sl = some j.settleEdge ∧ t.mem = s.mem
        ∧ j.edge = i.edge ∧ (i.edge = false → j.settleEdge = j)
        ∧ j.vpend = i.vpend.eraseIdx n ∧ j.flags = i.flags.or e.flags
        ∧ (∀ d v, e.vw = [(d, v)] → j.readV d = v ∧ ∀ r, r ≠ d → j.readV r = i.readV r)
        ∧ (∀ d k, e.kw = some (d, k) → j.readK d = (if d = 0 then 0xFFFF else k) ∧ ∀ r, r ≠ d → j.readK r = i.readK r)
        ∧ (∀ d v, e.gw = some (d, v) → j.readG d = (if d = 0 then 0 else if e.glive then v else i.readG d)
            ∧ ∀ r, r ≠ d → j.readG r = i.readG r))

/-! Engines. -/

/-- A word of one descriptor whose descriptor fails the checks of its issue raises the operand-range fault with the
descriptor's word 3 (08 R156).

An OPA word with a tile descriptor that passes its checks and names the word's operation, in a context with the array
rights and with its addresses in regions, completes: with room for the core's command, the array's queue holds it last
and gD receives 0; otherwise gD receives 1 and nothing else changes (08 R157, R158, R162).

The weight-buffer words with a descriptor that passes its checks complete. WBLOAD of a dense entry answers 1 where it
is not EMPTY, 2 where the free granules are too few, and otherwise 0, with the entry LOADING and its granules taken; a
patterned one goes to the spring. WBPIN and WBUNPIN count, or answer why not, and WBEVICT makes the entry EVICTING, or
leaves that to its load (08 R159 to R161, 09 R195). -/
def Obligations.ArrayAndWeightWordsComplete : Prop :=
  (∀ r ∈ descRows, ∀ (s : State) (i : Inst) (d : GReg) (a : XReg), s.Issues i (r.1 d a) →
      r.2 i s (i.readD a).toNat = false →
      exec (r.1 d a) s = .next (s.faulted i fOperand 0 ((i.readD a).toNat / 2 ^ 192 % 2 ^ 64)))
  ∧
  (∀ r ∈ opaRows, ∀ (s : State) (i : Inst) (d : GReg) (a : XReg) (x q : Nat), s.Issues i (r.1 d a) →
      x = (i.readD a).toNat → q = quadOf s.curP → tileOk x = true → tOp x = r.2 → (s.ctx i.ctx).holdsArr q = true →
      (r.2 ≠ 3 → s.descAddr i.ctx (tAddr x) = .ok ()) →
      (r.2 < 3 → 2 ≤ tAsm x → s.descAddr i.ctx (tScaleAddr x) = .ok ()) →
      ((s.quad q).pendingOf s.curP < 4 → ∃ t, exec (r.1 d a) s = .next t
        ∧ t.Issuing (i.answered (s.nextId + 1) d 0) ∧ t.mem = s.mem
        ∧ (t.quad q).arrayQ = (s.quad q).arrayQ ++ [⟨s.nextId, i.readD a, whoOf i s.curP s.curS, 0, s.clock + 2⟩])
      ∧ (4 ≤ (s.quad q).pendingOf s.curP → exec (r.1 d a) s = .next (s.answered i d 1)))
  ∧
  (∀ (s : State) (i : Inst) (d : GReg) (a : XReg) (x q : Nat) (e : WbEntry), x = (i.readD a).toNat → q = quadOf s.curP →
      e = (s.quad q).entry (wEntry x) →
      (s.Issues i (.wbload d a) → wbloadOk i s x = true → s.descAddr i.ctx (bitsOf x 159 104) = .ok () →
        (2 ≤ wScale x → s.descAddr i.ctx (bitsOf x 87 32) = .ok ()) →
        (wPat x = true → ∃ t, exec (.wbload d a) s = .next t
          ∧ t.Issuing (i.counted.await (s.nextId + 1) (gDest d) false none).advance
          ∧ (t.quad q).springReqs = (s.quad q).springReqs
              ++ [⟨s.clock, s.curP, whoOf i s.curP s.curS, .wbload (i.readD a) (s.nextId + 1) s.nextId⟩])
        ∧ (wPat x = false → ∀ need, need = ceilDiv (denseBytes (wFmt x) (wRows x * wCols x) + 2 * wScales x) 4096 →
          (e.st ≠ .empty → ∃ t, exec (.wbload d a) s = .next t ∧ t.Issuing (i.answered (s.nextId + 1) d 1)
            ∧ (t.quad q).wbe = (s.quad q).wbe)
          ∧ (e.st = .empty → (s.quad q).freeGranules.length < need → ∃ t, exec (.wbload d a) s = .next t
            ∧ t.Issuing (i.answered (s.nextId + 1) d 2) ∧ (t.quad q).wbe = (s.quad q).wbe)
          ∧ (e.st = .empty → need ≤ (s.quad q).freeGranules.length → ∃ t, exec (.wbload d a) s = .next t
            ∧ t.Issuing (i.answered (s.nextId + 1) d 0)
            ∧ (t.quad q).entry (wEntry x) = ⟨.loading, 0, i.ctx, i.readD a, (s.quad q).freeGranules.take need,
                some (s.nextId, whoOf i s.curP s.curS), none, false, 0⟩)))
      ∧ (s.Issues i (.wbpin d a) → wbEntryOk false i s x = true →
        (e.st = .empty → exec (.wbpin d a) s = .next (s.answered i d 2))
        ∧ (e.st ≠ .empty → e.pin = 65535 → exec (.wbpin d a) s = .next (s.answered i d 1))
        ∧ (e.st ≠ .empty → e.pin ≠ 65535 → ∃ t, exec (.wbpin d a) s = .next t ∧ t.Issuing (i.answered s.nextId d 0)
          ∧ (t.quad q).entry (wEntry x) = { e with pin := e.pin + 1 }))
      ∧ (s.Issues i (.wbunpin d a) → wbEntryOk false i s x = true →
        (e.pin = 0 → exec (.wbunpin d a) s = .next (s.answered i d 1))
        ∧ (e.pin ≠ 0 → ∃ t, exec (.wbunpin d a) s = .next t ∧ t.Issuing (i.answered s.nextId d 0)
          ∧ (t.quad q).entry (wEntry x) = { e with pin := e.pin - 1 }))
      ∧ (s.Issues i (.wbevict d a) → wbEntryOk true i s x = true →
        (e.st = .empty → exec (.wbevict d a) s = .next (s.answered i d 2))
        ∧ (e.st = .evicting → exec (.wbevict d a) s = .next (s.answered i d 1))
        ∧ (e.st ≠ .empty → e.st ≠ .evicting → e.evict.isSome = true →
          exec (.wbevict d a) s = .next (s.answered i d 0))
        ∧ ((e.st = .resident ∨ e.st = .loading) → e.evict = none → ∃ t, exec (.wbevict d a) s = .next t
          ∧ t.Issuing (i.answered s.nextId d 0)
          ∧ (t.quad q).entry (wEntry x) = { e with
              st := if e.st = .loading then .loading else .evicting
              evict := some (i.readD a, whoOf i s.curP s.curS) })))

/-- SPLOAD with a descriptor that passes its checks, a word-aligned address and its words in a region completes by its
request to read them; SPSEED completes by its request to the spring (09 R194, R196).

A copy word with a descriptor that passes its checks, a stream of at most 2^48 bytes and both addresses in regions
completes: the engine's queue holds the command last and gD receives 0, or 1 while the engine is stopped. ERESUME answers
1 while it runs; otherwise it answers 0 and the stopped command is first again, or abandoned. ESTAT answers the unit's
state (08 R171, R172, R178 to R180); that the outstanding elements of a gather stream are those sent less those finished is the
model's choice (log 33).

GATHER and SCATTER with a descriptor and a shape record that pass their checks complete: with fewer than four commands
in the core the new one stands last, at its first element, and gD receives 0; otherwise gD receives 1 (08 R174, R177). -/
def Obligations.SpringCopyAndGatherWordsComplete : Prop :=
  (∀ (s : State) (i : Inst) (d : GReg) (a : XReg) (x q va n : Nat), x = (i.readD a).toNat → q = quadOf s.curP →
      va = bitsOf x 239 184 → n = 4 * (bitsOf x 247 242 + 1) →
      (s.Issues i (.spload d a) → sploadOk i s x = true → va % 4 = 0 → ∀ k g, (s.ctx i.ctx).regionOf va n = some (k, g) →
        ∃ t r, exec (.spload d a) s = .next t ∧ s.Sent t i (i.counted.await s.nextId (gDest d) false none).advance r
          ∧ r.op = .read ∧ r.ctx = i.ctx ∧ r.va = va ∧ r.n = n ∧ r.ans = .spload d (i.readD a))
      ∧ (s.Issues i (.spload d a) → sploadOk i s x = true → va % 4 ≠ 0 →
        exec (.spload d a) s = .next (s.faulted i fMisaligned va 0))
      ∧ (s.Issues i (.spseed d a) → spseedOk i s x = true → ∃ t, exec (.spseed d a) s = .next t
          ∧ t.Issuing (i.counted.await s.nextId (gDest d) false none).advance ∧ t.mem = s.mem
          ∧ (t.quad q).springReqs = (s.quad q).springReqs
              ++ [⟨s.clock, s.curP, whoOf i s.curP s.curS, .spseed (i.readD a) s.nextId⟩]))
  ∧
  (∀ (s : State) (i : Inst) (d : GReg) (a b : XReg) (x y : Nat) (k : Core), x = (i.readD a).toNat →
      y = (i.readD b).toNat → k = s.core s.curP →
      (∀ w ext, ((w = Instr.cplin d a ∧ ext = none ∧ copyOk true i s x = true)
          ∨ (w = .cp2d d a ∧ ext = none ∧ copyOk false i s x = true)
          ∨ (w = .cpten d a b ∧ ext = some (i.readD b) ∧ copyOk false i s x = true ∧ extOk y = true)) →
        s.Issues i w → streamLen x (extOf (ext.map BitVec.toNat)) ≤ 2 ^ 48 →
        s.descAddr i.ctx (bitsOf x 239 184) = .ok () → s.descAddr i.ctx (bitsOf x 183 128) = .ok () →
        (k.copyStop = none → ∃ t, exec w s = .next t ∧ t.Issuing (i.answered (s.nextId + 1) d 0) ∧ t.mem = s.mem
          ∧ (t.core s.curP).copyQ = k.copyQ ++ [⟨s.nextId, whoOf i s.curP s.curS, i.readD a, ext, 0, 0, [], none, 0⟩])
        ∧ (k.copyStop ≠ none → exec w s = .next (s.answered i d 1)))
      ∧ (s.Issues i (.eresume d a) → eresumeOk i s x = true →
        (k.copyStop = none → exec (.eresume d a) s = .next (s.answered i d 1))
        ∧ ∀ c, k.copyStop = some c → ∃ t, exec (.eresume d a) s = .next t ∧ t.Issuing (i.answered s.nextId d 0)
          ∧ t.mem = s.mem ∧ (t.core s.curP).copyStop = none
          ∧ (t.core s.curP).copyQ = if bitsOf x 16 16 = 1 then k.copyQ else c :: k.copyQ)
      ∧ (s.Issues i (.estat d a) → estatOk i s x = true → ∃ v : Nat,
        exec (.estat d a) s = .next (s.answered i d (word64 v))
        ∧ (bitsOf x 3 0 = 0 → k.copyStop = none → v = k.copyQ.length * 2 ^ 61)
        ∧ (bitsOf x 3 0 = 0 → ∀ c, k.copyStop = some c → v = 2 ^ 63 + k.copyQ.length * 2 ^ 61 + 4096 * c.chunk)
        ∧ (bitsOf x 3 0 = 1 → v = k.gathers.length * 2 ^ 61 + (k.gathers.map (fun g => g.next - g.done)).sum % 2 ^ 32)
        ∧ (bitsOf x 3 0 = 2 → v = (s.quad (quadOf s.curP)).pendingOf s.curP * 2 ^ 61
            + (s.quad (quadOf s.curP)).next0 * 256 + (s.quad (quadOf s.curP)).next1)
        ∧ (bitsOf x 3 0 = 3 → ∀ e, e = (s.quad (quadOf s.curP)).entry (bitsOf x 13 8) →
            v = wbStateNum e.st * 2 ^ 62 + e.pin * 2 ^ 32 + e.gran.length)))
  ∧
  (∀ (s : State) (i : Inst) (d : GReg) (a b : XReg) (x sh : Nat) (sc : Bool) (w : Instr), x = (i.readD a).toNat →
      sh = (i.readD b).toNat → w = (if sc then .scatter d a b else .gather d a b) → s.Issues i w →
      gatherOk sc i s x = true →
      (shapeOk x sh = true → s.descAddr i.ctx (shBase sh) = .ok () → (s.core s.curP).gathers.length < 4 → ∃ t, exec w s = .next t ∧ t.Issuing (i.answered (s.nextId + 1) d 0)
        ∧ t.mem = s.mem
        ∧ (t.core s.curP).gathers = (s.core s.curP).gathers ++ [⟨s.nextId, whoOf i s.curP s.curS, sc, i.readD a,
            i.readD b, !gServed x, 0, {}, gCount x, 0, false, []⟩])
      ∧ (shapeOk x sh = true → s.descAddr i.ctx (shBase sh) = .ok () → 4 ≤ (s.core s.curP).gathers.length →
        exec w s = .next (s.answered i d 1))
      ∧ (shapeOk x sh = false → exec w s = .next (s.faulted i fOperand 0 (sh / 2 ^ 192 % 2 ^ 64))))

/-- The spring serves its oldest request of an earlier cycle, one in each cycle, when no array command's start asked before it. SPSEED of a slot that is loaded and not referenced gives it the seed and
answers 0; SPLOAD of words whose CRC holds and whose construction succeeds loads the slot and answers 0 (09 R194 to R196).

A load of an entry reads its values in 64-byte blocks, which fill its granules in order (12 R242); when the rest has come it
is RESIDENT, or EVICTING when an eviction waits. An EVICTING entry that nothing pins or reads becomes EMPTY (08 R160, R161). -/
def Obligations.SpringAndWeightBufferServe : Prop :=
  (∀ (s : State) (q ps c pid : Nat) (r : SpringReq) (x : PSlot) (p sl : Nat) (i : Inst) (e : Pend),
      firstSpring (s.quad q).springReqs = some r → r.cycle < s.clock → s.springFree q = true → s.startFirst q r = false →
      c = r.who.ctx →
      x = (s.ctx c).pslot q ps →
      (∃ t, exec (.springServe q) s = .next t ∧ (t.quad q).springReqs = (s.quad q).springReqs.erase r
        ∧ t.springFree q = false)
      ∧ (∀ d, r.what = .spseed d pid → ps = bitsOf d.toNat 251 248 → x.goodA = true → x.goodB = true →
        s.referenced c q ps = false → x.loaded = true → s.findPend pid = some (p, sl, i, e) →
        ∃ t j, exec (.springServe q) s = .next t ∧ t.mem = s.mem
          ∧ (t.quad q).springReqs = (s.quad q).springReqs.erase r
          ∧ (t.ctx c).pslot q ps = { x with seed := word64 (bitsOf d.toNat 127 64) }
          ∧ t.inst? p sl = some j ∧ { e with value := some 0 } ∈ j.pend)
      ∧ (∀ d bs g, r.what = .spload d bs pid → ps = bitsOf d.toNat 251 248 → x.goodA = true → x.goodB = true →
        s.referenced c q ps = false → 2 ^ 32 - 1 - crc32c (2 ^ 32 - 1) bs = bitsOf d.toNat 183 152 →
        construct (words32 bs) = .ok g → s.findPend pid = some (p, sl, i, e) →
        ∃ t j, exec (.springServe q) s = .next t ∧ t.mem = s.mem
          ∧ (t.quad q).springReqs = (s.quad q).springReqs.erase r
          ∧ (t.ctx c).pslot q ps = loadedSlot (words32 bs) (word64 (bitsOf d.toNat 127 64)) g
          ∧ t.inst? p sl = some j ∧ { e with value := some 0 } ∈ j.pend))
  ∧
  (∀ (s : State) (q e : Nat) (x : WbEntry), x = (s.quad q).entry e →
      (∀ ps cmd w bs o, s.memOk → x.st = .loading → x.load = some (cmd, w) → x.gran.Nodup →
        ps = pieces (bitsOf x.desc.toNat 159 104) (denseBytes (wFmt x.desc.toNat) (s.entryValues q x))
          ++ pieces (bitsOf x.desc.toNat 87 32) (2 * wScales x.desc.toNat) →
        o = ((ps.take x.filled).map Prod.snd).sum →
        (s.engineRead w (dieOfQuad q) cmd x.filled (ps.drop x.filled) = .data bs →
          ∃ t, exec (.wbloadComplete q e) s = .next t
            ∧ (t.quad q).entry e = { x with st := if x.evict.isSome then .evicting else .resident, load := none }
            ∧ ∀ k < bs.length, (o + k) / 4096 < x.gran.length → Memory.readByte t.mem (x.address q (o + k)) = bs.getD k 0)
        ∧ ∀ va n, ps[x.filled]? = some (va, n) → s.readPiece (dieOfQuad q) w.ctx cmd x.filled va n = .data bs →
          ∃ t, s.loadBlock q e = .next t ∧ (t.quad q).entry e = { x with filled := x.filled + 1 }
            ∧ ∀ k < bs.length, (o + k) / 4096 < x.gran.length → Memory.readByte t.mem (x.address q (o + k)) = bs.getD k 0)
      ∧ (∀ d w, x.st = .evicting → x.evict = some (d, w) → x.pin = 0 → (s.quad q).readsEntry e = false →
        ∃ t, exec (.wbEntryFree q e) s = .next t ∧ (t.quad q).entry e = WbEntry.reset ∧ t.mem = s.mem))

/-- The array starts the oldest command that may start: it runs alone, MMA, SEL and SPARSE with their entry pinned once more. A
SPARSE whose turn at the spring has not come asks for it, and starts later (08 R163, 09 R195). What a command is to zero, the
rows 0 to ROWS-1 of a ZERO and the whole set where ZF asks, it zeroes block by block, and every other byte stays (08 R165, R166,
12 R242).

Every command that completes leaves the array idle, NEXT of its set one more than its CHN, and, in what ESTAT reads, one command
less of the core that gave it (08 R167, R180). MMA, SEL and SPARSE, with no operand block poisoned and the entry's values as the
command found them, take one step, or one step pair, at a time once the zeroing is done, and complete by every element of the
tile holding what the steps that are left, in order of k, make of it, every other byte as it was, and the entry unpinned (02 R33
to R36, 08 R165, R170).

DRAIN takes its rows in order. A row is translated and checked before its first block is written; one that is refused stops the
command with no byte of it written. A row that may be written is written block by block, or, with the last row, at the command's
completion, and every other byte stays (08 R166, R168). -/
def Obligations.ArrayRuns : Prop :=
  ((∀ (s : State) (q : Nat) (c : ACmd) (x : Nat), (s.quad q).running = none →
      oldest ((s.quad q).arrayQ.filter (s.eligible q)) = some c → x = c.desc.toNat →
      ((tOp x = 2 → s.springTurn q c = true) → ∃ t r, exec (.arrayCommandStart q) s = .next t
        ∧ (t.quad q).running = some r ∧ r.cmd = c ∧ r.done = 0 ∧ r.steps = 0 ∧ r.zeroed = 0
        ∧ (t.quad q).arrayQ = (s.quad q).arrayQ.erase c
        ∧ (tOp x < 3 → ((t.quad q).entry (tWbe x)).pin = ((s.quad q).entry (tWbe x)).pin + 1))
      ∧ (tOp x = 2 → s.springTurn q c = false → ∃ t, exec (.arrayCommandStart q) s = .next t
        ∧ (t.quad q).running = none ∧ (t.quad q).arrayQ = (s.quad q).arrayQ
        ∧ (t.quad q).springAsk = some (s.askedAt q c, c.id)))
    ∧ (∀ (s : State) (q : Nat) (r : ARun) (x base : Nat), s.memOk → x = r.cmd.desc.toNat → base = setBase q (tSet x) →
      (∀ a, Memory.readByte (s.zeroRest q r).1.mem a = if base + 64 * r.zeroed ≤ a ∧ a < base + 64 * zeroCount x then 0
            else Memory.readByte s.mem a)
      ∧ ((s.quad q).running = some r → r.flt = false → tOp x = 3 → ∃ t, exec (.arrayCommandComplete q) s = .next t
        ∧ t.mem = (s.zeroRest q r).1.mem ∧ t.ArrayDone s q r)
      ∧ ((s.quad q).running = some r → r.flt = false → (tOp x = 4 → tRows x ≤ r.done) → r.zeroed < zeroCount x →
        ∃ t r', s.arrayStep q = .next t ∧ (t.quad q).running = some r' ∧ r'.zeroed = r.zeroed + 1
        ∧ ∀ a, Memory.readByte t.mem a = if base + 64 * r.zeroed ≤ a ∧ a < base + 64 * r.zeroed + 64 then 0
            else Memory.readByte s.mem a)))
  ∧
  (∀ (s z : State) (q : Nat) (r : ARun) (x : Nat) (e : WbEntry) (a sa : Nat) (kind : PairKind) (v : Tile)
      (coords : List (Nat × Nat)), s.memOk → (s.quad q).running = some r → r.flt = false → x = r.cmd.desc.toNat → tOp x < 3 →
      z = (s.zeroRest q r).1 → e = (s.quad q).entry (tWbe x) →
      z.tileOperands r.cmd.who.ctx q x (tileK x e.desc.toNat) = some (a, sa) →
      pairKind (tFmt x) (wFmt e.desc.toNat) = some kind → v = z.tileOf q e x kind a sa (z.entryValues q e) → v.n ≤ 128 →
      r.values = v.b → (tOp x = 2 → (s.quad q).springBad = false) → coords = z.tilePositions q e →
      z.tilePoison q e v a sa r.steps = none →
      (∃ t, exec (.arrayCommandComplete q) s = .next t
        ∧ (∀ i < tRows x, ∀ j < v.n, ∀ b, b = setBase q (tSet x) + 512 * i + 4 * j →
            t.readLe b 4 = (v.element coords i j r.steps v.k (z.readLe b 4)).1 % 2 ^ 32)
        ∧ (∀ b, (∀ i < tRows x, ∀ j < v.n,
              ¬ (setBase q (tSet x) + 512 * i + 4 * j ≤ b ∧ b < setBase q (tSet x) + 512 * i + 4 * j + 4)) →
            Memory.readByte t.mem b = Memory.readByte z.mem b)
        ∧ t.ArrayDone s q r ∧ ((t.quad q).entry (tWbe x)).pin = e.pin - 1)
      ∧ ∀ hi, zeroCount x ≤ r.zeroed → hi = r.steps + (if v.kind = .float true then 2 else 1) → hi < v.k →
        ∃ t r', s.arrayStep q = .next t ∧ (t.quad q).running = some r' ∧ r'.cmd = r.cmd ∧ r'.steps = hi
        ∧ (∀ i < tRows x, ∀ j < v.n, ∀ b, b = setBase q (tSet x) + 512 * i + 4 * j →
            t.readLe b 4 = (v.element coords i j r.steps hi (s.readLe b 4)).1 % 2 ^ 32)
        ∧ ∀ b, (∀ i < tRows x, ∀ j < v.n,
              ¬ (setBase q (tSet x) + 512 * i + 4 * j ≤ b ∧ b < setBase q (tSet x) + 512 * i + 4 * j + 4)) →
            Memory.readByte t.mem b = Memory.readByte s.mem b)
  ∧
  (∀ (s : State) (q : Nat) (r : ARun) (x w set : Nat), s.memOk → (s.quad q).running = some r → r.flt = false →
      x = r.cmd.desc.toNat → tOp x = 4 → w = r.cmd.who.ctx → set = setBase q (tSet x) + 512 * r.done →
      (tRows x ≤ r.done → ∃ t, exec (.arrayCommandComplete q) s = .next t ∧ t.mem = (s.zeroRest q r).1.mem ∧ t.ArrayDone s q r)
      ∧ (r.done < tRows x → r.row = none → s.poisonAt set 512 = none →
        (∀ ts, s.engineMay w (dieOfQuad q) (drainRow x r.done) = .ok ts → (∀ d ∈ ts, d.onPeer = false) →
          (∀ f ∈ s.fetches, f.cmd ≠ r.cmd.id) → ∃ t, s.arrayStep q = .next t ∧ t.mem = s.mem
            ∧ (t.quad q).running = some { r with row := some ts })
        ∧ ∀ code addr det, s.engineMay w (dieOfQuad q) (drainRow x r.done) = .error (.bad code addr det) → ∃ t,
          exec (.arrayCommandComplete q) s = .next t ∧ t.mem = s.mem ∧ t.ArrayDone s q r)
      ∧ ∀ ts puts, r.done < tRows x → r.row = some ts →
        puts = (engPuts ts (drainRow x r.done) (Memory.read s.mem set 512)).drop r.blocks → (∀ f ∈ s.fetches, f.cmd ≠ r.cmd.id) →
        (∀ d l pa, puts = d :: l → d.dst = .here pa → s.ownerClear pa = true → ∃ t, s.arrayStep q = .next t
          ∧ (∀ a, Memory.readByte t.mem a = if pa ≤ a ∧ a < pa + d.bytes.length then d.bytes.getD (a - pa) 0
              else Memory.readByte s.mem a)
          ∧ (t.quad q).running = some { r with blocks := r.blocks + 1 })
        ∧ (r.done + 1 = tRows x → tZf x = false → (∀ d ∈ puts, ∃ pa, d.dst = .here pa ∧ s.ownerClear pa = true) → ∃ t,
          exec (.arrayCommandComplete q) s = .next t ∧ t.mem = (puts.foldl (fun u d => u.put r.cmd.who r.cmd.id d) s).mem
          ∧ t.ArrayDone s q r))

/-- The copy engine moves the chunk of its first command in 64-byte blocks: it reads all of it, then its destination is
translated and checked, then what it has read is written where the rows of the chunk lie, and the command goes on to its next
chunk or leaves the queue. A chunk whose source or destination is refused stops the engine with the command kept, at the start
of that chunk, and memory as it was (08 R172, R173, 12 R242). That peers are asked before any byte is written is the model's
choice (log 55).

The gather stream sends the next element of its oldest command that has one left; the last part of an element of a gather,
at its owner, makes the value message of its row, and each part of one of a scatter writes its bytes; a command whose
elements are all finished completes (08 R176, R177). -/
def Obligations.CopyAndGatherMove : Prop :=
  (∀ (s : State) (p : Nat) (c : CopyCmd) (rest : List CopyCmd) (x len : Nat) (ext : CopyExt) (parts : List (Nat × Nat × Nat))
      (src dst : List (Nat × Nat)), (s.core p).copyStop = none → (s.core p).copyQ = c :: rest → x = c.desc.toNat →
      ext = extOf (c.ext.map BitVec.toNat) → len = streamLen x ext → (s.ctx c.who.ctx).paused = false →
      (∀ f ∈ s.fetches, f.cmd ≠ c.id) →
      parts = streamParts x ext (min len (4096 * c.chunk + 4096)) 4096 (4096 * c.chunk) →
      src = parts.flatMap (fun r => pieces r.1 r.2.2) → dst = parts.flatMap (fun r => pieces r.2.1 r.2.2) →
      (∀ bs ts, c.dst = none → s.engineRead c.who (dieOf p) c.id c.reads (src.drop c.reads) = .data bs →
        s.engineMay c.who.ctx (dieOf p) dst = .ok ts →
        ((∀ d ∈ ts, ∃ pa, d = .here pa ∧ s.ownerClear pa = true) → ∃ t, exec (.copyChunk p) s = .next t
          ∧ t.mem = (((engPuts ts dst (c.got ++ bs)).drop c.puts).foldl (fun u d => u.put c.who c.id d) s).mem
          ∧ (t.core p).copyQ = if 4096 * (c.chunk + 1) < len then c.atChunk (c.chunk + 1) :: rest else rest)
        ∧ ((∃ d ∈ ts, d.onPeer = true) → ∃ t, exec (.copyChunk p) s = .next t ∧ t.mem = s.mem
          ∧ (t.core p).copyQ = { c with reads := src.length, got := c.got ++ bs } :: rest))
      ∧ (∀ ts puts, c.dst = some ts → puts = (engPuts ts dst c.got).drop c.puts →
        ((∀ d ∈ puts, ∃ pa, d.dst = .here pa ∧ s.ownerClear pa = true) → ∃ t, exec (.copyChunk p) s = .next t
          ∧ t.mem = (puts.foldl (fun u d => u.put c.who c.id d) s).mem
          ∧ (t.core p).copyQ = if 4096 * (c.chunk + 1) < len then c.atChunk (c.chunk + 1) :: rest else rest)
        ∧ ∀ d l pa, puts = d :: l → d.dst = .here pa → s.ownerClear pa = true → ∃ t, s.copyBlock p = .next t
          ∧ (s.memOk → ∀ a, Memory.readByte t.mem a = if pa ≤ a ∧ a < pa + d.bytes.length then d.bytes.getD (a - pa) 0
              else Memory.readByte s.mem a)
          ∧ (t.core p).copyQ = { c with puts := c.puts + 1 } :: rest)
      ∧ (∀ va n bs, c.dst = none → src[c.reads]? = some (va, n) →
        s.readPiece (dieOf p) c.who.ctx c.id c.reads va n = .data bs → ∃ t, s.copyBlock p = .next t ∧ t.mem = s.mem
          ∧ (t.core p).copyQ = { c with reads := c.reads + 1, got := c.got ++ bs } :: rest)
      ∧ (∀ ts, c.dst = none → src[c.reads]? = none → s.engineMay c.who.ctx (dieOf p) dst = .ok ts →
        (∀ d ∈ ts, d.onPeer = false) → ∃ t, s.copyBlock p = .next t ∧ t.mem = s.mem
          ∧ (t.core p).copyQ = { c with dst := some ts } :: rest)
      ∧ (∀ code addr det, c.dst = none →
        ((∃ k, s.engineRead c.who (dieOf p) c.id c.reads (src.drop c.reads) = .bad k code addr det)
          ∨ ∃ bs, s.engineRead c.who (dieOf p) c.id c.reads (src.drop c.reads) = .data bs
            ∧ s.engineMay c.who.ctx (dieOf p) dst = .error (.bad code addr det)) →
        ∃ t, exec (.copyChunk p) s = .next t ∧ t.mem = s.mem ∧ (t.core p).copyStop = some (c.atChunk c.chunk)
          ∧ (t.core p).copyQ = rest))
  ∧
  ((∀ (s : State) (p : Nat) (g : GatherCmd), (s.core p).sending = some g → g.served = true →
      (s.ctx g.who.ctx).paused = false → (gServed g.desc.toNat = true → (s.quad (quadOf p)).springBad = false) →
      s.streamClear p g = true → ∃ t, exec (.gatherElementIssue p) s = .next t ∧ t.mem = s.mem
        ∧ (t.core p).gathers.map GatherCmd.next
          = (s.core p).gathers.map (fun h => if h.id = g.id then h.next + 1 else h.next))
    ∧ (∀ (s : State) (id p cmd n pa m : Nat) (f : Flight) (r : MemReq) (g : GatherCmd), s.memOk → s.flight? id = some f →
      s.ripe f = true → f.body = .req r → r.ans = .elem p cmd n → r.target = some (.here pa) → f.goal = .owner →
      (s.core p).gathers.find? (fun g => g.id = cmd) = some g → s.firstAtOwner f pa = true → s.elemAhead f r = false →
      m = r.partLen pa → s.reqRefused r pa = 0 →
      (g.scatter = true → r.off + m ≤ r.data.length → ∃ t, exec (.gatherElementApply id) s = .next t
        ∧ ∀ a, Memory.readByte t.mem a = if pa ≤ a ∧ a < pa + m then r.data.getD (r.off + (a - pa)) 0
            else Memory.readByte s.mem a)
      ∧ (g.scatter = false → s.poisonAt pa m = none → r.n ≤ r.off + m → g.who.ctx < 32 →
        s.reaches g.who.ctx ((s.ctx g.who.ctx).desc.rank % 65536) (bitsOf g.desc.toNat 194 185) →
        ∃ t, exec (.gatherElementApply id) s = .next t ∧ t.mem = s.mem
          ∧ ∃ h ∈ t.flights, ∃ k, h.body = .msg k (.elem p cmd)
            ∧ k.payload = gatherRow g.desc.toNat (r.got ++ Memory.read s.mem pa m)
            ∧ k.hdr.tag = BitVec.ofNat 16 (r.expect.toNat % 65536)
            ∧ k.hdr.jslot = BitVec.ofNat 3 (r.expect.toNat / 65536)))
    ∧ (∀ (s : State) (p : Nat) (g : GatherCmd),
      (s.core p).gathers.find? (fun g => g.served && g.next = g.total && g.done = g.total) = some g →
      ∃ t, exec (.gatherComplete p) s = .next t ∧ t.mem = s.mem
        ∧ (t.core p).gathers = (s.core p).gathers.filter (fun h => h.id != g.id)))

/-! Replies and owners. -/

/-- A reply that has come and may return completes: a load's value enters its register unless a younger word has written
it, and its operation is no longer outstanding; a GET's data enters the scratchpad; a note is an arrival of the core's own in
this cycle, in the place of its slot; a result that a unit has formed enters its register (05 R88, R89, R93, R94; 01 R12; 10
R204). That a reply of a superseded destination is dropped is the model's choice (log 43), as is a loop check that waits for a
result (log 44).

An error reply ends the instance that made the request, with a record of the fault that its memory status names; a slice's
page-fault reply makes the slot wait; a ring's reply writes gD and the handle's cursor, and its wake hands them to the parked
consumer, whose wake enters the queue of its priority with the core's next stamp (05 R89; 06 R120, R121; 10 R220; 17 R299, R301;
18 R318). That an error of a flit alone is recorded and the instance goes on is the model's choice (log 48). -/
def Obligations.RepliesComplete : Prop :=
  (∀ (s : State) (id : Nat),
      (∀ f r data dst sx p sl i e, s.flight? id = some f → f.body = .rep r 0 data → s.canReturn f = true →
        r.ans = .reg dst sx → s.findPend f.opId = some (p, sl, i, e) → ∃ (t : State) (j : Inst),
          exec (.loadReturn id) s = .next t ∧ t.inst? p sl = some j.settleEdge ∧ (i.edge = false → j.settleEdge = j) ∧ j.edge = i.edge
          ∧ t.mem = s.mem ∧ t.flight? id = none ∧ (∀ o ∈ (t.core p).ops, o.id ≠ f.opId)
          ∧ j.pend = i.pend.filter (fun x => x.id != e.id)
          ∧ (∀ d, e.dst = .g d → e.live = true → j.readG d = if d = 0 then 0 else word64 (loadValue sx data))
          ∧ (∀ d, e.dst = .v d → e.live = true → j.readV d = BitVec.ofNat 512 (loadValue sx data))
          ∧ (∀ d, e.dst = .d d → e.live = true → j.readD d = BitVec.ofNat 256 (loadValue sx data))
          ∧ (e.live = false → j.g = i.g ∧ j.v = i.v ∧ j.d = i.d))
      ∧ (∀ f r data pa note, s.memOk → s.flight? id = some f → f.body = .rep r 0 data → s.canReturn f = true →
        r.ans = .get pa note → s.ownerClear pa = true → ∃ t, exec (.loadReturn id) s = .next t
          ∧ (∀ a, Memory.readByte t.mem a = if pa ≤ a ∧ a < pa + data.length then data.getD (a - pa) 0
              else Memory.readByte s.mem a)
          ∧ ∀ p n, p = (s.lc f.who.ctx f.who.lcore).pos → note = some n → (t.core p).made = insertMade ⟨4 + f.who.sl,
              f.who.ctx, .ctr n (.add 1) ((s.ctx f.who.ctx).desc.rank, f.who.lcore)⟩ (s.core p).made)
      ∧ (∀ p sl i e v, s.flight? id = none → s.findPend id = some (p, sl, i, e) → e.value = some v →
        ∃ (t : State) (j : Inst), exec (.loadReturn id) s = .next t ∧ t.inst? p sl = some j.settleEdge ∧ t.mem = s.mem
          ∧ (i.edge = false → j.settleEdge = j) ∧ j.edge = i.edge
          ∧ ∀ d, e.dst = .g d → e.live = true → j.readG d = if d = 0 then 0 else v)
      ∧ (∀ f r data note, s.flight? id = some f → f.body = .rep r 0 data → s.canReturn f = true → r.ans = .ack note →
        ∃ t, exec (.ackReturn id) s = .next t ∧ t.mem = s.mem ∧ t.flight? id = none
          ∧ (∀ p, ∀ o ∈ (t.core p).ops, o.id ≠ f.opId)
          ∧ ∀ p n, p = (s.lc f.who.ctx f.who.lcore).pos → note = some n → (t.core p).made = insertMade ⟨4 + f.who.sl,
              f.who.ctx, .ctr n (.add 1) ((s.ctx f.who.ctx).desc.rank, f.who.lcore)⟩ (s.core p).made))
  ∧
  (∀ (s : State) (id : Nat) (f : Flight), s.flight? id = some f →
      (∀ r mst data p sl i code, f.body = .rep r mst data → s.canReturn f = true →
        (∀ a b c, r.ans ≠ .elem a b c ∧ r.ans ≠ .piece a b c ∧ r.ans ≠ .peer a b c) → r.ans ≠ .host →
        ((mst = 2 ∧ code = 0x0202) ∨ (mst = 3 ∧ code = 0x0204) ∨ ((mst = 1 ∨ mst = 4) ∧ code = 0x0206)
          ∨ (16 ≤ mst ∧ mst ≠ 25 ∧ code = 0x0501)) →
        f.who.ctx < 32 → (s.ctx f.who.ctx).st ≠ .free → s.findInst f.who.iid = some (p, sl, i) →
        ((s.ctx f.who.ctx).lcs.get? ((s.ctx f.who.ctx).desc.fcore % 1024)).isSome = true →
        ∃ t m, exec (.errorReply id) s = .next t ∧ t.inst? p sl = none ∧ t.mem = s.mem
          ∧ t.carries f.who.ctx m ∧ recordWord m 0 / 2 ^ 48 = code)
      ∧ (∀ r data p sl i, f.body = .rep r 25 data → s.canReturn f = true →
        (∀ a b c, r.ans ≠ .elem a b c ∧ r.ans ≠ .piece a b c ∧ r.ans ≠ .peer a b c) → r.ans ≠ .host →
        f.who.ctx < 32 → (s.ctx f.who.ctx).st ≠ .free → s.findInst f.who.iid = some (p, sl, i) →
        ((s.ctx f.who.ctx).lcs.get? ((s.ctx f.who.ctx).desc.fcore % 1024)).isSome = true →
        ∃ t m, exec (.errorReply id) s = .next t ∧ (t.inst? p sl).isSome = true ∧ t.mem = s.mem
          ∧ t.carries f.who.ctx m ∧ recordWord m 0 / 2 ^ 48 = 0x0501)
      ∧ (∀ n p sl i e, f.body = .pf n → f.arrived = true → s.replyBehind f = false → s.findPend n = some (p, sl, i, e) →
        ∃ (t : State) (j : Inst), exec (.pageFaultReply id) s = .next t ∧ t.inst? p sl = some j ∧ n ∈ j.pageWait ∧ t.mem = s.mem
          ∧ t.flight? id = none)
      ∧ (∀ r gd cur p sl i e d, f.body = .ringRep r gd cur none → f.leaves = false → s.canReturn f = true →
        s.findPend f.opId = some (p, sl, i, e) → e.dst = .ring d r.handle → ∃ (t : State) (j : Inst), exec (.ringReply id) s = .next t
          ∧ t.inst? p sl = some j.settleEdge ∧ (i.edge = false → j.settleEdge = j) ∧ j.edge = i.edge ∧ t.mem = s.mem
          ∧ (e.live = true → j.readG d = if d = 0 then 0 else gd)
          ∧ (cur = none → j.readQ r.handle = i.readQ r.handle)
          ∧ ∀ n, cur = some n → j.readQ r.handle = word64 (n * 2 ^ 50 + (i.readQ r.handle).toNat % 2 ^ 50))
      ∧ (∀ lc k gd cur co, f.body = .ringWake lc k gd cur → f.leaves = false → s.firstArrival f = true →
        (s.lc f.who.ctx lc).conts.get? k = some co → s.Room f.who.ctx lc co.inst.prio → (s.ctx f.who.ctx).trace = none → ∃ t,
          exec (.ringReply id) s = .next t ∧ t.mem = s.mem ∧ ((t.lc f.who.ctx lc).conts.get? k).map Cont.value = some (some gd)
          ∧ (t.lc f.who.ctx lc).queue co.inst.prio = (s.lc f.who.ctx lc).queue co.inst.prio ++ [⟨.wake k, co.inst.prio,
              (s.core (s.lc f.who.ctx lc).pos).stamp, .none, false,
              (s.core (s.lc f.who.ctx lc).pos).parkCache.contains (f.who.ctx, k), none⟩])
      ∧ (∀ rstat st midx op chip core, f.body = .ack .send rstat st midx op chip core → f.arrived = true → s.replyBehind f = false → rstat ≠ 1 →
        rstat ≠ 3 → ∃ t, exec (.sendAcceptAck id) s = .next t ∧ t.mem = s.mem ∧ ∀ p, ∀ o ∈ (t.core p).ops, o.id ≠ op)
      ∧ (∀ r rstat st midx op chip core p v bits done n, f.body = .ack (.member r) rstat st midx op chip core →
        s.canReturn f = true → p = s.posOf f.who → (s.core p).resv.get? r = some v → v.merge = some (bits, done, n) →
        ∃ t, exec (.multicastMemberAck id) s = .next t ∧ t.mem = s.mem
          ∧ (∀ w, w = (if rstat = 1 ∨ rstat = 3 then bits ||| word64 (2 ^ midx) else bits) →
              (t.core p).resv.get? r = some { v with merge := some (w, done + 1, n) })
          ∧ (n ≤ done + 1 → f.who.ctx < 32 → f.who.lcore < 1024 →
            ((s.ctx f.who.ctx).lcs.get? f.who.lcore).isSome = true →
            ∃ g ∈ t.flights, ∃ m, g.body = .msg m .none ∧ m.hdr.kind = 1 ∧ m.hdr.rstat = 2
              ∧ m.hdr.tag = BitVec.ofNat 16 (64 + r)))
      ∧ (f.stage = .held → (s.ctx f.who.ctx).st ≠ .saved → (s.ctx f.who.ctx).st ≠ .restoring →
        f.after.any (s.core f.who.p).outstanding = false → f.afterPerf.any (s.core f.who.p).blocks = false →
        s.sourceClear f = true →
        (∀ r pa, f.body = .req r → r.src = some pa → s.poisonAt pa r.n = none) →
        ∃ t g, exec (.orderQueueRelease id) s = .next t ∧ t.flight? id = some g ∧ t.mem = s.mem
          ∧ g.stage = .router f.sx f.sy false
          ∧ ((∀ r, f.body = .req r → r.src = none) → g.body = f.body)
          ∧ ∀ r pa, f.body = .req r → r.src = some pa → ∃ q, g.body = .req q ∧ q.data = Memory.read s.mem pa r.n))

/-- An owner applies the part that it holds of the request that stands first and is not deferred: a write stores the part's
bytes, a read answers the bytes as they stand, and an atomic answers the old value and stores the new one, in one step. The
last part is answered; before it the rest goes on to its own owner. Every other byte of memory stays as it was, and a read
leaves all of memory (05 R95 to R97, 12 R240). That a request is applied part by part and answered once is the model's choice
(log 34).

A watch is entered at its owner, which answers; a write leaves no entry that watches a word it touched, and sends the watching
core a message of gA, the word's new value and gC. A peer's watch joins the owner's entries for its context, and its cancellation
removes those of its core and word and answers how many they were (05 R104).

A ring operation at its owner, on a control block that is well formed and lies apart from the entry's word, is one
step: a push with room stores the value at the entry's own translated address and raises HEAD, a pop of a ring that is not
empty answers the oldest value and raises TAIL, an advance within the entries raises TAIL, and a wait for more than there is
leaves WAITER; each answers gD and CUR as R120 and R121 give them, and changes no other byte. An operation after which the
entries that a parked consumer waits for have come dispatches it and clears WAITER, also one that was refused; a second wait
answers the ring fault with the word it found (06 R119 to R121). Where BASE may lie and what WAITER holds are the model's choice
(log 30). -/
def Obligations.OwnersApplyRequests : Prop :=
  (∀ (s : State) (id : Nat) (f : Flight) (r : MemReq) (pa : Nat), s.memOk → s.flight? id = some f → f.body = .req r →
      f.goal = .owner → r.target = some (.here pa) → r.ring = none → s.ripe f = true → s.firstAtOwner f pa = true →
      (∀ a b c, r.ans ≠ .elem a b c ∧ r.ans ≠ .peer a b c) → r.ans ≠ .host → s.windowDeferred r pa = none →
      s.reqRefused r pa = 0 → 0 < r.partLen pa →
      (r.op = .write → r.off + r.partLen pa ≤ r.data.length → ∃ t, exec (.ownerApply id) s = .next t
        ∧ (∀ a, Memory.readByte t.mem a = if pa ≤ a ∧ a < pa + r.partLen pa then r.data.getD (r.off + (a - pa)) 0
            else Memory.readByte s.mem a)
        ∧ (r.n ≤ r.off + r.partLen pa → ∃ g ∈ t.flights, g.body = .rep r 0 [] ∧ g.opId = f.opId ∧ g.who = f.who)
        ∧ (r.off + r.partLen pa < r.n → ∃ g ∈ t.flights, g.body = .req (r.onward pa []) ∧ g.goal = .owner
            ∧ g.opId = f.opId ∧ g.who = f.who))
      ∧ (r.op = .read → s.poisonAt pa (r.partLen pa) = none → ∃ t l, exec (.ownerApply id) s = .next t ∧ t.mem = s.mem
        ∧ l = Memory.read s.mem pa (r.partLen pa)
        ∧ (r.n ≤ r.off + r.partLen pa → ∃ g ∈ t.flights, g.body = .rep r 0 (r.got ++ l) ∧ g.opId = f.opId
            ∧ g.who = f.who)
        ∧ (r.off + r.partLen pa < r.n → ∃ g ∈ t.flights, g.body = .req (r.onward pa l) ∧ g.goal = .owner
            ∧ g.opId = f.opId ∧ g.who = f.who))
      ∧ (r.op ≠ .write → r.op ≠ .read → r.op ≠ .watch → r.op ≠ .unwatch → 0 < r.n → s.poisonAt pa (r.partLen pa) = none →
        ∃ t, exec (.ownerApply id) s = .next t
        ∧ (∃ g ∈ t.flights, g.body = .rep r 0 (Memory.read s.mem pa r.n) ∧ g.opId = f.opId ∧ g.who = f.who)
        ∧ (∀ a, ¬ (pa ≤ a ∧ a < pa + r.n) → Memory.readByte t.mem a = Memory.readByte s.mem a)
        ∧ (∀ v, atomicNew r.op r.n (s.readLe pa r.n) (ofLe r.data) r.expect.toNat = some v →
            t.readLe pa r.n = v % 256 ^ r.n)
        ∧ (atomicNew r.op r.n (s.readLe pa r.n) (ofLe r.data) r.expect.toNat = none → t.mem = s.mem))
      ∧ (r.op = .watch → ∃ t, exec (.ownerApply id) s = .next t ∧ t.mem = s.mem
        ∧ (∃ g ∈ t.flights, g.body = .rep r 0 [] ∧ g.opId = f.opId ∧ g.who = f.who)
        ∧ ∀ p, ∀ m ∈ (s.core p).mons, m.id = f.opId → { m with live := true, pa := .here pa } ∈ (t.core p).mons)
      ∧ (r.op = .write → r.off + r.partLen pa ≤ r.data.length → ∃ t, exec (.ownerApply id) s = .next t
        ∧ (∀ p, ∀ m ∈ (t.core p).mons, m.hit pa (r.partLen pa) = false)
        ∧ ∀ p m lc w, m ∈ (s.core p).mons → m.hit pa (r.partLen pa) = true → m.pa = .here w →
          (s.ctx m.ctx).lcoreAt p = some lc → m.ctx < 32 → lc < 1024 → s.reaches m.ctx ((s.ctx m.ctx).desc.rank % 65536) lc →
          ∃ g ∈ t.flights, ∃ k, g.body = .msg k .none ∧ k.hdr.dcore = BitVec.ofNat 10 lc ∧ k.hdr.hidx = BitVec.ofNat 12 m.hidx
            ∧ k.payload = [word64 m.va, word64 (t.readLe w 8), m.value].flatMap (fun x => leBytes 8 x.toNat)))
  ∧
  (∀ (s : State) (id : Nat) (f : Flight) (r : MemReq) (pa chip e port : Nat), s.flight? id = some f → f.body = .req r →
      f.goal = .owner → r.target = some (.here pa) → r.ring = none → s.ripe f = true → s.firstAtOwner f pa = true →
      r.ans = .peer chip e port → s.windowDeferred r pa = none → s.reqRefused r pa = 0 →
      (r.op = .watch → ∃ t, exec (.ownerApply id) s = .next t ∧ t.mem = s.mem ∧ (t.ctx r.ctx).watchers
        = (s.ctx r.ctx).watchers ++ [⟨chip, f.who.lcore, pa, r.va, f.who.hidx, r.expect⟩])
      ∧ (r.op = .unwatch → ∀ mine : PeerWatch → Bool, (∀ w, mine w = true ↔
          (w.rank = chip ∧ w.lcore = f.who.lcore ∧ w.pa = pa ∧ w.va = r.va)) → ∃ t, exec (.ownerApply id) s = .next t
        ∧ t.mem = s.mem ∧ (t.ctx r.ctx).watchers = (s.ctx r.ctx).watchers.filter (fun w => !mine w)
        ∧ ∃ g ∈ t.flights, g.body = .rep r 0 (leBytes 8 ((s.ctx r.ctx).watchers.filter mine).length)))
  ∧
  (∀ (s : State) (id : Nat) (f : Flight) (r : MemReq) (rr : RingReq) (pa die size : Nat) (b : RingBlock) (z : Target)
      (wen : Bool), s.memOk →
      s.flight? id = some f → f.body = .req r → f.goal = .owner → r.target = some (.here pa) → r.ring = some rr →
      s.ripe f = true → s.firstAtOwner f pa = true → (∀ x y z, r.ans ≠ .elem x y z ∧ r.ans ≠ .peer x y z) →
      r.ans ≠ .host → s.windowDeferred r pa = none → s.partRefused r pa 64 = 0 →
      s.poisonAt pa 64 = none → b = s.ringBlock pa → size = 2 ^ b.lsize →
      die = dieAt (ownerXY pa).1 (ownerXY pa).2 → s.ringCheck die r.ctx pa b = .ok z wen →
      (∀ v q w, rr.op = .push v → b.used < size → s.ringSlot die r (b.entry b.head) true = .ok (.here q) w →
        (q + 8 ≤ pa ∨ pa + 64 ≤ q) → ∃ t, exec (.ringOpApply id) s = .next t
        ∧ t.readLe q 8 = v.toNat ∧ t.readLe (pa + 16) 8 = (b.head + 1).toNat
        ∧ (∀ a, ¬ (q ≤ a ∧ a < q + 8) → ¬ (pa + 16 ≤ a ∧ a < pa + 24) → ¬ (pa + 32 ≤ a ∧ a < pa + 40) →
            Memory.readByte t.mem a = Memory.readByte s.mem a)
        ∧ (s.noWake r.ctx pa b.waiter (b.head + 1) b.tail → t.readLe (pa + 32) 8 = b.waiter.toNat)
        ∧ (∀ c, s.waiterAt r.ctx pa b.waiter = some c → (c.need : Int) ≤ ((b.head + 1).toNat : Int) - b.tail.toNat →
            t.Woken r.ctx pa c (b.head + 1) b.tail)
        ∧ ∃ g ∈ t.flights, g.body = .ringRep rr 0 none none)
      ∧ (∀ v, rr.op = .push v → size ≤ b.used → ∃ t, exec (.ringOpApply id) s = .next t
        ∧ (s.noWake r.ctx pa b.waiter b.head b.tail → t.mem = s.mem)
        ∧ (∀ c, s.waiterAt r.ctx pa b.waiter = some c → (c.need : Int) ≤ b.used → t.Woken r.ctx pa c b.head b.tail)
        ∧ ∃ g ∈ t.flights, g.body = .ringRep rr 1 none none)
      ∧ (∀ q w, rr.op = .pop → 0 < b.used → s.ringSlot die r (b.entry b.tail) false = .ok (.here q) w →
        s.poisonAt q 8 = none → s.noWake r.ctx pa b.waiter b.head (b.tail + 1) → ∃ t, exec (.ringOpApply id) s = .next t
        ∧ t.readLe (pa + 24) 8 = (b.tail + 1).toNat
        ∧ (∀ a, ¬ (pa + 24 ≤ a ∧ a < pa + 32) → Memory.readByte t.mem a = Memory.readByte s.mem a)
        ∧ ∃ g ∈ t.flights, g.body = .ringRep rr (word64 (s.readLe q 8))
            (some ((b.tail + 1).toNat % 16384)) none)
      ∧ (rr.op = .pop → b.used ≤ 0 → s.noWake r.ctx pa b.waiter b.head b.tail → ∃ t, exec (.ringOpApply id) s = .next t
        ∧ t.mem = s.mem
        ∧ ∃ g ∈ t.flights, g.body = .ringRep rr 0 none none)
      ∧ (∀ n, rr.op = .adv n → 0 < n → n ≤ size → n ≤ b.used → s.noWake r.ctx pa b.waiter b.head (b.tail + word64 n) → ∃ t,
        exec (.ringOpApply id) s = .next t
        ∧ t.readLe (pa + 24) 8 = (b.tail + word64 n).toNat
        ∧ (∀ a, ¬ (pa + 24 ≤ a ∧ a < pa + 32) → Memory.readByte t.mem a = Memory.readByte s.mem a)
        ∧ ∃ g ∈ t.flights, g.body = .ringRep rr 0 (some ((b.tail + word64 n).toNat % 16384)) none)
      ∧ (∀ n k, rr.op = .wait n k → 0 < n → n ≤ size → b.waiter ≠ 0 → ∃ t, exec (.ringOpApply id) s = .next t ∧ t.mem = s.mem
        ∧ ∃ g ∈ t.flights, g.body = .ringRep rr 0 none (some (fRing, r.va, b.waiter.toNat)))
      ∧ (∀ n k, rr.op = .wait n k → 0 < n → n ≤ size → b.waiter = 0 → n ≤ b.used → ∃ t c, exec (.ringOpApply id) s = .next t
        ∧ c.need = n ∧ c.recNo = k ∧ c.lcore = f.who.lcore ∧ t.Woken r.ctx pa c b.head b.tail)
      ∧ (∀ n k, rr.op = .wait n k → 0 < n → n ≤ size → b.waiter = 0 → b.used < n → ∃ (t : State) (w : Word),
        exec (.ringOpApply id) s = .next t ∧ w ≠ 0 ∧ t.readLe (pa + 32) 8 = w.toNat
        ∧ (∀ a, ¬ (pa + 32 ≤ a ∧ a < pa + 40) → Memory.readByte t.mem a = Memory.readByte s.mem a)
        ∧ (⟨pa, w, (s.ctx r.ctx).desc.rank, f.who.lcore, k, n⟩ : Waiter) ∈ (t.ctx r.ctx).waiters))

/-! Arrivals and dispatch. -/

/-- What each unit of a core does with an arrival of a running context. A message for a handler that joins nothing enters
its queue, where there is room, with the core's next stamp, and otherwise goes to the tail of its silo list, its record
written; a post adds a counter event; a reply enters its open reservation; a weir insertion enters the weir. Each is the first of
the arrivals that stand before its unit (06 R111, R114, R122; 10 R203, R204, R207, R208).

Sheaves: an arrival of a key that the store does not hold opens a sheaf with one arrival, or goes to the tail of the sheaf list
where none may be opened; one that does not complete its sheaf is counted in it; one that completes it takes it away, and the
firing is an arrival of the core's own. A record of the sheaf list is read back from its bytes when a sheaf may be
opened, the head of a silo list moves, as its record's bytes give it, to a queue with a free entry, and a continuation whose
wait has ended wakes as an arrival of the core's own, after whose acceptance its record is read; a move off a list writes no byte
but the silo's control block's (10 R209, R210, R215 to R220). What a core has made in a cycle it accepts as the cycle ends: a
firing and a wake enter the queues of their priorities with the core's next stamp (10 R204). The places of the silo's records are
the model's choice (log 16). -/
def Obligations.ArrivalsAndSheavesMove : Prop :=
  (∀ (s : State) (id : Nat) (f : Flight) (p c lc : Nat), s.flight? id = some f → s.receiver c p = some lc →
      (s.ctx c).paused = false →
      (∀ m tr a h pr, s.firstArrival f = true → f.atCore = some (p, m, tr) → m.hdr.ctx.toNat = c →
        (m.hdr.kind = 0 ∨ m.hdr.kind = 3) →
        (∀ x y z, tr ≠ .peer x y z) → (∀ y, tr ≠ .initial y) → m.scale = none →
        s.handler? c m.hdr.gen.toNat m.hdr.hidx.toNat = some (a, h) → h.rcl = false → h.join = 0 → (s.ctx c).trace = none →
        pr = m.hdr.prio.toNat →
        (s.Room c lc pr → ∃ t why, exec (.arrivalAccept id) s = .next t ∧ t.mem = s.mem
          ∧ (t.lc c lc).queue pr = (s.lc c lc).queue pr ++ [⟨.msg m, pr, (s.core p).stamp, why, tr == .record, true, none⟩]
          ∧ (t.core p).stamp = ((s.core p).stamp + 1) % 2 ^ 32)
        ∧ (((s.lc c lc).depth pr ≤ ((s.lc c lc).queue pr).length + Tab.get 0 (s.lc c lc).held pr ∨ (s.lc c lc).siloOf pr ≠ []) →
          (s.lc c lc).poolUsed < (s.lc c lc).poolMax → s.overflowed c lc = false → s.memOk →
          ∃ t why pa bs, exec (.arrivalAccept id) s = .next t
          ∧ (t.lc c lc).siloOf pr = (s.lc c lc).siloOf pr
              ++ [⟨.msg m, pr, (s.core p).stamp, why, tr == .record, true, some (s.lc c lc).freeRec⟩]
          ∧ pa = s.poolAt c lc (s.lc c lc).freeRec ∧ bs = msgRecord m (s.core p).stamp
          ∧ (∀ k < bs.length, Memory.readByte t.mem (pa + k) = bs.getD k 0) ∧ s.keepsBut t c lc pa bs.length))
      ∧ (∀ m tr, s.firstArrival f = true → f.atCore = some (p, m, tr) → m.hdr.ctx.toNat = c → m.hdr.kind = 2 →
        (∀ y, tr ≠ .initial y) →
        m.hdr.ctrn.toNat < (s.lc c lc).ctrn → ∃ t, exec (.arrivalAccept id) s = .next t ∧ t.mem = s.mem
          ∧ (t.core p).ctrEvents = (s.core p).ctrEvents ++ [⟨(s.core p).stamp, c, m.hdr.ctrn.toNat,
              .add m.hdr.ccnt.toNat, (m.hdr.schip.toNat, m.hdr.score.toNat)⟩])
      ∧ (∀ m tr v, s.firstReply f = true → f.atCore = some (p, m, tr) → m.hdr.ctx.toNat = c → m.hdr.kind = 1 →
        m.scale = none → bitsOf m.hdr.tag.toNat 6 6 = 1 → (s.core p).resv.get? (m.hdr.tag.toNat % 64) = some v →
        v.ctx = c → v.reply = none → ∃ t, exec (.replyDelivery id) s = .next t ∧ t.mem = s.mem
          ∧ (t.core p).resv.get? (m.hdr.tag.toNat % 64) = some { v with reply := some (m, (s.core p).stamp) })
      ∧ (∀ k x note chip l, s.firstArrival f = true → f.body = .wput k x note chip l → f.goal = .core p → f.who.ctx = c →
        ∃ t, exec (.weirInsert id) s = .next t ∧ t.mem = s.mem
          ∧ (t.lc c lc).weir = (s.lc c lc).weir.insert (bitsOf (s.lc c lc).dcfg.toNat 15 12 + 1) k x))
  ∧
  (∀ (s : State) (c lc : Nat), (s.ctx c).paused = false →
      (∀ id f p m tr a h, s.flight? id = some f → s.firstArrival f = true → f.atCore = some (p, m, tr) → m.hdr.ctx.toNat = c →
        s.receiver c p = some lc → p = (s.lc c lc).pos → (m.hdr.kind = 0 ∨ m.hdr.kind = 3) →
        (∀ x y z, tr ≠ .peer x y z) → (∀ y, tr ≠ .initial y) → m.scale = none → (s.ctx c).trace = none →
        s.handler? c m.hdr.gen.toNat m.hdr.hidx.toNat = some (a, h) → h.rcl = false → 2 ≤ h.join →
        ((s.lc c lc).sheaves.any (fun x => x.keyOf m.hdr) = false → (s.lc c lc).sheafList = [] →
          s.mayOpen c lc = true → ∃ t x, exec (.sheafArrival id) s = .next t ∧ t.mem = s.mem
            ∧ (t.lc c lc).sheaves = (s.lc c lc).sheaves ++ [x] ∧ x.keyOf m.hdr = true ∧ x.arity = h.join ∧ x.count = 1
            ∧ (∀ j, j = m.hdr.jslot.toNat → j < 4 →
              x.opnds[j]? = some (some (msgFirstWord m, m.hdr.schip.toNat, m.hdr.score.toNat, m.hdr))))
        ∧ ((s.lc c lc).sheaves.any (fun x => x.keyOf m.hdr) = false →
          ((s.lc c lc).sheafList ≠ [] ∨ s.mayOpen c lc = false) → (s.lc c lc).poolUsed < (s.lc c lc).poolMax →
          s.overflowed c lc = false → s.memOk → ∃ t pa bs, exec (.sheafArrival id) s = .next t
            ∧ (t.lc c lc).sheaves = (s.lc c lc).sheaves
            ∧ (t.lc c lc).sheafList = (s.lc c lc).sheafList ++ [(m, (s.core p).stamp, (s.lc c lc).freeRec)]
            ∧ pa = s.poolAt c lc (s.lc c lc).freeRec ∧ bs = msgRecord m (s.core p).stamp
            ∧ (∀ k < bs.length, Memory.readByte t.mem (pa + k) = bs.getD k 0) ∧ s.keepsBut t c lc pa bs.length)
        ∧ (∀ x x', (s.lc c lc).sheaves.find? (fun x => x.keyOf m.hdr) = some x → x' = (x.add m (s.core p).stamp).1 →
          (x.count + 1 < x.arity → ∃ t, exec (.sheafArrival id) s = .next t ∧ t.mem = s.mem
            ∧ (t.lc c lc).sheaves = (s.lc c lc).sheaves.map (fun y => if y.keyOf m.hdr then x' else y)
            ∧ x'.count = x.count + 1 ∧ (t.core p).made = (s.core p).made)
          ∧ (x.arity ≤ x.count + 1 → ∃ t, exec (.sheafArrival id) s = .next t ∧ t.mem = s.mem
            ∧ (t.lc c lc).sheaves = (s.lc c lc).sheaves.filter (fun y => !y.keyOf m.hdr)
            ∧ (t.core p).made = insertMade ⟨13, c, .sheaf lc x'⟩ (s.core p).made)))
      ∧ (∀ p cls x, s.Room c lc x.leadHdr.prio.toNat → p = (s.lc c lc).pos → ∃ t,
        t = s.acceptMade p ⟨cls, c, .sheaf lc x⟩ ∧ t.mem = s.mem
        ∧ (t.lc c lc).queue x.leadHdr.prio.toNat = (s.lc c lc).queue x.leadHdr.prio.toNat
            ++ [⟨.sheaf x.leadHdr x.words x.note, x.leadHdr.prio.toNat, (s.core p).stamp,
                .sheaf x.note.1 x.note.2.1 x.note.2.2, false, true, none⟩])
      ∧ (∀ p cls n k, s.Room c lc k.inst.prio → p = (s.lc c lc).pos → (s.lc c lc).conts.get? n = some k →
        (s.ctx c).trace = none → ∃ t, t = s.acceptMade p ⟨cls, c, .wake lc n⟩ ∧ t.mem = s.mem
        ∧ (t.lc c lc).queue k.inst.prio = (s.lc c lc).queue k.inst.prio ++ [⟨.wake n, k.inst.prio, (s.core p).stamp, k.wcause,
            false, (s.core p).parkCache.contains (c, n), none⟩])
      ∧ (∀ m₀ m st n rest a h u, (s.lc c lc).sheafList = (m₀, st, n) :: rest → s.mayOpen c lc = true →
        (s.lc c lc).reserve = [] → s.poolBad c lc (some n) = none → m = msgOfRecord (Memory.read s.mem (s.poolAt c lc n) 512) →
        (s.lc c lc).sheaves.any (fun x => x.keyOf m.hdr) = false →
        u = (s.setLc c lc { s.lc c lc with sheafList := rest }).siloControl c lc →
        u.handler? c m.hdr.gen.toNat m.hdr.hidx.toNat = some (a, h) → 2 ≤ h.join →
        ∃ t x, exec (.sheafListReadback c lc) s = .next t ∧ t.mem = u.mem ∧ (t.lc c lc).sheafList = rest
          ∧ (s.memOk → ∀ b, ¬ (s.siloAt c lc ≤ b ∧ b < s.siloAt c lc + 4096) →
            Memory.readByte t.mem b = Memory.readByte s.mem b)
          ∧ (t.lc c lc).sheaves = (s.lc c lc).sheaves ++ [x] ∧ x.keyOf m.hdr = true ∧ x.count = 1)
      ∧ (∀ pr e rest, (s.lc c lc).siloOf pr = e :: rest → (s.lc c lc).queueRoom pr = true → (s.lc c lc).reserve = [] →
        s.poolBad c lc e.place = none → ∃ t, exec (.siloRefill c lc pr) s = .next t ∧ (t.lc c lc).siloOf pr = rest
          ∧ (s.memOk → ∀ b, ¬ (s.siloAt c lc ≤ b ∧ b < s.siloAt c lc + 4096) →
            Memory.readByte t.mem b = Memory.readByte s.mem b)
          ∧ (t.lc c lc).queue pr = (s.lc c lc).queue pr ++ [s.unspilled c lc e])
      ∧ (∀ n k, (s.lc c lc).conts.get? n = some k → k.value.isSome = true →
        ((s.lc c lc).wakeOf n = none → s.wakeMade c lc n = false → ∃ t, exec (.continuationWake c lc n) s = .next t ∧ t.mem = s.mem
            ∧ (t.core (s.lc c lc).pos).made = insertMade ⟨15, c, .wake lc n⟩ (s.core (s.lc c lc).pos).made)
        ∧ (∀ e, (s.lc c lc).wakeOf n = some e → e.ready = false → s.poisonAt (s.contAt c lc n) 4096 = none → ∃ t, exec (.continuationWake c lc n) s = .next t
          ∧ (t.lc c lc).wakeOf n = some { e with ready := true }
          ∧ (t.lc c lc).conts.get? n = some { k with inst := s.readCont c lc n k.inst })))

/-- The counter unit applies its oldest event that no earlier ARM of its counter holds back: an addition to a counter that stays below its target, or is not armed,
raises its count; one that reaches the target of a counter armed with a tile posts the tile and disarms it, its count less
the target. ARM answers 1 for a counter that is armed, and otherwise arms it and answers 0 (06 R118, 10 R221).

A barrier's unit counts the arrival that stands first: below its target the count and the sum rise; at its target, with
no balance controller bound, the episode closes and a completion with the sum, the episode and the target leaves for each
participant (05 R102, R103). -/
def Obligations.CountersAndBarriersCount : Prop :=
  (∀ (s : State) (p lc k : Nat) (e : CtrEvent) (rest : List CtrEvent) (x : Ctr),
      (s.core p).ctrEvents.find? (fun y => !s.armBehind p y) = some e → rest = (s.core p).ctrEvents.erase e →
      (s.ctx e.ctx).lcoreAt p = some lc → k = (s.lc e.ctx lc).ctrb + e.n → x = s.ctr p k →
      (∀ n count, e.what = .add n → count = min (x.count + n) (2 ^ 32 - 1) →
        ((x.armed = false ∨ count < x.target) → ∃ t, exec (.counterEvent p) s = .next t ∧ t.mem = s.mem
          ∧ (t.core p).ctrEvents = rest ∧ t.ctr p k = { x with count := count })
        ∧ (∀ d w, x.armed = true → x.target ≤ count → x.act = .post d w → tileOk d.toNat = true →
          (s.ctx e.ctx).holdsArr (quadOf p) = true → ∃ t cmd, exec (.counterEvent p) s = .next t ∧ t.mem = s.mem
            ∧ t.ctr p k = { x with count := count - x.target, armed := false }
            ∧ (t.quad (quadOf p)).arrayQ = (s.quad (quadOf p)).arrayQ ++ [⟨cmd, d, w, 1, s.clock⟩]))
      ∧ (∀ target act iid pid q sl i y u, e.what = .arm target act iid pid →
        u = s.setCore p { s.core p with ctrEvents := rest } →
        (x.armed = true → u.findPend pid = some (q, sl, i, y) → ∃ t j, exec (.counterEvent p) s = .next t
          ∧ t.ctr p k = x ∧ t.inst? q sl = some j ∧ { y with value := some 1 } ∈ j.pend)
        ∧ (x.armed = false → x.count < target →
          (u.setCtr p k ⟨x.count, true, target, act⟩).findPend pid = some (q, sl, i, y) → ∃ t j,
          exec (.counterEvent p) s = .next t ∧ t.ctr p k = ⟨x.count, true, target, act⟩ ∧ t.inst? q sl = some j
            ∧ { y with value := some 0 } ∈ j.pend)))
  ∧
  (∀ (s : State) (id : Nat) (f : Flight) (a : BArr) (key : Nat) (b : Barrier) (sum : Word), s.flight? id = some f →
      f.body = .barrier a → f.goal = .barrier → s.firstArrival f = true → a.ctx < 32 →
      (s.ctx a.ctx).st = .running → a.rank = (s.ctx a.ctx).desc.rank → (s.ctx a.ctx).hasRank a.rank = true →
      key = barrierKey a.level (barrierUnit a.level f.dx f.dy) a.n →
      b = Tab.get Barrier.reset (s.ctx a.ctx).barriers key → (b.count ≠ 0 → b.target = a.target) →
      sum = (if b.count = 0 then a.value else b.sum + a.value) →
      (b.count + 1 < a.target → ∃ t, exec (.barrierArrival id) s = .next t ∧ t.mem = s.mem
        ∧ Tab.get Barrier.reset (t.ctx a.ctx).barriers key
            = ⟨a.target, b.count + 1, sum, b.episode, b.arrivals ++ [a]⟩)
      ∧ (b.count + 1 = a.target → (s.ctx a.ctx).boundDies a.level (barrierUnit a.level f.dx f.dy) a.n = [] →
        ∃ t, exec (.barrierArrival id) s = .next t ∧ t.mem = s.mem
        ∧ (∀ z, z = Tab.get Barrier.reset (t.ctx a.ctx).barriers key →
            z.count = 0 ∧ z.episode = b.episode + 1 ∧ z.arrivals = [])
        ∧ ∀ e ∈ b.arrivals ++ [a], e.ctx = a.ctx → e.lcore < 1024 → s.reaches a.ctx (e.rank % 65536) e.lcore →
          ∃ g ∈ t.flights, ∃ m, g.body = .msg m .none ∧ m.hdr.dchip = BitVec.ofNat 16 e.rank
            ∧ m.hdr.dcore = BitVec.ofNat 10 e.lcore ∧ m.hdr.hidx = BitVec.ofNat 12 e.hidx ∧ m.hdr.tag = BitVec.ofNat 16 e.tag
            ∧ m.payload = [sum, word64 (b.episode + 1), word64 a.target].flatMap (fun w => leBytes 8 w.toNat)))

/-- A dispatch into the lowest free slot: the oldest waiting reply starts the reply-class handler of its reservation, which
closes; otherwise the entry that R212 chooses starts its instance, whose m registers hold the header and the payload, whose
pc is the handler's first word, whose q registers hold the handler's bindings (free values of its table entry, log 20) and
whose every other register reads 0; a continuation goes on with its registers as they were parked and gD as the wake gives
it, past the loop boundary that waited for gD if one did (the model's choice, log 44), and its record frees (01 R9, R12, R14,
R17; 06 R111; 10 R212, R220). -/
def Obligations.DispatchStartsInstances : Prop :=
  ∀ (s : State) (p sl : Nat), (s.core p).freeSlot = some sl →
    (∀ r v m st a h, oldestBy (fun e => (s.core p).ageOf e.2.2.2) (s.waitingReplies p) = some (r, v, m, st) →
      s.handler? v.ctx v.gen v.rhidx = some (a, h) → ∃ t i, exec (.dispatch p) s = .next t
        ∧ t.inst? p sl = some i ∧ i.reply = true ∧ i.hidx = v.rhidx ∧ i.ctx = v.ctx ∧ i.pc = word64 (a + 16)
        ∧ (t.core p).resv.get? r = none ∧ t.mem = s.mem)
    ∧ (∀ c lc e age m a h, s.waitingReplies p = [] → s.choose p = some ((c, lc, e), age) → e.item = .msg m →
      s.handler? c m.hdr.gen.toNat m.hdr.hidx.toNat = some (a, h) → ∃ t i, exec (.dispatch p) s = .next t
        ∧ t.inst? p sl = some i ∧ t.mem = s.mem ∧ i.ctx = c ∧ i.lcore = lc ∧ i.hidx = m.hdr.hidx.toNat
        ∧ i.tag = m.hdr.tag.toNat ∧ i.pc = word64 (a + 16) ∧ i.hbase = word64 (a + 16) ∧ i.hdr = h ∧ i.reply = false
        ∧ (∀ r, i.readG r = 0) ∧ (∀ r, i.readV r = 0) ∧ (∀ r, i.readD r = 0) ∧ (∀ r, r ≠ 0 → i.readK r = 0) ∧ i.link = 0
        ∧ i.q = ringBindings (s.handlerEntry c m.hdr.gen.toNat m.hdr.hidx.toNat)
        ∧ i.flags = {} ∧ (∀ k : XReg, k.toNat < 8 → i.readM k = hdrWord m.hdr k.toNat)
        ∧ (∀ k : XReg, 8 ≤ k.toNat → i.readM k = word64 (ofLe (sliceBytes m.payload (8 * (k.toNat - 8)) 8)))
        ∧ (t.core p).age = age)
    ∧ (∀ c lc e age n k, s.waitingReplies p = [] → s.choose p = some ((c, lc, e), age) → e.item = .wake n →
      (s.lc c lc).conts.get? n = some k → k.emit = none → ∃ t i, exec (.dispatch p) s = .next t
        ∧ t.inst? p sl = some i ∧ i.iid = k.inst.iid ∧ i.waitOn = none
        ∧ i.pc = (k.inst.writeG k.dst (k.value.getD 0)).settleEdge.pc
        ∧ i.g = (k.inst.writeG k.dst (k.value.getD 0)).settleEdge.g
        ∧ (k.inst.edge = false → i.pc = k.inst.pc
          ∧ ∀ r, i.readG r = if r = 0 then 0 else if r = k.dst then k.value.getD 0 else k.inst.readG r)
        ∧ (s.memOk → ∀ b, ¬ (s.siloAt c lc ≤ b ∧ b < s.siloAt c lc + 4096) →
            Memory.readByte t.mem b = Memory.readByte s.mem b)
        ∧ (t.lc c lc).conts.get? n = none)

/-- A balance controller whose table is mapped here updates it: it raises EPOCH and writes each expert's row, and no other
byte of the table, and a context whose table cannot be updated now does not hold it back; the record dispatcher of a running
context takes the record at TAIL once its lap marker is set: with COUNT 0 it consumes it, and otherwise it posts the tile to the
quad's array first (13 R257, R258, R261 to R266; 17 R299). That a record with COUNT 0 is consumed without a look at its template is
the model's choice (log 42). -/
def Obligations.ExpertUnitsComplete : Prop :=
  ∀ (s : State) (die c : Nat),
    (∀ k l t0 t1 pre rest, s.closingAt die = pre ++ (c, k) :: rest → (∀ e ∈ pre, s.updated die e.1 = none) →
      t0 = (Tab.get 0 (s.ctx c).bctl0 die) → t1 = (Tab.get 0 (s.ctx c).bctl1 die).toNat → s.tableBad die c = none →
      s.physPieces die c (pieces (bTable t0) (64 + 8 * bitsOf t1 31 16)) = some l → ∃ t bs,
        exec (.balanceUpdate die) s = .next t ∧ t.mem = (s.writeTable l bs).mem
        ∧ bs = balanceBytes (bitsOf t1 63 32) (bitsOf t1 31 16) (l.flatMap (fun e => Memory.read s.mem e.1 e.2))
        ∧ ofLe (bs.take 4) = (ofLe (sliceBytes (l.flatMap (fun e => Memory.read s.mem e.1 e.2)) 0 4) + 1) % 2 ^ 32)
    ∧ (∀ cfg pa w tail slot bs r, cfg = Tab.get 0 (s.ctx c).rdcfg die → rEn cfg = true → (s.ctx c).st = .running → s.memOk →
      s.translate die c (rBase cfg) true = .ok (.here pa) w → s.poisonAt pa 8 = none → tail = s.readLe pa 8 →
      slot = rBase cfg + 64 + 32 * (tail % rSize cfg) →
      s.engineRead (dispWho die c 0) die (dispCmd die c) 0 (pieces slot 32) = .data bs → r = ofLe bs →
      bitsOf r 24 24 = (tail / rSize cfg + 1) % 2 → (s.ctx c).recOk s die r = true →
      (recCount r = 0 → ∃ t, exec (.recordDispatch die c) s = .next t ∧ t.readLe pa 8 = (tail + 1) % 2 ^ 64
        ∧ ∀ a, ¬ (pa ≤ a ∧ a < pa + 8) → Memory.readByte t.mem a = Memory.readByte s.mem a)
      ∧ (∀ ts q chn, recCount r ≠ 0 →
        s.engineRead (dispWho die c (recTag r)) die (dispCmd die c) 8 (pieces (recTaddr r) 32) = .data ts →
        templateOk (ofLe ts) = true → q = 64 * die + recQpos r →
        chn = Tab.get 0 (s.ctx c).dchn (2 * q + tSet (ofLe ts)) → ∃ t cmd stamp,
          exec (.recordDispatch die c) s = .next t ∧ t.readLe pa 8 = (tail + 1) % 2 ^ 64
          ∧ (t.quad q).arrayQ = (s.quad q).arrayQ ++ [⟨cmd, BitVec.ofNat 256 (tileOfRec (ofLe ts) r chn),
              dispWho die c (recTag r), 2, stamp⟩]
          ∧ Tab.get 0 (t.ctx c).dchn (2 * q + tSet (ofLe ts)) = (chn + 2) % 256))

/-! Translation and fabric. -/

/-- A slice sends a request of a page that it holds on with the address of every page that it touches, and otherwise starts
its walk at the root, unless an earlier request waits for a walk. Each read of a walk goes one level down, fills the slice
with the leaf it finds, or holds the request on the word that is not present; a write of that word starts its walk anew. A
request that a full slice returned is sent again. An invalidation leaves no entry of its ranges at once, starts the walks of its
pages anew from the root, and is acknowledged once nothing that was translated through them is under way (17 R296 to R299, R302,
R303). That a range that crosses a page carries the later page's address is the model's choice (log 34). -/
def Obligations.TranslationSteps : Prop :=
  ∀ (s : State) (id : Nat) (f : Flight) (r : MemReq) (die k : Nat) (g : Region) (root : Stage), s.flight? id = some f →
    f.body = .req r → f.goal = .slice die k → g = (s.ctx r.ctx).regionAt r.key.1 →
    root = .sliceWalk (g.paddr + 8 * (r.key.2.1 / 2 ^ (9 * (g.levels - 1)) % 512)) (g.levels - 1) g.paddr →
    (f.arrived = true → (s.sliceAt die k).find r.ctx r.key.1 r.key.2.1 = none → s.walkerFor die k r = none →
      (s.walksAt die k).length < 16 → s.waitAhead die k f = false → exec (.tlbSliceLookup id) s = .next (s.setFlight { f with stage := root }))
    ∧ (∀ h tgt w lt, f.arrived = true → (s.sliceAt die k).find r.ctx r.key.1 r.key.2.1 = some h →
      s.firstPage die r = .ok tgt w → r.ans ≠ .probe →
      ((lt = none ∧ (r.ring.isSome = true ∨ s.laterPage die r = none)) ∨ (r.ring = none ∧ ∃ last tgt' w',
        s.laterPage die r = some (last, .ok tgt' w') ∧ lt = some (last - r.va, tgt'))) →
      ∃ t, exec (.tlbSliceLookup id) s = .next t ∧ t.mem = s.mem
        ∧ ∃ x ∈ t.flights, x.id = id ∧ x.body = .req { r with target := some tgt, later := lt, look := none, via := s.pagesOf die r lt.isSome }
          ∧ x.stage = .router (xyOfQuad (64 * die + k)).1 (xyOfQuad (64 * die + k)).2 false)
    ∧ (∀ word level table, f.stage = .sliceWalk word level table →
      (∀ nt, s.walkRead g r.key.2.1 level table = .next nt → exec (.pageWalkRead id) s = .next (s.setFlight { f with
        stage := .sliceWalk (nt + 8 * (r.key.2.1 / 2 ^ (9 * (level - 1)) % 512)) (level - 1) nt }))
      ∧ (∀ pa w, s.walkRead g r.key.2.1 level table = .leaf pa w → ∃ t, exec (.pageWalkRead id) s = .next t
        ∧ t.mem = s.mem ∧ ⟨r.ctx, r.key.1, r.key.2.1, pa, w⟩ ∈ (t.sliceAt die k).ents)
      ∧ (∀ wd, s.walkRead g r.key.2.1 level table = .absent wd → s.walkGroup die k f = [f] → s.heldCount die k < 256 →
        ∃ t, exec (.pageWalkRead id) s = .next t ∧ t.mem = s.mem ∧ (r.ctx, wd) ∈ (t.sliceAt die k).words
          ∧ ∃ x ∈ t.flights, x.id = id ∧ x.stage = .sliceHeld wd false))
    ∧ (∀ word, f.stage = .sliceHeld word true → s.walkerFor die k r = none → (s.walksAt die k).length < 16 →
      (∀ x ∈ s.heldAt die k, x.stage = .sliceHeld word true → f.arr ≤ x.arr) → s.waitAhead die k f = false →
      exec (.pageFaultRewalk id) s = .next (s.setFlight { f with stage := root }))
    ∧ (f.stage = .sliceBack → exec (.tlbRetry id) s = .next (({ s with nextId := s.nextId + 1 }).setFlight { f with
        stage := .router f.sx f.sy false, arr := s.nextId, cyc := s.clock, inp := entryPort f.who f.body }))
    ∧ ((s.sliceAt die k).inval = [] → (s.sliceAt die k).drops ≠ [] →
      (s.sliceAt die k).drops.all (fun x => !s.unapplied x) = true →
      exec (.tlbInvalidate die k) s = .next (s.setSlice die k { s.sliceAt die k with drops := [] }))
    ∧ ((s.sliceAt die k).inval ≠ [] →
      ∃ t, exec (.tlbInvalidate die k) s = .next t ∧ t.mem = s.mem ∧ (t.sliceAt die k).inval = []
        ∧ (t.sliceAt die k).drops.map Prod.fst = (s.sliceAt die k).drops.map Prod.fst ++ (s.sliceAt die k).inval
        ∧ (∀ e, e ∈ (t.sliceAt die k).ents ↔ e ∈ (s.sliceAt die k).ents
            ∧ ∀ x ∈ (s.sliceAt die k).inval, inRange x e.ctx e.region e.page = false)
        ∧ ∀ word level table x, f.stage = .sliceWalk word level table → x ∈ (s.sliceAt die k).inval →
            inRange x r.ctx r.key.1 r.key.2.1 = true → { f with stage := root } ∈ t.flights)

/-- A router puts a request into the output buffer that R230 chooses for it, adaptive or escape, which lies on a minimal route;
a request at the head of its lane, and a reply, whose flits the lane takes in this cycle, cross to the next router of the die
or onto the link to it. A frame of a link, in one of its two directions, delivers what is on it; one whose CRC fails is a
failed sending. After 16 failed retries of one frame the link goes to half rate, and one already at half rate fails (11 R228
to R232, R234; 21 R358). The numbers of the links and of their directions, and which of them a bit of HALF names, are the model's
choice (log 24). -/
def Obligations.FabricMovesFlights : Prop :=
  (∀ (s : State) (id x y : Nat) (f : Flight), s.flight? id = some f → x < 16 → y < 16 → f.dx < 16 → f.dy < 16 →
    (∀ esc o e, f.stage = .router x y esc → f.reply = false → s.outputFor f x y esc = some (o, e) →
      exec (.quadRouterForward id (wayOf o e)) s
        = .next (({ s with nextId := s.nextId + 1 }).setFlight { f with stage := .lane x y o.1 o.2 e, arr := s.nextId })
      ∧ hops (nextXY x y o.1 o.2) (f.dx, f.dy) + 1 = hops (x, y) (f.dx, f.dy) ∧ (esc = true → e = true))
    ∧ (∀ out esc way, ((f.reply = true ∧ f.stage = .router x y esc ∧ f.dimOutput x y = some out
          ∧ s.aheadOf f x y out false = false)
        ∨ (f.stage = .lane x y out.1 out.2 esc ∧ s.aheadOf f x y out esc = false)) → s.laneTakes f x y out = true →
      ∃ t g z, exec (.quadRouterForward id way) s = .next t ∧ t.mem = s.mem ∧ g ∈ t.flights ∧ g.id = id ∧ g.body = f.body
      ∧ z = nextXY x y out.1 out.2 ∧ (f.dimOutput x y = some out →
        hops z (f.dx, f.dy) + 1 = hops (x, y) (f.dx, f.dy))
      ∧ (linkOf (x, y) z = none → ∃ e, g.stage = .router z.1 z.2 e)
      ∧ ∀ l, linkOf (x, y) z = some l → ∃ e, g.stage = .link l z.1 z.2 e))
  ∧ (∀ (s : State) (link : Nat) (l : Link), l = s.linkAt link → link < 64 → l.dead = false →
    (∀ up n, n = (if up then link + 64 else link) →
      (∃ t, exec (.d2dFrameReceive n true) s = .next t ∧ t.linkAt link = l.setFails up 0 ∧ t.mem = s.mem
        ∧ ∀ f ∈ s.flights, ∀ x y e, f.stage = .link link x y e → linkUp link x y = up →
          { f with stage := .router x y e, cyc := s.clock } ∈ t.flights)
      ∧ (∃ t, exec (.d2dFrameReceive n false) s = .next t ∧ (t.linkAt link).fails up = l.fails up + 1
        ∧ (t.linkAt link).fails (!up) = l.fails (!up)
        ∧ (t.linkAt link).report = (l.report || decide (17 ≤ l.fails up + 1)) ∧ t.flights = s.flights ∧ t.mem = s.mem))
    ∧ (l.report = true → l.half = false → ∃ t, exec (.linkHalfRate link) s = .next t
      ∧ t.linkAt link = { l with half := true, failsUp := 0, failsDown := 0, report := false }
      ∧ t.hub.health.replace = true
      ∧ t.hub.health.half.testBit (halfBit link) = true ∧ t.hub.health.rwhy.testBit 1 = true)
    ∧ (l.report = true → l.half = true → ∃ t, exec (.linkHalfRate link) s = .next t
      ∧ t.linkAt link = { l with dead := true, report := false } ∧ t.hub.linkFailed = some link))

/-- Ports. A request at its egress router takes a free entry of the port's remote table and waits there, when the port may
send it. A frame whose checks all hold and that is the next of its sequence is taken, and a memory request in it enters the
fabric for its owner; one that fails a check is asked for again and delivers nothing, and counts as a retry when it is the next of
its sequence; one that is not the next delivers nothing either. A port sends a heartbeat while its key bank takes frames; it goes
down after 8 ms without a good frame or after 16 failed retries, and comes up with the entries of its remote table kept; and 24
hours down are a cause of REPLACE (18 R312, R316 to R320, 21 R357).

The key session of a port. Each management message moves it to the next phase, FINISH loads the first keys of each direction
into bank A with its counter at 0, a rekey, begun here or by the peer, loads the idle banks, takes the sending one into use and,
once no frame with the old KG waits for its acknowledgement, erases the old one; the end of the session erases all, and a bank
whose counter reaches 2^48 takes the port down (18 R321). What a trained port begins with, that GET_VERSION begins a session anew
in any phase, and that banks are kept for each direction are the model's choice (log 40). -/
def Obligations.PortsAndLinkKeys : Prop :=
  ((∀ (s : State) (id port e : Nat) (f : Flight), s.flight? id = some f → f.goal = .egress port → f.arrived = true →
      f.needsEntry = true → s.lostFor f port = false → (s.port port).up = true → (s.port port).freeEntry = some e →
      s.maySend port f (4096 * port + e) = true →
      ∃ t, exec (.remoteTableEntry id) s = .next t ∧ t.mem = s.mem ∧ (s.port port).remote.get? e = none
        ∧ (t.port port).remote.get? e = some id ∧ ∃ g ∈ t.flights, g.id = id ∧ g.stage = .remote port e)
    ∧ (∀ (s : State) (port : Nat) (p : Port) (f : Frame), p = s.port port → port < 14 → p.up = true →
      (f.units.map unitFlits).sum ≤ 25 → f.units.all (unitOn port) = true →
      (p.passes f = false →
        ∃ t, exec (.druntasyFrameReceive port f) s = .next t
          ∧ (t.port port).retries = (if f.fseq = p.rxSeq then p.retries + 1 else p.retries)
          ∧ .again port p.rxSeq ∈ t.outbox ∧ t.flights = s.flights ∧ t.mem = s.mem)
      ∧ (p.passes f = true → f.fseq ≠ p.rxSeq →
        exec (.druntasyFrameReceive port f) s = .next (s.setPort port { p with lastGood := s.clock }))
      ∧ (p.passes f = true → f.fseq = p.rxSeq →
        (∃ t, exec (.druntasyFrameReceive port f) s = .next t)
        ∧ (f.units = [] → port < 12 → exec (.druntasyFrameReceive port f) s = .next (s.setPort port (p.received f s.clock)))
        ∧ ∀ gm here src cls chip e c op pa n data expect more, s.hub.geom = some gm →
          gm.direction here.1 here.2.1 here.2.2 = none →
          f.units = [.via here src cls (.req chip e c op pa n data expect more)] →
          ∃ t, exec (.druntasyFrameReceive port f) s = .next t ∧ t.mem = s.mem
            ∧ t.port port = p.received f s.clock
            ∧ ∃ g ∈ t.flights, ∃ r, g.body = .req r ∧ g.goal = .owner ∧ r.op = op ∧ r.ctx = c ∧ r.target = some (.here pa)
              ∧ r.later = more.map (fun m => (m.1, .here m.2))
              ∧ r.n = n ∧ r.data = data ∧ r.expect = expect ∧ r.ans = .peer chip e port
              ∧ g.home = some src ∧ g.vc = (cls != gm.wraps port)))
    ∧ (∀ (s : State) (port : Nat) (p : Port), p = s.port port → port < 14 →
      (p.up = true → (p.tx.inUse.isSome = true → p.keyed = true) → ∃ t, exec (.heartbeatFrame port) s = .next t ∧ (t.port port).fseq = (p.fseq + 1) % 65536
        ∧ (t.port port).unacked.length = p.unacked.length + 1
        ∧ (∃ z, t.outbox = s.outbox ++ [.trailer port z, .heartbeat port] ∧ z.fseq = p.fseq) ∧ t.mem = s.mem)
      ∧ (p.up = true → (p.lastGood + silenceCycles ≤ s.clock ∨ 17 ≤ p.retries) →
        ∃ t, exec (.portDown port) s = .next t ∧ (t.port port).up = false ∧ t.mem = s.mem)
      ∧ (p.up = false → exec (.druntasyPortUp port) s
          = .next (s.setPort port { Port.reset with up := true, lastGood := s.clock, remote := p.remote, owed := p.owed }))
      ∧ (p.up = false → p.downDay = false → p.downAt + dayCycles ≤ s.clock →
        ∃ t, exec (.portDownFor24Hours port) s = .next t
        ∧ (t.port port).downDay = true ∧ t.hub.health.replace = true ∧ t.hub.health.rwhy.testBit 4 = true)))
  ∧
  (∀ (s : State) (port : Nat) (p : Port), p = s.port port → port < 14 →
      (∀ r ∈ ([(.getVersion, [.none, .version, .caps, .algs, .digests, .cert, .keyEx, .active], .version, 0),
          (.getCapabilities, [.version], .caps, 1), (.negotiateAlgorithms, [.caps], .algs, 2),
          (.getDigests, [.algs], .digests, 3), (.getCertificate, [.algs, .digests], .cert, 4),
          (.keyExchange, [.cert], .keyEx, 5), (.heartbeat, [.active], .active, 9)]
            : List ((Nat → Instr) × List Phase × Phase × Nat)), p.up = true → p.phase ∈ r.2.1 → exec (r.1 port) s
        = .next ((s.setPort port { p with phase := r.2.2.1 }).emit (.mgmt port r.2.2.2)))
      ∧ (p.up = true → p.phase = .keyEx → port < 12 → ∃ t, exec (.finish port) s = .next t ∧ (t.port port).phase = .active
        ∧ (t.port port).tx = ⟨some 0, none, false⟩ ∧ (t.port port).rx = ⟨some 0, none, false⟩)
      ∧ (p.up = true → p.phase = .keyEx → ∃ t, exec (.finish port) s = .next t ∧ (t.port port).phase = .active)
      ∧ (p.phase = .active → p.rekeying = .none →
        exec (.rekey port) s = .next (s.setPort port { p with rekeying := .begun }))
      ∧ (p.up = true → p.phase = .active → (p.rekeying = .begun ∨ p.rekeying = .none) → ∃ t q, exec (.keyUpdate port) s = .next t
        ∧ q = t.port port ∧ q.rekeying = .loaded
        ∧ q.tx.bank (!p.tx.kg) = some 0 ∧ q.tx.bank p.tx.kg = p.tx.bank p.tx.kg ∧ q.tx.kg = p.tx.kg
        ∧ q.rx.bank (!p.rx.kg) = some 0 ∧ q.rx.bank p.rx.kg = p.rx.bank p.rx.kg ∧ q.rx.kg = p.rx.kg)
      ∧ (p.rekeying = .loaded → ∃ t, exec (.bankReady port) s = .next t ∧ (t.port port).rekeying = .switched
        ∧ (t.port port).tx.kg = !p.tx.kg
        ∧ (port < 12 → t = s.setPort port { p with rekeying := .switched, tx := { p.tx with kg := !p.tx.kg } }))
      ∧ (p.rekeying = .switched → p.unacked.all (fun x => x.1.kg == p.tx.kg) = true →
        ∃ t, exec (.bankRetired port) s = .next t ∧ (t.port port).rekeying = .none
        ∧ (t.port port).tx.bank (!p.tx.kg) = none ∧ (t.port port).tx.bank p.tx.kg = p.tx.bank p.tx.kg)
      ∧ (p.up = true → p.phase = .active → ∃ t, exec (.endSession port) s = .next t ∧ (t.port port).phase = .none
        ∧ ∀ k, (t.port port).tx.bank k = none ∧ (t.port port).rx.bank k = none)
      ∧ (∀ k n, p.up = true → (p.tx.bank k = some n ∨ p.rx.bank k = some n) → 2 ^ 48 ≤ n →
        ∃ t, exec (.bankFcntLimit port) s = .next t ∧ (t.port port).up = false ∧ t.mem = s.mem))

/-! Mailbox commands. -/

/-- A command on a context whose state does not take it answers 1, or 2 between states, and changes neither a context nor
memory; one on a context above 31 answers 3 with reason 0xFE, and a code that names no command 3 with reason 0xFF (16
R276, 18 R306).

LAUNCH of a FREE context whose descriptor passes every check makes it, with the descriptor's scalars and regions, and
answers 0; one that fails a check, or a failed link, answers 3 and changes nothing. REBIND makes the next generation of a
RUNNING context current, or due for a SAVED one (16 R276, R280, R283, 21 R358). That SETDBG answers 1 for FREE and 2 between states, as the other
commands on a context do, is the model's choice (log 36). -/
def Obligations.LaunchAndRebindComplete : Prop :=
  (∀ (s : State) (cell : Nat),
      (∀ r ∈ ([(.launch, 1, [.running, .saved], [.launching, .saving, .restoring, .ending]),
          (.rebind, 2, [.free], [.launching, .saving, .restoring, .ending]),
          (.preempt, 3, [.free, .saved], [.launching, .saving, .restoring, .ending]),
          (.restore, 4, [.free, .running], [.launching, .saving, .restoring, .ending]),
          (.mailboxEnd, 5, [.free], [.launching, .saving, .restoring, .ending]),
          (.unmap, 6, [.free], [.launching, .saving, .restoring, .ending]),
          (.protect, 7, [.free], [.launching, .saving, .restoring, .ending]),
          (.setdbg, 8, [.free], [.launching, .saving, .restoring, .ending])]
            : List ((Nat → Instr) × Nat × List CtxSt × List CtxSt)), s.restoring cell = none →
        (∀ l code, (l = r.2.2.1 ∧ code = 1) ∨ (l = r.2.2.2 ∧ code = 2) → s.Commanded cell r.2.1 1 →
          (s.ctx (s.hub.cmdCtx cell)).st ∈ l →
          ∃ t, exec (r.1 cell) s = .next t ∧ t.Resulted cell code ∧ t.ctxs = s.ctxs ∧ t.mem = s.mem)
        ∧ (cell ≤ 3 → Tab.get 0 s.hub.busy cell ≠ 0 → s.hub.cmdCode cell = r.2.1 → 32 ≤ s.hub.cmdCtx cell →
          ∃ t, exec (r.1 cell) s = .next t ∧ t.Resulted cell (resultWord 3 0xFE 0) ∧ t.ctxs = s.ctxs ∧ t.mem = s.mem))
      ∧ (cell ≤ 3 → Tab.get 0 s.hub.busy cell = 1 → knownCode (s.hub.cmdCode cell) = false →
        ∃ t, exec (.mailboxInvalidCode cell) s = .next t ∧ t.Resulted cell (resultWord 3 0xFF 0) ∧ t.ctxs = s.ctxs
          ∧ t.mem = s.mem))
  ∧
  (∀ (s : State) (cell c : Nat), c = s.hub.cmdCtx cell →
      (s.Commanded cell 1 1 → (s.ctx c).st = .free →
        (∀ link, s.hub.linkFailed = some link →
          ∃ t, exec (.launch cell) s = .next t ∧ t.Resulted cell (resultWord 3 12 link) ∧ t.ctxs = s.ctxs ∧ t.mem = s.mem)
        ∧ (s.hub.linkFailed = none → ∀ r d, s.checkLaunch c (s.hub.arg cell 0) = .error (r, d) →
          ∃ t, exec (.launch cell) s = .next t ∧ t.Resulted cell (resultWord 3 r d) ∧ t.ctxs = s.ctxs ∧ t.mem = s.mem)
        ∧ (s.hub.linkFailed = none → ∀ x, s.checkLaunch c (s.hub.arg cell 0) = .ok x →
          ∃ t, exec (.launch cell) s = .next t ∧ t.Resulted cell 0 ∧ (t.ctx c).desc = x.desc
            ∧ (t.ctx c).regions = x.regions ∧ ((t.ctx c).st = .launching ∨ (t.ctx c).st = .running)))
      ∧ (∀ x g im, s.Commanded cell 2 1 → x = s.ctx c → g = (x.nextGen.getD x.gen + 1) % 4 → im = s.hub.arg cell 0 →
        (x.st = .running ∨ x.st = .saved) →
        (s.resident c g = true → ∃ t, exec (.rebind cell) s = .next t ∧ t.Resulted cell 5 ∧ t.ctxs = s.ctxs)
        ∧ (s.resident c g = false → s.badImage im = none → im % 64 = 0 → s.checkHeaders x.desc.rsafe im = .ok () →
          ∃ t, exec (.rebind cell) s = .next t ∧ t.Resulted cell 0 ∧ t.mem = s.mem
            ∧ (t.ctx c).tables.get? g = some ⟨im, true⟩
            ∧ (x.st = .running → (t.ctx c).gen = g)
            ∧ (x.st = .saved → (t.ctx c).gen = x.gen ∧ (t.ctx c).nextGen = some g))))

/-- PREEMPT brings a RUNNING context to SAVING and, once its slots and units have settled, to SAVED with what it left
saved; RESTORE brings a SAVED one to RESTORING and, once slots are free, takes what was saved back, after which it is RUNNING
unless what waited for it stops it again; END brings a RUNNING one to ENDING and then to FREE (16 R277, R287 to R291). That PREEMPT
and END return in a second step of their cell, once every slot and unit has settled and, for END, a slice has translated what was on
its way, is the model's choice (log 15); so is that a RESTORE that has answered completes in a later step of its cell, and that one
that meets a poisoned block ends in the fault instead (logs 17 and 48). -/
def Obligations.SaveRestoreAndEndComplete : Prop :=
  ∀ (s : State) (cell c : Nat), c = s.hub.cmdCtx cell →
    (s.Commanded cell 3 1 → (s.ctx c).st = .running → ∃ t, exec (.preempt cell) s = .next t
      ∧ (t.ctx c).st = .saving ∧ (t.ctx c).halt = .preempt cell ∧ Tab.get 0 t.hub.busy cell = 2 ∧ t.mem = s.mem)
    ∧ (s.Commanded cell 3 2 → (s.ctx c).st = .saving → (s.ctx c).halt = .preempt cell → s.settledCtx c = true →
      (s.ctx c).saved = none → ∃ t, exec (.preempt cell) s = .next t ∧ t.Resulted cell 0 ∧ (t.ctx c).st = .saved
        ∧ (t.ctx c).saved = some (s.savedOf c))
    ∧ (∀ v new, s.Commanded cell 4 1 → s.restoring cell = none → (s.ctx c).st = .saved → (s.ctx c).saved = some v →
      s.checkRestore c v (s.hub.arg cell 0) = .ok new → ∃ t, exec (.restore cell) s = .next t ∧ t.Resulted cell 0
        ∧ (t.ctx c).st = .restoring ∧ (t.ctx c).halt = .restore cell new ∧ t.mem = s.mem)
    ∧ (∀ k v new, s.restoring cell = some (k, v, new) → s.slotsFree (s.ctx k) v new = true →
      (∃ t, exec (.restore cell) s = .next t)
      ∧ (s.restoreBad k v = none → (∀ f ∈ s.flights, f.ctx ≠ k) →
        (∀ e ∈ (s.ctx k).lcs, e.2.sheafList = [] ∧ e.2.reserve = [] ∧ ∀ pr, e.2.siloOf pr = []) →
        ∃ t, exec (.restore cell) s = .next t ∧ (t.ctx k).st = .running ∧ (t.ctx k).saved = none))
    ∧ (s.Commanded cell 5 1 → (s.ctx c).st = .running → ∃ t, exec (.mailboxEnd cell) s = .next t
      ∧ (t.ctx c).st = .ending ∧ Tab.get 0 t.hub.busy cell = 2 ∧ t.mem = s.mem)
    ∧ ((s.Commanded cell 5 2 ∧ (s.ctx c).st = .ending ∧ s.settledCtx c = true ∧ s.translatedAll c = true)
        ∨ (s.Commanded cell 5 1 ∧ (s.ctx c).st = .saved) →
      ∃ t, exec (.mailboxEnd cell) s = .next t ∧ t.Resulted cell 0 ∧ (t.ctx c).st = .free)

/-- UNMAP and PROTECT of a page range send its invalidation to all 256 slices, and return once none waits; of one
page of a region of one level they have cleared P, or set W as told, of its entry. SETDBG writes DBGCTL (17 R302, R303, 18
R306).

HEALTH copies the health record, VERIFY answers whether a signature holds under a key that the hub carries, and GEOMETRY
sets the pod geometry while every context is FREE (21 R355, 23 R375, 18 R381). SETDBG's answers, and VERIFY's reason 2 for a key
above 7, are the model's choice (log 36); so is the reading of FIPS 205 by which `slhVerify` decides, and the keys that an image
carries stay free (log 9). -/
def Obligations.PagesAndModuleCommandsComplete : Prop :=
  (∀ (s : State) (cell c : Nat), c = s.hub.cmdCtx cell → ((s.ctx c).st = .running ∨ (s.ctx c).st = .saved) →
      (∀ x code k r page n, (x = Instr.unmap cell ∧ code = 6) ∨ (x = .protect cell ∧ code = 7) →
        n = s.hub.arg cell 1 → (s.ctx c).pageRange (s.hub.arg cell 0) n = .ok (k, r, page) →
        (s.Commanded cell code 1 → ∃ t, exec x s = .next t ∧ Tab.get 0 t.hub.busy cell = 2
          ∧ (∀ d < 4, ∀ j < 64, (c, k, page, n) ∈ (t.sliceAt d j).inval)
          ∧ ∀ w e, s.memOk → r.levels = 1 → n = 1 → w = r.paddr + 8 * (page % 512) → e = s.readLe w 8 → 2 ^ 63 ≤ e →
            (code = 6 → t.readLe w 8 = e % 2 ^ 63)
            ∧ (code = 7 → t.readLe w 8 = 2 ^ 63 + s.hub.arg cell 2 % 2 * 2 ^ 62 + e % 2 ^ 62))
        ∧ (s.Commanded cell code 2 → s.invalPending (c, k, page, n) = false → ∃ t, exec x s = .next t ∧ t.Resulted cell 0
          ∧ t.mem = s.mem ∧ t.ctxs = s.ctxs)
        ∧ (s.Commanded cell code 2 → s.invalPending (c, k, page, n) = true → exec x s = s.idle "a slice has not acknowledged"))
      ∧ (s.Commanded cell 8 1 → ∃ t, exec (.setdbg cell) s = .next t ∧ t.Resulted cell 0 ∧ t.mem = s.mem
        ∧ (t.ctx c).dbgctl = word64 (s.hub.arg cell 0 % 4)))
  ∧
  (∀ (s : State) (cell : Nat) (h : Hub), h = s.hub →
      (∀ a, s.Commanded cell 0x20 1 → s.memOk → a = h.arg cell 0 → a % 64 = 0 → inHbm a 512 = true →
        ∃ t, exec (.health cell) s = .next t ∧ t.Resulted cell 0 ∧ t.readLe a 8 = h.health.word0 % 2 ^ 64
          ∧ t.readLe (a + 8) 8 = h.health.word1 % 2 ^ 64
          ∧ ∀ k < 124, t.readLe (a + 16 + 4 * k) 4 = Tab.get 0 h.health.counts k % 2 ^ 32)
      ∧ (∀ n k, s.Commanded cell 0x21 1 → n = h.arg cell 1 → k = h.arg cell 3 → 1 ≤ n → n ≤ 2 ^ 30 →
        inHbm (h.arg cell 0) n = true → inHbm (h.arg cell 2) 29792 = true → ∃ t, exec (.verify cell) s = .next t
          ∧ t.mem = s.mem ∧ t.ctxs = s.ctxs
          ∧ t.Resulted cell (if k > 7 ∨ Config.keyLoaded k = false then resultWord 3 2 0
              else if slhVerify (Config.imageKey k) (Memory.read s.mem (h.arg cell 0) n) (Memory.read s.mem (h.arg cell 2) 29792) then 0
              else resultWord 3 1 0))
      ∧ (∀ ex ey ez px py pz e p, s.Commanded cell 0x22 1 → e = h.arg cell 0 → p = h.arg cell 1 →
        e = ex + ey * 2 ^ 16 + ez * 2 ^ 32 → p = px + py * 2 ^ 16 + pz * 2 ^ 32 → ex ≤ 256 → ey ≤ 256 → ez ≤ 256 →
        px < ex → py < ey → pz < ez → ex * ey * ez ≤ 65536 → h.arg cell 2 < 2 ^ 16 →
        (∀ c ∈ s.ctxs, c.2.st = .free) → ∃ t, exec (.geometry cell) s = .next t ∧ t.Resulted cell 0 ∧ t.mem = s.mem
          ∧ t.hub.geom = some ⟨ex, ey, ez, px, py, pz, h.arg cell 2⟩))

/-- The journal's commands. JCONFIG fixes its areas, ROSTER loads a roster that passes its checks, PARTNER seeds and then
holds a partner, LOST enters a chip in the lost set, REPLAY writes its image, opens its sequences and returns once every entry is acknowledged,
BFREE frees a barn slot, and JSTAT answers a sequence's state (20 R328, R332, R337, R338, Table 20-2; 18 R317). With no barn port
that carries frames, PARTNER, and REPLAY of a slot of another chip, answer 3 with reason 1.

That PARTNER holds its partner only when it completes, and that the answer of another chip's barn to REPLAY's read is data of its
second step, is the model's choice (log 37); so are JCONFIG's answers (log 36), and that a barn that keeps its place keeps its
entries (log 53). -/
def Obligations.JournalCommandsComplete : Prop :=
  ∀ (s : State) (cell c : Nat) (h : Hub), c = s.hub.cmdCtx cell → h = s.hub →
    (s.Commanded cell 0x10 1 → h.seqs = [] → inHbm (h.arg cell 0) (h.arg cell 1) = true →
      inHbm (h.arg cell 2) (2 * h.arg cell 3) = true → ∃ t, exec (.jconfig cell) s = .next t ∧ t.Resulted cell 0
        ∧ t.hub.jcfg = some (h.arg cell 0, h.arg cell 1, h.arg cell 2, h.arg cell 3) ∧ t.hub.jbuf = [] ∧ t.mem = s.mem)
    ∧ (∀ r, s.Commanded cell 0x11 1 → (s.ctx c).st ≠ .ending → s.checkRoster c (h.arg cell 0) = .ok r →
      ∃ t, exec (.roster cell) s = .next t ∧ t.Resulted cell 0 ∧ (t.ctx c).roster = some r ∧ t.mem = s.mem)
    ∧ (∀ r, s.Commanded cell 0x11 1 → (s.ctx c).st ≠ .ending → s.checkRoster c (h.arg cell 0) = .error r →
      ∃ t, exec (.roster cell) s = .next t ∧ t.Resulted cell (resultWord 3 r 0) ∧ t.ctxs = s.ctxs)
    ∧ (∀ chip slot, chip = h.arg cell 0 → slot = h.arg cell 1 →
      (s.Commanded cell 0x12 1 → h.seeding = none → s.barnOpen = false → ∀ b,
        ∃ t, exec (.partner cell b) s = .next t ∧ t.Resulted cell (resultWord 3 1 0) ∧ t.hub.partner = h.partner)
      ∧ (s.Commanded cell 0x12 1 → h.seeding = none → slot ≤ 1 → s.barnOpen = true → chip ≠ h.chipId → chip ∉ h.lost →
        s.partnerClash chip = false → ∃ t, exec (.partner cell true) s = .next t
          ∧ t.hub.seeding = some (cell, chip, slot) ∧ Tab.get 0 t.hub.busy cell = 2
          ∧ ∀ e ∈ t.hub.jbuf, e.2 = false)
      ∧ (s.Commanded cell 0x12 2 → h.seeding = some (cell, chip, slot) → h.awaited cell = [] → ∀ b,
        ∃ t, exec (.partner cell b) s = .next t ∧ t.Resulted cell 0 ∧ t.hub.partner = some (chip, slot)
          ∧ t.hub.seeding = none))
    ∧ (s.Commanded cell 0x13 1 → ∃ t, exec (.lost cell) s = .next t ∧ t.Resulted cell 0 ∧ h.arg cell 0 ∈ t.hub.lost
        ∧ t.mem = s.mem)
    ∧ ((∀ w ∈ h.seedWaits, w.1 ≠ cell) → (s.ctx c).st = .running →
      (∀ held, s.Commanded cell 0x14 1 → h.arg cell 1 ≠ h.chipId →
        (s.barnOpen = true →
          exec (.replay cell held) s = .next ((s.underWay cell).barnSend (h.arg cell 1) (.barnRead h.chipId (h.arg cell 0))))
        ∧ (s.barnOpen = false →
          ∃ t, exec (.replay cell held) s = .next t ∧ t.Resulted cell (resultWord 3 1 0) ∧ t.mem = s.mem))
      ∧ (∀ es held bs, s.memOk →
        ((s.Commanded cell 0x14 1 ∧ h.arg cell 1 = h.chipId ∧ h.geom ≠ none
            ∧ (h.barn.find? (fun e => e.2.client = some (h.arg cell 0))).map (fun e => e.2.entries) = some es)
          ∨ (s.Commanded cell 0x14 2 ∧ h.arg cell 1 ≠ h.chipId ∧ s.barnOpen = true ∧ held = some es)) →
        bs = replayImage (replayOf c es) → inHbm (h.arg cell 2) (h.arg cell 3) = true → bs.length ≤ h.arg cell 3 →
        ∃ t, exec (.replay cell held) s = .next t ∧ Tab.get 0 t.hub.busy cell = 2
          ∧ (∃ w ∈ t.hub.seedWaits, w.1 = cell) ∧ Memory.read t.mem (h.arg cell 2) bs.length = bs)
      ∧ (s.Commanded cell 0x14 2 → h.arg cell 1 ≠ h.chipId → s.barnOpen = true →
        ∃ t, exec (.replay cell none) s = .next t ∧ t.Resulted cell (resultWord 3 1 0) ∧ t.mem = s.mem))
    ∧ (s.Commanded cell 0x14 2 → (∃ w ∈ h.seedWaits, w.1 = cell) → h.awaited cell = [] → ∀ held,
        ∃ t, exec (.replay cell held) s = .next t ∧ t.Resulted cell 0 ∧ t.mem = s.mem)
    ∧ (s.Commanded cell 0x15 1 → h.arg cell 0 ≤ 1 → ∃ t, exec (.bfree cell) s = .next t ∧ t.Resulted cell 0
        ∧ t.hub.barn.get? (h.arg cell 0) = none ∧ t.mem = s.mem)
    ∧ (s.Commanded cell 0x16 1 → ∃ t, exec (.jstat cell) s = .next t ∧ t.mem = s.mem ∧ t.ctxs = s.ctxs
        ∧ t.Resulted cell (match h.seq? c (BitVec.ofNat 32 (h.arg cell 0)) with
          | none => 0
          | some q => seqStNum q.st * 2 ^ 28 + (match q.acked with
            | some k => 2 ^ 27 + k.toNat * 2 ^ 32
            | none => 0)))

/-- The commands of observation. STMT writes a statement under the module's next number, GLEAN enables the logs or takes a
sample under way, LMCONFIG loads a die's logic matrix and LMREAD copies its registers, TRCONFIG gives the context a trace buffer, SHEAFLIST
copies a SAVED context's sheaves, and CNTREAD the 43 counters (22 R366 to R372, Table 22-5; entries of logs 21 and 25). -/
def Obligations.ObservationCommandsComplete : Prop :=
  ∀ (s : State) (cell c : Nat) (a0 a1 a2 a3 a4 : Nat), c = s.hub.cmdCtx cell → a0 = s.hub.arg cell 0 →
    a1 = s.hub.arg cell 1 → a2 = s.hub.arg cell 2 → a3 = s.hub.arg cell 3 → a4 = s.hub.arg cell 4 → s.memOk →
    (s.Commanded cell 0x30 1 → ((s.ctx c).st = .running ∨ (s.ctx c).st = .saved) →
      (s.forwardAll c).statementLen c ≤ a1 → inHbm a0 a1 = true →
      ∃ t, exec (.stmt cell) s = .next t ∧ t.Resulted cell 0 ∧ t.hub.ssSeq = s.hub.ssSeq + 1
        ∧ t.readLe a0 4 = 0x53594E ∧ t.readLe (a0 + 8) 8 = (s.hub.ssSeq + 1) % 2 ^ 64)
    ∧ (s.Commanded cell 0x31 1 → (s.ctx c).st ≠ .free → (s.ctx c).st ≠ .ending → (s.ctx c).glean = none →
      (a2 = 0 → ∃ t, exec (.glean cell) s = .next t ∧ t.Resulted cell 0 ∧ (t.ctx c).gleaning = true ∧ t.mem = s.mem)
      ∧ (1 ≤ a2 → a2 ≤ 255 → 64 ≤ a4 → inHbm a3 a4 = true → ∃ t, exec (.glean cell) s = .next t
        ∧ (t.ctx c).gleaning = true ∧ Tab.get 0 t.hub.busy cell = 2 ∧ t.mem = s.mem
        ∧ (t.ctx c).glean = some ⟨bitsOf a0 27 16, bitsOf a0 15 0, a1, a2, a3, a4, cell, none⟩))
    ∧ (s.Commanded cell 0x32 1 → a1 % 64 = 0 → inHbm a1 512 = true → a0 < 4 →
      (∀ n < 64, lmReserved n (s.readLe (a1 + 8 * n) 8) = false) →
      (∀ b < 14, s.readLe (a1 + 8 * (21 + b)) 8 < s.readLe (a1 + 8 * (22 + b)) 8) →
      ∃ t, exec (.lmconfig cell) s = .next t ∧ t.Resulted cell 0 ∧ t.mem = s.mem
        ∧ (∀ n < 36, (t.die a0).lmReg n = s.readLe (a1 + 8 * n) 8) ∧ (∀ n, 36 ≤ n → (t.die a0).lmReg n = 0))
    ∧ (s.Commanded cell 0x33 1 → a1 % 64 = 0 → inHbm a1 512 = true → a0 < 4 →
      ∃ t, exec (.lmread cell) s = .next t ∧ t.Resulted cell 0
        ∧ ∀ n < 64, t.readLe (a1 + 8 * n) 8 = (s.die a0).lmReg n)
    ∧ (∀ k, s.Commanded cell 0x34 1 → (s.ctx c).st ≠ .free → (s.ctx c).st ≠ .ending → k ≤ 18 → a1 = 4096 * 2 ^ k →
      a3 ≤ 8 → a0 % a1 = 0 → inHbm a0 a1 = true → inHbm a2 (8 * a3) = true →
      ∃ t b, exec (.trconfig cell) s = .next t ∧ t.Resulted cell 0 ∧ (t.ctx c).trace = some b ∧ b.base = a0 ∧ b.size = a1
        ∧ b.head = 0 ∧ b.ents.length = a3)
    ∧ (∀ bs, s.Commanded cell 0x35 1 → (s.ctx c).st = .saved → bs = s.sheafListBytes c → bs.length ≤ a1 →
      inHbm a0 a1 = true → ∃ t, exec (.sheaflist cell) s = .next t ∧ t.Resulted cell 0
        ∧ Memory.read t.mem a0 bs.length = bs)
    ∧ (s.Commanded cell 0x36 1 → (s.ctx c).launched = true → inHbm a0 688 = true →
      ∃ t, exec (.cntread cell) s = .next t ∧ t.Resulted cell 0
        ∧ ∀ j (hj : j < counterNumbers.length), t.readLe (a0 + 16 * j) 2 = counterNumbers[j]
          ∧ t.readLe (a0 + 16 * j + 8) 8 = Tab.get 0 ((s.forwardAll c).ctx c).counters counterNumbers[j] % 2 ^ 64)

/-! Host, hub and health. -/

/-- What the host does. MBDONE is cleared where the host writes ones; RXTAIL takes the value and frees that many entries; a
register write changes no memory, a doorbell starts its cell and eight bytes of a free cell become its argument; a window
read outside the hub's own areas hands the block's bytes over, and a window write stores them, at the window's base plus the
offset, once their owners have applied what came before; a read of MBDONE gives it; an injection into a RUNNING context enters the
fabric as the message of its cell, with the header fields that the host may give and the hub's own in the others, unless it names a
core that the context lacks, more than 256 bytes or a journal slot of the hub; one into a FREE context is counted; a message for the
host is written as an entry at its place of the enabled ring, and the new head behind the last place (01 R7; 16 R286; 18 R305 to
R309, R314). -/
def Obligations.HostAccessesComplete : Prop :=
  (∀ (s : State) (v : Word), ∃ t, exec (.mbdoneWrite v) s = .next t ∧ t.mem = s.mem
    ∧ ∀ k < 4, t.hub.mbdone.testBit k = (s.hub.mbdone.testBit k && !v.getLsbD k))
  ∧ (∀ (s : State) (c : Nat) (v : Word), c < 32 → ∃ t, exec (.rxtailWrite c v) s = .next t ∧ t.mem = s.mem
    ∧ (t.ctx c).rx.tail = v
    ∧ ((s.ctx c).rx.overflow = [] → (t.ctx c).rx.ring = (s.ctx c).rx.ring.drop (v - (s.ctx c).rx.tail).toNat))
  ∧ (∀ (s : State) (off : Nat) (bs : List Byte), off + bs.length ≤ 2 ^ 20 →
    (∃ t, exec (.registerWrite off bs) s = .next t ∧ t.mem = s.mem)
    ∧ (∀ n < 4, off = 0x100 → bs = leBytes 8 n → Tab.get 0 s.hub.busy n = 0 →
      ∃ t, exec (.registerWrite off bs) s = .next t ∧ Tab.get 0 t.hub.busy n = 1)
    ∧ (∀ cell j v, cell < 4 → j < 6 → v < 2 ^ 64 → off = 64 * cell + 8 + 8 * j → bs = leBytes 8 v →
      Tab.get 0 s.hub.busy cell = 0 → ∃ t, exec (.registerWrite off bs) s = .next t ∧ t.hub.arg cell j = v))
  ∧ (∀ (s : State) (off n : Nat), 1 ≤ n → n ≤ 64 → off + n ≤ 2 ^ 36 → s.hostWritePending = false →
    s.hostClear (s.hub.mwbase * 2 ^ 36 + off) n = true →
    (∃ t, exec (.hostWindowRead off n) s = .next t ∧ t.mem = s.mem)
    ∧ ∀ pa, pa = s.hub.mwbase * 2 ^ 36 + off → inHbm pa n = true → pa % 64 + n ≤ 64 → s.poisonAt pa n = none →
      s.hub.jbufHit pa n = false → s.hub.barnHit pa n = false →
      ∃ t, exec (.hostWindowRead off n) s = .next t ∧ t.outbox = s.outbox ++ [.hostRead (some (Memory.read s.mem pa n))])
  ∧ (∀ (s : State) (off : Nat) (bs : List Byte), 1 ≤ bs.length → bs.length ≤ 64 → off + bs.length ≤ 2 ^ 36 →
    s.hostClear (s.hub.mwbase * 2 ^ 36 + off) bs.length = true →
    (∃ t, exec (.hostWindowWrite off bs) s = .next t)
    ∧ ∀ pa, s.memOk → pa = s.hub.mwbase * 2 ^ 36 + off → inHbm pa bs.length = true →
      ∃ t, exec (.hostWindowWrite off bs) s = .next t
        ∧ ∀ a, Memory.readByte t.mem a = if pa ≤ a ∧ a < pa + bs.length then bs.getD (a - pa) 0
            else Memory.readByte s.mem a)
  ∧ (∀ (s : State), ∃ t, s.bar0Read 0x108 8 = .next t ∧ t.mem = s.mem
      ∧ t.outbox = s.outbox ++ [.hostRead (some (leBytes 8 s.hub.mbdone))])
  ∧ (∀ (s : State) (c cell : Nat) (bs : List Byte), c < 32 → cell < 256 → s.hostWritePending = false →
    (s.ctx c).cellHeld cell = false →
    (∀ x h y, x = s.ctx c → x.st = .running → y = padTo 512 bs →
      h = hdrOfWords (word64 (ofLe (sliceBytes y 0 8))) (word64 (ofLe (sliceBytes y 8 8))) (word64 (ofLe (sliceBytes y 16 8)))
        (word64 (ofLe (sliceBytes y 24 8))) (word64 (ofLe (sliceBytes y 32 8))) →
      ∃ t, exec (.hostInject c cell bs) s = .next t ∧ t.mem = s.mem ∧ t.ctxs = s.ctxs
        ∧ ((x.lcs.get? h.dcore.toNat).isSome = true → h.dcore.toNat < x.desc.ncore → h.plen.toNat ≤ 256 →
          (h.jslot.toNat < 4 ∨ h.jslot.toNat = 7) → ∃ f ∈ t.flights, ∃ m, f.body = .msg m .none ∧ m.scale = none
            ∧ m.payload = sliceBytes y 64 h.plen.toNat
            ∧ m.hdr = { hdrZero with
                dchip := BitVec.ofNat 16 x.desc.rank, dcore := h.dcore, gen := BitVec.ofNat 2 x.gen, prio := h.prio, hidx := h.hidx,
                tag := h.tag, schip := BitVec.ofNat 16 x.desc.rank, score := 1023, ctx := BitVec.ofNat 5 c, jslot := h.jslot,
                plen := h.plen, chan := h.chan, rsc := 6 })
        ∧ ((x.desc.ncore ≤ h.dcore.toNat ∨ 256 < h.plen.toNat ∨ (4 ≤ h.jslot.toNat ∧ h.jslot.toNat < 7)) →
          t.flights = s.flights ∧ Tab.get 0 (Tab.get [] (t.die 0).pendCnt c) 0x105
            = Tab.get 0 (Tab.get [] (s.die 0).pendCnt c) 0x105 + 1))
    ∧ ((s.ctx c).st = .free → s.hub.health.hole < 65535 → ∃ t, exec (.hostInject c cell bs) s = .next t
      ∧ t.hub.health.hole = s.hub.health.hole + 1 ∧ t.ctxs = s.ctxs))
  ∧ (∀ (s : State) (id die c : Nat) (f : Flight) (m : Msg) (k : Track) (r : Rx), s.flight? id = some f →
    f.body = .msg m k → f.goal = .hub die → s.firstArrival f = true → c = m.hdr.ctx.toNat → (s.ctx c).st = .running →
    r = (s.ctx c).rx → r.en = true → r.overflow = [] → r.full = false → (∀ n, k ≠ .initial n) →
    ∃ t, exec (.hostBoundMessage id) s = .next t ∧ t.mem = s.mem ∧ (t.ctx c).rx.ring = r.ring ++ [m]
      ∧ (t.ctx c).rx.head = r.head + 1
      ∧ .hostWrite (r.base.toNat + 512 * (r.head.toNat % 2 ^ r.log)) (msgRecord m 0) ∈ t.outbox
      ∧ .hostWrite (r.base.toNat + 512 * 2 ^ r.log) (leBytes 8 (r.head + 1).toNat) ∈ t.outbox)

/-- What the hub does with the journal and with dumps. It answers a JREC as its sequence stands: the next step of a live one, and
step 0, which opens a sequence anew, are appended and answer 0, or 2 with nothing appended when JBUF has no room; the step at a
replaying one's cursor answers 1 with the journalled record, or the divergence fault; any other is the journal fault and changes
nothing. A JCKPT appends a marker, and a JTRUNC answers the records that leave JBUF. It answers a JEMIT whose gate is open, or
shut, so. The answer reaches the core: gD, a replayed record in its place, or the fault that ends the instance; a JEMIT's message
goes with gD 0, or its instance parks, which writes no byte but its continuation's record and its silo's control block (06 R124 to
R127; 10 R220; 20 R334 to R336).

While the barn network is open, a barn slot keeps a record that it has room for and acknowledges it, in a frame of a barn port, when
none is missing before it; an acknowledgement marks the records up to its step; a read of a slot is answered with its entries and
their number. A dump whose dies have all finished leaves its context SAVED and dumped, as a stop whose context has settled leaves it
SAVED (20 R331, R333, R338; 21 R348; 22 R371). That a slot is bound by its first entry is the model's choice (log 37), as are a
read's answer entry by entry (log 52) and the loop check that a result lets run (log 44). -/
def Obligations.HubStepsComplete : Prop :=
  (∀ (s : State) (id pa c : Nat) (bs : List Byte) (dg : BitVec 32) (d : GReg) (f : Flight) (q n : BitVec 32) (e : BarnEntry) (w : Nat)
    (x : Option JSeq), s.flight? id = some f → f.body = .hubReq (.jrec pa bs dg d) → s.firstArrival f = true → c = f.who.ctx →
    q = BitVec.ofNat 32 (ofLe (bs.take 4)) → n = BitVec.ofNat 32 (ofLe ((bs.drop 4).take 4)) →
    e = ⟨1, c, s.hub.chipId, q, n, bs⟩ → w = ofLe (bs.take 4) * 2 ^ 32 + ofLe ((bs.drop 4).take 4) → x = s.hub.seq? c q →
    (∀ y l, x = some y → y.st = .live → y.last = some l → l.toNat + 1 = n.toNat →
      (s.hub.jbufTakes (entrySize e) = true → ∃ t, exec (.jrecHubApply id) s = .next t ∧ t.HubSays s f (.done 0 none)
        ∧ t.hub.jbuf = s.hub.jbuf ++ [(e, false)] ∧ t.hub.seq? c q = some { y with last := some n })
      ∧ (s.hub.jbufTakes (entrySize e) = false → ∃ t, exec (.jrecHubApply id) s = .next t ∧ t.HubSays s f (.done 2 none)
        ∧ t.hub = s.hub))
    ∧ (n = 0 → (∀ y, x = some y → y.st = .live ∨ y.st = .closed) →
      (s.hub.jbufTakes (entrySize e) = true → (x = none → s.hub.seqs.length < 65536) →
        ∃ t, exec (.jrecHubApply id) s = .next t ∧ t.HubSays s f (.done 0 none)
          ∧ t.hub.jbuf = (if x = none then s.hub.jbuf else withoutSeq s.hub.jbuf c q) ++ [(e, false)]
          ∧ t.hub.seq? c q = some ⟨c, q, .live, some 0, none, none, 0, []⟩)
      ∧ ((s.hub.jbufTakes (entrySize e) = false ∨ (x = none ∧ 65536 ≤ s.hub.seqs.length)) →
        ∃ t, exec (.jrecHubApply id) s = .next t ∧ t.HubSays s f (.done 2 none) ∧ t.hub = s.hub))
    ∧ (∀ y r, x = some y → y.st = .replaying → n = y.cursor → y.replay.find? (fun r => r.1 = n) = some (n, r) →
      (ofLe ((r.drop 24).take 4) = dg.toNat → ∃ t, exec (.jrecHubApply id) s = .next t
        ∧ t.HubSays s f (.done 1 (some (pa, padTo 304 r))) ∧ t.hub.jbuf = s.hub.jbuf
        ∧ t.hub.seq? c q = some { y with
            cursor := n + 1, last := some n,
            st := if y.replay.all (fun r => decide (r.1.toNat ≤ n.toNat)) = true then .live else .replaying })
      ∧ (ofLe ((r.drop 24).take 4) ≠ dg.toNat → ∃ t, exec (.jrecHubApply id) s = .next t
        ∧ t.HubSays s f (.fault fDiverge w (some (pa, padTo 304 r))) ∧ t.hub.seq? c q = some { y with st := .diverged }))
    ∧ ((x = none ∧ n ≠ 0) ∨ (∃ y, x = some y ∧ ((y.st = .closed ∧ n ≠ 0) ∨ y.st = .diverged
          ∨ (y.st = .live ∧ n ≠ 0 ∧ y.last.map (fun l => l.toNat + 1) ≠ some n.toNat) ∨ (y.st = .replaying ∧ n ≠ y.cursor))) →
      ∃ t, exec (.jrecHubApply id) s = .next t ∧ t.HubSays s f (.fault fJournal w none) ∧ t.hub = s.hub))
  ∧ (∀ (s : State) (id c : Nat) (f : Flight) (q n : BitVec 32), s.flight? id = some f → s.firstArrival f = true → c = f.who.ctx →
    (∀ w loc, f.body = .hubReq (.jckpt w loc) → q = seqOf w → n = stepOf w →
      (∀ y l, s.hub.seq? c q = some y → y.last = some l → n.toNat ≤ l.toNat → ∃ t, exec (.jrecHubApply id) s = .next t
        ∧ t.HubSays s f (.done 0 none)
        ∧ t.hub.jbuf = s.hub.jbuf ++ [(⟨2, c, s.hub.chipId, q, n, leBytes 8 loc.toNat⟩, false)])
      ∧ ((s.hub.seq? c q = none ∨ ∃ y, s.hub.seq? c q = some y ∧ ∀ l, y.last = some l → l.toNat < n.toNat) →
        ∃ t, exec (.jrecHubApply id) s = .next t ∧ t.HubSays s f (.fault fJournal w.toNat none) ∧ t.hub = s.hub))
    ∧ (f.body = .hubReq (.jtrunc q) →
      (∀ y m, s.hub.seq? c q = some y → y.marker = some m → ∃ t, exec (.jrecHubApply id) s = .next t
        ∧ t.HubSays s f (.done (word64 (s.hub.jbuf.filter (fun e =>
            e.1.etype = 1 && e.1.ctx = c && e.1.seq = q && decide (e.1.step.toNat ≤ m.toNat))).length) none)
        ∧ t.hub.jbuf = s.hub.jbuf.filter (fun e => !(e.1.ctx = c && e.1.seq = q
            && ((e.1.etype = 1 && decide (e.1.step.toNat ≤ m.toNat)) || (e.1.etype = 2 && decide (e.1.step.toNat < m.toNat))))))
      ∧ ((∀ y, s.hub.seq? c q = some y → y.marker = none) →
        ∃ t, exec (.jrecHubApply id) s = .next t ∧ t.HubSays s f (.done 0 none) ∧ t.hub = s.hub))
    ∧ (f.body = .hubReq (.jclose q) →
      (∀ y, s.hub.seq? c q = some y → ∃ t, exec (.jrecHubApply id) s = .next t
        ∧ t.HubSays s f (.done (word64 (s.hub.recordsOf c q)) none) ∧ t.hub.jbuf = withoutSeq s.hub.jbuf c q
        ∧ t.hub.seq? c q = none)
      ∧ (s.hub.seq? c q = none → ∃ t, exec (.jrecHubApply id) s = .next t ∧ t.HubSays s f (.done 0 none) ∧ t.hub = s.hub))
    ∧ (∀ st route token d, f.body = .hubReq (.jemit st route token d) → q = seqOf st → n = stepOf st →
      ∃ t, exec (.emissionGate id) s = .next t ∧ t.hub = s.hub
        ∧ t.HubSays s f (if s.hub.recorded c q n = false then .fault fJournal st.toNat none
            else if s.hub.gateOpen c q n = true then .emit st route token d else .shut st route token d false)))
  ∧ (∀ (s : State) (id : Nat) (f : Flight) (a : HubAns), s.flight? id = some f → f.body = .hubRep a → s.canReturn f = true →
    s.hubClear a = true →
    (∀ v wr p sl i e, a = .done v wr →
      (wr = none → s.findPend f.opId = some (p, sl, i, e) → ∃ (t : State) (j : Inst), exec (.loadReturn id) s = .next t
        ∧ t.inst? p sl = some j.settleEdge ∧ (i.edge = false → j.settleEdge = j) ∧ j.edge = i.edge ∧ t.mem = s.mem
        ∧ ∀ d, e.dst = .g d → e.live = true → j.readG d = if d = 0 then 0 else v)
      ∧ (∀ pa bs, s.memOk → wr = some (pa, bs) → ∃ t, exec (.loadReturn id) s = .next t
        ∧ ∀ b, Memory.readByte t.mem b = if pa ≤ b ∧ b < pa + bs.length then bs.getD (b - pa) 0
            else Memory.readByte s.mem b))
    ∧ (∀ code det p sl i, a = .fault code det none → (code = fJournal ∨ code = fDiverge) → f.who.ctx < 32 →
      (s.ctx f.who.ctx).st ≠ .free → s.findInst f.who.iid = some (p, sl, i) →
      ((s.ctx f.who.ctx).lcs.get? ((s.ctx f.who.ctx).desc.fcore % 1024)).isSome = true →
      ∃ t m, exec (.loadReturn id) s = .next t ∧ t.inst? p sl = none ∧ t.mem = s.mem
        ∧ t.carries f.who.ctx m ∧ recordWord m 0 / 2 ^ 48 = code)
    ∧ (∀ p sl i, s.findInst f.who.iid = some (p, sl, i) →
      (∀ st route token d, a = .emit st route token d → ∃ (t : State) (j : Inst), exec (.loadReturn id) s = .next t
        ∧ t.mem = s.mem ∧ t.inst? p sl = some j.settleEdge ∧ (i.edge = false → j.settleEdge = j) ∧ j.edge = i.edge
        ∧ j.waitOn = none ∧ j.readG d = 0 ∧ j.pc = i.pc
        ∧ (i.ctx < 32 → s.reaches i.ctx (bitsOf route.toNat 63 48) (bitsOf route.toNat 47 38) →
          ∃ g ∈ t.flights, ∃ m k, g.body = .msg m k ∧ m.payload = leBytes 8 st.toNat ++ leBytes 8 token.toNat ∧ m.hdr.kind = 0 ∧ m.hdr.plen = 16 ∧ m.hdr.chan = 0
            ∧ m.hdr.dchip.toNat = bitsOf route.toNat 63 48 ∧ m.hdr.dcore.toNat = bitsOf route.toNat 47 38
            ∧ m.hdr.hidx.toNat = bitsOf route.toNat 31 20 ∧ m.hdr.tag.toNat = route.toNat % 65536))
      ∧ (∀ st route token d opened, a = .shut st route token d opened → ∃ t, exec (.loadReturn id) s = .next t
        ∧ t.inst? p sl = none
        ∧ ∀ r, r = (s.lc i.ctx i.lcore).nextCont →
          ((t.lc i.ctx i.lcore).conts.get? r).map (fun k => (k.wait, k.value))
              = some (.gate (seqOf st) (stepOf st), if opened = true then some 1 else none)
          ∧ (s.memOk → s.keepsBut t i.ctx i.lcore (s.contAt i.ctx i.lcore r) 4096))
      ∧ (∀ v d, a = .lost v d → ∃ (t : State) (j : Inst), exec (.loadReturn id) s = .next t ∧ t.mem = s.mem
        ∧ t.inst? p sl = some j.settleEdge ∧ (i.edge = false → j.settleEdge = j) ∧ j.edge = i.edge ∧ j.waitOn = none
        ∧ j.readG d = if d = 0 then 0 else v)))
  ∧ (∀ (s : State) (slot size : Nat) (b : BarnSlot) (e : BarnEntry) (cfg : Nat × Nat × Nat × Nat), s.hub.jcfg = some cfg →
    size = cfg.2.2.2 → b = Tab.get ⟨none, [], []⟩ s.hub.barn slot → slot ≤ 1 → (b.client = none ∨ b.client = some e.src) → s.barnOpen = true →
    (∃ t, exec (.barnEntryReceive slot e) s = .next t ∧ t.mem = s.mem)
    ∧ (e.etype = 1 → b.waiting = [] → (b.entries.map entrySize).sum + entrySize e ≤ size → e ∉ b.entries →
      ∃ t, exec (.barnEntryReceive slot e) s = .next t
        ∧ Tab.get ⟨none, [], []⟩ t.hub.barn slot = ⟨some e.src, b.entries ++ [e], []⟩
        ∧ ∀ n pr, (heldSteps ((b.entries ++ [e]).filter (fun x => sameSeq x e.ctx e.seq))).2 = n + 1 → s.hub.barnQ = [] →
            s.barnPort e.seq.toNat = some pr → (s.port pr).maySend 1 false = true →
            ∃ z, t.outbox = s.outbox ++ [.trailer pr z,
              .barn pr e.src (.barnAck s.hub.chipId e.ctx e.seq (BitVec.ofNat 32 n) false)]))
  ∧ (∀ (s : State) (c : Nat) (q n l : BitVec 32) (x : JSeq), s.barnOpen = true → s.hub.barnTarget ≠ none →
    s.hub.seq? c q = some x → x.last = some l → n.toNat ≤ l.toNat → ∀ marker, ∃ t,
      exec (.barnAck c q n marker) s = .next t ∧ t.mem = s.mem ∧ t.hub.jbuf.map Prod.fst = s.hub.jbuf.map Prod.fst
      ∧ (marker = false → ∀ e ∈ t.hub.jbuf, e.1.ctx = c → e.1.seq = q → e.1.etype = 1 → e.1.step.toNat ≤ n.toNat →
          e.2 = true)
      ∧ ∃ y, t.hub.seq? c q = some y ∧ (marker = false → ∃ k, y.acked = some k ∧ n.toNat ≤ k.toNat)
        ∧ (marker = true → ∃ k, y.marker = some k ∧ n.toNat ≤ k.toNat))
  ∧ (∀ (s : State) (client : Nat), s.barnOpen = true →
    ∃ t, exec (.barnReadRequest client) s = .next t ∧ t.mem = s.mem ∧ t.hub.barn = s.hub.barn
      ∧ ∀ b u, b = s.hub.barn.find? (fun e => e.2.client = some client) →
        ((∃ k, b = some k ∧ ((∃ e ∈ k.2.entries, u = .barnData client e) ∨ u = .barnEnd client (some k.2.entries.length)))
          ∨ (b = none ∧ u = .barnEnd client none)) →
        (∃ pr, Out.barn pr 65536 u ∈ t.outbox) ∨ ⟨65536, u⟩ ∈ t.hub.barnQ)
  ∧ (∀ (s : State) (c : Nat), (s.ctx c).st = .saving → s.settledCtx c = true →
    (∀ m, (s.ctx c).halt = .dump m → (s.ctx c).dies.all (fun d => (s.ctx c).dumpDies.contains d) = true →
      ∃ t, exec (.dumpComplete c) s = .next t ∧ (t.ctx c).st = .saved ∧ (t.ctx c).dumped = true
      ∧ (t.ctx c).saved.isSome = true ∧ ∀ e ∈ t.hub.dumpQ, e.1 ≠ c)
    ∧ ((s.ctx c).halt = .stop → ∃ t, exec (.dumpComplete c) s = .next t ∧ (t.ctx c).st = .saved
      ∧ (t.ctx c).saved.isSome = true))

/-- Errors, failures and counters. A corrected finding of a scrub counts in its structure's counter; one in a block poisons it;
one in a register, a weight-buffer entry, a spring's working state or a context's own structures counts and is marked until it is
met; a bad spring copy is rebuilt from a good one and counted; none raises a fault; a failed quad is marked and stops the contexts on it; a failed memory port is a cause of REPLACE; a die's
increments reach the hub; throttling changes timing alone; a cycle of the logic matrix raises the count of each term that is
true (21 R352 to R357, R362; 22 R363, R366, R367). What the patrol marks, and the throttle and the matrix beside the table's own
signals, are the model's choice (logs 38 and 39).

A reset of any kind keeps HBM4, the health record, the barn, the statement number and the final statements, and nothing else
that software has made: no context, no message under way, no port key, no memory outside HBM4; every port is down. The
module's bring-up follows it. A loss of power or a thermal trip leaves the module without power until it comes back (00 R2; 21
R359 to R362). What a reset keeps of the model's own state, and that a loss of power keeps what a reset keeps, is the model's
choice (log 12). -/
def Obligations.HealthAndResetsComplete : Prop :=
  ((∀ (s : State) (found : List Finding), (∀ f ∈ found, Finding.place? f = true) →
      (∃ t, exec (.patrolScrub found) s = .next t)
      ∧ (∀ die st, found = [.corrected die st] → ∃ t, exec (.patrolScrub found) s = .next t ∧ t.mem = s.mem
        ∧ Tab.get 0 t.hub.health.counts (2 * (11 * die + structNum st - 1))
          = min (Tab.get 0 s.hub.health.counts (2 * (11 * die + structNum st - 1)) + 1) (2 ^ 32 - 1))
      ∧ (∀ die st pa, found = [.block die st pa] → ∃ t, exec (.patrolScrub found) s = .next t ∧ t.mem = s.mem
        ∧ pa / 64 ∈ t.poison)
      ∧ (∀ f q die st, found = [f] → (s.noteErr 1 q).hub.recentErrs s.clock 1 q < 4 →
        ((∃ p sl r, f = .register p sl r ∧ q = quadOf p ∧ die = dieOf p ∧ st = 1)
          ∨ (∃ e, f = .entry q e ∧ die = dieOfQuad q ∧ st = 4) ∨ (f = .springWork q ∧ die = dieOfQuad q ∧ st = 8)) →
        ∃ t, exec (.patrolScrub found) s = .next t ∧ t.mem = s.mem ∧ t.ctxs = s.ctxs
          ∧ Tab.get 0 t.hub.health.counts (2 * (11 * die + st - 1) + 1)
            = min (Tab.get 0 s.hub.health.counts (2 * (11 * die + st - 1) + 1) + 1) (2 ^ 32 - 1)
          ∧ (∀ p sl r i, f = .register p sl r → s.inst? p sl = some i → t.inst? p sl = some (i.markBad r))
          ∧ (∀ e w, f = .entry q e → (s.quad q).wbe.get? e = some w → (t.quad q).wbe.get? e = some { w with poisoned := true })
          ∧ (f = .springWork q → (t.quad q).springBad = true))
      ∧ (∀ f c key q, found = [f] → (s.ctx c).st ≠ .free → (s.noteErr 1 q).hub.recentErrs s.clock 1 q < 4 →
        ((f = .queue q c ∧ key = (5, q)) ∨ ∃ die, f = .silo die c ∧ (s.ctx c).areaOn die = true ∧ key = (11, die)) →
        ∃ t, exec (.patrolScrub found) s = .next t ∧ t.mem = s.mem ∧ key ∈ (t.ctx c).marks
          ∧ (t.ctx c).st = (s.ctx c).st)
      ∧ (∀ q c ps a x, found = [.springCopy q c ps a] → x = (s.ctx c).pslot q ps → x.loaded = true → x.goodA = true →
        x.goodB = true → ∃ t, exec (.patrolScrub found) s = .next t ∧ t.mem = s.mem ∧ (t.ctx c).pslot q ps = x
          ∧ Tab.get 0 t.hub.health.counts (2 * (11 * dieOfQuad q + 7))
            = min (Tab.get 0 s.hub.health.counts (2 * (11 * dieOfQuad q + 7)) + 1) (2 ^ 32 - 1)))
    ∧ (∀ (s : State) (q : Nat), q < 256 → (s.quad q).failed = false → ∃ t, exec (.quadFail q) s = .next t ∧ t.mem = s.mem
      ∧ (t.quad q).failed = true
      ∧ ∀ c < 32, (s.ctx c).st = .running → (s.ctx c).inQuad q = true → (s.ctx c).halt = .none → (t.ctx c).st = .saving)
    ∧ (∀ (s : State) (die port : Nat), die < 4 → port < 16 → ∃ t, exec (.memoryPortFail die port) s = .next t
      ∧ t.hub.health.replace = true ∧ t.hub.health.rwhy.testBit 2 = true ∧ t.mem = s.mem)
    ∧ (∀ (s : State) (die : Nat), die < 4 →
      (∃ t, exec (.counterForward die) s = .next t ∧ t.mem = s.mem
        ∧ ∀ c < 32, (t.die die).pendCnt.get? c = none)
      ∧ (∀ on, exec (.thermalThrottle die on) s = .next (s.setDie die { s.die die with throttle := on }))
      ∧ (∀ sample on, on = s.rawSignals die ++ sample.filter (fun e => e.1 == 6 && decide (e.2 < 16)) →
        ∃ t, exec (.logicMatrixCycle die sample) s = .next t ∧ t.mem = s.mem
        ∧ ∀ k < 4, bitsOf ((s.die die).lmReg (16 + k)) 15 14 ≠ 3 → (s.die die).lmReg (36 + k) < 2 ^ 64 - 1 →
            (t.die die).lmReg (36 + k)
              = (s.die die).lmReg (36 + k) + if (s.die die).term on false k then 1 else 0)))
  ∧
  (∀ (s : State) (x : Instr) (p : Power),
      ((x = .powerOn ∧ s.power = .off ∧ p = .booting) ∨ (x = .hotReset ∧ s.power ≠ .off ∧ p = .booting)
        ∨ (x = .functionLevelReset ∧ s.power ≠ .off ∧ p = .booting) ∨ (x = .powerLoss ∧ s.power ≠ .off ∧ p = .off)
        ∨ (x = .thermalTrip ∧ s.power ≠ .off ∧ p = .off)) →
      ∃ t, exec x s = .next t ∧ t.power = p ∧ t.flights = [] ∧ t.cores = [] ∧ t.dies = []
        ∧ (∀ c, t.ctx c = { Ctx.reset with finalStmt := (s.ctx c).finalStmt })
        ∧ (∀ k, t.port k = { Port.reset with downAt := (t.port k).downAt })
        ∧ t.hub.barn = s.hub.barn ∧ t.hub.ssSeq = s.hub.ssSeq ∧ t.hub.jcfg = none ∧ t.hub.seqs = [] ∧ t.hub.geom = none
        ∧ (x ≠ .thermalTrip → t.hub.health = s.hub.health)
        ∧ (x = .thermalTrip → t.hub.health.replace = true ∧ t.hub.health.rwhy.testBit 5 = true)
        ∧ (s.memOk → t.memOk ∧ ∀ a, Memory.readByte t.mem a = if a < 2 ^ 40 then Memory.readByte s.mem a else 0))
end

