-- ==== Sys2Proof/Laws/Memory.lean ====
section
/-! SUPPORT. Memory: reading after writing, and the canonical form that every operation keeps (log 4). -/

namespace Sys2Proof.Machine.Memory

open Sys2Proof

/-- A lower bound of a well-formed list may be lowered. -/
theorem wfFrom_mono {lo : Option Nat} {b : Nat} {m : List Host.Cell} (h : wfFrom (some b) m = true)
    (hb : ∀ l, lo = some l → l ≤ b) : wfFrom lo m = true := by
  cases m with
  | nil => rfl
  | cons e t =>
    obtain ⟨k, v⟩ := e
    simp only [wfFrom, Bool.and_eq_true, decide_eq_true_eq] at h ⊢
    refine ⟨⟨?_, h.1.2⟩, h.2⟩
    cases lo with
    | none => rfl
    | some l =>
      have := hb l rfl
      have := h.1.1
      simp only [decide_eq_true_eq]
      omega

/-- Below the bound, nothing is listed. -/
theorem readByte_below {b : Nat} {m : List Host.Cell} {a : Nat} (h : wfFrom (some b) m = true) (ha : a ≤ b) :
    readByte m a = blank := by
  cases m with
  | nil => rfl
  | cons e t =>
    obtain ⟨k, v⟩ := e
    simp only [wfFrom, Bool.and_eq_true, decide_eq_true_eq] at h
    have h1 := h.1.1
    simp only [readByte]
    rw [if_neg (by omega), if_pos (by omega)]

/-- Writing one byte keeps the form. -/
theorem wfFrom_writeByte {m : List Host.Cell} {a : Nat} (b : Byte) : ∀ {lo : Option Nat},
    wfFrom lo m = true → (∀ l, lo = some l → l < a) → wfFrom lo (writeByte m a b) = true := by
  induction m with
  | nil =>
    intro lo _ ha
    simp only [writeByte]
    split
    · rfl
    · rename_i hb
      simp only [wfFrom, Bool.and_true, Bool.and_eq_true, bne_iff_ne, ne_eq]
      refine ⟨?_, hb⟩
      cases lo with
      | none => rfl
      | some l => simpa using ha l rfl
  | cons e t ih =>
    obtain ⟨k, v⟩ := e
    intro lo h ha
    simp only [wfFrom, Bool.and_eq_true] at h
    obtain ⟨⟨h1, h2⟩, h3⟩ := h
    simp only [writeByte]
    split
    · rename_i hlt
      split
      · simp only [wfFrom, Bool.and_eq_true]
        exact ⟨⟨h1, h2⟩, h3⟩
      · rename_i hb
        simp only [wfFrom, Bool.and_eq_true, bne_iff_ne, ne_eq, decide_eq_true_eq]
        refine ⟨⟨?_, hb⟩, ⟨hlt, by simpa using h2⟩, h3⟩
        cases lo with
        | none => rfl
        | some l => simpa using ha l rfl
    · split
      · rename_i hk
        subst hk
        split
        · refine wfFrom_mono h3 ?_
          intro l hl
          have := ha l hl
          omega
        · rename_i hb
          simp only [wfFrom, Bool.and_eq_true, bne_iff_ne, ne_eq]
          exact ⟨⟨h1, hb⟩, h3⟩
      · rename_i hlt hk
        simp only [wfFrom, Bool.and_eq_true]
        refine ⟨⟨h1, h2⟩, ih h3 ?_⟩
        intro l hl
        cases hl
        omega

theorem wf_writeByte {m : List Host.Cell} (a : Nat) (b : Byte) (h : wf m = true) : wf (writeByte m a b) = true :=
  wfFrom_writeByte b h (by intro l hl; cases hl)

theorem wf_write {m : List Host.Cell} (a : Nat) (bs : List Byte) (h : wf m = true) : wf (write m a bs) = true := by
  induction bs generalizing m a with
  | nil => exact h
  | cons b t ih => exact ih (a + 1) (wf_writeByte a b h)

theorem wfFrom_filter {m : List Host.Cell} (p : Host.Cell → Bool) : ∀ {lo : Option Nat},
    wfFrom lo m = true → wfFrom lo (m.filter p) = true := by
  induction m with
  | nil => intro lo _; rfl
  | cons e t ih =>
    obtain ⟨k, v⟩ := e
    intro lo h
    simp only [wfFrom, Bool.and_eq_true] at h
    obtain ⟨⟨h1, h2⟩, h3⟩ := h
    simp only [List.filter_cons]
    split
    · simp only [wfFrom, Bool.and_eq_true]
      exact ⟨⟨h1, h2⟩, ih h3⟩
    · refine wfFrom_mono (ih h3) ?_
      intro l hl
      subst hl
      simp only [decide_eq_true_eq] at h1
      omega

theorem wf_filter {m : List Host.Cell} (p : Host.Cell → Bool) (h : wf m = true) : wf (m.filter p) = true :=
  wfFrom_filter p h

theorem wf_clear {m : List Host.Cell} (a n : Nat) (h : wf m = true) : wf (clear m a n) = true := wfFrom_filter _ h

theorem wf_install {m : List Host.Cell} (a : Nat) (cs : List Host.Cell) (h : wf m = true) :
    wf (install m a cs) = true := by
  induction cs generalizing m with
  | nil => exact h
  | cons c t ih => exact ih (wf_writeByte _ _ h)

theorem readByte_cons (k : Nat) (v : Byte) (t : List Host.Cell) (x : Nat) :
    readByte ((k, v) :: t) x = if k = x then v else if x < k then blank else readByte t x := rfl

/-- A byte reads as it was last written. -/
theorem readByte_writeByte {m : List Host.Cell} (a : Nat) (b : Byte) (x : Nat) : ∀ {lo : Option Nat},
    wfFrom lo m = true → readByte (writeByte m a b) x = if x = a then b else readByte m x := by
  induction m with
  | nil =>
    intro lo _
    by_cases hb : b = blank <;> by_cases hx : x = a
    · simp [writeByte, hb, readByte]
    · simp [writeByte, hb, readByte]
    · subst hx
      simp [writeByte, hb, readByte]
    · have hx' : ¬ a = x := fun e => hx e.symm
      simp [writeByte, hb, readByte, hx, hx']
  | cons e t ih =>
    obtain ⟨k, v⟩ := e
    intro lo h
    simp only [wfFrom, Bool.and_eq_true] at h
    obtain ⟨⟨_, _⟩, h3⟩ := h
    have hlow := readByte_below (a := x) h3
    have ih' := ih h3
    simp only [writeByte]
    by_cases h1 : a < k
    · rw [if_pos h1]
      by_cases hb : b = blank
      · rw [if_pos hb]
        by_cases hx : x = a
        · subst hx
          rw [if_pos rfl, readByte_cons, if_neg (by omega), if_pos h1, hb]
        · rw [if_neg hx]
      · rw [if_neg hb, readByte_cons]
        by_cases hx : x = a
        · rw [if_pos hx.symm, if_pos hx]
        · rw [if_neg (fun q => hx q.symm), if_neg hx]
          by_cases h2 : x < a
          · rw [if_pos h2, readByte_cons, if_neg (by omega), if_pos (by omega)]
          · rw [if_neg h2]
    · rw [if_neg h1]
      by_cases h2 : a = k
      · subst h2
        rw [if_pos rfl]
        by_cases hb : b = blank
        · rw [if_pos hb]
          by_cases hx : x = a
          · rw [if_pos hx, hlow (by omega), hb]
          · rw [if_neg hx, readByte_cons, if_neg (fun q => hx q.symm)]
            by_cases h4 : x < a
            · rw [if_pos h4, hlow (by omega)]
            · rw [if_neg h4]
        · rw [if_neg hb, readByte_cons]
          by_cases hx : x = a
          · rw [if_pos hx.symm, if_pos hx]
          · have hx' : ¬ a = x := fun q => hx q.symm
            simp only [readByte_cons, if_neg hx, if_neg hx']
      · rw [if_neg h2, readByte_cons, readByte_cons, ih']
        by_cases hx : x = a
        · rw [if_pos hx, if_neg (by omega), if_neg (by omega), if_pos hx]
        · rw [if_neg hx, if_neg hx]

/-- A byte outside the bytes written reads as before. -/
theorem readByte_write_out {m : List Host.Cell} (bs : List Byte) : ∀ (a : Nat) {a' : Nat}, wf m = true →
    (a' < a ∨ a + bs.length ≤ a') → readByte (write m a bs) a' = readByte m a' := by
  induction bs generalizing m with
  | nil => intros; rfl
  | cons b t ih =>
    intro a a' h ho
    simp only [List.length_cons] at ho
    have h' := wf_writeByte a b h
    rw [show write m a (b :: t) = write (writeByte m a b) (a + 1) t from rfl, ih (a + 1) h' (by omega),
      readByte_writeByte a b a' h, if_neg (by omega)]

/-- Bytes just written read back. -/
theorem read_write {m : List Host.Cell} (bs : List Byte) : ∀ (a : Nat), wf m = true →
    read (write m a bs) a bs.length = bs := by
  induction bs generalizing m with
  | nil => intros; rfl
  | cons b t ih =>
    intro a h
    have h' := wf_writeByte a b h
    simp only [List.length_cons, read]
    rw [show write m a (b :: t) = write (writeByte m a b) (a + 1) t from rfl, ih (a + 1) h',
      readByte_write_out t (a + 1) h' (by omega), readByte_writeByte a b a h, if_pos rfl]

/-- A range reads byte by byte. -/
theorem read_congr {m m' : List Host.Cell} (n : Nat) : ∀ (a : Nat),
    (∀ k, a ≤ k → k < a + n → readByte m k = readByte m' k) → read m a n = read m' a n := by
  induction n with
  | zero => intros; rfl
  | succ n ih =>
    intro a h
    simp only [read]
    rw [h a (Nat.le_refl _) (by omega), ih (a + 1) (fun k h1 h2 => h k (by omega) (by omega))]

/-- A range apart from the bytes written reads as before. -/
theorem read_write_out {m : List Host.Cell} (bs : List Byte) (a b n : Nat) (h : wf m = true)
    (ho : b + n ≤ a ∨ a + bs.length ≤ b) : read (write m a bs) b n = read m b n :=
  read_congr n b (fun _ _ _ => readByte_write_out bs a h (by omega))

/-- A byte outside a range that is cleared reads as before; within it, as blank. -/
theorem readByte_clear {m : List Host.Cell} (a n x : Nat) : ∀ {lo : Option Nat}, wfFrom lo m = true →
    readByte (clear m a n) x = if a ≤ x ∧ x < a + n then blank else readByte m x := by
  induction m with
  | nil => intro lo _; simp [clear, readByte]
  | cons e t ih =>
    obtain ⟨k, v⟩ := e
    intro lo h
    simp only [wfFrom, Bool.and_eq_true] at h
    obtain ⟨⟨_, _⟩, h3⟩ := h
    have ih' := ih h3
    have hlow := readByte_below (a := x) h3
    simp only [clear, List.filter_cons] at ih' ⊢
    split
    · rename_i hk
      simp only [Bool.not_eq_true', Bool.and_eq_false_iff, decide_eq_false_iff_not] at hk
      simp only [readByte]
      rw [ih']
      by_cases h1 : k = x
      · subst h1
        rw [if_pos rfl, if_neg (by omega), if_pos rfl]
      · rw [if_neg h1, if_neg h1]
        by_cases h2 : x < k
        · rw [if_pos h2, if_pos h2]
          split <;> rfl
        · rw [if_neg h2, if_neg h2]
    · rename_i hk
      simp only [Bool.not_eq_true, Bool.not_eq_false', Bool.and_eq_true, decide_eq_true_eq] at hk
      rw [ih']
      simp only [readByte]
      by_cases h1 : k = x
      · subst h1
        rw [if_pos hk, if_pos hk]
      · rw [if_neg h1]
        by_cases h2 : x < k
        · rw [if_pos h2, hlow (by omega)]
        · rw [if_neg h2]

end Sys2Proof.Machine.Memory
end

