-- ==== Sys2Proof/Laws/State.lean ====
section
/-! SUPPORT. Each update of the state leaves every other field as it was. -/

namespace Sys2Proof.Machine

open Sys2Proof

@[simp] theorem State.setCore_agenda (s : State) (p : Nat) (c : Core) : (s.setCore p c).agenda = s.agenda := rfl
@[simp] theorem State.setCore_curP (s : State) (p : Nat) (c : Core) : (s.setCore p c).curP = s.curP := rfl
@[simp] theorem State.setCore_curS (s : State) (p : Nat) (c : Core) : (s.setCore p c).curS = s.curS := rfl
@[simp] theorem State.setCore_clock (s : State) (p : Nat) (c : Core) : (s.setCore p c).clock = s.clock := rfl
@[simp] theorem State.setCore_freeCtr (s : State) (p : Nat) (c : Core) : (s.setCore p c).freeCtr = s.freeCtr := rfl
@[simp] theorem State.setCore_nextId (s : State) (p : Nat) (c : Core) : (s.setCore p c).nextId = s.nextId := rfl
@[simp] theorem State.setCore_mem (s : State) (p : Nat) (c : Core) : (s.setCore p c).mem = s.mem := rfl
@[simp] theorem State.setCore_poison (s : State) (p : Nat) (c : Core) : (s.setCore p c).poison = s.poison := rfl
@[simp] theorem State.setCore_flights (s : State) (p : Nat) (c : Core) : (s.setCore p c).flights = s.flights := rfl
@[simp] theorem State.setCore_fetches (s : State) (p : Nat) (c : Core) : (s.setCore p c).fetches = s.fetches := rfl
@[simp] theorem State.setCore_ctxs (s : State) (p : Nat) (c : Core) : (s.setCore p c).ctxs = s.ctxs := rfl
@[simp] theorem State.setCore_quads (s : State) (p : Nat) (c : Core) : (s.setCore p c).quads = s.quads := rfl
@[simp] theorem State.setCore_dies (s : State) (p : Nat) (c : Core) : (s.setCore p c).dies = s.dies := rfl
@[simp] theorem State.setCore_links (s : State) (p : Nat) (c : Core) : (s.setCore p c).links = s.links := rfl
@[simp] theorem State.setCore_lanes (s : State) (p : Nat) (c : Core) : (s.setCore p c).lanes = s.lanes := rfl
@[simp] theorem State.setCore_signals (s : State) (p : Nat) (c : Core) : (s.setCore p c).signals = s.signals := rfl
@[simp] theorem State.setCore_ports (s : State) (p : Nat) (c : Core) : (s.setCore p c).ports = s.ports := rfl
@[simp] theorem State.setCore_hub (s : State) (p : Nat) (c : Core) : (s.setCore p c).hub = s.hub := rfl
@[simp] theorem State.setCore_outbox (s : State) (p : Nat) (c : Core) : (s.setCore p c).outbox = s.outbox := rfl
@[simp] theorem State.setCore_power (s : State) (p : Nat) (c : Core) : (s.setCore p c).power = s.power := rfl

@[simp] theorem State.setQuad_agenda (s : State) (q : Nat) (x : Quad) : (s.setQuad q x).agenda = s.agenda := rfl
@[simp] theorem State.setQuad_curP (s : State) (q : Nat) (x : Quad) : (s.setQuad q x).curP = s.curP := rfl
@[simp] theorem State.setQuad_curS (s : State) (q : Nat) (x : Quad) : (s.setQuad q x).curS = s.curS := rfl
@[simp] theorem State.setQuad_clock (s : State) (q : Nat) (x : Quad) : (s.setQuad q x).clock = s.clock := rfl
@[simp] theorem State.setQuad_freeCtr (s : State) (q : Nat) (x : Quad) : (s.setQuad q x).freeCtr = s.freeCtr := rfl
@[simp] theorem State.setQuad_nextId (s : State) (q : Nat) (x : Quad) : (s.setQuad q x).nextId = s.nextId := rfl
@[simp] theorem State.setQuad_mem (s : State) (q : Nat) (x : Quad) : (s.setQuad q x).mem = s.mem := rfl
@[simp] theorem State.setQuad_poison (s : State) (q : Nat) (x : Quad) : (s.setQuad q x).poison = s.poison := rfl
@[simp] theorem State.setQuad_flights (s : State) (q : Nat) (x : Quad) : (s.setQuad q x).flights = s.flights := rfl
@[simp] theorem State.setQuad_fetches (s : State) (q : Nat) (x : Quad) : (s.setQuad q x).fetches = s.fetches := rfl
@[simp] theorem State.setQuad_ctxs (s : State) (q : Nat) (x : Quad) : (s.setQuad q x).ctxs = s.ctxs := rfl
@[simp] theorem State.setQuad_cores (s : State) (q : Nat) (x : Quad) : (s.setQuad q x).cores = s.cores := rfl
@[simp] theorem State.setQuad_dies (s : State) (q : Nat) (x : Quad) : (s.setQuad q x).dies = s.dies := rfl
@[simp] theorem State.setQuad_links (s : State) (q : Nat) (x : Quad) : (s.setQuad q x).links = s.links := rfl
@[simp] theorem State.setQuad_lanes (s : State) (q : Nat) (x : Quad) : (s.setQuad q x).lanes = s.lanes := rfl
@[simp] theorem State.setQuad_signals (s : State) (q : Nat) (x : Quad) : (s.setQuad q x).signals = s.signals := rfl
@[simp] theorem State.setQuad_ports (s : State) (q : Nat) (x : Quad) : (s.setQuad q x).ports = s.ports := rfl
@[simp] theorem State.setQuad_hub (s : State) (q : Nat) (x : Quad) : (s.setQuad q x).hub = s.hub := rfl
@[simp] theorem State.setQuad_outbox (s : State) (q : Nat) (x : Quad) : (s.setQuad q x).outbox = s.outbox := rfl
@[simp] theorem State.setQuad_power (s : State) (q : Nat) (x : Quad) : (s.setQuad q x).power = s.power := rfl

@[simp] theorem State.setDie_agenda (s : State) (d : Nat) (x : Die) : (s.setDie d x).agenda = s.agenda := rfl
@[simp] theorem State.setDie_curP (s : State) (d : Nat) (x : Die) : (s.setDie d x).curP = s.curP := rfl
@[simp] theorem State.setDie_curS (s : State) (d : Nat) (x : Die) : (s.setDie d x).curS = s.curS := rfl
@[simp] theorem State.setDie_clock (s : State) (d : Nat) (x : Die) : (s.setDie d x).clock = s.clock := rfl
@[simp] theorem State.setDie_freeCtr (s : State) (d : Nat) (x : Die) : (s.setDie d x).freeCtr = s.freeCtr := rfl
@[simp] theorem State.setDie_nextId (s : State) (d : Nat) (x : Die) : (s.setDie d x).nextId = s.nextId := rfl
@[simp] theorem State.setDie_mem (s : State) (d : Nat) (x : Die) : (s.setDie d x).mem = s.mem := rfl
@[simp] theorem State.setDie_poison (s : State) (d : Nat) (x : Die) : (s.setDie d x).poison = s.poison := rfl
@[simp] theorem State.setDie_flights (s : State) (d : Nat) (x : Die) : (s.setDie d x).flights = s.flights := rfl
@[simp] theorem State.setDie_fetches (s : State) (d : Nat) (x : Die) : (s.setDie d x).fetches = s.fetches := rfl
@[simp] theorem State.setDie_ctxs (s : State) (d : Nat) (x : Die) : (s.setDie d x).ctxs = s.ctxs := rfl
@[simp] theorem State.setDie_cores (s : State) (d : Nat) (x : Die) : (s.setDie d x).cores = s.cores := rfl
@[simp] theorem State.setDie_quads (s : State) (d : Nat) (x : Die) : (s.setDie d x).quads = s.quads := rfl
@[simp] theorem State.setDie_links (s : State) (d : Nat) (x : Die) : (s.setDie d x).links = s.links := rfl
@[simp] theorem State.setDie_lanes (s : State) (d : Nat) (x : Die) : (s.setDie d x).lanes = s.lanes := rfl
@[simp] theorem State.setDie_signals (s : State) (d : Nat) (x : Die) : (s.setDie d x).signals = s.signals := rfl
@[simp] theorem State.setDie_ports (s : State) (d : Nat) (x : Die) : (s.setDie d x).ports = s.ports := rfl
@[simp] theorem State.setDie_hub (s : State) (d : Nat) (x : Die) : (s.setDie d x).hub = s.hub := rfl
@[simp] theorem State.setDie_outbox (s : State) (d : Nat) (x : Die) : (s.setDie d x).outbox = s.outbox := rfl
@[simp] theorem State.setDie_power (s : State) (d : Nat) (x : Die) : (s.setDie d x).power = s.power := rfl

@[simp] theorem State.setCtx_agenda (s : State) (c : Nat) (x : Ctx) : (s.setCtx c x).agenda = s.agenda := rfl
@[simp] theorem State.setCtx_curP (s : State) (c : Nat) (x : Ctx) : (s.setCtx c x).curP = s.curP := rfl
@[simp] theorem State.setCtx_curS (s : State) (c : Nat) (x : Ctx) : (s.setCtx c x).curS = s.curS := rfl
@[simp] theorem State.setCtx_clock (s : State) (c : Nat) (x : Ctx) : (s.setCtx c x).clock = s.clock := rfl
@[simp] theorem State.setCtx_freeCtr (s : State) (c : Nat) (x : Ctx) : (s.setCtx c x).freeCtr = s.freeCtr := rfl
@[simp] theorem State.setCtx_nextId (s : State) (c : Nat) (x : Ctx) : (s.setCtx c x).nextId = s.nextId := rfl
@[simp] theorem State.setCtx_mem (s : State) (c : Nat) (x : Ctx) : (s.setCtx c x).mem = s.mem := rfl
@[simp] theorem State.setCtx_poison (s : State) (c : Nat) (x : Ctx) : (s.setCtx c x).poison = s.poison := rfl
@[simp] theorem State.setCtx_flights (s : State) (c : Nat) (x : Ctx) : (s.setCtx c x).flights = s.flights := rfl
@[simp] theorem State.setCtx_fetches (s : State) (c : Nat) (x : Ctx) : (s.setCtx c x).fetches = s.fetches := rfl
@[simp] theorem State.setCtx_cores (s : State) (c : Nat) (x : Ctx) : (s.setCtx c x).cores = s.cores := rfl
@[simp] theorem State.setCtx_quads (s : State) (c : Nat) (x : Ctx) : (s.setCtx c x).quads = s.quads := rfl
@[simp] theorem State.setCtx_dies (s : State) (c : Nat) (x : Ctx) : (s.setCtx c x).dies = s.dies := rfl
@[simp] theorem State.setCtx_links (s : State) (c : Nat) (x : Ctx) : (s.setCtx c x).links = s.links := rfl
@[simp] theorem State.setCtx_lanes (s : State) (c : Nat) (x : Ctx) : (s.setCtx c x).lanes = s.lanes := rfl
@[simp] theorem State.setCtx_signals (s : State) (c : Nat) (x : Ctx) : (s.setCtx c x).signals = s.signals := rfl
@[simp] theorem State.setCtx_ports (s : State) (c : Nat) (x : Ctx) : (s.setCtx c x).ports = s.ports := rfl
@[simp] theorem State.setCtx_hub (s : State) (c : Nat) (x : Ctx) : (s.setCtx c x).hub = s.hub := rfl
@[simp] theorem State.setCtx_outbox (s : State) (c : Nat) (x : Ctx) : (s.setCtx c x).outbox = s.outbox := rfl
@[simp] theorem State.setCtx_power (s : State) (c : Nat) (x : Ctx) : (s.setCtx c x).power = s.power := rfl

@[simp] theorem State.setPort_agenda (s : State) (p : Nat) (x : Port) : (s.setPort p x).agenda = s.agenda := rfl
@[simp] theorem State.setPort_curP (s : State) (p : Nat) (x : Port) : (s.setPort p x).curP = s.curP := rfl
@[simp] theorem State.setPort_curS (s : State) (p : Nat) (x : Port) : (s.setPort p x).curS = s.curS := rfl
@[simp] theorem State.setPort_clock (s : State) (p : Nat) (x : Port) : (s.setPort p x).clock = s.clock := rfl
@[simp] theorem State.setPort_freeCtr (s : State) (p : Nat) (x : Port) : (s.setPort p x).freeCtr = s.freeCtr := rfl
@[simp] theorem State.setPort_nextId (s : State) (p : Nat) (x : Port) : (s.setPort p x).nextId = s.nextId := rfl
@[simp] theorem State.setPort_mem (s : State) (p : Nat) (x : Port) : (s.setPort p x).mem = s.mem := rfl
@[simp] theorem State.setPort_poison (s : State) (p : Nat) (x : Port) : (s.setPort p x).poison = s.poison := rfl
@[simp] theorem State.setPort_flights (s : State) (p : Nat) (x : Port) : (s.setPort p x).flights = s.flights := rfl
@[simp] theorem State.setPort_fetches (s : State) (p : Nat) (x : Port) : (s.setPort p x).fetches = s.fetches := rfl
@[simp] theorem State.setPort_ctxs (s : State) (p : Nat) (x : Port) : (s.setPort p x).ctxs = s.ctxs := rfl
@[simp] theorem State.setPort_cores (s : State) (p : Nat) (x : Port) : (s.setPort p x).cores = s.cores := rfl
@[simp] theorem State.setPort_quads (s : State) (p : Nat) (x : Port) : (s.setPort p x).quads = s.quads := rfl
@[simp] theorem State.setPort_dies (s : State) (p : Nat) (x : Port) : (s.setPort p x).dies = s.dies := rfl
@[simp] theorem State.setPort_links (s : State) (p : Nat) (x : Port) : (s.setPort p x).links = s.links := rfl
@[simp] theorem State.setPort_lanes (s : State) (p : Nat) (x : Port) : (s.setPort p x).lanes = s.lanes := rfl
@[simp] theorem State.setPort_signals (s : State) (p : Nat) (x : Port) : (s.setPort p x).signals = s.signals := rfl
@[simp] theorem State.setPort_hub (s : State) (p : Nat) (x : Port) : (s.setPort p x).hub = s.hub := rfl
@[simp] theorem State.setPort_outbox (s : State) (p : Nat) (x : Port) : (s.setPort p x).outbox = s.outbox := rfl
@[simp] theorem State.setPort_power (s : State) (p : Nat) (x : Port) : (s.setPort p x).power = s.power := rfl

@[simp] theorem State.setLink_agenda (s : State) (l : Nat) (x : Link) : (s.setLink l x).agenda = s.agenda := rfl
@[simp] theorem State.setLink_curP (s : State) (l : Nat) (x : Link) : (s.setLink l x).curP = s.curP := rfl
@[simp] theorem State.setLink_curS (s : State) (l : Nat) (x : Link) : (s.setLink l x).curS = s.curS := rfl
@[simp] theorem State.setLink_clock (s : State) (l : Nat) (x : Link) : (s.setLink l x).clock = s.clock := rfl
@[simp] theorem State.setLink_freeCtr (s : State) (l : Nat) (x : Link) : (s.setLink l x).freeCtr = s.freeCtr := rfl
@[simp] theorem State.setLink_nextId (s : State) (l : Nat) (x : Link) : (s.setLink l x).nextId = s.nextId := rfl
@[simp] theorem State.setLink_mem (s : State) (l : Nat) (x : Link) : (s.setLink l x).mem = s.mem := rfl
@[simp] theorem State.setLink_poison (s : State) (l : Nat) (x : Link) : (s.setLink l x).poison = s.poison := rfl
@[simp] theorem State.setLink_flights (s : State) (l : Nat) (x : Link) : (s.setLink l x).flights = s.flights := rfl
@[simp] theorem State.setLink_fetches (s : State) (l : Nat) (x : Link) : (s.setLink l x).fetches = s.fetches := rfl
@[simp] theorem State.setLink_ctxs (s : State) (l : Nat) (x : Link) : (s.setLink l x).ctxs = s.ctxs := rfl
@[simp] theorem State.setLink_cores (s : State) (l : Nat) (x : Link) : (s.setLink l x).cores = s.cores := rfl
@[simp] theorem State.setLink_quads (s : State) (l : Nat) (x : Link) : (s.setLink l x).quads = s.quads := rfl
@[simp] theorem State.setLink_dies (s : State) (l : Nat) (x : Link) : (s.setLink l x).dies = s.dies := rfl
@[simp] theorem State.setLink_ports (s : State) (l : Nat) (x : Link) : (s.setLink l x).ports = s.ports := rfl
@[simp] theorem State.setLink_lanes (s : State) (l : Nat) (x : Link) : (s.setLink l x).lanes = s.lanes := rfl
@[simp] theorem State.setLink_signals (s : State) (l : Nat) (x : Link) : (s.setLink l x).signals = s.signals := rfl
@[simp] theorem State.setLink_hub (s : State) (l : Nat) (x : Link) : (s.setLink l x).hub = s.hub := rfl
@[simp] theorem State.setLink_outbox (s : State) (l : Nat) (x : Link) : (s.setLink l x).outbox = s.outbox := rfl
@[simp] theorem State.setLink_power (s : State) (l : Nat) (x : Link) : (s.setLink l x).power = s.power := rfl

@[simp] theorem State.setHub_agenda (s : State) (h : Hub) : (s.setHub h).agenda = s.agenda := rfl
@[simp] theorem State.setHub_curP (s : State) (h : Hub) : (s.setHub h).curP = s.curP := rfl
@[simp] theorem State.setHub_curS (s : State) (h : Hub) : (s.setHub h).curS = s.curS := rfl
@[simp] theorem State.setHub_clock (s : State) (h : Hub) : (s.setHub h).clock = s.clock := rfl
@[simp] theorem State.setHub_freeCtr (s : State) (h : Hub) : (s.setHub h).freeCtr = s.freeCtr := rfl
@[simp] theorem State.setHub_nextId (s : State) (h : Hub) : (s.setHub h).nextId = s.nextId := rfl
@[simp] theorem State.setHub_mem (s : State) (h : Hub) : (s.setHub h).mem = s.mem := rfl
@[simp] theorem State.setHub_poison (s : State) (h : Hub) : (s.setHub h).poison = s.poison := rfl
@[simp] theorem State.setHub_flights (s : State) (h : Hub) : (s.setHub h).flights = s.flights := rfl
@[simp] theorem State.setHub_fetches (s : State) (h : Hub) : (s.setHub h).fetches = s.fetches := rfl
@[simp] theorem State.setHub_ctxs (s : State) (h : Hub) : (s.setHub h).ctxs = s.ctxs := rfl
@[simp] theorem State.setHub_cores (s : State) (h : Hub) : (s.setHub h).cores = s.cores := rfl
@[simp] theorem State.setHub_quads (s : State) (h : Hub) : (s.setHub h).quads = s.quads := rfl
@[simp] theorem State.setHub_dies (s : State) (h : Hub) : (s.setHub h).dies = s.dies := rfl
@[simp] theorem State.setHub_links (s : State) (h : Hub) : (s.setHub h).links = s.links := rfl
@[simp] theorem State.setHub_lanes (s : State) (h : Hub) : (s.setHub h).lanes = s.lanes := rfl
@[simp] theorem State.setHub_signals (s : State) (h : Hub) : (s.setHub h).signals = s.signals := rfl
@[simp] theorem State.setHub_ports (s : State) (h : Hub) : (s.setHub h).ports = s.ports := rfl
@[simp] theorem State.setHub_outbox (s : State) (h : Hub) : (s.setHub h).outbox = s.outbox := rfl
@[simp] theorem State.setHub_power (s : State) (h : Hub) : (s.setHub h).power = s.power := rfl

@[simp] theorem State.emit_agenda (s : State) (o : Out) : (s.emit o).agenda = s.agenda := rfl
@[simp] theorem State.emit_curP (s : State) (o : Out) : (s.emit o).curP = s.curP := rfl
@[simp] theorem State.emit_curS (s : State) (o : Out) : (s.emit o).curS = s.curS := rfl
@[simp] theorem State.emit_clock (s : State) (o : Out) : (s.emit o).clock = s.clock := rfl
@[simp] theorem State.emit_freeCtr (s : State) (o : Out) : (s.emit o).freeCtr = s.freeCtr := rfl
@[simp] theorem State.emit_nextId (s : State) (o : Out) : (s.emit o).nextId = s.nextId := rfl
@[simp] theorem State.emit_mem (s : State) (o : Out) : (s.emit o).mem = s.mem := rfl
@[simp] theorem State.emit_poison (s : State) (o : Out) : (s.emit o).poison = s.poison := rfl
@[simp] theorem State.emit_flights (s : State) (o : Out) : (s.emit o).flights = s.flights := rfl
@[simp] theorem State.emit_fetches (s : State) (o : Out) : (s.emit o).fetches = s.fetches := rfl
@[simp] theorem State.emit_ctxs (s : State) (o : Out) : (s.emit o).ctxs = s.ctxs := rfl
@[simp] theorem State.emit_cores (s : State) (o : Out) : (s.emit o).cores = s.cores := rfl
@[simp] theorem State.emit_quads (s : State) (o : Out) : (s.emit o).quads = s.quads := rfl
@[simp] theorem State.emit_dies (s : State) (o : Out) : (s.emit o).dies = s.dies := rfl
@[simp] theorem State.emit_links (s : State) (o : Out) : (s.emit o).links = s.links := rfl
@[simp] theorem State.emit_lanes (s : State) (o : Out) : (s.emit o).lanes = s.lanes := rfl
@[simp] theorem State.emit_signals (s : State) (o : Out) : (s.emit o).signals = s.signals := rfl
@[simp] theorem State.emit_ports (s : State) (o : Out) : (s.emit o).ports = s.ports := rfl
@[simp] theorem State.emit_hub (s : State) (o : Out) : (s.emit o).hub = s.hub := rfl
@[simp] theorem State.emit_power (s : State) (o : Out) : (s.emit o).power = s.power := rfl

@[simp] theorem State.setLc_agenda (s : State) (c l : Nat) (x : CtxCore) : (s.setLc c l x).agenda = s.agenda := rfl
@[simp] theorem State.setLc_curP (s : State) (c l : Nat) (x : CtxCore) : (s.setLc c l x).curP = s.curP := rfl
@[simp] theorem State.setLc_curS (s : State) (c l : Nat) (x : CtxCore) : (s.setLc c l x).curS = s.curS := rfl
@[simp] theorem State.setLc_clock (s : State) (c l : Nat) (x : CtxCore) : (s.setLc c l x).clock = s.clock := rfl
@[simp] theorem State.setLc_freeCtr (s : State) (c l : Nat) (x : CtxCore) : (s.setLc c l x).freeCtr = s.freeCtr := rfl
@[simp] theorem State.setLc_nextId (s : State) (c l : Nat) (x : CtxCore) : (s.setLc c l x).nextId = s.nextId := rfl
@[simp] theorem State.setLc_mem (s : State) (c l : Nat) (x : CtxCore) : (s.setLc c l x).mem = s.mem := rfl
@[simp] theorem State.setLc_poison (s : State) (c l : Nat) (x : CtxCore) : (s.setLc c l x).poison = s.poison := rfl
@[simp] theorem State.setLc_flights (s : State) (c l : Nat) (x : CtxCore) : (s.setLc c l x).flights = s.flights := rfl
@[simp] theorem State.setLc_fetches (s : State) (c l : Nat) (x : CtxCore) : (s.setLc c l x).fetches = s.fetches := rfl
@[simp] theorem State.setLc_cores (s : State) (c l : Nat) (x : CtxCore) : (s.setLc c l x).cores = s.cores := rfl
@[simp] theorem State.setLc_quads (s : State) (c l : Nat) (x : CtxCore) : (s.setLc c l x).quads = s.quads := rfl
@[simp] theorem State.setLc_dies (s : State) (c l : Nat) (x : CtxCore) : (s.setLc c l x).dies = s.dies := rfl
@[simp] theorem State.setLc_links (s : State) (c l : Nat) (x : CtxCore) : (s.setLc c l x).links = s.links := rfl
@[simp] theorem State.setLc_lanes (s : State) (c l : Nat) (x : CtxCore) : (s.setLc c l x).lanes = s.lanes := rfl
@[simp] theorem State.setLc_signals (s : State) (c l : Nat) (x : CtxCore) : (s.setLc c l x).signals = s.signals := rfl
@[simp] theorem State.setLc_ports (s : State) (c l : Nat) (x : CtxCore) : (s.setLc c l x).ports = s.ports := rfl
@[simp] theorem State.setLc_hub (s : State) (c l : Nat) (x : CtxCore) : (s.setLc c l x).hub = s.hub := rfl
@[simp] theorem State.setLc_outbox (s : State) (c l : Nat) (x : CtxCore) : (s.setLc c l x).outbox = s.outbox := rfl
@[simp] theorem State.setLc_power (s : State) (c l : Nat) (x : CtxCore) : (s.setLc c l x).power = s.power := rfl

@[simp] theorem State.setInst_agenda (s : State) (p sl : Nat) (i : Option Inst) : (s.setInst p sl i).agenda = s.agenda := rfl
@[simp] theorem State.setInst_curP (s : State) (p sl : Nat) (i : Option Inst) : (s.setInst p sl i).curP = s.curP := rfl
@[simp] theorem State.setInst_curS (s : State) (p sl : Nat) (i : Option Inst) : (s.setInst p sl i).curS = s.curS := rfl
@[simp] theorem State.setInst_clock (s : State) (p sl : Nat) (i : Option Inst) : (s.setInst p sl i).clock = s.clock := rfl
@[simp] theorem State.setInst_freeCtr (s : State) (p sl : Nat) (i : Option Inst) : (s.setInst p sl i).freeCtr = s.freeCtr := rfl
@[simp] theorem State.setInst_nextId (s : State) (p sl : Nat) (i : Option Inst) : (s.setInst p sl i).nextId = s.nextId := rfl
@[simp] theorem State.setInst_mem (s : State) (p sl : Nat) (i : Option Inst) : (s.setInst p sl i).mem = s.mem := rfl
@[simp] theorem State.setInst_poison (s : State) (p sl : Nat) (i : Option Inst) : (s.setInst p sl i).poison = s.poison := rfl
@[simp] theorem State.setInst_flights (s : State) (p sl : Nat) (i : Option Inst) : (s.setInst p sl i).flights = s.flights := rfl
@[simp] theorem State.setInst_fetches (s : State) (p sl : Nat) (i : Option Inst) : (s.setInst p sl i).fetches = s.fetches := rfl
@[simp] theorem State.setInst_ctxs (s : State) (p sl : Nat) (i : Option Inst) : (s.setInst p sl i).ctxs = s.ctxs := rfl
@[simp] theorem State.setInst_quads (s : State) (p sl : Nat) (i : Option Inst) : (s.setInst p sl i).quads = s.quads := rfl
@[simp] theorem State.setInst_dies (s : State) (p sl : Nat) (i : Option Inst) : (s.setInst p sl i).dies = s.dies := rfl
@[simp] theorem State.setInst_links (s : State) (p sl : Nat) (i : Option Inst) : (s.setInst p sl i).links = s.links := rfl
@[simp] theorem State.setInst_lanes (s : State) (p sl : Nat) (i : Option Inst) : (s.setInst p sl i).lanes = s.lanes := rfl
@[simp] theorem State.setInst_signals (s : State) (p sl : Nat) (i : Option Inst) : (s.setInst p sl i).signals = s.signals := rfl
@[simp] theorem State.setInst_ports (s : State) (p sl : Nat) (i : Option Inst) : (s.setInst p sl i).ports = s.ports := rfl
@[simp] theorem State.setInst_hub (s : State) (p sl : Nat) (i : Option Inst) : (s.setInst p sl i).hub = s.hub := rfl
@[simp] theorem State.setInst_outbox (s : State) (p sl : Nat) (i : Option Inst) : (s.setInst p sl i).outbox = s.outbox := rfl
@[simp] theorem State.setInst_power (s : State) (p sl : Nat) (i : Option Inst) : (s.setInst p sl i).power = s.power := rfl

@[simp] theorem State.setCur_agenda (s : State) (i : Inst) : (s.setCur i).agenda = s.agenda := rfl
@[simp] theorem State.setCur_curP (s : State) (i : Inst) : (s.setCur i).curP = s.curP := rfl
@[simp] theorem State.setCur_curS (s : State) (i : Inst) : (s.setCur i).curS = s.curS := rfl
@[simp] theorem State.setCur_clock (s : State) (i : Inst) : (s.setCur i).clock = s.clock := rfl
@[simp] theorem State.setCur_freeCtr (s : State) (i : Inst) : (s.setCur i).freeCtr = s.freeCtr := rfl
@[simp] theorem State.setCur_nextId (s : State) (i : Inst) : (s.setCur i).nextId = s.nextId := rfl
@[simp] theorem State.setCur_mem (s : State) (i : Inst) : (s.setCur i).mem = s.mem := rfl
@[simp] theorem State.setCur_poison (s : State) (i : Inst) : (s.setCur i).poison = s.poison := rfl
@[simp] theorem State.setCur_flights (s : State) (i : Inst) : (s.setCur i).flights = s.flights := rfl
@[simp] theorem State.setCur_fetches (s : State) (i : Inst) : (s.setCur i).fetches = s.fetches := rfl
@[simp] theorem State.setCur_ctxs (s : State) (i : Inst) : (s.setCur i).ctxs = s.ctxs := rfl
@[simp] theorem State.setCur_quads (s : State) (i : Inst) : (s.setCur i).quads = s.quads := rfl
@[simp] theorem State.setCur_dies (s : State) (i : Inst) : (s.setCur i).dies = s.dies := rfl
@[simp] theorem State.setCur_links (s : State) (i : Inst) : (s.setCur i).links = s.links := rfl
@[simp] theorem State.setCur_lanes (s : State) (i : Inst) : (s.setCur i).lanes = s.lanes := rfl
@[simp] theorem State.setCur_signals (s : State) (i : Inst) : (s.setCur i).signals = s.signals := rfl
@[simp] theorem State.setCur_ports (s : State) (i : Inst) : (s.setCur i).ports = s.ports := rfl
@[simp] theorem State.setCur_hub (s : State) (i : Inst) : (s.setCur i).hub = s.hub := rfl
@[simp] theorem State.setCur_outbox (s : State) (i : Inst) : (s.setCur i).outbox = s.outbox := rfl
@[simp] theorem State.setCur_power (s : State) (i : Inst) : (s.setCur i).power = s.power := rfl

@[simp] theorem State.dropFlight_agenda (s : State) (k : Nat) : (s.dropFlight k).agenda = s.agenda := rfl
@[simp] theorem State.dropFlight_curP (s : State) (k : Nat) : (s.dropFlight k).curP = s.curP := rfl
@[simp] theorem State.dropFlight_curS (s : State) (k : Nat) : (s.dropFlight k).curS = s.curS := rfl
@[simp] theorem State.dropFlight_clock (s : State) (k : Nat) : (s.dropFlight k).clock = s.clock := rfl
@[simp] theorem State.dropFlight_freeCtr (s : State) (k : Nat) : (s.dropFlight k).freeCtr = s.freeCtr := rfl
@[simp] theorem State.dropFlight_nextId (s : State) (k : Nat) : (s.dropFlight k).nextId = s.nextId := rfl
@[simp] theorem State.dropFlight_mem (s : State) (k : Nat) : (s.dropFlight k).mem = s.mem := rfl
@[simp] theorem State.dropFlight_poison (s : State) (k : Nat) : (s.dropFlight k).poison = s.poison := rfl
@[simp] theorem State.dropFlight_fetches (s : State) (k : Nat) : (s.dropFlight k).fetches = s.fetches := rfl
@[simp] theorem State.dropFlight_ctxs (s : State) (k : Nat) : (s.dropFlight k).ctxs = s.ctxs := rfl
@[simp] theorem State.dropFlight_cores (s : State) (k : Nat) : (s.dropFlight k).cores = s.cores := rfl
@[simp] theorem State.dropFlight_quads (s : State) (k : Nat) : (s.dropFlight k).quads = s.quads := rfl
@[simp] theorem State.dropFlight_dies (s : State) (k : Nat) : (s.dropFlight k).dies = s.dies := rfl
@[simp] theorem State.dropFlight_links (s : State) (k : Nat) : (s.dropFlight k).links = s.links := rfl
@[simp] theorem State.dropFlight_lanes (s : State) (k : Nat) : (s.dropFlight k).lanes = s.lanes := rfl
@[simp] theorem State.dropFlight_signals (s : State) (k : Nat) : (s.dropFlight k).signals = s.signals := rfl
@[simp] theorem State.dropFlight_ports (s : State) (k : Nat) : (s.dropFlight k).ports = s.ports := rfl
@[simp] theorem State.dropFlight_hub (s : State) (k : Nat) : (s.dropFlight k).hub = s.hub := rfl
@[simp] theorem State.dropFlight_outbox (s : State) (k : Nat) : (s.dropFlight k).outbox = s.outbox := rfl
@[simp] theorem State.dropFlight_power (s : State) (k : Nat) : (s.dropFlight k).power = s.power := rfl

@[simp] theorem State.setFlight_agenda (s : State) (f : Flight) : (s.setFlight f).agenda = s.agenda := rfl
@[simp] theorem State.setFlight_curP (s : State) (f : Flight) : (s.setFlight f).curP = s.curP := rfl
@[simp] theorem State.setFlight_curS (s : State) (f : Flight) : (s.setFlight f).curS = s.curS := rfl
@[simp] theorem State.setFlight_clock (s : State) (f : Flight) : (s.setFlight f).clock = s.clock := rfl
@[simp] theorem State.setFlight_freeCtr (s : State) (f : Flight) : (s.setFlight f).freeCtr = s.freeCtr := rfl
@[simp] theorem State.setFlight_nextId (s : State) (f : Flight) : (s.setFlight f).nextId = s.nextId := rfl
@[simp] theorem State.setFlight_mem (s : State) (f : Flight) : (s.setFlight f).mem = s.mem := rfl
@[simp] theorem State.setFlight_poison (s : State) (f : Flight) : (s.setFlight f).poison = s.poison := rfl
@[simp] theorem State.setFlight_fetches (s : State) (f : Flight) : (s.setFlight f).fetches = s.fetches := rfl
@[simp] theorem State.setFlight_ctxs (s : State) (f : Flight) : (s.setFlight f).ctxs = s.ctxs := rfl
@[simp] theorem State.setFlight_cores (s : State) (f : Flight) : (s.setFlight f).cores = s.cores := rfl
@[simp] theorem State.setFlight_quads (s : State) (f : Flight) : (s.setFlight f).quads = s.quads := rfl
@[simp] theorem State.setFlight_dies (s : State) (f : Flight) : (s.setFlight f).dies = s.dies := rfl
@[simp] theorem State.setFlight_links (s : State) (f : Flight) : (s.setFlight f).links = s.links := rfl
@[simp] theorem State.setFlight_lanes (s : State) (f : Flight) : (s.setFlight f).lanes = s.lanes := rfl
@[simp] theorem State.setFlight_signals (s : State) (f : Flight) : (s.setFlight f).signals = s.signals := rfl
@[simp] theorem State.setFlight_ports (s : State) (f : Flight) : (s.setFlight f).ports = s.ports := rfl
@[simp] theorem State.setFlight_hub (s : State) (f : Flight) : (s.setFlight f).hub = s.hub := rfl
@[simp] theorem State.setFlight_outbox (s : State) (f : Flight) : (s.setFlight f).outbox = s.outbox := rfl
@[simp] theorem State.setFlight_power (s : State) (f : Flight) : (s.setFlight f).power = s.power := rfl

@[simp] theorem State.addOp_agenda (s : State) (p : Nat) (o : Op) : (s.addOp p o).agenda = s.agenda := rfl
@[simp] theorem State.addOp_curP (s : State) (p : Nat) (o : Op) : (s.addOp p o).curP = s.curP := rfl
@[simp] theorem State.addOp_curS (s : State) (p : Nat) (o : Op) : (s.addOp p o).curS = s.curS := rfl
@[simp] theorem State.addOp_clock (s : State) (p : Nat) (o : Op) : (s.addOp p o).clock = s.clock := rfl
@[simp] theorem State.addOp_freeCtr (s : State) (p : Nat) (o : Op) : (s.addOp p o).freeCtr = s.freeCtr := rfl
@[simp] theorem State.addOp_nextId (s : State) (p : Nat) (o : Op) : (s.addOp p o).nextId = s.nextId := rfl
@[simp] theorem State.addOp_mem (s : State) (p : Nat) (o : Op) : (s.addOp p o).mem = s.mem := rfl
@[simp] theorem State.addOp_poison (s : State) (p : Nat) (o : Op) : (s.addOp p o).poison = s.poison := rfl
@[simp] theorem State.addOp_flights (s : State) (p : Nat) (o : Op) : (s.addOp p o).flights = s.flights := rfl
@[simp] theorem State.addOp_fetches (s : State) (p : Nat) (o : Op) : (s.addOp p o).fetches = s.fetches := rfl
@[simp] theorem State.addOp_ctxs (s : State) (p : Nat) (o : Op) : (s.addOp p o).ctxs = s.ctxs := rfl
@[simp] theorem State.addOp_quads (s : State) (p : Nat) (o : Op) : (s.addOp p o).quads = s.quads := rfl
@[simp] theorem State.addOp_dies (s : State) (p : Nat) (o : Op) : (s.addOp p o).dies = s.dies := rfl
@[simp] theorem State.addOp_links (s : State) (p : Nat) (o : Op) : (s.addOp p o).links = s.links := rfl
@[simp] theorem State.addOp_lanes (s : State) (p : Nat) (o : Op) : (s.addOp p o).lanes = s.lanes := rfl
@[simp] theorem State.addOp_signals (s : State) (p : Nat) (o : Op) : (s.addOp p o).signals = s.signals := rfl
@[simp] theorem State.addOp_ports (s : State) (p : Nat) (o : Op) : (s.addOp p o).ports = s.ports := rfl
@[simp] theorem State.addOp_hub (s : State) (p : Nat) (o : Op) : (s.addOp p o).hub = s.hub := rfl
@[simp] theorem State.addOp_outbox (s : State) (p : Nat) (o : Op) : (s.addOp p o).outbox = s.outbox := rfl
@[simp] theorem State.addOp_power (s : State) (p : Nat) (o : Op) : (s.addOp p o).power = s.power := rfl

@[simp] theorem State.completeOp_agenda (s : State) (k : Nat) : (s.completeOp k).agenda = s.agenda := rfl
@[simp] theorem State.completeOp_curP (s : State) (k : Nat) : (s.completeOp k).curP = s.curP := rfl
@[simp] theorem State.completeOp_curS (s : State) (k : Nat) : (s.completeOp k).curS = s.curS := rfl
@[simp] theorem State.completeOp_clock (s : State) (k : Nat) : (s.completeOp k).clock = s.clock := rfl
@[simp] theorem State.completeOp_freeCtr (s : State) (k : Nat) : (s.completeOp k).freeCtr = s.freeCtr := rfl
@[simp] theorem State.completeOp_nextId (s : State) (k : Nat) : (s.completeOp k).nextId = s.nextId := rfl
@[simp] theorem State.completeOp_mem (s : State) (k : Nat) : (s.completeOp k).mem = s.mem := rfl
@[simp] theorem State.completeOp_poison (s : State) (k : Nat) : (s.completeOp k).poison = s.poison := rfl
@[simp] theorem State.completeOp_flights (s : State) (k : Nat) : (s.completeOp k).flights = s.flights := rfl
@[simp] theorem State.completeOp_fetches (s : State) (k : Nat) : (s.completeOp k).fetches = s.fetches := rfl
@[simp] theorem State.completeOp_ctxs (s : State) (k : Nat) : (s.completeOp k).ctxs = s.ctxs := rfl
@[simp] theorem State.completeOp_quads (s : State) (k : Nat) : (s.completeOp k).quads = s.quads := rfl
@[simp] theorem State.completeOp_dies (s : State) (k : Nat) : (s.completeOp k).dies = s.dies := rfl
@[simp] theorem State.completeOp_links (s : State) (k : Nat) : (s.completeOp k).links = s.links := rfl
@[simp] theorem State.completeOp_lanes (s : State) (k : Nat) : (s.completeOp k).lanes = s.lanes := rfl
@[simp] theorem State.completeOp_signals (s : State) (k : Nat) : (s.completeOp k).signals = s.signals := rfl
@[simp] theorem State.completeOp_ports (s : State) (k : Nat) : (s.completeOp k).ports = s.ports := rfl
@[simp] theorem State.completeOp_hub (s : State) (k : Nat) : (s.completeOp k).hub = s.hub := rfl
@[simp] theorem State.completeOp_outbox (s : State) (k : Nat) : (s.completeOp k).outbox = s.outbox := rfl
@[simp] theorem State.completeOp_power (s : State) (k : Nat) : (s.completeOp k).power = s.power := rfl

@[simp] theorem State.mapOp_agenda (s : State) (k : Nat) (f : Op → Op) : (s.mapOp k f).agenda = s.agenda := rfl
@[simp] theorem State.mapOp_curP (s : State) (k : Nat) (f : Op → Op) : (s.mapOp k f).curP = s.curP := rfl
@[simp] theorem State.mapOp_curS (s : State) (k : Nat) (f : Op → Op) : (s.mapOp k f).curS = s.curS := rfl
@[simp] theorem State.mapOp_clock (s : State) (k : Nat) (f : Op → Op) : (s.mapOp k f).clock = s.clock := rfl
@[simp] theorem State.mapOp_freeCtr (s : State) (k : Nat) (f : Op → Op) : (s.mapOp k f).freeCtr = s.freeCtr := rfl
@[simp] theorem State.mapOp_nextId (s : State) (k : Nat) (f : Op → Op) : (s.mapOp k f).nextId = s.nextId := rfl
@[simp] theorem State.mapOp_mem (s : State) (k : Nat) (f : Op → Op) : (s.mapOp k f).mem = s.mem := rfl
@[simp] theorem State.mapOp_poison (s : State) (k : Nat) (f : Op → Op) : (s.mapOp k f).poison = s.poison := rfl
@[simp] theorem State.mapOp_flights (s : State) (k : Nat) (f : Op → Op) : (s.mapOp k f).flights = s.flights := rfl
@[simp] theorem State.mapOp_fetches (s : State) (k : Nat) (f : Op → Op) : (s.mapOp k f).fetches = s.fetches := rfl
@[simp] theorem State.mapOp_ctxs (s : State) (k : Nat) (f : Op → Op) : (s.mapOp k f).ctxs = s.ctxs := rfl
@[simp] theorem State.mapOp_quads (s : State) (k : Nat) (f : Op → Op) : (s.mapOp k f).quads = s.quads := rfl
@[simp] theorem State.mapOp_dies (s : State) (k : Nat) (f : Op → Op) : (s.mapOp k f).dies = s.dies := rfl
@[simp] theorem State.mapOp_links (s : State) (k : Nat) (f : Op → Op) : (s.mapOp k f).links = s.links := rfl
@[simp] theorem State.mapOp_lanes (s : State) (k : Nat) (f : Op → Op) : (s.mapOp k f).lanes = s.lanes := rfl
@[simp] theorem State.mapOp_signals (s : State) (k : Nat) (f : Op → Op) : (s.mapOp k f).signals = s.signals := rfl
@[simp] theorem State.mapOp_ports (s : State) (k : Nat) (f : Op → Op) : (s.mapOp k f).ports = s.ports := rfl
@[simp] theorem State.mapOp_hub (s : State) (k : Nat) (f : Op → Op) : (s.mapOp k f).hub = s.hub := rfl
@[simp] theorem State.mapOp_outbox (s : State) (k : Nat) (f : Op → Op) : (s.mapOp k f).outbox = s.outbox := rfl
@[simp] theorem State.mapOp_power (s : State) (k : Nat) (f : Op → Op) : (s.mapOp k f).power = s.power := rfl

@[simp] theorem State.takenOp_agenda (s : State) (k : Nat) : (s.takenOp k).agenda = s.agenda := rfl
@[simp] theorem State.takenOp_curP (s : State) (k : Nat) : (s.takenOp k).curP = s.curP := rfl
@[simp] theorem State.takenOp_curS (s : State) (k : Nat) : (s.takenOp k).curS = s.curS := rfl
@[simp] theorem State.takenOp_clock (s : State) (k : Nat) : (s.takenOp k).clock = s.clock := rfl
@[simp] theorem State.takenOp_freeCtr (s : State) (k : Nat) : (s.takenOp k).freeCtr = s.freeCtr := rfl
@[simp] theorem State.takenOp_nextId (s : State) (k : Nat) : (s.takenOp k).nextId = s.nextId := rfl
@[simp] theorem State.takenOp_mem (s : State) (k : Nat) : (s.takenOp k).mem = s.mem := rfl
@[simp] theorem State.takenOp_poison (s : State) (k : Nat) : (s.takenOp k).poison = s.poison := rfl
@[simp] theorem State.takenOp_flights (s : State) (k : Nat) : (s.takenOp k).flights = s.flights := rfl
@[simp] theorem State.takenOp_fetches (s : State) (k : Nat) : (s.takenOp k).fetches = s.fetches := rfl
@[simp] theorem State.takenOp_ctxs (s : State) (k : Nat) : (s.takenOp k).ctxs = s.ctxs := rfl
@[simp] theorem State.takenOp_quads (s : State) (k : Nat) : (s.takenOp k).quads = s.quads := rfl
@[simp] theorem State.takenOp_dies (s : State) (k : Nat) : (s.takenOp k).dies = s.dies := rfl
@[simp] theorem State.takenOp_links (s : State) (k : Nat) : (s.takenOp k).links = s.links := rfl
@[simp] theorem State.takenOp_lanes (s : State) (k : Nat) : (s.takenOp k).lanes = s.lanes := rfl
@[simp] theorem State.takenOp_signals (s : State) (k : Nat) : (s.takenOp k).signals = s.signals := rfl
@[simp] theorem State.takenOp_ports (s : State) (k : Nat) : (s.takenOp k).ports = s.ports := rfl
@[simp] theorem State.takenOp_hub (s : State) (k : Nat) : (s.takenOp k).hub = s.hub := rfl
@[simp] theorem State.takenOp_outbox (s : State) (k : Nat) : (s.takenOp k).outbox = s.outbox := rfl
@[simp] theorem State.takenOp_power (s : State) (k : Nat) : (s.takenOp k).power = s.power := rfl

@[simp] theorem State.fresh_agenda (s : State) : (s.fresh).2.agenda = s.agenda := rfl
@[simp] theorem State.fresh_curP (s : State) : (s.fresh).2.curP = s.curP := rfl
@[simp] theorem State.fresh_curS (s : State) : (s.fresh).2.curS = s.curS := rfl
@[simp] theorem State.fresh_clock (s : State) : (s.fresh).2.clock = s.clock := rfl
@[simp] theorem State.fresh_freeCtr (s : State) : (s.fresh).2.freeCtr = s.freeCtr := rfl
@[simp] theorem State.fresh_mem (s : State) : (s.fresh).2.mem = s.mem := rfl
@[simp] theorem State.fresh_poison (s : State) : (s.fresh).2.poison = s.poison := rfl
@[simp] theorem State.fresh_flights (s : State) : (s.fresh).2.flights = s.flights := rfl
@[simp] theorem State.fresh_fetches (s : State) : (s.fresh).2.fetches = s.fetches := rfl
@[simp] theorem State.fresh_ctxs (s : State) : (s.fresh).2.ctxs = s.ctxs := rfl
@[simp] theorem State.fresh_cores (s : State) : (s.fresh).2.cores = s.cores := rfl
@[simp] theorem State.fresh_quads (s : State) : (s.fresh).2.quads = s.quads := rfl
@[simp] theorem State.fresh_dies (s : State) : (s.fresh).2.dies = s.dies := rfl
@[simp] theorem State.fresh_links (s : State) : (s.fresh).2.links = s.links := rfl
@[simp] theorem State.fresh_lanes (s : State) : (s.fresh).2.lanes = s.lanes := rfl
@[simp] theorem State.fresh_signals (s : State) : (s.fresh).2.signals = s.signals := rfl
@[simp] theorem State.fresh_ports (s : State) : (s.fresh).2.ports = s.ports := rfl
@[simp] theorem State.fresh_hub (s : State) : (s.fresh).2.hub = s.hub := rfl
@[simp] theorem State.fresh_outbox (s : State) : (s.fresh).2.outbox = s.outbox := rfl
@[simp] theorem State.fresh_power (s : State) : (s.fresh).2.power = s.power := rfl

@[simp] theorem State.free_agenda (s : State) : (s.free).2.agenda = s.agenda := rfl
@[simp] theorem State.free_curP (s : State) : (s.free).2.curP = s.curP := rfl
@[simp] theorem State.free_curS (s : State) : (s.free).2.curS = s.curS := rfl
@[simp] theorem State.free_clock (s : State) : (s.free).2.clock = s.clock := rfl
@[simp] theorem State.free_nextId (s : State) : (s.free).2.nextId = s.nextId := rfl
@[simp] theorem State.free_mem (s : State) : (s.free).2.mem = s.mem := rfl
@[simp] theorem State.free_poison (s : State) : (s.free).2.poison = s.poison := rfl
@[simp] theorem State.free_flights (s : State) : (s.free).2.flights = s.flights := rfl
@[simp] theorem State.free_fetches (s : State) : (s.free).2.fetches = s.fetches := rfl
@[simp] theorem State.free_ctxs (s : State) : (s.free).2.ctxs = s.ctxs := rfl
@[simp] theorem State.free_cores (s : State) : (s.free).2.cores = s.cores := rfl
@[simp] theorem State.free_quads (s : State) : (s.free).2.quads = s.quads := rfl
@[simp] theorem State.free_dies (s : State) : (s.free).2.dies = s.dies := rfl
@[simp] theorem State.free_links (s : State) : (s.free).2.links = s.links := rfl
@[simp] theorem State.free_lanes (s : State) : (s.free).2.lanes = s.lanes := rfl
@[simp] theorem State.free_signals (s : State) : (s.free).2.signals = s.signals := rfl
@[simp] theorem State.free_ports (s : State) : (s.free).2.ports = s.ports := rfl
@[simp] theorem State.free_hub (s : State) : (s.free).2.hub = s.hub := rfl
@[simp] theorem State.free_outbox (s : State) : (s.free).2.outbox = s.outbox := rfl
@[simp] theorem State.free_power (s : State) : (s.free).2.power = s.power := rfl

@[simp] theorem State.newStamp_agenda (s : State) (p : Nat) : (s.newStamp p).2.agenda = s.agenda := rfl
@[simp] theorem State.newStamp_curP (s : State) (p : Nat) : (s.newStamp p).2.curP = s.curP := rfl
@[simp] theorem State.newStamp_curS (s : State) (p : Nat) : (s.newStamp p).2.curS = s.curS := rfl
@[simp] theorem State.newStamp_clock (s : State) (p : Nat) : (s.newStamp p).2.clock = s.clock := rfl
@[simp] theorem State.newStamp_freeCtr (s : State) (p : Nat) : (s.newStamp p).2.freeCtr = s.freeCtr := rfl
@[simp] theorem State.newStamp_nextId (s : State) (p : Nat) : (s.newStamp p).2.nextId = s.nextId := rfl
@[simp] theorem State.newStamp_mem (s : State) (p : Nat) : (s.newStamp p).2.mem = s.mem := rfl
@[simp] theorem State.newStamp_poison (s : State) (p : Nat) : (s.newStamp p).2.poison = s.poison := rfl
@[simp] theorem State.newStamp_flights (s : State) (p : Nat) : (s.newStamp p).2.flights = s.flights := rfl
@[simp] theorem State.newStamp_fetches (s : State) (p : Nat) : (s.newStamp p).2.fetches = s.fetches := rfl
@[simp] theorem State.newStamp_ctxs (s : State) (p : Nat) : (s.newStamp p).2.ctxs = s.ctxs := rfl
@[simp] theorem State.newStamp_quads (s : State) (p : Nat) : (s.newStamp p).2.quads = s.quads := rfl
@[simp] theorem State.newStamp_dies (s : State) (p : Nat) : (s.newStamp p).2.dies = s.dies := rfl
@[simp] theorem State.newStamp_links (s : State) (p : Nat) : (s.newStamp p).2.links = s.links := rfl
@[simp] theorem State.newStamp_lanes (s : State) (p : Nat) : (s.newStamp p).2.lanes = s.lanes := rfl
@[simp] theorem State.newStamp_signals (s : State) (p : Nat) : (s.newStamp p).2.signals = s.signals := rfl
@[simp] theorem State.newStamp_ports (s : State) (p : Nat) : (s.newStamp p).2.ports = s.ports := rfl
@[simp] theorem State.newStamp_hub (s : State) (p : Nat) : (s.newStamp p).2.hub = s.hub := rfl
@[simp] theorem State.newStamp_outbox (s : State) (p : Nat) : (s.newStamp p).2.outbox = s.outbox := rfl
@[simp] theorem State.newStamp_power (s : State) (p : Nat) : (s.newStamp p).2.power = s.power := rfl

@[simp] theorem State.setHub_hub (s : State) (h : Hub) : (s.setHub h).hub = h := rfl
@[simp] theorem State.emit_outbox (s : State) (o : Out) : (s.emit o).outbox = s.outbox ++ [o] := rfl
@[simp] theorem State.fresh_fst (s : State) : (s.fresh).1 = s.nextId := rfl
@[simp] theorem State.fresh_nextId (s : State) : (s.fresh).2.nextId = s.nextId + 1 := rfl
@[simp] theorem State.free_freeCtr (s : State) : (s.free).2.freeCtr = s.freeCtr + 1 := rfl

/-! Tables. -/

/-- A listed default-reading: what was put is read, and nothing else changes. -/
theorem Tab.get_put {α : Type} (d : α) (t : Tab α) (k : Nat) (x : α) (j : Nat) :
    Tab.get d (t.put k x) j = if j = k then x else Tab.get d t j := by
  induction t with
  | nil =>
    by_cases h : j = k
    · subst h
      simp [Tab.put, Tab.get]
    · have h' : ¬ k = j := fun e => h e.symm
      simp [Tab.put, Tab.get, h, h']
  | cons e t ih =>
    obtain ⟨a, v⟩ := e
    by_cases h : j = k
    · subst h
      by_cases h1 : j < a
      · simp [Tab.put, Tab.get, h1]
      · by_cases h2 : j = a
        · subst h2
          simp [Tab.put, Tab.get]
        · have h' : ¬ a = j := fun e => h2 e.symm
          simp [Tab.put, Tab.get, h1, h2, h', ih]
    · have h' : ¬ k = j := fun e => h e.symm
      by_cases h1 : k < a
      · simp [Tab.put, Tab.get, h1, h, h']
      · by_cases h2 : k = a
        · subst h2
          simp [Tab.put, Tab.get, h, h']
        · simp [Tab.put, Tab.get, h1, h2, h, ih]

/-! Parts of the state that were set. -/

@[simp] theorem State.core_setCore (s : State) (p : Nat) (c : Core) (j : Nat) :
    (s.setCore p c).core j = if j = p then c else s.core j := Tab.get_put _ _ _ _ _
@[simp] theorem State.quad_setQuad_same (s : State) (q : Nat) (x : Quad) : (s.setQuad q x).quad q = x := by
  simp [State.quad, State.setQuad, Tab.get_put]
theorem State.quad_setQuad_other (s : State) (q : Nat) (x : Quad) (j : Nat) (h : j ≠ q) :
    (s.setQuad q x).quad j = s.quad j := by
  have g : ∀ d : Quad, Tab.get d (s.quads.put q x) j = Tab.get d s.quads j := fun d => by simp [Tab.get_put, h]
  exact g _
@[simp] theorem State.die_setDie (s : State) (d : Nat) (x : Die) (j : Nat) :
    (s.setDie d x).die j = if j = d then x else s.die j := Tab.get_put _ _ _ _ _
@[simp] theorem State.ctx_setCtx (s : State) (c : Nat) (x : Ctx) (j : Nat) :
    (s.setCtx c x).ctx j = if j = c then x else s.ctx j := Tab.get_put _ _ _ _ _
@[simp] theorem State.port_setPort (s : State) (p : Nat) (x : Port) (j : Nat) :
    (s.setPort p x).port j = if j = p then x else s.port j := Tab.get_put _ _ _ _ _
@[simp] theorem State.linkAt_setLink (s : State) (l : Nat) (x : Link) (j : Nat) :
    (s.setLink l x).linkAt j = if j = l then x else s.linkAt j := Tab.get_put _ _ _ _ _

@[simp] theorem State.setCore_ctx (s : State) (p : Nat) (c : Core) (k : Nat) : (s.setCore p c).ctx k = s.ctx k := rfl
@[simp] theorem State.setCore_quad (s : State) (p : Nat) (c : Core) (k : Nat) : (s.setCore p c).quad k = s.quad k := rfl
@[simp] theorem State.setCore_die (s : State) (p : Nat) (c : Core) (k : Nat) : (s.setCore p c).die k = s.die k := rfl
@[simp] theorem State.setCtx_core (s : State) (c : Nat) (x : Ctx) (k : Nat) : (s.setCtx c x).core k = s.core k := rfl
@[simp] theorem State.setCtx_quad (s : State) (c : Nat) (x : Ctx) (k : Nat) : (s.setCtx c x).quad k = s.quad k := rfl
@[simp] theorem State.setCtx_die (s : State) (c : Nat) (x : Ctx) (k : Nat) : (s.setCtx c x).die k = s.die k := rfl
@[simp] theorem State.setDie_core (s : State) (d : Nat) (x : Die) (k : Nat) : (s.setDie d x).core k = s.core k := rfl
@[simp] theorem State.setDie_ctx (s : State) (d : Nat) (x : Die) (k : Nat) : (s.setDie d x).ctx k = s.ctx k := rfl
@[simp] theorem State.setQuad_core (s : State) (q : Nat) (x : Quad) (k : Nat) : (s.setQuad q x).core k = s.core k := rfl
@[simp] theorem State.setQuad_ctx (s : State) (q : Nat) (x : Quad) (k : Nat) : (s.setQuad q x).ctx k = s.ctx k := rfl
@[simp] theorem State.setInst_ctx (s : State) (p sl : Nat) (i : Option Inst) (k : Nat) :
    (s.setInst p sl i).ctx k = s.ctx k := rfl

/-- A slot that is set holds what was set, when it is one of the core's eight; every other slot holds what it did. -/
theorem State.inst?_setInst (s : State) (p sl : Nat) (i : Option Inst) (p' sl' : Nat) (h : sl < 8) :
    (s.setInst p sl i).inst? p' sl' = if p' = p ∧ sl' = sl then i else s.inst? p' sl' := by
  simp only [State.setInst, State.inst?, State.core_setCore, Core.inst?, Core.setSlot]
  by_cases hp : p' = p
  · subst hp
    by_cases hs : sl' = sl
    · subst hs
      simp [h]
    · have hs' : ¬ sl = sl' := fun e => hs e.symm
      simp [hs, hs']
  · simp [hp]

/-! Registers. -/

@[simp] theorem Inst.readG_zero (i : Inst) : i.readG 0 = 0 := rfl
@[simp] theorem Inst.readK_zero (i : Inst) : i.readK 0 = 0xFFFF := rfl

/-- g0 discards what is written; any other register reads as it was written. -/
theorem Inst.readG_setG (i : Inst) (r : GReg) (x : Word) (r' : GReg) :
    (i.setG r x).readG r' = if r' = r ∧ r ≠ 0 then x else i.readG r' := by
  by_cases h0 : r = 0
  · rw [if_neg (fun e => e.2 h0)]
    subst h0
    rfl
  · have e : i.setG r x = { i with g := i.g.set r.toNat x } := if_neg h0
    rw [e]
    by_cases h : r' = r
    · subst h
      rw [if_pos ⟨rfl, h0⟩]
      unfold Inst.readG
      rw [if_neg h0]
      simp
    · have h' : ¬ r.toNat = r'.toNat := fun e => h (BitVec.eq_of_toNat_eq e.symm)
      rw [if_neg (fun e => h e.1)]
      unfold Inst.readG
      simp [h']

theorem Inst.readV_setV (i : Inst) (r : VReg) (x : VWord) (r' : VReg) :
    (i.setV r x).readV r' = if r' = r then x else i.readV r' := by
  simp only [Inst.readV, Inst.setV]
  by_cases h : r' = r
  · subst h
    simp
  · have h' : ¬ r.toNat = r'.toNat := fun e => h (BitVec.eq_of_toNat_eq e.symm)
    simp [h, h']

theorem Inst.readK_setK (i : Inst) (r : KReg) (x : KWord) (r' : KReg) :
    (i.setK r x).readK r' = if r' = r ∧ r ≠ 0 then x else i.readK r' := by
  by_cases h0 : r = 0
  · rw [if_neg (fun e => e.2 h0)]
    subst h0
    rfl
  · have e : i.setK r x = { i with k := i.k.set r.toNat x } := if_neg h0
    rw [e]
    by_cases h : r' = r
    · subst h
      rw [if_pos ⟨rfl, h0⟩]
      unfold Inst.readK
      rw [if_neg h0]
      simp
    · have h' : ¬ r.toNat = r'.toNat := fun e => h (BitVec.eq_of_toNat_eq e.symm)
      rw [if_neg (fun e => h e.1)]
      unfold Inst.readK
      simp [h']

@[simp] theorem Inst.setG_iid (i : Inst) (r : GReg) (x : Word) : (i.setG r x).iid = i.iid := by unfold Inst.setG; split <;> rfl
@[simp] theorem Inst.setG_ctx (i : Inst) (r : GReg) (x : Word) : (i.setG r x).ctx = i.ctx := by unfold Inst.setG; split <;> rfl
@[simp] theorem Inst.setG_lcore (i : Inst) (r : GReg) (x : Word) : (i.setG r x).lcore = i.lcore := by unfold Inst.setG; split <;> rfl
@[simp] theorem Inst.setG_gen (i : Inst) (r : GReg) (x : Word) : (i.setG r x).gen = i.gen := by unfold Inst.setG; split <;> rfl
@[simp] theorem Inst.setG_hidx (i : Inst) (r : GReg) (x : Word) : (i.setG r x).hidx = i.hidx := by unfold Inst.setG; split <;> rfl
@[simp] theorem Inst.setG_tag (i : Inst) (r : GReg) (x : Word) : (i.setG r x).tag = i.tag := by unfold Inst.setG; split <;> rfl
@[simp] theorem Inst.setG_hdr (i : Inst) (r : GReg) (x : Word) : (i.setG r x).hdr = i.hdr := by unfold Inst.setG; split <;> rfl
@[simp] theorem Inst.setG_hbase (i : Inst) (r : GReg) (x : Word) : (i.setG r x).hbase = i.hbase := by unfold Inst.setG; split <;> rfl
@[simp] theorem Inst.setG_pc (i : Inst) (r : GReg) (x : Word) : (i.setG r x).pc = i.pc := by unfold Inst.setG; split <;> rfl
@[simp] theorem Inst.setG_v (i : Inst) (r : GReg) (x : Word) : (i.setG r x).v = i.v := by unfold Inst.setG; split <;> rfl
@[simp] theorem Inst.setG_k (i : Inst) (r : GReg) (x : Word) : (i.setG r x).k = i.k := by unfold Inst.setG; split <;> rfl
@[simp] theorem Inst.setG_m (i : Inst) (r : GReg) (x : Word) : (i.setG r x).m = i.m := by unfold Inst.setG; split <;> rfl
@[simp] theorem Inst.setG_d (i : Inst) (r : GReg) (x : Word) : (i.setG r x).d = i.d := by unfold Inst.setG; split <;> rfl
@[simp] theorem Inst.setG_q (i : Inst) (r : GReg) (x : Word) : (i.setG r x).q = i.q := by unfold Inst.setG; split <;> rfl
@[simp] theorem Inst.setG_link (i : Inst) (r : GReg) (x : Word) : (i.setG r x).link = i.link := by unfold Inst.setG; split <;> rfl
@[simp] theorem Inst.setG_prio (i : Inst) (r : GReg) (x : Word) : (i.setG r x).prio = i.prio := by unfold Inst.setG; split <;> rfl
@[simp] theorem Inst.setG_join (i : Inst) (r : GReg) (x : Word) : (i.setG r x).join = i.join := by unfold Inst.setG; split <;> rfl
@[simp] theorem Inst.setG_reply (i : Inst) (r : GReg) (x : Word) : (i.setG r x).reply = i.reply := by unfold Inst.setG; split <;> rfl
@[simp] theorem Inst.setG_rsafe (i : Inst) (r : GReg) (x : Word) : (i.setG r x).rsafe = i.rsafe := by unfold Inst.setG; split <;> rfl
@[simp] theorem Inst.setG_flags (i : Inst) (r : GReg) (x : Word) : (i.setG r x).flags = i.flags := by unfold Inst.setG; split <;> rfl
@[simp] theorem Inst.setG_tail (i : Inst) (r : GReg) (x : Word) : (i.setG r x).tail = i.tail := by unfold Inst.setG; split <;> rfl
@[simp] theorem Inst.setG_heldPrio (i : Inst) (r : GReg) (x : Word) : (i.setG r x).heldPrio = i.heldPrio := by unfold Inst.setG; split <;> rfl
@[simp] theorem Inst.setG_scale (i : Inst) (r : GReg) (x : Word) : (i.setG r x).scale = i.scale := by unfold Inst.setG; split <;> rfl
@[simp] theorem Inst.setG_pend (i : Inst) (r : GReg) (x : Word) : (i.setG r x).pend = i.pend := by unfold Inst.setG; split <;> rfl
@[simp] theorem Inst.setG_vpend (i : Inst) (r : GReg) (x : Word) : (i.setG r x).vpend = i.vpend := by unfold Inst.setG; split <;> rfl
@[simp] theorem Inst.setG_fenceOn (i : Inst) (r : GReg) (x : Word) : (i.setG r x).fenceOn = i.fenceOn := by unfold Inst.setG; split <;> rfl
@[simp] theorem Inst.setG_drainOn (i : Inst) (r : GReg) (x : Word) : (i.setG r x).drainOn = i.drainOn := by unfold Inst.setG; split <;> rfl
@[simp] theorem Inst.setG_acquireOn (i : Inst) (r : GReg) (x : Word) : (i.setG r x).acquireOn = i.acquireOn := by unfold Inst.setG; split <;> rfl
@[simp] theorem Inst.setG_hubOn (i : Inst) (r : GReg) (x : Word) : (i.setG r x).hubOn = i.hubOn := by unfold Inst.setG; split <;> rfl
@[simp] theorem Inst.setG_waitOn (i : Inst) (r : GReg) (x : Word) : (i.setG r x).waitOn = i.waitOn := by unfold Inst.setG; split <;> rfl
@[simp] theorem Inst.setG_pageWait (i : Inst) (r : GReg) (x : Word) : (i.setG r x).pageWait = i.pageWait := by unfold Inst.setG; split <;> rfl
@[simp] theorem Inst.setG_sinceSafe (i : Inst) (r : GReg) (x : Word) : (i.setG r x).sinceSafe = i.sinceSafe := by unfold Inst.setG; split <;> rfl
@[simp] theorem Inst.setG_sincePre (i : Inst) (r : GReg) (x : Word) : (i.setG r x).sincePre = i.sincePre := by unfold Inst.setG; split <;> rfl
@[simp] theorem Inst.setG_stopped (i : Inst) (r : GReg) (x : Word) : (i.setG r x).stopped = i.stopped := by unfold Inst.setG; split <;> rfl
@[simp] theorem Inst.setG_fromFault (i : Inst) (r : GReg) (x : Word) : (i.setG r x).fromFault = i.fromFault := by unfold Inst.setG; split <;> rfl
@[simp] theorem Inst.setG_inum (i : Inst) (r : GReg) (x : Word) : (i.setG r x).inum = i.inum := by unfold Inst.setG; split <;> rfl
@[simp] theorem Inst.setG_cause (i : Inst) (r : GReg) (x : Word) : (i.setG r x).cause = i.cause := by unfold Inst.setG; split <;> rfl
@[simp] theorem Inst.setG_edge (i : Inst) (r : GReg) (x : Word) : (i.setG r x).edge = i.edge := by unfold Inst.setG; split <;> rfl
@[simp] theorem Inst.setG_fullOn (i : Inst) (r : GReg) (x : Word) : (i.setG r x).fullOn = i.fullOn := by unfold Inst.setG; split <;> rfl
@[simp] theorem Inst.setG_bad (i : Inst) (r : GReg) (x : Word) : (i.setG r x).bad = i.bad := by unfold Inst.setG; split <;> rfl

@[simp] theorem Inst.setV_iid (i : Inst) (r : VReg) (x : VWord) : (i.setV r x).iid = i.iid := rfl
@[simp] theorem Inst.setV_ctx (i : Inst) (r : VReg) (x : VWord) : (i.setV r x).ctx = i.ctx := rfl
@[simp] theorem Inst.setV_lcore (i : Inst) (r : VReg) (x : VWord) : (i.setV r x).lcore = i.lcore := rfl
@[simp] theorem Inst.setV_gen (i : Inst) (r : VReg) (x : VWord) : (i.setV r x).gen = i.gen := rfl
@[simp] theorem Inst.setV_hidx (i : Inst) (r : VReg) (x : VWord) : (i.setV r x).hidx = i.hidx := rfl
@[simp] theorem Inst.setV_tag (i : Inst) (r : VReg) (x : VWord) : (i.setV r x).tag = i.tag := rfl
@[simp] theorem Inst.setV_hdr (i : Inst) (r : VReg) (x : VWord) : (i.setV r x).hdr = i.hdr := rfl
@[simp] theorem Inst.setV_hbase (i : Inst) (r : VReg) (x : VWord) : (i.setV r x).hbase = i.hbase := rfl
@[simp] theorem Inst.setV_pc (i : Inst) (r : VReg) (x : VWord) : (i.setV r x).pc = i.pc := rfl
@[simp] theorem Inst.setV_g (i : Inst) (r : VReg) (x : VWord) : (i.setV r x).g = i.g := rfl
@[simp] theorem Inst.setV_k (i : Inst) (r : VReg) (x : VWord) : (i.setV r x).k = i.k := rfl
@[simp] theorem Inst.setV_m (i : Inst) (r : VReg) (x : VWord) : (i.setV r x).m = i.m := rfl
@[simp] theorem Inst.setV_d (i : Inst) (r : VReg) (x : VWord) : (i.setV r x).d = i.d := rfl
@[simp] theorem Inst.setV_q (i : Inst) (r : VReg) (x : VWord) : (i.setV r x).q = i.q := rfl
@[simp] theorem Inst.setV_link (i : Inst) (r : VReg) (x : VWord) : (i.setV r x).link = i.link := rfl
@[simp] theorem Inst.setV_prio (i : Inst) (r : VReg) (x : VWord) : (i.setV r x).prio = i.prio := rfl
@[simp] theorem Inst.setV_join (i : Inst) (r : VReg) (x : VWord) : (i.setV r x).join = i.join := rfl
@[simp] theorem Inst.setV_reply (i : Inst) (r : VReg) (x : VWord) : (i.setV r x).reply = i.reply := rfl
@[simp] theorem Inst.setV_rsafe (i : Inst) (r : VReg) (x : VWord) : (i.setV r x).rsafe = i.rsafe := rfl
@[simp] theorem Inst.setV_flags (i : Inst) (r : VReg) (x : VWord) : (i.setV r x).flags = i.flags := rfl
@[simp] theorem Inst.setV_tail (i : Inst) (r : VReg) (x : VWord) : (i.setV r x).tail = i.tail := rfl
@[simp] theorem Inst.setV_heldPrio (i : Inst) (r : VReg) (x : VWord) : (i.setV r x).heldPrio = i.heldPrio := rfl
@[simp] theorem Inst.setV_scale (i : Inst) (r : VReg) (x : VWord) : (i.setV r x).scale = i.scale := rfl
@[simp] theorem Inst.setV_pend (i : Inst) (r : VReg) (x : VWord) : (i.setV r x).pend = i.pend := rfl
@[simp] theorem Inst.setV_vpend (i : Inst) (r : VReg) (x : VWord) : (i.setV r x).vpend = i.vpend := rfl
@[simp] theorem Inst.setV_fenceOn (i : Inst) (r : VReg) (x : VWord) : (i.setV r x).fenceOn = i.fenceOn := rfl
@[simp] theorem Inst.setV_drainOn (i : Inst) (r : VReg) (x : VWord) : (i.setV r x).drainOn = i.drainOn := rfl
@[simp] theorem Inst.setV_acquireOn (i : Inst) (r : VReg) (x : VWord) : (i.setV r x).acquireOn = i.acquireOn := rfl
@[simp] theorem Inst.setV_hubOn (i : Inst) (r : VReg) (x : VWord) : (i.setV r x).hubOn = i.hubOn := rfl
@[simp] theorem Inst.setV_waitOn (i : Inst) (r : VReg) (x : VWord) : (i.setV r x).waitOn = i.waitOn := rfl
@[simp] theorem Inst.setV_pageWait (i : Inst) (r : VReg) (x : VWord) : (i.setV r x).pageWait = i.pageWait := rfl
@[simp] theorem Inst.setV_sinceSafe (i : Inst) (r : VReg) (x : VWord) : (i.setV r x).sinceSafe = i.sinceSafe := rfl
@[simp] theorem Inst.setV_sincePre (i : Inst) (r : VReg) (x : VWord) : (i.setV r x).sincePre = i.sincePre := rfl
@[simp] theorem Inst.setV_stopped (i : Inst) (r : VReg) (x : VWord) : (i.setV r x).stopped = i.stopped := rfl
@[simp] theorem Inst.setV_fromFault (i : Inst) (r : VReg) (x : VWord) : (i.setV r x).fromFault = i.fromFault := rfl
@[simp] theorem Inst.setV_inum (i : Inst) (r : VReg) (x : VWord) : (i.setV r x).inum = i.inum := rfl
@[simp] theorem Inst.setV_cause (i : Inst) (r : VReg) (x : VWord) : (i.setV r x).cause = i.cause := rfl
@[simp] theorem Inst.setV_edge (i : Inst) (r : VReg) (x : VWord) : (i.setV r x).edge = i.edge := rfl
@[simp] theorem Inst.setV_fullOn (i : Inst) (r : VReg) (x : VWord) : (i.setV r x).fullOn = i.fullOn := rfl
@[simp] theorem Inst.setV_bad (i : Inst) (r : VReg) (x : VWord) : (i.setV r x).bad = i.bad := rfl

@[simp] theorem Inst.setK_iid (i : Inst) (r : KReg) (x : KWord) : (i.setK r x).iid = i.iid := by unfold Inst.setK; split <;> rfl
@[simp] theorem Inst.setK_ctx (i : Inst) (r : KReg) (x : KWord) : (i.setK r x).ctx = i.ctx := by unfold Inst.setK; split <;> rfl
@[simp] theorem Inst.setK_lcore (i : Inst) (r : KReg) (x : KWord) : (i.setK r x).lcore = i.lcore := by unfold Inst.setK; split <;> rfl
@[simp] theorem Inst.setK_gen (i : Inst) (r : KReg) (x : KWord) : (i.setK r x).gen = i.gen := by unfold Inst.setK; split <;> rfl
@[simp] theorem Inst.setK_hidx (i : Inst) (r : KReg) (x : KWord) : (i.setK r x).hidx = i.hidx := by unfold Inst.setK; split <;> rfl
@[simp] theorem Inst.setK_tag (i : Inst) (r : KReg) (x : KWord) : (i.setK r x).tag = i.tag := by unfold Inst.setK; split <;> rfl
@[simp] theorem Inst.setK_hdr (i : Inst) (r : KReg) (x : KWord) : (i.setK r x).hdr = i.hdr := by unfold Inst.setK; split <;> rfl
@[simp] theorem Inst.setK_hbase (i : Inst) (r : KReg) (x : KWord) : (i.setK r x).hbase = i.hbase := by unfold Inst.setK; split <;> rfl
@[simp] theorem Inst.setK_pc (i : Inst) (r : KReg) (x : KWord) : (i.setK r x).pc = i.pc := by unfold Inst.setK; split <;> rfl
@[simp] theorem Inst.setK_g (i : Inst) (r : KReg) (x : KWord) : (i.setK r x).g = i.g := by unfold Inst.setK; split <;> rfl
@[simp] theorem Inst.setK_v (i : Inst) (r : KReg) (x : KWord) : (i.setK r x).v = i.v := by unfold Inst.setK; split <;> rfl
@[simp] theorem Inst.setK_m (i : Inst) (r : KReg) (x : KWord) : (i.setK r x).m = i.m := by unfold Inst.setK; split <;> rfl
@[simp] theorem Inst.setK_d (i : Inst) (r : KReg) (x : KWord) : (i.setK r x).d = i.d := by unfold Inst.setK; split <;> rfl
@[simp] theorem Inst.setK_q (i : Inst) (r : KReg) (x : KWord) : (i.setK r x).q = i.q := by unfold Inst.setK; split <;> rfl
@[simp] theorem Inst.setK_link (i : Inst) (r : KReg) (x : KWord) : (i.setK r x).link = i.link := by unfold Inst.setK; split <;> rfl
@[simp] theorem Inst.setK_prio (i : Inst) (r : KReg) (x : KWord) : (i.setK r x).prio = i.prio := by unfold Inst.setK; split <;> rfl
@[simp] theorem Inst.setK_join (i : Inst) (r : KReg) (x : KWord) : (i.setK r x).join = i.join := by unfold Inst.setK; split <;> rfl
@[simp] theorem Inst.setK_reply (i : Inst) (r : KReg) (x : KWord) : (i.setK r x).reply = i.reply := by unfold Inst.setK; split <;> rfl
@[simp] theorem Inst.setK_rsafe (i : Inst) (r : KReg) (x : KWord) : (i.setK r x).rsafe = i.rsafe := by unfold Inst.setK; split <;> rfl
@[simp] theorem Inst.setK_flags (i : Inst) (r : KReg) (x : KWord) : (i.setK r x).flags = i.flags := by unfold Inst.setK; split <;> rfl
@[simp] theorem Inst.setK_tail (i : Inst) (r : KReg) (x : KWord) : (i.setK r x).tail = i.tail := by unfold Inst.setK; split <;> rfl
@[simp] theorem Inst.setK_heldPrio (i : Inst) (r : KReg) (x : KWord) : (i.setK r x).heldPrio = i.heldPrio := by unfold Inst.setK; split <;> rfl
@[simp] theorem Inst.setK_scale (i : Inst) (r : KReg) (x : KWord) : (i.setK r x).scale = i.scale := by unfold Inst.setK; split <;> rfl
@[simp] theorem Inst.setK_pend (i : Inst) (r : KReg) (x : KWord) : (i.setK r x).pend = i.pend := by unfold Inst.setK; split <;> rfl
@[simp] theorem Inst.setK_vpend (i : Inst) (r : KReg) (x : KWord) : (i.setK r x).vpend = i.vpend := by unfold Inst.setK; split <;> rfl
@[simp] theorem Inst.setK_fenceOn (i : Inst) (r : KReg) (x : KWord) : (i.setK r x).fenceOn = i.fenceOn := by unfold Inst.setK; split <;> rfl
@[simp] theorem Inst.setK_drainOn (i : Inst) (r : KReg) (x : KWord) : (i.setK r x).drainOn = i.drainOn := by unfold Inst.setK; split <;> rfl
@[simp] theorem Inst.setK_acquireOn (i : Inst) (r : KReg) (x : KWord) : (i.setK r x).acquireOn = i.acquireOn := by unfold Inst.setK; split <;> rfl
@[simp] theorem Inst.setK_hubOn (i : Inst) (r : KReg) (x : KWord) : (i.setK r x).hubOn = i.hubOn := by unfold Inst.setK; split <;> rfl
@[simp] theorem Inst.setK_waitOn (i : Inst) (r : KReg) (x : KWord) : (i.setK r x).waitOn = i.waitOn := by unfold Inst.setK; split <;> rfl
@[simp] theorem Inst.setK_pageWait (i : Inst) (r : KReg) (x : KWord) : (i.setK r x).pageWait = i.pageWait := by unfold Inst.setK; split <;> rfl
@[simp] theorem Inst.setK_sinceSafe (i : Inst) (r : KReg) (x : KWord) : (i.setK r x).sinceSafe = i.sinceSafe := by unfold Inst.setK; split <;> rfl
@[simp] theorem Inst.setK_sincePre (i : Inst) (r : KReg) (x : KWord) : (i.setK r x).sincePre = i.sincePre := by unfold Inst.setK; split <;> rfl
@[simp] theorem Inst.setK_stopped (i : Inst) (r : KReg) (x : KWord) : (i.setK r x).stopped = i.stopped := by unfold Inst.setK; split <;> rfl
@[simp] theorem Inst.setK_fromFault (i : Inst) (r : KReg) (x : KWord) : (i.setK r x).fromFault = i.fromFault := by unfold Inst.setK; split <;> rfl
@[simp] theorem Inst.setK_inum (i : Inst) (r : KReg) (x : KWord) : (i.setK r x).inum = i.inum := by unfold Inst.setK; split <;> rfl
@[simp] theorem Inst.setK_cause (i : Inst) (r : KReg) (x : KWord) : (i.setK r x).cause = i.cause := by unfold Inst.setK; split <;> rfl
@[simp] theorem Inst.setK_edge (i : Inst) (r : KReg) (x : KWord) : (i.setK r x).edge = i.edge := by unfold Inst.setK; split <;> rfl
@[simp] theorem Inst.setK_fullOn (i : Inst) (r : KReg) (x : KWord) : (i.setK r x).fullOn = i.fullOn := by unfold Inst.setK; split <;> rfl
@[simp] theorem Inst.setK_bad (i : Inst) (r : KReg) (x : KWord) : (i.setK r x).bad = i.bad := by unfold Inst.setK; split <;> rfl

@[simp] theorem Inst.setD_iid (i : Inst) (r : XReg) (x : DWord) : (i.setD r x).iid = i.iid := rfl
@[simp] theorem Inst.setD_ctx (i : Inst) (r : XReg) (x : DWord) : (i.setD r x).ctx = i.ctx := rfl
@[simp] theorem Inst.setD_lcore (i : Inst) (r : XReg) (x : DWord) : (i.setD r x).lcore = i.lcore := rfl
@[simp] theorem Inst.setD_gen (i : Inst) (r : XReg) (x : DWord) : (i.setD r x).gen = i.gen := rfl
@[simp] theorem Inst.setD_hidx (i : Inst) (r : XReg) (x : DWord) : (i.setD r x).hidx = i.hidx := rfl
@[simp] theorem Inst.setD_tag (i : Inst) (r : XReg) (x : DWord) : (i.setD r x).tag = i.tag := rfl
@[simp] theorem Inst.setD_hdr (i : Inst) (r : XReg) (x : DWord) : (i.setD r x).hdr = i.hdr := rfl
@[simp] theorem Inst.setD_hbase (i : Inst) (r : XReg) (x : DWord) : (i.setD r x).hbase = i.hbase := rfl
@[simp] theorem Inst.setD_pc (i : Inst) (r : XReg) (x : DWord) : (i.setD r x).pc = i.pc := rfl
@[simp] theorem Inst.setD_g (i : Inst) (r : XReg) (x : DWord) : (i.setD r x).g = i.g := rfl
@[simp] theorem Inst.setD_v (i : Inst) (r : XReg) (x : DWord) : (i.setD r x).v = i.v := rfl
@[simp] theorem Inst.setD_k (i : Inst) (r : XReg) (x : DWord) : (i.setD r x).k = i.k := rfl
@[simp] theorem Inst.setD_m (i : Inst) (r : XReg) (x : DWord) : (i.setD r x).m = i.m := rfl
@[simp] theorem Inst.setD_q (i : Inst) (r : XReg) (x : DWord) : (i.setD r x).q = i.q := rfl
@[simp] theorem Inst.setD_link (i : Inst) (r : XReg) (x : DWord) : (i.setD r x).link = i.link := rfl
@[simp] theorem Inst.setD_prio (i : Inst) (r : XReg) (x : DWord) : (i.setD r x).prio = i.prio := rfl
@[simp] theorem Inst.setD_join (i : Inst) (r : XReg) (x : DWord) : (i.setD r x).join = i.join := rfl
@[simp] theorem Inst.setD_reply (i : Inst) (r : XReg) (x : DWord) : (i.setD r x).reply = i.reply := rfl
@[simp] theorem Inst.setD_rsafe (i : Inst) (r : XReg) (x : DWord) : (i.setD r x).rsafe = i.rsafe := rfl
@[simp] theorem Inst.setD_flags (i : Inst) (r : XReg) (x : DWord) : (i.setD r x).flags = i.flags := rfl
@[simp] theorem Inst.setD_tail (i : Inst) (r : XReg) (x : DWord) : (i.setD r x).tail = i.tail := rfl
@[simp] theorem Inst.setD_heldPrio (i : Inst) (r : XReg) (x : DWord) : (i.setD r x).heldPrio = i.heldPrio := rfl
@[simp] theorem Inst.setD_scale (i : Inst) (r : XReg) (x : DWord) : (i.setD r x).scale = i.scale := rfl
@[simp] theorem Inst.setD_pend (i : Inst) (r : XReg) (x : DWord) : (i.setD r x).pend = i.pend := rfl
@[simp] theorem Inst.setD_vpend (i : Inst) (r : XReg) (x : DWord) : (i.setD r x).vpend = i.vpend := rfl
@[simp] theorem Inst.setD_fenceOn (i : Inst) (r : XReg) (x : DWord) : (i.setD r x).fenceOn = i.fenceOn := rfl
@[simp] theorem Inst.setD_drainOn (i : Inst) (r : XReg) (x : DWord) : (i.setD r x).drainOn = i.drainOn := rfl
@[simp] theorem Inst.setD_acquireOn (i : Inst) (r : XReg) (x : DWord) : (i.setD r x).acquireOn = i.acquireOn := rfl
@[simp] theorem Inst.setD_hubOn (i : Inst) (r : XReg) (x : DWord) : (i.setD r x).hubOn = i.hubOn := rfl
@[simp] theorem Inst.setD_waitOn (i : Inst) (r : XReg) (x : DWord) : (i.setD r x).waitOn = i.waitOn := rfl
@[simp] theorem Inst.setD_pageWait (i : Inst) (r : XReg) (x : DWord) : (i.setD r x).pageWait = i.pageWait := rfl
@[simp] theorem Inst.setD_sinceSafe (i : Inst) (r : XReg) (x : DWord) : (i.setD r x).sinceSafe = i.sinceSafe := rfl
@[simp] theorem Inst.setD_sincePre (i : Inst) (r : XReg) (x : DWord) : (i.setD r x).sincePre = i.sincePre := rfl
@[simp] theorem Inst.setD_stopped (i : Inst) (r : XReg) (x : DWord) : (i.setD r x).stopped = i.stopped := rfl
@[simp] theorem Inst.setD_fromFault (i : Inst) (r : XReg) (x : DWord) : (i.setD r x).fromFault = i.fromFault := rfl
@[simp] theorem Inst.setD_inum (i : Inst) (r : XReg) (x : DWord) : (i.setD r x).inum = i.inum := rfl
@[simp] theorem Inst.setD_cause (i : Inst) (r : XReg) (x : DWord) : (i.setD r x).cause = i.cause := rfl
@[simp] theorem Inst.setD_edge (i : Inst) (r : XReg) (x : DWord) : (i.setD r x).edge = i.edge := rfl
@[simp] theorem Inst.setD_fullOn (i : Inst) (r : XReg) (x : DWord) : (i.setD r x).fullOn = i.fullOn := rfl
@[simp] theorem Inst.setD_bad (i : Inst) (r : XReg) (x : DWord) : (i.setD r x).bad = i.bad := rfl

@[simp] theorem Inst.setQ_iid (i : Inst) (r : XReg) (x : Word) : (i.setQ r x).iid = i.iid := rfl
@[simp] theorem Inst.setQ_ctx (i : Inst) (r : XReg) (x : Word) : (i.setQ r x).ctx = i.ctx := rfl
@[simp] theorem Inst.setQ_lcore (i : Inst) (r : XReg) (x : Word) : (i.setQ r x).lcore = i.lcore := rfl
@[simp] theorem Inst.setQ_gen (i : Inst) (r : XReg) (x : Word) : (i.setQ r x).gen = i.gen := rfl
@[simp] theorem Inst.setQ_hidx (i : Inst) (r : XReg) (x : Word) : (i.setQ r x).hidx = i.hidx := rfl
@[simp] theorem Inst.setQ_tag (i : Inst) (r : XReg) (x : Word) : (i.setQ r x).tag = i.tag := rfl
@[simp] theorem Inst.setQ_hdr (i : Inst) (r : XReg) (x : Word) : (i.setQ r x).hdr = i.hdr := rfl
@[simp] theorem Inst.setQ_hbase (i : Inst) (r : XReg) (x : Word) : (i.setQ r x).hbase = i.hbase := rfl
@[simp] theorem Inst.setQ_pc (i : Inst) (r : XReg) (x : Word) : (i.setQ r x).pc = i.pc := rfl
@[simp] theorem Inst.setQ_g (i : Inst) (r : XReg) (x : Word) : (i.setQ r x).g = i.g := rfl
@[simp] theorem Inst.setQ_v (i : Inst) (r : XReg) (x : Word) : (i.setQ r x).v = i.v := rfl
@[simp] theorem Inst.setQ_k (i : Inst) (r : XReg) (x : Word) : (i.setQ r x).k = i.k := rfl
@[simp] theorem Inst.setQ_m (i : Inst) (r : XReg) (x : Word) : (i.setQ r x).m = i.m := rfl
@[simp] theorem Inst.setQ_d (i : Inst) (r : XReg) (x : Word) : (i.setQ r x).d = i.d := rfl
@[simp] theorem Inst.setQ_link (i : Inst) (r : XReg) (x : Word) : (i.setQ r x).link = i.link := rfl
@[simp] theorem Inst.setQ_prio (i : Inst) (r : XReg) (x : Word) : (i.setQ r x).prio = i.prio := rfl
@[simp] theorem Inst.setQ_join (i : Inst) (r : XReg) (x : Word) : (i.setQ r x).join = i.join := rfl
@[simp] theorem Inst.setQ_reply (i : Inst) (r : XReg) (x : Word) : (i.setQ r x).reply = i.reply := rfl
@[simp] theorem Inst.setQ_rsafe (i : Inst) (r : XReg) (x : Word) : (i.setQ r x).rsafe = i.rsafe := rfl
@[simp] theorem Inst.setQ_flags (i : Inst) (r : XReg) (x : Word) : (i.setQ r x).flags = i.flags := rfl
@[simp] theorem Inst.setQ_tail (i : Inst) (r : XReg) (x : Word) : (i.setQ r x).tail = i.tail := rfl
@[simp] theorem Inst.setQ_heldPrio (i : Inst) (r : XReg) (x : Word) : (i.setQ r x).heldPrio = i.heldPrio := rfl
@[simp] theorem Inst.setQ_scale (i : Inst) (r : XReg) (x : Word) : (i.setQ r x).scale = i.scale := rfl
@[simp] theorem Inst.setQ_pend (i : Inst) (r : XReg) (x : Word) : (i.setQ r x).pend = i.pend := rfl
@[simp] theorem Inst.setQ_vpend (i : Inst) (r : XReg) (x : Word) : (i.setQ r x).vpend = i.vpend := rfl
@[simp] theorem Inst.setQ_fenceOn (i : Inst) (r : XReg) (x : Word) : (i.setQ r x).fenceOn = i.fenceOn := rfl
@[simp] theorem Inst.setQ_drainOn (i : Inst) (r : XReg) (x : Word) : (i.setQ r x).drainOn = i.drainOn := rfl
@[simp] theorem Inst.setQ_acquireOn (i : Inst) (r : XReg) (x : Word) : (i.setQ r x).acquireOn = i.acquireOn := rfl
@[simp] theorem Inst.setQ_hubOn (i : Inst) (r : XReg) (x : Word) : (i.setQ r x).hubOn = i.hubOn := rfl
@[simp] theorem Inst.setQ_waitOn (i : Inst) (r : XReg) (x : Word) : (i.setQ r x).waitOn = i.waitOn := rfl
@[simp] theorem Inst.setQ_pageWait (i : Inst) (r : XReg) (x : Word) : (i.setQ r x).pageWait = i.pageWait := rfl
@[simp] theorem Inst.setQ_sinceSafe (i : Inst) (r : XReg) (x : Word) : (i.setQ r x).sinceSafe = i.sinceSafe := rfl
@[simp] theorem Inst.setQ_sincePre (i : Inst) (r : XReg) (x : Word) : (i.setQ r x).sincePre = i.sincePre := rfl
@[simp] theorem Inst.setQ_stopped (i : Inst) (r : XReg) (x : Word) : (i.setQ r x).stopped = i.stopped := rfl
@[simp] theorem Inst.setQ_fromFault (i : Inst) (r : XReg) (x : Word) : (i.setQ r x).fromFault = i.fromFault := rfl
@[simp] theorem Inst.setQ_inum (i : Inst) (r : XReg) (x : Word) : (i.setQ r x).inum = i.inum := rfl
@[simp] theorem Inst.setQ_cause (i : Inst) (r : XReg) (x : Word) : (i.setQ r x).cause = i.cause := rfl
@[simp] theorem Inst.setQ_edge (i : Inst) (r : XReg) (x : Word) : (i.setQ r x).edge = i.edge := rfl
@[simp] theorem Inst.setQ_fullOn (i : Inst) (r : XReg) (x : Word) : (i.setQ r x).fullOn = i.fullOn := rfl
@[simp] theorem Inst.setQ_bad (i : Inst) (r : XReg) (x : Word) : (i.setQ r x).bad = i.bad := rfl

end Sys2Proof.Machine
end

