-- ==== Sys2Proof/Laws/Ops.lean ====
section
/-! SUPPORT. What each shared operation does, said once: the issuing slot, the end of a word, faults, and what the parts
of the machine that a word does not name keep. -/

namespace Sys2Proof.Machine

open Sys2Proof

/-! The issuing slot. -/

theorem State.onInst_eq {s : State} {i : Inst} (h : s.Issuing i) (f : Inst → State → Out1) :
    s.onInst f = f i.counted (s.counted i) := by
  unfold State.Issuing at h
  simp only [State.onInst, h]
  rfl

theorem State.onFit_eq {s : State} {i : Inst} {x : Instr} (h : s.Issues i x) (f : Inst → State → Out1) :
    s.onFit (uses x) f = f i.counted (s.counted i) := by
  have h2 : i.counted.hdr.fits (uses x) = true := h.2
  simp [State.onFit, State.onInst_eq h.1, h2]

/-- A word whose registers do not lie within the footprint raises the register-footprint fault (01 R13). -/
theorem State.onFit_misfit {s : State} {i : Inst} {x : Instr} (h : s.Issuing i) (hf : i.hdr.fits (uses x) = false)
    (f : Inst → State → Out1) :
    s.onFit (uses x) f = (s.counted i).raise i.counted fFootprint 0 ((s.counted i).wordAt i.counted) := by
  have h2 : i.counted.hdr.fits (uses x) = false := hf
  simp [State.onFit, State.onInst_eq h, h2]

@[simp] theorem Inst.counted_readG (i : Inst) (r : GReg) : i.counted.readG r = i.readG r := rfl
@[simp] theorem Inst.counted_readV (i : Inst) (r : VReg) : i.counted.readV r = i.readV r := rfl
@[simp] theorem Inst.counted_readK (i : Inst) (r : KReg) : i.counted.readK r = i.readK r := rfl
@[simp] theorem Inst.counted_readM (i : Inst) (r : XReg) : i.counted.readM r = i.readM r := rfl
@[simp] theorem Inst.counted_readD (i : Inst) (r : XReg) : i.counted.readD r = i.readD r := rfl
@[simp] theorem Inst.counted_readQ (i : Inst) (r : XReg) : i.counted.readQ r = i.readQ r := rfl
@[simp] theorem Inst.counted_ctx (i : Inst) : i.counted.ctx = i.ctx := rfl
@[simp] theorem Inst.counted_lcore (i : Inst) : i.counted.lcore = i.lcore := rfl
@[simp] theorem Inst.counted_pc (i : Inst) : i.counted.pc = i.pc := rfl
@[simp] theorem Inst.counted_hbase (i : Inst) : i.counted.hbase = i.hbase := rfl
@[simp] theorem Inst.counted_hdr (i : Inst) : i.counted.hdr = i.hdr := rfl
@[simp] theorem Inst.counted_link (i : Inst) : i.counted.link = i.link := rfl
@[simp] theorem Inst.counted_flags (i : Inst) : i.counted.flags = i.flags := rfl
@[simp] theorem Inst.counted_status (i : Inst) : i.counted.status = i.status := rfl
@[simp] theorem Inst.counted_rsafe (i : Inst) : i.counted.rsafe = i.rsafe := rfl
@[simp] theorem Inst.counted_inBounds (i : Inst) (a : Word) : i.counted.inBounds a = i.inBounds a := rfl

@[simp] theorem State.count_mem (s : State) (d c k n : Nat) : (s.count d c k n).mem = s.mem := by
  unfold State.count; split <;> rfl
@[simp] theorem State.count_cores (s : State) (d c k n : Nat) : (s.count d c k n).cores = s.cores := by
  unfold State.count; split <;> rfl
@[simp] theorem State.count_ctxs (s : State) (d c k n : Nat) : (s.count d c k n).ctxs = s.ctxs := by
  unfold State.count; split <;> rfl
@[simp] theorem State.count_curP (s : State) (d c k n : Nat) : (s.count d c k n).curP = s.curP := by
  unfold State.count; split <;> rfl
@[simp] theorem State.count_curS (s : State) (d c k n : Nat) : (s.count d c k n).curS = s.curS := by
  unfold State.count; split <;> rfl
@[simp] theorem State.count_flights (s : State) (d c k n : Nat) : (s.count d c k n).flights = s.flights := by
  unfold State.count; split <;> rfl
@[simp] theorem State.count_quads (s : State) (d c k n : Nat) : (s.count d c k n).quads = s.quads := by
  unfold State.count; split <;> rfl
@[simp] theorem State.count_hub (s : State) (d c k n : Nat) : (s.count d c k n).hub = s.hub := by
  unfold State.count; split <;> rfl
@[simp] theorem State.count_ports (s : State) (d c k n : Nat) : (s.count d c k n).ports = s.ports := by
  unfold State.count; split <;> rfl
@[simp] theorem State.count_links (s : State) (d c k n : Nat) : (s.count d c k n).links = s.links := by
  unfold State.count; split <;> rfl
@[simp] theorem State.count_lanes (s : State) (d c k n : Nat) : (s.count d c k n).lanes = s.lanes := by
  unfold State.count; split <;> rfl
@[simp] theorem State.count_signals (s : State) (d c k n : Nat) : (s.count d c k n).signals = s.signals := by
  unfold State.count; split <;> rfl
@[simp] theorem State.count_poison (s : State) (d c k n : Nat) : (s.count d c k n).poison = s.poison := by
  unfold State.count; split <;> rfl
@[simp] theorem State.count_outbox (s : State) (d c k n : Nat) : (s.count d c k n).outbox = s.outbox := by
  unfold State.count; split <;> rfl
@[simp] theorem State.count_clock (s : State) (d c k n : Nat) : (s.count d c k n).clock = s.clock := by
  unfold State.count; split <;> rfl
@[simp] theorem State.count_power (s : State) (d c k n : Nat) : (s.count d c k n).power = s.power := by
  unfold State.count; split <;> rfl
@[simp] theorem State.count_nextId (s : State) (d c k n : Nat) : (s.count d c k n).nextId = s.nextId := by
  unfold State.count; split <;> rfl
@[simp] theorem State.count_freeCtr (s : State) (d c k n : Nat) : (s.count d c k n).freeCtr = s.freeCtr := by
  unfold State.count; split <;> rfl
@[simp] theorem State.count_core (s : State) (d c k n p : Nat) : (s.count d c k n).core p = s.core p := by
  simp [State.core]
@[simp] theorem State.count_ctx (s : State) (d c k n j : Nat) : (s.count d c k n).ctx j = s.ctx j := by
  simp [State.ctx]
@[simp] theorem State.count_quad (s : State) (d c k n j : Nat) : (s.count d c k n).quad j = s.quad j := by
  simp [State.quad]

@[simp] theorem State.counted_mem (s : State) (i : Inst) : (s.counted i).mem = s.mem := by simp [State.counted]
@[simp] theorem State.counted_ctxs (s : State) (i : Inst) : (s.counted i).ctxs = s.ctxs := by simp [State.counted]
@[simp] theorem State.counted_ctx (s : State) (i : Inst) (c : Nat) : (s.counted i).ctx c = s.ctx c := by
  simp [State.ctx]
@[simp] theorem State.counted_lc (s : State) (i : Inst) (c l : Nat) : (s.counted i).lc c l = s.lc c l := by
  simp [State.lc]
@[simp] theorem State.counted_curP (s : State) (i : Inst) : (s.counted i).curP = s.curP := by simp [State.counted]
@[simp] theorem State.counted_curS (s : State) (i : Inst) : (s.counted i).curS = s.curS := by simp [State.counted]
@[simp] theorem State.counted_flights (s : State) (i : Inst) : (s.counted i).flights = s.flights := by
  simp [State.counted]
@[simp] theorem State.counted_quads (s : State) (i : Inst) : (s.counted i).quads = s.quads := by simp [State.counted]
@[simp] theorem State.counted_hub (s : State) (i : Inst) : (s.counted i).hub = s.hub := by simp [State.counted]
@[simp] theorem State.counted_poison (s : State) (i : Inst) : (s.counted i).poison = s.poison := by simp [State.counted]
@[simp] theorem State.counted_nextId (s : State) (i : Inst) : (s.counted i).nextId = s.nextId := by simp [State.counted]
@[simp] theorem State.counted_clock (s : State) (i : Inst) : (s.counted i).clock = s.clock := by simp [State.counted]
@[simp] theorem State.counted_quad (s : State) (i : Inst) (q : Nat) : (s.counted i).quad q = s.quad q := by
  simp [State.quad]

/-- A word is fetched from memory alone. -/
@[simp] theorem State.counted_wordAt (s : State) (i j : Inst) : (s.counted i).wordAt j = s.wordAt j := by
  simp [State.wordAt, State.readLe]

/-- The issuing slot is one of the eight. -/
theorem State.Issuing.slot {s : State} {i : Inst} (h : s.Issuing i) : s.curS < 8 := by
  by_contra hn
  simp only [State.Issuing, State.inst?, Core.inst?] at h
  rw [Vector.getElem?_eq_none (by omega)] at h
  simp at h

/-! Raising a signal of the logic matrix (22 Table 22-3) changes nothing else. -/

@[simp] theorem State.signal_mem (s : State) (k q : Nat) : (s.signal k q).mem = s.mem := rfl
@[simp] theorem State.signal_core (s : State) (k q p : Nat) : (s.signal k q).core p = s.core p := rfl
@[simp] theorem State.signal_ctx (s : State) (k q c : Nat) : (s.signal k q).ctx c = s.ctx c := rfl
@[simp] theorem State.signal_quad (s : State) (k q j : Nat) : (s.signal k q).quad j = s.quad j := rfl
@[simp] theorem State.signal_hub (s : State) (k q : Nat) : (s.signal k q).hub = s.hub := rfl
@[simp] theorem State.signal_flights (s : State) (k q : Nat) : (s.signal k q).flights = s.flights := rfl

/-- A vector that is signalled leaves memory as it is. -/
@[simp] theorem State.vector_mem (s : State) (v : Nat) : (s.vector v).mem = s.mem := by
  unfold State.vector; split <;> rfl

/-! Messages and records leave memory as it is. -/

@[simp] theorem State.launchFlight_mem (s : State) (f : Flight) : (s.launchFlight f).2.mem = s.mem := rfl
@[simp] theorem State.deliver_mem (s : State) (w : Who) (o : Nat) (m : Msg) (t : Track) (x : Nat × Nat)
    (a b : List Nat) (r : Bool) (e : Option Nat) : (s.deliver w o m t x a b r e).mem = s.mem := by
  unfold State.deliver
  repeat' (first | rfl | split)
@[simp] theorem State.nextFseq_mem (s : State) (x : Source) (c : Nat) : (s.nextFseq x c).2.mem = s.mem := by
  unfold State.nextFseq; split <;> rfl
@[simp] theorem State.record_mem (s : State) (x : Source) (c k : Nat) (a b : Bool) (r : RecInfo) :
    (s.record x c k a b r).mem = s.mem := by
  unfold State.record
  repeat' (first | rfl | simp only [State.deliver_mem, State.setCtx_mem, State.nextFseq_mem] | split)

/-- What every step of a fold keeps, the fold keeps. -/
theorem State.foldl_keeps {α β : Type} (g : State → β) (f : State → α → State) (h : ∀ s a, g (f s a) = g s) (l : List α)
    (s : State) : g (l.foldl f s) = g s := by
  induction l generalizing s with
  | nil => rfl
  | cons a l ih => rw [List.foldl_cons, ih, h]
theorem State.foldl_mem {α : Type} (f : State → α → State) (h : ∀ s a, (f s a).mem = s.mem) (l : List α) (s : State) :
    (l.foldl f s).mem = s.mem := State.foldl_keeps State.mem f h l s

/-! A write of an owner: its bytes, and nothing else of memory. -/

@[simp] theorem State.sendWatch_mem (s : State) (c l p a v n : Nat) (x : Word) :
    (s.sendWatch c l p a v n x).mem = s.mem := by
  simp [State.sendWatch]
@[simp] theorem State.sendPeerWatch_mem (s : State) (c : Nat) (w : PeerWatch) : (s.sendPeerWatch c w).mem = s.mem := by
  simp [State.sendPeerWatch]
@[simp] theorem State.fireWatches_mem (s : State) (pa n : Nat) : (s.fireWatches pa n).mem = s.mem := by
  refine (State.foldl_mem _ (fun s a => by simp) _ _).trans ?_
  refine (State.foldl_mem _ (fun s a => by simp) _ _).trans ?_
  exact State.foldl_mem _ (fun s a => by split; split <;> simp) _ _
@[simp] theorem State.ownerWrite_mem (s : State) (pa : Nat) (bs : List Byte) :
    (s.ownerWrite pa bs).mem = Memory.write s.mem pa bs := by
  unfold State.ownerWrite
  split
  · next h => simp only [List.isEmpty_iff] at h; subst h; rfl
  · simp [State.wakeWords]

@[simp] theorem leBytes_length (n v : Nat) : (leBytes n v).length = n := by
  induction n generalizing v with
  | zero => rfl
  | succ n ih => simp [leBytes, ih]

theorem State.foldl_ctxs {α : Type} (f : State → α → State) (h : ∀ s a, (f s a).ctxs = s.ctxs) (l : List α) (s : State) :
    (l.foldl f s).ctxs = s.ctxs := State.foldl_keeps State.ctxs f h l s
@[simp] theorem State.deliver_ctxs (s : State) (w : Who) (o : Nat) (m : Msg) (t : Track) (x : Nat × Nat)
    (a b : List Nat) (r : Bool) (e : Option Nat) : (s.deliver w o m t x a b r e).ctxs = s.ctxs := by
  unfold State.deliver
  repeat' (first | rfl | split)
@[simp] theorem State.sendWatch_ctxs (s : State) (c l p a v n : Nat) (x : Word) :
    (s.sendWatch c l p a v n x).ctxs = s.ctxs := by
  simp [State.sendWatch]
@[simp] theorem State.sendPeerWatch_ctxs (s : State) (c : Nat) (w : PeerWatch) : (s.sendPeerWatch c w).ctxs = s.ctxs := by
  simp [State.sendPeerWatch]
theorem Tab.get_map {α β : Type} (g : α → α) (r : α → β) (hr : ∀ x, r (g x) = r x) (d : α) (t : Tab α) (k : Nat) :
    r (Tab.get d (t.map (fun e => (e.1, g e.2))) k) = r (Tab.get d t k) := by
  induction t with
  | nil => rfl
  | cons e t ih =>
    obtain ⟨n, v⟩ := e
    by_cases h : n = k <;> simp_all [Tab.get]
/-- A write fires watches, and leaves the handler tables of every context. -/
@[simp] theorem State.fireWatches_tables (s : State) (pa n k : Nat) :
    ((s.fireWatches pa n).ctx k).tables = (s.ctx k).tables := by
  have h : (s.fireWatches pa n).ctxs = s.ctxs.map (fun e => (e.1, { e.2 with
      saved := e.2.saved.map (fun v => { v with mons := v.mons.filter (fun m => !m.2.hit pa n) })
      watchers := e.2.watchers.filter (fun w => !overlap pa n w.pa 8) })) := by
    refine (State.foldl_ctxs _ (fun s a => by simp) _ _).trans ?_
    refine (State.foldl_ctxs _ (fun s a => by simp) _ _).trans ?_
    refine congrArg (List.map _) ?_
    exact State.foldl_ctxs _ (fun s a => by split; split <;> simp) _ _
  simp only [State.ctx, h]
  exact Tab.get_map (fun x : Ctx => { x with
      saved := x.saved.map (fun v => { v with mons := v.mons.filter (fun m => !m.2.hit pa n) })
      watchers := x.watchers.filter (fun w => !overlap pa n w.pa 8) }) Ctx.tables (fun _ => rfl) Ctx.reset s.ctxs k
@[simp] theorem State.ownerWrite_tables (s : State) (pa k : Nat) (bs : List Byte) :
    ((s.ownerWrite pa bs).ctx k).tables = (s.ctx k).tables := by
  unfold State.ownerWrite
  split
  · rfl
  · rw [State.fireWatches_tables]; rfl

@[simp] theorem State.deliver_poison (s : State) (w : Who) (o : Nat) (m : Msg) (t : Track) (x : Nat × Nat)
    (a b : List Nat) (r : Bool) (e : Option Nat) : (s.deliver w o m t x a b r e).poison = s.poison := by
  unfold State.deliver
  repeat' (first | rfl | split)
@[simp] theorem State.sendWatch_poison (s : State) (c l p a v n : Nat) (x : Word) :
    (s.sendWatch c l p a v n x).poison = s.poison := by
  simp [State.sendWatch]
@[simp] theorem State.sendPeerWatch_poison (s : State) (c : Nat) (w : PeerWatch) :
    (s.sendPeerWatch c w).poison = s.poison := by
  simp [State.sendPeerWatch]
@[simp] theorem State.fireWatches_poison (s : State) (pa n : Nat) : (s.fireWatches pa n).poison = s.poison := by
  refine (State.foldl_keeps State.poison _ (fun s a => by simp) _ _).trans ?_
  refine (State.foldl_keeps State.poison _ (fun s a => by simp) _ _).trans ?_
  exact State.foldl_keeps State.poison _ (fun s a => by split; split <;> simp) _ _

/-- A write clears the poison of the blocks that it covers whole, and of no block outside it (21 R353). -/
theorem State.poisonAt_ownerWrite (s : State) (pa b n : Nat) (bs : List Byte) (h : b + n ≤ pa ∨ pa + bs.length ≤ b) :
    (s.ownerWrite pa bs).poisonAt b n = s.poisonAt b n := by
  have hp : ∀ k, overlap b n (64 * k) 64 = true →
      (s.ownerWrite pa bs).poison.contains k = s.poison.contains k := by
    intro k hk
    simp only [overlap, Bool.and_eq_true, decide_eq_true_eq] at hk
    unfold State.ownerWrite
    split
    · rfl
    · have hn : (!(decide (pa ≤ 64 * k) && decide (64 * k + 64 ≤ pa + bs.length))) = true := by
        simp; omega
      simp only [State.fireWatches_poison, State.wakeWords, List.contains_eq_mem, List.mem_filter, hn, and_true]
  unfold State.poisonAt
  congr 1
  funext k
  cases hk : overlap b n (64 * k) 64 <;> simp_all

/-- The bytes that the hardware writes to a silo's control block leave every byte past it as it was (log 16). -/
theorem State.siloControl_readLe (s : State) (c lc b n : Nat) (hm : s.memOk) (hb : s.siloAt c lc + 4096 ≤ b) :
    (s.siloControl c lc).readLe b n = s.readLe b n := by
  simp only [State.siloControl, State.openBytes, State.free, State.readLe, State.ownerWrite_mem]
  rw [Memory.read_write_out _ _ _ _ hm (by simp; omega)]

/-- A handler of an image past the control block is found as before the block was written. -/
theorem State.handler?_siloControl (s : State) (c lc k gen hidx : Nat) (t : HTable) (hm : s.memOk)
    (ht : (s.ctx k).tables.get? gen = some t) (ha : s.siloAt c lc + 4096 ≤ t.image) :
    (s.siloControl c lc).handler? k gen hidx = s.handler? k gen hidx := by
  have hr : ∀ b n, t.image ≤ b → (s.siloControl c lc).readLe b n = s.readLe b n :=
    fun b n h => s.siloControl_readLe c lc b n hm (by omega)
  have hu : ((s.siloControl c lc).ctx k).tables.get? gen = some t := by
    rw [← ht]; simp only [State.siloControl, State.openBytes, State.ownerWrite_tables]; rfl
  have hp : ∀ b n, t.image ≤ b → (s.siloControl c lc).poisonAt b n = s.poisonAt b n := fun b n h => by
    simp only [State.siloControl, State.openBytes, State.free]
    rw [State.poisonAt_ownerWrite _ _ _ _ _ (.inr (by simp; omega))]
    rfl
  simp (disch := omega) only [State.handler?, State.imageBad, hu, ht, State.handlerAddr, hr, hp]
  rfl

end Sys2Proof.Machine
end

