-- ==== Sys2Proof/Laws/PerInstr.lean ====
section
/-! SUPPORT. A law of every instruction, one lemma for each constructor: an instruction has a word exactly when it is
made by one (03 R44). -/

namespace Sys2Proof.Laws.HasWord

open Sys2Proof

/-- The encoder gives a word for the instructions that words make, and for no other row. -/
def Statement (i : Instr) : Prop := (encode i).isSome = i.isWord

theorem add (d a b : GReg) : Statement (.add d a b) := rfl
theorem sub (d a b : GReg) : Statement (.sub d a b) := rfl
theorem mul (d a b : GReg) : Statement (.mul d a b) := rfl
theorem mulh (d a b : GReg) : Statement (.mulh d a b) := rfl
theorem mulhn (d a b : GReg) : Statement (.mulhn d a b) := rfl
theorem div (d a b : GReg) : Statement (.div d a b) := rfl
theorem divn (d a b : GReg) : Statement (.divn d a b) := rfl
theorem rem (d a b : GReg) : Statement (.rem d a b) := rfl
theorem remn (d a b : GReg) : Statement (.remn d a b) := rfl
theorem and (d a b : GReg) : Statement (.and d a b) := rfl
theorem or (d a b : GReg) : Statement (.or d a b) := rfl
theorem xor (d a b : GReg) : Statement (.xor d a b) := rfl
theorem andn (d a b : GReg) : Statement (.andn d a b) := rfl
theorem sll (d a b : GReg) : Statement (.sll d a b) := rfl
theorem srl (d a b : GReg) : Statement (.srl d a b) := rfl
theorem sra (d a b : GReg) : Statement (.sra d a b) := rfl
theorem rol (d a b : GReg) : Statement (.rol d a b) := rfl
theorem ror (d a b : GReg) : Statement (.ror d a b) := rfl
theorem min (d a b : GReg) : Statement (.min d a b) := rfl
theorem max (d a b : GReg) : Statement (.max d a b) := rfl
theorem minn (d a b : GReg) : Statement (.minn d a b) := rfl
theorem maxn (d a b : GReg) : Statement (.maxn d a b) := rfl
theorem adds (d a b : GReg) : Statement (.adds d a b) := rfl
theorem subs (d a b : GReg) : Statement (.subs d a b) := rfl
theorem cmpeq (d a b : GReg) : Statement (.cmpeq d a b) := rfl
theorem cmpne (d a b : GReg) : Statement (.cmpne d a b) := rfl
theorem cmplt (d a b : GReg) : Statement (.cmplt d a b) := rfl
theorem cmple (d a b : GReg) : Statement (.cmple d a b) := rfl
theorem cmpltn (d a b : GReg) : Statement (.cmpltn d a b) := rfl
theorem cmplen (d a b : GReg) : Statement (.cmplen d a b) := rfl
theorem sel (d a b c : GReg) : Statement (.sel d a b c) := rfl
theorem clz (d a : GReg) : Statement (.clz d a) := rfl
theorem ctz (d a : GReg) : Statement (.ctz d a) := rfl
theorem popc (d a : GReg) : Statement (.popc d a) := rfl
theorem brev (d a : GReg) : Statement (.brev d a) := rfl
theorem bswap (d a : GReg) : Statement (.bswap d a) := rfl
theorem bext (d a : GReg) (pos wm1 : BitVec 6) : Statement (.bext d a pos wm1) := rfl
theorem bextz (d a : GReg) (pos wm1 : BitVec 6) : Statement (.bextz d a pos wm1) := rfl
theorem bins (d a : GReg) (pos wm1 : BitVec 6) : Statement (.bins d a pos wm1) := rfl
theorem crcc8 (d a b : GReg) : Statement (.crcc8 d a b) := rfl
theorem crcc16 (d a b : GReg) : Statement (.crcc16 d a b) := rfl
theorem crcc32 (d a b : GReg) : Statement (.crcc32 d a b) := rfl
theorem crcc64 (d a b : GReg) : Statement (.crcc64 d a b) := rfl
theorem rng (d a b : GReg) : Statement (.rng d a b) := rfl
theorem rngf (d a b : GReg) : Statement (.rngf d a b) := rfl
theorem addi (d a : GReg) (imm : BitVec 32) : Statement (.addi d a imm) := rfl
theorem andi (d a : GReg) (imm : BitVec 32) : Statement (.andi d a imm) := rfl
theorem ori (d a : GReg) (imm : BitVec 32) : Statement (.ori d a imm) := rfl
theorem xori (d a : GReg) (imm : BitVec 32) : Statement (.xori d a imm) := rfl
theorem slli (d a : GReg) (sh : BitVec 6) : Statement (.slli d a sh) := rfl
theorem srli (d a : GReg) (sh : BitVec 6) : Statement (.srli d a sh) := rfl
theorem srai (d a : GReg) (sh : BitVec 6) : Statement (.srai d a sh) := rfl
theorem muli (d a : GReg) (imm : BitVec 32) : Statement (.muli d a imm) := rfl
theorem cmpeqi (d a : GReg) (imm : BitVec 32) : Statement (.cmpeqi d a imm) := rfl
theorem cmplti (d a : GReg) (imm : BitVec 32) : Statement (.cmplti d a imm) := rfl
theorem cmpltni (d a : GReg) (imm : BitVec 32) : Statement (.cmpltni d a imm) := rfl
theorem mini (d a : GReg) (imm : BitVec 32) : Statement (.mini d a imm) := rfl
theorem maxi (d a : GReg) (imm : BitVec 32) : Statement (.maxi d a imm) := rfl
theorem li (d : GReg) (imm : BitVec 32) : Statement (.li d imm) := rfl
theorem lih (d : GReg) (imm : BitVec 32) : Statement (.lih d imm) := rfl
theorem mfm (d : GReg) (a : XReg) : Statement (.mfm d a) := rfl
theorem mfl (d : GReg) : Statement (.mfl d) := rfl
theorem mfq (d : GReg) (a : XReg) : Statement (.mfq d a) := rfl
theorem la (d a : GReg) (imm : BitVec 32) : Statement (.la d a imm) := rfl
theorem idx (d a b : GReg) (sh : BitVec 6) : Statement (.idx d a b sh) := rfl
theorem br (imm : BitVec 32) : Statement (.br imm) := rfl
theorem beq (a b : GReg) (imm : BitVec 32) : Statement (.beq a b imm) := rfl
theorem bne (a b : GReg) (imm : BitVec 32) : Statement (.bne a b imm) := rfl
theorem blt (a b : GReg) (imm : BitVec 32) : Statement (.blt a b imm) := rfl
theorem bge (a b : GReg) (imm : BitVec 32) : Statement (.bge a b imm) := rfl
theorem bltn (a b : GReg) (imm : BitVec 32) : Statement (.bltn a b imm) := rfl
theorem bgen (a b : GReg) (imm : BitVec 32) : Statement (.bgen a b imm) := rfl
theorem jal (imm : BitVec 32) : Statement (.jal imm) := rfl
theorem jr (a : GReg) : Statement (.jr a) := rfl
theorem ret : Statement (.ret) := rfl
theorem loop (a : GReg) (level : BitVec 1) (imm : BitVec 32) : Statement (.loop a level imm) := rfl
theorem chunk (d : GReg) (n : BitVec 4) : Statement (.chunk d n) := rfl
theorem chunkUnitRequest (q : Nat) : Statement (.chunkUnitRequest q) := rfl
theorem endI : Statement (.endI) := rfl
theorem yieldI : Statement (.yieldI) := rfl
theorem trap (a : GReg) (code : BitVec 16) : Statement (.trap a code) := rfl
theorem bkpt (a : GReg) (code : BitVec 16) : Statement (.bkpt a code) := rfl
theorem trmark (a : GReg) (code : BitVec 16) : Statement (.trmark a code) := rfl
theorem srd (d : GReg) (sreg : BitVec 16) : Statement (.srd d sreg) := rfl
theorem swr (sreg : BitVec 16) (a : GReg) : Statement (.swr sreg a) := rfl
theorem sw1c (sreg : BitVec 16) (a : GReg) : Statement (.sw1c sreg a) := rfl
theorem cntrd (d : GReg) (n : BitVec 16) : Statement (.cntrd d n) := rfl
theorem ld8 (d a : GReg) (ord : Option Scope) (imm : BitVec 32) : Statement (.ld8 d a ord imm) := rfl
theorem ld16 (d a : GReg) (ord : Option Scope) (imm : BitVec 32) : Statement (.ld16 d a ord imm) := rfl
theorem ld32 (d a : GReg) (ord : Option Scope) (imm : BitVec 32) : Statement (.ld32 d a ord imm) := rfl
theorem ld64 (d a : GReg) (ord : Option Scope) (imm : BitVec 32) : Statement (.ld64 d a ord imm) := rfl
theorem ldz8 (d a : GReg) (ord : Option Scope) (imm : BitVec 32) : Statement (.ldz8 d a ord imm) := rfl
theorem ldz16 (d a : GReg) (ord : Option Scope) (imm : BitVec 32) : Statement (.ldz16 d a ord imm) := rfl
theorem ldz32 (d a : GReg) (ord : Option Scope) (imm : BitVec 32) : Statement (.ldz32 d a ord imm) := rfl
theorem st8 (a b : GReg) (ord : Option Scope) (imm : BitVec 32) : Statement (.st8 a b ord imm) := rfl
theorem st16 (a b : GReg) (ord : Option Scope) (imm : BitVec 32) : Statement (.st16 a b ord imm) := rfl
theorem st32 (a b : GReg) (ord : Option Scope) (imm : BitVec 32) : Statement (.st32 a b ord imm) := rfl
theorem st64 (a b : GReg) (ord : Option Scope) (imm : BitVec 32) : Statement (.st64 a b ord imm) := rfl
theorem vld (d : VReg) (a : GReg) (ord : Option Scope) (imm : BitVec 32) : Statement (.vld d a ord imm) := rfl
theorem vst (a : GReg) (b : VReg) (ord : Option Scope) (imm : BitVec 32) : Statement (.vst a b ord imm) := rfl
theorem get (d a b : GReg) (size : AccSize) (imm : BitVec 32) : Statement (.get d a b size imm) := rfl
theorem put (d a b : GReg) (size : AccSize) (ord : Option Scope) (imm : BitVec 32) : Statement (.put d a b size ord imm) := rfl
theorem aadd (d a b : GReg) (wide : Bool) (ord : Option Scope) (imm : BitVec 32) : Statement (.aadd d a b wide ord imm) := rfl
theorem afadd (d a b : GReg) (ord : Option Scope) (imm : BitVec 32) : Statement (.afadd d a b ord imm) := rfl
theorem amin (d a b : GReg) (wide : Bool) (ord : Option Scope) (imm : BitVec 32) : Statement (.amin d a b wide ord imm) := rfl
theorem amax (d a b : GReg) (wide : Bool) (ord : Option Scope) (imm : BitVec 32) : Statement (.amax d a b wide ord imm) := rfl
theorem aminn (d a b : GReg) (wide : Bool) (ord : Option Scope) (imm : BitVec 32) : Statement (.aminn d a b wide ord imm) := rfl
theorem amaxn (d a b : GReg) (wide : Bool) (ord : Option Scope) (imm : BitVec 32) : Statement (.amaxn d a b wide ord imm) := rfl
theorem aand (d a b : GReg) (wide : Bool) (ord : Option Scope) (imm : BitVec 32) : Statement (.aand d a b wide ord imm) := rfl
theorem aor (d a b : GReg) (wide : Bool) (ord : Option Scope) (imm : BitVec 32) : Statement (.aor d a b wide ord imm) := rfl
theorem axor (d a b : GReg) (wide : Bool) (ord : Option Scope) (imm : BitVec 32) : Statement (.axor d a b wide ord imm) := rfl
theorem aswap (d a b : GReg) (wide : Bool) (ord : Option Scope) (imm : BitVec 32) : Statement (.aswap d a b wide ord imm) := rfl
theorem acas (d a b : GReg) (wide : Bool) (ord : Option Scope) (imm : BitVec 32) : Statement (.acas d a b wide ord imm) := rfl
theorem aclaim (d a b : GReg) (wide : Bool) (ord : Option Scope) (imm : BitVec 32) : Statement (.aclaim d a b wide ord imm) := rfl
theorem fence (scope : Scope) : Statement (.fence scope) := rfl
theorem xfence (p1 p2 : Path) : Statement (.xfence p1 p2) := rfl
theorem drain (p : Path) (a : GReg) : Statement (.drain p a) := rfl
theorem barrive (a b c : GReg) (hidx : BitVec 12) (scope : Scope) (n : BitVec 4) : Statement (.barrive a b c hidx scope n) := rfl
theorem watchRegister (d a b c : GReg) (hidx : BitVec 12) : Statement (.watchRegister d a b c hidx) := rfl
theorem watchCancel (d a b c : GReg) (hidx : BitVec 12) : Statement (.watchCancel d a b c hidx) := rfl
theorem send (d a b c : GReg) (hidx : BitVec 12) (norel : Bool) : Statement (.send d a b c hidx norel) := rfl
theorem reply (a b c : GReg) (norel : Bool) : Statement (.reply a b c norel) := rfl
theorem sendm (d a b c : GReg) (hidx : BitVec 12) (norel : Bool) (mcnt : BitVec 7) : Statement (.sendm d a b c hidx norel mcnt) := rfl
theorem post (a b : GReg) (norel : Bool) : Statement (.post a b norel) := rfl
theorem msgld8 (d a : GReg) (imm : BitVec 32) : Statement (.msgld8 d a imm) := rfl
theorem msgld16 (d a : GReg) (imm : BitVec 32) : Statement (.msgld16 d a imm) := rfl
theorem msgld32 (d a : GReg) (imm : BitVec 32) : Statement (.msgld32 d a imm) := rfl
theorem msgld64 (d a : GReg) (imm : BitVec 32) : Statement (.msgld64 d a imm) := rfl
theorem tagnew (d : GReg) (n : BitVec 4) : Statement (.tagnew d n) := rfl
theorem tagfree (a : GReg) (n : BitVec 4) : Statement (.tagfree a n) := rfl
theorem tagpark (d : GReg) (n : BitVec 4) : Statement (.tagpark d n) := rfl
theorem arm (d a b c : GReg) (hidx : BitVec 12) (act : Bool) (prio : BitVec 2) : Statement (.arm d a b c hidx act prio) := rfl
theorem qpush (d : GReg) (a : XReg) (b : GReg) : Statement (.qpush d a b) := rfl
theorem qpop (d : GReg) (a : XReg) : Statement (.qpop d a) := rfl
theorem qwait (d : GReg) (a : XReg) (b : GReg) : Statement (.qwait d a b) := rfl
theorem qadv (d : GReg) (a : XReg) (b : GReg) : Statement (.qadv d a b) := rfl
theorem wput (a b c : GReg) : Statement (.wput a b c) := rfl
theorem wtakeFirst (d a : GReg) : Statement (.wtakeFirst d a) := rfl
theorem wtakeStatus (d a : GReg) : Statement (.wtakeStatus d a) := rfl
theorem wtakeEmpty (d a : GReg) : Statement (.wtakeEmpty d a) := rfl
theorem jrec (d a b c : GReg) : Statement (.jrec d a b c) := rfl
theorem jemit (d a b c : GReg) : Statement (.jemit d a b c) := rfl
theorem jckpt (d a b : GReg) : Statement (.jckpt d a b) := rfl
theorem jtruncCheckpoint (d a : GReg) : Statement (.jtruncCheckpoint d a) := rfl
theorem jtruncClose (d a : GReg) : Statement (.jtruncClose d a) := rfl
theorem vadd (d a b : VReg) (m : VMask) (f : Fmt) (r : Rnd) : Statement (.vadd d a b m f r) := rfl
theorem vsub (d a b : VReg) (m : VMask) (f : Fmt) (r : Rnd) : Statement (.vsub d a b m f r) := rfl
theorem vmul (d a b : VReg) (m : VMask) (f : Fmt) (r : Rnd) : Statement (.vmul d a b m f r) := rfl
theorem vdiv (d a b : VReg) (m : VMask) (f : Fmt) (r : Rnd) : Statement (.vdiv d a b m f r) := rfl
theorem vmin (d a b : VReg) (m : VMask) (f : Fmt) (r : Rnd) : Statement (.vmin d a b m f r) := rfl
theorem vmax (d a b : VReg) (m : VMask) (f : Fmt) (r : Rnd) : Statement (.vmax d a b m f r) := rfl
theorem vabs (d a : VReg) (m : VMask) (f : Fmt) (r : Rnd) : Statement (.vabs d a m f r) := rfl
theorem vneg (d a : VReg) (m : VMask) (f : Fmt) (r : Rnd) : Statement (.vneg d a m f r) := rfl
theorem vsqrt (d a : VReg) (m : VMask) (f : Fmt) (r : Rnd) : Statement (.vsqrt d a m f r) := rfl
theorem vand (d a b : VReg) (m : VMask) : Statement (.vand d a b m) := rfl
theorem vor (d a b : VReg) (m : VMask) : Statement (.vor d a b m) := rfl
theorem vxor (d a b : VReg) (m : VMask) : Statement (.vxor d a b m) := rfl
theorem vsll (d a b : VReg) (m : VMask) (f : Fmt) : Statement (.vsll d a b m f) := rfl
theorem vsrl (d a b : VReg) (m : VMask) (f : Fmt) : Statement (.vsrl d a b m f) := rfl
theorem vsra (d a b : VReg) (m : VMask) (f : Fmt) : Statement (.vsra d a b m f) := rfl
theorem vfma (d a b c : VReg) (m : VMask) (f : Fmt) (r : Rnd) : Statement (.vfma d a b c m f r) := rfl
theorem vfms (d a b c : VReg) (m : VMask) (f : Fmt) (r : Rnd) : Statement (.vfms d a b c m f r) := rfl
theorem vfnma (d a b c : VReg) (m : VMask) (f : Fmt) (r : Rnd) : Statement (.vfnma d a b c m f r) := rfl
theorem vfnms (d a b c : VReg) (m : VMask) (f : Fmt) (r : Rnd) : Statement (.vfnms d a b c m f r) := rfl
theorem vcmpeq (d : KReg) (a b : VReg) (m : VMask) (f : Fmt) (md : RMode) : Statement (.vcmpeq d a b m f md) := rfl
theorem vcmpne (d : KReg) (a b : VReg) (m : VMask) (f : Fmt) (md : RMode) : Statement (.vcmpne d a b m f md) := rfl
theorem vcmplt (d : KReg) (a b : VReg) (m : VMask) (f : Fmt) (md : RMode) : Statement (.vcmplt d a b m f md) := rfl
theorem vcmple (d : KReg) (a b : VReg) (m : VMask) (f : Fmt) (md : RMode) : Statement (.vcmple d a b m f md) := rfl
theorem vcmpun (d : KReg) (a b : VReg) (m : VMask) (f : Fmt) (md : RMode) : Statement (.vcmpun d a b m f md) := rfl
theorem vsel (d a b : VReg) (m : VMask) : Statement (.vsel d a b m) := rfl
theorem vperm (d a b : VReg) (m : VMask) (f : Fmt) (md : RMode) : Statement (.vperm d a b m f md) := rfl
theorem vbcast (d : VReg) (a : GReg) (m : VMask) (f : Fmt) (md : RMode) : Statement (.vbcast d a m f md) := rfl
theorem vslide (d a b c : VReg) (m : VMask) (f : Fmt) (md : RMode) : Statement (.vslide d a b c m f md) := rfl
theorem vzip (d a b : VReg) (m : VMask) (f : Fmt) (md : RMode) : Statement (.vzip d a b m f md) := rfl
theorem vunzip (d a b : VReg) (m : VMask) (f : Fmt) (md : RMode) : Statement (.vunzip d a b m f md) := rfl
theorem vins (d a : VReg) (b : GReg) (m : VMask) (f : Fmt) (md : RMode) : Statement (.vins d a b m f md) := rfl
theorem vext (d : GReg) (a : VReg) (m : VMask) (f : Fmt) (md : RMode) : Statement (.vext d a m f md) := rfl
theorem vcvt (d a : VReg) (m : VMask) (dst src : Fmt) (r : Rnd) : Statement (.vcvt d a m dst src r) := rfl
theorem quant (d a b : VReg) (m : VMask) (f : Fmt) (r : Rnd) : Statement (.quant d a b m f r) := rfl
theorem dequant (d a b : VReg) (m : VMask) (f : Fmt) (r : Rnd) : Statement (.dequant d a b m f r) := rfl
theorem dequantChannel (d b : VReg) (m : VMask) (r : Rnd) : Statement (.dequantChannel d b m r) := rfl
theorem vredadd (d a : VReg) (m : VMask) (f : Fmt) (r : Rnd) : Statement (.vredadd d a m f r) := rfl
theorem vredmin (d a : VReg) (m : VMask) (f : Fmt) (r : Rnd) : Statement (.vredmin d a m f r) := rfl
theorem vredmax (d a : VReg) (m : VMask) (f : Fmt) (r : Rnd) : Statement (.vredmax d a m f r) := rfl
theorem vscanadd (d a : VReg) (m : VMask) (f : Fmt) (r : Rnd) : Statement (.vscanadd d a m f r) := rfl
theorem vscanmin (d a : VReg) (m : VMask) (f : Fmt) (r : Rnd) : Statement (.vscanmin d a m f r) := rfl
theorem vscanmax (d a : VReg) (m : VMask) (f : Fmt) (r : Rnd) : Statement (.vscanmax d a m f r) := rfl
theorem vexp2 (d a : VReg) (m : VMask) (f : Fmt) (sat : Bool) : Statement (.vexp2 d a m f sat) := rfl
theorem vlog2 (d a : VReg) (m : VMask) (f : Fmt) (sat : Bool) : Statement (.vlog2 d a m f sat) := rfl
theorem vrcp (d a : VReg) (m : VMask) (f : Fmt) (sat : Bool) : Statement (.vrcp d a m f sat) := rfl
theorem vrsqrt (d a : VReg) (m : VMask) (f : Fmt) (sat : Bool) : Statement (.vrsqrt d a m f sat) := rfl
theorem vsin (d a : VReg) (m : VMask) (f : Fmt) (sat : Bool) : Statement (.vsin d a m f sat) := rfl
theorem vcos (d a : VReg) (m : VMask) (f : Fmt) (sat : Bool) : Statement (.vcos d a m f sat) := rfl
theorem vtanh (d a : VReg) (m : VMask) (f : Fmt) (sat : Bool) : Statement (.vtanh d a m f sat) := rfl
theorem vsigm (d a : VReg) (m : VMask) (f : Fmt) (sat : Bool) : Statement (.vsigm d a m f sat) := rfl
theorem vexp (d a : VReg) (m : VMask) (f : Fmt) (sat : Bool) : Statement (.vexp d a m f sat) := rfl
theorem vpacknz (d a b : VReg) (m : VMask) (f : Fmt) (md : RMode) : Statement (.vpacknz d a b m f md) := rfl
theorem vtopk (d a b c : VReg) (m : VMask) (md : RMode) : Statement (.vtopk d a b c m md) := rfl
theorem vargmax (d a : VReg) (m : VMask) (md : RMode) : Statement (.vargmax d a m md) := rfl
theorem kand (d a b : KReg) : Statement (.kand d a b) := rfl
theorem kor (d a b : KReg) : Statement (.kor d a b) := rfl
theorem kxor (d a b : KReg) : Statement (.kxor d a b) := rfl
theorem knot (d a : KReg) : Statement (.knot d a) := rfl
theorem kmov (d : KReg) (a : GReg) : Statement (.kmov d a) := rfl
theorem krd (d : GReg) (a : KReg) : Statement (.krd d a) := rfl
theorem kpopc (d : GReg) (a : KReg) : Statement (.kpopc d a) := rfl
theorem vectorComplete (p sl n : Nat) : Statement (.vectorComplete p sl n) := rfl
theorem dld (d : XReg) (a : GReg) (ord : Option Scope) (imm : BitVec 32) : Statement (.dld d a ord imm) := rfl
theorem opaMma (d : GReg) (a : XReg) : Statement (.opaMma d a) := rfl
theorem opaSel (d : GReg) (a : XReg) : Statement (.opaSel d a) := rfl
theorem opaSparse (d : GReg) (a : XReg) : Statement (.opaSparse d a) := rfl
theorem opaZero (d : GReg) (a : XReg) : Statement (.opaZero d a) := rfl
theorem opaDrain (d : GReg) (a : XReg) : Statement (.opaDrain d a) := rfl
theorem arrayCommandStart (q : Nat) : Statement (.arrayCommandStart q) := rfl
theorem arrayCommandComplete (q : Nat) : Statement (.arrayCommandComplete q) := rfl
theorem wbload (d : GReg) (a : XReg) : Statement (.wbload d a) := rfl
theorem wbloadComplete (q e : Nat) : Statement (.wbloadComplete q e) := rfl
theorem wbevict (d : GReg) (a : XReg) : Statement (.wbevict d a) := rfl
theorem wbpin (d : GReg) (a : XReg) : Statement (.wbpin d a) := rfl
theorem wbunpin (d : GReg) (a : XReg) : Statement (.wbunpin d a) := rfl
theorem wbEntryFree (q e : Nat) : Statement (.wbEntryFree q e) := rfl
theorem cplin (d : GReg) (a : XReg) : Statement (.cplin d a) := rfl
theorem cp2d (d : GReg) (a : XReg) : Statement (.cp2d d a) := rfl
theorem cpten (d : GReg) (a b : XReg) : Statement (.cpten d a b) := rfl
theorem copyChunk (p : Nat) : Statement (.copyChunk p) := rfl
theorem gather (d : GReg) (a b : XReg) : Statement (.gather d a b) := rfl
theorem scatter (d : GReg) (a b : XReg) : Statement (.scatter d a b) := rfl
theorem gatherElementIssue (p : Nat) : Statement (.gatherElementIssue p) := rfl
theorem gatherElementApply (id : Nat) : Statement (.gatherElementApply id) := rfl
theorem gatherComplete (p : Nat) : Statement (.gatherComplete p) := rfl
theorem eresume (d : GReg) (a : XReg) : Statement (.eresume d a) := rfl
theorem estat (d : GReg) (a : XReg) : Statement (.estat d a) := rfl
theorem spload (d : GReg) (a : XReg) : Statement (.spload d a) := rfl
theorem spseed (d : GReg) (a : XReg) : Statement (.spseed d a) := rfl
theorem springServe (q : Nat) : Statement (.springServe q) := rfl
theorem budgetSafePoint (p sl : Nat) : Statement (.budgetSafePoint p sl) := rfl
theorem forcedSafePoint (p sl : Nat) : Statement (.forcedSafePoint p sl) := rfl
theorem loadReturn (id : Nat) : Statement (.loadReturn id) := rfl
theorem ackReturn (id : Nat) : Statement (.ackReturn id) := rfl
theorem errorReply (id : Nat) : Statement (.errorReply id) := rfl
theorem pageFaultReply (id : Nat) : Statement (.pageFaultReply id) := rfl
theorem orderQueueRelease (id : Nat) : Statement (.orderQueueRelease id) := rfl
theorem ownerApply (id : Nat) : Statement (.ownerApply id) := rfl
theorem ringOpApply (id : Nat) : Statement (.ringOpApply id) := rfl
theorem ringReply (id : Nat) : Statement (.ringReply id) := rfl
theorem sendAcceptAck (id : Nat) : Statement (.sendAcceptAck id) := rfl
theorem multicastMemberAck (id : Nat) : Statement (.multicastMemberAck id) := rfl
theorem barrierArrival (id : Nat) : Statement (.barrierArrival id) := rfl
theorem balanceUpdate (die : Nat) : Statement (.balanceUpdate die) := rfl
theorem weirInsert (id : Nat) : Statement (.weirInsert id) := rfl
theorem arrivalAccept (id : Nat) : Statement (.arrivalAccept id) := rfl
theorem replyDelivery (id : Nat) : Statement (.replyDelivery id) := rfl
theorem sheafArrival (id : Nat) : Statement (.sheafArrival id) := rfl
theorem sheafListReadback (c lc : Nat) : Statement (.sheafListReadback c lc) := rfl
theorem siloRefill (c lc pr : Nat) : Statement (.siloRefill c lc pr) := rfl
theorem counterEvent (p : Nat) : Statement (.counterEvent p) := rfl
theorem continuationWake (c lc rec : Nat) : Statement (.continuationWake c lc rec) := rfl
theorem dispatch (p : Nat) : Statement (.dispatch p) := rfl
theorem recordDispatch (die c : Nat) : Statement (.recordDispatch die c) := rfl
theorem tlbSliceLookup (id : Nat) : Statement (.tlbSliceLookup id) := rfl
theorem pageWalkRead (id : Nat) : Statement (.pageWalkRead id) := rfl
theorem pageFaultRewalk (id : Nat) : Statement (.pageFaultRewalk id) := rfl
theorem tlbRetry (id : Nat) : Statement (.tlbRetry id) := rfl
theorem tlbInvalidate (die slice : Nat) : Statement (.tlbInvalidate die slice) := rfl
theorem d2dFrameReceive (link : Nat) (crcOk : Bool) : Statement (.d2dFrameReceive link crcOk) := rfl
theorem linkHalfRate (link : Nat) : Statement (.linkHalfRate link) := rfl
theorem druntasyFrameReceive (port : Nat) (f : Frame) : Statement (.druntasyFrameReceive port f) := rfl
theorem heartbeatFrame (port : Nat) : Statement (.heartbeatFrame port) := rfl
theorem portDown (port : Nat) : Statement (.portDown port) := rfl
theorem remoteTableEntry (id : Nat) : Statement (.remoteTableEntry id) := rfl
theorem rekey (port : Nat) : Statement (.rekey port) := rfl
theorem bankFcntLimit (port : Nat) : Statement (.bankFcntLimit port) := rfl
theorem getVersion (port : Nat) : Statement (.getVersion port) := rfl
theorem getCapabilities (port : Nat) : Statement (.getCapabilities port) := rfl
theorem negotiateAlgorithms (port : Nat) : Statement (.negotiateAlgorithms port) := rfl
theorem getDigests (port : Nat) : Statement (.getDigests port) := rfl
theorem getCertificate (port : Nat) : Statement (.getCertificate port) := rfl
theorem keyExchange (port : Nat) : Statement (.keyExchange port) := rfl
theorem finish (port : Nat) : Statement (.finish port) := rfl
theorem keyUpdate (port : Nat) : Statement (.keyUpdate port) := rfl
theorem heartbeat (port : Nat) : Statement (.heartbeat port) := rfl
theorem endSession (port : Nat) : Statement (.endSession port) := rfl
theorem bankReady (port : Nat) : Statement (.bankReady port) := rfl
theorem bankRetired (port : Nat) : Statement (.bankRetired port) := rfl
theorem launch (cell : Nat) : Statement (.launch cell) := rfl
theorem rebind (cell : Nat) : Statement (.rebind cell) := rfl
theorem preempt (cell : Nat) : Statement (.preempt cell) := rfl
theorem restore (cell : Nat) : Statement (.restore cell) := rfl
theorem mailboxEnd (cell : Nat) : Statement (.mailboxEnd cell) := rfl
theorem unmap (cell : Nat) : Statement (.unmap cell) := rfl
theorem protect (cell : Nat) : Statement (.protect cell) := rfl
theorem setdbg (cell : Nat) : Statement (.setdbg cell) := rfl
theorem jconfig (cell : Nat) : Statement (.jconfig cell) := rfl
theorem roster (cell : Nat) : Statement (.roster cell) := rfl
theorem partner (cell : Nat) (answers : Bool) : Statement (.partner cell answers) := rfl
theorem lost (cell : Nat) : Statement (.lost cell) := rfl
theorem replay (cell : Nat) (held : Option (List BarnEntry)) : Statement (.replay cell held) := rfl
theorem bfree (cell : Nat) : Statement (.bfree cell) := rfl
theorem jstat (cell : Nat) : Statement (.jstat cell) := rfl
theorem health (cell : Nat) : Statement (.health cell) := rfl
theorem verify (cell : Nat) : Statement (.verify cell) := rfl
theorem geometry (cell : Nat) : Statement (.geometry cell) := rfl
theorem stmt (cell : Nat) : Statement (.stmt cell) := rfl
theorem glean (cell : Nat) : Statement (.glean cell) := rfl
theorem lmconfig (cell : Nat) : Statement (.lmconfig cell) := rfl
theorem lmread (cell : Nat) : Statement (.lmread cell) := rfl
theorem trconfig (cell : Nat) : Statement (.trconfig cell) := rfl
theorem sheaflist (cell : Nat) : Statement (.sheaflist cell) := rfl
theorem cntread (cell : Nat) : Statement (.cntread cell) := rfl
theorem mailboxInvalidCode (cell : Nat) : Statement (.mailboxInvalidCode cell) := rfl
theorem mbdoneWrite (v : Word) : Statement (.mbdoneWrite v) := rfl
theorem rxtailWrite (c : Nat) (v : Word) : Statement (.rxtailWrite c v) := rfl
theorem registerWrite (off : Nat) (bytes : List Byte) : Statement (.registerWrite off bytes) := rfl
theorem hostWindowRead (off n : Nat) : Statement (.hostWindowRead off n) := rfl
theorem hostWindowWrite (off : Nat) (bytes : List Byte) : Statement (.hostWindowWrite off bytes) := rfl
theorem hostInject (c cell : Nat) (bytes : List Byte) : Statement (.hostInject c cell bytes) := rfl
theorem hostBoundMessage (id : Nat) : Statement (.hostBoundMessage id) := rfl
theorem jrecHubApply (id : Nat) : Statement (.jrecHubApply id) := rfl
theorem emissionGate (id : Nat) : Statement (.emissionGate id) := rfl
theorem barnEntryReceive (slot : Nat) (e : BarnEntry) : Statement (.barnEntryReceive slot e) := rfl
theorem barnAck (c : Nat) (seq step : BitVec 32) (marker : Bool) : Statement (.barnAck c seq step marker) := rfl
theorem dumpComplete (c : Nat) : Statement (.dumpComplete c) := rfl
theorem patrolScrub (found : List Finding) : Statement (.patrolScrub found) := rfl
theorem quadFail (q : Nat) : Statement (.quadFail q) := rfl
theorem counterForward (die : Nat) : Statement (.counterForward die) := rfl
theorem thermalThrottle (die : Nat) (on : Bool) : Statement (.thermalThrottle die on) := rfl
theorem thermalTrip : Statement (.thermalTrip) := rfl
theorem powerOn : Statement (.powerOn) := rfl
theorem hotReset : Statement (.hotReset) := rfl
theorem functionLevelReset : Statement (.functionLevelReset) := rfl
theorem quadRouterForward (id : Nat) (way : RouteWay) : Statement (.quadRouterForward id way) := rfl
theorem logicMatrixCycle (die : Nat) (sample : List (Nat × Nat)) : Statement (.logicMatrixCycle die sample) := rfl
theorem portDownFor24Hours (port : Nat) : Statement (.portDownFor24Hours port) := rfl
theorem memoryPortFail (die port : Nat) : Statement (.memoryPortFail die port) := rfl
theorem druntasyPortUp (port : Nat) : Statement (.druntasyPortUp port) := rfl
theorem powerLoss : Statement (.powerLoss) := rfl
theorem barnReadRequest (client : Nat) : Statement (.barnReadRequest client) := rfl

end Sys2Proof.Laws.HasWord
end

