-- ==== Sys2Proof/Tests/Slice0.lean ====
section
/-! SUPPORT. Tests of the model on single steps, and for each statement with hypotheses a state and operands that meet
them. Expected words and values are those of the spec's tables and examples, named at each test. -/

namespace Sys2Proof.Tests

open Sys2Proof Sys2Proof.Machine

set_option Elab.async false

/-! States to test on. -/

def hdr0 : HHdr := { HHdr.zero with prio := 1, gcnt := 64, vcnt := 32, dcnt := 16, glive := 8, len := 16 }
def inst0 : Inst := { Inst.fresh with
  iid := 1
  hdr := hdr0
  hbase := 0x1000
  pc := 0x1008
  g := (((Vector.replicate 64 0).set 1 0x2000).set 2 5).set 3 0xFFFFFFFFFFFFFFF8 }
/-- An instance with two values in g4 and g5, a third in g6. -/
def inst3 (a b c : Word) : Inst := ((inst0.setG 4 a).setG 5 b).setG 6 c
/-- An instance with two descriptors in d3 and d4. -/
def instD (x y : Nat) : Inst :=
  { inst0 with d := ((Vector.replicate 16 0).set 3 (BitVec.ofNat 256 x)).set 4 (BitVec.ofNat 256 y) }

/-- HBM as it lies; the scratchpads, accumulators and weight buffers as they lie; HBM through a table of one level at
0x8000; HBM that may not be written. -/
def regions0 : List Region := [⟨0, 16, 1, 1, true, 1, 0, 0⟩, ⟨0x10000000000, 1024, 1, 1, true, 1, 0, 0x10000000000⟩,
  ⟨0x100000000, 4, 0, 0, true, 1, 0, 0x8000⟩, ⟨0x200000000, 1, 1, 1, false, 1, 0, 0x400000⟩]
def lc0 : CtxCore := { CtxCore.init 0 with
  callot := word64 (6 * 2 ^ 56 + 64 * 2 ^ 43 + 2 ^ 42)
  dcfg := 0xFFFFFFFFFFFFFFFF
  tgs := [(0, ⟨5, 4, 3, [5], []⟩)] }
def ctx0 : Ctx := { Ctx.reset with
  st := .running
  regions := regions0
  lcs := [(0, lc0)]
  tables := [(0, ⟨0x4000, true⟩)]
  launched := true }
def state0 : State := { State.reset with ctxs := [(0, ctx0)] }
/-- The instance in slot 0 of core 0, in a context that runs there alone. -/
def on (i : Inst) : State := { state0 with cores := [(0, Core.reset.setSlot 0 (some i))] }

theorem issues_on (i : Inst) (x : Instr) (h : i.hdr.fits (uses x) = true) : (on i).Issues i x := ⟨rfl, h⟩

def wr (m : List Host.Cell) (a n v : Nat) : List Host.Cell := Memory.write m a (leBytes n v)
/-- Word 0 of a header. -/
def hw (prio join rcl : Nat) : Nat :=
  prio * 2 ^ 58 + join * 2 ^ 54 + 20 * 2 ^ 47 + 4 * 2 ^ 41 + 2 * 2 ^ 36 + rcl * 2 ^ 34 + 5 * 2 ^ 27
/-- An image of four handlers at 0x4000: plain, of the reply class, a join of two, a join of three. -/
def mem0 : List Host.Cell :=
  let m := wr (wr (wr [] 0x4008 2 4) 0x4018 8 0x40) 0x4040 8 0x100
  let m := wr (wr (wr m 0x4048 8 0x200) 0x4050 8 0x300) 0x4058 8 0x400
  let m := wr (wr (wr (wr m 0x4100 8 (hw 2 0 0)) 0x4200 8 (hw 1 0 1)) 0x4300 8 (hw 0 2 0)) 0x4400 8 (hw 1 3 0)
  wr (wr (wr (wr m 0x4108 8 (16 * 2 ^ 32)) 0x4208 8 (16 * 2 ^ 32)) 0x4308 8 (16 * 2 ^ 32)) 0x4408 8 (16 * 2 ^ 32)
def onM (i : Inst) : State := { on i with mem := mem0 }

theorem issues_onM (i : Inst) (x : Instr) (h : i.hdr.fits (uses x) = true) : (onM i).Issues i x := ⟨rfl, h⟩

/-- The step answers a next state of which `f` holds. -/
def goes (o : Out1) (f : State → Bool) : Bool :=
  match o with
  | .next t => f t
  | _ => false
/-- A g register of the issuing slot after a step. -/
def gives (x : Instr) (i : Inst) (d : GReg) (v : Word) : Bool :=
  goes (exec x (on i)) (fun t => (t.inst? 0 0).any (fun j => j.readG d == v))
def eqb {α : Type} [DecidableEq α] (a b : α) : Bool := decide (a = b)

theorem next_of (o : Out1) (t : State) (h : goes o (fun u => eqb u t) = true) : o = .next t := by
  cases o <;> simp_all [goes, eqb]

/-! Words of the spec's tables (04 Table 04-7, 05 Table 05-8, 06, 07 Table 07-7, 08 Table 08-12, 09 Table 09-11). -/

theorem test_words_scalar : decode 0x000C108000000000 = .ok (.add 3 1 2) ∧ decode 0x1704800000000000 = .ok (.mfm 1 8)
    ∧ decode 0x1510000000002000 = .ok (.li 4 0x2000) ∧ decode 0x0728B30000000000 = .ok (.rng 10 11 12)
    ∧ decode 0x3418000000000003 = .ok (.chunk 6 3) ∧ decode 0xE008000000070000 = .ok (.srd 2 7)
    ∧ decode 0x3500000000000000 = .ok .endI := by decide +kernel
theorem test_words_memory : decode 0x4014401800000008 = .ok (.ld64 5 4 none 8) ∧ decode 0x5400014000000000 = .ok (.fence .pod)
    ∧ decode 0x5400000701000000 = .ok (.xfence .cp .ar) ∧ decode 0x5400300202000000 = .ok (.drain .gs 3) := by decide +kernel
theorem test_words_messages : decode 0x640C001800000040 = .ok (.msgld64 3 0 64) ∧ decode 0x6524000000000002 = .ok (.tagnew 9 2)
    ∧ decode 0x6600900000000002 = .ok (.tagfree 9 2) ∧ decode 0x6724000000000002 = .ok (.tagpark 9 2)
    ∧ decode 0x680420C4005C0000 = .ok (.arm 1 2 3 4 5 true 2) ∧ decode 0x6910218002000000 = .ok (.qwait 4 2 6)
    ∧ decode 0x6B0420C400000000 = .ok (.jrec 1 2 3 4) := by decide +kernel
theorem test_words_vector : decode 0x810420C400000000 = .ok (.vfma 1 2 3 4 ⟨0, false⟩ .f32 ⟨.rne, false⟩)
    ∧ decode 0x8520900003008000 = .ok (.vcvt 8 9 ⟨0, false⟩ .e4m3 .f32 ⟨.rne, true⟩)
    ∧ decode 0x8928C34000010000 = .ok (.vpacknz 10 12 13 ⟨0, false⟩ .bf16 .rne)
    ∧ decode 0x8B0C100006000000 = .ok (.kpopc 3 1) := by decide +kernel
theorem test_words_engines : decode 0xC008402800000020 = .ok (.dld 2 4 none 32) ∧ decode 0xC210500000000000 = .ok (.wbload 4 5)
    ∧ decode 0xC314100001000000 = .ok (.cp2d 5 1) ∧ decode 0xC418310000000000 = .ok (.gather 6 3 4)
    ∧ decode 0xC504000000000000 = .ok (.eresume 1 0) ∧ decode 0xC508700001000000 = .ok (.estat 2 7)
    ∧ decode 0xC60C400000000000 = .ok (.spload 3 4) := by decide +kernel
theorem test_words_refused : decode 0x3418100000000003 = .error .reserved ∧ decode 0xE008000000080000 = .error .reserved
    ∧ decode 0x800620C000000000 = .error .reserved ∧ decode 0xF000000000000000 = .error .illegal
    ∧ decode 0x550420C400564000 = .error .reserved ∧ decode 0x4014401F00000008 = .error .reserved
    ∧ decode 0x822420C002000000 = .error .reserved ∧ decode 0xC10C200000010000 = .error .reserved
    ∧ decode 0xC10C200005000000 = .error .illegal ∧ decode 0xC60C400002000000 = .error .illegal
    ∧ decode 0xC60C400001010000 = .error .reserved := by decide +kernel

/-! WellFormed: an ill-formed term for each of its checks. -/

theorem smoke_scalar_ill_formed : (Instr.bext 1 2 63 1).wellFormed = false ∧ (Instr.bextz 1 2 32 32).wellFormed = false
    ∧ (Instr.bins 1 2 1 63).wellFormed = false ∧ (Instr.srd 1 8).wellFormed = false ∧ (Instr.swr 0 1).wellFormed = false
    ∧ (Instr.sw1c 1 1).wellFormed = false ∧ (Instr.cntrd 1 0x12).wellFormed = false := by decide
theorem smoke_memory_ill_formed : (Instr.xfence .ls .ls).wellFormed = false
    ∧ (Instr.barrive 1 2 3 4 .core 1).wellFormed = false ∧ (Instr.barrive 1 2 3 4 .sys 1).wellFormed = false
    ∧ (Instr.arm 1 2 3 4 5 false 1).wellFormed = false := by decide
theorem smoke_vector_ill_formed : (Instr.vadd 1 2 3 ⟨0, false⟩ .i4 ⟨.rne, false⟩).wellFormed = false
    ∧ (Instr.vadd 1 2 3 ⟨0, false⟩ .i8 ⟨.rtz, false⟩).wellFormed = false
    ∧ (Instr.vsqrt 1 2 ⟨0, false⟩ .i8 ⟨.rne, false⟩).wellFormed = false
    ∧ (Instr.vfma 1 2 3 4 ⟨0, false⟩ .e4m3 ⟨.rne, false⟩).wellFormed = false
    ∧ (Instr.vsll 1 2 3 ⟨0, false⟩ .f32).wellFormed = false
    ∧ (Instr.vcmpeq 1 2 3 ⟨0, false⟩ .e5m2 .rne).wellFormed = false
    ∧ (Instr.vcmpun 1 2 3 ⟨0, false⟩ .n8 .rne).wellFormed = false
    ∧ (Instr.vperm 1 2 3 ⟨0, false⟩ .i4 .rne).wellFormed = false
    ∧ (Instr.vpacknz 1 2 3 ⟨0, false⟩ .f32 .rne).wellFormed = false
    ∧ (Instr.quant 1 2 3 ⟨0, false⟩ .f32 ⟨.rne, false⟩).wellFormed = false
    ∧ (Instr.vexp2 1 2 ⟨0, false⟩ .i16 true).wellFormed = false := by decide

/-! Encodings and steps. -/

theorem witness_DecodeReadsWhatEncodeWrites :
    (Instr.add 3 1 2).wellFormed = true ∧ encode (.add 3 1 2) = some 0x000C108000000000 := by decide +kernel
theorem witness_DecodedWordIsItsEncoding : decode 0x000C108000000000 = .ok (.add 3 1 2) := by decide +kernel
theorem witness_StepKeepsMemoryCanonical :
    State.reset.memOk ∧ step State.reset = .next { State.reset with clock := 1 } := ⟨rfl, rfl⟩

/-- ADD g3, g1, g2 stands at the pc; core 0 has the next turn. -/
def stateAdd : State := { on inst0 with agenda := [⟨2, .issue 0⟩], mem := wr [] 0x1008 8 0x000C108000000000 }
/-- The same, with an error in a register. -/
def stateBad (r : RegName) : State :=
  { on { inst0 with bad := [r] } with agenda := [⟨2, .issue 0⟩], mem := wr [] 0x1008 8 0x000C108000000000 }
theorem witness_StepRunsDecodedWord : stateAdd.agenda = ⟨2, .issue 0⟩ :: [] ∧ stateAdd.power = .on
    ∧ ({ stateAdd with agenda := [], clock := stateAdd.clock + 2 }).selectSlot 0 = some 0
    ∧ stateAdd.inst? 0 0 = some inst0 ∧ inst0.inBounds inst0.pc = true
    ∧ decode (word64 (stateAdd.readLe inst0.pc.toNat 8)) = .ok (.add 3 1 2) ∧ inst0.bad = []
    ∧ (stateBad (.g 2)).inst? 0 0 = some { inst0 with bad := [.g 2] } ∧ RegName.readBy (resolve inst0 (.add 3 1 2)) (.g 2) = true
    ∧ RegName.readBy (resolve inst0 (.add 3 1 2)) (.g 9) = false := by decide +kernel
/-- The same instance with its pc past the last word; with a word that no table lists; with a poisoned word; with three
g registers. -/
def instOut : Inst := { inst0 with pc := 0x1080 }
def badWordS : State := { stateAdd with mem := wr [] 0x1008 8 0x40000000 }
def poisonedS : State := { stateAdd with poison := [0x40] }
def inst3g : Inst := { inst0 with hdr := { hdr0 with gcnt := 3 } }
theorem witness_StepRunsDecodedWord_faults :
    (instOut.inBounds instOut.pc = false
      ∧ ({ on instOut with clock := 2 }).selectSlot 0 = some 0)
    ∧ (({ badWordS with agenda := [], clock := 2 }).selectSlot 0 = some 0
      ∧ decode (word64 (badWordS.readLe 0x1008 8)) = .error .illegal ∧ badWordS.poisonAt 0x1008 8 = none)
    ∧ (({ poisonedS with agenda := [], clock := 2 }).selectSlot 0 = some 0 ∧ poisonedS.poisonAt 0x1008 8 = some 0x40)
    ∧ ((on inst3g).Issuing inst3g ∧ inst3g.hdr.fits (uses (.add 3 1 2)) = false ∧ (Instr.add 3 1 2).isWord = true) := by
  refine ⟨?_, ?_, ?_, rfl, ?_⟩ <;> decide +kernel
/-- A step issues that word: g3 becomes 0x2005, and the pc the next word's address; with an error in g2 it faults, and
a write of g3 clears one there (21 R352, Table 21-4). -/
theorem test_step_add : goes (step stateAdd) (fun t => (t.inst? 0 0).any (fun j => j.readG 3 == 0x2005 && j.pc == 0x1010)
    && t.clock == 2)
    ∧ goes (step (stateBad (.g 2))) (fun t => (t.inst? 0 0).isNone)
    ∧ goes (step (stateBad (.g 9))) (fun t => (t.inst? 0 0).any (fun j => j.readG 3 == 0x2005 && eqb j.bad [.g 9]))
    ∧ goes (step (stateBad (.g 3))) (fun t => (t.inst? 0 0).any (fun j => j.readG 3 == 0x2005 && eqb j.bad [])) := by
  decide +kernel
/-- withFetchWord places a word that the next step runs. -/
theorem test_withFetchWord : goes (step (State.reset.withFetchWord 64 0x0814500000000007))
    (fun t => (t.inst? 0 0).any (fun j => j.readG 5 == 7 && j.pc == 24)) = true := by decide +kernel
theorem witness_StepRunsEvents :
    (({ state0 with agenda := [⟨3, .event .hotReset⟩] }).agenda = ⟨3, .event .hotReset⟩ :: [] ∧ Instr.hotReset.isWord = false
      ∧ state0.power = .on) ∧ State.reset.agenda = []
    ∧ (({ state0 with power := .off, agenda := [⟨3, .issue 0⟩] }).agenda = ⟨3, .issue 0⟩ :: []
      ∧ Move.issue 0 ≠ .event .powerOn)
    ∧ ({ state0 with power := .booting, agenda := [⟨3, .bringUp true []⟩] }).agenda = ⟨3, .bringUp true []⟩ :: [] := by decide +kernel
theorem test_bring_up : goes (step { state0 with power := .booting, agenda := [⟨3, .bringUp true [5]⟩] })
    (fun t => t.power == .on && (t.quad 5).failed)
    ∧ goes (step { state0 with power := .booting, agenda := [⟨3, .bringUp false []⟩] }) (fun t => t.power == .noFunction) := by
  decide +kernel

/-! Scalar words. -/

theorem witness_ScalarRowsComplete : (on inst0).Issues inst0 (.add 3 1 2) ∧ (on inst0).Issues inst0 (.addi 3 1 5)
    ∧ (on inst0).Issues inst0 (.slli 3 1 5) ∧ (on inst0).Issues inst0 (.li 3 5) ∧ (on inst0).Issues inst0 (.lih 3 5)
    ∧ (on inst0).Issues inst0 (.adds 3 1 2) ∧ (on inst0).Issues inst0 (.subs 3 1 2) :=
  ⟨issues_on _ _ rfl, issues_on _ _ rfl, issues_on _ _ rfl, issues_on _ _ rfl, issues_on _ _ rfl, issues_on _ _ rfl,
    issues_on _ _ rfl⟩
/-- Overflow and the corners of division (R63, R64). -/
theorem test_scalar_corners :
    gives (.add 7 4 5) (inst3 0xFFFFFFFFFFFFFFFF 1 0) 7 0 ∧ gives (.div 7 4 5) (inst3 9 0 0) 7 0xFFFFFFFFFFFFFFFF
    ∧ gives (.div 7 4 5) (inst3 0x8000000000000000 0xFFFFFFFFFFFFFFFF 0) 7 0x8000000000000000
    ∧ gives (.rem 7 4 5) (inst3 0xFFFFFFFFFFFFFFF9 2 0) 7 0xFFFFFFFFFFFFFFFF
    ∧ gives (.mulh 7 4 5) (inst3 0xFFFFFFFFFFFFFFFF 2 0) 7 0xFFFFFFFFFFFFFFFF
    ∧ gives (.mulhn 7 4 5) (inst3 0xFFFFFFFFFFFFFFFF 2 0) 7 1
    ∧ gives (.sra 7 4 5) (inst3 0x8000000000000000 67 0) 7 0xF000000000000000
    ∧ gives (.adds 7 4 5) (inst3 0x7FFFFFFFFFFFFFFF 1 0) 7 0x7FFFFFFFFFFFFFFF
    ∧ gives (.clz 7 4) (inst3 0 0 0) 7 64 ∧ gives (.popc 7 4) (inst3 0xF0F0 0 0) 7 8
    ∧ gives (.bext 7 4 8 3) (inst3 0xF00 0 0) 7 0xFFFFFFFFFFFFFFFF ∧ gives (.bextz 7 4 8 3) (inst3 0xF00 0 0) 7 15 := by
  decide +kernel
theorem witness_BitWordsAndCopiesComplete : (on inst0).Issues inst0 (.clz 3 1) ∧ (on inst0).Issues inst0 (.ctz 3 1)
    ∧ (on inst0).Issues inst0 (.popc 3 1) ∧ (on inst0).Issues inst0 (.brev 3 1) ∧ (on inst0).Issues inst0 (.bswap 3 1)
    ∧ ((63 : BitVec 6).toNat + (0 : BitVec 6).toNat + 1 ≤ 64 ∧ (on inst0).Issues inst0 (.bext 3 1 63 0)
      ∧ (on inst0).Issues inst0 (.bextz 3 1 63 0) ∧ (on inst0).Issues inst0 (.bins 3 1 63 0))
    ∧ (on inst0).Issues inst0 (.sel 3 1 2 4) ∧ (on inst0).Issues inst0 (.mfm 3 15) ∧ (on inst0).Issues inst0 (.mfl 3)
    ∧ (on inst0).Issues inst0 (.mfq 3 1) ∧ (on inst0).Issues inst0 (.la 3 1 8) ∧ (on inst0).Issues inst0 (.idx 3 1 2 63) := by
  refine ⟨?_, ?_, ?_, ?_, ?_, ⟨by decide, ?_, ?_, ?_⟩, ?_, ?_, ?_, ?_, ?_, ?_⟩ <;> exact issues_on _ _ rfl
theorem witness_PlainScalarFrame : plainScalar (.mul 3 1 2) = true ∧ (on inst0).Issues inst0 (.mul 3 1 2)
    ∧ exec (.mul 3 1 2) (on inst0) = .next ((on inst0).became inst0 (inst0.counted.writeG 3 0xA000).advance) :=
  ⟨rfl, issues_on _ _ rfl, next_of _ _ (by decide +kernel)⟩
theorem witness_RngfIsExact : (on inst0).Issues inst0 (.rngf 3 1 2) := issues_on _ _ rfl

/-! Control. -/

theorem witness_BranchesAndCallsComplete :
    ((0x1020 : Word) = inst0.pc + 8 * immWord 3 ∧ (on inst0).Issues inst0 (.beq 4 5 3) ∧ inst0.inBounds 0x1020 = true)
    ∧ ((0x1000 : Word) = inst0.pc + 8 * immWord 0xFFFFFFFF ∧ inst0.inBounds 0x1000 = true ∧ inst0.inBounds 0x1080 = false)
    ∧ (on inst0).Issues inst0 (.jal 3) ∧ (on inst0).Issues inst0 (.jr 4) ∧ (on inst0).Issues inst0 .ret :=
  ⟨⟨by decide, issues_on _ _ rfl, by decide⟩, by decide, issues_on _ _ rfl, issues_on _ _ rfl, issues_on _ _ rfl⟩
/-- BNE g3, g0 over three words back (04 Table 04-7) is taken, and a branch past the last word is not. -/
theorem test_branch : goes (exec (.bne 4 0 0xFFFFFFFF) (on (inst3 1 0 0))) (fun t => (t.inst? 0 0).any (fun j => j.pc == 0x1000))
    ∧ goes (exec (.bne 4 0 0x0F) (on (inst3 0 0 0))) (fun t => (t.inst? 0 0).isNone) := by decide +kernel
/-- The loop registers of a body of two words: g1 and g2 name the pc's word as the last. -/
def instLoop (n1 n2 : Nat) : Inst := (inst0.setG 1 (word64 (2 ^ 63 + 2 ^ 23 + n1))).setG 2 (word64 (2 ^ 63 + 2 ^ 43 + 2 ^ 23 + n2))
/-- A load into g1 is outstanding. -/
def instWait : Inst := { instLoop 5 2 with pend := [⟨9, .g 1, true, false, none⟩] }
theorem witness_LoopCompletes :
    (instWait.loopPending = true ∧ (instLoop 5 2).loopPending = false)
    ∧
    ((1 : GReg) = BitVec.ofNat 6 (1 + (0 : BitVec 1).toNat) ∧ (0x1018 : Word) = (inst3 4 0 0).pc + 8 * immWord 2
      ∧ (on (inst3 4 0 0)).Issues (inst3 4 0 0) (.loop 4 0 2) ∧ 1 + (0 : BitVec 1).toNat < (inst3 4 0 0).hdr.glive
      ∧ (inst3 4 0 0).inBounds 0x1018 = true ∧ (inst3 4 0 0).pc.toNat + 8 ≤ (0x1018 : Word).toNat
      ∧ 0 < ((inst3 4 0 0).readG 4).toNat ∧ ((inst3 4 0 0).readG 4).toNat ≤ 8388607)
    ∧ ((inst3 0 0 0).readG 4 = 0 ∧ 8388607 < ((inst3 8388608 0 0).readG 4).toNat
      ∧ ({ inst0 with hdr := { hdr0 with glive := 1 } }).hdr.glive ≤ 1 + (0 : BitVec 1).toNat
      ∧ inst0.inBounds 0x1080 = false)
    ∧ (inst0.endsLoop 2 = false ∧ inst0.endsLoop 1 = false)
    ∧ ((instLoop 5 2).endsLoop 2 = true ∧ 1 < (((instLoop 5 2).readG 2).extractLsb' 0 23).toNat)
    ∧ ((instLoop 5 1).endsLoop 2 = true ∧ (((instLoop 5 1).readG 2).extractLsb' 0 23).toNat ≤ 1)
    ∧ (((instLoop 5 1).setG 2 0).endsLoop 2 = false ∧ ((instLoop 5 1).setG 2 0).endsLoop 1 = true
      ∧ 1 < ((((instLoop 5 1).setG 2 0).readG 1).extractLsb' 0 23).toNat)
    ∧ (((instLoop 1 1).setG 2 0).endsLoop 2 = false ∧ ((instLoop 1 1).setG 2 0).endsLoop 1 = true
      ∧ ((((instLoop 1 1).setG 2 0).readG 1).extractLsb' 0 23).toNat ≤ 1) := by
  refine ⟨by decide +kernel, ⟨by decide +kernel, by decide +kernel, issues_on _ _ rfl, ?_⟩, ?_⟩ <;> decide +kernel
theorem witness_YieldIsSafePoint : (0x3500000001000000 : Word).extractLsb' 56 8 = 0x35 ∧ (0x3500000001000000 : Word).extractLsb' 24 8 = 1
    ∧ (on inst0).Issues inst0 .yieldI := ⟨by decide, by decide, issues_on _ _ rfl⟩
def instDue : Inst := { inst0 with stopped := .pending, sinceSafe := 7, sincePre := 4096, hdr := { hdr0 with budget := 7 } }
theorem witness_EndAndForcedSafePoints : (on inst0).Issues inst0 .endI ∧ (on instDue).inst? 0 0 = some instDue
    ∧ (instDue.hdr.budget ≠ 0 ∧ instDue.hdr.budget ≤ instDue.sinceSafe)
    ∧ (instDue.stopped = .pending ∧ 4096 ≤ instDue.sincePre) :=
  ⟨issues_on _ _ rfl, rfl, by decide, by decide⟩
/-- Slot 0 is the first ready one; with its page absent, none is. -/
def heldInst : Inst := { inst0 with pageWait := [9] }
theorem witness_selectSlot : stateAdd.ready 0 inst0 = true ∧ stateAdd.selectSlot 0 = some 0
    ∧ (on heldInst).selectSlot 0 = none ∧ inst0.budgetDue = false ∧ (stateAdd.core 0).copyQ.length < 2
    ∧ (stateAdd.quad (quadOf 0)).springReqs = [] ∧ (stateAdd.core 0).ops = [] := by decide +kernel
theorem witness_selectSlot_idle : inst0.Idle := by constructor <;> decide +kernel
theorem test_end_and_forced : goes (exec .endI (on inst0)) (fun t => t.inst? 0 0 == none)
    ∧ goes (exec (.forcedSafePoint 0 0) (on instDue)) (fun t => (t.inst? 0 0).any (fun j => eqb j.stopped (.halted 0))) := by
  decide +kernel
theorem witness_TrapEndsInstance : (0xE200000000000007 : Word).extractLsb' 56 8 = 0xE2 ∧ (on inst0).Issues inst0 (.trap 1 7)
    ∧ inst0.ctx < 32 ∧ (((on inst0).ctx inst0.ctx).lcs.get? (((on inst0).ctx inst0.ctx).desc.fcore % 1024)).isSome = true :=
  ⟨by decide, issues_on _ _ rfl, by decide, by decide +kernel⟩
def debugState (d : Word) : State := (on inst0).setCtx 0 { ctx0 with dbgctl := d, trace := some ⟨0x10000, 4096, 65, []⟩ }
theorem witness_DebugWordsComplete :
    (debugState 0).Issues inst0 (.bkpt 1 3) ∧ ((debugState 0).ctx inst0.ctx).dbgctl.getLsbD 0 = false
    ∧ (debugState 0).Issues inst0 (.trmark 1 3) ∧ ((debugState 0).ctx inst0.ctx).dbgctl.getLsbD 1 = false
    ∧ (debugState 3).Issues inst0 (.bkpt 1 3) ∧ ((debugState 3).ctx inst0.ctx).dbgctl.getLsbD 0 = true
    ∧ ((debugState 3).ctx inst0.ctx).st = .running ∧ (debugState 3).memOk ∧ (debugState 3).Issues inst0 (.trmark 1 3)
    ∧ ((debugState 3).ctx inst0.ctx).dbgctl.getLsbD 1 = true
    ∧ ((debugState 3).ctx inst0.ctx).trace = some ⟨0x10000, 4096, 65, []⟩ := by
  refine ⟨⟨rfl, rfl⟩, ?_, ⟨rfl, rfl⟩, ?_, ⟨rfl, rfl⟩, ?_, ?_, rfl, ⟨rfl, rfl⟩, ?_, ?_⟩ <;> decide +kernel
/-- A replay-safe instance. -/
def instSafe : Inst := { inst0 with rsafe := true }
theorem witness_SystemRegistersComplete :
    ((on inst0).Issues inst0 (.srd 6 0) ∧ ((0 : BitVec 16), inst0.status) ∈ [((0 : BitVec 16), inst0.status)])
    ∧ ((on inst0).Issues inst0 (.srd 6 7) ∧ inst0.rsafe = false) ∧ ((on instSafe).Issues instSafe (.srd 6 7) ∧ instSafe.rsafe = true)
    ∧ ((on inst0).Issues inst0 (.srd 6 0x20) ∧ 0x20 ≤ (0x20 : BitVec 16).toNat ∧ (0x3F : BitVec 16).toNat < 0x40)
    ∧ ((on inst0).Issues inst0 (.srd 6 0x4F) ∧ 0x40 ≤ (0x4F : BitVec 16).toNat ∧ (0x4F : BitVec 16).toNat < 0x50)
    ∧ (on inst0).Issues inst0 (.swr 0x20 1) ∧ (on inst0).Issues inst0 (.swr 0x40 1) ∧ (on inst0).Issues inst0 (.sw1c 0 1) := by
  refine ⟨⟨issues_on _ _ rfl, by simp⟩, ⟨issues_on _ _ rfl, rfl⟩, ⟨issues_on _ _ rfl, rfl⟩, ⟨issues_on _ _ rfl, by decide⟩,
    ⟨issues_on _ _ rfl, by decide⟩, issues_on _ _ rfl, issues_on _ _ rfl, issues_on _ _ rfl⟩
/-- A CHUNK of counter 3, with PART 4, MIN 8, END 1,000 and this NEXT, waits at the chunk unit of quad 0. -/
def pendG (d : GReg) : Pend := ⟨9, .g d, true, false, none⟩
def chunkState (next : Nat) : State :=
  let s := on { inst0 with pend := [pendG 6] }
  let s := s.setQuad 0 { s.quad 0 with chunkReqs := [⟨0, 0, 1, 0, 9, 0, 3, .chunk⟩] }
  { s.setCtx 0 { ctx0 with chunks := [(3, word64 (4 * 2 ^ 56 + 8 * 2 ^ 48 + next * 2 ^ 24 + 1000))] } with clock := 1 }
theorem witness_CountersAndChunksComplete : ((on inst0).Issues inst0 (.chunk 6 3) ∧ inst0.rsafe = false)
    ∧ ((on instSafe).Issues instSafe (.chunk 6 3) ∧ instSafe.rsafe = true)
    ∧ ((on inst0).Issues inst0 (.cntrd 6 0x8110) ∧ counterAssigned ((0x8110 : BitVec 16).toNat % 2 ^ 15) = true)
    ∧ (on instSafe).Issues instSafe (.cntrd 6 0x8110)
    ∧ (((chunkState 0).quad 0).chunkReqs = ⟨0, 0, 1, 0, 9, 0, 3, .chunk⟩ :: [] ∧ 0 < (chunkState 0).clock
      ∧ ((chunkState 0).quad 0).chunkLast ≠ some (chunkState 0).clock
      ∧ (chunkState 0).inst? 0 0 = some { inst0 with pend := [pendG 6] } ∧ (pendG 6).id = 9) :=
  ⟨⟨issues_on _ _ rfl, rfl⟩, ⟨issues_on _ _ rfl, rfl⟩, ⟨issues_on _ _ rfl, by decide⟩, issues_on _ _ rfl, by decide +kernel⟩
/-- Rows 1, 2, 5 and 7 of 04 Table 04-5. -/
theorem test_chunk : [(0, 125), (125, 110), (982, 8), (998, 2)].all (fun r =>
    goes (exec (.chunkUnitRequest 0) (chunkState r.1)) (fun t => (t.inst? 0 0).any (fun j =>
      j.pend == [{ pendG 6 with value := some (word64 (r.2 * 2 ^ 32 + r.1)) }]))) = true := by decide +kernel

/-! Memory words. -/

/-- g4 holds an address, less the offset 16 of the tests; g5 the scratchpad's second address; g6 a note. -/
def instAt (va : Nat) : Inst := inst3 (word64 (va - 16)) 0x10000000100 0x85
theorem witness_AccessChecksFault :
    (accessOf (.ld32 7 4 none 16) = some (4, 16, 4) ∧ (on (instAt 0x2002)).Issues (instAt 0x2002) (.ld32 7 4 none 16)
      ∧ 0x2002 = ((instAt 0x2002).readG 4 + immWord 16).toNat ∧ 0x2002 % 4 ≠ 0)
    ∧ ((2 ^ 56 = ((instAt (2 ^ 56)).readG 4 + immWord 16).toNat) ∧ 2 ^ 56 % 8 = 0)
    ∧ (0x300000000 = ((instAt 0x300000000).readG 4 + immWord 16).toNat
      ∧ ((on (instAt 0x300000000)).ctx (instAt 0x300000000).ctx).regionOf 0x300000000 8 = none)
    ∧ (0x200000000 = ((instAt 0x200000000).readG 4 + immWord 16).toNat
      ∧ ((on (instAt 0x200000000)).ctx (instAt 0x200000000).ctx).regionOf 0x200000000 8
        = some (3, ⟨0x200000000, 1, 1, 1, false, 1, 0, 0x400000⟩))
    ∧ (on (instAt 0x200000000)).Issues (instAt 0x200000000) (.st64 4 1 none 16) := by
  refine ⟨⟨rfl, issues_on _ _ rfl, by decide +kernel, by decide⟩, by decide +kernel, by decide +kernel, by decide +kernel,
    issues_on _ _ rfl⟩
theorem test_access_faults : ([0x2002, 0x300000000, 0x200000000].all (fun va =>
    goes (exec (.st64 4 1 none 16) (on (instAt va))) (fun t => (t.inst? 0 0).isNone))) = true := by decide +kernel
theorem witness_LoadsAndStoresComplete :
    (on (instAt 0x2040)).Issues (instAt 0x2040) (.ld64 7 4 none 16) ∧ (on (instAt 0x2040)).Issues (instAt 0x2040) (.vld 7 4 none 16)
    ∧ (on (instAt 0x2040)).Issues (instAt 0x2040) (.dld 7 4 none 16)
    ∧ (on (instAt 0x2040)).Issues (instAt 0x2040) (.st64 4 1 none 16)
    ∧ (on (instAt 0x2040)).Issues (instAt 0x2040) (.vst 4 1 none 16)
    ∧ 0x2040 = ((instAt 0x2040).readG 4 + immWord 16).toNat ∧ 0x2040 % 64 = 0
    ∧ (∀ n ∈ [8, 32, 64], ((on (instAt 0x2040)).ctx (instAt 0x2040).ctx).regionOf 0x2040 n = some (0, ⟨0, 16, 1, 1, true, 1, 0, 0⟩)) := by
  refine ⟨issues_on _ _ rfl, issues_on _ _ rfl, issues_on _ _ rfl, issues_on _ _ rfl, issues_on _ _ rfl, ?_⟩; decide +kernel
theorem test_load_store : goes (exec (.ld64 7 4 none 16) (on (instAt 0x2040))) (fun t => t.flights.any (fun f =>
      match f.body with | .req q => q.va == 0x2040 && q.n == 8 | _ => false))
    ∧ goes (exec (.st16 4 3 none 16) (on (instAt 0x2040))) (fun t => t.flights.any (fun f =>
      match f.body with | .req q => q.data == [0xF8, 0xFF] | _ => false)) := by decide +kernel
theorem witness_SplitAccessesAndAtomicsComplete :
    ((0x2040 = ((instAt 0x2040).readG 4 + immWord 16).toNat ∧ sizeBytes .s64 = 64 ∧ 0x2040 % 64 = 0 ∧ 0x10000000100 % 64 = 0
        ∧ ((on (instAt 0x2040)).ctx (instAt 0x2040).ctx).scratchOf (on (instAt 0x2040)).curP 0x10000000100 64 = some 0x10000000100
        ∧ ((instAt 0x2040).readG 6).toNat < 256 ∧ bitsOf ((instAt 0x2040).readG 6).toNat 6 6 = 0
        ∧ ((instAt 0x2040).readG 6).toNat % 64 < ((on (instAt 0x2040)).lc (instAt 0x2040).ctx (instAt 0x2040).lcore).ctrn
        ∧ ((on (instAt 0x2040)).ctx (instAt 0x2040).ctx).regionOf 0x2040 64 = some (0, ⟨0, 16, 1, 1, true, 1, 0, 0⟩)
        ∧ (on (instAt 0x2040)).poisonAt 0x10000000100 64 = none)
      ∧ (on (instAt 0x2040)).Issues (instAt 0x2040) (.get 6 4 5 .s64 16)
      ∧ (on (instAt 0x2040)).Issues (instAt 0x2040) (.put 6 4 5 .s64 none 16))
    ∧ ((on (instAt 0x2040)).Issues (instAt 0x2040) (.aadd 6 4 5 true none 16)
      ∧ (on (instAt 0x2040)).Issues (instAt 0x2040) (.afadd 6 4 5 none 16)
      ∧ ((on (instAt 0x2040)).ctx (instAt 0x2040).ctx).inWindow 0x2040 = false)
    ∧ (({ instAt 0x2040 with rsafe := true }).rsafe = true ∧ replaySafe .aadd 6 = false ∧ replaySafe .aadd 0 = true) := by
  refine ⟨⟨by decide +kernel, issues_on _ _ rfl, issues_on _ _ rfl⟩, ⟨issues_on _ _ rfl, issues_on _ _ rfl, by decide +kernel⟩, by decide⟩
/-- A counter below the count of 64 entries, and the 64 entries. -/
def monState (i : Inst) (n : Nat) : State := let s := on i
  s.setCore 0 { s.core 0 with mons := (List.range n).map fun k => ⟨k + 1000, 0, if k % 3 = 0 then 0x2008 else 0x3000, .here 0x2008, 1, 2, true⟩ }
theorem issues_mon (i : Inst) (n : Nat) (x : Instr) (h : i.hdr.fits (uses x) = true) : (monState i n).Issues i x := ⟨rfl, h⟩
/-- The word lies in a region of a peer. -/
def peerMon (n : Nat) : State := (monState (inst3 0x2008 1 9) n).setCtx 0 { ctx0 with regions := [⟨0, 16, 1, 2, true, 1, 0, 0x8000⟩] }
theorem witness_OrderingWordsComplete :
    ((on inst0).Issues inst0 (.fence .pod) ∧ (on inst0).Issues inst0 (.xfence .ls .ar))
    ∧ ((on (inst3 (word64 (2 ^ 64 - 1)) 0 0)).Issues (inst3 (word64 (2 ^ 64 - 1)) 0 0) (.drain .cp 4)
      ∧ ((inst3 (word64 (2 ^ 64 - 1)) 0 0).readG 4).toNat = 2 ^ 64 - 1)
    ∧ ((on (inst3 0x2008 0 0)).Issues (inst3 0x2008 0 0) (.drain .cp 4)
      ∧ ((on (inst3 0x2008 0 0)).ctx (inst3 0x2008 0 0).ctx).regionOf 0x2008 1 = some (0, ⟨0, 16, 1, 1, true, 1, 0, 0⟩)
      ∧ ((on (inst3 0x2008 0 0)).counted (inst3 0x2008 0 0)).translate 0 0 0x2008 false = .ok (.here 0x2008) true
      ∧ (memNameOf (.here 0x2008)).isSome = true)
    ∧ ((on (inst3 5 7 9)).Issues (inst3 5 7 9) (.barrive 4 5 6 5 .die 2) ∧ ((inst3 5 7 9).readG 4).toNat < 2 ^ 16
      ∧ 0 < ((inst3 5 7 9).readG 5).toNat ∧ ((inst3 5 7 9).readG 5).toNat < 2 ^ 16)
    ∧ ((monState (inst3 0x2008 0 9) 63).Issues (inst3 0x2008 0 9) (.watchRegister 7 4 5 6 9)
      ∧ (((monState (inst3 0x2008 0 9) 63).core 0).mons.length < 64 ∧ 64 ≤ ((monState (inst3 0x2008 0 9) 64).core 0).mons.length
      ∧ ((monState (inst3 0x2008 0 9) 63).ctx 0).inWindow 0x2008 = false
      ∧ ((monState (inst3 0x2008 0 9) 63).ctx 0).regionOf 0x2008 8 = some (0, ⟨0, 16, 1, 1, true, 1, 0, 0⟩)))
    ∧ ((monState (inst3 0x2008 1 9) 63).Issues (inst3 0x2008 1 9) (.watchCancel 7 4 5 6 9) ∧ (inst3 0x2008 1 9).readG 5 = 1)
    ∧ ((peerMon 3).Issues (inst3 0x2008 1 9) (.watchCancel 7 4 5 6 9) ∧ ((peerMon 3).ctx 0).regionOf 0x2008 8
        = some (0, ⟨0, 16, 1, 2, true, 1, 0, 0x8000⟩)
      ∧ ((peerMon 3).core 0).mons.countP (fun m => m.ctx = 0 && m.va = 0x2008) = 1) := by
  refine ⟨⟨issues_on _ _ rfl, issues_on _ _ rfl⟩, ⟨issues_on _ _ rfl, by decide +kernel⟩, ⟨issues_on _ _ rfl, by decide +kernel⟩,
    ⟨issues_on _ _ rfl, by decide +kernel⟩, ⟨issues_mon _ _ _ rfl, by decide +kernel⟩, ⟨issues_mon _ _ _ rfl, by decide +kernel⟩,
    ⟨rfl, rfl⟩, by decide +kernel⟩
theorem test_watch : goes (exec (.watchRegister 7 4 5 6 9) (monState (inst3 0x2008 0 9) 63)) (fun t => (t.core 0).mons.length == 64)
    ∧ goes (exec (.watchCancel 7 4 5 6 9) (monState (inst3 0x2008 1 9) 64)) (fun t => (t.core 0).mons.length == 42) := by
  decide +kernel

/-! Messages. -/

/-- A control word: RP 1 and PLEN 8, with a reservation (RQ 1, RHIDX 1) or without. -/
def ctl8 (rq : Bool) : Nat := 0x208 + if rq then 2 ^ 22 + 2 ^ 36 else 0
def instSend (rq : Bool) : Inst := inst3 0x1234 0x1122334455667788 (word64 (ctl8 rq))
def noResv (s : State) : State := s.setCore 0 { s.core 0 with resv := (List.range 64).map fun k => (k, ⟨0, 0, 0, none, none⟩) }
/-- Two route words in the scratchpad at 0x10000000000. -/
def instMany : Inst := inst3 0x10000000000 0x1122 (word64 (ctl8 true))
def stateMany : State := { onM instMany with mem := wr (wr mem0 0x10000000000 8 0x11) 0x10000000008 8 0x22 }
theorem witness_MessagesComplete :
    (∀ rq, (onM (instSend rq)).Issues (instSend rq) (.send 7 4 5 6 0 false)
      ∧ (onM (instSend rq)).checkSend (instSend rq) 0x1234 0x1122334455667788 (ctl8 rq) 0 = .ok (leBytes 8 0x1122334455667788))
    ∧ ((onM (instSend true)).reaches 0 (bitsOf 0x1234 63 48) (bitsOf 0x1234 47 38) ∧ bitsOf (ctl8 false) 22 22 = 0
      ∧ bitsOf (ctl8 true) 22 22 = 1 ∧ ((onM (instSend true)).core 0).freeResv = some 0
      ∧ ((noResv (onM (instSend true))).core 0).freeResv = none)
    ∧ ((onM (inst3 0x45 5 0x208)).Issues (inst3 0x45 5 0x208) (.reply 4 5 6 false)
      ∧ (onM (inst3 0x45 5 0x208)).checkReply (inst3 0x45 5 0x208) 0x45 5 0x208 = .ok (leBytes 8 5))
    ∧ ((onM (inst3 0x25 5 0)).Issues (inst3 0x25 5 0) (.post 4 5 false)
      ∧ ((onM (inst3 0x25 5 0)).ctx 0).routeOk 0x25 (2 ^ 38 - 2 ^ 6) false = true)
    ∧ (stateMany.Issues instMany (.sendm 7 4 5 6 0 false 2)
      ∧ stateMany.checkSendm instMany 0x10000000000 0x1122 (ctl8 true) 0 2 = .ok ([0x11, 0x22], leBytes 8 0x1122)
      ∧ ∀ w ∈ [0x11, 0x22], stateMany.reaches 0 (bitsOf w 63 48) (bitsOf w 47 38)) := by
  refine ⟨fun rq => ⟨issues_onM _ _ rfl, ?_⟩, ⟨Or.inr (Or.inr ?_), ?_⟩, ⟨issues_onM _ _ rfl, ?_⟩, ⟨issues_onM _ _ rfl, ?_⟩,
    ⟨rfl, rfl⟩, ?_, ?_⟩
  · revert rq; decide +kernel
  all_goals first | decide +kernel | skip
  intro w hw
  refine Or.inr (Or.inr ?_)
  revert w; decide +kernel
theorem test_send : goes (exec (.send 7 4 5 6 0 false) (onM (instSend true))) (fun t => (t.inst? 0 0).any (fun j => j.readG 7 == 0)
    && t.flights.any (fun f => match f.body with | .msg m _ => m.hdr.tag == 0x1234 && m.hdr.rroute == 64 && m.hdr.prio == 2 | _ => false)) = true := by
  decide +kernel

/-- Two entries in the weir, and a parked continuation that waits for a tag. -/
def weir0 : Weir := ⟨[(3, 9), (4, 8)], 70000, true⟩
def cont0 : Cont := ⟨inst0, .tag 0, 9, none, none, none, .none⟩
def parkState (i : Inst) (parked : List Nat) : State :=
  (on i).setLc 0 0 { lc0 with weir := weir0, tgs := [(0, ⟨5, 4, 3, [5], parked⟩)], conts := [(2, cont0)] }
theorem issues_park (i : Inst) (l : List Nat) (x : Instr) (h : i.hdr.fits (uses x) = true) : (parkState i l).Issues i x := ⟨rfl, h⟩
theorem witness_TagsPayloadAndArmComplete :
    ((on (inst3 248 0 0)).Issues (inst3 248 0 0) (.msgld64 7 4 0) ∧ (248 : Int) = ((inst3 248 0 0).readG 4).toInt + (0 : BitVec 32).toInt
      ∧ (248 : Int) % 8 = 0 ∧ (248 : Int) + 8 ≤ 256)
    ∧ ((on (inst3 249 0 0)).Issues (inst3 249 0 0) (.msgld64 7 4 0) ∧ (249 : Int) = ((inst3 249 0 0).readG 4).toInt + (0 : BitVec 32).toInt)
    ∧ ((on (inst3 256 0 0)).Issues (inst3 256 0 0) (.msgld64 7 4 0) ∧ (256 : Int) = ((inst3 256 0 0).readG 4).toInt + (0 : BitVec 32).toInt)
    ∧ ((on inst0).Issues inst0 (.tagnew 7 0) ∧ (on inst0).Issues inst0 (.tagpark 7 0)
      ∧ ((on inst0).lc 0 0).group 0 = ⟨5, 4, 3, [5], []⟩ ∧ 6 ∉ [5] ∧ ∀ j, 5 ≤ j → j < 6 → j ∈ [5])
    ∧ ((on inst0).Issues inst0 (.tagnew 7 1) ∧ (on inst0).Issues inst0 (.tagpark 7 1)
      ∧ ((on inst0).lc 0 0).group 1 = ⟨0, 0, 0, [], []⟩ ∧ ((on inst0).lc 0 0).nextCont < ((on inst0).lc 0 0).contMax)
    ∧ ((parkState (inst3 5 6 0) [2, 3]).Issues (inst3 5 6 0) (.tagfree 4 0) ∧ (parkState (inst3 5 6 0) []).Issues (inst3 5 6 0) (.tagfree 5 0)
      ∧ ((parkState (inst3 5 6 0) [2, 3]).lc 0 0).group 0 = ⟨5, 4, 3, [5], [2, 3]⟩
      ∧ ((parkState (inst3 5 6 0) [2, 3]).lc 0 0).conts.get? 2 = some cont0)
    ∧ ((on (inst3 9 100 0x2020)).Issues (inst3 9 100 0x2020) (.arm 7 4 5 6 9 true 2)
      ∧ (on (inst3 9 100 0x2020)).Issues (inst3 9 100 0x2020) (.arm 7 4 5 6 0 false 2)
      ∧ 9 < ((on (inst3 9 100 0x2020)).lc 0 0).ctrn ∧ ((on (inst3 9 100 0x2020)).ctx 0).holdsArr 0 = true
      ∧ ((on (inst3 9 100 0x2020)).ctx 0).regionOf 0x2020 32 = some (0, ⟨0, 16, 1, 1, true, 1, 0, 0⟩)) := by
  refine ⟨⟨issues_on _ _ rfl, by decide +kernel⟩, ⟨issues_on _ _ rfl, by decide +kernel⟩, ⟨issues_on _ _ rfl, by decide +kernel⟩,
    ⟨issues_on _ _ rfl, issues_on _ _ rfl, by decide +kernel, by decide, fun j h1 h2 => by simp; omega⟩,
    ⟨issues_on _ _ rfl, issues_on _ _ rfl, by decide +kernel⟩,
    ⟨issues_park _ _ _ rfl, issues_park _ _ _ rfl, by decide +kernel, by decide +kernel⟩,
    issues_on _ _ rfl, issues_on _ _ rfl, by decide +kernel⟩
/-- The lowest free tag after 5 is 6; TAGFREE hands its tag to the oldest parked instance. -/
theorem test_tags : gives (.tagnew 7 0) inst0 7 6 ∧ gives (.tagnew 7 1) inst0 7 0
    ∧ goes (exec (.tagfree 4 0) (parkState (inst3 5 6 0) [2, 3])) (fun t =>
      eqb ((t.lc 0 0).group 0) ⟨5, 4, 3, [5], [3]⟩ && ((t.lc 0 0).conts.get? 2).any (fun k => k.value == some 5)) := by decide +kernel
/-- q3 names the block at 0x2040, with CUR 7. -/
def instRing : Inst := { inst3 9 0 0 with q := (Vector.replicate 16 0).set 3 (word64 (7 * 2 ^ 50 + 0x2040 / 64)) }
theorem unwatched_on (i : Inst) (pa n : Nat) : (on i).Unwatched pa n := by
  refine ⟨?_, ?_, ?_⟩
  · intro e he m hm; simp [on] at he; subst he; simp [Core.setSlot, Core.reset] at hm
  · intro e he; simp [on, state0] at he; subst he; simp [ctx0, Ctx.reset]
  · intro f hf; simp [on, state0, State.reset] at hf
theorem witness_RingAndWeirWordsComplete :
    (instRing.readQ 3 ≠ 0 ∧ (instRing.readQ 3).toNat % 2 ^ 50 * 64 = 0x2040
      ∧ ((on instRing).ctx 0).regionOf 0x2040 64 = some (0, ⟨0, 16, 1, 1, true, 1, 0, 0⟩)
      ∧ ((on instRing).lc 0 0).nextCont < ((on instRing).lc 0 0).contMax
      ∧ (on instRing).Unwatched ((on instRing).contAt 0 0 0) 4096 ∧ (on instRing).Unwatched ((on instRing).siloAt 0 0) 4096
      ∧ (on instRing).memOk)
    ∧ ((on instRing).Issues instRing (.qpush 7 3 4) ∧ (on instRing).Issues instRing (.qpop 7 3)
      ∧ (on instRing).Issues instRing (.qadv 7 3 4) ∧ (on instRing).Issues instRing (.qwait 7 3 4))
    ∧ ((on (inst3 0xA5 0x3F800000 77)).Issues (inst3 0xA5 0x3F800000 77) (.wput 4 5 6)
      ∧ (on (inst3 0xA5 0x3F800000 77)).reaches 0 (bitsOf 0xA5 63 48) (bitsOf 0xA5 47 38)
      ∧ ((on (inst3 0xA5 0x3F800000 77)).ctx 0).routeOk 0xA5 unusedWput false = true
      ∧ decodeFloat (fpOf .f32) 0x3F800000 ≠ .nan)
    ∧ (parkState (inst3 0 1 2) []).Issues (inst3 0 1 2) (.wtakeFirst 7 4)
    ∧ (parkState (inst3 0 1 2) []).Issues (inst3 0 1 2) (.wtakeStatus 7 5)
    ∧ (parkState (inst3 0 1 2) []).Issues (inst3 0 1 2) (.wtakeEmpty 7 6)
    ∧ (((parkState (inst3 0 1 2) []).lc 0 0).weir = weir0 ∧ ((on (inst3 0 1 2)).lc 0 0).weir.entries = []) := by
  refine ⟨⟨by decide +kernel, by decide +kernel, by decide +kernel, by decide +kernel, unwatched_on _ _ _, unwatched_on _ _ _, rfl⟩,
    ⟨issues_on _ _ rfl, issues_on _ _ rfl, issues_on _ _ rfl, issues_on _ _ rfl⟩, ⟨issues_on _ _ rfl, Or.inr (Or.inr (by decide +kernel)), by decide +kernel⟩, issues_park _ _ _ rfl, issues_park _ _ _ rfl,
    issues_park _ _ _ rfl, by decide +kernel⟩
theorem test_wtake : goes (exec (.wtakeStatus 7 5) (parkState (inst3 0 1 2) [])) (fun t => (t.inst? 0 0).any (fun j =>
      j.readG 7 == word64 (65535 * 2 ^ 32 + 258))) = true := by decide +kernel
/-- A record of no entries of sequence 3, step 2 at the scratchpad's start, the sequence live with step 1 recorded. -/
def seq0 : JSeq := ⟨0, 3, .live, some 1, none, some 1, 0, []⟩
def entry0 : BarnEntry := ⟨1, 0, 0, 3, 1, []⟩
def journalState (i : Inst) : State := let s := on i
  { s with
    mem := wr [] 0x10000000000 8 0x200000003
    hub := { s.hub with jcfg := some (0x100000, 0x10000, 0x200000, 0x10000), seqs := [seq0], jbuf := [(entry0, true)] } }
def instJ (gb : Word) : Inst := inst3 0x10000000000 gb 7
theorem issues_journal (i : Inst) (x : Instr) (h : i.hdr.fits (uses x) = true) : (journalState i).Issues i x := ⟨rfl, h⟩
def instSeq (step : Nat) : Inst := inst3 (word64 (3 * 2 ^ 32 + step)) 0 0
theorem witness_JournalWordsComplete :
    ((journalState (instJ 5)).Issues (instJ 5) (.jrec 7 4 5 6)
      ∧ (journalState (instJ 5)).checkJrec (instJ 5) 0x10000000000 5 7
        = .ok (0x10000000000, Memory.read (journalState (instJ 5)).mem 0x10000000000 304))
    ∧ ((journalState (instSeq 1)).Issues (instSeq 1) (.jemit 7 4 5 6)
      ∧ ((journalState (instSeq 1)).ctx 0).routeOk ((instSeq 1).readG 5).toNat unusedEmit true = true)
    ∧ ((journalState (instSeq 1)).Issues (instSeq 1) (.jckpt 7 4 5)
      ∧ (journalState (instSeq 1)).hub.seq? 0 (((instSeq 1).readG 4).extractLsb' 32 32) = some seq0 ∧ seq0.last = some 1
      ∧ (((instSeq 1).readG 4).extractLsb' 0 32).toNat ≤ (1 : BitVec 32).toNat)
    ∧ ((journalState (instSeq 0)).Issues (instSeq 0) (.jtruncCheckpoint 7 4) ∧ ((instSeq 0).readG 4).toNat % 2 ^ 32 = 0
      ∧ ((journalState (instSeq 0)).hub.seq? 0 (((instSeq 0).readG 4).extractLsb' 32 32)).bind JSeq.marker = some 1)
    ∧ ((journalState (instSeq 0xFFFFFFFF)).Issues (instSeq 0xFFFFFFFF) (.jtruncClose 7 4)
      ∧ ((instSeq 0xFFFFFFFF).readG 4).toNat % 2 ^ 32 = 2 ^ 32 - 1) := by
  refine ⟨⟨issues_journal _ _ rfl, ?_⟩, ⟨issues_journal _ _ rfl, ?_⟩, ⟨issues_journal _ _ rfl, ?_⟩, ⟨issues_journal _ _ rfl, ?_⟩,
    issues_journal _ _ rfl, ?_⟩ <;> decide +kernel
theorem test_journal : goes (exec (.jckpt 7 4 5) (journalState (instSeq 1))) (fun t =>
      t.flights.map Flight.body == [.hubReq (.jckpt (word64 (3 * 2 ^ 32 + 1)) 0)])
    ∧ goes (exec (.jtruncCheckpoint 7 4) (journalState (instSeq 0))) (fun t => t.flights.map Flight.body == [.hubReq (.jtrunc 3)]) := by
  decide +kernel

/-! Vector words. -/

/-- A v register of elements of a format. -/
def vec (f : Fmt) (l : List (Nat × Nat)) : VWord :=
  BitVec.ofNat 512 ((l.map (fun e => e.2 * 2 ^ (fmtWidth f * e.1))).sum)
/-- v2, v3 and v4 hold these; m1 says a payload of 32 bytes, on channel 0. -/
def instV (a b c : VWord) : Inst := { inst0 with
  v := (((Vector.replicate 32 0).set 2 a).set 3 b).set 4 c
  k := ((Vector.replicate 8 0).set 0 0xFFFF).set 1 0x0005
  m := (Vector.replicate 16 0).set 1 32 }
def instV0 : Inst := instV (vec .f32 [(0, 0x3F800000)]) (vec .f32 [(0, 0x40000000), (3, 0x7FC00000)]) 0
def mAll : VMask := ⟨0, false⟩
def rne0 : Rnd := ⟨.rne, false⟩
/-- The one entry of the issuing slot that waits for its vector unit. -/
def holds (x : Instr) (i : Inst) (f : VPend → Bool) : Bool :=
  goes (exec x (on i)) (fun t => (t.inst? 0 0).any (fun j => match j.vpend with
    | [e] => f e
    | _ => false))
theorem witness_VectorArithmeticCompletes :
    ((Instr.vadd 5 2 3 mAll .f32 rne0).wellFormed = true ∧ (on instV0).Issues instV0 (.vadd 5 2 3 mAll .f32 rne0))
    ∧ (Fmt.wideFloat .f32 = true ∧ (on instV0).Issues instV0 (.vfma 5 2 3 4 mAll .f32 rne0))
    ∧ (Fmt.shiftable .i8 = true ∧ (on instV0).Issues instV0 (.vsll 5 2 3 mAll .i8)) :=
  ⟨⟨rfl, issues_on _ _ rfl⟩, ⟨rfl, issues_on _ _ rfl⟩, rfl, issues_on _ _ rfl⟩
theorem test_vector_add : holds (.vadd 5 2 3 mAll .f32 rne0) instV0 (fun e => e.vw.any (fun w => w.1 == 5
    && readElem .f32 w.2.toNat 0 == 0x40400000 && readElem .f32 w.2.toNat 3 == 0x7FC00000)) = true := by decide +kernel
theorem witness_VectorLogicAndComparesComplete :
    (on instV0).Issues instV0 (.vand 5 2 3 mAll) ∧ (Instr.vcmpeq 2 2 3 mAll .f32 .rne).wellFormed = true
    ∧ (on instV0).Issues instV0 (.vcmpeq 2 2 3 mAll .f32 .rne) := ⟨issues_on _ _ rfl, rfl, issues_on _ _ rfl⟩
theorem test_vector_compare : holds (.vcmplt 2 2 3 mAll .f32 .rne) instV0 (fun e => e.kw == some (2, 1))
    ∧ holds (.vcmpun 2 2 3 mAll .f32 .rne) instV0 (fun e => e.kw == some (2, 8)) := by decide +kernel
theorem witness_VselSelectsLanes : ((0x8300000100000000 : Word).extractLsb' 56 8 = 0x83 ∧ (0x8300000100000000 : Word).extractLsb' 32 6 ≠ 0)
    ∧ ((0x8300000000000000 : Word).extractLsb' 56 8 = 0x83 ∧ (0x8300000000000000 : Word).extractLsb' 32 6 = 0)
    ∧ decode 0x8314208000000000 = .ok (.vsel 5 2 2 mAll) ∧ (on instV0).Issues instV0 (.vsel 5 2 3 ⟨1, false⟩) :=
  ⟨by decide, by decide, by decide +kernel, issues_on _ _ rfl⟩
theorem witness_ShufflesComplete : Fmt.shuffled .i16 = true ∧ (on instV0).Issues instV0 (.vperm 5 2 3 mAll .i16 .rne)
    ∧ (on instV0).Issues instV0 (.vbcast 5 3 mAll .i16 .rne) ∧ (on instV0).Issues instV0 (.vslide 5 2 3 4 mAll .i16 .rne)
    ∧ (on instV0).Issues instV0 (.vzip 5 2 3 mAll .i16 .rne) ∧ (on instV0).Issues instV0 (.vunzip 5 2 3 mAll .i16 .rne) :=
  ⟨rfl, issues_on _ _ rfl, issues_on _ _ rfl, issues_on _ _ rfl, issues_on _ _ rfl, issues_on _ _ rfl⟩
theorem test_slide : holds (.vslide 5 2 3 4 mAll .i8 .rne) (instV (vec .i8 [(63, 9)]) (vec .i8 [(0, 7)]) 63) (fun e =>
    e.vw.any (fun w => w.2 == vec .i8 [(0, 9), (1, 7)])) = true := by decide +kernel
def instIns (j : Nat) : Inst := { instV0 with g := instV0.g.set 9 (word64 (j * 2 ^ 48 + 0x77)) }
theorem witness_VinsAndVextComplete :
    ((0x8400000105000000 : Word).extractLsb' 56 8 = 0x84 ∧ (0x8400000105000000 : Word).extractLsb' 24 8 = 5
      ∧ (0x8400000105000000 : Word).extractLsb' 32 6 ≠ 0)
    ∧ ((on (instIns 15)).Issues (instIns 15) (.vins 5 2 9 mAll .f32 .rne) ∧ 15 = bitsOf ((instIns 15).readG 9).toNat 63 48
      ∧ 15 < elemCount .f32 ∧ 16 = bitsOf ((instIns 16).readG 9).toNat 63 48 ∧ elemCount .f32 ≤ 16)
    ∧ ((0x8400000106000000 : Word).extractLsb' 24 8 = 6 ∧ (0x8400000106000000 : Word).extractLsb' 32 12 ≠ 0)
    ∧ ((on instV0).Issues instV0 (.vext 9 2 mAll .f32 .rne) ∧ instV0.elemOn mAll .f32 0 = true
      ∧ ∀ j < 16, instV0.laneOn ⟨0, true⟩ j = false) :=
  ⟨by decide, ⟨issues_on _ _ rfl, by decide +kernel⟩, by decide, issues_on _ _ rfl, by decide +kernel⟩
/-- Part 0 with scale 1.0; part 31, which i8 has not; part 0 with scale +infinity. -/
def instQ (b : Nat) : Inst := instV (vec .f32 [(0, 0x3F800000)]) 0 (BitVec.ofNat 512 b)
/-- Channel 0 in bf16 with SMODE 0, and with SMODE 3. -/
def chanState (ch : Word) : State := (on instV0).setLc 0 0 { (on instV0).lc 0 0 with chans := [(0, ch)] }
theorem witness_ConversionsComplete :
    (on instV0).Issues instV0 (.vcvt 5 2 mAll .i8 .f32 rne0)
    ∧ (Fmt.quantised .i8 = true ∧ (instQ 0x3F80).vNat 4 / 2 ^ 21 = 0 ∧ 16 * 0 + 16 ≤ elemCount .i8
      ∧ scaleOk (BitVec.ofNat 16 ((instQ 0x3F80).vNat 4)) = true ∧ (on (instQ 0x3F80)).Issues (instQ 0x3F80) (.quant 5 2 4 mAll .i8 rne0)
      ∧ (on (instQ 0x3F80)).Issues (instQ 0x3F80) (.dequant 5 2 4 mAll .i8 rne0))
    ∧ ((instQ 0x1F3F80).vNat 4 / 2 ^ 16 % 32 = 31 ∧ elemCount .i8 < 16 * 31 + 16)
    ∧ ((instQ 0x7F80).vNat 4 / 2 ^ 21 = 0 ∧ scaleOk (BitVec.ofNat 16 ((instQ 0x7F80).vNat 4)) = false)
    ∧ ((chanState 1).Issues instV0 (.dequantChannel 5 4 mAll rne0)
      ∧ 1 = (Tab.get chanReset ((chanState 1).lc 0 0).chans (bitsOf (instV0.readM 2).toNat 63 59)).toNat
      ∧ 32 = bitsOf (instV0.readM 1).toNat 8 0 ∧ 0 = instV0.vNat 4 / 2 ^ 16 % 32 ∧ fmtOfNum 1 = .bf16
      ∧ instV0.vNat 4 % 2 ^ 16 = 0 ∧ instV0.vNat 4 / 2 ^ 21 = 0
      ∧ channelScale instV0 1 32 = .ok 0x3F80 ∧ inPayload .bf16 0 32 = true ∧ bitsOf 0xC001 15 14 = 3
      ∧ (instQ 0x3F80).vNat 4 % 2 ^ 16 ≠ 0 ∧ channelScale (instQ 0x3F80) 1 32 = .ok 0x3F80
      ∧ ∃ e, channelScale instV0 0xC001 32 = .error e) := by
  refine ⟨issues_on _ _ rfl, ⟨rfl, ?_, ?_, ?_, issues_on _ _ rfl, issues_on _ _ rfl⟩, ?_, ?_, ⟨⟨rfl, rfl⟩, ?_, ?_, ?_, ?_, ?_, ?_, ?_, ?_, ?_, ?_, ?_,
    ⟨_, rfl⟩⟩⟩ <;> decide +kernel
theorem test_convert : holds (.vcvt 5 2 mAll .i8 .f32 rne0) (instV (vec .f32 [(0, 0xC0200000)]) 0 0) (fun e =>
    e.vw.any (fun w => readElem .i8 w.2.toNat 0 == 0xFE)) = true := by decide +kernel
/-- The example of R147. -/
def instRed : Inst := instV (vec .f32 [(0, 0x4B800000), (1, 0x3F800000), (9, 0x3F800000)]) 0 0
theorem witness_ReductionsAndScansComplete : Fmt.arith .f32 = true ∧ (on instRed).Issues instRed (.vredadd 5 2 mAll .f32 rne0)
    ∧ (on instRed).Issues instRed (.vscanadd 5 2 mAll .f32 rne0) := ⟨rfl, issues_on _ _ rfl, issues_on _ _ rfl⟩
theorem test_reductions : holds (.vredadd 3 2 mAll .f32 rne0) instRed (fun e => e.vw == [(3, 0x4B800001)] && eqb e.flags {})
    ∧ holds (.vscanadd 4 2 mAll .f32 rne0) instRed (fun e => e.flags.nx
      && e.vw.any (fun w => readElem .f32 w.2.toNat 15 == 0x4B800000)) := by decide +kernel
theorem witness_TranscendentalsComplete : Fmt.wideFloat .bf16 = true ∧ (on instV0).Issues instV0 (.vexp2 5 2 mAll .bf16 false) :=
  ⟨rfl, issues_on _ _ rfl⟩
theorem test_exp2 : holds (.vexp2 5 2 mAll .bf16 false) (instV (vec .bf16 [(0, 0x4040), (1, 0xFF80)]) 0 0) (fun e =>
    e.vw.any (fun w => readElem .bf16 w.2.toNat 0 == 0x4100 && readElem .bf16 w.2.toNat 1 == 0)) = true := by decide +kernel
/-- The example of R150: v12 is v2 here, and v13 is v4. -/
def instPack : Inst := instV (vec .bf16 [(3, 0x3FC0), (17, 0xC000), (30, 0x8000), (31, 0x7FC0)]) 0 0x100
theorem witness_PackingAndTopCompletes :
    ((on instPack).Issues instPack (.vpacknz 10 2 4 mAll .bf16 .rne) ∧ Fmt.shuffled .bf16 = true
      ∧ instPack.vNat 4 / 2 ^ 32 = 0 ∧ instPack.vNat 4 / 2 ^ 16 % 65536 ≤ elemCount .bf16)
    ∧ ((on instV0).Issues instV0 (.vargmax 5 2 mAll .rne) ∧ (on instV0).Issues instV0 (.vtopk 5 2 3 4 mAll .rne)
      ∧ ∀ k < 16, instV0.laneOn mAll k = true → readElem .f32 (instV0.vNat 3) k ≠ 0xFFFFFFFF) :=
  ⟨⟨issues_on _ _ rfl, by decide +kernel⟩, issues_on _ _ rfl, issues_on _ _ rfl, by decide +kernel⟩
theorem test_pack : holds (.vpacknz 10 2 4 mAll .bf16 .rne) instPack (fun e =>
    e.vw == [(10, vec .f32 [(0, 0x3FC00103), (1, 0xC0000111), (2, 0x7FC0011F)]), (11, 0x00200003)])
    ∧ holds (.vargmax 5 3 mAll .rne) instV0 (fun e => e.vw == [(5, vec .f32 [(0, 0), (1, 0x40000000)])]) := by decide +kernel
def instEnd (e : VPend) : Inst := { instV0 with vpend := [e] }
def endG : VPend := ⟨[], none, some (9, 5), true, { nx := true }, none⟩
theorem witness_MaskWordsAndVectorEndComplete :
    (on instV0).Issues instV0 (.kand 2 1 0) ∧ (on instV0).Issues instV0 (.kmov 2 1) ∧ (on instV0).Issues instV0 (.krd 9 1)
    ∧ (on instV0).Issues instV0 (.kpopc 9 1) ∧ (on (instEnd endG)).inst? 0 0 = some (instEnd endG) ∧ (instEnd endG).vpend[0]? = some endG :=
  ⟨issues_on _ _ rfl, issues_on _ _ rfl, issues_on _ _ rfl, issues_on _ _ rfl, rfl, rfl⟩
theorem test_mask_words : holds (.kpopc 9 1) instV0 (fun e => e.gw == some (9, 2))
    ∧ goes (exec (.vectorComplete 0 0 0) (on (instEnd endG))) (fun t => (t.inst? 0 0).any (fun j => j.readG 9 == 5 && j.flags.nx)) := by
  decide +kernel

/-! Engines. -/

def tileD (op rows wbe fmt addr : Nat) : Nat :=
  2 ^ 252 + op * 2 ^ 249 + (rows - 1) * 2 ^ 225 + wbe * 2 ^ 206 + fmt * 2 ^ 202 + addr * 2 ^ 88
def weightD (entry fmt rows cols addr : Nat) : Nat :=
  2 * 2 ^ 252 + entry * 2 ^ 246 + fmt * 2 ^ 242 + (cols - 1) * 2 ^ 225 + (rows - 1) * 2 ^ 212 + addr * 2 ^ 104
def entryD (entry : Nat) : Nat := 2 * 2 ^ 252 + entry * 2 ^ 246
def copyD (src dst len rows ss ds : Nat) : Nat :=
  3 * 2 ^ 252 + src * 2 ^ 184 + dst * 2 ^ 128 + len * 2 ^ 96 + rows * 2 ^ 80 + ss * 2 ^ 52 + ds * 2 ^ 24
def extD (n2 n3 : Nat) : Nat := 4 * 2 ^ 252 + n2 * 2 ^ 236 + n3 * 2 ^ 220
def shapeD (dims base e0 e1 s0 s1 : Nat) : Nat :=
  5 * 2 ^ 252 + (dims - 1) * 2 ^ 250 + base * 2 ^ 192 + e0 * 2 ^ 176 + e1 * 2 ^ 160 + s1 * 2 ^ 32 + s0
def gatherD (fmt len count list data : Nat) : Nat :=
  6 * 2 ^ 252 + fmt * 2 ^ 240 + fmt * 2 ^ 236 + len * 2 ^ 223 + count * 2 ^ 207 + list * 2 ^ 108 + data * 2 ^ 52
def springD (n addr crc seed : Nat) : Nat := 7 * 2 ^ 252 + (n - 1) * 2 ^ 242 + addr * 2 ^ 184 + crc * 2 ^ 152 + seed * 2 ^ 64
/-- The first scratchpad. -/
def scr : Nat := 0x10000000000
/-- A descriptor of no type. -/
def badD : Nat := 15 * 2 ^ 252 + 5 * 2 ^ 192
def who0 : Who := whoOf inst0 0 0
def entryW (st : WbState) (pin : Nat) (ev : Bool) : WbEntry :=
  ⟨st, pin, 0, BitVec.ofNat 256 (weightD 5 1 64 32 0x8000), [0], none, if ev then some (0, who0) else none, false, 0⟩
def wbState (x : Nat) (e : WbEntry) : State := (on (instD x 0)).setEntry 0 5 e
theorem issues_wb (x : Nat) (e : WbEntry) (y : Instr) (h : (instD x 0).hdr.fits (uses y) = true) :
    (wbState x e).Issues (instD x 0) y := ⟨rfl, h⟩
theorem witness_ArrayAndWeightWordsComplete :
    ((on (instD badD 0)).Issues (instD badD 0) (.wbload 7 3) ∧ (on (instD badD 0)).Issues (instD badD 0) (.estat 7 3)
      ∧ wbloadOk (instD badD 0) (on (instD badD 0)) ((instD badD 0).readD 3).toNat = false
      ∧ estatOk (instD badD 0) (on (instD badD 0)) ((instD badD 0).readD 3).toNat = false)
    ∧ ((on (instD (tileD 0 4 5 1 scr) 0)).Issues (instD (tileD 0 4 5 1 scr) 0) (.opaMma 7 3) ∧ tileOk (tileD 0 4 5 1 scr) = true
      ∧ tOp (tileD 0 4 5 1 scr) = 0 ∧ ((on (instD (tileD 0 4 5 1 scr) 0)).ctx 0).holdsArr 0 = true
      ∧ (on (instD (tileD 0 4 5 1 scr) 0)).descAddr 0 (tAddr (tileD 0 4 5 1 scr)) = .ok ()
      ∧ ((on (instD (tileD 0 4 5 1 scr) 0)).quad 0).pendingOf 0 < 4
      ∧ tileOk (tileD 3 4 0 0 0) = true ∧ tOp (tileD 3 4 0 0 0) = 3 ∧ tileOk (tileD 4 4 0 0 scr) = true
      ∧ 4 ≤ Quad.pendingOf { Quad.init 0 with arrayQ := List.replicate 4 ⟨1, 0, who0, 0, 0⟩ } 0)
    ∧ ((on (instD (weightD 5 1 64 32 0x8000) 0)).Issues (instD (weightD 5 1 64 32 0x8000) 0) (.wbload 7 3)
      ∧ wbloadOk (instD (weightD 5 1 64 32 0x8000) 0) (on (instD (weightD 5 1 64 32 0x8000) 0)) (weightD 5 1 64 32 0x8000) = true
      ∧ (on (instD (weightD 5 1 64 32 0x8000) 0)).descAddr 0 0x8000 = .ok () ∧ wPat (weightD 5 1 64 32 0x8000) = false
      ∧ wPat (weightD 5 1 64 32 0x8000 + 2 ^ 224) = true
      ∧ wbloadOk (instD 0 0) (on (instD 0 0)) (weightD 5 1 64 32 0x8000 + 2 ^ 224) = true
      ∧ 1 ≤ ((on (instD (weightD 5 1 64 32 0x8000) 0)).quad 0).freeGranules.length
      ∧ ((wbState 0 { entryW .resident 0 false with gran := List.range 128 }).quad 0).freeGranules.length < 1)
    ∧ ((wbState (entryD 5) (entryW .resident 3 false)).Issues (instD (entryD 5) 0) (.wbpin 7 3)
      ∧ (wbState (entryD 5) (entryW .resident 3 false)).Issues (instD (entryD 5) 0) (.wbunpin 7 3)
      ∧ (wbState (entryD 5) (entryW .resident 3 false)).Issues (instD (entryD 5) 0) (.wbevict 7 3)
      ∧ wbEntryOk false (instD (entryD 5) 0) (wbState (entryD 5) (entryW .resident 3 false)) (entryD 5) = true
      ∧ wbEntryOk true (instD (entryD 5) 0) (wbState (entryD 5) (entryW .evicting 0 true)) (entryD 5) = true
      ∧ ((wbState (entryD 5) (entryW .loading 0 true)).quad 0).entry 5 = entryW .loading 0 true
      ∧ (entryW .loading 0 true).evict.isSome = true
      ∧ ((wbState (entryD 5) (entryW .resident 65535 false)).quad 0).entry 5 = entryW .resident 65535 false
      ∧ ((on (instD (entryD 5) 0)).quad 0).entry 5 = WbEntry.reset) := by
  refine ⟨⟨issues_on _ _ rfl, issues_on _ _ rfl, ?_⟩, ⟨issues_on _ _ rfl, ?_⟩, ⟨issues_on _ _ rfl, ?_⟩,
    issues_wb _ _ _ rfl, issues_wb _ _ _ rfl, issues_wb _ _ _ rfl, ?_⟩ <;> decide +kernel
theorem test_array_words : goes (exec (.opaMma 7 3) (on (instD (tileD 0 4 5 1 scr) 0))) (fun t => (t.quad 0).arrayQ.length == 1)
    ∧ goes (exec (.wbload 7 3) (on (instD (weightD 5 1 64 32 0x8000) 0))) (fun t => eqb ((t.quad 0).entry 5).gran [0])
    ∧ goes (exec (.wbpin 7 3) (wbState (entryD 5) (entryW .resident 3 false))) (fun t => ((t.quad 0).entry 5).pin == 4) := by
  decide +kernel
def copy0 : CopyCmd := ⟨1, who0, 0, none, 3, 0, [], none, 0⟩
def stoppedState (i : Inst) : State := (on i).setCore 0 { (on i).core 0 with copyStop := some copy0, copyQ := [copy0] }
def gather0 : GatherCmd := ⟨3, who0, false, BitVec.ofNat 256 (gatherD 1 64 4 (scr + 0x100) 0),
  BitVec.ofNat 256 (shapeD 2 0x8000 10 10 64 640), true, 2, {}, 4, 1, false, []⟩
theorem issues_stopped (i : Inst) (x : Instr) (h : i.hdr.fits (uses x) = true) : (stoppedState i).Issues i x := ⟨rfl, h⟩
theorem witness_SpringCopyAndGatherWordsComplete :
    ((on (instD (springD 3 0x2004 0 9) 0)).Issues (instD (springD 3 0x2004 0 9) 0) (.spload 7 3)
      ∧ sploadOk (instD (springD 3 0x2004 0 9) 0) (on (instD (springD 3 0x2004 0 9) 0)) (springD 3 0x2004 0 9) = true
      ∧ sploadOk (instD (springD 3 0x2005 0 9) 0) (on (instD (springD 3 0x2005 0 9) 0)) (springD 3 0x2005 0 9) = true
      ∧ bitsOf (springD 3 0x2004 0 9) 239 184 = 0x2004 ∧ 4 * (bitsOf (springD 3 0x2004 0 9) 247 242 + 1) = 12
      ∧ ((on (instD (springD 3 0x2004 0 9) 0)).ctx 0).regionOf 0x2004 12 = some (0, ⟨0, 16, 1, 1, true, 1, 0, 0⟩)
      ∧ spseedOk (instD (7 * 2 ^ 252) 0) (on (instD (7 * 2 ^ 252) 0)) (7 * 2 ^ 252) = true)
    ∧ ((on (instD (7 * 2 ^ 252) 0)).Issues (instD (7 * 2 ^ 252) 0) (.spseed 7 3)
      ∧ (on (instD (springD 3 0x2005 0 9) 0)).Issues (instD (springD 3 0x2005 0 9) 0) (.spload 7 3))
    ∧ ((on (instD (copyD 0x2000 scr 30 4 100 200) (extD 2 3))).Issues (instD (copyD 0x2000 scr 30 4 100 200) (extD 2 3)) (.cpten 7 3 4)
      ∧ copyOk false (instD 0 0) (on (instD 0 0)) (copyD 0x2000 scr 30 4 100 200) = true ∧ extOk (extD 2 3) = true
      ∧ copyOk true (instD 0 0) (on (instD 0 0)) (copyD 0x2000 scr 30 0 0 0) = true
      ∧ streamLen (copyD 0x2000 scr 30 4 100 200) (extOf (some (extD 2 3))) ≤ 2 ^ 48
      ∧ (on (instD 0 0)).descAddr 0 0x2000 = .ok () ∧ (on (instD 0 0)).descAddr 0 scr = .ok ()
      ∧ ((on (instD 0 0)).core 0).copyStop = none ∧ ((stoppedState (instD 0 0)).core 0).copyStop = some copy0)
    ∧ ((stoppedState (instD 0 0)).Issues (instD 0 0) (.eresume 7 3) ∧ eresumeOk (instD 0 0) (stoppedState (instD 0 0)) 0 = true
      ∧ eresumeOk (instD (2 ^ 16) 0) (stoppedState (instD (2 ^ 16) 0)) (2 ^ 16) = true
      ∧ [0, 1, 2, 0x503].all (fun x => estatOk (instD x 0) (on (instD x 0)) x) = true)
    ∧ ((on (instD 0x503 0)).Issues (instD 0x503 0) (.estat 7 3) ∧ (on (instD 0x503 0)).Issues (instD 0x503 0) (.gather 7 3 4)
      ∧ (on (instD 0x503 0)).Issues (instD 0x503 0) (.scatter 7 3 4)
      ∧ gatherOk false (instD 0 0) (on (instD 0 0)) (gatherD 1 64 4 (scr + 0x100) 0) = true
      ∧ gatherOk true (instD 0 0) (on (instD 0 0)) (gatherD 1 64 4 (scr + 0x100) (scr + 0x200)) = true
      ∧ shapeOk (gatherD 1 64 4 (scr + 0x100) 0) (shapeD 2 0x8000 10 10 64 640) = true
      ∧ shapeOk (gatherD 1 64 4 (scr + 0x100) 0) (shapeD 2 0x8000 10 10 64 640 + 2 ^ 248) = false
      ∧ (on (instD 0 0)).descAddr 0 0x8000 = .ok ()) := by
  refine ⟨⟨issues_on _ _ rfl, ?_⟩, ⟨issues_on _ _ rfl, issues_on _ _ rfl⟩, ⟨issues_on _ _ rfl, ?_⟩,
    ⟨issues_stopped _ _ rfl, ?_⟩, issues_on _ _ rfl, issues_on _ _ rfl, issues_on _ _ rfl, ?_⟩ <;> decide +kernel
theorem test_engine_words : goes (exec (.cp2d 7 3) (on (instD (copyD 0x2000 scr 30 4 100 200) 0))) (fun t => (t.core 0).copyQ.length == 1)
    ∧ goes (exec (.eresume 7 3) (stoppedState (instD (2 ^ 16) 0))) (fun t => (t.core 0).copyStop == none && (t.core 0).copyQ == [copy0])
    ∧ goes (exec (.gather 7 3 4) (on (instD (gatherD 1 64 4 (scr + 0x100) 0) (shapeD 2 0x8000 10 10 64 640))))
      (fun t => (t.core 0).gathers.length == 1) := by decide +kernel

/-! Units: the spring, the weight buffer, the array, the copy and gather engines. -/

def pend0 : Pend := ⟨7, .g 5, true, true, none⟩
def instP : Inst := { inst0 with pend := [pend0] }
def onQ (i : Inst) (f : Quad → Quad) : State := (on i).setQuad 0 (f ((on i).quad 0))
/-- The words of the example of chapter 09: DIM 4 by 4, BAND, DIM 2 by 2, FULL, KRON, EMIT. -/
def pat0 : List Nat := [0x04008004, 0x0DFFE001, 0x04004002, 0x08000000, 0x1C000000, 0x60000000]
def patBytes : List Byte := pat0.flatMap (leBytes 4)
def patD : Nat := springD 6 0x2004 (2 ^ 32 - 1 - crc32c (2 ^ 32 - 1) patBytes) 9
def patState : State :=
  { onQ instP (fun k => { k with springReqs := [⟨0, 0, who0, .spload (BitVec.ofNat 256 patD) patBytes 7⟩] }) with clock := 1 }
def seedState : State :=
  { (onQ instP (fun k => { k with springReqs := [⟨0, 0, who0, .spseed (BitVec.ofNat 256 (springD 1 0 0 77)) 7⟩] })).setCtx 0
    { ctx0 with pslots := [(0, { PSlot.empty with loaded := true })] } with clock := 1 }
def loadState : State :=
  (on inst0).setEntry 0 5 { entryW .loading 0 false with
    desc := BitVec.ofNat 256 (weightD 5 1 64 32 0x200), load := some (9, who0) }
def evictState : State := (on inst0).setEntry 0 5 (entryW .evicting 0 true)
theorem witness_SpringAndWeightBufferServe :
    (seedState.springFree 0 = true ∧ patState.springFree 0 = true ∧ patState.clock = 1 ∧ seedState.clock = 1
      ∧ (seedState.quad 0).springReqs.all (fun r => !seedState.startFirst 0 r) = true
      ∧ (patState.quad 0).springReqs.all (fun r => !patState.startFirst 0 r) = true)
    ∧ ((∃ r, firstSpring (seedState.quad 0).springReqs = some r ∧ r.cycle = 0 ∧ r.who.ctx = 0
        ∧ r.what = .spseed (BitVec.ofNat 256 (springD 1 0 0 77)) 7)
      ∧ ((seedState.ctx 0).pslot 0 0).goodA = true ∧ ((seedState.ctx 0).pslot 0 0).goodB = true
      ∧ seedState.referenced 0 0 0 = false ∧ ((seedState.ctx 0).pslot 0 0).loaded = true
      ∧ seedState.findPend 7 = some (0, 0, instP, pend0))
    ∧ ((∃ r, firstSpring (patState.quad 0).springReqs = some r ∧ r.cycle = 0 ∧ r.who.ctx = 0
        ∧ r.what = .spload (BitVec.ofNat 256 patD) patBytes 7)
      ∧ 2 ^ 32 - 1 - crc32c (2 ^ 32 - 1) patBytes = bitsOf patD 183 152
      ∧ (∃ g, construct (words32 patBytes) = .ok g) ∧ patState.findPend 7 = some (0, 0, instP, pend0)
      ∧ ((patState.ctx 0).pslot 0 0).goodA = true ∧ patState.referenced 0 0 0 = false)
    ∧ (Memory.wf loadState.mem = true ∧ ((loadState.quad 0).entry 5).st = .loading ∧ ((loadState.quad 0).entry 5).load = some (9, who0)
      ∧ ((loadState.quad 0).entry 5).gran.Nodup
      ∧ bitsOf ((loadState.quad 0).entry 5).desc.toNat 185 185 = 0
      ∧ (∃ bs, loadState.engineRead who0 (dieOfQuad 0) 9 0 (pieces 0x200 (denseBytes .e4m3
          (loadState.entryValues 0 ((loadState.quad 0).entry 5))) ++ pieces 0 0) = .data bs)
      ∧ ∃ bs, loadState.readPiece (dieOfQuad 0) 0 9 0 0x200 64 = .data bs)
    ∧ (((evictState.quad 0).entry 5).st = .evicting ∧ ((evictState.quad 0).entry 5).evict = some (0, who0)
      ∧ ((evictState.quad 0).entry 5).pin = 0 ∧ (evictState.quad 0).readsEntry 5 = false) := by
  refine ⟨?_, ⟨⟨_, rfl, rfl, rfl, rfl⟩, ?_⟩, ⟨⟨_, rfl, rfl, rfl, rfl⟩, ?_, ⟨_, rfl⟩, ?_⟩, ⟨?_, ?_, ?_, ?_, ?_, ⟨_, rfl⟩, ⟨_, rfl⟩⟩, ?_⟩ <;>
    decide +kernel
theorem test_spring_and_weight_buffer :
    goes (exec (.springServe 0) patState) (fun t => ((t.ctx 0).pslot 0 0).loaded)
    ∧ goes (exec (.springServe 0) seedState) (fun t => ((t.ctx 0).pslot 0 0).seed == 77)
    ∧ goes (exec (.wbEntryFree 0 5) evictState) (fun t => (t.quad 0).entry 5 == WbEntry.reset) := by decide +kernel

def zeroC : ACmd := ⟨3, BitVec.ofNat 256 (tileD 3 4 0 0 0), who0, 0, 0⟩
def mmaC : ACmd := ⟨3, BitVec.ofNat 256 (tileD 0 2 5 1 scr), who0, 0, 0⟩
/-- An entry of two rows and two columns of bf16. -/
def smallW : WbEntry := { entryW .resident 1 false with desc := BitVec.ofNat 256 (weightD 5 1 2 2 0x8000) }
/-- The entry's four values in the array, before step `n`. -/
def arun (c : ACmd) (n : Nat) : ARun := { cmd := c, done := 0, flt := false, steps := n }
/-- A SPARSE. -/
def sparseC : ACmd := ⟨3, BitVec.ofNat 256 (tileD 2 2 5 1 scr), who0, 0, 0⟩
/-- A DRAIN of two rows to an address. -/
def drainC (a : Nat) : ACmd := ⟨3, BitVec.ofNat 256 (tileD 4 2 0 0 a), who0, 0, 0⟩
/-- Its last row, translated. -/
def drainR (done : Nat) (row : Option (List Target)) : ARun := { cmd := drainC 0x6000, done := done, flt := false, row := row }
def drainTs : List Target := (List.range 8).map (fun k => .here (0x6200 + 64 * k))
def drainRow1 : List Byte := List.replicate 512 7
def drainS (r : ARun) : State := { (onQ inst0 (fun k => { k with running := some r })) with mem := [(accumBase 0 + 3, 0x40)] }
def startState (c : ACmd) : State := (onQ inst0 (fun k => { k with arrayQ := [c] })).setEntry 0 5 smallW
def arrayState (c : ACmd) : State :=
  { (onQ inst0 (fun k => { k with running := some (arun c 0) })).setEntry 0 5 smallW with
    mem := [(scr, 0x80), (scr + 1, 0x3F), (accumBase 0 + 3, 0x40)] }
theorem witness_ArrayRuns :
    (((startState mmaC).quad 0).running = none
      ∧ oldest (((startState mmaC).quad 0).arrayQ.filter ((startState mmaC).eligible 0)) = some mmaC
      ∧ ((startState zeroC).quad 0).running = none
      ∧ oldest (((startState zeroC).quad 0).arrayQ.filter ((startState zeroC).eligible 0)) = some zeroC)
    ∧ (Memory.wf (arrayState zeroC).mem = true ∧ ((arrayState zeroC).quad 0).running = some (arun zeroC 0)
      ∧ tOp zeroC.desc.toNat = 3)
    ∧ (Memory.wf (arrayState mmaC).mem = true ∧ ((arrayState mmaC).quad 0).running = some (arun mmaC 0)
      ∧ tOp mmaC.desc.toNat = 0 ∧ ((arrayState mmaC).quad 0).entry 5 = smallW
      ∧ (arrayState mmaC).tileOperands 0 0 mmaC.desc.toNat (tileK mmaC.desc.toNat smallW.desc.toNat) = some (scr, 0)
      ∧ pairKind (tFmt mmaC.desc.toNat) (wFmt smallW.desc.toNat) = some (.float false)
      ∧ ((arrayState mmaC).tileOf 0 smallW mmaC.desc.toNat (.float false) scr 0 ((arrayState mmaC).entryValues 0 smallW)).n ≤ 128
      ∧ (arrayState mmaC).tilePoison 0 smallW ((arrayState mmaC).tileOf 0 smallW mmaC.desc.toNat (.float false) scr 0
          ((arrayState mmaC).entryValues 0 smallW)) scr 0 0 = none
      ∧ (arun mmaC 0).values = ((arrayState mmaC).tileOf 0 smallW mmaC.desc.toNat (.float false) scr 0
          ((arrayState mmaC).entryValues 0 smallW)).b
      ∧ 0 + 1 < ((arrayState mmaC).tileOf 0 smallW mmaC.desc.toNat (.float false) scr 0
          ((arrayState mmaC).entryValues 0 smallW)).k
      ∧ ((arrayState mmaC).quad 0).springBad = false ∧ zeroCount mmaC.desc.toNat ≤ (arun mmaC 0).zeroed
      ∧ (((arrayState mmaC).quad 0).entry 5).pin = 1)
    ∧ (tOp sparseC.desc.toNat = 2 ∧ (startState sparseC).springTurn 0 sparseC = true
      ∧ (startState sparseC).askedAt 0 sparseC = 0
      ∧ ({ startState sparseC with clock := 1 }.setQuad 0 { (startState sparseC).quad 0 with
          springReqs := [⟨0, 0, who0, .spseed 0 7⟩] }).springTurn 0 sparseC = false)
    ∧ ((arun zeroC 0).zeroed < zeroCount zeroC.desc.toNat ∧ zeroCount zeroC.desc.toNat = 32)
    ∧ (tOp (drainC 0x6000).desc.toNat = 4 ∧ tRows (drainC 0x6000).desc.toNat = 2 ∧ (drainS (drainR 1 none)).poisonAt (accumBase 0 + 512) 512 = none
      ∧ (drainS (drainR 1 none)).engineMay 0 0 (drainRow (drainC 0x6000).desc.toNat 1) = .ok drainTs ∧ (∀ d ∈ drainTs, d.onPeer = false)
      ∧ (match (drainS (drainR 1 none)).engineMay 0 0 (drainRow (drainC (2 ^ 50)).desc.toNat 1) with
        | .error (.bad _ _ _) => true
        | _ => false) = true
      ∧ (engPuts drainTs (drainRow (drainC 0x6000).desc.toNat 1) drainRow1).map Put.dst = drainTs
      ∧ (∀ k < 8, (drainS (drainR 1 (some drainTs))).ownerClear (0x6200 + 64 * k) = true)
      ∧ tZf (drainC 0x6000).desc.toNat = false ∧ (drainS (drainR 1 none)).fetches = []) := by decide +kernel
theorem test_array_drain : goes ((drainS (drainR 1 (some drainTs))).arrayStep 0)
    (fun t => (t.quad 0).running.any (fun r => r.blocks == 1))
    ∧ goes (exec (.arrayCommandComplete 0) (drainS (drainR 0 none))) (fun t =>
      t.mem == [(0x6003, 0x40), (accumBase 0 + 3, 0x40)] && (t.quad 0).running == none) := by decide +kernel
theorem test_array_zero : goes (exec (.arrayCommandComplete 0) (arrayState zeroC))
    (fun t => t.mem == [(scr, 0x80), (scr + 1, 0x3F)] && t.next 0 0 == 1) := by decide +kernel

/-- Two rows of 30 bytes; one whose source is in no region. -/
def copyC (src : Nat) : CopyCmd := ⟨3, who0, BitVec.ofNat 256 (copyD src 0x6000 30 2 100 200), none, 0, 0, [], none, 0⟩
/-- The same, with all of its chunk read. -/
def copyR : CopyCmd := { copyC 0x2000 with reads := 3, got := List.replicate 60 7, dst := some [.here 0x6000, .here 0x60C8] }
def copyState (src : Nat) : State :=
  { (on inst0).setCore 0 { (on inst0).core 0 with copyQ := [copyC src] } with mem := [(0x2000, 7), (0x2064, 9)] }
def copyParts (src : Nat) : List (Nat × Nat × Nat) := [(src, 0x6000, 30), (src + 100, 0x60C8, 30)]
def gatherC (sc : Bool) (fmt : Nat) : GatherCmd :=
  ⟨3, who0, sc, BitVec.ofNat 256 (gatherD fmt 64 4 (scr + 0x100) 0), BitVec.ofNat 256 (shapeD 2 0x8000 10 10 64 640), true, 0, {},
    4, 0, false, []⟩
def gatherState (sc : Bool) (fmt : Nat) : State :=
  { (on inst0).setCore 0 { (on inst0).core 0 with gathers := [gatherC sc fmt] } with mem := [(0x8040, 5)] }
def elemR (sc : Bool) : MemReq :=
  { op := if sc then .write else .read, ctx := 0, va := 0x8040, n := 64, data := if sc then List.replicate 64 3 else [],
    expect := 0x70009, src := none, region := 0, page := 0, target := some (.here 0x8040), ans := .elem 0 3 1,
    ring := none, pfSent := false }
/-- A flight that stands at its destination. -/
def arrivedF (body : Body) (goal : Goal) : Flight := { mkFlight who0 4 false body goal (0, 0) (0, 0) with id := 8 }
def withF (s : State) (f : Flight) : State := { s with flights := [f], nextId := 20, clock := 1 }
def elemState (sc : Bool) : State := withF (gatherState sc 1) (arrivedF (.req (elemR sc)) .owner)
def finishedState : State := (on inst0).setCore 0 { (on inst0).core 0 with gathers := [{ gatherC false 1 with next := 4, done := 4 }] }
theorem witness_CopyAndGatherMove :
    (((copyState 0x2000).core 0).copyStop = none ∧ ((copyState 0x2000).core 0).copyQ = [copyC 0x2000]
      ∧ streamLen (copyC 0x2000).desc.toNat {} = 60 ∧ ((copyState 0x2000).ctx 0).paused = false
      ∧ (copyState 0x2000).fetches = [] ∧ streamParts (copyC 0x2000).desc.toNat {} 60 4096 0 = copyParts 0x2000
      ∧ (∃ bs, (copyState 0x2000).engineRead who0 0 3 0 ((copyParts 0x2000).flatMap (fun r => pieces r.1 r.2.2)) = .data bs)
      ∧ (copyState 0x2000).engineMay 0 0 ((copyParts 0x2000).flatMap (fun r => pieces r.2.1 r.2.2)) = .ok [.here 0x6000, .here 0x60C8]
      ∧ (copyState 0x2000).ownerClear 0x6000 = true ∧ (copyState 0x2000).ownerClear 0x60C8 = true
      ∧ (∃ bs, (copyState 0x2000).readPiece 0 0 3 0 0x2000 30 = .data bs)
      ∧ (engPuts [.here 0x6000, .here 0x60C8] ((copyParts 0x2000).flatMap (fun r => pieces r.2.1 r.2.2)) copyR.got).map
          (fun d => (d.dst, d.bytes)) = [(.here 0x6000, List.replicate 30 7), (.here 0x60C8, List.replicate 30 7)]
      ∧ ((copyParts 0x2000).flatMap (fun r => pieces r.1 r.2.2))[3]? = none
      ∧ (∃ code addr det, (copyState 0x2000).engineMay 0 0 [(2 ^ 50, 30)] = .error (.bad code addr det))
      ∧ streamParts (copyC (2 ^ 50)).desc.toNat {} 60 4096 0 = copyParts (2 ^ 50)
      ∧ ∃ k code addr det, (copyState (2 ^ 50)).engineRead who0 0 3 0 ((copyParts (2 ^ 50)).flatMap (fun r => pieces r.1 r.2.2))
          = .bad k code addr det)
    ∧ (((gatherState false 1).core 0).sending = some (gatherC false 1) ∧ (gatherC false 1).served = true
      ∧ (gatherState false 1).streamClear 0 (gatherC false 1) = true ∧ gServed (gatherC false 1).desc.toNat = false
      ∧ ((gatherState false 1).ctx 0).paused = false)
    ∧ (∀ sc : Bool, (elemState sc).flight? 8 = some (arrivedF (.req (elemR sc)) .owner)
      ∧ (elemState sc).ripe (arrivedF (.req (elemR sc)) .owner) = true
      ∧ ((elemState sc).core 0).gathers.find? (fun g => g.id = 3) = some (gatherC sc 1)
      ∧ (elemState sc).firstAtOwner (arrivedF (.req (elemR sc)) .owner) 0x8040 = true
      ∧ (elemState sc).elemAhead (arrivedF (.req (elemR sc)) .owner) (elemR sc) = false
      ∧ (elemR sc).partLen 0x8040 = 64 ∧ (elemState sc).reqRefused (elemR sc) 0x8040 = 0
      ∧ (sc = true → 0 + 64 ≤ (elemR sc).data.length) ∧ (elemR sc).n ≤ 0 + 64
      ∧ (elemState sc).poisonAt 0x8040 64 = none)
    ∧ ((finishedState.core 0).gathers.find? (fun g => g.served && g.next = g.total && g.done = g.total)
        = some { gatherC false 1 with next := 4, done := 4 }) := by
  refine ⟨⟨?_, ?_, ?_, ?_, ?_, ?_, ⟨_, rfl⟩, ?_, ?_, ?_, ⟨_, rfl⟩, ?_, ?_, ⟨_, _, _, rfl⟩, ?_, ⟨_, _, _, _, rfl⟩⟩, ?_, ?_, ?_⟩ <;>
    decide +kernel
theorem witness_elementReaches : (elemState false).reaches 0 (((elemState false).ctx 0).desc.rank % 65536) 0 :=
  .inr (.inr (by decide +kernel))
theorem test_copy_and_gather :
    goes (exec (.copyChunk 0) (copyState 0x2000))
      (fun t => t.mem == [(0x2000, 7), (0x2064, 9), (0x6000, 7), (0x60C8, 9)] && (t.core 0).copyQ == [])
    ∧ goes (exec (.gatherElementApply 8) (elemState true)) (fun t => t.readLe 0x8040 2 == 0x303)
    ∧ goes (exec (.gatherComplete 0) finishedState) (fun t => (t.core 0).gathers == []) := by decide +kernel

/-! Replies and owners. -/

def loadR (ans : Answer) : MemReq := { elemR false with va := 0x2000, n := 8, target := some (.here 0x2000), ans := ans }
def instE (e : Pend) : Inst := { inst0 with pend := [e] }
def backF (body : Body) : Flight := { arrivedF body (.core 0) with opId := 7 }
def back (i : Inst) (body : Body) : State := withF (on i) (backF body)
def datum : List Byte := leBytes 8 0xFF00000000000080
def dests : List Dest := [.g 5, .v 5, .d 5, .none]
def ringR : RingReq := ⟨.pop, 3, 0, 5⟩
def ringPend : Pend := { pend0 with dst := .ring 5 3 }
def mergeS : State :=
  let s := back inst0 (.ack (.member 2) 1 0 4 7 0 0)
  s.setCore 0 { s.core 0 with resv := [(2, ⟨0, 1, 0, some (0, 2, 3), none⟩)] }
def wakeS : State :=
  let s := back inst0 (.ringWake 0 2 8 9)
  s.setLc 0 0 { lc0 with conts := [(2, ⟨inst0, .ring 0x2000, 5, none, some (3, 0), none, .none⟩)] }
def heldF : Flight := { backF (.req { loadR (.ack none) with op := .write, src := some scr }) with stage := .held }
theorem witness_RepliesComplete :
    (dests.all (fun d => [true, false].all (fun l => ((back (instE ⟨7, d, l, true, none⟩) (.rep (loadR (.reg d none)) 0 datum)).findPend 7
      == some (0, 0, instE ⟨7, d, l, true, none⟩, ⟨7, d, l, true, none⟩))
      && (back inst0 (.rep (loadR (.reg d none)) 0 datum)).canReturn (backF (.rep (loadR (.reg d none)) 0 datum)))) = true)
    ∧ ((back inst0 (.rep (loadR (.get scr (some 2))) 0 datum)).canReturn (backF (.rep (loadR (.get scr (some 2))) 0 datum)) = true
      ∧ (back inst0 (.rep (loadR (.ack (some 2))) 0 [])).canReturn (backF (.rep (loadR (.ack (some 2))) 0 [])) = true
      ∧ Memory.wf (back inst0 (.rep (loadR (.get scr (some 2))) 0 datum)).mem = true
      ∧ (on (instE { pend0 with value := some 9 })).flight? 7 = none
      ∧ (on (instE { pend0 with value := some 9 })).findPend 7
          = some (0, 0, instE { pend0 with value := some 9 }, { pend0 with value := some 9 }))
    ∧ ([2, 3, 1, 4, 16, 25].all (fun mst => (back inst0 (.rep (loadR (.ack none)) mst (leBytes 8 0))).canReturn
        (backF (.rep (loadR (.ack none)) mst (leBytes 8 0)))) = true
      ∧ (on inst0).findInst 1 = some (0, 0, inst0) ∧ ((on inst0).ctx 0).st ≠ .free
      ∧ (((on inst0).ctx 0).lcs.get? (((on inst0).ctx 0).desc.fcore % 1024)).isSome = true)
    ∧ ((backF (.pf 7)).arrived = true ∧ (back instP (.pf 7)).replyBehind (backF (.pf 7)) = false
      ∧ (back instP (.pf 7)).findPend 7 = some (0, 0, instP, pend0)
      ∧ (back (instE ringPend) (.ringRep ringR 6 (some 4) none)).canReturn (backF (.ringRep ringR 6 (some 4) none)) = true
      ∧ (back (instE ringPend) (.ringRep ringR 6 (some 4) none)).findPend 7 = some (0, 0, instE ringPend, ringPend)
      ∧ (backF (.ringRep ringR 6 (some 4) none)).leaves = false ∧ (backF (.ringWake 0 2 8 9)).leaves = false
      ∧ wakeS.firstArrival (backF (.ringWake 0 2 8 9)) = true ∧ ((wakeS.lc 0 0).conts.get? 2).isSome = true
      ∧ (wakeS.ctx 0).trace = none
      ∧ (backF (.ack .send 2 0 0 7 0 0)).arrived = true
      ∧ (back inst0 (.ack .send 2 0 0 7 0 0)).replyBehind (backF (.ack .send 2 0 0 7 0 0)) = false
      ∧ mergeS.canReturn (backF (.ack (.member 2) 1 0 4 7 0 0)) = true
      ∧ (mergeS.core (mergeS.posOf who0)).resv.get? 2 = some ⟨0, 1, 0, some (0, 2, 3), none⟩)
    ∧ (heldF.stage = .held ∧ heldF.after.any ((on inst0).core 0).outstanding = false
      ∧ heldF.afterPerf.any ((on inst0).core 0).blocks = false ∧ (withF (on inst0) heldF).sourceClear heldF = true ∧ (withF (on inst0) heldF).poisonAt scr 8 = none) := by
  refine ⟨?_, ?_, ?_, ?_, ?_⟩ <;> decide +kernel
theorem witness_wakeRoom : wakeS.Room 0 0 inst0.prio := by constructor <;> decide +kernel
theorem test_replies :
    goes (exec (.loadReturn 8) (back (instE ⟨7, .g 5, true, true, none⟩) (.rep (loadR (.reg (.g 5) (some 8))) 0 datum)))
      (fun t => (t.inst? 0 0).any (fun j => j.readG 5 == 0xFFFFFFFFFFFFFF80))
    ∧ goes (exec (.ackReturn 8) (back inst0 (.rep (loadR (.ack (some 2))) 0 [])))
      (fun t => (t.core 0).made == [⟨4, 0, .ctr 2 (.add 1) (0, 0)⟩])
    ∧ goes (exec (.errorReply 8) (back inst0 (.rep (loadR (.ack none)) 25 (leBytes 8 0)))) (fun t => (t.inst? 0 0).isSome)
    ∧ goes (exec (.ringReply 8) (back (instE ringPend) (.ringRep ringR 6 (some 4) none)))
      (fun t => (t.inst? 0 0).any (fun j => j.readG 5 == 6 && j.readQ 3 == 4 * 2 ^ 50)) := by decide +kernel

def ownR (op : MemOp) (data : List Byte) : MemReq :=
  { loadR (.reg (.g 5) none) with op := op, data := data, ring := none }
/-- A ring of eight entries at 0x3000, its block at 0x2000, HEAD 9 and TAIL 7. -/
def ringMem : List Host.Cell :=
  wr (wr (wr (wr (wr [] 0x2000 8 0x3000) 0x2008 1 3) 0x2010 1 9) 0x2018 1 7) 0x3038 8 0x77
def ownS (op : MemOp) (data : List Byte) : State := { back instP (.req (ownR op data)) with mem := ringMem, flights :=
  [{ arrivedF (.req (ownR op data)) .owner with opId := 7 }] }
def ringQ (op : RingOp) : MemReq := { loadR (.reg (.g 5) none) with n := 64, ring := some { ringR with op := op } }
def ringS (op : RingOp) : State := { back instP (.req (ringQ op)) with mem := ringMem, flights :=
  [{ arrivedF (.req (ringQ op)) .owner with opId := 7 }] }
def ownF (r : MemReq) : Flight := { arrivedF (.req r) .owner with opId := 7 }
/-- A read and a write of 16 bytes over the end of a block. -/
def crossR (op : MemOp) : MemReq := { ownR op (if op = .write then List.replicate 16 5 else []) with n := 16, target := some (.here 0x2038) }
def crossS (op : MemOp) : State := { back instP (.req (crossR op)) with mem := ringMem, flights := [ownF (crossR op)] }
def ownOps : List (MemOp × List Byte) := [(.write, leBytes 8 5), (.read, []), (.aadd, leBytes 8 5), (.acas, leBytes 8 5)]
def ringOps : List RingOp := [.push 5, .pop, .adv 2, .wait 3 1]
theorem witness_OwnersApplyRequests :
    (ownOps.all (fun o => (ownS o.1 o.2).firstAtOwner (ownF (ownR o.1 o.2)) 0x2000
        && (ownS o.1 o.2).ripe (ownF (ownR o.1 o.2)) && (ownS o.1 o.2).windowDeferred (ownR o.1 o.2) 0x2000 == none
        && (ownS o.1 o.2).partRefused (ownR o.1 o.2) 0x2000 8 == 0 && (ownR o.1 o.2).partLen 0x2000 == 8
        && (ownS o.1 o.2).poisonAt 0x2000 8 == none && (ownS o.1 o.2).flight? 8 == some (ownF (ownR o.1 o.2))) = true)
    ∧ ([MemOp.read, .write].all (fun o => (crossS o).firstAtOwner (ownF (crossR o)) 0x2038 && (crossS o).ripe (ownF (crossR o))
        && (crossS o).windowDeferred (crossR o) 0x2038 == none && (crossS o).partRefused (crossR o) 0x2038 8 == 0
        && (crossR o).partLen 0x2038 == 8 && (crossS o).poisonAt 0x2038 8 == none && decide (0 + 8 < (crossR o).n)
        && (crossS o).flight? 8 == some (ownF (crossR o))) = true)
    ∧ (Memory.wf ringMem = true ∧ atomicNew .aadd 8 0x3000 5 0 = some 0x3005 ∧ atomicNew .acas 8 0x3000 5 0 = none)
    ∧ (ringOps.all (fun o => (ringS o).firstAtOwner (ownF (ringQ o)) 0x2000 && (ringS o).ripe (ownF (ringQ o))
        && (ringS o).windowDeferred (ringQ o) 0x2000 == none && (ringS o).partRefused (ringQ o) 0x2000 64 == 0
        && (ringS o).poisonAt 0x2000 64 == none && (ringS o).flight? 8 == some (ownF (ringQ o))) = true)
    ∧ ((ringS .pop).ringBlock 0x2000 = ⟨0x3000, 3, 9, 7, 0⟩
      ∧ (∃ z w, (ringS .pop).ringCheck (dieAt (ownerXY 0x2000).1 (ownerXY 0x2000).2) 0 0x2000 ⟨0x3000, 3, 9, 7, 0⟩ = .ok z w)
      ∧ (∃ w, (ringS (.push 5)).translate 0 0 (RingBlock.entry ⟨0x3000, 3, 9, 7, 0⟩ 9) true = .ok (.here 0x3008) w)
      ∧ (∃ w, (ringS .pop).translate 0 0 (RingBlock.entry ⟨0x3000, 3, 9, 7, 0⟩ 7) false = .ok (.here 0x3038) w)
      ∧ dieAt (ownerXY 0x2000).1 (ownerXY 0x2000).2 = 0 ∧ (ringS .pop).poisonAt 0x3038 8 = none
      ∧ 0x2000 + 64 ≤ 0x3008 ∧ RingBlock.used ⟨0x3000, 3, 9, 7, 0⟩ = 2
      ∧ RingBlock.used ⟨0x3000, 3, 15, 7, 0⟩ = 8 ∧ RingBlock.used ⟨0x3000, 3, 7, 7, 0⟩ = 0) := by
  refine ⟨?_, ?_, ?_, ?_, ?_, ⟨_, _, rfl⟩, ⟨_, rfl⟩, ⟨_, rfl⟩, ?_⟩ <;> decide +kernel
def roster2 : Roster := ⟨2, 1, 1, 5, [⟨100, 0, 0, 0, 0, none, []⟩, ⟨101, 1, 0, 0, 0, none, []⟩]⟩
/-- A watch of a word on its way; a peer's, and its cancellation; a write of a watched word. -/
def mon0 : Mon := ⟨7, 0, 0x2000, .here 0, 3, 9, false⟩
def watchS (op : MemOp) (ans : Answer) (w : List PeerWatch) (m : List Mon) : State :=
  let r := { ownR op (leBytes 8 5) with ans := ans }
  let s := { back instP (.req r) with mem := ringMem, flights := [ownF r], ctxs := [(0, { ctx0 with watchers := w, roster := some roster2 })] }
  s.setCore 0 { s.core 0 with mons := m }
def watchR (op : MemOp) (ans : Answer) : MemReq := { ownR op (leBytes 8 5) with ans := ans }
def watchOk (op : MemOp) (ans : Answer) (w : List PeerWatch) (m : List Mon) : Bool :=
  let s := watchS op ans w m
  let r := watchR op ans
  s.firstAtOwner (ownF r) 0x2000 && s.ripe (ownF r) && s.windowDeferred r 0x2000 == none
    && s.reqRefused r 0x2000 == 0 && r.partLen 0x2000 == 8 && s.flight? 8 == some (ownF r)
theorem witness_watches :
    (watchOk .watch (.watch 7) [] [mon0] = true ∧ ((watchS .watch (.watch 7) [] [mon0]).core 0).mons = [mon0] ∧ mon0.id = (ownF (watchR .watch (.watch 7))).opId)
    ∧ watchOk .watch (.peer 1 9 0) [] [] = true
    ∧ watchOk .unwatch (.peer 1 9 0) [⟨1, who0.lcore, 0x2000, 0x2000, 3, 9⟩] [] = true
    ∧ (watchOk .write (.ack none) [] [{ mon0 with pa := .here 0x2000, live := true }] = true
      ∧ Mon.hit { mon0 with pa := .here 0x2000, live := true } 0x2000 8 = true
      ∧ ((watchS .write (.ack none) [] []).ctx 0).lcoreAt 0 = some 0) := by decide +kernel
/-- A consumer parked for two entries, or for three, at the ring that has two; WAITER is 4. -/
def waiter0 (need : Nat) : Waiter := ⟨0x2000, 4, 0, 0, 2, need⟩
def waitS (op : RingOp) (need : Nat) : State := { ringS op with
  mem := wr ringMem 0x2020 1 4
  ctxs := [(0, { ctx0 with waiters := [waiter0 need] })] }
theorem witness_waiters :
    (ringOps.all (fun o => (waitS o 3).firstAtOwner (ownF (ringQ o)) 0x2000 && (waitS o 3).ripe (ownF (ringQ o))
      && (waitS o 3).partRefused (ringQ o) 0x2000 64 == 0 && (waitS o 3).poisonAt 0x2000 64 == none) = true)
    ∧ ((waitS .pop 3).ringBlock 0x2000 = ⟨0x3000, 3, 9, 7, 4⟩ ∧ (waitS .pop 3).waiterAt 0 0x2000 4 = some (waiter0 3)
      ∧ (∃ z w, (waitS .pop 3).ringCheck 0 0 0x2000 ⟨0x3000, 3, 9, 7, 4⟩ = .ok z w)
      ∧ (((waiter0 3).need : Nat) : Int) ≤ ((9 + 1 : Word).toNat : Int) - (7 : Word).toNat
      ∧ ¬ ((((waiter0 3).need : Nat) : Int) ≤ ((9 : Word).toNat : Int) - (7 : Word).toNat)
      ∧ ∃ w, (waitS (.push 5) 3).ringSlot 0 (ringQ (.push 5)) (RingBlock.entry ⟨0x3000, 3, 9, 7, 4⟩ 9) true = .ok (.here 0x3008) w) := by
  refine ⟨?_, ?_, ?_, ⟨_, _, rfl⟩, ?_, ?_, ⟨_, rfl⟩⟩ <;> decide +kernel
theorem witness_noWake (op : RingOp) : (waitS op 3).noWake 0 0x2000 4 9 7 := by
  intro w h
  have : (waitS op 3).waiterAt 0 0x2000 4 = some (waiter0 3) := by cases op <;> rfl
  rw [this] at h
  obtain rfl := Option.some.inj h
  decide
theorem test_watch_and_waiter :
    goes (exec (.ownerApply 8) (watchS .write (.ack none) [] [{ mon0 with pa := .here 0x2000, live := true }])) (fun t =>
      (t.core 0).mons == [] && t.flights.any (fun g => match g.body with
        | .msg m _ => m.hdr.hidx == 3 && m.payload == leBytes 8 0x2000 ++ leBytes 8 5 ++ leBytes 8 9
        | _ => false))
    ∧ goes (exec (.ringOpApply 8) (waitS (.push 5) 3)) (fun t => t.readLe 0x2020 8 == 0 && (t.ctx 0).waiters == []
      && t.flights.any (fun g => match g.body with
        | .ringWake lc r gd cur => lc == 0 && r == 2 && gd == 3 && cur == 7
        | _ => false)) := by decide +kernel
theorem test_owner_and_ring :
    goes (exec (.ownerApply 8) (ownS .aadd (leBytes 8 5))) (fun t => t.readLe 0x2000 8 == 0x3005)
    ∧ goes (exec (.ringOpApply 8) (ringS .pop)) (fun t => t.readLe 0x2018 8 == 8)
    ∧ goes (exec (.ringOpApply 8) (ringS (.push 5))) (fun t => t.readLe 0x3008 8 == 5 && t.readLe 0x2010 8 == 10) := by
  decide +kernel

/-! Arrivals, counters and barriers. -/

def hdr1 (kind hidx jslot : Nat) : Hdr := { hdrZero with
  kind := BitVec.ofNat 2 kind, hidx := BitVec.ofNat 12 hidx, prio := 1, tag := 0x42, jslot := BitVec.ofNat 3 jslot, ctrn := 3, ccnt := 5, plen := 8 }
def msg1 (kind hidx jslot : Nat) : Msg := ⟨hdr1 kind hidx jslot, leBytes 8 0x1122, none⟩
def atF (m : Msg) : Flight := arrivedF (.msg m .send) (.core 0)
def atS (m : Msg) : State := withF (onM inst0) (atF m)
def resvS : State := (atS (msg1 1 0 0)).setCore 0 { (atS (msg1 1 0 0)).core 0 with resv := [(2, ⟨0, 1, 0, none, none⟩)] }
def wputF : Flight := arrivedF (.wput 7 9 none 0 0) (.core 0)
def weirS : State := (withF (on inst0) wputF).setLc 0 0 { lc0 with weir := weir0 }
/-- A core whose store holds the first of two arrivals, whose sheaf list and silo each hold one, and a continuation
whose wait has ended. -/
def sheaf1 : Sheaf := ((Sheaf.opened (hdr1 0 2 1) 2).add (msg1 0 2 1) 3).1
def entry1 : QEntry := ⟨.msg (msg1 0 0 0), 1, 4, .none, false, true, none⟩
def contV : Cont := { cont0 with value := some 6 }
def storeS (m : Msg) (l : CtxCore) : State := (atS m).setLc 0 0 l
def lcSheaf : CtxCore := { lc0 with sheaves := [sheaf1] }
def lcList : CtxCore := { lc0 with sheafList := [(msg1 0 2 0, 5, 3)] }
/-- The record of that message in the pool. -/
def listS : State := { storeS (msg1 0 2 0) lcList with mem := Memory.write mem0 0x1600 (msgRecord (msg1 0 2 0) 5) }
def lcSilo : CtxCore := { lc0 with silo := [(1, [entry1])] }
def lcWake (e : List QEntry) : CtxCore := { lc0 with conts := [(2, contV)], queues := [(0, e)] }
def wakeE : QEntry := ⟨.wake 2, 0, 4, .none, false, false, none⟩
theorem witness_ArrivalsAndSheavesMove :
    ((atS (msg1 0 0 0)).flight? 8 = some (atF (msg1 0 0 0)) ∧ (atF (msg1 0 0 0)).atCore = some (0, msg1 0 0 0, .send)
      ∧ (atS (msg1 0 0 0)).receiver 0 0 = some 0 ∧ ((atS (msg1 0 0 0)).ctx 0).paused = false
      ∧ ((atS (msg1 0 0 0)).handler? 0 0 0).any (fun e => e.2.rcl == false && e.2.join == 0) = true
      ∧ ((atS (msg1 0 0 0)).ctx 0).trace = none
      ∧ (((atS (msg1 0 0 0)).lc 0 0).queue 1).length + Tab.get 0 ((atS (msg1 0 0 0)).lc 0 0).held 1
          < ((atS (msg1 0 0 0)).lc 0 0).depth 1 ∧ ((atS (msg1 0 0 0)).lc 0 0).siloOf 1 = [])
    ∧ ((atF (msg1 2 0 0)).atCore = some (0, msg1 2 0 0, .send) ∧ (msg1 2 0 0).hdr.ctrn.toNat < ((atS (msg1 2 0 0)).lc 0 0).ctrn
      ∧ (atF (msg1 1 0 0)).atCore = some (0, msg1 1 0 0, .send) ∧ resvS.firstArrival (atF (msg1 1 0 0)) = true
      ∧ (atS (msg1 0 0 0)).firstArrival (atF (msg1 0 0 0)) = true ∧ weirS.firstArrival wputF = true
      ∧ bitsOf (msg1 1 0 0).hdr.tag.toNat 6 6 = 1 ∧ (msg1 1 0 0).hdr.tag.toNat % 64 = 2
      ∧ (resvS.core 0).resv.get? 2 = some ⟨0, 1, 0, none, none⟩ ∧ weirS.receiver 0 0 = some 0)
    ∧ (((atS (msg1 0 2 0)).handler? 0 0 2).any (fun e => e.2.rcl == false && e.2.join == 2) = true
      ∧ ((atS (msg1 0 2 0)).lc 0 0).sheaves.any (fun x => x.keyOf (msg1 0 2 0).hdr) = false
      ∧ ((atS (msg1 0 2 0)).lc 0 0).sheafList = [] ∧ (atS (msg1 0 2 0)).mayOpen 0 0 = true
      ∧ ((storeS (msg1 0 2 0) lcSheaf).lc 0 0).sheaves.find? (fun x => x.keyOf (msg1 0 2 0).hdr) = some sheaf1
      ∧ sheaf1.arity ≤ sheaf1.count + 1 ∧ ((storeS (msg1 0 2 0) lcSheaf).ctx 0).glean = none
      ∧ listS.mayOpen 0 0 = true ∧ (listS.lc 0 0).sheafList = [(msg1 0 2 0, 5, 3)] ∧ (listS.lc 0 0).reserve = []
      ∧ listS.poolAt 0 0 3 = 0x1600 ∧ msgOfRecord (Memory.read listS.mem 0x1600 512) = msg1 0 2 0 ∧ Memory.wf listS.mem = true
      ∧ (listS.lc 0 0).sheaves = []
      ∧ ((storeS (msg1 0 2 0) lcSilo).lc 0 0).siloOf 1 = [entry1] ∧ ((storeS (msg1 0 2 0) lcSilo).lc 0 0).queueRoom 1 = true
      ∧ ((storeS (msg1 0 2 0) lcSilo).lc 0 0).reserve = [])
    ∧ (∀ pr < 4, ((storeS (msg1 0 2 0) lcSheaf).lc 0 0).queueRoom pr = true ∧ ((storeS (msg1 0 2 0) lcSheaf).lc 0 0).siloOf pr = [])
    ∧ (((storeS (msg1 0 2 0) (lcWake [])).lc 0 0).conts.get? 2 = some contV ∧ contV.value.isSome = true
      ∧ ((storeS (msg1 0 2 0) (lcWake [])).lc 0 0).wakeOf 2 = none
      ∧ ((storeS (msg1 0 2 0) (lcWake [])).lc 0 0).queueRoom contV.inst.prio = true
      ∧ ((storeS (msg1 0 2 0) (lcWake [])).lc 0 0).siloOf contV.inst.prio = []
      ∧ ((storeS (msg1 0 2 0) (lcWake [wakeE])).lc 0 0).wakeOf 2 = some wakeE ∧ wakeE.ready = false) := by
  refine ⟨?_, ?_, ?_, ?_, ?_⟩ <;> decide +kernel
/-- A sheaf of three arrivals that holds the first; a silo list that is not empty; a sheaf list that is not. -/
def sheaf3 : Sheaf := ((Sheaf.opened (hdr1 0 3 0) 3).add (msg1 0 3 0) 3).1
def lcSheaf3 : CtxCore := { lc0 with sheaves := [sheaf3] }
def spillS : State := storeS (msg1 0 0 0) lcSilo
theorem witness_spills :
    (spillS.firstArrival (atF (msg1 0 0 0)) = true ∧ (spillS.lc 0 0).siloOf 1 ≠ [] ∧ (spillS.lc 0 0).poolUsed < (spillS.lc 0 0).poolMax
      ∧ spillS.overflowed 0 0 = false ∧ Memory.wf spillS.mem = true)
    ∧ ((listS.lc 0 0).sheafList ≠ [] ∧ (listS.lc 0 0).poolUsed < (listS.lc 0 0).poolMax ∧ listS.overflowed 0 0 = false
      ∧ listS.poolBad 0 0 (some 3) = none ∧ spillS.poolBad 0 0 entry1.place = none)
    ∧ (((storeS (msg1 0 3 1) lcSheaf3).lc 0 0).sheaves.find? (fun x => x.keyOf (msg1 0 3 1).hdr) = some sheaf3
      ∧ sheaf3.count + 1 < sheaf3.arity
      ∧ ((storeS (msg1 0 3 1) lcSheaf3).handler? 0 0 3).any (fun e => decide (2 ≤ e.2.join)) = true)
    ∧ (resvS.firstReply (atF (msg1 1 0 0)) = true ∧ (storeS (msg1 0 2 0) (lcWake [])).wakeMade 0 0 2 = false
      ∧ (storeS (msg1 0 2 0) (lcWake [wakeE])).poisonAt ((storeS (msg1 0 2 0) (lcWake [wakeE])).contAt 0 0 2) 4096 = none) := by
  decide +kernel
theorem witness_acceptRoom : (storeS (msg1 0 2 0) lcSheaf).Room 0 0 sheaf1.leadHdr.prio.toNat
    ∧ (storeS (msg1 0 2 0) (lcWake [])).Room 0 0 contV.inst.prio := by
  constructor <;> constructor <;> decide +kernel
theorem test_spill : goes (exec (.arrivalAccept 8) spillS) (fun t => ((t.lc 0 0).siloOf 1).length == 2)
    ∧ goes (exec (.sheafArrival 8) (storeS (msg1 0 3 1) lcSheaf3)) (fun t => (t.lc 0 0).sheaves.map Sheaf.count == [2]
      && (t.core 0).made == []) := by decide +kernel
/-- The sheaf list's record taken off. -/
def restS : State := listS.setLc 0 0 { lcList with sheafList := [] }
/-- The module image lies past the silo's control block, so the handler is found as before it was written. -/
theorem witness_readbackHandler : ((restS.siloControl 0 0).handler? 0 0 2).any (fun e => decide (2 ≤ e.2.join)) = true := by
  have hm : restS.memOk := show Memory.wf restS.mem = true by decide +kernel
  have hs : restS.siloAt 0 0 = 0 := by decide +kernel
  have ht : (restS.ctx 0).tables.get? 0 = some ⟨0x4000, true⟩ := by decide +kernel
  rw [restS.handler?_siloControl 0 0 0 0 2 _ hm ht (by rw [hs]; decide)]
  decide +kernel

def ctrE (w : CtrWhat) : CtrEvent := ⟨1, 0, 3, w, (0, 0)⟩
def ctrS (w : CtrWhat) (x : Ctr) : State :=
  let s := on instP
  (s.setCore 0 { s.core 0 with ctrEvents := [ctrE w], ctrs := [(lc0.ctrb + 3, x)] })
def actP : CtrAct := .post (BitVec.ofNat 256 (tileD 3 4 0 0 0)) who0
def barA : BArr := ⟨0, 2, 3, 2, 5, 0, 0, 1, 9⟩
def barS (n : Nat) : State :=
  { withF (on inst0) (arrivedF (.barrier barA) .barrier) with
    ctxs := [(0, { ctx0 with barriers := [(barrierKey 2 (barrierUnit 2 0 0) 3, ⟨2, n, 4, 6, if n = 0 then [] else [{ barA with tag := 8 }]⟩)] })] }
theorem witness_CountersAndBarriersCount :
    ((∀ w x, (∃ n, w = .add n) ∨ w = .arm 4 actP 1 7 →
        ((ctrS w x).core 0).ctrEvents.find? (fun y => !(ctrS w x).armBehind 0 y) = some (ctrE w)) ∧ ((ctrS (.add 2) ⟨1, true, 4, actP⟩).ctx 0).lcoreAt 0 = some 0
      ∧ (∀ w x, (ctrS w x).ctr 0 (lc0.ctrb + 3) = x) ∧ min (1 + 2) (2 ^ 32 - 1) < 4 ∧ 4 ≤ min (3 + 2) (2 ^ 32 - 1)
      ∧ tileOk (tileD 3 4 0 0 0) = true ∧ ((ctrS (.add 2) ⟨1, true, 4, actP⟩).ctx 0).holdsArr (quadOf 0) = true)
    ∧ ((∀ x, ((ctrS (.arm 4 actP 1 7) x).setCore 0 { (ctrS (.arm 4 actP 1 7) x).core 0 with ctrEvents := [] }).findPend 7
          = some (0, 0, instP, pend0))
      ∧ (((ctrS (.arm 4 actP 1 7) ⟨1, false, 0, .none⟩).setCore 0
          { (ctrS (.arm 4 actP 1 7) ⟨1, false, 0, .none⟩).core 0 with ctrEvents := [] }).setCtr 0 (lc0.ctrb + 3)
            ⟨1, true, 4, actP⟩).findPend 7 = some (0, 0, instP, pend0))
    ∧ ((arrivedF (.barrier barA) .barrier).arrived = true
      ∧ (barS 0).firstArrival (arrivedF (.barrier barA) .barrier) = true ∧ ((barS 0).ctx 0).hasRank 0 = true
      ∧ (barS 1).firstArrival (arrivedF (.barrier barA) .barrier) = true ∧ ((barS 1).ctx 0).hasRank 0 = true
      ∧ Tab.get Barrier.reset ((barS 0).ctx 0).barriers (barrierKey 2 (barrierUnit 2 0 0) 3) = ⟨2, 0, 4, 6, []⟩
      ∧ (Tab.get Barrier.reset ((barS 1).ctx 0).barriers (barrierKey 2 (barrierUnit 2 0 0) 3)).count = 1
      ∧ ((barS 1).ctx 0).boundDies 2 (barrierUnit 2 0 0) 3 = []) := by
  refine ⟨⟨fun w x h => ?_, ?_, fun _ _ => ?_, ?_⟩, ⟨fun _ => rfl, ?_⟩, ?_⟩
  · rcases h with ⟨n, rfl⟩ | rfl <;> rfl
  all_goals first | rfl | decide +kernel
theorem test_counter_and_barrier :
    goes (exec (.counterEvent 0) (ctrS (.add 2) ⟨3, true, 4, actP⟩)) (fun t => t.ctr 0 (lc0.ctrb + 3) == ⟨1, false, 4, actP⟩)
    ∧ goes (exec (.barrierArrival 8) (barS 0)) (fun t =>
      Tab.get Barrier.reset (t.ctx 0).barriers (barrierKey 2 (barrierUnit 2 0 0) 3) == ⟨2, 1, 5, 6, [barA]⟩) := by
  decide +kernel
theorem test_sheaf_fires : goes (exec (.sheafArrival 8) (storeS (msg1 0 2 0) lcSheaf)) (fun t => (t.lc 0 0).sheaves == []
      && (t.core 0).made.map (fun m => (m.cls, m.ctx)) == [(13, 0)])
    ∧ (((storeS (msg1 0 2 0) lcSheaf).acceptMade 0 ⟨13, 0, .sheaf 0 (sheaf1.add (msg1 0 2 0) 0).1⟩).lc 0 0 |>.queue 1).map (fun e => e.item)
      = [.sheaf (sheaf1.add (msg1 0 2 0) 0).1.leadHdr [0x1122, 0x1122, 0, 0] (0, 0, 0)] := by decide +kernel

/-! Dispatch and the expert units. -/

def emptyS : State := { onM inst0 with cores := [] }
def replyS : State := emptyS.setCore 0 { emptyS.core 0 with resv := [(2, ⟨0, 1, 0, none, some (msg1 1 0 0, 5)⟩)] }
def queueS (e : QEntry) (k : List (Nat × Cont)) : State := emptyS.setLc 0 0 { lc0 with queues := [(e.prio, [e])], conts := k }
def readyE : QEntry := { wakeE with ready := true }
theorem witness_DispatchStartsInstances :
    ((replyS.core 0).freeSlot = some 0
      ∧ oldestBy (fun e => (replyS.core 0).ageOf e.2.2.2) (replyS.waitingReplies 0)
          = some (2, ⟨0, 1, 0, none, some (msg1 1 0 0, 5)⟩, msg1 1 0 0, 5)
      ∧ (replyS.handler? 0 0 1).isSome = true)
    ∧ (((queueS entry1 []).core 0).freeSlot = some 0 ∧ (queueS entry1 []).waitingReplies 0 = []
      ∧ (queueS entry1 []).choose 0 = some ((0, 0, entry1), 0) ∧ ((queueS entry1 []).handler? 0 0 0).isSome = true)
    ∧ (((queueS readyE [(2, contV)]).core 0).freeSlot = some 0 ∧ (queueS readyE [(2, contV)]).waitingReplies 0 = []
      ∧ (queueS readyE [(2, contV)]).choose 0 = some ((0, 0, readyE), 0)
      ∧ ((queueS readyE [(2, contV)]).lc 0 0).conts.get? 2 = some contV ∧ contV.emit = none) := by
  refine ⟨?_, ?_, ?_⟩ <;> decide +kernel

/-- A balance controller on die 0 with two experts, its table at 0x8000, and an episode that waits for it. -/
def bctl0W : Word := word64 (2 ^ 56 + 0x8000 + 3)
def bctl1W : Word := word64 (0x3F800000 * 2 ^ 32 + 2 * 2 ^ 16)
def closing0 : Closing := ⟨[0], [], 0, 0⟩
def balS : State := { on inst0 with
  ctxs := [(0, { ctx0 with bctl0 := [(0, bctl0W)], bctl1 := [(0, bctl1W)], closing := [closing0] })]
  mem := wr (wr (wr (wr [] 0x8000 4 6) 0x8004 4 10) 0x8040 4 8) 0x8048 4 12 }
/-- A record ring of four slots at 0xA000, its first record filled: 0 rows, or 3 rows with a template at 0xB000. -/
def rdcfgW : Word := word64 (2 * 2 ^ 60 + 2 ^ 56 + 0xA000)
def recN (n : Nat) : Nat := 2 ^ 24 + n * 2 ^ 64 + 0xB000 * 2 ^ 128 + scr * 2 ^ 192
def recS (n : Nat) : State := { on inst0 with
  ctxs := [(0, { ctx0 with rdcfg := [(0, rdcfgW)] })]
  mem := wr (wr [] 0xA040 32 (recN n)) 0xB000 32 (tileD 0 4 5 1 scr) }
theorem witness_ExpertUnitsComplete :
    (balS.closingAt 0 = [(0, closing0)] ∧ balS.tableBad 0 0 = none
      ∧ balS.physPieces 0 0 (pieces (bTable bctl0W) (64 + 8 * bitsOf bctl1W.toNat 31 16)) = some [(0x8000, 64), (0x8040, 16)])
    ∧ (∀ n, n = 0 ∨ n = 3 → rEn rdcfgW = true ∧ ((recS n).ctx 0).st = .running ∧ Memory.wf (recS n).mem = true
      ∧ (recS n).translate 0 0 (rBase rdcfgW) true = .ok (.here 0xA000) true ∧ (recS n).readLe 0xA000 8 = 0
      ∧ rBase rdcfgW + 64 + 32 * (0 % rSize rdcfgW) = 0xA040
      ∧ (∃ bs, (recS n).engineRead (dispWho 0 0 0) 0 (dispCmd 0 0) 0 (pieces 0xA040 32) = .data bs ∧ ofLe bs = recN n)
      ∧ bitsOf (recN n) 24 24 = 1 ∧ ((recS n).ctx 0).recOk (recS n) 0 (recN n) = true ∧ recCount (recN n) = n)
    ∧ ((∃ ts, (recS 3).engineRead (dispWho 0 0 (recTag (recN 3))) 0 (dispCmd 0 0) 8 (pieces (recTaddr (recN 3)) 32) = .data ts
        ∧ templateOk (ofLe ts) = true)) := by
  refine ⟨?_, ?_, ⟨_, rfl, ?_⟩⟩
  · decide +kernel
  · rintro n (rfl | rfl) <;> refine ⟨?_, ?_, ?_, ?_, ?_, ?_, ⟨_, rfl, ?_⟩, ?_⟩ <;> decide +kernel
  · decide +kernel
theorem test_dispatch : goes (exec (.dispatch 0) (queueS entry1 [])) (fun t => (t.inst? 0 0).any (fun i =>
    i.hidx == 0 && i.tag == 0x42 && i.pc == 0x4110 && i.readM 8 == 0x1122)) := by decide +kernel
theorem test_balance : goes (exec (.balanceUpdate 0) balS) (fun t => t.readLe 0x8000 4 == 7 && t.readLe 0x8040 4 == 0
    && t.readLe 0x8044 4 == 0x40000000 && t.readLe 0x804C 4 == 0xC0000000) := by decide +kernel

/-! Translation, the fabric and the ports. -/

def reqT : MemReq := { loadR (.reg (.g 5) none) with va := 0x100000008, region := 2, target := none }
def sl0 : Nat := sliceOf 0 2 0
def transF (st : Stage) : Flight := { arrivedF (.req reqT) (.slice 0 sl0) with opId := 7, stage := st }
def hereT : Stage := (arrivedF (.req reqT) (.slice 0 sl0)).stage
def ent0 : TlbEnt := ⟨0, 2, 0, 0x20000, true⟩
def transS (st : Stage) (pte : Nat) (ents : List TlbEnt) (inval : List (Nat × Nat × Nat × Nat)) : State :=
  { (withF (on instP) (transF st)).setSlice 0 sl0 ⟨ents, [], inval, [], []⟩ with mem := wr [] 0x8000 8 pte }
/-- The same region through a table of two levels. -/
def deepS : State :=
  { transS (.sliceWalk 0x8000 1 0x8000) (2 ^ 63 + 0x9000) [] [] with
    ctxs := [(0, { ctx0 with regions := regions0.set 2 ⟨0x100000000, 4, 0, 0, true, 2, 0, 0x8000⟩ })] }
/-- A request that reaches the next page, of a slice that holds the first. -/
def crossT : MemReq := { reqT with va := 0x10000FFF8, n := 16 }
def crossTS : State :=
  let s := withF (on instP) { arrivedF (.req crossT) (.slice 0 sl0) with opId := 7 }
  { s.setSlice 0 sl0 ⟨[ent0], [], [], [], []⟩ with
    mem := wr (wr [] 0x8000 8 (3 * 2 ^ 62 + 0x20000)) 0x8008 8 (3 * 2 ^ 62 + 0x30000) }
def dropS (ids : List Nat) : State := (transS hereT 0 [] []).setSlice 0 sl0 ⟨[], [], [], [((0, 2, 0, 1), ids, [])], []⟩
theorem witness_TranslationSteps :
    ((transS hereT 0 [] []).flight? 8 = some (transF hereT) ∧ (transF hereT).goal = .slice 0 sl0 ∧ (transF hereT).arrived = true
      ∧ ((transS hereT 0 [] []).sliceAt 0 sl0).find 0 2 0 = none ∧ (transS hereT 0 [] []).walkerFor 0 sl0 reqT = none
      ∧ ((transS hereT 0 [] []).walksAt 0 sl0).length < 16 ∧ (transS hereT 0 [] []).waitAhead 0 sl0 (transF hereT) = false)
    ∧ (((transS hereT 0 [ent0] []).sliceAt 0 sl0).find 0 2 0 = some ent0
      ∧ (transS hereT 0 [ent0] []).firstPage 0 reqT = .ok (.here 0x20008) true
      ∧ (transS hereT 0 [ent0] []).laterPage 0 reqT = none
      ∧ (crossTS.sliceAt 0 sl0).find 0 2 0 = some ent0 ∧ crossTS.firstPage 0 crossT = .ok (.here 0x2FFF8) true
      ∧ crossTS.laterPage 0 crossT = some (0x100010000, .ok (.here 0x30000) true))
    ∧ (deepS.walkRead ((deepS.ctx 0).regionAt 2) 0 1 0x8000 = .next 0x9000
      ∧ (transS (.sliceWalk 0x8000 0 0x8000) (3 * 2 ^ 62 + 0x20000) [] []).walkRead (ctx0.regionAt 2) 0 0 0x8000
          = .leaf 0x20000 true
      ∧ (transS (.sliceWalk 0x8000 0 0x8000) 0 [] []).walkRead (ctx0.regionAt 2) 0 0 0x8000 = .absent 0x8000
      ∧ (transS (.sliceWalk 0x8000 0 0x8000) 0 [] []).walkGroup 0 sl0 (transF (.sliceWalk 0x8000 0 0x8000))
          = [transF (.sliceWalk 0x8000 0 0x8000)]
      ∧ ((transS (.sliceWalk 0x8000 0 0x8000) 0 [] []).heldAt 0 sl0).length < 256)
    ∧ ((transS (.sliceHeld 0x8000 true) 0 [] []).walkerFor 0 sl0 reqT = none
      ∧ ((transS (.sliceHeld 0x8000 true) 0 [] []).walksAt 0 sl0).length < 16
      ∧ (transS (.sliceHeld 0x8000 true) 0 [] []).waitAhead 0 sl0 (transF (.sliceHeld 0x8000 true)) = false
      ∧ (∀ x ∈ (transS (.sliceHeld 0x8000 true) 0 [] []).heldAt 0 sl0, x.stage = .sliceHeld 0x8000 true →
          (transF (.sliceHeld 0x8000 true)).arr ≤ x.arr) ∧ (transF .sliceBack).stage = .sliceBack)
    ∧ (((transS hereT 0 [ent0] [(0, 2, 0, 1)]).sliceAt 0 sl0).inval ≠ []
      ∧ ((dropS [4]).sliceAt 0 sl0).inval = [] ∧ ((dropS [4]).sliceAt 0 sl0).drops ≠ []
      ∧ ((dropS [4]).sliceAt 0 sl0).drops.all (fun x => !(dropS [4]).unapplied x) = true
      ∧ ((dropS [8]).sliceAt 0 sl0).drops.all (fun x => !(dropS [8]).unapplied x) = false) := by
  refine ⟨?_, ?_, ?_, ?_, ?_⟩ <;> decide +kernel

/-- An invalidation of a page whose walk is at its leaf. -/
theorem witness_walkRestarts :
    ((transS (.sliceWalk 0x8000 0 0x8000) 0 [] [(0, 2, 0, 1)]).sliceAt 0 sl0).inval = [(0, 2, 0, 1)]
    ∧ inRange (0, 2, 0, 1) 0 reqT.key.1 reqT.key.2.1 = true ∧ reqT.ctx = 0 := by decide +kernel
theorem test_walkRestarts : goes (exec (.tlbInvalidate 0 sl0) ({ deepS with flights := [transF (.sliceWalk 0x9000 0 0x9000)] }.setSlice 0 sl0
      ⟨[], [], [(0, 2, 0, 1)], [], []⟩)) (fun t => t.flights.map Flight.stage == [.sliceWalk 0x8000 1 0x8000]) := by decide +kernel
/-- A request bound for the router (9, 3), at a router or in an output buffer; a reply. -/
def moveF (y : Nat) (st : Stage) : Flight := { arrivedF (.req (elemR false)) .owner with dx := 9, dy := y, stage := st }
def routeS (f : Flight) : State := withF (on inst0) f
def inBuf (x : Nat) (e : Bool) : Flight := moveF 3 (.lane x 3 true true e)
def replyAt (x : Nat) : Flight := { moveF 3 (.router x 3 false) with body := .rep (elemR false) 0 [], reply := true }
def linkL (h : Bool) : Link := ⟨h, false, 17, 2, true⟩
theorem witness_FabricMovesFlights :
    (∀ e : Bool, (routeS (moveF 3 (.router 5 3 e))).flight? 8 = some (moveF 3 (.router 5 3 e))
      ∧ (routeS (moveF 3 (.router 5 3 e))).outputFor (moveF 3 (.router 5 3 e)) 5 3 e = some ((true, true), e))
    ∧ (∀ x, x = 5 ∨ x = 7 → (routeS (inBuf x false)).aheadOf (inBuf x false) x 3 (true, true) false = false
      ∧ (routeS (inBuf x false)).laneTakes (inBuf x false) x 3 (true, true) = true
      ∧ (inBuf x false).dimOutput x 3 = some (true, true) ∧ (replyAt x).dimOutput x 3 = some (true, true)
      ∧ (routeS (replyAt x)).aheadOf (replyAt x) x 3 (true, true) false = false
      ∧ (routeS (replyAt x)).laneTakes (replyAt x) x 3 (true, true) = true)
    ∧ (linkOf (5, 3) (nextXY 5 3 true true) = none ∧ (linkOf (7, 3) (nextXY 7 3 true true)).isSome = true)
    ∧ (((on inst0).linkAt 3).dead = false ∧ (∀ h : Bool, (((on inst0).setLink 3 (linkL h)).linkAt 3) = linkL h)
      ∧ linkUp 3 8 3 = true) := by
  refine ⟨?_, ?_, ?_⟩
  · intro e; cases e <;> decide +kernel
  · rintro x (rfl | rfl) <;> decide +kernel
  all_goals decide +kernel
def linkS (h : Bool) : State := (withF (on inst0) { moveF 3 (.link 3 8 3 false) with id := 8 }).setLink 3 (linkL h)
theorem test_walk : goes (exec (.pageWalkRead 8) (transS (.sliceWalk 0x8000 0 0x8000) (3 * 2 ^ 62 + 0x20000) [] []))
    (fun t => (t.sliceAt 0 sl0).ents == [ent0]) := by decide +kernel
/-- Into an output buffer, and then over the lane onto the link; a frame whose CRC fails is a failed sending. -/
theorem test_route : goes (exec (.quadRouterForward 8 .adaptiveX) (routeS (moveF 3 (.router 7 3 false))))
      (fun t => t.flights.map Flight.stage == [.lane 7 3 true true false])
    ∧ goes (exec (.quadRouterForward 8 .adaptiveX) (routeS (inBuf 7 false))) (fun t => t.flights.map Flight.stage == [.link 3 8 3 false])
    ∧ goes (exec (.linkHalfRate 3) (linkS true)) (fun t => t.hub.linkFailed == some 3)
    ∧ goes (exec (.d2dFrameReceive 67 true) (linkS false)) (fun t => t.flights.map Flight.stage == [.router 8 3 false]) := by
  decide +kernel

/-! Ports and key sessions. -/

def geom2 : Geom := ⟨2, 1, 1, 0, 0, 0, 100⟩
def peerF : Flight := { arrivedF (.req { elemR false with target := some (.chip 1 0x8040), ans := .reg (.g 5) none }) (.egress 3) with opId := 7 }
/-- A port with a bank of each direction loaded, which expects frame 5 and has not heard from its peer for 8 ms. -/
def port1 (ph : Phase) (rk : Rekey) (kg up : Bool) : Port := { Port.reset with
  up := up, phase := ph, tx := ⟨some 4, some (2 ^ 48), kg⟩, rx := ⟨some 4, none, kg⟩, rekeying := rk, fseq := 65535, rxSeq := 5 }
def podS : State :=
  let s := withF (on inst0) peerF
  ({ s with ctxs := [(0, { ctx0 with roster := some roster2 })], hub := { s.hub with geom := some geom2 } }).setPort 3
    (port1 .active .none false true)
def portS (p : Port) : State := { (on inst0).setPort 2 p with clock := dayCycles }
/-- A read of eight bytes at 0x8040 from chip 1. -/
def frameU : PeerUnit := .via (0, 0, 0) (1, 0, 0) false (.req 1 9 0 .read 0x8040 8 [] 0 none)
def frame (fec : Bool) (seq : Nat) : Frame := ⟨fec, true, true, true, false, 9, seq, 0, 0, 0, [frameU]⟩
def portUp : State :=
  let s := portS (port1 .active .none false true)
  s.setHub { s.hub with geom := some geom2 }
/-- A copy whose destination is a peer's. -/
def copyP : CopyCmd := ⟨3, who0, BitVec.ofNat 256 (copyD 0x2000 0x300000000 30 2 100 200), none, 0, 0, [], none, 0⟩
def copyPS : State :=
  let s := (podS.setCore 0 { podS.core 0 with copyQ := [copyP] }).setCtx 0 { podS.ctx 0 with
    regions := regions0 ++ [⟨0x300000000, 1, 1, 3, true, 1, 1, 0x8000⟩] }
  { s with flights := [] }
theorem witness_copyToPeer : copyPS.engineMay 0 0 [(0x300000000, 30), (0x3000000C8, 30)] = .ok [.chip 1 0x8000, .chip 1 0x80C8]
    ∧ Target.onPeer (.chip 1 0x8000) = true ∧ (copyPS.ctx 0).paused = false ∧ copyPS.fetches = []
    ∧ (∃ bs, copyPS.engineRead who0 0 3 0 [(0x2000, 30), (0x2064, 30)] = .data bs) := by
  refine ⟨?_, ?_, ?_, ?_, ⟨_, rfl⟩⟩ <;> decide +kernel
theorem witness_PortsAndLinkKeys :
    (podS.flight? 8 = some peerF ∧ peerF.arrived = true ∧ peerF.needsEntry = true ∧ podS.lostFor peerF 3 = false
      ∧ (podS.port 3).up = true ∧ (podS.port 3).freeEntry = some 0 ∧ podS.maySend 3 peerF (4096 * 3) = true)
    ∧ ((portUp.port 2).up = true ∧ portUp.hub.geom = some geom2 ∧ geom2.direction 0 0 0 = none
      ∧ ((frame true 5).units.map unitFlits).sum ≤ 25 ∧ (frame true 5).units.all (unitOn 2) = true
      ∧ (portUp.port 2).passes (frame false 5) = false ∧ (portUp.port 2).passes (frame true 5) = true
      ∧ (frame true 5).fseq = (portUp.port 2).rxSeq ∧ (frame true 6).fseq ≠ (portUp.port 2).rxSeq)
    ∧ ((portUp.port 2).lastGood + silenceCycles ≤ portUp.clock
      ∧ ((portS (port1 .none .none false false)).port 2).up = false ∧ ((portS (port1 .none .none false false)).port 2).downDay = false
      ∧ ((portS (port1 .none .none false false)).port 2).downAt + dayCycles ≤ (portS (port1 .none .none false false)).clock)
    ∧ (∀ ph rk kg up, (portS (port1 ph rk kg up)).port 2 = port1 ph rk kg up)
    ∧ ((port1 .active .switched true true).unacked.all (fun x => x.1.kg == (port1 .active .switched true true).tx.kg) = true
      ∧ (port1 .active .none false true).tx.bank true = some (2 ^ 48) ∧ 2 ^ 48 ≤ 2 ^ 48) := by
  refine ⟨?_, ?_, ?_, fun _ _ _ _ => rfl, ?_⟩ <;> decide +kernel
theorem test_ports : goes (exec (.remoteTableEntry 8) podS) (fun t => (t.port 3).remote == [(0, 8)])
    ∧ goes (exec (.druntasyFrameReceive 2 (frame true 5)) portUp) (fun t => t.flights.any (fun g =>
      match g.body with
      | .req r => r.op == .read && r.target == some (.here 0x8040) && r.n == 8
      | _ => false))
    ∧ goes (exec (.druntasyFrameReceive 2 (frame false 5)) portUp) (fun t => t.flights.isEmpty && (t.port 2).retries == 1)
    ∧ goes (exec (.finish 2) (portS (port1 .keyEx .none true true)))
      (fun t => (t.port 2).tx.bank false == some 0 && (t.port 2).rx.bank true == none) := by decide +kernel

/-! Mailbox commands. -/

/-- A state whose cell 1 holds a command on context 0, started or under way. -/
def cmdS (s : State) (phase code : Nat) (args : List Nat) : State :=
  { s with hub := { s.hub with
      mb := [(1, leBytes 3 code ++ List.replicate 5 0 ++ args.flatMap (leBytes 8) ++ List.replicate (56 - 8 * args.length) 0)]
      busy := [(1, phase)] } }
def commanded (s : State) (code phase : Nat) : Bool :=
  Tab.get 0 s.hub.busy 1 == phase && s.hub.cmdCode 1 == code && s.hub.cmdCtx 1 == 0
    && !s.hub.busyOn 1 0
theorem commanded_of (s : State) (code phase : Nat) (h : commanded s code phase = true) : s.Commanded 1 code phase := by
  simp [commanded] at h
  exact ⟨by decide, h.1.1.1, h.1.1.2, fun _ => by omega, fun _ _ _ => by rw [h.1.2]; exact h.2⟩
def inSt (st : CtxSt) : State := { on inst0 with ctxs := [(0, { ctx0 with st := st })] }

/-- A context descriptor at 0x1000 with its image at 0x4000: one plain handler, one core at position 0, one region. -/
def bootMem : List Host.Cell :=
  let m := wr (wr (wr (wr [] 0x4000 4 0x0034594E) 0x4004 2 1) 0x4008 2 1) 0x4018 8 0x40
  let m := wr (wr (wr m 0x4040 8 0x100) 0x4100 8 (2 ^ 60 + 20 * 2 ^ 47 + 4 * 2 ^ 41 + 2 * 2 ^ 36)) 0x4108 8 (16 * 2 ^ 32)
  let m := wr (wr (wr m 0x1000 8 0x4000) 0x1008 8 0x4000) 0x102C 2 1
  let m := wr (wr (wr (wr (wr m 0x1038 8 0x1200) 0x1040 8 0x1400) 0x1048 8 0x1600) 0x1050 8 0x1800) 0x1058 2 1
  let m := wr (wr m 0x1400 8 (0x04040404 * 2 ^ 32 + 2 ^ 16)) 0x1408 8 (6 * 2 ^ 56)
  wr m 0x1800 32 (15 * 2 ^ 164 + 2 ^ 160 + 2 ^ 159)
def bootS : State := { State.reset with mem := bootMem }
/-- A module that has not launched, with a descriptor at `a` named in cell 1. -/
def launchS (a : Nat) (link : Option Nat) : State :=
  cmdS { bootS with hub := { bootS.hub with linkFailed := link } } 1 1 [a]
def rebindS (st : CtxSt) (im : Nat) : State :=
  let s := cmdS { inSt st with mem := bootMem } 1 2 [im]
  s.setCtx 0 { s.ctx 0 with tables := (s.ctx 0).tables.put 1 ⟨0x4000, true⟩ }
def states : List (Nat × CtxSt × CtxSt) := [(1, .running, .launching), (2, .free, .saving), (3, .saved, .restoring), (4, .running, .ending),
  (5, .free, .saving), (6, .free, .launching), (7, .free, .restoring), (8, .free, .saving)]
theorem witness_LaunchAndRebindComplete :
    ((states.all (fun r => commanded (cmdS (inSt r.2.1) 1 r.1 []) r.1 1 && commanded (cmdS (inSt r.2.2) 1 r.1 []) r.1 1
        && (cmdS (inSt r.2.1) 1 r.1 []).restoring 1 == none && (cmdS (inSt r.2.2) 1 r.1 []).restoring 1 == none
        && decide (32 ≤ (cmdS (inSt .free) 1 (r.1 + 32 * 2 ^ 16) []).hub.cmdCtx 1)) = true)
      ∧ Tab.get 0 (cmdS (inSt .free) 1 9 []).hub.busy 1 = 1 ∧ knownCode ((cmdS (inSt .free) 1 9 []).hub.cmdCode 1) = false)
    ∧ ((launchS 0x1000 (some 3)).Commanded 1 1 1 ∧ ((launchS 0x1000 (some 3)).ctx 0).st = .free
      ∧ (launchS 0x1000 (some 3)).hub.linkFailed = some 3 ∧ (launchS 0x1000 none).Commanded 1 1 1
      ∧ (launchS 0x1000 none).hub.linkFailed = none ∧ ((launchS 0x1000 none).checkLaunch 0 0x1000).isOk = true
      ∧ (launchS 0x1001 none).Commanded 1 1 1 ∧ ((launchS 0x1001 none).checkLaunch 0 0x1001).isOk = false)
    ∧ (∀ st, st = .running ∨ st = .saved → (rebindS st 0x4000).Commanded 1 2 1 ∧ ((rebindS st 0x4000).ctx 0).st = st
      ∧ (rebindS st 0x4000).resident 0 1 = false ∧ (rebindS st 0x4000).badImage 0x4000 = none
      ∧ ((rebindS st 0x4000).checkHeaders false 0x4000).isOk = true)
    ∧ ((rebindS .running 0x4000).setCtx 0 { (rebindS .running 0x4000).ctx 0 with nextGen := some 3 }).resident 0 0 = true := by
  refine ⟨⟨?_, ?_, ?_⟩, ⟨commanded_of _ _ _ ?_, ?_, ?_, commanded_of _ _ _ ?_, ?_, ?_, commanded_of _ _ _ ?_, ?_⟩, ?hs, ?_⟩
  case hs => rintro st (rfl | rfl) <;> refine ⟨commanded_of _ _ _ ?_, ?_, ?_, ?_, ?_⟩ <;> decide +kernel
  all_goals decide +kernel
/-- RESULT of cell 1, free and signalled: its vector has left, or is pending while it is masked. -/
def resulted (t : State) (r : Nat) : Bool :=
  ofLe (sliceBytes (t.hub.cell 1) 56 8) == r && Tab.get 0 t.hub.busy 1 == 0 && t.hub.mbdone.testBit 1
    && (t.outbox.getLast? == some (.msix 0) || t.hub.pba.testBit 0)
theorem test_launch : goes (exec (.launch 1) (launchS 0x1000 none)) (fun t =>
    resulted t 0 && (t.ctx 0).st == .running && (t.ctx 0).regions.length == 1) := by decide +kernel
theorem test_rebind : goes (exec (.rebind 1) (rebindS .running 0x4000)) (fun t => resulted t 0 && (t.ctx 0).gen == 1) := by
  decide +kernel

/-- The context of the tests between states, with nothing running. -/
def ctxR : Ctx := { ctx0 with lcs := [(0, { lc0 with dcfg := 0x0404040400010000 })] }
def haltS (st : CtxSt) (h : Halt) : State := { inSt st with ctxs := [(0, { ctxR with st := st, halt := h })], cores := [] }
def saved0 : Saved := (haltS .saving (.preempt 1)).savedOf 0
def savedS (st : CtxSt) (h : Halt) : State :=
  { haltS st h with ctxs := [(0, { ctxR with st := st, halt := h, saved := some saved0 })] }
theorem witness_SaveRestoreAndEndComplete :
    ((cmdS (inSt .running) 1 3 []).Commanded 1 3 1 ∧ ((cmdS (inSt .running) 1 3 []).ctx 0).st = .running)
    ∧ ((cmdS (haltS .saving (.preempt 1)) 2 3 []).Commanded 1 3 2
      ∧ (cmdS (haltS .saving (.preempt 1)) 2 3 []).settledCtx 0 = true
      ∧ ((cmdS (haltS .saving (.preempt 1)) 2 3 []).ctx 0).saved = none)
    ∧ ((cmdS (savedS .saved .none) 1 4 [0]).Commanded 1 4 1 ∧ (cmdS (savedS .saved .none) 1 4 [0]).restoring 1 = none
      ∧ ((cmdS (savedS .saved .none) 1 4 [0]).ctx 0).saved = some saved0
      ∧ (match (cmdS (savedS .saved .none) 1 4 [0]).checkRestore 0 saved0 0 with
        | .ok new => new == [0]
        | .error _ => false) = true)
    ∧ ((savedS .restoring (.restore 1 [0])).restoring 1 = some (0, saved0, [0])
      ∧ (savedS .restoring (.restore 1 [0])).slotsFree ((savedS .restoring (.restore 1 [0])).ctx 0) saved0 [0] = true
      ∧ (savedS .restoring (.restore 1 [0])).flights = []
      ∧ (savedS .restoring (.restore 1 [0])).restoreBad 0 saved0 = none
      ∧ (∀ e ∈ ((savedS .restoring (.restore 1 [0])).ctx 0).lcs, e.2.sheafList = [] ∧ e.2.reserve = [] ∧ e.2.silo = []))
    ∧ ((cmdS (inSt .running) 1 5 []).Commanded 1 5 1 ∧ (cmdS (haltS .ending (.finish 1)) 2 5 []).Commanded 1 5 2
      ∧ (cmdS (haltS .ending (.finish 1)) 2 5 []).settledCtx 0 = true
      ∧ (cmdS (haltS .ending (.finish 1)) 2 5 []).translatedAll 0 = true
      ∧ (cmdS (savedS .saved .none) 1 5 []).Commanded 1 5 1) := by
  refine ⟨⟨commanded_of _ _ _ ?_, ?_⟩, ⟨commanded_of _ _ _ ?_, ?_⟩, ⟨commanded_of _ _ _ ?_, ?_⟩, ?_,
    ⟨commanded_of _ _ _ ?_, commanded_of _ _ _ ?_, ?_, ?_, commanded_of _ _ _ ?_⟩⟩ <;> decide +kernel
theorem test_preempt : goes (exec (.preempt 1) (cmdS (inSt .running) 1 3 [])) (fun t => (t.ctx 0).st == .saving)
    ∧ goes (exec (.restore 1) (savedS .restoring (.restore 1 [0]))) (fun t => (t.ctx 0).st == .running && (t.ctx 0).saved == none) := by
  decide +kernel

/-! Page, module, journal and observation commands. -/

def pageS (phase code : Nat) : State :=
  { cmdS (inSt .running) phase code [0x100000000, 1, 1] with mem := wr [] 0x8000 8 (2 ^ 63 + 0x20000) }
def verifyS (k : Nat) : State := cmdS (inSt .running) 1 0x21 [0x2000, 64, 0x3000, k]
theorem witness_PagesAndModuleCommandsComplete :
    ((pageS 1 6).Commanded 1 6 1 ∧ (pageS 2 6).Commanded 1 6 2 ∧ (pageS 1 7).Commanded 1 7 1 ∧ (pageS 2 7).Commanded 1 7 2
      ∧ (match ((pageS 1 6).ctx 0).pageRange 0x100000000 1 with
        | .ok e => e.1 == 2 && e.2.1.levels == 1 && e.2.2 == 0
        | .error _ => false) = true
      ∧ Memory.wf (pageS 1 6).mem = true ∧ 2 ^ 63 ≤ (pageS 1 6).readLe 0x8000 8
      ∧ (pageS 2 6).invalPending (0, 2, 0, 1) = false ∧ (cmdS (inSt .running) 1 8 [3]).Commanded 1 8 1)
    ∧ ((cmdS (inSt .running) 1 0x20 [0x4000]).Commanded 1 0x20 1 ∧ inHbm 0x4000 512 = true
      ∧ (verifyS 7).Commanded 1 0x21 1 ∧ (verifyS 8).Commanded 1 0x21 1 ∧ inHbm 0x2000 64 = true ∧ inHbm 0x3000 29792 = true
      ∧ (cmdS (inSt .free) 1 0x22 [256 + 256 * 2 ^ 16 + 2 ^ 32, 255, 9]).Commanded 1 0x22 1
      ∧ (∀ c ∈ (cmdS (inSt .free) 1 0x22 [256 + 256 * 2 ^ 16 + 2 ^ 32, 255, 9]).ctxs, c.2.st = .free)) := by
  refine ⟨⟨commanded_of _ _ _ ?_, commanded_of _ _ _ ?_, commanded_of _ _ _ ?_, commanded_of _ _ _ ?_, ?_, ?_, ?_, ?_,
    commanded_of _ _ _ ?_⟩, commanded_of _ _ _ ?_, ?_, commanded_of _ _ _ ?_, commanded_of _ _ _ ?_, ?_, ?_,
    commanded_of _ _ _ ?_, ?_⟩ <;> decide +kernel

def hubS (phase code : Nat) (args : List Nat) (f : Hub → Hub) : State :=
  let s := cmdS (inSt .running) phase code args
  { s with hub := f s.hub }
/-- A table of one rank at 0x2000, which is this chip. -/
def rosterMem : List Host.Cell := wr (wr (wr (wr (wr (wr (wr [] 0x2000 4 1) 0x2004 2 1) 0x2006 2 1) 0x2008 2 1) 0x200C 4 5) 0x2040 2 9)
  0x2048 4 (2 ^ 32 - 1)
def geom1 : Geom := ⟨2, 1, 1, 0, 0, 0, 9⟩
def rosterS (geom : Option Geom) : State := { hubS 1 0x11 [0x2000] (fun h => { h with geom := geom }) with mem := rosterMem }
def barnE : BarnEntry := ⟨1, 0, 9, 3, 0, [1, 2]⟩
def partnerS (phase : Nat) : State := hubS phase 0x12 [7, 1] (fun h => { h with
  geom := some geom1, jbuf := [(barnE, phase == 2)], seeding := if phase = 2 then some (1, 7, 1) else none })
/-- The same with a barn port that carries frames. -/
def barnUp (s : State) : State := s.setPort 12 (port1 .active .none false true)
def replayS (phase holder : Nat) : State := hubS phase 0x14 [7, holder, 0x10000, 0x2000] (fun h => { h with
  geom := some geom1, barn := [(0, ⟨some 7, [barnE], []⟩)] })
theorem witness_JournalCommandsComplete :
    ((hubS 1 0x10 [0x10000, 4096, 0x20000, 8192] id).Commanded 1 0x10 1
      ∧ (hubS 1 0x10 [0x10000, 4096, 0x20000, 8192] id).hub.seqs = [] ∧ inHbm 0x10000 4096 = true ∧ inHbm 0x20000 (2 * 8192) = true)
    ∧ ((rosterS (some geom1)).Commanded 1 0x11 1 ∧ ((rosterS (some geom1)).checkRoster 0 0x2000).isOk = true
      ∧ (rosterS none).Commanded 1 0x11 1 ∧ ((rosterS none).checkRoster 0 0x2000).isOk = false)
    ∧ ((partnerS 1).Commanded 1 0x12 1 ∧ (barnUp (partnerS 1)).Commanded 1 0x12 1 ∧ (partnerS 1).hub.seeding = none
      ∧ (partnerS 1).barnOpen = false ∧ (barnUp (partnerS 1)).barnOpen = true
      ∧ 7 ≠ (partnerS 1).hub.chipId ∧ 7 ∉ (partnerS 1).hub.lost ∧ (partnerS 1).partnerClash 7 = false
      ∧ (partnerS 2).Commanded 1 0x12 2 ∧ (partnerS 2).hub.seeding = some (1, 7, 1) ∧ (partnerS 2).hub.awaited 1 = [])
    ∧ ((hubS 1 0x13 [7] id).Commanded 1 0x13 1 ∧ (replayS 1 9).Commanded 1 0x14 1 ∧ (replayS 2 9).Commanded 1 0x14 2
      ∧ (replayS 1 9).hub.chipId = 9 ∧ (replayS 1 9).hub.seedWaits = [] ∧ (replayS 1 8).barnOpen = false
      ∧ (barnUp (replayS 2 8)).barnOpen = true ∧ ((replayS 1 9).ctx 0).st = .running
      ∧ (∃ w ∈ (replayS 2 9 |>.hub.await 1 []).seedWaits, w.1 = 1) ∧ ((replayS 2 9).hub.await 1 []).awaited 1 = []
      ∧ ((replayS 1 9).hub.barn.find? (fun e => e.2.client = some 7)).map (fun e => e.2.entries) = some [barnE]
      ∧ (replayImage (replayOf 0 [barnE])).length ≤ 0x2000 ∧ inHbm 0x10000 0x2000 = true
      ∧ (replayS 1 8).Commanded 1 0x14 1 ∧ (replayS 2 9).hub.awaited 1 = [])
    ∧ ((hubS 1 0x15 [1] id).Commanded 1 0x15 1 ∧ (hubS 1 0x16 [3] id).Commanded 1 0x16 1) := by
  refine ⟨⟨commanded_of _ _ _ ?_, ?_⟩, ⟨commanded_of _ _ _ ?_, ?_, commanded_of _ _ _ ?_, ?_⟩, ⟨commanded_of _ _ _ ?_, commanded_of _ _ _ ?_, ?_, ?_, ?_, ?_, ?_,
    ?_, commanded_of _ _ _ ?_, ?_⟩, ⟨commanded_of _ _ _ ?_, commanded_of _ _ _ ?_, commanded_of _ _ _ ?_, ?_, ?_, ?_, ?_, ?_,
    ⟨_, List.mem_singleton_self _, rfl⟩, ?_, ?_, ?_, ?_, commanded_of _ _ _ ?_, ?_⟩, commanded_of _ _ _ ?_, commanded_of _ _ _ ?_⟩ <;>
    decide +kernel
theorem test_unmap : goes (exec (.protect 1) (pageS 1 7)) (fun t => t.readLe 0x8000 8 == 3 * 2 ^ 62 + 0x20000) := by decide +kernel
theorem test_journal_commands :
    goes (exec (.partner 1 true) (partnerS 2)) (fun t => resulted t 0 && t.hub.partner == some (7, 1))
    ∧ goes (exec (.jstat 1) (hubS 1 0x16 [3] (fun h => { h with seqs := [seq0] }))) (fun t => resulted t (2 ^ 28)) := by
  decide +kernel

def obsS (code : Nat) (args : List Nat) : State := cmdS (inSt .running) 1 code args
/-- A logic matrix at 0x2000: zeros but for rising bounds. -/
def lmS (code : Nat) : State := { obsS code [2, 0x2000] with
  mem := (List.range 15).foldl (fun m b => wr m (0x2000 + 8 * (21 + b)) 8 (b + 1)) [] }
def sheafS : State := cmdS ((savedS .saved .none).setLc 0 0 { lc0 with sheaves := [sheaf1] }) 1 0x35 [0x10000, 4096]
def cntS : State :=
  let s := cmdS (inSt .running) 1 0x36 [0x10000]
  s.setCtx 0 { s.ctx 0 with counters := [(0x110, 77)] }
theorem witness_ObservationCommandsComplete :
    ((obsS 0x30 [0x10000, 2 ^ 20]).Commanded 1 0x30 1
      ∧ ((obsS 0x30 [0x10000, 2 ^ 20]).forwardAll 0).statementLen 0 ≤ 2 ^ 20
      ∧ inHbm 0x10000 (2 ^ 20) = true ∧ Memory.wf (obsS 0x30 []).mem = true)
    ∧ ((obsS 0x31 [2 ^ 16, 0, 0, 0, 0]).Commanded 1 0x31 1 ∧ ((obsS 0x31 []).ctx 0).glean = none
      ∧ (obsS 0x31 [2 ^ 16, 3, 255, 0x10000, 64]).Commanded 1 0x31 1 ∧ inHbm 0x10000 64 = true)
    ∧ ((lmS 0x32).Commanded 1 0x32 1 ∧ inHbm 0x2000 512 = true
      ∧ (∀ n < 64, lmReserved n ((lmS 0x32).readLe (0x2000 + 8 * n) 8) = false)
      ∧ (∀ b < 14, (lmS 0x32).readLe (0x2000 + 8 * (21 + b)) 8 < (lmS 0x32).readLe (0x2000 + 8 * (22 + b)) 8)
      ∧ (lmS 0x33).Commanded 1 0x33 1)
    ∧ ((obsS 0x34 [0x10000, 4096, 0x20000, 8]).Commanded 1 0x34 1 ∧ inHbm 0x10000 4096 = true ∧ inHbm 0x20000 64 = true
      ∧ sheafS.Commanded 1 0x35 1 ∧ (sheafS.ctx 0).st = .saved ∧ (sheafS.sheafListBytes 0).length = 64
      ∧ cntS.Commanded 1 0x36 1 ∧ (cntS.ctx 0).launched = true ∧ inHbm 0x10000 688 = true) := by
  refine ⟨⟨commanded_of _ _ _ ?_, ?_⟩, ⟨commanded_of _ _ _ ?_, ?_, commanded_of _ _ _ ?_, ?_⟩, ⟨commanded_of _ _ _ ?_, ?_, ?_, ?_,
    commanded_of _ _ _ ?_⟩, commanded_of _ _ _ ?_, ?_, ?_, commanded_of _ _ _ ?_, ?_, ?_, commanded_of _ _ _ ?_, ?_, ?_⟩ <;>
  decide +kernel
theorem test_glean : goes (exec (.glean 1) (obsS 0x31 [2 ^ 16 + 5, 3, 255, 0x10000, 64])) (fun t =>
    (t.ctx 0).glean == some ⟨1, 5, 3, 255, 0x10000, 64, 1, none⟩) := by decide +kernel
theorem test_cntread : goes (exec (.cntread 1) cntS) (fun t => t.readLe (0x10000 + 16 * 41) 2 == 0x110
    && t.readLe (0x10000 + 16 * 41 + 8) 8 == 77) := by decide +kernel

/-! The host, the hub and the module. -/

def hostS : State := { on inst0 with mem := [(0x4005, 9)] }
def hostM : Msg := { msg1 0 0 0 with hdr := { hdr1 0 0 0 with dcore := 1023 } }
def hostF : Flight := { atF hostM with body := .msg hostM .send, goal := .hub 0 }
def rx0 : Rx := ⟨0x1000, 0, true, true, 6, 5, 4, [msg1 0 0 0], [], 0⟩
def ringHS : State := { withF (on inst0) hostF with ctxs := [(0, { ctx0 with rx := rx0 })] }
/-- A cell that names core 0, handler 2, tag 9, 8 bytes. -/
def cellW : List Byte :=
  let h : Hdr := { hdrZero with hidx := 2, tag := 9, plen := 8, jslot := 7 }
  (List.range 8).flatMap (fun k => leBytes 8 (hdrWord h k).toNat) ++ leBytes 8 0x77
theorem witness_injection :
    (hdrOfWords (word64 (ofLe (sliceBytes (padTo 512 cellW) 0 8))) (word64 (ofLe (sliceBytes (padTo 512 cellW) 8 8)))
      (word64 (ofLe (sliceBytes (padTo 512 cellW) 16 8))) (word64 (ofLe (sliceBytes (padTo 512 cellW) 24 8)))
      (word64 (ofLe (sliceBytes (padTo 512 cellW) 32 8)))).hidx = 2
    ∧ ((hostS.setCtx 0 { ctx0 with desc := { ctx0.desc with ncore := 1 } }).ctx 0).lcs.get? 0 = some lc0
    ∧ ctx0.desc.ncore ≤ 0 := by decide +kernel
theorem test_injection : goes (exec (.hostInject 0 7 cellW) (hostS.setCtx 0 { ctx0 with desc := { ctx0.desc with ncore := 1 } })) (fun t =>
    t.flights.any (fun g => match g.body with
      | .msg m _ => m.hdr.hidx == 2 && m.hdr.tag == 9 && m.hdr.score == 1023 && m.payload == leBytes 8 0x77
      | _ => false)) := by decide +kernel
theorem witness_HostAccessesComplete :
    (Tab.get 0 hostS.hub.busy 3 = 0 ∧ 64 * 3 + 8 + 8 * 5 + (leBytes 8 7).length ≤ 2 ^ 20 ∧ 0x100 + (leBytes 8 3).length ≤ 2 ^ 20
      ∧ hostS.hostWritePending = false ∧ hostS.hub.mwbase * 2 ^ 36 + 0x4005 = 0x4005 ∧ inHbm 0x4005 8 = true
      ∧ 0x4005 % 64 + 8 ≤ 64 ∧ hostS.poisonAt 0x4005 8 = none ∧ hostS.hub.jbufHit 0x4005 8 = false
      ∧ hostS.hub.barnHit 0x4005 8 = false ∧ (hostS.ctx 0).cellHeld 7 = false ∧ Memory.wf hostS.mem = true
      ∧ inHbm 0x403F (List.replicate 64 (1 : Byte)).length = true
      ∧ hostS.hostClear 0x4005 8 = true ∧ hostS.hostClear 0x403F 64 = true)
    ∧ ((hostS.ctx 0).st = .running ∧ (inSt .free).hub.health.hole < 65535 ∧ ((inSt .free).ctx 0).st = .free
      ∧ (inSt .free).hostWritePending = false ∧ (hostS.ctx 31).rx.overflow = [])
    ∧ (ringHS.flight? 8 = some hostF ∧ ringHS.firstArrival hostF = true ∧ hostM.hdr.ctx.toNat = 0 ∧ (ringHS.ctx 0).st = .running
      ∧ (ringHS.ctx 0).rx = rx0 ∧ rx0.en = true ∧ rx0.full = false) := by
  refine ⟨?_, ?_, ?_⟩ <;> decide +kernel

/-- A hub whose sequence 3 stands in a state with its record 1, in a JBUF of a size. -/
def seqHub (jb : List (BarnEntry × Bool)) (size : Nat) (q : Option JSeq) : Hub := { Hub.reset with
  geom := some geom1, jcfg := some (0x10000, size, 0x20000, 8192), jbuf := jb, partner := some (7, 1), seqs := q.toList }
/-- A record of sequence 3 at a step; the same with the digest of no bits. -/
def stepB (n : Nat) : List Byte := leBytes 4 3 ++ leBytes 4 n ++ List.replicate 56 0
def hubF (j : JReq) : Flight := { arrivedF (.hubReq j) (.hub 0) with id := 7, opId := 7 }
def askS (j : JReq) (h : Hub) : State := { withF (on instP) (hubF j) with hub := h }
def jrec (n : Nat) : JReq := .jrec scr (stepB n) 0 5
/-- A sequence that replays step 2, with a journalled record. -/
def seqR : JSeq := { seq0 with st := .replaying, cursor := 2, replay := [(2, stepB 2), (3, stepB 3)] }
def seqM : JSeq := { seq0 with marker := some 1 }
def ans (o : Out1) (f : Hub → HubAns → Bool) : Bool :=
  goes o (fun t => t.flights.any (fun g => match g.body with
    | .hubRep a => f t.hub a
    | _ => false))
theorem witness_journalAtTheHub :
    ((askS (jrec 2) (seqHub [] 4096 (some seq0))).flight? 7 = some (hubF (jrec 2))
      ∧ (askS (jrec 2) (seqHub [] 4096 (some seq0))).firstArrival (hubF (jrec 2)) = true
      ∧ [0, 2, 5].all (fun n => BitVec.ofNat 32 (ofLe ((stepB n).take 4)) == 3
        && BitVec.ofNat 32 (ofLe (((stepB n).drop 4).take 4)) == BitVec.ofNat 32 n) = true)
    ∧ ([some seq0, none, some seqR, some { seq0 with st := .closed }, some { seq0 with st := .diverged }].all (fun q =>
        (seqHub [] 4096 q).seq? 0 3 == q && (seqHub [] 4096 q).jbufTakes (entrySize ⟨1, 0, 9, 3, 2, stepB 2⟩)
        && !(seqHub [] 64 q).jbufTakes (entrySize ⟨1, 0, 9, 3, 2, stepB 2⟩)) = true)
    ∧ (seqR.cursor = 2 ∧ seqR.replay.find? (fun r => r.1 = 2) = some (2, stepB 2)
      ∧ ofLe (((stepB 2).drop 24).take 4) = (0 : BitVec 32).toNat ∧ ofLe (((stepB 2).drop 24).take 4) ≠ (1 : BitVec 32).toNat)
    ∧ ((seqHub [] 4096 (some seqM)).seq? 0 3 = some seqM ∧ seqM.marker = some 1 ∧ seqOf (word64 (3 * 2 ^ 32 + 1)) = 3
      ∧ stepOf (word64 (3 * 2 ^ 32 + 1)) = 1)
    ∧ ((seqHub [] 4096 (some seq0)).recorded 0 3 1 = true ∧ (seqHub [] 4096 (some { seq0 with acked := none })).gateOpen 0 3 1 = false
      ∧ (seqHub [] 4096 (some { seq0 with acked := some 1 })).gateOpen 0 3 1 = true) := by
  refine ⟨?_, ?_, ?_, ?_, ?_⟩ <;> decide +kernel
/-- 06 R125: step 2 appended, step 2 with JBUF full, step 0 anew, step 2 replayed, step 5 out of order; 06 R127. -/
theorem test_journal_at_the_hub :
    ans (exec (.jrecHubApply 7) (askS (jrec 2) (seqHub [] 4096 (some seq0)))) (fun h a => a == .done 0 none && h.jbuf.length == 1)
    ∧ ans (exec (.jrecHubApply 7) (askS (jrec 2) (seqHub [] 64 (some seq0)))) (fun h a => a == .done 2 none && h.jbuf == [])
    ∧ ans (exec (.jrecHubApply 7) (askS (jrec 0) (seqHub [(entry0, true)] 4096 (some seq0)))) (fun h a => a == .done 0 none && h.jbuf.map (fun e => e.1.step) == [0])
    ∧ ans (exec (.jrecHubApply 7) (askS (jrec 2) (seqHub [] 4096 (some seqR)))) (fun h a => a == .done 1 (some (scr, padTo 304 (stepB 2))) && h.jbuf == [])
    ∧ ans (exec (.jrecHubApply 7) (askS (jrec 5) (seqHub [] 4096 (some seq0)))) (fun _ a => a == .fault fJournal (3 * 2 ^ 32 + 5) none)
    ∧ ans (exec (.jrecHubApply 7) (askS (.jtrunc 3) (seqHub [(entry0, true)] 4096 (some seqM)))) (fun h a => a == .done 1 none && h.jbuf == []) := by decide +kernel
def gateJ : JReq := .jemit (word64 (3 * 2 ^ 32 + 1)) 0 0 5
def repF (a : HubAns) : Flight := { arrivedF (.hubRep a) (.core 0) with opId := 7 }
def repS (i : Inst) (a : HubAns) : State := withF (on i) (repF a)
def answers0 : List HubAns := [.done 4 none, .done 1 (some (scr, stepB 2)), .fault fJournal 5 none, .emit 5 0 6 5, .shut 5 0 6 5 true, .lost 3 5]
theorem witness_hubAnswers :
    answers0.all (fun a => (repS instP a).flight? 8 == some (repF a) && (repS instP a).canReturn (repF a)
      && (repS instP a).hubClear a && (repS instP a).findPend 7 == some (0, 0, instP, pend0)
      && (repS instP a).findInst 1 == some (0, 0, instP)) = true
    ∧ (((repS instP (.done 4 none)).ctx 0).lcs.get? (((repS instP (.done 4 none)).ctx 0).desc.fcore % 1024)).isSome = true := by
  decide +kernel
theorem witness_emissionReaches : (repS instP (.emit 5 0 6 5)).reaches 0 (bitsOf 0 63 48) (bitsOf 0 47 38) := .inr (.inr (by decide +kernel))
theorem test_hub_answers :
    goes (exec (.loadReturn 8) (repS instP (.done 4 none))) (fun t => (t.inst? 0 0).any (fun j => j.readG 5 == 4))
    ∧ goes (exec (.loadReturn 8) (repS { inst0 with waitOn := some 7 } (.emit 5 0 6 5))) (fun t =>
      (t.inst? 0 0).any (fun j => j.waitOn == none) && t.flights.any (fun g => match g.body with
        | .msg m _ => m.payload == leBytes 8 5 ++ leBytes 8 6
        | _ => false))
    ∧ goes (exec (.loadReturn 8) (repS { inst0 with waitOn := some 7 } (.shut 5 0 6 5 false))) (fun t =>
      t.inst? 0 0 == none && (t.lc 0 0).conts.map (fun k => k.2.value) == [none])
    ∧ goes (exec (.emissionGate 7) (askS gateJ (seqHub [] 4096 (some seq0)))) (fun t => t.flights.any (fun g => match g.body with
        | .hubRep (.emit _ _ _ _) => true
        | .hubRep (.shut _ _ _ _ _) => true
        | _ => false)) := by decide +kernel
def barnHS : State := { (on inst0).setPort 12 (port1 .active .none false true) with hub := { seqHub [(⟨1, 0, 9, 3, 1, []⟩, false)] 4096 (some { seq0 with acked := none }) with barn := [(0, ⟨some 7, [], []⟩)] } }
def dumpS : State := { haltS .saving (.dump (msg1 0 0 0)) with hub := { Hub.reset with dumpQ := [(0, 0)] } }
/-- The one die of the context has written its part. -/
def dumpedS : State := dumpS.setCtx 0 { dumpS.ctx 0 with dumpDies := (dumpS.ctx 0).dies }
theorem witness_HubStepsComplete :
    (barnHS.hub.jcfg = some (0x10000, 4096, 0x20000, 8192) ∧ Tab.get ⟨none, [], []⟩ barnHS.hub.barn 0 = ⟨some 7, [], []⟩
      ∧ (([] : List BarnEntry).map entrySize).sum + entrySize ⟨1, 0, 7, 3, 0, []⟩ ≤ 8192
      ∧ (heldSteps [⟨1, 0, 7, 3, 0, []⟩]).2 = 1 ∧ barnHS.barnOpen = true ∧ barnHS.barnPort 3 = some 12 ∧ barnHS.hub.barnQ = []
      ∧ (barnHS.port 12).maySend 1 false = true ∧ barnHS.hub.barn.find? (fun e => e.2.client = some 7) = some (0, ⟨some 7, [], []⟩)
      ∧ barnHS.hub.barn.find? (fun e => e.2.client = some 8) = none)
    ∧ (barnHS.hub.barnTarget ≠ none ∧ barnHS.hub.seq? 0 3 = some { seq0 with acked := none })
    ∧ (dumpedS.settledCtx 0 = true ∧ (dumpedS.ctx 0).halt = .dump (msg1 0 0 0)
      ∧ (dumpedS.ctx 0).dies.all (fun d => (dumpedS.ctx 0).dumpDies.contains d) = true) := by
  refine ⟨?_, ?_, ?_⟩ <;> decide +kernel
theorem test_barn : goes (exec (.barnEntryReceive 0 ⟨1, 0, 7, 3, 0, []⟩) barnHS) (fun t => match t.outbox with
    | [.trailer 12 _, .barn 12 7 u] => u == .barnAck 9 0 3 0 false
    | _ => false) := by decide +kernel

def findings : List Finding := [.corrected 4 .frames, .block 0 .hbm 0x4005, .block 0 .scratchpad (scr + 5), .register 0 0 (.g 5),
  .queue 0 0, .silo 1 0, .entry 0 5, .springCopy 0 0 0 true, .springWork 0]
def patrolS : State := (on inst0).setCtx 0 { ctx0 with pslots := [(0, { PSlot.empty with loaded := true })] }
def lmCS : State := (on inst0).setDie 1 { (on inst0).die 1 with lm := [(0, word64 (2 ^ 15)), (16, word64 (2 ^ 16))] }
def offS : State := { on inst0 with power := .off }
theorem witness_HealthAndResetsComplete :
    ((∀ f ∈ findings, Finding.place? f = true) ∧ ((on inst0).quad 0).failed = false ∧ ((on inst0).ctx 0).inQuad 0 = true
      ∧ ((on inst0).ctx 0).halt = .none ∧ ((on inst0).ctx 0).st = .running
      ∧ (((on inst0).noteErr 1 0).hub.recentErrs 0 1 0 < 4) ∧ ((on inst0).ctx 0).areaOn 0 = true ∧ ((patrolS.ctx 0).pslot 0 0).loaded = true
      ∧ ((patrolS.ctx 0).pslot 0 0).goodA = true ∧ ((patrolS.ctx 0).pslot 0 0).goodB = true)
    ∧ (bitsOf ((lmCS.die 1).lmReg 16) 15 14 ≠ 3 ∧ (lmCS.die 1).lmReg 36 < 2 ^ 64 - 1 ∧ (lmCS.die 1).term [] false 0 = true
      ∧ (lmCS.die 1).term [] false 1 = true)
    ∧ ((on inst0).power = .on ∧ offS.power = .off ∧ Memory.wf (on inst0).mem = true) := by
  refine ⟨?_, ?_, ?_⟩ <;> decide +kernel
theorem test_host : goes (exec (.hostWindowRead 0x4005 8) hostS) (fun t => t.outbox == [.hostRead (some (leBytes 8 9))])
    ∧ goes (exec (.hostBoundMessage 8) ringHS) (fun t => (t.ctx 0).rx.ring == [msg1 0 0 0, hostM]) := by decide +kernel
/-- 21 Table 21-4: marked until it is read; rebuilt and counted. -/
theorem test_patrol : goes (exec (.patrolScrub [.register 0 0 (.g 5)]) (on inst0)) (fun t => (t.inst? 0 0).any (fun j => j.bad == [.g 5])
      && Tab.get 0 t.hub.health.counts 1 == 1)
    ∧ goes (exec (.patrolScrub [.springCopy 0 0 0 true]) patrolS) (fun t => ((t.ctx 0).pslot 0 0).goodA
      && Tab.get 0 t.hub.health.counts 14 == 1) := by decide +kernel
theorem test_reset_kinds : goes (exec .thermalTrip hostS) (fun t => t.power == .off && t.hub.health.rwhy == 32 && t.mem == [(0x4005, 9)])
    ∧ goes (exec (.quadFail 0) (on inst0)) (fun t => (t.quad 0).failed && (t.ctx 0).st == .saving) := by decide +kernel

end Sys2Proof.Tests
end

namespace Sys2Proof.Machine

/-! The end of a word at its boundary (04 R76): what the loop check can do, and what it keeps. -/

/-- The end-of-body test of a loop level is the one that `Inst.endsLoop` states on the bits of its register (R74). -/
theorem Inst.endsLoop_iff (i : Inst) (r : GReg) : i.endsLoop r = true ↔
    bitsOf (i.readG r).toNat 63 63 = 1 ∧ bitsOf (i.readG r).toNat 42 23 = i.index i.pc := by
  simp [Inst.endsLoop, bitsOf, BitVec.getLsbD, Nat.testBit_eq_decide_div_mod_eq, Nat.shiftRight_eq_div_pow]

/-- A loop level at a boundary: nothing moves, or the word ends its body and its register is written. -/
theorem loopCheck_cases (i : Inst) (level : Nat) : (loopCheck i level (i.index i.pc)).1 = i ∨
    i.endsLoop (BitVec.ofNat 6 (1 + level)) = true
      ∧ ∃ x, (loopCheck i level (i.index i.pc)).1 = i.writeG (BitVec.ofNat 6 (1 + level)) x := by
  by_cases h : i.endsLoop (BitVec.ofNat 6 (1 + level)) = true
  · have h' := (i.endsLoop_iff _).1 h
    refine .inr ⟨h, ?_⟩
    simp only [loopCheck, if_pos h']
    split <;> exact ⟨_, rfl⟩
  · have h' := mt (i.endsLoop_iff _).2 h
    exact .inl (by simp only [loopCheck, if_neg h'])

/-- A written register reads as it was written but for g0; every other register reads as before (01 R10). -/
theorem Inst.readG_writeG (i : Inst) (r : GReg) (x : Word) (r' : GReg) :
    (i.writeG r x).readG r' = if r' = r ∧ r ≠ 0 then x else i.readG r' := Inst.readG_setG _ r x r'

@[simp] theorem Inst.writeG_pc (i : Inst) (r : GReg) (x : Word) : (i.writeG r x).pc = i.pc := by
  simp [Inst.writeG, Inst.supersede]
@[simp] theorem Inst.writeG_stopped (i : Inst) (r : GReg) (x : Word) : (i.writeG r x).stopped = i.stopped := by
  simp [Inst.writeG, Inst.supersede]

theorem Inst.Keeps.refl (i : Inst) (gs : List GReg) : i.Keeps i gs := by constructor <;> intros <;> rfl

theorem Inst.Keeps.trans {i j k : Inst} {gs : List GReg} (hpc : j.pc = i.pc) (h : i.Keeps j gs) (h' : j.Keeps k gs) :
    i.Keeps k gs where
  g r hr hl := by
    have hj : j.readG r = i.readG r := h.g r hr hl
    have hends : j.endsLoop r = i.endsLoop r := by
      rw [Bool.eq_iff_iff]
      simp only [Inst.endsLoop_iff, Inst.index, hj, hpc, h.hbase]
    rw [← hj]
    exact h'.g r hr (fun e => hends ▸ hl e)
  v := h'.v.trans h.v
  k := h'.k.trans h.k
  m := h'.m.trans h.m
  d := h'.d.trans h.d
  q := h'.q.trans h.q
  link := h'.link.trans h.link
  flags := h'.flags.trans h.flags
  status := h'.status.trans h.status
  hdr := h'.hdr.trans h.hdr
  hbase := h'.hbase.trans h.hbase
  name := h'.name.trans h.name

/-- A write of a g register keeps all but it. -/
theorem Inst.writeG_keeps (i : Inst) (r : GReg) (x : Word) : i.Keeps (i.writeG r x) [r] := by
  constructor
  case g =>
    intro r' hr _
    have hne : r' ≠ r := by simpa using hr
    simp [Inst.readG_writeG, hne]
  all_goals simp [Inst.writeG, Inst.supersede, Inst.status]

/-- The check of a loop level changes no register but that of a body that the word ends (04 R76). -/
theorem loopCheck_keeps (i : Inst) (level : Nat) (h : level < 2) : i.Keeps (loopCheck i level (i.index i.pc)).1 [] := by
  obtain e | ⟨hends, x, e⟩ := loopCheck_cases i level
  · rw [e]
    exact .refl i []
  · rw [e]
    refine { i.writeG_keeps _ x with g := fun r _ hl => ?_ }
    have hr : r ≠ BitVec.ofNat 6 (1 + level) := by
      rintro rfl
      have hloop : BitVec.ofNat 6 (1 + level) = 1 ∨ BitVec.ofNat 6 (1 + level) = 2 := by
        interval_cases level <;> decide
      simp [hl hloop] at hends
    simp [Inst.readG_writeG, hr]

/-- `j` is `i` but for the loop state registers of the bodies that its word ends. -/
structure Inst.LoopsTo (i j : Inst) : Prop where
  keeps : i.Keeps j []
  pc : j.pc = i.pc
  stopped : j.stopped = i.stopped

theorem loopCheck_loopsTo (i : Inst) (level : Nat) (h : level < 2) :
    i.LoopsTo (loopCheck i level (i.index i.pc)).1 where
  keeps := loopCheck_keeps i level h
  pc := by obtain e | ⟨-, x, e⟩ := loopCheck_cases i level <;> simp [e]
  stopped := by obtain e | ⟨-, x, e⟩ := loopCheck_cases i level <;> simp [e]

theorem Inst.LoopsTo.trans {i j k : Inst} (h : i.LoopsTo j) (h' : j.LoopsTo k) : i.LoopsTo k :=
  ⟨h.keeps.trans h.pc h'.keeps, h'.pc.trans h.pc, h'.stopped.trans h.stopped⟩

theorem Inst.LoopsTo.index {i j : Inst} (h : i.LoopsTo j) : j.index j.pc = i.index i.pc := by
  simp only [Inst.index, h.pc, h.keeps.hbase]

/-- What the boundary after a word can do: the loop registers change, and a back edge is a safe point (04 R76). -/
theorem Inst.boundary_cases (i : Inst) : ∃ j t, i.LoopsTo j
    ∧ (i.boundary = { j with pc := t }.safePoint ∨ i.boundary = { j with pc := t }) := by
  have h1 := loopCheck_loopsTo i 1 (by decide)
  have h0 := loopCheck_loopsTo (loopCheck i 1 (i.index i.pc)).1 0 (by decide)
  rw [h1.index] at h0
  rcases e1 : loopCheck i 1 (i.index i.pc) with ⟨i1, _ | t⟩ <;> rw [e1] at h1 h0
  · rcases e0 : loopCheck i1 0 (i.index i.pc) with ⟨i0, _ | t⟩ <;> rw [e0] at h0
    · exact ⟨i0, i.pc + 8, h1.trans h0, .inr (by simp only [Inst.boundary, e1, e0])⟩
    · exact ⟨i0, t, h1.trans h0, .inl (by simp only [Inst.boundary, e1, e0])⟩
  · exact ⟨i1, t, h1, .inl (by simp only [Inst.boundary, e1])⟩

/-- A word's end changes no register but a loop register whose body it ends (04 R76). -/
theorem Inst.advance_keeps (i : Inst) : i.Keeps i.advance [] := by
  unfold Inst.advance
  split
  · exact { Inst.Keeps.refl i [] with }
  · obtain ⟨j, t, h, e | e⟩ := i.boundary_cases <;> rw [e] <;> exact { h.keeps with }

/-- Pre-emption that is pending stays so at a word's end, or stops the slot at the safe point of a back edge. -/
theorem Inst.advance_stopped (i : Inst) (h : i.stopped = .pending) :
    i.advance.stopped = .pending ∨ i.advance.stopped = .halted 0 := by
  unfold Inst.advance
  split
  · exact .inl h
  · obtain ⟨j, t, hj, e | e⟩ := i.boundary_cases
    · exact .inr (by simp [e, Inst.safePoint, hj.stopped, h])
    · exact .inl (by simp [e, hj.stopped, h])

/-- Arriving at a safe point changes no register and no flag (01 R17, R18). -/
theorem Inst.Keeps.safePoint {i j : Inst} {gs : List GReg} (h : i.Keeps j gs) : i.Keeps j.safePoint gs := { h with }

/-- The count of a word since the last safe point is no register. -/
theorem Inst.counted_advance_keeps (i : Inst) : i.Keeps i.counted.advance [] := { i.counted.advance_keeps with }

@[simp] theorem State.count_inst? (s : State) (d c k n p sl : Nat) : (s.count d c k n).inst? p sl = s.inst? p sl := by
  simp [State.inst?]

/-- A completed word changes nothing outside its slot but the counts of issued words. -/
theorem State.became_onlySlot {s : State} {i : Inst} (h : s.Issuing i) (j : Inst) : s.OnlySlot (s.became i j) := by
  have hcore : ∀ p, (s.became i j).core p =
      if p = s.curP then ((s.core p).setSlot s.curS (some i.counted)).setSlot s.curS (some j) else s.core p := by
    intro p
    by_cases hp : p = s.curP
    · subst hp; simp [State.became, State.counted, State.setCur, State.setInst]
    · simp [State.became, State.counted, State.setCur, State.setInst, hp]
  constructor
  case cores => exact fun p hp => by rw [hcore, if_neg hp]
  case core => rw [hcore, if_pos rfl]; rfl
  case slots =>
    intro sl hsl
    have hslot := h.slot
    simp [State.became, State.setCur, State.counted, State.inst?_setInst _ _ _ _ _ _ hslot, hsl]
  all_goals simp [State.became, State.counted]

/-! Words whose unused fields are reserved (03 R47, R48). -/

/-- A field is zero when its upper and its lower part are. -/
theorem extractLsb'_add_eq_zero_iff {n : Nat} (x : BitVec n) (lo a b : Nat) :
    x.extractLsb' lo (a + b) = 0 ↔ x.extractLsb' (lo + a) b = 0 ∧ x.extractLsb' lo a = 0 := by
  simp only [← BitVec.toNat_inj, BitVec.extractLsb'_toNat, Nat.shiftRight_eq_div_pow, BitVec.ofNat_eq_ofNat,
    BitVec.toNat_ofNat, Nat.zero_mod, Nat.pow_add, Nat.mod_mul, Nat.div_div_eq_div_mul]
  simp [and_comm]

/-- A field of IMM32 is that field of the word (Table 03-1). -/
theorem fields_lo_extract (w : Word) (lo n : Nat) (h : lo + n ≤ 32) :
    (fields w).lo.extractLsb' lo n = w.extractLsb' lo n := BitVec.extractLsb'_extractLsb'_of_le h

theorem fields_bc_zero_iff (w : Word) : w.extractLsb' 32 12 = 0 ↔ (fields w).b = 0 ∧ (fields w).c = 0 :=
  extractLsb'_add_eq_zero_iff w 32 6 6

theorem fields_dabc_zero_iff (w : Word) : w.extractLsb' 32 24 = 0 ↔
    ((fields w).d = 0 ∧ (fields w).a = 0) ∧ (fields w).b = 0 ∧ (fields w).c = 0 :=
  (extractLsb'_add_eq_zero_iff w 32 12 12).trans
    (and_congr (extractLsb'_add_eq_zero_iff w 44 6 6) (fields_bc_zero_iff w))

/-- What `okIf` answers, by what its check means. -/
theorem okIf_eq {c : Bool} {P : Prop} [Decidable P] (h : c = true ↔ P) (x : Instr) :
    okIf c x = if P then .ok x else .error .reserved := by
  simp only [okIf, h]

/-- YIELD's word (04 R81). -/
theorem decode_yieldI (w : Word) (hopc : w.extractLsb' 56 8 = 0x35) (hfn : w.extractLsb' 24 8 = 0x01) :
    decode w = if w.extractLsb' 32 24 = 0 ∧ w.extractLsb' 0 24 = 0 then .ok .yieldI else .error .reserved := by
  have hop : decode w = dec35 (fields w) := by
    rw [decode, decodeFields, show (fields w).opc = 0x35 from hopc]
    rfl
  have hf : (fields w).fn = 1 := by rw [Fields.fn, fields_lo_extract _ _ _ (by decide), hfn]; rfl
  have hp : (fields w).plain = true ↔ w.extractLsb' 0 24 = 0 := by
    rw [Fields.plain, fields_lo_extract _ _ _ (by decide), beq_iff_eq]
  rw [hop, dec35, hf]
  exact okIf_eq (by simp only [Bool.and_eq_true, beq_iff_eq, hp, fields_dabc_zero_iff, and_assoc]) _

/-- TRAP's word (04 R82). -/
theorem decode_trap (w : Word) (hopc : w.extractLsb' 56 8 = 0xE2) :
    decode w = if w.extractLsb' 50 6 = 0 ∧ w.extractLsb' 32 12 = 0 ∧ w.extractLsb' 16 16 = 0
      then .ok (.trap (w.extractLsb' 44 6) (w.extractLsb' 0 16)) else .error .reserved := by
  have hop : decode w = decCode (fields w) .trap := by
    rw [decode, decodeFields, show (fields w).opc = 0xE2 from hopc]
    rfl
  rw [hop, decCode, fields_lo_extract _ _ _ (by decide), fields_lo_extract _ _ _ (by decide)]
  exact okIf_eq (by simp only [Bool.and_eq_true, beq_iff_eq, fields_bc_zero_iff, and_assoc]; rfl) _

/-- The word completes with its slot at a safe point. -/
theorem execYieldI_eq {s : State} {i : Inst} (h : s.Issues i .yieldI) :
    exec .yieldI s = .next (s.became i i.counted.advance.safePoint) := by
  rw [show exec .yieldI s = execYieldI s from rfl, execYieldI, State.onFit_eq h]
  rfl

/-! The generator's f32 value (04 R70). -/

theorem rngVal_top_lt (key ctr : Word) : (rngVal key ctr).toNat / 2 ^ 40 < 2 ^ 24 := by
  have := (rngVal key ctr).isLt
  omega

/-- The f32 code with exponent field `ef` and mantissa `m` is a normal number (02 R22, Table 02-2). -/
theorem decodeFloat_f32_normal (ef m : Nat) (h0 : 0 < ef) (hef : ef < 255) (hm : m < 2 ^ 23) :
    decodeFloat (fpOf .f32) (ef * 2 ^ 23 + m) = .fin false (m + 2 ^ 23) ((ef : Int) - 150) false := by
  have hmag : (ef * 2 ^ 23 + m) % 2 ^ 31 = ef * 2 ^ 23 + m := Nat.mod_eq_of_lt (by omega)
  have hsign : (ef * 2 ^ 23 + m) / 2 ^ 31 = 0 := Nat.div_eq_of_lt (by omega)
  have hfield : (ef * 2 ^ 23 + m) / 2 ^ 23 = ef := by omega
  have hmant : (ef * 2 ^ 23 + m) % 2 ^ 23 = m := by omega
  have hmax : ¬ ef * 2 ^ 23 + m > 0x7F7FFFFF := by omega
  have hexp : (ef : Int) - (127 : Nat) - (23 : Nat) = ef - 150 := by omega
  simp only [decodeFloat, fpOf, Nat.reduceAdd, hmag, hsign, hfield, hmant, hmax, hexp, if_false, h0.ne']
  simp

/-- A magnitude that is a multiple of the unit is not rounded (02 R29). -/
theorem roundAt_exact (mode : RMode) (neg : Bool) (n : Nat) (e q : Int) (h : q ≤ e) :
    roundAt mode neg n e q false = (n * 2 ^ (e - q).toNat, false) := by
  have hup : roundsUp mode neg (n * 2 ^ (e - q).toNat) 0 0 false = false := by cases mode <;> simp [roundsUp]
  simp [roundAt, h, hup]

theorem FP.withSign_false (p : FP) (mag : Nat) : p.withSign false mag = mag := by
  rw [FP.withSign, cond_false, Nat.add_zero]

/-- A value that a float format holds is rounded to its own code, with no flag (02 R29, R30). -/
theorem roundFloat_exact (p : FP) (mode : RMode) (sat neg : Bool) (n : Nat) (e q : Int) (h0 : n ≠ 0)
    (hq : max ((n.log2 : Int) + e) (1 - (p.bias : Int)) - p.mb = q) (h : q ≤ e)
    (hmax : n * 2 ^ (e - q).toNat + (q - (1 - (p.bias : Int) - p.mb)).toNat * 2 ^ p.mb ≤ p.maxMag) :
    roundFloat p mode sat (.fin neg n e false)
      = (p.withSign neg (n * 2 ^ (e - q).toNat + (q - (1 - (p.bias : Int) - p.mb)).toNat * 2 ^ p.mb), {}) := by
  simp only [roundFloat, hq, roundAt_exact _ _ _ _ _ h, Nat.not_lt.2 hmax, if_false, h0, decide_false,
    Bool.false_and, Bool.false_eq_true]

/-- The leading bit of a 24-bit number shifted to bit 23. -/
theorem shift_to_top (k : Nat) (h0 : k ≠ 0) (hk : k < 2 ^ 24) :
    k.log2 < 24 ∧ 2 ^ 23 ≤ k * 2 ^ (23 - k.log2) ∧ k * 2 ^ (23 - k.log2) < 2 ^ 24 := by
  have hl : k.log2 < 24 := (Nat.log2_lt h0).2 hk
  have hlow : 2 ^ k.log2 ≤ k := Nat.log2_self_le h0
  have hhigh : k < 2 ^ (k.log2 + 1) := Nat.lt_log2_self
  refine ⟨hl, ?_, ?_⟩
  · calc 2 ^ 23 = 2 ^ k.log2 * 2 ^ (23 - k.log2) := by rw [← Nat.pow_add]; congr 1; omega
      _ ≤ k * 2 ^ (23 - k.log2) := Nat.mul_le_mul_right _ hlow
  · calc k * 2 ^ (23 - k.log2) < 2 ^ (k.log2 + 1) * 2 ^ (23 - k.log2) :=
          Nat.mul_lt_mul_of_pos_right hhigh (by positivity)
      _ = 2 ^ 24 := by rw [← Nat.pow_add]; congr 1; omega

/-- Round of k x 2^-24 into f32 puts the leading bit of `k` at bit 23: nothing lies below the unit of the code. -/
theorem roundFloat_f32_top (k : Nat) (h0 : k ≠ 0) (hk : k < 2 ^ 24) :
    roundFloat (fpOf .f32) .rne false (.fin false k (-24) false)
      = (k * 2 ^ (23 - k.log2) + (k.log2 + 102) * 2 ^ 23, {}) := by
  obtain ⟨hl, -, htop⟩ := shift_to_top k h0 hk
  have hshift : ((-24 : Int) - ((k.log2 : Int) - 47)).toNat = 23 - k.log2 := by omega
  have hexp : ((k.log2 : Int) - 47 - (1 - (127 : Nat) - (23 : Nat))).toNat = k.log2 + 102 := by omega
  have hmb : (fpOf .f32).mb = 23 := rfl
  have hbias : (fpOf .f32).bias = 127 := rfl
  have hmaxMag : (fpOf .f32).maxMag = 0x7F7FFFFF := rfl
  have hcode := roundFloat_exact (fpOf .f32) .rne false false k (-24) ((k.log2 : Int) - 47) h0
    (by rw [hmb, hbias]; omega) (by omega) (by rw [hmb, hbias, hmaxMag, hshift, hexp]; omega)
  rwa [FP.withSign_false, hmb, hbias, hshift, hexp] at hcode

/-- The code that RNGF writes is that of k x 2^-24, exact, for the top 24 bits k of the generator's value (04 R70). -/
theorem rngfVal_exact (key ctr : Word) : (rngfVal key ctr).toNat < 2 ^ 32
    ∧ ∃ (m : Nat) (e : Int), decodeFloat (fpOf .f32) (rngfVal key ctr).toNat = .fin false m e false
      ∧ (m : Rat) * (2 : Rat) ^ e = (((rngVal key ctr).toNat / 2 ^ 40 : Nat) : Rat) * (2 : Rat) ^ (-24 : Int) := by
  have hk := rngVal_top_lt key ctr
  generalize hkdef : (rngVal key ctr).toNat / 2 ^ 40 = k at hk ⊢
  unfold rngfVal
  rw [hkdef]
  by_cases h0 : k = 0
  · subst h0
    exact ⟨by decide, 0, -149, by decide, by simp⟩
  · obtain ⟨hl, hlow, htop⟩ := shift_to_top k h0 hk
    have hcode : k * 2 ^ (23 - k.log2) + (k.log2 + 102) * 2 ^ 23
        = (k.log2 + 103) * 2 ^ 23 + (k * 2 ^ (23 - k.log2) - 2 ^ 23) := by omega
    have hword : ∀ n < 2 ^ 32, (word64 n).toNat = n := fun n hn => by simp [word64]; omega
    rw [roundFloat_f32_top k h0 hk, hcode, hword _ (by omega)]
    refine ⟨by omega, _, _, decodeFloat_f32_normal _ _ (by omega) (by omega) (by omega), ?_⟩
    rw [Nat.sub_add_cancel hlow]
    push_cast
    rw [mul_assoc, ← zpow_natCast, ← zpow_add₀ two_ne_zero]
    congr 2
    omega

/-! Fault records (21 R344 to R350): what a record's words hold, and where it goes. -/

theorem ofLe_leBytes (n x : Nat) : ofLe (leBytes n x) = x % 256 ^ n := by
  induction n generalizing x with
  | zero => simp [leBytes, ofLe, Nat.mod_one]
  | succ n ih =>
    have hbyte : (BitVec.ofNat 8 (x % 256)).toNat = x % 256 := by simp
    rw [leBytes, ofLe, ih, hbyte, Nat.pow_succ', Nat.mod_mul]

/-- Word `n` of words laid out one behind the other. -/
theorem drop_flatMap_leBytes (ws : List Nat) (n : Nat) :
    (ws.flatMap (leBytes 8)).drop (8 * n) = (ws.drop n).flatMap (leBytes 8) := by
  induction ws generalizing n with
  | nil => simp
  | cons w ws ih =>
    cases n with
    | zero => simp
    | succ n => simp [Nat.mul_succ, Nat.add_comm, ← List.drop_drop, ih]

theorem recordWord_of_payload {m : Msg} {ws : List Nat} (h : m.payload = ws.flatMap (leBytes 8)) (n : Nat) {w : Nat}
    (hw : ws[n]? = some w) : recordWord m n = w % 2 ^ 64 := by
  have hdrop : ws.drop n = w :: ws.drop (n + 1) := by
    obtain ⟨hn, rfl⟩ := List.getElem?_eq_some_iff.1 hw
    exact List.drop_eq_getElem_cons hn
  have hslice : sliceBytes m.payload (8 * n) 8 = leBytes 8 w := by
    rw [sliceBytes, h, drop_flatMap_leBytes, hdrop, padTo, List.flatMap_cons, List.append_assoc]
    exact List.take_left' (leBytes_length 8 w)
  rw [recordWord, hslice, ofLe_leBytes]
  rfl

/-- The message's payload is that of a record of fault `code` of context `c` (21 Table 21-2). -/
def RecordOf (m : Msg) (c code : Nat) (r : RecInfo) : Prop :=
  ∃ fseq host sec, m.payload = (recordWords code c fseq host false { r with sec := sec }).flatMap (leBytes 8)

theorem RecordOf.class_word {m : Msg} {c code : Nat} {r : RecInfo} (h : RecordOf m c code r) (hc : c < 32)
    (hcode : code < 2 ^ 16) : recordWord m 0 / 2 ^ 48 = code := by
  obtain ⟨fseq, host, sec, h⟩ := h
  rw [recordWord_of_payload h 0 rfl]
  have h1 : cond host (2 ^ 34) 0 ≤ 2 ^ 34 := by cases host <;> simp
  have h2 : cond r.ended (2 ^ 33) 0 ≤ 2 ^ 33 := by cases r.ended <;> simp
  have h3 : cond sec (2 ^ 32) 0 ≤ 2 ^ 32 := by cases sec <;> simp
  simp only [cond_false]
  omega

theorem RecordOf.addr_word {m : Msg} {c code : Nat} {r : RecInfo} (h : RecordOf m c code r) :
    recordWord m 3 = r.addr % 2 ^ 64 := by
  obtain ⟨fseq, host, sec, h⟩ := h
  exact recordWord_of_payload h 3 rfl

theorem RecordOf.det_word {m : Msg} {c code : Nat} {r : RecInfo} (h : RecordOf m c code r) :
    recordWord m 4 = r.det % 2 ^ 64 := by
  obtain ⟨fseq, host, sec, h⟩ := h
  exact recordWord_of_payload h 4 rfl

/-- A message that has a way to its destination is on its way once it is delivered. -/
theorem State.deliver_flight (s : State) (w : Who) (o : Nat) (m : Msg) (t : Track) (x : Nat × Nat) (a b : List Nat)
    (rel : Bool) (u : Option Nat) (h : (s.msgGoal m.hdr.ctx.toNat m.hdr x).isSome = true) :
    ∃ f ∈ (s.deliver w o m t x a b rel u).flights, f.body = .msg m t := by
  obtain ⟨⟨goal, dst⟩, hg⟩ := Option.isSome_iff_exists.1 h
  simp only [State.deliver, hg, State.launchFlight]
  exact ⟨_, List.mem_append_right _ (List.mem_singleton_self _), rfl⟩

/-- The context's fault handler is on one of its cores. -/
def State.handlerCore (s : State) (c : Nat) : Prop := ((s.ctx c).lcs.get? ((s.ctx c).desc.fcore % 1024)).isSome = true

/-- A record has a way to the host, and to a fault handler on one of the context's cores (21 R346). -/
theorem State.msgGoal_recordMsg (s q : State) (c l : Nat) (host : Bool) (ws : List Nat) (x : Nat × Nat) (hc : c < 32)
    (hf : s.handlerCore c) (hd : (q.ctx c).desc = (s.ctx c).desc) :
    (s.msgGoal (q.recordMsg c l host ws).hdr.ctx.toNat (q.recordMsg c l host ws).hdr x).isSome = true := by
  have hctx : (q.recordMsg c l host ws).hdr.ctx.toNat = c := by
    simp only [State.recordMsg, BitVec.toNat_ofNat]
    omega
  rw [hctx, State.msgGoal]
  split
  · rfl
  split
  · rfl
  next _ hcore =>
    cases host with
    | true => simp [State.recordMsg] at hcore
    | false =>
      obtain ⟨l, hl⟩ := Option.isSome_iff_exists.1 hf
      simp [State.recordMsg, hd, hl]

/-- A record that is delivered is on its way. -/
theorem State.deliver_carries (s q : State) (c code l fseq : Nat) (host sec : Bool) (x : Nat × Nat) (u : Option Nat)
    (r : RecInfo) (hc : c < 32) (hf : s.handlerCore c) (hd : (q.ctx c).desc = (s.ctx c).desc) :
    ∃ m, (s.deliver Who.zero 0 (q.recordMsg c l host (recordWords code c fseq sec false r)) .record x [] [] false
      u).carries c m ∧ RecordOf m c code r := by
  obtain ⟨f, hmem, hbody⟩ := s.deliver_flight Who.zero 0 _ .record x [] [] false u
    (s.msgGoal_recordMsg q c l host _ x hc hf hd)
  exact ⟨_, .inl ⟨f, hmem, _, hbody⟩, fseq, _, r.sec, rfl⟩

@[simp] theorem State.nextFseq_ctx (s : State) (src : Source) (c j : Nat) : (s.nextFseq src c).2.ctx j = s.ctx j := by
  unfold State.nextFseq; split <;> rfl

/-- A fault record is on its way, or in the dump's index (21 R345, R350). -/
theorem State.record_carries (s : State) (src : Source) (c code : Nat) (fatal ff : Bool) (r : RecInfo) (hc : c < 32)
    (hf : s.handlerCore c) : ∃ m, (s.record src c code fatal ff r).carries c m ∧ RecordOf m c code r := by
  have hq := s.nextFseq_ctx src c c
  rcases hn : s.nextFseq src c with ⟨n, q⟩
  rw [hn] at hq
  have hfq : q.handlerCore c := by simpa only [State.handlerCore, hq] using hf
  simp only [State.record, hn]
  split
  next =>
    split
    · refine ⟨q.recordMsg c r.lcore true (recordWords code c n false false { r with sec := true }), .inr ?_,
        n, false, true, rfl⟩
      rw [State.ctx_setCtx, if_pos rfl]
      exact List.mem_append_right _ (List.mem_singleton_self _)
    · refine State.deliver_carries _ q c code _ n _ _ _ _ { r with sec := true } hc ?_ ?_
      · simpa [State.handlerCore] using hfq
      · simp
  next => exact q.deliver_carries q c code _ n _ _ _ _ r hc hfq rfl

/-! The end of a handler leaves what is on its way and the records of every context (04 R80). -/

@[simp] theorem State.countVec_flights (s : State) (p : Nat) (i : Inst) : (s.countVec p i).flights = s.flights :=
  State.foldl_keeps State.flights _ (fun s e => by split <;> simp) _ _
@[simp] theorem State.countVec_ctxs (s : State) (p : Nat) (i : Inst) : (s.countVec p i).ctxs = s.ctxs :=
  State.foldl_keeps State.ctxs _ (fun s e => by split <;> simp) _ _

@[simp] theorem State.unhold_flights (s : State) (i : Inst) : (s.unhold i).flights = s.flights := by
  unfold State.unhold; split <;> rfl
@[simp] theorem State.unhold_records (s : State) (i : Inst) (c : Nat) :
    ((s.unhold i).ctx c).records = (s.ctx c).records := by
  unfold State.unhold
  split
  · rfl
  · by_cases h : c = i.ctx
    · subst h
      simp [State.setLc, Ctx.setLc]
    · simp [State.setLc, h]

@[simp] theorem State.endInst_flights (s : State) (p sl : Nat) (i : Inst) : (s.endInst p sl i).flights = s.flights := by
  simp [State.endInst, State.gleanEnd]
@[simp] theorem State.endInst_records (s : State) (p sl : Nat) (i : Inst) (c : Nat) :
    ((s.endInst p sl i).ctx c).records = (s.ctx c).records := by
  simp only [State.endInst, State.gleanEnd, State.setInst_ctx, State.setCore_ctx, State.unhold_records]
  simp only [State.ctx, State.countVec_ctxs]

theorem State.endInst_inst? (s : State) (p sl : Nat) (i : Inst) (h : sl < 8) :
    (s.endInst p sl i).inst? p sl = none := by
  simp [State.endInst, State.inst?_setInst _ _ _ _ _ _ h]

/-- A fault frees its slot, and its record is on its way or in the dump's index (21 R344 to R346). -/
theorem State.raiseAt_carries (s : State) (p sl : Nat) (i : Inst) (code addr det : Nat) (hc : i.ctx < 32)
    (hf : s.handlerCore i.ctx) : ∃ m, (s.raiseAt p sl i code addr det).carries i.ctx m
      ∧ RecordOf m i.ctx code (recOf (whoOf i p sl) false addr det) := by
  obtain ⟨m, hm, hr⟩ := s.record_carries (.core p 0) i.ctx code false i.fromFault
    (recOf (whoOf i p sl) false addr det) hc hf
  exact ⟨m, by simpa only [State.carries, State.raiseAt, State.endInst_flights, State.endInst_records] using hm, hr⟩

/-- The word ends its handler with the trap fault, of its code and gA (04 R82). -/
theorem execTrap_eq {s : State} {i : Inst} {a : GReg} {code : BitVec 16} (h : s.Issues i (.trap a code)) :
    exec (.trap a code) s = .next (s.faulted i fTrap (i.readG a).toNat code.toNat) := by
  rw [show exec (.trap a code) s = execTrap a code s from rfl, execTrap, State.onFit_eq h, State.raise,
    State.counted_curP, State.counted_curS]
  rfl

/-! The statements. -/

/-- Settles O12: the generator's 24 bits, shifted to the top of an f32 mantissa, are that code's value with nothing
rounded. -/
theorem rngfIsExact : Obligations.RngfIsExact := by
  intro s i d a b h
  obtain ⟨hlt, hexact⟩ := rngfVal_exact (i.readG a) (i.readG b)
  refine ⟨rngfVal (i.readG a) (i.readG b), ?_, hlt, hexact⟩
  rw [show exec (.rngf d a b) s = execRngf d a b s from rfl, execRngf, State.alu, State.onFit_eq h]
  rfl

/-- Settles O15: the slot takes its word's end as a safe point, and a word's end keeps every register but a loop
register. -/
theorem yieldIsSafePoint : Obligations.YieldIsSafePoint := by
  refine ⟨decode_yieldI, fun s i h => ⟨_, execYieldI_eq h, State.became_onlySlot h.1 _, ?_, rfl, fun hs => ?_⟩⟩
  · exact i.counted_advance_keeps.safePoint
  · obtain e | e := i.counted.advance_stopped hs <;> simp [Inst.safePoint, e]

/-- Settles O17: the fault's record has a way to the host or to the fault handler, or stands in the dump's index, and
its words are those of Table 21-2. -/
theorem trapEndsInstance : Obligations.TrapEndsInstance := by
  refine ⟨decode_trap, fun s i a code h hc hf => ?_⟩
  have hf' : (s.counted i).handlerCore i.counted.ctx := by simpa [State.handlerCore] using hf
  obtain ⟨m, hm, hr⟩ := (s.counted i).raiseAt_carries s.curP s.curS i.counted fTrap (i.readG a).toNat code.toNat hc hf'
  refine ⟨_, m, execTrap_eq h, State.endInst_inst? _ _ _ _ h.1.slot, hm, hr.class_word hc (by decide), ?_, ?_⟩
  · exact hr.addr_word.trans (Nat.mod_eq_of_lt (i.readG a).isLt)
  · exact hr.det_word.trans (Nat.mod_eq_of_lt (by have := code.isLt; simp only [recOf]; omega))

end Sys2Proof.Machine

namespace Sys2Proof.Machine

/-! Fields of equal width packed from bit 0 upwards (02 R24). -/

/-- Fields of `w` bits added up at their places are the digits of a number to base 2^w. -/
theorem foldl_packed (w : Nat) (c : Nat → Nat) (n : Nat) :
    (List.range n).foldl (fun acc k => acc + c k * 2 ^ (w * k)) 0 = Nat.ofDigits (2 ^ w) ((List.range n).map c) := by
  induction n with
  | zero => rfl
  | succ n ih =>
    rw [List.range_succ, List.foldl_append, List.map_append, Nat.ofDigits_append, ih]
    simp [pow_mul, mul_comm]

/-- A digit of a number is read back from its place. -/
theorem ofDigits_digit {b : Nat} {l : List Nat} (hb : 0 < b) (hl : ∀ x ∈ l, x < b) (k : Nat) (hk : k < l.length) :
    Nat.ofDigits b l / b ^ k % b = l[k] := by
  rw [Nat.ofDigits_div_pow_eq_ofDigits_drop k hb l hl, List.drop_eq_getElem_cons hk, Nat.ofDigits_cons,
    Nat.add_mul_mod_self_left, Nat.mod_eq_of_lt (hl _ (List.getElem_mem hk))]

/-- A field of a packed run is read back from its place. -/
theorem packed_field {w : Nat} {c : Nat → Nat} (hc : ∀ k, c k < 2 ^ w) {n k : Nat} (hk : k < n) :
    (List.range n).foldl (fun acc k => acc + c k * 2 ^ (w * k)) 0 / 2 ^ (w * k) % 2 ^ w = c k := by
  rw [foldl_packed, pow_mul, ofDigits_digit (by positivity) (by simpa using fun k _ => hc k) k (by simpa using hk)]
  simp

/-- A packed run of `n` fields has `w * n` bits. -/
theorem packed_lt {w : Nat} {c : Nat → Nat} (hw : 0 < w) (hc : ∀ k, c k < 2 ^ w) (n : Nat) :
    (List.range n).foldl (fun acc k => acc + c k * 2 ^ (w * k)) 0 < 2 ^ (w * n) := by
  rw [foldl_packed, pow_mul]
  simpa using Nat.ofDigits_lt_base_pow_length (Nat.one_lt_two_pow hw.ne') (l := (List.range n).map c)
    (by simpa using fun k _ => hc k)

/-- A register of just their bits holds the packed fields. -/
theorem toNat_ofNat_packed {w : Nat} {c : Nat → Nat} (hw : 0 < w) (hc : ∀ k, c k < 2 ^ w) (n : Nat) :
    (BitVec.ofNat (w * n) ((List.range n).foldl (fun acc k => acc + c k * 2 ^ (w * k)) 0)).toNat
      = (List.range n).foldl (fun acc k => acc + c k * 2 ^ (w * k)) 0 := by
  rw [BitVec.toNat_ofNat, Nat.mod_eq_of_lt (packed_lt hw hc n)]

/-! Lanes and elements under a mask operand (07 R129, R130). -/

/-- The model's lane set has a lane exactly when the statements say that the mask operand makes it active. -/
theorem laneActive_lanesOf (i : Inst) (m : VMask) {j : Nat} (hj : j < 16) :
    laneActive (lanesOf i m) j = i.laneOn m j := by
  have hbit : ∀ k : KWord, laneActive k.toNat j = k.getLsbD j := fun k => by
    rw [laneActive, BitVec.getLsbD, Nat.testBit_eq_decide_div_mod_eq]
    rfl
  have hnot : 65535 - (i.readK m.reg).toNat = (~~~ i.readK m.reg).toNat := by
    rw [BitVec.toNat_not]
  rw [lanesOf, Inst.laneOn]
  cases m.mi
  · simp [hbit]
  · rw [if_pos rfl, hnot, hbit, BitVec.getLsbD_not, decide_eq_true hj, Bool.true_and, Bool.bne_true]

/-- The lowest bit of an element lies in one of the sixteen lanes (Table 07-1). -/
theorem elemPos_lane_lt {f : Fmt} {k : Nat} (hk : k < elemCount f) : elemPos f k / 32 < 16 := by
  cases f <;> simp only [elemCount, elemPos, fmtWidth] at hk ⊢ <;> omega

theorem elemActive_lanesOf (i : Inst) (m : VMask) {f : Fmt} {k : Nat} (hk : k < elemCount f) :
    elemActive f (lanesOf i m) k = i.elemOn m f k := laneActive_lanesOf i m (elemPos_lane_lt hk)

/-- The first of the active elements is the lowest-numbered one. -/
theorem head?_activeElems_eq_some (i : Inst) (m : VMask) (f : Fmt) (j : Nat) :
    (activeElems f (lanesOf i m)).head? = some j ↔
      j < elemCount f ∧ i.elemOn m f j = true ∧ ∀ k < j, i.elemOn m f k = false := by
  rw [activeElems, List.head?_filter, List.find?_range_eq_some, List.mem_range]
  constructor
  · rintro ⟨hj, hlt, hmin⟩
    refine ⟨hlt, elemActive_lanesOf i m hlt ▸ hj, fun k hk => ?_⟩
    simpa [elemActive_lanesOf i m (hk.trans hlt)] using hmin k hk
  · rintro ⟨hlt, hj, hmin⟩
    refine ⟨(elemActive_lanesOf i m hlt).trans hj, hlt, fun k hk => ?_⟩
    simpa [elemActive_lanesOf i m (hk.trans hlt)] using hmin k hk

/-- The lane set as a run of sixteen fields of 32 bits. -/
theorem laneBits_eq (lanes : Nat) : laneBits lanes =
    (List.range 16).foldl (fun acc j => acc + (if laneActive lanes j then 2 ^ 32 - 1 else 0) * 2 ^ (32 * j)) 0 := by
  rw [laneBits]
  congr 1
  funext acc j
  split <;> simp

/-- A lane of the selector is all ones when it is active, and 0 otherwise. -/
theorem laneBits_testBit (lanes : Nat) {j t : Nat} (hj : j < 16) (ht : t < 32) :
    (laneBits lanes).testBit (32 * j + t) = laneActive lanes j := by
  have hlane := packed_field (w := 32) (c := fun j => if laneActive lanes j then 2 ^ 32 - 1 else 0)
    (fun k => by split <;> decide) hj
  rw [← laneBits_eq] at hlane
  have hbit := congrArg (fun x => x.testBit t) hlane
  simp only [Nat.testBit_mod_two_pow, Nat.testBit_div_two_pow, ht, decide_true, Bool.true_and] at hbit
  rw [Nat.add_comm, hbit]
  cases laneActive lanes j
  · simp
  · rw [if_pos rfl, Nat.testBit_two_pow_sub_one, decide_eq_true ht]

/-! Elements of the formats of width 8, 16 and 32 (Table 07-2). -/

/-- These elements fill a v register. -/
theorem Fmt.shuffled_fills {f : Fmt} (h : f.shuffled = true) : fmtWidth f * elemCount f = 512 := by
  cases f <;> simp [Fmt.shuffled, fmtWidth, elemCount] at h ⊢

theorem Fmt.shuffled_width {f : Fmt} (h : f.shuffled = true) :
    0 < fmtWidth f ∧ fmtWidth f ≤ 32 ∧ fmtWidth f ≠ 6 := by
  cases f <;> simp [Fmt.shuffled, fmtWidth] at h ⊢

theorem elemPos_shuffled {f : Fmt} (h : f.shuffled = true) (k : Nat) : elemPos f k = fmtWidth f * k := by
  unfold elemPos
  split
  · cases h
  · rfl

theorem readElem_shuffled {f : Fmt} (h : f.shuffled = true) (x k : Nat) :
    readElem f x k = x / 2 ^ (fmtWidth f * k) % 2 ^ fmtWidth f := by
  unfold readElem
  split
  · cases h
  · rw [elemPos_shuffled h]

theorem readElem_lt {f : Fmt} (h : f.shuffled = true) (x k : Nat) : readElem f x k < 2 ^ fmtWidth f := by
  rw [readElem_shuffled h]
  exact Nat.mod_lt _ (by positivity)

/-- The code that `assemble` puts into element `k`: the one that `wr` names, or the old one. -/
def newElem (f : Fmt) (old : Nat) (wr : Nat → Option Nat) (k : Nat) : Nat :=
  (wr k).elim (readElem f old k) (· % 2 ^ fmtWidth f)

theorem newElem_lt {f : Fmt} (h : f.shuffled = true) (old : Nat) (wr : Nat → Option Nat) (k : Nat) :
    newElem f old wr k < 2 ^ fmtWidth f := by
  rw [newElem]
  cases wr k with
  | none => exact readElem_lt h old k
  | some c => exact Nat.mod_lt _ (by positivity)

/-- Nothing but elements stands in an assembled register of these formats. -/
theorem assemble_shuffled {f : Fmt} (h : f.shuffled = true) (old lanes : Nat) (wr : Nat → Option Nat) :
    (assemble f old lanes wr).1 =
      (List.range (elemCount f)).foldl (fun acc k => acc + newElem f old wr k * 2 ^ (fmtWidth f * k)) 0 := by
  unfold assemble
  split
  · cases h
  · simp only [(Fmt.shuffled_width h).2.2, if_false, Nat.add_zero]
    congr 1
    funext acc k
    rw [newElem, elemPos_shuffled h]
    cases wr k <;> rfl

/-- An assembled register reads, element by element, as the codes it was assembled from. -/
theorem readElem_assemble {f : Fmt} (h : f.shuffled = true) (old lanes : Nat) (wr : Nat → Option Nat) {k : Nat}
    (hk : k < elemCount f) :
    readElem f (BitVec.ofNat 512 (assemble f old lanes wr).1).toNat k = newElem f old wr k := by
  rw [assemble_shuffled h, ← Fmt.shuffled_fills h,
    toNat_ofNat_packed (Fmt.shuffled_width h).1 (newElem_lt h old wr), readElem_shuffled h]
  exact packed_field (newElem_lt h old wr) hk

/-! Issue of a vector word (07 R132). -/

/-- A vector word without a fault issues and holds what it writes. -/
theorem State.vec_ok {s : State} {i : Inst} {x : Instr} (h : s.Issues i x) {f : Inst → State → Check VPend}
    {e : VPend} (he : f i.counted (s.counted i) = .ok e) : s.vec (uses x) f = .next (s.holds i e) := by
  rw [State.vec, State.onFit_eq h, he]
  rfl

/-- A vector word whose operands fail their check raises that fault. -/
theorem State.vec_error {s : State} {i : Inst} {x : Instr} (h : s.Issues i x) {f : Inst → State → Check VPend}
    {code addr det : Nat} (he : f i.counted (s.counted i) = .error (code, addr, det)) :
    s.vec (uses x) f = .next (s.faulted i code addr det) := by
  rw [State.vec, State.onFit_eq h, he, State.faulted]
  simp only [State.raise, State.counted_curP, State.counted_curS]

theorem vOut_is (d : VReg) (x : Nat) (fl : Flags) (vec : Option (Nat × Nat)) :
    (vOut d x fl vec).Is d (BitVec.ofNat 512 x) fl := ⟨rfl, rfl, rfl, rfl⟩

/-! Reserved fields of vector words (07 R131). -/

theorem okIf_eq_ok_iff {c : Bool} {x y : Instr} : okIf c x = .ok y ↔ c = true ∧ x = y := by
  cases c <;> simp [okIf]

/-- Once its format is in the subset, a word whose reserved fields are not all 0 is refused for them. -/
theorem withMode_reserved {f : Fields} {adm : Fmt → Bool} {c : Bool} (h : adm (fmtOfCode f.fmtCode) = true)
    (hc : c = false) (k : VMask → Fmt → RMode → Instr) : withMode f adm c k = .error .reserved := by
  simp only [withMode, h, hc, if_true]
  cases modeOfCode f.modeCode <;> rfl

/-- FN of form A is bits 31 to 24 of the word (Table 03-1). -/
theorem fields_fn (w : Word) : (fields w).fn = (w.extractLsb' 24 8).toNat := by
  rw [Fields.fn, fields_lo_extract _ _ _ (by decide)]

/-- FMT of form A is bits 19 to 16 of the word (Table 03-2). -/
theorem fields_fmtCode (w : Word) : (fields w).fmtCode = w.extractLsb' 16 4 := fields_lo_extract _ _ _ (by decide)

/-- A v register's number is the low five bits of its field (03 R47). -/
theorem toV_extract (w : Word) (lo : Nat) : toV (w.extractLsb' lo 6) = w.extractLsb' lo 5 := by
  refine BitVec.eq_of_getLsbD_eq fun n hn => ?_
  have hn6 : n < 6 := by omega
  simp [toV, hn, hn6]

theorem decode_opc83 {w : Word} (h : w.extractLsb' 56 8 = 0x83) : decode w = dec83 (fields w) := by
  rw [decode, decodeFields, show (fields w).opc = 0x83 from h]
  rfl

theorem decode_opc84 {w : Word} (h : w.extractLsb' 56 8 = 0x84) : decode w = dec84 (fields w) := by
  rw [decode, decodeFields, show (fields w).opc = 0x84 from h]
  rfl

/-! VSEL (07 R138). -/

/-- VSEL leaves C reserved. -/
theorem decode_vsel_reserved {w : Word} (hopc : w.extractLsb' 56 8 = 0x83) (hfn : w.extractLsb' 24 8 = 0)
    (hc : w.extractLsb' 32 6 ≠ 0) : decode w = .error .reserved := by
  have hc' : ((fields w).c == 0) = false := beq_false_of_ne hc
  have hdab : dab (fields w) = false := by rw [dab, hc', Bool.and_false]
  have hfn' : (fields w).fn = 0 := by rw [fields_fn, hfn]; rfl
  rw [decode_opc83 hopc, dec83, hfn']
  simp only [vLogic, withMask, hdab, Bool.false_and]
  rfl

/-- Every word of VSEL's OPC that decodes is a VSEL of its D, A and B. -/
theorem decode_opc83_eq_ok {w : Word} (hopc : w.extractLsb' 56 8 = 0x83) {x : Instr} (hx : decode w = .ok x) :
    x = .vsel (w.extractLsb' 50 5) (w.extractLsb' 44 5) (w.extractLsb' 38 5) (fields w).mask := by
  rw [decode_opc83 hopc, dec83] at hx
  split at hx
  · rw [vLogic, withMask, okIf_eq_ok_iff] at hx
    rw [← hx.2, ← toV_extract, ← toV_extract, ← toV_extract]
    rfl
  · cases hx

/-- What VSEL writes: the bits of vA in the active lanes, and those of vB in the others. -/
def selected (i : Inst) (a b : VReg) (m : VMask) : VWord :=
  (i.readV a &&& BitVec.ofNat 512 (laneBits (lanesOf i m)))
    ||| (i.readV b &&& ~~~(BitVec.ofNat 512 (laneBits (lanesOf i m))))

theorem execVsel_eq {s : State} {i : Inst} {d a b : VReg} {m : VMask} (h : s.Issues i (.vsel d a b m)) :
    exec (.vsel d a b m) s = .next (s.holds i (vOut d (selected i a b m).toNat {} none)) := by
  rw [show exec (.vsel d a b m) s = execVsel d a b m s from rfl, execVsel]
  exact State.vec_ok h rfl

/-- A lane of the selection is that lane of vA or of vB, as the mask operand has it. -/
theorem selected_lane (i : Inst) (a b : VReg) (m : VMask) {j : Nat} (hj : j < 16) :
    (selected i a b m).extractLsb' (32 * j) 32 =
      if i.laneOn m j then (i.readV a).extractLsb' (32 * j) 32 else (i.readV b).extractLsb' (32 * j) 32 := by
  refine BitVec.eq_of_getLsbD_eq fun t ht => ?_
  have hn : 32 * j + t < 512 := by omega
  rw [apply_ite (fun v : BitVec 32 => v.getLsbD t)]
  simp only [selected, BitVec.getLsbD_extractLsb', ht, decide_true, Bool.true_and, BitVec.getLsbD_or,
    BitVec.getLsbD_and, BitVec.getLsbD_not, BitVec.getLsbD_ofNat, hn, laneBits_testBit _ hj ht,
    laneActive_lanesOf i m hj]
  cases i.laneOn m j <;> simp

/-- Settles O31: the selector's lanes are the mask operand's, all ones or 0. -/
theorem vselSelectsLanes : Obligations.VselSelectsLanes := by
  refine ⟨fun w => decode_vsel_reserved, fun w hopc _ x hx => ⟨_, decode_opc83_eq_ok hopc hx⟩,
    fun s i d a b m h => ⟨_, _, execVsel_eq h, vOut_is .., fun j hj => ?_⟩⟩
  rw [BitVec.ofNat_toNat, BitVec.setWidth_eq]
  exact selected_lane i a b m hj

/-! VINS and VEXT (07 R140, R141). -/

/-- VINS leaves C reserved. -/
theorem decode_vins_reserved {w : Word} (hopc : w.extractLsb' 56 8 = 0x84) (hfn : w.extractLsb' 24 8 = 5)
    (hf : (fmtOfCode (w.extractLsb' 16 4)).shuffled = true) (hc : w.extractLsb' 32 6 ≠ 0) :
    decode w = .error .reserved := by
  have hfn' : (fields w).fn = 5 := by rw [fields_fn, hfn]; rfl
  have hc' : ((fields w).c == 0) = false := beq_false_of_ne hc
  rw [decode_opc84 hopc, dec84, hfn']
  exact withMode_reserved (by rwa [fields_fmtCode]) (by rw [hc', Bool.and_false]) _

/-- VEXT leaves B and C reserved. -/
theorem decode_vext_reserved {w : Word} (hopc : w.extractLsb' 56 8 = 0x84) (hfn : w.extractLsb' 24 8 = 6)
    (hf : (fmtOfCode (w.extractLsb' 16 4)).shuffled = true) (hbc : w.extractLsb' 32 12 ≠ 0) :
    decode w = .error .reserved := by
  have hfn' : (fields w).fn = 6 := by rw [fields_fn, hfn]; rfl
  have hbc' : ((fields w).b == 0 && (fields w).c == 0) = false := by
    rw [Bool.eq_false_iff, Ne, Bool.and_eq_true, beq_iff_eq, beq_iff_eq, ← fields_bc_zero_iff]
    exact hbc
  rw [decode_opc84 hopc, dec84, hfn']
  exact withMode_reserved (by rwa [fields_fmtCode]) (by rw [Bool.and_assoc, hbc', Bool.and_false]) _

/-- The one element that VINS writes: element j = gB[63:48], when it is active. -/
def inserted (i : Inst) (b : GReg) (m : VMask) (f : Fmt) (k : Nat) : Option Nat :=
  if k = bitsOf (i.readG b).toNat 63 48 && elemActive f (lanesOf i m) (bitsOf (i.readG b).toNat 63 48)
    then some ((i.readG b).toNat % 2 ^ fmtWidth f) else none

theorem execVins_eq {s : State} {i : Inst} {d a : VReg} {b : GReg} {m : VMask} {f : Fmt} {md : RMode}
    (h : s.Issues i (.vins d a b m f md)) (hj : bitsOf (i.readG b).toNat 63 48 < elemCount f) :
    exec (.vins d a b m f md) s =
      .next (s.holds i (vOut d (assemble f (i.vNat a) 0 (inserted i b m f)).1 {} none)) := by
  rw [show exec (.vins d a b m f md) s = execVins d a b m f md s from rfl, execVins]
  refine State.vec_ok h ?_
  simp only [Inst.counted_readG, Nat.not_le.2 hj, if_false]
  rfl

/-- A j of E or more raises the operand-range fault whatever the mask, which is the model's choice (log 49). -/
theorem execVins_beyond {s : State} {i : Inst} {d a : VReg} {b : GReg} {m : VMask} {f : Fmt} {md : RMode}
    (h : s.Issues i (.vins d a b m f md)) (hj : elemCount f ≤ bitsOf (i.readG b).toNat 63 48) :
    exec (.vins d a b m f md) s = .next (s.faulted i fOperand 0 (i.readG b).toNat) := by
  rw [show exec (.vins d a b m f md) s = execVins d a b m f md s from rfl, execVins]
  refine State.vec_error h ?_
  simp only [Inst.counted_readG, hj, if_true]

/-- The insertion changes element j alone, and only when it is active. -/
theorem newElem_inserted (i : Inst) (b : GReg) (m : VMask) {f : Fmt} (old : Nat)
    (hj : bitsOf (i.readG b).toNat 63 48 < elemCount f) (k : Nat) :
    newElem f old (inserted i b m f) k =
      if k = bitsOf (i.readG b).toNat 63 48 ∧ i.elemOn m f (bitsOf (i.readG b).toNat 63 48) = true
      then (i.readG b).toNat % 2 ^ fmtWidth f else readElem f old k := by
  simp only [newElem, inserted, elemActive_lanesOf i m hj, Bool.and_eq_true, decide_eq_true_eq]
  split
  · simp
  · rfl

/-- An element in 64 bits: sign-extended for i16 and i8, zero-extended for every other format. -/
def extended (f : Fmt) (c : Nat) : Word := match f with
  | .i16 | .i8 => wrap64 (intOf f c)
  | _ => word64 c

/-- What VEXT writes: the first active element, or 0. -/
def extracted (i : Inst) (a : VReg) (m : VMask) (f : Fmt) : Word :=
  (activeElems f (lanesOf i m)).head?.elim 0 (fun j => extended f (readElem f (i.vNat a) j))

theorem execVext_eq {s : State} {i : Inst} {d : GReg} {a : VReg} {m : VMask} {f : Fmt} {md : RMode}
    (h : s.Issues i (.vext d a m f md)) :
    exec (.vext d a m f md) s = .next (s.holds i (gOut d (extracted i a m f))) := by
  rw [show exec (.vext d a m f md) s = execVext d a m f md s from rfl, execVext]
  refine State.vec_ok h ?_
  rw [extracted, show lanesOf i.counted m = lanesOf i m from rfl]
  cases (activeElems f (lanesOf i m)).head? with
  | none => rfl
  | some j => cases f <;> rfl

/-- With no lane active VEXT writes 0. -/
theorem extracted_of_none_active {i : Inst} {a : VReg} {m : VMask} {f : Fmt} (h : ∀ j < 16, i.laneOn m j = false) :
    extracted i a m f = 0 := by
  rw [extracted]
  cases hj : (activeElems f (lanesOf i m)).head? with
  | none => rfl
  | some j =>
    obtain ⟨hlt, hon, -⟩ := (head?_activeElems_eq_some i m f j).1 hj
    simp [Inst.elemOn, h _ (elemPos_lane_lt hlt)] at hon

/-- VEXT moves the lowest-numbered active element. -/
theorem extracted_of_first {i : Inst} {a : VReg} {m : VMask} {f : Fmt} {j : Nat} (hlt : j < elemCount f)
    (hon : i.elemOn m f j = true) (hmin : ∀ k < j, i.elemOn m f k = false) :
    extracted i a m f = extended f (readElem f (i.vNat a) j) := by
  rw [extracted, (head?_activeElems_eq_some i m f j).2 ⟨hlt, hon, hmin⟩]
  rfl

/-- A code of up to 64 bits has a value that 64 signed bits hold. -/
theorem wrap64_signedOf {w : Nat} (hw : 0 < w) (hw64 : w ≤ 64) (c : Nat) :
    (wrap64 (signedOf w c)).toInt = signedOf w c := by
  obtain ⟨n, rfl⟩ : ∃ n, w = n + 1 := ⟨w - 1, by omega⟩
  have hn : 2 ^ n ≤ 2 ^ 63 := Nat.pow_le_pow_right (by decide) (by omega)
  have hc : c % 2 ^ (n + 1) < 2 ^ n * 2 := Nat.mod_lt _ (by positivity)
  have hbounds : -2 ^ 63 ≤ signedOf (n + 1) c ∧ signedOf (n + 1) c < 2 ^ 63 := by
    simp only [signedOf, Nat.add_sub_cancel]
    generalize c % 2 ^ (n + 1) = x at hc
    have hpow : (2 : Int) ^ (n + 1) = ((2 ^ n : Nat) : Int) * 2 := by push_cast; ring
    rw [hpow]
    split <;> omega
  exact BitVec.toInt_ofInt_eq_self (by decide) hbounds.1 hbounds.2

theorem extended_toInt {f : Fmt} (hf : f = .i16 ∨ f = .i8) (c : Nat) :
    (extended f c).toInt = signedOf (fmtWidth f) c := by
  obtain rfl | rfl := hf
  · exact wrap64_signedOf (w := 16) (by decide) (by decide) c
  · exact wrap64_signedOf (w := 8) (by decide) (by decide) c

theorem extended_toNat {f : Fmt} (h16 : f ≠ .i16) (h8 : f ≠ .i8) {c : Nat} (hc : c < 2 ^ 64) :
    (extended f c).toNat = c := by
  have hword : extended f c = word64 c := by
    unfold extended
    split
    · exact absurd rfl h16
    · exact absurd rfl h8
    · rfl
  rw [hword, word64, BitVec.toNat_ofNat, Nat.mod_eq_of_lt hc]

/-- Settles O33: an assembled register holds the inserted code at j alone, and the first active element is the one that
VEXT moves. -/
theorem vinsAndVextComplete : Obligations.VinsAndVextComplete := by
  refine ⟨⟨fun w => decode_vins_reserved, ?_⟩, ⟨fun w => decode_vext_reserved, ?_⟩⟩
  · rintro s i d a b m f md _ hf h rfl
    refine ⟨fun hj => ⟨_, _, execVins_eq h hj, vOut_is .., fun k hk => ?_⟩, execVins_beyond h⟩
    rw [readElem_assemble hf _ _ _ hk, newElem_inserted i b m _ hj]
  · intro s i d a m f md hf h
    refine ⟨_, _, execVext_eq h, rfl, rfl, rfl, rfl, extracted_of_none_active, fun j hj hon hmin => ?_⟩
    have hlt : readElem f (i.vNat a) j < 2 ^ 64 := (readElem_lt hf _ _).trans_le
      (Nat.pow_le_pow_right (by decide) ((Fmt.shuffled_width hf).2.1.trans (by decide)))
    rw [extracted_of_first hj hon hmin]
    exact ⟨fun hs => extended_toInt hs _, fun h16 h8 => extended_toNat h16 h8 hlt⟩

end Sys2Proof.Machine

namespace Sys2Proof

open Machine (okIf_eq_ok_iff)

/-! Words and their fields (03 Table 03-1 to Table 03-3): what each field of a word reads, once it has been put there. -/

/-- The fields of a word made of fields are those fields (Table 03-1). -/
theorem fields_pack (f : Fields) : fields f.pack = f := by
  obtain ⟨opc, d, a, b, c, lo⟩ := f
  simp only [fields, Fields.pack, Fields.mk.injEq]
  refine ⟨?_, ?_, ?_, ?_, ?_, ?_⟩ <;> grind

/-- A word of form A with nothing below FN is decoded by its fields. -/
theorem decode_eA (opc fn : BitVec 8) (d a b c : BitVec 6) :
    decode (eA opc fn d a b c) = decodeFields ⟨opc, d, a, b, c, loFn fn⟩ := congrArg decodeFields (fields_pack _)

/-- A word with all of IMM32 is decoded by its fields. -/
theorem decode_eI (opc : BitVec 8) (d a b c : BitVec 6) (lo : BitVec 32) :
    decode (eI opc d a b c lo) = decodeFields ⟨opc, d, a, b, c, lo⟩ := congrArg decodeFields (fields_pack _)

/-- A word of form A with all of its sub-fields is decoded by its fields. -/
theorem decode_eV (opc fn : BitVec 8) (d a b c : BitVec 6) (m : VMask) (f : BitVec 4) (sat : Bool) (md : BitVec 3) :
    decode (eV opc fn d a b c m f sat md) = decodeFields ⟨opc, d, a, b, c, loA fn m f sat md⟩ :=
  congrArg decodeFields (fields_pack _)

theorem bitOf_eq_one (b : Bool) : (bitOf b == 1) = b := by cases b <;> rfl
@[simp] theorem bitOf_eq_one' (b : Bool) : (bitOf b == 1#1) = b := bitOf_eq_one b

section LowPart
variable (opc fn : BitVec 8) (d a b c : BitVec 6)

@[simp] theorem Fields.fn_loFn : Fields.fn ⟨opc, d, a, b, c, loFn fn⟩ = fn.toNat :=
  congrArg BitVec.toNat BitVec.extractLsb'_append_eq_left
@[simp] theorem Fields.plain_loFn : Fields.plain ⟨opc, d, a, b, c, loFn fn⟩ = true :=
  beq_iff_eq.2 BitVec.extractLsb'_append_eq_right

variable (m : VMask) (f : BitVec 4) (sat : Bool) (md : BitVec 3)

@[simp] theorem Fields.fn_loA : Fields.fn ⟨opc, d, a, b, c, loA fn m f sat md⟩ = fn.toNat := by
  have h : (loA fn m f sat md).extractLsb' 24 8 = fn := by grind [loA]
  exact congrArg BitVec.toNat h
@[simp] theorem Fields.mask_loA : Fields.mask ⟨opc, d, a, b, c, loA fn m f sat md⟩ = m := by
  have hreg : (loA fn m f sat md).extractLsb' 20 3 = m.reg := by grind [loA]
  have hmi : (loA fn m f sat md).extractLsb' 23 1 = bitOf m.mi := by grind [loA]
  simp only [Fields.mask, hreg, hmi, bitOf_eq_one]
@[simp] theorem Fields.fmtCode_loA : Fields.fmtCode ⟨opc, d, a, b, c, loA fn m f sat md⟩ = f := by
  grind [Fields.fmtCode, loA]
@[simp] theorem Fields.sat_loA : Fields.sat ⟨opc, d, a, b, c, loA fn m f sat md⟩ = sat := by
  have h : (loA fn m f sat md).extractLsb' 15 1 = bitOf sat := by grind [loA]
  simp only [Fields.sat, h, bitOf_eq_one]
@[simp] theorem Fields.modeCode_loA : Fields.modeCode ⟨opc, d, a, b, c, loA fn m f sat md⟩ = md := by
  grind [Fields.modeCode, loA]
@[simp] theorem Fields.lowZero_loA : Fields.lowZero ⟨opc, d, a, b, c, loA fn m f sat md⟩ = true := by
  have h : (loA fn m f sat md).extractLsb' 0 12 = 0 := by grind [loA]
  simp only [Fields.lowZero, h, beq_self_eq_true]
/-- RND reserved: its bits and those below are 0. -/
@[simp] theorem loA_rnd : (loA fn m f false 0#3).extractLsb' 0 16 = 0 := by
  have h : bitOf false = 0 := rfl
  grind [loA]
/-- FMT and RND reserved. -/
@[simp] theorem loA_fmt : (loA fn m 0#4 false 0#3).extractLsb' 0 20 = 0 :=
  (Machine.extractLsb'_add_eq_zero_iff _ 0 16 4).2 ⟨Fields.fmtCode_loA 0 fn 0 0 0 0 m 0 false 0, loA_rnd ..⟩
/-- VCVT's FN holds the destination format below four zeros (07 R142). -/
@[simp] theorem loA_dst_high (x : BitVec 4) : (loA (0#4 ++ x : BitVec 8) m f sat md).extractLsb' 28 4 = 0 := by
  grind [loA]
@[simp] theorem loA_dst (x : BitVec 4) : (loA (0#4 ++ x : BitVec 8) m f sat md).extractLsb' 24 4 = x := by
  grind [loA]

end LowPart

/-! Register fields narrower than six bits (R47). -/

@[simp] theorem vOk_fromV (x : VReg) : vOk (fromV x) = true := beq_iff_eq.2 BitVec.extractLsb'_append_eq_left
@[simp] theorem xOk_fromX (x : XReg) : xOk (fromX x) = true := beq_iff_eq.2 BitVec.extractLsb'_append_eq_left
@[simp] theorem kOk_fromK (x : KReg) : kOk (fromK x) = true := beq_iff_eq.2 BitVec.extractLsb'_append_eq_left
@[simp] theorem toV_fromV (x : VReg) : toV (fromV x) = x := BitVec.extractLsb'_append_eq_right
@[simp] theorem toX_fromX (x : XReg) : toX (fromX x) = x := BitVec.extractLsb'_append_eq_right
@[simp] theorem toK_fromK (x : KReg) : toK (fromK x) = x := BitVec.extractLsb'_append_eq_right

/-! Codes. -/

@[simp] theorem fmtOfCode_code (f : Fmt) : fmtOfCode f.code = f := by cases f <;> rfl
@[simp] theorem modeOfCode_code (m : RMode) : modeOfCode m.code = some m := by cases m <;> rfl
@[simp] theorem pathOfCode_code (p : Path) : pathOfCode p.code = p := by cases p <;> rfl
@[simp] theorem scopeOfCode_code (x : Scope) : scopeOfCode x.code = some x := by cases x <;> rfl
@[simp] theorem sizeOfCode_code (z : AccSize) : sizeOfCode z.code = some z := by cases z <;> rfl
@[simp] theorem scopeOfCode_ordField (o : Option Scope) : scopeOfCode (ordField o) = o := by
  rcases o with _ | x
  · rfl
  · exact scopeOfCode_code x
theorem ordField_ne (o : Option Scope) : (ordField o != 7) = true := by rcases o with _ | _ | _ | _ | _ | _ | _ <;> rfl

section Ordering
variable (opc : BitVec 8) (d a b : BitVec 6) (z o : BitVec 3) (lo : BitVec 32)
@[simp] theorem Fields.sizeCode_szOrd : Fields.sizeCode ⟨opc, d, a, b, szOrd z o, lo⟩ = z :=
  BitVec.extractLsb'_append_eq_left
@[simp] theorem Fields.ordCode_szOrd : Fields.ordCode ⟨opc, d, a, b, szOrd z o, lo⟩ = o :=
  BitVec.extractLsb'_append_eq_right
@[simp] theorem Fields.ord_szOrd (x : Option Scope) : Fields.ord ⟨opc, d, a, b, szOrd z (ordField x), lo⟩ = x := by
  simp only [Fields.ord, Fields.ordCode_szOrd, scopeOfCode_ordField]
@[simp] theorem Fields.ordOk_szOrd (x : Option Scope) :
    Fields.ordOk ⟨opc, d, a, b, szOrd z (ordField x), lo⟩ = true := by
  simp only [Fields.ordOk, Fields.ordCode_szOrd, ordField_ne]
end Ordering

/-! Fields that hold narrower operands. -/

@[simp] theorem level_high (x : BitVec 1) : (0#5 ++ x : BitVec 6).extractLsb' 1 5 = 0 :=
  BitVec.extractLsb'_append_eq_left
@[simp] theorem level_low (x : BitVec 1) : (0#5 ++ x : BitVec 6).extractLsb' 0 1 = x :=
  BitVec.extractLsb'_append_eq_right
@[simp] theorem code_high (x : BitVec 16) : (0#16 ++ x : BitVec 32).extractLsb' 16 16 = 0 :=
  BitVec.extractLsb'_append_eq_left
@[simp] theorem code_low (x : BitVec 16) : (0#16 ++ x : BitVec 32).extractLsb' 0 16 = x :=
  BitVec.extractLsb'_append_eq_right
@[simp] theorem scope_high (x : BitVec 3) : (0#3 ++ x : BitVec 6).extractLsb' 3 3 = 0 :=
  BitVec.extractLsb'_append_eq_left
@[simp] theorem scope_low (x : BitVec 3) : (0#3 ++ x : BitVec 6).extractLsb' 0 3 = x :=
  BitVec.extractLsb'_append_eq_right
@[simp] theorem path_high (x : BitVec 2) : (0#4 ++ x : BitVec 6).extractLsb' 2 4 = 0 :=
  BitVec.extractLsb'_append_eq_left
@[simp] theorem path_low (x : BitVec 2) : (0#4 ++ x : BitVec 6).extractLsb' 0 2 = x :=
  BitVec.extractLsb'_append_eq_right
@[simp] theorem paths_high (x y : BitVec 2) : (0#2 ++ x ++ y : BitVec 6).extractLsb' 4 2 = 0 := by grind
@[simp] theorem paths_first (x y : BitVec 2) : (0#2 ++ x ++ y : BitVec 6).extractLsb' 2 2 = x := by grind
@[simp] theorem paths_second (x y : BitVec 2) : (0#2 ++ x ++ y : BitVec 6).extractLsb' 0 2 = y :=
  BitVec.extractLsb'_append_eq_right

@[simp] theorem loBits_pos (pos wm1 : BitVec 6) : (loBits pos wm1).extractLsb' 0 6 = pos :=
  BitVec.extractLsb'_append_eq_right
@[simp] theorem loBits_wm1 (pos wm1 : BitVec 6) : (loBits pos wm1).extractLsb' 6 6 = wm1 := by grind [loBits]
@[simp] theorem loBits_high (pos wm1 : BitVec 6) : (loBits pos wm1).extractLsb' 12 20 = 0 := by grind [loBits]
@[simp] theorem loShift_low (n : BitVec 6) : (loShift n).extractLsb' 0 6 = n := BitVec.extractLsb'_append_eq_right
@[simp] theorem loShift_high (n : BitVec 6) : (loShift n).extractLsb' 6 26 = 0 := BitVec.extractLsb'_append_eq_left

section LowPart
variable (opc : BitVec 8) (d a b c : BitVec 6)
@[simp] theorem Fields.nib_loNib (n : BitVec 4) : Fields.nib ⟨opc, d, a, b, c, loNib n⟩ = n :=
  BitVec.extractLsb'_append_eq_right
@[simp] theorem Fields.nibOk_loNib (n : BitVec 4) : Fields.nibOk ⟨opc, d, a, b, c, loNib n⟩ = true :=
  beq_iff_eq.2 BitVec.extractLsb'_append_eq_left
@[simp] theorem Fields.sreg_loS (n fn : BitVec 16) : Fields.sreg ⟨opc, d, a, b, c, loS n fn⟩ = n :=
  BitVec.extractLsb'_append_eq_left
@[simp] theorem Fields.fnS_loS (n fn : BitVec 16) : Fields.fnS ⟨opc, d, a, b, c, loS n fn⟩ = fn.toNat :=
  congrArg BitVec.toNat BitVec.extractLsb'_append_eq_right
@[simp] theorem Fields.hidx_loX (h : BitVec 12) (x : BitVec 20) : Fields.hidx ⟨opc, d, a, b, c, loX h x⟩ = h :=
  BitVec.extractLsb'_append_eq_left
@[simp] theorem Fields.bit19_subNorel (h : BitVec 12) (n : Bool) :
    Fields.bit19 ⟨opc, d, a, b, c, loX h (subNorel n)⟩ = n := by
  have e : (loX h (subNorel n)).extractLsb' 19 1 = bitOf n := by grind [loX, subNorel]
  simp only [Fields.bit19, e, bitOf_eq_one]
end LowPart

/-- A field within the sub-fields below a handler index. -/
theorem loX_extract (h : BitVec 12) (x : BitVec 20) (lo n : Nat) (hn : lo + n ≤ 20) :
    (loX h x).extractLsb' lo n = x.extractLsb' lo n := BitVec.extractLsb'_append_eq_of_add_le hn

@[simp] theorem loX_subNorel (h : BitVec 12) (n : Bool) : (loX h (subNorel n)).extractLsb' 0 19 = 0 := by
  grind [loX, subNorel]

/-! The round trip from an instruction (03 R44 to R48). -/

/-- An operation of a float format takes every rounding mode (R131). -/
theorem modeOk_of_wideFloat {f : Fmt} (h : f.wideFloat = true) (m : RMode) : modeOk f m = true := by
  cases f <;> cases h <;> rfl

/-- The quarter of the spec's table that holds a row: scalar, control and system words (0), memory words and messages (1),
vector words (2), engine words and the steps that no word makes (3). -/
def Instr.part (x : Instr) : Nat :=
  if x.ctorIdx < 87 then 0 else if x.ctorIdx < 145 then 1 else if x.ctorIdx < 207 then 2 else 3

theorem decode_encode_scalar {x : Instr} {w : Word} (hp : x.part = 0) (hwf : x.wellFormed = true)
    (he : encode x = some w) : decode w = .ok (canon x) := by
  cases x with
  | add | sub | mul | mulh | mulhn | div | divn | rem | remn | and | or | xor | andn | sll | srl | sra | rol | ror | min
  | max | minn | maxn | adds | subs =>
    obtain rfl := Option.some.inj he
    refine (decode_eA ..).trans (show dec00 _ = _ from ?_)
    simp [dec00, aDAB, okIf, canon]
  | cmpeq | cmpne | cmplt | cmple | cmpltn | cmplen | sel =>
    obtain rfl := Option.some.inj he
    refine (decode_eA ..).trans (show dec01 _ = _ from ?_)
    simp [dec01, aDAB, okIf, canon]
  | clz | ctz | popc | brev | bswap =>
    obtain rfl := Option.some.inj he
    refine (decode_eA ..).trans (show dec02 _ = _ from ?_)
    simp [dec02, aDA, okIf, canon]
  | crcc8 | crcc16 | crcc32 | crcc64 =>
    obtain rfl := Option.some.inj he
    refine (decode_eA ..).trans (show dec06 _ = _ from ?_)
    simp [dec06, aDAB, okIf, canon]
  | rng | rngf =>
    obtain rfl := Option.some.inj he
    refine (decode_eA ..).trans (show dec07 _ = _ from ?_)
    simp [dec07, aDAB, okIf, canon]
  | mfm | mfl | mfq =>
    obtain rfl := Option.some.inj he
    refine (decode_eA ..).trans (show dec17 _ = _ from ?_)
    simp [dec17, okIf, canon]
  | idx =>
    obtain rfl := Option.some.inj he
    refine (decode_eA ..).trans (show dec19 _ = _ from ?_)
    simp [dec19, okIf, canon]
  | bext | bextz | bins =>
    obtain rfl := Option.some.inj he
    refine (decode_eI ..).trans (show decBits _ _ = _ from ?_)
    simpa [decBits, okIf, canon, Instr.wellFormed] using hwf
  | addi | andi | ori | xori | muli | cmpeqi | cmplti | cmpltni | mini | maxi | la =>
    obtain rfl := Option.some.inj he
    refine (decode_eI ..).trans (show iDA _ _ = _ from ?_)
    simp [iDA, okIf, canon]
  | slli | srli | srai =>
    obtain rfl := Option.some.inj he
    refine (decode_eI ..).trans (show iShift _ _ = _ from ?_)
    simp [iShift, okIf, canon]
  | li | lih =>
    obtain rfl := Option.some.inj he
    refine (decode_eI ..).trans (show iD _ _ = _ from ?_)
    simp [iD, okIf, canon]
  | br | beq | bne | blt | bge | bltn | bgen =>
    obtain rfl := Option.some.inj he
    exact (decode_eI ..).trans rfl
  | jal | loop | chunk =>
    obtain rfl := Option.some.inj he
    refine (decode_eI ..).trans (show okIf _ _ = _ from ?_)
    simp [okIf, canon]
  | jr =>
    obtain rfl := Option.some.inj he
    refine (decode_eA ..).trans (show dec32 _ = _ from ?_)
    simp [dec32, okIf, canon]
  | ret | endI | yieldI =>
    obtain rfl := Option.some.inj he
    exact (decode_eA ..).trans rfl
  | trap | bkpt | trmark =>
    obtain rfl := Option.some.inj he
    refine (decode_eI ..).trans (show decCode _ _ = _ from ?_)
    simp [decCode, okIf, canon]
  | srd | swr | sw1c =>
    obtain rfl := Option.some.inj he
    refine (decode_eI ..).trans (show decE0 _ = _ from ?_)
    simpa [decE0, okIf, canon, Instr.wellFormed] using hwf
  | cntrd =>
    obtain rfl := Option.some.inj he
    refine (decode_eI ..).trans (show decE1 _ = _ from ?_)
    simpa [decE1, okIf, canon, Instr.wellFormed] using hwf
  | chunkUnitRequest => cases he
  | _ => cases hp

theorem decode_encode_memory {x : Instr} {w : Word} (hp : x.part = 1) (hwf : x.wellFormed = true)
    (he : encode x = some w) : decode w = .ok (canon x) := by
  cases x with
  | ld8 | ld16 | ld32 | ld64 =>
    obtain rfl := Option.some.inj he
    refine (decode_eI ..).trans (show dec40 _ = _ from ?_)
    simp [dec40, mLoad, okIf, canon]
  | ldz8 | ldz16 | ldz32 =>
    obtain rfl := Option.some.inj he
    refine (decode_eI ..).trans (show dec41 _ = _ from ?_)
    simp [dec41, mLoad, okIf, canon]
  | st8 | st16 | st32 | st64 =>
    obtain rfl := Option.some.inj he
    refine (decode_eI ..).trans (show dec42 _ = _ from ?_)
    simp [dec42, mStore, okIf, canon]
  | vld =>
    obtain rfl := Option.some.inj he
    refine (decode_eI ..).trans (show dec43 _ = _ from ?_)
    simp [dec43, okIf, canon]
  | vst =>
    obtain rfl := Option.some.inj he
    refine (decode_eI ..).trans (show dec44 _ = _ from ?_)
    simp [dec44, okIf, canon]
  | get =>
    obtain rfl := Option.some.inj he
    refine (decode_eI ..).trans (show dec45 _ = _ from ?_)
    simp [dec45, okIf, canon]
  | put =>
    obtain rfl := Option.some.inj he
    refine (decode_eI ..).trans (show dec46 _ = _ from ?_)
    simp [dec46, okIf, canon]
  | aadd _ _ _ wide | amin _ _ _ wide | amax _ _ _ wide | aminn _ _ _ wide | amaxn _ _ _ wide | aand _ _ _ wide
  | aor _ _ _ wide | axor _ _ _ wide | aswap _ _ _ wide | acas _ _ _ wide | aclaim _ _ _ wide =>
    obtain rfl := Option.some.inj he
    refine (decode_eI ..).trans (show mAtomic _ _ = _ from ?_)
    cases wide <;> simp [mAtomic, wideSize, okIf, canon]
  | afadd =>
    obtain rfl := Option.some.inj he
    refine (decode_eI ..).trans (show dec49 _ = _ from ?_)
    simp [dec49, wideSize, okIf, canon]
  | fence | xfence | drain =>
    obtain rfl := Option.some.inj he
    refine (decode_eA ..).trans (show dec54 _ = _ from ?_)
    simpa [dec54, okIf, canon, Instr.wellFormed] using hwf
  | barrive _ _ _ _ sc n =>
    obtain rfl := Option.some.inj he
    have hscope : (sc.code ++ n ++ 0#13 : BitVec 20).extractLsb' 17 3 = sc.code := by grind
    have hunit : (sc.code ++ n ++ 0#13 : BitVec 20).extractLsb' 13 4 = n := by grind
    have hlow : (sc.code ++ n ++ 0#13 : BitVec 20).extractLsb' 0 13 = 0 := by grind
    refine (decode_eI ..).trans (show dec55 _ = _ from ?_)
    simpa [dec55, okIf, canon, loX_extract, hscope, hunit, hlow, Instr.wellFormed] using hwf
  | watchRegister | watchCancel =>
    obtain rfl := Option.some.inj he
    refine (decode_eI ..).trans (show dec56 _ = _ from ?_)
    simp [dec56, okIf, canon, loX_extract]
  | send =>
    obtain rfl := Option.some.inj he
    refine (decode_eI ..).trans (show dec60 _ = _ from ?_)
    simp [dec60, okIf, canon]
  | reply =>
    obtain rfl := Option.some.inj he
    refine (decode_eI ..).trans (show dec61 _ = _ from ?_)
    simp [dec61, okIf, canon]
  | sendm _ _ _ _ _ nr n =>
    obtain rfl := Option.some.inj he
    have hlow : (bitOf nr ++ n ++ 0#12 : BitVec 20).extractLsb' 0 12 = 0 := by grind
    have hn : (bitOf nr ++ n ++ 0#12 : BitVec 20).extractLsb' 12 7 = n := by grind
    have hnr : (bitOf nr ++ n ++ 0#12 : BitVec 20).extractLsb' 19 1 = bitOf nr := by grind
    refine (decode_eI ..).trans (show dec62 _ = _ from ?_)
    simp [dec62, Fields.bit19, okIf, canon, loX_extract, hlow, hn, hnr]
  | post =>
    obtain rfl := Option.some.inj he
    refine (decode_eI ..).trans (show dec63 _ = _ from ?_)
    simp [dec63, okIf, canon]
  | msgld8 | msgld16 | msgld32 | msgld64 =>
    obtain rfl := Option.some.inj he
    refine (decode_eI ..).trans (show dec64 _ = _ from ?_)
    simp [dec64, okIf, canon]
  | tagnew | tagfree | tagpark =>
    obtain rfl := Option.some.inj he
    refine (decode_eI ..).trans (show okIf _ _ = _ from ?_)
    simp [okIf, canon]
  | arm _ _ _ _ _ act prio =>
    obtain rfl := Option.some.inj he
    have hlow : (bitOf act ++ prio ++ 0#17 : BitVec 20).extractLsb' 0 17 = 0 := by grind
    have hprio : (bitOf act ++ prio ++ 0#17 : BitVec 20).extractLsb' 17 2 = prio := by grind
    have hact : (bitOf act ++ prio ++ 0#17 : BitVec 20).extractLsb' 19 1 = bitOf act := by grind
    refine (decode_eI ..).trans (show dec68 _ = _ from ?_)
    simpa [dec68, Fields.bit19, okIf, canon, loX_extract, hlow, hprio, hact, Instr.wellFormed, or_iff_not_imp_left] using hwf
  | qpush | qpop | qwait | qadv =>
    obtain rfl := Option.some.inj he
    refine (decode_eA ..).trans (show dec69 _ = _ from ?_)
    simp [dec69, okIf, canon]
  | wput | wtakeFirst | wtakeStatus | wtakeEmpty =>
    obtain rfl := Option.some.inj he
    refine (decode_eA ..).trans (show dec6A _ = _ from ?_)
    simp [dec6A, aDA, okIf, canon]
  | jrec | jemit | jckpt | jtruncCheckpoint | jtruncClose =>
    obtain rfl := Option.some.inj he
    refine (decode_eA ..).trans (show dec6B _ = _ from ?_)
    simp [dec6B, aDAB, aDA, okIf, canon]
  | _ => cases hp

theorem decode_encode_vector {x : Instr} {w : Word} (hp : x.part = 2) (hwf : x.wellFormed = true)
    (he : encode x = some w) : decode w = .ok (canon x) := by
  cases x with
  | vadd | vsub | vmul | vdiv | vmin | vmax | vabs | vneg =>
    obtain rfl := Option.some.inj he
    refine (decode_eV ..).trans (show dec80 _ = _ from ?_)
    simp_all [dec80, vBin, vUn, withRnd, dab, da, okIf, canon, Instr.wellFormed]
  | vsqrt =>
    obtain rfl := Option.some.inj he
    refine (decode_eV ..).trans (show dec80 _ = _ from ?_)
    simp_all [dec80, vUn, withRnd, da, okIf, canon, Instr.wellFormed, modeOk_of_wideFloat]
  | vand | vor | vxor | vsll | vsrl | vsra =>
    obtain rfl := Option.some.inj he
    refine (decode_eV ..).trans (show dec80 _ = _ from ?_)
    simp_all [dec80, vLogic, vShift, withMask, dab, okIf, canon, Instr.wellFormed]
  | vfma | vfms | vfnma | vfnms =>
    obtain rfl := Option.some.inj he
    refine (decode_eV ..).trans (show dec81 _ = _ from ?_)
    simp_all [dec81, withRnd, dabc, okIf, canon, Instr.wellFormed, modeOk_of_wideFloat]
  | vcmpeq | vcmpne | vcmplt | vcmple | vcmpun =>
    obtain rfl := Option.some.inj he
    refine (decode_eV ..).trans (show dec82 _ = _ from ?_)
    simp_all [dec82, withMode, okIf, canon, Instr.wellFormed, modeOk_of_wideFloat]
  | vsel =>
    obtain rfl := Option.some.inj he
    refine (decode_eV ..).trans (show dec83 _ = _ from ?_)
    simp [dec83, vLogic, withMask, dab, okIf, canon]
  | vperm | vbcast | vslide | vzip | vunzip | vins | vext =>
    obtain rfl := Option.some.inj he
    refine (decode_eV ..).trans (show dec84 _ = _ from ?_)
    simp_all [dec84, withMode, dab, dabc, okIf, canon, Instr.wellFormed]
  | vcvt =>
    obtain rfl := Option.some.inj he
    refine (decode_eV ..).trans (show dec85 _ = _ from ?_)
    simp [dec85, withRnd, da, okIf, canon]
  | quant | dequantChannel =>
    obtain rfl := Option.some.inj he
    refine (decode_eV ..).trans (show dec86 _ = _ from ?_)
    simp_all [dec86, withRnd, dab, okIf, canon, Instr.wellFormed, Fmt.onlyF32]
  | dequant _ _ _ _ f _ =>
    obtain rfl := Option.some.inj he
    refine (decode_eV ..).trans (show dec86 _ = _ from ?_)
    cases f <;> simp_all [dec86, withRnd, dab, okIf, canon, Instr.wellFormed, Fmt.quantised]
  | vredadd | vredmin | vredmax | vscanadd | vscanmin | vscanmax =>
    obtain rfl := Option.some.inj he
    refine (decode_eV ..).trans (show dec87 _ = _ from ?_)
    simp_all [dec87, vUn, withRnd, da, okIf, canon, Instr.wellFormed]
  | vexp2 | vlog2 | vrcp | vrsqrt | vsin | vcos | vtanh | vsigm | vexp =>
    obtain rfl := Option.some.inj he
    refine (decode_eV ..).trans (show dec88 _ = _ from ?_)
    simp_all [dec88, da, okIf, canon, Instr.wellFormed]
  | vpacknz =>
    obtain rfl := Option.some.inj he
    refine (decode_eV ..).trans (show dec89 _ = _ from ?_)
    simp_all [dec89, withMode, dab, okIf, canon, Instr.wellFormed]
  | vtopk | vargmax =>
    obtain rfl := Option.some.inj he
    refine (decode_eV ..).trans (show dec8A _ = _ from ?_)
    simp [dec8A, withMode, da, dabc, okIf, canon, Fmt.onlyF32, modeOk, fmtOfCode, Fmt.isFloat]
  | kand | kor | kxor | knot | kmov | krd | kpopc =>
    obtain rfl := Option.some.inj he
    refine (decode_eA ..).trans (show dec8B _ = _ from ?_)
    simp [dec8B, okIf, canon]
  | vectorComplete => cases he
  | _ => cases hp

theorem decode_encode_engine {x : Instr} {w : Word} (hp : x.part = 3) (he : encode x = some w) :
    decode w = .ok (canon x) := by
  cases x with
  | dld =>
    obtain rfl := Option.some.inj he
    refine (decode_eI ..).trans (show decC0 _ = _ from ?_)
    simp [decC0, okIf, canon]
  | opaMma | opaSel | opaSparse | opaZero | opaDrain =>
    obtain rfl := Option.some.inj he
    refine (decode_eA ..).trans (show decC1 _ = _ from ?_)
    simp [decC1, eDA, okIf, canon]
  | wbload | wbevict | wbpin | wbunpin =>
    obtain rfl := Option.some.inj he
    refine (decode_eA ..).trans (show decC2 _ = _ from ?_)
    simp [decC2, eDA, okIf, canon]
  | cplin | cp2d | cpten =>
    obtain rfl := Option.some.inj he
    refine (decode_eA ..).trans (show decC3 _ = _ from ?_)
    simp [decC3, eDA, eDAB, okIf, canon]
  | gather | scatter =>
    obtain rfl := Option.some.inj he
    refine (decode_eA ..).trans (show decC4 _ = _ from ?_)
    simp [decC4, eDAB, okIf, canon]
  | eresume | estat =>
    obtain rfl := Option.some.inj he
    refine (decode_eA ..).trans (show decC5 _ = _ from ?_)
    simp [decC5, eDA, okIf, canon]
  | spload | spseed =>
    obtain rfl := Option.some.inj he
    refine (decode_eA ..).trans (show decC6 _ = _ from ?_)
    simp [decC6, eDA, okIf, canon]
  | _ => exact nomatch hp, he

/-- The word of a well-formed instruction decodes to it, or to the first of the rows that share the word. -/
theorem decode_encode {x : Instr} {w : Word} (hwf : x.wellFormed = true) (he : encode x = some w) :
    decode w = .ok (canon x) := by
  have hp : x.part = 0 ∨ x.part = 1 ∨ x.part = 2 ∨ x.part = 3 := by
    unfold Instr.part
    split_ifs <;> simp
  obtain hp | hp | hp | hp := hp
  · exact decode_encode_scalar hp hwf he
  · exact decode_encode_memory hp hwf he
  · exact decode_encode_vector hp hwf he
  · exact decode_encode_engine hp he

/-! The round trip from a word (03 R47, R48): what a decoder's answer tells of the word's fields. -/

/-- The fields of a word make it. -/
theorem pack_fields (w : Word) : (fields w).pack = w := by
  have h := fields_pack (fields w)
  simp only [Fields.pack, fields]
  grind

/-- The word is the one encoding of the instruction, which is well formed. -/
def Instr.MadeBy (x : Instr) (w : Word) : Prop := x.wellFormed = true ∧ x.isWord = true ∧ encode x = some w

theorem fromV_toV {x : BitVec 6} (h : vOk x = true) : fromV (toV x) = x := by
  have h' : x.extractLsb' 5 1 = 0 := beq_iff_eq.1 h
  grind [fromV, toV]
theorem fromX_toX {x : BitVec 6} (h : xOk x = true) : fromX (toX x) = x := by
  have h' : x.extractLsb' 4 2 = 0 := beq_iff_eq.1 h
  grind [fromX, toX]
theorem fromK_toK {x : BitVec 6} (h : kOk x = true) : fromK (toK x) = x := by
  have h' : x.extractLsb' 3 3 = 0 := beq_iff_eq.1 h
  grind [fromK, toK]

theorem code_fmtOfCode (c : BitVec 4) : (fmtOfCode c).code = c := by
  revert c; decide
theorem code_modeOfCode {c : BitVec 3} {m : RMode} (h : modeOfCode c = some m) : m.code = c := by
  revert c m; decide
theorem code_pathOfCode (c : BitVec 2) : (pathOfCode c).code = c := by
  revert c; decide
theorem code_scopeOfCode {c : BitVec 3} {x : Scope} (h : scopeOfCode c = some x) : x.code = c := by
  revert c x; decide
theorem code_sizeOfCode {c : BitVec 3} {x : AccSize} (h : sizeOfCode c = some x) : x.code = c := by
  revert c x; decide

theorem code_ordField {c : BitVec 3} (h : (c != 7) = true) : ordField (scopeOfCode c) = c := by
  revert c; decide

theorem bitOf_field {n : Nat} (x : BitVec n) (i : Nat) : bitOf (x.extractLsb' i 1 == 1) = x.extractLsb' i 1 := by
  have h : ∀ y : BitVec 1, bitOf (y == 1) = y := by decide
  exact h _

theorem ofNat_toNat_eq {n m : Nat} {x : BitVec n} (h : x.toNat = m) : BitVec.ofNat n m = x := by
  rw [← h, BitVec.ofNat_toNat, BitVec.setWidth_eq]

section
variable {f : Fields} {n : Nat}

/-- IMM32 of form A with nothing below FN. -/
theorem Fields.loFn_eq (hfn : f.fn = n) (hp : f.plain = true) : loFn (BitVec.ofNat 8 n) = f.lo := by
  have hlow : f.lo.extractLsb' 0 24 = 0 := beq_iff_eq.1 hp
  rw [ofNat_toNat_eq hfn]
  grind [loFn]

/-- IMM32 of form A with all of its sub-fields. -/
theorem Fields.loA_eq (hfn : f.fn = n) (hl : f.lowZero = true) :
    loA (BitVec.ofNat 8 n) f.mask f.fmtCode f.sat f.modeCode = f.lo := by
  have hlow : f.lo.extractLsb' 0 12 = 0 := beq_iff_eq.1 hl
  rw [ofNat_toNat_eq hfn, loA, Fields.mask, Fields.sat, Fields.fmtCode, Fields.modeCode, bitOf_field, bitOf_field]
  grind

/-- C of form M: SIZE and ORD. -/
theorem Fields.szOrd_eq (hz : f.sizeCode.toNat = n) (ho : f.ordOk = true) :
    szOrd (BitVec.ofNat 3 n) (ordField f.ord) = f.c := by
  rw [ofNat_toNat_eq hz, Fields.ord, code_ordField ho]
  grind [szOrd, Fields.sizeCode, Fields.ordCode]

variable {x : Instr} {opc : BitVec 8} {d a b c : BitVec 6}

/-- A row of form A with nothing below FN. -/
theorem Fields.madeBy_eA (hopc : f.opc = opc) (hfn : f.fn = n) (hp : f.plain = true) (hd : d = f.d) (ha : a = f.a)
    (hb : b = f.b) (hc : c = f.c) (hwf : x.wellFormed = true) (hw : x.isWord = true)
    (he : encode x = some (eA opc (BitVec.ofNat 8 n) d a b c)) : x.MadeBy f.pack := by
  refine ⟨hwf, hw, he.trans ?_⟩
  rw [eA, hd, ha, hb, hc, ← hopc, Fields.loFn_eq hfn hp]

/-- A row with an operand in all of IMM32. -/
theorem Fields.madeBy_eI {lo : BitVec 32} (hopc : f.opc = opc) (hd : d = f.d) (ha : a = f.a)
    (hb : b = f.b) (hc : c = f.c) (hlo : lo = f.lo) (hwf : x.wellFormed = true) (hw : x.isWord = true)
    (he : encode x = some (eI opc d a b c lo)) : x.MadeBy f.pack := by
  refine ⟨hwf, hw, he.trans ?_⟩
  rw [eI, hd, ha, hb, hc, hlo, ← hopc]

/-- A row of form A with a mask operand, a format and a rounding. -/
theorem Fields.madeBy_eV (hopc : f.opc = opc) (hfn : f.fn = n) (hl : f.lowZero = true) (hd : d = f.d) (ha : a = f.a)
    (hb : b = f.b) (hc : c = f.c) {fm : BitVec 4} (hfm : fm = f.fmtCode) {sat : Bool} (hsat : sat = f.sat) {md : BitVec 3}
    (hmd : md = f.modeCode) (hwf : x.wellFormed = true) (hw : x.isWord = true)
    (he : encode x = some (eV opc (BitVec.ofNat 8 n) d a b c f.mask fm sat md)) : x.MadeBy f.pack := by
  refine ⟨hwf, hw, he.trans ?_⟩
  rw [eV, hd, ha, hb, hc, hfm, hsat, hmd, ← hopc, Fields.loA_eq hfn hl]
end

/-! Form A without MI, MK, FMT, RND. -/

section
variable {f : Fields} {n : Nat} {x : Instr} {opc : BitVec 8}

theorem aDAB_madeBy {k : GReg → GReg → GReg → Instr} (hopc : f.opc = opc) (hfn : f.fn = n)
    (hk : ∀ d a b, (k d a b).MadeBy (eA opc (BitVec.ofNat 8 n) d a b 0)) (h : aDAB f k = .ok x) : x.MadeBy f.pack := by
  simp only [aDAB, okIf_eq_ok_iff, Bool.and_eq_true, beq_iff_eq] at h
  obtain ⟨⟨hc, hp⟩, rfl⟩ := h
  obtain ⟨hwf, hw, he⟩ := hk f.d f.a f.b
  exact Fields.madeBy_eA hopc hfn hp rfl rfl rfl hc.symm hwf hw he

theorem aDA_madeBy {k : GReg → GReg → Instr} (hopc : f.opc = opc) (hfn : f.fn = n)
    (hk : ∀ d a, (k d a).MadeBy (eA opc (BitVec.ofNat 8 n) d a 0 0)) (h : aDA f k = .ok x) : x.MadeBy f.pack := by
  simp only [aDA, okIf_eq_ok_iff, Bool.and_eq_true, beq_iff_eq] at h
  obtain ⟨⟨⟨hb, hc⟩, hp⟩, rfl⟩ := h
  obtain ⟨hwf, hw, he⟩ := hk f.d f.a
  exact Fields.madeBy_eA hopc hfn hp rfl rfl hb.symm hc.symm hwf hw he

theorem aNone_madeBy {y : Instr} (hopc : f.opc = opc) (hfn : f.fn = n)
    (hk : y.MadeBy (eA opc (BitVec.ofNat 8 n) 0 0 0 0)) (h : aNone f y = .ok x) : x.MadeBy f.pack := by
  simp only [aNone, okIf_eq_ok_iff, Bool.and_eq_true, beq_iff_eq] at h
  obtain ⟨⟨⟨⟨⟨hd, ha⟩, hb⟩, hc⟩, hp⟩, rfl⟩ := h
  obtain ⟨hwf, hw, he⟩ := hk
  exact Fields.madeBy_eA hopc hfn hp hd.symm ha.symm hb.symm hc.symm hwf hw he

theorem dec00_madeBy (hopc : f.opc = 0x00) (h : dec00 f = .ok x) : x.MadeBy f.pack := by
  unfold dec00 at h
  split at h
  case h_25 => cases h
  all_goals exact aDAB_madeBy hopc ‹_› (fun _ _ _ => ⟨rfl, rfl, rfl⟩) h

theorem dec01_madeBy (hopc : f.opc = 0x01) (h : dec01 f = .ok x) : x.MadeBy f.pack := by
  unfold dec01 at h
  split at h
  case h_7 hfn =>
    obtain ⟨hp, rfl⟩ := okIf_eq_ok_iff.1 h
    exact Fields.madeBy_eA hopc hfn hp rfl rfl rfl rfl rfl rfl rfl
  case h_8 => cases h
  all_goals exact aDAB_madeBy hopc ‹_› (fun _ _ _ => ⟨rfl, rfl, rfl⟩) h

theorem dec02_madeBy (hopc : f.opc = 0x02) (h : dec02 f = .ok x) : x.MadeBy f.pack := by
  unfold dec02 at h
  split at h
  case h_6 => cases h
  all_goals exact aDA_madeBy hopc ‹_› (fun _ _ => ⟨rfl, rfl, rfl⟩) h

theorem dec06_madeBy (hopc : f.opc = 0x06) (h : dec06 f = .ok x) : x.MadeBy f.pack := by
  unfold dec06 at h
  split at h
  case h_5 => cases h
  all_goals exact aDAB_madeBy hopc ‹_› (fun _ _ _ => ⟨rfl, rfl, rfl⟩) h

theorem dec07_madeBy (hopc : f.opc = 0x07) (h : dec07 f = .ok x) : x.MadeBy f.pack := by
  unfold dec07 at h
  split at h
  case h_3 => cases h
  all_goals exact aDAB_madeBy hopc ‹_› (fun _ _ _ => ⟨rfl, rfl, rfl⟩) h

theorem decBits_madeBy {k : GReg → GReg → BitVec 6 → BitVec 6 → Instr} (hopc : f.opc = opc)
    (hw : ∀ d a pos wm1, (k d a pos wm1).isWord = true)
    (hwf : ∀ d a pos wm1, (k d a pos wm1).wellFormed = decide (pos.toNat + wm1.toNat + 1 ≤ 64))
    (he : ∀ d a pos wm1, encode (k d a pos wm1) = some (eI opc d a 0 0 (loBits pos wm1)))
    (h : decBits f k = .ok x) : x.MadeBy f.pack := by
  simp only [decBits, okIf_eq_ok_iff, Bool.and_eq_true, beq_iff_eq] at h
  obtain ⟨⟨⟨⟨hb, hc⟩, hhigh⟩, hsum⟩, rfl⟩ := h
  have hlo : loBits (f.lo.extractLsb' 0 6) (f.lo.extractLsb' 6 6) = f.lo := by grind [loBits]
  exact Fields.madeBy_eI hopc rfl rfl hb.symm hc.symm hlo ((hwf ..).trans hsum) (hw ..) (he ..)

theorem iDA_madeBy {k : GReg → GReg → BitVec 32 → Instr} (hopc : f.opc = opc)
    (hk : ∀ d a imm, (k d a imm).MadeBy (eI opc d a 0 0 imm)) (h : iDA f k = .ok x) : x.MadeBy f.pack := by
  simp only [iDA, okIf_eq_ok_iff, Bool.and_eq_true, beq_iff_eq] at h
  obtain ⟨⟨hb, hc⟩, rfl⟩ := h
  obtain ⟨hwf, hw, he⟩ := hk f.d f.a f.lo
  exact Fields.madeBy_eI hopc rfl rfl hb.symm hc.symm rfl hwf hw he

theorem iD_madeBy {k : GReg → BitVec 32 → Instr} (hopc : f.opc = opc)
    (hk : ∀ d imm, (k d imm).MadeBy (eI opc d 0 0 0 imm)) (h : iD f k = .ok x) : x.MadeBy f.pack := by
  simp only [iD, okIf_eq_ok_iff, Bool.and_eq_true, beq_iff_eq] at h
  obtain ⟨⟨⟨ha, hb⟩, hc⟩, rfl⟩ := h
  obtain ⟨hwf, hw, he⟩ := hk f.d f.lo
  exact Fields.madeBy_eI hopc rfl ha.symm hb.symm hc.symm rfl hwf hw he

theorem iShift_madeBy {k : GReg → GReg → BitVec 6 → Instr} (hopc : f.opc = opc)
    (hk : ∀ d a n, (k d a n).MadeBy (eI opc d a 0 0 (loShift n))) (h : iShift f k = .ok x) : x.MadeBy f.pack := by
  simp only [iShift, okIf_eq_ok_iff, Bool.and_eq_true, beq_iff_eq] at h
  obtain ⟨⟨⟨hb, hc⟩, hhigh⟩, rfl⟩ := h
  have hlo : loShift (f.lo.extractLsb' 0 6) = f.lo := by grind [loShift]
  obtain ⟨hwf, hw, he⟩ := hk f.d f.a (f.lo.extractLsb' 0 6)
  exact Fields.madeBy_eI hopc rfl rfl hb.symm hc.symm hlo hwf hw he

theorem dec17_madeBy (hopc : f.opc = 0x17) (h : dec17 f = .ok x) : x.MadeBy f.pack := by
  unfold dec17 at h
  split at h
  case h_4 => cases h
  all_goals simp only [okIf_eq_ok_iff, Bool.and_eq_true, beq_iff_eq] at h
  case h_2 hfn =>
    obtain ⟨⟨⟨⟨ha, hb⟩, hc⟩, hp⟩, rfl⟩ := h
    exact Fields.madeBy_eA hopc hfn hp rfl ha.symm hb.symm hc.symm rfl rfl rfl
  all_goals
    obtain ⟨⟨⟨⟨ha, hb⟩, hc⟩, hp⟩, rfl⟩ := h
    exact Fields.madeBy_eA hopc ‹_› hp rfl (fromX_toX ha) hb.symm hc.symm rfl rfl rfl

theorem dec19_madeBy (hopc : f.opc = 0x19) (h : dec19 f = .ok x) : x.MadeBy f.pack := by
  unfold dec19 at h
  split at h
  case h_1 hfn =>
    obtain ⟨hp, rfl⟩ := okIf_eq_ok_iff.1 h
    exact Fields.madeBy_eA hopc hfn hp rfl rfl rfl rfl rfl rfl rfl
  case h_2 => cases h

/-! Control. -/

theorem dec30_madeBy (hopc : f.opc = 0x30) (h : dec30 f = .ok x) : x.MadeBy f.pack := by
  unfold dec30 at h
  split at h
  case h_8 => cases h
  all_goals simp only [okIf_eq_ok_iff, Bool.and_eq_true, beq_iff_eq] at h
  case h_1 hd =>
    obtain ⟨⟨⟨hc, ha⟩, hb⟩, rfl⟩ := h
    exact Fields.madeBy_eI hopc (ofNat_toNat_eq hd) ha.symm hb.symm hc.symm rfl rfl rfl rfl
  all_goals
    obtain ⟨hc, rfl⟩ := h
    exact Fields.madeBy_eI hopc (ofNat_toNat_eq ‹_›) rfl rfl hc.symm rfl rfl rfl rfl

theorem dec32_madeBy (hopc : f.opc = 0x32) (h : dec32 f = .ok x) : x.MadeBy f.pack := by
  unfold dec32 at h
  split at h
  case h_1 hfn =>
    simp only [okIf_eq_ok_iff, Bool.and_eq_true, beq_iff_eq] at h
    obtain ⟨⟨⟨⟨hd, hb⟩, hc⟩, hp⟩, rfl⟩ := h
    exact Fields.madeBy_eA hopc hfn hp hd.symm rfl hb.symm hc.symm rfl rfl rfl
  case h_2 hfn => exact aNone_madeBy hopc hfn ⟨rfl, rfl, rfl⟩ h
  case h_3 => cases h

theorem dec35_madeBy (hopc : f.opc = 0x35) (h : dec35 f = .ok x) : x.MadeBy f.pack := by
  unfold dec35 at h
  split at h
  case h_1 hfn => exact aNone_madeBy hopc hfn ⟨rfl, rfl, rfl⟩ h
  case h_2 hfn => exact aNone_madeBy hopc hfn ⟨rfl, rfl, rfl⟩ h
  case h_3 => cases h

theorem jal_madeBy (hopc : f.opc = 0x31) (h : okIf (f.d == 0 && f.a == 0 && f.b == 0 && f.c == 0) (.jal f.lo) = .ok x) :
    x.MadeBy f.pack := by
  simp only [okIf_eq_ok_iff, Bool.and_eq_true, beq_iff_eq] at h
  obtain ⟨⟨⟨⟨hd, ha⟩, hb⟩, hc⟩, rfl⟩ := h
  exact Fields.madeBy_eI hopc hd.symm ha.symm hb.symm hc.symm rfl rfl rfl rfl

theorem loop_madeBy (hopc : f.opc = 0x33) (h : okIf (f.d == 0 && f.b == 0 && f.c.extractLsb' 1 5 == 0)
    (.loop f.a (f.c.extractLsb' 0 1) f.lo) = .ok x) : x.MadeBy f.pack := by
  simp only [okIf_eq_ok_iff, Bool.and_eq_true, beq_iff_eq] at h
  obtain ⟨⟨⟨hd, hb⟩, hhigh⟩, rfl⟩ := h
  have hc : ((0 : BitVec 5) ++ f.c.extractLsb' 0 1 : BitVec 6) = f.c := by grind
  exact Fields.madeBy_eI hopc hd.symm rfl hb.symm hc rfl rfl rfl rfl

/-- The low four bits name a counter or a group. -/
theorem Fields.loNib_eq (h : f.nibOk = true) : loNib f.nib = f.lo := by
  have hhigh : f.lo.extractLsb' 4 28 = 0 := beq_iff_eq.1 h
  grind [loNib, Fields.nib]

/-- CHUNK, TAGNEW and TAGPARK: D and a number of four bits. -/
theorem nibD_madeBy {k : GReg → BitVec 4 → Instr} (hopc : f.opc = opc)
    (hk : ∀ d n, (k d n).MadeBy (eI opc d 0 0 0 (loNib n)))
    (h : okIf (f.a == 0 && f.b == 0 && f.c == 0 && f.nibOk) (k f.d f.nib) = .ok x) : x.MadeBy f.pack := by
  simp only [okIf_eq_ok_iff, Bool.and_eq_true, beq_iff_eq] at h
  obtain ⟨⟨⟨⟨ha, hb⟩, hc⟩, hn⟩, rfl⟩ := h
  obtain ⟨hwf, hw, he⟩ := hk f.d f.nib
  exact Fields.madeBy_eI hopc rfl ha.symm hb.symm hc.symm (Fields.loNib_eq hn) hwf hw he

theorem tagfree_madeBy (hopc : f.opc = 0x66)
    (h : okIf (f.d == 0 && f.b == 0 && f.c == 0 && f.nibOk) (.tagfree f.a f.nib) = .ok x) : x.MadeBy f.pack := by
  simp only [okIf_eq_ok_iff, Bool.and_eq_true, beq_iff_eq] at h
  obtain ⟨⟨⟨⟨hd, hb⟩, hc⟩, hn⟩, rfl⟩ := h
  exact Fields.madeBy_eI hopc hd.symm rfl hb.symm hc.symm (Fields.loNib_eq hn) rfl rfl rfl

/-! System words. -/

/-- IMM32 of the system words: a register's number and FN. -/
theorem Fields.loS_eq (h : f.fnS = n) : loS f.sreg (BitVec.ofNat 16 n) = f.lo := by
  rw [ofNat_toNat_eq h, loS, Fields.sreg]
  grind

theorem decE0_madeBy (hopc : f.opc = 0xE0) (h : decE0 f = .ok x) : x.MadeBy f.pack := by
  unfold decE0 at h
  split at h
  case h_4 => cases h
  all_goals simp only [okIf_eq_ok_iff, Bool.and_eq_true, beq_iff_eq] at h
  case h_1 hfn =>
    obtain ⟨⟨⟨⟨ha, hb⟩, hc⟩, hn⟩, rfl⟩ := h
    exact Fields.madeBy_eI hopc rfl ha.symm hb.symm hc.symm (Fields.loS_eq hfn) hn rfl rfl
  case h_2 hfn =>
    obtain ⟨⟨⟨⟨hd, hb⟩, hc⟩, hn⟩, rfl⟩ := h
    exact Fields.madeBy_eI hopc hd.symm rfl hb.symm hc.symm (Fields.loS_eq hfn) hn rfl rfl
  case h_3 hfn =>
    obtain ⟨⟨⟨⟨hd, hb⟩, hc⟩, hn⟩, rfl⟩ := h
    exact Fields.madeBy_eI hopc hd.symm rfl hb.symm hc.symm (Fields.loS_eq hfn) (beq_iff_eq.2 hn) rfl rfl

theorem decE1_madeBy (hopc : f.opc = 0xE1) (h : decE1 f = .ok x) : x.MadeBy f.pack := by
  unfold decE1 at h
  split at h
  case h_1 hfn =>
    simp only [okIf_eq_ok_iff, Bool.and_eq_true, beq_iff_eq] at h
    obtain ⟨⟨⟨⟨ha, hb⟩, hc⟩, hn⟩, rfl⟩ := h
    exact Fields.madeBy_eI hopc rfl ha.symm hb.symm hc.symm (Fields.loS_eq hfn) hn rfl rfl
  case h_2 => cases h

theorem decCode_madeBy {k : GReg → BitVec 16 → Instr} (hopc : f.opc = opc)
    (hk : ∀ a n, (k a n).MadeBy (eI opc 0 a 0 0 ((0 : BitVec 16) ++ n))) (h : decCode f k = .ok x) :
    x.MadeBy f.pack := by
  simp only [decCode, okIf_eq_ok_iff, Bool.and_eq_true, beq_iff_eq] at h
  obtain ⟨⟨⟨⟨hd, hb⟩, hc⟩, hhigh⟩, rfl⟩ := h
  have hlo : ((0 : BitVec 16) ++ f.lo.extractLsb' 0 16 : BitVec 32) = f.lo := by grind
  obtain ⟨hwf, hw, he⟩ := hk f.a (f.lo.extractLsb' 0 16)
  exact Fields.madeBy_eI hopc hd.symm rfl hb.symm hc.symm hlo hwf hw he

/-! Form M. -/

theorem mLoad_madeBy {k : GReg → GReg → Option Scope → BitVec 32 → Instr} (hopc : f.opc = opc)
    (hz : f.sizeCode.toNat = n) (hk : ∀ d a o imm, (k d a o imm).MadeBy (eLoad opc (BitVec.ofNat 3 n) d a o imm))
    (h : mLoad f k = .ok x) : x.MadeBy f.pack := by
  simp only [mLoad, okIf_eq_ok_iff, Bool.and_eq_true, beq_iff_eq] at h
  obtain ⟨⟨hb, ho⟩, rfl⟩ := h
  obtain ⟨hwf, hw, he⟩ := hk f.d f.a f.ord f.lo
  exact Fields.madeBy_eI hopc rfl rfl hb.symm (Fields.szOrd_eq hz ho) rfl hwf hw he

theorem mStore_madeBy {k : GReg → GReg → Option Scope → BitVec 32 → Instr} (hopc : f.opc = 0x42)
    (hz : f.sizeCode.toNat = n) (hk : ∀ a b o imm, (k a b o imm).MadeBy (eStore (BitVec.ofNat 3 n) a b o imm))
    (h : mStore f k = .ok x) : x.MadeBy f.pack := by
  simp only [mStore, okIf_eq_ok_iff, Bool.and_eq_true, beq_iff_eq] at h
  obtain ⟨⟨hd, ho⟩, rfl⟩ := h
  obtain ⟨hwf, hw, he⟩ := hk f.a f.b f.ord f.lo
  exact Fields.madeBy_eI hopc hd.symm rfl rfl (Fields.szOrd_eq hz ho) rfl hwf hw he

theorem dec40_madeBy (hopc : f.opc = 0x40) (h : dec40 f = .ok x) : x.MadeBy f.pack := by
  unfold dec40 at h
  split at h
  case h_5 => cases h
  all_goals exact mLoad_madeBy hopc ‹_› (fun _ _ _ _ => ⟨rfl, rfl, rfl⟩) h

theorem dec41_madeBy (hopc : f.opc = 0x41) (h : dec41 f = .ok x) : x.MadeBy f.pack := by
  unfold dec41 at h
  split at h
  case h_4 => cases h
  all_goals exact mLoad_madeBy hopc ‹_› (fun _ _ _ _ => ⟨rfl, rfl, rfl⟩) h

theorem dec42_madeBy (hopc : f.opc = 0x42) (h : dec42 f = .ok x) : x.MadeBy f.pack := by
  unfold dec42 at h
  split at h
  case h_5 => cases h
  all_goals exact mStore_madeBy hopc ‹_› (fun _ _ _ _ => ⟨rfl, rfl, rfl⟩) h

theorem dec43_madeBy (hopc : f.opc = 0x43) (h : dec43 f = .ok x) : x.MadeBy f.pack := by
  simp only [dec43, okIf_eq_ok_iff, Bool.and_eq_true, beq_iff_eq] at h
  obtain ⟨⟨⟨⟨hd, hb⟩, hz⟩, ho⟩, rfl⟩ := h
  exact Fields.madeBy_eI hopc (fromV_toV hd) rfl hb.symm (Fields.szOrd_eq (congrArg BitVec.toNat hz) ho) rfl rfl rfl rfl

theorem dec44_madeBy (hopc : f.opc = 0x44) (h : dec44 f = .ok x) : x.MadeBy f.pack := by
  simp only [dec44, okIf_eq_ok_iff, Bool.and_eq_true, beq_iff_eq] at h
  obtain ⟨⟨⟨⟨hd, hb⟩, hz⟩, ho⟩, rfl⟩ := h
  exact Fields.madeBy_eI hopc hd.symm rfl (fromV_toV hb) (Fields.szOrd_eq (congrArg BitVec.toNat hz) ho) rfl rfl rfl rfl

theorem decC0_madeBy (hopc : f.opc = 0xC0) (h : decC0 f = .ok x) : x.MadeBy f.pack := by
  simp only [decC0, okIf_eq_ok_iff, Bool.and_eq_true, beq_iff_eq] at h
  obtain ⟨⟨⟨⟨hd, hb⟩, hz⟩, ho⟩, rfl⟩ := h
  exact Fields.madeBy_eI hopc (fromX_toX hd) rfl hb.symm (Fields.szOrd_eq (congrArg BitVec.toNat hz) ho) rfl rfl rfl rfl

theorem dec49_madeBy (hopc : f.opc = 0x49) (h : dec49 f = .ok x) : x.MadeBy f.pack := by
  simp only [dec49, okIf_eq_ok_iff, Bool.and_eq_true, beq_iff_eq] at h
  obtain ⟨⟨hz, ho⟩, rfl⟩ := h
  exact Fields.madeBy_eI hopc rfl rfl rfl (Fields.szOrd_eq (congrArg BitVec.toNat hz) ho) rfl rfl rfl rfl

theorem dec45_madeBy (hopc : f.opc = 0x45) (h : dec45 f = .ok x) : x.MadeBy f.pack := by
  unfold dec45 at h
  split at h
  case h_1 sz hsz =>
    simp only [okIf_eq_ok_iff, beq_iff_eq] at h
    obtain ⟨ho, rfl⟩ := h
    have hc : szOrd sz.code 0 = f.c := by
      rw [code_sizeOfCode hsz, ← ho]
      grind [szOrd, Fields.sizeCode, Fields.ordCode]
    exact Fields.madeBy_eI hopc rfl rfl rfl hc rfl rfl rfl rfl
  case h_2 => cases h

theorem dec46_madeBy (hopc : f.opc = 0x46) (h : dec46 f = .ok x) : x.MadeBy f.pack := by
  unfold dec46 at h
  split at h
  case h_1 sz hsz =>
    obtain ⟨ho, rfl⟩ := okIf_eq_ok_iff.1 h
    have hc : szOrd sz.code (ordField f.ord) = f.c := by
      rw [code_sizeOfCode hsz, ← Fields.szOrd_eq rfl ho, BitVec.ofNat_toNat, BitVec.setWidth_eq]
    exact Fields.madeBy_eI hopc rfl rfl rfl hc rfl rfl rfl rfl
  case h_2 => cases h

theorem mAtomic_madeBy {k : GReg → GReg → GReg → Bool → Option Scope → BitVec 32 → Instr} (hopc : f.opc = opc)
    (hk : ∀ d a b wide o imm, (k d a b wide o imm).MadeBy (eAtomic opc d a b wide o imm)) (h : mAtomic f k = .ok x) :
    x.MadeBy f.pack := by
  unfold mAtomic at h
  split at h
  case h_3 => cases h
  all_goals
    obtain ⟨ho, rfl⟩ := okIf_eq_ok_iff.1 h
    obtain ⟨hwf, hw, he⟩ := hk f.d f.a f.b _ f.ord f.lo
    exact Fields.madeBy_eI hopc rfl rfl rfl (Fields.szOrd_eq ‹_› ho) rfl hwf hw he

theorem dec54_madeBy (hopc : f.opc = 0x54) (h : dec54 f = .ok x) : x.MadeBy f.pack := by
  unfold dec54 at h
  split at h
  case h_1 hfn =>
    split at h
    case h_1 sc hsc =>
      simp only [okIf_eq_ok_iff, Bool.and_eq_true, beq_iff_eq] at h
      obtain ⟨⟨⟨⟨⟨hhigh, hd⟩, ha⟩, hc⟩, hp⟩, rfl⟩ := h
      have hb : ((0 : BitVec 3) ++ sc.code : BitVec 6) = f.b := by
        rw [code_scopeOfCode hsc]
        grind
      exact Fields.madeBy_eA hopc hfn hp hd.symm ha.symm hb hc.symm rfl rfl rfl
    case h_2 => cases h
  case h_2 hfn =>
    simp only [okIf_eq_ok_iff, Bool.and_eq_true, beq_iff_eq] at h
    obtain ⟨⟨⟨⟨⟨⟨hne, hhigh⟩, hd⟩, ha⟩, hb⟩, hp⟩, rfl⟩ := h
    have hc : ((0 : BitVec 2) ++ (pathOfCode (f.c.extractLsb' 2 2)).code ++ (pathOfCode (f.c.extractLsb' 0 2)).code
        : BitVec 6) = f.c := by
      rw [code_pathOfCode, code_pathOfCode]
      grind
    exact Fields.madeBy_eA hopc hfn hp hd.symm ha.symm hb.symm hc hne rfl rfl
  case h_3 hfn =>
    simp only [okIf_eq_ok_iff, Bool.and_eq_true, beq_iff_eq] at h
    obtain ⟨⟨⟨⟨hhigh, hd⟩, hb⟩, hp⟩, rfl⟩ := h
    have hc : ((0 : BitVec 4) ++ (pathOfCode (f.c.extractLsb' 0 2)).code : BitVec 6) = f.c := by
      rw [code_pathOfCode]
      grind
    exact Fields.madeBy_eA hopc hfn hp hd.symm rfl hb.symm hc rfl rfl rfl
  case h_4 => cases h

/-! Form X. -/

/-- IMM32 of form X is the handler index and what stands below it. -/
theorem Fields.loX_eq {y : BitVec 20} (h : y = f.lo.extractLsb' 0 20) : loX f.hidx y = f.lo := by
  rw [h, loX, Fields.hidx]
  grind

/-- The .norel bit, with the bits below it 0. -/
theorem Fields.subNorel_eq (h : f.lo.extractLsb' 0 19 = 0) : subNorel f.bit19 = f.lo.extractLsb' 0 20 := by
  rw [subNorel, Fields.bit19, bitOf_field]
  grind

theorem dec55_madeBy (hopc : f.opc = 0x55) (h : dec55 f = .ok x) : x.MadeBy f.pack := by
  unfold dec55 at h
  split at h
  case h_1 sc hsc =>
    simp only [okIf_eq_ok_iff, Bool.and_eq_true, beq_iff_eq] at h
    obtain ⟨⟨⟨hbar, hlow⟩, hd⟩, rfl⟩ := h
    have hlo : (sc.code ++ f.lo.extractLsb' 13 4 ++ (0 : BitVec 13) : BitVec 20) = f.lo.extractLsb' 0 20 := by
      rw [code_scopeOfCode hsc]
      grind
    exact Fields.madeBy_eI hopc hd.symm rfl rfl rfl (Fields.loX_eq hlo) hbar rfl rfl
  case h_2 => cases h

theorem dec56_madeBy (hopc : f.opc = 0x56) (h : dec56 f = .ok x) : x.MadeBy f.pack := by
  simp only [dec56, okIf_eq_ok_iff, beq_iff_eq] at h
  obtain ⟨hlow, rfl⟩ := h
  exact Fields.madeBy_eI hopc rfl rfl rfl rfl (Fields.loX_eq hlow.symm) rfl rfl rfl

theorem dec60_madeBy (hopc : f.opc = 0x60) (h : dec60 f = .ok x) : x.MadeBy f.pack := by
  simp only [dec60, okIf_eq_ok_iff, beq_iff_eq] at h
  obtain ⟨hlow, rfl⟩ := h
  exact Fields.madeBy_eI hopc rfl rfl rfl rfl (Fields.loX_eq (Fields.subNorel_eq hlow)) rfl rfl rfl

theorem dec61_madeBy (hopc : f.opc = 0x61) (h : dec61 f = .ok x) : x.MadeBy f.pack := by
  simp only [dec61, okIf_eq_ok_iff, Bool.and_eq_true, beq_iff_eq] at h
  obtain ⟨⟨⟨hlow, hh⟩, hd⟩, rfl⟩ := h
  exact Fields.madeBy_eI hopc hd.symm rfl rfl rfl (hh ▸ Fields.loX_eq (Fields.subNorel_eq hlow)) rfl rfl rfl

theorem dec62_madeBy (hopc : f.opc = 0x62) (h : dec62 f = .ok x) : x.MadeBy f.pack := by
  simp only [dec62, okIf_eq_ok_iff, beq_iff_eq] at h
  obtain ⟨hlow, rfl⟩ := h
  have hlo : (bitOf f.bit19 ++ f.lo.extractLsb' 12 7 ++ (0 : BitVec 12) : BitVec 20) = f.lo.extractLsb' 0 20 := by
    rw [Fields.bit19, bitOf_field]
    grind
  exact Fields.madeBy_eI hopc rfl rfl rfl rfl (Fields.loX_eq hlo) rfl rfl rfl

theorem dec63_madeBy (hopc : f.opc = 0x63) (h : dec63 f = .ok x) : x.MadeBy f.pack := by
  simp only [dec63, okIf_eq_ok_iff, Bool.and_eq_true, beq_iff_eq] at h
  obtain ⟨⟨⟨⟨hlow, hh⟩, hd⟩, hc⟩, rfl⟩ := h
  exact Fields.madeBy_eI hopc hd.symm rfl rfl hc.symm (hh ▸ Fields.loX_eq (Fields.subNorel_eq hlow)) rfl rfl rfl

theorem dec64_madeBy (hopc : f.opc = 0x64) (h : dec64 f = .ok x) : x.MadeBy f.pack := by
  unfold dec64 at h
  split at h
  case h_5 => cases h
  all_goals
    simp only [okIf_eq_ok_iff, Bool.and_eq_true, beq_iff_eq] at h
    obtain ⟨⟨hb, ho⟩, rfl⟩ := h
    refine Fields.madeBy_eI hopc rfl rfl hb.symm (c := szOrd (BitVec.ofNat 3 _) 0) ?_ rfl rfl rfl rfl
    rw [ofNat_toNat_eq ‹_›, ← ho]
    grind [szOrd, Fields.sizeCode, Fields.ordCode]

theorem dec68_madeBy (hopc : f.opc = 0x68) (h : dec68 f = .ok x) : x.MadeBy f.pack := by
  simp only [dec68, okIf_eq_ok_iff, Bool.and_eq_true, beq_iff_eq] at h
  obtain ⟨⟨hlow, hprio⟩, rfl⟩ := h
  have hlo : (bitOf f.bit19 ++ f.lo.extractLsb' 17 2 ++ (0 : BitVec 17) : BitVec 20) = f.lo.extractLsb' 0 20 := by
    rw [Fields.bit19, bitOf_field]
    grind
  exact Fields.madeBy_eI hopc rfl rfl rfl rfl (Fields.loX_eq hlo) hprio rfl rfl

theorem dec69_madeBy (hopc : f.opc = 0x69) (h : dec69 f = .ok x) : x.MadeBy f.pack := by
  unfold dec69 at h
  split at h
  case h_5 => cases h
  all_goals simp only [okIf_eq_ok_iff, Bool.and_eq_true, beq_iff_eq] at h
  case h_2 hfn =>
    obtain ⟨⟨⟨⟨ha, hb⟩, hc⟩, hp⟩, rfl⟩ := h
    exact Fields.madeBy_eA hopc hfn hp rfl (fromX_toX ha) hb.symm hc.symm rfl rfl rfl
  all_goals
    obtain ⟨⟨⟨ha, hc⟩, hp⟩, rfl⟩ := h
    exact Fields.madeBy_eA hopc ‹_› hp rfl (fromX_toX ha) rfl hc.symm rfl rfl rfl

theorem dec6A_madeBy (hopc : f.opc = 0x6A) (h : dec6A f = .ok x) : x.MadeBy f.pack := by
  unfold dec6A at h
  split at h
  case h_1 hfn =>
    simp only [okIf_eq_ok_iff, Bool.and_eq_true, beq_iff_eq] at h
    obtain ⟨⟨hd, hp⟩, rfl⟩ := h
    exact Fields.madeBy_eA hopc hfn hp hd.symm rfl rfl rfl rfl rfl rfl
  case h_2 hfn => exact aDA_madeBy hopc hfn (fun _ _ => ⟨rfl, rfl, rfl⟩) h
  case h_3 => cases h

theorem dec6B_madeBy (hopc : f.opc = 0x6B) (h : dec6B f = .ok x) : x.MadeBy f.pack := by
  unfold dec6B at h
  split at h
  case h_3 hfn => exact aDAB_madeBy hopc hfn (fun _ _ _ => ⟨rfl, rfl, rfl⟩) h
  case h_4 hfn => exact aDA_madeBy hopc hfn (fun _ _ => ⟨rfl, rfl, rfl⟩) h
  case h_5 => cases h
  all_goals
    obtain ⟨hp, rfl⟩ := okIf_eq_ok_iff.1 h
    exact Fields.madeBy_eA hopc ‹_› hp rfl rfl rfl rfl rfl rfl rfl

/-! Engine words. -/

theorem eDA_madeBy {k : GReg → XReg → Instr} (hopc : f.opc = opc) (hfn : f.fn = n)
    (hk : ∀ d a, (k d a).MadeBy (eA opc (BitVec.ofNat 8 n) d (fromX a) 0 0)) (h : eDA f k = .ok x) :
    x.MadeBy f.pack := by
  simp only [eDA, okIf_eq_ok_iff, Bool.and_eq_true, beq_iff_eq] at h
  obtain ⟨⟨⟨⟨ha, hb⟩, hc⟩, hp⟩, rfl⟩ := h
  obtain ⟨hwf, hw, he⟩ := hk f.d (toX f.a)
  exact Fields.madeBy_eA hopc hfn hp rfl (fromX_toX ha) hb.symm hc.symm hwf hw he

theorem eDAB_madeBy {k : GReg → XReg → XReg → Instr} (hopc : f.opc = opc) (hfn : f.fn = n)
    (hk : ∀ d a b, (k d a b).MadeBy (eA opc (BitVec.ofNat 8 n) d (fromX a) (fromX b) 0)) (h : eDAB f k = .ok x) :
    x.MadeBy f.pack := by
  simp only [eDAB, okIf_eq_ok_iff, Bool.and_eq_true, beq_iff_eq] at h
  obtain ⟨⟨⟨⟨ha, hb⟩, hc⟩, hp⟩, rfl⟩ := h
  obtain ⟨hwf, hw, he⟩ := hk f.d (toX f.a) (toX f.b)
  exact Fields.madeBy_eA hopc hfn hp rfl (fromX_toX ha) (fromX_toX hb) hc.symm hwf hw he

theorem decC1_madeBy (hopc : f.opc = 0xC1) (h : decC1 f = .ok x) : x.MadeBy f.pack := by
  unfold decC1 at h
  split at h
  case h_6 => cases h
  all_goals exact eDA_madeBy hopc ‹_› (fun _ _ => ⟨rfl, rfl, rfl⟩) h

theorem decC2_madeBy (hopc : f.opc = 0xC2) (h : decC2 f = .ok x) : x.MadeBy f.pack := by
  unfold decC2 at h
  split at h
  case h_5 => cases h
  all_goals exact eDA_madeBy hopc ‹_› (fun _ _ => ⟨rfl, rfl, rfl⟩) h

theorem decC3_madeBy (hopc : f.opc = 0xC3) (h : decC3 f = .ok x) : x.MadeBy f.pack := by
  unfold decC3 at h
  split at h
  case h_3 hfn => exact eDAB_madeBy hopc hfn (fun _ _ _ => ⟨rfl, rfl, rfl⟩) h
  case h_4 => cases h
  all_goals exact eDA_madeBy hopc ‹_› (fun _ _ => ⟨rfl, rfl, rfl⟩) h

theorem decC4_madeBy (hopc : f.opc = 0xC4) (h : decC4 f = .ok x) : x.MadeBy f.pack := by
  unfold decC4 at h
  split at h
  case h_3 => cases h
  all_goals exact eDAB_madeBy hopc ‹_› (fun _ _ _ => ⟨rfl, rfl, rfl⟩) h

theorem decC5_madeBy (hopc : f.opc = 0xC5) (h : decC5 f = .ok x) : x.MadeBy f.pack := by
  unfold decC5 at h
  split at h
  case h_3 => cases h
  all_goals exact eDA_madeBy hopc ‹_› (fun _ _ => ⟨rfl, rfl, rfl⟩) h

theorem decC6_madeBy (hopc : f.opc = 0xC6) (h : decC6 f = .ok x) : x.MadeBy f.pack := by
  unfold decC6 at h
  split at h
  case h_3 => cases h
  all_goals exact eDA_madeBy hopc ‹_› (fun _ _ => ⟨rfl, rfl, rfl⟩) h

theorem dec8B_madeBy (hopc : f.opc = 0x8B) (h : dec8B f = .ok x) : x.MadeBy f.pack := by
  unfold dec8B at h
  split at h
  case h_8 => cases h
  all_goals simp only [okIf_eq_ok_iff, Bool.and_eq_true, beq_iff_eq] at h
  case h_4 hfn =>
    obtain ⟨⟨⟨⟨hd, ha⟩, hb⟩, hc, hp⟩, rfl⟩ := h
    exact Fields.madeBy_eA hopc hfn hp (fromK_toK hd) (fromK_toK ha) hb.symm hc.symm rfl rfl rfl
  case h_5 hfn =>
    obtain ⟨⟨⟨hd, hb⟩, hc, hp⟩, rfl⟩ := h
    exact Fields.madeBy_eA hopc hfn hp (fromK_toK hd) rfl hb.symm hc.symm rfl rfl rfl
  case h_6 hfn =>
    obtain ⟨⟨⟨ha, hb⟩, hc, hp⟩, rfl⟩ := h
    exact Fields.madeBy_eA hopc hfn hp rfl (fromK_toK ha) hb.symm hc.symm rfl rfl rfl
  case h_7 hfn =>
    obtain ⟨⟨⟨ha, hb⟩, hc, hp⟩, rfl⟩ := h
    exact Fields.madeBy_eA hopc hfn hp rfl (fromK_toK ha) hb.symm hc.symm rfl rfl rfl
  all_goals
    obtain ⟨⟨⟨⟨hd, ha⟩, hb⟩, hc, hp⟩, rfl⟩ := h
    exact Fields.madeBy_eA hopc ‹_› hp (fromK_toK hd) (fromK_toK ha) (fromK_toK hb) hc.symm rfl rfl rfl

end

/-! Vector words. -/

section
variable {f : Fields} {n : Nat} {x : Instr} {opc : BitVec 8} {adm : Fmt → Bool} {c free : Bool}

/-- A field within bits that are 0 is 0. -/
theorem extract_eq_zero {w : BitVec 32} {m i k : Nat} (h : w.extractLsb' 0 m = 0) (hi : i + k ≤ m) :
    w.extractLsb' i k = 0 := by
  have e : (w.extractLsb' 0 m).extractLsb' i k = w.extractLsb' i k :=
    BitVec.extractLsb'_extractLsb'_of_le hi
  rw [← e, h]
  simp

theorem withRnd_eq_ok {k : VMask → Fmt → Rnd → Instr} (h : withRnd f adm free c k = .ok x) :
    ∃ m, modeOfCode f.modeCode = some m ∧ adm (fmtOfCode f.fmtCode) = true ∧ c = true ∧ f.lowZero = true
      ∧ (free || modeOk (fmtOfCode f.fmtCode) m) = true ∧ k f.mask (fmtOfCode f.fmtCode) ⟨m, f.sat⟩ = x := by
  unfold withRnd at h
  dsimp only at h
  split at h
  case isTrue hadm =>
    split at h
    case h_1 m hm =>
      simp only [okIf_eq_ok_iff, Bool.and_eq_true] at h
      obtain ⟨⟨⟨hc, hl⟩, hmd⟩, hx⟩ := h
      exact ⟨m, hm, hadm, hc, hl, hmd, hx⟩
    case h_2 => cases h
  case isFalse => cases h

theorem withMode_eq_ok {k : VMask → Fmt → RMode → Instr} (h : withMode f adm c k = .ok x) :
    ∃ m, modeOfCode f.modeCode = some m ∧ adm (fmtOfCode f.fmtCode) = true ∧ c = true ∧ f.lowZero = true
      ∧ modeOk (fmtOfCode f.fmtCode) m = true ∧ f.sat = false ∧ k f.mask (fmtOfCode f.fmtCode) m = x := by
  unfold withMode at h
  dsimp only at h
  split at h
  case isTrue hadm =>
    split at h
    case h_1 m hm =>
      simp only [okIf_eq_ok_iff, Bool.and_eq_true, Bool.not_eq_true'] at h
      obtain ⟨⟨⟨⟨hc, hl⟩, hmd⟩, hs⟩, hx⟩ := h
      exact ⟨m, hm, hadm, hc, hl, hmd, hs, hx⟩
    case h_2 => cases h
  case isFalse => cases h

theorem dab_eq_true (h : dab f = true) : fromV (toV f.d) = f.d ∧ fromV (toV f.a) = f.a ∧ fromV (toV f.b) = f.b
    ∧ 0 = f.c := by
  simp only [dab, Bool.and_eq_true, beq_iff_eq] at h
  obtain ⟨⟨⟨hd, ha⟩, hb⟩, hc⟩ := h
  exact ⟨fromV_toV hd, fromV_toV ha, fromV_toV hb, hc.symm⟩

theorem da_eq_true (h : da f = true) : fromV (toV f.d) = f.d ∧ fromV (toV f.a) = f.a ∧ 0 = f.b ∧ 0 = f.c := by
  simp only [da, Bool.and_eq_true, beq_iff_eq] at h
  obtain ⟨⟨⟨hd, ha⟩, hb⟩, hc⟩ := h
  exact ⟨fromV_toV hd, fromV_toV ha, hb.symm, hc.symm⟩

theorem dabc_eq_true (h : dabc f = true) :
    fromV (toV f.d) = f.d ∧ fromV (toV f.a) = f.a ∧ fromV (toV f.b) = f.b ∧ fromV (toV f.c) = f.c := by
  simp only [dabc, Bool.and_eq_true] at h
  obtain ⟨⟨⟨hd, ha⟩, hb⟩, hc⟩ := h
  exact ⟨fromV_toV hd, fromV_toV ha, fromV_toV hb, fromV_toV hc⟩

/-- A row with a format, a rounding mode and SAT, its registers in the fields `d` to `c'`. -/
theorem withRnd_madeBy {k : VMask → Fmt → Rnd → Instr} {d a b c' : BitVec 6} (hopc : f.opc = opc) (hfn : f.fn = n)
    (h : withRnd f adm free c k = .ok x)
    (hregs : c = true → d = f.d ∧ a = f.a ∧ b = f.b ∧ c' = f.c)
    (hwf : ∀ m fm r, adm fm = true → (free || modeOk fm r.mode) = true → (k m fm r).wellFormed = true)
    (hw : ∀ m fm r, (k m fm r).isWord = true)
    (he : ∀ m fm r, encode (k m fm r) = some (eVR opc (BitVec.ofNat 8 n) d a b c' m fm r)) : x.MadeBy f.pack := by
  obtain ⟨m, hm, hadm, hc, hl, hmd, rfl⟩ := withRnd_eq_ok h
  obtain ⟨hd, ha, hb, hc'⟩ := hregs hc
  exact Fields.madeBy_eV hopc hfn hl hd ha hb hc' (code_fmtOfCode _) rfl (code_modeOfCode hm) (hwf _ _ _ hadm hmd)
    (hw ..) (he ..)

/-- A row with a format and a rounding mode, SAT reserved. -/
theorem withMode_madeBy {k : VMask → Fmt → RMode → Instr} {d a b c' : BitVec 6} (hopc : f.opc = opc) (hfn : f.fn = n)
    (h : withMode f adm c k = .ok x)
    (hregs : c = true → d = f.d ∧ a = f.a ∧ b = f.b ∧ c' = f.c)
    (hwf : ∀ m fm md, adm fm = true → modeOk fm md = true → c = true → (k m fm md).wellFormed = true)
    (hw : ∀ m fm md, (k m fm md).isWord = true)
    (he : ∀ m fm md, adm fm = true → encode (k m fm md) = some
      (eV opc (BitVec.ofNat 8 n) d a b c' m fm.code false md.code)) : x.MadeBy f.pack := by
  obtain ⟨m, hm, hadm, hc, hl, hmd, hs, rfl⟩ := withMode_eq_ok h
  obtain ⟨hd, ha, hb, hc'⟩ := hregs hc
  exact Fields.madeBy_eV hopc hfn hl hd ha hb hc' (code_fmtOfCode _) hs.symm (code_modeOfCode hm) (hwf _ _ _ hadm hmd hc)
    (hw ..) (he _ _ _ hadm)

theorem vBin_madeBy {k : VReg → VReg → VReg → VMask → Fmt → Rnd → Instr} (hopc : f.opc = opc) (hfn : f.fn = n)
    (h : vBin f k = .ok x)
    (hwf : ∀ d a b m fm r, (k d a b m fm r).wellFormed = (fm.arith && modeOk fm r.mode))
    (hw : ∀ d a b m fm r, (k d a b m fm r).isWord = true)
    (he : ∀ d a b m fm r,
      encode (k d a b m fm r) = some (eVR opc (BitVec.ofNat 8 n) (fromV d) (fromV a) (fromV b) 0 m fm r)) :
        x.MadeBy f.pack :=
  withRnd_madeBy hopc hfn h dab_eq_true (fun m fm r ha hm => (hwf ..).trans (Bool.and_eq_true_iff.2 ⟨ha, hm⟩))
    (fun _ _ _ => hw ..) (fun _ _ _ => he ..)

theorem vUn_madeBy {k : VReg → VReg → VMask → Fmt → Rnd → Instr} (hopc : f.opc = opc) (hfn : f.fn = n)
    (h : vUn f adm k = .ok x)
    (hwf : ∀ d a m fm r, adm fm = true → modeOk fm r.mode = true → (k d a m fm r).wellFormed = true)
    (hw : ∀ d a m fm r, (k d a m fm r).isWord = true)
    (he : ∀ d a m fm r, encode (k d a m fm r) = some (eVR opc (BitVec.ofNat 8 n) (fromV d) (fromV a) 0 0 m fm r)) :
      x.MadeBy f.pack :=
  withRnd_madeBy hopc hfn h da_eq_true (fun _ _ _ ha hm => hwf _ _ _ _ _ ha hm) (fun _ _ _ => hw ..) (fun _ _ _ => he ..)

/-- A row of form A with a mask operand alone, FMT and RND reserved. -/
theorem vLogic_madeBy {k : VReg → VReg → VReg → VMask → Instr} (hopc : f.opc = opc) (hfn : f.fn = n)
    (h : vLogic f k = .ok x)
    (hk : ∀ d a b m, (k d a b m).MadeBy (eV opc (BitVec.ofNat 8 n) (fromV d) (fromV a) (fromV b) 0 m 0 false 0)) :
      x.MadeBy f.pack := by
  simp only [vLogic, withMask, okIf_eq_ok_iff, Bool.and_eq_true, beq_iff_eq] at h
  obtain ⟨⟨hregs, hlow⟩, rfl⟩ := h
  obtain ⟨hd, ha, hb, hc⟩ := dab_eq_true hregs
  have hl : f.lowZero = true := beq_iff_eq.2 (extract_eq_zero hlow (by decide))
  have hfm : 0 = f.fmtCode := (extract_eq_zero hlow (by decide)).symm
  have hmd : 0 = f.modeCode := (extract_eq_zero hlow (by decide)).symm
  have hsat : false = f.sat := by
    rw [Fields.sat, extract_eq_zero hlow (by decide)]
    rfl
  obtain ⟨hwf, hw, he⟩ := hk (toV f.d) (toV f.a) (toV f.b) f.mask
  exact Fields.madeBy_eV hopc hfn hl hd ha hb hc hfm hsat hmd hwf hw he

theorem vShift_madeBy {k : VReg → VReg → VReg → VMask → Fmt → Instr} (hopc : f.opc = opc) (hfn : f.fn = n)
    (h : vShift f k = .ok x)
    (hwf : ∀ d a b m fm, (k d a b m fm).wellFormed = fm.shiftable) (hw : ∀ d a b m fm, (k d a b m fm).isWord = true)
    (he : ∀ d a b m fm,
      encode (k d a b m fm) = some (eV opc (BitVec.ofNat 8 n) (fromV d) (fromV a) (fromV b) 0 m fm.code false 0)) :
        x.MadeBy f.pack := by
  unfold vShift at h
  dsimp only at h
  split at h
  case isTrue hadm =>
    simp only [okIf_eq_ok_iff, Bool.and_eq_true, beq_iff_eq] at h
    obtain ⟨⟨hregs, hlow⟩, rfl⟩ := h
    obtain ⟨hd, ha, hb, hc⟩ := dab_eq_true hregs
    have hl : f.lowZero = true := beq_iff_eq.2 (extract_eq_zero hlow (by decide))
    have hmd : 0 = f.modeCode := (extract_eq_zero hlow (by decide)).symm
    have hsat : false = f.sat := by
      rw [Fields.sat, extract_eq_zero hlow (by decide)]
      rfl
    exact Fields.madeBy_eV hopc hfn hl hd ha hb hc (code_fmtOfCode _) hsat hmd ((hwf ..).trans hadm) (hw ..) (he ..)
  case isFalse => cases h

theorem dec80_madeBy (hopc : f.opc = 0x80) (h : dec80 f = .ok x) : x.MadeBy f.pack := by
  unfold dec80 at h
  split at h
  case h_16 => cases h
  case h_7 hfn | h_8 hfn =>
    exact vUn_madeBy hopc hfn h (fun _ _ _ _ _ ha hm => Bool.and_eq_true_iff.2 ⟨ha, hm⟩) (fun _ _ _ _ _ => rfl)
      (fun _ _ _ _ _ => rfl)
  case h_9 hfn =>
    exact vUn_madeBy hopc hfn h (fun _ _ _ _ _ ha _ => ha) (fun _ _ _ _ _ => rfl) (fun _ _ _ _ _ => rfl)
  case h_10 hfn | h_11 hfn | h_12 hfn => exact vLogic_madeBy hopc hfn h (fun _ _ _ _ => ⟨rfl, rfl, rfl⟩)
  case h_13 hfn | h_14 hfn | h_15 hfn =>
    exact vShift_madeBy hopc hfn h (fun _ _ _ _ _ => rfl) (fun _ _ _ _ _ => rfl) (fun _ _ _ _ _ => rfl)
  all_goals
    exact vBin_madeBy hopc ‹_› h (fun _ _ _ _ _ _ => rfl) (fun _ _ _ _ _ _ => rfl) (fun _ _ _ _ _ _ => rfl)

theorem dec81_madeBy (hopc : f.opc = 0x81) (h : dec81 f = .ok x) : x.MadeBy f.pack := by
  unfold dec81 at h
  split at h
  case h_5 => cases h
  all_goals
    exact withRnd_madeBy hopc ‹_› h dabc_eq_true (fun _ _ _ ha _ => ha) (fun _ _ _ => rfl) (fun _ _ _ => rfl)

theorem dec82_madeBy (hopc : f.opc = 0x82) (h : dec82 f = .ok x) : x.MadeBy f.pack := by
  have hregs : (kOk f.d && vOk f.a && vOk f.b && f.c == 0) = true →
      fromK (toK f.d) = f.d ∧ fromV (toV f.a) = f.a ∧ fromV (toV f.b) = f.b ∧ 0 = f.c := by
    simp only [Bool.and_eq_true, beq_iff_eq]
    rintro ⟨⟨⟨hd, ha⟩, hb⟩, hc⟩
    exact ⟨fromK_toK hd, fromV_toV ha, fromV_toV hb, hc.symm⟩
  unfold dec82 at h
  split at h
  case h_6 => cases h
  case h_5 hfn =>
    exact withMode_madeBy hopc hfn h hregs (fun _ _ _ ha _ _ => ha) (fun _ _ _ => rfl) (fun _ _ _ _ => rfl)
  all_goals
    exact withMode_madeBy hopc ‹_› h hregs (fun _ _ _ ha hm _ => Bool.and_eq_true_iff.2 ⟨ha, hm⟩) (fun _ _ _ => rfl)
      (fun _ _ _ _ => rfl)

theorem dec83_madeBy (hopc : f.opc = 0x83) (h : dec83 f = .ok x) : x.MadeBy f.pack := by
  unfold dec83 at h
  split at h
  case h_1 hfn => exact vLogic_madeBy hopc hfn h (fun _ _ _ _ => ⟨rfl, rfl, rfl⟩)
  case h_2 => cases h

theorem shuffled_madeBy {k : VMask → Fmt → RMode → Instr} {d a b c' : BitVec 6} (hopc : f.opc = opc) (hfn : f.fn = n)
    (h : withMode f Fmt.shuffled c k = .ok x)
    (hregs : c = true → d = f.d ∧ a = f.a ∧ b = f.b ∧ c' = f.c)
    (hwf : ∀ m fm md, (k m fm md).wellFormed = (fm.shuffled && modeOk fm md)) (hw : ∀ m fm md, (k m fm md).isWord = true)
    (he : ∀ m fm md, encode (k m fm md) = some (eV opc (BitVec.ofNat 8 n) d a b c' m fm.code false md.code)) :
      x.MadeBy f.pack :=
  withMode_madeBy hopc hfn h hregs (fun _ _ _ ha hm _ => (hwf ..).trans (Bool.and_eq_true_iff.2 ⟨ha, hm⟩)) hw
    (fun _ _ _ _ => he ..)

theorem dec84_madeBy (hopc : f.opc = 0x84) (h : dec84 f = .ok x) : x.MadeBy f.pack := by
  unfold dec84 at h
  split at h
  case h_1 hfn | h_4 hfn | h_5 hfn =>
    exact shuffled_madeBy hopc hfn h dab_eq_true (fun _ _ _ => rfl) (fun _ _ _ => rfl) (fun _ _ _ => rfl)
  case h_2 hfn =>
    refine shuffled_madeBy (a := f.a) hopc hfn h (fun hc => ?_) (fun _ _ _ => rfl) (fun _ _ _ => rfl) (fun _ _ _ => rfl)
    simp only [Bool.and_eq_true, beq_iff_eq] at hc
    obtain ⟨⟨hd, hb⟩, hc⟩ := hc
    exact ⟨fromV_toV hd, rfl, hb.symm, hc.symm⟩
  case h_3 hfn =>
    exact shuffled_madeBy hopc hfn h dabc_eq_true (fun _ _ _ => rfl) (fun _ _ _ => rfl) (fun _ _ _ => rfl)
  case h_6 hfn =>
    refine shuffled_madeBy (b := f.b) hopc hfn h (fun hc => ?_) (fun _ _ _ => rfl) (fun _ _ _ => rfl) (fun _ _ _ => rfl)
    simp only [Bool.and_eq_true, beq_iff_eq] at hc
    obtain ⟨⟨hd, ha⟩, hc⟩ := hc
    exact ⟨fromV_toV hd, fromV_toV ha, rfl, hc.symm⟩
  case h_7 hfn =>
    refine shuffled_madeBy (d := f.d) hopc hfn h (fun hc => ?_) (fun _ _ _ => rfl) (fun _ _ _ => rfl) (fun _ _ _ => rfl)
    simp only [Bool.and_eq_true, beq_iff_eq] at hc
    obtain ⟨⟨ha, hb⟩, hc⟩ := hc
    exact ⟨rfl, fromV_toV ha, hb.symm, hc.symm⟩
  case h_8 => cases h

theorem dec85_madeBy (hopc : f.opc = 0x85) (h : dec85 f = .ok x) : x.MadeBy f.pack := by
  unfold dec85 at h
  split at h
  case isTrue hhigh =>
    refine withRnd_madeBy hopc rfl h da_eq_true (fun _ _ _ _ _ => rfl) (fun _ _ _ => rfl) (fun m fm r => ?_)
    have hfn : ((0 : BitVec 4) ++ f.lo.extractLsb' 24 4 : BitVec 8) = BitVec.ofNat 8 f.fn := by
      have hhigh' : f.lo.extractLsb' 28 4 = 0 := beq_iff_eq.1 hhigh
      rw [Fields.fn, BitVec.ofNat_toNat, BitVec.setWidth_eq]
      grind
    show some (eVR 0x85 ((0 : BitVec 4) ++ (fmtOfCode _).code) _ _ 0 0 m fm r) = _
    rw [code_fmtOfCode, hfn]
  case isFalse => cases h

theorem dec86_madeBy (hopc : f.opc = 0x86) (h : dec86 f = .ok x) : x.MadeBy f.pack := by
  unfold dec86 at h
  split at h
  case h_1 hfn =>
    exact withRnd_madeBy hopc hfn h dab_eq_true (fun _ _ _ ha _ => ha) (fun _ _ _ => rfl) (fun _ _ _ => rfl)
  case h_2 hfn =>
    split at h
    case h_1 hfm =>
      obtain ⟨m, hm, -, hc, hl, -, rfl⟩ := withRnd_eq_ok h
      simp only [Bool.and_eq_true, beq_iff_eq] at hc
      obtain ⟨⟨⟨hd, ha⟩, hb⟩, hc⟩ := hc
      exact Fields.madeBy_eV hopc hfn hl (fromV_toV hd) ha.symm (fromV_toV hb) hc.symm (hfm ▸ code_fmtOfCode _) rfl
        (code_modeOfCode hm) rfl rfl rfl
    case h_2 =>
      exact withRnd_madeBy hopc hfn h dab_eq_true (fun _ _ _ ha _ => ha) (fun _ _ _ => rfl) (fun _ _ _ => rfl)
  case h_3 => cases h

theorem dec87_madeBy (hopc : f.opc = 0x87) (h : dec87 f = .ok x) : x.MadeBy f.pack := by
  unfold dec87 at h
  split at h
  case h_7 => cases h
  all_goals
    exact vUn_madeBy hopc ‹_› h (fun _ _ _ _ _ ha hm => Bool.and_eq_true_iff.2 ⟨ha, hm⟩) (fun _ _ _ _ _ => rfl)
      (fun _ _ _ _ _ => rfl)

/-- A transcendental: RND's mode is reserved, SAT is admitted. -/
theorem trans_madeBy {k : VReg → VReg → VMask → Fmt → Bool → Instr} (hopc : f.opc = opc) (hfn : f.fn = n)
    (hwf : ∀ d a m fm sat, (k d a m fm sat).wellFormed = fm.wideFloat) (hw : ∀ d a m fm sat, (k d a m fm sat).isWord = true)
    (he : ∀ d a m fm sat,
      encode (k d a m fm sat) = some (eV opc (BitVec.ofNat 8 n) (fromV d) (fromV a) 0 0 m fm.code sat 0))
    (h : (if (fmtOfCode f.fmtCode).wideFloat = true then
      okIf (da f && f.lowZero && f.modeCode == 0) (k (toV f.d) (toV f.a) f.mask (fmtOfCode f.fmtCode) f.sat)
      else .error .illegal) = .ok x) : x.MadeBy f.pack := by
  split at h
  case isTrue hadm =>
    simp only [okIf_eq_ok_iff, Bool.and_eq_true, beq_iff_eq] at h
    obtain ⟨⟨⟨hregs, hl⟩, hmd⟩, rfl⟩ := h
    obtain ⟨hd, ha, hb, hc⟩ := da_eq_true hregs
    exact Fields.madeBy_eV hopc hfn hl hd ha hb hc (code_fmtOfCode _) rfl hmd.symm ((hwf ..).trans hadm) (hw ..) (he ..)
  case isFalse => cases h

theorem dec88_madeBy (hopc : f.opc = 0x88) (h : dec88 f = .ok x) : x.MadeBy f.pack := by
  unfold dec88 at h
  split at h
  case h_10 => cases h
  all_goals
    exact trans_madeBy hopc ‹_› (fun _ _ _ _ _ => rfl) (fun _ _ _ _ _ => rfl) (fun _ _ _ _ _ => rfl) h

theorem dec89_madeBy (hopc : f.opc = 0x89) (h : dec89 f = .ok x) : x.MadeBy f.pack := by
  unfold dec89 at h
  split at h
  case h_1 hfn =>
    refine withMode_madeBy hopc hfn h (fun hc => dab_eq_true (Bool.and_eq_true_iff.1 hc).1) (fun m fm md ha hm hc => ?_)
      (fun _ _ _ => rfl) (fun _ _ _ _ => rfl)
    have heven := (Bool.and_eq_true_iff.1 hc).2
    simp only [Instr.wellFormed, ha, hm, heven, Bool.and_self]
  case h_2 => cases h

theorem onlyF32_iff {fm : Fmt} (h : fm.onlyF32 = true) : fm = .f32 := by cases fm <;> first | rfl | cases h

theorem dec8A_madeBy (hopc : f.opc = 0x8A) (h : dec8A f = .ok x) : x.MadeBy f.pack := by
  unfold dec8A at h
  split at h
  case h_1 hfn =>
    refine withMode_madeBy hopc hfn h dabc_eq_true (fun _ _ _ _ _ _ => rfl) (fun _ _ _ => rfl) (fun _ fm _ ha => ?_)
    rw [onlyF32_iff ha]
    rfl
  case h_2 hfn =>
    refine withMode_madeBy hopc hfn h da_eq_true (fun _ _ _ _ _ _ => rfl) (fun _ _ _ => rfl) (fun _ fm _ ha => ?_)
    rw [onlyF32_iff ha]
    rfl
  case h_3 => cases h

/-- The opcode map (Table 03-4): a word that decodes is made by what it decodes to. -/
theorem decodeFields_madeBy (h : decodeFields f = .ok x) : x.MadeBy f.pack := by
  unfold decodeFields at h
  split at h
  case h_1 hopc => exact dec00_madeBy (ofNat_toNat_eq hopc).symm h
  case h_2 hopc => exact dec01_madeBy (ofNat_toNat_eq hopc).symm h
  case h_3 hopc => exact dec02_madeBy (ofNat_toNat_eq hopc).symm h
  case h_4 | h_5 | h_6 =>
    exact decBits_madeBy (ofNat_toNat_eq ‹_›).symm (fun _ _ _ _ => rfl) (fun _ _ _ _ => rfl) (fun _ _ _ _ => rfl) h
  case h_7 hopc => exact dec06_madeBy (ofNat_toNat_eq hopc).symm h
  case h_8 hopc => exact dec07_madeBy (ofNat_toNat_eq hopc).symm h
  case h_9 | h_10 | h_11 | h_12 | h_16 | h_17 | h_18 | h_19 | h_20 | h_21 | h_25 =>
    exact iDA_madeBy (ofNat_toNat_eq ‹_›).symm (fun _ _ _ => ⟨rfl, rfl, rfl⟩) h
  case h_13 | h_14 | h_15 => exact iShift_madeBy (ofNat_toNat_eq ‹_›).symm (fun _ _ _ => ⟨rfl, rfl, rfl⟩) h
  case h_22 | h_23 => exact iD_madeBy (ofNat_toNat_eq ‹_›).symm (fun _ _ => ⟨rfl, rfl, rfl⟩) h
  case h_24 hopc => exact dec17_madeBy (ofNat_toNat_eq hopc).symm h
  case h_26 hopc => exact dec19_madeBy (ofNat_toNat_eq hopc).symm h
  case h_27 hopc => exact dec30_madeBy (ofNat_toNat_eq hopc).symm h
  case h_28 hopc => exact jal_madeBy (ofNat_toNat_eq hopc).symm h
  case h_29 hopc => exact dec32_madeBy (ofNat_toNat_eq hopc).symm h
  case h_30 hopc => exact loop_madeBy (ofNat_toNat_eq hopc).symm h
  case h_31 | h_60 | h_62 => exact nibD_madeBy (ofNat_toNat_eq ‹_›).symm (fun _ _ => ⟨rfl, rfl, rfl⟩) h
  case h_32 hopc => exact dec35_madeBy (ofNat_toNat_eq hopc).symm h
  case h_33 hopc => exact dec40_madeBy (ofNat_toNat_eq hopc).symm h
  case h_34 hopc => exact dec41_madeBy (ofNat_toNat_eq hopc).symm h
  case h_35 hopc => exact dec42_madeBy (ofNat_toNat_eq hopc).symm h
  case h_36 hopc => exact dec43_madeBy (ofNat_toNat_eq hopc).symm h
  case h_37 hopc => exact dec44_madeBy (ofNat_toNat_eq hopc).symm h
  case h_38 hopc => exact dec45_madeBy (ofNat_toNat_eq hopc).symm h
  case h_39 hopc => exact dec46_madeBy (ofNat_toNat_eq hopc).symm h
  case h_40 | h_42 | h_43 | h_44 | h_45 | h_46 | h_47 | h_48 | h_49 | h_50 | h_51 =>
    exact mAtomic_madeBy (ofNat_toNat_eq ‹_›).symm (fun _ _ _ _ _ _ => ⟨rfl, rfl, rfl⟩) h
  case h_41 hopc => exact dec49_madeBy (ofNat_toNat_eq hopc).symm h
  case h_52 hopc => exact dec54_madeBy (ofNat_toNat_eq hopc).symm h
  case h_53 hopc => exact dec55_madeBy (ofNat_toNat_eq hopc).symm h
  case h_54 hopc => exact dec56_madeBy (ofNat_toNat_eq hopc).symm h
  case h_55 hopc => exact dec60_madeBy (ofNat_toNat_eq hopc).symm h
  case h_56 hopc => exact dec61_madeBy (ofNat_toNat_eq hopc).symm h
  case h_57 hopc => exact dec62_madeBy (ofNat_toNat_eq hopc).symm h
  case h_58 hopc => exact dec63_madeBy (ofNat_toNat_eq hopc).symm h
  case h_59 hopc => exact dec64_madeBy (ofNat_toNat_eq hopc).symm h
  case h_61 hopc => exact tagfree_madeBy (ofNat_toNat_eq hopc).symm h
  case h_63 hopc => exact dec68_madeBy (ofNat_toNat_eq hopc).symm h
  case h_64 hopc => exact dec69_madeBy (ofNat_toNat_eq hopc).symm h
  case h_65 hopc => exact dec6A_madeBy (ofNat_toNat_eq hopc).symm h
  case h_66 hopc => exact dec6B_madeBy (ofNat_toNat_eq hopc).symm h
  case h_67 hopc => exact dec80_madeBy (ofNat_toNat_eq hopc).symm h
  case h_68 hopc => exact dec81_madeBy (ofNat_toNat_eq hopc).symm h
  case h_69 hopc => exact dec82_madeBy (ofNat_toNat_eq hopc).symm h
  case h_70 hopc => exact dec83_madeBy (ofNat_toNat_eq hopc).symm h
  case h_71 hopc => exact dec84_madeBy (ofNat_toNat_eq hopc).symm h
  case h_72 hopc => exact dec85_madeBy (ofNat_toNat_eq hopc).symm h
  case h_73 hopc => exact dec86_madeBy (ofNat_toNat_eq hopc).symm h
  case h_74 hopc => exact dec87_madeBy (ofNat_toNat_eq hopc).symm h
  case h_75 hopc => exact dec88_madeBy (ofNat_toNat_eq hopc).symm h
  case h_76 hopc => exact dec89_madeBy (ofNat_toNat_eq hopc).symm h
  case h_77 hopc => exact dec8A_madeBy (ofNat_toNat_eq hopc).symm h
  case h_78 hopc => exact dec8B_madeBy (ofNat_toNat_eq hopc).symm h
  case h_79 hopc => exact decC0_madeBy (ofNat_toNat_eq hopc).symm h
  case h_80 hopc => exact decC1_madeBy (ofNat_toNat_eq hopc).symm h
  case h_81 hopc => exact decC2_madeBy (ofNat_toNat_eq hopc).symm h
  case h_82 hopc => exact decC3_madeBy (ofNat_toNat_eq hopc).symm h
  case h_83 hopc => exact decC4_madeBy (ofNat_toNat_eq hopc).symm h
  case h_84 hopc => exact decC5_madeBy (ofNat_toNat_eq hopc).symm h
  case h_85 hopc => exact decC6_madeBy (ofNat_toNat_eq hopc).symm h
  case h_86 hopc => exact decE0_madeBy (ofNat_toNat_eq hopc).symm h
  case h_87 hopc => exact decE1_madeBy (ofNat_toNat_eq hopc).symm h
  case h_88 | h_89 | h_90 => exact decCode_madeBy (ofNat_toNat_eq ‹_›).symm (fun _ _ => ⟨rfl, rfl, rfl⟩) h
  case h_91 => cases h

end

theorem decode_madeBy {w : Word} {x : Instr} (h : decode w = .ok x) : x.MadeBy w := by
  rw [← pack_fields w]
  exact decodeFields_madeBy h

/-! The statements. -/

/-- Settles O1, row by row of the encoder's table. -/
theorem decodeReadsWhatEncodeWrites : Obligations.DecodeReadsWhatEncodeWrites := fun _ _ => decode_encode

/-- Settles O2, opcode by opcode of the decoder's map. -/
theorem decodedWordIsItsEncoding : Obligations.DecodedWordIsItsEncoding := fun _ _ => decode_madeBy

end Sys2Proof

/-! SUPPORT. Tier 1: the words of the spec's tables, the hardwired registers and the reset state. -/

namespace Sys2Proof.Machine

open Sys2Proof

/-- Settles O3: each word is evaluated by the decoder. -/
theorem specWordsDecode : Obligations.SpecWordsDecode := by
  unfold Obligations.SpecWordsDecode
  and_intros <;> rfl

/-- Settles O8: register 0 of each file is read as its constant, and a write of it is dropped. -/
theorem hardwiredRegisters : Obligations.HardwiredRegisters := by
  refine fun i x y => ⟨rfl, rfl, fun r => ?_, fun r => rfl⟩
  simp [Inst.readG_writeG]

/-- A slot of a core as it comes from reset is free. -/
theorem Core.reset_inst? (sl : Nat) : Core.reset.inst? sl = none := by
  by_cases h : sl < 8 <;> simp [Core.inst?, Core.reset, h]

/-- Settles O7: every table of the reset state is empty, so that each read gives its default. -/
theorem resetState : Obligations.ResetState := by
  refine ⟨rfl, rfl, fun _ => rfl, fun _ => rfl, fun p sl => Core.reset_inst? sl, rfl, rfl, fun _ => ⟨rfl, rfl, rfl⟩,
    fun _ => ⟨rfl, rfl⟩, rfl, ?_⟩
  decide

end Sys2Proof.Machine

/-! SUPPORT. The scalar words: each row's value in the terms of the spec's tables, and how a word that completes as it
issues completes. -/

namespace Sys2Proof.Machine

open Sys2Proof

/-! Completion (04 R62). -/

/-- A scalar word that writes gD as it issues completes with its value. -/
theorem State.alu_eq {s : State} {i : Inst} {x : Instr} (h : s.Issues i x) (d : GReg) (f : Inst → Word) :
    s.alu (uses x) d f = .next (s.became i (i.counted.writeG d (f i.counted)).advance) := by
  rw [State.alu, State.onFit_eq h]
  rfl

/-! Values of the rows (04 Tables 04-1 and 04-2). -/

theorem wrap64_toInt (x : Word) : BitVec.ofInt 64 x.toInt = x := BitVec.ofInt_toInt
theorem word64_toNat (x : Word) : BitVec.ofNat 64 x.toNat = x := BitVec.ofNat_toNat 64 x |>.trans (BitVec.setWidth_eq x)

theorem simm_eq_immWord (imm : BitVec 32) : simm imm = immWord imm := by
  rw [simm, immWord, BitVec.signExtend]

theorem add_eq_ofInt (x y : Word) : x + y = BitVec.ofInt 64 (x.toInt + y.toInt) := by
  rw [BitVec.ofInt_add, wrap64_toInt, wrap64_toInt]

theorem sub_eq_ofInt (x y : Word) : x - y = BitVec.ofInt 64 (x.toInt - y.toInt) := by
  rw [← BitVec.toInt_inj, BitVec.toInt_sub, BitVec.toInt_ofInt]

theorem mul_eq_ofInt (x y : Word) : x * y = BitVec.ofInt 64 (x.toInt * y.toInt) := by
  rw [BitVec.ofInt_mul, wrap64_toInt, wrap64_toInt]

theorem divSigned_fst (x y : Word) :
    wrap64 (divSigned x y).1 = if y = 0 then BitVec.ofInt 64 (-1) else BitVec.ofInt 64 (x.toInt.tdiv y.toInt) := by
  unfold divSigned; split <;> rfl

theorem divSigned_snd (x y : Word) :
    wrap64 (divSigned x y).2 = if y = 0 then x else BitVec.ofInt 64 (x.toInt.tmod y.toInt) := by
  unfold divSigned
  split
  · exact wrap64_toInt x
  · rw [Int.tmod_def, Int.mul_comm]; rfl

theorem divUnsigned_fst (x y : Word) :
    wrap64 (divUnsigned x y).1 = if y = 0 then BitVec.ofInt 64 (-1) else BitVec.ofNat 64 (x.toNat / y.toNat) := by
  unfold divUnsigned
  split
  · rfl
  · exact BitVec.ofInt_natCast ..

theorem divUnsigned_snd (x y : Word) :
    wrap64 (divUnsigned x y).2 = if y = 0 then x else BitVec.ofNat 64 (x.toNat % y.toNat) := by
  unfold divUnsigned
  split
  · exact (BitVec.ofInt_natCast ..).trans (word64_toNat x)
  · exact BitVec.ofInt_natCast ..

theorem sllVal_eq (x : Word) (n : Nat) : sllVal x n = BitVec.ofNat 64 (x.toNat * 2 ^ (n % 64)) := by
  apply BitVec.eq_of_toNat_eq
  simp [sllVal, Nat.shiftLeft_eq]

theorem srlVal_eq (x : Word) (n : Nat) : srlVal x n = BitVec.ofNat 64 (x.toNat / 2 ^ (n % 64)) := by
  apply BitVec.eq_of_toNat_eq
  rw [srlVal, BitVec.toNat_ushiftRight, Nat.shiftRight_eq_div_pow, BitVec.toNat_ofNat]
  exact (Nat.mod_eq_of_lt ((Nat.div_le_self ..).trans_lt x.isLt)).symm

theorem sraVal_eq (x : Word) (n : Nat) : sraVal x n = BitVec.ofInt 64 (x.toInt / 2 ^ (n % 64)) := by
  rw [sraVal, BitVec.sshiftRight, Int.shiftRight_eq_div_pow]
  rfl

theorem rolVal_eq (x : Word) (n : Nat) : rolVal x n = x.rotateLeft (n % 64) := by
  rw [rolVal, BitVec.rotateLeft, Nat.mod_mod]; rfl

theorem rorVal_eq (x : Word) (n : Nat) : rorVal x n = x.rotateRight (n % 64) := by
  rw [rorVal, BitVec.rotateRight, Nat.mod_mod]; rfl

theorem minVal_eq (x y : Word) : minVal x y = BitVec.ofInt 64 (min x.toInt y.toInt) := by
  rw [minVal, min_def]; split <;> exact (wrap64_toInt _).symm

theorem maxVal_eq (x y : Word) : maxVal x y = BitVec.ofInt 64 (max x.toInt y.toInt) := by
  rw [maxVal, max_def]; split <;> exact (wrap64_toInt _).symm

theorem minnVal_eq (x y : Word) : minnVal x y = BitVec.ofNat 64 (min x.toNat y.toNat) := by
  rw [minnVal, min_def]; split <;> exact (word64_toNat _).symm

theorem maxnVal_eq (x y : Word) : maxnVal x y = BitVec.ofNat 64 (max x.toNat y.toNat) := by
  rw [maxnVal, max_def]; split <;> exact (word64_toNat _).symm

/-! The rows as words that complete as they issue. -/

/-- A two-source row: its word is a scalar word whose value is the row's. -/
def IsAlu (x : GReg → GReg → GReg → Instr) (f : Word → Word → Word) : Prop :=
  ∃ v : Word → Word → Word, (∀ d a b s, exec (x d a b) s = s.alu (uses (x d a b)) d (fun i => v (i.readG a) (i.readG b)))
    ∧ ∀ p q, v p q = f p q

/-- An immediate row: its word is a scalar word whose value is the row's. -/
def IsAluImm (x : GReg → GReg → BitVec 32 → Instr) (f : Word → Word → Word) : Prop :=
  ∃ v : Word → Word → Word, (∀ d a m s, exec (x d a m) s = s.alu (uses (x d a m)) d (fun i => v (i.readG a) (simm m)))
    ∧ ∀ p q, v p q = f p q

/-- A shift row: its word is a scalar word whose value is the row's. -/
def IsAluShift (x : GReg → GReg → BitVec 6 → Instr) (f : Word → Nat → Word) : Prop :=
  ∃ v : Word → Nat → Word, (∀ d a n s, exec (x d a n) s = s.alu (uses (x d a n)) d (fun i => v (i.readG a) n.toNat))
    ∧ ∀ p q, q < 64 → v p q = f p q

theorem scalarRows_isAlu : ∀ r ∈ scalarRows, IsAlu r.1 r.2 := by
  simp only [scalarRows, List.forall_mem_cons, List.not_mem_nil, false_imp_iff, implies_true, and_true]
  exact ⟨⟨(· + ·), fun _ _ _ _ => rfl, add_eq_ofInt⟩, ⟨(· - ·), fun _ _ _ _ => rfl, sub_eq_ofInt⟩,
    ⟨(· * ·), fun _ _ _ _ => rfl, mul_eq_ofInt⟩, ⟨mulhVal, fun _ _ _ _ => rfl, fun _ _ => rfl⟩,
    ⟨mulhnVal, fun _ _ _ _ => rfl, fun _ _ => rfl⟩, ⟨fun x y => wrap64 (divSigned x y).1, fun _ _ _ _ => rfl, divSigned_fst⟩,
    ⟨fun x y => wrap64 (divUnsigned x y).1, fun _ _ _ _ => rfl, divUnsigned_fst⟩, ⟨fun x y => wrap64 (divSigned x y).2, fun _ _ _ _ => rfl, divSigned_snd⟩,
    ⟨fun x y => wrap64 (divUnsigned x y).2, fun _ _ _ _ => rfl, divUnsigned_snd⟩, ⟨(· &&& ·), fun _ _ _ _ => rfl, fun _ _ => rfl⟩,
    ⟨(· ||| ·), fun _ _ _ _ => rfl, fun _ _ => rfl⟩, ⟨(· ^^^ ·), fun _ _ _ _ => rfl, fun _ _ => rfl⟩,
    ⟨fun x y => x &&& ~~~ y, fun _ _ _ _ => rfl, fun _ _ => rfl⟩,
    ⟨fun x y => sllVal x y.toNat, fun _ _ _ _ => rfl, fun x y => sllVal_eq x y.toNat⟩, ⟨fun x y => srlVal x y.toNat, fun _ _ _ _ => rfl, fun x y => srlVal_eq x y.toNat⟩,
    ⟨fun x y => sraVal x y.toNat, fun _ _ _ _ => rfl, fun x y => sraVal_eq x y.toNat⟩, ⟨fun x y => rolVal x y.toNat, fun _ _ _ _ => rfl, fun x y => rolVal_eq x y.toNat⟩,
    ⟨fun x y => rorVal x y.toNat, fun _ _ _ _ => rfl, fun x y => rorVal_eq x y.toNat⟩, ⟨minVal, fun _ _ _ _ => rfl, minVal_eq⟩,
    ⟨maxVal, fun _ _ _ _ => rfl, maxVal_eq⟩, ⟨minnVal, fun _ _ _ _ => rfl, minnVal_eq⟩, ⟨maxnVal, fun _ _ _ _ => rfl, maxnVal_eq⟩,
    ⟨fun x y => bool64 (x == y), fun _ _ _ _ => rfl, fun _ _ => rfl⟩,
    ⟨fun x y => bool64 (x != y), fun _ _ _ _ => rfl, fun _ _ => rfl⟩,
    ⟨fun x y => bool64 (x.slt y), fun _ _ _ _ => rfl, fun _ _ => rfl⟩,
    ⟨fun x y => bool64 (x.sle y), fun _ _ _ _ => rfl, fun _ _ => rfl⟩,
    ⟨fun x y => bool64 (x.ult y), fun _ _ _ _ => rfl, fun _ _ => rfl⟩,
    ⟨fun x y => bool64 (x.ule y), fun _ _ _ _ => rfl, fun _ _ => rfl⟩,
    ⟨(crcVal · · 1), fun _ _ _ _ => rfl, fun _ _ => rfl⟩, ⟨(crcVal · · 2), fun _ _ _ _ => rfl, fun _ _ => rfl⟩,
    ⟨(crcVal · · 4), fun _ _ _ _ => rfl, fun _ _ => rfl⟩, ⟨(crcVal · · 8), fun _ _ _ _ => rfl, fun _ _ => rfl⟩,
    ⟨rngVal, fun _ _ _ _ => rfl, fun _ _ => rfl⟩⟩

theorem immRows_isAluImm : ∀ r ∈ immRows, IsAluImm r.1 r.2 := by
  simp only [immRows, List.forall_mem_cons, List.not_mem_nil, false_imp_iff, implies_true, and_true]
  exact ⟨⟨(· + ·), fun _ _ _ _ => rfl, add_eq_ofInt⟩, ⟨(· &&& ·), fun _ _ _ _ => rfl, fun _ _ => rfl⟩,
    ⟨(· ||| ·), fun _ _ _ _ => rfl, fun _ _ => rfl⟩, ⟨(· ^^^ ·), fun _ _ _ _ => rfl, fun _ _ => rfl⟩,
    ⟨(· * ·), fun _ _ _ _ => rfl, mul_eq_ofInt⟩,
    ⟨fun x y => bool64 (x == y), fun _ _ _ _ => rfl, fun _ _ => rfl⟩,
    ⟨fun x y => bool64 (x.slt y), fun _ _ _ _ => rfl, fun _ _ => rfl⟩,
    ⟨fun x y => bool64 (x.ult y), fun _ _ _ _ => rfl, fun _ _ => rfl⟩,
    ⟨minVal, fun _ _ _ _ => rfl, minVal_eq⟩, ⟨maxVal, fun _ _ _ _ => rfl, maxVal_eq⟩⟩

theorem shiftRows_isAluShift : ∀ r ∈ shiftRows, IsAluShift r.1 r.2 := by
  simp only [shiftRows, List.forall_mem_cons, List.not_mem_nil, false_imp_iff, implies_true, and_true]
  exact ⟨⟨sllVal, fun _ _ _ _ => rfl, fun x n h => by rw [sllVal_eq, Nat.mod_eq_of_lt h]⟩,
    ⟨srlVal, fun _ _ _ _ => rfl, fun x n h => by rw [srlVal_eq, Nat.mod_eq_of_lt h]⟩,
    ⟨sraVal, fun _ _ _ _ => rfl, fun x n h => by rw [sraVal_eq, Nat.mod_eq_of_lt h]⟩⟩

/-! Saturating sums. -/

theorem aluSat_eq {s : State} {i : Inst} {x : Instr} (h : s.Issues i x) (d : GReg) (f : Inst → Int) :
    s.aluSat (uses x) d f = .next (s.became i
      ((i.counted.setFlags (satFlags (f i.counted))).writeG d (wrap64 (clamp64 (f i.counted)).1)).advance) := by
  rw [State.aluSat, State.onFit_eq h]
  rfl

/-- The clamped value lies between the bounds of 64 signed bits, and is told from an exact one that does not. -/
theorem clamp64_spec (e : Int) : (wrap64 (clamp64 e).1).toInt = max (-(2 ^ 63)) (min (2 ^ 63 - 1) e)
    ∧ (clamp64 e).2 = decide ((wrap64 (clamp64 e).1).toInt ≠ e) := by
  have hv : ∀ x : Int, -(2 ^ 63) ≤ x → x ≤ 2 ^ 63 - 1 → (wrap64 x).toInt = x := fun x h h' => by
    rw [wrap64, BitVec.toInt_ofInt, Int.bmod_eq_of_le (by omega) (by omega)]
  unfold clamp64 clampInt
  split_ifs <;> simp only [] <;> rw [hv _ (by omega) (by omega)] <;> constructor <;> simp <;> omega

/-- A clamp sets SAT, alone. -/
theorem satFlags_or (i : Inst) (e : Int) : i.counted.flags.or (satFlags e)
    = { i.flags with sat := i.flags.sat || decide ((wrap64 (clamp64 e).1).toInt ≠ e) } := by
  rw [← (clamp64_spec e).2]
  simp [Flags.or, satFlags]

/-- Settles O9: a row's word writes the row's value, and the value is the table's. -/
theorem scalarRowsComplete : Obligations.ScalarRowsComplete := by
  refine ⟨fun r hr s i d a b h => ?_, ⟨fun r hr s i d a imm h => ?_, fun r hr s i d a n h => ?_,
    fun s i d imm => ⟨fun h => ?_, fun h => ?_⟩⟩, ?_⟩
  · obtain ⟨v, hx, hv⟩ := scalarRows_isAlu r hr
    rw [hx, State.alu_eq h, hv]; rfl
  · obtain ⟨v, hx, hv⟩ := immRows_isAluImm r hr
    rw [hx, State.alu_eq h, hv, simm_eq_immWord]; rfl
  · obtain ⟨v, hx, hv⟩ := shiftRows_isAluShift r hr
    rw [hx, State.alu_eq h, hv _ _ n.isLt]; rfl
  · rw [← simm_eq_immWord]
    exact State.alu_eq h d (fun _ => simm imm)
  · exact ⟨imm ++ (i.readG d).extractLsb' 0 32, State.alu_eq h d (fun i => imm ++ (i.readG d).extractLsb' 0 32),
      by grind, by grind⟩
  · rintro s i d a b x e (⟨rfl, rfl⟩ | ⟨rfl, rfl⟩) h
    · exact ⟨_, _, aluSat_eq h d (fun i => (i.readG a).toInt + (i.readG b).toInt), (clamp64_spec _).1, satFlags_or i _⟩
    · exact ⟨_, _, aluSat_eq h d (fun i => (i.readG a).toInt - (i.readG b).toInt), (clamp64_spec _).1, satFlags_or i _⟩

end Sys2Proof.Machine

/-! SUPPORT. The frame of the scalar words that write gD as they issue. -/

namespace Sys2Proof.Machine

open Sys2Proof

/-- A plain scalar word is a write of the one register that it names as its destination. -/
theorem exec_plainScalar (x : Instr) (s : State) (h : plainScalar x = true) :
    ∃ d f, exec x s = s.alu (uses x) d f ∧ (uses x).gw = [d] := by
  unfold plainScalar at h
  split at h
  case h_64 => cases h
  all_goals delta exec; dsimp only; exact ⟨_, _, rfl, rfl⟩

theorem State.became_issuing {s : State} {i : Inst} (h : s.Issuing i) (j : Inst) : (s.became i j).Issuing j := by
  simp [State.Issuing, State.became, State.setCur, State.counted, State.inst?_setInst _ _ _ _ _ _ h.slot]

/-- Settles O11: the word writes gD and ends; the end of a word keeps every register but a loop register. -/
theorem plainScalarFrame : Obligations.PlainScalarFrame := by
  intro x s t i hx h ht
  obtain ⟨d, f, he, hgw⟩ := exec_plainScalar x s hx
  rw [he, State.alu_eq h] at ht
  cases ht
  have hw : i.Keeps (i.counted.writeG d (f i.counted)) [d] := { i.counted.writeG_keeps d (f i.counted) with }
  have hend : i.Keeps (i.counted.writeG d (f i.counted)).advance [d] :=
    hw.trans (by simp) { Inst.advance_keeps _ with g := fun r _ hl => (Inst.advance_keeps _).g r (by simp) hl }
  exact ⟨State.became_onlySlot h.1 _, _, State.became_issuing h.1 _, hgw ▸ hend⟩

end Sys2Proof.Machine

/-! SUPPORT. Counts, reversals and bit fields, bit by bit (04 R66, Table 04-1). -/

namespace Sys2Proof.Machine

open Sys2Proof

/-! Counts. -/

theorem clzVal_spec (x : Word) : clzVal x ≤ 64 ∧ (∀ k, 64 - clzVal x ≤ k → x.getLsbD k = false)
    ∧ (clzVal x < 64 → x.getLsbD (63 - clzVal x) = true) := by
  unfold clzVal
  split
  · next h => subst h; simp
  · next h =>
    have h0 : x.toNat ≠ 0 := by simpa [← BitVec.toNat_inj] using h
    have hlog : x.toNat.log2 < 64 := (Nat.log2_lt h0).2 x.isLt
    refine ⟨by omega, fun k hk => ?_, fun _ => ?_⟩
    · rw [BitVec.getLsbD, Nat.testBit_lt_two_pow]
      exact (Nat.lt_log2_self).trans_le (Nat.pow_le_pow_right (by decide) (by omega))
    · rw [show 63 - (63 - x.toNat.log2) = x.toNat.log2 by omega]
      exact Nat.testBit_log2 h0

theorem ctzFrom_spec (n x : Nat) : ctzFrom n x ≤ n ∧ (∀ k < ctzFrom n x, x.testBit k = false)
    ∧ (ctzFrom n x < n → x.testBit (ctzFrom n x) = true) := by
  induction n generalizing x with
  | zero => simp [ctzFrom]
  | succ n ih =>
    obtain ⟨hle, hlow, hbit⟩ := ih (x / 2)
    unfold ctzFrom
    split
    · next h => simp [Nat.testBit_zero, h]
    · next h =>
      refine ⟨by omega, fun k hk => ?_, fun hn => ?_⟩
      · cases k with
        | zero => simpa using h
        | succ k => rw [Nat.testBit_succ]; exact hlow k (by omega)
      · rw [Nat.add_comm, Nat.testBit_succ]; exact hbit (by omega)

theorem popFrom_eq_countP (n x : Nat) : popFrom n x = (List.range n).countP (fun k => x.testBit k) := by
  induction n generalizing x with
  | zero => rfl
  | succ n ih =>
    rw [popFrom, ih, List.range_succ_eq_map, List.countP_cons, List.countP_map, Nat.add_comm]
    simp only [Function.comp_def, Nat.testBit_succ, Nat.testBit_zero, decide_eq_true_eq]
    split <;> omega

/-! Reversals. -/

theorem revFrom_lt (n x : Nat) : revFrom n x < 2 ^ n := by
  induction n generalizing x with
  | zero => simp [revFrom]
  | succ n ih =>
    have h : x % 2 * 2 ^ n ≤ 2 ^ n := (Nat.mul_le_mul_right _ (by omega : x % 2 ≤ 1)).trans_eq (Nat.one_mul _)
    have := ih (x / 2)
    rw [revFrom, Nat.pow_succ]
    omega

/-- Bit k of x is bit n - 1 - k of its reversal. -/
theorem revFrom_testBit (n x k : Nat) (hk : k < n) : (revFrom n x).testBit (n - 1 - k) = x.testBit k := by
  induction n generalizing x k with
  | zero => omega
  | succ n ih =>
    rw [revFrom, Nat.mul_comm, Nat.testBit_two_pow_mul_add _ (revFrom_lt n _)]
    cases k with
    | zero => simp [Nat.testBit_zero]
    | succ k => 
      rw [if_pos (by omega), Nat.testBit_succ, show n + 1 - 1 - (k + 1) = n - 1 - k by omega]
      exact ih _ _ (by omega)

theorem swapFrom_lt (n x : Nat) : swapFrom n x < 256 ^ n := by
  induction n generalizing x with
  | zero => simp [swapFrom]
  | succ n ih =>
    have h : x % 256 * 256 ^ n ≤ 255 * 256 ^ n := Nat.mul_le_mul_right _ (by omega)
    have := ih (x / 256)
    rw [swapFrom, Nat.pow_succ]
    omega

/-- Byte k of x is byte n - 1 - k of its reversal. -/
theorem swapFrom_byte (n x k : Nat) (hk : k < n) :
    swapFrom n x / 256 ^ (n - 1 - k) % 256 = x / 256 ^ k % 256 := by
  induction n generalizing x k with
  | zero => omega
  | succ n ih =>
    have hlt := swapFrom_lt n (x / 256)
    rw [swapFrom]
    cases k with
    | zero => 
      rw [Nat.add_sub_cancel, Nat.sub_zero, Nat.mul_comm, Nat.mul_add_div (by positivity), Nat.div_eq_of_lt hlt]
      simp
    | succ k =>
      obtain ⟨j, rfl⟩ : ∃ j, n = k + 1 + j := ⟨n - (k + 1), by omega⟩
      have := ih (x / 256) k (by omega)
      rw [show k + 1 + j - 1 - k = j by omega] at this
      rw [show k + 1 + j + 1 - 1 - (k + 1) = j by omega, Nat.pow_succ', ← Nat.div_div_eq_div_mul, ← this,
        show 256 ^ (k + 1 + j) = 256 ^ j * (256 * 256 ^ k) by rw [← Nat.pow_succ', ← Nat.pow_add]; congr 1; omega,
        Nat.mul_left_comm, Nat.mul_add_div (by positivity), Nat.mul_left_comm, Nat.mul_add_mod]

theorem extractLsb'_byte_toNat (v : Word) (k : Nat) : (v.extractLsb' (8 * k) 8).toNat = v.toNat / 256 ^ k % 256 := by
  rw [BitVec.extractLsb'_toNat, Nat.shiftRight_eq_div_pow, Nat.pow_mul]

/-! Bit fields (04 R66). -/

theorem fieldOf_eq_extract (x : Word) (pos w : Nat) : fieldOf x pos w = (x.extractLsb' pos w).toNat := by
  rw [BitVec.extractLsb'_toNat, Nat.shiftRight_eq_div_pow, fieldOf]

theorem signedOf_toNat {w : Nat} (x : BitVec w) (h : 0 < w) : signedOf w x.toNat = x.toInt := by
  obtain ⟨n, rfl⟩ : ∃ n, w = n + 1 := ⟨w - 1, by omega⟩
  have hiff : x.toNat < 2 ^ n ↔ 2 * x.toNat < 2 ^ (n + 1) := by omega
  simp only [signedOf, Nat.mod_eq_of_lt x.isLt, Nat.add_sub_cancel, BitVec.toInt_eq_toNat_cond, hiff]
  push_cast
  rfl

theorem wrap64_signedOf_fieldOf (x : Word) (pos w : Nat) :
    wrap64 (signedOf (w + 1) (fieldOf x pos (w + 1))) = (x.extractLsb' pos (w + 1)).signExtend 64 := by
  rw [fieldOf_eq_extract, signedOf_toNat _ (by omega)]
  rfl

theorem word64_fieldOf (x : Word) (pos w : Nat) : word64 (fieldOf x pos w) = (x.extractLsb' pos w).setWidth 64 := by
  rw [fieldOf_eq_extract, word64, BitVec.ofNat_toNat]

theorem insertField_getLsbD (old x : Word) (pos w k : Nat) (hw : pos + w ≤ 64) (hk : k < 64) :
    (insertField old x pos w).getLsbD k = if pos ≤ k ∧ k < pos + w then x.getLsbD (k - pos) else old.getLsbD k := by
  have hold : old.toNat = 2 ^ pos * (2 ^ w * (old.toNat / 2 ^ pos / 2 ^ w) + fieldOf old pos w) + old.toNat % 2 ^ pos := by
    rw [fieldOf, Nat.div_add_mod, Nat.div_add_mod]
  have hlo : old.toNat % 2 ^ pos < 2 ^ pos := Nat.mod_lt _ (by positivity)
  have hx : x.toNat % 2 ^ w < 2 ^ w := Nat.mod_lt _ (by positivity)
  have hval : old.toNat - fieldOf old pos w * 2 ^ pos + x.toNat % 2 ^ w * 2 ^ pos
      = 2 ^ pos * (2 ^ w * (old.toNat / 2 ^ pos / 2 ^ w) + x.toNat % 2 ^ w) + old.toNat % 2 ^ pos := by
    generalize old.toNat / 2 ^ pos / 2 ^ w = hi at hold
    generalize old.toNat % 2 ^ pos = lo at hold
    rw [hold]
    simp only [Nat.mul_add, Nat.mul_comm _ (2 ^ pos)]
    omega
  rw [insertField, hval, word64, BitVec.getLsbD_ofNat, decide_eq_true hk, Bool.true_and,
    Nat.testBit_two_pow_mul_add _ hlo]
  by_cases hp : k < pos
  · rw [if_pos hp, if_neg (by omega), Nat.testBit_mod_two_pow, decide_eq_true hp, Bool.true_and, BitVec.getLsbD]
  · rw [if_neg hp, Nat.testBit_two_pow_mul_add _ hx]
    by_cases hkw : k < pos + w
    · rw [if_pos (by omega), if_pos (by omega), Nat.testBit_mod_two_pow, decide_eq_true (by omega), Bool.true_and,
        BitVec.getLsbD]
    · rw [if_neg (by omega), if_neg (by omega), Nat.testBit_div_two_pow, Nat.testBit_div_two_pow, BitVec.getLsbD]
      congr 1
      omega

/-- Settles O10: each word writes its row's value, and the value's bits are those of the source. -/
theorem bitWordsAndCopiesComplete : Obligations.BitWordsAndCopiesComplete := by
  refine ⟨fun s i d a => ⟨fun h => ?_, fun h => ?_, fun h => ?_, fun h => ?_, fun h => ?_⟩,
    fun s i d a pos wm1 hw => ⟨fun h => ?_, fun h => ?_, fun h => ?_⟩,
    fun s i d a b c x imm sh => ⟨fun h => ?_, fun h => ?_, fun h => ?_, fun h => ?_, fun h => ?_, fun h => ?_⟩⟩
  · exact ⟨_, (clzVal_spec _).1, State.alu_eq h d (fun i => word64 (clzVal (i.readG a))), (clzVal_spec _).2⟩
  · obtain ⟨hle, hlow, hbit⟩ := ctzFrom_spec 64 (i.readG a).toNat
    exact ⟨_, hle, State.alu_eq h d (fun i => word64 (ctzFrom 64 (i.readG a).toNat)), hlow, hbit⟩
  · refine (State.alu_eq h d (fun i => word64 (popFrom 64 (i.readG a).toNat))).trans ?_
    simp only [popFrom_eq_countP]
    rfl
  · refine ⟨_, State.alu_eq h d (fun i => word64 (revFrom 64 (i.readG a).toNat)), fun k hk => ?_⟩
    rw [word64, BitVec.getLsbD_ofNat, decide_eq_true (by omega), Bool.true_and]
    exact revFrom_testBit 64 _ k hk
  · refine ⟨_, State.alu_eq h d (fun i => word64 (swapFrom 8 (i.readG a).toNat)), fun k hk => BitVec.eq_of_toNat_eq ?_⟩
    have hlt : swapFrom 8 (i.counted.readG a).toNat < 2 ^ 64 := swapFrom_lt 8 _
    rw [extractLsb'_byte_toNat, extractLsb'_byte_toNat, word64, BitVec.toNat_ofNat, Nat.mod_eq_of_lt hlt]
    exact swapFrom_byte 8 _ k hk
  · rw [← wrap64_signedOf_fieldOf]
    exact State.alu_eq h d (fun i => wrap64 (signedOf (wm1.toNat + 1) (fieldOf (i.readG a) pos.toNat (wm1.toNat + 1))))
  · rw [← word64_fieldOf]
    exact State.alu_eq h d (fun i => word64 (fieldOf (i.readG a) pos.toNat (wm1.toNat + 1)))
  · exact ⟨_, State.alu_eq h d (fun i => insertField (i.readG d) (i.readG a) pos.toNat (wm1.toNat + 1)),
      fun k hk => insertField_getLsbD _ _ _ _ k (by omega) hk⟩
  · refine (State.alu_eq h d (fun i => if i.readG c ≠ 0 then i.readG a else i.readG b)).trans ?_
    by_cases hc : i.readG c = 0 <;>
      simp only [Inst.counted_readG, ne_eq, hc, not_true_eq_false, not_false_eq_true, if_true, if_false]
  · exact State.alu_eq h d (fun i => i.readM x)
  · exact State.alu_eq h d (fun i => i.link)
  · exact State.alu_eq h d (fun i => i.readQ x)
  · rw [← simm_eq_immWord]
    exact State.alu_eq h d (fun i => (s.ctx i.ctx).desc.dva + i.readG a + simm imm)
  · refine (State.alu_eq h d (fun i => i.readG a + sllVal (i.readG b) sh.toNat)).trans ?_
    simp only [sllVal_eq, Nat.mod_eq_of_lt sh.isLt]
    rfl

end Sys2Proof.Machine

/-! SUPPORT. Branches, calls and loops (04 R71 to R76). -/

namespace Sys2Proof.Machine

open Sys2Proof

/-! What a word that raises, jumps or ends does on its counted state. -/

@[simp] theorem State.raise_counted (s : State) (i : Inst) (code addr det : Nat) :
    (s.counted i).raise i.counted code addr det = .next (s.faulted i code addr det) := by
  simp only [State.raise, State.faulted, State.counted_curP, State.counted_curS]

@[simp] theorem State.retire_counted (s : State) (i j : Inst) :
    (s.counted i).retire j = .next (s.became i j.advance) := rfl

@[simp] theorem State.jump_counted (s : State) (i j : Inst) (t : Word) (safe : Bool) :
    (s.counted i).jump j t safe = .next (s.became i (if safe then { j with pc := t }.safePoint else { j with pc := t })) :=
  rfl

theorem branchTarget_eq (pc : Word) (imm : BitVec 32) : branchTarget pc imm = pc + 8 * immWord imm := by
  rw [← simm_eq_immWord, BitVec.mul_comm]
  rfl

/-! Branches and calls. -/

/-- What a branch does: a target outside the handler faults, and one inside is taken where the condition holds. -/
theorem State.branch_eq {s : State} {i : Inst} {x : Instr} (h : s.Issues i x) (imm : BitVec 32) (cnd : Inst → Bool) :
    s.branch (uses x) imm cnd =
      if i.inBounds (i.pc + 8 * immWord imm) = true then
        if cnd i.counted then .next (s.became i (if imm.toInt ≤ 0 then
          ({ i.counted with pc := i.pc + 8 * immWord imm }).safePoint else { i.counted with pc := i.pc + 8 * immWord imm }))
        else .next (s.became i i.counted.advance)
      else .next (s.faulted i fBounds (i.pc + 8 * immWord imm).toNat (s.wordAt i)) := by
  rw [State.branch, State.onFit_eq h]
  simp only [branchTarget_eq, Inst.counted_pc, Inst.counted_inBounds, State.counted_wordAt, State.raise_counted,
    State.jump_counted, State.retire_counted, decide_eq_true_eq]
  cases hb : i.inBounds (i.pc + 8 * immWord imm) <;> rfl

/-- A branch row: its word is a branch on the row's condition. -/
def IsBranch (x : GReg → GReg → BitVec 32 → Instr) (c : Word → Word → Bool) : Prop :=
  ∀ a b imm s, exec (x a b imm) s = s.branch (uses (x a b imm)) imm (fun i => c (i.readG a) (i.readG b))

theorem branchRows_isBranch : ∀ r ∈ branchRows, IsBranch r.1 r.2 := by
  simp only [branchRows, List.forall_mem_cons, List.not_mem_nil, false_imp_iff, implies_true, and_true]
  exact ⟨fun _ _ _ _ => rfl, fun _ _ _ _ => rfl, fun _ _ _ _ => rfl, fun _ _ _ _ => rfl, fun _ _ _ _ => rfl,
    fun _ _ _ _ => rfl, fun _ _ _ _ => rfl⟩

/-- What a call, a jump to a register or a return does at its target. -/
theorem State.transfer_eq {s : State} {i : Inst} {x : Instr} (h : s.Issues i x) (target : Inst → Word) (f : Inst → Inst) :
    s.transfer (uses x) target f =
      if i.inBounds (target i.counted) = true then .next (s.became i { f i.counted with pc := target i.counted })
      else .next (s.faulted i fBounds (target i.counted).toNat (s.wordAt i)) := by
  rw [State.transfer, State.onFit_eq h]
  simp only [Inst.counted_inBounds, State.counted_wordAt, State.raise_counted, State.jump_counted]
  cases hb : i.inBounds (target i.counted) <;> rfl

/-- Settles O13: each row is a branch on its condition, and JAL, JR and RET are one transfer to three targets. -/
theorem branchesAndCallsComplete : Obligations.BranchesAndCallsComplete := by
  refine ⟨?_, ?_⟩
  · rintro r hr s i a b imm target rfl h
    rw [branchRows_isBranch r hr, State.branch_eq h]
    refine ⟨fun hb hc => ?_, fun hb hc => ?_, fun hb => ?_⟩
    · rw [if_pos hb, if_pos (by simpa using hc)]
    · rw [if_pos hb, if_neg (by simp [hc])]
    · rw [if_neg (Bool.not_eq_true _ ▸ hb)]
  · rintro s i a imm x target link (⟨rfl, rfl, rfl⟩ | ⟨rfl, rfl, rfl⟩ | ⟨rfl, rfl, rfl⟩) h
    · have hx : exec (.jal imm) s = _ :=
        State.transfer_eq h (fun i => branchTarget i.pc imm) (fun i => { i with link := i.pc + 8 })
      simp only [branchTarget_eq] at hx
      exact ⟨fun hb => hx.trans (if_pos hb), fun hb => hx.trans (if_neg (Bool.not_eq_true _ ▸ hb))⟩
    · have hx : exec (.jr a) s = _ := State.transfer_eq h (fun i => i.readG a) id
      exact ⟨fun hb => hx.trans (if_pos hb), fun hb => hx.trans (if_neg (Bool.not_eq_true _ ▸ hb))⟩
    · have hx : exec .ret s = _ := State.transfer_eq h (fun i => i.link) id
      exact ⟨fun hb => hx.trans (if_pos hb), fun hb => hx.trans (if_neg (Bool.not_eq_true _ ▸ hb))⟩

/-! Loops. -/

theorem Inst.endsLoop_count (i : Inst) (r : GReg) :
    ((i.readG r).extractLsb' 0 23).toNat = bitsOf (i.readG r).toNat 22 0 := by
  simp [bitsOf]

/-- A loop level that the word does not end stays as it is. -/
theorem loopCheck_other (i : Inst) (level : Nat) (h : i.endsLoop (BitVec.ofNat 6 (1 + level)) = false) :
    loopCheck i level (i.index i.pc) = (i, none) := by
  have h' := mt (i.endsLoop_iff _).2 (Bool.not_eq_true _ ▸ h)
  simp only [loopCheck, if_neg h']

/-- A loop level whose body the word ends with more than one iteration left goes back to its first word. -/
theorem loopCheck_back (i : Inst) (level : Nat) (r : GReg) (hr : r = BitVec.ofNat 6 (1 + level))
    (h : i.endsLoop r = true) (hn : 1 < ((i.readG r).extractLsb' 0 23).toNat) :
    loopCheck i level (i.index i.pc) = (i.writeG r (i.readG r - 1),
      some (i.hbase + 8 * (((i.readG r).extractLsb' 43 20).setWidth 64))) := by
  subst hr
  have h' := (i.endsLoop_iff _).1 h
  rw [Inst.endsLoop_count] at hn
  simp only [loopCheck, if_pos h', if_pos hn]
  have hx : 1 ≤ (i.readG (BitVec.ofNat 6 (1 + level))).toNat := by
    have := Nat.mod_le (i.readG (BitVec.ofNat 6 (1 + level))).toNat (2 ^ 23)
    simp only [bitsOf, Nat.pow_zero, Nat.div_one] at hn
    omega
  have hback : word64 (8 * bitsOf (i.readG (BitVec.ofNat 6 (1 + level))).toNat 62 43)
      = 8 * ((i.readG (BitVec.ofNat 6 (1 + level))).extractLsb' 43 20).setWidth 64 := by
    rw [word64, BitVec.ofNat_mul, bitsOf, ← Nat.shiftRight_eq_div_pow, ← BitVec.ofNat_toNat, BitVec.extractLsb'_toNat]
    rfl
  have hless : word64 ((i.readG (BitVec.ofNat 6 (1 + level))).toNat - 1) = i.readG (BitVec.ofNat 6 (1 + level)) - 1 := by
    rw [word64, ← BitVec.ofNat_sub_ofNat_of_le _ _ (by decide) hx, BitVec.ofNat_toNat, BitVec.setWidth_eq]
    rfl
  rw [hback, hless]

/-- A loop level whose body the word ends with its last iteration is done. -/
theorem loopCheck_done (i : Inst) (level : Nat) (r : GReg) (hr : r = BitVec.ofNat 6 (1 + level))
    (h : i.endsLoop r = true) (hn : ((i.readG r).extractLsb' 0 23).toNat ≤ 1) :
    loopCheck i level (i.index i.pc) = (i.writeG r 0, none) := by
  subst hr
  have h' := (i.endsLoop_iff _).1 h
  rw [Inst.endsLoop_count] at hn
  simp only [loopCheck, if_pos h', if_neg (Nat.not_lt.2 hn)]

/-- A register that is written is waited for no more (01 R12). -/
theorem Inst.writeG_loopPending (i : Inst) (r : GReg) (x : Word) (h : i.loopPending = false) :
    (i.writeG r x).loopPending = false := by
  have hp : (i.writeG r x).pend = (i.supersede (.g r)).pend ∧ (i.writeG r x).vpend = (i.supersede (.g r)).vpend := by
    unfold Inst.writeG Inst.setG
    split <;> exact ⟨rfl, rfl⟩
  simp only [Inst.loopPending, Bool.or_eq_false_iff, List.any_eq_false] at h ⊢
  rw [hp.1, hp.2]
  simp only [Inst.supersede, List.mem_map, forall_exists_index, and_imp, forall_apply_eq_imp_iff₂]
  refine ⟨fun e he => ?_, fun e he => ?_⟩
  · have := h.1 e he
    split <;> simp_all
  · have := h.2 e he
    cases hg : e.gw with
    | none => simp_all
    | some w => obtain ⟨r', y⟩ := w; by_cases hr : r = r' <;> simp_all

/-- The word index of the issuing word is no part of a register. -/
theorem Inst.writeG_index (i : Inst) (r : GReg) (x : Word) : (i.writeG r x).index (i.writeG r x).pc = i.index i.pc := by
  rw [Inst.index, Inst.writeG_pc, (i.writeG_keeps r x).hbase]; rfl

theorem Inst.writeG_endsLoop_same (i : Inst) (r : GReg) : (i.writeG r 0).endsLoop r = false := by
  have h0 : (i.writeG r 0).readG r = 0 := by
    by_cases h : r = 0
    · subst h; rfl
    · rw [Inst.readG_writeG, if_pos ⟨rfl, h⟩]
  rw [Inst.endsLoop, h0]
  rfl

/-- Settles O14: LOOP's checks in their order, and the two levels of the loop check in theirs. -/
theorem loopCompletes : Obligations.LoopCompletes := by
  refine ⟨?_, fun i h => by rw [Inst.advance, if_pos h], fun i h => ⟨fun h2 h1 => ?_, fun r hr hends hn => ?_,
    fun h2 h1 hn => ?_, fun h2 hn => ?_⟩⟩
  · rintro s i a level imm r target rfl rfl h
    rw [show exec (.loop a level imm) s = execLoop a level imm s from rfl, execLoop, State.onFit_eq h]
    simp only [branchTarget_eq, Inst.counted_pc, Inst.counted_inBounds, Inst.counted_readG, Inst.counted_hdr,
      State.counted_wordAt, State.raise_counted, State.jump_counted]
    refine ⟨fun hlive => if_pos hlive, fun hlive hb => ?_, fun hlive hb hpc => ?_⟩
    · rw [if_neg (by omega), if_pos (by simpa using hb)]
      rfl
    · rw [if_neg (by omega), if_neg (by simpa only [hb, Bool.not_true, Bool.false_or, decide_eq_true_eq, not_lt] using hpc)]
      refine ⟨fun hn => if_pos hn, fun hn => ?_, fun hn hle => ?_⟩
      · rw [if_neg (by simp [hn]), if_pos (by simp [hn])]
        rfl
      · rw [if_neg (by omega), if_neg (by omega)]
        rfl
  all_goals rw [Inst.advance, if_neg (by simp [h]), Inst.boundary]
  · rw [loopCheck_other i 1 h2]
    simp only [loopCheck_other i 0 h1]
  · obtain rfl | ⟨rfl, h2⟩ := hr
    · rw [loopCheck_back i 1 2 rfl hends hn]
    · rw [loopCheck_other i 1 h2]
      simp only [loopCheck_back i 0 1 rfl hends hn]
  · rw [loopCheck_other i 1 h2]
    simp only [loopCheck_done i 0 1 rfl h1 hn]
  · rw [loopCheck_done i 1 2 rfl h2 hn, Inst.advance, if_neg (Bool.not_eq_true _ ▸ i.writeG_loopPending 2 0 h), Inst.boundary,
      loopCheck_other (i.writeG 2 0) 1 (i.writeG_endsLoop_same 2), Inst.writeG_index, Inst.writeG_pc]

end Sys2Proof.Machine

/-! SUPPORT. An issue cycle: the footprint check that every word makes first, and the fetch of the selected slot's word. -/

namespace Sys2Proof.Machine

open Sys2Proof

/-! Every word looks at its footprint first (01 R13). -/

/-- What a word answers is told from the check of its registers `u` on. -/
def FitsFirst (s : State) (u : Uses) (o : Out1) : Prop := ∃ f, o = s.onFit u f

theorem fitsFirst_vec (s : State) (u : Uses) (f : Inst → State → Check VPend) : FitsFirst s u (s.vec u f) := ⟨_, rfl⟩
theorem fitsFirst_onDesc (s : State) (u : Uses) (a : XReg) (ok : Inst → State → Nat → Bool)
    (f : Inst → State → Nat → Out1) : FitsFirst s u (s.onDesc u a ok f) := ⟨_, rfl⟩
theorem fitsFirst_alu (s : State) (u : Uses) (d : GReg) (f : Inst → Word) : FitsFirst s u (s.alu u d f) := ⟨_, rfl⟩
theorem fitsFirst_aluSat (s : State) (u : Uses) (d : GReg) (f : Inst → Int) :
    FitsFirst s u (s.aluSat u d f) := ⟨_, rfl⟩
theorem fitsFirst_branch (s : State) (u : Uses) (imm : BitVec 32) (cnd : Inst → Bool) :
    FitsFirst s u (s.branch u imm cnd) := ⟨_, rfl⟩
theorem fitsFirst_transfer (s : State) (u : Uses) (target : Inst → Word) (f : Inst → Inst) :
    FitsFirst s u (s.transfer u target f) := ⟨_, rfl⟩
theorem fitsFirst_load (s : State) (u : Uses) (dst : Dest) (ret : Bool) (a : GReg) (imm : BitVec 32) (n : Nat)
    (sx : Option Nat) (ord : Option Scope) : FitsFirst s u (s.load u dst ret a imm n sx ord) := ⟨_, rfl⟩
theorem fitsFirst_store (s : State) (u : Uses) (a : GReg) (imm : BitVec 32) (n : Nat)
    (data : Inst → List Byte) (ord : Option Scope) : FitsFirst s u (s.store u a imm n data ord) := ⟨_, rfl⟩
theorem fitsFirst_atomic (s : State) (u : Uses) (op : MemOp) (d a b : GReg) (n : Nat) (ord : Option Scope)
    (imm : BitVec 32) (refused : Bool) : FitsFirst s u (s.atomic u op d a b n ord imm refused) := ⟨_, rfl⟩
theorem fitsFirst_msgld (s : State) (u : Uses) (d a : GReg) (imm : BitVec 32) (n : Nat) :
    FitsFirst s u (s.msgld u d a imm n) := ⟨_, rfl⟩
theorem fitsFirst_ringOp (s : State) (u : Uses) (d : GReg) (a : XReg) (op : Inst → RingOp) :
    FitsFirst s u (s.ringOp u d a op) := ⟨_, rfl⟩
theorem fitsFirst_weirOp (s : State) (u : Uses) (d a : GReg) (want : Word) (f : Weir → Word × Weir) :
    FitsFirst s u (s.weirOp u d a want f) := ⟨_, rfl⟩
theorem fitsFirst_vArith (s : State) (u : Uses) (op : VOp) (d a b : VReg) (m : VMask) (f : Fmt) (r : Rnd) :
    FitsFirst s u (s.vArith u op d a b m f r) := fitsFirst_vec ..
theorem fitsFirst_vLogic (s : State) (u : Uses) (fn : VWord → VWord → VWord) (d a b : VReg) (m : VMask) :
    FitsFirst s u (s.vLogic u fn d a b m) := fitsFirst_vec ..
theorem fitsFirst_vShift (s : State) (u : Uses) (fn : Fmt → Nat → Nat → Nat) (d a b : VReg) (m : VMask) (f : Fmt) :
    FitsFirst s u (s.vShift u fn d a b m f) := fitsFirst_vec ..
theorem fitsFirst_vFused (s : State) (u : Uses) (np nz : Bool) (d a b c : VReg) (m : VMask) (f : Fmt) (r : Rnd) :
    FitsFirst s u (s.vFused u np nz d a b c m f r) := fitsFirst_vec ..
theorem fitsFirst_vCompare (s : State) (u : Uses) (op : VCmp) (d : KReg) (a b : VReg) (m : VMask) (f : Fmt) :
    FitsFirst s u (s.vCompare u op d a b m f) := fitsFirst_vec ..
theorem fitsFirst_vShuffle (s : State) (u : Uses) (d : VReg) (m : VMask) (f : Fmt) (fn : Inst → Nat → Nat) :
    FitsFirst s u (s.vShuffle u d m f fn) := fitsFirst_vec ..
theorem fitsFirst_vReduce (s : State) (u : Uses) (op : VRed) (d a : VReg) (m : VMask) (f : Fmt) (r : Rnd) :
    FitsFirst s u (s.vReduce u op d a m f r) := fitsFirst_vec ..
theorem fitsFirst_vScan (s : State) (u : Uses) (op : VRed) (d a : VReg) (m : VMask) (f : Fmt) (r : Rnd) :
    FitsFirst s u (s.vScan u op d a m f r) := fitsFirst_vec ..
theorem fitsFirst_vTrans (s : State) (u : Uses) (fn : Trans9) (d a : VReg) (m : VMask) (f : Fmt) (sat : Bool) :
    FitsFirst s u (s.vTrans u fn d a m f sat) := fitsFirst_vec ..
theorem fitsFirst_kOp (s : State) (u : Uses) (d : KReg) (f : Inst → KWord) :
    FitsFirst s u (s.kOp u d f) := fitsFirst_vec ..
theorem fitsFirst_opa (s : State) (u : Uses) (fn : Nat) (d : GReg) (a : XReg) :
    FitsFirst s u (s.opa u fn d a) := fitsFirst_onDesc ..
theorem fitsFirst_gatherIssue (s : State) (u : Uses) (scatter : Bool) (d : GReg) (a b : XReg) :
    FitsFirst s u (s.gatherIssue u scatter d a b) := fitsFirst_onDesc ..

/-- Every instruction that a word makes checks its registers against the footprint first. -/
theorem exec_fitsFirst (x : Instr) (s : State) (h : x.isWord = true) : FitsFirst s (uses x) (exec x s) := by
  delta exec
  cases x with
  | add | sub | mul | mulh | mulhn | div | divn | rem | remn | and | or | xor | andn | sll | srl | sra | rol | ror
  | min | max | minn | maxn | cmpeq | cmpne | cmplt | cmple | cmpltn | cmplen | sel | clz | ctz | popc | brev
  | bswap | bext | bextz | bins | crcc8 | crcc16 | crcc32 | crcc64 | rng | rngf | addi | andi | ori | xori | slli
  | srli | srai | muli | cmpeqi | cmplti | cmpltni | mini | maxi | li | lih | mfm | mfl | mfq | la | idx => exact fitsFirst_alu ..
  | adds | subs => exact fitsFirst_aluSat ..
  | br | beq | bne | blt | bge | bltn | bgen => exact fitsFirst_branch ..
  | jal | jr | ret => exact fitsFirst_transfer ..
  | loop | chunk | endI | yieldI | trap | bkpt | trmark | srd | swr | sw1c | cntrd | get | put | fence | xfence
  | drain | barrive | watchRegister | watchCancel | send | reply | sendm | post | tagnew | tagfree | tagpark | arm
  | qwait | wput | jrec | jemit | jckpt | jtruncCheckpoint | jtruncClose => exact ⟨_, rfl⟩
  | ld8 | ld16 | ld32 | ld64 | ldz8 | ldz16 | ldz32 | vld | dld => exact fitsFirst_load ..
  | st8 | st16 | st32 | st64 | vst => exact fitsFirst_store ..
  | aadd | afadd | amin | amax | aminn | amaxn | aand | aor | axor | aswap | acas | aclaim => exact fitsFirst_atomic ..
  | msgld8 | msgld16 | msgld32 | msgld64 => exact fitsFirst_msgld ..
  | qpush | qpop | qadv => exact fitsFirst_ringOp ..
  | wtakeFirst | wtakeStatus | wtakeEmpty => exact fitsFirst_weirOp ..
  | vadd | vsub | vmul | vdiv | vmin | vmax | vabs | vneg | vsqrt => exact fitsFirst_vArith ..
  | vand | vor | vxor => exact fitsFirst_vLogic ..
  | vsll | vsrl | vsra => exact fitsFirst_vShift ..
  | vfma | vfms | vfnma | vfnms => exact fitsFirst_vFused ..
  | vcmpeq | vcmpne | vcmplt | vcmple | vcmpun => exact fitsFirst_vCompare ..
  | vsel | vins | vext | vcvt | quant | dequant | dequantChannel | vpacknz | vtopk | vargmax | krd | kpopc => exact fitsFirst_vec ..
  | vperm | vbcast | vslide | vzip | vunzip => exact fitsFirst_vShuffle ..
  | vredadd | vredmin | vredmax => exact fitsFirst_vReduce ..
  | vscanadd | vscanmin | vscanmax => exact fitsFirst_vScan ..
  | vexp2 | vlog2 | vrcp | vrsqrt | vsin | vcos | vtanh | vsigm | vexp => exact fitsFirst_vTrans ..
  | kand | kor | kxor | knot | kmov => exact fitsFirst_kOp ..
  | opaMma | opaSel | opaSparse | opaZero | opaDrain => exact fitsFirst_opa ..
  | wbload | wbevict | wbpin | wbunpin | cplin | cp2d | cpten | eresume | estat | spload | spseed => exact fitsFirst_onDesc ..
  | gather | scatter => exact fitsFirst_gatherIssue ..
  | _ => cases h

/-- A word that names a register beyond the footprint raises that fault. -/
theorem exec_misfit {s : State} {i : Inst} {x : Instr} (hx : x.isWord = true) (h : s.Issuing i)
    (hf : i.hdr.fits (uses x) = false) : exec x s = .next (s.faulted i fFootprint 0 (s.wordAt i)) := by
  obtain ⟨f, hf'⟩ := exec_fitsFirst x s hx
  rw [hf', State.onFit_misfit h hf, State.counted_wordAt, State.raise_counted]
  rfl

/-! The fetch. -/

theorem State.inst?_lt {s : State} {p sl : Nat} {i : Inst} (h : s.inst? p sl = some i) : sl < 8 := by
  by_contra hn
  rw [State.inst?, Core.inst?, Vector.getElem?_eq_none (by omega)] at h
  cases h

/-- Beginning to issue touches neither memory nor the instance's pc. -/
theorem State.fetch_begin (s : State) (p sl : Nat) (i : Inst) (c : Core) : (s.begin p sl i).fetch (i.begun c) = s.fetch i := rfl

theorem State.begin_issuing {s : State} {p sl : Nat} {i : Inst} (h : s.inst? p sl = some i) :
    (s.begin p sl i).Issuing (i.begun (s.core p)) := by
  have hb : (s.begin p sl i).inst? p sl
      = (((s.setCore p { s.core p with lastSlot := sl }).signal 2 (quadOf p)).setInst p sl
        (some (i.begun (s.core p)))).inst? p sl := rfl
  rw [State.Issuing]
  refine hb.trans ?_
  rw [State.inst?_setInst _ _ _ _ _ _ (State.inst?_lt h), if_pos ⟨rfl, rfl⟩]

/-- An issue cycle of a module with power is the selected slot's word, fetched on the state in which it issues. -/
theorem step_issue {s u : State} {dt p sl : Nat} {rest : List Turn} {i : Inst} (ha : s.agenda = ⟨dt, .issue p⟩ :: rest)
    (hu : u = ({ s with agenda := rest }).pass dt) (hp : u.power = .on) (hsl : u.selectSlot p = some sl)
    (hi : u.inst? p sl = some i) : step s = (u.begin p sl i).issueWord (i.begun (u.core p)) := by
  have hon : u.power.allowsMove (.issue p) = true := by rw [hp]; rfl
  have hi' : (u.core p).inst? sl = some i := hi
  rw [step, ha]
  simp only [State.turn, ← hu, hon, if_true, State.move, State.issueCore, hsl, hi']

/-- A fetch within the handler, by what stands there. -/
theorem State.fetch_inBounds {s : State} {i : Inst} (hb : i.inBounds i.pc = true) (hpo : s.poisonAt i.pc.toNat 8 = none) :
    s.fetch i = match decode (word64 (s.readLe i.pc.toNat 8)) with
      | .error e => .bad e
      | .ok x => .ok x := by
  simp only [State.fetch, hb, hpo, State.wordAt, Bool.not_true, Bool.false_eq_true, if_false] <;> rfl

@[simp] theorem State.countVec_mem (s : State) (p : Nat) (i : Inst) : (s.countVec p i).mem = s.mem :=
  State.foldl_mem _ (fun s e => by split <;> simp) _ s

@[simp] theorem State.unhold_mem (s : State) (i : Inst) : (s.unhold i).mem = s.mem := by
  unfold State.unhold; split <;> rfl

@[simp] theorem State.endInst_mem (s : State) (p sl : Nat) (i : Inst) : (s.endInst p sl i).mem = s.mem := by
  simp [State.endInst, State.gleanEnd]

@[simp] theorem State.raiseAt_mem (s : State) (p sl : Nat) (i : Inst) (code addr det : Nat) :
    (s.raiseAt p sl i code addr det).mem = s.mem := by
  simp [State.raiseAt]

@[simp] theorem Inst.begun_bad (i : Inst) (c : Core) : (i.begun c).bad = i.bad := rfl
@[simp] theorem resolve_begun (i : Inst) (c : Core) (x : Instr) : resolve (i.begun c) x = resolve i x := rfl

/-- Settles O5: the selected slot's fetch gives a fault or the decoded word, and every word checks its footprint first. -/
theorem stepRunsDecodedWord : Obligations.StepRunsDecodedWord := by
  refine ⟨fun s u dt p sl rest i ha hu hp hsl hi => ?_, fun s i x hx h hf => exec_misfit hx h hf⟩
  have hissue := State.begin_issuing hi
  simp only [step_issue ha hu hp hsl hi, State.issueWord, State.fetch_begin]
  refine ⟨fun hb => ?_, fun b hb hpo => ?_, fun e hb hpo hd => ?_, fun x hb hpo hd => ?_⟩
  · simp only [State.fetch, hb]
    rfl
  · simp only [State.fetch, hb, hpo]
    rfl
  · rw [State.fetch_inBounds hb hpo, hd]
    cases e <;> simp only [State.onInst_eq hissue, State.counted_wordAt, State.raise_counted] <;> rfl
  · simp only [State.fetch_inBounds hb hpo, hd, State.issueDecoded, Inst.begun_bad, resolve_begun]
    refine ⟨fun hbad => ?_, fun ⟨r, hr, hread⟩ => ?_, fun hbad hnone => ?_⟩
    · simp only [hbad, List.isEmpty_nil, if_true]
    · have hne : i.bad.isEmpty = false := List.isEmpty_eq_false_iff.2 (List.ne_nil_of_mem hr)
      have hany : i.bad.any (RegName.readBy (resolve i x)) = true := List.any_eq_true.2 ⟨r, hr, hread⟩
      simp only [hne, hany, Bool.false_eq_true, if_false, if_true, State.onInst_eq hissue, State.raise_counted]
      refine ⟨_, rfl, State.endInst_inst? _ _ _ _ (State.inst?_lt hi), ?_⟩
      rw [State.faulted, State.raiseAt_mem, State.counted_mem]
      rfl
    · have hne : i.bad.isEmpty = false := List.isEmpty_eq_false_iff.2 hbad
      have hany : i.bad.any (RegName.readBy (resolve i x)) = false :=
        List.any_eq_false.2 fun r hr => by simp [hnone r hr]
      simp only [hne, hany, Bool.false_eq_true, if_false]

end Sys2Proof.Machine

/-! SUPPORT. Which slot issues, END, and the safe points that a core forces (01 R17 to R19, 04 R80). -/

namespace Sys2Proof.Machine

open Sys2Proof

/-! The slot that issues (01 R19). -/

/-- The test of a slot in the search for the one that issues. -/
def State.slotReadyB (s : State) (p sl : Nat) : Bool :=
  match (s.core p).inst? sl with
  | some i => s.ready p i
  | none => false

theorem State.slotReadyB_iff (s : State) (p sl : Nat) : s.slotReadyB p sl = true ↔ s.slotReady p sl := by
  unfold State.slotReadyB State.slotReady State.inst?
  cases h : (s.core p).inst? sl <;> simp

theorem State.selectSlot_eq (s : State) (p : Nat) : s.selectSlot p =
    ((List.range 8).find? (fun k => s.slotReadyB p (((s.core p).lastSlot + 1 + k) % 8))).map
      (fun k => ((s.core p).lastSlot + 1 + k) % 8) := by
  unfold State.selectSlot
  rw [List.find?_map]
  rfl

theorem State.selectSlot_eq_some (s : State) (p sl : Nat) : s.selectSlot p = some sl ↔
    ∃ k < 8, sl = ((s.core p).lastSlot + 1 + k) % 8 ∧ s.slotReady p sl
      ∧ ∀ j < k, ¬ s.slotReady p (((s.core p).lastSlot + 1 + j) % 8) := by
  simp only [State.selectSlot_eq, Option.map_eq_some_iff, List.find?_range_eq_some, ← State.slotReadyB_iff, List.mem_range]
  constructor
  · rintro ⟨k, ⟨hk, hlt, hno⟩, rfl⟩
    exact ⟨k, hlt, rfl, hk, fun j hj => by simpa using hno j hj⟩
  · rintro ⟨k, hlt, rfl, hk, hno⟩
    exact ⟨k, ⟨hk, hlt, fun j hj => by simpa using hno j hj⟩, rfl⟩

theorem State.selectSlot_eq_none (s : State) (p : Nat) : s.selectSlot p = none ↔ ∀ sl < 8, ¬ s.slotReady p sl := by
  simp only [State.selectSlot_eq, Option.map_eq_none_iff, List.find?_range_eq_none, ← State.slotReadyB_iff]
  constructor
  · intro h sl hsl
    have hk := h ((sl + 7 - (s.core p).lastSlot % 8) % 8) (by omega)
    rw [show ((s.core p).lastSlot + 1 + (sl + 7 - (s.core p).lastSlot % 8) % 8) % 8 = sl by omega] at hk
    simpa using hk
  · intro h k hk
    simpa using h (((s.core p).lastSlot + 1 + k) % 8) (by omega)

/-! Readiness (01 Table 01-5). -/

/-- The conditions of a ready slot on the instance, and those on its next word. -/
theorem State.ready_iff (s : State) (p : Nat) (i : Inst) : s.ready p i = true ↔
    (∀ n, i.stopped ≠ .halted n) ∧ i.waitOn = none ∧ i.pageWait = [] ∧ i.edge = false ∧ i.budgetDue = false
    ∧ i.forcedDue = false ∧ i.fenceOn.any (s.core p).blocks = false ∧ i.drainOn.any (s.core p).outstanding = false
    ∧ s.drains p i = false ∧ ∀ x, s.fetch i = .ok x → s.wordReady p i x = true := by
  unfold State.ready
  cases i.stopped <;> cases s.fetch i <;> simp [and_assoc]

/-- The conditions of a ready slot on the word that would issue. -/
theorem State.wordReady_iff (s : State) (p : Nat) (i : Inst) (x : Instr) : s.wordReady p i x = true ↔
    (∀ e ∈ i.pend, e.blocks (uses x) = false) ∧ (∀ e ∈ i.vpend, e.blocks (uses x) = false)
    ∧ ((uses x).mem && i.acquireOn.any (s.core p).outstanding) = false ∧ (returning x && i.returningFull) = false
    ∧ (s.core p).readsSettled i (overwrites x) (readsAtIssue i x) = true ∧ s.taken p x = true
    ∧ (journal x && i.pend.any (fun e => i.hubOn.contains e.id)) = false ∧ (s.mayPark i x && !i.settled) = false
    ∧ (match x with
        | .cplin .. | .cp2d .. | .cpten .. => (s.core p).copyStop.isSome || decide ((s.core p).copyQ.length < 2)
        | .srd _ n => n != 0 || i.vpend.isEmpty
        | .sw1c .. => i.vpend.isEmpty
        | _ => true) = true := by
  unfold State.wordReady
  simp only [Bool.and_eq_true, Bool.not_eq_true', List.any_eq_false, Bool.not_eq_true, and_assoc] <;>
    rfl

/-- A result that does not block a word is in none of the registers that the word reads. -/
theorem Pend.unread_of_not_blocks {e : Pend} {u : Uses} (h : e.blocks u = false) :
    (∀ r, e.dst = .g r → e.live = true → r ∉ u.gr) ∧ (∀ r, e.dst = .v r → e.live = true → r ∉ u.vr)
    ∧ (∀ r, e.dst = .d r → e.live = true → r ∉ u.dr)
    ∧ (∀ r q, e.dst = .ring r q → q ∉ u.qr ∧ (e.live = true → r ≠ 0 → r ∉ u.gr)) := by
  unfold Pend.blocks at h
  refine ⟨fun r hd hl => ?_, fun r hd hl => ?_, fun r hd hl => ?_, fun r q hd => ⟨?_, fun hl hr => ?_⟩⟩ <;>
    rw [hd] at h <;> simp_all

/-- A vector word that does not block a word writes none of the registers that it reads. -/
theorem VPend.unread_of_not_blocks {e : VPend} {u : Uses} (h : e.blocks u = false) :
    (∀ w ∈ e.vw, w.1 ∉ u.vr ∧ w.1 ∉ u.vw) ∧ (∀ k w, e.kw = some (k, w) → k ≠ 0 → k ∉ u.kr)
    ∧ (∀ g w, e.gw = some (g, w) → e.glive = true → g ∉ u.gr) := by
  unfold VPend.blocks at h
  simp only [Bool.or_eq_false_iff, List.any_eq_false] at h
  obtain ⟨⟨hv, hk⟩, hg⟩ := h
  refine ⟨fun w hw => by simpa using hv w hw, fun k w hd hne => ?_, fun g w hd hl => ?_⟩
  · rw [hd] at hk; simp_all
  · rw [hd] at hg; simp_all

/-- A slot whose instance waits for nothing is ready, whatever its next word is. -/
theorem State.ready_of_idle {s : State} {p : Nat} {i : Inst} (h : i.Idle) (hbudget : i.budgetDue = false)
    (hops : ∀ o ∈ (s.core p).ops, o.iid ≠ i.iid) (hcopy : (s.core p).copyQ.length < 2)
    (hspring : ∀ q ∈ (s.quad (quadOf p)).springReqs, q.p ≠ p) : s.ready p i = true := by
  obtain ⟨hrun, ⟨hpend, hvpend⟩, ⟨hwait, hpage, hedge⟩, hfence, hdrain, hinto, hacq⟩ := h
  rw [State.ready_iff]
  refine ⟨by simp [hrun], hwait, hpage, hedge, hbudget, by simp [Inst.forcedDue, hrun], by simp [hfence], by simp [hdrain],
    by simp [State.drains, hinto], fun x _ => (State.wordReady_iff s p i x).2 ?_⟩
  have htaken : s.taken p x = true := by
    unfold State.taken
    split
    · simp only [Bool.not_eq_true', List.any_eq_false]
      intro q hq
      simp [hspring q hq]
    · rfl
  have hreads : (s.core p).readsSettled i (overwrites x) (readsAtIssue i x) = true := by
    simp only [Core.readsSettled, List.all_eq_true, Bool.not_eq_true', List.any_eq_false]
    intro r _ o ho
    simp [hops o ho]
  have hfull : i.returningFull = false := by
    simp only [Inst.returningFull, hpend, List.filter_nil, List.length_nil, List.any_nil]
    cases i.fullOn <;> rfl
  refine ⟨by simp [hpend], by simp [hvpend], by simp [hacq], by simp [hfull], hreads, htaken, by simp [hpend],
    by simp [Inst.settled, hpend, hvpend], ?_⟩
  split <;> simp [hcopy, hvpend]

/-! END and forced safe points. -/

@[simp] theorem State.countVec_core (s : State) (p : Nat) (i : Inst) (p' : Nat) : (s.countVec p i).core p' = s.core p' :=
  State.foldl_keeps (fun s => s.core p') _ (fun s e => by split <;> simp) _ s

@[simp] theorem State.unhold_core (s : State) (i : Inst) (p : Nat) : (s.unhold i).core p = s.core p := by
  unfold State.unhold
  split <;> rfl

/-- The core of an instance that ends: its log has the end entered, and its slot is free. -/
theorem State.endInst_core (s : State) (p sl : Nat) (i : Inst) (p' : Nat) : ∃ l : List DLog,
    (s.endInst p sl i).core p' = if p' = p then { s.core p with dlog := l }.setSlot sl none else s.core p' := by
  refine ⟨(s.core p).dlog.map (fun e =>
    if e.ctx = i.ctx && e.inum = i.inum then { e with stop := ((s.countVec p i).unhold i).clock } else e), ?_⟩
  by_cases h : p' = p
  · subst h
    simp [State.endInst, State.gleanEnd, State.setInst]
  · simp [State.endInst, State.gleanEnd, State.setInst, h]

theorem State.endInst_inst?_other (s : State) (p sl : Nat) (i : Inst) (p' sl' : Nat) (hsl : sl < 8) (h : (p', sl') ≠ (p, sl)) :
    (s.endInst p sl i).inst? p' sl' = s.inst? p' sl' := by
  have hne : ¬ (p' = p ∧ sl' = sl) := by simpa [Prod.ext_iff] using h
  rw [State.endInst, State.inst?_setInst _ _ _ _ _ _ hsl, if_neg hne, State.gleanEnd]
  by_cases hp : p' = p <;> simp [State.inst?, Core.inst?, hp]

theorem State.endInst_ops (s : State) (p sl : Nat) (i : Inst) (p' : Nat) :
    ((s.endInst p sl i).core p').ops = (s.core p').ops := by
  obtain ⟨l, hl⟩ := s.endInst_core p sl i p'
  rw [hl]
  split
  · next h => subst h; rfl
  · rfl

theorem State.counted_inst?_other {s : State} {i : Inst} (h : s.Issuing i) (p sl : Nat) (hne : (p, sl) ≠ (s.curP, s.curS)) :
    (s.counted i).inst? p sl = s.inst? p sl := by
  have hne' : ¬ (p = s.curP ∧ sl = s.curS) := by simpa [Prod.ext_iff] using hne
  simp [State.counted, State.setCur, State.inst?_setInst _ _ _ _ _ _ h.slot, hne']

/-- A word that is counted changes its core in the slot alone. -/
theorem State.counted_core (s : State) (i : Inst) (p : Nat) :
    (s.counted i).core p = if p = s.curP then (s.core p).setSlot s.curS (some i.counted) else s.core p := by
  by_cases hp : p = s.curP
  · subst hp; simp [State.counted, State.setCur, State.setInst]
  · simp [State.counted, State.setCur, State.setInst, hp]

@[simp] theorem State.counted_ops (s : State) (i : Inst) (p : Nat) : ((s.counted i).core p).ops = (s.core p).ops := by
  rw [State.counted_core]
  split <;> rfl

/-- A boundary at which the core forces a safe point. -/
theorem Inst.safePoint_eq (i : Inst) : ∃ j, j = i.safePoint ∧ j = { i with sinceSafe := 0, sincePre := 0, stopped := j.stopped }
    ∧ j.stopped = if i.stopped = .pending then .halted 0 else i.stopped := by
  refine ⟨_, rfl, rfl, ?_⟩
  unfold Inst.safePoint
  cases i.stopped <;> simp

/-- Settles O16: the search for a slot is over the eight in order, readiness is a conjunction over Table 01-5, END frees
its slot alone, and a forced boundary is a safe point. -/
theorem endAndForcedSafePoints : Obligations.EndAndForcedSafePoints := by
  refine ⟨⟨State.selectSlot_eq_some, State.selectSlot_eq_none, fun s p i x hready hx => ?_,
    fun s p i h hb ho hc hq => State.ready_of_idle h hb ho hc hq⟩, fun s i h => ?_,
    fun s p sl i hi => ⟨fun hdue => ?_, fun hdue => ?_⟩⟩
  · obtain ⟨hstop, hwait, hpage, -, -, -, -, -, -, hword⟩ := (State.ready_iff s p i).1 hready
    obtain ⟨hpend, hvpend, -, -, -, -, -, -, hcopy⟩ := (State.wordReady_iff s p i x).1 (hword x hx)
    refine ⟨hpage, hwait, hstop, fun e he => Pend.unread_of_not_blocks (hpend e he),
      fun e he => VPend.unread_of_not_blocks (hvpend e he), ?_⟩
    rintro ⟨d, a, b, rfl | rfl | rfl⟩ <;> simpa [Option.isSome_iff_ne_none] using hcopy
  · have hx : exec .endI s = .next ((s.counted i).endInst s.curP s.curS i.counted) := by
      rw [show exec .endI s = execEndI s from rfl, execEndI, State.onFit_eq h]
      simp
    refine ⟨_, hx, State.endInst_inst? _ _ _ _ h.1.slot, fun p sl hne => ?_, fun a => by simp, by simp, fun p => ?_⟩
    · rw [State.endInst_inst?_other _ _ _ _ _ _ h.1.slot hne, State.counted_inst?_other h.1 _ _ hne]
    · rw [State.endInst_ops, State.counted_ops]
  · have hd : i.budgetDue = true := by simpa [Inst.budgetDue] using hdue
    obtain ⟨j, hj, heq, hstop⟩ := i.safePoint_eq
    refine ⟨s.setInst p sl (some j), j, ?_, ?_, rfl, heq, hstop⟩
    · rw [show exec (.budgetSafePoint p sl) s = execBudgetSafePoint p sl s from rfl, execBudgetSafePoint, hi, hj]
      exact if_pos hd
    · simp [State.inst?_setInst _ _ _ _ _ _ (State.inst?_lt hi)]
  · have hd : i.forcedDue = true := by simp [Inst.forcedDue, Config.forcedCount, hdue.1, hdue.2]
    obtain ⟨j, hj, heq, hstop⟩ := i.safePoint_eq
    rw [if_pos hdue.1] at hstop
    refine ⟨s.setInst p sl (some j), j, ?_, ?_, rfl, hstop ▸ heq⟩
    · rw [show exec (.forcedSafePoint p sl) s = execForcedSafePoint p sl s from rfl, execForcedSafePoint, hi, hj]
      exact if_pos hd
    · simp [State.inst?_setInst _ _ _ _ _ _ (State.inst?_lt hi)]

end Sys2Proof.Machine

/-! SUPPORT. What messages, watches and writes leave of cores and contexts. -/

namespace Sys2Proof.Machine

open Sys2Proof

@[simp] theorem State.deliver_cores (s : State) (w : Who) (o : Nat) (m : Msg) (t : Track) (x : Nat × Nat)
    (a b : List Nat) (r : Bool) (e : Option Nat) : (s.deliver w o m t x a b r e).cores = s.cores := by
  unfold State.deliver
  repeat' (first | rfl | split)
@[simp] theorem State.deliver_inst? (s : State) (w : Who) (o : Nat) (m : Msg) (t : Track) (x : Nat × Nat)
    (a b : List Nat) (r : Bool) (e : Option Nat) (p sl : Nat) : (s.deliver w o m t x a b r e).inst? p sl = s.inst? p sl := by
  simp [State.inst?, State.core]
@[simp] theorem State.deliver_ctx (s : State) (w : Who) (o : Nat) (m : Msg) (t : Track) (x : Nat × Nat)
    (a b : List Nat) (r : Bool) (e : Option Nat) (c : Nat) : (s.deliver w o m t x a b r e).ctx c = s.ctx c := by
  simp [State.ctx]
@[simp] theorem State.sendWatch_cores (s : State) (c l p a v n : Nat) (x : Word) :
    (s.sendWatch c l p a v n x).cores = s.cores := by
  simp [State.sendWatch]
@[simp] theorem State.sendPeerWatch_cores (s : State) (c : Nat) (w : PeerWatch) :
    (s.sendPeerWatch c w).cores = s.cores := by
  simp [State.sendPeerWatch]

/-- A write's watches leave the cores, but for their monitor entries. -/
theorem State.fireWatches_cores (s : State) (pa n : Nat) : (s.fireWatches pa n).cores
    = s.cores.map (fun e => (e.1, { e.2 with mons := e.2.mons.filter (fun m => !m.hit pa n) })) := by
  refine (State.foldl_keeps State.cores _ (fun s a => by simp) _ _).trans ?_
  refine (State.foldl_keeps State.cores _ (fun s a => by simp) _ _).trans ?_
  exact State.foldl_keeps State.cores _ (fun s a => by split; split <;> simp) _ _

/-- What of a core does not depend on its monitor entries, a write leaves. -/
theorem State.fireWatches_core {β : Type} (r : Core → β) (hr : ∀ c l, r { c with mons := l } = r c) (s : State) (pa n p : Nat) :
    r ((s.fireWatches pa n).core p) = r (s.core p) := by
  simp only [State.core, State.fireWatches_cores]
  exact Tab.get_map (fun c : Core => { c with mons := c.mons.filter (fun m => !m.hit pa n) }) r (fun c => hr c _) _ _ _

@[simp] theorem State.fireWatches_inst? (s : State) (pa n p sl : Nat) : (s.fireWatches pa n).inst? p sl = s.inst? p sl :=
  State.fireWatches_core (fun c => c.inst? sl) (fun _ _ => rfl) s pa n p

/-- A write's watches leave the contexts, but for the monitor entries of saved ones and of peers. -/
theorem State.fireWatches_ctxs (s : State) (pa n : Nat) : (s.fireWatches pa n).ctxs = s.ctxs.map (fun e => (e.1, { e.2 with
      saved := e.2.saved.map (fun v => { v with mons := v.mons.filter (fun m => !m.2.hit pa n) })
      watchers := e.2.watchers.filter (fun w => !overlap pa n w.pa 8) })) := by
  refine (State.foldl_ctxs _ (fun s a => by simp) _ _).trans ?_
  refine (State.foldl_ctxs _ (fun s a => by simp) _ _).trans ?_
  refine congrArg (List.map _) ?_
  exact State.foldl_ctxs _ (fun s a => by split; split <;> simp) _ _

/-- What of a context does not depend on its monitor entries, a write leaves. -/
theorem State.fireWatches_ctx {β : Type} (r : Ctx → β) (hr : ∀ c v w, r { c with saved := v, watchers := w } = r c)
    (s : State) (pa n k : Nat) : r ((s.fireWatches pa n).ctx k) = r (s.ctx k) := by
  simp only [State.ctx, State.fireWatches_ctxs]
  exact Tab.get_map (fun x : Ctx => { x with
      saved := x.saved.map (fun v => { v with mons := v.mons.filter (fun m => !m.2.hit pa n) })
      watchers := x.watchers.filter (fun w => !overlap pa n w.pa 8) }) r (fun c => hr c _ _) _ _ _

@[simp] theorem State.ownerWrite_inst? (s : State) (pa : Nat) (bs : List Byte) (p sl : Nat) :
    (s.ownerWrite pa bs).inst? p sl = s.inst? p sl := by
  unfold State.ownerWrite
  split
  · rfl
  · rw [State.fireWatches_inst?]; rfl

/-- What of a context does not depend on its monitor entries, a write leaves. -/
theorem State.ownerWrite_ctx {β : Type} (r : Ctx → β) (hr : ∀ c v w, r { c with saved := v, watchers := w } = r c)
    (s : State) (pa k : Nat) (bs : List Byte) : r ((s.ownerWrite pa bs).ctx k) = r (s.ctx k) := by
  unfold State.ownerWrite
  split
  · rfl
  · rw [State.fireWatches_ctx r hr]; rfl

/-- A table after a change of every entry, read through `r`. -/
theorem Tab.get_map_of {α β : Type} (g : α → α) (r : α → β) (h : β → β) (hr : ∀ x, r (g x) = h (r x)) (d : α)
    (hd : h (r d) = r d) (t : Tab α) (k : Nat) : r (Tab.get d (t.map (fun e => (e.1, g e.2))) k) = h (r (Tab.get d t k)) := by
  induction t with
  | nil => exact hd.symm
  | cons e t ih =>
    obtain ⟨n, v⟩ := e
    by_cases hk : n = k <;> simp_all [Tab.get]

/-- The slots of a context's instances, after a change of each of them. -/
theorem State.mapInsts_inst? (s : State) (c : Nat) (f : Inst → Option Inst) (p sl : Nat) : (s.mapInsts c f).inst? p sl =
    (s.inst? p sl).bind (fun i => if i.ctx = c then f i else some i) := by
  refine Tab.get_map_of (fun k : Core => { k with slots := k.slots.map (fun o => match o with
      | some i => if i.ctx = c then f i else some i
      | none => none) }) (fun k => k.inst? sl) (fun o => o.bind (fun i => if i.ctx = c then f i else some i)) ?_ _ ?_ s.cores p
  · intro k
    simp only [Core.inst?, Vector.getElem?_map]
    rcases k.slots[sl]? with _ | _ | i <;> rfl
  · simp only [Core.reset_inst?, Option.bind_none]

@[simp] theorem State.setCtx_inst? (s : State) (c : Nat) (x : Ctx) (p sl : Nat) : (s.setCtx c x).inst? p sl = s.inst? p sl := rfl
@[simp] theorem State.mapInsts_ctx (s : State) (c : Nat) (f : Inst → Option Inst) (k : Nat) : (s.mapInsts c f).ctx k = s.ctx k := rfl
@[simp] theorem State.mapInsts_mem (s : State) (c : Nat) (f : Inst → Option Inst) : (s.mapInsts c f).mem = s.mem := rfl

@[simp] theorem State.ctx_counted_became (s : State) (i j : Inst) (c : Nat) : (s.became i j).ctx c = s.ctx c := by
  simp [State.became, State.setCur]

/-! BKPT and TRMARK (04 R83). -/

/-- A trace record changes no slot (22 R369). -/
@[simp] theorem State.traceWrite_inst? (s : State) (c : Nat) (bs : List Byte) (p sl : Nat) :
    (s.traceWrite c bs).inst? p sl = s.inst? p sl := by
  unfold State.traceWrite
  split
  · rfl
  · simp only [State.ownerWrite_inst?]; rfl

/-- A trace record changes nothing of a context but where the next one goes. -/
theorem State.traceWrite_ctx {β : Type} (r : Ctx → β) (hr : ∀ c v w, r { c with saved := v, watchers := w } = r c)
    (ht : ∀ c v, r { c with trace := v } = r c) (s : State) (c k : Nat) (bs : List Byte) :
    r ((s.traceWrite c bs).ctx k) = r (s.ctx k) := by
  unfold State.traceWrite
  split
  · rfl
  · rw [State.ownerWrite_ctx r hr, State.ownerWrite_ctx r hr, State.ctx_setCtx]
    split
    · next h => subst h; exact ht _ _
    · rfl

/-- The record and the head word are all that a trace record writes (log 21). -/
theorem State.traceWrite_mem {s : State} {c : Nat} {tr : Trace} (bs : List Byte) (h : (s.ctx c).trace = some tr) :
    (s.traceWrite c bs).mem = Memory.write (Memory.write s.mem (tr.base + 64 + 64 * (tr.head % (tr.size / 64 - 1))) bs)
      tr.base (leBytes 8 (tr.head + 1)) := by
  simp only [State.traceWrite, h, State.ownerWrite_mem]
  rfl

/-- A stop of a running context: it is saving, and its instances halt where they stand (16 R287, 22 R370). -/
theorem State.stopCtx_running {s : State} {c : Nat} (lcore : Nat) (src : Nat × Nat) (bs : List Byte)
    (h : (s.ctx c).st = .running) :
    ((s.stopCtx c lcore src bs).ctx c).st = .saving ∧ ((s.stopCtx c lcore src bs).ctx c).halt = .stop
    ∧ ∀ p sl, (s.stopCtx c lcore src bs).inst? p sl
      = (s.inst? p sl).bind (fun i => if i.ctx = c then some (i.halt 6) else some i) := by
  have hrun : ((s.traceWrite c bs).ctx c).st = .running := by
    rw [State.traceWrite_ctx Ctx.st (fun _ _ _ => rfl) (fun _ _ => rfl), h]
  simp only [State.stopCtx, hrun]
  refine ⟨by simp, by simp, fun p sl => ?_⟩
  rw [State.deliver_inst?, State.mapInsts_inst?, State.setCtx_inst?, State.traceWrite_inst?]

/-! Fields of bytes laid out one behind the other. -/

theorem padTo_of_le {n : Nat} {bs : List Byte} (h : bs.length ≤ n) : padTo n bs = bs ++ List.replicate (n - bs.length) 0 :=
  List.take_of_length_le (by simp; omega)

@[simp] theorem padTo_length (n : Nat) (bs : List Byte) : (padTo n bs).length = n := by
  simp [padTo]; omega

theorem sliceBytes_skip {l r : List Byte} {o n : Nat} (h : l.length ≤ o) :
    sliceBytes (l ++ r) o n = sliceBytes r (o - l.length) n := by
  rw [sliceBytes, sliceBytes, List.drop_append, List.drop_eq_nil_of_le h, List.nil_append]

theorem sliceBytes_first {m r : List Byte} {n : Nat} (h : m.length = n) : sliceBytes (m ++ r) 0 n = m := by
  rw [sliceBytes, List.drop_zero, padTo, List.append_assoc, List.take_left' h]

/-- Of a trace record, the bytes that its statement names (log 21). -/
theorem State.slotTrace_fields (s : State) (i : Inst) (ty : Nat) (code : BitVec 16) (v : Word) :
    (s.slotTrace i ty code v).length = 64 ∧ (s.slotTrace i ty code v).head? = some (BitVec.ofNat 8 (ty % 256))
    ∧ ofLe (sliceBytes (s.slotTrace i ty code v) 24 8) = code.toNat
    ∧ ofLe (sliceBytes (s.slotTrace i ty code v) 32 8) = v.toNat := by
  refine ⟨padTo_length _ _, rfl, ?_, ?_⟩
  all_goals
    rw [State.slotTrace, State.traceBytes, padTo_of_le (by simp)]
    simp (disch := simp) only [List.append_assoc, sliceBytes_skip, leBytes_length, List.length_replicate, sliceBytes_first,
      Nat.reduceSub, ofLe_leBytes]
  · have := code.isLt
    simp; omega
  · exact Nat.mod_eq_of_lt v.isLt

/-- Settles O18: a disabled word ends as any word does; BKPT stops the context it runs in, and TRMARK writes its record
and the head word behind it. -/
theorem debugWordsComplete : Obligations.DebugWordsComplete := by
  refine fun s i a code => ⟨fun h hd => ?_, fun h hd => ?_, fun h hd hrun => ?_, fun hm h hd tr htr => ?_⟩
  · rw [show exec (.bkpt a code) s = execBkpt a code s from rfl, execBkpt, State.onFit_eq h]
    simp only [State.counted_ctx, Inst.counted_ctx, hd, Bool.false_eq_true, if_false, State.retire_counted]
  · rw [show exec (.trmark a code) s = execTrmark a code s from rfl, execTrmark, State.onFit_eq h]
    simp only [State.counted_ctx, Inst.counted_ctx, hd, Bool.false_eq_true, if_false, State.retire_counted]
  · have hx : exec (.bkpt a code) s = .next ((s.became i i.counted.advance).stopCtx i.ctx i.lcore (xyOfCore s.curP)
        ((s.counted i).slotTrace i.counted 3 code (i.readG a))) := by
      rw [show exec (.bkpt a code) s = execBkpt a code s from rfl, execBkpt, State.onFit_eq h]
      simp only [State.counted_ctx, Inst.counted_ctx, hd, if_true, State.counted_curP]
      rfl
    obtain ⟨hst, hhalt, hinst⟩ := State.stopCtx_running (s := s.became i i.counted.advance) i.lcore (xyOfCore s.curP)
      ((s.counted i).slotTrace i.counted 3 code (i.readG a)) (by simpa using hrun)
    refine ⟨_, hx, hst, hhalt, i.counted.advance.halt 6, ?_, rfl, 6, rfl⟩
    have hj : (s.became i i.counted.advance).inst? s.curP s.curS = some i.counted.advance := State.became_issuing h.1 _
    have hctx : i.counted.advance.ctx = i.ctx := congrArg (fun n => n.2.1) (Inst.counted_advance_keeps i).name
    rw [hinst, hj, Option.bind_some, if_pos hctx]
  · have hx : exec (.trmark a code) s = .next ((s.became i i.counted.advance).traceWrite i.ctx
        ((s.counted i).slotTrace i.counted 1 code (i.readG a))) := by
      rw [show exec (.trmark a code) s = execTrmark a code s from rfl, execTrmark, State.onFit_eq h]
      simp [hd, State.became]
    obtain ⟨hlen, hty, hcode, hga⟩ := (s.counted i).slotTrace_fields i.counted 1 code (i.readG a)
    have hmem := State.traceWrite_mem (s := s.became i i.counted.advance) (c := i.ctx)
      ((s.counted i).slotTrace i.counted 1 code (i.readG a)) (tr := tr) (by simpa using htr)
    have hm' : Memory.wf (s.became i i.counted.advance).mem = true := by
      simpa [State.became, State.memOk] using hm
    refine ⟨_, _, hx, ?_, hlen, hty, hcode, hga, ?_, fun x hx hx' => ?_⟩
    · rw [State.traceWrite_inst?]
      exact State.became_issuing h.1 _
    · rw [hmem, Memory.read_write_out _ _ _ _ (Memory.wf_write _ _ hm') (by simp; omega)]
      conv_lhs => rw [← hlen]
      exact Memory.read_write _ _ hm'
    · rw [hmem, Memory.readByte_write_out _ _ (Memory.wf_write _ _ hm') (by simp; omega),
        Memory.readByte_write_out _ _ hm' (by omega)]
      simp [State.became]

end Sys2Proof.Machine

/-! SUPPORT. The system registers, the chunk unit and the counters (04 R77 to R86). -/

namespace Sys2Proof.Machine

open Sys2Proof

theorem Issuing_setCur {s : State} (i : Inst) (h : s.curS < 8) : (s.setCur i).Issuing i := by
  simp [State.Issuing, State.setCur, State.inst?_setInst _ _ _ _ _ _ h]

@[simp] theorem State.counted_cycleOf (s : State) (i : Inst) (c d : Nat) : (s.counted i).cycleOf c d = s.cycleOf c d := by
  simp [State.cycleOf]

/-- A result that the core itself forms later (01 R19). -/
theorem State.retireLater_counted (s : State) (i : Inst) (d : GReg) (x : Word) : (s.counted i).retireLater i.counted d x
    = .next (({ s.counted i with nextId := s.nextId + 1 }).setCur (i.counted.await s.nextId (gDest d) false (some x)).advance) := by
  have hid : (s.counted i).nextId = s.nextId := State.counted_nextId s i
  rw [← hid]
  rfl

@[simp] theorem State.retireG_counted (s : State) (i j : Inst) (d : GReg) (x : Word) :
    (s.counted i).retireG j d x = .next (s.became i (j.writeG d x).advance) := rfl

@[simp] theorem State.lc_setLc (s : State) (c l : Nat) (x : CtxCore) : (s.setLc c l x).lc c l = x := by
  simp [State.lc, State.setLc, Ctx.lc, Ctx.setLc, Tab.get_put]

theorem State.chunkAsk_eq (s : State) (i : Inst) (d : Dest) (n : Nat) (what : ChunkWhat) : s.chunkAsk i d n what =
    .next (({ s with nextId := s.nextId + 1 }.setQuad (quadOf s.curP) { s.quad (quadOf s.curP) with
      chunkReqs := chunkQueue (s.quad (quadOf s.curP)).chunkReqs ⟨s.clock, s.curP, i.iid, s.curS, s.nextId, i.ctx, n, what⟩
      }).setCur (i.await s.nextId d false none).advance) := rfl

/-- A word that asks the quad's chunk unit (04 R79). -/
theorem State.chunkAsk_counted {s : State} {i : Inst} (h : s.Issuing i) (d : Dest) (n : Nat) (what : ChunkWhat) :
    ∃ t, (s.counted i).chunkAsk i.counted d n what = .next t ∧ t.Issuing (i.counted.await s.nextId d false none).advance
      ∧ (t.quad (quadOf s.curP)).chunkReqs = chunkQueue (s.quad (quadOf s.curP)).chunkReqs
          ⟨s.clock, s.curP, i.iid, s.curS, s.nextId, i.ctx, n, what⟩ := by
  rw [State.chunkAsk_eq]
  simp only [State.counted_nextId, State.counted_curP, State.counted_curS, State.counted_quad, State.counted_clock]
  refine ⟨_, rfl, Issuing_setCur _ ?_, ?_⟩
  · simpa using h.slot
  · exact congrArg Quad.chunkReqs (State.quad_setQuad_same _ _ _)

/-- Settles O19: SRD and SWR are told by the register's number, and SW1C clears the flags that gA names. -/
theorem systemRegistersComplete : Obligations.SystemRegistersComplete := by
  refine ⟨fun s i d n h => ?_, fun s i a n => ⟨fun h hlo hhi => ?_, fun h hlo hhi => ?_, fun h => ?_⟩⟩
  · have hx : exec (.srd d n) s = execSrd d n s := rfl
    rw [hx, execSrd, State.onFit_eq h]
    refine ⟨fun v hv => ?_, ?_, ?_, fun hlo hhi => ?_, fun hlo hhi => ?_⟩
    · simp only [List.mem_cons, Prod.mk.injEq, List.not_mem_nil, or_false] at hv
      rcases hv with ⟨rfl, rfl⟩ | ⟨rfl, rfl⟩ | ⟨rfl, rfl⟩ | ⟨rfl, rfl⟩ | ⟨rfl, rfl⟩ | ⟨rfl, rfl⟩ | ⟨rfl, rfl⟩ <;> simp
    · rintro rfl hr
      simp [hr, State.retireLater_counted]
    · rintro rfl hr
      simp [hr]
      rfl
    · iterate 8 rw [if_neg (by omega)]
      rw [if_pos ⟨hlo, hhi⟩, State.counted_lc]
      rfl
    · iterate 9 rw [if_neg (by omega)]
      rw [if_pos ⟨hlo, hhi⟩]
      exact State.chunkAsk_counted h.1 _ _ _
  · rw [show exec (.swr n a) s = execSwr n a s from rfl, execSwr, State.onFit_eq h]
    rw [if_pos ⟨hlo, hhi⟩]
    refine ⟨_, rfl, Issuing_setCur _ (by simpa using h.1.slot), by simp, fun k => ?_⟩
    have hlc : ∀ (t : State) (j : Inst), (t.setCur j).lc i.ctx i.lcore = t.lc i.ctx i.lcore := fun _ _ => rfl
    rw [hlc, Inst.counted_ctx, Inst.counted_lcore, State.lc_setLc, State.counted_lc]
    exact Tab.get_put ..
  · rw [show exec (.swr n a) s = execSwr n a s from rfl, execSwr, State.onFit_eq h]
    rw [if_neg (by omega), if_pos ⟨hlo, hhi⟩]
    exact State.chunkAsk_counted h.1 _ _ _
  · rw [show exec (.sw1c 0 a) s = execSw1c 0 a s from rfl, execSw1c, State.onFit_eq h]
    exact ⟨_, rfl, rfl⟩

end Sys2Proof.Machine

/-! SUPPORT. CHUNK, CNTRD and the chunk unit (04 R77 to R79, R86). -/

namespace Sys2Proof.Machine

open Sys2Proof

@[simp] theorem State.setQuad_inst? (s : State) (q : Nat) (x : Quad) (p sl : Nat) : (s.setQuad q x).inst? p sl = s.inst? p sl := rfl
@[simp] theorem State.setInst_quad (s : State) (p sl : Nat) (i : Option Inst) (q : Nat) : (s.setInst p sl i).quad q = s.quad q := rfl
@[simp] theorem State.setInst_lc (s : State) (p sl : Nat) (i : Option Inst) (c l : Nat) : (s.setInst p sl i).lc c l = s.lc c l := rfl

/-- What the chunk unit hands out, and the counter it leaves (04 R78). -/
theorem chunkStep_spec (x next left c : Nat) (hx : x < 2 ^ 64) (hnext : next = bitsOf x 47 24)
    (hleft : left = bitsOf x 23 0 - next)
    (hc : c = min left (max (max 1 (bitsOf x 55 48)) ((left + 2 * max 1 (bitsOf x 63 56) - 1) / (2 * max 1 (bitsOf x 63 56))))) :
    (word64 (chunkStep x).1).toNat = c * 2 ^ 32 + next ∧ (word64 (chunkStep x).2).toNat = x + c * 2 ^ 24
    ∧ bitsOf (x + c * 2 ^ 24) 47 24 = next + c ∧ bitsOf (x + c * 2 ^ 24) 63 48 = bitsOf x 63 48
    ∧ bitsOf (x + c * 2 ^ 24) 23 0 = bitsOf x 23 0 := by
  have hstep : chunkStep x = (c * 2 ^ 32 + next, x + c * 2 ^ 24) := by
    subst hc hleft hnext
    rfl
  have hle : c ≤ left := hc ▸ min_le_left _ _
  clear hc
  simp only [hstep, word64, BitVec.toNat_ofNat, bitsOf, Nat.reduceAdd, Nat.reduceSub, Nat.reducePow, Nat.div_one,
    Nat.pow_zero] at *
  omega

/-- A result that is filled in stands with the operation that waited for it (01 R12). -/
theorem State.fillPend_spec {s : State} {p sl iid pid : Nat} {i : Inst} {e : Pend} (v : Word) (hi : s.inst? p sl = some i)
    (hiid : i.iid = iid) (he : e ∈ i.pend) (hid : e.id = pid) :
    ∃ j, s.fillPend p sl iid pid v = s.setInst p sl (some j) ∧ { e with value := some v } ∈ j.pend := by
  refine ⟨{ i with pend := i.pend.map (fun e => if e.id = pid then { e with value := some v } else e) }, ?_, ?_⟩
  · simp only [State.fillPend, hi, if_pos hiid]
  · exact List.mem_map.2 ⟨e, he, if_pos hid⟩

/-- What the unit's step leaves, once its counter stands as it does: the queue, the counter and the result of the instance
that asked. -/
theorem State.fillPend_served {s : State} {q c k p sl iid pid : Nat} {l : List ChunkReq} {new : Word} {i : Inst} {e : Pend}
    (v : Word) (hq : (s.quad q).chunkReqs = l) (hn : Tab.get 0 (s.ctx c).chunks k = new) (hi : s.inst? p sl = some i)
    (hiid : i.iid = iid) (he : e ∈ i.pend) (hid : e.id = pid) :
    ((s.fillPend p sl iid pid v).quad q).chunkReqs = l ∧ Tab.get 0 ((s.fillPend p sl iid pid v).ctx c).chunks k = new
    ∧ ∃ j, (s.fillPend p sl iid pid v).inst? p sl = some j ∧ { e with value := some v } ∈ j.pend := by
  obtain ⟨j, hj, hje⟩ := State.fillPend_spec v hi hiid he hid
  rw [hj]
  refine ⟨hq, hn, j, ?_, hje⟩
  rw [State.inst?_setInst _ _ _ _ _ _ (State.inst?_lt hi), if_pos ⟨rfl, rfl⟩]

/-- Settles O20: the words ask the unit or the hub, and the unit's step is R78's arithmetic on its oldest request. -/
theorem countersAndChunksComplete : Obligations.CountersAndChunksComplete := by
  refine ⟨fun s i d n k => ⟨fun h hr => ?_, fun h hr => ?_, fun h hk hr => ?_, fun h hk hr => ?_⟩, ?_⟩
  · rw [show exec (.chunk d n) s = execChunk d n s from rfl, execChunk, State.onFit_eq h]
    simp only [Inst.counted_rsafe, hr, Bool.false_eq_true, if_false]
    exact State.chunkAsk_counted h.1 _ _ _
  · rw [show exec (.chunk d n) s = execChunk d n s from rfl, execChunk, State.onFit_eq h]
    simp only [Inst.counted_rsafe, hr, if_true, State.raise_counted, State.counted_wordAt]
    rfl
  · rw [show exec (.cntrd d k) s = execCntrd d k s from rfl, execCntrd, State.onFit_eq h]
    have hk' : (!counterAssigned (k.toNat % 0x8000)) = false := by rw [show counterAssigned (k.toNat % 0x8000) = true from hk]; rfl
    simp only [Inst.counted_rsafe, hr, hk', Bool.false_eq_true, if_false]
    simp only [State.launchFlight, State.fresh, State.counted_nextId, State.counted_curP, State.counted_curS,
      State.counted_flights, State.counted_clock]
    exact ⟨_, _, rfl, Issuing_setCur _ (by simpa using h.1.slot), rfl, rfl, rfl⟩
  · rw [show exec (.cntrd d k) s = execCntrd d k s from rfl, execCntrd, State.onFit_eq h]
    have hk' : (!counterAssigned (k.toNat % 0x8000)) = false := by rw [show counterAssigned (k.toNat % 0x8000) = true from hk]; rfl
    simp only [Inst.counted_rsafe, hr, hk', Bool.false_eq_true, if_false, if_true, State.raise_counted, State.counted_wordAt]
    rfl
  · intro s q r rest x i e hreqs hcycle hlast hx hi hiid he hid
    have hx' : exec (.chunkUnitRequest q) s = execChunkUnitRequest q s := rfl
    rw [hx', execChunkUnitRequest]
    simp only [hreqs, if_neg (Nat.not_le.2 hcycle), if_neg hlast]
    have hsl := State.inst?_lt hi
    obtain ⟨s', hs'⟩ : ∃ s', s' = s.setQuad q { s.quad q with chunkReqs := rest, chunkLast := some s.clock } := ⟨_, rfl⟩
    have hq : (s'.quad q).chunkReqs = rest := by rw [hs', State.quad_setQuad_same]
    have hi' : s'.inst? r.p r.sl = some i := by rw [hs', State.setQuad_inst?, hi]
    have hc : (s'.ctx r.ctx).chunks = (s.ctx r.ctx).chunks := by rw [hs']; rfl
    replace hx : x = (Tab.get 0 (s'.ctx r.ctx).chunks (q * 16 + r.n)).toNat := by rw [hc, hx]
    rw [← hs']
    have hput : ∀ y : Word, Tab.get 0 ((s'.setCtx r.ctx { s'.ctx r.ctx with
        chunks := (s'.ctx r.ctx).chunks.put (q * 16 + r.n) y }).ctx r.ctx).chunks (q * 16 + r.n) = y := by
      intro y
      rw [State.ctx_setCtx, if_pos rfl]
      exact (Tab.get_put ..).trans (if_pos rfl)
    cases r.what with
    | chunk =>
      obtain ⟨hv, hn, hrest⟩ := chunkStep_spec x _ _ _ (hx ▸ BitVec.isLt _) rfl rfl rfl
      rw [← hx]
      obtain ⟨hq', hn', j, hj⟩ := State.fillPend_served (word64 (chunkStep x).1) (s := s'.setCtx r.ctx { s'.ctx r.ctx with
        chunks := (s'.ctx r.ctx).chunks.put (q * 16 + r.n) (word64 (chunkStep x).2) }) hq (hput _) hi' hiid he hid
      exact ⟨_, j, _, _, rfl, hq', hn', hj.1, hj.2, hv, hn, hn ▸ hrest⟩
    | read =>
      obtain ⟨hq', hn', j, hj⟩ := State.fillPend_served (Tab.get 0 (s'.ctx r.ctx).chunks (q * 16 + r.n)) hq rfl hi' hiid he hid
      exact ⟨_, j, _, _, rfl, hq', hn', hj.1, hj.2, hx.symm, hx.symm⟩
    | write y =>
      obtain ⟨hq', hn', j, hj⟩ := State.fillPend_served 0 (s := s'.setCtx r.ctx { s'.ctx r.ctx with
        chunks := (s'.ctx r.ctx).chunks.put (q * 16 + r.n) y }) hq (hput _) hi' hiid he hid
      exact ⟨_, j, _, _, rfl, hq', hn', hj.1, hj.2, rfl⟩

end Sys2Proof.Machine

/-! SUPPORT. What sending a request does, and the checks of an access (05 R87 to R95). -/

namespace Sys2Proof.Machine

open Sys2Proof

/-! A request that leaves a core. -/

@[simp] theorem State.core_addOp (s : State) (p : Nat) (o : Op) (p' : Nat) :
    (s.addOp p o).core p' = if p' = p then { s.core p with ops := (s.core p).ops ++ [o] } else s.core p' :=
  State.core_setCore ..

@[simp] theorem State.fresh_core (s : State) (p : Nat) : s.fresh.2.core p = s.core p := rfl
@[simp] theorem State.launchFlight_core (s : State) (f : Flight) (p : Nat) : (s.launchFlight f).2.core p = s.core p := rfl

/-- What a request adds to a state: one flight, and an operation of the instance on the LS path. -/
structure State.Requests (s : State) (i : Inst) (q : MemReq) (x : Nat × State) : Prop where
  fid : x.1 = s.nextId
  flight : ∃ f, x.2.flights = s.flights ++ [f] ∧ f.id = s.nextId ∧ f.body = .req q ∧ f.who = whoOf i s.curP s.curS
  core : ∃ o l, o.id = s.nextId ∧ o.iid = i.iid ∧ o.path = .ls ∧ ∀ p, x.2.core p =
    if p = s.curP then { s.core p with ops := (s.core p).ops ++ o :: l } else s.core p
  rest : x.2.mem = s.mem ∧ x.2.ctxs = s.ctxs ∧ x.2.curP = s.curP ∧ x.2.curS = s.curS

/-- One flight and one operation are a request. -/
theorem State.Requests.one {s : State} {i : Inst} {q : MemReq} (f : Flight) (o : Op) (hf : f.body = .req q)
    (hw : f.who = whoOf i s.curP s.curS) (ho : o.id = s.nextId ∧ o.iid = i.iid ∧ o.path = .ls) :
    s.Requests i q (s.nextId, (s.launchFlight f).2.addOp s.curP o) where
  fid := rfl
  flight := ⟨_, rfl, rfl, hf, hw⟩
  core := ⟨o, [], ho.1, ho.2.1, ho.2.2, fun p => by
    rw [State.core_addOp]
    by_cases h : p = s.curP
    · subst h; rfl
    · rw [if_neg h, if_neg h]; rfl⟩
  rest := ⟨rfl, rfl, rfl, rfl⟩

/-- So is one with a second operation, which reads a source. -/
theorem State.Requests.two {s : State} {i : Inst} {q : MemReq} (f : Flight) (o o' : Op) (hf : f.body = .req q)
    (hw : f.who = whoOf i s.curP s.curS) (ho : o.id = s.nextId ∧ o.iid = i.iid ∧ o.path = .ls) :
    s.Requests i q (s.nextId, ((s.launchFlight f).2.addOp s.curP o).fresh.2.addOp s.curP o') where
  fid := rfl
  flight := ⟨_, rfl, rfl, hf, hw⟩
  core := ⟨o, [o'], ho.1, ho.2.1, ho.2.2, fun p => by
    rw [State.core_addOp]
    by_cases h : p = s.curP
    · subst h
      rw [if_pos rfl, if_pos rfl, State.fresh_core, State.core_addOp, if_pos rfl]
      simp
    · rw [if_neg h, if_neg h, State.fresh_core, State.core_addOp, if_neg h]; rfl⟩
  rest := ⟨rfl, rfl, rfl, rfl⟩

/-- A request is one flight and an operation; a PUT whose source is on the scratchpad has a second one. The source is read
as the request leaves, or when it is released (05 R90, R94). -/
theorem State.request_spec (s : State) (i : Inst) (r : MemReq) (kind : Nat) (rd : Bool) (rel : Option Scope)
    (waits : List (Nat × Nat × Nat)) (extra : List MemName) : ∃ q, (q = r ∨ q = s.takeSource r)
      ∧ s.Requests i q (s.request i r kind rd rel waits extra) := by
  unfold State.request
  dsimp only
  rcases s.reqRoute r (dieOf s.curP) (xyOfCore s.curP) with ⟨goal, dst⟩
  generalize hready : (_ && _ && r.src.all s.ownerClear) = ready
  have hq : (if ready then s.takeSource r else r) = r ∨ (if ready then s.takeSource r else r) = s.takeSource r := by
    cases ready <;> simp
  generalize (if ready then s.takeSource r else r) = q at hq
  refine ⟨q, hq, ?_⟩
  cases hsrc : q.src with
  | none => exact .one _ _ rfl rfl ⟨rfl, rfl, rfl⟩
  | some pa => exact .two _ _ _ rfl rfl ⟨rfl, rfl, rfl⟩

theorem State.Requests.inst? {s : State} {i : Inst} {q : MemReq} {x : Nat × State} (h : s.Requests i q x) (p sl : Nat) :
    x.2.inst? p sl = s.inst? p sl := by
  obtain ⟨o, l, -, -, -, hcore⟩ := h.core
  rw [State.inst?, hcore, State.inst?]
  split <;> rfl

/-- A word that has sent its request and goes on as `j`. -/
theorem State.Requests.sent {s : State} {i : Inst} {q : MemReq} {x : Nat × State} (hi : s.Issuing i)
    (h : (s.counted i).Requests i.counted q x) (j : Inst) : s.Sent (x.2.setCur j) i j q := by
  obtain ⟨f, hfl, hid, hbody, hwho⟩ := h.flight
  obtain ⟨o, l, hoid, hoiid, hopath, hcore⟩ := h.core
  obtain ⟨hmem, hctxs, hcurP, hcurS⟩ := h.rest
  rw [State.counted_curP] at hcurP
  rw [State.counted_curS] at hcurS
  rw [State.counted_nextId] at hid hoid
  constructor
  case flight => exact ⟨f, by simpa using hfl, hid, hbody, by rw [hwho]; rfl⟩
  case op =>
    refine ⟨o, ?_, hoid, hoiid, hopath⟩
    simp [State.setCur, State.setInst, hcurP, hcore, Core.setSlot]
  case slot => exact Issuing_setCur _ (hcurS ▸ hi.slot)
  case mem => intro a; rw [State.setCur_mem, hmem, State.counted_mem]
  case ctxs => rw [State.setCur_ctxs, hctxs, State.counted_ctxs]
  case slots =>
    intro p sl hne
    have hne' : ¬ (p = s.curP ∧ sl = s.curS) := by simpa [Prod.ext_iff] using hne
    rw [State.setCur, hcurP, hcurS, State.inst?_setInst _ _ _ _ _ _ hi.slot, if_neg hne', h.inst?,
      State.counted_inst?_other hi _ _ hne]

/-! The checks of an access, in their order (05 R87, R294). -/

theorem effAddr_eq (i : Inst) (a : GReg) (imm : BitVec 32) : effAddr i a imm = (i.readG a + immWord imm).toNat := by
  rw [effAddr, simm_eq_immWord]

theorem checkAlign_misaligned {va n : Nat} (h : va % n ≠ 0) : checkAlign va n = .error (fMisaligned, va, 0) := if_pos h
theorem checkAlign_beyond {va n : Nat} (h : va % n = 0) (hb : 2 ^ 56 ≤ va) : checkAlign va n = .error (fAddress, va, 0) := by
  rw [checkAlign, if_neg (not_not.2 h), if_pos hb]
theorem checkAlign_ok {va n : Nat} (h : va % n = 0) (hb : va < 2 ^ 56) : checkAlign va n = .ok () := by
  rw [checkAlign, if_neg (not_not.2 h), if_neg (Nat.not_le.2 hb)]

theorem State.checkAccess_misaligned (s : State) (i : Inst) {va n : Nat} (wr at' nr : Bool) (mid : Check Unit)
    (h : va % n ≠ 0) : s.checkAccess i va n wr at' nr mid = .error (fMisaligned, va, 0) := by
  simp only [State.checkAccess, checkAlign_misaligned h]

/-- An address in no region: none of the region checks is passed. -/
theorem State.checkAccess_outside (s : State) (i : Inst) {va n : Nat} (wr : Bool) (h : va % n = 0)
    (hr : 2 ^ 56 ≤ va ∨ (s.ctx i.ctx).regionOf va n = none) :
    s.checkAccess i va n wr false false (.ok ()) = .error (fAddress, va, 0) := by
  by_cases hb : 2 ^ 56 ≤ va
  · simp only [State.checkAccess, checkAlign_beyond h hb]
  · have hnone := hr.resolve_left hb
    rw [State.checkAccess, checkAlign_ok h (by omega)]
    simp [Ctx.checkRegion, hnone]

/-- An address within a region. -/
theorem State.checkAccess_inside (s : State) (i : Inst) {va n k : Nat} {g : Region} (wr at' nr : Bool) (h : va % n = 0)
    (hb : va < 2 ^ 56) (hwin : at' = true → (s.ctx i.ctx).inWindow va = false) (hnr : nr = true → i.rsafe = false)
    (hr : (s.ctx i.ctx).regionOf va n = some (k, g)) : s.checkAccess i va n wr at' nr (.ok ()) =
      if wr && !g.wen then .error (fWriteProtect, va, 0) else .ok (k, g) := by
  have h1 : (at' && (s.ctx i.ctx).inWindow va) = false := by cases at' <;> simp_all
  have h2 : (nr && i.rsafe) = false := by cases nr <;> simp_all
  simp only [State.checkAccess, checkAlign_ok h hb, h1, h2, Bool.false_eq_true, if_false, Ctx.checkRegion, hr]

end Sys2Proof.Machine

/-! SUPPORT. Loads, stores, GET, PUT and the atomics (05 R87 to R98). -/

namespace Sys2Proof.Machine

open Sys2Proof

theorem counted_checkAccess (s : State) (i : Inst) (va n : Nat) (wr at' nr : Bool) (mid : Check Unit) :
    (s.counted i).checkAccess i.counted va n wr at' nr mid = s.checkAccess i va n wr at' nr mid := by
  simp only [State.checkAccess, State.counted_ctx, Inst.counted_ctx, Inst.counted_rsafe, State.counted_wordAt]
  rfl

theorem State.takeSource_none (s : State) {r : MemReq} (h : r.src = none) : s.takeSource r = r := by
  rw [State.takeSource, h]

/-- A request without a source of its own is sent as it stands. -/
theorem State.request_plain {s : State} {i : Inst} (hi : s.Issuing i) {r : MemReq} (hr : r.src = none) (kind : Nat) (rd : Bool)
    (rel : Option Scope) (waits : List (Nat × Nat × Nat)) (extra : List MemName) :
    ((s.counted i).request i.counted r kind rd rel waits extra).1 = s.nextId
    ∧ ∀ j, s.Sent (((s.counted i).request i.counted r kind rd rel waits extra).2.setCur j) i j r := by
  obtain ⟨q, hq, hreq⟩ := (s.counted i).request_spec i.counted r kind rd rel waits extra
  rw [State.takeSource_none _ hr, or_self] at hq
  subst hq
  exact ⟨hreq.fid.trans (State.counted_nextId s i), fun j => hreq.sent hi j⟩

section
variable {s : State} {i : Inst} {x : Instr} (h : s.Issues i x) (a : GReg) (imm : BitVec 32) (n : Nat) (ord : Option Scope)
include h

/-! Loads. -/

theorem State.load_error (dst : Dest) (ret : Bool) (sx : Option Nat) {code addr det : Nat}
    (he : s.checkAccess i (i.readG a + immWord imm).toNat n false false false (.ok ()) = .error (code, addr, det)) :
    s.load (uses x) dst ret a imm n sx ord = .next (s.faulted i code addr det) := by
  rw [State.load, State.onFit_eq h]
  simp only [effAddr_eq, counted_checkAccess, Inst.counted_readG, he, State.raise_counted]

theorem State.load_ok (dst : Dest) (ret : Bool) (sx : Option Nat) {k : Nat} {g : Region}
    (he : s.checkAccess i (i.readG a + immWord imm).toNat n false false false (.ok ()) = .ok (k, g)) :
    ∃ t, s.load (uses x) dst ret a imm n sx ord = .next t
      ∧ s.Sent t i ((i.counted.await s.nextId dst ret none).acquire ord s.nextId).advance
        (mkReq .read i k g (i.readG a + immWord imm).toNat n [] 0 (.reg dst sx)) := by
  obtain ⟨hid, hsent⟩ := State.request_plain h.1
    (r := mkReq .read i k g (i.readG a + immWord imm).toNat n [] 0 (.reg dst sx)) rfl g.kind true none [] []
  refine ⟨_, ?_, hsent _⟩
  rw [State.load, State.onFit_eq h]
  simp only [effAddr_eq, counted_checkAccess, Inst.counted_readG, he]
  rw [← hid]
  rfl

/-! Stores. -/

theorem State.store_error (data : Inst → List Byte) {code addr det : Nat}
    (he : s.checkAccess i (i.readG a + immWord imm).toNat n true false false (.ok ()) = .error (code, addr, det)) :
    s.store (uses x) a imm n data ord = .next (s.faulted i code addr det) := by
  rw [State.store, State.onFit_eq h]
  simp only [effAddr_eq, counted_checkAccess, Inst.counted_readG, he, State.raise_counted]

theorem State.store_ok (data : Inst → List Byte) {k : Nat} {g : Region}
    (he : s.checkAccess i (i.readG a + immWord imm).toNat n true false false (.ok ()) = .ok (k, g)) :
    ∃ t, s.store (uses x) a imm n data ord = .next t ∧ s.Sent t i i.counted.advance
      (mkReq .write i k g (i.readG a + immWord imm).toNat n (data i.counted) 0 (.ack none)) := by
  obtain ⟨-, hsent⟩ := State.request_plain h.1
    (r := mkReq .write i k g (i.readG a + immWord imm).toNat n (data i.counted) 0 (.ack none)) rfl g.kind false ord [] []
  refine ⟨_, ?_, hsent _⟩
  rw [State.store, State.onFit_eq h]
  simp only [effAddr_eq, counted_checkAccess, Inst.counted_readG, he]
  rfl

/-! Atomics. -/

theorem State.atomic_error (op : MemOp) (d b : GReg) (refused : Bool) {code addr det : Nat}
    (he : s.checkAccess i (i.readG a + immWord imm).toNat n true true refused (.ok ()) = .error (code, addr, det)) :
    s.atomic (uses x) op d a b n ord imm refused = .next (s.faulted i code addr det) := by
  rw [State.atomic, State.onFit_eq h]
  simp only [effAddr_eq, counted_checkAccess, Inst.counted_readG, he, State.raise_counted]

theorem State.atomic_ok (op : MemOp) (d b : GReg) (refused : Bool) {k : Nat} {g : Region}
    (he : s.checkAccess i (i.readG a + immWord imm).toNat n true true refused (.ok ()) = .ok (k, g)) :
    ∃ t q, s.atomic (uses x) op d a b n ord imm refused = .next t
      ∧ s.Sent t i ((if d = 0 then i.counted else i.counted.await s.nextId (.g d) true none).acquire ord s.nextId).advance q
      ∧ q.op = op ∧ q.ctx = i.ctx ∧ q.va = (i.readG a + immWord imm).toNat ∧ q.n = n
      ∧ q.data = leBytes n (i.readG b).toNat ∧ q.expect = i.readG d := by
  obtain ⟨hid, hsent⟩ := State.request_plain h.1 (r := mkReq op i k g (i.readG a + immWord imm).toNat n
    (leBytes n (i.readG b).toNat) (i.readG d) (if d = 0 then Answer.ack none else match op with
      | .aclaim => .claim (.g d) ((i.readG b).toNat % 2 ^ (8 * n))
      | _ => .reg (.g d) none)) rfl g.kind false ord [] []
  refine ⟨_, _, ?_, hsent _, rfl, rfl, rfl, rfl, rfl, rfl⟩
  rw [State.atomic, State.onFit_eq h]
  simp only [effAddr_eq, counted_checkAccess, Inst.counted_readG, he]
  rw [← hid]
  rfl

end

/-! The checks of every access word (05 R87). -/

theorem checkSplitAlign_misaligned {va gb n : Nat} (h : va % n ≠ 0) :
    checkSplitAlign va gb n = .error (fMisaligned, va, 0) := if_pos h

theorem State.checkGetPut_misaligned (s : State) (i : Inst) {va n : Nat} (gd gb : Nat) (wr : Bool) (h : va % n ≠ 0) :
    s.checkGetPut i va gd gb n wr = .error (fMisaligned, va, 0) := by
  simp only [State.checkGetPut, checkSplitAlign_misaligned h]

/-- A word that accesses memory at an address that is no multiple of its width. -/
theorem exec_misaligned {x : Instr} {a : GReg} {imm : BitVec 32} {n : Nat} {s : State} {i : Inst}
    (hx : accessOf x = some (a, imm, n)) (h : s.Issues i x) (hva : (i.readG a + immWord imm).toNat % n ≠ 0) :
    exec x s = .next (s.faulted i fMisaligned (i.readG a + immWord imm).toNat 0) := by
  delta exec
  have hacc := fun wr at' nr mid => s.checkAccess_misaligned i (n := n) wr at' nr mid hva
  cases x with
  | ld8 | ld16 | ld32 | ld64 | ldz8 | ldz16 | ldz32 | vld | dld =>
    cases hx
    exact State.load_error h _ _ _ _ _ _ _ (hacc ..)
  | st8 | st16 | st32 | st64 | vst =>
    cases hx
    exact State.store_error h _ _ _ _ _ (hacc ..)
  | aadd | amin | amax | aminn | amaxn | aand | aor | axor | aswap | acas | aclaim | afadd =>
    cases hx
    exact State.atomic_error h _ _ _ _ _ _ _ _ (hacc ..)
  | get | put =>
    cases hx
    refine (State.onFit_eq h _).trans ?_
    simp only [effAddr_eq, Inst.counted_readG, State.checkGetPut_misaligned _ _ _ _ _ hva, State.raise_counted]
  | watchRegister | watchCancel =>
    cases hx
    have h0 : i.readG a + immWord 0 = i.readG a := BitVec.add_zero _
    rw [h0] at hva hacc ⊢
    refine (State.onFit_eq h _).trans ?_
    simp only [State.checkWatch, Inst.counted_readG, counted_checkAccess, hacc, State.raise_counted]
  | _ => cases hx

/-- A load row is a load of its width. -/
theorem loadRows_isLoad : ∀ r ∈ loadRows, ∀ d a ord imm s,
    exec (r.1 d a ord imm) s = s.load (uses (r.1 d a ord imm)) (gDest d) (d != 0) a imm r.2.1 r.2.2 ord := by
  simp only [loadRows, List.forall_mem_cons, List.not_mem_nil, false_imp_iff, implies_true, and_true]
  and_intros <;> exact fun _ _ _ _ _ => rfl

/-- A store row is a store of its width. -/
theorem storeRows_isStore : ∀ r ∈ storeRows, ∀ a b ord imm s, exec (r.1 a b ord imm) s
    = s.store (uses (r.1 a b ord imm)) a imm r.2 (fun i => leBytes r.2 (i.readG b).toNat) ord := by
  simp only [storeRows, List.forall_mem_cons, List.not_mem_nil, false_imp_iff, implies_true, and_true]
  and_intros <;> exact fun _ _ _ _ _ => rfl

theorem wen_check {g : Region} (h : g.wen = true) (va k : Nat) :
    (if true && !g.wen then .error (fWriteProtect, va, 0) else .ok (k, g) : Check (Nat × Region)) = .ok (k, g) := by
  rw [h]; rfl

/-- Settles O21: the alignment is looked at first, then the region, then its write enable. -/
theorem accessChecksFault : Obligations.AccessChecksFault := by
  refine ⟨?_, ?_⟩
  · rintro x a imm n s i va hx h rfl hva
    exact exec_misaligned hx h hva
  · rintro s i d a b ord imm va rfl
    refine ⟨fun r hr h hal hout => ?_, fun r hr h hal => ⟨fun hout => ?_, fun hb k g hreg hwen => ?_⟩⟩
    · rw [loadRows_isLoad r hr]
      exact State.load_error h _ _ _ _ _ _ _ (State.checkAccess_outside _ _ _ hal hout)
    · rw [storeRows_isStore r hr]
      exact State.store_error h _ _ _ _ _ (State.checkAccess_outside _ _ _ hal hout)
    · rw [storeRows_isStore r hr]
      refine State.store_error h _ _ _ _ _ ?_
      rw [State.checkAccess_inside _ _ _ _ _ hal hb (by simp) (by simp) hreg, hwen]
      rfl

/-- Settles O22: a load or a store that passes its checks is one request, and memory waits for its owner. -/
theorem loadsAndStoresComplete : Obligations.LoadsAndStoresComplete := by
  have hload : ∀ {s : State} {i : Inst} {va n k : Nat} {g : Region}, va % n = 0 → va < 2 ^ 56 →
      (s.ctx i.ctx).regionOf va n = some (k, g) → s.checkAccess i va n false false false (.ok ()) = .ok (k, g) :=
    fun hal hb hreg => State.checkAccess_inside _ _ _ _ _ hal hb (by simp) (by simp) hreg
  have hstore : ∀ {s : State} {i : Inst} {va n k : Nat} {g : Region}, va % n = 0 → va < 2 ^ 56 →
      (s.ctx i.ctx).regionOf va n = some (k, g) → g.wen = true →
      s.checkAccess i va n true false false (.ok ()) = .ok (k, g) :=
    fun hal hb hreg hwen => (State.checkAccess_inside _ _ _ _ _ hal hb (by simp) (by simp) hreg).trans (wen_check hwen _ _)
  refine ⟨⟨?_, ?_, ?_⟩, ?_, ?_⟩
  · rintro r hr s i d a ord imm va k g h rfl hal hb hreg
    rw [loadRows_isLoad r hr]
    obtain ⟨t, ht, hsent⟩ := State.load_ok h a imm _ ord (gDest d) (d != 0) r.2.2 (hload hal hb hreg)
    exact ⟨t, _, ht, hsent, rfl, rfl, rfl, rfl, rfl⟩
  · rintro s i d a ord imm va k g h rfl hal hb hreg
    obtain ⟨t, ht, hsent⟩ := State.load_ok h a imm _ ord (.v d) true none (hload hal hb hreg)
    exact ⟨t, _, ht, hsent, rfl, rfl, rfl, rfl, rfl⟩
  · rintro s i d a ord imm va k g h rfl hal hb hreg
    obtain ⟨t, ht, hsent⟩ := State.load_ok h a imm _ ord (.d d) false none (hload hal hb hreg)
    exact ⟨t, _, ht, hsent, rfl, rfl, rfl, rfl, rfl⟩
  · rintro r hr s i a b ord imm va k g h rfl hal hb hreg hwen
    rw [storeRows_isStore r hr]
    obtain ⟨t, ht, hsent⟩ := State.store_ok h a imm _ ord (fun i => leBytes r.2 (i.readG b).toNat) (hstore hal hb hreg hwen)
    exact ⟨t, _, ht, hsent, rfl, rfl, rfl, rfl, ofLe_leBytes _ _, leBytes_length _ _⟩
  · rintro s i a b ord imm va k g h rfl hal hb hreg hwen
    have hlt : (i.readV b).toNat < 256 ^ 64 := (i.readV b).isLt.trans_eq (Nat.pow_mul 2 8 64)
    obtain ⟨t, ht, hsent⟩ := State.store_ok h a imm _ ord (fun i => leBytes 64 (i.readV b).toNat) (hstore hal hb hreg hwen)
    exact ⟨t, _, ht, hsent, rfl, rfl, rfl, rfl,
      (ofLe_leBytes _ _).trans (Nat.mod_eq_of_lt hlt), leBytes_length _ _⟩

end Sys2Proof.Machine

/-! SUPPORT. GET, PUT and the atomics complete (05 R94 to R98). -/

namespace Sys2Proof.Machine

open Sys2Proof

/-- The checks of GET and PUT are passed. -/
theorem State.checkGetPut_ok {s : State} {i : Inst} {va gd gb n pa k : Nat} {g : Region} (wr : Bool) (hva : va % n = 0)
    (hgb : gb % n = 0) (hb : va < 2 ^ 56) (hscratch : (s.ctx i.ctx).scratchOf s.curP gb n = some pa) (hgd : gd < 256)
    (h6 : bitsOf gd 6 6 = 0) (h7 : bitsOf gd 7 7 = 1 → gd % 64 < (s.lc i.ctx i.lcore).ctrn)
    (hreg : (s.ctx i.ctx).regionOf va n = some (k, g)) (hwen : wr = true → g.wen = true) :
    (s.counted i).checkGetPut i.counted va gd gb n wr = .ok (pa, k, g) := by
  have hnote : (s.counted i).noteOk i.counted (noteOf gd) = true := by
    by_cases hn : bitsOf gd 7 7 = 1
    · simpa [noteOf, hn, State.noteOk] using h7 hn
    · simp [noteOf, hn, State.noteOk]
  have hwr : (wr && !g.wen) = false := by cases wr <;> simp_all
  have hal : checkSplitAlign va gb n = .ok () := by
    rw [checkSplitAlign, if_neg (not_not.2 hva), if_neg (not_not.2 hgb), checkAlign_ok hva hb]
  have hgd' : ¬ (gd / 256 ≠ 0 ∨ bitsOf gd 6 6 = 1) := by omega
  simp only [State.checkGetPut, hal, State.checkSplit, State.counted_ctx, Inst.counted_ctx, State.counted_curP, hscratch,
    if_neg hgd', hnote, Bool.not_true, Bool.false_eq_true, if_false, Ctx.checkRegion, hreg, hwr]

/-- An atomic row is an atomic access of its width, which a replay-safe context takes in the forms of Table 05-4 alone. -/
theorem atomicRows_isAtomic : ∀ r ∈ atomicRows, ∀ d a b w ord imm s, exec (r.1 d a b w ord imm) s = s.atomic
    (uses (r.1 d a b w ord imm)) r.2 d a b (if w then 8 else 4) ord imm (!replaySafe r.2 d) := by
  simp only [atomicRows, List.forall_mem_cons, List.not_mem_nil, false_imp_iff, implies_true, and_true]
  and_intros <;> exact fun _ _ _ _ _ _ _ => rfl

/-- Settles O23: with its checks passed, each word is one request; a PUT's carries its source's address until it leaves. -/
theorem splitAccessesAndAtomicsComplete : Obligations.SplitAccessesAndAtomicsComplete := by
  refine ⟨?_, ?_⟩
  · rintro s i d a b size ord imm va gb gd n pa k g rfl rfl rfl rfl hva hgb hb hscratch hgd h6 h7 hreg
    refine ⟨fun h => ?_, fun h hwen hpo => ?_⟩
    · obtain ⟨-, hsent⟩ := State.request_plain h.1 (r := mkReq .read i k g (i.readG a + immWord imm).toNat (sizeBytes size) [] 0
        (.get pa (noteOf (i.readG d).toNat))) rfl 0 false none [(i.ctx, (i.readG b).toNat, sizeBytes size)] [.scratch s.curP]
      refine ⟨_, _, ?_, hsent _, rfl, rfl, rfl, rfl⟩
      rw [show exec (.get d a b size imm) s = execGet d a b size imm s from rfl, execGet, State.onFit_eq h]
      simp only [effAddr_eq, Inst.counted_readG, State.checkGetPut_ok false hva hgb hb hscratch hgd h6 h7 hreg (by simp),
        State.counted_curP]
      rfl
    · obtain ⟨q, hq, hreq⟩ := (s.counted i).request_spec i.counted { mkReq .write i k g (i.readG a + immWord imm).toNat
        (sizeBytes size) [] 0 (.ack (noteOf (i.readG d).toNat)) with src := some pa } g.kind false ord
        [(i.ctx, (i.readG b).toNat, sizeBytes size)] [.scratch s.curP]
      have hpo' : (s.counted i).poisonAt pa (sizeBytes size) = none := hpo
      refine ⟨_, q, ?_, hreq.sent h.1 _, ?_⟩
      · rw [show exec (.put d a b size ord imm) s = execPut d a b size ord imm s from rfl, execPut, State.onFit_eq h]
        simp only [effAddr_eq, Inst.counted_readG, State.checkGetPut_ok true hva hgb hb hscratch hgd h6 h7 hreg (fun _ => hwen),
          State.counted_curP, hpo']
        rfl
      · obtain rfl | rfl := hq
        · exact ⟨rfl, rfl, rfl, rfl, .inl ⟨rfl, rfl⟩⟩
        · exact ⟨rfl, rfl, rfl, rfl, .inr ⟨rfl, by simp [State.takeSource, mkReq]⟩⟩
  · intro s i d a b w ord imm va n k g x op hx h hva hal hb hwin hreg hwen
    subst hva
    have hexec : exec x s = s.atomic (uses x) op d a b n ord imm (!replaySafe op d) := by
      obtain ⟨r, hr, rfl, rfl, rfl⟩ | ⟨rfl, rfl, rfl⟩ := hx
      · exact atomicRows_isAtomic r hr ..
      · rfl
    rw [hexec]
    refine ⟨fun hsafe => ?_, fun hr hunsafe => ?_⟩
    · have hok : s.checkAccess i (i.readG a + immWord imm).toNat n true true (!replaySafe op d) (.ok ()) = .ok (k, g) := by
        rw [State.checkAccess_inside _ _ _ _ _ hal hb (fun _ => hwin)
          (fun hn => hsafe.resolve_right (by simpa using hn)) hreg]
        exact wen_check hwen _ _
      obtain ⟨t, q, ht, hsent, hop, hctx, hva, hn, hdata, hexp⟩ := State.atomic_ok h a imm n ord op d b _ hok
      exact ⟨t, q, ht, hsent, hop, hctx, hva, hn, hdata ▸ ofLe_leBytes _ _, hexp⟩
    · refine State.atomic_error h _ _ _ _ _ _ _ _ ?_
      simp only [State.checkAccess, checkAlign_ok hal hb, hwin, hr, hunsafe, Bool.and_false, Bool.not_false, Bool.and_true,
        Bool.false_eq_true, if_false, if_true]

end Sys2Proof.Machine

/-! SUPPORT. FENCE, XFENCE, DRAIN, BARRIVE and WATCH (05 R99 to R104). -/

namespace Sys2Proof.Machine

open Sys2Proof

/-! What an ordering word waits for. -/

theorem Core.mem_covered (c : Core) (iid : Nat) (sc : Scope) (n : Nat) : n ∈ c.covered iid sc ↔ ∃ o ∈ c.ops,
    o.id = n ∧ o.path = .ls ∧ o.iid = iid ∧ (sc = .pod ∨ sc = .sys ∨ o.rd = true ∨ o.peer = false) := by
  have hwide : scopeWide sc = true ↔ sc = .pod ∨ sc = .sys := by cases sc <;> simp [scopeWide]
  simp only [Core.covered, List.mem_map, List.mem_filter, Bool.and_eq_true, beq_iff_eq, Bool.or_eq_true, hwide,
    Bool.not_eq_true', or_assoc]
  constructor
  · rintro ⟨o, ⟨ho, ⟨hp, hi⟩, hs⟩, rfl⟩
    exact ⟨o, ho, rfl, hp, hi, hs⟩
  · rintro ⟨o, ho, rfl, hp, hi, hs⟩
    exact ⟨o, ⟨ho, ⟨hp, hi⟩, hs⟩, rfl⟩

theorem Core.mem_onPath (c : Core) (p : Path) (o : Op) : o ∈ c.onPath p ↔ o ∈ c.ops ∧ o.path = opPath p := by
  simp [Core.onPath]

theorem Core.mem_onPath_ids (c : Core) (p : Path) (n : Nat) :
    n ∈ (c.onPath p).map Op.id ↔ ∃ o ∈ c.ops, o.id = n ∧ o.path = opPath p := by
  simp only [List.mem_map, Core.mem_onPath]
  exact ⟨fun ⟨o, ⟨ho, hp⟩, hn⟩ => ⟨o, ho, hn, hp⟩, fun ⟨o, ho, hn, hp⟩ => ⟨o, ⟨ho, hp⟩, hn⟩⟩

@[simp] theorem State.counted_covered (s : State) (i : Inst) (p iid : Nat) (sc : Scope) :
    ((s.counted i).core p).covered iid sc = (s.core p).covered iid sc := by
  simp [Core.covered]
@[simp] theorem State.counted_onPath (s : State) (i : Inst) (p : Nat) (q : Path) :
    ((s.counted i).core p).onPath q = (s.core p).onPath q := by
  simp [Core.onPath]
@[simp] theorem State.counted_mons (s : State) (i : Inst) (p : Nat) : ((s.counted i).core p).mons = (s.core p).mons := by
  rw [State.counted_core]
  split <;> rfl

/-- A DRAIN of one memory holds its slot while an operation that it found is still into that memory (05 R101). -/
theorem State.not_ready_of_drains {s : State} {p : Nat} {i : Inst} {e : Nat × MemName} {o : Op} (he : e ∈ i.drainInto)
    (ho : o ∈ (s.core p).ops) (hid : o.id = e.1) (hinto : s.opInto (dieOf p) o e.2 = true) : s.ready p i = false := by
  have hd : s.drains p i = true := by
    simp only [State.drains, List.any_eq_true, Bool.and_eq_true, beq_iff_eq]
    exact ⟨e, he, o, ho, hid, hinto⟩
  rw [← Bool.not_eq_true, State.ready_iff]
  rintro ⟨-, -, -, -, -, -, -, -, hn, -⟩
  rw [hd] at hn
  cases hn

/-- A word that puts one thing on its way and ends. -/
theorem State.launchFlight_retire {s : State} {i : Inst} (h : s.Issuing i) (f : Flight) (j : Inst) :
    ∃ t, ((s.counted i).launchFlight f).2.retire j = .next t ∧ t.Issuing j.advance ∧ t.mem = s.mem
      ∧ t.flights = s.flights ++ [{ f with id := s.nextId, arr := s.nextId, cyc := s.clock }] := by
  refine ⟨_, rfl, Issuing_setCur _ ?_, State.counted_mem s i, ?_⟩
  · exact (State.counted_curS s i).trans_lt h.slot
  · simp only [State.setCur_flights, State.launchFlight, State.fresh, State.counted_nextId, State.counted_flights,
      State.counted_clock]

/-! WATCH (05 R104). -/

/-- The checks of WATCH are passed. -/
theorem State.checkWatch_ok {s : State} {i : Inst} {va k : Nat} {g : Region} {gb want : Nat} (hal : va % 8 = 0)
    (hb : va < 2 ^ 56) (hwin : (s.ctx i.ctx).inWindow va = false) (hrs : i.rsafe = false)
    (hreg : (s.ctx i.ctx).regionOf va 8 = some (k, g)) (hwen : g.wen = true) (hgb : gb = want) :
    (s.counted i).checkWatch i.counted va gb want = .ok (k, g) := by
  rw [State.checkWatch, if_pos hgb, counted_checkAccess, State.checkAccess_inside _ _ _ _ _ hal hb (fun _ => hwin)
    (fun _ => hrs) hreg]
  exact wen_check hwen _ _

theorem Core.exists_covered (c : Core) (iid : Nat) (sc : Scope) : c.covered iid sc ≠ [] ↔ ∃ o ∈ c.ops,
    o.path = .ls ∧ o.iid = iid ∧ (sc = .pod ∨ sc = .sys ∨ o.rd = true ∨ o.peer = false) := by
  rw [Ne, List.eq_nil_iff_forall_not_mem, not_forall_not]
  simp only [Core.mem_covered]
  exact ⟨fun ⟨n, o, ho, _, hs⟩ => ⟨o, ho, hs⟩, fun ⟨o, ho, hs⟩ => ⟨o.id, o, ho, rfl, hs⟩⟩

/-- A core's monitor entries are no part of what a word that sends a request has done. -/
theorem State.Sent.setMons {s t : State} {i j : Inst} {q : MemReq} (hi : s.Issuing i) (hP : t.curP = s.curP) (hS : t.curS = s.curS)
    (h : s.Sent (t.setCur j) i j q) (l : List Mon) :
    s.Sent ((t.setCore s.curP { t.core s.curP with mons := l }).setCur j) i j q := by
  have hcore : ∀ p, (t.setCore s.curP { t.core s.curP with mons := l }).core p
      = if p = s.curP then { t.core s.curP with mons := l } else t.core p := State.core_setCore _ _ _
  have hinst : ∀ p sl, (t.setCore s.curP { t.core s.curP with mons := l }).inst? p sl = t.inst? p sl := fun p sl => by
    rw [State.inst?, hcore]
    split
    · next hp => subst hp; rfl
    · rfl
  have hslot : t.curS < 8 := hS ▸ hi.slot
  constructor
  case flight => exact h.flight
  case op =>
    obtain ⟨o, ho, hrest⟩ := h.op
    refine ⟨o, ?_, hrest⟩
    simpa [State.setCur, State.setInst, hP, hcore, Core.setSlot] using ho
  case slot => exact Issuing_setCur _ hslot
  case mem => exact h.mem
  case ctxs => exact h.ctxs
  case slots =>
    intro p sl hne
    rw [← h.slots p sl hne]
    simp only [State.setCur, State.setCore_curP, State.setCore_curS, State.inst?_setInst _ _ _ _ _ _ hslot, hinst]

/-- What a request leaves of its core's monitor entries: all of them. -/
theorem State.request_mons {s : State} {i : Inst} (hi : s.Issuing i) {r : MemReq} (hr : r.src = none) (kind : Nat) (rd : Bool)
    (rel : Option Scope) (waits : List (Nat × Nat × Nat)) (extra : List MemName) :
    ((s.counted i).request i.counted r kind rd rel waits extra).1 = s.nextId
    ∧ ((s.counted i).request i.counted r kind rd rel waits extra).2.curP = s.curP
    ∧ ((s.counted i).request i.counted r kind rd rel waits extra).2.curS = s.curS
    ∧ (((s.counted i).request i.counted r kind rd rel waits extra).2.core s.curP).mons = (s.core s.curP).mons
    ∧ ∀ j, s.Sent (((s.counted i).request i.counted r kind rd rel waits extra).2.setCur j) i j r := by
  obtain ⟨hid, hsent⟩ := State.request_plain hi hr kind rd rel waits extra
  obtain ⟨q, -, hreq⟩ := (s.counted i).request_spec i.counted r kind rd rel waits extra
  obtain ⟨-, -, hP, hS⟩ := hreq.rest
  obtain ⟨o, l, -, -, -, hcore⟩ := hreq.core
  refine ⟨hid, hP.trans (State.counted_curP s i), hS.trans (State.counted_curS s i), ?_, hsent⟩
  rw [hcore, if_pos (State.counted_curP s i).symm]
  exact State.counted_mons s i s.curP

/-- Settles O24: the operations that a word names are those of its core's list; BARRIVE is one flight behind them, and WATCH
one request or the answer of the core itself. -/
theorem orderingWordsComplete : Obligations.OrderingWordsComplete := by
  refine ⟨fun s i sc p1 p2 a => ⟨fun h => ?_, fun h => ?_, fun h hall => ?_, fun h k g tg w m hb hreg htr hm => ?_⟩,
    fun s p i e o he ho hid hinto => State.not_ready_of_drains he ho hid hinto, fun s i d a b c hidx sc n =>
      ⟨fun h ha hb0 hb => ?_, fun k g hal hb hwin hrs hreg hwen =>
        ⟨fun h hb0 hroom => ?_, fun h hb0 hfull => ?_, fun h hb1 => ?_⟩⟩⟩
  · refine ⟨(s.core s.curP).covered i.iid sc, ?_, Core.mem_covered _ _ _⟩
    rw [show exec (.fence sc) s = execFence sc s from rfl, execFence, State.onFit_eq h]
    simp only [State.counted_covered, State.counted_curP, State.retire_counted]
    rfl
  · refine ⟨((s.core s.curP).onPath p1).map Op.id, ?_, Core.mem_onPath_ids _ _⟩
    rw [show exec (.xfence p1 p2) s = execXfence p1 p2 s from rfl, execXfence, State.onFit_eq h]
    simp only [State.counted_onPath, State.counted_curP, State.retire_counted]
    rfl
  · refine ⟨((s.core s.curP).onPath p1).map Op.id, ?_, Core.mem_onPath_ids _ _⟩
    rw [show exec (.drain p1 a) s = execDrain p1 a s from rfl, execDrain, State.onFit_eq h]
    simp only [Inst.counted_readG, hall, if_true, State.counted_onPath, State.counted_curP, State.retire_counted]
    rfl
  · refine ⟨(((s.core s.curP).onPath p1).filter (fun o => (s.counted i).opInto (dieOf s.curP) o m)).map (fun o => (o.id, m)),
      ?_, fun e => ?_⟩
    · rw [show exec (.drain p1 a) s = execDrain p1 a s from rfl, execDrain, State.onFit_eq h]
      have hnot : ¬ (i.readG a).toNat = 2 ^ 64 - 1 := by omega
      have haddr : (s.ctx i.ctx).checkAddr (i.readG a).toNat 1 false = .ok (k, g) := by
        simp only [Ctx.checkAddr, if_neg (Nat.not_le.2 hb), Ctx.checkRegion, hreg, Bool.false_and, Bool.false_eq_true, if_false]
      simp only [Inst.counted_readG, if_neg hnot, State.counted_ctx, Inst.counted_ctx, haddr, State.counted_curP, htr, hm,
        State.counted_onPath, State.retire_counted]
      rfl
    · simp only [List.mem_map, List.mem_filter, Core.mem_onPath]
      exact ⟨fun ⟨o, ⟨⟨ho, hp⟩, hi⟩, he⟩ => ⟨o, ho, he.symm, hp, hi⟩, fun ⟨o, ho, he, hp, hi⟩ => ⟨o, ⟨⟨ho, hp⟩, hi⟩, he.symm⟩⟩
  · rw [show exec (.barrive a b c hidx sc n) s = execBarrive a b c hidx sc n s from rfl, execBarrive, State.onFit_eq h]
    simp only [Inst.counted_readG, ge_iff_le, if_neg (Nat.not_le.2 ha),
      if_neg (not_or.2 ⟨Nat.pos_iff_ne_zero.1 hb0, Nat.not_le.2 hb⟩), State.counted_ctx, Inst.counted_ctx, State.counted_covered,
      State.counted_curP, State.counted_curS]
    generalize (if scopeNum sc = 5 ∧ (s.ctx i.ctx).desc.rank ≠ 0 then _ else _ : Goal × (Nat × Nat)) = way
    obtain ⟨goal, dst⟩ := way
    obtain ⟨t, ht, hslot, hmem, hfl⟩ := State.launchFlight_retire h.1 { mkFlight (whoOf i.counted s.curP s.curS) 0 false
      (.barrier ⟨i.ctx, scopeNum sc, n.toNat, (i.readG b).toNat, i.readG c, (s.ctx i.ctx).desc.rank, i.lcore, hidx.toNat,
        (i.readG a).toNat⟩) goal (xyOfCore s.curP) dst with
      afterPerf := (s.core s.curP).covered i.iid sc, releasing := true,
      stage := if ((s.core s.curP).covered i.iid sc).isEmpty then .router (xyOfCore s.curP).1 (xyOfCore s.curP).2 false
        else .held } i.counted
    refine ⟨t, _, ht, hslot, hmem, hfl, rfl, ?_⟩
    rw [← Core.exists_covered]
    cases (s.core s.curP).covered i.iid sc <;> simp
  · rw [show exec (.watchRegister d a b c hidx) s = execWatchRegister d a b c hidx s from rfl, execWatchRegister, State.onFit_eq h]
    simp only [Inst.counted_readG, State.checkWatch_ok hal hb hwin hrs hreg hwen (show (i.readG b).toNat = 0 by rw [hb0]; rfl),
      State.counted_curP, State.counted_mons, if_neg (Nat.not_le.2 hroom)]
    obtain ⟨hid, hP, hS, hmons, hsent⟩ := State.request_mons h.1 (r := mkReq .watch i.counted k g (i.readG a).toNat 8 []
      (i.readG c) (.watch d)) rfl g.kind true none [] []
    generalize (s.counted i).request i.counted _ g.kind true none [] [] = x at *
    obtain ⟨fid, u⟩ := x
    subst hid
    simp only at hP hS hmons hsent
    refine ⟨_, mkReq .watch i.counted k g (i.readG a).toNat 8 [] (i.readG c) (.watch d), rfl, ?_, rfl, rfl, ?_⟩
    · rw [hP]
      exact (hsent _).setMons h.1 hP hS _
    · have hcore : ∀ (c : Core) (j : Inst), (((u.setCore s.curP c).setCur j).core s.curP).mons = c.mons := fun c j => by
        simp [State.setCur, State.setInst, hP, Core.setSlot]
      rw [hP, hcore, ← hmons]
      exact ⟨_, rfl, rfl, rfl, rfl, rfl, rfl⟩
  · rw [show exec (.watchRegister d a b c hidx) s = execWatchRegister d a b c hidx s from rfl, execWatchRegister, State.onFit_eq h]
    simp only [Inst.counted_readG, State.checkWatch_ok hal hb hwin hrs hreg hwen (show (i.readG b).toNat = 0 by rw [hb0]; rfl),
      State.counted_curP, State.counted_mons, if_pos hfull, State.retireLater_counted]
  · rw [show exec (.watchCancel d a b c hidx) s = execWatchCancel d a b c hidx s from rfl, execWatchCancel, State.onFit_eq h]
    simp only [Inst.counted_readG, State.checkWatch_ok hal hb hwin hrs hreg hwen (show (i.readG b).toNat = 1 by rw [hb1]; rfl),
      State.counted_curP, State.counted_mons, List.partition_eq_filter_filter]
    generalize hk : List.filter (not ∘ _) (s.core s.curP).mons = kept
    generalize hg : List.filter _ (s.core s.curP).mons = gone
    have hkept : kept = (s.core s.curP).mons.filter (fun m => !(m.ctx = i.ctx && m.va = (i.readG a).toNat)) := hk.symm
    have hgone : gone.length = (s.core s.curP).mons.countP (fun m => m.ctx = i.ctx && m.va = (i.readG a).toNat) :=
      (congrArg List.length hg.symm).trans List.countP_eq_length_filter.symm
    generalize hu : State.setCore _ _ _ = u
    have hP : u.curP = s.curP := by rw [← hu]; simp
    have hS : u.curS < 8 := by rw [← hu]; simpa using h.1.slot
    have hid : u.nextId = s.nextId := by rw [← hu]; simp
    have hmons : (u.core s.curP).mons = (s.core s.curP).mons.filter (fun m => !(m.ctx = i.ctx && m.va = (i.readG a).toNat)) := by
      rw [← hu]; simp [hkept]
    have hcore : ∀ (t : State) (j : Inst), ((t.setCur j).core s.curP).mons = (t.core s.curP).mons := fun t j => by
      by_cases ht : s.curP = t.curP
      · simp [State.setCur, State.setInst, ht, Core.setSlot]
      · simp [State.setCur, State.setInst, ht]
    by_cases hfew : gone.isEmpty || decide (g.kind < 2)
    · rw [if_pos hfew]
      refine ⟨_, rfl, ?_, fun n hn => ⟨fun _ => ?_, fun hpos hpeer => ?_⟩⟩
      · exact (hcore _ _).trans hmons
      · rw [hn, ← hgone, ← hid]
        exact Issuing_setCur _ hS
      · have hnone : gone = [] := by simpa [Nat.not_lt.2 hpeer] using hfew
        rw [hn, ← hgone, hnone] at hpos
        cases hpos
    · rw [if_neg hfew]
      obtain ⟨q, hq, hreq⟩ := u.request_spec i.counted (mkReq .unwatch i.counted k g (i.readG a).toNat 8 [] 0 (.unwatch d))
        g.kind true none [] []
      rw [State.takeSource_none _ rfl, or_self] at hq
      subst hq
      obtain ⟨f, hfl, -, hbody, -⟩ := hreq.flight
      obtain ⟨o, l, -, -, -, hops⟩ := hreq.core
      obtain ⟨-, -, -, hcurS⟩ := hreq.rest
      have hfid := hreq.fid.trans hid
      generalize u.request i.counted _ g.kind true none [] [] = x at *
      obtain ⟨fid, w⟩ := x
      subst hfid
      refine ⟨_, rfl, ?_, fun n hn => ⟨fun hzero => ?_, fun hpos hpeer => ⟨Issuing_setCur _ (hcurS ▸ hS), f, _, ?_, hbody, rfl,
        rfl, rfl⟩⟩⟩
      · rw [hcore, hops, ← hmons]
        split <;> rfl
      · rw [hn, ← hgone] at hzero
        simp only [Bool.or_eq_true, List.isEmpty_iff_length_eq_zero, decide_eq_true_eq] at hfew
        exact absurd hzero hfew
      · exact hfl ▸ List.mem_append_right _ (List.mem_singleton_self f)

end Sys2Proof.Machine

/-! SUPPORT. What the messages' statement says of REPLY, on a concrete state. -/

namespace Sys2Proof.Machine

open Sys2Proof

/-- An instance whose g4, g5 and g6 are the route word, the value and the control word of a REPLY (06 R112). -/
def replyInst : Inst := { Inst.fresh with
  iid := 1
  hdr := { HHdr.zero with gcnt := 64, glive := 64, len := 16 }
  g := (((Vector.replicate 64 0).set 4 0x45).set 5 5).set 6 0x208 }

/-- That instance in slot 0 of core 0, in a running context of one core, with nothing on its way. -/
def replyState : State := { State.reset with
  ctxs := [(0, { Ctx.reset with st := .running, lcs := [(0, CtxCore.init 0)] })]
  cores := [(0, Core.reset.setSlot 0 (some replyInst))] }

/-- The message of a REPLY carries the track of a REPLY (22 R368). -/
theorem exec_replyState_body : (match exec (.reply 4 5 6 false) replyState with
    | .next t => t.flights.all (fun f => match f.body with
      | .msg _ .reply => true
      | _ => false)
    | _ => false) = true := by decide +kernel

/-- Refutes O25: REPLY's message leaves with the track of a REPLY, by which its acknowledgement tells the sender's log, where
the statement gives it the track of a message that nobody asks after. -/
theorem not_messagesComplete : ¬ Obligations.MessagesComplete := by
  intro ⟨_, hreply, _⟩
  have hissues : replyState.Issues replyInst (.reply 4 5 6 false) := ⟨rfl, by decide +kernel⟩
  have hcheck : replyState.checkReply replyInst 0x45 5 0x208 = .ok (leBytes 8 5) := by decide +kernel
  have hreach : replyState.reaches replyInst.ctx (bitsOf 0x45 63 48) (bitsOf 0x45 47 38) := .inr (.inr (by decide +kernel))
  obtain ⟨t, m, ht, hl, -⟩ := (hreply replyState replyInst 4 5 6 false 0x45 (by decide +kernel) hreach).1 hissues 0x208 _
    (by decide +kernel) hcheck
  obtain ⟨f, hf, hbody, -⟩ := hl.flight
  have hall := exec_replyState_body
  rw [ht] at hall
  have hmem : f ∈ t.flights := hf ▸ List.mem_append_right _ (List.mem_singleton_self f)
  have hbad := List.all_eq_true.1 hall f hmem
  rw [hbody] at hbad
  cases hbad

end Sys2Proof.Machine

/-! SUPPORT. Parking: the continuation, its record and its silo's control block (10 R210, 01 R17). -/

namespace Sys2Proof.Machine

open Sys2Proof

/-! Tables with an entry set. -/

theorem Tab.get?_put {α : Type} (t : Tab α) (k : Nat) (x : α) : (t.put k x).get? k = some x := by
  induction t with
  | nil => simp [Tab.put, Tab.get?]
  | cons e t ih =>
    obtain ⟨n, v⟩ := e
    by_cases h : k < n
    · simp [Tab.put, Tab.get?, h]
    · by_cases h' : k = n
      · subst h'; simp [Tab.put, Tab.get?]
      · have h'' : ¬ n = k := fun e => h' e.symm
        simp [Tab.put, Tab.get?, h, h', h'', ih]

/-! Cores of a context, through writes of owners. -/

theorem State.ownerWrite_lc (s : State) (pa : Nat) (bs : List Byte) (c l : Nat) : (s.ownerWrite pa bs).lc c l = s.lc c l :=
  State.ownerWrite_ctx (fun x => x.lc l) (fun _ _ _ => rfl) s pa c bs

theorem State.siloControl_lc (s : State) (c lc c' l : Nat) : (s.siloControl c lc).lc c' l = s.lc c' l :=
  (State.ownerWrite_lc ..).trans rfl

@[simp] theorem State.siloControl_inst? (s : State) (c lc p sl : Nat) : (s.siloControl c lc).inst? p sl = s.inst? p sl :=
  (State.ownerWrite_inst? ..).trans rfl

@[simp] theorem State.setCore_lc (s : State) (p : Nat) (x : Core) (c l : Nat) : (s.setCore p x).lc c l = s.lc c l := rfl

/-- An instance that is held no more changes its core's count of them alone. -/
theorem State.unhold_lc (s : State) (i : Inst) : ∃ h, (s.unhold i).lc i.ctx i.lcore = { s.lc i.ctx i.lcore with held := h } := by
  unfold State.unhold
  split
  · exact ⟨_, rfl⟩
  · exact ⟨_, State.lc_setLc ..⟩

/-- The state of a parking instance's core as its continuation is entered, before anything is written. -/
def State.parking (s : State) (p sl : Nat) (i : Inst) (k : Cont) : State :=
  ((s.unhold i).setInst p sl none).setLc i.ctx i.lcore { (s.unhold i).lc i.ctx i.lcore with
    conts := ((s.unhold i).lc i.ctx i.lcore).conts.put ((s.unhold i).lc i.ctx i.lcore).nextCont
      { k with inst := { i.kept with stopped := .no } } }

/-- What of a core does not depend on whom it holds, an instance that is held no more leaves. -/
theorem State.unhold_lc_of {β : Type} (r : CtxCore → β) (hr : ∀ l h, r { l with held := h } = r l) (s : State) (i : Inst) :
    r ((s.unhold i).lc i.ctx i.lcore) = r (s.lc i.ctx i.lcore) := by
  obtain ⟨h, hh⟩ := s.unhold_lc i
  rw [hh, hr]

/-- What of a core depends neither on whom it holds nor on its continuations, is the same as the continuation is entered. -/
theorem State.parking_lc_of {β : Type} (r : CtxCore → β) (hr : ∀ l h k, r { l with held := h, conts := k } = r l) (s : State)
    (p sl : Nat) (i : Inst) (k : Cont) : r ((s.parking p sl i k).lc i.ctx i.lcore) = r (s.lc i.ctx i.lcore) := by
  rw [State.parking, State.lc_setLc]
  exact (hr _ _ _).trans (State.unhold_lc_of r (fun l h => hr l h l.conts) s i)

theorem State.unhold_desc (s : State) (i : Inst) (c : Nat) : ((s.unhold i).ctx c).desc = (s.ctx c).desc := by
  unfold State.unhold
  split
  · rfl
  · rw [State.setLc, State.ctx_setCtx]
    split
    · next h => subst h; rfl
    · rfl

theorem State.parking_desc (s : State) (p sl : Nat) (i : Inst) (k : Cont) (c : Nat) :
    ((s.parking p sl i k).ctx c).desc = (s.ctx c).desc := by
  rw [State.parking, State.setLc, State.ctx_setCtx]
  split
  · next h => subst h; exact s.unhold_desc i _
  · exact s.unhold_desc i _

theorem State.parking_siloAt (s : State) (p sl : Nat) (i : Inst) (k : Cont) :
    (s.parking p sl i k).siloAt i.ctx i.lcore = s.siloAt i.ctx i.lcore := by
  rw [State.siloAt, State.siloAt, State.parking_desc, State.parking_lc_of CtxCore.siloZ (fun _ _ _ => rfl)]

theorem State.parking_contAt (s : State) (p sl : Nat) (i : Inst) (k : Cont) (r : Nat) :
    (s.parking p sl i k).contAt i.ctx i.lcore r = s.contAt i.ctx i.lcore r := by
  simp only [State.contAt, State.parking_siloAt, State.parking_lc_of CtxCore.siloZ (fun _ _ _ => rfl),
    State.parking_lc_of CtxCore.contMax (fun _ _ _ => rfl)]

/-- A park, with room for its record. -/
theorem State.park_eq {s : State} {p sl : Nat} {i : Inst} (k : Cont)
    (hroom : (s.lc i.ctx i.lcore).nextCont < (s.lc i.ctx i.lcore).contMax) : ∃ (bs : List Byte) (r : Nat), bs.length = 4096 ∧
      s.park p sl i k = (((s.parking p sl i k).ownerWrite (s.contAt i.ctx i.lcore (s.lc i.ctx i.lcore).nextCont)
        bs).siloControl i.ctx i.lcore).setCore p (((((s.parking p sl i k).ownerWrite
          (s.contAt i.ctx i.lcore (s.lc i.ctx i.lcore).nextCont) bs).siloControl i.ctx i.lcore).core p).cachePark i.ctx r) := by
  have hnext : ((s.unhold i).lc i.ctx i.lcore).nextCont = (s.lc i.ctx i.lcore).nextCont :=
    s.unhold_lc_of CtxCore.nextCont (fun _ _ => rfl) i
  have hmax : ((s.unhold i).lc i.ctx i.lcore).contMax = (s.lc i.ctx i.lcore).contMax :=
    s.unhold_lc_of CtxCore.contMax (fun _ _ => rfl) i
  rw [← hnext, ← hmax] at hroom
  refine ⟨({ i.kept with stopped := .no } : Inst).recordBytes k.wait.word, ((s.unhold i).lc i.ctx i.lcore).nextCont,
    padTo_length 4096 _, ?_⟩
  rw [← hnext, ← State.parking_contAt s p sl i k]
  exact if_pos hroom

section
variable {s : State} {p sl : Nat} {i : Inst} (k : Cont)
  (hroom : (s.lc i.ctx i.lcore).nextCont < (s.lc i.ctx i.lcore).contMax)
include hroom

/-- The core of the context after its instance has parked: the continuation is entered. -/
theorem State.park_lc : ∃ h, (s.park p sl i k).lc i.ctx i.lcore = { s.lc i.ctx i.lcore with
      held := h
      conts := (s.lc i.ctx i.lcore).conts.put (s.lc i.ctx i.lcore).nextCont { k with inst := { i.kept with stopped := .no } } } := by
  obtain ⟨h, hh⟩ := s.unhold_lc i
  obtain ⟨bs, r, -, hpark⟩ := State.park_eq (p := p) (sl := sl) k hroom
  refine ⟨h, ?_⟩
  rw [hpark, State.setCore_lc, State.siloControl_lc, State.ownerWrite_lc, State.parking, State.lc_setLc, hh]
  rfl

/-- The slot of an instance that parks is free. -/
theorem State.park_inst? (hsl : sl < 8) : (s.park p sl i k).inst? p sl = none := by
  obtain ⟨bs, r, -, hpark⟩ := State.park_eq (p := p) (sl := sl) k hroom
  have hfree : ((s.unhold i).setInst p sl none).inst? p sl = none := by
    rw [State.inst?_setInst _ _ _ _ _ _ hsl, if_pos ⟨rfl, rfl⟩]
  have hcache : ∀ t : State, (t.setCore p ((t.core p).cachePark i.ctx r)).inst? p sl = t.inst? p sl := fun t => by
    rw [State.inst?, State.core_setCore, if_pos rfl]; rfl
  rw [hpark, hcache, State.siloControl_inst?, State.ownerWrite_inst?]
  exact hfree

/-- A park writes its continuation record and its silo's control block, and no other byte. -/
theorem State.park_readByte (hm : s.memOk) {x : Nat}
    (hc : ¬ (s.contAt i.ctx i.lcore (s.lc i.ctx i.lcore).nextCont ≤ x
      ∧ x < s.contAt i.ctx i.lcore (s.lc i.ctx i.lcore).nextCont + 4096))
    (hs : ¬ (s.siloAt i.ctx i.lcore ≤ x ∧ x < s.siloAt i.ctx i.lcore + 4096)) :
    Memory.readByte (s.park p sl i k).mem x = Memory.readByte s.mem x := by
  obtain ⟨bs, r, hlen, hpark⟩ := State.park_eq (p := p) (sl := sl) k hroom
  have hmem : (s.parking p sl i k).mem = s.mem := s.unhold_mem i
  have hsilo : ((s.parking p sl i k).ownerWrite (s.contAt i.ctx i.lcore (s.lc i.ctx i.lcore).nextCont) bs).siloAt i.ctx i.lcore
      = s.siloAt i.ctx i.lcore := by
    rw [State.siloAt, State.ownerWrite_lc, State.ownerWrite_ctx Ctx.desc (fun _ _ _ => rfl)]
    exact State.parking_siloAt ..
  rw [hpark, State.setCore_mem, State.siloControl, State.openBytes, State.free, State.ownerWrite_mem, hsilo]
  rw [Memory.readByte_write_out _ _ _ (by simp; omega), State.ownerWrite_mem, hmem,
    Memory.readByte_write_out _ _ hm (by omega)]
  rw [State.ownerWrite_mem, hmem]
  exact Memory.wf_write _ _ hm

end

/-! The continuation of a parked instance (10 Table 10-6). -/

/-- A count of words is no part of a register write, of a loop check or of where a word ends. -/
theorem Inst.counted_writeG (i : Inst) (r : GReg) (x : Word) : i.counted.writeG r x = (i.writeG r x).counted := by
  unfold Inst.writeG Inst.setG
  split <;> rfl

theorem loopCheck_counted (i : Inst) (level idx : Nat) :
    loopCheck i.counted level idx = ((loopCheck i level idx).1.counted, (loopCheck i level idx).2) := by
  simp only [loopCheck, Inst.counted_readG, Inst.counted_writeG]
  split
  · split <;> rfl
  · rfl

theorem Inst.counted_advance_pc (i : Inst) : i.counted.advance.pc = i.advance.pc := by
  have hidx : i.counted.index i.counted.pc = i.index i.pc := rfl
  have hpend : i.counted.loopPending = i.loopPending := rfl
  unfold Inst.advance
  rw [hpend]
  split
  · rfl
  · simp only [Inst.boundary, hidx, loopCheck_counted]
    rcases loopCheck i 1 (i.index i.pc) with ⟨i1, _ | t⟩
    · simp only [loopCheck_counted]
      rcases loopCheck i1 0 (i.index i.pc) with ⟨i0, _ | t⟩ <;> rfl
    · rfl

theorem Inst.counted_parkAt_pc (i : Inst) (d : GReg) : (i.counted.parkAt d).pc = (i.parkAt d).pc := by
  unfold Inst.parkAt Inst.edgeAt
  split
  · rfl
  · exact i.counted_advance_pc

/-- The boundary at which a word parks changes no register but a loop register. -/
theorem Inst.parkAt_keeps (i : Inst) (d : GReg) : i.Keeps (i.counted.parkAt d) [] := by
  refine Inst.Keeps.safePoint ?_
  unfold Inst.edgeAt
  split
  · exact { Inst.Keeps.refl i [] with }
  · exact i.counted_advance_keeps

/-- A parked instance keeps the live registers of its header. -/
theorem Inst.kept_readG (i : Inst) (r : GReg) : i.kept.readG r = if r.toNat < i.hdr.glive then i.readG r else 0 := by
  unfold Inst.readG Inst.kept
  by_cases h : r = 0#6
  · simp [h]
  · simp only [if_neg h]
    by_cases hl : r.toNat < i.hdr.glive <;> simp [hl]

/-- What a continuation record holds of the instance that parks. -/
theorem Cont.parks_of {i j : Inst} {w : ParkWait} {d : GReg} (e : Option (Word × Word × Word)) (y : Option (XReg × Nat)) (z : Cause)
    (hiid : j.iid = i.iid) (hpc : j.pc = (i.parkAt d).pc)
    (hg : ∀ r : GReg, r ≠ 1 → r ≠ 2 → j.readG r = if r.toNat < i.hdr.glive then i.readG r else 0) :
    Cont.Parks ⟨{ j with stopped := .no }, w, d, none, y, e, z⟩ i w d := ⟨hiid, hpc, rfl, rfl, rfl, hg⟩

/-- The continuation of a word that parks with destination `d` and waits for `w`. -/
theorem Inst.parkAt_parks (i : Inst) (d : GReg) (w : ParkWait) (e : Option (Word × Word × Word)) (y : Option (XReg × Nat))
    (z : Cause) : Cont.Parks ⟨{ (i.counted.parkAt d).kept with stopped := .no }, w, d, none, y, e, z⟩ i w d := by
  have hk := i.parkAt_keeps d
  have hpc := i.counted_parkAt_pc d
  generalize i.counted.parkAt d = j at hk hpc
  have hiid : j.iid = i.iid := congrArg (·.1) hk.name
  refine Cont.parks_of e y z ((show j.kept.iid = j.iid by rw [Inst.kept]).trans hiid)
    ((show j.kept.pc = j.pc by rw [Inst.kept]).trans hpc) (fun r h1 h2 => ?_)
  rw [j.kept_readG, hk.hdr, hk.g r (by simp) (by rintro (rfl | rfl) <;> simp_all)]

end Sys2Proof.Machine

/-! SUPPORT. Payload reads, tags and ARM (06 R115 to R118). -/

namespace Sys2Proof.Machine

open Sys2Proof

/-! Payload reads. -/

theorem payloadRows_isMsgld : ∀ r ∈ payloadRows, ∀ d a imm s, exec (r.1 d a imm) s = s.msgld (uses (r.1 d a imm)) d a imm r.2 := by
  simp only [payloadRows, List.forall_mem_cons, List.not_mem_nil, false_imp_iff, implies_true, and_true]
  and_intros <;> exact fun _ _ _ _ => rfl

/-- What a payload read does, by where its offset lies. -/
theorem State.msgld_eq {s : State} {i : Inst} {x : Instr} (h : s.Issues i x) (d a : GReg) (imm : BitVec 32) (n : Nat) {o : Int}
    (ho : o = (i.readG a).toInt + imm.toInt) : s.msgld (uses x) d a imm n =
      if o % n ≠ 0 then .next (s.faulted i fMisaligned (BitVec.ofInt 64 o).toNat 0)
      else if o < 0 ∨ o + n > 256 then .next (s.faulted i fOperand 0 (i.readG a).toNat)
      else .next (({ s.counted i with nextId := s.nextId + 1 }).setCur
        (i.counted.await s.nextId (gDest d) false (some (word64 (ofLe (sliceBytes i.payload o.toNat n))))).advance) := by
  subst ho
  rw [State.msgld, State.onFit_eq h]
  simp only [Inst.counted_readG, State.raise_counted, State.retireLater_counted]
  rfl

/-! The lowest free tag (06 R116). -/

theorem firstFree_eq_some {live : List Nat} (n t k : Nat) (ht : t ≤ k) (hk : k < t + n) (hfree : k ∉ live)
    (hlow : ∀ j, t ≤ j → j < k → j ∈ live) : firstFree n t live = some k := by
  induction n generalizing t with
  | zero => omega
  | succ n ih =>
    unfold firstFree
    by_cases h : t = k
    · subst h
      rw [if_neg (by simpa using hfree)]
    · rw [if_pos (by simpa using hlow t (Nat.le_refl t) (by omega))]
      exact ih (t + 1) (by omega) (by omega) (fun j hj hjk => hlow j (by omega) hjk)

theorem firstFree_eq_none {live : List Nat} (n t : Nat) (hall : ∀ k, t ≤ k → k < t + n → k ∈ live) :
    firstFree n t live = none := by
  induction n generalizing t with
  | zero => rfl
  | succ n ih =>
    unfold firstFree
    rw [if_pos (by simpa using hall t (Nat.le_refl t) (by omega))]
    exact ih (t + 1) (fun k hk hkn => hall k (by omega) (by omega))

/-- Tags in a row that are live are no more than the live tags. -/
theorem run_le_length {live : List Nat} {b k : Nat} (hlow : ∀ j, b ≤ j → j < k → j ∈ live) : k - b ≤ live.length := by
  have hsub : List.range' b (k - b) ⊆ live := fun j hj => by
    rw [List.mem_range'_1] at hj
    exact hlow j hj.1 (by omega)
  simpa using ((List.nodup_range' (s := b) (n := k - b) (step := 1)).subperm hsub).length_le

theorem TagGroup.lowestFree_eq_some {g : TagGroup} {k : Nat} (hroom : g.live.length < g.limit) (hb : g.base ≤ k)
    (hs : k < g.base + g.span) (hfree : k ∉ g.live) (hlow : ∀ j, g.base ≤ j → j < k → j ∈ g.live) : g.lowestFree = some k := by
  have hrun := run_le_length hlow
  rw [TagGroup.lowestFree, if_pos hroom]
  exact firstFree_eq_some _ _ _ hb (by omega) hfree hlow

theorem TagGroup.lowestFree_eq_none {g : TagGroup}
    (h : g.limit ≤ g.live.length ∨ ∀ k, g.base ≤ k → k < g.base + g.span → k ∈ g.live) : g.lowestFree = none := by
  unfold TagGroup.lowestFree
  split
  · next hroom =>
    have hall := h.resolve_left (by omega)
    exact firstFree_eq_none _ _ (fun k hk hkn => hall k hk (by omega))
  · rfl

/-! Groups, and what a word that sets one leaves. -/

theorem CtxCore.group_put (l : CtxCore) (n : Nat) (g : TagGroup) : ({ l with tgs := Tab.put l.tgs n g } : CtxCore).group n = g := by
  simp [CtxCore.group, Tab.get_put]

@[simp] theorem State.lc_setGroup (s : State) (c l n : Nat) (g : TagGroup) :
    (s.setGroup c l n g).lc c l = { s.lc c l with tgs := Tab.put (s.lc c l).tgs n g } := State.lc_setLc ..

@[simp] theorem State.setGroup_curS (s : State) (c l n : Nat) (g : TagGroup) : (s.setGroup c l n g).curS = s.curS := rfl
@[simp] theorem State.setCur_lc (s : State) (j : Inst) (c l : Nat) : (s.setCur j).lc c l = s.lc c l := rfl

/-- The word that takes tag `k` of group `n`: the tag is live, and gD is its number. -/
theorem State.takeTag {s : State} {i : Inst} (h : s.Issuing i) (d : GReg) (n k : Nat) (g : TagGroup) :
    ∃ t, ((s.counted i).setGroup i.ctx i.lcore n { g with live := k :: g.live }).retireG i.counted d (word64 k) = .next t
      ∧ t.Issuing (i.counted.writeG d (word64 k)).advance ∧ ((t.lc i.ctx i.lcore).group n).live = k :: g.live := by
  refine ⟨_, rfl, Issuing_setCur _ (by simpa using h.slot), ?_⟩
  rw [State.setCur_lc, State.lc_setGroup, CtxCore.group_put]

/-- The word that parks its instance at a tag group: the slot is free, and the group's list ends with the record. -/
theorem State.parkAtGroup {s : State} {i : Inst} (h : s.Issuing i) (d : GReg) (n : Nat) (g : TagGroup)
    (hroom : (s.lc i.ctx i.lcore).nextCont < (s.lc i.ctx i.lcore).contMax) :
    ∃ k, ((((s.counted i).setGroup i.ctx i.lcore n g).park s.curP s.curS (i.counted.parkAt d)
        ⟨i.counted.parkAt d, .tag n, d, none, none, none, .none⟩).inst? s.curP s.curS = none)
      ∧ ((((s.counted i).setGroup i.ctx i.lcore n g).park s.curP s.curS (i.counted.parkAt d)
        ⟨i.counted.parkAt d, .tag n, d, none, none, none, .none⟩).lc i.ctx i.lcore).conts.get?
          (s.lc i.ctx i.lcore).nextCont = some k
      ∧ k.Parks i (.tag n) d
      ∧ ((((s.counted i).setGroup i.ctx i.lcore n g).park s.curP s.curS (i.counted.parkAt d)
        ⟨i.counted.parkAt d, .tag n, d, none, none, none, .none⟩).lc i.ctx i.lcore).group n = g := by
  have hname := (i.parkAt_keeps d).name
  have hparks := i.parkAt_parks d (.tag n) none none .none
  generalize i.counted.parkAt d = j at hname hparks
  simp only [Prod.mk.injEq] at hname
  obtain ⟨-, hctx, hlc, -⟩ := hname
  rw [← hctx, ← hlc] at hroom ⊢
  have hgroup : ((s.counted i).setGroup j.ctx j.lcore n g).lc j.ctx j.lcore
      = { s.lc j.ctx j.lcore with tgs := Tab.put (s.lc j.ctx j.lcore).tgs n g } := by
    rw [State.lc_setGroup, State.counted_lc]
  obtain ⟨held, hlc'⟩ := State.park_lc (s := (s.counted i).setGroup j.ctx j.lcore n g) (p := s.curP) (sl := s.curS) (i := j)
    ⟨j, .tag n, d, none, none, none, .none⟩ (by rw [hgroup]; exact hroom)
  have hslot := State.park_inst? (s := (s.counted i).setGroup j.ctx j.lcore n g) (p := s.curP) (i := j)
    ⟨j, .tag n, d, none, none, none, .none⟩ (by rw [hgroup]; exact hroom) (State.inst?_lt h)
  rw [hgroup] at hlc'
  refine ⟨_, hslot, ?_, hparks, ?_⟩
  · rw [hlc']
    exact Tab.get?_put ..
  · rw [hlc']
    exact CtxCore.group_put ..

/-- A value handed to a parked instance stands in its continuation, and changes no tag group. -/
theorem State.handOver_lc (s : State) (c l r : Nat) (v : Word) (cur : Option (XReg × Nat)) (z : Cause) :
    ((s.handOver c l r v cur z).lc c l).tgs = (s.lc c l).tgs
    ∧ ∀ k, (s.lc c l).conts.get? r = some k → (((s.handOver c l r v cur z).lc c l).conts.get? r).map Cont.value = some (some v) := by
  unfold State.handOver
  dsimp only
  split
  · next k hk =>
    rw [State.lc_setLc]
    exact ⟨rfl, fun _ _ => by rw [Tab.get?_put]; rfl⟩
  · next hk => exact ⟨rfl, fun k hk' => absurd hk' (by rw [hk]; simp)⟩

theorem State.handOver_inst? (s : State) (c l r : Nat) (v : Word) (cur : Option (XReg × Nat)) (z : Cause) (p sl : Nat) :
    (s.handOver c l r v cur z).inst? p sl = s.inst? p sl := by
  unfold State.handOver
  dsimp only
  split <;> rfl

@[simp] theorem State.handOver_curP (s : State) (c l r : Nat) (v : Word) (cur : Option (XReg × Nat)) (z : Cause) :
    (s.handOver c l r v cur z).curP = s.curP := by
  unfold State.handOver
  dsimp only
  split <;> rfl

@[simp] theorem State.handOver_curS (s : State) (c l r : Nat) (v : Word) (cur : Option (XReg × Nat)) (z : Cause) :
    (s.handOver c l r v cur z).curS = s.curS := by
  unfold State.handOver
  dsimp only
  split <;> rfl

/-! ARM (06 R118). -/

theorem State.counted_checkArm (s : State) (i : Inst) (ga gb gc hidx : Nat) (act : Bool) :
    (s.counted i).checkArm i.counted ga gb gc hidx act = s.checkArm i ga gb gc hidx act := rfl

section
variable {s : State} {i : Inst} {ga gb gc : Nat}
  (hga : ga < 64) (hctr : ga < (s.lc i.ctx i.lcore).ctrn) (hgb0 : 0 < gb) (hgb : gb < 2 ^ 32)
include hga hctr hgb0 hgb

theorem State.checkArm_enqueue (hidx : Nat) (hgc : gc < 2 ^ 16) : s.checkArm i ga gb gc hidx true = .ok none := by
  rw [State.checkArm, if_neg (by omega), if_neg (by omega), if_pos rfl, if_neg (by omega)]

theorem State.checkArm_tile {k : Nat} {g : Region} (hal : gc % 32 = 0) (hb : gc < 2 ^ 56)
    (harr : (s.ctx i.ctx).holdsArr (quadOf s.curP) = true) (hreg : (s.ctx i.ctx).regionOf gc 32 = some (k, g)) :
    s.checkArm i ga gb gc 0 false = .ok (some (k, g)) := by
  rw [State.checkArm, if_neg (by omega), if_neg (by omega), if_neg (by simp), if_neg (by simp [hal, harr])]
  rw [Ctx.checkAddr, if_neg (by omega), Ctx.checkRegion, hreg]
  rfl

end

/-- The word that makes an event for its core's own acceptance and waits for the unit's answer. -/
theorem State.enqueue_armed {s : State} {i : Inst} (h : s.Issuing i) (d : GReg) (cls : Nat) (w : MadeWhat) :
    ∃ t, ((s.counted i).fresh.2.make s.curP cls i.ctx w).retire (i.counted.await s.nextId (gDest d) false none) = .next t
      ∧ t.Issuing (i.counted.await s.nextId (gDest d) false none).advance ∧ t.mem = s.mem
      ∧ (t.core s.curP).made = insertMade ⟨cls, i.ctx, w⟩ (s.core s.curP).made := by
  have hS : ((s.counted i).fresh.2.make s.curP cls i.ctx w).curS = s.curS := s.counted_curS i
  have hP : ((s.counted i).fresh.2.make s.curP cls i.ctx w).curP = s.curP := s.counted_curP i
  refine ⟨_, rfl, Issuing_setCur _ (by rw [hS]; exact h.slot), s.counted_mem i, ?_⟩
  have hmade : ∀ (t : State) (j : Inst), ((t.setCur j).core t.curP).made = (t.core t.curP).made := fun t j => by
    rw [State.setCur, State.setInst, State.core_setCore, if_pos rfl]
    rfl
  have hcore : ((s.counted i).core s.curP).made = (s.core s.curP).made := by
    rw [State.counted_core]
    split <;> rfl
  rw [← hcore]
  refine (congrArg (fun p => ((_ : State).core p).made) hP.symm).trans ((hmade _ _).trans ?_)
  rw [hP]
  simp only [State.make, State.core_setCore, if_true, State.fresh_core]

/-- Settles O26: a payload read by where its offset lies, a tag word by the lowest free tag of its group, and ARM by its
action. -/
theorem tagsPayloadAndArmComplete : Obligations.TagsPayloadAndArmComplete := by
  refine ⟨?_, ?_, ?_⟩
  · intro r hr s i d a imm o h ho
    rw [payloadRows_isMsgld r hr, State.msgld_eq h d a imm r.2 ho]
    refine ⟨fun hal h0 hend => ?_, fun hmis => if_pos hmis, fun hal hout => ?_⟩
    · rw [if_neg (not_not.2 hal), if_neg (by omega)]
    · rw [if_neg (not_not.2 hal), if_pos hout]
  · rintro s i d a n g rfl
    refine ⟨fun k hroom hb hs hfree hlow => ?_, fun hnone => ⟨fun h => ?_, fun h hcont => ?_⟩, fun h hlive => ?_, fun h hdead => ?_⟩
    · have hk := TagGroup.lowestFree_eq_some hroom hb hs hfree hlow
      refine ⟨fun h => ?_, fun h => ?_⟩
      · rw [show exec (.tagnew d n) s = execTagnew d n s from rfl, execTagnew, State.onFit_eq h]
        simp only [Inst.counted_ctx, Inst.counted_lcore, State.counted_lc, hk]
        exact State.takeTag h.1 d _ k _
      · rw [show exec (.tagpark d n) s = execTagpark d n s from rfl, execTagpark, State.onFit_eq h]
        simp only [Inst.counted_ctx, Inst.counted_lcore, State.counted_lc, hk]
        exact State.takeTag h.1 d _ k _
    · rw [show exec (.tagnew d n) s = execTagnew d n s from rfl, execTagnew, State.onFit_eq h]
      simp only [Inst.counted_ctx, Inst.counted_lcore, State.counted_lc, TagGroup.lowestFree_eq_none hnone, State.retireG_counted]
    · rw [show exec (.tagpark d n) s = execTagpark d n s from rfl, execTagpark, State.onFit_eq h]
      simp only [Inst.counted_ctx, Inst.counted_lcore, State.counted_lc, TagGroup.lowestFree_eq_none hnone]
      obtain ⟨k, hslot, hk, hparks, hgroup⟩ := State.parkAtGroup h.1 d n.toNat
        { (s.lc i.ctx i.lcore).group n.toNat with parked := ((s.lc i.ctx i.lcore).group n.toNat).parked
            ++ [(s.lc i.ctx i.lcore).nextCont] } hcont
      exact ⟨_, k, rfl, hslot, hk, hparks, congrArg TagGroup.parked hgroup⟩
    · rw [show exec (.tagfree a n) s = execTagfree a n s from rfl, execTagfree, State.onFit_eq h]
      simp only [Inst.counted_ctx, Inst.counted_lcore, State.counted_lc, Inst.counted_readG, List.contains_eq_mem, hlive,
        decide_true, Bool.not_true, Bool.false_eq_true, if_false]
      generalize hg : (s.lc i.ctx i.lcore).group n.toNat = g
      rcases hpk : g.parked with _ | ⟨r, rest⟩
      · refine ⟨_, rfl, Issuing_setCur _ (by simpa using h.1.slot), fun r rest hr => by simp at hr, fun _ => ?_⟩
        rw [State.setCur_lc, State.lc_setGroup, CtxCore.group_put]
      · obtain ⟨htgs, hval⟩ := ((s.counted i).setGroup i.ctx i.lcore n.toNat { g with parked := rest }).handOver_lc i.ctx
          i.lcore r (i.readG a) none (.tagHand i.counted.inum)
        refine ⟨_, rfl, Issuing_setCur _ (by simpa using h.1.slot), fun r' rest' hr => ?_, fun hr => by simp at hr⟩
        obtain ⟨rfl, rfl⟩ := List.cons.inj hr
        rw [State.setCur_lc]
        refine ⟨?_, fun k hk => hval k (by rw [State.lc_setGroup, State.counted_lc]; exact hk)⟩
        rw [CtxCore.group, htgs, State.lc_setGroup]
        exact CtxCore.group_put ..
    · rw [show exec (.tagfree a n) s = execTagfree a n s from rfl, execTagfree, State.onFit_eq h]
      simp only [Inst.counted_ctx, Inst.counted_lcore, State.counted_lc, Inst.counted_readG, List.contains_eq_mem, hdead,
        decide_false, Bool.not_false, if_true, State.raise_counted]
  · intro s i d a b c hidx prio hga hctr hgb0 hgb
    refine ⟨fun h hgc => ?_, fun h k g hal hb harr hreg => ?_⟩
    · rw [show exec (.arm d a b c hidx true prio) s = execArm d a b c hidx true prio s from rfl, execArm, State.onFit_eq h]
      simp only [Inst.counted_readG, State.counted_checkArm, State.checkArm_enqueue hga hctr hgb0 hgb _ hgc]
      exact State.enqueue_armed h.1 ..
    · rw [show exec (.arm d a b c 0 false prio) s = execArm d a b c 0 false prio s from rfl, execArm, State.onFit_eq h]
      have hchk := State.checkArm_tile hga hctr hgb0 hgb hal hb harr hreg
      simp only [Inst.counted_readG, State.counted_checkArm, show (0 : BitVec 12).toNat = 0 from rfl, hchk]
      obtain ⟨hid, hsent⟩ := State.request_plain h.1 (r := mkReq .read i.counted k g (i.readG c).toNat 32 [] 0
        (.arm d (i.readG a).toNat (i.readG b).toNat)) rfl g.kind true none [] []
      rw [hid]
      exact ⟨_, _, rfl, hsent _, rfl, rfl, rfl, rfl⟩

end Sys2Proof.Machine

/-! SUPPORT. Ring words and the weir (06 R119 to R123): what a write that no one watches leaves under way. -/

namespace Sys2Proof.Machine

open Sys2Proof

/-! Entries of tables. -/

theorem Tab.mem_put {α : Type} {t : Tab α} {k : Nat} {x : α} {e : Nat × α} (h : e ∈ t.put k x) : e = (k, x) ∨ e ∈ t := by
  induction t with
  | nil => exact .inl (by simpa [Tab.put] using h)
  | cons a t ih =>
    obtain ⟨n, v⟩ := a
    simp only [Tab.put] at h
    split at h
    · simpa using h
    · split at h
      · rcases List.mem_cons.1 h with h | h
        · exact .inl h
        · exact .inr (List.mem_cons_of_mem _ h)
      · rcases List.mem_cons.1 h with h | h
        · exact .inr (h ▸ List.mem_cons_self)
        · exact (ih h).imp_right (List.mem_cons_of_mem _)

theorem Tab.get_default_or_mem {α : Type} (d : α) (t : Tab α) (k : Nat) : Tab.get d t k = d ∨ (k, Tab.get d t k) ∈ t := by
  induction t with
  | nil => exact .inl rfl
  | cons a t ih =>
    obtain ⟨n, v⟩ := a
    simp only [Tab.get]
    split
    · next h => exact .inr (h ▸ List.mem_cons_self)
    · exact ih.imp_right (List.mem_cons_of_mem _)

/-! Bytes that nothing watches. -/

/-- A flight that no write wakes. -/
def Flight.Calm (f : Flight) : Prop := ∀ w b, f.stage ≠ .sliceHeld w b

theorem State.Unwatched.setCore {s : State} {pa n : Nat} (h : s.Unwatched pa n) (p : Nat) (c : Core)
    (hc : c.mons = (s.core p).mons) : (s.setCore p c).Unwatched pa n := by
  obtain ⟨hcores, hctxs, hfl⟩ := h
  refine ⟨fun e he m hm => ?_, hctxs, hfl⟩
  rcases Tab.mem_put he with rfl | he
  · rw [hc] at hm
    rcases Tab.get_default_or_mem Core.reset s.cores p with h0 | h0
    · rw [State.core, h0] at hm; cases hm
    · exact hcores _ h0 m hm
  · exact hcores e he m hm

theorem State.Unwatched.setCtx {s : State} {pa n : Nat} (h : s.Unwatched pa n) (c : Nat) (x : Ctx)
    (hs : x.saved = (s.ctx c).saved) (hw : x.watchers = (s.ctx c).watchers) : (s.setCtx c x).Unwatched pa n := by
  obtain ⟨hcores, hctxs, hfl⟩ := h
  refine ⟨hcores, fun e he => ?_, hfl⟩
  rcases Tab.mem_put he with rfl | he
  · simp only [hs, hw]
    rcases Tab.get_default_or_mem Ctx.reset s.ctxs c with h0 | h0
    · rw [State.ctx, h0]
      exact ⟨fun v hv => (nomatch hv), fun w hw => (nomatch hw)⟩
    · exact hctxs _ h0
  · exact hctxs e he

theorem State.Unwatched.setLc {s : State} {pa n : Nat} (h : s.Unwatched pa n) (c l : Nat) (x : CtxCore) :
    (s.setLc c l x).Unwatched pa n := h.setCtx _ _ rfl rfl

theorem State.Unwatched.setInst {s : State} {pa n : Nat} (h : s.Unwatched pa n) (p sl : Nat) (i : Option Inst) :
    (s.setInst p sl i).Unwatched pa n := h.setCore _ _ rfl

theorem State.Unwatched.unhold {s : State} {pa n : Nat} (h : s.Unwatched pa n) (i : Inst) : (s.unhold i).Unwatched pa n := by
  unfold State.unhold
  split
  · exact h
  · exact h.setLc ..

theorem State.Unwatched.launch {s : State} {pa n : Nat} (h : s.Unwatched pa n) {f : Flight} (hf : f.Calm) :
    (s.launchFlight f).2.Unwatched pa n := by
  obtain ⟨hcores, hctxs, hfl⟩ := h
  refine ⟨hcores, hctxs, fun g hg w b hw => ?_⟩
  rcases List.mem_append.1 hg with hg | hg
  · exact hfl g hg w b hw
  · rw [List.mem_singleton.1 hg] at hw
    exact absurd hw (hf w b)

theorem State.Unwatched.addOp {s : State} {pa n : Nat} (h : s.Unwatched pa n) (p : Nat) (o : Op) :
    (s.addOp p o).Unwatched pa n := h.setCore _ _ rfl

theorem State.Unwatched.fresh {s : State} {pa n : Nat} (h : s.Unwatched pa n) : s.fresh.2.Unwatched pa n := h

/-- A request is one calm flight, and watches nothing. -/
theorem State.request_calm (s : State) (i : Inst) (r : MemReq) (kind : Nat) (rd : Bool) (rel : Option Scope)
    (waits : List (Nat × Nat × Nat)) (extra : List MemName) :
    (∃ f : Flight, (s.request i r kind rd rel waits extra).2.flights = s.flights ++ [f] ∧ f.Calm)
    ∧ ∀ pa n, s.Unwatched pa n → (s.request i r kind rd rel waits extra).2.Unwatched pa n := by
  unfold State.request
  dsimp only
  rcases s.reqRoute r (dieOf s.curP) (xyOfCore s.curP) with ⟨goal, dst⟩
  generalize hready : (_ && _ && r.src.all s.ownerClear) = ready
  generalize (if ready then s.takeSource r else r) = q
  have hst : ∀ x y w b, (if ready then Stage.router x y false else Stage.held) ≠ .sliceHeld w b := fun x y w b => by
    cases ready <;> exact nofun
  cases q.src with
  | none => exact ⟨⟨_, rfl, hst _ _⟩, fun pa n h => .setCore (.launch h (fun w b => hst _ _ w b)) _ _ rfl⟩
  | some a => exact ⟨⟨_, rfl, hst _ _⟩, fun pa n h => .addOp (.fresh (.addOp (.launch h (fun w b => hst _ _ w b)) _ _)) _ _⟩

/-! A write of an owner, and what is under way. -/

theorem State.deliver_flight_mem {s : State} {f : Flight} (hf : f ∈ s.flights) (w : Who) (o : Nat) (m : Msg) (t : Track)
    (x : Nat × Nat) (a b : List Nat) (r : Bool) (e : Option Nat) : f ∈ (s.deliver w o m t x a b r e).flights := by
  unfold State.deliver
  split
  · exact List.mem_append_left _ hf
  · split
    · exact hf
    · exact List.mem_append_left _ hf

theorem State.sendWatch_flight_mem {s : State} {f : Flight} (hf : f ∈ s.flights) (c l p a v n : Nat) (x : Word) :
    f ∈ (s.sendWatch c l p a v n x).flights := State.deliver_flight_mem hf ..

theorem State.sendPeerWatch_flight_mem {s : State} {f : Flight} (hf : f ∈ s.flights) (c : Nat) (w : PeerWatch) :
    f ∈ (s.sendPeerWatch c w).flights := State.deliver_flight_mem hf ..

/-- What every step of a fold keeps, the fold keeps. -/
theorem State.foldl_flight_mem {α : Type} {f : Flight} (g : State → α → State)
    (h : ∀ s a, f ∈ s.flights → f ∈ (g s a).flights) (l : List α) (s : State) (hf : f ∈ s.flights) : f ∈ (l.foldl g s).flights := by
  induction l generalizing s with
  | nil => exact hf
  | cons a l ih => exact ih _ (h s a hf)

theorem State.fireWatches_flight_mem {s : State} {f : Flight} (hf : f ∈ s.flights) (pa n : Nat) :
    f ∈ (s.fireWatches pa n).flights := by
  refine State.foldl_flight_mem _ (fun s a h => State.sendPeerWatch_flight_mem h ..) _ _ ?_
  refine State.foldl_flight_mem _ (fun s a h => State.sendWatch_flight_mem h ..) _ _ ?_
  refine State.foldl_flight_mem _ (fun s a h => ?_) _ _ ?_
  · split
    split
    · exact State.sendWatch_flight_mem h ..
    · exact h
  · exact hf

/-- A calm flight is there after a write as before it. -/
theorem State.ownerWrite_flight_mem {s : State} {f : Flight} (hf : f ∈ s.flights) (hc : f.Calm) (pa : Nat) (bs : List Byte) :
    f ∈ (s.ownerWrite pa bs).flights := by
  unfold State.ownerWrite
  split
  · exact hf
  · refine State.fireWatches_flight_mem (List.mem_map.2 ⟨f, hf, ?_⟩) _ _
    split
    · next w b h => exact absurd h (hc w b)
    · rfl

theorem State.Unwatched.wakeWords_flights {s : State} {pa n : Nat} (h : s.Unwatched pa n) :
    (s.wakeWords pa n).flights = s.flights := by
  refine (List.map_congr_left fun f hf => ?_).trans (List.map_id _)
  split
  · next w b hs => simp [h.2.2 f hf w b hs]
  · rfl

theorem foldl_of_eq_nil {α β : Type} {l : List α} (h : l = []) (g : β → α → β) (b : β) : l.foldl g b = b := by
  rw [h, List.foldl_nil]

theorem State.Unwatched.wakeWords {s : State} {pa n : Nat} (h : s.Unwatched pa n) : (s.wakeWords pa n).Unwatched pa n :=
  ⟨h.1, h.2.1, by rw [h.wakeWords_flights]; exact h.2.2⟩

/-- No entry fires where none watches. -/
theorem State.Unwatched.fireWatches_flights {s : State} {pa n : Nat} (h : s.Unwatched pa n) :
    (s.fireWatches pa n).flights = s.flights := by
  obtain ⟨hcores, hctxs, -⟩ := h
  refine (congrArg State.flights (foldl_of_eq_nil ?_ _ _)).trans ?_
  · refine List.flatMap_eq_nil_iff.2 fun e he => List.map_eq_nil_iff.2 (List.filter_eq_nil_iff.2 fun w hw => ?_)
    rw [State.foldl_ctxs _ (fun s a => by split; split <;> simp)] at he
    rw [(hctxs e he).2 w hw]
    exact Bool.false_ne_true
  refine (congrArg State.flights (foldl_of_eq_nil ?_ _ _)).trans ?_
  · refine List.flatMap_eq_nil_iff.2 fun e he => ?_
    rw [State.foldl_ctxs _ (fun s a => by split; split <;> simp)] at he
    split
    · next v hv =>
      refine List.map_eq_nil_iff.2 (List.filter_eq_nil_iff.2 fun m hm => ?_)
      rw [(hctxs e he).1 v hv m hm]
      exact Bool.false_ne_true
    · rfl
  show State.flights (List.foldl _ _ _) = _
  refine (congrArg State.flights (foldl_of_eq_nil (List.flatMap_eq_nil_iff.2 fun e he => ?_) _ _)).trans rfl
  exact List.map_eq_nil_iff.2 (List.filter_eq_nil_iff.2 fun m hm => by rw [hcores e he m hm]; exact Bool.false_ne_true)

/-- A write of bytes that nothing watches leaves what is under way. -/
theorem State.Unwatched.ownerWrite_flights {s : State} {pa : Nat} {bs : List Byte} (h : s.Unwatched pa bs.length) :
    (s.ownerWrite pa bs).flights = s.flights := by
  unfold State.ownerWrite
  split
  · rfl
  · have hw : State.Unwatched { s with mem := Memory.write s.mem pa bs, poison := s.poison.filter (fun b =>
        !(decide (pa ≤ 64 * b) && decide (64 * b + 64 ≤ pa + bs.length))) } pa bs.length := h
    exact hw.wakeWords.fireWatches_flights.trans hw.wakeWords_flights

/-- Nor does such a write watch anything. -/
theorem State.Unwatched.ownerWrite {s : State} {pa x n : Nat} {bs : List Byte} (h : s.Unwatched x n)
    (hq : s.Unwatched pa bs.length) : (s.ownerWrite pa bs).Unwatched x n := by
  obtain ⟨hcores, hctxs, hfl⟩ := h
  have hf := hq.ownerWrite_flights
  refine ⟨?_, ?_, by rw [hf]; exact hfl⟩
  · unfold State.ownerWrite
    split
    · exact hcores
    · rw [State.fireWatches_cores]
      simp only [State.wakeWords, List.mem_map]
      rintro _ ⟨e, he, rfl⟩ m hm
      exact hcores e he m (List.mem_of_mem_filter hm)
  · unfold State.ownerWrite
    split
    · exact hctxs
    · rw [State.fireWatches_ctxs]
      simp only [State.wakeWords, List.mem_map]
      rintro _ ⟨e, he, rfl⟩
      refine ⟨fun v hv m hm => ?_, fun w hw => (hctxs e he).2 w (List.mem_of_mem_filter hw)⟩
      obtain ⟨v', hv', rfl⟩ := Option.map_eq_some_iff.1 hv
      exact (hctxs e he).1 v' hv' m (List.mem_of_mem_filter hm)

/-! Parking, and what is under way. -/

theorem State.Unwatched.parking {s : State} {x n : Nat} (h : s.Unwatched x n) (p sl : Nat) (i : Inst) (k : Cont) :
    (s.parking p sl i k).Unwatched x n := ((h.unhold i).setInst p sl none).setLc ..

theorem State.parking_flights (s : State) (p sl : Nat) (i : Inst) (k : Cont) : (s.parking p sl i k).flights = s.flights :=
  s.unhold_flights i

theorem State.ownerWrite_siloAt (s : State) (pa c l : Nat) (bs : List Byte) : (s.ownerWrite pa bs).siloAt c l = s.siloAt c l := by
  rw [State.siloAt, State.ownerWrite_lc, State.ownerWrite_ctx Ctx.desc (fun _ _ _ => rfl)]
  rfl

section
variable {s : State} {p sl : Nat} {i : Inst} (k : Cont)
  (hroom : (s.lc i.ctx i.lcore).nextCont < (s.lc i.ctx i.lcore).contMax)
include hroom

theorem State.park_flight_mem {f : Flight} (hf : f ∈ s.flights) (hc : f.Calm) : f ∈ (s.park p sl i k).flights := by
  obtain ⟨bs, r, -, hpark⟩ := State.park_eq (p := p) (sl := sl) k hroom
  rw [hpark]
  refine State.ownerWrite_flight_mem (s := State.free _ |>.2) (State.ownerWrite_flight_mem ?_ hc _ _) hc _ _
  rw [State.parking_flights]
  exact hf

/-- A park whose record and control block nothing watches leaves what is under way. -/
theorem State.park_flights (hc : s.Unwatched (s.contAt i.ctx i.lcore (s.lc i.ctx i.lcore).nextCont) 4096)
    (hs : s.Unwatched (s.siloAt i.ctx i.lcore) 4096) : (s.park p sl i k).flights = s.flights := by
  obtain ⟨bs, r, hlen, hpark⟩ := State.park_eq (p := p) (sl := sl) k hroom
  have hc' := hc.parking p sl i k
  have hs' := hs.parking p sl i k
  rw [← hlen] at hc'
  have hs'' := hs'.ownerWrite hc'
  rw [← State.parking_siloAt s p sl i k, ← State.ownerWrite_siloAt _ (s.contAt i.ctx i.lcore (s.lc i.ctx i.lcore).nextCont) _ _ bs]
    at hs''
  rw [hpark]
  refine (State.Unwatched.ownerWrite_flights (s := State.free _ |>.2) (by rw [leBytes_length]; exact hs'')).trans ?_
  exact hc'.ownerWrite_flights.trans (State.parking_flights ..)

end

end Sys2Proof.Machine

/-! SUPPORT. Ring words and the weir at issue (06 R119 to R123). -/

namespace Sys2Proof.Machine

open Sys2Proof

/-! Ring words. -/

theorem State.counted_checkRing (s : State) (i : Inst) (q : Word) : (s.counted i).checkRing i.counted q = s.checkRing i q := by
  simp only [State.checkRing, Inst.counted_ctx, State.counted_ctx]

theorem State.checkRing_ok {s : State} {i : Inst} {q : Word} {k : Nat} {g : Region} (hq : q ≠ 0) (hb : handleBlock q < 2 ^ 56)
    (hreg : (s.ctx i.ctx).regionOf (handleBlock q) 64 = some (k, g)) (hw : g.wen = true) : s.checkRing i q = .ok (k, g) := by
  rw [State.checkRing, if_neg hq, Ctx.checkAddr, if_neg (by omega), Ctx.checkRegion, hreg]
  simp [hw]

/-- The request that a ring word sends. -/
def ringReqOf (i : Inst) (k : Nat) (g : Region) (q : Word) (r : RingReq) : MemReq :=
  { mkReq .write i.counted k g (handleBlock q) 64 [] 0 (.ack none) with ring := some r }

section
variable {s : State} {i : Inst} {a : XReg} {k : Nat} {g : Region} (hq : i.readQ a ≠ 0) (hb : handleBlock (i.readQ a) < 2 ^ 56)
  (hreg : (s.ctx i.ctx).regionOf (handleBlock (i.readQ a)) 64 = some (k, g)) (hw : g.wen = true)
include hq hb hreg hw

/-- A ring word that leaves gD and the handle to the owner's reply. -/
theorem State.ringOp_ok {x : Instr} (h : s.Issues i x) (d : GReg) (op : Inst → RingOp) : ∃ t q,
    s.ringOp (uses x) d a op = .next t ∧ s.Sent t i (i.counted.await s.nextId (.ring d a) false none).advance q
      ∧ q.va = handleBlock (i.readQ a) ∧ q.ring = some ⟨op i.counted, a, handleCur (i.readQ a), d⟩ := by
  obtain ⟨hid, hsent⟩ := State.request_plain h.1 (r := ringReqOf i k g (i.readQ a) ⟨op i.counted, a, handleCur (i.readQ a), d⟩)
    rfl 0 false none [(s.counted i).ringSpan i.ctx g (handleBlock (i.readQ a))] []
  rw [State.ringOp, State.onFit_eq h]
  simp only [Inst.counted_readQ, State.counted_checkRing, State.checkRing_ok hq hb hreg hw]
  refine ⟨_, ringReqOf i k g (i.readQ a) ⟨op i.counted, a, handleCur (i.readQ a), d⟩, rfl, ?_, rfl, rfl⟩
  rw [show ((s.counted i).ringAsk _ _ _ _ _).1 = s.nextId from hid]
  exact hsent _

end

/-! The weir. -/

/-- The word that takes from the weir as `f` says. -/
theorem State.weirOp_ok {s : State} {i : Inst} {x : Instr} (h : s.Issues i x) (d a : GReg) (f : Weir → Word × Weir) :
    ∃ t, s.weirOp (uses x) d a (i.readG a) f = .next t
      ∧ t.Issuing (i.counted.writeG d (f (s.lc i.ctx i.lcore).weir).1).advance
      ∧ (t.lc i.ctx i.lcore).weir = (f (s.lc i.ctx i.lcore).weir).2 := by
  rw [State.weirOp, State.onFit_eq h]
  simp only [Inst.counted_readG, ne_eq, not_true_eq_false, if_false, Inst.counted_ctx, Inst.counted_lcore, State.counted_lc]
  refine ⟨_, rfl, Issuing_setCur _ (by simpa using h.1.slot), ?_⟩
  rw [State.setCur_lc, State.lc_setLc]

theorem State.launchFlight_launched {s : State} {i : Inst} (h : s.Issuing i) {f : Flight} (hw : f.who.iid = i.iid) :
    ∃ t, ((s.counted i).launchFlight f).2.retire i.counted = .next t ∧ s.Launched t i i.counted.advance f.body := by
  have hP : ((s.counted i).launchFlight f).2.curP = s.curP := s.counted_curP i
  have hS : ((s.counted i).launchFlight f).2.curS = s.curS := s.counted_curS i
  refine ⟨_, rfl, ?_⟩
  constructor
  case flight => exact ⟨_, congrArg (· ++ _) (s.counted_flights i), rfl, hw⟩
  case slot => exact Issuing_setCur _ (by rw [hS]; exact h.slot)
  case mem => intro a; exact congrArg (Memory.readByte · a) (s.counted_mem i)
  case ctxs => exact s.counted_ctxs i
  case slots =>
    intro p sl hne
    have hne' : ¬ (p = s.curP ∧ sl = s.curS) := by simpa [Prod.ext_iff] using hne
    rw [State.setCur, hP, hS, State.inst?_setInst _ _ _ _ _ _ h.slot, if_neg hne']
    exact State.counted_inst?_other h _ _ hne

/-! QWAIT (R121). -/

/-- States with the same contexts name the same places of a silo. -/
theorem State.lc_of_ctxs {s t : State} (h : t.ctxs = s.ctxs) (c l : Nat) : t.lc c l = s.lc c l := by
  rw [State.lc, State.lc, State.ctx, h]; rfl
theorem State.siloAt_of_ctxs {s t : State} (h : t.ctxs = s.ctxs) (c l : Nat) : t.siloAt c l = s.siloAt c l := by
  rw [State.siloAt, State.siloAt, State.lc_of_ctxs h, State.ctx, h]; rfl
theorem State.contAt_of_ctxs {s t : State} (h : t.ctxs = s.ctxs) (c l r : Nat) : t.contAt c l r = s.contAt c l r := by
  rw [State.contAt, State.contAt, State.siloAt_of_ctxs h, State.lc_of_ctxs h]

theorem State.request_cur (s : State) (i : Inst) (r : MemReq) (kind : Nat) (rd : Bool) (rel : Option Scope)
    (waits : List (Nat × Nat × Nat)) (extra : List MemName) : (s.request i r kind rd rel waits extra).2.curP = s.curP
      ∧ (s.request i r kind rd rel waits extra).2.curS = s.curS := by
  obtain ⟨q, -, hreq⟩ := s.request_spec i r kind rd rel waits extra
  exact ⟨hreq.rest.2.2.1, hreq.rest.2.2.2⟩

/-- A request of a state, and the park of the instance that made it: what is under way, and the parked continuation. -/
theorem State.request_park {s : State} {i : Inst} (hi : s.Issuing i) (r : MemReq) (hr : r.src = none)
    (waits : List (Nat × Nat × Nat)) (d : GReg) (k : Cont) (hroom : (s.lc i.ctx i.lcore).nextCont < (s.lc i.ctx i.lcore).contMax)
    {t : State} (ht : ((s.counted i).request i.counted r 0 false none waits []).2.park s.curP s.curS (i.counted.parkAt d) k = t) :
    t.inst? s.curP s.curS = none
    ∧ (∀ x, ¬ (s.contAt i.ctx i.lcore (s.lc i.ctx i.lcore).nextCont ≤ x
          ∧ x < s.contAt i.ctx i.lcore (s.lc i.ctx i.lcore).nextCont + 4096) →
        ¬ (s.siloAt i.ctx i.lcore ≤ x ∧ x < s.siloAt i.ctx i.lcore + 4096) →
        s.memOk → Memory.readByte t.mem x = Memory.readByte s.mem x)
    ∧ (∃ f, (s.Unwatched (s.contAt i.ctx i.lcore (s.lc i.ctx i.lcore).nextCont) 4096 →
        s.Unwatched (s.siloAt i.ctx i.lcore) 4096 → t.flights = s.flights ++ [f]) ∧ f ∈ t.flights ∧ f.body = .req r)
    ∧ (t.lc i.ctx i.lcore).conts.get? (s.lc i.ctx i.lcore).nextCont
        = some { k with inst := { (i.counted.parkAt d).kept with stopped := .no } } := by
  obtain ⟨q, hq, hreq⟩ := (s.counted i).request_spec i.counted r 0 false none waits []
  rw [State.takeSource_none _ hr, or_self] at hq
  subst hq
  obtain ⟨f, hfl, -, hbody, -⟩ := hreq.flight
  obtain ⟨hmem, hctxs, hP, hS⟩ := hreq.rest
  obtain ⟨⟨f', hfl', hcalm⟩, hquiet⟩ := (s.counted i).request_calm i.counted q 0 false none waits []
  have hf : f' = f := by simpa [hfl] using hfl'.symm
  subst hf
  have hname := (i.parkAt_keeps d).name
  generalize i.counted.parkAt d = j at ht hname
  simp only [Prod.mk.injEq] at hname
  obtain ⟨-, hctx, hlc, -⟩ := hname
  rw [← hctx, ← hlc] at hroom ⊢
  rw [State.counted_ctxs] at hctxs
  rw [State.counted_flights] at hfl
  rw [State.counted_mem] at hmem
  replace hquiet : ∀ x n, s.Unwatched x n → ((s.counted i).request i.counted q 0 false none waits []).2.Unwatched x n :=
    fun x n h => hquiet x n (h.setInst ..)
  generalize ((s.counted i).request i.counted q 0 false none waits []).2 = u at *
  subst ht
  rw [← State.contAt_of_ctxs hctxs, ← State.siloAt_of_ctxs hctxs, ← State.lc_of_ctxs hctxs] at *
  refine ⟨State.park_inst? k hroom hi.slot, fun x h1 h2 hm => ?_, ⟨f', fun h1 h2 => ?_, ?_, hbody⟩, ?_⟩
  · rw [State.park_readByte k hroom (by rw [State.memOk, hmem]; exact hm) h1 h2, hmem]
  · rw [State.park_flights k hroom (hquiet _ _ h1) (hquiet _ _ h2), hfl]
  · exact State.park_flight_mem k hroom (by rw [hfl]; simp) hcalm
  · obtain ⟨h, hlc'⟩ := State.park_lc (s := u) (p := s.curP) (sl := s.curS) (i := j) k hroom
    rw [hlc']
    exact Tab.get?_put ..

/-- Settles O27: a ring word is one request with the handle's cursor, WPUT one flight, and WTAKE acts on the weir at once. -/
theorem ringAndWeirWordsComplete : Obligations.RingAndWeirWordsComplete := by
  refine ⟨fun s i d b a k g hq hb hreg hw => ⟨fun x op hx h => ?_, fun h hroom => ?_⟩, ?_⟩
  · rcases hx with ⟨rfl, rfl⟩ | ⟨rfl, rfl⟩ | ⟨rfl, rfl⟩
    · exact State.ringOp_ok hq hb hreg hw h d (fun i => .push (i.readG b))
    · exact State.ringOp_ok hq hb hreg hw h d (fun _ => .pop)
    · exact State.ringOp_ok hq hb hreg hw h d (fun i => .adv (i.readG b).toNat)
  · have hchk : s.checkRing i (i.readQ a) = .ok (k, g) := State.checkRing_ok hq hb hreg hw
    rw [show exec (.qwait d a b) s = execQwait d a b s from rfl, execQwait, State.onFit_eq h]
    simp only [Inst.counted_readQ, Inst.counted_readG, State.counted_checkRing, hchk, Inst.counted_ctx, Inst.counted_lcore,
      State.counted_lc]
    obtain ⟨hslot, hmem, ⟨f, hfl, hf, hbody⟩, hcont⟩ := State.request_park h.1 (ringReqOf i k g (i.readQ a)
      ⟨.wait (i.readG b).toNat (s.lc i.ctx i.lcore).nextCont, a, handleCur (i.readQ a), d⟩) rfl
      [(s.counted i).ringSpan i.ctx g (handleBlock (i.readQ a))] d
      ⟨i.counted.parkAt d, .ring (handleBlock (i.readQ a)), d, none, some (a, handleCur (i.readQ a)), none, .none⟩ hroom rfl
    obtain ⟨hP, hS⟩ := (s.counted i).request_cur i.counted (ringReqOf i k g (i.readQ a)
      ⟨.wait (i.readG b).toNat (s.lc i.ctx i.lcore).nextCont, a, handleCur (i.readQ a), d⟩) 0 false none
      [(s.counted i).ringSpan i.ctx g (handleBlock (i.readQ a))] []
    rw [show ((s.counted i).ringAsk _ _ _ _ _).2.curP = s.curP from hP.trans (State.counted_curP s i),
      show ((s.counted i).ringAsk _ _ _ _ _).2.curS = s.curS from hS.trans (State.counted_curS s i)]
    exact ⟨_, f, _, _, rfl, hslot, hmem, hfl, hf, hbody, rfl, rfl, hcont, i.parkAt_parks ..⟩
  · rintro s i d a b c w rfl
    refine ⟨fun h hroute hgb hnan hgc hreach => ?_, fun h ha => ?_, fun h ha => ?_, fun h ha => ?_⟩
    · have hf : ¬ ((i.readG b).toNat ≥ 2 ^ 32 ∨ (decodeFloat (fpOf .f32) (i.readG b).toNat).isNaN = true) := by
        rw [not_or, Nat.not_le]
        refine ⟨hgb, fun hn => hnan ?_⟩
        cases hd : decodeFloat (fpOf .f32) (i.readG b).toNat <;> simp_all [XR.isNaN]
      rw [show exec (.wput a b c) s = execWput a b c s from rfl, execWput, State.onFit_eq h]
      simp only [Inst.counted_readG, Inst.counted_ctx, State.counted_ctx, State.counted_curP, State.counted_curS, hroute,
        Bool.not_true, Bool.false_eq_true, if_false, if_neg hf, if_neg (Nat.not_le.2 hgc)]
      split
      · exact State.launchFlight_launched h.1 rfl
      · next hrank =>
        have hcore := (hreach.resolve_left hrank).resolve_left (by
          simp only [Ctx.routeOk, Bool.false_and, Bool.or_false, Bool.and_eq_true, decide_eq_true_eq] at hroute
          exact Nat.ne_of_lt (hroute.2.trans (by decide)))
        obtain ⟨l, hl⟩ := Option.isSome_iff_exists.1 hcore
        rw [show routeCore (i.readG a).toNat = bitsOf (i.readG a).toNat 47 38 from rfl, hl]
        exact State.launchFlight_launched h.1 rfl
    · obtain ⟨t, ht, hslot, hweir⟩ := State.weirOp_ok h d a weirFirst
      rw [ha] at ht
      refine ⟨t, _, ht, hslot, fun hnil => ?_, fun e rest hcons => ?_⟩
      · rw [hweir, weirFirst, hnil]; exact ⟨rfl, rfl⟩
      · rw [hweir, weirFirst, hcons]; exact ⟨rfl, rfl⟩
    · obtain ⟨t, ht, hslot, hweir⟩ := State.weirOp_ok h d a weirStatus
      rw [ha] at ht
      refine ⟨t, ht, ?_, hweir⟩
      rw [weirStatus, Bool.cond_eq_ite] at hslot
      exact hslot
    · obtain ⟨t, ht, hslot, hweir⟩ := State.weirOp_ok h d a weirEmpty
      rw [ha] at ht
      exact ⟨t, ht, hslot, hweir⟩

end Sys2Proof.Machine

/-! SUPPORT. Journal words at issue (06 R124 to R127). -/

namespace Sys2Proof.Machine

open Sys2Proof

theorem State.counted_checkJrec (s : State) (i : Inst) (ga gb gc : Nat) :
    (s.counted i).checkJrec i.counted ga gb gc = s.checkJrec i ga gb gc := rfl

theorem State.addOp_inst? (s : State) (q : Nat) (o : Op) (p sl : Nat) : (s.addOp q o).inst? p sl = s.inst? p sl := by
  rw [State.inst?, State.core_addOp]
  split
  · next h => subst h; rfl
  · rfl

/-- A word that puts one flight on its way, and then at most adds to its core's operations. -/
theorem State.launched_of {s u : State} {i : Inst} (h : s.Issuing i) {f : Flight} {b : Body} (hb : f.body = b)
    (hw : f.who.iid = i.iid) (hfl : u.flights = (s.counted i).flights ++ [f]) (hmem : u.mem = (s.counted i).mem)
    (hctxs : u.ctxs = (s.counted i).ctxs) (hcur : u.curP = (s.counted i).curP ∧ u.curS = (s.counted i).curS)
    (hinst : ∀ p sl, u.inst? p sl = (s.counted i).inst? p sl) (j : Inst) : s.Launched (u.setCur j) i j b := by
  simp only [State.counted_flights, State.counted_mem, State.counted_ctxs, State.counted_curP, State.counted_curS] at *
  obtain ⟨hP, hS⟩ := hcur
  refine ⟨⟨f, hfl, hb, hw⟩, Issuing_setCur _ (hS ▸ h.slot), fun a => congrArg (Memory.readByte · a) hmem, hctxs, fun p sl hne => ?_⟩
  have hne' : ¬ (p = s.curP ∧ sl = s.curS) := by simpa [Prod.ext_iff] using hne
  rw [State.setCur, hP, hS, State.inst?_setInst _ _ _ _ _ _ h.slot, if_neg hne', hinst]
  exact State.counted_inst?_other h _ _ hne

/-- A request to the hub is one flight. -/
theorem State.hubAsk_launched {s : State} {i : Inst} (h : s.Issuing i) (q : JReq) (j : Inst) :
    s.Launched (((s.counted i).hubAsk i.counted q).2.setCur j) i j (.hubReq q) :=
  State.launched_of (u := ((s.counted i).hubAsk i.counted q).2) h rfl rfl rfl rfl rfl ⟨rfl, rfl⟩ (fun _ _ => rfl) j

theorem State.hubAsk_fst (s : State) (i : Inst) (q : JReq) : ((s.counted i).hubAsk i.counted q).1 = s.nextId :=
  s.counted_nextId i

/-- A word whose gD the hub answers. -/
theorem State.hubWait_ok {s : State} {i : Inst} (h : s.Issuing i) (d : GReg) (q : JReq) : ∃ t,
    (s.counted i).hubWait i.counted d q = .next t ∧ s.Launched t i
      ({ i.counted.await s.nextId (gDest d) false none with hubOn := i.hubOn ++ [s.nextId] }).advance (.hubReq q) := by
  refine ⟨(((s.counted i).hubAsk i.counted q).2).setCur _, ?_, State.hubAsk_launched h q _⟩
  simp only [State.hubWait, State.hubAsk_fst, State.retire]
  rfl

/-- Settles O28: each is one request to the hub; JREC has its record's operation beside it. -/
theorem journalWordsComplete : Obligations.JournalWordsComplete := by
  refine fun s i d a b c => ⟨fun h pa bs hchk => ?_, fun h hroute => ?_, ?_⟩
  · rw [show exec (.jrec d a b c) s = execJrec d a b c s from rfl, execJrec, State.onFit_eq h]
    simp only [Inst.counted_readG, State.counted_checkJrec, hchk, State.hubAsk_fst, State.retire]
    refine ⟨_, rfl, ?_⟩
    refine State.launched_of (f := ?f) h.1 ?body ?who ?flights ?_ ?_ ?_ (fun p sl => ?_) _
    case flights => exact rfl
    · exact rfl
    · exact rfl
    · exact rfl
    · exact rfl
    · exact ⟨rfl, rfl⟩
    · exact State.addOp_inst? ..
  · rw [show exec (.jemit d a b c) s = execJemit d a b c s from rfl, execJemit, State.onFit_eq h]
    simp only [Inst.counted_readG, Inst.counted_ctx, State.counted_ctx, hroute, Bool.not_true, Bool.false_eq_true, if_false,
      State.hubAsk_fst]
    exact ⟨_, rfl, State.hubAsk_launched h.1 _ _⟩
  · rintro x q (⟨rfl, rfl⟩ | ⟨rfl, hlow, rfl⟩ | ⟨rfl, hlow, rfl⟩) h
    · rw [show exec (.jckpt d a b) s = execJckpt d a b s from rfl, execJckpt, State.onFit_eq h]
      simp only [Inst.counted_readG]
      exact State.hubWait_ok h.1 d _
    · rw [show exec (.jtruncCheckpoint d a) s = execJtruncCheckpoint d a s from rfl, execJtruncCheckpoint, State.onFit_eq h]
      simp only [Inst.counted_readG, hlow, ne_eq, not_true_eq_false, if_false]
      exact State.hubWait_ok h.1 d _
    · rw [show exec (.jtruncClose d a) s = execJtruncClose d a s from rfl, execJtruncClose, State.onFit_eq h]
      simp only [Inst.counted_readG, hlow, ne_eq, not_true_eq_false, if_false]
      exact State.hubWait_ok h.1 d _

end Sys2Proof.Machine

/-! SUPPORT. Vector words that write element by element (07 R129, R130). -/

namespace Sys2Proof.Machine

open Sys2Proof

/-! Formats. -/

theorem Fmt.shuffled_of_arith {f : Fmt} (h : f.arith = true) : f.shuffled = true := by
  cases f <;> simp_all [Fmt.arith, Fmt.shuffled]
theorem Fmt.shuffled_of_wideFloat {f : Fmt} (h : f.wideFloat = true) : f.shuffled = true := by
  cases f <;> simp_all [Fmt.wideFloat, Fmt.shuffled]
theorem Fmt.shuffled_of_shiftable {f : Fmt} (h : f.shiftable = true) : f.shuffled = true := by
  cases f <;> simp_all [Fmt.shiftable, Fmt.shuffled]

/-! The elements that a word writes. -/

@[simp] theorem Inst.counted_vNat (i : Inst) (r : VReg) : i.counted.vNat r = i.vNat r := rfl
@[simp] theorem lanesOf_counted (i : Inst) (m : VMask) : lanesOf i.counted m = lanesOf i m := rfl

/-- The code of element `n` in a list of elements and their results. -/
theorem codeAt_map (l : List Nat) (fn : Nat → Nat × Flags) (n : Nat) :
    codeAt (l.map (fun k => (k, fn k))) n = if n ∈ l then some (fn n).1 else none := by
  induction l with
  | nil => rfl
  | cons k l ih =>
    by_cases h : k = n
    · subst h; simp [codeAt]
    · simp [codeAt, h, ih, Ne.symm h]

theorem mem_activeElems (i : Inst) (m : VMask) {f : Fmt} {k : Nat} (hk : k < elemCount f) :
    k ∈ activeElems f (lanesOf i m) ↔ i.elemOn m f k = true := by
  simp [activeElems, hk, elemActive_lanesOf i m hk]

theorem activeElems_eq (i : Inst) (m : VMask) (f : Fmt) :
    activeElems f (lanesOf i m) = (List.range (elemCount f)).filter (i.elemOn m f) :=
  List.filter_congr fun _ hk => elemActive_lanesOf i m (List.mem_range.1 hk)

@[simp] theorem Flags.or_empty (x : Flags) : x.or {} = x := by
  cases x; simp [Flags.or]

theorem flagsOf_map (l : List Nat) (fn : Nat → Nat × Flags) :
    flagsOf (l.map (fun k => (k, fn k))) = l.foldl (fun acc k => acc.or (fn k).2) {} := by
  rw [flagsOf, List.foldl_map]

theorem assemble_shuffled_rc {f : Fmt} (h : f.shuffled = true) (old lanes : Nat) (wr : Nat → Option Nat) :
    (assemble f old lanes wr).2 = false := by
  unfold assemble
  split
  · cases h
  · rfl

theorem mapElems_snd (f : Fmt) (lanes old : Nat) (fn : Nat → Nat × Flags) : (mapElems f lanes old fn).2
    = (flagsOf ((activeElems f lanes).map (fun k => (k, fn k)))).or
      { rc := (assemble f old lanes (codeAt ((activeElems f lanes).map (fun k => (k, fn k))))).2 } := rfl

/-- A word's merged elements are those of its function on the active ones. -/
theorem mapElems_elementwise (i : Inst) (m : VMask) {f : Fmt} (h : f.shuffled = true) (d : VReg) (fn : Nat → Nat × Flags) :
    Elementwise i m f (i.readV d) (BitVec.ofNat 512 (mapElems f (lanesOf i m) (i.vNat d) fn).1) fn
      (mapElems f (lanesOf i m) (i.vNat d) fn).2 where
  active k hk hon := by
    rw [mapElems, readElem_assemble h _ _ _ hk, newElem, codeAt_map, if_pos ((mem_activeElems i m hk).2 hon)]
    rfl
  other k hk hoff := by
    rw [mapElems, readElem_assemble h _ _ _ hk, newElem, codeAt_map,
      if_neg (fun hm => by simp [(mem_activeElems i m hk).1 hm] at hoff)]
    rfl
  flags := by
    rw [mapElems_snd, assemble_shuffled_rc h, flagsOf_map, activeElems_eq]
    exact Flags.or_empty _

/-- What depends on an element's code only below its width, and on its flags. -/
theorem Elementwise.congr {i : Inst} {m : VMask} {f : Fmt} {old v : VWord} {fn fn' : Nat → Nat × Flags} {fl : Flags}
    (h : Elementwise i m f old v fn fl) (hc : ∀ k < elemCount f, (fn k).1 % 2 ^ fmtWidth f = (fn' k).1 % 2 ^ fmtWidth f)
    (hf : ∀ k, (fn k).2 = (fn' k).2) : Elementwise i m f old v fn' fl where
  active k hk hon := (h.active k hk hon).trans (hc k hk)
  other := h.other
  flags := by simp only [h.flags, hf]

/-- A word that writes vD element by element completes so. -/
theorem State.vMap_completes {s : State} {i : Inst} {x : Instr} (h : s.Issues i x) {f : Fmt} (hf : f.shuffled = true) (d : VReg)
    (m : VMask) (per : Nat) (fn : Nat → Nat × Flags) {g : Inst → State → Check VPend}
    (hg : g i.counted (s.counted i) = .ok (vMap i d m f per fn)) : ∃ e v fl,
      s.vec (uses x) g = .next (s.holds i e) ∧ e.Is d v fl ∧ Elementwise i m f (i.readV d) v fn fl :=
  ⟨_, _, _, State.vec_ok h hg, vOut_is .., mapElems_elementwise i m hf d fn⟩

/-! Arithmetic, fused operations and shifts (R133 to R136). -/

section
variable {s : State} {i : Inst} {x : Instr} (h : s.Issues i x) {f : Fmt} (d a b c : VReg) (m : VMask) (r : Rnd)
include h

theorem State.vArith_completes (hf : f.arith = true) (op : VOp) : ∃ e v fl,
    s.vArith (uses x) op d a b m f r = .next (s.holds i e) ∧ e.Is d v fl ∧ Elementwise i m f (i.readV d) v
      (fun k => arithOp op f r (readElem f (i.vNat a) k) (readElem f (i.vNat b) k)) fl :=
  State.vMap_completes h (Fmt.shuffled_of_arith hf) d m 1 _ rfl

theorem State.vFused_completes (hf : f.wideFloat = true) (np nz : Bool) : ∃ e v fl,
    s.vFused (uses x) np nz d a b c m f r = .next (s.holds i e) ∧ e.Is d v fl ∧ Elementwise i m f (i.readV d) v
      (fun k => fusedOp np nz f r (readElem f (i.vNat a) k) (readElem f (i.vNat b) k) (readElem f (i.vNat c) k)) fl :=
  State.vMap_completes h (Fmt.shuffled_of_wideFloat hf) d m 2 _ rfl

/-- A shift whose results agree with `fn'` below the element's width. -/
theorem State.vShift_completes (hf : f.shiftable = true) {fn fn' : Fmt → Nat → Nat → Nat}
    (hfn : ∀ x y, x < 2 ^ fmtWidth f → fn f x y % 2 ^ fmtWidth f = fn' f x y % 2 ^ fmtWidth f) : ∃ e v fl,
    s.vShift (uses x) fn d a b m f = .next (s.holds i e) ∧ e.Is d v fl ∧ Elementwise i m f (i.readV d) v
      (fun k => (fn' f (readElem f (i.vNat a) k) (readElem f (i.vNat b) k), {})) fl := by
  have hs := Fmt.shuffled_of_shiftable hf
  obtain ⟨e, v, fl, he, his, hel⟩ := State.vMap_completes h hs d m 1
    (g := fun i _ => .ok (vMap i d m f 1 (fun k => (fn f (readElem f (i.vNat a) k) (readElem f (i.vNat b) k), {}))))
    (fun k => (fn f (readElem f (i.vNat a) k) (readElem f (i.vNat b) k), {})) rfl
  exact ⟨e, v, fl, he, his, hel.congr (fun k _ => hfn _ _ (readElem_lt hs _ _)) (fun _ => rfl)⟩

end

/-- An arithmetic shift of an unsigned element is a logical one. -/
theorem shiftRight_n8 {x : Nat} (hx : x < 2 ^ 8) (n : Nat) :
    shiftRight .n8 x n = wrapCode 8 (intOf .n8 x / 2 ^ (min n 8)) := by
  have hdiv : wrapCode 8 (intOf .n8 x / 2 ^ (min n 8)) = x / 2 ^ (min n 8) := by
    have hlt : x / 2 ^ (min n 8) < 256 := (Nat.div_le_self _ _).trans_lt hx
    rw [wrapCode, intOf, Nat.mod_eq_of_lt (show x < 256 from hx)]
    have hcast : ((x : Nat) : Int) / 2 ^ (min n 8) = ((x / 2 ^ (min n 8) : Nat) : Int) := by push_cast; rfl
    rw [hcast]
    generalize x / 2 ^ (min n 8) = y at hlt
    omega
  rw [hdiv, shiftRight, show fmtWidth .n8 = 8 from rfl]
  split
  · next h => rw [Nat.min_eq_right h, Nat.div_eq_of_lt hx]
  · next h => rw [Nat.min_eq_left (Nat.le_of_not_le h)]

/-- Settles O29: each word writes its function's values, element by element. -/
theorem vectorArithmeticCompletes : Obligations.VectorArithmeticCompletes := by
  refine fun s i d a b c m f r => ⟨?_, ?_, ?_⟩
  · have harith : ∀ {md}, (f.arith && modeOk f md) = true → f.arith = true := fun h => (Bool.and_eq_true _ _ ▸ h).1
    have hwide : f.wideFloat = true → f.arith = true := fun h => by cases f <;> simp_all [Fmt.arith, Fmt.wideFloat]
    simp only [vectorRows, List.forall_mem_cons, List.not_mem_nil, false_imp_iff, implies_true, and_true]
    and_intros
    · exact fun hwf h => State.vArith_completes h d a b m r (harith hwf) .add
    · exact fun hwf h => State.vArith_completes h d a b m r (harith hwf) .sub
    · exact fun hwf h => State.vArith_completes h d a b m r (harith hwf) .mul
    · exact fun hwf h => State.vArith_completes h d a b m r (harith hwf) .div
    · exact fun hwf h => State.vArith_completes h d a b m r (harith hwf) .min
    · exact fun hwf h => State.vArith_completes h d a b m r (harith hwf) .max
    · exact fun hwf h => State.vArith_completes h d a a m r (harith hwf) .abs
    · exact fun hwf h => State.vArith_completes h d a a m r (harith hwf) .neg
    · exact fun hwf h => State.vArith_completes h d a a m r (hwide hwf) .sqrt
  · simp only [fusedRows, List.forall_mem_cons, List.not_mem_nil, false_imp_iff, implies_true, and_true]
    and_intros
    · exact fun hf h => State.vFused_completes h d a b c m r hf false false
    · exact fun hf h => State.vFused_completes h d a b c m r hf false true
    · exact fun hf h => State.vFused_completes h d a b c m r hf true true
    · exact fun hf h => State.vFused_completes h d a b c m r hf true false
  · simp only [vectorShiftRows, List.forall_mem_cons, List.not_mem_nil, false_imp_iff, implies_true, and_true]
    refine ⟨fun hf h => State.vShift_completes h d a b m hf (fn := shiftLeft)
        (fn' := fun f a n => if fmtWidth f ≤ n then 0 else a * 2 ^ n) fun x n _ => ?_,
      fun hf h => State.vShift_completes h d a b m hf (fn := shiftRight) fun x n _ => rfl,
      fun hf h => State.vShift_completes h d a b m hf (fn := shiftArith)
        (fn' := fun f a n => wrapCode (fmtWidth f) (intOf f a / 2 ^ (min n (fmtWidth f)))) fun x n hx => ?_⟩
    · unfold shiftLeft
      split
      · rfl
      · exact Nat.mod_mod _ _
    · cases f <;> simp only [Fmt.shiftable, Bool.false_eq_true] at hf
      · rfl
      · rfl
      · exact congrArg (· % 2 ^ 8) (shiftRight_n8 hx n)

end Sys2Proof.Machine

/-! SUPPORT. Lane logic and compares (07 R135, R137). -/

namespace Sys2Proof.Machine

open Sys2Proof

/-! Lane logic. -/

/-- A bitwise word writes bit by bit in each active lane. -/
theorem State.vLogic_completes {s : State} {i : Inst} {x : Instr} (h : s.Issues i x) (d a b : VReg) (m : VMask)
    {fn : VWord → VWord → VWord} {bit : Bool → Bool → Bool}
    (hfn : ∀ u v n, n < 512 → (fn u v).getLsbD n = bit (u.getLsbD n) (v.getLsbD n)) : ∃ e v,
    s.vLogic (uses x) fn d a b m = .next (s.holds i e) ∧ e.Is d v {} ∧ ∀ n < 512, v.getLsbD n =
      if i.laneOn m (n / 32) then bit ((i.readV a).getLsbD n) ((i.readV b).getLsbD n) else (i.readV d).getLsbD n := by
  refine ⟨_, _, State.vec_ok h rfl, vOut_is .., fun n hn => ?_⟩
  have hj : n / 32 < 16 := by omega
  have hsel := laneBits_testBit (lanesOf i m) hj (Nat.mod_lt n (by decide : 0 < 32))
  rw [Nat.div_add_mod, laneActive_lanesOf i m hj] at hsel
  rw [BitVec.ofNat_toNat, BitVec.setWidth_eq]
  simp only [lanesOf_counted, Inst.counted_readV, BitVec.getLsbD_or, BitVec.getLsbD_and, BitVec.getLsbD_not,
    BitVec.getLsbD_ofNat, hn, hsel, hfn, decide_true, Bool.true_and]
  cases i.laneOn m (n / 32) <;> simp

/-! Compares. -/

/-- A number put together bit by bit has the bits that it was put together from. -/
theorem testBit_foldl_bits (c : Nat → Bool) {j : Nat} (hj : j < 16) :
    ((List.range 16).foldl (fun acc j => if c j then acc + 2 ^ j else acc) 0).testBit j = c j := by
  have hfield := packed_field (w := 1) (c := fun j => if c j then 1 else 0) (fun k => by split <;> decide) hj
  have heq : (List.range 16).foldl (fun acc j => if c j then acc + 2 ^ j else acc) 0
      = (List.range 16).foldl (fun acc j => acc + (if c j then 1 else 0) * 2 ^ (1 * j)) 0 := by
    congr 1
    funext acc j
    split <;> simp
  rw [Nat.one_mul, pow_one] at hfield
  rw [heq, Nat.testBit_eq_decide_div_mod_eq, hfield]
  cases c j <;> rfl

/-- The elements of a lane are those whose lowest bit lies in it. -/
theorem lane_elements {f : Fmt} (h : f.arith = true) (p : Nat → Bool) {j : Nat} (hj : j < 16) :
    (List.range (32 / fmtWidth f)).all (fun k => p (32 / fmtWidth f * j + k))
      = decide (∀ n < elemCount f, elemPos f n / 32 = j → p n = true) := by
  obtain ⟨per, hper, hw, hcount, hpos⟩ : ∃ per, 32 / fmtWidth f = per ∧ per ∣ 32 ∧ elemCount f = 16 * per
      ∧ ∀ n, elemPos f n / 32 = n / per := by
    cases f <;> simp only [Fmt.arith, Bool.false_eq_true] at h <;>
      exact ⟨_, rfl, by decide, rfl, fun n => by simp only [elemPos, fmtWidth]; omega⟩
  have hpos0 : 0 < per := Nat.pos_of_dvd_of_pos hw (by decide)
  rw [Bool.eq_iff_iff, List.all_eq_true, decide_eq_true_eq, hper, hcount]
  constructor
  · intro hall n _ hn
    rw [hpos] at hn
    have hmem := hall (n % per) (List.mem_range.2 (Nat.mod_lt _ hpos0))
    rwa [← hn, Nat.div_add_mod] at hmem
  · intro hall k hk
    rw [List.mem_range] at hk
    refine hall _ ?_ ?_
    · calc per * j + k < per * (j + 1) := by rw [Nat.mul_succ]; omega
        _ ≤ per * 16 := Nat.mul_le_mul_left _ hj
        _ = 16 * per := Nat.mul_comm ..
    · rw [hpos, Nat.mul_add_div hpos0, Nat.div_eq_of_lt hk, Nat.add_zero]

theorem State.vCompare_completes {s : State} {i : Inst} {x : Instr} (h : s.Issues i x) (d : KReg) (a b : VReg) (m : VMask)
    {f : Fmt} (hf : f.arith = true) (op : VCmp) : ∃ e k,
    s.vCompare (uses x) op d a b m f = .next (s.holds i e) ∧ e.vw = [] ∧ e.gw = none ∧ e.kw = some (d, k) ∧ e.flags = {}
      ∧ ∀ j < 16, k.getLsbD j = (i.laneOn m j && decide (∀ n < elemCount f, elemPos f n / 32 = j →
          cmpElem op f (readElem f (i.vNat a) n) (readElem f (i.vNat b) n) = true)) := by
  refine ⟨_, _, State.vec_ok h rfl, rfl, rfl, rfl, rfl, fun j hj => ?_⟩
  rw [BitVec.getLsbD_ofNat, decide_eq_true hj, Bool.true_and, cmpLanes, testBit_foldl_bits _ hj,
    lane_elements hf (fun n => cmpElem op f (readElem f (i.counted.vNat a) n) (readElem f (i.counted.vNat b) n)) hj,
    lanesOf_counted, laneActive_lanesOf i m hj]
  rfl

/-- Settles O30: the selector's bits are the mask operand's lanes, and a compare's bits the conditions of its lanes. -/
theorem vectorLogicAndComparesComplete : Obligations.VectorLogicAndComparesComplete := by
  refine ⟨?_, ?_⟩
  · simp only [vectorLogicRows, List.forall_mem_cons, List.not_mem_nil, false_imp_iff, implies_true, and_true]
    exact ⟨fun s i d a b m h => State.vLogic_completes h d a b m (bit := and) (fn := (· &&& ·)) (fun u v n _ => BitVec.getLsbD_and),
      fun s i d a b m h => State.vLogic_completes h d a b m (bit := or) (fn := (· ||| ·)) (fun u v n _ => BitVec.getLsbD_or),
      fun s i d a b m h => State.vLogic_completes h d a b m (bit := xor) (fn := (· ^^^ ·)) (fun u v n _ => BitVec.getLsbD_xor)⟩
  · have harith : ∀ {f md}, (Fmt.arith f && modeOk f md) = true → f.arith = true := fun h => (Bool.and_eq_true _ _ ▸ h).1
    have hwide : ∀ {f : Fmt}, f.wideFloat = true → f.arith = true := fun {f} h => by
      cases f <;> simp_all [Fmt.arith, Fmt.wideFloat]
    simp only [vectorCompareRows, List.forall_mem_cons, List.not_mem_nil, false_imp_iff, implies_true, and_true]
    exact ⟨fun s i d a b m f md hwf h => State.vCompare_completes h d a b m (harith hwf) .eq,
      fun s i d a b m f md hwf h => State.vCompare_completes h d a b m (harith hwf) .ne,
      fun s i d a b m f md hwf h => State.vCompare_completes h d a b m (harith hwf) .lt,
      fun s i d a b m f md hwf h => State.vCompare_completes h d a b m (harith hwf) .le,
      fun s i d a b m f md hwf h => State.vCompare_completes h d a b m (hwide hwf) .un⟩

end Sys2Proof.Machine

/-! SUPPORT. The shuffles (07 R139). -/

namespace Sys2Proof.Machine

open Sys2Proof

theorem foldl_or_empty {α : Type} (l : List α) : l.foldl (fun (acc : Flags) _ => acc.or {}) {} = {} := by
  induction l with
  | nil => rfl
  | cons a l ih => exact ih

/-- A shuffle moves the elements that its function names. -/
theorem State.vShuffle_completes {s : State} {i : Inst} {x : Instr} (h : s.Issues i x) {f : Fmt} (hf : f.shuffled = true)
    (d : VReg) (m : VMask) (fn : Inst → Nat → Nat) {fn' : Nat → Nat} (hfn : ∀ k < elemCount f, fn i.counted k = fn' k) :
    ∃ e v, s.vShuffle (uses x) d m f fn = .next (s.holds i e) ∧ e.Is d v {}
      ∧ Elementwise i m f (i.readV d) v (fun k => (fn' k, {})) {} := by
  obtain ⟨e, v, fl, he, his, hel⟩ := State.vMap_completes h hf d m 0
    (g := fun i _ => .ok (vMap i d m f 0 (fun k => (fn i k, {})))) (fun k => (fn i.counted k, {})) rfl
  have hfl : fl = {} := hel.flags.trans (foldl_or_empty _)
  subst hfl
  exact ⟨e, v, he, his, hel.congr (fun k hk => congrArg (· % 2 ^ fmtWidth f) (hfn k hk)) (fun _ => rfl)⟩

/-- Settles O32: each shuffle writes the elements that it names. -/
theorem shufflesComplete : Obligations.ShufflesComplete := by
  intro s i d a b c g m f md hf
  simp only [shuffleRows, List.forall_mem_cons, List.not_mem_nil, false_imp_iff, implies_true, and_true]
  refine ⟨fun h => ?_, fun h => ?_, fun h => ?_, fun h => ?_, fun h => ?_⟩
  · exact State.vShuffle_completes h hf d m
      (fun i k => readElem f (i.vNat a) (readElem f (i.vNat b) k % elemCount f)) (fun _ _ => rfl)
  · exact State.vShuffle_completes h hf d m (fun i _ => (i.readG g).toNat % 2 ^ fmtWidth f) (fun _ _ => rfl)
  · exact State.vShuffle_completes h hf d m (fun i k => pairElem f (i.vNat a) (i.vNat b) (k + i.vNat c % 1024)) (fun _ _ => rfl)
  · refine State.vShuffle_completes h hf d m (fun i k => readElem f (i.vNat (if k % 2 = 0 then a else b)) (k / 2))
      (fun k _ => ?_)
    split <;> rfl
  · refine State.vShuffle_completes h hf d m (fun i k => pairElem f (i.vNat a) (i.vNat b) (2 * k)) (fun k hk => ?_)
    rw [pairElem, if_pos (by omega : 2 * k < 2 * elemCount f)]
    rfl

end Sys2Proof.Machine

/-! SUPPORT. Elements of every format in an assembled register (02 R23, R24; 07 R142). -/

namespace Sys2Proof.Machine

open Sys2Proof

/-! Formats whose elements lie at multiples of their width. -/

theorem elemPos_dense {f : Fmt} (h : f ≠ .t5) (k : Nat) : elemPos f k = fmtWidth f * k := by
  cases f <;> first | rfl | exact absurd rfl h

theorem readElem_dense {f : Fmt} (h : f ≠ .t5) (x k : Nat) : readElem f x k = x / 2 ^ (fmtWidth f * k) % 2 ^ fmtWidth f := by
  unfold readElem
  split
  · exact absurd rfl h
  · rw [elemPos_dense h]

theorem newElem_lt_dense {f : Fmt} (h : f ≠ .t5) (old : Nat) (wr : Nat → Option Nat) (k : Nat) :
    newElem f old wr k < 2 ^ fmtWidth f := by
  rw [newElem, readElem_dense h]
  cases wr k <;> exact Nat.mod_lt _ (by positivity)

/-- A sum of fields that all stand above bit `n` has no bit below it. -/
theorem dvd_foldl_lanes (skip : Nat → Bool) (c pos : Nat → Nat) (n : Nat) (hpos : ∀ j, n ≤ pos j) (l : List Nat) (a : Nat)
    (ha : 2 ^ n ∣ a) : 2 ^ n ∣ l.foldl (fun acc j => if skip j then acc else acc + c j * 2 ^ pos j) a := by
  induction l generalizing a with
  | nil => exact ha
  | cons j l ih =>
    refine ih (if skip j then a else a + c j * 2 ^ pos j) ?_
    split
    · exact ha
    · exact Nat.dvd_add ha (Nat.dvd_mul_left_of_dvd (Nat.pow_dvd_pow 2 (hpos j)) _)

/-- An assembled register is its elements, and above them bits of the lanes that no element reaches. -/
theorem assemble_dense {f : Fmt} (h : f ≠ .t5) (old lanes : Nat) (wr : Nat → Option Nat) : ∃ top,
    2 ^ (fmtWidth f * elemCount f) ∣ top ∧ (assemble f old lanes wr) =
      ((List.range (elemCount f)).foldl (fun acc k => acc + newElem f old wr k * 2 ^ (fmtWidth f * k)) 0 + top, false) := by
  have hbody : (fun (acc i : Nat) => acc + (match wr i with
      | some c => c % 2 ^ fmtWidth f
      | none => readElem f old i) * 2 ^ elemPos f i) = fun acc k => acc + newElem f old wr k * 2 ^ (fmtWidth f * k) := by
    funext acc k
    rw [newElem, elemPos_dense h]
    cases wr k <;> rfl
  unfold assemble
  split
  · exact absurd rfl h
  · refine ⟨_, ?_, Prod.ext (congrArg (· + _) (congrArg (fun g => List.foldl g 0 _) hbody)) rfl⟩
    split
    · next h6 =>
      have hn : 2 ^ (fmtWidth f * elemCount f) = 2 ^ (32 * 12) := by cases f <;> simp_all [fmtWidth, elemCount]
      rw [hn]
      exact dvd_foldl_lanes _ _ (fun j => 32 * (12 + j)) (32 * 12) (fun j => by omega) _ _ (Nat.dvd_zero _)
    · exact Nat.dvd_zero _

/-- A field of a number depends on the bits below its end. -/
theorem field_add_multiple {w n k x y : Nat} (hk : k < n) (hy : 2 ^ (w * n) ∣ y) :
    (x + y) / 2 ^ (w * k) % 2 ^ w = x / 2 ^ (w * k) % 2 ^ w := by
  obtain ⟨z, rfl⟩ := hy
  have hsplit : 2 ^ (w * n) * z = 2 ^ (w * k) * (2 ^ w * (2 ^ (w * (n - k - 1)) * z)) := by
    rw [← Nat.mul_assoc, ← Nat.mul_assoc, ← Nat.pow_add, ← Nat.pow_add, show w * n = w * k + w + w * (n - k - 1) by
      obtain ⟨c, rfl⟩ := Nat.exists_eq_add_of_lt hk
      rw [show k + c + 1 - k - 1 = c by omega]
      ring]
  rw [hsplit, Nat.add_mul_div_left _ _ (by positivity), Nat.add_mul_mod_self_left]

theorem readElem_assemble_dense {f : Fmt} (h : f ≠ .t5) (old lanes : Nat) (wr : Nat → Option Nat) {k : Nat}
    (hk : k < elemCount f) :
    readElem f (BitVec.ofNat 512 (assemble f old lanes wr).1).toNat k = newElem f old wr k := by
  obtain ⟨top, htop, heq⟩ := assemble_dense h old lanes wr
  have hfit : 2 ^ (fmtWidth f * elemCount f) ∣ 2 ^ 512 := Nat.pow_dvd_pow 2 (by cases f <;> simp_all [fmtWidth, elemCount])
  rw [readElem_dense h, heq, BitVec.toNat_ofNat]
  generalize hbody : (List.range (elemCount f)).foldl _ 0 = body
  calc (body + top) % 2 ^ 512 / 2 ^ (fmtWidth f * k) % 2 ^ fmtWidth f
      = ((body + top) % 2 ^ 512 + 2 ^ 512 * ((body + top) / 2 ^ 512)) / 2 ^ (fmtWidth f * k) % 2 ^ fmtWidth f :=
        (field_add_multiple hk (Nat.dvd_mul_right_of_dvd hfit _)).symm
    _ = (body + top) / 2 ^ (fmtWidth f * k) % 2 ^ fmtWidth f := by rw [Nat.mod_add_div]
    _ = body / 2 ^ (fmtWidth f * k) % 2 ^ fmtWidth f := field_add_multiple hk htop
    _ = newElem f old wr k := hbody ▸ packed_field (newElem_lt_dense h old wr) hk

/-! Trits (02 R23). -/

/-- Trit `k` that a byte has after some of its trits were replaced. -/
def newTrit (old : Nat) (wr : Nat → Option Nat) (k : Nat) : Nat :=
  (wr k).getD (if 243 ≤ old then 0 else old / 3 ^ k % 3)

theorem newTrit_lt {old : Nat} {wr : Nat → Option Nat} (hwr : ∀ k c, wr k = some c → c < 3) (k : Nat) : newTrit old wr k < 3 := by
  rw [newTrit]
  cases hk : wr k with
  | none => rw [Option.getD_none]; split <;> omega
  | some d => exact hwr k d hk

/-- A byte keeps all its trits, or takes the new ones. -/
theorem writeTrits_fst (old : Nat) (wr : Nat → Option Nat) : (writeTrits old wr).1 =
    if (List.range 5).all (fun k => (wr k).isNone) then old
    else newTrit old wr 0 + newTrit old wr 1 * 3 + newTrit old wr 2 * 9 + newTrit old wr 3 * 27 + newTrit old wr 4 * 81 := by
  have hfold : (fun (acc k : Nat) => acc + (match wr k with
      | some d => d
      | none => if 243 ≤ old then 0 else old / 3 ^ k % 3) * 3 ^ k) = fun acc k => acc + newTrit old wr k * 3 ^ k := by
    funext acc k
    rw [newTrit]
    cases wr k <;> rfl
  unfold writeTrits
  split
  · rfl
  · refine (congrArg (fun g => List.foldl g 0 (List.range 5)) hfold).trans ?_
    simp [List.range_succ]

theorem writeTrits_lt {old : Nat} {wr : Nat → Option Nat} (ho : old < 256) (hwr : ∀ k c, wr k = some c → c < 3) :
    (writeTrits old wr).1 < 256 := by
  have h0 := newTrit_lt (old := old) hwr 0
  have h1 := newTrit_lt (old := old) hwr 1
  have h2 := newTrit_lt (old := old) hwr 2
  have h3 := newTrit_lt (old := old) hwr 3
  have h4 := newTrit_lt (old := old) hwr 4
  rw [writeTrits_fst]
  split <;> omega

/-- A byte whose trits have been replaced reads as them. -/
theorem tritOf_writeTrits (old : Nat) {wr : Nat → Option Nat} (hwr : ∀ k c, wr k = some c → c < 3) {k c : Nat} (hk : k < 5)
    (hc : wr k = some c) : tritOf (writeTrits old wr).1 k = c := by
  have hsome : ¬ (List.range 5).all (fun k => (wr k).isNone) = true := fun hall => by
    have hn := List.all_eq_true.1 hall k (List.mem_range.2 hk)
    rw [hc] at hn
    cases hn
  have h0 := newTrit_lt (old := old) hwr 0
  have h1 := newTrit_lt (old := old) hwr 1
  have h2 := newTrit_lt (old := old) hwr 2
  have h3 := newTrit_lt (old := old) hwr 3
  have h4 := newTrit_lt (old := old) hwr 4
  have hck : newTrit old wr k = c := by rw [newTrit, hc]; rfl
  rw [writeTrits_fst, if_neg hsome, ← hck, tritOf, if_neg (by omega)]
  have hcases : k = 0 ∨ k = 1 ∨ k = 2 ∨ k = 3 ∨ k = 4 := by omega
  obtain rfl | rfl | rfl | rfl | rfl := hcases <;> omega

theorem foldl_fst_bytes (g : Nat → Nat × Bool) (l : List Nat) (a : Nat × Bool) :
    (l.foldl (fun acc b => (acc.1 + (g b).1 * 2 ^ (8 * b), acc.2 || (g b).2)) a).1
      = l.foldl (fun acc b => acc + (g b).1 * 2 ^ (8 * b)) a.1 := by
  induction l generalizing a with
  | nil => rfl
  | cons b l ih => exact ih _

/-- A register of trits reads, where they were replaced, as the new ones. -/
theorem readElem_assemble_t5 (old lanes : Nat) {wr : Nat → Option Nat} (hwr : ∀ k c, wr k = some c → c < 3) {k c : Nat}
    (hk : k < elemCount .t5) (hc : wr k = some c) :
    readElem .t5 (BitVec.ofNat 512 (assemble .t5 old lanes wr).1).toNat k = c := by
  have hk' : k < 320 := hk
  have hbytes : (assemble .t5 old lanes wr).1 = (List.range 64).foldl
      (fun acc b => acc + (writeTrits (old / 2 ^ (8 * b) % 256) (fun k => wr (5 * b + k))).1 * 2 ^ (8 * b)) 0 :=
    foldl_fst_bytes (fun b => writeTrits (old / 2 ^ (8 * b) % 256) (fun k => wr (5 * b + k))) _ _
  have hlt : ∀ b, (writeTrits (old / 2 ^ (8 * b) % 256) (fun k => wr (5 * b + k))).1 < 2 ^ 8 := fun b =>
    writeTrits_lt (Nat.mod_lt _ (by decide)) (fun k c h => hwr _ c h)
  have hfield := packed_field (w := 8) hlt (show k / 5 < 64 by omega)
  rw [hbytes, show (512 : Nat) = 8 * 64 from rfl, toNat_ofNat_packed (by decide) hlt]
  refine (congrArg (tritOf · (k % 5)) hfield).trans (tritOf_writeTrits _ (fun j c h => hwr _ c h) (Nat.mod_lt _ (by decide)) ?_)
  rw [Nat.div_add_mod]
  exact hc

end Sys2Proof.Machine

/-! SUPPORT. Conversions and quantisation (07 R142 to R145). -/

namespace Sys2Proof.Machine

open Sys2Proof

/-! Codes of a format, and the elements that take them. -/

/-- A code that is a trit, where the format is t5. -/
def IsCodeOf (f : Fmt) (c : Nat) : Prop := f = .t5 → c < 3

/-- An element that a word names takes its code. -/
theorem readElem_assemble_some {f : Fmt} (old lanes : Nat) {wr : Nat → Option Nat} (hwr : ∀ k c, wr k = some c → IsCodeOf f c)
    {k c : Nat} (hk : k < elemCount f) (hc : wr k = some c) :
    readElem f (BitVec.ofNat 512 (assemble f old lanes wr).1).toNat k = c % 2 ^ fmtWidth f := by
  by_cases h : f = .t5
  · subst h
    rw [readElem_assemble_t5 old lanes (fun k c h => hwr k c h rfl) hk hc, Nat.mod_eq_of_lt]
    exact (hwr k c hc rfl).trans (by decide)
  · rw [readElem_assemble_dense h old lanes wr hk, newElem, hc]
    rfl

/-- An element that a word does not name is kept. -/
theorem readElem_assemble_none {f : Fmt} (h : f ≠ .t5) (old lanes : Nat) {wr : Nat → Option Nat} {k : Nat}
    (hk : k < elemCount f) (hc : wr k = none) :
    readElem f (BitVec.ofNat 512 (assemble f old lanes wr).1).toNat k = readElem f old k := by
  rw [readElem_assemble_dense h old lanes wr hk, newElem, hc]
  rfl

theorem assemble_dense_rc {f : Fmt} (h : f ≠ .t5) (old lanes : Nat) (wr : Nat → Option Nat) : (assemble f old lanes wr).2 = false := by
  obtain ⟨top, -, heq⟩ := assemble_dense h old lanes wr
  rw [heq]

/-- The code of an element in a list of results that stand from element `b` on. -/
theorem codeAt_map_add (l : List Nat) (b : Nat) (fn : Nat → Nat × Flags) (n : Nat) :
    codeAt (l.map (fun k => (b + k, fn k))) n = if b ≤ n ∧ n - b ∈ l then some (fn (n - b)).1 else none := by
  induction l with
  | nil => simp [codeAt]
  | cons k l ih =>
    by_cases h : b + k = n
    · subst h; simp [codeAt]
    · have hk : ¬ (b ≤ n ∧ n - b = k) := by omega
      simp only [List.map_cons, codeAt, if_neg h, ih, List.mem_cons]
      by_cases hn : b ≤ n
      · have : ¬ n - b = k := fun e => hk ⟨hn, e⟩
        simp [hn, this]
      · simp [hn]

/-! Trits of the conversions (02 Table 02-5). -/

theorem intCode_t5_lt (x : Int) : intCode .t5 x < 3 := by
  show (if x = 0 then 0 else if x < 0 then 2 else 1) < 3
  split_ifs <;> decide

theorem floatToInt_t5_lt (mode : RMode) (x : XR) : (floatToInt .t5 mode x).1 < 3 := by
  cases x with
  | nan => exact Nat.zero_lt_succ 2
  | inf neg => exact intCode_t5_lt _
  | fin neg n e rest => exact intCode_t5_lt _

theorem roundAny_takes (f : Fmt) (fl : Bool) (mode : RMode) (sat : Bool) (x : XR) : IsCodeOf f (roundAny f fl mode sat x).1 := by
  rintro rfl
  cases fl with
  | true => exact floatToInt_t5_lt mode x
  | false =>
    cases x with
    | nan => exact Nat.zero_lt_succ 2
    | inf neg => exact Nat.zero_lt_succ 2
    | fin neg n e rest => exact intCode_t5_lt _

theorem convertCode_takes (src dst : Fmt) (mode : RMode) (sat : Bool) (code : Nat) :
    IsCodeOf dst (convertCode src dst mode sat code).1 := by
  rintro rfl
  unfold convertCode
  by_cases h : src = .t5
  · subst h
    by_cases hc : code < 3
    · simp [decodeElem, Fmt.isFloat, hc, xrOfInt]
    · simp [decodeElem, Fmt.isFloat, hc]
  · simp only [h, if_false]
    exact roundAny_takes .t5 _ mode sat _ rfl

/-! What a word writes in a format of any width. -/

/-- A word's merged elements in any format; those of t5 share bytes with the ones beside them. -/
theorem mapElems_reads (i : Inst) (m : VMask) (f : Fmt) (d : VReg) {fn : Nat → Nat × Flags} (hfn : ∀ k, IsCodeOf f (fn k).1) :
    (∀ k < elemCount f, i.elemOn m f k = true →
      readElem f (BitVec.ofNat 512 (mapElems f (lanesOf i m) (i.vNat d) fn).1).toNat k = (fn k).1 % 2 ^ fmtWidth f)
    ∧ (f ≠ .t5 → (∀ k < elemCount f, i.elemOn m f k = false →
        readElem f (BitVec.ofNat 512 (mapElems f (lanesOf i m) (i.vNat d) fn).1).toNat k = readElem f (i.vNat d) k)
      ∧ (mapElems f (lanesOf i m) (i.vNat d) fn).2 =
        ((List.range (elemCount f)).filter (i.elemOn m f)).foldl (fun acc k => acc.or (fn k).2) {}) := by
  have hcode := codeAt_map (activeElems f (lanesOf i m)) fn
  have hwr : ∀ k c, codeAt ((activeElems f (lanesOf i m)).map (fun k => (k, fn k))) k = some c → IsCodeOf f c := fun k c h => by
    rw [hcode] at h
    split at h
    · cases h; exact hfn k
    · cases h
  refine ⟨fun k hk hon => ?_, fun hf => ⟨fun k hk hoff => ?_, ?_⟩⟩
  · exact readElem_assemble_some _ _ hwr hk (by rw [hcode, if_pos ((mem_activeElems i m hk).2 hon)])
  · refine readElem_assemble_none hf _ _ hk ?_
    rw [hcode, if_neg (fun hm => by simp [(mem_activeElems i m hk).1 hm] at hoff)]
  · rw [mapElems_snd, assemble_dense_rc hf, flagsOf_map, activeElems_eq]
    exact Flags.or_empty _

/-- VCVT (R142). -/
theorem execVcvt_completes {s : State} {i : Inst} {d a : VReg} {m : VMask} {dst src : Fmt} {r : Rnd}
    (h : s.Issues i (.vcvt d a m dst src r)) : ∃ e v fl, exec (.vcvt d a m dst src r) s = .next (s.holds i e) ∧ e.Is d v fl
        ∧ (∀ k < elemCount dst, i.elemOn m dst k = true → readElem dst v.toNat k =
            if k < elemCount src then (convertCode src dst r.mode r.sat (readElem src (i.vNat a) k)).1 % 2 ^ fmtWidth dst else 0)
        ∧ (dst ≠ .t5 → (∀ k < elemCount dst, i.elemOn m dst k = false →
            readElem dst v.toNat k = readElem dst (i.vNat d) k)
          ∧ fl = ((List.range (elemCount dst)).filter (i.elemOn m dst)).foldl (fun acc k => acc.or
              (if k < elemCount src then (convertCode src dst r.mode r.sat (readElem src (i.vNat a) k)).2 else {})) {}) := by
  have hfn : ∀ k, IsCodeOf dst (if k < min (elemCount src) (elemCount dst) then
      convertCode src dst r.mode r.sat (readElem src (i.vNat a) k) else (0, {})).1 := fun k => by
    split
    · exact convertCode_takes _ _ _ _ _
    · exact fun _ => by decide
  obtain ⟨hon, hrest⟩ := mapElems_reads i m dst d hfn
  rw [show exec (.vcvt d a m dst src r) s = execVcvt d a m dst src r s from rfl, execVcvt]
  refine ⟨_, _, _, State.vec_ok h rfl, vOut_is .., fun k hk hk' => ?_, fun hdst => ⟨(hrest hdst).1, ?_⟩⟩
  · refine (hon k hk hk').trans ?_
    by_cases hs : k < elemCount src
    · rw [if_pos hs, if_pos (Nat.lt_min.2 ⟨hs, hk⟩)]
    · rw [if_neg hs, if_neg (fun hlt => hs (Nat.lt_min.1 hlt).1)]
      exact Nat.zero_mod _
  · refine (hrest hdst).2.trans (List.foldl_ext _ _ _ fun acc k hk => ?_)
    have hk' : k < elemCount dst := List.mem_range.1 (List.mem_of_mem_filter hk)
    by_cases hs : k < elemCount src
    · rw [if_pos hs, if_pos (Nat.lt_min.2 ⟨hs, hk'⟩)]
    · rw [if_neg hs, if_neg (fun hlt => hs (Nat.lt_min.1 hlt).1)]

/-! QUANT and DEQUANT with a part and a scale (R143, R144). -/

/-- The checks of a part and a scale, by what they find. -/
theorem checkPart_eq (f : Fmt) (vb : Nat) : checkPart f vb =
    if vb / 2 ^ 21 ≠ 0 ∨ elemCount f < 16 * (vb / 2 ^ 16 % 32) + 16 then .error (fOperand, 0, vb % 2 ^ 64)
    else if scaleOk (BitVec.ofNat 16 vb) then .ok (vb / 2 ^ 16 % 32, BitVec.ofNat 16 vb)
    else .error (fBadScale, 0, (BitVec.ofNat 16 vb).toNat) := by
  rw [checkPart]
  cases scaleOk (BitVec.ofNat 16 vb) <;> rfl

/-- The results of QUANT, with their places. -/
def quantised (i : Inst) (a : VReg) (m : VMask) (f : Fmt) (r : Rnd) (p : Nat) (sc : BitVec 16) : List (Nat × Nat × Flags) :=
  (activeElems .f32 (lanesOf i m)).map (fun k => (16 * p + k, roundAny f true r.mode r.sat
    (scaleRemove (decodeFloat (fpOf .f32) (readElem .f32 (i.vNat a) k)) (decodeFloat (fpOf .bf16) sc.toNat))))

theorem quantised_takes {i : Inst} {a : VReg} {m : VMask} {f : Fmt} {r : Rnd} {p : Nat} {sc : BitVec 16} (k c : Nat)
    (h : codeAt (quantised i a m f r p sc) k = some c) : IsCodeOf f c := by
  rw [quantised, codeAt_map_add] at h
  split at h
  · cases h; exact roundAny_takes _ _ _ _ _
  · cases h

theorem elemOn_f32 (i : Inst) (m : VMask) (k : Nat) : i.elemOn m .f32 k = i.laneOn m k := by
  rw [Inst.elemOn, show elemPos .f32 k / 32 = k by simp [elemPos, fmtWidth]]

section
variable {s : State} {i : Inst} {d a b : VReg} {m : VMask} {f : Fmt} {r : Rnd}

theorem execQuant_completes {p : Nat} {sc : BitVec 16} (h : s.Issues i (.quant d a b m f r))
    (hchk : checkPart f (i.vNat b) = .ok (p, sc)) (hp : 16 * p + 16 ≤ elemCount f) :
    ∃ e v fl, exec (.quant d a b m f r) s = .next (s.holds i e) ∧ e.Is d v fl
      ∧ (∀ k < 16, i.laneOn m k = true → readElem f v.toNat (16 * p + k) =
          (roundAny f true r.mode r.sat (scaleRemove (decodeFloat (fpOf .f32) (readElem .f32 (i.vNat a) k))
            (decodeFloat (fpOf .bf16) sc.toNat))).1 % 2 ^ fmtWidth f)
      ∧ (f ≠ .t5 → ∀ k < elemCount f, (k < 16 * p ∨ 16 * p + 16 ≤ k ∨ i.laneOn m (k - 16 * p) = false) →
          readElem f v.toNat k = readElem f (i.vNat d) k) := by
  have hactive : ∀ k, k ∈ activeElems .f32 (lanesOf i m) ↔ k < 16 ∧ i.laneOn m k = true := fun k => by
    rw [activeElems_eq, List.mem_filter, List.mem_range, elemOn_f32]
    rfl
  rw [show exec (.quant d a b m f r) s = execQuant d a b m f r s from rfl, execQuant]
  refine ⟨_, _, _, State.vec_ok h (by simp only [Inst.counted_vNat, hchk, lanesOf_counted]; rfl), vOut_is ..,
    fun k hk hon => ?_, fun hf k hk hoff => ?_⟩
  · refine readElem_assemble_some (wr := codeAt (quantised i a m f r p sc)) _ _ quantised_takes (by omega) ?_
    rw [quantised, codeAt_map_add, Nat.add_sub_cancel_left, if_pos ⟨Nat.le_add_right _ _, (hactive k).2 ⟨hk, hon⟩⟩]
  · refine readElem_assemble_none (wr := codeAt (quantised i a m f r p sc)) hf _ _ hk ?_
    rw [quantised, codeAt_map_add, if_neg]
    rintro ⟨hle, hm⟩
    obtain ⟨hlt, hon⟩ := (hactive _).1 hm
    rcases hoff with h1 | h1 | h1
    · omega
    · omega
    · rw [hon] at h1; cases h1

theorem execDequant_completes {p : Nat} {sc : BitVec 16} (h : s.Issues i (.dequant d a b m f r))
    (hchk : checkPart f (i.vNat b) = .ok (p, sc)) :
    ∃ e v fl, exec (.dequant d a b m f r) s = .next (s.holds i e) ∧ e.Is d v fl
      ∧ Elementwise i m .f32 (i.readV d) v (fun k => dequantElem f r sc (readElem f (i.vNat a) (16 * p + k))) fl := by
  rw [show exec (.dequant d a b m f r) s = execDequant d a b m f r s from rfl, execDequant]
  exact ⟨_, _, _, State.vec_ok h (by simp only [Inst.counted_vNat, hchk, lanesOf_counted]; rfl), vOut_is ..,
    mapElems_elementwise i m rfl d _⟩

variable {code addr det : Nat} (hchk : checkPart f (i.vNat b) = .error (code, addr, det))
include hchk

theorem execQuant_fault (h : s.Issues i (.quant d a b m f r)) :
    exec (.quant d a b m f r) s = .next (s.faulted i code addr det) := by
  rw [show exec (.quant d a b m f r) s = execQuant d a b m f r s from rfl, execQuant]
  exact State.vec_error h (by simp only [Inst.counted_vNat, hchk])

theorem execDequant_fault (h : s.Issues i (.dequant d a b m f r)) :
    exec (.dequant d a b m f r) s = .next (s.faulted i code addr det) := by
  rw [show exec (.dequant d a b m f r) s = execDequant d a b m f r s from rfl, execDequant]
  exact State.vec_error h (by simp only [Inst.counted_vNat, hchk])

end

/-! The channel form of DEQUANT (R145). -/

/-- A channel whose SMODE is 3 fails its check. -/
theorem channelScale_smode3 (i : Inst) {ch : Nat} (plen : Nat) (h : bitsOf ch 15 14 = 3) :
    channelScale i ch plen = .error (fChannel, 0, ch) := by
  rw [channelScale]
  exact if_pos (.inl h)

theorem channelScale_counted (i : Inst) (ch plen : Nat) : channelScale i.counted ch plen = channelScale i ch plen := rfl

section
variable {s : State} {i : Inst} {d b : VReg} {m : VMask} {r : Rnd} (h : s.Issues i (.dequantChannel d b m r))

/-- The channel of the running message's handler. -/
def State.chanOf (s : State) (i : Inst) : Nat :=
  (Tab.get chanReset (s.lc i.ctx i.lcore).chans (bitsOf (i.readM 2).toNat 63 59)).toNat

/-- The length of the running message's payload. -/
def Inst.plenOf (i : Inst) : Nat := bitsOf (i.readM 1).toNat 8 0

include h

theorem execDequantChannel_badChannel {code addr det : Nat} (hch : channelScale i (s.chanOf i) i.plenOf = .error (code, addr, det)) :
    exec (.dequantChannel d b m r) s = .next (s.faulted i code addr det) := by
  rw [show exec (.dequantChannel d b m r) s = execDequantChannel d b m r s from rfl, execDequantChannel]
  rw [State.chanOf, Inst.plenOf] at hch
  refine State.vec_error h ?_
  simp only [Inst.counted_readM, Inst.counted_ctx, Inst.counted_lcore, State.counted_lc, channelScale_counted, hch]

variable {sc : BitVec 16} (hch : channelScale i (s.chanOf i) i.plenOf = .ok sc)
include hch

theorem execDequantChannel_badPart (hbad : i.vNat b % 2 ^ 16 ≠ 0 ∨ i.vNat b / 2 ^ 21 ≠ 0
      ∨ inPayload (fmtOfNum (s.chanOf i % 16)) (16 * (i.vNat b / 2 ^ 16 % 32)) i.plenOf = false) :
    exec (.dequantChannel d b m r) s = .next (s.faulted i fOperand 0 (i.vNat b % 2 ^ 64)) := by
  rw [show exec (.dequantChannel d b m r) s = execDequantChannel d b m r s from rfl, execDequantChannel]
  rw [State.chanOf, Inst.plenOf] at hch hbad
  refine State.vec_error h ?_
  simp only [Inst.counted_readM, Inst.counted_ctx, Inst.counted_lcore, State.counted_lc, channelScale_counted, hch,
    Inst.counted_vNat]
  exact if_pos (by simpa using hbad)

theorem execDequantChannel_completes (hlow : i.vNat b % 2 ^ 16 = 0) (hhigh : i.vNat b / 2 ^ 21 = 0)
    (hin : inPayload (fmtOfNum (s.chanOf i % 16)) (16 * (i.vNat b / 2 ^ 16 % 32)) i.plenOf = true) : ∃ e v fl,
    exec (.dequantChannel d b m r) s = .next (s.holds i e) ∧ e.Is d v fl ∧ Elementwise i m .f32 (i.readV d) v (fun k =>
      if inPayload (fmtOfNum (s.chanOf i % 16)) (16 * (i.vNat b / 2 ^ 16 % 32) + k) i.plenOf
      then dequantElem (fmtOfNum (s.chanOf i % 16)) r sc (payloadElem (fmtOfNum (s.chanOf i % 16)) (ofLe i.payload)
        (16 * (i.vNat b / 2 ^ 16 % 32) + k))
      else dequantBeyond r sc) fl := by
  rw [show exec (.dequantChannel d b m r) s = execDequantChannel d b m r s from rfl, execDequantChannel]
  rw [State.chanOf, Inst.plenOf] at *
  refine ⟨_, _, _, State.vec_ok h (by
    simp only [Inst.counted_readM, Inst.counted_ctx, Inst.counted_lcore, State.counted_lc, channelScale_counted, hch,
      Inst.counted_vNat]
    exact if_neg (by rw [hlow, hhigh, hin]; decide)), vOut_is .., mapElems_elementwise i m rfl d _⟩

end

/-- Settles O34: every result is its word's function on the elements; a part, a scale and a channel are checked first. -/
theorem conversionsComplete : Obligations.ConversionsComplete := by
  refine ⟨fun s i d a b m r => ⟨fun dst src h => execVcvt_completes h, ?_⟩, ?_⟩
  · rintro f p sc hf rfl rfl
    have hchk := checkPart_eq f (i.vNat b)
    refine ⟨fun hhigh hp hsc => ?_, fun hbad => ?_, fun hhigh hp hsc => ?_⟩
    · rw [if_neg (by omega), if_pos hsc] at hchk
      exact ⟨fun h => execQuant_completes h hchk hp, fun h => execDequant_completes h hchk⟩
    · rw [if_pos hbad] at hchk
      exact ⟨execQuant_fault hchk, execDequant_fault hchk⟩
    · rw [if_neg (by omega), if_neg (by simp [hsc])] at hchk
      exact ⟨execQuant_fault hchk, execDequant_fault hchk⟩
  · rintro s i d b m r ch plen p f h rfl rfl rfl rfl
    refine ⟨fun sc hch => ⟨fun hlow hhigh hin => execDequantChannel_completes h hch hlow hhigh hin,
      fun hbad => execDequantChannel_badPart h hch hbad⟩, fun code addr det hch => execDequantChannel_badChannel h hch, fun h3 => ?_⟩
    exact execDequantChannel_badChannel h (channelScale_smode3 i _ h3)

end Sys2Proof.Machine

/-! SUPPORT. Reductions and scans (02 R38, R39; 07 R146, R147). -/

namespace Sys2Proof.Machine

open Sys2Proof

/-! Codes that fit their format. -/

/-- A rounded float fits its format. -/
theorem roundFloat_lt {f : Fmt} (hf : f.wideFloat = true) (mode : RMode) (sat : Bool) (x : XR) :
    (roundFloat (fpOf f) mode sat x).1 < 2 ^ fmtWidth f := by
  have hsign : ∀ neg mag, mag ≤ (fpOf f).maxMag + 1 → (fpOf f).withSign neg mag < 2 ^ fmtWidth f := fun neg mag h => by
    unfold FP.withSign
    cases f <;> simp only [Fmt.wideFloat, Bool.false_eq_true] at hf <;> cases neg <;>
      simp only [fpOf, fmtWidth, cond_true, cond_false] at h ⊢ <;> omega
  obtain ⟨c, hc, hclt⟩ : ∃ c, (fpOf f).canon = some c ∧ c < 2 ^ fmtWidth f := by
    cases f <;> simp only [Fmt.wideFloat, Bool.false_eq_true] at hf <;> exact ⟨_, rfl, by decide⟩
  have hover : ∀ neg fin, (overflowTo (fpOf f) mode sat neg fin).1 < 2 ^ fmtWidth f := fun neg fin => by
    have hmax := hsign neg _ (Nat.le_succ (fpOf f).maxMag)
    have hinf := hsign neg _ (Nat.le_refl ((fpOf f).maxMag + 1))
    simp only [overflowTo, hc]
    split_ifs <;> assumption
  cases x with
  | nan => simp only [roundFloat, hc]; exact hclt
  | inf neg => exact hover neg false
  | fin neg n e rest =>
    simp only [roundFloat]
    split_ifs with h0 hmax
    · exact hsign _ _ (Nat.zero_le _)
    · exact hover neg true
    · exact hsign _ _ (by omega)

theorem wrapCode_lt (w : Nat) (x : Int) : wrapCode w x < 2 ^ w := by
  have h := Int.emod_lt_of_pos x (by positivity : (0 : Int) < 2 ^ w)
  have h0 := Int.emod_nonneg x (by positivity : (2 ^ w : Int) ≠ 0)
  rw [wrapCode, Int.toNat_lt h0]
  exact_mod_cast h

/-- An integer format of the lane arithmetic. -/
theorem Fmt.isInt_cases {f : Fmt} (hf : f.arith = true) (hi : f.isFloat = false) : f = .i16 ∨ f = .i8 ∨ f = .n8 := by
  cases f <;> simp_all [Fmt.arith, Fmt.isFloat]

theorem Fmt.wideFloat_of_isFloat {f : Fmt} (hf : f.arith = true) (hi : f.isFloat = true) : f.wideFloat = true := by
  cases f <;> simp_all [Fmt.arith, Fmt.isFloat, Fmt.wideFloat]

theorem intToInt_lt {f : Fmt} (hf : f.arith = true) (hi : f.isFloat = false) (sat : Bool) (x : Int) :
    (intToInt f sat x).1 < 2 ^ fmtWidth f := by
  rcases Fmt.isInt_cases hf hi with rfl | rfl | rfl <;> cases sat <;> exact wrapCode_lt _ _

/-- A combination of codes that fit is one. -/
theorem combine_lt {f : Fmt} (hf : f.arith = true) (op : VRed) (r : Rnd) {a b : Nat} (ha : a < 2 ^ fmtWidth f)
    (hb : b < 2 ^ fmtWidth f) : (combine op f r a b).1 < 2 ^ fmtWidth f := by
  cases hi : f.isFloat with
  | true =>
    have hw := Fmt.wideFloat_of_isFloat hf hi
    have hcanon : canonNaN f < 2 ^ fmtWidth f := by
      cases f <;> simp only [Fmt.wideFloat, Bool.false_eq_true] at hw <;> decide
    have hmm : ∀ mx, minMaxFloat mx f a b < 2 ^ fmtWidth f := fun mx => by
      unfold minMaxFloat
      dsimp only
      split_ifs <;> assumption
    cases op <;> simp only [combine, hi, if_true, arithOp, floatOp]
    · exact roundFloat_lt hw _ _ _
    · exact hmm false
    · exact hmm true
  | false =>
    have hmm : ∀ mx, minMaxInt mx f a b < 2 ^ fmtWidth f := fun mx => by
      unfold minMaxInt
      dsimp only
      split_ifs <;> assumption
    cases op <;> simp only [combine, hi, Bool.false_eq_true, if_false, arithOp, integerOp]
    · exact intToInt_lt hf hi _ _
    · exact hmm false
    · exact hmm true

theorem absentRoot_lt {f : Fmt} (hf : f.arith = true) (op : VRed) : absentRoot op f < 2 ^ fmtWidth f := by
  cases f <;> simp only [Fmt.arith, Bool.false_eq_true] at hf <;> cases op <;> decide

/-! The pairwise tree. -/

/-- The model halves its list as the tree of R38 does. -/
theorem treeReduce_eq (op : VRed) (f : Fmt) (r : Rnd) (n k : Nat) (hk : n ≤ k) (e : Nat → Option (Nat × Flags)) :
    treeReduce op f r k ((List.range (2 ^ n)).map e) = pairTree op f r n e := by
  induction n generalizing k e with
  | zero => cases k <;> simp [treeReduce, pairTree, List.range_succ]
  | succ n ih =>
    obtain ⟨k, rfl⟩ := Nat.exists_eq_succ_of_ne_zero (by omega : k ≠ 0)
    have hhalf : 2 ^ (n + 1) / 2 = 2 ^ n := by omega
    have hzip : List.zipWith (combineOpt op f r) (((List.range (2 ^ (n + 1))).map e).take (2 ^ n))
        (((List.range (2 ^ (n + 1))).map e).drop (2 ^ n)) = (List.range (2 ^ n)).map (fun k => combineOpt op f r (e k) (e (k + 2 ^ n))) := by
      refine List.ext_getElem (by simp [pow_succ]; omega) fun j h1 h2 => ?_
      simp [Nat.add_comm]
    rw [treeReduce, pairTree]
    simp only [List.length_map, List.length_range, hhalf, Nat.two_pow_pos n |>.ne', if_false, hzip]
    exact ih k (by omega) _

theorem presentElems_eq (i : Inst) (m : VMask) (f : Fmt) (a : VReg) :
    presentElems f (lanesOf i m) (i.vNat a) = (List.range (elemCount f)).map (i.present m f a) :=
  List.map_congr_left fun k hk => by
    rw [elemActive_lanesOf i m (List.mem_range.1 hk)]
    rfl

theorem elemCount_arith {f : Fmt} (hf : f.arith = true) : 2 ^ Nat.log2 (elemCount f) = elemCount f ∧ Nat.log2 (elemCount f) ≤ 7 := by
  cases f <;> simp only [Fmt.arith, Bool.false_eq_true] at hf <;> decide

theorem treeReduce_present {f : Fmt} (hf : f.arith = true) (op : VRed) (r : Rnd) (i : Inst) (m : VMask) (a : VReg) :
    treeReduce op f r 7 (presentElems f (lanesOf i m) (i.vNat a))
      = pairTree op f r (Nat.log2 (elemCount f)) (i.present m f a) := by
  obtain ⟨hpow, hle⟩ := elemCount_arith hf
  rw [presentElems_eq, ← treeReduce_eq op f r _ 7 hle, hpow]

/-! The integer sum without .sat. -/

/-- What an element or an absent one counts. -/
def valueOf (f : Fmt) : Option (Nat × Flags) → Int
  | none => 0
  | some (c, _) => intOf f c

theorem wrapCode_modEq (w : Nat) (x : Int) : (wrapCode w x : Int) ≡ x [ZMOD 2 ^ w] := by
  rw [wrapCode, Int.toNat_of_nonneg (Int.emod_nonneg x (by positivity))]
  exact Int.mod_modEq x _

theorem intOf_modEq {f : Fmt} (hf : f.arith = true) (hi : f.isFloat = false) (c : Nat) :
    intOf f c ≡ c [ZMOD 2 ^ fmtWidth f] := by
  have hsigned : ∀ w, signedOf w c ≡ c [ZMOD 2 ^ w] := fun w => by
    have hmod : ((c % 2 ^ w : Nat) : Int) ≡ c [ZMOD 2 ^ w] := by push_cast; exact Int.mod_modEq _ _
    rw [signedOf]
    split_ifs
    · exact hmod
    · simpa using hmod.sub (Int.modEq_zero_iff_dvd.2 dvd_rfl : (2 ^ w : Int) ≡ 0 [ZMOD 2 ^ w])
  rcases Fmt.isInt_cases hf hi with rfl | rfl | rfl
  · exact hsigned 16
  · exact hsigned 8
  · rw [intOf]; push_cast; exact Int.mod_modEq _ _

/-- The sum of two elements, absent ones counting 0, up to the width. -/
theorem combineOpt_add_modEq {f : Fmt} (hf : f.arith = true) (hi : f.isFloat = false) {r : Rnd} (hr : r.sat = false)
    (x y : Option (Nat × Flags)) :
    valueOf f (combineOpt .add f r x y) ≡ valueOf f x + valueOf f y [ZMOD 2 ^ fmtWidth f] := by
  rcases x with _ | ⟨a, fa⟩
  · simp [combineOpt, valueOf]
  rcases y with _ | ⟨b, fb⟩
  · simp [combineOpt, valueOf]
  have hcode : (combine .add f r a b).1 = wrapCode (fmtWidth f) (intOf f a + intOf f b) := by
    rw [combine, hi]
    simp only [Bool.false_eq_true, if_false, arithOp, hi, integerOp, intResult, hr]
    rcases Fmt.isInt_cases hf hi with rfl | rfl | rfl <;> rfl
  refine (intOf_modEq hf hi (combine .add f r a b).1).trans ?_
  rw [hcode]
  exact wrapCode_modEq _ _

theorem pairTree_add_modEq {f : Fmt} (hf : f.arith = true) (hi : f.isFloat = false) {r : Rnd} (hr : r.sat = false) (n : Nat)
    (e : Nat → Option (Nat × Flags)) :
    valueOf f (pairTree .add f r n e) ≡ ∑ k ∈ Finset.range (2 ^ n), valueOf f (e k) [ZMOD 2 ^ fmtWidth f] := by
  induction n generalizing e with
  | zero => simp [pairTree]
  | succ n ih =>
    rw [pairTree, show 2 ^ (n + 1) = 2 ^ n + 2 ^ n by omega, Finset.sum_range_add, ← Finset.sum_add_distrib]
    refine (ih _).trans (Int.ModEq.sum fun k _ => ?_)
    rw [Nat.add_comm]
    exact combineOpt_add_modEq hf hi hr _ _

end Sys2Proof.Machine

/-! SUPPORT. Reductions, scans and transcendentals complete (07 R146 to R149). -/

namespace Sys2Proof.Machine

open Sys2Proof

/-! Reductions. -/

theorem present_lt {i : Inst} {m : VMask} {f : Fmt} {a : VReg} {k : Nat} (hf : f.arith = true) {c : Nat × Flags}
    (h : i.present m f a k = some c) : c.1 < 2 ^ fmtWidth f := by
  unfold Inst.present at h
  split at h
  · cases h; exact readElem_lt (Fmt.shuffled_of_arith hf) _ _
  · cases h

/-- Codes that fit their format combine to one that does, through the tree. -/
theorem pairTree_lt {f : Fmt} (hf : f.arith = true) (op : VRed) (r : Rnd) (n : Nat) {e : Nat → Option (Nat × Flags)}
    (he : ∀ k c, e k = some c → c.1 < 2 ^ fmtWidth f) {c : Nat × Flags} (hc : pairTree op f r n e = some c) :
    c.1 < 2 ^ fmtWidth f := by
  induction n generalizing e with
  | zero => exact he 0 c hc
  | succ n ih =>
    refine ih (fun k c h => ?_) hc
    rcases hx : e k with _ | ⟨a, fa⟩ <;> rcases hy : e (k + 2 ^ n) with _ | ⟨b, fb⟩ <;> rw [hx, hy] at h <;>
      simp only [combineOpt, Option.some.injEq, reduceCtorEq] at h
    · subst h; exact he _ _ hy
    · subst h; exact he _ _ hx
    · subst h; exact combine_lt hf op r (he _ _ hx) (he _ _ hy)

theorem sum_present (i : Inst) (m : VMask) (f : Fmt) (a : VReg) (n : Nat) :
    ∑ k ∈ Finset.range n, valueOf f (i.present m f a k)
      = (((List.range n).filter (i.elemOn m f)).map (fun k => intOf f (readElem f (i.vNat a) k))).sum := by
  induction n with
  | zero => rfl
  | succ n ih =>
    rw [Finset.sum_range_succ, ih, List.range_succ, List.filter_append, List.map_append, List.sum_append, Inst.present]
    cases h : i.elemOn m f n <;> simp [h, valueOf]

/-- The root of an integer sum is the sum, wrapped. -/
theorem sum_root {f : Fmt} (hf : f.arith = true) (hi : f.isFloat = false) {r : Rnd} (hr : r.sat = false) (i : Inst) (m : VMask)
    (a : VReg) : ((pairTree .add f r (Nat.log2 (elemCount f)) (i.present m f a)).getD (absentRoot .add f, {})).1
      = wrapCode (fmtWidth f)
        (((List.range (elemCount f)).filter (i.elemOn m f)).map (fun k => intOf f (readElem f (i.vNat a) k))).sum := by
  have hsum := pairTree_add_modEq hf hi hr (Nat.log2 (elemCount f)) (i.present m f a)
  rw [(elemCount_arith hf).1, sum_present] at hsum
  generalize (((List.range (elemCount f)).filter (i.elemOn m f)).map (fun k => intOf f (readElem f (i.vNat a) k))).sum = total
    at hsum ⊢
  cases hroot : pairTree .add f r (Nat.log2 (elemCount f)) (i.present m f a) with
  | none =>
    rw [hroot] at hsum
    have h0 : total % 2 ^ fmtWidth f = 0 := by simpa [Int.ModEq, valueOf] using hsum.symm
    rw [wrapCode, h0]
    rfl
  | some c =>
    have hlt := pairTree_lt hf .add r _ (fun k c h => present_lt hf h) hroot
    rw [hroot] at hsum
    have hc : (c.1 : Int) % 2 ^ fmtWidth f = total % 2 ^ fmtWidth f := (intOf_modEq hf hi c.1).symm.trans hsum
    rw [Option.getD_some, wrapCode, ← hc, Int.emod_eq_of_lt (by positivity) (by exact_mod_cast hlt), Int.toNat_natCast]

/-- A reduction's root is that of the tree. -/
theorem State.vReduce_completes {s : State} {i : Inst} {x : Instr} (h : s.Issues i x) {f : Fmt} (hf : f.arith = true) (op : VRed)
    (d a : VReg) (m : VMask) (r : Rnd) : ∃ e v fl, s.vReduce (uses x) op d a m f r = .next (s.holds i e) ∧ e.Is d v fl
      ∧ (v, fl) = ((fun x : Nat × Flags => (BitVec.ofNat 512 x.1, x.2))
          ((pairTree op f r (Nat.log2 (elemCount f)) (i.present m f a)).getD (absentRoot op f, {})))
      ∧ (op = .add → f.isFloat = false → r.sat = false → v.toNat = wrapCode (fmtWidth f)
          (((List.range (elemCount f)).filter (i.elemOn m f)).map (fun k => intOf f (readElem f (i.vNat a) k))).sum) := by
  have hroot := congrArg (fun o => Option.getD o (absentRoot op f, {})) (treeReduce_present hf op r i m a)
  beta_reduce at hroot
  generalize hx : (treeReduce op f r 7 (presentElems f (lanesOf i m) (i.vNat a))).getD (absentRoot op f, {}) = root at hroot
  refine ⟨vOut d root.1 root.2 _, _, _, State.vec_ok h (by rw [← hx]; rfl), vOut_is .., by rw [hroot], ?_⟩
  rintro rfl hi hr
  rw [BitVec.toNat_ofNat, hroot, sum_root hf hi hr, Nat.mod_eq_of_lt]
  exact (wrapCode_lt _ _).trans_le (Nat.pow_le_pow_right (by decide) (by cases f <;> decide))

/-! Scans. -/

theorem runningValue_lt {f : Fmt} (hf : f.arith = true) (op : VRed) (r : Rnd) (i : Inst) (m : VMask) (a : VReg) (n : Nat) :
    (runningValue op f r (i.present m f a) n).1 < 2 ^ fmtWidth f := by
  induction n with
  | zero => exact absentRoot_lt hf op
  | succ n ih =>
    rw [runningValue]
    cases he : i.present m f a n with
    | none => exact ih
    | some c => exact combine_lt hf op r ih (present_lt hf he)

theorem runningValue_succ (op : VRed) (f : Fmt) (r : Rnd) (e : Nat → Option (Nat × Flags)) (n : Nat) :
    runningValue op f r e (n + 1) = (combineOpt op f r (some (runningValue op f r e n)) (e n)).getD (runningValue op f r e n) := by
  rw [runningValue]
  cases e n <;> rfl

/-- The model's scan packs the running values. -/
theorem scanSeq_eq (op : VRed) {f : Fmt} (hf : f.shuffled = true) (r : Rnd) (e : Nat → Option (Nat × Flags)) (n j : Nat) :
    scanSeq op f r (runningValue op f r e j) j ((List.range' j n).map e)
      = (2 ^ (fmtWidth f * j) * Nat.ofDigits (2 ^ fmtWidth f) ((List.range' j n).map (fun k => (runningValue op f r e (k + 1)).1)),
        (runningValue op f r e (j + n)).2) := by
  induction n generalizing j with
  | zero => simp [scanSeq]
  | succ n ih =>
    rw [List.range'_succ, List.map_cons, List.map_cons, scanSeq, ← runningValue_succ]
    simp only [ih (j + 1), elemPos_shuffled hf, Nat.ofDigits_cons]
    refine Prod.ext ?_ (by rw [Nat.add_right_comm, Nat.add_assoc])
    simp only [Nat.mul_add, Nat.mul_one, Nat.pow_add]
    ring

/-- A scan writes the running value after each element. -/
theorem State.vScan_completes {s : State} {i : Inst} {x : Instr} (h : s.Issues i x) {f : Fmt} (hf : f.arith = true) (op : VRed)
    (d a : VReg) (m : VMask) (r : Rnd) : ∃ e v fl, s.vScan (uses x) op d a m f r = .next (s.holds i e) ∧ e.Is d v fl
      ∧ fl = (runningValue op f r (i.present m f a) (elemCount f)).2
      ∧ ∀ k < elemCount f, (runningValue op f r (i.present m f a) (k + 1)).1 < 2 ^ fmtWidth f →
          readElem f v.toNat k = (runningValue op f r (i.present m f a) (k + 1)).1 := by
  have hs := Fmt.shuffled_of_arith hf
  have hscan := scanSeq_eq op hs r (i.present m f a) (elemCount f) 0
  have hlt : ∀ k, (runningValue op f r (i.present m f a) (k + 1)).1 < 2 ^ fmtWidth f := fun k => runningValue_lt hf op r i m a _
  rw [← List.range_eq_range', ← presentElems_eq, ← foldl_packed, Nat.mul_zero, Nat.pow_zero, Nat.one_mul, Nat.zero_add] at hscan
  refine ⟨_, _, _, State.vec_ok h rfl, vOut_is .., congrArg (·.2) hscan, fun k hk _ => ?_⟩
  rw [show scanSeq op f r (absentRoot op f, {}) 0 (presentElems f (lanesOf i.counted m) (i.counted.vNat a)) = _ from hscan]
  rw [← Fmt.shuffled_fills hs, toNat_ofNat_packed (Fmt.shuffled_width hs).1 hlt, readElem_shuffled hs]
  exact packed_field hlt hk

/-- Settles O35: the model's halving is the pairwise tree, and its scan packs the running values. -/
theorem reductionsAndScansComplete : Obligations.ReductionsAndScansComplete := by
  refine fun s i d a m f r hf => ⟨fun row hrow h => ?_, fun row hrow h => ?_⟩
  · simp only [reduceRows, List.mem_cons, List.not_mem_nil, or_false] at hrow
    rcases hrow with rfl | rfl | rfl
    · exact State.vReduce_completes h hf .add d a m r
    · exact State.vReduce_completes h hf .min d a m r
    · exact State.vReduce_completes h hf .max d a m r
  · simp only [scanRows, List.mem_cons, List.not_mem_nil, or_false] at hrow
    rcases hrow with rfl | rfl | rfl
    · exact State.vScan_completes h hf .add d a m r
    · exact State.vScan_completes h hf .min d a m r
    · exact State.vScan_completes h hf .max d a m r

end Sys2Proof.Machine

/-! SUPPORT. The transcendentals (07 R148, R149). -/

namespace Sys2Proof.Machine

open Sys2Proof

/-- A special argument gives its value, rounded. -/
theorem transElem_special {fn : Trans9} {f : Fmt} (sat : Bool) {c : Nat} {y : XR} {g : Flags}
    (h : transSpecial fn (decodeFloat (fpOf f) c) = some (y, g)) :
    (transElem fn f sat c).1 = (roundFloat (fpOf f) .rne sat y).1 := by
  simp only [transElem, h]

/-- Any other argument of a 16-bit format gives the exact value rounded to nearest, with NX. -/
theorem transElem_rounded {fn : Trans9} {f : Fmt} (sat : Bool) {c : Nat} (hf : f ≠ .f32)
    (h : transSpecial fn (decodeFloat (fpOf f) c) = none) :
    (transElem fn f sat c).1 = (roundFloat (fpOf f) .rne sat (transExact fn (decodeFloat (fpOf f) c))).1
      ∧ (transElem fn f sat c).2.nx = true := by
  cases f <;> first | exact absurd rfl hf | (simp only [transElem, h]; exact ⟨trivial, trivial⟩)

/-- A flag that one of the elements sets is set. -/
theorem foldl_or_nx {l : List Nat} {fl : Nat → Flags} (a : Flags) (h : a.nx = true ∨ ∃ k ∈ l, (fl k).nx = true) :
    (l.foldl (fun acc k => acc.or (fl k)) a).nx = true := by
  induction l generalizing a with
  | nil => simpa using h
  | cons k l ih =>
    refine ih _ ?_
    rcases h with h | ⟨j, hj, h⟩
    · exact .inl (by simp [Flags.or, h])
    · rcases List.mem_cons.1 hj with rfl | hj
      · exact .inl (by simp [Flags.or, h])
      · exact .inr ⟨j, hj, h⟩

theorem State.vTrans_completes {s : State} {i : Inst} {x : Instr} (h : s.Issues i x) {f : Fmt} (hf : f.wideFloat = true)
    (fn : Trans9) (d a : VReg) (m : VMask) (sat : Bool) : ∃ e v fl,
    s.vTrans (uses x) fn d a m f sat = .next (s.holds i e) ∧ e.Is d v fl
      ∧ Elementwise i m f (i.readV d) v (fun k => transElem fn f sat (readElem f (i.vNat a) k)) fl
      ∧ ∀ k < elemCount f, i.elemOn m f k = true → ∀ x, x = decodeFloat (fpOf f) (readElem f (i.vNat a) k) →
        (∀ y g, transSpecial fn x = some (y, g) →
          readElem f v.toNat k = (roundFloat (fpOf f) .rne sat y).1 % 2 ^ fmtWidth f)
        ∧ (transSpecial fn x = none → f ≠ .f32 →
          readElem f v.toNat k = (roundFloat (fpOf f) .rne sat (transExact fn x)).1 % 2 ^ fmtWidth f ∧ fl.nx = true) := by
  obtain ⟨e, v, fl, he, his, hel⟩ := State.vMap_completes h (Fmt.shuffled_of_wideFloat hf) d m 1
    (g := fun i _ => .ok (vMap i d m f 1 (fun k => transElem fn f sat (readElem f (i.vNat a) k))))
    (fun k => transElem fn f sat (readElem f (i.vNat a) k)) rfl
  refine ⟨e, v, fl, he, his, hel, ?_⟩
  rintro k hk hon x rfl
  refine ⟨fun y g hsp => ?_, fun hsp hne => ?_⟩
  · rw [hel.active k hk hon, transElem_special sat hsp]
  · obtain ⟨hcode, hnx⟩ := transElem_rounded sat hne hsp
    refine ⟨by rw [hel.active k hk hon, hcode], ?_⟩
    rw [hel.flags]
    exact foldl_or_nx _ (.inr ⟨k, List.mem_filter.2 ⟨List.mem_range.2 hk, hon⟩, hnx⟩)

/-- Settles O36: each word writes its function's values, element by element. -/
theorem transcendentalsComplete : Obligations.TranscendentalsComplete := by
  intro row hrow s i d a m f sat hf h
  simp only [transRows, List.mem_cons, List.not_mem_nil, or_false] at hrow
  rcases hrow with rfl | rfl | rfl | rfl | rfl | rfl | rfl | rfl | rfl
  · exact State.vTrans_completes h hf .exp2 d a m sat
  · exact State.vTrans_completes h hf .log2 d a m sat
  · exact State.vTrans_completes h hf .rcp d a m sat
  · exact State.vTrans_completes h hf .rsqrt d a m sat
  · exact State.vTrans_completes h hf .sin d a m sat
  · exact State.vTrans_completes h hf .cos d a m sat
  · exact State.vTrans_completes h hf .tanh d a m sat
  · exact State.vTrans_completes h hf .sigm d a m sat
  · exact State.vTrans_completes h hf .exp d a m sat

end Sys2Proof.Machine

/-! SUPPORT. The order of float values, and VARGMAX (07 R137, R151). -/

namespace Sys2Proof.Machine

open Sys2Proof

/-- The value of a number that is not NaN, with the two infinities at the ends; NaN stands at the bottom. -/
def XR.value : XR → WithBot (WithTop ℚ)
  | .nan => ⊥
  | .inf s => if s then ⊥ else ((⊤ : WithTop ℚ) : WithBot (WithTop ℚ))
  | .fin s n e _ => (((if s then -(n : ℚ) else n) * (2 : ℚ) ^ e : ℚ) : WithTop ℚ)

/-- A value scaled to an exponent that is not above its own. -/
theorem scaledTo_cast (e0 : Int) (s : Bool) (n : Nat) (e : Int) (h : e0 ≤ e) :
    ((scaledTo e0 s n e : Int) : ℚ) = (if s then -(n : ℚ) else n) * (2 : ℚ) ^ e / (2 : ℚ) ^ e0 := by
  have hpow : (2 : ℚ) ^ (e - e0).toNat = (2 : ℚ) ^ e / (2 : ℚ) ^ e0 := by
    rw [← zpow_natCast, Int.toNat_of_nonneg (by omega), zpow_sub₀ (by norm_num)]
  unfold scaledTo
  dsimp only
  split
  · push_cast; rw [hpow]; ring
  · push_cast; rw [hpow]; ring

/-- The model's order is that of the values. -/
theorem ltX_iff {x y : XR} (hx : x.isNaN = false) (hy : y.isNaN = false) : ltX x y = true ↔ x.value < y.value := by
  cases x with
  | nan => cases hx
  | inf s =>
    cases y with
    | nan => cases hy
    | inf t => cases s <;> cases t <;> simp [ltX, XR.value]
    | fin t m f r => cases s <;> simp [ltX, XR.value]
  | fin s n e r =>
    cases y with
    | nan => cases hy
    | inf t =>
      cases t
      · exact iff_of_true rfl (WithBot.coe_lt_coe.2 (WithTop.coe_lt_top _))
      · simp [ltX, XR.value]
    | fin t m f r' =>
      have h2 : (0 : ℚ) < 2 ^ (min e f) := by positivity
      simp only [ltX, XR.value, decide_eq_true_eq, WithBot.coe_lt_coe, WithTop.coe_lt_coe]
      rw [← Int.cast_lt (R := ℚ), scaledTo_cast _ _ _ _ (min_le_left e f), scaledTo_cast _ _ _ _ (min_le_right e f),
        div_lt_div_iff_of_pos_right h2]

theorem cmpElem_lt_f32 (a b : Nat) : cmpElem .lt .f32 a b
    = (!((decodeFloat (fpOf .f32) a).isNaN || (decodeFloat (fpOf .f32) b).isNaN)
      && ltX (decodeFloat (fpOf .f32) a) (decodeFloat (fpOf .f32) b)) := rfl

/-! VARGMAX. -/

/-- Element `k` of a register of f32. -/
def f32At (x k : Nat) : XR := decodeFloat (fpOf .f32) (readElem .f32 x k)

/-- What the largest value so far says of the elements seen: none is a number, or it is one of them that is as large as any,
and larger than those before it. -/
def IsLargest (x : Nat) (l : List Nat) : Option (Nat × XR) → Prop
  | none => ∀ k ∈ l, (f32At x k).isNaN = true
  | some (j, b) => j ∈ l ∧ b = f32At x j ∧ b.isNaN = false ∧ ∀ k ∈ l, (f32At x k).isNaN = false →
      (f32At x k).value ≤ b.value ∧ (k < j → (f32At x k).value < b.value)

theorem argmax_isLargest (x : Nat) (l : List Nat) (hl : l.Pairwise (· < ·)) : IsLargest x l (l.foldl (argmaxStep x) none) := by
  induction l using List.reverseRecOn with
  | nil => exact fun k hk => absurd hk List.not_mem_nil
  | append_singleton l k ih =>
    rw [List.pairwise_append] at hl
    obtain ⟨hl, -, hlast⟩ := hl
    have hlt : ∀ j ∈ l, j < k := fun j hj => hlast j hj k List.mem_cons_self
    have ih := ih hl
    rw [List.foldl_append, List.foldl_cons, List.foldl_nil]
    generalize l.foldl (argmaxStep x) none = best at ih
    have hv : decodeFloat (fpOf .f32) (readElem .f32 x k) = f32At x k := rfl
    unfold argmaxStep
    simp only [hv]
    cases hn : (f32At x k).isNaN with
    | true =>
      rw [if_pos rfl]
      rcases best with _ | ⟨j, b⟩
      · intro i hi
        rcases List.mem_append.1 hi with hi | hi
        · exact ih i hi
        · rw [List.mem_singleton.1 hi, hn]
      · obtain ⟨hj, hb, hbn, hall⟩ := ih
        refine ⟨List.mem_append_left _ hj, hb, hbn, fun i hi hin => ?_⟩
        rcases List.mem_append.1 hi with hi | hi
        · exact hall i hi hin
        · rw [List.mem_singleton.1 hi, hn] at hin; cases hin
    | false =>
      rw [if_neg Bool.false_ne_true]
      rcases best with _ | ⟨j, b⟩
      · refine ⟨by simp, rfl, hn, fun i hi hin => ?_⟩
        rcases List.mem_append.1 hi with hi | hi
        · rw [ih i hi] at hin; cases hin
        · rw [List.mem_singleton.1 hi]
          exact ⟨le_rfl, fun h => absurd h (lt_irrefl _)⟩
      · obtain ⟨hj, hb, hbn, hall⟩ := ih
        dsimp only
        split
        · next hless =>
          rw [ltX_iff hbn hn] at hless
          refine ⟨by simp, rfl, hn, fun i hi hin => ?_⟩
          rcases List.mem_append.1 hi with hi | hi
          · have hle := ((hall i hi hin).1).trans_lt hless
            exact ⟨hle.le, fun _ => hle⟩
          · rw [List.mem_singleton.1 hi]
            exact ⟨le_rfl, fun h => absurd h (lt_irrefl _)⟩
        · next hless =>
          rw [ltX_iff hbn hn, not_lt] at hless
          refine ⟨List.mem_append_left _ hj, hb, hbn, fun i hi hin => ?_⟩
          rcases List.mem_append.1 hi with hi | hi
          · exact hall i hi hin
          · rw [List.mem_singleton.1 hi]
            exact ⟨hless, fun h => absurd h (Nat.lt_asymm (hlt j hj))⟩

theorem toNat_ofNat_512 {x : Nat} (h : x < 2 ^ 64) : (BitVec.ofNat 512 x).toNat = x := by
  rw [BitVec.toNat_ofNat, Nat.mod_eq_of_lt (h.trans_le (Nat.pow_le_pow_right (by decide) (by decide)))]

theorem execVargmax_completes {s : State} {i : Inst} {d a : VReg} {m : VMask} {md : RMode} (h : s.Issues i (.vargmax d a m md)) :
    ∃ e v, exec (.vargmax d a m md) s = .next (s.holds i e) ∧ e.Is d v {}
      ∧ ((∀ k < 16, i.laneOn m k = true → (decodeFloat (fpOf .f32) (readElem .f32 (i.vNat a) k)).isNaN = true) →
          v.toNat = 0xFFFFFFFF + 0x7FC00000 * 2 ^ 32)
      ∧ ((∃ k < 16, i.laneOn m k = true ∧ (decodeFloat (fpOf .f32) (readElem .f32 (i.vNat a) k)).isNaN = false) →
          ∃ j < 16, v.toNat = j + readElem .f32 (i.vNat a) j * 2 ^ 32 ∧ i.laneOn m j = true
            ∧ (decodeFloat (fpOf .f32) (readElem .f32 (i.vNat a) j)).isNaN = false
            ∧ ∀ k < 16, i.laneOn m k = true →
              cmpElem .lt .f32 (readElem .f32 (i.vNat a) j) (readElem .f32 (i.vNat a) k) = false
              ∧ (k < j → (decodeFloat (fpOf .f32) (readElem .f32 (i.vNat a) k)).isNaN = false →
                cmpElem .lt .f32 (readElem .f32 (i.vNat a) k) (readElem .f32 (i.vNat a) j) = true)) := by
  have hactive : ∀ k, k ∈ activeElems .f32 (lanesOf i m) ↔ k < 16 ∧ i.laneOn m k = true := fun k => by
    rw [activeElems_eq, List.mem_filter, List.mem_range, elemOn_f32]
    rfl
  have hlargest := argmax_isLargest (i.vNat a) (activeElems .f32 (lanesOf i m)) (List.pairwise_lt_range.filter _)
  rw [show exec (.vargmax d a m md) s = execVargmax d a m md s from rfl, execVargmax]
  refine ⟨_, _, State.vec_ok h rfl, vOut_is .., ?_, ?_⟩
  all_goals
    simp only [lanesOf_counted, Inst.counted_vNat]
    generalize (activeElems .f32 (lanesOf i m)).foldl (argmaxStep (i.vNat a)) none = best at hlargest
  · intro hall
    rcases best with _ | ⟨j, b⟩
    · exact toNat_ofNat_512 (x := 0xFFFFFFFF + 0x7FC00000 * 2 ^ 32) (by decide)
    · obtain ⟨hj, rfl, hbn, -⟩ := hlargest
      obtain ⟨hj16, hon⟩ := (hactive j).1 hj
      rw [f32At, hall j hj16 hon] at hbn; cases hbn
  · rintro ⟨k, hk, hon, hkn⟩
    rcases best with _ | ⟨j, b⟩
    · have := hlargest k ((hactive k).2 ⟨hk, hon⟩)
      rw [f32At, hkn] at this; cases this
    · obtain ⟨hj, rfl, hbn, hmax⟩ := hlargest
      obtain ⟨hj16, hjon⟩ := (hactive j).1 hj
      refine ⟨j, hj16, ?_, hjon, hbn, fun k hk hon => ⟨?_, fun hlt hkn => ?_⟩⟩
      · have hr : readElem .f32 (i.vNat a) j < 2 ^ 32 := readElem_lt rfl _ _
        exact toNat_ofNat_512 (x := j + readElem .f32 (i.vNat a) j * 2 ^ 32) (by omega)
      · rw [cmpElem_lt_f32]
        cases hkn : (f32At (i.vNat a) k).isNaN with
        | true => rw [f32At] at hkn; simp [hkn]
        | false =>
          have hle := (hmax k ((hactive k).2 ⟨hk, hon⟩) hkn).1
          rw [← not_lt, ← ltX_iff hbn hkn, Bool.not_eq_true] at hle
          rw [f32At, f32At] at hle
          rw [hle, Bool.and_false]
      · have hv := (hmax k ((hactive k).2 ⟨hk, hon⟩) hkn).2 hlt
        rw [← ltX_iff (x := f32At _ k) hkn hbn] at hv
        rw [f32At] at hbn
        rw [cmpElem_lt_f32, hkn, hbn]
        exact hv

end Sys2Proof.Machine

/-! SUPPORT. VPACKNZ and VTOPK (07 R150, R152). -/

namespace Sys2Proof.Machine

open Sys2Proof

/-! VPACKNZ. -/

section
variable (f : Fmt) (lanes a base w : Nat)

/-- Element `k` is one that VPACKNZ takes. -/
def packs (k : Nat) : Bool := elemActive f lanes k && nonZero f (readElem f a k)

/-- The pair that stands for element `k`. -/
def packPair (k : Nat) : Nat := (base + k) % 65536 + readElem f a k * 2 ^ (w / 2)

/-- The packing loop takes the first elements that it may, as many as there is room for, and stops behind the last of them when
there is no more room. -/
theorem packFrom_eq (cap fuel i n acc : Nat) (hf : elemCount f ≤ fuel + i) (hi : i ≤ elemCount f) (hn : n ≤ cap) {l : List Nat}
    (hl : l = ((List.range' i (elemCount f - i)).filter (packs f lanes a)).take (cap - n)) :
    packFrom f lanes a base cap w fuel i n acc
      = (acc + 2 ^ (w * n) * Nat.ofDigits (2 ^ w) (l.map (packPair f a base w)), n + l.length,
        if l.length = cap - n then l.getLast?.elim i (· + 1) else elemCount f) := by
  induction fuel generalizing i n acc l with
  | zero =>
    obtain rfl : i = elemCount f := by omega
    have hnil : l = [] := by rw [hl, Nat.sub_self]; simp
    subst hnil
    simp [packFrom]
  | succ fuel ih =>
    unfold packFrom
    by_cases hin : i < elemCount f ∧ n < cap
    · rw [if_pos hin]
      dsimp only
      obtain ⟨c, hc⟩ : ∃ c, cap - n = c + 1 := ⟨cap - n - 1, by omega⟩
      rw [show elemCount f - i = (elemCount f - (i + 1)) + 1 by omega, List.range'_succ] at hl
      have hc' : cap - (n + 1) = c := by omega
      cases hp : packs f lanes a i with
      | true =>
        rw [List.filter_cons_of_pos hp, hc, List.take_succ_cons] at hl
        rw [show (elemActive f lanes i && nonZero f (readElem f a i)) = true from hp, if_pos rfl,
          ih (i + 1) (n + 1) _ (by omega) (by omega) (by omega) rfl, hc']
        generalize ((List.range' (i + 1) (elemCount f - (i + 1))).filter (packs f lanes a)).take c = rest at hl ⊢
        subst hl
        refine Prod.ext ?_ (Prod.ext ?_ ?_)
        · simp only [List.map_cons, Nat.ofDigits_cons, packPair, Nat.mul_add, Nat.mul_one, Nat.pow_add]
          ring
        · simp only [List.length_cons]; omega
        · simp only [List.length_cons, hc, Nat.add_right_cancel_iff]
          split
          · cases rest with
            | nil => rfl
            | cons k rest => simp [List.getLast?_cons]
          · rfl
      | false =>
        rw [List.filter_cons_of_neg (by simp [hp])] at hl
        rw [show (elemActive f lanes i && nonZero f (readElem f a i)) = false from hp, if_neg Bool.false_ne_true,
          ih (i + 1) n _ (by omega) (by omega) hn hl]
        refine Prod.ext rfl (Prod.ext rfl ?_)
        dsimp only
        split
        · next hlen =>
          cases l with
          | nil => rw [List.length_nil] at hlen; omega
          | cons k l => rfl
        · rfl
    · have hnil : l = [] := by
        rcases Nat.lt_or_ge n cap with h | h
        · rw [hl, show elemCount f - i = 0 by omega]; simp
        · rw [hl, show cap - n = 0 by omega, List.take_zero]
      subst hnil
      rw [if_neg hin]
      refine Prod.ext (by simp) (Prod.ext rfl ?_)
      rcases Nat.lt_or_ge n cap with h | h
      · simp only [List.length_nil, if_neg (show ¬ 0 = cap - n by omega)]; omega
      · simp only [List.length_nil, if_pos (show 0 = cap - n by omega)]; rfl

end

/-- The elements from `b` on that a test takes. -/
theorem filter_range_from (p : Nat → Bool) (b n : Nat) (hb : b ≤ n) :
    (List.range' b (n - b)).filter p = (List.range n).filter (fun k => decide (b ≤ k) && p k) := by
  have hsplit : List.range n = List.range b ++ List.range' b (n - b) := by
    have happ : List.range' 0 b ++ List.range' (0 + b) (n - b) = List.range' 0 (b + (n - b)) := List.range'_append_1
    rw [Nat.zero_add, Nat.add_sub_cancel' hb] at happ
    rw [List.range_eq_range', List.range_eq_range', happ]
  rw [hsplit, List.filter_append, List.filter_eq_nil_iff (l := List.range b) |>.2 (fun k hk => by simp [List.mem_range.1 hk]),
    List.nil_append]
  exact List.filter_congr fun k hk => by simp [(List.mem_range'_1.1 hk).1]

/-- The two sizes of VPACKNZ's pairs: how many fit a register, and their bits. -/
def packSize (f : Fmt) : Nat × Nat := if fmtWidth f = 32 then (8, 64) else (16, 32)

theorem packPair_lt {f : Fmt} (hf : f.shuffled = true) (a base k : Nat) :
    packPair f a base (packSize f).2 k < 2 ^ (packSize f).2 := by
  have hr := readElem_lt hf a k
  have hm : (base + k) % 65536 < 65536 := Nat.mod_lt _ (by decide)
  rw [packPair]
  cases f <;> simp only [Fmt.shuffled, Bool.false_eq_true] at hf <;> simp only [packSize, fmtWidth] at hr ⊢ <;> norm_num at hr ⊢ <;>
    omega

/-- The elements that VPACKNZ takes from element `start` on. -/
def packList (i : Inst) (a : VReg) (m : VMask) (f : Fmt) (start : Nat) : List Nat :=
  ((List.range (elemCount f)).filter (fun k => decide (start ≤ k) && i.elemOn m f k && nonZero f (readElem f (i.vNat a) k))).take
    (packSize f).1

theorem packFrom_start (i : Inst) (a : VReg) (m : VMask) (f : Fmt) (base start : Nat) (hs : start ≤ elemCount f) :
    packFrom f (lanesOf i m) (i.vNat a) base (packSize f).1 (packSize f).2 (elemCount f) start 0 0
      = (Nat.ofDigits (2 ^ (packSize f).2) ((packList i a m f start).map (packPair f (i.vNat a) base (packSize f).2)),
        (packList i a m f start).length,
        if (packList i a m f start).length = (packSize f).1 then (packList i a m f start).getLastD 0 + 1 else elemCount f) := by
  have hl : packList i a m f start = ((List.range' start (elemCount f - start)).filter
      (packs f (lanesOf i m) (i.vNat a))).take ((packSize f).1 - 0) := by
    rw [filter_range_from _ _ _ hs, packList, Nat.sub_zero]
    refine congrArg (List.take _) (List.filter_congr fun k hk => ?_)
    rw [packs, elemActive_lanesOf i m (List.mem_range.1 hk), Bool.and_assoc]
  rw [packFrom_eq f _ _ base _ _ _ start 0 0 (by omega) hs (by omega) hl]
  simp only [Nat.mul_zero, Nat.pow_zero, Nat.one_mul, Nat.zero_add, Nat.sub_zero]
  refine Prod.ext rfl (Prod.ext rfl ?_)
  dsimp only
  split
  · next hlen =>
    cases hlist : packList i a m f start with
    | nil =>
      rw [hlist, List.length_nil, packSize] at hlen
      split at hlen <;> cases hlen
    | cons k l => simp [List.getLast?_cons, List.getLastD_cons]
  · rfl

theorem packSize_mul (f : Fmt) : (packSize f).2 * (packSize f).1 = 512 := by
  unfold packSize
  split <;> rfl

theorem packList_length (i : Inst) (a : VReg) (m : VMask) (f : Fmt) (start : Nat) :
    (packList i a m f start).length ≤ (packSize f).1 := List.length_take_le ..

section
variable {s : State} {i : Inst} {d a b : VReg} {m : VMask} {f : Fmt} {md : RMode} (h : s.Issues i (.vpacknz d a b m f md))
include h

theorem execVpacknz_fault (hbad : i.vNat b / 2 ^ 32 ≠ 0 ∨ elemCount f < i.vNat b / 2 ^ 16 % 65536) :
    exec (.vpacknz d a b m f md) s = .next (s.faulted i fOperand 0 (i.vNat b % 2 ^ 64)) := by
  rw [show exec (.vpacknz d a b m f md) s = execVpacknz d a b m f md s from rfl, execVpacknz]
  exact State.vec_error h (if_pos hbad)

theorem execVpacknz_completes (hf : f.shuffled = true) (hhigh : i.vNat b / 2 ^ 32 = 0)
    (hs : i.vNat b / 2 ^ 16 % 65536 ≤ elemCount f) : ∃ e x y l,
      exec (.vpacknz d a b m f md) s = .next (s.holds i e) ∧ e.vw = [(d, x), (d + 1, y)] ∧ e.kw = none
        ∧ e.gw = none ∧ e.flags = {} ∧ l = packList i a m f (i.vNat b / 2 ^ 16 % 65536)
        ∧ y.toNat = l.length + 2 ^ 16 * (if l.length = (packSize f).1 then l.getLastD 0 + 1 else elemCount f)
        ∧ x.toNat < 2 ^ ((packSize f).2 * l.length)
        ∧ ∀ n (hn : n < l.length), x.toNat / 2 ^ ((packSize f).2 * n) % 2 ^ (packSize f).2
          = packPair f (i.vNat a) (i.vNat b % 65536) (packSize f).2 l[n] := by
  have hpack := packFrom_start i a m f (i.vNat b % 65536) _ hs
  have hlen := packList_length i a m f (i.vNat b / 2 ^ 16 % 65536)
  have hmem : ∀ k ∈ packList i a m f (i.vNat b / 2 ^ 16 % 65536), k < elemCount f := fun k hk =>
    List.mem_range.1 (List.mem_of_mem_filter (List.mem_of_mem_take hk))
  generalize packList i a m f (i.vNat b / 2 ^ 16 % 65536) = l at hpack hlen hmem
  have hdig : ∀ x ∈ l.map (packPair f (i.vNat a) (i.vNat b % 65536) (packSize f).2), x < 2 ^ (packSize f).2 := fun x hx => by
    obtain ⟨k, -, rfl⟩ := List.mem_map.1 hx
    exact packPair_lt hf _ _ _
  have hw : 1 < 2 ^ (packSize f).2 := by unfold packSize; split <;> decide
  have hlt := Nat.ofDigits_lt_base_pow_length hw hdig
  rw [List.length_map, ← Nat.pow_mul] at hlt
  rw [show exec (.vpacknz d a b m f md) s = execVpacknz d a b m f md s from rfl, execVpacknz]
  have hgood : ¬ (i.vNat b / 2 ^ 32 ≠ 0 ∨ i.vNat b / 2 ^ 16 % 65536 > elemCount f) := by omega
  refine ⟨_, _, _, l, State.vec_ok h ((if_neg hgood).trans (congrArg (fun p : Nat × Nat × Nat => Except.ok (VPend.mk
    [(d, BitVec.ofNat 512 p.1), (d + 1, BitVec.ofNat 512 (p.2.2 * 2 ^ 16 + p.2.1))] none none true {} none)) hpack)),
    rfl, rfl, rfl, rfl, rfl, ?_, ?_, ?_⟩
  · have hcount : elemCount f ≤ 512 := by cases f <;> decide
    have hcap : (packSize f).1 ≤ 16 := by unfold packSize; split <;> decide
    have hlast : l.getLastD 0 ≤ 512 := by
      rcases List.mem_cons.1 (List.getLastD_mem_cons : l.getLastD 0 ∈ 0 :: l) with h0 | hm
      · omega
      · exact (hmem _ hm).le.trans hcount
    dsimp only
    rw [toNat_ofNat_512 (by split <;> omega)]
    omega
  · rw [BitVec.toNat_ofNat]
    exact (Nat.mod_le _ _).trans_lt hlt
  · intro n hn
    have hfit : 2 ^ ((packSize f).2 * l.length) ≤ 2 ^ 512 := by
      rw [← packSize_mul f]
      exact Nat.pow_le_pow_right (by decide) (Nat.mul_le_mul_left _ hlen)
    rw [BitVec.toNat_ofNat, Nat.mod_eq_of_lt (hlt.trans_le hfit), pow_mul, ofDigits_digit (by positivity) hdig n (by simpa using hn)]
    simp

end

/-! VTOPK. -/

theorem mem_insertCand {l : List (Nat × Nat)} {c e : Nat × Nat} (h : e ∈ insertCand l c) : e = c ∨ e ∈ l := by
  induction l with
  | nil => exact .inl (List.mem_singleton.1 h)
  | cons x t ih =>
    unfold insertCand at h
    split at h
    · exact List.mem_cons.1 h
    · rcases List.mem_cons.1 h with h | h
      · exact .inr (h ▸ List.mem_cons_self)
      · exact (ih h).imp_right (List.mem_cons_of_mem _)

/-- Sorting candidates in adds none. -/
theorem mem_foldl_insertCand {l acc : List (Nat × Nat)} {e : Nat × Nat} (h : e ∈ l.foldl insertCand acc) : e ∈ l ∨ e ∈ acc := by
  induction l generalizing acc with
  | nil => exact .inr h
  | cons c l ih =>
    rcases ih h with h | h
    · exact .inl (List.mem_cons_of_mem _ h)
    · rcases mem_insertCand h with rfl | h
      · exact .inl List.mem_cons_self
      · exact .inr h

/-- The candidates of VTOPK: what vC holds, and the active elements. -/
def topCands (i : Inst) (a b c : VReg) (m : VMask) : List (Nat × Nat) :=
  (((List.range 8).map (fun k => (readElem .f32 (i.vNat c) (2 * k), readElem .f32 (i.vNat c) (2 * k + 1)))).filter
      (fun e => e.2 != 0xFFFFFFFF)
    ++ ((List.range 16).filter (i.laneOn m)).map (fun k => (readElem .f32 (i.vNat a) k, readElem .f32 (i.vNat b) k)))

theorem topCands_lt {i : Inst} {a b c : VReg} {m : VMask} {e : Nat × Nat} (h : e ∈ topCands i a b c m) :
    e.1 < 2 ^ 32 ∧ e.2 < 2 ^ 32 := by
  rcases List.mem_append.1 h with h | h
  · obtain ⟨k, -, rfl⟩ := List.mem_map.1 (List.mem_of_mem_filter h)
    exact ⟨readElem_lt (f := .f32) rfl _ _, readElem_lt (f := .f32) rfl _ _⟩
  · obtain ⟨k, -, rfl⟩ := List.mem_map.1 h
    exact ⟨readElem_lt (f := .f32) rfl _ _, readElem_lt (f := .f32) rfl _ _⟩

theorem activeElems_f32 (i : Inst) (m : VMask) : activeElems .f32 (lanesOf i m) = (List.range 16).filter (i.laneOn m) := by
  rw [activeElems_eq]
  exact List.filter_congr fun k _ => elemOn_f32 i m k

/-- One result of VTOPK: a candidate, or the empty entry. -/
def topSlot (o : Option (Nat × Nat)) : Nat := match o with
  | some (key, ident) => key + ident * 2 ^ 32
  | none => 0xFF800000 + 0xFFFFFFFF * 2 ^ 32

/-- The eight first of the candidates that are no NaN. -/
def topSorted (i : Inst) (a b c : VReg) (m : VMask) : List (Nat × Nat) :=
  (((topCands i a b c m).filter (fun e => !(decodeFloat (fpOf .f32) e.1).isNaN)).foldl insertCand []).take 8

section
variable {s : State} {i : Inst} {d a b c : VReg} {m : VMask} {md : RMode} (h : s.Issues i (.vtopk d a b c m md))
include h

theorem execVtopk_fault (hbad : ∃ k < 16, i.laneOn m k = true ∧ readElem .f32 (i.vNat b) k = 0xFFFFFFFF) :
    exec (.vtopk d a b c m md) s = .next (s.faulted i fOperand 0 (i.vNat b % 2 ^ 64)) := by
  rw [show exec (.vtopk d a b c m md) s = execVtopk d a b c m md s from rfl, execVtopk]
  refine State.vec_error h (if_pos ?_)
  obtain ⟨k, hk, hon, hid⟩ := hbad
  simp only [lanesOf_counted, Inst.counted_vNat, activeElems_f32]
  refine List.any_eq_true.2 ⟨_, List.mem_map_of_mem (List.mem_filter.2 ⟨List.mem_range.2 hk, hon⟩), ?_⟩
  rw [hid]
  rfl

theorem execVtopk_completes (hok : ∀ k < 16, i.laneOn m k = true → readElem .f32 (i.vNat b) k ≠ 0xFFFFFFFF) : ∃ e v fl,
    exec (.vtopk d a b c m md) s = .next (s.holds i e) ∧ e.Is d v fl
      ∧ fl = { nv := (topCands i a b c m).any (fun e => (decodeFloat (fpOf .f32) e.1).isNaN) }
      ∧ ∀ k < 8, v.toNat / 2 ^ (64 * k) % 2 ^ 64
        = topSlot ((((topCands i a b c m).filter (fun e => !(decodeFloat (fpOf .f32) e.1).isNaN)).foldl insertCand [])[k]?) := by
  have hids : ¬ ((activeElems .f32 (lanesOf i m)).map (fun k => (readElem .f32 (i.vNat a) k, readElem .f32 (i.vNat b) k))).any
      (fun e => e.2 == emptyId) = true := by
    rw [activeElems_f32, List.any_eq_true]
    rintro ⟨e, he, hid⟩
    obtain ⟨k, hk, rfl⟩ := List.mem_map.1 he
    obtain ⟨hk16, hon⟩ := List.mem_filter.1 hk
    exact hok k (List.mem_range.1 hk16) hon (beq_iff_eq.1 hid)
  rw [show exec (.vtopk d a b c m md) s = execVtopk d a b c m md s from rfl, execVtopk]
  have hnv : (!((topCands i a b c m).filter (fun e => (decodeFloat (fpOf .f32) e.1).isNaN)).isEmpty)
      = (topCands i a b c m).any (fun e => (decodeFloat (fpOf .f32) e.1).isNaN) := by
    rw [Bool.eq_iff_iff, Bool.not_eq_true', List.isEmpty_eq_false_iff_exists_mem, List.any_eq_true]
    simp only [List.mem_filter]
  refine ⟨_, _, _, State.vec_ok h (e := vOut d ((List.range 8).foldl (fun (acc k : Nat) =>
      acc + topSlot (topSorted i a b c m)[k]? * 2 ^ (64 * k)) 0)
    { nv := (topCands i a b c m).any (fun e => (decodeFloat (fpOf .f32) e.1).isNaN) }
    (some (0, (activeElems .f32 (lanesOf i m)).length))) ?_, vOut_is .., rfl, fun k hk => ?_⟩
  · refine (if_neg hids).trans ?_
    rw [← hnv, topSorted]
    simp only [lanesOf_counted, Inst.counted_vNat, activeElems_f32, List.partition_eq_filter_filter]
    rfl
  · have hlt : ∀ k : Nat, topSlot (topSorted i a b c m)[k]? < 2 ^ 64 := fun k => by
      cases he : (topSorted i a b c m)[k]? with
      | none => decide
      | some e =>
        have hmem := List.mem_of_mem_take (List.mem_of_getElem? he)
        obtain ⟨h1, h2⟩ := topCands_lt (List.mem_of_mem_filter ((mem_foldl_insertCand hmem).resolve_right List.not_mem_nil))
        rw [topSlot]
        omega
    rw [show (512 : Nat) = 64 * 8 from rfl, toNat_ofNat_packed (by decide) hlt, packed_field hlt hk, topSorted,
      List.getElem?_take_of_lt hk]

end

/-- Settles O37: the packing loop takes the first elements there is room for, the running largest value is the first largest one,
and the candidates are sorted in one by one. -/
theorem packingAndTopCompletes : Obligations.PackingAndTopCompletes := by
  refine fun s i d a b c m f md => ⟨fun h hf hhigh hs => ?_, fun h hbad => execVpacknz_fault h hbad,
    fun h => execVargmax_completes h, fun h hbad => execVtopk_fault h hbad, fun h hok => ?_⟩
  · obtain ⟨e, x, y, l, hex, hvw, hkw, hgw, hfl, hl, hy, hx, hpairs⟩ := execVpacknz_completes h hf hhigh hs
    have hcap : (packSize f).1 = if fmtWidth f = 32 then 8 else 16 := by unfold packSize; split <;> rfl
    have hw : (packSize f).2 = if fmtWidth f = 32 then 64 else 32 := by unfold packSize; split <;> rfl
    refine ⟨e, x, y, l, hex, hvw, hkw, hgw, hfl, ?_, ?_, ?_, fun n hn => ?_⟩
    · rw [hl, packList, hcap]
    · rw [hy, hcap]
    · rw [← hw]; exact hx
    · have hpair := hpairs n hn
      rw [packPair, Nat.mod_add_mod] at hpair
      by_cases h32 : fmtWidth f = 32
      · rw [if_pos h32] at hw
        rw [if_pos h32, if_pos h32]
        rw [hw] at hpair
        exact hpair
      · rw [if_neg h32] at hw
        rw [if_neg h32, if_neg h32]
        rw [hw] at hpair
        exact hpair
  · obtain ⟨e, v, fl, hex, his, hfl, hv⟩ := execVtopk_completes h hok
    exact ⟨e, v, fl, _, hex, his, rfl, hfl, hv⟩

end Sys2Proof.Machine

/-! SUPPORT. The mask words, and the end of a vector word (07 R132, R153). -/

namespace Sys2Proof.Machine

open Sys2Proof

/-! Mask words. -/

theorem State.kOp_completes {s : State} {i : Inst} {x : Instr} (h : s.Issues i x) (d : KReg) {fn : Inst → KWord} {k : KWord}
    (hk : fn i.counted = k) : ∃ e, s.kOp (uses x) d fn = .next (s.holds i e) ∧ e.vw = [] ∧ e.gw = none ∧ e.kw = some (d, k)
      ∧ e.flags = {} := by
  refine ⟨_, State.vec_ok h rfl, rfl, rfl, ?_, rfl⟩
  rw [kOut, hk, BitVec.ofNat_toNat, BitVec.setWidth_eq]

/-! The end of a vector word. -/

/-- A k register takes what a word writes, and a g register unless a younger word has written it. -/
def Inst.takeK (i : Inst) (o : Option (KReg × KWord)) : Inst := match o with
  | some (r, x) => i.setK r x
  | none => i
def Inst.takeG (i : Inst) (o : Option (GReg × Word)) (live : Bool) : Inst := match o with
  | some (r, x) => if live then i.setG r x else i
  | none => i

/-- The instance whose `n`th vector word has ended, before a waiting loop check is made. -/
def Inst.ended (i : Inst) (n : Nat) (e : VPend) : Inst :=
  (((e.vw.foldl (fun (i : Inst) w => i.setV w.1 w.2) { i with vpend := i.vpend.eraseIdx n }).takeK e.kw).takeG e.gw e.glive).setFlags e.flags

theorem Inst.complete_eq (i : Inst) (n : Nat) (e : VPend) :
    ({ i with vpend := i.vpend.eraseIdx n } : Inst).complete e = (i.ended n e).settleEdge := rfl

theorem Inst.takeK_eq (i : Inst) (o : Option (KReg × KWord)) : ∃ k, i.takeK o = { i with k := k } := by
  rcases o with _ | ⟨r, x⟩
  · exact ⟨i.k, rfl⟩
  · dsimp only [Inst.takeK, Inst.setK]
    split <;> exact ⟨_, rfl⟩

theorem Inst.takeG_eq (i : Inst) (o : Option (GReg × Word)) (live : Bool) : ∃ g, i.takeG o live = { i with g := g } := by
  rcases o with _ | ⟨r, x⟩
  · exact ⟨i.g, rfl⟩
  · dsimp only [Inst.takeG, Inst.setG]
    split_ifs <;> exact ⟨_, rfl⟩

/-- What the writes of v registers leave. -/
theorem Inst.foldl_setV (l : List (VReg × VWord)) (i : Inst) :
    ∃ v, l.foldl (fun i w => i.setV w.1 w.2) i = { i with v := v } := by
  induction l generalizing i with
  | nil => exact ⟨i.v, rfl⟩
  | cons w l ih =>
    obtain ⟨v, hv⟩ := ih (i.setV w.1 w.2)
    exact ⟨v, hv⟩

section
variable (i : Inst) (n : Nat) (e : VPend)

/-- What the end of a word leaves, whatever it writes. -/
theorem Inst.ended_keeps : (i.ended n e).edge = i.edge ∧ (i.ended n e).vpend = i.vpend.eraseIdx n
    ∧ (i.ended n e).flags = i.flags.or e.flags := by
  obtain ⟨v, hv⟩ := Inst.foldl_setV e.vw { i with vpend := i.vpend.eraseIdx n }
  obtain ⟨k, hk⟩ := Inst.takeK_eq { i with vpend := i.vpend.eraseIdx n, v := v } e.kw
  obtain ⟨g, hg⟩ := Inst.takeG_eq { i with vpend := i.vpend.eraseIdx n, v := v, k := k } e.gw e.glive
  rw [Inst.ended, hv, hk, hg]
  exact ⟨rfl, rfl, rfl⟩

theorem Inst.ended_readV {d : VReg} {v : VWord} (h : e.vw = [(d, v)]) (r : VReg) :
    (i.ended n e).readV r = if r = d then v else i.readV r := by
  rw [Inst.ended, h]
  obtain ⟨k, hk⟩ := Inst.takeK_eq (({ i with vpend := i.vpend.eraseIdx n } : Inst).setV d v) e.kw
  obtain ⟨g, hg⟩ := Inst.takeG_eq { (({ i with vpend := i.vpend.eraseIdx n } : Inst).setV d v) with k := k } e.gw e.glive
  rw [List.foldl_cons, List.foldl_nil, hk, hg]
  exact Inst.readV_setV _ d v r

theorem Inst.ended_readK {d : KReg} {k : KWord} (h : e.kw = some (d, k)) (r : KReg) :
    (i.ended n e).readK r = if r = d ∧ d ≠ 0 then k else i.readK r := by
  obtain ⟨v, hv⟩ := Inst.foldl_setV e.vw { i with vpend := i.vpend.eraseIdx n }
  obtain ⟨g, hg⟩ := Inst.takeG_eq (({ i with vpend := i.vpend.eraseIdx n, v := v } : Inst).setK d k) e.gw e.glive
  rw [Inst.ended, hv, h, Inst.takeK, hg]
  exact Inst.readK_setK _ d k r

theorem Inst.ended_readG {d : GReg} {x : Word} (h : e.gw = some (d, x)) (r : GReg) :
    (i.ended n e).readG r = if e.glive = true ∧ r = d ∧ d ≠ 0 then x else i.readG r := by
  obtain ⟨v, hv⟩ := Inst.foldl_setV e.vw { i with vpend := i.vpend.eraseIdx n }
  obtain ⟨k, hk⟩ := Inst.takeK_eq { i with vpend := i.vpend.eraseIdx n, v := v } e.kw
  rw [Inst.ended, hv, hk, h, Inst.takeG]
  cases e.glive with
  | true =>
    rw [if_pos rfl]
    refine (Inst.readG_setG _ d x r).trans ?_
    simp only [true_and]
    rfl
  | false => rfl

/-- A loop check that does not wait leaves the instance. -/
theorem Inst.settleEdge_of_no_edge {i : Inst} (h : i.edge = false) : i.settleEdge = i := by
  rw [Inst.settleEdge, h]
  rfl

end

/-- Settles O38: a mask word holds its register's value, and the end of a word writes what it held. -/
theorem maskWordsAndVectorEndComplete : Obligations.MaskWordsAndVectorEndComplete := by
  refine ⟨fun s i d a b g => ⟨?_, ?_⟩, fun s p sl n i e hi he => ?_⟩
  · rintro x k (⟨rfl, rfl⟩ | ⟨rfl, rfl⟩ | ⟨rfl, rfl⟩ | ⟨rfl, rfl⟩ | ⟨rfl, rfl⟩) h
    · exact State.kOp_completes h d (fn := fun i => i.readK a &&& i.readK b) rfl
    · exact State.kOp_completes h d (fn := fun i => i.readK a ||| i.readK b) rfl
    · exact State.kOp_completes h d (fn := fun i => i.readK a ^^^ i.readK b) rfl
    · exact State.kOp_completes h d (fn := fun i => ~~~ i.readK a) rfl
    · exact State.kOp_completes h d (fn := fun i => (i.readG g).setWidth 16) (BitVec.setWidth_eq_extractLsb' (by decide))
  · rintro x v (⟨rfl, rfl⟩ | ⟨rfl, rfl⟩) h
    · rw [show exec (.krd g a) s = execKrd g a s from rfl, execKrd]
      refine ⟨_, State.vec_ok h rfl, rfl, rfl, ?_, rfl⟩
      exact congrArg (fun x => some (g, x)) (BitVec.eq_of_toNat_eq (by simp [word64]))
    · rw [show exec (.kpopc g a) s = execKpopc g a s from rfl, execKpopc]
      refine ⟨_, State.vec_ok h rfl, rfl, rfl, ?_, rfl⟩
      rw [List.countP_eq_length_filter]
      rfl
  · have hsl : sl < 8 := State.inst?_lt hi
    obtain ⟨hedge, hvpend, hflags⟩ := i.ended_keeps n e
    have hslot : ∀ t : State, t.cores = (s.setInst p sl (some (i.ended n e).settleEdge)).cores →
        t.inst? p sl = some (i.ended n e).settleEdge := fun t ht => by
      rw [State.inst?, State.core, ht]
      exact (State.inst?_setInst _ _ _ _ _ _ hsl).trans (if_pos ⟨rfl, rfl⟩)
    rw [show exec (.vectorComplete p sl n) s = execVectorComplete p sl n s from rfl, execVectorComplete, hi]
    simp only [he, Inst.complete_eq]
    obtain ⟨t, ht, hcores, hmem⟩ : ∃ t : State, ((match e.vec with
        | some (f, k) => Host.Outcome.next ((s.setInst p sl (some (i.ended n e).settleEdge)).count (dieOf p) i.ctx (0x20 + f) k)
        | none => .next (s.setInst p sl (some (i.ended n e).settleEdge))) : Out1) = .next t
        ∧ t.cores = (s.setInst p sl (some (i.ended n e).settleEdge)).cores ∧ t.mem = s.mem := by
      rcases e.vec with _ | ⟨f, k⟩
      · exact ⟨_, rfl, rfl, rfl⟩
      · exact ⟨_, rfl, State.count_cores .., State.count_mem ..⟩
    refine ⟨t, i.ended n e, ht, hslot t hcores, hmem, hedge, fun h => Inst.settleEdge_of_no_edge (hedge.trans h), hvpend, hflags,
      fun d v hw => ⟨?_, fun r hr => ?_⟩, fun d k hw => ⟨?_, fun r hr => ?_⟩, fun d v hw => ⟨?_, fun r hr => ?_⟩⟩
    · rw [i.ended_readV n e hw, if_pos rfl]
    · rw [i.ended_readV n e hw, if_neg hr]
    · rw [i.ended_readK n e hw]
      by_cases h0 : d = 0
      · subst h0; rfl
      · rw [if_pos ⟨rfl, h0⟩, if_neg h0]
    · rw [i.ended_readK n e hw, if_neg (fun h => hr h.1)]
    · rw [i.ended_readG n e hw]
      by_cases h0 : d = 0
      · subst h0; simp [Inst.readG]
      · rw [if_neg h0]
        cases e.glive with
        | true => exact if_pos ⟨rfl, rfl, h0⟩
        | false => exact if_neg (fun h => Bool.false_ne_true h.1)
    · rw [i.ended_readG n e hw, if_neg (fun h => hr h.2.1)]

end Sys2Proof.Machine

/-! SUPPORT. Engine words at issue: their descriptors and answers (08 R156 to R162). -/

namespace Sys2Proof.Machine

open Sys2Proof

/-! A word of one descriptor. -/

/-- A check of a descriptor does not depend on how many words its instance has counted. -/
def DescCheck (ok : Inst → State → Nat → Bool) : Prop := ∀ s i x, ok (Inst.counted i) (State.counted s i) x = ok i s x

section
variable {s : State} {i : Inst} {x : Instr} (h : s.Issues i x) {a : XReg} {ok : Inst → State → Nat → Bool} (hc : DescCheck ok)
  {f : Inst → State → Nat → Out1}
include h hc

theorem State.onDesc_ok (hok : ok i s (i.readD a).toNat = true) :
    s.onDesc (uses x) a ok f = f i.counted (s.counted i) (i.readD a).toNat := by
  rw [State.onDesc, State.onFit_eq h]
  simp only [Inst.counted_readD, hc s i, hok, if_true]

theorem State.onDesc_bad (hbad : ok i s (i.readD a).toNat = false) :
    s.onDesc (uses x) a ok f = .next (s.faulted i fOperand 0 ((i.readD a).toNat / 2 ^ 192 % 2 ^ 64)) := by
  rw [State.onDesc, State.onFit_eq h]
  simp only [Inst.counted_readD, hc s i, hbad, Bool.false_eq_true, if_false, State.raise_counted, word3]

end

theorem wbloadOk_desc : DescCheck wbloadOk := fun _ _ _ => by
  simp only [wbloadOk, Inst.counted_ctx, Inst.counted_lcore, State.counted_lc, State.counted_ctx, State.counted_curP]
theorem wbEntryOk_desc (b : Bool) : DescCheck (wbEntryOk b) := fun _ _ _ => by
  simp only [wbEntryOk, Inst.counted_ctx, State.counted_ctx, State.counted_curP]
theorem copyOk_desc (b : Bool) : DescCheck (copyOk b) := fun _ _ _ => by
  simp only [copyOk, Inst.counted_ctx, Inst.counted_lcore, State.counted_lc]
theorem eresumeOk_desc : DescCheck eresumeOk := fun _ _ _ => rfl
theorem estatOk_desc : DescCheck estatOk := fun _ _ _ => rfl
theorem sploadOk_desc : DescCheck sploadOk := fun _ _ _ => by
  simp only [sploadOk, Inst.counted_ctx, State.counted_ctx, State.counted_curP]
theorem spseedOk_desc : DescCheck spseedOk := fun _ _ _ => by
  simp only [spseedOk, Inst.counted_ctx, State.counted_ctx, State.counted_curP]

@[simp] theorem State.counted_descAddr (s : State) (i : Inst) (c va : Nat) : (s.counted i).descAddr c va = s.descAddr c va := by
  simp only [State.descAddr, State.counted_ctx]

/-! Answers of engines. -/

/-- An engine's answer that changes nothing else. -/
theorem State.retireLater_answered (s : State) (i : Inst) (d : GReg) (v : Word) :
    (s.counted i).retireLater i.counted d v = .next (s.answered i d v) := State.retireLater_counted s i d v

/-- What an answer leaves of a state: everything but its slot. -/
structure State.AnswerLeaves (u t : State) : Prop where
  mem : t.mem = u.mem
  quad : ∀ q, t.quad q = u.quad q
  copyQ : ∀ p, (t.core p).copyQ = (u.core p).copyQ
  copyStop : ∀ p, (t.core p).copyStop = (u.core p).copyStop
  gathers : ∀ p, (t.core p).gathers = (u.core p).gathers

theorem State.setCur_leaves (u : State) (j : Inst) : u.AnswerLeaves (u.setCur j) := by
  have hcore : ∀ {β : Type} (r : Core → β), (∀ c sl i, r (Core.setSlot c sl i) = r c) → ∀ p, r ((u.setCur j).core p) = r (u.core p) :=
    fun r hr p => by
      rw [State.setCur, State.setInst, State.core_setCore]
      split
      · next h => rw [hr, h]
      · rfl
  exact ⟨rfl, fun _ => rfl, hcore Core.copyQ fun _ _ _ => rfl, hcore Core.copyStop fun _ _ _ => rfl,
    hcore Core.gathers fun _ _ _ => rfl⟩

/-- The word whose gD an engine answers, in the state that it leaves. -/
theorem State.retireLater_leaves {s u : State} {i : Inst} (h : s.Issuing i) (hS : u.curS = s.curS) (d : GReg) (v : Word) : ∃ t,
    u.retireLater i.counted d v = .next t ∧ t.Issuing (i.answered u.nextId d v) ∧ u.AnswerLeaves t := by
  obtain ⟨hmem, hquad, hq, hst, hg⟩ := State.setCur_leaves u.fresh.2 (i.answered u.nextId d v)
  exact ⟨_, rfl, Issuing_setCur _ (hS ▸ h.slot : u.curS < 8), hmem, hquad, hq, hst, hg⟩

end Sys2Proof.Machine

/-! SETTLED. OPA and weight-buffer words (08 R156 to R162). -/

namespace Sys2Proof.Machine

open Sys2Proof

/-! OPA words. -/

/-- What an OPA word asks of its descriptor. -/
theorem opaOk_desc (fn : Nat) :
    DescCheck (fun i s x => tileOk x && tOp x == fn && (s.ctx i.ctx).holdsArr (quadOf s.curP)) := fun _ _ _ => by
  simp only [Inst.counted_ctx, State.counted_ctx, State.counted_curP]

@[simp] theorem State.addOp_quad (s : State) (p : Nat) (o : Op) (q : Nat) : (s.addOp p o).quad q = s.quad q := rfl

@[simp] theorem State.fresh_quad (s : State) (q : Nat) : s.fresh.2.quad q = s.quad q := rfl

@[simp] theorem whoOf_counted (i : Inst) (p sl : Nat) : whoOf i.counted p sl = whoOf i p sl := rfl

@[simp] theorem State.acceptTile_quad (u : State) (q : Nat) (c : ACmd) :
    (u.acceptTile q c).quad q = { u.quad q with arrayQ := (u.quad q).arrayQ ++ [c] } := State.quad_setQuad_same _ _ _

section
variable {s : State} {i : Inst} {y : Instr} (h : s.Issues i y) {fn x q : Nat} {a : XReg} (hx : x = (i.readD a).toNat)
  (hq : q = quadOf s.curP) (htile : tileOk x = true) (hop : tOp x = fn) (harr : (s.ctx i.ctx).holdsArr q = true)
  (haddr : fn ≠ 3 → s.descAddr i.ctx (tAddr x) = .ok ())
  (hscale : fn < 3 → 2 ≤ tAsm x → s.descAddr i.ctx (tScaleAddr x) = .ok ())
include h hx hq htile hop harr haddr hscale

/-- An OPA word whose checks pass asks for room. -/
theorem State.opa_passed (d : GReg) : s.opa (uses y) fn d a =
    if 4 ≤ (s.quad q).pendingOf s.curP then .next (s.answered i d 1)
    else ((((s.counted i).fresh.2.addOp s.curP (engOp s.nextId i.counted .ar
      ((s.counted i).fresh.2.tileMems i.ctx q x))).acceptTile q ⟨s.nextId, i.readD a, whoOf i s.curP s.curS, 0, s.clock + 2⟩).retireLater
        i.counted d 0) := by
  subst hx hq
  have hcheck : (tileOk (i.readD a).toNat && tOp (i.readD a).toNat == fn && (s.ctx i.ctx).holdsArr (quadOf s.curP)) = true := by
    rw [htile, hop, harr]; simp
  rw [State.opa, State.onDesc_ok h (opaOk_desc fn) hcheck]
  by_cases h3 : fn = 3
  · simp [h3, State.retireLater_answered, Config.arrayPerCore, State.fresh]
  · by_cases hs : fn < 3 ∧ 2 ≤ tAsm (i.readD a).toNat
    · simp [h3, hs, haddr h3, hscale hs.1 hs.2, State.retireLater_answered, Config.arrayPerCore, State.fresh]
    · simp [h3, hs, haddr h3, State.retireLater_answered, Config.arrayPerCore, State.fresh]

theorem State.opa_completes (d : GReg) :
    ((s.quad q).pendingOf s.curP < 4 → ∃ t, s.opa (uses y) fn d a = .next t
      ∧ t.Issuing (i.answered (s.nextId + 1) d 0) ∧ t.mem = s.mem
      ∧ (t.quad q).arrayQ = (s.quad q).arrayQ ++ [⟨s.nextId, i.readD a, whoOf i s.curP s.curS, 0, s.clock + 2⟩])
    ∧ (4 ≤ (s.quad q).pendingOf s.curP → s.opa (uses y) fn d a = .next (s.answered i d 1)) := by
  rw [State.opa_passed h hx hq htile hop harr haddr hscale d]
  refine ⟨fun hroom => ?_, fun hfull => if_pos hfull⟩
  rw [if_neg (by omega)]
  obtain ⟨t, ht, hi, hl⟩ := State.retireLater_leaves (u := ((s.counted i).fresh.2.addOp s.curP (engOp s.nextId i.counted .ar
      ((s.counted i).fresh.2.tileMems i.ctx q x))).acceptTile q ⟨s.nextId, i.readD a, whoOf i s.curP s.curS, 0, s.clock + 2⟩)
    h.1 rfl d 0
  refine ⟨t, ht, hi, hl.mem.trans (State.counted_mem s i), ?_⟩
  rw [hl.quad, State.acceptTile_quad, State.addOp_quad]
  exact congrArg (fun k : Quad => k.arrayQ ++ _) (State.counted_quad s i q)

end

/-! The weight buffer. -/

@[simp] theorem Quad.entry_put (k : Quad) (e : Nat) (x : WbEntry) : Quad.entry { k with wbe := k.wbe.put e x } e = x := by
  rw [Quad.entry, Tab.get_put]; simp

theorem State.setEntry_entry (s : State) (q e : Nat) (x : WbEntry) : ((s.setEntry q e x).quad q).entry e = x := by
  rw [State.setEntry, State.quad_setQuad_same]
  exact Quad.entry_put _ e x

@[simp] theorem State.completeOp_quad (s : State) (o q : Nat) : (s.completeOp o).quad q = s.quad q := rfl

/-- An answer that leaves an entry changed. -/
theorem State.setEntry_answers {s : State} {i : Inst} (h : s.Issuing i) (q en : Nat) (e : WbEntry) (d : GReg) (v : Word) : ∃ t,
    ((s.counted i).setEntry q en e).retireLater i.counted d v = .next t ∧ t.Issuing (i.answered s.nextId d v)
      ∧ (t.quad q).entry en = e := by
  obtain ⟨t, ht, hi, hl⟩ := State.retireLater_leaves (u := (s.counted i).setEntry q en e) h (State.counted_curS s i) d v
  exact ⟨t, ht, State.counted_nextId s i ▸ hi, by rw [hl.quad, State.setEntry_entry]⟩

section
variable {s : State} {i : Inst} {d : GReg} {a : XReg} {x q : Nat} {e : WbEntry} (hx : x = (i.readD a).toNat)
  (hq : q = quadOf s.curP) (he : e = (s.quad q).entry (wEntry x))
include hx hq he

theorem exec_wbpin (h : s.Issues i (.wbpin d a)) (hok : wbEntryOk false i s x = true) :
    (e.st = .empty → exec (.wbpin d a) s = .next (s.answered i d 2))
    ∧ (e.st ≠ .empty → e.pin = 65535 → exec (.wbpin d a) s = .next (s.answered i d 1))
    ∧ (e.st ≠ .empty → e.pin ≠ 65535 → ∃ t, exec (.wbpin d a) s = .next t ∧ t.Issuing (i.answered s.nextId d 0)
      ∧ (t.quad q).entry (wEntry x) = { e with pin := e.pin + 1 }) := by
  subst hx hq he
  rw [show exec (.wbpin d a) s = execWbpin d a s from rfl, execWbpin, State.onDesc_ok h (wbEntryOk_desc false) hok]
  simp only [State.counted_quad, State.counted_curP, State.retireLater_answered]
  refine ⟨fun h1 => by rw [if_pos h1], fun h1 h2 => by rw [if_neg h1, if_pos h2], fun h1 h2 => ?_⟩
  rw [if_neg h1, if_neg h2]
  exact State.setEntry_answers h.1 _ _ _ d 0

theorem exec_wbunpin (h : s.Issues i (.wbunpin d a)) (hok : wbEntryOk false i s x = true) :
    (e.pin = 0 → exec (.wbunpin d a) s = .next (s.answered i d 1))
    ∧ (e.pin ≠ 0 → ∃ t, exec (.wbunpin d a) s = .next t ∧ t.Issuing (i.answered s.nextId d 0)
      ∧ (t.quad q).entry (wEntry x) = { e with pin := e.pin - 1 }) := by
  subst hx hq he
  rw [show exec (.wbunpin d a) s = execWbunpin d a s from rfl, execWbunpin, State.onDesc_ok h (wbEntryOk_desc false) hok]
  simp only [State.counted_quad, State.counted_curP, State.retireLater_answered]
  refine ⟨fun h1 => by rw [if_pos h1], fun h1 => ?_⟩
  rw [if_neg h1]
  exact State.setEntry_answers h.1 _ _ _ d 0

theorem exec_wbevict (h : s.Issues i (.wbevict d a)) (hok : wbEntryOk true i s x = true) :
    (e.st = .empty → exec (.wbevict d a) s = .next (s.answered i d 2))
    ∧ (e.st = .evicting → exec (.wbevict d a) s = .next (s.answered i d 1))
    ∧ (e.st ≠ .empty → e.st ≠ .evicting → e.evict.isSome = true → exec (.wbevict d a) s = .next (s.answered i d 0))
    ∧ ((e.st = .resident ∨ e.st = .loading) → e.evict = none → ∃ t, exec (.wbevict d a) s = .next t
      ∧ t.Issuing (i.answered s.nextId d 0)
      ∧ (t.quad q).entry (wEntry x) = { e with
          st := if e.st = .loading then .loading else .evicting
          evict := some (i.readD a, whoOf i s.curP s.curS) }) := by
  subst hx hq he
  rw [show exec (.wbevict d a) s = execWbevict d a s from rfl, execWbevict, State.onDesc_ok h (wbEntryOk_desc true) hok]
  simp only [State.counted_quad, State.counted_curP, State.counted_curS, State.retireLater_answered, BitVec.ofNat_toNat,
    BitVec.setWidth_eq, whoOf_counted]
  refine ⟨fun h1 => by rw [if_pos h1], fun h1 => by rw [if_neg (by simp [h1]), if_pos h1],
    fun h1 h2 h3 => by rw [if_neg h1, if_neg h2, if_pos h3], fun h1 h2 => ?_⟩
  rw [if_neg (by rcases h1 with h1 | h1 <;> simp [h1]), if_neg (by rcases h1 with h1 | h1 <;> simp [h1]), if_neg (by simp [h2])]
  exact State.setEntry_answers h.1 _ _ _ d 0

section
variable (h : s.Issues i (.wbload d a)) (hok : wbloadOk i s x = true) (hva : s.descAddr i.ctx (bitsOf x 159 104) = .ok ())
  (hsc : 2 ≤ wScale x → s.descAddr i.ctx (bitsOf x 87 32) = .ok ())
include h hok hva hsc

omit he in
/-- A WBLOAD whose checks pass asks the spring for a patterned entry and begins the load of a dense one. -/
theorem exec_wbload_passed : exec (.wbload d a) s =
    (let u := (s.counted i).fresh.2.addOp s.curP (engOp s.nextId i.counted .ar ([.wbuf q], []))
    if wPat x then
      (u.fresh.2.setQuad q { s.quad q with springReqs := (s.quad q).springReqs
          ++ [⟨s.clock, s.curP, whoOf i s.curP s.curS, .wbload (i.readD a) (s.nextId + 1) s.nextId⟩] }).retire
        (i.counted.await (s.nextId + 1) (gDest d) false none)
    else
      (u.beginLoad q (whoOf i s.curP s.curS) s.nextId x (wRows x * wCols x)).2.retireLater i.counted d
        (word64 (u.beginLoad q (whoOf i s.curP s.curS) s.nextId x (wRows x * wCols x)).1)) := by
  subst hx hq
  rw [show exec (.wbload d a) s = execWbload d a s from rfl, execWbload, State.onDesc_ok h wbloadOk_desc hok]
  have hid : (s.counted i).fresh.1 = s.nextId := State.counted_nextId s i
  have hid2 : ∀ o, ((s.counted i).fresh.2.addOp s.curP o).fresh.1 = s.nextId + 1 := fun _ => rfl
  by_cases hs : 2 ≤ wScale (i.readD a).toNat
  · simp only [hs, if_true, Inst.counted_ctx, State.counted_descAddr, hva, hsc hs, BitVec.ofNat_toNat, BitVec.setWidth_eq, hid, hid2,
      State.fresh_curP, State.fresh_curS, State.counted_curP, State.counted_curS, whoOf_counted, State.addOp_curP, State.fresh_quad,
      State.addOp_quad, State.counted_quad, State.fresh_clock, State.addOp_clock, State.counted_clock]
  · simp only [hs, if_false, Inst.counted_ctx, State.counted_descAddr, hva, BitVec.ofNat_toNat, BitVec.setWidth_eq, hid, hid2,
      State.fresh_curP, State.fresh_curS, State.counted_curP, State.counted_curS, whoOf_counted, State.addOp_curP, State.fresh_quad,
      State.addOp_quad, State.counted_quad, State.fresh_clock, State.addOp_clock, State.counted_clock]

theorem exec_wbload_patterned (hp : wPat x = true) : ∃ t, exec (.wbload d a) s = .next t
    ∧ t.Issuing (i.counted.await (s.nextId + 1) (gDest d) false none).advance
    ∧ (t.quad q).springReqs = (s.quad q).springReqs
        ++ [⟨s.clock, s.curP, whoOf i s.curP s.curS, .wbload (i.readD a) (s.nextId + 1) s.nextId⟩] := by
  rw [exec_wbload_passed hx hq h hok hva hsc]
  simp only [hp, if_true]
  exact ⟨_, rfl, Issuing_setCur _ h.1.slot, congrArg Quad.springReqs (State.quad_setQuad_same _ _ _)⟩

/-- A dense load that begins with nothing but its answer leaves its quad's entries. -/
theorem exec_wbload_dense (hp : wPat x = false) (need : Nat)
    (hn : need = ceilDiv (denseBytes (wFmt x) (wRows x * wCols x) + 2 * wScales x) 4096) :
    (e.st ≠ .empty → ∃ t, exec (.wbload d a) s = .next t ∧ t.Issuing (i.answered (s.nextId + 1) d 1)
      ∧ (t.quad q).wbe = (s.quad q).wbe)
    ∧ (e.st = .empty → (s.quad q).freeGranules.length < need → ∃ t, exec (.wbload d a) s = .next t
      ∧ t.Issuing (i.answered (s.nextId + 1) d 2) ∧ (t.quad q).wbe = (s.quad q).wbe)
    ∧ (e.st = .empty → need ≤ (s.quad q).freeGranules.length → ∃ t, exec (.wbload d a) s = .next t
      ∧ t.Issuing (i.answered (s.nextId + 1) d 0)
      ∧ (t.quad q).entry (wEntry x) = ⟨.loading, 0, i.ctx, i.readD a, (s.quad q).freeGranules.take need,
          some (s.nextId, whoOf i s.curP s.curS), none, false, 0⟩) := by
  rw [exec_wbload_passed hx hq h hok hva hsc]
  simp only [hp, Bool.false_eq_true, if_false]
  generalize hu : (s.counted i).fresh.2.addOp s.curP (engOp s.nextId i.counted .ar ([.wbuf q], [])) = u
  have hquad : u.quad q = s.quad q := by rw [← hu]; rfl
  have hid : u.nextId = s.nextId + 1 := by rw [← hu]; rfl
  have hS : u.curS = s.curS := by rw [← hu]; rfl
  rw [State.beginLoad, hquad, ← he, ← hn]
  refine ⟨fun h1 => ?_, fun h1 h2 => ?_, fun h1 h2 => ?_⟩
  · rw [if_pos (by simpa using h1)]
    obtain ⟨t, ht, hi, hl⟩ := State.retireLater_leaves (u := u.completeOp s.nextId) h.1 hS d 1
    exact ⟨t, ht, hid ▸ hi, by rw [hl.quad, State.completeOp_quad, hquad]⟩
  · rw [if_neg (by simpa using h1), if_pos h2]
    obtain ⟨t, ht, hi, hl⟩ := State.retireLater_leaves (u := u.completeOp s.nextId) h.1 hS d 2
    exact ⟨t, ht, hid ▸ hi, by rw [hl.quad, State.completeOp_quad, hquad]⟩
  · rw [if_neg (by simpa using h1), if_neg (by omega)]
    obtain ⟨t, ht, hi, hl⟩ := State.retireLater_leaves (u := u.setEntry q (wEntry x) ⟨.loading, 0, i.ctx, i.readD a,
      (s.quad q).freeGranules.take need, some (s.nextId, whoOf i s.curP s.curS), none, false, 0⟩) h.1 hS d 0
    refine ⟨t, ?_, hid ▸ hi, by rw [hl.quad, State.setEntry_entry]⟩
    rw [← ht, hx, BitVec.ofNat_toNat, BitVec.setWidth_eq]
    rfl

end

end

theorem descRows_onDesc : ∀ r ∈ descRows, DescCheck r.2 ∧ ∃ f : GReg → XReg → Inst → State → Nat → Out1, ∀ s d a,
    exec (r.1 d a) s = s.onDesc (uses (r.1 d a)) a r.2 (f d a) := by
  intro r hr
  simp only [descRows, List.mem_cons, List.not_mem_nil, or_false] at hr
  rcases hr with rfl | rfl | rfl | rfl | rfl | rfl | rfl | rfl | rfl | rfl
  · exact ⟨wbloadOk_desc, _, fun s d a => show execWbload d a s = _ by rw [execWbload]⟩
  · exact ⟨wbEntryOk_desc false, _, fun s d a => show execWbpin d a s = _ from rfl⟩
  · exact ⟨wbEntryOk_desc false, _, fun s d a => show execWbunpin d a s = _ from rfl⟩
  · exact ⟨wbEntryOk_desc true, _, fun s d a => show execWbevict d a s = _ from rfl⟩
  · exact ⟨copyOk_desc true, _, fun s d a => show execCplin d a s = _ from rfl⟩
  · exact ⟨copyOk_desc false, _, fun s d a => show execCp2d d a s = _ from rfl⟩
  · exact ⟨eresumeOk_desc, _, fun s d a => show execEresume d a s = _ from rfl⟩
  · exact ⟨estatOk_desc, _, fun s d a => show execEstat d a s = _ from rfl⟩
  · exact ⟨sploadOk_desc, _, fun s d a => show execSpload d a s = _ from rfl⟩
  · exact ⟨spseedOk_desc, _, fun s d a => show execSpseed d a s = _ from rfl⟩

/-- Settles O39: a bad descriptor stops its word, and the array and weight-buffer words answer as their unit stands. -/
theorem arrayAndWeightWordsComplete : Obligations.ArrayAndWeightWordsComplete := by
  refine ⟨fun r hr => ?_, fun r hr => ?_, fun s i d a x q e hx hq he => ⟨fun h hok hva hsc =>
    ⟨exec_wbload_patterned hx hq he h hok hva hsc, exec_wbload_dense hx hq he h hok hva hsc⟩,
    exec_wbpin hx hq he, exec_wbunpin hx hq he, exec_wbevict hx hq he⟩⟩
  · obtain ⟨hc, f, hf⟩ := descRows_onDesc r hr
    intro s i d a h hbad
    rw [hf]
    exact State.onDesc_bad h hc hbad
  · simp only [opaRows, List.mem_cons, List.not_mem_nil, or_false] at hr
    rcases hr with rfl | rfl | rfl | rfl | rfl <;> intro s i d a x q h hx hq htile hop harr haddr hscale <;>
      exact State.opa_completes h hx hq htile hop harr haddr hscale d

end Sys2Proof.Machine

/-! SETTLED. The spring, copy, resume, status and gather words (08 R171 to R180, 09 R194 to R196). -/

namespace Sys2Proof.Machine

open Sys2Proof

/-! What stands in a core when one of its engines takes a command. -/

theorem State.counted_copyQ (s : State) (i : Inst) (p : Nat) : ((s.counted i).core p).copyQ = (s.core p).copyQ := by
  rw [State.counted_core]; split <;> rfl
theorem State.counted_copyStop (s : State) (i : Inst) (p : Nat) : ((s.counted i).core p).copyStop = (s.core p).copyStop := by
  rw [State.counted_core]; split <;> rfl
theorem State.counted_gathers (s : State) (i : Inst) (p : Nat) : ((s.counted i).core p).gathers = (s.core p).gathers := by
  rw [State.counted_core]; split <;> rfl

theorem State.completeOp_keeps {β : Type} (r : Core → β) (hr : ∀ c l, r { c with ops := l } = r c) (s : State) (o p : Nat) :
    r ((s.completeOp o).core p) = r (s.core p) :=
  Tab.get_map_of (fun k : Core => { k with ops := k.ops.filter (fun x => x.id != o) }) r id (fun k => hr k _) _ rfl s.cores p

section
variable (s : State) (p : Nat) (o : Op)
theorem State.addOp_copyQ : ((s.addOp p o).core p).copyQ = (s.core p).copyQ := by
  rw [State.addOp, State.core_setCore, if_pos rfl]; rfl
theorem State.addOp_gathers : ((s.addOp p o).core p).gathers = (s.core p).gathers := by
  rw [State.addOp, State.core_setCore, if_pos rfl]; rfl
end

/-! The spring's words. -/

theorem bitsOf_lt (x hi lo : Nat) : bitsOf x hi lo < 2 ^ (hi - lo + 1) := Nat.mod_lt _ (Nat.two_pow_pos _)

theorem Ctx.checkAddr_read {c : Ctx} {va n k : Nat} {g : Region} (hva : va < 2 ^ 56) (hr : c.regionOf va n = some (k, g)) :
    c.checkAddr va n false = .ok (k, g) := by
  rw [Ctx.checkAddr, if_neg (by omega), Ctx.checkRegion, hr]
  rfl

section
variable {s : State} {i : Inst} {d : GReg} {a : XReg} {x q va n : Nat} (hx : x = (i.readD a).toNat)
include hx

theorem exec_spload (hva : va = bitsOf x 239 184) (hn : n = 4 * (bitsOf x 247 242 + 1)) (h : s.Issues i (.spload d a))
    (hok : sploadOk i s x = true) (hal : va % 4 = 0) (k : Nat) (g : Region) (hr : (s.ctx i.ctx).regionOf va n = some (k, g)) :
    ∃ t r, exec (.spload d a) s = .next t ∧ s.Sent t i (i.counted.await s.nextId (gDest d) false none).advance r
      ∧ r.op = .read ∧ r.ctx = i.ctx ∧ r.va = va ∧ r.n = n ∧ r.ans = .spload d (i.readD a) := by
  subst hx hn
  have hlt : va < 2 ^ 56 := hva ▸ bitsOf_lt _ 239 184
  obtain ⟨hid, hsent⟩ := State.request_plain h.1 (r := mkReq .read i k g va (4 * (bitsOf (i.readD a).toNat 247 242 + 1)) [] 0
    (.spload d (i.readD a))) rfl g.kind true none [] []
  refine ⟨_, _, ?_, hsent _, rfl, rfl, rfl, rfl, rfl⟩
  rw [show exec (.spload d a) s = execSpload d a s from rfl, execSpload, State.onDesc_ok h sploadOk_desc hok]
  simp only [← hva, hal, ne_eq, not_true_eq_false, if_false, Inst.counted_ctx, State.counted_ctx, Ctx.checkAddr_read hlt hr,
    BitVec.ofNat_toNat, BitVec.setWidth_eq]
  rw [← hid]
  rfl

theorem exec_spload_misaligned (hva : va = bitsOf x 239 184) (h : s.Issues i (.spload d a)) (hok : sploadOk i s x = true)
    (hal : va % 4 ≠ 0) : exec (.spload d a) s = .next (s.faulted i fMisaligned va 0) := by
  subst hx
  rw [show exec (.spload d a) s = execSpload d a s from rfl, execSpload, State.onDesc_ok h sploadOk_desc hok]
  simp only [← hva]
  rw [if_pos hal, State.raise_counted]

theorem exec_spseed (hq : q = quadOf s.curP) (h : s.Issues i (.spseed d a)) (hok : spseedOk i s x = true) :
    ∃ t, exec (.spseed d a) s = .next t ∧ t.Issuing (i.counted.await s.nextId (gDest d) false none).advance ∧ t.mem = s.mem
      ∧ (t.quad q).springReqs = (s.quad q).springReqs
        ++ [⟨s.clock, s.curP, whoOf i s.curP s.curS, .spseed (i.readD a) s.nextId⟩] := by
  subst hx hq
  have hid : (s.counted i).fresh.1 = s.nextId := State.counted_nextId s i
  rw [show exec (.spseed d a) s = execSpseed d a s from rfl, execSpseed, State.onDesc_ok h spseedOk_desc hok]
  simp only [BitVec.ofNat_toNat, BitVec.setWidth_eq, hid, State.fresh_curP, State.fresh_curS, State.counted_curP,
    State.counted_curS, whoOf_counted, State.fresh_quad, State.counted_quad, State.fresh_clock, State.counted_clock]
  refine ⟨_, rfl, Issuing_setCur _ h.1.slot, ?_, congrArg Quad.springReqs (State.quad_setQuad_same _ _ _)⟩
  exact (State.fresh_mem _).trans (State.counted_mem s i)

end

/-! Copy words. -/

section
variable {s : State} {i : Inst} {d : GReg} {a b : XReg} {x : Nat}

/-- A copy command whose checks pass stands last in its engine, or is refused while the engine is stopped. -/
theorem State.copyIssue_passed (h : s.Issuing i) (hx : x = (i.readD a).toNat) (ext : Option (BitVec 256))
    (hlen : streamLen x (extOf (ext.map BitVec.toNat)) ≤ 2 ^ 48) (hsrc : s.descAddr i.ctx (bitsOf x 239 184) = .ok ())
    (hdst : s.descAddr i.ctx (bitsOf x 183 128) = .ok ()) :
    ((s.core s.curP).copyStop = none → ∃ t, (s.counted i).copyIssue i.counted d x (ext.map BitVec.toNat) = .next t
      ∧ t.Issuing (i.answered (s.nextId + 1) d 0) ∧ t.mem = s.mem
      ∧ (t.core s.curP).copyQ = (s.core s.curP).copyQ
        ++ [⟨s.nextId, whoOf i s.curP s.curS, i.readD a, ext, 0, 0, [], none, 0⟩])
    ∧ ((s.core s.curP).copyStop ≠ none →
      (s.counted i).copyIssue i.counted d x (ext.map BitVec.toNat) = .next (s.answered i d 1)) := by
  have hext : (ext.map BitVec.toNat).map (BitVec.ofNat 256) = ext := by cases ext <;> simp
  have hid : (s.counted i).fresh.1 = s.nextId := State.counted_nextId s i
  rw [State.copyIssue, if_neg (by omega)]
  simp only [Inst.counted_ctx, State.counted_descAddr, hsrc, hdst, State.counted_curP, State.counted_copyStop,
    State.retireLater_answered]
  refine ⟨fun hrun => ?_, fun hstop => if_pos (by simpa [Option.isSome_iff_ne_none] using hstop)⟩
  simp only [hrun, Option.isSome_none, Bool.false_eq_true, if_false, hext, hid, State.fresh_curP, State.fresh_curS,
    State.counted_curP, State.counted_curS, whoOf_counted]
  generalize hu : (State.setCore _ _ _ : State) = u
  obtain ⟨t, ht, hi, hl⟩ := State.retireLater_leaves (u := u.addOp s.curP (engOp s.nextId i.counted .cp
    (u.memsOf (dieOf s.curP) i.ctx true ((streamParts x (extOf (ext.map BitVec.toNat)) (streamLen x (extOf (ext.map BitVec.toNat)))
      (cRows x * (extOf (ext.map BitVec.toNat)).n2 * (extOf (ext.map BitVec.toNat)).n3) 0).map (fun r => (r.2.1, r.2.2))))))
    h (by rw [← hu]; rfl) d 0
  refine ⟨t, ?_, ?_, ?_, ?_⟩
  · rw [← ht, ← hu]; rfl
  · have : u.nextId = s.nextId + 1 := by rw [← hu]; rfl
    rw [← this]; exact hi
  · rw [hl.mem, State.addOp_mem, ← hu]; exact (State.fresh_mem _).trans (State.counted_mem s i)
  · rw [hl.copyQ, State.addOp_copyQ, ← hu, State.core_setCore, if_pos rfl]
    simp only [State.fresh_core, State.counted_copyQ, hx, BitVec.ofNat_toNat, BitVec.setWidth_eq]

omit x in
theorem exec_cplin_passed (h : s.Issues i (.cplin d a)) (hok : copyOk true i s (i.readD a).toNat = true) :
    exec (.cplin d a) s = (s.counted i).copyIssue i.counted d (i.readD a).toNat none := by
  rw [show exec (.cplin d a) s = execCplin d a s from rfl, execCplin, State.onDesc_ok h (copyOk_desc true) hok]

omit x in
theorem exec_cp2d_passed (h : s.Issues i (.cp2d d a)) (hok : copyOk false i s (i.readD a).toNat = true) :
    exec (.cp2d d a) s = (s.counted i).copyIssue i.counted d (i.readD a).toNat none := by
  rw [show exec (.cp2d d a) s = execCp2d d a s from rfl, execCp2d, State.onDesc_ok h (copyOk_desc false) hok]

omit x in
theorem exec_cpten_passed (h : s.Issues i (.cpten d a b)) (hok : copyOk false i s (i.readD a).toNat = true)
    (hext : extOk (i.readD b).toNat = true) :
    exec (.cpten d a b) s = (s.counted i).copyIssue i.counted d (i.readD a).toNat (some (i.readD b).toNat) := by
  rw [show exec (.cpten d a b) s = execCpten d a b s from rfl, execCpten, State.onDesc_ok h (copyOk_desc false) hok]
  simp only [Inst.counted_readD, hext, if_true]

/-! Engine control. -/

theorem exec_eresume (hx : x = (i.readD a).toNat) (h : s.Issues i (.eresume d a)) (hok : eresumeOk i s x = true) :
    ((s.core s.curP).copyStop = none → exec (.eresume d a) s = .next (s.answered i d 1))
    ∧ ∀ c, (s.core s.curP).copyStop = some c → ∃ t, exec (.eresume d a) s = .next t ∧ t.Issuing (i.answered s.nextId d 0)
      ∧ t.mem = s.mem ∧ (t.core s.curP).copyStop = none
      ∧ (t.core s.curP).copyQ = if bitsOf x 16 16 = 1 then (s.core s.curP).copyQ else c :: (s.core s.curP).copyQ := by
  subst hx
  rw [show exec (.eresume d a) s = execEresume d a s from rfl, execEresume, State.onDesc_ok h eresumeOk_desc hok]
  simp only [State.counted_curP, State.counted_copyStop]
  refine ⟨fun hn => by rw [hn]; exact State.retireLater_answered s i d 1, fun c hc => ?_⟩
  simp only [hc]
  by_cases hab : bitsOf (i.readD a).toNat 16 16 = 1
  · rw [if_pos hab, if_pos hab]
    generalize hu : State.setCore _ _ _ = u
    obtain ⟨t, ht, hi, hl⟩ := State.retireLater_leaves (u := u.completeOp c.id) h.1 (by rw [← hu]; rfl) d 0
    have hid : u.nextId = s.nextId := by rw [← hu]; rfl
    refine ⟨t, ht, hid ▸ hi, ?_, ?_, ?_⟩
    · rw [hl.mem, State.completeOp_mem, ← hu]; exact State.counted_mem s i
    · rw [hl.copyStop, State.completeOp_keeps Core.copyStop (fun _ _ => rfl), ← hu, State.core_setCore, if_pos rfl]
    · rw [hl.copyQ, State.completeOp_keeps Core.copyQ (fun _ _ => rfl), ← hu, State.core_setCore, if_pos rfl]
      exact State.counted_copyQ s i _
  · rw [if_neg hab, if_neg hab]
    generalize hu : State.setCore _ _ _ = u
    obtain ⟨t, ht, hi, hl⟩ := State.retireLater_leaves (u := u) h.1 (by rw [← hu]; rfl) d 0
    have hid : u.nextId = s.nextId := by rw [← hu]; rfl
    refine ⟨t, ht, hid ▸ hi, ?_, ?_, ?_⟩
    · rw [hl.mem, ← hu]; exact State.counted_mem s i
    · rw [hl.copyStop, ← hu, State.core_setCore, if_pos rfl]
    · rw [hl.copyQ, ← hu, State.core_setCore, if_pos rfl]
      exact congrArg _ (State.counted_copyQ s i _)

theorem State.estatWord_counted (s : State) (i : Inst) (p x : Nat) : (s.counted i).estatWord p x = s.estatWord p x := by
  simp only [State.estatWord, State.counted_copyStop, State.counted_copyQ, State.counted_gathers, State.counted_quad]

theorem exec_estat (hx : x = (i.readD a).toNat) (h : s.Issues i (.estat d a)) (hok : estatOk i s x = true) :
    exec (.estat d a) s = .next (s.answered i d (word64 (s.estatWord s.curP x))) := by
  subst hx
  rw [show exec (.estat d a) s = execEstat d a s from rfl, execEstat, State.onDesc_ok h estatOk_desc hok]
  simp only [State.counted_curP, State.estatWord_counted, State.retireLater_answered]

/-- What ESTAT reads, unit by unit (Table 08-10). -/
theorem State.estatWord_units (s : State) (p x : Nat) :
    (bitsOf x 3 0 = 0 → (s.core p).copyStop = none → s.estatWord p x = (s.core p).copyQ.length * 2 ^ 61)
    ∧ (bitsOf x 3 0 = 0 → ∀ c, (s.core p).copyStop = some c →
      s.estatWord p x = 2 ^ 63 + (s.core p).copyQ.length * 2 ^ 61 + 4096 * c.chunk)
    ∧ (bitsOf x 3 0 = 1 → s.estatWord p x = (s.core p).gathers.length * 2 ^ 61
      + ((s.core p).gathers.map (fun g => g.next - g.done)).sum % 2 ^ 32)
    ∧ (bitsOf x 3 0 = 2 → s.estatWord p x = (s.quad (quadOf p)).pendingOf p * 2 ^ 61
        + (s.quad (quadOf p)).next0 * 256 + (s.quad (quadOf p)).next1)
    ∧ (bitsOf x 3 0 = 3 → ∀ e, e = (s.quad (quadOf p)).entry (bitsOf x 13 8) →
      s.estatWord p x = wbStateNum e.st * 2 ^ 62 + e.pin * 2 ^ 32 + e.gran.length) := by
  refine ⟨fun h hn => ?_, fun h c hc => ?_, fun h => ?_, fun h => ?_, fun h e he => ?_⟩ <;> rw [State.estatWord] <;> simp only [h]
  · rw [hn]
  · rw [hc]
  · rfl
  · rw [he]

/-! Gather words. -/

theorem gatherOk_desc (sc : Bool) : DescCheck (gatherOk sc) := fun _ _ _ => by
  simp only [gatherOk, Inst.counted_ctx, Inst.counted_lcore, State.counted_lc, State.counted_ctx, State.counted_curP]

theorem State.gatherIssue_completes {y : Instr} {sh : Nat} {sc : Bool} (h : s.Issues i y) (hx : x = (i.readD a).toNat)
    (hsh : sh = (i.readD b).toNat) (hok : gatherOk sc i s x = true) :
    (shapeOk x sh = true → s.descAddr i.ctx (shBase sh) = .ok () → (s.core s.curP).gathers.length < 4 →
      ∃ t, s.gatherIssue (uses y) sc d a b = .next t ∧ t.Issuing (i.answered (s.nextId + 1) d 0) ∧ t.mem = s.mem
        ∧ (t.core s.curP).gathers = (s.core s.curP).gathers ++ [⟨s.nextId, whoOf i s.curP s.curS, sc, i.readD a,
            i.readD b, !gServed x, 0, {}, gCount x, 0, false, []⟩])
    ∧ (shapeOk x sh = true → s.descAddr i.ctx (shBase sh) = .ok () → 4 ≤ (s.core s.curP).gathers.length →
      s.gatherIssue (uses y) sc d a b = .next (s.answered i d 1))
    ∧ (shapeOk x sh = false →
      s.gatherIssue (uses y) sc d a b = .next (s.faulted i fOperand 0 (sh / 2 ^ 192 % 2 ^ 64))) := by
  subst hx hsh
  have hid : (s.counted i).fresh.1 = s.nextId := State.counted_nextId s i
  rw [State.gatherIssue, State.onDesc_ok h (gatherOk_desc sc) hok]
  simp only [Inst.counted_readD, Inst.counted_ctx, State.counted_descAddr, State.counted_curP, State.counted_gathers,
    State.retireLater_answered, State.raise_counted]
  refine ⟨fun hs hb hroom => ?_, fun hs hb hfull => ?_, fun hs => ?_⟩
  · simp only [hs, hb, Bool.not_true, Bool.false_eq_true, if_false, if_neg (Nat.not_le.2 hroom), hid, State.fresh_curP,
      State.fresh_curS, State.counted_curP, State.counted_curS, whoOf_counted, BitVec.ofNat_toNat, BitVec.setWidth_eq,
      State.fresh_core, State.counted_gathers]
    generalize hu : State.setCore _ _ _ = u
    generalize hv : (if gServed _ then State.setQuad u _ _ else u) = v
    have hcore : ∀ p, v.core p = u.core p := fun p => by rw [← hv]; split <;> rfl
    obtain ⟨t, ht, hi, hl⟩ := State.retireLater_leaves (u := v.addOp v.curP { engOp s.nextId i.counted .gs
      (v.elemMems i.ctx v.curP sc (i.readD a).toNat (i.readD b).toNat) with unserved := gServed (i.readD a).toNat }) h.1
      (by rw [State.addOp_curS, ← hv]; split <;> (rw [← hu]; rfl)) d 0
    have hnid : v.nextId = s.nextId + 1 := by rw [← hv]; split <;> (rw [← hu]; rfl)
    have hP : v.curP = s.curP := by rw [← hv]; split <;> (rw [← hu]; rfl)
    have hmem : v.mem = s.mem := by
      rw [← hv]; split <;> (rw [← hu]; exact (State.fresh_mem _).trans (State.counted_mem s i))
    refine ⟨t, ht, hnid ▸ hi, hl.mem.trans hmem, ?_⟩
    rw [hl.gathers, hP, State.addOp_gathers, hcore, ← hu, State.core_setCore, if_pos rfl]
  · simp only [hs, hb, Bool.not_true, Bool.false_eq_true, if_false, if_pos hfull]
  · simp only [hs, Bool.not_false, if_true, word3]

end

/-- Settles O40: a word of the spring, the copy engine or the gather unit whose checks pass stands in its unit, or is answered. -/
theorem springCopyAndGatherWordsComplete : Obligations.SpringCopyAndGatherWordsComplete := by
  refine ⟨fun s i d a x q va n hx hq hva hn => ⟨exec_spload hx hva hn, exec_spload_misaligned hx hva, exec_spseed hx hq⟩,
    fun s i d a b x y k hx hy hk => ⟨fun w ext hw h hlen hsrc hdst => ?_, fun h hok => ?_, fun h hok => ?_⟩,
    fun s i d a b x sh sc w hx hsh hw h hok => ?_⟩
  · have hexec : exec w s = (s.counted i).copyIssue i.counted d x (ext.map BitVec.toNat) := by
      subst hx hy
      rcases hw with ⟨rfl, rfl, hok⟩ | ⟨rfl, rfl, hok⟩ | ⟨rfl, rfl, hok, hext⟩
      · exact exec_cplin_passed h hok
      · exact exec_cp2d_passed h hok
      · exact exec_cpten_passed h hok hext
    rw [hexec, hk]
    exact State.copyIssue_passed h.1 hx ext hlen hsrc hdst
  · rw [hk]
    exact exec_eresume hx h hok
  · rw [hk]
    exact ⟨_, exec_estat hx h hok, State.estatWord_units s s.curP x⟩
  · cases sc
    · subst hw
      exact State.gatherIssue_completes h hx hsh hok
    · subst hw
      exact State.gatherIssue_completes h hx hsh hok

end Sys2Proof.Machine

/-! SUPPORT. What leaves memory as it stands: records, messages, answers and the bookkeeping of units. -/

namespace Sys2Proof.Machine

open Sys2Proof

@[simp] theorem State.forwardCtx_mem (s : State) (die c : Nat) : (s.forwardCtx die c).mem = s.mem := rfl
@[simp] theorem State.forwardAll_mem (s : State) (c : Nat) : (s.forwardAll c).mem = s.mem :=
    State.foldl_mem _ (fun s d => State.forwardCtx_mem s d c) _ _
@[simp] theorem State.answerPeer_mem (s : State) (f : Flight) (who : Who) (body : Body) (src : Nat × Nat) (unit :
    Option Nat) : (s.answerPeer f who body src unit).mem = s.mem :=
    rfl
@[simp] theorem State.gleanEnd_mem (s : State) (p : Nat) (i : Inst) : (s.gleanEnd p i).mem = s.mem := rfl
@[simp] theorem State.fatal_mem (s : State) (src : Source) (c code : Nat) (r : RecInfo) :
    (s.fatal src c code r).mem = s.mem :=
    by
  unfold State.fatal
  dsimp only
  (repeat' split) <;> simp
@[simp] theorem State.unmasked_mem (s : State) : (s.unmasked).mem = s.mem := by
  unfold State.unmasked
  exact State.foldl_mem _ (fun s v => by split <;> rfl) _ _
@[simp] theorem State.setSlice_mem (s : State) (die k : Nat) (x : Slice) : (s.setSlice die k x).mem = s.mem := rfl
@[simp] theorem State.wakeWords_mem (s : State) (pa n : Nat) : (s.wakeWords pa n).mem = s.mem := rfl
@[simp] theorem State.setHealth_mem (s : State) (h : Health) : (s.setHealth h).mem = s.mem := by
  unfold State.setHealth
  split <;> simp
@[simp] theorem State.setReplace_mem (s : State) (bit : Nat) : (s.setReplace bit).mem = s.mem :=
    by simp [State.setReplace]
@[simp] theorem State.holeCount_mem (s : State) : (s.holeCount).mem = s.mem := by
  unfold State.holeCount
  dsimp only
  (repeat' split) <;> simp
@[simp] theorem State.noteErr_mem (s : State) (kind k : Nat) : (s.noteErr kind k).mem = s.mem := rfl
@[simp] theorem State.softError_mem (s : State) (die st : Nat) (uncorr : Bool) :
    (s.softError die st uncorr).mem = s.mem :=
    by
  unfold State.softError
  dsimp only
  (repeat' split) <;> simp
@[simp] theorem State.fillPend_mem (s : State) (p sl iid pendId : Nat) (v : Word) :
    (s.fillPend p sl iid pendId v).mem = s.mem :=
    by
  unfold State.fillPend
  (repeat' split) <;> rfl
@[simp] theorem State.request_mem (s : State) (i : Inst) (r : MemReq) (kind : Nat) (rd : Bool) (rel :
    Option Scope) (waits : List (Nat × Nat × Nat)) (extra : List MemName) : (s.request i r kind rd rel waits extra).2.mem = s.mem :=
    by
  unfold State.request
  dsimp only
  (repeat' split) <;> simp
@[simp] theorem State.sendFrame_mem (s : State) (port : Nat) (u : Option PeerUnit) (what : Out) :
    (s.sendFrame port u what).mem = s.mem :=
    rfl
theorem barnTry_mem (x : State × List BarnOut × List Nat) (b : BarnOut) : (barnTry x b).1.mem = x.1.mem := by
  unfold barnTry
  dsimp only
  split
  · rfl
  · split <;> simp
theorem foldl_barnTry_mem (l : List BarnOut) (x : State × List BarnOut × List Nat) :
    (l.foldl barnTry x).1.mem = x.1.mem := by
  induction l generalizing x with
  | nil => rfl
  | cons b l ih => rw [List.foldl_cons, ih, barnTry_mem]
@[simp] theorem State.barnFlush_mem (s : State) : (s.barnFlush).mem = s.mem := foldl_barnTry_mem s.hub.barnQ (s, [], [])
@[simp] theorem State.barnSend_mem (s : State) (chip : Nat) (u : PeerUnit) : (s.barnSend chip u).mem = s.mem :=
    by simp [State.barnSend]
@[simp] theorem State.siloFault_mem (s : State) (c block : Nat) : (s.siloFault c block).mem = s.mem :=
    by simp [State.siloFault]
@[simp] theorem State.fillId_mem (s : State) (pid : Nat) (v : Word) : (s.fillId pid v).mem = s.mem := by
  unfold State.fillId
  split <;> rfl
@[simp] theorem State.dropCont_mem (s : State) (c lc rec : Nat) : (s.dropCont c lc rec).mem = s.mem := rfl
@[simp] theorem State.raiseLate_mem (s : State) (w : Who) (code addr det : Nat) :
    (s.raiseLate w code addr det).mem = s.mem :=
    by
  unfold State.raiseLate
  split
  · simp
  · split
    · simp
    · split
      · split
        · simp [State.foldl_mem]
        · simp
      · simp
@[simp] theorem State.siloOverflow_mem (s : State) (c lc det tag : Nat) (again : Bool) :
    (s.siloOverflow c lc det tag again).mem = s.mem :=
    by
  unfold State.siloOverflow
  dsimp only
  (repeat' split) <;> simp
@[simp] theorem State.handOver_mem (s : State) (c lc rec : Nat) (v : Word) (cur : Option (XReg × Nat)) (why :
    Cause) : (s.handOver c lc rec v cur why).mem = s.mem :=
    by
  unfold State.handOver
  dsimp only
  (repeat' split) <;> simp
@[simp] theorem State.make_mem (s : State) (p cls c : Nat) (what : MadeWhat) : (s.make p cls c what).mem = s.mem := rfl
@[simp] theorem State.note_mem (s : State) (cls : Nat) (w : Who) (n : Option Nat) : (s.note cls w n).mem = s.mem := by
  unfold State.note
  split <;> rfl
@[simp] theorem State.nextSeq_mem (s : State) (p c chip core : Nat) : (s.nextSeq p c chip core).2.mem = s.mem := rfl
@[simp] theorem State.sendMsg_mem (s : State) (i : Inst) (m : Msg) (t : Track) (norel : Bool) (waits :
    List Nat × List Nat) : (s.sendMsg i m t norel waits).mem = s.mem :=
    by
  unfold State.sendMsg
  split <;> simp
@[simp] theorem State.sideBand_mem (s : State) (i : Inst) (m : Msg) (ctl : Nat) : (s.sideBand i m ctl).2.mem = s.mem :=
    by
  unfold State.sideBand
  split <;> rfl
@[simp] theorem State.setGroup_mem (s : State) (c lc n : Nat) (t : TagGroup) : (s.setGroup c lc n t).mem = s.mem := rfl
@[simp] theorem State.ringAsk_mem (s : State) (i : Inst) (k : Nat) (r : Region) (q : Word) (req : RingReq) :
    (s.ringAsk i k r q req).2.mem = s.mem :=
    by simp [State.ringAsk]
@[simp] theorem State.sendBarn_mem (s : State) (e : BarnEntry) : (s.sendBarn e).mem = s.mem := by
  unfold State.sendBarn
  split <;> simp
@[simp] theorem State.append_mem (s : State) (e : BarnEntry) : (s.append e).mem = s.mem := by simp [State.append]
@[simp] theorem State.closeSeq_mem (s : State) (c : Nat) (q : BitVec 32) : (s.closeSeq c q).mem = s.mem :=
    by simp [State.closeSeq]
@[simp] theorem State.hubAsk_mem (s : State) (i : Inst) (j : JReq) : (s.hubAsk i j).2.mem = s.mem := rfl
@[simp] theorem State.jrecApply_mem (s : State) (c : Nat) (pa : Nat) (bs : List Byte) (dg : BitVec 32) :
    (s.jrecApply c pa bs dg).2.mem = s.mem :=
    by
  unfold State.jrecApply
  dsimp only
  (repeat' split) <;> simp
@[simp] theorem State.truncate_mem (s : State) (c : Nat) (q m : BitVec 32) : (s.truncate c q m).2.mem = s.mem :=
    by simp [State.truncate]
@[simp] theorem State.jckptApply_mem (s : State) (c : Nat) (w loc : Word) : (s.jckptApply c w loc).2.mem = s.mem := by
  unfold State.jckptApply
  dsimp only
  (repeat' split) <;> simp
@[simp] theorem State.jtruncApply_mem (s : State) (c : Nat) (q : BitVec 32) : (s.jtruncApply c q).2.mem = s.mem := by
  unfold State.jtruncApply
  split <;> simp
@[simp] theorem State.jcloseApply_mem (s : State) (c : Nat) (q : BitVec 32) : (s.jcloseApply c q).2.mem = s.mem := by
  unfold State.jcloseApply
  split <;> simp
@[simp] theorem State.hubAnswers_mem (s : State) (f : Flight) (a : HubAns) : (s.hubAnswers f a).mem = s.mem := rfl
@[simp] theorem State.emission_mem (s : State) (i : Inst) (stepw route token : Word) :
    (s.emission i stepw route token).mem = s.mem :=
    by simp [State.emission]
@[simp] theorem State.openGates_mem (s : State) : (s.openGates).mem = s.mem := by
  unfold State.openGates
  exact State.foldl_mem _ (fun s a => by simp) _ _
@[simp] theorem State.barnAcked_mem (s : State) (holder : Option Nat) (c : Nat) (seq step : BitVec 32) (marker :
    Bool) : (s.barnAcked holder c seq step marker).mem = s.mem :=
    by
  unfold State.barnAcked
  dsimp only
  (repeat' split) <;> simp
@[simp] theorem State.barnConfirm_mem (s : State) (es : List BarnEntry) (e : BarnEntry) :
    (s.barnConfirm es e).mem = s.mem :=
    by
  unfold State.barnConfirm
  dsimp only
  (repeat' split) <;> simp
@[simp] theorem State.barnTake_mem (s : State) (slot : Nat) (e : BarnEntry) : (s.barnTake slot e).mem = s.mem := by
  unfold State.barnTake
  dsimp only
  split
  · rfl
  · split
    · rfl
    · exact State.foldl_mem _ (fun s x => State.barnConfirm_mem s _ x) _ _
@[simp] theorem State.barnAnswer_mem (s : State) (reader client : Nat) : (s.barnAnswer reader client).mem = s.mem := by
  unfold State.barnAnswer
  split
  · simp [State.foldl_mem]
  · simp
@[simp] theorem State.hostAnswer_mem (s : State) (body : Body) : (s.hostAnswer body).mem = s.mem := by
  unfold State.hostAnswer
  (repeat' split) <;> simp
@[simp] theorem State.reply_mem (s : State) (f : Flight) (src : Nat × Nat) (body : Body) (ans : Answer) (unit :
    Option Nat) (vc : Bool) : (s.reply f src body ans unit vc).mem = s.mem :=
    by
  unfold State.reply
  split <;> simp
@[simp] theorem State.memReply_mem (s : State) (f : Flight) (r : MemReq) (src : Nat × Nat) (mst : Nat) (data :
    List Byte) : (s.memReply f r src mst data).mem = s.mem :=
    by simp [State.memReply]
@[simp] theorem State.passOn_mem (s : State) (f : Flight) (r : MemReq) (src : Nat × Nat) (pa : Nat) :
    (s.passOn f r src pa).mem = s.mem :=
    rfl
@[simp] theorem State.applyWatch_mem (s : State) (f : Flight) (r : MemReq) (pa : Nat) :
    (s.applyWatch f r pa).mem = s.mem :=
    by
  unfold State.applyWatch
  split <;> rfl
@[simp] theorem State.applyUnwatch_mem (s : State) (f : Flight) (r : MemReq) (pa : Nat) :
    (s.applyUnwatch f r pa).2.mem = s.mem :=
    by
  unfold State.applyUnwatch
  split <;> rfl
@[simp] theorem State.poisonBack_mem (s : State) (f : Flight) (r : MemReq) (src : Nat × Nat) (block pa : Nat) :
    (s.poisonBack f r src block pa).mem = s.mem :=
    by simp [State.poisonBack]
@[simp] theorem State.pageRecord_mem (s : State) (die k : Nat) (c word : Nat) (fromFault : Bool) (info : RecInfo) :
    (s.pageRecord die k c word fromFault info).mem = s.mem :=
    by
  unfold State.pageRecord
  dsimp only
  (repeat' split) <;> simp
@[simp] theorem State.freeWord_mem (s : State) : (s.freeWord).2.mem = s.mem := rfl
@[simp] theorem State.ringWake_mem (s : State) (c : Nat) (src : Nat × Nat) (w : Waiter) (gd : Word) (cur : Nat) :
    (s.ringWake c src w gd cur).mem = s.mem :=
    by
  unfold State.ringWake
  dsimp only
  (repeat' split) <;> simp
@[simp] theorem State.toSlice_mem (s : State) (f : Flight) (r : MemReq) (va ri : Nat) (src : Nat × Nat) (inp : Nat) :
    (s.toSlice f r va ri src inp).mem = s.mem :=
    rfl
@[simp] theorem State.ringToSlice_mem (s : State) (f : Flight) (r : MemReq) (pa va ri : Nat) :
    (s.ringToSlice f r pa va ri).mem = s.mem :=
    rfl
@[simp] theorem State.fill_mem (s : State) (pid : Nat) (x : Nat) : (s.fill pid x).mem = s.mem := by
  unfold State.fill
  split <;> rfl
@[simp] theorem State.unwait_mem (s : State) (pid : Nat) : (s.unwait pid).mem = s.mem := rfl
@[simp] theorem State.applyAck_mem (s : State) (f : Flight) (note : Option Nat) : (s.applyAck f note).mem = s.mem :=
    by simp [State.applyAck]
@[simp] theorem State.gotPiece_mem (s : State) (cmd n mst : Nat) (data : List Byte) :
    (s.gotPiece cmd n mst data).mem = s.mem :=
    rfl
@[simp] theorem State.sourceOver_mem (s : State) (f : Flight) : (s.sourceOver f).mem = s.mem := by
  unfold State.sourceOver
  (repeat' split) <;> rfl
@[simp] theorem State.discardHeld_mem (s : State) (iid : Nat) : (s.discardHeld iid).mem = s.mem := by
  unfold State.discardHeld
  exact State.foldl_mem _ (fun s a => by simp) _ _
@[simp] theorem State.applyError_mem (s : State) (f : Flight) (code addr det : Nat) :
    (s.applyError f code addr det).mem = s.mem :=
    by
  unfold State.applyError
  dsimp only
  (repeat' split) <;> simp
@[simp] theorem State.applyFlitError_mem (s : State) (f : Flight) (addr det : Nat) :
    (s.applyFlitError f addr det).mem = s.mem :=
    by
  unfold State.applyFlitError
  dsimp only
  (repeat' split) <;> simp
@[simp] theorem State.dropMon_mem (s : State) (mid : Nat) : (s.dropMon mid).mem = s.mem := rfl
@[simp] theorem State.beginWalk_mem (s : State) (die k : Nat) (f : Flight) (r : MemReq) :
    (s.beginWalk die k f r).mem = s.mem :=
    by
  unfold State.beginWalk
  (repeat' split) <;> rfl
@[simp] theorem State.sendOn_mem (s : State) (die k : Nat) (f : Flight) (r : MemReq) :
    (s.sendOn die k f r).mem = s.mem :=
    rfl
theorem State.pageBack_mem (s : State) (die k : Nat) (f : Flight) (r : MemReq) (a : Trans) (va : Nat) {t : State}
    (h : s.pageBack die k f r a va = some t) : t.mem = s.mem := by
  unfold State.pageBack at h
  split at h <;> cases h <;> simp
@[simp] theorem State.forward_mem (s : State) (die k : Nat) (f : Flight) (r : MemReq) :
    (s.forward die k f r).mem = s.mem :=
    by
  unfold State.forward
  dsimp only
  split
  · next h => exact State.pageBack_mem _ _ _ _ _ _ _ h
  · split
    · next h =>
      obtain ⟨e, -, he⟩ := Option.bind_eq_some_iff.1 h
      exact State.pageBack_mem _ _ _ _ _ _ _ he
    · split <;> simp
@[simp] theorem State.holdOn_mem (s : State) (die k : Nat) (f : Flight) (r : MemReq) (word level : Nat) :
    (s.holdOn die k f r word level).mem = s.mem :=
    by
  unfold State.holdOn
  dsimp only
  (repeat' split) <;> simp
@[simp] theorem State.useLane_mem (s : State) (f : Flight) (x y : Nat) (out : Bool × Bool) :
    (s.useLane f x y out).mem = s.mem :=
    rfl
@[simp] theorem State.cross_mem (s : State) (f : Flight) (x y : Nat) (out : Bool × Bool) (esc : Bool) :
    (s.cross f x y out esc).mem = s.mem :=
    by
  unfold State.cross
  dsimp only
  (repeat' split) <;> simp
@[simp] theorem State.sendUnit_mem (s : State) (port : Nat) (f : Flight) (eidx : Nat) :
    (s.sendUnit port f eidx).mem = s.mem :=
    by
  unfold State.sendUnit
  split <;> rfl
@[simp] theorem State.synthLost_mem (s : State) (f : Flight) (src : Nat × Nat) : (s.synthLost f src).mem = s.mem := by
  unfold State.synthLost
  (repeat' split) <;> simp
@[simp] theorem State.fatalAll_mem (s : State) (code det : Nat) : (s.fatalAll code det).mem = s.mem := by
  unfold State.fatalAll
  exact State.foldl_mem _ (fun s c => by split <;> simp) _ _
@[simp] theorem State.retireEntry_mem (s : State) (eidx : Nat) : (s.retireEntry eidx).2.mem = s.mem := by
  unfold State.retireEntry
  dsimp only
  (repeat' split) <;> simp
@[simp] theorem State.sweepLost_mem (s : State) : (s.sweepLost).mem = s.mem := by
  unfold State.sweepLost
  exact State.foldl_mem _ (fun s f => by split <;> simp) _ _
@[simp] theorem State.enter_mem (s : State) (src : Nat × Nat) (home : Option (Nat × Nat × Nat)) (cls : Bool) (who :
    Who) (opId : Nat) (vn1 : Bool) (body : Body) (goal : Goal) (dst : Nat × Nat) : (s.enter src home cls who opId vn1 body goal dst).mem = s.mem :=
    rfl
@[simp] theorem State.ingress_mem (s : State) (port : Nat) (home : Nat × Nat × Nat) (cls : Bool) (u : PeerUnit) :
    (s.ingress port home cls u).mem = s.mem :=
    by
  have hretire : ∀ {e : Nat} {x : Option Flight} {t : State}, s.retireEntry e = (x, t) → t.mem = s.mem :=
    fun h => by rw [← State.retireEntry_mem s, h]
  unfold State.ingress
  cases u
  case memReply => dsimp only; (repeat' split) <;> simp [hretire ‹_›]
  case ack => dsimp only; (repeat' split) <;> simp [hretire ‹_›]
  case ringRep => dsimp only; (repeat' split) <;> simp [hretire ‹_›]
  all_goals (dsimp only <;> (repeat' split) <;> simp)
@[simp] theorem State.resend_mem (s : State) (port fseq : Nat) : (s.resend port fseq).mem = s.mem := by
  unfold State.resend
  exact State.foldl_mem _ (fun s a => by simp) _ _
@[simp] theorem State.arriveUnit_mem (s : State) (port : Nat) (u : PeerUnit) : (s.arriveUnit port u).mem = s.mem := by
  unfold State.arriveUnit
  (repeat' split) <;> simp
@[simp] theorem State.takeDown_mem (s : State) (port : Nat) : (s.takeDown port).mem = s.mem := by
  unfold State.takeDown
  split <;> simp
@[simp] theorem State.setPslot_mem (s : State) (c q ps : Nat) (x : PSlot) : (s.setPslot c q ps x).mem = s.mem := rfl
@[simp] theorem State.checkSlot_mem (s : State) (c q ps : Nat) : (s.checkSlot c q ps).1.mem = s.mem := by
  unfold State.checkSlot
  dsimp only
  (repeat' split) <;> simp
@[simp] theorem State.askPiece_mem (s : State) (w : Who) (op : MemOp) (rank pa va n : Nat) (data :
    List Byte) (cmd k : Nat) : (s.askPiece w op rank pa va n data cmd k).mem = s.mem :=
    rfl
@[simp] theorem State.clearFetches_mem (s : State) (cmd : Nat) : (s.clearFetches cmd).mem = s.mem := rfl
@[simp] theorem State.setEntry_mem (s : State) (q e : Nat) (x : WbEntry) : (s.setEntry q e x).mem = s.mem := rfl
@[simp] theorem State.beginLoad_mem (s : State) (q : Nat) (w : Who) (cmd x n : Nat) :
    (s.beginLoad q w cmd x n).2.mem = s.mem :=
    by
  unfold State.beginLoad
  dsimp only
  (repeat' split) <;> simp
@[simp] theorem State.stopLoad_mem (s : State) (q en cmd : Nat) (w : Who) (x code addr det : Nat) :
    (s.stopLoad q en cmd w x code addr det).mem = s.mem :=
    by simp [State.stopLoad]
@[simp] theorem State.serveLoad_mem (s : State) (c q : Nat) (x : Nat) (bs : List Byte) :
    (s.serveLoad c q x bs).2.mem = s.mem :=
    by
  unfold State.serveLoad
  dsimp only
  (repeat' split) <;> simp
@[simp] theorem State.corruptRec_mem (s : State) (w : Who) (q ps unit wbe : Nat) :
    (s.corruptRec w q ps unit wbe).mem = s.mem :=
    by simp [State.corruptRec]
@[simp] theorem State.springFails_mem (s : State) (q : Nat) : (s.springFails q).2.mem = s.mem := by
  unfold State.springFails
  dsimp only
  (repeat' split) <;> simp
@[simp] theorem State.serve_mem (s : State) (q : Nat) (r : SpringReq) : (s.serve q r).mem = s.mem := by
  unfold State.serve
  dsimp only
  (repeat' split) <;> simp
@[simp] theorem State.acceptTile_mem (s : State) (q : Nat) (c : ACmd) : (s.acceptTile q c).mem = s.mem := rfl
@[simp] theorem State.checkTile_mem (s : State) (c q : Nat) (e : WbEntry) (x : Nat) :
    (s.checkTile c q e x).2.mem = s.mem :=
    by
  unfold State.checkTile
  dsimp only
  (repeat' split) <;> simp
@[simp] theorem State.setRun_mem (s : State) (q : Nat) (r : ARun) : (s.setRun q r).mem = s.mem := rfl
@[simp] theorem State.tileRecord_mem (s : State) (q : Nat) (c : ACmd) (code addr det prog psl : Nat) :
    (s.tileRecord q c code addr det prog psl).mem = s.mem :=
    by simp [State.tileRecord]
@[simp] theorem State.finishTile_mem (s : State) (q : Nat) (r : ARun) (flt : Bool) (flags : Flags) (nf kp : Nat) :
    (s.finishTile q r flt flags nf kp).mem = s.mem :=
    by
  unfold State.finishTile
  dsimp only
  (repeat' split) <;> simp
@[simp] theorem State.runOperands_mem (s : State) (q : Nat) (r : ARun) : (s.runOperands q r).2.mem = s.mem := by
  unfold State.runOperands
  dsimp only
  (repeat' split) <;> simp
@[simp] theorem State.springStop_mem (s : State) (q : Nat) (r : ARun) (e : WbEntry) :
    (s.springStop q r e).mem = s.mem :=
    by simp [State.springStop]
@[simp] theorem State.drainStop_mem (s : State) (q : Nat) (r : ARun) (code addr det : Nat) :
    (s.drainStop q r code addr det).mem = s.mem :=
    by simp [State.drainStop]
@[simp] theorem State.copyStopped_mem (s : State) (p : Nat) (c : CopyCmd) : (s.copyStopped p c).mem = s.mem := rfl
@[simp] theorem State.copyFault_mem (s : State) (p : Nat) (c : CopyCmd) (code addr det : Nat) :
    (s.copyFault p c code addr det).mem = s.mem :=
    by simp [State.copyFault]
@[simp] theorem State.chunkDone_mem (s : State) (p : Nat) (c : CopyCmd) : (s.chunkDone p c).mem = s.mem := by
  unfold State.chunkDone
  dsimp only
  (repeat' split) <;> simp
@[simp] theorem State.setCopy_mem (s : State) (p : Nat) (c : CopyCmd) : (s.setCopy p c).mem = s.mem := rfl
@[simp] theorem State.sendElem_mem (s : State) (p : Nat) (g : GatherCmd) (tag jslot : Nat) (bs : List Byte) (src :
    Nat × Nat) (inp : Nat) : (s.sendElem p g tag jslot bs src inp).mem = s.mem :=
    by simp [State.sendElem]
@[simp] theorem State.mapGather_mem (s : State) (p cmd : Nat) (f : GatherCmd → GatherCmd) :
    (s.mapGather p cmd f).mem = s.mem :=
    rfl
@[simp] theorem State.elemDone_mem (s : State) (p cmd : Nat) : (s.elemDone p cmd).mem = s.mem := rfl
@[simp] theorem State.elemRecord_mem (s : State) (p : Nat) (g : GatherCmd) (n code addr det : Nat) :
    (s.elemRecord p g n code addr det).mem = s.mem :=
    by
  unfold State.elemRecord
  split <;> simp
@[simp] theorem State.elemOut_mem (s : State) (p : Nat) (g : GatherCmd) (tag jslot : Nat) (src : Nat × Nat) (inp :
    Nat) : (s.elemOut p g tag jslot src inp).mem = s.mem :=
    by
  unfold State.elemOut
  split <;> simp
@[simp] theorem State.elemSent_mem (s : State) (p : Nat) (g : GatherCmd) : (s.elemSent p g).mem = s.mem := rfl
@[simp] theorem State.gatherStop_mem (s : State) (p : Nat) (g : GatherCmd) : (s.gatherStop p g).mem = s.mem :=
    by simp [State.gatherStop]
@[simp] theorem State.issueElem_mem (s : State) (p : Nat) (g : GatherCmd) (e : GElem) (va : Nat) :
    (s.issueElem p g e va).mem = s.mem :=
    by
  unfold State.issueElem
  dsimp only
  (repeat' split) <;> simp
@[simp] theorem State.mbDone_mem (s : State) (cell result : Nat) : (s.mbDone cell result).mem = s.mem :=
    by simp [State.mbDone]
@[simp] theorem State.logDispatch_mem (s : State) (p : Nat) (i : Inst) : (s.logDispatch p i).mem = s.mem := by
  unfold State.logDispatch
  split <;> rfl
@[simp] theorem State.logSend_mem (s : State) (p : Nat) (w : Who) (chip core stamp : Nat) :
    (s.logSend p w chip core stamp).mem = s.mem :=
    by
  unfold State.logSend
  split <;> rfl
@[simp] theorem State.peerWalk_mem (s : State) (n : Nat) : (s.peerWalk n).2.mem = s.mem := by
  unfold State.peerWalk
  dsimp only
  (repeat' split) <;> simp
@[simp] theorem State.pairScale_mem (s : State) (p : Nat) (m : Msg) : (s.pairScale p m).2.mem = s.mem := by
  unfold State.pairScale
  (repeat' split) <;> rfl
@[simp] theorem State.inject_mem (s : State) (c : Nat) (bytes : List Byte) : (s.inject c bytes).mem = s.mem := by
  unfold State.inject
  dsimp only
  (repeat' split) <;> simp
@[simp] theorem State.becomeRunning_mem (s : State) (c : Nat) : (s.becomeRunning c).mem = s.mem := by
  unfold State.becomeRunning
  exact State.foldl_mem _ (fun s a => by simp) _ _
@[simp] theorem State.launchedOne_mem (s : State) (c : Nat) : (s.launchedOne c).mem = s.mem := by
  unfold State.launchedOne
  dsimp only
  (repeat' split) <;> simp
@[simp] theorem State.acceptAck_mem (s : State) (f : Flight) (m : Msg) (t : Track) (src : Nat × Nat) (rstat stamp :
    Nat) : (s.acceptAck f m t src rstat stamp).mem = s.mem :=
    by
  unfold State.acceptAck
  (repeat' split) <;> simp
@[simp] theorem State.dispatchTarget_mem (s : State) (p lc : Nat) (m : Msg) : (s.dispatchTarget p lc m).mem = s.mem :=
    by
  unfold State.dispatchTarget
  dsimp only
  (repeat' split) <;> simp
@[simp] theorem State.fireSheaf_mem (s : State) (c lc : Nat) (x : Sheaf) : (s.fireSheaf c lc x).mem = s.mem := rfl
@[simp] theorem State.applySheaf_mem (s : State) (c lc : Nat) (m : Msg) (st : Nat) :
    (s.applySheaf c lc m st).mem = s.mem :=
    by
  unfold State.applySheaf
  dsimp only
  (repeat' split) <;> simp
@[simp] theorem State.peerFired_mem (s : State) (p lc : Nat) (m : Msg) : (s.peerFired p lc m).mem = s.mem := by
  unfold State.peerFired
  dsimp only
  (repeat' split) <;> simp
@[simp] theorem State.deliverReply_mem (s : State) (p : Nat) (m : Msg) : (s.deliverReply p m).mem = s.mem := by
  unfold State.deliverReply
  dsimp only
  (repeat' split) <;> simp
@[simp] theorem State.setCtr_mem (s : State) (p k : Nat) (x : Ctr) : (s.setCtr p k x).mem = s.mem := rfl
@[simp] theorem State.fireCtr_mem (s : State) (p c lc n : Nat) (e : CtrEvent) : (s.fireCtr p c lc n e).mem = s.mem := by
  unfold State.fireCtr
  dsimp only
  (repeat' split) <;> simp
@[simp] theorem State.applyCtr_mem (s : State) (p : Nat) (e : CtrEvent) : (s.applyCtr p e).mem = s.mem := by
  unfold State.applyCtr
  dsimp only
  (repeat' split) <;> simp
@[simp] theorem State.weirTake_mem (s : State) (c p lc : Nat) (k : BitVec 32) (x : Nat) (note : Option Nat) :
    (s.weirTake c p lc k x note).mem = s.mem :=
    by
  unfold State.weirTake
  dsimp only
  (repeat' split) <;> simp
@[simp] theorem State.deliverAll_mem (s : State) (c : Nat) (src : Nat × Nat) (unit : Nat) (ms : List Msg) :
    (s.deliverAll c src unit ms).mem = s.mem :=
    by
  unfold State.deliverAll
  exact State.foldl_mem _ (fun s a => by simp) _ _
@[simp] theorem State.arrive_mem (s : State) (f : Flight) (a : BArr) : (s.arrive f a).mem = s.mem := by
  unfold State.arrive
  dsimp only
  (repeat' split) <;> simp
@[simp] theorem State.answerArrival_mem (s : State) (f : Flight) (a : BArr) (rstat : Nat) :
    (s.answerArrival f a rstat).mem = s.mem :=
    by
  unfold State.answerArrival
  split <;> rfl
@[simp] theorem State.dropRanges_mem (s : State) (die slice : Nat) : (s.dropRanges die slice).mem = s.mem := rfl
@[simp] theorem State.remoteClose_mem (s : State) (die : Nat) : (s.remoteClose die).2.mem = s.mem := by
  unfold State.remoteClose
  split <;> rfl
@[simp] theorem State.closeDie_mem (s : State) (die c : Nat) (k : Closing) : (s.closeDie die c k).mem = s.mem := by
  unfold State.closeDie
  dsimp only
  (repeat' split) <;> simp
@[simp] theorem State.dispRecord_mem (s : State) (die c tag code addr det : Nat) :
    (s.dispRecord die c tag code addr det).mem = s.mem :=
    by simp [State.dispRecord]
@[simp] theorem State.postRec_mem (s : State) (die c r t : Nat) : (s.postRec die c r t).mem = s.mem := rfl
@[simp] theorem State.newInst_mem (s : State) (c lc gen hidx : Nat) (a : Nat) (h : HHdr) :
    (s.newInst c lc gen hidx a h).2.mem = s.mem :=
    rfl
@[simp] theorem State.startSlot_mem (s : State) (p sl : Nat) (i : Inst) : (s.startSlot p sl i).mem = s.mem :=
    by simp [State.startSlot]
@[simp] theorem State.startReply_mem (s : State) (p sl r : Nat) (v : Resv) (m : Msg) (st : Nat) :
    (s.startReply p sl r v m st).mem = s.mem :=
    by
  unfold State.startReply
  dsimp only
  (repeat' split) <;> simp
@[simp] theorem State.startMsg_mem (s : State) (p sl c lc : Nat) (m : Msg) (e : QEntry) :
    (s.startMsg p sl c lc m e).mem = s.mem :=
    by
  unfold State.startMsg
  dsimp only
  (repeat' split) <;> simp
@[simp] theorem State.underWay_mem (s : State) (cell : Nat) : (s.underWay cell).mem = s.mem := rfl
@[simp] theorem State.clearFseq_mem (s : State) (c : Nat) : (s.clearFseq c).mem = s.mem := rfl
@[simp] theorem State.applyChan_mem (s : State) (c : Nat) (r : ChanRec) : (s.applyChan c r).mem = s.mem := by
  unfold State.applyChan
  split
  · exact State.foldl_mem (fun s (e : Nat × CtxCore) => s.setLc c e.1 { s.lc c e.1 with chans := (s.lc c e.1).chans.put r.ch r.value })
      (fun _ _ => rfl) _ _
  · rfl
@[simp] theorem State.applyCtrRec_mem (s : State) (c : Nat) (r : CtrRec) : (s.applyCtrRec c r).mem = s.mem := by
  unfold State.applyCtrRec
  dsimp only
  (repeat' split) <;> simp
@[simp] theorem State.sendInitial_mem (s : State) (c : Nat) (m : Msg) : (s.sendInitial c m).mem = s.mem :=
    by simp [State.sendInitial]
@[simp] theorem State.dieBack_mem (s : State) (c d a : Nat) (quad : Nat → Nat) : (s.dieBack c d a quad).mem = s.mem :=
    rfl
@[simp] theorem State.coreBack_mem (s : State) (c lc a : Nat) : (s.coreBack c lc a).mem = s.mem := rfl
@[simp] theorem State.sheavesBack_mem (s : State) (c lc a : Nat) : (s.sheavesBack c lc a).mem = s.mem := rfl
@[simp] theorem State.quadBack_mem (s : State) (c q a : Nat) : (s.quadBack c q a).mem = s.mem := by
  unfold State.quadBack
  dsimp only
  (repeat' split) <;> simp
@[simp] theorem State.ringEntry_mem (s : State) (c : Nat) (m : Msg) : (s.ringEntry c m).mem = s.mem := by
  unfold State.ringEntry
  dsimp only
  (repeat' split) <;> simp
@[simp] theorem State.undelivered_mem (s : State) (src : Nat × Nat) (c : Nat) : (s.undelivered src c).mem = s.mem :=
    by simp [State.undelivered]
@[simp] theorem State.newStatement_mem (s : State) (c kind : Nat) (nonce : List Byte) :
    (s.newStatement c kind nonce).2.mem = s.mem :=
    rfl
@[simp] theorem State.pendAll_mem (s : State) (c : Nat) : (s.pendAll c).mem = s.mem := rfl
@[simp] theorem State.vacate_mem (s : State) (c : Nat) : (s.vacate c).mem = s.mem := rfl
@[simp] theorem State.discardCtx_mem (s : State) (c : Nat) (stmt : List Byte) : (s.discardCtx c stmt).mem = s.mem := by
  unfold State.discardCtx
  dsimp only
  (repeat' split) <;> simp
@[simp] theorem State.restampCore_mem (s : State) (c lc old new : Nat) : (s.restampCore c lc old new).mem = s.mem := by
  unfold State.restampCore
  split <;> rfl
@[simp] theorem State.moveOps_mem (s : State) (c : Nat) (m : Moves) : (s.moveOps c m).mem = s.mem := by
  unfold State.moveOps
  refine (State.foldl_mem _ (fun _ _ => by rfl) _ _).trans ?_
  exact State.foldl_mem _ (fun _ _ => by rfl) _ _
@[simp] theorem State.restoreSlot_mem (s : State) (c : Nat) (m : Moves) (r : SlotRec) :
    (s.restoreSlot c m r).mem = s.mem :=
    by
  unfold State.restoreSlot
  dsimp only
  split
  · rfl
  · exact State.foldl_mem _ (fun _ _ => by rfl) _ _
@[simp] theorem State.mbdoneClear_mem (s : State) (v : Nat) : (s.mbdoneClear v).mem = s.mem := rfl
@[simp] theorem State.doorbell_mem (s : State) (n : Nat) : (s.doorbell n).mem = s.mem := by
  unfold State.doorbell
  dsimp only
  (repeat' split) <;> simp
@[simp] theorem State.drainOverflow_mem (s : State) (c : Nat) (l : List Msg) : (s.drainOverflow c l).mem = s.mem := by
  induction l generalizing s with
  | nil => rfl
  | cons m l ih =>
    rw [State.drainOverflow]
    split
    · rfl
    · split
      · split
        · rfl
        · exact State.siloFault_mem _ _ _
      · rw [ih, State.ringEntry_mem, State.setCtx_mem]

theorem execRxtailWrite_mem {s t : State} {c : Nat} {v : Word} (h : execRxtailWrite c v s = .next t) : t.mem = s.mem := by
  unfold execRxtailWrite at h
  split at h
  · cases h
    rfl
  · cases h
    simp
@[simp] theorem State.rxtail_mem (s : State) (c : Nat) (v : Word) : (s.rxtail c v).mem = s.mem := by
  unfold State.rxtail
  split
  · exact execRxtailWrite_mem ‹_›
  · rfl
@[simp] theorem State.rxRegister_mem (s : State) (c sub k : Nat) (bs : List Byte) :
    (s.rxRegister c sub k bs).mem = s.mem :=
    by
  unfold State.rxRegister
  dsimp only
  (repeat' split) <;> simp
@[simp] theorem State.bar0Write_mem (s : State) (reg k : Nat) (bs : List Byte) : (s.bar0Write reg k bs).mem = s.mem :=
    by
  unfold State.bar0Write
  dsimp only
  split
  · split <;> rfl
  · (repeat' split) <;> simp
@[simp] theorem State.openEntry_mem (s : State) : (s.openEntry).2.mem = s.mem := rfl
theorem mapState_mem {α β : Type} (f : State → α → β × State) (hf : ∀ s a, (f s a).2.mem = s.mem) (s : State) (l : List α) :
    (mapState f s l).2.mem = s.mem := by
  induction l generalizing s with
  | nil => rfl
  | cons a l ih => exact (ih _).trans (hf s a)
theorem State.openList_mem {α : Type} (s : State) (f : State → α × State) (hf : ∀ s, (f s).2.mem = s.mem) (most : Nat) :
    (s.openList f most).2.mem = s.mem := mapState_mem _ (fun s _ => hf s) _ _
@[simp] theorem State.openSeq_mem (s : State) (most : Nat) (q : JSeq) : (s.openSeq most q).2.mem = s.mem := by
  unfold State.openSeq
  exact State.openList_mem _ _ (fun _ => rfl) _
@[simp] theorem State.openJournal_mem (s : State) : (s.openJournal).mem = s.mem := by
  unfold State.openJournal
  exact (mapState_mem _ (fun s q => State.openSeq_mem s _ q) _ _).trans (State.openList_mem _ _ (fun _ => rfl) _)
@[simp] theorem State.openBarn_mem (s : State) : (s.openBarn).mem = s.mem := by
  unfold State.openBarn
  refine (State.setHub_mem _ _).trans (mapState_mem _ (fun s e => ?_) _ _)
  exact State.openList_mem s State.openEntry State.openEntry_mem _
@[simp] theorem State.openHit_mem (s : State) (pa n : Nat) : (s.openHit pa n).mem = s.mem := by
  unfold State.openHit
  dsimp only
  (repeat' split) <;> simp
@[simp] theorem State.injectFrom_mem (s : State) (c cell : Nat) : (s.injectFrom c cell).mem = s.mem := by
  unfold State.injectFrom
  dsimp only
  (repeat' split) <;> simp
@[simp] theorem State.cellWrite_mem (s : State) (c cell o : Nat) (bytes : List Byte) :
    (s.cellWrite c cell o bytes).mem = s.mem :=
    by
  unfold State.cellWrite
  split <;> simp
@[simp] theorem State.failQuad_mem (s : State) (q : Nat) : (s.failQuad q).mem = s.mem := by
  have hfatal : ∀ (t : State) (c : Nat), (if (t.ctx c).st != .free && (t.ctx c).inQuad q then
      t.fatal .hub c fQuad { lcore := 1023, unit := 10, det := q } else t).mem = t.mem := by
    intro t c
    split <;> simp
  unfold State.failQuad
  dsimp only
  (repeat' split) <;> simp only [State.setQuad_mem, State.setReplace_mem, State.setHealth_mem, State.foldl_mem _ hfatal]
@[simp] theorem State.quadError_mem (s : State) (q : Nat) : (s.quadError q).mem = s.mem := by
  unfold State.quadError
  dsimp only
  (repeat' split) <;> simp
@[simp] theorem State.poisonEntries_mem (s : State) (q granule : Nat) : (s.poisonEntries q granule).mem = s.mem := rfl
@[simp] theorem State.poisonBlock_mem (s : State) (pa : Nat) : (s.poisonBlock pa).mem = s.mem := by
  unfold State.poisonBlock
  dsimp only
  (repeat' split) <;> simp
@[simp] theorem State.markOwned_mem (s : State) (die st at_ c : Nat) (quad : Option Nat) :
    (s.markOwned die st at_ c quad).mem = s.mem :=
    by
  unfold State.markOwned
  dsimp only
  (repeat' split) <;> simp
@[simp] theorem State.loseMessage_mem (s : State) (f : Flight) (m : Msg) (t : Track) (src : Nat × Nat) :
    (s.loseMessage f m t src).mem = s.mem :=
    by
  unfold State.loseMessage
  split <;> simp
@[simp] theorem State.flitRecord_mem (s : State) (f : Flight) : (s.flitRecord f).mem = s.mem := by
  unfold State.flitRecord
  split <;> simp
@[simp] theorem State.loseHubReq_mem (s : State) (f : Flight) (j : JReq) : (s.loseHubReq f j).mem = s.mem := rfl
@[simp] theorem State.flitError_mem (s : State) (f : Flight) : (s.flitError f).mem = s.mem := by
  unfold State.flitError
  (repeat' split) <;> simp
@[simp] theorem State.invalidateAll_mem (s : State) (e : Nat × Nat × Nat × Nat) : (s.invalidateAll e).mem = s.mem := by
  unfold State.invalidateAll
  exact State.foldl_mem _ (fun s d => State.foldl_mem _ (fun s k => by simp) _ _) _ _
@[simp] theorem State.openReplay_mem (s : State) (c : Nat) (r : Replayed) : (s.openReplay c r).mem = s.mem := by
  unfold State.openReplay
  dsimp only
  rw [State.foldl_mem _ (fun s e => State.append_mem s e)]
  split <;> simp
@[simp] theorem State.clearLogs_mem (s : State) (c : Nat) : (s.clearLogs c).mem = s.mem := rfl
@[simp] theorem State.begin_mem (s : State) (p sl : Nat) (i : Inst) : (s.begin p sl i).mem = s.mem := rfl

end Sys2Proof.Machine

/-! SUPPORT. Steps that leave memory as it stands: what words and moves share. -/

namespace Sys2Proof.Machine

open Sys2Proof

/-- Whatever the outcome, memory is as it was. -/
def State.KeepsMem (s : State) (o : Out1) : Prop := ∀ t, o = .next t → t.mem = s.mem

@[simp] theorem State.keepsMem_next (s t : State) : s.KeepsMem (.next t) ↔ t.mem = s.mem :=
  ⟨fun h => h t rfl, fun h u hu => by cases hu; exact h⟩
@[simp] theorem State.keepsMem_fault (s : State) (e : Fault) : s.KeepsMem (.fault e) := nofun
@[simp] theorem State.keepsMem_refused (s : State) (e : Refusal) : s.KeepsMem (.refused e) := nofun
@[simp] theorem State.keepsMem_idle (s : State) (w : String) : s.KeepsMem (s.idle w) := (State.keepsMem_next s s).2 rfl

theorem State.KeepsMem.of_eq {s u : State} {o : Out1} (h : u.KeepsMem o) (hm : u.mem = s.mem) : s.KeepsMem o :=
  fun t ht => (h t ht).trans hm

/-! Retirement, faults and the frame of a word. -/

@[simp] theorem State.keepsMem_raise (s u : State) (i : Inst) (code addr det : Nat) :
    s.KeepsMem (u.raise i code addr det) ↔ u.mem = s.mem := by simp [State.raise]
@[simp] theorem State.keepsMem_retire (s u : State) (i : Inst) : s.KeepsMem (u.retire i) ↔ u.mem = s.mem := by simp [State.retire]
@[simp] theorem State.keepsMem_retireG (s u : State) (i : Inst) (d : GReg) (x : Word) :
    s.KeepsMem (u.retireG i d x) ↔ u.mem = s.mem := by simp [State.retireG]
@[simp] theorem State.keepsMem_retireLater (s u : State) (i : Inst) (d : GReg) (x : Word) :
    s.KeepsMem (u.retireLater i d x) ↔ u.mem = s.mem := by simp [State.retireLater]
@[simp] theorem State.keepsMem_jump (s u : State) (i : Inst) (x : Word) (safe : Bool) :
    s.KeepsMem (u.jump i x safe) ↔ u.mem = s.mem := by simp [State.jump]

theorem State.onInst_keepsMem {s : State} {f : Inst → State → Out1} (h : ∀ i u, u.mem = s.mem → s.KeepsMem (f i u)) :
    s.KeepsMem (s.onInst f) := by
  unfold State.onInst
  split
  · exact State.keepsMem_fault s _
  · exact h _ _ rfl

theorem State.onFit_keepsMem {s : State} {u : Uses} {f : Inst → State → Out1} (h : ∀ i v, v.mem = s.mem → s.KeepsMem (f i v)) :
    s.KeepsMem (s.onFit u f) := by
  refine State.onInst_keepsMem fun i v hv => ?_
  split
  · exact h i v hv
  · simpa using hv

theorem State.onDesc_keepsMem {s : State} {u : Uses} {a : XReg} {ok : Inst → State → Nat → Bool} {f : Inst → State → Nat → Out1}
    (h : ∀ i v x, v.mem = s.mem → s.KeepsMem (f i v x)) : s.KeepsMem (s.onDesc u a ok f) := by
  refine State.onFit_keepsMem fun i v hv => ?_
  dsimp only
  split
  · exact h i v _ hv
  · simpa using hv

theorem State.onCell_keepsMem {s : State} {cell code : Nat} {f : Nat → Bool → Out1} (h : ∀ c b, s.KeepsMem (f c b)) :
    s.KeepsMem (s.onCell cell code f) := by
  unfold State.onCell
  dsimp only
  (repeat' split) <;> simp [h]

@[simp] theorem State.keepsMem_answer (s u : State) (cell code reason detail : Nat) :
    s.KeepsMem (u.answer cell code reason detail) ↔ u.mem = s.mem := by simp [State.answer]

/-! Shared meanings of words. -/

@[simp] theorem State.alu_keepsMem (s : State) (u : Uses) (d : GReg) (f : Inst → Word) : s.KeepsMem (s.alu u d f) :=
  State.onFit_keepsMem fun i v hv => by simpa using hv
@[simp] theorem State.aluSat_keepsMem (s : State) (u : Uses) (d : GReg) (f : Inst → Int) : s.KeepsMem (s.aluSat u d f) :=
  State.onFit_keepsMem fun i v hv => by simpa using hv
@[simp] theorem State.branch_keepsMem (s : State) (u : Uses) (imm : BitVec 32) (cnd : Inst → Bool) :
    s.KeepsMem (s.branch u imm cnd) :=
  State.onFit_keepsMem fun i v hv => by dsimp only; (repeat' split) <;> simpa using hv
@[simp] theorem State.transfer_keepsMem (s : State) (u : Uses) (target : Inst → Word) (f : Inst → Inst) :
    s.KeepsMem (s.transfer u target f) :=
  State.onFit_keepsMem fun i v hv => by dsimp only; split <;> simpa using hv
@[simp] theorem State.keepsMem_chunkAsk (s u : State) (i : Inst) (d : Dest) (n : Nat) (what : ChunkWhat) :
    s.KeepsMem (u.chunkAsk i d n what) ↔ u.mem = s.mem := by simp [State.chunkAsk]
@[simp] theorem State.load_keepsMem (s : State) (u : Uses) (dst : Dest) (ret : Bool) (a : GReg) (imm : BitVec 32) (n : Nat)
    (sx : Option Nat) (ord : Option Scope) : s.KeepsMem (s.load u dst ret a imm n sx ord) :=
  State.onFit_keepsMem fun i v hv => by dsimp only; split <;> simpa using hv
@[simp] theorem State.store_keepsMem (s : State) (u : Uses) (a : GReg) (imm : BitVec 32) (n : Nat) (data : Inst → List Byte)
    (ord : Option Scope) : s.KeepsMem (s.store u a imm n data ord) :=
  State.onFit_keepsMem fun i v hv => by dsimp only; split <;> simpa using hv
@[simp] theorem State.atomic_keepsMem (s : State) (u : Uses) (op : MemOp) (d a b : GReg) (n : Nat) (ord : Option Scope)
    (imm : BitVec 32) (refused : Bool) : s.KeepsMem (s.atomic u op d a b n ord imm refused) :=
  State.onFit_keepsMem fun i v hv => by dsimp only; split <;> simpa using hv
@[simp] theorem State.msgld_keepsMem (s : State) (u : Uses) (d a : GReg) (imm : BitVec 32) (n : Nat) :
    s.KeepsMem (s.msgld u d a imm n) :=
  State.onFit_keepsMem fun i v hv => by dsimp only; (repeat' split) <;> simpa using hv
@[simp] theorem State.ringOp_keepsMem (s : State) (u : Uses) (d : GReg) (a : XReg) (op : Inst → RingOp) :
    s.KeepsMem (s.ringOp u d a op) :=
  State.onFit_keepsMem fun i v hv => by dsimp only; split <;> simpa using hv
@[simp] theorem State.weirOp_keepsMem (s : State) (u : Uses) (d a : GReg) (want : Word) (f : Weir → Word × Weir) :
    s.KeepsMem (s.weirOp u d a want f) :=
  State.onFit_keepsMem fun i v hv => by dsimp only; split <;> simpa using hv
@[simp] theorem State.keepsMem_hubWait (s u : State) (i : Inst) (d : GReg) (j : JReq) :
    s.KeepsMem (u.hubWait i d j) ↔ u.mem = s.mem := by simp [State.hubWait]
@[simp] theorem State.vec_keepsMem (s : State) (u : Uses) (f : Inst → State → Check VPend) : s.KeepsMem (s.vec u f) :=
  State.onFit_keepsMem fun i v hv => by split <;> simpa using hv
@[simp] theorem State.vArith_keepsMem (s : State) (u : Uses) (op : VOp) (d a b : VReg) (m : VMask) (f : Fmt) (r : Rnd) :
    s.KeepsMem (s.vArith u op d a b m f r) := State.vec_keepsMem _ _ _
@[simp] theorem State.vLogic_keepsMem (s : State) (u : Uses) (fn : VWord → VWord → VWord) (d a b : VReg) (m : VMask) :
    s.KeepsMem (s.vLogic u fn d a b m) := State.vec_keepsMem _ _ _
@[simp] theorem State.vShift_keepsMem (s : State) (u : Uses) (fn : Fmt → Nat → Nat → Nat) (d a b : VReg) (m : VMask) (f : Fmt) :
    s.KeepsMem (s.vShift u fn d a b m f) := State.vec_keepsMem _ _ _
@[simp] theorem State.vFused_keepsMem (s : State) (u : Uses) (np nz : Bool) (d a b c : VReg) (m : VMask) (f : Fmt) (r : Rnd) :
    s.KeepsMem (s.vFused u np nz d a b c m f r) := State.vec_keepsMem _ _ _
@[simp] theorem State.vCompare_keepsMem (s : State) (u : Uses) (op : VCmp) (d : KReg) (a b : VReg) (m : VMask) (f : Fmt) :
    s.KeepsMem (s.vCompare u op d a b m f) := State.vec_keepsMem _ _ _
@[simp] theorem State.vShuffle_keepsMem (s : State) (u : Uses) (d : VReg) (m : VMask) (f : Fmt) (fn : Inst → Nat → Nat) :
    s.KeepsMem (s.vShuffle u d m f fn) := State.vec_keepsMem _ _ _
@[simp] theorem State.vReduce_keepsMem (s : State) (u : Uses) (op : VRed) (d a : VReg) (m : VMask) (f : Fmt) (r : Rnd) :
    s.KeepsMem (s.vReduce u op d a m f r) := State.vec_keepsMem _ _ _
@[simp] theorem State.vScan_keepsMem (s : State) (u : Uses) (op : VRed) (d a : VReg) (m : VMask) (f : Fmt) (r : Rnd) :
    s.KeepsMem (s.vScan u op d a m f r) := State.vec_keepsMem _ _ _
@[simp] theorem State.vTrans_keepsMem (s : State) (u : Uses) (fn : Trans9) (d a : VReg) (m : VMask) (f : Fmt) (sat : Bool) :
    s.KeepsMem (s.vTrans u fn d a m f sat) := State.vec_keepsMem _ _ _
@[simp] theorem State.kOp_keepsMem (s : State) (u : Uses) (d : KReg) (f : Inst → KWord) :
    s.KeepsMem (s.kOp u d f) := State.vec_keepsMem _ _ _

/-! Shared meanings of units. -/

@[simp] theorem State.linkFrame_keepsMem (s : State) (link : Nat) (up crcOk : Bool) : s.KeepsMem (s.linkFrame link up crcOk) := by
  unfold State.linkFrame
  dsimp only
  (repeat' split) <;> simp

@[simp] theorem State.peerReset_keepsMem (s : State) (port : Nat) : s.KeepsMem (s.peerReset port) := by
  unfold State.peerReset
  split <;> simp

@[simp] theorem State.mgmtStep_keepsMem (s : State) (port : Nat) (ok : Phase → Bool) (nxt : Phase) (what : Nat) :
    s.KeepsMem (s.mgmtStep port ok nxt what) := by
  unfold State.mgmtStep
  dsimp only
  split <;> simp

theorem State.holdEngine_mem {s t : State} {w : Who} {key va region word level prog : Nat}
    (h : s.holdEngine w key va region word level prog = some t) : t.mem = s.mem := by
  unfold State.holdEngine at h
  dsimp only at h
  split at h <;> cases h
  simp

@[simp] theorem State.keepsMem_heldStep (s u : State) (w : Who) (key va region word level prog : Nat) (hu : u.mem = s.mem) :
    s.KeepsMem (u.heldStep w key va region word level prog) := by
  unfold State.heldStep
  split
  · next h => exact (State.keepsMem_next _ _).2 ((State.holdEngine_mem h).trans hu)
  · simpa [State.idle] using hu

@[simp] theorem State.opa_keepsMem (s : State) (u : Uses) (fn : Nat) (d : GReg) (a : XReg) : s.KeepsMem (s.opa u fn d a) :=
  State.onDesc_keepsMem fun i v x hv => by dsimp only; (repeat' split) <;> simpa using hv

theorem State.copyIssue_keepsMem {s u : State} (hu : u.mem = s.mem) (i : Inst) (d : GReg) (x : Nat) (ext : Option Nat) :
    s.KeepsMem (u.copyIssue i d x ext) := by
  unfold State.copyIssue
  dsimp only
  (repeat' split) <;> simpa using hu

@[simp] theorem State.gatherIssue_keepsMem (s : State) (u : Uses) (sc : Bool) (d : GReg) (a b : XReg) :
    s.KeepsMem (s.gatherIssue u sc d a b) :=
  State.onDesc_keepsMem fun i v x hv => by dsimp only; (repeat' split) <;> simpa using hv

theorem State.journalDo_mem {s t : State} {c : Nat} {j : JReq} {a : HubAns} (h : s.journalDo c j = some (a, t)) :
    t.mem = s.mem := by
  cases j
  case jemit => cases h
  all_goals
    rw [show t = (a, t).2 from rfl, ← Option.some.inj h]
    simp

/-! Moves of units that leave memory. -/

theorem State.rowBlock_keepsMem (s : State) (p : Nat) : s.KeepsMem (s.rowBlock p) := by
  unfold State.rowBlock
  dsimp only
  (repeat' split) <;> simp

theorem State.bar0Read_keepsMem (s : State) (off n : Nat) : s.KeepsMem (s.bar0Read off n) := by
  unfold State.bar0Read
  split <;> simp

theorem State.bar2Read_keepsMem (s : State) (off n : Nat) : s.KeepsMem (s.bar2Read off n) := by
  unfold State.bar2Read
  split <;> simp

theorem State.bar2Write_keepsMem (s : State) (off : Nat) (bytes : List Byte) : s.KeepsMem (s.bar2Write off bytes) := by
  unfold State.bar2Write
  dsimp only
  (repeat' split) <;> simp

@[simp] theorem State.markCopy_mem (s : State) (f : Finding) : (s.markCopy f).mem = s.mem := by
  unfold State.markCopy
  (repeat' split) <;> (try dsimp only) <;> (repeat' split) <;> rfl

@[simp] theorem State.finding_mem (s : State) (f : Finding) : (s.finding f).mem = s.mem := by
  cases f <;> simp only [State.finding] <;> (repeat' split) <;> simp

theorem State.bringUp_keepsMem (s : State) (signed : Bool) (failed : List Nat) : s.KeepsMem (s.bringUp signed failed) := by
  have hfail : ∀ (u : State) (q : Nat), (if 256 ≤ q || (u.quad q).failed then u else u.failQuad q).mem = u.mem := by
    intro u q
    split <;> simp
  unfold State.bringUp
  (repeat' split)
  · exact State.keepsMem_idle s _
  · exact (State.keepsMem_next _ _).2 (State.foldl_mem _ hfail _ _)
  · simp

end Sys2Proof.Machine

/-! SUPPORT. What the words and events that write nothing leave of memory: all of it. -/

namespace Sys2Proof.Machine

open Sys2Proof

/-! Branches, calls, loops, chunks, END and YIELD, with the safe points that a core forces (04 R71 to R81, -/

@[simp] theorem execBr_keepsMem (imm : BitVec 32) (s : State) : s.KeepsMem (execBr imm s) := by simp [execBr]
@[simp] theorem execBeq_keepsMem (a b : GReg) (imm : BitVec 32) (s : State) : s.KeepsMem (execBeq a b imm s) :=
  by simp [execBeq]
@[simp] theorem execBne_keepsMem (a b : GReg) (imm : BitVec 32) (s : State) : s.KeepsMem (execBne a b imm s) :=
  by simp [execBne]
@[simp] theorem execBlt_keepsMem (a b : GReg) (imm : BitVec 32) (s : State) : s.KeepsMem (execBlt a b imm s) :=
  by simp [execBlt]
@[simp] theorem execBge_keepsMem (a b : GReg) (imm : BitVec 32) (s : State) : s.KeepsMem (execBge a b imm s) :=
  by simp [execBge]
@[simp] theorem execBltn_keepsMem (a b : GReg) (imm : BitVec 32) (s : State) : s.KeepsMem (execBltn a b imm s) :=
  by simp [execBltn]
@[simp] theorem execBgen_keepsMem (a b : GReg) (imm : BitVec 32) (s : State) : s.KeepsMem (execBgen a b imm s) :=
  by simp [execBgen]
@[simp] theorem execJal_keepsMem (imm : BitVec 32) (s : State) : s.KeepsMem (execJal imm s) := by simp [execJal]
@[simp] theorem execJr_keepsMem (a : GReg) (s : State) : s.KeepsMem (execJr a s) := by simp [execJr]
@[simp] theorem execRet_keepsMem (s : State) : s.KeepsMem (execRet s) := by simp [execRet]
@[simp] theorem execLoop_keepsMem (a : GReg) (level : BitVec 1) (imm : BitVec 32) (s : State) :
    s.KeepsMem (execLoop a level imm s) :=
  State.onFit_keepsMem fun i v hv => by dsimp only; (repeat' split) <;> simpa using hv
@[simp] theorem execEndI_keepsMem (s : State) : s.KeepsMem (execEndI s) :=
  State.onFit_keepsMem fun i v hv => by simpa using hv
@[simp] theorem execYieldI_keepsMem (s : State) : s.KeepsMem (execYieldI s) :=
  State.onFit_keepsMem fun i v hv => by simpa using hv
@[simp] theorem execChunk_keepsMem (d : GReg) (n : BitVec 4) (s : State) : s.KeepsMem (execChunk d n s) :=
  State.onFit_keepsMem fun i v hv => by (repeat' split) <;> simpa using hv
@[simp] theorem execChunkUnitRequest_keepsMem (q : Nat) (s : State) : s.KeepsMem (execChunkUnitRequest q s) := by
  unfold execChunkUnitRequest
  dsimp only
  (repeat' split) <;> simp
@[simp] theorem execBudgetSafePoint_keepsMem (p sl : Nat) (s : State) : s.KeepsMem (execBudgetSafePoint p sl s) := by
  unfold execBudgetSafePoint
  (repeat' split) <;> simp
@[simp] theorem execForcedSafePoint_keepsMem (p sl : Nat) (s : State) : s.KeepsMem (execForcedSafePoint p sl s) := by
  unfold execForcedSafePoint
  (repeat' split) <;> simp

/-! Traps, breakpoints, trace marks, system registers and counter reads (04 R82 to R86) -/

@[simp] theorem execTrap_keepsMem (a : GReg) (code : BitVec 16) (s : State) : s.KeepsMem (execTrap a code s) :=
  State.onFit_keepsMem fun i v hv => by simpa using hv
@[simp] theorem execSrd_keepsMem (d : GReg) (sreg : BitVec 16) (s : State) : s.KeepsMem (execSrd d sreg s) :=
  State.onFit_keepsMem fun i v hv => by dsimp only; (repeat' split) <;> simpa using hv
@[simp] theorem execSwr_keepsMem (sreg : BitVec 16) (a : GReg) (s : State) : s.KeepsMem (execSwr sreg a s) :=
  State.onFit_keepsMem fun i v hv => by dsimp only; (repeat' split) <;> simpa using hv
@[simp] theorem execSw1c_keepsMem (sreg : BitVec 16) (a : GReg) (s : State) : s.KeepsMem (execSw1c sreg a s) :=
  State.onFit_keepsMem fun i v hv => by (repeat' split) <;> simpa using hv
@[simp] theorem execCntrd_keepsMem (d : GReg) (n : BitVec 16) (s : State) : s.KeepsMem (execCntrd d n s) :=
  State.onFit_keepsMem fun i v hv => by dsimp only; (repeat' split) <;> simpa using hv

/-! Loads, stores, GET, PUT, atomics, fences, drains, barrier arrivals and watches at issue -/

@[simp] theorem execLd8_keepsMem (d a : GReg) (ord : Option Scope) (imm : BitVec 32) (s : State) :
    s.KeepsMem (execLd8 d a ord imm s) :=
  by simp [execLd8]
@[simp] theorem execLd16_keepsMem (d a : GReg) (ord : Option Scope) (imm : BitVec 32) (s : State) :
    s.KeepsMem (execLd16 d a ord imm s) :=
  by simp [execLd16]
@[simp] theorem execLd32_keepsMem (d a : GReg) (ord : Option Scope) (imm : BitVec 32) (s : State) :
    s.KeepsMem (execLd32 d a ord imm s) :=
  by simp [execLd32]
@[simp] theorem execLd64_keepsMem (d a : GReg) (ord : Option Scope) (imm : BitVec 32) (s : State) :
    s.KeepsMem (execLd64 d a ord imm s) :=
  by simp [execLd64]
@[simp] theorem execLdz8_keepsMem (d a : GReg) (ord : Option Scope) (imm : BitVec 32) (s : State) :
    s.KeepsMem (execLdz8 d a ord imm s) :=
  by simp [execLdz8]
@[simp] theorem execLdz16_keepsMem (d a : GReg) (ord : Option Scope) (imm : BitVec 32) (s : State) :
    s.KeepsMem (execLdz16 d a ord imm s) :=
  by simp [execLdz16]
@[simp] theorem execLdz32_keepsMem (d a : GReg) (ord : Option Scope) (imm : BitVec 32) (s : State) :
    s.KeepsMem (execLdz32 d a ord imm s) :=
  by simp [execLdz32]
@[simp] theorem execVld_keepsMem (d : VReg) (a : GReg) (ord : Option Scope) (imm : BitVec 32) (s : State) :
    s.KeepsMem (execVld d a ord imm s) :=
  by simp [execVld]
@[simp] theorem execSt8_keepsMem (a b : GReg) (ord : Option Scope) (imm : BitVec 32) (s : State) :
    s.KeepsMem (execSt8 a b ord imm s) :=
  by simp [execSt8]
@[simp] theorem execSt16_keepsMem (a b : GReg) (ord : Option Scope) (imm : BitVec 32) (s : State) :
    s.KeepsMem (execSt16 a b ord imm s) :=
  by simp [execSt16]
@[simp] theorem execSt32_keepsMem (a b : GReg) (ord : Option Scope) (imm : BitVec 32) (s : State) :
    s.KeepsMem (execSt32 a b ord imm s) :=
  by simp [execSt32]
@[simp] theorem execSt64_keepsMem (a b : GReg) (ord : Option Scope) (imm : BitVec 32) (s : State) :
    s.KeepsMem (execSt64 a b ord imm s) :=
  by simp [execSt64]
@[simp] theorem execVst_keepsMem (a : GReg) (b : VReg) (ord : Option Scope) (imm : BitVec 32) (s : State) :
    s.KeepsMem (execVst a b ord imm s) :=
  by simp [execVst]
@[simp] theorem execGet_keepsMem (d a b : GReg) (size : AccSize) (imm : BitVec 32) (s : State) :
    s.KeepsMem (execGet d a b size imm s) :=
  State.onFit_keepsMem fun i v hv => by dsimp only; (repeat' split) <;> simpa using hv
@[simp] theorem execPut_keepsMem (d a b : GReg) (size : AccSize) (ord : Option Scope) (imm : BitVec 32) (s : State) :
    s.KeepsMem (execPut d a b size ord imm s) :=
  State.onFit_keepsMem fun i v hv => by dsimp only; (repeat' split) <;> simpa using hv
@[simp] theorem execAadd_keepsMem (d a b : GReg) (wide : Bool) (ord : Option Scope) (imm : BitVec 32) (s : State) :
    s.KeepsMem (execAadd d a b wide ord imm s) :=
  by simp [execAadd]
@[simp] theorem execAfadd_keepsMem (d a b : GReg) (ord : Option Scope) (imm : BitVec 32) (s : State) :
    s.KeepsMem (execAfadd d a b ord imm s) :=
  by simp [execAfadd]
@[simp] theorem execAmin_keepsMem (d a b : GReg) (wide : Bool) (ord : Option Scope) (imm : BitVec 32) (s : State) :
    s.KeepsMem (execAmin d a b wide ord imm s) :=
  by simp [execAmin]
@[simp] theorem execAmax_keepsMem (d a b : GReg) (wide : Bool) (ord : Option Scope) (imm : BitVec 32) (s : State) :
    s.KeepsMem (execAmax d a b wide ord imm s) :=
  by simp [execAmax]
@[simp] theorem execAminn_keepsMem (d a b : GReg) (wide : Bool) (ord : Option Scope) (imm : BitVec 32) (s : State) :
    s.KeepsMem (execAminn d a b wide ord imm s) :=
  by simp [execAminn]
@[simp] theorem execAmaxn_keepsMem (d a b : GReg) (wide : Bool) (ord : Option Scope) (imm : BitVec 32) (s : State) :
    s.KeepsMem (execAmaxn d a b wide ord imm s) :=
  by simp [execAmaxn]
@[simp] theorem execAand_keepsMem (d a b : GReg) (wide : Bool) (ord : Option Scope) (imm : BitVec 32) (s : State) :
    s.KeepsMem (execAand d a b wide ord imm s) :=
  by simp [execAand]
@[simp] theorem execAor_keepsMem (d a b : GReg) (wide : Bool) (ord : Option Scope) (imm : BitVec 32) (s : State) :
    s.KeepsMem (execAor d a b wide ord imm s) :=
  by simp [execAor]
@[simp] theorem execAxor_keepsMem (d a b : GReg) (wide : Bool) (ord : Option Scope) (imm : BitVec 32) (s : State) :
    s.KeepsMem (execAxor d a b wide ord imm s) :=
  by simp [execAxor]
@[simp] theorem execAswap_keepsMem (d a b : GReg) (wide : Bool) (ord : Option Scope) (imm : BitVec 32) (s : State) :
    s.KeepsMem (execAswap d a b wide ord imm s) :=
  by simp [execAswap]
@[simp] theorem execAcas_keepsMem (d a b : GReg) (wide : Bool) (ord : Option Scope) (imm : BitVec 32) (s : State) :
    s.KeepsMem (execAcas d a b wide ord imm s) :=
  by simp [execAcas]
@[simp] theorem execAclaim_keepsMem (d a b : GReg) (wide : Bool) (ord : Option Scope) (imm : BitVec 32) (s : State) :
    s.KeepsMem (execAclaim d a b wide ord imm s) :=
  by simp [execAclaim]
@[simp] theorem execFence_keepsMem (scope : Scope) (s : State) : s.KeepsMem (execFence scope s) :=
  State.onFit_keepsMem fun i v hv => by simpa using hv
@[simp] theorem execXfence_keepsMem (p1 p2 : Path) (s : State) : s.KeepsMem (execXfence p1 p2 s) :=
  State.onFit_keepsMem fun i v hv => by simpa using hv
@[simp] theorem execDrain_keepsMem (p : Path) (a : GReg) (s : State) : s.KeepsMem (execDrain p a s) :=
  State.onFit_keepsMem fun i v hv => by dsimp only; (repeat' split) <;> simpa using hv
@[simp] theorem execBarrive_keepsMem (a b c : GReg) (hidx : BitVec 12) (scope : Scope) (n : BitVec 4) (s : State) :
    s.KeepsMem (execBarrive a b c hidx scope n s) :=
  State.onFit_keepsMem fun i v hv => by dsimp only; (repeat' split) <;> simpa using hv
@[simp] theorem execWatchRegister_keepsMem (d a b c : GReg) (hidx : BitVec 12) (s : State) :
    s.KeepsMem (execWatchRegister d a b c hidx s) :=
  State.onFit_keepsMem fun i v hv => by dsimp only; (repeat' split) <;> simpa using hv
@[simp] theorem execWatchCancel_keepsMem (d a b c : GReg) (hidx : BitVec 12) (s : State) :
    s.KeepsMem (execWatchCancel d a b c hidx s) :=
  State.onFit_keepsMem fun i v hv => by dsimp only; (repeat' split) <;> simpa using hv

/-! Messages, payload reads, tag groups, counters, rings and the weir at issue (06 R106 to R123) -/

@[simp] theorem execSend_keepsMem (d a b c : GReg) (hidx : BitVec 12) (norel : Bool) (s : State) :
    s.KeepsMem (execSend d a b c hidx norel s) :=
  State.onFit_keepsMem fun i v hv => by dsimp only; (repeat' split) <;> simpa using hv
@[simp] theorem execReply_keepsMem (a b c : GReg) (norel : Bool) (s : State) : s.KeepsMem (execReply a b c norel s) :=
  State.onFit_keepsMem fun i v hv => by dsimp only; (repeat' split) <;> simpa using hv
@[simp] theorem execSendm_keepsMem (d a b c : GReg) (hidx : BitVec 12) (norel : Bool) (mcnt : BitVec 7) (s : State) :
    s.KeepsMem (execSendm d a b c hidx norel mcnt s) := by
  refine State.onFit_keepsMem fun i v hv => ?_
  dsimp only
  split
  · simpa using hv
  · split
    · simpa using hv
    · rw [State.keepsMem_retireG]
      exact (State.foldl_mem _ (fun u e => by simp) _ _).trans hv
@[simp] theorem execPost_keepsMem (a b : GReg) (norel : Bool) (s : State) : s.KeepsMem (execPost a b norel s) :=
  State.onFit_keepsMem fun i v hv => by dsimp only; (repeat' split) <;> simpa using hv
@[simp] theorem execMsgld8_keepsMem (d a : GReg) (imm : BitVec 32) (s : State) : s.KeepsMem (execMsgld8 d a imm s) :=
  by simp [execMsgld8]
@[simp] theorem execMsgld16_keepsMem (d a : GReg) (imm : BitVec 32) (s : State) : s.KeepsMem (execMsgld16 d a imm s) :=
  by simp [execMsgld16]
@[simp] theorem execMsgld32_keepsMem (d a : GReg) (imm : BitVec 32) (s : State) : s.KeepsMem (execMsgld32 d a imm s) :=
  by simp [execMsgld32]
@[simp] theorem execMsgld64_keepsMem (d a : GReg) (imm : BitVec 32) (s : State) : s.KeepsMem (execMsgld64 d a imm s) :=
  by simp [execMsgld64]
@[simp] theorem execTagnew_keepsMem (d : GReg) (n : BitVec 4) (s : State) : s.KeepsMem (execTagnew d n s) :=
  State.onFit_keepsMem fun i v hv => by dsimp only; (repeat' split) <;> simpa using hv
@[simp] theorem execTagfree_keepsMem (a : GReg) (n : BitVec 4) (s : State) : s.KeepsMem (execTagfree a n s) :=
  State.onFit_keepsMem fun i v hv => by dsimp only; (repeat' split) <;> simpa using hv
@[simp] theorem execArm_keepsMem (d a b c : GReg) (hidx : BitVec 12) (act : Bool) (prio : BitVec 2) (s : State) :
    s.KeepsMem (execArm d a b c hidx act prio s) :=
  State.onFit_keepsMem fun i v hv => by dsimp only; (repeat' split) <;> simpa using hv
@[simp] theorem execQpush_keepsMem (d : GReg) (a : XReg) (b : GReg) (s : State) : s.KeepsMem (execQpush d a b s) :=
  by simp [execQpush]
@[simp] theorem execQpop_keepsMem (d : GReg) (a : XReg) (s : State) : s.KeepsMem (execQpop d a s) := by simp [execQpop]
@[simp] theorem execQadv_keepsMem (d : GReg) (a : XReg) (b : GReg) (s : State) : s.KeepsMem (execQadv d a b s) :=
  by simp [execQadv]
@[simp] theorem execWput_keepsMem (a b c : GReg) (s : State) : s.KeepsMem (execWput a b c s) :=
  State.onFit_keepsMem fun i v hv => by dsimp only; (repeat' split) <;> simpa using hv
@[simp] theorem execWtakeFirst_keepsMem (d a : GReg) (s : State) : s.KeepsMem (execWtakeFirst d a s) :=
  by simp [execWtakeFirst]
@[simp] theorem execWtakeStatus_keepsMem (d a : GReg) (s : State) : s.KeepsMem (execWtakeStatus d a s) :=
  by simp [execWtakeStatus]
@[simp] theorem execWtakeEmpty_keepsMem (d a : GReg) (s : State) : s.KeepsMem (execWtakeEmpty d a s) :=
  by simp [execWtakeEmpty]

/-! Scalar arithmetic, logic, compares, counts, bit fields, CRC, the generator, register reads and -/

@[simp] theorem execAdd_keepsMem (d a b : GReg) (s : State) : s.KeepsMem (execAdd d a b s) := by simp [execAdd]
@[simp] theorem execSub_keepsMem (d a b : GReg) (s : State) : s.KeepsMem (execSub d a b s) := by simp [execSub]
@[simp] theorem execMul_keepsMem (d a b : GReg) (s : State) : s.KeepsMem (execMul d a b s) := by simp [execMul]
@[simp] theorem execMulh_keepsMem (d a b : GReg) (s : State) : s.KeepsMem (execMulh d a b s) := by simp [execMulh]
@[simp] theorem execMulhn_keepsMem (d a b : GReg) (s : State) : s.KeepsMem (execMulhn d a b s) := by simp [execMulhn]
@[simp] theorem execDiv_keepsMem (d a b : GReg) (s : State) : s.KeepsMem (execDiv d a b s) := by simp [execDiv]
@[simp] theorem execDivn_keepsMem (d a b : GReg) (s : State) : s.KeepsMem (execDivn d a b s) := by simp [execDivn]
@[simp] theorem execRem_keepsMem (d a b : GReg) (s : State) : s.KeepsMem (execRem d a b s) := by simp [execRem]
@[simp] theorem execRemn_keepsMem (d a b : GReg) (s : State) : s.KeepsMem (execRemn d a b s) := by simp [execRemn]
@[simp] theorem execAnd_keepsMem (d a b : GReg) (s : State) : s.KeepsMem (execAnd d a b s) := by simp [execAnd]
@[simp] theorem execOr_keepsMem (d a b : GReg) (s : State) : s.KeepsMem (execOr d a b s) := by simp [execOr]
@[simp] theorem execXor_keepsMem (d a b : GReg) (s : State) : s.KeepsMem (execXor d a b s) := by simp [execXor]
@[simp] theorem execAndn_keepsMem (d a b : GReg) (s : State) : s.KeepsMem (execAndn d a b s) := by simp [execAndn]
@[simp] theorem execSll_keepsMem (d a b : GReg) (s : State) : s.KeepsMem (execSll d a b s) := by simp [execSll]
@[simp] theorem execSrl_keepsMem (d a b : GReg) (s : State) : s.KeepsMem (execSrl d a b s) := by simp [execSrl]
@[simp] theorem execSra_keepsMem (d a b : GReg) (s : State) : s.KeepsMem (execSra d a b s) := by simp [execSra]
@[simp] theorem execRol_keepsMem (d a b : GReg) (s : State) : s.KeepsMem (execRol d a b s) := by simp [execRol]
@[simp] theorem execRor_keepsMem (d a b : GReg) (s : State) : s.KeepsMem (execRor d a b s) := by simp [execRor]
@[simp] theorem execMin_keepsMem (d a b : GReg) (s : State) : s.KeepsMem (execMin d a b s) := by simp [execMin]
@[simp] theorem execMax_keepsMem (d a b : GReg) (s : State) : s.KeepsMem (execMax d a b s) := by simp [execMax]
@[simp] theorem execMinn_keepsMem (d a b : GReg) (s : State) : s.KeepsMem (execMinn d a b s) := by simp [execMinn]
@[simp] theorem execMaxn_keepsMem (d a b : GReg) (s : State) : s.KeepsMem (execMaxn d a b s) := by simp [execMaxn]
@[simp] theorem execAdds_keepsMem (d a b : GReg) (s : State) : s.KeepsMem (execAdds d a b s) := by simp [execAdds]
@[simp] theorem execSubs_keepsMem (d a b : GReg) (s : State) : s.KeepsMem (execSubs d a b s) := by simp [execSubs]
@[simp] theorem execCmpeq_keepsMem (d a b : GReg) (s : State) : s.KeepsMem (execCmpeq d a b s) := by simp [execCmpeq]
@[simp] theorem execCmpne_keepsMem (d a b : GReg) (s : State) : s.KeepsMem (execCmpne d a b s) := by simp [execCmpne]
@[simp] theorem execCmplt_keepsMem (d a b : GReg) (s : State) : s.KeepsMem (execCmplt d a b s) := by simp [execCmplt]
@[simp] theorem execCmple_keepsMem (d a b : GReg) (s : State) : s.KeepsMem (execCmple d a b s) := by simp [execCmple]
@[simp] theorem execCmpltn_keepsMem (d a b : GReg) (s : State) : s.KeepsMem (execCmpltn d a b s) := by simp [execCmpltn]
@[simp] theorem execCmplen_keepsMem (d a b : GReg) (s : State) : s.KeepsMem (execCmplen d a b s) := by simp [execCmplen]
@[simp] theorem execSel_keepsMem (d a b c : GReg) (s : State) : s.KeepsMem (execSel d a b c s) := by simp [execSel]
@[simp] theorem execClz_keepsMem (d a : GReg) (s : State) : s.KeepsMem (execClz d a s) := by simp [execClz]
@[simp] theorem execCtz_keepsMem (d a : GReg) (s : State) : s.KeepsMem (execCtz d a s) := by simp [execCtz]
@[simp] theorem execPopc_keepsMem (d a : GReg) (s : State) : s.KeepsMem (execPopc d a s) := by simp [execPopc]
@[simp] theorem execBrev_keepsMem (d a : GReg) (s : State) : s.KeepsMem (execBrev d a s) := by simp [execBrev]
@[simp] theorem execBswap_keepsMem (d a : GReg) (s : State) : s.KeepsMem (execBswap d a s) := by simp [execBswap]
@[simp] theorem execBext_keepsMem (d a : GReg) (pos wm1 : BitVec 6) (s : State) : s.KeepsMem (execBext d a pos wm1 s) :=
  by simp [execBext]
@[simp] theorem execBextz_keepsMem (d a : GReg) (pos wm1 : BitVec 6) (s : State) : s.KeepsMem (execBextz d a pos wm1 s) :=
  by simp [execBextz]
@[simp] theorem execBins_keepsMem (d a : GReg) (pos wm1 : BitVec 6) (s : State) : s.KeepsMem (execBins d a pos wm1 s) :=
  by simp [execBins]
@[simp] theorem execCrcc8_keepsMem (d a b : GReg) (s : State) : s.KeepsMem (execCrcc8 d a b s) := by simp [execCrcc8]
@[simp] theorem execCrcc16_keepsMem (d a b : GReg) (s : State) : s.KeepsMem (execCrcc16 d a b s) := by simp [execCrcc16]
@[simp] theorem execCrcc32_keepsMem (d a b : GReg) (s : State) : s.KeepsMem (execCrcc32 d a b s) := by simp [execCrcc32]
@[simp] theorem execCrcc64_keepsMem (d a b : GReg) (s : State) : s.KeepsMem (execCrcc64 d a b s) := by simp [execCrcc64]
@[simp] theorem execRng_keepsMem (d a b : GReg) (s : State) : s.KeepsMem (execRng d a b s) := by simp [execRng]
@[simp] theorem execRngf_keepsMem (d a b : GReg) (s : State) : s.KeepsMem (execRngf d a b s) := by simp [execRngf]
@[simp] theorem execAddi_keepsMem (d a : GReg) (imm : BitVec 32) (s : State) : s.KeepsMem (execAddi d a imm s) :=
  by simp [execAddi]
@[simp] theorem execAndi_keepsMem (d a : GReg) (imm : BitVec 32) (s : State) : s.KeepsMem (execAndi d a imm s) :=
  by simp [execAndi]
@[simp] theorem execOri_keepsMem (d a : GReg) (imm : BitVec 32) (s : State) : s.KeepsMem (execOri d a imm s) :=
  by simp [execOri]
@[simp] theorem execXori_keepsMem (d a : GReg) (imm : BitVec 32) (s : State) : s.KeepsMem (execXori d a imm s) :=
  by simp [execXori]
@[simp] theorem execSlli_keepsMem (d a : GReg) (sh : BitVec 6) (s : State) : s.KeepsMem (execSlli d a sh s) :=
  by simp [execSlli]
@[simp] theorem execSrli_keepsMem (d a : GReg) (sh : BitVec 6) (s : State) : s.KeepsMem (execSrli d a sh s) :=
  by simp [execSrli]
@[simp] theorem execSrai_keepsMem (d a : GReg) (sh : BitVec 6) (s : State) : s.KeepsMem (execSrai d a sh s) :=
  by simp [execSrai]
@[simp] theorem execMuli_keepsMem (d a : GReg) (imm : BitVec 32) (s : State) : s.KeepsMem (execMuli d a imm s) :=
  by simp [execMuli]
@[simp] theorem execCmpeqi_keepsMem (d a : GReg) (imm : BitVec 32) (s : State) : s.KeepsMem (execCmpeqi d a imm s) :=
  by simp [execCmpeqi]
@[simp] theorem execCmplti_keepsMem (d a : GReg) (imm : BitVec 32) (s : State) : s.KeepsMem (execCmplti d a imm s) :=
  by simp [execCmplti]
@[simp] theorem execCmpltni_keepsMem (d a : GReg) (imm : BitVec 32) (s : State) : s.KeepsMem (execCmpltni d a imm s) :=
  by simp [execCmpltni]
@[simp] theorem execMini_keepsMem (d a : GReg) (imm : BitVec 32) (s : State) : s.KeepsMem (execMini d a imm s) :=
  by simp [execMini]
@[simp] theorem execMaxi_keepsMem (d a : GReg) (imm : BitVec 32) (s : State) : s.KeepsMem (execMaxi d a imm s) :=
  by simp [execMaxi]
@[simp] theorem execLi_keepsMem (d : GReg) (imm : BitVec 32) (s : State) : s.KeepsMem (execLi d imm s) := by simp [execLi]
@[simp] theorem execLih_keepsMem (d : GReg) (imm : BitVec 32) (s : State) : s.KeepsMem (execLih d imm s) :=
  by simp [execLih]
@[simp] theorem execMfm_keepsMem (d : GReg) (a : XReg) (s : State) : s.KeepsMem (execMfm d a s) := by simp [execMfm]
@[simp] theorem execMfl_keepsMem (d : GReg) (s : State) : s.KeepsMem (execMfl d s) := by simp [execMfl]
@[simp] theorem execMfq_keepsMem (d : GReg) (a : XReg) (s : State) : s.KeepsMem (execMfq d a s) := by simp [execMfq]
@[simp] theorem execLa_keepsMem (d a : GReg) (imm : BitVec 32) (s : State) : s.KeepsMem (execLa d a imm s) :=
  by simp [execLa]
@[simp] theorem execIdx_keepsMem (d a b : GReg) (sh : BitVec 6) (s : State) : s.KeepsMem (execIdx d a b sh s) :=
  by simp [execIdx]

/-! The barn journal -/

@[simp] theorem execJrec_keepsMem (d a b c : GReg) (s : State) : s.KeepsMem (execJrec d a b c s) :=
  State.onFit_keepsMem fun i v hv => by dsimp only; (repeat' split) <;> simpa using hv
@[simp] theorem execJrecHubApply_keepsMem (id : Nat) (s : State) : s.KeepsMem (execJrecHubApply id s) := by
  unfold execJrecHubApply
  (repeat' split)
  · next h => simpa using State.journalDo_mem h
  all_goals exact State.keepsMem_idle s _
@[simp] theorem execJemit_keepsMem (d a b c : GReg) (s : State) : s.KeepsMem (execJemit d a b c s) :=
  State.onFit_keepsMem fun i v hv => by dsimp only; (repeat' split) <;> simpa using hv
@[simp] theorem execEmissionGate_keepsMem (id : Nat) (s : State) : s.KeepsMem (execEmissionGate id s) := by
  unfold execEmissionGate
  dsimp only
  (repeat' split) <;> simp
@[simp] theorem execJckpt_keepsMem (d a b : GReg) (s : State) : s.KeepsMem (execJckpt d a b s) :=
  State.onFit_keepsMem fun i v hv => by simpa using hv
@[simp] theorem execJtruncCheckpoint_keepsMem (d a : GReg) (s : State) : s.KeepsMem (execJtruncCheckpoint d a s) :=
  State.onFit_keepsMem fun i v hv => by dsimp only; (repeat' split) <;> simpa using hv
@[simp] theorem execJtruncClose_keepsMem (d a : GReg) (s : State) : s.KeepsMem (execJtruncClose d a s) :=
  State.onFit_keepsMem fun i v hv => by dsimp only; (repeat' split) <;> simpa using hv
@[simp] theorem execBarnAck_keepsMem (c : Nat) (seq step : BitVec 32) (marker : Bool) (s : State) :
    s.KeepsMem (execBarnAck c seq step marker s) := by
  unfold execBarnAck
  (repeat' split) <;> simp
@[simp] theorem execBarnEntryReceive_keepsMem (slot : Nat) (e : BarnEntry) (s : State) :
    s.KeepsMem (execBarnEntryReceive slot e s) := by
  unfold execBarnEntryReceive
  (repeat' split) <;> simp
@[simp] theorem execBarnReadRequest_keepsMem (client : Nat) (s : State) : s.KeepsMem (execBarnReadRequest client s) := by
  unfold execBarnReadRequest
  (repeat' split) <;> simp

/-! What owners do with requests (05 R95, R96, R104; 06 R120, R121; 12 R239, R240; 18 R313) and what the -/

@[simp] theorem execPageFaultReply_keepsMem (id : Nat) (s : State) : s.KeepsMem (execPageFaultReply id s) := by
  unfold execPageFaultReply
  dsimp only
  (repeat' split) <;> simp
@[simp] theorem execOrderQueueRelease_keepsMem (id : Nat) (s : State) : s.KeepsMem (execOrderQueueRelease id s) := by
  unfold execOrderQueueRelease
  dsimp only
  (repeat' split) <;> simp

/-! The TLB slices (17 R296 to R303) -/

@[simp] theorem execTlbSliceLookup_keepsMem (id : Nat) (s : State) : s.KeepsMem (execTlbSliceLookup id s) := by
  unfold execTlbSliceLookup
  dsimp only
  (repeat' split) <;> simp
@[simp] theorem execPageWalkRead_keepsMem (id : Nat) (s : State) : s.KeepsMem (execPageWalkRead id s) := by
  unfold execPageWalkRead
  split
  · split
    · dsimp only
      split
      · simp
      all_goals exact (State.keepsMem_next _ _).2 (State.foldl_mem _ (fun u y => by split <;> simp) _ _)
    · exact State.keepsMem_idle s _
  · exact State.keepsMem_idle s _
@[simp] theorem execPageFaultRewalk_keepsMem (id : Nat) (s : State) : s.KeepsMem (execPageFaultRewalk id s) := by
  unfold execPageFaultRewalk
  dsimp only
  (repeat' split) <;> simp
@[simp] theorem execTlbRetry_keepsMem (id : Nat) (s : State) : s.KeepsMem (execTlbRetry id s) := by
  unfold execTlbRetry
  dsimp only
  (repeat' split) <;> simp

/-! The two networks of the package (11 R225 to R236), the die-to-die links (11 R229, 21 R358), the -/

@[simp] theorem execQuadRouterForward_keepsMem (id : Nat) (way : RouteWay) (s : State) :
    s.KeepsMem (execQuadRouterForward id way s) := by
  unfold execQuadRouterForward
  dsimp only
  (repeat' split) <;> simp
@[simp] theorem execD2dFrameReceive_keepsMem (link : Nat) (crcOk : Bool) (s : State) :
    s.KeepsMem (execD2dFrameReceive link crcOk s) := by
  unfold execD2dFrameReceive
  (repeat' split) <;> simp
@[simp] theorem execLinkHalfRate_keepsMem (link : Nat) (s : State) : s.KeepsMem (execLinkHalfRate link s) := by
  unfold execLinkHalfRate
  dsimp only
  (repeat' split) <;> simp
@[simp] theorem execRemoteTableEntry_keepsMem (id : Nat) (s : State) : s.KeepsMem (execRemoteTableEntry id s) := by
  unfold execRemoteTableEntry
  dsimp only
  (repeat' split) <;> simp
@[simp] theorem execDruntasyFrameReceive_keepsMem (port : Nat) (f : Frame) (s : State) :
    s.KeepsMem (execDruntasyFrameReceive port f s) := by
  have hin : ∀ (l : List PeerUnit) (u : State), (l.foldl (fun s x => s.arriveUnit port x) u).mem = u.mem :=
    State.foldl_mem _ fun u x => State.arriveUnit_mem u port x
  unfold execDruntasyFrameReceive
  dsimp only
  (repeat' split) <;> simp [hin]
@[simp] theorem execHeartbeatFrame_keepsMem (port : Nat) (s : State) : s.KeepsMem (execHeartbeatFrame port s) := by
  unfold execHeartbeatFrame
  (repeat' split) <;> simp
@[simp] theorem execPortDown_keepsMem (port : Nat) (s : State) : s.KeepsMem (execPortDown port s) := by
  unfold execPortDown
  (repeat' split) <;> simp
@[simp] theorem execDruntasyPortUp_keepsMem (port : Nat) (s : State) : s.KeepsMem (execDruntasyPortUp port s) := by
  unfold execDruntasyPortUp
  dsimp only
  (repeat' split) <;> simp
@[simp] theorem execPortDownFor24Hours_keepsMem (port : Nat) (s : State) :
    s.KeepsMem (execPortDownFor24Hours port s) := by
  unfold execPortDownFor24Hours
  dsimp only
  (repeat' split) <;> simp
@[simp] theorem execGetVersion_keepsMem (port : Nat) (s : State) : s.KeepsMem (execGetVersion port s) :=
  by simp [execGetVersion]
@[simp] theorem execGetCapabilities_keepsMem (port : Nat) (s : State) : s.KeepsMem (execGetCapabilities port s) :=
  by simp [execGetCapabilities]
@[simp] theorem execNegotiateAlgorithms_keepsMem (port : Nat) (s : State) : s.KeepsMem (execNegotiateAlgorithms port s) :=
  by simp [execNegotiateAlgorithms]
@[simp] theorem execGetDigests_keepsMem (port : Nat) (s : State) : s.KeepsMem (execGetDigests port s) :=
  by simp [execGetDigests]
@[simp] theorem execGetCertificate_keepsMem (port : Nat) (s : State) : s.KeepsMem (execGetCertificate port s) :=
  by simp [execGetCertificate]
@[simp] theorem execKeyExchange_keepsMem (port : Nat) (s : State) : s.KeepsMem (execKeyExchange port s) :=
  by simp [execKeyExchange]
@[simp] theorem execFinish_keepsMem (port : Nat) (s : State) : s.KeepsMem (execFinish port s) := by
  unfold execFinish
  dsimp only
  (repeat' split) <;> simp
@[simp] theorem execRekey_keepsMem (port : Nat) (s : State) : s.KeepsMem (execRekey port s) := by
  unfold execRekey
  dsimp only
  (repeat' split) <;> simp
@[simp] theorem execKeyUpdate_keepsMem (port : Nat) (s : State) : s.KeepsMem (execKeyUpdate port s) := by
  unfold execKeyUpdate
  dsimp only
  (repeat' split) <;> simp
@[simp] theorem execBankReady_keepsMem (port : Nat) (s : State) : s.KeepsMem (execBankReady port s) := by
  unfold execBankReady
  dsimp only
  (repeat' split) <;> simp
@[simp] theorem execBankRetired_keepsMem (port : Nat) (s : State) : s.KeepsMem (execBankRetired port s) := by
  unfold execBankRetired
  dsimp only
  (repeat' split) <;> simp
@[simp] theorem execHeartbeat_keepsMem (port : Nat) (s : State) : s.KeepsMem (execHeartbeat port s) :=
  by simp [execHeartbeat]
@[simp] theorem execEndSession_keepsMem (port : Nat) (s : State) : s.KeepsMem (execEndSession port s) := by
  unfold execEndSession
  dsimp only
  (repeat' split) <;> simp
@[simp] theorem execBankFcntLimit_keepsMem (port : Nat) (s : State) : s.KeepsMem (execBankFcntLimit port s) := by
  unfold execBankFcntLimit
  dsimp only
  (repeat' split) <;> simp

/-! Vector instructions (07 R129 to R154) -/

@[simp] theorem execVectorComplete_keepsMem (p sl n : Nat) (s : State) : s.KeepsMem (execVectorComplete p sl n s) := by
  unfold execVectorComplete
  dsimp only
  (repeat' split) <;> simp
@[simp] theorem execVadd_keepsMem (d a b : VReg) (m : VMask) (f : Fmt) (r : Rnd) (s : State) :
    s.KeepsMem (execVadd d a b m f r s) :=
  by simp [execVadd]
@[simp] theorem execVsub_keepsMem (d a b : VReg) (m : VMask) (f : Fmt) (r : Rnd) (s : State) :
    s.KeepsMem (execVsub d a b m f r s) :=
  by simp [execVsub]
@[simp] theorem execVmul_keepsMem (d a b : VReg) (m : VMask) (f : Fmt) (r : Rnd) (s : State) :
    s.KeepsMem (execVmul d a b m f r s) :=
  by simp [execVmul]
@[simp] theorem execVdiv_keepsMem (d a b : VReg) (m : VMask) (f : Fmt) (r : Rnd) (s : State) :
    s.KeepsMem (execVdiv d a b m f r s) :=
  by simp [execVdiv]
@[simp] theorem execVmin_keepsMem (d a b : VReg) (m : VMask) (f : Fmt) (r : Rnd) (s : State) :
    s.KeepsMem (execVmin d a b m f r s) :=
  by simp [execVmin]
@[simp] theorem execVmax_keepsMem (d a b : VReg) (m : VMask) (f : Fmt) (r : Rnd) (s : State) :
    s.KeepsMem (execVmax d a b m f r s) :=
  by simp [execVmax]
@[simp] theorem execVabs_keepsMem (d a : VReg) (m : VMask) (f : Fmt) (r : Rnd) (s : State) :
    s.KeepsMem (execVabs d a m f r s) :=
  by simp [execVabs]
@[simp] theorem execVneg_keepsMem (d a : VReg) (m : VMask) (f : Fmt) (r : Rnd) (s : State) :
    s.KeepsMem (execVneg d a m f r s) :=
  by simp [execVneg]
@[simp] theorem execVsqrt_keepsMem (d a : VReg) (m : VMask) (f : Fmt) (r : Rnd) (s : State) :
    s.KeepsMem (execVsqrt d a m f r s) :=
  by simp [execVsqrt]
@[simp] theorem execVand_keepsMem (d a b : VReg) (m : VMask) (s : State) : s.KeepsMem (execVand d a b m s) :=
  by simp [execVand]
@[simp] theorem execVor_keepsMem (d a b : VReg) (m : VMask) (s : State) : s.KeepsMem (execVor d a b m s) :=
  by simp [execVor]
@[simp] theorem execVxor_keepsMem (d a b : VReg) (m : VMask) (s : State) : s.KeepsMem (execVxor d a b m s) :=
  by simp [execVxor]
@[simp] theorem execVsll_keepsMem (d a b : VReg) (m : VMask) (f : Fmt) (s : State) : s.KeepsMem (execVsll d a b m f s) :=
  by simp [execVsll]
@[simp] theorem execVsrl_keepsMem (d a b : VReg) (m : VMask) (f : Fmt) (s : State) : s.KeepsMem (execVsrl d a b m f s) :=
  by simp [execVsrl]
@[simp] theorem execVsra_keepsMem (d a b : VReg) (m : VMask) (f : Fmt) (s : State) : s.KeepsMem (execVsra d a b m f s) :=
  by simp [execVsra]
@[simp] theorem execVfma_keepsMem (d a b c : VReg) (m : VMask) (f : Fmt) (r : Rnd) (s : State) :
    s.KeepsMem (execVfma d a b c m f r s) :=
  by simp [execVfma]
@[simp] theorem execVfms_keepsMem (d a b c : VReg) (m : VMask) (f : Fmt) (r : Rnd) (s : State) :
    s.KeepsMem (execVfms d a b c m f r s) :=
  by simp [execVfms]
@[simp] theorem execVfnma_keepsMem (d a b c : VReg) (m : VMask) (f : Fmt) (r : Rnd) (s : State) :
    s.KeepsMem (execVfnma d a b c m f r s) :=
  by simp [execVfnma]
@[simp] theorem execVfnms_keepsMem (d a b c : VReg) (m : VMask) (f : Fmt) (r : Rnd) (s : State) :
    s.KeepsMem (execVfnms d a b c m f r s) :=
  by simp [execVfnms]
@[simp] theorem execVcmpeq_keepsMem (d : KReg) (a b : VReg) (m : VMask) (f : Fmt) (md : RMode) (s : State) :
    s.KeepsMem (execVcmpeq d a b m f md s) :=
  by simp [execVcmpeq]
@[simp] theorem execVcmpne_keepsMem (d : KReg) (a b : VReg) (m : VMask) (f : Fmt) (md : RMode) (s : State) :
    s.KeepsMem (execVcmpne d a b m f md s) :=
  by simp [execVcmpne]
@[simp] theorem execVcmplt_keepsMem (d : KReg) (a b : VReg) (m : VMask) (f : Fmt) (md : RMode) (s : State) :
    s.KeepsMem (execVcmplt d a b m f md s) :=
  by simp [execVcmplt]
@[simp] theorem execVcmple_keepsMem (d : KReg) (a b : VReg) (m : VMask) (f : Fmt) (md : RMode) (s : State) :
    s.KeepsMem (execVcmple d a b m f md s) :=
  by simp [execVcmple]
@[simp] theorem execVcmpun_keepsMem (d : KReg) (a b : VReg) (m : VMask) (f : Fmt) (md : RMode) (s : State) :
    s.KeepsMem (execVcmpun d a b m f md s) :=
  by simp [execVcmpun]
@[simp] theorem execVsel_keepsMem (d a b : VReg) (m : VMask) (s : State) : s.KeepsMem (execVsel d a b m s) :=
  by simp [execVsel]
@[simp] theorem execVperm_keepsMem (d a b : VReg) (m : VMask) (f : Fmt) (md : RMode) (s : State) :
    s.KeepsMem (execVperm d a b m f md s) :=
  by simp [execVperm]
@[simp] theorem execVbcast_keepsMem (d : VReg) (a : GReg) (m : VMask) (f : Fmt) (md : RMode) (s : State) :
    s.KeepsMem (execVbcast d a m f md s) :=
  by simp [execVbcast]
@[simp] theorem execVslide_keepsMem (d a b c : VReg) (m : VMask) (f : Fmt) (md : RMode) (s : State) :
    s.KeepsMem (execVslide d a b c m f md s) :=
  by simp [execVslide]
@[simp] theorem execVzip_keepsMem (d a b : VReg) (m : VMask) (f : Fmt) (md : RMode) (s : State) :
    s.KeepsMem (execVzip d a b m f md s) :=
  by simp [execVzip]
@[simp] theorem execVunzip_keepsMem (d a b : VReg) (m : VMask) (f : Fmt) (md : RMode) (s : State) :
    s.KeepsMem (execVunzip d a b m f md s) :=
  by simp [execVunzip]
@[simp] theorem execVins_keepsMem (d a : VReg) (b : GReg) (m : VMask) (f : Fmt) (md : RMode) (s : State) :
    s.KeepsMem (execVins d a b m f md s) :=
  by simp [execVins]
@[simp] theorem execVext_keepsMem (d : GReg) (a : VReg) (m : VMask) (f : Fmt) (md : RMode) (s : State) :
    s.KeepsMem (execVext d a m f md s) :=
  by simp [execVext]
@[simp] theorem execVcvt_keepsMem (d a : VReg) (m : VMask) (dst src : Fmt) (r : Rnd) (s : State) :
    s.KeepsMem (execVcvt d a m dst src r s) :=
  by simp [execVcvt]
@[simp] theorem execQuant_keepsMem (d a b : VReg) (m : VMask) (f : Fmt) (r : Rnd) (s : State) :
    s.KeepsMem (execQuant d a b m f r s) :=
  by simp [execQuant]
@[simp] theorem execDequant_keepsMem (d a b : VReg) (m : VMask) (f : Fmt) (r : Rnd) (s : State) :
    s.KeepsMem (execDequant d a b m f r s) :=
  by simp [execDequant]
@[simp] theorem execDequantChannel_keepsMem (d b : VReg) (m : VMask) (r : Rnd) (s : State) :
    s.KeepsMem (execDequantChannel d b m r s) :=
  by simp [execDequantChannel]
@[simp] theorem execVredadd_keepsMem (d a : VReg) (m : VMask) (f : Fmt) (r : Rnd) (s : State) :
    s.KeepsMem (execVredadd d a m f r s) :=
  by simp [execVredadd]
@[simp] theorem execVredmin_keepsMem (d a : VReg) (m : VMask) (f : Fmt) (r : Rnd) (s : State) :
    s.KeepsMem (execVredmin d a m f r s) :=
  by simp [execVredmin]
@[simp] theorem execVredmax_keepsMem (d a : VReg) (m : VMask) (f : Fmt) (r : Rnd) (s : State) :
    s.KeepsMem (execVredmax d a m f r s) :=
  by simp [execVredmax]
@[simp] theorem execVscanadd_keepsMem (d a : VReg) (m : VMask) (f : Fmt) (r : Rnd) (s : State) :
    s.KeepsMem (execVscanadd d a m f r s) :=
  by simp [execVscanadd]
@[simp] theorem execVscanmin_keepsMem (d a : VReg) (m : VMask) (f : Fmt) (r : Rnd) (s : State) :
    s.KeepsMem (execVscanmin d a m f r s) :=
  by simp [execVscanmin]
@[simp] theorem execVscanmax_keepsMem (d a : VReg) (m : VMask) (f : Fmt) (r : Rnd) (s : State) :
    s.KeepsMem (execVscanmax d a m f r s) :=
  by simp [execVscanmax]
@[simp] theorem execVexp2_keepsMem (d a : VReg) (m : VMask) (f : Fmt) (sat : Bool) (s : State) :
    s.KeepsMem (execVexp2 d a m f sat s) :=
  by simp [execVexp2]
@[simp] theorem execVlog2_keepsMem (d a : VReg) (m : VMask) (f : Fmt) (sat : Bool) (s : State) :
    s.KeepsMem (execVlog2 d a m f sat s) :=
  by simp [execVlog2]
@[simp] theorem execVrcp_keepsMem (d a : VReg) (m : VMask) (f : Fmt) (sat : Bool) (s : State) :
    s.KeepsMem (execVrcp d a m f sat s) :=
  by simp [execVrcp]
@[simp] theorem execVrsqrt_keepsMem (d a : VReg) (m : VMask) (f : Fmt) (sat : Bool) (s : State) :
    s.KeepsMem (execVrsqrt d a m f sat s) :=
  by simp [execVrsqrt]
@[simp] theorem execVsin_keepsMem (d a : VReg) (m : VMask) (f : Fmt) (sat : Bool) (s : State) :
    s.KeepsMem (execVsin d a m f sat s) :=
  by simp [execVsin]
@[simp] theorem execVcos_keepsMem (d a : VReg) (m : VMask) (f : Fmt) (sat : Bool) (s : State) :
    s.KeepsMem (execVcos d a m f sat s) :=
  by simp [execVcos]
@[simp] theorem execVtanh_keepsMem (d a : VReg) (m : VMask) (f : Fmt) (sat : Bool) (s : State) :
    s.KeepsMem (execVtanh d a m f sat s) :=
  by simp [execVtanh]
@[simp] theorem execVsigm_keepsMem (d a : VReg) (m : VMask) (f : Fmt) (sat : Bool) (s : State) :
    s.KeepsMem (execVsigm d a m f sat s) :=
  by simp [execVsigm]
@[simp] theorem execVexp_keepsMem (d a : VReg) (m : VMask) (f : Fmt) (sat : Bool) (s : State) :
    s.KeepsMem (execVexp d a m f sat s) :=
  by simp [execVexp]
@[simp] theorem execVpacknz_keepsMem (d a b : VReg) (m : VMask) (f : Fmt) (md : RMode) (s : State) :
    s.KeepsMem (execVpacknz d a b m f md s) :=
  by simp [execVpacknz]
@[simp] theorem execVargmax_keepsMem (d a : VReg) (m : VMask) (md : RMode) (s : State) :
    s.KeepsMem (execVargmax d a m md s) :=
  by simp [execVargmax]
@[simp] theorem execVtopk_keepsMem (d a b c : VReg) (m : VMask) (md : RMode) (s : State) :
    s.KeepsMem (execVtopk d a b c m md s) :=
  by simp [execVtopk]
@[simp] theorem execKand_keepsMem (d a b : KReg) (s : State) : s.KeepsMem (execKand d a b s) := by simp [execKand]
@[simp] theorem execKor_keepsMem (d a b : KReg) (s : State) : s.KeepsMem (execKor d a b s) := by simp [execKor]
@[simp] theorem execKxor_keepsMem (d a b : KReg) (s : State) : s.KeepsMem (execKxor d a b s) := by simp [execKxor]
@[simp] theorem execKnot_keepsMem (d a : KReg) (s : State) : s.KeepsMem (execKnot d a s) := by simp [execKnot]
@[simp] theorem execKmov_keepsMem (d : KReg) (a : GReg) (s : State) : s.KeepsMem (execKmov d a s) := by simp [execKmov]
@[simp] theorem execKrd_keepsMem (d : GReg) (a : KReg) (s : State) : s.KeepsMem (execKrd d a s) := by simp [execKrd]
@[simp] theorem execKpopc_keepsMem (d : GReg) (a : KReg) (s : State) : s.KeepsMem (execKpopc d a s) := by simp [execKpopc]

/-! Descriptors and DLD (08 R155, R156), the accesses that engines make (08 R160, R166, R173; 17 R299, -/

@[simp] theorem execDld_keepsMem (d : XReg) (a : GReg) (ord : Option Scope) (imm : BitVec 32) (s : State) :
    s.KeepsMem (execDld d a ord imm s) :=
  by simp [execDld]
@[simp] theorem execWbload_keepsMem (d : GReg) (a : XReg) (s : State) : s.KeepsMem (execWbload d a s) :=
  State.onDesc_keepsMem fun i v x hv => by dsimp only; (repeat' split) <;> simpa using hv
@[simp] theorem execWbpin_keepsMem (d : GReg) (a : XReg) (s : State) : s.KeepsMem (execWbpin d a s) :=
  State.onDesc_keepsMem fun i v x hv => by dsimp only; (repeat' split) <;> simpa using hv
@[simp] theorem execWbunpin_keepsMem (d : GReg) (a : XReg) (s : State) : s.KeepsMem (execWbunpin d a s) :=
  State.onDesc_keepsMem fun i v x hv => by dsimp only; (repeat' split) <;> simpa using hv
@[simp] theorem execWbevict_keepsMem (d : GReg) (a : XReg) (s : State) : s.KeepsMem (execWbevict d a s) :=
  State.onDesc_keepsMem fun i v x hv => by dsimp only; (repeat' split) <;> simpa using hv
@[simp] theorem execWbEntryFree_keepsMem (q e : Nat) (s : State) : s.KeepsMem (execWbEntryFree q e s) := by
  unfold execWbEntryFree
  dsimp only
  (repeat' split) <;> simp

/-! The spring (09 R194 to R196, R201, R202) -/

@[simp] theorem execSpload_keepsMem (d : GReg) (a : XReg) (s : State) : s.KeepsMem (execSpload d a s) :=
  State.onDesc_keepsMem fun i v x hv => by dsimp only; (repeat' split) <;> simpa using hv
@[simp] theorem execSpseed_keepsMem (d : GReg) (a : XReg) (s : State) : s.KeepsMem (execSpseed d a s) :=
  State.onDesc_keepsMem fun i v x hv => by dsimp only; (repeat' split) <;> simpa using hv

/-! The outer-product array (08 R157, R158, R162 to R170; 02 R33 to R37; 22 R364) -/

@[simp] theorem execOpaMma_keepsMem (d : GReg) (a : XReg) (s : State) : s.KeepsMem (execOpaMma d a s) :=
  by simp [execOpaMma]
@[simp] theorem execOpaSel_keepsMem (d : GReg) (a : XReg) (s : State) : s.KeepsMem (execOpaSel d a s) :=
  by simp [execOpaSel]
@[simp] theorem execOpaSparse_keepsMem (d : GReg) (a : XReg) (s : State) : s.KeepsMem (execOpaSparse d a s) :=
  by simp [execOpaSparse]
@[simp] theorem execOpaZero_keepsMem (d : GReg) (a : XReg) (s : State) : s.KeepsMem (execOpaZero d a s) :=
  by simp [execOpaZero]
@[simp] theorem execOpaDrain_keepsMem (d : GReg) (a : XReg) (s : State) : s.KeepsMem (execOpaDrain d a s) :=
  by simp [execOpaDrain]
@[simp] theorem execSpringServe_keepsMem (q : Nat) (s : State) : s.KeepsMem (execSpringServe q s) := by
  unfold execSpringServe
  dsimp only
  (repeat' split) <;> simp
@[simp] theorem execArrayCommandStart_keepsMem (q : Nat) (s : State) : s.KeepsMem (execArrayCommandStart q s) := by
  unfold execArrayCommandStart
  dsimp only
  split
  · split
    · simp
    · split
      · simp
      · split
        · next h => simpa using (congrArg (fun e => e.2.mem) h).symm.trans (State.checkTile_mem _ _ _ _ _)
        · next h => simpa using (congrArg (fun e => e.2.mem) h).symm.trans (State.checkTile_mem _ _ _ _ _)
  · simp

/-! The copy engine and engine control (08 R171 to R173, R178 to R180) -/

@[simp] theorem execCplin_keepsMem (d : GReg) (a : XReg) (s : State) : s.KeepsMem (execCplin d a s) :=
  State.onDesc_keepsMem fun i v x hv => State.copyIssue_keepsMem hv i d x none
@[simp] theorem execCp2d_keepsMem (d : GReg) (a : XReg) (s : State) : s.KeepsMem (execCp2d d a s) :=
  State.onDesc_keepsMem fun i v x hv => State.copyIssue_keepsMem hv i d x none
@[simp] theorem execCpten_keepsMem (d : GReg) (a b : XReg) (s : State) : s.KeepsMem (execCpten d a b s) :=
  State.onDesc_keepsMem fun i v x hv => by
    dsimp only
    split
    · exact State.copyIssue_keepsMem hv i d x _
    · simpa using hv
@[simp] theorem execEresume_keepsMem (d : GReg) (a : XReg) (s : State) : s.KeepsMem (execEresume d a s) :=
  State.onDesc_keepsMem fun i v x hv => by dsimp only; (repeat' split) <;> simpa using hv
@[simp] theorem execEstat_keepsMem (d : GReg) (a : XReg) (s : State) : s.KeepsMem (execEstat d a s) :=
  State.onDesc_keepsMem fun i v x hv => by simpa using hv

/-! Gather and scatter (08 R174 to R177) -/

@[simp] theorem execGather_keepsMem (d : GReg) (a b : XReg) (s : State) : s.KeepsMem (execGather d a b s) :=
  by simp [execGather]
@[simp] theorem execScatter_keepsMem (d : GReg) (a b : XReg) (s : State) : s.KeepsMem (execScatter d a b s) :=
  by simp [execScatter]
@[simp] theorem execGatherElementIssue_keepsMem (p : Nat) (s : State) : s.KeepsMem (execGatherElementIssue p s) := by
  unfold execGatherElementIssue
  dsimp only
  (repeat' split) <;> simp
@[simp] theorem execGatherComplete_keepsMem (p : Nat) (s : State) : s.KeepsMem (execGatherComplete p s) := by
  unfold execGatherComplete
  dsimp only
  (repeat' split) <;> simp

/-! Arrivals at a core (10 R203 to R211, 11 R235, 18 R314) -/

@[simp] theorem execSendAcceptAck_keepsMem (id : Nat) (s : State) : s.KeepsMem (execSendAcceptAck id s) := by
  unfold execSendAcceptAck
  dsimp only
  (repeat' split) <;> simp
@[simp] theorem execCounterEvent_keepsMem (p : Nat) (s : State) : s.KeepsMem (execCounterEvent p s) := by
  unfold execCounterEvent
  dsimp only
  (repeat' split) <;> simp
@[simp] theorem execContinuationWake_keepsMem (c lc rec : Nat) (s : State) :
    s.KeepsMem (execContinuationWake c lc rec s) := by
  unfold execContinuationWake
  dsimp only
  (repeat' split) <;> simp

/-! Barriers (05 R102, R103, R383), the balance controllers (13 R256 to R258) and the record dispatchers -/

@[simp] theorem execTlbInvalidate_keepsMem (die slice : Nat) (s : State) :
    s.KeepsMem (execTlbInvalidate die slice s) := by
  unfold execTlbInvalidate
  dsimp only
  (repeat' split) <;> simp

/-! Mailbox commands -/

@[simp] theorem execMailboxInvalidCode_keepsMem (cell : Nat) (s : State) :
    s.KeepsMem (execMailboxInvalidCode cell s) := by
  unfold execMailboxInvalidCode
  dsimp only
  (repeat' split) <;> simp

/-! LAUNCH and REBIND -/

@[simp] theorem execRebind_keepsMem (cell : Nat) (s : State) : s.KeepsMem (execRebind cell s) :=
  State.onCell_keepsMem fun c b => by dsimp only; (repeat' split) <;> simp

/-! The reception ring and the host overflow list (18 R308, R309), and host-bound messages (R314, 21 R346) -/

@[simp] theorem execRxtailWrite_keepsMem (c : Nat) (v : Word) (s : State) : s.KeepsMem (execRxtailWrite c v s) := by
  unfold execRxtailWrite
  dsimp only
  (repeat' split) <;> simp

/-! The host's accesses -/

@[simp] theorem execMbdoneWrite_keepsMem (v : Word) (s : State) : s.KeepsMem (execMbdoneWrite v s) :=
  by simp [execMbdoneWrite]
@[simp] theorem execRegisterWrite_keepsMem (off : Nat) (bytes : List Byte) (s : State) :
    s.KeepsMem (execRegisterWrite off bytes s) := by
  unfold execRegisterWrite
  split
  · exact State.keepsMem_idle s _
  · exact (State.keepsMem_next _ _).2 (State.foldl_mem _ (fun u e => State.bar0Write_mem u _ _ _) _ _)
@[simp] theorem execHostInject_keepsMem (c cell : Nat) (bytes : List Byte) (s : State) :
    s.KeepsMem (execHostInject c cell bytes s) := by
  unfold execHostInject
  dsimp only
  (repeat' split) <;> simp

/-! Soft errors, failed quads, resets, power and cooling, counters and the logic matrix (21 R352 to R362; 22 -/

@[simp] theorem execQuadFail_keepsMem (q : Nat) (s : State) : s.KeepsMem (execQuadFail q s) := by
  unfold execQuadFail
  (repeat' split) <;> simp
@[simp] theorem execPatrolScrub_keepsMem (found : List Finding) (s : State) : s.KeepsMem (execPatrolScrub found s) := by
  unfold execPatrolScrub
  split
  · exact State.keepsMem_idle s _
  · exact (State.keepsMem_next _ _).2 ((State.foldl_mem _ State.finding_mem _ _).trans (State.foldl_mem _ State.markCopy_mem _ _))
@[simp] theorem execMemoryPortFail_keepsMem (die port : Nat) (s : State) :
    s.KeepsMem (execMemoryPortFail die port s) := by
  unfold execMemoryPortFail
  (repeat' split) <;> simp
@[simp] theorem execCounterForward_keepsMem (die : Nat) (s : State) : s.KeepsMem (execCounterForward die s) := by
  unfold execCounterForward
  split
  · exact State.keepsMem_idle s _
  · exact (State.keepsMem_next _ _).2 (State.foldl_mem _ (fun u c => State.forwardCtx_mem u die c) _ _)
@[simp] theorem execThermalThrottle_keepsMem (die : Nat) (on : Bool) (s : State) :
    s.KeepsMem (execThermalThrottle die on s) := by
  unfold execThermalThrottle
  dsimp only
  (repeat' split) <;> simp
@[simp] theorem execLogicMatrixCycle_keepsMem (die : Nat) (sample : List (Nat × Nat)) (s : State) :
    s.KeepsMem (execLogicMatrixCycle die sample s) := by
  unfold execLogicMatrixCycle
  dsimp only
  (repeat' split) <;> simp

/-! The other mailbox commands -/

@[simp] theorem execSetdbg_keepsMem (cell : Nat) (s : State) : s.KeepsMem (execSetdbg cell s) :=
  State.onCell_keepsMem fun c b => by dsimp only; (repeat' split) <;> simp
@[simp] theorem execJconfig_keepsMem (cell : Nat) (s : State) : s.KeepsMem (execJconfig cell s) :=
  State.onCell_keepsMem fun c b => by dsimp only; (repeat' split) <;> simp
@[simp] theorem execRoster_keepsMem (cell : Nat) (s : State) : s.KeepsMem (execRoster cell s) :=
  State.onCell_keepsMem fun c b => by dsimp only; (repeat' split) <;> simp
@[simp] theorem execPartner_keepsMem (cell : Nat) (answers : Bool) (s : State) :
    s.KeepsMem (execPartner cell answers s) := by
  have hsend : ∀ (l : List BarnEntry) (u : State), (l.foldl (fun s e => s.sendBarn e) u).mem = u.mem :=
    State.foldl_mem _ fun u e => State.sendBarn_mem u e
  refine State.onCell_keepsMem fun c b => ?_
  dsimp only
  (repeat' split) <;> simp [hsend]
@[simp] theorem execLost_keepsMem (cell : Nat) (s : State) : s.KeepsMem (execLost cell s) :=
  State.onCell_keepsMem fun c b => by dsimp only; (repeat' split) <;> simp
@[simp] theorem execBfree_keepsMem (cell : Nat) (s : State) : s.KeepsMem (execBfree cell s) :=
  State.onCell_keepsMem fun c b => by dsimp only; (repeat' split) <;> simp
@[simp] theorem execJstat_keepsMem (cell : Nat) (s : State) : s.KeepsMem (execJstat cell s) :=
  State.onCell_keepsMem fun c b => by (repeat' split) <;> simp
@[simp] theorem execVerify_keepsMem (cell : Nat) (s : State) : s.KeepsMem (execVerify cell s) :=
  State.onCell_keepsMem fun c b => by dsimp only; (repeat' split) <;> simp
@[simp] theorem execGeometry_keepsMem (cell : Nat) (s : State) : s.KeepsMem (execGeometry cell s) :=
  State.onCell_keepsMem fun c b => by dsimp only; (repeat' split) <;> simp
@[simp] theorem execGlean_keepsMem (cell : Nat) (s : State) : s.KeepsMem (execGlean cell s) :=
  State.onCell_keepsMem fun c b => by dsimp only; (repeat' split) <;> simp
@[simp] theorem execLmconfig_keepsMem (cell : Nat) (s : State) : s.KeepsMem (execLmconfig cell s) :=
  State.onCell_keepsMem fun c b => by dsimp only; (repeat' split) <;> simp

end Sys2Proof.Machine

/-! SUPPORT. Steps that write: memory stays in its canonical form (log 4) -/

namespace Sys2Proof.Machine

open Sys2Proof

/-- Whatever the outcome, memory is in its canonical form. -/
def KeepsWf (o : Out1) : Prop := ∀ t, o = .next t → Memory.wf t.mem = true

@[simp] theorem keepsWf_next (t : State) : KeepsWf (.next t) ↔ Memory.wf t.mem = true :=
  ⟨fun h => h t rfl, fun h u hu => by cases hu; exact h⟩
@[simp] theorem keepsWf_fault (e : Fault) : KeepsWf (.fault e) := nofun
@[simp] theorem keepsWf_refused (e : Refusal) : KeepsWf (.refused e) := nofun
@[simp] theorem keepsWf_idle (s : State) (w : String) : KeepsWf (s.idle w) ↔ Memory.wf s.mem = true := keepsWf_next s
@[simp] theorem keepsWf_retire (s : State) (i : Inst) : KeepsWf (s.retire i) ↔ Memory.wf s.mem = true := by simp [State.retire]
@[simp] theorem keepsWf_retireG (s : State) (i : Inst) (d : GReg) (x : Word) :
    KeepsWf (s.retireG i d x) ↔ Memory.wf s.mem = true := by simp [State.retireG]
@[simp] theorem keepsWf_raise (s : State) (i : Inst) (code addr det : Nat) :
    KeepsWf (s.raise i code addr det) ↔ Memory.wf s.mem = true := by simp [State.raise]
@[simp] theorem keepsWf_answer (s : State) (cell code reason detail : Nat) :
    KeepsWf (s.answer cell code reason detail) ↔ Memory.wf s.mem = true := by simp [State.answer]

theorem State.KeepsMem.wf {s : State} {o : Out1} (h : s.KeepsMem o) (h0 : Memory.wf s.mem = true) : KeepsWf o :=
  fun t ht => by rw [h t ht]; exact h0

theorem State.foldl_wf {α : Type} {f : State → α → State} (hf : ∀ s a, Memory.wf s.mem = true → Memory.wf (f s a).mem = true)
    (l : List α) {s : State} (h : Memory.wf s.mem = true) : Memory.wf (l.foldl f s).mem = true := by
  induction l generalizing s with
  | nil => exact h
  | cons a l ih => exact ih (hf s a h)

theorem iterate_wf {f : State → State} (hf : ∀ s, Memory.wf s.mem = true → Memory.wf (f s).mem = true) (n : Nat) {s : State}
    (h : Memory.wf s.mem = true) : Memory.wf (iterate f n s).mem = true := by
  induction n generalizing s with
  | zero => exact h
  | succ n ih => exact ih (hf s h)

theorem State.onFit_keepsWf {s : State} {u : Uses} {f : Inst → State → Out1} (h0 : Memory.wf s.mem = true)
    (h : ∀ i v, Memory.wf v.mem = true → KeepsWf (f i v)) : KeepsWf (s.onFit u f) := by
  unfold State.onFit State.onInst
  split
  · exact keepsWf_fault _
  · dsimp only
    split
    · exact h _ _ h0
    · simpa [State.raise] using h0

theorem State.onCell_keepsWf {s : State} {cell code : Nat} {f : Nat → Bool → Out1} (h0 : Memory.wf s.mem = true)
    (h : ∀ c b, KeepsWf (f c b)) : KeepsWf (s.onCell cell code f) := by
  unfold State.onCell
  dsimp only
  (repeat' split) <;> simp [h, h0]

@[simp] theorem State.ownerWrite_wf (s : State) (pa : Nat) (bs : List Byte) (h0 : Memory.wf s.mem = true) :
    Memory.wf (s.ownerWrite pa bs).mem = true := by
  rw [State.ownerWrite_mem]
  exact Memory.wf_write pa bs h0
@[simp] theorem State.ownerZero_wf (s : State) (pa n : Nat) (h0 : Memory.wf s.mem = true) :
    Memory.wf (s.ownerZero pa n).mem = true := by
  unfold State.ownerZero
  simpa using Memory.wf_clear pa n h0
@[simp] theorem State.traceWrite_wf (s : State) (c : Nat) (bs : List Byte) (h0 : Memory.wf s.mem = true) :
    Memory.wf (s.traceWrite c bs).mem = true := by
  unfold State.traceWrite
  (repeat' split) <;> simp [*, Memory.wf_write]
@[simp] theorem State.stopCtx_wf (s : State) (c lcore : Nat) (src : Nat × Nat) (bs : List Byte) (h0 : Memory.wf s.mem = true) :
    Memory.wf (s.stopCtx c lcore src bs).mem = true := by
  unfold State.stopCtx
  dsimp only
  split
  · rw [State.deliver_mem, State.mapInsts_mem, State.setCtx_mem]
    exact State.traceWrite_wf s c bs h0
  · exact State.traceWrite_wf s c bs h0
@[simp] theorem execBkpt_wf (a : GReg) (code : BitVec 16) (s : State) (h0 : Memory.wf s.mem = true) :
    KeepsWf (execBkpt a code s) := by
  refine State.onFit_keepsWf h0 fun i v hv => ?_
  dsimp only
  (repeat' split) <;> simp [*, Memory.wf_write]
@[simp] theorem execTrmark_wf (a : GReg) (code : BitVec 16) (s : State) (h0 : Memory.wf s.mem = true) :
    KeepsWf (execTrmark a code s) := by
  refine State.onFit_keepsWf h0 fun i v hv => ?_
  (repeat' split) <;> simp [*, Memory.wf_write]
@[simp] theorem State.openBytes_wf (s : State) (a n : Nat) (h0 : Memory.wf s.mem = true) :
    Memory.wf (s.openBytes a n).mem = true := by simp [State.openBytes, h0, Memory.wf_write]
@[simp] theorem State.writeRecord_wf (s : State) (a : Nat) (e : QEntry) (h0 : Memory.wf s.mem = true) :
    Memory.wf (s.writeRecord a e).mem = true := by
  unfold State.writeRecord
  (repeat' split) <;> simp [*, Memory.wf_write]
@[simp] theorem State.siloControl_wf (s : State) (c lc : Nat) (h0 : Memory.wf s.mem = true) :
    Memory.wf (s.siloControl c lc).mem = true := by simp [State.siloControl, h0, Memory.wf_write]
@[simp] theorem State.spill_wf (s : State) (c lc : Nat) (e : QEntry) (h0 : Memory.wf s.mem = true) :
    Memory.wf (s.spill c lc e).mem = true := by simp [State.spill, h0, Memory.wf_write]
@[simp] theorem State.reserveEntry_wf (s : State) (c lc : Nat) (e : QEntry) (h0 : Memory.wf s.mem = true) :
    Memory.wf (s.reserveEntry c lc e).mem = true := by simp [State.reserveEntry, h0, Memory.wf_write]
@[simp] theorem State.discard_wf (s : State) (c : Nat) (h0 : Memory.wf s.mem = true) :
    Memory.wf (s.discard c).mem = true := by
  unfold State.discard
  dsimp only
  (repeat' split) <;> simp [*, Memory.wf_write]
@[simp] theorem State.overflow_wf (s : State) (c lc : Nat) (e : QEntry) (h0 : Memory.wf s.mem = true) :
    Memory.wf (s.overflow c lc e).mem = true := by
  unfold State.overflow
  dsimp only
  (repeat' split) <;> simp [*, Memory.wf_write]
@[simp] theorem State.enqueue_wf (s : State) (c lc : Nat) (e : QEntry) (h0 : Memory.wf s.mem = true) :
    Memory.wf (s.enqueue c lc e).mem = true := by
  unfold State.enqueue
  dsimp only
  (repeat' split) <;> simp [*, Memory.wf_write]
@[simp] theorem State.defer_wf (s : State) (f : Flight) (lc : Nat) (h0 : Memory.wf s.mem = true) :
    Memory.wf (s.defer f lc).mem = true := by
  unfold State.defer
  dsimp only
  (repeat' split) <;> simp [*, Memory.wf_write]
@[simp] theorem State.park_wf (s : State) (p sl : Nat) (i : Inst) (k : Cont) (h0 : Memory.wf s.mem = true) :
    Memory.wf (s.park p sl i k).mem = true := by
  unfold State.park
  dsimp only
  (repeat' split) <;> simp [*, Memory.wf_write]
@[simp] theorem State.counterEv_wf (s : State) (p c n : Nat) (what : CtrWhat) (src : Nat × Nat) (h0 : Memory.wf s.mem = true) :
    Memory.wf (s.counterEv p c n what src).mem = true := by
  unfold State.counterEv
  dsimp only
  (repeat' split) <;> simp [*, Memory.wf_write]
@[simp] theorem execTagpark_wf (d : GReg) (n : BitVec 4) (s : State) (h0 : Memory.wf s.mem = true) :
    KeepsWf (execTagpark d n s) := by
  refine State.onFit_keepsWf h0 fun i v hv => ?_
  dsimp only
  (repeat' split) <;> simp [*, Memory.wf_write]
@[simp] theorem execQwait_wf (d : GReg) (a : XReg) (b : GReg) (s : State) (h0 : Memory.wf s.mem = true) :
    KeepsWf (execQwait d a b s) := by
  refine State.onFit_keepsWf h0 fun i v hv => ?_
  dsimp only
  (repeat' split) <;> simp [*, Memory.wf_write]
@[simp] theorem State.applyReq_wf (s : State) (f : Flight) (r : MemReq) (pa : Nat) (h0 : Memory.wf s.mem = true) :
    Memory.wf (s.applyReq f r pa).mem = true := by
  unfold State.applyReq
  dsimp only
  (repeat' split) <;> simp [*, Memory.wf_write]
@[simp] theorem execOwnerApply_wf (id : Nat) (s : State) (h0 : Memory.wf s.mem = true) :
    KeepsWf (execOwnerApply id s) := by
  unfold execOwnerApply
  (repeat' split) <;> simp [*, Memory.wf_write]
@[simp] theorem State.ringServe_wf (s : State) (c pa : Nat) (need : Waiter → Nat) (h0 : Memory.wf s.mem = true) :
    Memory.wf (s.ringServe c pa need).mem = true := by
  unfold State.ringServe
  dsimp only
  (repeat' split) <;> simp [h0, Memory.wf_write]
/-- What a ring operation leaves of memory is in the canonical form. -/
@[irreducible] def RingRes.Wf : RingRes → Prop
  | .done _ _ _ s => Memory.wf s.mem = true
  | _ => True

theorem RingRes.wf_done {gd : Word} {cur : Option Nat} {bad : Option (Nat × Nat × Nat)} {t : State} (h : Memory.wf t.mem = true) :
    (RingRes.done gd cur bad t).Wf := by
  rw [RingRes.Wf]
  exact h

theorem RingRes.wf_absent (va ri : Nat) : (RingRes.absent va ri).Wf := by
  rw [RingRes.Wf]
  all_goals simp

theorem RingRes.wf_poisoned (b q : Nat) : (RingRes.poisoned b q).Wf := by
  rw [RingRes.Wf]
  all_goals simp

theorem RingRes.wf_ite {c : Prop} {_ : Decidable c} {a b : RingRes} (ha : a.Wf) (hb : b.Wf) : (if c then a else b).Wf := by
  split
  · exact ha
  · exact hb

theorem RingRes.Wf.of_done {o : RingRes} {gd : Word} {cur : Option Nat} {bad : Option (Nat × Nat × Nat)} {t : State} (hwf : o.Wf)
    (h : o = .done gd cur bad t) : Memory.wf t.mem = true := by
  rw [h, RingRes.Wf] at hwf
  exact hwf

theorem State.ringServe_done {s : State} {c pa : Nat} {gd : Word} {cur : Option Nat} {need : Waiter → Nat}
    (h0 : Memory.wf s.mem = true) : (RingRes.done gd cur none (s.ringServe c pa need)).Wf :=
  RingRes.wf_done (State.ringServe_wf s c pa need h0)

section
variable {s : State} (r : MemReq) (die pa rank lcore : Nat) (h0 : Memory.wf s.mem = true)
include h0

theorem State.ringPush_wf (v : Word) : (s.ringDo r die pa rank lcore (.push v)).Wf := by
  unfold State.ringDo
  refine RingRes.wf_ite ?_ (State.ringServe_done h0)
  split
  · exact State.ringServe_done (State.ownerWrite_wf _ _ _ (State.ownerWrite_wf _ _ _ h0))
  · exact RingRes.wf_absent _ _
  · exact RingRes.wf_done h0

theorem State.ringPop_wf : (s.ringDo r die pa rank lcore .pop).Wf := by
  unfold State.ringDo
  refine RingRes.wf_ite ?_ (State.ringServe_done h0)
  split
  · split
    · exact RingRes.wf_poisoned _ _
    · exact State.ringServe_done (State.ownerWrite_wf _ _ _ h0)
  · exact RingRes.wf_absent _ _
  · exact RingRes.wf_done h0

theorem State.ringAdv_wf (n : Nat) : (s.ringDo r die pa rank lcore (.adv n)).Wf := by
  unfold State.ringDo
  refine RingRes.wf_ite (RingRes.wf_done h0) (RingRes.wf_ite ?_ (State.ringServe_done h0))
  exact State.ringServe_done (State.ownerWrite_wf _ _ _ h0)

theorem State.ringWait_wf (n k : Nat) : (s.ringDo r die pa rank lcore (.wait n k)).Wf := by
  unfold State.ringDo
  refine RingRes.wf_ite (RingRes.wf_done h0) (RingRes.wf_ite (RingRes.wf_done h0) ?_)
  exact State.ringServe_done (State.ownerWrite_wf _ _ _ h0)

theorem State.ringDo_wf (op : RingOp) : (s.ringDo r die pa rank lcore op).Wf := by
  cases op with
  | push v => exact State.ringPush_wf r die pa rank lcore h0 v
  | pop => exact State.ringPop_wf r die pa rank lcore h0
  | adv n => exact State.ringAdv_wf r die pa rank lcore h0 n
  | wait n k => exact State.ringWait_wf r die pa rank lcore h0 n k

end
@[simp] theorem State.applyRing_wf (s : State) (f : Flight) (r : MemReq) (rr : RingReq) (pa : Nat) (h0 : Memory.wf s.mem = true) :
    Memory.wf (s.applyRing f r rr pa).mem = true := by
  unfold State.applyRing
  dsimp only
  split
  · simpa using h0
  · split
    · simpa using h0
    · split
      · simpa using h0
      · simpa using h0
      · split
        · next h =>
          rw [State.reply_mem]
          exact (State.ringDo_wf (s := s.dropFlight f.id) r _ pa _ f.who.lcore (by simpa using h0) rr.op).of_done h
        · simpa using h0
        · simpa using h0
@[simp] theorem execRingOpApply_wf (id : Nat) (s : State) (h0 : Memory.wf s.mem = true) :
    KeepsWf (execRingOpApply id s) := by
  unfold execRingOpApply
  (repeat' split) <;> simp [*, Memory.wf_write]
@[simp] theorem State.deferReply_wf (s : State) (f : Flight) (h0 : Memory.wf s.mem = true) :
    KeepsWf (s.deferReply f) := by
  unfold State.deferReply
  (repeat' split) <;> simp [*, Memory.wf_write]
@[simp] theorem State.applyReturn_wf (s : State) (f : Flight) (r : MemReq) (data : List Byte) (h0 : Memory.wf s.mem = true) :
    Memory.wf (s.applyReturn f r data).mem = true := by
  unfold State.applyReturn
  (repeat' split) <;> simp [h0, Memory.wf_write]
@[simp] theorem State.hubWrote_wf (s : State) (a : Option (Nat × List Byte)) (h0 : Memory.wf s.mem = true) :
    Memory.wf (s.hubWrote a).mem = true := by
  cases a with
  | none => exact h0
  | some e => exact State.ownerWrite_wf s e.1 e.2 h0
@[simp] theorem State.takeHub_wf (s : State) (f : Flight) (a : HubAns) (h0 : Memory.wf s.mem = true) :
    Memory.wf (s.takeHub f a).mem = true := by
  unfold State.takeHub
  have hstart : Memory.wf ((s.dropFlight f.id).completeOp f.opId).mem = true := by simpa using h0
  cases a
  · simp [*]
  · simp [*]
  all_goals
    dsimp only
    split
    · exact hstart
    · simp [*]
@[simp] theorem execLoadReturn_wf (id : Nat) (s : State) (h0 : Memory.wf s.mem = true) :
    KeepsWf (execLoadReturn id s) := by
  unfold execLoadReturn
  dsimp only
  (repeat' split) <;> simp [*, Memory.wf_write]
@[simp] theorem execAckReturn_wf (id : Nat) (s : State) (h0 : Memory.wf s.mem = true) : KeepsWf (execAckReturn id s) := by
  unfold execAckReturn
  (repeat' split) <;> simp [*, Memory.wf_write]
@[simp] theorem execErrorReply_wf (id : Nat) (s : State) (h0 : Memory.wf s.mem = true) :
    KeepsWf (execErrorReply id s) := by
  unfold execErrorReply
  (repeat' split) <;> simp [*, Memory.wf_write]
@[simp] theorem State.put_wf (s : State) (w : Who) (cmd : Nat) (e : Put) (h0 : Memory.wf s.mem = true) :
    Memory.wf (s.put w cmd e).mem = true := by
  unfold State.put
  split
  · exact State.ownerWrite_wf s _ _ h0
  · simpa using h0
@[simp] theorem State.fillEntry_wf (s : State) (q o : Nat) (l : List Nat) (bs : List Byte) (h0 : Memory.wf s.mem = true) :
    Memory.wf (s.fillEntry q o l bs).mem = true := by
  induction l generalizing s o bs with
  | nil => exact h0
  | cons g t ih =>
    rw [State.fillEntry]
    split
    · exact ih s (o - 4096) bs h0
    · exact ih _ 0 _ (State.ownerWrite_wf s _ _ h0)
theorem firstBad_ne_sent (l : List (PieceR × Nat)) (t : State) : firstBad l ≠ some (.sent t) := by
  induction l with
  | nil => simp [firstBad]
  | cons e l ih =>
    obtain ⟨p, k⟩ := e
    cases p <;> simp [firstBad, ih]

theorem State.engineRead_mem {s t : State} {w : Who} {die cmd base : Nat} {ps : List (Nat × Nat)}
    (h : s.engineRead w die cmd base ps = .sent t) : t.mem = s.mem := by
  unfold State.engineRead at h
  dsimp only at h
  split at h
  · cases h
    exact State.foldl_mem _ (fun u e => by split <;> simp) _ _
  · split at h
    · cases h
    · split at h
      · next b hb =>
        exact absurd (h ▸ hb) (firstBad_ne_sent _ t)
      · cases h

theorem State.engineFix_mem {s t : State} {w : Who} {die cmd : Nat} {ps : List (Nat × Nat)}
    (h : s.engineFix w die cmd ps = .sent t) : t.mem = s.mem := by
  unfold State.engineFix at h
  split at h
  · cases h
  · cases h
  · cases h
  · dsimp only at h
    split at h
    · cases h
      exact State.foldl_mem _ (fun u e => by split <;> simp) _ _
    · split at h <;> cases h

/-- What a unit's writes leave of memory is in the canonical form. -/
def PutR.Wf : PutR → Prop
  | .moved s _ => Memory.wf s.mem = true
  | .done s => Memory.wf s.mem = true
  | _ => True

theorem State.putNext_wf {s : State} (h0 : Memory.wf s.mem = true) (w : Who) (cmd : Nat) (l : List Put) :
    (s.putNext w cmd l).Wf := by
  unfold State.putNext
  (repeat' split) <;> simp [PutR.Wf, h0]

theorem State.putRest_wf {s : State} (h0 : Memory.wf s.mem = true) (w : Who) (cmd : Nat) (l : List Put) :
    (s.putRest w cmd l).Wf := by
  have hputs : ∀ l : List Put, Memory.wf (l.foldl (fun s e => s.put w cmd e) s).mem = true :=
    fun l => State.foldl_wf (fun u e hu => State.put_wf u w cmd e hu) l h0
  unfold State.putRest
  dsimp only
  split
  · exact hputs _
  · split
    · trivial
    · trivial
    · split
      · exact hputs _
      · trivial
@[simp] theorem State.loadBlock_wf (s : State) (q e : Nat) (h0 : Memory.wf s.mem = true) : KeepsWf (s.loadBlock q e) := by
  unfold State.loadBlock
  dsimp only
  (repeat' split) <;> simp [h0]
@[simp] theorem execWbloadComplete_wf (q e : Nat) (s : State) (h0 : Memory.wf s.mem = true) :
    KeepsWf (execWbloadComplete q e s) := by
  unfold execWbloadComplete
  dsimp only
  split
  · split
    · next h => simpa [State.engineRead_mem h] using h0
    · simpa using h0
    · exact (State.keepsMem_heldStep s s _ _ _ _ _ _ _ rfl).wf h0
    · simpa using h0
    · simp [h0]
  · simpa using h0
@[simp] theorem State.zeroBlocks_wf (s : State) (q set lo hi : Nat) (h0 : Memory.wf s.mem = true) :
    Memory.wf (s.zeroBlocks q set lo hi).mem = true := by
  unfold State.zeroBlocks
  split <;> simp [h0]
@[simp] theorem State.zeroRest_wf (s : State) (q : Nat) (r : ARun) (h0 : Memory.wf s.mem = true) :
    Memory.wf (s.zeroRest q r).1.mem = true := by simp [State.zeroRest, h0, Memory.wf_write]
@[simp] theorem State.zeroNext_wf (s : State) (q : Nat) (r : ARun) (h0 : Memory.wf s.mem = true) :
    KeepsWf (s.zeroNext q r) := by simp [State.zeroNext, h0, Memory.wf_write]
theorem State.tileRows_wf (s : State) (q : Nat) (t : Tile) (coords : List (Nat × Nat)) (lo hi : Nat) (l : List Nat) (e : State × Flags)
    (h0 : Memory.wf e.1.mem = true) : Memory.wf (s.tileRows q t coords lo hi l e).1.mem = true := by
  induction l generalizing e with
  | nil => exact h0
  | cons i l ih =>
    rw [State.tileRows]
    exact ih _ (State.ownerWrite_wf _ _ _ h0)
@[simp] theorem State.stepTile_wf (s : State) (q : Nat) (r : ARun) (t : Tile) (coords : List (Nat × Nat)) (hi : Nat) (h0 : Memory.wf s.mem = true) :
    Memory.wf (s.stepTile q r t coords hi).1.mem = true := by
  have hrows : Memory.wf (s.tileRows q t coords r.steps hi (List.range (tRows t.x)) (s, r.flags)).1.mem = true :=
    State.tileRows_wf s q t coords r.steps hi _ (s, r.flags) h0
  unfold State.stepTile
  dsimp only
  split <;> simpa using hrows
@[simp] theorem State.runTile_wf (s : State) (q : Nat) (r : ARun) (t : Tile) (e : WbEntry) (a sa : Nat) (h0 : Memory.wf s.mem = true) :
    Memory.wf (s.runTile q r t e a sa).mem = true := by
  unfold State.runTile
  dsimp only
  (repeat' split) <;> simp [*, Memory.wf_write]
@[simp] theorem State.tileStep_wf (s : State) (q : Nat) (r : ARun) (h0 : Memory.wf s.mem = true) :
    KeepsWf (s.tileStep q r) := by
  have hops := State.runOperands_mem s q r
  unfold State.tileStep
  dsimp only
  split
  · next t a sa u h =>
    simp only [h] at hops
    generalize r.steps + (if t.kind = .float true then 2 else 1) = hi
    split
    · simpa [hops] using h0
    · split <;> simp [hops, h0]
  · next h =>
    simp only [h] at hops
    simpa [hops] using h0
theorem State.drainFix_keepsWf (s : State) (q : Nat) (r : ARun) {go : State → ARun → List Target → Out1} (h0 : Memory.wf s.mem = true)
    (hgo : ∀ u r ts, Memory.wf u.mem = true → KeepsWf (go u r ts)) : KeepsWf (s.drainFix q r go) := by
  unfold State.drainFix
  dsimp only
  split
  · simpa using h0
  · split
    · next h => simpa [State.engineFix_mem h] using h0
    · simpa using h0
    · simpa using h0
    · cases hh : s.holdEngine r.cmd.who r.cmd.id _ _ _ _ r.done with
      | none => simpa using h0
      | some u => simpa [State.holdEngine_mem hh] using h0
    · exact hgo _ _ _ h0
@[simp] theorem State.drainBlock_wf (s : State) (q : Nat) (r : ARun) (h0 : Memory.wf s.mem = true) :
    KeepsWf (s.drainBlock q r) := by
  unfold State.drainBlock
  split
  · exact State.drainFix_keepsWf s q r h0 fun u r ts hu => by simpa using hu
  · next ts _ =>
    have hput := State.putNext_wf h0 r.cmd.who r.cmd.id (s.rowLeft q r ts)
    split
    · next h => rw [h] at hput; simpa [PutR.Wf] using hput
    · simpa using h0
    · simpa using h0
    · next h => rw [h] at hput; simpa [PutR.Wf] using hput
theorem State.drainRows_wf (q n : Nat) (r : ARun) (s : State) (h0 : Memory.wf s.mem = true) : KeepsWf (State.drainRows q n r s) := by
  induction n generalizing r s with
  | zero => simp [State.drainRows, h0]
  | succ n ih =>
    have hput : ∀ (u : State) (r : ARun) (ts : List Target), Memory.wf u.mem = true →
        KeepsWf (match u.putRest r.cmd.who r.cmd.id (u.rowLeft q r ts) with
          | .moved s k => .next (s.setRun q { r with blocks := r.blocks + k })
          | .waits => .next (u.setRun q r)
          | .bad code addr det => .next (u.drainStop q r code addr det)
          | .done s => State.drainRows q n r.rowDone (s.clearFetches r.cmd.id)) := by
      intro u r ts hu
      have hrest := State.putRest_wf hu r.cmd.who r.cmd.id (u.rowLeft q r ts)
      split
      · next h => rw [h] at hrest; simpa [PutR.Wf] using hrest
      · simpa using hu
      · simpa using hu
      · next h => rw [h] at hrest; exact ih _ _ (by simpa [PutR.Wf] using hrest)
    rw [State.drainRows]
    dsimp only
    split
    · exact hput s r _ h0
    · exact State.drainFix_keepsWf s q r h0 hput
@[simp] theorem State.arrayStep_wf (s : State) (q : Nat) (h0 : Memory.wf s.mem = true) : KeepsWf (s.arrayStep q) := by
  unfold State.arrayStep
  dsimp only
  (repeat' split) <;> simp [*, Memory.wf_write]
@[simp] theorem execArrayCommandComplete_wf (q : Nat) (s : State) (h0 : Memory.wf s.mem = true) :
    KeepsWf (execArrayCommandComplete q s) := by
  unfold execArrayCommandComplete
  split
  · simpa using h0
  · next r _ =>
    have hz := State.zeroRest_wf s q r h0
    dsimp only
    split
    · simpa using h0
    · split
      · exact State.drainRows_wf q _ r s h0
      · split
        · simpa using hz
        · split
          · simpa using hz
          · have hops := State.runOperands_mem (s.zeroRest q r).1 q (s.zeroRest q r).2
            split
            · next h =>
              simp only [h] at hops
              split <;> simp [hops, hz]
            · next h =>
              simp only [h] at hops
              simp [hops, hz]

end Sys2Proof.Machine

/-! SUPPORT. Dispatch, sheaves and the units that write: memory stays in its canonical form (log 4) -/

namespace Sys2Proof.Machine

open Sys2Proof

theorem State.copyPage_keepsMem (s : State) (p : Nat) (c : CopyCmd) (va rg word level : Nat) :
    s.KeepsMem (s.copyPage p c va rg word level) := by
  unfold State.copyPage
  dsimp only
  split <;> simp

theorem State.copyPut_keepsWf {s : State} (h0 : Memory.wf s.mem = true) (p : Nat) (c : CopyCmd) {r : PutR} (hr : r.Wf) :
    KeepsWf (s.copyPut p c r) := by
  cases r with
  | moved u n => simpa [State.copyPut, PutR.Wf] using hr
  | waits => simpa [State.copyPut] using h0
  | bad code addr det => simpa [State.copyPut] using h0
  | done u => simpa [State.copyPut, PutR.Wf] using hr

theorem State.copyFix_keepsWf {s : State} (h0 : Memory.wf s.mem = true) (p : Nat) (c : CopyCmd)
    {go : State → CopyCmd → List Target → Out1} (hgo : ∀ u c ts, Memory.wf u.mem = true → KeepsWf (go u c ts)) :
    KeepsWf (s.copyFix p c go) := by
  unfold State.copyFix
  split
  · next h => simpa [State.engineFix_mem h] using h0
  · simpa using h0
  · simpa using h0
  · exact (State.copyPage_keepsMem s p c _ _ _ _).wf h0
  · exact hgo _ _ _ h0
@[simp] theorem State.copyBlock_wf (s : State) (p : Nat) (h0 : Memory.wf s.mem = true) : KeepsWf (s.copyBlock p) := by
  unfold State.copyBlock
  dsimp only
  split
  · split
    · simpa using h0
    · split
      · exact State.copyPut_keepsWf h0 p _ (State.putNext_wf h0 _ _ _)
      · split <;> simpa using h0
      · exact State.copyFix_keepsWf h0 p _ fun u c ts hu => by simpa using hu
  · simpa using h0
@[simp] theorem execCopyChunk_wf (p : Nat) (s : State) (h0 : Memory.wf s.mem = true) : KeepsWf (execCopyChunk p s) := by
  unfold execCopyChunk
  dsimp only
  split
  · split
    · simpa using h0
    · split
      · exact State.copyPut_keepsWf h0 p _ (State.putRest_wf h0 _ _ _)
      · split
        · next h => simpa [State.engineRead_mem h] using h0
        · simpa using h0
        · exact (State.copyPage_keepsMem s p _ _ _ _ _).wf h0
        · simpa using h0
        · refine State.copyFix_keepsWf h0 p _ fun u c ts hu => ?_
          split
          · simpa using hu
          · exact State.copyPut_keepsWf hu p c (State.putRest_wf hu _ _ _)
  · simpa using h0
@[simp] theorem State.applyElem_wf (s : State) (f : Flight) (r : MemReq) (p : Nat) (g : GatherCmd) (n pa : Nat) (h0 : Memory.wf s.mem = true) :
    Memory.wf (s.applyElem f r p g n pa).mem = true := by
  unfold State.applyElem
  dsimp only
  (repeat' split) <;> simp [*, Memory.wf_write]
@[simp] theorem execGatherElementApply_wf (id : Nat) (s : State) (h0 : Memory.wf s.mem = true) :
    KeepsWf (execGatherElementApply id s) := by
  unfold execGatherElementApply
  dsimp only
  (repeat' split) <;> simp [*, Memory.wf_write]
@[simp] theorem State.gleanOut_wf (s : State) (c : Nat) (g : Glean) (l : List Hop) (more : List Byte) (reason : Nat) (h0 : Memory.wf s.mem = true) :
    Memory.wf (s.gleanOut c g l more reason).mem = true := by simp [State.gleanOut, h0, Memory.wf_write]
@[simp] theorem State.gleanSample_wf (s : State) (p : Nat) (i : Inst) (stamp : Nat) (h0 : Memory.wf s.mem = true) :
    Memory.wf (s.gleanSample p i stamp).mem = true := by
  unfold State.gleanSample
  dsimp only
  (repeat' split) <;> simp [*, Memory.wf_write]
@[simp] theorem State.deferMsg_wf (s : State) (f : Flight) (m : Msg) (t : Track) (lc : Nat) (src : Nat × Nat) (h0 : Memory.wf s.mem = true) :
    Memory.wf (s.deferMsg f m t lc src).mem = true := by simp [State.deferMsg, h0, Memory.wf_write]
@[simp] theorem State.traceMatch_wf (s : State) (c p lc : Nat) (h : Hdr) (h0 : Memory.wf s.mem = true) :
    Memory.wf (s.traceMatch c p lc h).mem = true := by
  unfold State.traceMatch
  split
  · exact h0
  · refine State.foldl_wf (fun u e hu => ?_) _ h0
    (repeat' split) <;> simp [hu]
@[simp] theorem State.queueSheaf_wf (s : State) (c lc : Nat) (x : Sheaf) (h0 : Memory.wf s.mem = true) :
    Memory.wf (s.queueSheaf c lc x).mem = true := by simp [State.queueSheaf, h0, Memory.wf_write]
@[simp] theorem State.spillJoin_wf (s : State) (c lc : Nat) (m : Msg) (st : Nat) (h0 : Memory.wf s.mem = true) :
    Memory.wf (s.spillJoin c lc m st).mem = true := by simp [State.spillJoin, h0, Memory.wf_write]
@[simp] theorem State.spillSheaf_wf (s : State) (c lc : Nat) (m : Msg) (st : Nat) (record : Bool) (h0 : Memory.wf s.mem = true) :
    Memory.wf (s.spillSheaf c lc m st record).mem = true := by
  unfold State.spillSheaf
  dsimp only
  (repeat' split) <;> simp [*, Memory.wf_write]
@[simp] theorem State.deferJoin_wf (s : State) (c lc : Nat) (m : Msg) (st : Nat) (h0 : Memory.wf s.mem = true) :
    Memory.wf (s.deferJoin c lc m st).mem = true := by
  unfold State.deferJoin
  (repeat' split) <;> simp [*, Memory.wf_write]
@[simp] theorem State.joinArrival_wf (s : State) (c lc : Nat) (m : Msg) (arity st : Nat) (h0 : Memory.wf s.mem = true) :
    Memory.wf (s.joinArrival c lc m arity st).mem = true := by
  unfold State.joinArrival
  dsimp only
  (repeat' split) <;> simp [*, Memory.wf_write]
@[simp] theorem State.takeIn_wf (s : State) (c p lc : Nat) (m : Msg) (st : Nat) (record fromHere : Bool) (why : Cause) (h0 : Memory.wf s.mem = true) :
    Memory.wf (s.takeIn c p lc m st record fromHere why).mem = true := by
  unfold State.takeIn
  (repeat' split) <;> simp [*, Memory.wf_write]
@[simp] theorem State.acceptAt_wf (s : State) (f : Flight) (p : Nat) (m : Msg) (t : Track) (h0 : Memory.wf s.mem = true) :
    Memory.wf (s.acceptAt f p m t).mem = true := by
  unfold State.acceptAt
  dsimp only
  (repeat' split) <;> simp [*, Memory.wf_write]
@[simp] theorem State.takeMsg_wf (s : State) (f : Flight) (p : Nat) (m : Msg) (t : Track) (h0 : Memory.wf s.mem = true) :
    Memory.wf (s.takeMsg f p m t).mem = true := by
  unfold State.takeMsg
  dsimp only
  (repeat' split) <;> simp [*, Memory.wf_write]
@[simp] theorem execArrivalAccept_wf (id : Nat) (s : State) (h0 : Memory.wf s.mem = true) :
    KeepsWf (execArrivalAccept id s) := by
  unfold execArrivalAccept
  (repeat' split) <;> simp [*, Memory.wf_write]
@[simp] theorem execSheafArrival_wf (id : Nat) (s : State) (h0 : Memory.wf s.mem = true) :
    KeepsWf (execSheafArrival id s) := by
  unfold execSheafArrival
  (repeat' split) <;> simp [*, Memory.wf_write]
@[simp] theorem State.unreserve_wf (s : State) (c lc : Nat) (h0 : Memory.wf s.mem = true) :
    Memory.wf (s.unreserve c lc).mem = true := by
  unfold State.unreserve
  dsimp only
  (repeat' split) <;> simp [*, Memory.wf_write]
@[simp] theorem State.readback_wf (s : State) (c lc : Nat) (h0 : Memory.wf s.mem = true) :
    Memory.wf (s.readback c lc).mem = true := by
  unfold State.readback
  dsimp only
  (repeat' split) <;> simp [*, Memory.wf_write]
@[simp] theorem execSheafListReadback_wf (c lc : Nat) (s : State) (h0 : Memory.wf s.mem = true) :
    KeepsWf (execSheafListReadback c lc s) := by
  unfold execSheafListReadback
  (repeat' split) <;> simp [*, Memory.wf_write]
@[simp] theorem State.refill_wf (s : State) (c lc pr : Nat) (h0 : Memory.wf s.mem = true) :
    Memory.wf (s.refill c lc pr).mem = true := by
  unfold State.refill
  dsimp only
  (repeat' split) <;> simp [*, Memory.wf_write]
@[simp] theorem execSiloRefill_wf (c lc pr : Nat) (s : State) (h0 : Memory.wf s.mem = true) :
    KeepsWf (execSiloRefill c lc pr s) := by
  unfold execSiloRefill
  (repeat' split) <;> simp [*, Memory.wf_write]
@[simp] theorem execReplyDelivery_wf (id : Nat) (s : State) (h0 : Memory.wf s.mem = true) :
    KeepsWf (execReplyDelivery id s) := by
  unfold execReplyDelivery
  dsimp only
  (repeat' split) <;> simp [*, Memory.wf_write]
@[simp] theorem execMulticastMemberAck_wf (id : Nat) (s : State) (h0 : Memory.wf s.mem = true) :
    KeepsWf (execMulticastMemberAck id s) := by
  unfold execMulticastMemberAck
  dsimp only
  (repeat' split) <;> simp [*, Memory.wf_write]
@[simp] theorem State.queueWake_wf (s : State) (c lc rec st : Nat) (k : Cont) (why : Cause) (h0 : Memory.wf s.mem = true) :
    Memory.wf (s.queueWake c lc rec st k why).mem = true := by simp [State.queueWake, h0, Memory.wf_write]
@[simp] theorem State.wokenByRing_wf (s : State) (c lc rec : Nat) (gd : Word) (cur : Nat) (h0 : Memory.wf s.mem = true) :
    Memory.wf (s.wokenByRing c lc rec gd cur).mem = true := by
  unfold State.wokenByRing
  dsimp only
  (repeat' split) <;> simp [*, Memory.wf_write]
@[simp] theorem execRingReply_wf (id : Nat) (s : State) (h0 : Memory.wf s.mem = true) : KeepsWf (execRingReply id s) := by
  unfold execRingReply
  dsimp only
  (repeat' split) <;> simp [*, Memory.wf_write]
@[simp] theorem State.acceptMade_wf (s : State) (p : Nat) (m : Made) (h0 : Memory.wf s.mem = true) :
    Memory.wf (s.acceptMade p m).mem = true := by
  unfold State.acceptMade
  dsimp only
  (repeat' split) <;> simp [*, Memory.wf_write]
@[simp] theorem State.endCycle_wf (s : State) (h0 : Memory.wf s.mem = true) : Memory.wf (s.endCycle).mem = true := by
  unfold State.endCycle
  refine State.foldl_wf (fun u e hu => ?_) _ h0
  exact State.foldl_wf (fun v m hv => State.acceptMade_wf v e.1 m hv) _ hu
@[simp] theorem execWeirInsert_wf (id : Nat) (s : State) (h0 : Memory.wf s.mem = true) :
    KeepsWf (execWeirInsert id s) := by
  unfold execWeirInsert
  dsimp only
  (repeat' split) <;> simp [*, Memory.wf_write]
@[simp] theorem execBarrierArrival_wf (id : Nat) (s : State) (h0 : Memory.wf s.mem = true) :
    KeepsWf (execBarrierArrival id s) := by
  unfold execBarrierArrival
  dsimp only
  (repeat' split) <;> simp [*, Memory.wf_write]
@[simp] theorem State.writePieces_wf (s : State) (l : List (Nat × Nat)) (bs : List Byte) (h0 : Memory.wf s.mem = true) :
    Memory.wf (s.writePieces l bs).mem = true := by
  induction l generalizing s bs with
  | nil => exact h0
  | cons e t ih => exact ih _ _ (State.ownerWrite_wf s _ _ h0)
@[simp] theorem State.writeTable_wf (s : State) (l : List (Nat × Nat)) (bs : List Byte) (h0 : Memory.wf s.mem = true) :
    Memory.wf (s.writeTable l bs).mem = true := by
  unfold State.writeTable
  split
  · exact h0
  · exact State.writePieces_wf _ _ _ (State.ownerWrite_wf s _ _ h0)
theorem State.balance_wf {s t : State} {die c : Nat} (h0 : Memory.wf s.mem = true) (h : s.balance die c = some t) :
    Memory.wf t.mem = true := by
  obtain ⟨l, -, rfl⟩ := Option.map_eq_some_iff.1 h
  exact State.writeTable_wf s l _ h0

theorem State.updated_wf {s t : State} {die c : Nat} (h0 : Memory.wf s.mem = true) (h : s.updated die c = some t) :
    Memory.wf t.mem = true := by
  unfold State.updated at h
  split at h
  · cases h
    simpa using h0
  · exact State.balance_wf h0 h

theorem State.balancePage_mem {s t : State} {die c : Nat} (h : s.balancePage die c = some t) : t.mem = s.mem := by
  unfold State.balancePage at h
  dsimp only at h
  split at h
  · cases h
  · split at h
    · cases h
    · cases h
      simp

theorem State.remoteClose_eq {s u : State} {die : Nat} {o : Option Nat} (h : s.remoteClose die = (o, u)) : u.mem = s.mem := by
  rw [← State.remoteClose_mem s die, h]
@[simp] theorem execBalanceUpdate_wf (die : Nat) (s : State) (h0 : Memory.wf s.mem = true) :
    KeepsWf (execBalanceUpdate die s) := by
  unfold execBalanceUpdate
  dsimp only
  split
  · next t h =>
    obtain ⟨e, -, he⟩ := List.exists_of_findSome?_eq_some h
    obtain ⟨u, hu, rfl⟩ := Option.map_eq_some_iff.1 he
    simpa using State.updated_wf h0 hu
  · split
    · next t h =>
      obtain ⟨e, -, he⟩ := List.exists_of_findSome?_eq_some h
      simpa [State.balancePage_mem he] using h0
    · split
      · next h =>
        have hu := State.remoteClose_eq h
        rw [← hu] at h0
        split
        · next ht => simpa using State.updated_wf h0 ht
        · split
          · next ht => simpa [State.balancePage_mem ht] using h0
          · simpa using h0
      · next h => simpa [State.remoteClose_eq h] using h0
@[simp] theorem State.consume_wf (s : State) (die c base tail : Nat) (h0 : Memory.wf s.mem = true) :
    Memory.wf (s.consume die c base tail).mem = true := by
  unfold State.consume
  dsimp only
  (repeat' split) <;> simp [*, Memory.wf_write]
@[simp] theorem State.takeRec_wf (s : State) (die c base tail slot r : Nat) (h0 : Memory.wf s.mem = true) :
    KeepsWf (s.takeRec die c base tail slot r) := by
  unfold State.takeRec
  dsimp only
  split
  · simpa using State.consume_wf _ die c base tail (by simpa using h0)
  · split
    · simpa using State.consume_wf s die c base tail h0
    · split
      · next h => simpa [State.engineRead_mem h] using h0
      · simpa using h0
      · exact (State.keepsMem_heldStep s s _ _ _ _ _ _ _ rfl).wf h0
      · simpa using State.consume_wf _ die c base tail (by simpa using h0)
      · split
        · simpa using State.consume_wf _ die c base tail (by simpa using h0)
        · simpa using State.consume_wf _ die c base tail (by simpa using h0)
theorem State.badTail_keepsMem (s : State) (die c b : Nat) : s.KeepsMem (s.badTail die c b) := by
  unfold State.badTail
  dsimp only
  split <;> simp
@[simp] theorem execRecordDispatch_wf (die c : Nat) (s : State) (h0 : Memory.wf s.mem = true) :
    KeepsWf (execRecordDispatch die c s) := by
  have hin : ∀ u : State, u.mem = s.mem → Memory.wf u.mem = true := fun u hu => hu ▸ h0
  unfold execRecordDispatch
  dsimp only
  split
  · simpa using h0
  · split
    · split
      · exact (State.badTail_keepsMem s die c _).wf h0
      · generalize hu : (if (s.ctx c).badTails.contains die then _ else s : State) = u
        have hmem : u.mem = s.mem := by rw [← hu]; split <;> rfl
        split
        · next h => simpa [State.engineRead_mem h] using hin u hmem
        · simpa using hin u hmem
        · exact (State.keepsMem_heldStep u u _ _ _ _ _ _ _ rfl).wf (hin u hmem)
        · simpa using State.consume_wf _ die c _ _ (by simpa using hin u hmem)
        · split
          · simpa using hin u hmem
          · exact State.takeRec_wf u die c _ _ _ _ (hin u hmem)
    · exact (State.keepsMem_heldStep s s _ _ _ _ _ _ _ rfl).wf h0
    · simpa using h0
@[simp] theorem State.startSheaf_wf (s : State) (p sl c lc : Nat) (h : Hdr) (ops : List Word) (e : QEntry) (h0 : Memory.wf s.mem = true) :
    Memory.wf (s.startSheaf p sl c lc h ops e).mem = true := by
  unfold State.startSheaf
  dsimp only
  (repeat' split) <;> simp [*, Memory.wf_write]
@[simp] theorem State.resume_wf (s : State) (p sl c lc rec : Nat) (e : QEntry) (h0 : Memory.wf s.mem = true) :
    Memory.wf (s.resume p sl c lc rec e).mem = true := by
  unfold State.resume
  dsimp only
  (repeat' split) <;> simp [*, Memory.wf_write]
@[simp] theorem State.startEntry_wf (s : State) (p sl c lc : Nat) (e : QEntry) (h0 : Memory.wf s.mem = true) :
    Memory.wf (s.startEntry p sl c lc e).mem = true := by
  unfold State.startEntry
  (repeat' split) <;> simp [*, Memory.wf_write]
@[simp] theorem execDispatch_wf (p : Nat) (s : State) (h0 : Memory.wf s.mem = true) : KeepsWf (execDispatch p s) := by
  unfold execDispatch
  dsimp only
  (repeat' split) <;> simp [*, Memory.wf_write]

end Sys2Proof.Machine

/-! SUPPORT. Mailbox commands and the host: memory stays in its canonical form (log 4) -/

namespace Sys2Proof.Machine

open Sys2Proof

@[simp] theorem State.prepareCore_wf (s : State) (l : CtxCore) (h0 : Memory.wf s.mem = true) :
    Memory.wf (s.prepareCore l).mem = true := by
  unfold State.prepareCore
  exact Memory.wf_clear _ _ h0
@[simp] theorem State.applyLaunch_wf (s : State) (c a : Nat) (x : Ctx) (h0 : Memory.wf s.mem = true) :
    Memory.wf (s.applyLaunch c a x).mem = true := by
  have hprep : ∀ (l : Tab CtxCore) (u : State), Memory.wf u.mem = true →
      Memory.wf (l.foldl (fun s e => (s.prepareCore e.2).ownerZero (s.siloAt c e.1) 4096) u).mem = true :=
    fun l u hu => State.foldl_wf (fun v e hv => by simp [hv]) l hu
  have hchan : ∀ (l : List ChanRec) (u : State), (l.foldl (fun s r => s.applyChan c r) u).mem = u.mem :=
    State.foldl_mem _ fun u r => State.applyChan_mem u c r
  have hctr : ∀ (l : List CtrRec) (u : State), (l.foldl (fun s r => s.applyCtrRec c r) u).mem = u.mem :=
    State.foldl_mem _ fun u r => State.applyCtrRec_mem u c r
  have hsend : ∀ (l : List Msg) (u : State), (l.foldl (fun s m => s.sendInitial c m) u).mem = u.mem :=
    State.foldl_mem _ fun u m => State.sendInitial_mem u c m
  have hbase : Memory.wf (State.mem (State.clearFseq (State.setCtx (s.ownerWrite (s.launchDesc a).pmap
      ((indexed (s.placeMap (s.launchDesc a).pmap x.desc.ncore)).flatMap (fun e =>
        leBytes 2 (e.2 / 1024 % 32 * 1024 + (x.lc e.1).pos)))) c x) c)) = true := by
    rw [State.clearFseq_mem, State.setCtx_mem]
    exact State.ownerWrite_wf s _ _ h0
  have hrings : ∀ (l : List Nat) (u : State), Memory.wf u.mem = true → Memory.wf (l.foldl (fun s k =>
      let w := Tab.get 0 x.rdcfg k
      if rEn w then
        match s.translate k c (rBase w) false with
        | .ok (.here pa) _ => s.ownerZero pa 64
        | _ => s
      else s) u).mem = true :=
    fun l u hu => State.foldl_wf (fun v k hv => by dsimp only; (repeat' split) <;> simp [hv]) l hu
  unfold State.applyLaunch
  dsimp only
  split
  · rw [State.becomeRunning_mem, State.setCtx_mem, hctr, hchan]
    exact hrings _ _ (hprep _ _ hbase)
  · rw [hsend, State.setCtx_mem, hctr, hchan]
    exact hrings _ _ (hprep _ _ hbase)
@[simp] theorem execLaunch_wf (cell : Nat) (s : State) (h0 : Memory.wf s.mem = true) : KeepsWf (execLaunch cell s) := by
  refine State.onCell_keepsWf h0 fun c b => ?_
  split
  · simp [h0]
  · simp [h0]
  · simp [h0]
  · simp [h0]
  · simp [h0]
  · simp [h0]
  · split
    · simp [h0]
    · dsimp only
      split
      · simp [h0]
      · exact (keepsWf_answer _ _ _ _ _).2 (State.applyLaunch_wf s c _ _ h0)
@[simp] theorem State.putWords_wf (s : State) (a : Nat) (l : List Word) (h0 : Memory.wf s.mem = true) :
    Memory.wf (s.putWords a l).mem = true := by simp [State.putWords, h0, Memory.wf_write]
@[simp] theorem State.sheavesOut_wf (s : State) (c a : Nat) (l : CtxCore) (h0 : Memory.wf s.mem = true) :
    Memory.wf (s.sheavesOut c a l).mem = true := by
  unfold State.sheavesOut
  exact State.foldl_wf (fun s a h => by simp [h, Memory.wf_write]) _ (by simp [h0])
@[simp] theorem State.quadOut_wf (s : State) (c q a : Nat) (h0 : Memory.wf s.mem = true) :
    Memory.wf (s.quadOut c q a).mem = true := by
  have hwbe : ∀ (l : Tab WbEntry) (u : State), Memory.wf u.mem = true →
      Memory.wf (l.foldl (fun s e => s.ownerWrite (a + 32 * e.1) (leBytes 32 e.2.desc.toNat)) u).mem = true :=
    fun l u hu => State.foldl_wf (fun v e hv => State.ownerWrite_wf v _ _ hv) l hu
  unfold State.quadOut
  dsimp only
  refine State.putWords_wf _ _ _ (State.putWords_wf _ _ _ (State.foldl_wf (fun u n hu => ?_) _ (hwbe _ s h0)))
  split
  · exact State.ownerWrite_wf _ _ _ hu
  · exact hu
@[simp] theorem State.hostTake_wf (s : State) (c : Nat) (m : Msg) (h0 : Memory.wf s.mem = true) :
    Memory.wf (s.hostTake c m).1.mem = true := by
  unfold State.hostTake
  dsimp only
  (repeat' split) <;> simp [*, Memory.wf_write]
@[simp] theorem State.hostDefer_wf (s : State) (f : Flight) (c : Nat) (h0 : Memory.wf s.mem = true) :
    Memory.wf (s.hostDefer f c).mem = true := by
  unfold State.hostDefer
  dsimp only
  (repeat' split) <;> simp [*, Memory.wf_write]
@[simp] theorem execHostBoundMessage_wf (id : Nat) (s : State) (h0 : Memory.wf s.mem = true) :
    KeepsWf (execHostBoundMessage id s) := by
  have hu : ∀ {c : Nat} {m : Msg} {u : State} {b : Bool}, s.hostTake c m = (u, b) → Memory.wf u.mem = true :=
    fun {c} {m} {u} {b} h => by simpa [h] using State.hostTake_wf s c m h0
  unfold execHostBoundMessage
  split
  · split
    · dsimp only
      split
      · simpa using h0
      · split
        · split
          · split <;> simp [h0]
          · simp [h0]
        · split
          · next u h =>
            have htake : Memory.wf u.mem = true := hu h
            simpa using htake
          · next u h =>
            have htake : Memory.wf u.mem = true := hu h
            simp [htake]
    · simpa using h0
  · simpa using h0
@[simp] theorem State.copyBytes_wf (s : State) (src dst n : Nat) (h0 : Memory.wf s.mem = true) :
    Memory.wf (s.copyBytes src dst n).mem = true := by
  unfold State.copyBytes
  exact Memory.wf_install _ _ (Memory.wf_clear _ _ h0)
@[simp] theorem State.writeCore_wf (s : State) (c lc : Nat) (h0 : Memory.wf s.mem = true) :
    Memory.wf (s.writeCore c lc).mem = true := by
  have hslots : ∀ (l : List (Nat × Nat × Inst)) (u : State) (a : Nat), Memory.wf u.mem = true →
      Memory.wf (l.foldl (fun s e => s.ownerWrite (a + 0x60000 + 4096 * e.2.1)
        ((s.slotRec e.2.2 e.2.1).inst.recordBytes (s.slotRec e.2.2 e.2.1).code)) u).mem = true :=
    fun l u a hu => State.foldl_wf (fun v e hv => State.ownerWrite_wf v _ _ hv) l hu
  unfold State.writeCore
  refine State.sheavesOut_wf _ _ _ _ (State.putWords_wf _ _ _ (State.ownerZero_wf _ _ _ (State.openBytes_wf _ _ _
    (State.openBytes_wf _ _ _ (hslots _ _ _ (State.ownerZero_wf _ _ _ (State.copyBytes_wf _ _ _ _ h0)))))))
@[simp] theorem State.writeQuad_wf (s : State) (c k q : Nat) (h0 : Memory.wf s.mem = true) :
    Memory.wf (s.writeQuad c k q).mem = true := by
  unfold State.writeQuad
  refine State.quadOut_wf _ _ _ _ (State.openBytes_wf _ _ _ ?_)
  split
  · exact State.foldl_wf (fun u g hu => State.copyBytes_wf u _ _ _ hu) _ (State.copyBytes_wf s _ _ _ h0)
  · exact h0
@[simp] theorem State.writeDie_wf (s : State) (c d : Nat) (h0 : Memory.wf s.mem = true) :
    Memory.wf (s.writeDie c d).mem = true := by
  unfold State.writeDie
  refine State.foldl_wf (fun u e hu => ?_) _ (State.foldl_wf (fun u e hu => ?_) _ (State.putWords_wf _ _ _ (State.openBytes_wf _ _ _ h0)))
  · split
    · exact State.writeQuad_wf u _ _ _ hu
    · exact hu
  · split
    · exact State.writeCore_wf u _ _ hu
    · exact hu
@[simp] theorem State.flushQueues_wf (s : State) (c lc : Nat) (h0 : Memory.wf s.mem = true) :
    Memory.wf (s.flushQueues c lc).mem = true := by
  unfold State.flushQueues
  refine State.siloControl_wf _ _ _ ?_
  rw [State.setLc_mem]
  refine State.foldl_wf (fun u pr hu => State.foldl_wf (fun v e hv => ?_) _ hu) _ h0
  exact State.writeRecord_wf _ _ _ (by simpa using hv)
@[simp] theorem State.saveCtx_wf (s : State) (c : Nat) (dies : List Nat) (h0 : Memory.wf s.mem = true) :
    Memory.wf (s.saveCtx c dies).mem = true := by
  have hunhold : ∀ (l : List (Nat × Nat × Inst)) (u : State),
      (l.foldl (fun s e => if (s.slotRec e.2.2 e.2.1).code = 0 then s.unhold e.2.2 else s) u).mem = u.mem :=
    State.foldl_mem _ fun u e => by split <;> simp
  unfold State.saveCtx
  dsimp only
  split
  · simpa using h0
  · rw [State.setCtx_mem]
    show Memory.wf (State.mem (State.forwardAll (State.vacate _ c) c)) = true
    rw [State.forwardAll_mem, State.vacate_mem]
    refine State.foldl_wf (fun u e hu => State.flushQueues_wf u _ _ hu) _ (State.putWords_wf _ _ _ (State.openBytes_wf _ _ _
      (State.foldl_wf (fun u d hu => State.writeDie_wf u _ _ hu) _ ?_)))
    rw [hunhold]
    exact h0
@[simp] theorem execPreempt_wf (cell : Nat) (s : State) (h0 : Memory.wf s.mem = true) : KeepsWf (execPreempt cell s) := by
  refine State.onCell_keepsWf h0 fun c b => ?_
  dsimp only
  (repeat' split) <;> simp [h0]
@[simp] theorem State.dieDump_wf (s : State) (c d : Nat) (h0 : Memory.wf s.mem = true) : KeepsWf (s.dieDump c d) := by
  unfold State.dieDump
  dsimp only
  (repeat' split) <;> simp [*, Memory.wf_write]
@[simp] theorem execDumpComplete_wf (c : Nat) (s : State) (h0 : Memory.wf s.mem = true) :
    KeepsWf (execDumpComplete c s) := by
  unfold execDumpComplete
  dsimp only
  (repeat' split) <;> simp [*, Memory.wf_write]
@[simp] theorem State.finish_wf (s : State) (c : Nat) (h0 : Memory.wf s.mem = true) :
    Memory.wf (s.finish c).mem = true := by
  have hclose : ∀ (l : List JSeq) (u : State), (l.foldl (fun s q => s.closeSeq c q.seq) u).mem = u.mem :=
    State.foldl_mem _ fun u q => State.closeSeq_mem u c q.seq
  unfold State.finish
  dsimp only
  rw [State.discardCtx_mem, State.newStatement_mem]
  split
  · exact State.gleanOut_wf _ _ _ _ _ _ (by rw [hclose]; simpa using h0)
  · rw [hclose]
    simpa using h0
@[simp] theorem execMailboxEnd_wf (cell : Nat) (s : State) (h0 : Memory.wf s.mem = true) :
    KeepsWf (execMailboxEnd cell s) := by
  refine State.onCell_keepsWf h0 fun c b => ?_
  dsimp only
  (repeat' split) <;> simp [h0]
@[simp] theorem State.restoreQuads_wf (s : State) (c : Nat) (m : Moves) (v : Saved) (h0 : Memory.wf s.mem = true) :
    Memory.wf (s.restoreQuads c m v).mem = true := by
  unfold State.restoreQuads
  dsimp only
  refine State.foldl_wf (fun u e hu => ?_) _ ?_
  · rw [State.quadBack_mem]
    split
    · exact State.foldl_wf (fun v g hv => State.copyBytes_wf v _ _ _ hv) _ (State.copyBytes_wf u _ _ _ hu)
    · exact hu
  · rw [State.foldl_mem _ fun u e => by simp, State.foldl_mem _ fun u e => by simp, State.foldl_mem _ fun u e => by simp]
    exact h0
@[simp] theorem State.restoreCore_wf (s : State) (c : Nat) (m : Moves) (v : Saved) (lc : Nat) (h0 : Memory.wf s.mem = true) :
    Memory.wf (s.restoreCore c m v lc).mem = true := by simp [State.restoreCore, h0, Memory.wf_write]
@[simp] theorem State.refillQueues_wf (s : State) (c lc : Nat) (h0 : Memory.wf s.mem = true) :
    Memory.wf (s.refillQueues c lc).mem = true := by
  unfold State.refillQueues
  refine iterate_wf (fun u hu => State.unreserve_wf u c lc hu) _ (iterate_wf (fun u hu => ?_) _
    (State.foldl_wf (fun u pr hu => iterate_wf (fun v hv => ?_) _ hu) _ ?_))
  · split
    · exact State.readback_wf u c lc hu
    · exact hu
  · split
    · exact State.refill_wf v c lc pr hv
    · exact hv
  · simpa using h0
@[simp] theorem State.applyDeferred_wf (s : State) (lc : Nat) (f : Flight) (st : Nat) (h0 : Memory.wf s.mem = true) :
    Memory.wf (s.applyDeferred lc f st).mem = true := by
  have hu : ∀ {m : Msg} {u : State} {b : Bool}, s.hostTake f.ctx m = (u, b) → Memory.wf u.mem = true :=
    fun {m} {u} {b} h => by simpa [h] using State.hostTake_wf s f.ctx m h0
  unfold State.applyDeferred
  dsimp only
  split
  · split
    · split
      · next h => simpa using hu h
      · next h => exact State.hostDefer_wf _ _ _ (hu h)
    · split
      · simpa using h0
      · split
        · split <;> simpa using h0
        · split
          · exact State.joinArrival_wf _ _ _ _ _ _ (by simpa using h0)
          · simpa using h0
  all_goals (repeat' split) <;> simp [h0]
@[simp] theorem State.applyAllDeferred_wf (s : State) (c lc : Nat) (h0 : Memory.wf s.mem = true) :
    Memory.wf (s.applyAllDeferred c lc).mem = true := by
  unfold State.applyAllDeferred
  exact State.foldl_wf (fun s a h => by split <;> simp [h, Memory.wf_write]) _ (by simp [h0])
@[simp] theorem State.clearDumped_wf (s : State) (x : Ctx) (h0 : Memory.wf s.mem = true) :
    Memory.wf (s.clearDumped x).mem = true := by
  unfold State.clearDumped
  (repeat' split) <;> simp [*, Memory.wf_write]
@[simp] theorem State.restoreCtx_wf (s : State) (c : Nat) (v : Saved) (new : List Nat) (h0 : Memory.wf s.mem = true) :
    Memory.wf (s.restoreCtx c v new).mem = true := by
  have hslots : ∀ (m : Moves) (l : List SlotRec) (u : State), (l.foldl (fun s r => s.restoreSlot c m r) u).mem = u.mem :=
    fun m => State.foldl_mem _ fun u r => State.restoreSlot_mem u c m r
  have hstamp : ∀ (m : Moves) (l : Tab CtxCore) (u : State),
      (l.foldl (fun s e => s.restampCore c e.1 e.2.pos (m.pos e.2.pos)) u).mem = u.mem :=
    fun m => State.foldl_mem _ fun u e => State.restampCore_mem u c _ _ _
  have hdie : ∀ (x : Ctx) (q : Nat → Nat) (l : List Nat) (u : State),
      (l.foldl (fun s d => s.dieBack c d (x.area 0 + 65536 * (1 + d)) q) u).mem = u.mem :=
    fun x q => State.foldl_mem _ fun u d => State.dieBack_mem u c d _ q
  unfold State.restoreCtx
  dsimp only
  rw [State.becomeRunning_mem, hslots]
  refine State.foldl_wf (fun u lc hu => State.applyAllDeferred_wf u c lc hu) _
    (State.foldl_wf (fun u lc hu => State.refillQueues_wf u c lc hu) _ ?_)
  refine State.foldl_wf (fun u lc hu => State.restoreCore_wf u c _ v lc hu) _ ?_
  rw [State.moveOps_mem]
  refine State.restoreQuads_wf _ _ _ _ ?_
  rw [hdie]
  refine (congrArg Memory.wf (hstamp _ _ _)).trans ?_
  exact State.clearDumped_wf s _ h0
@[simp] theorem execRestore_wf (cell : Nat) (s : State) (h0 : Memory.wf s.mem = true) : KeepsWf (execRestore cell s) := by
  unfold execRestore
  split
  · split
    · simpa using h0
    · split
      · simpa using h0
      · simpa using State.restoreCtx_wf s _ _ _ h0
  · refine State.onCell_keepsWf h0 fun c b => ?_
    dsimp only
    (repeat' split) <;> simp [h0]
@[simp] theorem State.hostPart_wf (s : State) (op : MemOp) (pa n : Nat) (data : List Byte) (h0 : Memory.wf s.mem = true) :
    Memory.wf (s.hostPart op pa n data).mem = true := by
  unfold State.hostPart
  dsimp only
  (repeat' split) <;> simp [*, Memory.wf_write]
@[simp] theorem execHostWindowRead_wf (off n : Nat) (s : State) (h0 : Memory.wf s.mem = true) :
    KeepsWf (execHostWindowRead off n s) := by
  unfold execHostWindowRead
  (repeat' split)
  · simpa using h0
  · simpa using h0
  · simpa using h0
  · exact (keepsWf_next _).2 (State.foldl_wf (fun u e hu => State.hostPart_wf u _ _ _ _ hu) _ h0)
@[simp] theorem execHostWindowWrite_wf (off : Nat) (bytes : List Byte) (s : State) (h0 : Memory.wf s.mem = true) :
    KeepsWf (execHostWindowWrite off bytes s) := by
  unfold execHostWindowWrite
  dsimp only
  (repeat' split)
  · simpa using h0
  · simpa using h0
  · exact (keepsWf_next _).2 (State.foldl_wf (fun u e hu => State.hostPart_wf u _ _ _ _ hu) _ h0)
@[simp] theorem State.afterReset_wf (s : State) (p : Power) (h0 : Memory.wf s.mem = true) :
    Memory.wf (s.afterReset p).mem = true := Memory.wf_filter _ h0
@[simp] theorem execPowerOn_wf (s : State) (h0 : Memory.wf s.mem = true) : KeepsWf (execPowerOn s) := by
  unfold execPowerOn
  (repeat' split) <;> simp [*, Memory.wf_write]
@[simp] theorem State.warmReset_wf (s : State) (h0 : Memory.wf s.mem = true) : KeepsWf (s.warmReset) := by
  unfold State.warmReset
  (repeat' split) <;> simp [*, Memory.wf_write]
@[simp] theorem execHotReset_wf (s : State) (h0 : Memory.wf s.mem = true) :
    KeepsWf (execHotReset s) := by simp [execHotReset, h0, Memory.wf_write]
@[simp] theorem execFunctionLevelReset_wf (s : State) (h0 : Memory.wf s.mem = true) :
    KeepsWf (execFunctionLevelReset s) := by simp [execFunctionLevelReset, h0, Memory.wf_write]
@[simp] theorem execPowerLoss_wf (s : State) (h0 : Memory.wf s.mem = true) : KeepsWf (execPowerLoss s) := by
  unfold execPowerLoss
  (repeat' split) <;> simp [*, Memory.wf_write]
@[simp] theorem execThermalTrip_wf (s : State) (h0 : Memory.wf s.mem = true) : KeepsWf (execThermalTrip s) := by
  unfold execThermalTrip
  (repeat' split) <;> simp [*, Memory.wf_write]
@[simp] theorem State.rewriteLeaves_wf (s : State) (r : Region) (f : Nat → Nat) (n page : Nat) (h0 : Memory.wf s.mem = true) :
    Memory.wf (s.rewriteLeaves r f n page).mem = true := by
  induction n generalizing s page with
  | zero => exact h0
  | succ n ih =>
    rw [State.rewriteLeaves]
    refine ih _ _ ?_
    split
    · dsimp only
      split
      · exact State.ownerWrite_wf s _ _ h0
      · exact h0
    · exact h0
@[simp] theorem State.remap_wf (s : State) (cell code : Nat) (f : Nat → Nat) (h0 : Memory.wf s.mem = true) :
    KeepsWf (s.remap cell code f) := by
  refine State.onCell_keepsWf h0 fun c b => ?_
  dsimp only
  (repeat' split) <;> simp [h0]
@[simp] theorem execUnmap_wf (cell : Nat) (s : State) (h0 : Memory.wf s.mem = true) :
    KeepsWf (execUnmap cell s) := by simp [execUnmap, h0, Memory.wf_write]
@[simp] theorem execProtect_wf (cell : Nat) (s : State) (h0 : Memory.wf s.mem = true) :
    KeepsWf (execProtect cell s) := by simp [execProtect, h0, Memory.wf_write]
@[simp] theorem State.replayFrom_wf (s : State) (cell c : Nat) (es : List BarnEntry) (h0 : Memory.wf s.mem = true) :
    KeepsWf (s.replayFrom cell c es) := by
  have hopen : ∀ (l : List Replayed) (u : State), (l.foldl (fun s r => s.openReplay c r) u).mem = u.mem :=
    State.foldl_mem _ fun u r => State.openReplay_mem u c r
  unfold State.replayFrom
  dsimp only
  split
  · simpa using h0
  · simp [hopen, Memory.wf_write, h0]
@[simp] theorem execReplay_wf (cell : Nat) (held : Option (List BarnEntry)) (s : State) (h0 : Memory.wf s.mem = true) :
    KeepsWf (execReplay cell held s) := by
  refine State.onCell_keepsWf h0 fun c b => ?_
  dsimp only
  (repeat' split) <;> simp [h0, Memory.wf_write]
@[simp] theorem execHealth_wf (cell : Nat) (s : State) (h0 : Memory.wf s.mem = true) : KeepsWf (execHealth cell s) := by
  refine State.onCell_keepsWf h0 fun c b => ?_
  dsimp only
  (repeat' split) <;> simp [h0, Memory.wf_write]
@[simp] theorem execStmt_wf (cell : Nat) (s : State) (h0 : Memory.wf s.mem = true) : KeepsWf (execStmt cell s) := by
  refine State.onCell_keepsWf h0 fun c b => ?_
  dsimp only
  (repeat' split) <;> simp [h0, Memory.wf_write]
@[simp] theorem execLmread_wf (cell : Nat) (s : State) (h0 : Memory.wf s.mem = true) : KeepsWf (execLmread cell s) := by
  refine State.onCell_keepsWf h0 fun c b => ?_
  dsimp only
  (repeat' split) <;> simp [h0, Memory.wf_write]
@[simp] theorem execTrconfig_wf (cell : Nat) (s : State) (h0 : Memory.wf s.mem = true) :
    KeepsWf (execTrconfig cell s) := by
  refine State.onCell_keepsWf h0 fun c b => ?_
  dsimp only
  (repeat' split) <;> simp [h0, Memory.wf_write]
@[simp] theorem execSheaflist_wf (cell : Nat) (s : State) (h0 : Memory.wf s.mem = true) :
    KeepsWf (execSheaflist cell s) := by
  refine State.onCell_keepsWf h0 fun c b => ?_
  dsimp only
  (repeat' split) <;> simp [h0, Memory.wf_write]
@[simp] theorem execCntread_wf (cell : Nat) (s : State) (h0 : Memory.wf s.mem = true) : KeepsWf (execCntread cell s) := by
  refine State.onCell_keepsWf h0 fun c b => ?_
  dsimp only
  (repeat' split) <;> simp [h0, Memory.wf_write]

end Sys2Proof.Machine

/-! SETTLED. Every step keeps memory in its canonical form (log 4). -/

namespace Sys2Proof.Machine

open Sys2Proof

/-- The words and events that may write a byte. -/
def Instr.mayWrite : Instr → Bool
  | .bkpt .. | .trmark .. | .tagpark .. | .qwait .. | .ownerApply .. | .ringOpApply .. | .loadReturn ..
    | .ackReturn .. | .errorReply .. | .wbloadComplete .. | .arrayCommandComplete .. | .copyChunk ..
    | .gatherElementApply .. | .arrivalAccept .. | .sheafArrival .. | .sheafListReadback .. | .siloRefill ..
    | .replyDelivery .. | .multicastMemberAck .. | .ringReply .. | .weirInsert .. | .barrierArrival ..
    | .balanceUpdate .. | .recordDispatch .. | .dispatch .. | .launch .. | .hostBoundMessage .. | .preempt ..
    | .dumpComplete .. | .mailboxEnd .. | .restore .. | .hostWindowRead .. | .hostWindowWrite .. | .powerOn ..
    | .hotReset .. | .functionLevelReset .. | .powerLoss .. | .thermalTrip .. | .unmap .. | .protect .. | .replay ..
    | .health .. | .stmt .. | .lmread .. | .trconfig .. | .sheaflist .. | .cntread .. => true
  | _ => false

/-- A word or event that writes nothing leaves memory as it was. -/
theorem exec_keepsMem {x : Instr} (hx : Instr.mayWrite x = false) (s : State) : s.KeepsMem (exec x s) := by
  cases x <;> (try exact absurd hx Bool.noConfusion) <;> simp [exec]

theorem exec_wf (x : Instr) {s : State} (h0 : Memory.wf s.mem = true) : KeepsWf (exec x s) := by
  by_cases hx : Instr.mayWrite x = true
  · cases x <;> (try exact absurd hx Bool.noConfusion) <;> simp [exec, h0]
  · exact (exec_keepsMem (by simpa using hx) s).wf h0

/-! Moves. -/

theorem State.meet_wf (s : State) (f : Finding) (h0 : Memory.wf s.mem = true) : KeepsWf (s.meet f) := by
  unfold State.meet
  split
  · split <;> simp [h0]
  · split <;> simp [h0]
  · split <;> simp [h0]
  · exact (execPatrolScrub_keepsMem _ s).wf h0

theorem State.issueDecoded_wf (s : State) (i : Inst) (x : Instr) (h0 : Memory.wf s.mem = true) : KeepsWf (s.issueDecoded i x) := by
  unfold State.issueDecoded
  split
  · exact exec_wf x h0
  · split
    · exact (State.onInst_keepsMem fun i v hv => by simpa using hv).wf h0
    · exact exec_wf x (by simpa using h0)

theorem State.issueWord_wf (s : State) (i : Inst) (h0 : Memory.wf s.mem = true) : KeepsWf (s.issueWord i) := by
  unfold State.issueWord
  split
  · simpa using h0
  · simpa using h0
  · exact (State.onInst_keepsMem fun i v hv => by simpa using hv).wf h0
  · exact (State.onInst_keepsMem fun i v hv => by simpa using hv).wf h0
  · exact State.issueDecoded_wf s i _ h0

theorem State.issueCore_wf (s : State) (p : Nat) (h0 : Memory.wf s.mem = true) : KeepsWf (s.issueCore p) := by
  unfold State.issueCore
  split
  · simpa using h0
  · split
    · simpa using h0
    · exact State.issueWord_wf _ _ h0

theorem State.move_wf (s : State) (m : Move) (h0 : Memory.wf s.mem = true) : KeepsWf (s.move m) := by
  cases m with
  | event x =>
    unfold State.move State.eventStep
    dsimp only
    split
    · exact keepsWf_refused _
    · exact exec_wf x h0
  | issue p => exact State.issueCore_wf s p h0
  | meet f => exact State.meet_wf s f h0
  | copyBlock p => exact State.copyBlock_wf s p h0
  | arrayStep q => exact State.arrayStep_wf s q h0
  | loadBlock q e => exact State.loadBlock_wf s q e h0
  | rowBlock p => exact (State.rowBlock_keepsMem s p).wf h0
  | dieDump c d => exact State.dieDump_wf s c d h0
  | bar0Read off n => exact (State.bar0Read_keepsMem s off n).wf h0
  | bar2Read off n => exact (State.bar2Read_keepsMem s off n).wf h0
  | bar2Write off bytes => exact (State.bar2Write_keepsMem s off bytes).wf h0
  | bringUp signed failed => exact (State.bringUp_keepsMem s signed failed).wf h0
  | peerReset port => exact (State.peerReset_keepsMem s port).wf h0

/-! Steps. -/

theorem State.pass_wf (s : State) (dt : Nat) (h0 : Memory.wf s.mem = true) : Memory.wf (s.pass dt).mem = true := by
  unfold State.pass
  split
  · exact h0
  · exact State.endCycle_wf s h0

theorem State.turn_wf (s : State) (t : Turn) (h0 : Memory.wf s.mem = true) : KeepsWf (s.turn t) := by
  unfold State.turn
  dsimp only
  split
  · exact State.move_wf _ _ (State.pass_wf s t.dt h0)
  · exact (keepsWf_idle _ _).2 (State.pass_wf s t.dt h0)

theorem step_wf (s : State) (h0 : Memory.wf s.mem = true) : KeepsWf (step s) := by
  unfold step
  split
  · exact (keepsWf_next _).2 (State.pass_wf s 1 h0)
  · exact State.turn_wf _ _ h0

/-- Settles O4: every move writes memory, if at all, through operations that keep its canonical form. -/
theorem stepKeepsMemoryCanonical : Obligations.StepKeepsMemoryCanonical := fun s t h0 ht => step_wf s h0 t ht

end Sys2Proof.Machine

/-! Mailbox commands (16 R276, 18 R306): the rules of a cell's step and of its answer, and the answers by state. -/

namespace Sys2Proof.Machine

open Sys2Proof

theorem resultWord_code (code : Nat) : resultWord code 0 0 = code := by simp [resultWord]

@[simp] theorem State.vector_ctxs (s : State) (v : Nat) : (s.vector v).ctxs = s.ctxs := by
  unfold State.vector
  split <;> rfl
@[simp] theorem State.vector_cell (s : State) (v k : Nat) : (s.vector v).hub.cell k = s.hub.cell k := by
  unfold State.vector
  split <;> rfl
@[simp] theorem State.vector_busy (s : State) (v : Nat) : (s.vector v).hub.busy = s.hub.busy := by
  unfold State.vector
  split <;> rfl
@[simp] theorem State.vector_mbdone (s : State) (v : Nat) : (s.vector v).hub.mbdone = s.hub.mbdone := by
  unfold State.vector
  split <;> rfl

theorem testBit_lor_two_pow (x n : Nat) : (Nat.lor x (2 ^ n)).testBit n = true := by
  change (x ||| 2 ^ n).testBit n = true
  simp [Nat.testBit_lor, Nat.testBit_two_pow_self]

/-- Vector 0 is sent last, or stays pending while it is masked. -/
theorem State.vector_signalled (s : State) (v : Nat) :
    ((s.vector v).hub.masked v = false ∧ (s.vector v).outbox.getLast? = some (.msix v))
      ∨ ((s.vector v).hub.masked v = true ∧ (s.vector v).hub.pba.testBit v = true) := by
  unfold State.vector
  split
  next h => exact .inr ⟨h, testBit_lor_two_pow _ _⟩
  next h => exact .inl ⟨by simpa [State.emit] using h, by simp [State.emit]⟩

/-- The result word of an answer stands in the last eight bytes of its cell. -/
theorem cell_result (bs : List Byte) (r : Nat) (h : bs.length = 64) :
    ofLe (sliceBytes (padTo 64 (bs.take 56 ++ leBytes 8 r)) 56 8) = r % 2 ^ 64 := by
  have hl : (bs.take 56).length = 56 := by simp [h]
  have hp : padTo 64 (bs.take 56 ++ leBytes 8 r) = bs.take 56 ++ leBytes 8 r := by
    simp [padTo, List.take_of_length_le, h]
  have hd : (bs.take 56 ++ leBytes 8 r).drop 56 = leBytes 8 r := by
    rw [List.drop_append_of_le_length (by omega), List.drop_of_length_le (by omega), List.nil_append]
  rw [hp, sliceBytes, hd, padTo, leBytes_length, Nat.sub_self, List.replicate_zero, List.append_nil,
    List.take_of_length_le (by simp), ofLe_leBytes, show 256 ^ 8 = 2 ^ 64 from rfl]

/-- A command that returns leaves its result word, a free cell, its bit of MBDONE and vector 0. -/
theorem State.mbDone_resulted (s : State) (cell r : Nat) : (s.mbDone cell r).Resulted cell r where
  word := by
    rw [State.mbDone, State.vector_cell]
    simp only [Hub.cell, State.setHub, Tab.get_put, if_true]
    exact cell_result _ _ (padTo_length _ _)
  free := by simp [State.mbDone, State.setHub, Tab.get_put]
  done := by
    rw [State.mbDone, State.vector_mbdone]
    exact testBit_lor_two_pow _ _
  vector := State.vector_signalled _ 0

@[simp] theorem State.mbDone_ctxs (s : State) (cell r : Nat) : (s.mbDone cell r).ctxs = s.ctxs := State.vector_ctxs _ _
@[simp] theorem State.mbDone_ctx (s : State) (cell r c : Nat) : (s.mbDone cell r).ctx c = s.ctx c := by
  simp only [State.ctx, State.mbDone_ctxs]

/-- A command answers on a state `u` that it has made. -/
theorem State.answer_done (u : State) (cell code reason detail : Nat) :
    ∃ t, u.answer cell code reason detail = .next t ∧ t.Resulted cell (resultWord code reason detail)
      ∧ t.ctxs = u.ctxs ∧ t.mem = u.mem :=
  ⟨_, rfl, State.mbDone_resulted u cell _, by simp, by simp⟩

/-- A command whose answer is a code alone. -/
theorem State.answer_code (u : State) (cell code : Nat) :
    ∃ t, u.answer cell code 0 0 = .next t ∧ t.Resulted cell code ∧ t.ctxs = u.ctxs ∧ t.mem = u.mem := by
  obtain ⟨t, ht, hr, hc, hm⟩ := State.answer_done u cell code 0 0
  exact ⟨t, ht, resultWord_code code ▸ hr, hc, hm⟩

/-- A started command runs its step on its context. -/
theorem State.onCell_commanded {s : State} {cell code phase : Nat} (h : s.Commanded cell code phase) (hp : phase ≠ 0)
    (f : Nat → Bool → Out1) : s.onCell cell code f = f (s.hub.cmdCtx cell) (phase == 1) := by
  obtain ⟨hv, ha, hn, hc, hl⟩ := h
  unfold State.onCell
  dsimp only
  rw [if_neg (by rw [ha]; omega), if_neg (fun hg => by have := hc hg.1; omega), if_neg ?_, ha]
  rw [ha]
  rintro hg
  simp only [Bool.and_eq_true, beq_iff_eq] at hg
  obtain ⟨⟨⟨hcc, hph⟩, hb⟩, hst⟩ := hg
  rw [hl hph hcc hst] at hb
  exact Bool.noConfusion hb

/-- A command on a context above 31 answers 3 with reason 0xFE. -/
theorem State.onCell_noCtx {s : State} {cell code : Nat} (hv : cell ≤ 3) (hb : Tab.get 0 s.hub.busy cell ≠ 0)
    (hn : s.hub.cmdCode cell = code) (hc : contextCode code = true) (h32 : 32 ≤ s.hub.cmdCtx cell)
    (f : Nat → Bool → Out1) : s.onCell cell code f = s.answer cell 3 0xFE 0 := by
  unfold State.onCell
  dsimp only
  rw [if_neg (by rintro (h | h | h) <;> [omega; exact hb h; exact h hn]), if_pos ⟨hc, h32⟩, State.answer]

end Sys2Proof.Machine

/-! SETTLED. The mailbox answers by state; LAUNCH and REBIND (16 R276, R280, R283, 21 R358). -/

namespace Sys2Proof.Machine

open Sys2Proof

/-! A checked launch. -/

/-- A chain of checks that ends well ran each of its parts to its end. -/
theorem rej_bind {α β : Type} {m : Rej α} {f : α → Rej β} {y : β} (h : (m >>= f) = .ok y) :
    ∃ a, m = .ok a ∧ f a = .ok y := by
  cases m with
  | error e => exact nomatch h
  | ok a => exact ⟨a, rfl, h⟩

/-- A launch that passes its checks makes a LAUNCHING context. -/
theorem State.checkLaunch_st {s : State} {c a : Nat} {x : Ctx} (h : s.checkLaunch c a = .ok x) : x.st = .launching := by
  unfold State.checkLaunch at h
  obtain ⟨l, -, h⟩ := rej_bind h
  dsimp only at h
  split at h
  next => exact nomatch h
  next =>
    obtain ⟨-, -, h⟩ := rej_bind h
    obtain ⟨-, -, h⟩ := rej_bind h
    obtain ⟨-, -, h⟩ := rej_bind h
    obtain ⟨-, -, h⟩ := rej_bind h
    obtain ⟨-, -, h⟩ := rej_bind h
    obtain ⟨-, -, h⟩ := rej_bind h
    obtain ⟨r, -, h⟩ := rej_bind h
    obtain ⟨-, -, h⟩ := rej_bind h
    obtain ⟨-, -, h⟩ := rej_bind h
    obtain ⟨-, -, h⟩ := rej_bind h
    obtain ⟨-, -, h⟩ := rej_bind h
    obtain ⟨-, -, h⟩ := rej_bind h
    have hx := Except.ok.inj h
    exact hx ▸ rfl

/-! What a launch leaves of the context that it has made. -/

/-- What of a context a launch fixes. -/
def Ctx.launchPart (x : Ctx) : CDesc × List Region × CtxSt := (x.desc, x.regions, x.st)

theorem State.foldl_ctx {α β : Type} (r : Ctx → β) (c : Nat) (f : State → α → State)
    (h : ∀ s a, r ((f s a).ctx c) = r (s.ctx c)) (l : List α) (s : State) : r ((l.foldl f s).ctx c) = r (s.ctx c) := by
  induction l generalizing s with
  | nil => rfl
  | cons a l ih => exact (ih _).trans (h s a)

theorem State.foldl_ctx_eq {α : Type} (c : Nat) (f : State → α → State) (h : ∀ s a, (f s a).ctx c = s.ctx c)
    (l : List α) (s : State) : (l.foldl f s).ctx c = s.ctx c := State.foldl_ctx id c f h l s

theorem State.clearFseq_ctx (s : State) (c k : Nat) : (s.clearFseq c).ctx k = s.ctx k := rfl
theorem State.prepareCore_ctx (s : State) (l : CtxCore) (k : Nat) : (s.prepareCore l).ctx k = s.ctx k := rfl

/-- What of a context does not depend on its monitor entries, a zeroing leaves. -/
theorem State.ownerZero_ctx {β : Type} (r : Ctx → β) (hr : ∀ c v w, r { c with saved := v, watchers := w } = r c)
    (s : State) (pa n k : Nat) : r ((s.ownerZero pa n).ctx k) = r (s.ctx k) := by
  unfold State.ownerZero
  rw [State.fireWatches_ctx r hr]
  rfl

/-- What of a context does not depend on its cores, a change of one core leaves. -/
theorem State.setLc_ctx {β : Type} (r : Ctx → β) (hr : ∀ c l, r { c with lcs := l } = r c) (s : State) (c lc : Nat)
    (l : CtxCore) (k : Nat) : r ((s.setLc c lc l).ctx k) = r (s.ctx k) := by
  rw [State.setLc, State.ctx_setCtx]
  split
  next h => rw [h]; exact hr _ _
  next => rfl

theorem State.applyChan_ctx {β : Type} (r : Ctx → β) (hr : ∀ c l, r { c with lcs := l } = r c) (s : State) (c : Nat)
    (e : ChanRec) (k : Nat) : r ((s.applyChan c e).ctx k) = r (s.ctx k) := by
  unfold State.applyChan
  dsimp only
  split
  · exact State.foldl_ctx r k _ (fun s a => State.setLc_ctx r hr _ _ _ _ _) _ _
  · exact State.setLc_ctx r hr _ _ _ _ _

theorem State.applyCtrRec_ctx (s : State) (c : Nat) (e : CtrRec) (k : Nat) : (s.applyCtrRec c e).ctx k = s.ctx k := by
  unfold State.applyCtrRec
  dsimp only
  split <;> rfl

theorem State.sendInitial_ctx (s : State) (c : Nat) (m : Msg) (k : Nat) : (s.sendInitial c m).ctx k = s.ctx k := by
  simp [State.sendInitial]

theorem State.inject_ctx (s : State) (c : Nat) (bs : List Byte) (k : Nat) : (s.inject c bs).ctx k = s.ctx k := by
  unfold State.inject
  dsimp only
  split <;> simp

/-- A context that becomes RUNNING keeps all but its state and the messages it held. -/
theorem State.becomeRunning_ctx (s : State) (c : Nat) :
    (s.becomeRunning c).ctx c = { s.ctx c with st := .running, injects := [] } := by
  unfold State.becomeRunning
  dsimp only
  generalize hx : ({ s.ctx c with st := .running, injects := [] } : Ctx) = x
  rw [State.foldl_ctx_eq c _ (fun s e => State.inject_ctx s c _ c), State.ctx_setCtx, if_pos rfl]

/-- A launched context has the scalars and the regions that its descriptor was read as, and is LAUNCHING while its first
messages are on their way, or RUNNING at once. -/
theorem State.applyLaunch_ctx (s : State) (c a : Nat) (x : Ctx) :
    ((s.applyLaunch c a x).ctx c).launchPart = x.launchPart
      ∨ ((s.applyLaunch c a x).ctx c).launchPart = (x.desc, x.regions, .running) := by
  have hw : ∀ (y : Ctx) v w, ({ y with saved := v, watchers := w } : Ctx).launchPart = y.launchPart := fun _ _ _ => rfl
  have hl : ∀ (y : Ctx) l, ({ y with lcs := l } : Ctx).launchPart = y.launchPart := fun _ _ => rfl
  unfold State.applyLaunch
  dsimp only
  generalize hu : List.foldl (fun s r => State.applyCtrRec s c r) _ _ = u
  have hp : (u.ctx c).launchPart = x.launchPart := by
    rw [← hu, State.foldl_ctx Ctx.launchPart c _ (fun s e => by rw [State.applyCtrRec_ctx]),
      State.foldl_ctx Ctx.launchPart c _ (fun s e => State.applyChan_ctx _ hl s c e c),
      State.foldl_ctx Ctx.launchPart c _ (fun s k => ?_), State.foldl_ctx Ctx.launchPart c _ (fun s e => ?_),
      State.clearFseq_ctx, State.ctx_setCtx, if_pos rfl]
    · rw [State.ownerZero_ctx _ hw, State.prepareCore_ctx]
    · split
      · split
        · exact State.ownerZero_ctx _ hw _ _ _ _
        · rfl
      · rfl
  split
  · refine .inr ?_
    rw [State.becomeRunning_ctx, State.ctx_setCtx, if_pos rfl]
    have h := Prod.mk.inj hp
    have h2 := Prod.mk.inj h.2
    simp only [Ctx.launchPart, h.1, h2.1]
  · refine .inl ?_
    rw [State.foldl_ctx Ctx.launchPart c _ (fun s m => by rw [State.sendInitial_ctx]), State.ctx_setCtx, if_pos rfl]
    exact hp

/-! The answers by state. -/

/-- The states that lie between states. -/
def CtxSt.between : List CtxSt := [.launching, .saving, .restoring, .ending]

/-- A command of a code: in its first step it answers 1 in the states of `l`, and 2 between states. -/
def State.AnswersByState (s : State) (cell code : Nat) (out : Out1) (l : List CtxSt) : Prop :=
  contextCode code = true ∧ ∃ f, out = s.onCell cell code f
    ∧ ∀ c, ((s.ctx c).st ∈ l → f c true = s.answer cell 1 0 0)
      ∧ ((s.ctx c).st ∈ CtxSt.between → f c true = s.answer cell 2 0 0)

theorem CtxSt.mem_between {x : CtxSt} (h : x ∈ CtxSt.between) :
    x = .launching ∨ x = .saving ∨ x = .restoring ∨ x = .ending := by
  simpa [CtxSt.between] using h

theorem launch_byState (s : State) (cell : Nat) : s.AnswersByState cell 0x01 (execLaunch cell s) [.running, .saved] := by
  refine ⟨rfl, _, rfl, fun c => ⟨fun h => ?_, fun h => ?_⟩⟩
  · simp only [List.mem_cons, List.not_mem_nil, or_false] at h
    rcases h with h | h
    all_goals simp only [h, if_true]
  · rcases CtxSt.mem_between h with h | h | h | h
    all_goals simp only [h, if_true]

theorem rebind_byState (s : State) (cell : Nat) : s.AnswersByState cell 0x02 (execRebind cell s) [.free] := by
  refine ⟨rfl, _, rfl, fun c => ⟨fun h => ?_, fun h => ?_⟩⟩
  · simp only [List.mem_cons, List.not_mem_nil, or_false] at h
    rcases h with h
    all_goals simp only [h, if_true]
  · rcases CtxSt.mem_between h with h | h | h | h
    all_goals simp only [h, if_true]

theorem preempt_byState (s : State) (cell : Nat) : s.AnswersByState cell 0x03 (execPreempt cell s) [.free, .saved] := by
  refine ⟨rfl, _, rfl, fun c => ⟨fun h => ?_, fun h => ?_⟩⟩
  · simp only [List.mem_cons, List.not_mem_nil, or_false] at h
    rcases h with h | h
    all_goals simp only [h, if_true]
  · rcases CtxSt.mem_between h with h | h | h | h
    all_goals simp only [h, if_true]

theorem mailboxEnd_byState (s : State) (cell : Nat) : s.AnswersByState cell 0x05 (execMailboxEnd cell s) [.free] := by
  refine ⟨rfl, _, rfl, fun c => ⟨fun h => ?_, fun h => ?_⟩⟩
  · simp only [List.mem_cons, List.not_mem_nil, or_false] at h
    rcases h with h
    all_goals simp only [h, if_true]
  · rcases CtxSt.mem_between h with h | h | h | h
    all_goals simp only [h, if_true]

theorem setdbg_byState (s : State) (cell : Nat) : s.AnswersByState cell 0x08 (execSetdbg cell s) [.free] := by
  refine ⟨rfl, _, rfl, fun c => ⟨fun h => ?_, fun h => ?_⟩⟩
  · simp only [List.mem_cons, List.not_mem_nil, or_false] at h
    rcases h with h
    all_goals simp only [h, if_true]
  · rcases CtxSt.mem_between h with h | h | h | h
    all_goals simp only [h, if_true]

theorem remap_byState (s : State) (cell code : Nat) (f : Nat → Nat) (hc : contextCode code = true) :
    s.AnswersByState cell code (s.remap cell code f) [.free] := by
  refine ⟨hc, _, rfl, fun c => ⟨fun h => ?_, fun h => ?_⟩⟩
  · simp only [List.mem_singleton] at h
    simp only [h, if_true]
  · rcases CtxSt.mem_between h with h | h | h | h
    all_goals simp only [h, if_true]

theorem restore_byState {s : State} {cell : Nat} (h0 : s.restoring cell = none) :
    s.AnswersByState cell 0x04 (execRestore cell s) [.free, .running] := by
  refine ⟨rfl, _, by rw [execRestore, h0], fun c => ⟨fun h => ?_, fun h => ?_⟩⟩
  · simp only [List.mem_cons, List.not_mem_nil, or_false] at h
    rcases h with h | h
    all_goals simp only [h]
  · rcases CtxSt.mem_between h with h | h | h | h
    all_goals simp only [h]

theorem State.AnswersByState.code {s : State} {cell code : Nat} {out : Out1} {l1 : List CtxSt}
    (h : s.AnswersByState cell code out l1) {l : List CtxSt} {k : Nat}
    (hl : (l = l1 ∧ k = 1) ∨ (l = CtxSt.between ∧ k = 2)) (hc : s.Commanded cell code 1)
    (hst : (s.ctx (s.hub.cmdCtx cell)).st ∈ l) :
    ∃ t, out = .next t ∧ t.Resulted cell k ∧ t.ctxs = s.ctxs ∧ t.mem = s.mem := by
  obtain ⟨-, f, hf, hs⟩ := h
  rw [hf, State.onCell_commanded hc Nat.one_ne_zero]
  rcases hl with ⟨rfl, rfl⟩ | ⟨rfl, rfl⟩
  · exact (hs _).1 hst ▸ State.answer_code s cell 1
  · exact (hs _).2 hst ▸ State.answer_code s cell 2

theorem State.AnswersByState.noCtx {s : State} {cell code : Nat} {out : Out1} {l1 : List CtxSt}
    (h : s.AnswersByState cell code out l1) (hv : cell ≤ 3) (hb : Tab.get 0 s.hub.busy cell ≠ 0)
    (hn : s.hub.cmdCode cell = code) (h32 : 32 ≤ s.hub.cmdCtx cell) :
    ∃ t, out = .next t ∧ t.Resulted cell (resultWord 3 0xFE 0) ∧ t.ctxs = s.ctxs ∧ t.mem = s.mem := by
  obtain ⟨hc, f, hf, -⟩ := h
  rw [hf, State.onCell_noCtx hv hb hn hc h32]
  exact State.answer_done s cell 3 0xFE 0

/-- The eight commands on a context, each with the states that it answers 1. -/
theorem commands_byState {s : State} {cell : Nat} (h0 : s.restoring cell = none) :
    ∀ r ∈ ([(.launch, 1, [.running, .saved], CtxSt.between), (.rebind, 2, [.free], CtxSt.between),
          (.preempt, 3, [.free, .saved], CtxSt.between), (.restore, 4, [.free, .running], CtxSt.between),
          (.mailboxEnd, 5, [.free], CtxSt.between), (.unmap, 6, [.free], CtxSt.between),
          (.protect, 7, [.free], CtxSt.between), (.setdbg, 8, [.free], CtxSt.between)]
            : List ((Nat → Instr) × Nat × List CtxSt × List CtxSt)),
      s.AnswersByState cell r.2.1 (exec (r.1 cell) s) r.2.2.1 ∧ r.2.2.2 = CtxSt.between := by
  simp only [List.forall_mem_cons, List.not_mem_nil, false_implies, implies_true, and_true]
  exact ⟨launch_byState s cell, rebind_byState s cell, preempt_byState s cell, restore_byState h0,
    mailboxEnd_byState s cell, remap_byState s cell _ _ rfl, remap_byState s cell _ _ rfl, setdbg_byState s cell⟩

/-- A code that names no command answers 3 with reason 0xFF. -/
theorem mailboxInvalidCode_answers {s : State} {cell : Nat} (hv : cell ≤ 3) (hb : Tab.get 0 s.hub.busy cell = 1)
    (hk : knownCode (s.hub.cmdCode cell) = false) :
    ∃ t, exec (.mailboxInvalidCode cell) s = .next t ∧ t.Resulted cell (resultWord 3 0xFF 0) ∧ t.ctxs = s.ctxs
      ∧ t.mem = s.mem := by
  rw [show exec (.mailboxInvalidCode cell) s = execMailboxInvalidCode cell s from rfl, execMailboxInvalidCode]
  rw [if_neg (by rintro (h | h | h) <;> [omega; exact h hb; simp [hk] at h])]
  exact State.answer_done s cell 3 0xFF 0

/-! LAUNCH. -/

theorem launch_free {s : State} {cell : Nat} (h : s.Commanded cell 1 1) (hst : (s.ctx (s.hub.cmdCtx cell)).st = .free) :
    exec (.launch cell) s = match s.hub.linkFailed with
      | some link => s.answer cell 3 12 link
      | none => match s.checkLaunch (s.hub.cmdCtx cell) (s.hub.arg cell 0) with
        | .error (r, d) => s.answer cell 3 r d
        | .ok x => (s.applyLaunch (s.hub.cmdCtx cell) (s.hub.arg cell 0) x).answer cell 0 0 0 := by
  rw [show exec (.launch cell) s = execLaunch cell s from rfl, execLaunch, State.onCell_commanded h Nat.one_ne_zero]
  simp only [hst] <;> rfl

/-- A launch that passes its checks answers 0 and leaves the context it has made. -/
theorem launch_makes {s : State} {cell : Nat} {x : Ctx} (h : s.Commanded cell 1 1)
    (hst : (s.ctx (s.hub.cmdCtx cell)).st = .free) (hl : s.hub.linkFailed = none)
    (hx : s.checkLaunch (s.hub.cmdCtx cell) (s.hub.arg cell 0) = .ok x) :
    ∃ t, exec (.launch cell) s = .next t ∧ t.Resulted cell 0 ∧ (t.ctx (s.hub.cmdCtx cell)).desc = x.desc
      ∧ (t.ctx (s.hub.cmdCtx cell)).regions = x.regions
      ∧ ((t.ctx (s.hub.cmdCtx cell)).st = .launching ∨ (t.ctx (s.hub.cmdCtx cell)).st = .running) := by
  obtain ⟨t, ht, hr, hc, -⟩ := State.answer_code (s.applyLaunch (s.hub.cmdCtx cell) (s.hub.arg cell 0) x) cell 0
  have hk : t.ctx (s.hub.cmdCtx cell) = (s.applyLaunch (s.hub.cmdCtx cell) (s.hub.arg cell 0) x).ctx (s.hub.cmdCtx cell) :=
    congrArg (fun l => Tab.get Ctx.reset l _) hc
  refine ⟨t, by rw [launch_free h hst, hl]; simp only [hx]; exact ht, hr, ?_⟩
  rw [hk]
  have hl := State.checkLaunch_st hx
  rcases State.applyLaunch_ctx s (s.hub.cmdCtx cell) (s.hub.arg cell 0) x with hp | hp
  all_goals
    simp only [Ctx.launchPart, Prod.mk.injEq] at hp
    obtain ⟨hd, hg, hs⟩ := hp
  · exact ⟨hd, hg, .inl (hs.trans hl)⟩
  · exact ⟨hd, hg, .inr hs⟩

/-! REBIND. -/

theorem rebind_started {s : State} {cell : Nat} (h : s.Commanded cell 2 1)
    (hst : (s.ctx (s.hub.cmdCtx cell)).st = .running ∨ (s.ctx (s.hub.cmdCtx cell)).st = .saved) {x : Ctx} {c g im : Nat}
    (hc : c = s.hub.cmdCtx cell) (hx : x = s.ctx c) (hg : g = (x.nextGen.getD x.gen + 1) % 4) (him : im = s.hub.arg cell 0) :
    exec (.rebind cell) s = if s.resident c g then s.answer cell 5 0 0
      else if (s.badImage im).isSome || im % 64 != 0 then s.answer cell 3 2 ((s.badImage im).getD 0)
      else match s.checkHeaders x.desc.rsafe im with
        | .error (r, d) => s.answer cell 3 r d
        | .ok _ => (s.setCtx c (if x.st = .saved then { x with tables := x.tables.put g ⟨im, true⟩, nextGen := some g }
            else { x with tables := x.tables.put g ⟨im, true⟩, gen := g })).answer cell 0 0 0 := by
  rw [show exec (.rebind cell) s = execRebind cell s from rfl, execRebind, State.onCell_commanded h Nat.one_ne_zero]
  subst hc hx hg him
  rcases hst with hst | hst
  all_goals
    simp only [hst] <;> rfl

theorem rebind_resident {s : State} {cell c g : Nat} {x : Ctx} (h : s.Commanded cell 2 1) (hc : c = s.hub.cmdCtx cell)
    (hx : x = s.ctx c) (hg : g = (x.nextGen.getD x.gen + 1) % 4) (hst : x.st = .running ∨ x.st = .saved)
    (hr : s.resident c g = true) :
    ∃ t, exec (.rebind cell) s = .next t ∧ t.Resulted cell 5 ∧ t.ctxs = s.ctxs := by
  rw [rebind_started h (hc ▸ hx ▸ hst) hc hx hg rfl, if_pos hr]
  obtain ⟨t, ht, hr, hcx, -⟩ := State.answer_code s cell 5
  exact ⟨t, ht, hr, hcx⟩

theorem rebind_binds {s : State} {cell c g im : Nat} {x : Ctx} (h : s.Commanded cell 2 1) (hc : c = s.hub.cmdCtx cell)
    (hx : x = s.ctx c) (hg : g = (x.nextGen.getD x.gen + 1) % 4) (him : im = s.hub.arg cell 0)
    (hst : x.st = .running ∨ x.st = .saved) (hr : s.resident c g = false) (hb : s.badImage im = none) (ha : im % 64 = 0)
    (hh : s.checkHeaders x.desc.rsafe im = .ok ()) :
    ∃ t, exec (.rebind cell) s = .next t ∧ t.Resulted cell 0 ∧ t.mem = s.mem
      ∧ (t.ctx c).tables.get? g = some ⟨im, true⟩
      ∧ (x.st = .running → (t.ctx c).gen = g)
      ∧ (x.st = .saved → (t.ctx c).gen = x.gen ∧ (t.ctx c).nextGen = some g) := by
  rw [rebind_started h (hc ▸ hx ▸ hst) hc hx hg him, if_neg (by simp [hr]), if_neg (by simp [hb, ha]), hh]
  dsimp only
  generalize hy : (if x.st = .saved then _ else _ : Ctx) = y
  obtain ⟨t, ht, hr, hcx, hm⟩ := State.answer_code (s.setCtx c y) cell 0
  have hk : t.ctx c = y := (congrArg (fun l => Tab.get Ctx.reset l c) hcx).trans (by simp [Tab.get_put, State.setCtx])
  refine ⟨t, ht, hr, hm, ?_⟩
  rw [hk, ← hy]
  rcases hst with hst | hst
  · simp [hst, Tab.get?_put]
  · simp [hst, Tab.get?_put]

/-- Settles O53: a command's answer is a function of its context's state; LAUNCH and REBIND add what their checks decide. -/
theorem launchAndRebindComplete : Obligations.LaunchAndRebindComplete := by
  unfold Obligations.LaunchAndRebindComplete
  refine ⟨fun s cell => ⟨fun r hr h0 => ?_, mailboxInvalidCode_answers⟩, ?_⟩
  · obtain ⟨hs, hb⟩ := commands_byState h0 r hr
    exact ⟨fun l code hl => hs.code (hb ▸ hl), fun hv hbz hn h32 => hs.noCtx hv hbz hn h32⟩
  · rintro s cell c rfl
    refine ⟨fun h hst => ⟨fun link hl => ?_, fun hl r d he => ?_, fun hl x hx => launch_makes h hst hl hx⟩, ?_⟩
    · rw [launch_free h hst, hl]
      exact State.answer_done s cell 3 12 link
    · rw [launch_free h hst, hl, he]
      exact State.answer_done s cell 3 r d
    · exact fun x g im h hx hg him hst => ⟨rebind_resident h rfl hx hg hst, rebind_binds h rfl hx hg him hst⟩

end Sys2Proof.Machine

/-! SETTLED. PREEMPT, RESTORE and END (16 R277, R287 to R291). -/

namespace Sys2Proof.Machine

open Sys2Proof

/-! What a restore finds: no list of the silo, and no access held back, has anything for the context. -/

/-- A flight that waits for no context to take it. -/
def Flight.Taken (f : Flight) : Prop := ∀ l st n, f.stage ≠ .deferred l st n

/-- A core of a context whose silo lists are empty. -/
def CtxCore.Listless (l : CtxCore) : Prop := l.sheafList = [] ∧ l.reserve = [] ∧ ∀ pr, l.siloOf pr = []

/-- Nothing waits for the context: no flight is deferred for it and its silo lists are empty. -/
structure State.Nothing (s : State) (k : Nat) : Prop where
  flights : ∀ f ∈ s.flights, f.ctx = k → f.Taken
  lists : ∀ lc, ((s.ctx k).lc lc).Listless

theorem CtxCore.listless_init (p : Nat) : (CtxCore.init p).Listless := ⟨rfl, rfl, fun _ => rfl⟩

theorem Ctx.listless_of_mem {x : Ctx} (h : ∀ e ∈ x.lcs, e.2.sheafList = [] ∧ e.2.reserve = [] ∧ ∀ pr, e.2.siloOf pr = [])
    (lc : Nat) : (x.lc lc).Listless := by
  rcases Tab.get_default_or_mem (CtxCore.init 0) x.lcs lc with h0 | h0
  · rw [Ctx.lc, h0]
    exact CtxCore.listless_init 0
  · exact h _ h0

theorem State.Nothing.of_same {s t : State} {k : Nat} (h : s.Nothing k) (hf : t.flights = s.flights)
    (hl : (t.ctx k).lcs = (s.ctx k).lcs) : t.Nothing k :=
  ⟨hf ▸ h.flights, fun lc => by rw [Ctx.lc, hl]; exact h.lists lc⟩

theorem State.deliver_flights_new (s : State) (w : Who) (o : Nat) (m : Msg) (t : Track) (x : Nat × Nat) (a b : List Nat)
    (r : Bool) (e : Option Nat) : ∀ f ∈ (s.deliver w o m t x a b r e).flights, f ∈ s.flights ∨ f.Taken := by
  intro f hf
  unfold State.deliver at hf
  split at hf
  · rcases List.mem_append.1 hf with hf | hf
    · exact .inl hf
    · refine .inr fun l st n => ?_
      rw [List.mem_singleton.1 hf]
      dsimp only
      split <;> simp [mkFlight]
  · split at hf
    · exact .inl hf
    · rcases List.mem_append.1 hf with hf | hf
      · exact .inl hf
      · refine .inr fun l st n => ?_
        rw [List.mem_singleton.1 hf]
        simp [mkFlight]

theorem State.Nothing.deliver {s : State} {k : Nat} (h : s.Nothing k) (w : Who) (o : Nat) (m : Msg) (t : Track)
    (x : Nat × Nat) (a b : List Nat) (r : Bool) (e : Option Nat) : (s.deliver w o m t x a b r e).Nothing k :=
  ⟨fun f hf hk => (State.deliver_flights_new s w o m t x a b r e f hf).elim (fun hf => h.flights f hf hk) id, fun lc => by
    rw [State.deliver_ctx]; exact h.lists lc⟩

theorem State.Nothing.foldl {α : Type} {k : Nat} {f : State → α → State} (hf : ∀ s a, s.Nothing k → (f s a).Nothing k)
    (l : List α) {s : State} (h : s.Nothing k) : (l.foldl f s).Nothing k := by
  induction l generalizing s with
  | nil => exact h
  | cons a l ih => exact ih (hf s a h)

theorem State.Nothing.fireWatches {s : State} {k : Nat} (h : s.Nothing k) (pa n : Nat) : (s.fireWatches pa n).Nothing k := by
  have key : ∀ u : State, u.Nothing k → ({ u with ctxs := u.ctxs.map (fun e => (e.1, { e.2 with
      saved := e.2.saved.map (fun v => { v with mons := v.mons.filter (fun m => !m.2.hit pa n) })
      watchers := e.2.watchers.filter (fun w => !overlap pa n w.pa 8) })) } : State).Nothing k := by
    refine fun u hu => hu.of_same rfl ?_
    exact Tab.get_map (fun x : Ctx => { x with
      saved := x.saved.map (fun v => { v with mons := v.mons.filter (fun m => !m.2.hit pa n) })
      watchers := x.watchers.filter (fun w => !overlap pa n w.pa 8) }) Ctx.lcs (fun c => rfl) _ _ _
  refine State.Nothing.foldl (fun u a hu => State.Nothing.deliver hu ..) _ ?_
  refine State.Nothing.foldl (fun u a hu => State.Nothing.deliver hu ..) _ ?_
  refine key _ ?_
  refine State.Nothing.foldl (fun u a hu => ?_) _ (h.of_same rfl rfl)
  split
  split
  · exact hu.deliver ..
  · exact hu

/-- A change of flights that keeps their context, and defers none that was not. -/
theorem State.Nothing.mapFlights {s t : State} {k : Nat} (h : s.Nothing k) (g : Flight → Flight)
    (hg : ∀ f, (g f).ctx = f.ctx ∧ (f.Taken → (g f).Taken)) (hf : t.flights = s.flights.map g)
    (hl : (t.ctx k).lcs = (s.ctx k).lcs) : t.Nothing k := by
  refine ⟨fun f hf' hk => ?_, fun lc => by rw [Ctx.lc, hl]; exact h.lists lc⟩
  rw [hf] at hf'
  obtain ⟨e, he, rfl⟩ := List.mem_map.1 hf'
  exact (hg e).2 (h.flights e he ((hg e).1 ▸ hk))

theorem State.Nothing.wakeWords {s : State} {k : Nat} (h : s.Nothing k) (pa n : Nat) : (s.wakeWords pa n).Nothing k := by
  refine h.mapFlights _ (fun f => ?_) rfl rfl
  split
  · split
    · exact ⟨rfl, fun _ l st n => by simp⟩
    · exact ⟨rfl, id⟩
  · exact ⟨rfl, id⟩

theorem State.Nothing.ownerWrite {s : State} {k : Nat} (h : s.Nothing k) (pa : Nat) (bs : List Byte) :
    (s.ownerWrite pa bs).Nothing k := by
  unfold State.ownerWrite
  split
  · exact h
  · refine State.Nothing.fireWatches (State.Nothing.wakeWords ?_ _ _) _ _
    exact h.of_same rfl rfl

theorem State.Nothing.clearDumped {s : State} {k : Nat} (h : s.Nothing k) (x : Ctx) : (s.clearDumped x).Nothing k := by
  unfold State.clearDumped
  dsimp only
  split
  · exact h.ownerWrite ..
  · exact h

/-- A core of a context that is set to one with empty lists. -/
theorem State.Nothing.setLc {s : State} {k : Nat} (h : s.Nothing k) (lc : Nat) {l : CtxCore} (hl : l.Listless) :
    (s.setLc k lc l).Nothing k := by
  refine ⟨h.flights, fun j => ?_⟩
  simp only [State.setLc, State.ctx_setCtx, if_true, Ctx.lc, Ctx.setLc, Tab.get_put]
  split
  · exact hl
  · exact h.lists j

theorem CtxCore.Listless.restamp {l : CtxCore} (h : l.Listless) (f : Nat → Nat) : (l.restamp f).Listless := by
  obtain ⟨hs, hr, hq⟩ := h
  refine ⟨by simp [CtxCore.restamp, hs], by simp [CtxCore.restamp, hr], fun pr => ?_⟩
  refine (Tab.get_map_of (List.map fun x : QEntry => { x with stamp := f x.stamp }) id
    (List.map fun x : QEntry => { x with stamp := f x.stamp }) (fun _ => rfl) [] rfl l.silo pr).trans ?_
  exact congrArg (List.map _) (hq pr)

theorem State.Nothing.restampCore {s : State} {k : Nat} (h : s.Nothing k) (lc old new : Nat) :
    (s.restampCore k lc old new).Nothing k := by
  unfold State.restampCore
  split
  · exact h
  · have h1 := h.setLc lc ((h.lists lc).restamp (restamp (s.core old).stamp (s.core new).stamp))
    refine ⟨fun f hf hk => ?_, h1.lists⟩
    obtain ⟨g, hg, rfl⟩ := List.mem_map.1 hf
    split at hk
    next hst =>
      have hk' : g.ctx = k := by split at hk <;> exact hk
      exact absurd hst (h.flights g hg hk' _ _ _)
    next => exact h.flights g hg hk

/-! What the context has taken back. -/

theorem Moves.flight_same (m : Moves) (f : Flight) : (m.flight f).ctx = f.ctx ∧ (m.flight f).stage = f.stage := by
  unfold Moves.flight
  extract_lets g h
  have hh : h.ctx = f.ctx ∧ h.stage = f.stage := by
    unfold h g
    cases hb : f.body <;> simp [Flight.ctx, hb, Moves.req, Moves.who]
  clear_value h
  split
  · exact hh
  · split <;> exact hh
  · split <;> exact hh
  · exact hh

theorem State.fromHere_same (s : State) (f : Flight) : (s.fromHere f).ctx = f.ctx ∧ (s.fromHere f).stage = f.stage := by
  unfold State.fromHere State.routed
  split
  · dsimp only
    split
    next hb => simp [Flight.ctx, hb]
    next => exact ⟨rfl, rfl⟩
  · exact ⟨rfl, rfl⟩

theorem Flight.taken_of_stage {f g : Flight} (h : g.stage = f.stage) (hf : f.Taken) : g.Taken :=
  fun l st n => h ▸ hf l st n

/-- A context that is taken back: nothing waits for it, and it is no longer saved. -/
structure State.Back (s : State) (k : Nat) : Prop where
  nothing : s.Nothing k
  saved : (s.ctx k).saved = none

theorem State.Back.of_same {s t : State} {k : Nat} (h : s.Back k) (hf : t.flights = s.flights)
    (hl : (t.ctx k).lcs = (s.ctx k).lcs) (hs : (t.ctx k).saved = (s.ctx k).saved) : t.Back k :=
  ⟨h.nothing.of_same hf hl, hs.trans h.saved⟩

/-- A change of flights that keeps their context and their stage. -/
theorem State.Back.mapFlights {s t : State} {k : Nat} (h : s.Back k) (g : Flight → Flight)
    (hg : ∀ f, (g f).ctx = f.ctx ∧ (g f).stage = f.stage) (hf : t.flights = s.flights.map g)
    (hl : (t.ctx k).lcs = (s.ctx k).lcs) (hs : (t.ctx k).saved = (s.ctx k).saved) : t.Back k :=
  ⟨h.nothing.mapFlights g (fun f => ⟨(hg f).1, Flight.taken_of_stage (hg f).2⟩) hf hl, hs.trans h.saved⟩

theorem State.Back.foldl {α : Type} {k : Nat} {f : State → α → State} (hf : ∀ s a, s.Back k → (f s a).Back k)
    (l : List α) {s : State} (h : s.Back k) : (l.foldl f s).Back k := by
  induction l generalizing s with
  | nil => exact h
  | cons a l ih => exact ih (hf s a h)

theorem State.Back.iterate {k : Nat} {f : State → State} (hf : ∀ s, s.Back k → (f s).Back k) (n : Nat) {s : State}
    (h : s.Back k) : (iterate f n s).Back k := by
  induction n generalizing s with
  | zero => exact h
  | succ n ih => exact ih (hf s h)

theorem State.Back.setCtx {s : State} {k : Nat} (h : s.Back k) {x : Ctx} (hl : x.lcs = (s.ctx k).lcs)
    (hs : x.saved = (s.ctx k).saved) : (s.setCtx k x).Back k :=
  h.of_same rfl (by simp [hl]) (by simp [hs])

theorem State.Back.setLc {s : State} {k : Nat} (h : s.Back k) (lc : Nat) {l : CtxCore} (hl : l.Listless) :
    (s.setLc k lc l).Back k :=
  ⟨h.nothing.setLc lc hl, by simp [State.setLc, Ctx.setLc, h.saved]⟩

theorem State.Back.dieBack {s : State} {k : Nat} (h : s.Back k) (d a : Nat) (q : Nat → Nat) : (s.dieBack k d a q).Back k :=
  h.setCtx rfl rfl

theorem State.Back.setQuad {s : State} {k : Nat} (h : s.Back k) (q : Nat) (x : Quad) : (s.setQuad q x).Back k :=
  h.of_same rfl rfl rfl

theorem State.Back.setCore {s : State} {k : Nat} (h : s.Back k) (p : Nat) (x : Core) : (s.setCore p x).Back k :=
  h.of_same rfl rfl rfl

theorem State.Back.setEntry {s : State} {k : Nat} (h : s.Back k) (q e : Nat) (x : WbEntry) : (s.setEntry q e x).Back k :=
  h.of_same rfl rfl rfl

theorem State.Back.copyBytes {s : State} {k : Nat} (h : s.Back k) (a d n : Nat) : (s.copyBytes a d n).Back k :=
  h.of_same rfl rfl rfl

theorem State.Back.quadBack {s : State} {k : Nat} (h : s.Back k) (q a : Nat) : (s.quadBack k q a).Back k := by
  unfold State.quadBack
  extract_lets x q' wbe chunks next u
  have hu : u.Back k := h.setCtx rfl rfl
  clear_value u
  split
  · exact hu.of_same rfl rfl rfl
  · exact hu

theorem State.Back.restoreQuads {s : State} {k : Nat} (h : s.Back k) (m : Moves) (v : Saved) : (s.restoreQuads k m v).Back k := by
  unfold State.restoreQuads
  dsimp only
  refine State.Back.foldl (fun u e hu => ?_) _ ?_
  · refine State.Back.quadBack ?_ _ _
    split
    · exact State.Back.foldl (fun u g hu => hu.copyBytes _ _ _) _ (hu.copyBytes _ _ _)
    · exact hu
  · refine State.Back.foldl (fun u e hu => hu.setQuad _ _) _ ?_
    refine State.Back.foldl (fun u e hu => hu.setEntry _ _ _) _ ?_
    exact State.Back.foldl (fun u e hu => hu.setQuad _ _) _ h

theorem State.Back.moveOps {s : State} {k : Nat} (h : s.Back k) (m : Moves) : (s.moveOps k m).Back k := by
  unfold State.moveOps
  dsimp only
  refine State.Back.foldl (fun u e hu => hu.setCore _ _) _ ?_
  refine State.Back.foldl (fun u e hu => hu.setCore _ _) _ ?_
  exact h.of_same rfl rfl rfl

theorem State.Back.coreBack {s : State} {k : Nat} (h : s.Back k) (lc a : Nat) : (s.coreBack k lc a).Back k := by
  unfold State.coreBack
  extract_lets l y ctrs chans
  clear_value ctrs chans
  obtain ⟨hs, hr, hq⟩ := h.nothing.lists lc
  exact State.Back.setLc (h.setCore _ _) lc ⟨hs, hr, hq⟩

theorem State.Back.sheavesBack {s : State} {k : Nat} (h : s.Back k) (lc a : Nat) : (s.sheavesBack k lc a).Back k :=
  h.setLc lc (h.nothing.lists lc)

theorem State.Back.restoreCore {s : State} {k : Nat} (h : s.Back k) (m : Moves) (v : Saved) (lc : Nat) :
    (s.restoreCore k m v lc).Back k := by
  unfold State.restoreCore
  extract_lets l mine x y a u
  refine State.Back.copyBytes ?_ _ _ _
  refine State.Back.sheavesBack ?_ _ _
  exact State.Back.coreBack (State.Back.setCore h _ _) _ _

/-- With nothing in the silo's lists, refilling moves nothing. -/
theorem State.Back.refillQueues {s : State} {k : Nat} (h : s.Back k) (lc : Nat) : (s.refillQueues k lc).Back k := by
  unfold State.refillQueues
  dsimp only
  refine State.Back.iterate (fun u hu => ?_) _ (State.Back.iterate (fun u hu => ?_) _ (State.Back.foldl (fun u pr hu => ?_) _ ?_))
  · unfold State.unreserve
    dsimp only
    rw [show (u.lc k lc).reserve = [] from (hu.nothing.lists lc).2.1]
    exact hu
  · split
    · unfold State.readback
      dsimp only
      rw [show (u.lc k lc).sheafList = [] from (hu.nothing.lists lc).1]
      exact hu
    · exact hu
  · refine State.Back.iterate (fun u hu => ?_) _ hu
    split
    · unfold State.refill
      dsimp only
      rw [show (u.lc k lc).siloOf pr = [] from (hu.nothing.lists lc).2.2 pr]
      exact hu
    · exact hu
  · exact h.setLc lc (h.nothing.lists lc)

/-- With nothing deferred, nothing is applied. -/
theorem State.Back.applyAllDeferred {s : State} {k : Nat} (h : s.Back k) (lc : Nat) : (s.applyAllDeferred k lc).Back k := by
  have h0 : s.deferredOf k lc = [] := by
    refine List.filter_eq_nil_iff.2 fun f hf => ?_
    split
    next hst =>
      intro hb
      exact h.nothing.flights f hf (by simp at hb; exact hb.2) _ _ _ hst
    next => exact Bool.false_ne_true
  unfold State.applyAllDeferred
  rw [h0]
  exact h

/-- A slot that is taken back changes no context. -/
theorem State.restoreSlot_ctx (s : State) (c : Nat) (m : Moves) (r : SlotRec) (k : Nat) :
    (s.restoreSlot c m r).ctx k = s.ctx k := by
  unfold State.restoreSlot
  dsimp only
  split
  · rfl
  · refine (State.foldl_ctx_eq k _ ?_ _ _).trans rfl
    exact fun s f => rfl

theorem State.Nothing.back {s : State} {k : Nat} (h : s.Nothing k) {x : Ctx} (hl : ∀ lc, (x.lc lc).Listless)
    (hs : x.saved = none) : (s.setCtx k x).Back k :=
  ⟨⟨h.flights, fun lc => by simpa using hl lc⟩, by simpa using hs⟩

theorem Ctx.relocate_listless {x : Ctx} (h : ∀ lc, (x.lc lc).Listless) (m : Moves) (lc : Nat) :
    ((x.relocate m).lc lc).Listless := by
  have hp : ∀ d : CtxCore, (Tab.get d (x.lcs.map fun e => (e.1, { e.2 with pos := m.pos e.2.pos })) lc).Listless ↔
      (Tab.get d x.lcs lc).Listless := fun d =>
    iff_of_eq (Tab.get_map (fun l : CtxCore => { l with pos := m.pos l.pos }) CtxCore.Listless (fun l => rfl) d x.lcs lc)
  exact (hp _).2 (h lc)

/-- A restore for which nothing waits leaves its context RUNNING, with nothing saved. -/
theorem State.restoreCtx_runs {s : State} {k : Nat} (h : s.Nothing k) (v : Saved) (new : List Nat) :
    ((s.restoreCtx k v new).ctx k).st = .running ∧ ((s.restoreCtx k v new).ctx k).saved = none := by
  unfold State.restoreCtx
  extract_lets m s1 s2 x1 x2 s3 s4 s5 s6 s7 lcs s8 s9 s10 s11
  have h2 : s2.Nothing k := State.Nothing.foldl (fun u e hu => hu.restampCore _ _ _) _ (h.clearDumped _)
  have h3 : s3.Back k := h2.back (fun lc => Ctx.relocate_listless h2.lists m lc) rfl
  have h4 : s4.Back k := by
    refine h3.mapFlights _ (fun f => ?_) rfl rfl rfl
    split
    · exact Moves.flight_same m f
    · exact ⟨rfl, rfl⟩
  have h5 : s5.Back k := by
    refine h4.mapFlights _ (fun f => ?_) rfl rfl rfl
    split
    · exact State.fromHere_same s4 f
    · exact ⟨rfl, rfl⟩
  have h6 : s6.Back k := State.Back.foldl (fun u d hu => hu.dieBack _ _ _) _ h5
  have h7 : s7.Back k := State.Back.moveOps (h6.restoreQuads m v) m
  have h8 : s8.Back k := State.Back.foldl (fun u lc hu => hu.restoreCore m v lc) _ h7
  have h9 : s9.Back k := h8.of_same rfl rfl rfl
  have h10 : s10.Back k := State.Back.foldl (fun u lc hu => hu.refillQueues lc) _ h9
  have h11 : s11.Back k := State.Back.foldl (fun u lc hu => hu.applyAllDeferred lc) _ h10
  have hs := State.foldl_ctx_eq k (fun s r => s.restoreSlot k m r) (fun s r => State.restoreSlot_ctx s k m r k) v.slots s11
  rw [State.becomeRunning_ctx, hs]
  exact ⟨rfl, h11.saved⟩

/-! PREEMPT. -/

/-- A command whose second step is to come. -/
theorem State.underWay_busy (s : State) (cell : Nat) : Tab.get 0 (s.underWay cell).hub.busy cell = 2 := by
  simp [State.underWay, State.setHub, Tab.get_put]

theorem State.pendAll_ctx (s : State) (c k : Nat) : (s.pendAll c).ctx k = s.ctx k := State.mapInsts_ctx _ _ _ _

/-- A context whose slots are to stop, while its command is under way. -/
theorem State.pendAll_underWay_ctx (s : State) (c cell : Nat) (x : Ctx) :
    (((s.setCtx c x).pendAll c).underWay cell).ctx c = x := by
  change ((s.setCtx c x).pendAll c).ctx c = x
  rw [State.pendAll_ctx, State.ctx_setCtx, if_pos rfl]

theorem preempt_stops {s : State} {cell : Nat} (h : s.Commanded cell 3 1)
    (hst : (s.ctx (s.hub.cmdCtx cell)).st = .running) : ∃ t, exec (.preempt cell) s = .next t
      ∧ (t.ctx (s.hub.cmdCtx cell)).st = .saving ∧ (t.ctx (s.hub.cmdCtx cell)).halt = .preempt cell
      ∧ Tab.get 0 t.hub.busy cell = 2 ∧ t.mem = s.mem := by
  rw [show exec (.preempt cell) s = execPreempt cell s from rfl, execPreempt, State.onCell_commanded h Nat.one_ne_zero]
  simp only [hst, if_true, BEq.rfl]
  refine ⟨_, rfl, ?_, ?_, State.underWay_busy _ cell, rfl⟩
  · rw [State.pendAll_underWay_ctx]
  · rw [State.pendAll_underWay_ctx]

/-- A context that settles is SAVED with what it left. -/
theorem State.saveCtx_saved {s : State} {c : Nat} (h : (s.ctx c).saved = none) (dies : List Nat) :
    ((s.saveCtx c dies).ctx c).st = .saved ∧ ((s.saveCtx c dies).ctx c).saved = some (s.savedOf c) := by
  unfold State.saveCtx
  dsimp only
  rw [h]
  simp only [State.ctx_setCtx, if_true, and_self]

theorem preempt_saves {s : State} {cell : Nat} (h : s.Commanded cell 3 2)
    (hst : (s.ctx (s.hub.cmdCtx cell)).st = .saving) (hh : (s.ctx (s.hub.cmdCtx cell)).halt = .preempt cell)
    (hset : s.settledCtx (s.hub.cmdCtx cell) = true) (hs : (s.ctx (s.hub.cmdCtx cell)).saved = none) :
    ∃ t, exec (.preempt cell) s = .next t ∧ t.Resulted cell 0 ∧ (t.ctx (s.hub.cmdCtx cell)).st = .saved
      ∧ (t.ctx (s.hub.cmdCtx cell)).saved = some (s.savedOf (s.hub.cmdCtx cell)) := by
  rw [show exec (.preempt cell) s = execPreempt cell s from rfl, execPreempt,
    State.onCell_commanded h (Nat.succ_ne_zero 1)]
  simp only [hst, hh, hset, Bool.and_true, decide_true, if_true, show ((2 : Nat) == 1) = false from rfl, Bool.false_eq_true,
    if_false]
  have hv := State.saveCtx_saved hs (s.ctx (s.hub.cmdCtx cell)).dies
  obtain ⟨t, ht, hr, hc, -⟩ := State.answer_code (s.saveCtx (s.hub.cmdCtx cell) (s.ctx (s.hub.cmdCtx cell)).dies) cell 0
  refine ⟨t, ht, hr, ?_⟩
  simpa only [State.ctx, hc] using hv

/-! RESTORE. -/

theorem restore_starts {s : State} {cell : Nat} {v : Saved} {new : List Nat} (h : s.Commanded cell 4 1)
    (h0 : s.restoring cell = none) (hst : (s.ctx (s.hub.cmdCtx cell)).st = .saved)
    (hv : (s.ctx (s.hub.cmdCtx cell)).saved = some v)
    (hn : s.checkRestore (s.hub.cmdCtx cell) v (s.hub.arg cell 0) = .ok new) :
    ∃ t, exec (.restore cell) s = .next t ∧ t.Resulted cell 0 ∧ (t.ctx (s.hub.cmdCtx cell)).st = .restoring
      ∧ (t.ctx (s.hub.cmdCtx cell)).halt = .restore cell new ∧ t.mem = s.mem := by
  rw [show exec (.restore cell) s = execRestore cell s from rfl, execRestore, h0]
  simp only [State.onCell_commanded h Nat.one_ne_zero, hst, hv, hn]
  generalize hu : State.setCtx s _ _ = u
  obtain ⟨t, ht, hr, hc, hm⟩ := State.answer_code u cell 0
  have hk : t.ctx (s.hub.cmdCtx cell) = u.ctx (s.hub.cmdCtx cell) := congrArg (fun l => Tab.get Ctx.reset l _) hc
  refine ⟨t, ht, hr, ?_, ?_, hm.trans (hu ▸ rfl)⟩
  · rw [hk, ← hu, State.ctx_setCtx, if_pos rfl]
  · rw [hk, ← hu, State.ctx_setCtx, if_pos rfl]

theorem restore_completes {s : State} {cell k : Nat} {v : Saved} {new : List Nat}
    (h : s.restoring cell = some (k, v, new)) (hf : s.slotsFree (s.ctx k) v new = true) :
    exec (.restore cell) s = match s.restoreBad k v with
      | some b => .next ((s.setCtx k { s.ctx k with st := .saved, halt := .none }).siloFault k b)
      | none => .next (s.restoreCtx k v new) := by
  rw [show exec (.restore cell) s = execRestore cell s from rfl, execRestore, h]
  simp only [hf, Bool.not_true, Bool.false_eq_true, if_false] <;> rfl

theorem restore_next {s : State} {cell k : Nat} {v : Saved} {new : List Nat}
    (h : s.restoring cell = some (k, v, new)) (hf : s.slotsFree (s.ctx k) v new = true) :
    ∃ t, exec (.restore cell) s = .next t := by
  rw [restore_completes h hf]
  split
  · exact ⟨_, rfl⟩
  · exact ⟨_, rfl⟩

theorem restore_runs {s : State} {cell k : Nat} {v : Saved} {new : List Nat}
    (h : s.restoring cell = some (k, v, new)) (hf : s.slotsFree (s.ctx k) v new = true) (hb : s.restoreBad k v = none)
    (hfl : ∀ f ∈ s.flights, f.ctx ≠ k)
    (hl : ∀ e ∈ (s.ctx k).lcs, e.2.sheafList = [] ∧ e.2.reserve = [] ∧ ∀ pr, e.2.siloOf pr = []) :
    ∃ t, exec (.restore cell) s = .next t ∧ (t.ctx k).st = .running ∧ (t.ctx k).saved = none := by
  rw [restore_completes h hf, hb]
  exact ⟨_, rfl, State.restoreCtx_runs ⟨fun f h hk => absurd hk (hfl f h), Ctx.listless_of_mem hl⟩ v new⟩

/-! END. -/

theorem State.finish_free (s : State) (c : Nat) : ((s.finish c).ctx c).st = .free := by
  unfold State.finish State.discardCtx
  simp only [State.ctx_setCtx, if_true] <;> rfl

theorem State.finish_answers (s : State) (cell c : Nat) :
    ∃ t, (s.finish c).answer cell 0 0 0 = .next t ∧ t.Resulted cell 0 ∧ (t.ctx c).st = .free := by
  obtain ⟨t, ht, hr, hc, -⟩ := State.answer_code (s.finish c) cell 0
  exact ⟨t, ht, hr, (congrArg (fun l => (Tab.get Ctx.reset l c).st) hc).trans (State.finish_free s c)⟩

theorem end_stops {s : State} {cell : Nat} (h : s.Commanded cell 5 1)
    (hst : (s.ctx (s.hub.cmdCtx cell)).st = .running) : ∃ t, exec (.mailboxEnd cell) s = .next t
      ∧ (t.ctx (s.hub.cmdCtx cell)).st = .ending ∧ Tab.get 0 t.hub.busy cell = 2 ∧ t.mem = s.mem := by
  rw [show exec (.mailboxEnd cell) s = execMailboxEnd cell s from rfl, execMailboxEnd,
    State.onCell_commanded h Nat.one_ne_zero]
  simp only [hst]
  refine ⟨_, rfl, ?_, State.underWay_busy _ cell, rfl⟩
  rw [State.pendAll_underWay_ctx]

theorem end_frees {s : State} {cell : Nat}
    (h : (s.Commanded cell 5 2 ∧ (s.ctx (s.hub.cmdCtx cell)).st = .ending ∧ s.settledCtx (s.hub.cmdCtx cell) = true
        ∧ s.translatedAll (s.hub.cmdCtx cell) = true)
      ∨ (s.Commanded cell 5 1 ∧ (s.ctx (s.hub.cmdCtx cell)).st = .saved)) :
    ∃ t, exec (.mailboxEnd cell) s = .next t ∧ t.Resulted cell 0 ∧ (t.ctx (s.hub.cmdCtx cell)).st = .free := by
  rw [show exec (.mailboxEnd cell) s = execMailboxEnd cell s from rfl, execMailboxEnd]
  rcases h with ⟨h, hst, hset, htr⟩ | ⟨h, hst⟩
  · rw [State.onCell_commanded h (Nat.succ_ne_zero 1)]
    simp only [hst, hset, htr, Bool.and_self, if_true, show ((2 : Nat) == 1) = false from rfl, Bool.false_eq_true, if_false]
    exact State.finish_answers s cell _
  · rw [State.onCell_commanded h Nat.one_ne_zero]
    simp only [hst]
    exact State.finish_answers s cell _

/-- Settles O54: each command's step, by the state of its context. -/
theorem saveRestoreAndEndComplete : Obligations.SaveRestoreAndEndComplete := by
  unfold Obligations.SaveRestoreAndEndComplete
  rintro s cell c rfl
  exact ⟨preempt_stops, preempt_saves, fun v new h h0 hst hv hn => restore_starts h h0 hst hv hn,
    fun k v new h hf => ⟨restore_next h hf, restore_runs h hf⟩, end_stops, end_frees⟩

end Sys2Proof.Machine

/-! SETTLED. UNMAP and PROTECT of a page whose table entry lies in a poisoned block (17 R302, R303). -/

namespace Sys2Proof.Machine

open Sys2Proof

/-- One page of 64 KiB whose table, of one level, stands at 4096. -/
def unmapRegion : Region := ⟨0, 1, 0, 0, true, 1, 0, 4096⟩

/-- UNMAP of that page in cell 0, started, on a running context; its entry is present and its block is poisoned. -/
def unmapState : State := { State.reset with
  mem := Memory.write State.reset.mem 4096 (leBytes 8 (2 ^ 63))
  poison := [64]
  ctxs := [(0, { Ctx.reset with st := .running, regions := [unmapRegion] })]
  hub := { Hub.reset with busy := [(0, 1)], mb := [(0, padTo 64 (leBytes 8 6 ++ leBytes 8 0 ++ leBytes 8 1))] } }

theorem unmapState_memOk : unmapState.memOk := Memory.wf_write 4096 (leBytes 8 (2 ^ 63)) (m := State.reset.mem) rfl

theorem unmapState_commanded : unmapState.Commanded 0 6 1 where
  valid := by omega
  atPhase := rfl
  named := by decide +kernel
  onCtx := fun _ => by decide +kernel
  alone := fun _ _ _ => by decide +kernel

/-- UNMAP leaves an entry of a poisoned block as it was. -/
theorem exec_unmapState_entry : (match exec (.unmap 0) unmapState with
    | .next t => t.readLe 4096 8 == 2 ^ 63
    | _ => false) = true := by decide +kernel

/-- Refutes O55: UNMAP does not rewrite a table entry that stands in a poisoned block, where the statement says that P of
every present entry is cleared. -/
theorem not_pagesAndModuleCommandsComplete : ¬ Obligations.PagesAndModuleCommandsComplete := by
  rintro ⟨hpages, -⟩
  obtain ⟨t, ht, -, -, hentry⟩ := ((hpages unmapState 0 0 (by decide +kernel) (.inl rfl)).1 (.unmap 0) 6 0 unmapRegion 0 1
    (.inl ⟨rfl, rfl⟩) (by decide +kernel) (by rfl)).1 unmapState_commanded
  have hcleared := (hentry 4096 (2 ^ 63) unmapState_memOk rfl rfl rfl (by decide +kernel) (le_refl _)).1 rfl
  have hkept := exec_unmapState_entry
  rw [ht] at hkept
  dsimp only at hkept
  rw [hcleared] at hkept
  exact absurd hkept (by decide)

end Sys2Proof.Machine

/-! SUPPORT. Fields that are read back from bytes that stand in memory. -/

namespace Sys2Proof.Machine

open Sys2Proof

theorem Memory.read_add (m : List Host.Cell) (a x y : Nat) :
    Memory.read m a (x + y) = Memory.read m a x ++ Memory.read m (a + x) y := by
  induction x generalizing a with
  | zero => simp [Memory.read]
  | succ x ih =>
    rw [Nat.succ_add, Memory.read, Memory.read, ih, List.cons_append, Nat.add_assoc, Nat.add_comm 1 x]

/-- A part of a range that is known reads as that part. -/
theorem Memory.read_middle {m : List Host.Cell} {a : Nat} {p b q : List Byte}
    (h : Memory.read m a (p ++ b ++ q).length = p ++ b ++ q) : Memory.read m (a + p.length) b.length = b := by
  rw [List.length_append, List.length_append, Memory.read_add, Memory.read_add] at h
  have hl : ∀ a n, (Memory.read m a n).length = n := fun a n => by
    induction n generalizing a with
    | zero => rfl
    | succ n ih => simp [Memory.read, ih]
  have h1 := List.append_inj_left h (by simp [hl])
  exact List.append_inj_right h1 (hl _ _)

/-- A little-endian field of a range that is known reads as its value. -/
theorem State.readLe_middle {s : State} {a n v : Nat} {p q : List Byte}
    (h : Memory.read s.mem a (p ++ leBytes n v ++ q).length = p ++ leBytes n v ++ q) :
    s.readLe (a + p.length) n = v % 256 ^ n := by
  have h1 := Memory.read_middle h
  rw [leBytes_length] at h1
  rw [State.readLe, h1, ofLe_leBytes]

/-- The element of an array of fields of one size, with what stands before it and after it. -/
theorem flatMap_split {α : Type} (f : α → List Byte) (m : Nat) (hf : ∀ x, (f x).length = m) {l : List α} {j : Nat}
    (hj : j < l.length) : ∃ p q, l.flatMap f = p ++ f l[j] ++ q ∧ p.length = m * j := by
  refine ⟨(l.take j).flatMap f, (l.drop (j + 1)).flatMap f, ?_, ?_⟩
  · conv_lhs => rw [← List.take_append_drop j l, List.drop_eq_getElem_cons hj, List.flatMap_append, List.flatMap_cons]
    rw [List.append_assoc]
  · rw [List.length_flatMap, List.map_congr_left (fun x _ => hf x), List.map_const', List.sum_replicate,
      List.length_take, Nat.min_eq_left (Nat.le_of_lt hj), smul_eq_mul, Nat.mul_comm]

/-- Bytes that an owner writes read back. -/
theorem State.read_ownerWrite {s : State} (h : s.memOk) (a : Nat) (bs : List Byte) :
    Memory.read (s.ownerWrite a bs).mem a bs.length = bs := by
  rw [State.ownerWrite_mem]
  exact Memory.read_write bs a h

end Sys2Proof.Machine

/-! SETTLED. The commands of observation (22 R366 to R372, Table 22-5). -/

namespace Sys2Proof.Machine

open Sys2Proof

/-! What forwarding the counters leaves. -/

theorem State.forwardCtx_hub (s : State) (d c : Nat) : (s.forwardCtx d c).hub = s.hub := rfl

theorem State.forwardAll_hub (s : State) (c : Nat) : (s.forwardAll c).hub = s.hub :=
  List.foldlRecOn (motive := fun t : State => t.hub = s.hub) _ _ rfl (fun u hu d _ => (State.forwardCtx_hub u d c).trans hu)

/-! STMT. -/

theorem State.mbDone_ssSeq (s : State) (cell r : Nat) : (s.mbDone cell r).hub.ssSeq = s.hub.ssSeq := by
  unfold State.mbDone State.vector
  dsimp only
  split <;> rfl

theorem State.deliver_hub (s : State) (w : Who) (o : Nat) (m : Msg) (t : Track) (x : Nat × Nat) (a b : List Nat) (r : Bool)
    (e : Option Nat) : (s.deliver w o m t x a b r e).hub = s.hub := by
  unfold State.deliver
  split
  · rfl
  · split <;> rfl

theorem State.foldl_hub {α : Type} (f : State → α → State) (h : ∀ s a, (f s a).hub = s.hub) (l : List α) (s : State) :
    (l.foldl f s).hub = s.hub := List.foldlRecOn (motive := fun t : State => t.hub = s.hub) l f rfl (fun u hu a _ => (h u a).trans hu)

theorem State.fireWatches_hub (s : State) (pa n : Nat) : (s.fireWatches pa n).hub = s.hub := by
  refine (State.foldl_hub _ (fun u a => State.deliver_hub u ..) _ _).trans ?_
  refine (State.foldl_hub _ (fun u a => State.deliver_hub u ..) _ _).trans ?_
  refine (State.foldl_hub _ (fun u a => ?_) _ _).trans rfl
  split
  split
  · exact State.deliver_hub u ..
  · rfl

theorem State.ownerWrite_hub (s : State) (pa : Nat) (bs : List Byte) : (s.ownerWrite pa bs).hub = s.hub := by
  unfold State.ownerWrite
  split
  · rfl
  · exact State.fireWatches_hub _ _ _

/-- A command that writes its bytes and answers 0. -/
theorem State.writes_answers {s : State} (h : s.memOk) (cell a : Nat) (bs : List Byte) :
    ∃ t, (s.ownerWrite a bs).answer cell 0 0 0 = .next t ∧ t.Resulted cell 0 ∧ t.hub.ssSeq = s.hub.ssSeq
      ∧ Memory.read t.mem a bs.length = bs :=
  ⟨_, rfl, State.mbDone_resulted _ cell _, (State.mbDone_ssSeq _ _ _).trans (congrArg Hub.ssSeq (State.ownerWrite_hub s a bs)),
    (State.mbDone_mem _ _ _).symm ▸ State.read_ownerWrite h a bs⟩

/-- A statement begins with its magic word, and carries its number eight bytes further. -/
theorem State.statement_begins (s : State) (c kind n : Nat) (nonce : List Byte) :
    ∃ p q, s.statement c kind n nonce = leBytes 4 0x53594E ++ p ++ leBytes 8 n ++ q ∧ p.length = 4 := by
  unfold State.statement
  extract_lets x r list body
  refine ⟨leBytes 2 1 ++ leBytes 1 kind ++ leBytes 1 c, body.drop 16 ++ padTo 49856 (Config.sign body), ?_, by simp⟩
  rw [← List.append_assoc]
  refine congrArg (· ++ _) ?_
  have hb : ∃ q, body = (leBytes 4 0x53594E ++ (leBytes 2 1 ++ leBytes 1 kind ++ leBytes 1 c) ++ leBytes 8 n) ++ q := by
    unfold body
    simp only [List.append_assoc]
    exact ⟨_, rfl⟩
  obtain ⟨q, hq⟩ := hb
  rw [hq, List.drop_left' (by simp)]

/-- STMT's statement stands under the module's next number. -/
theorem stmt_writes {s : State} {cell a0 a1 : Nat} (h : s.Commanded cell 0x30 1) (h0 : a0 = s.hub.arg cell 0)
    (h1 : a1 = s.hub.arg cell 1) (hm : s.memOk)
    (hst : (s.ctx (s.hub.cmdCtx cell)).st = .running ∨ (s.ctx (s.hub.cmdCtx cell)).st = .saved)
    (hl : (s.forwardAll (s.hub.cmdCtx cell)).statementLen (s.hub.cmdCtx cell) ≤ a1) (hi : inHbm a0 a1 = true) :
    ∃ t, exec (.stmt cell) s = .next t ∧ t.Resulted cell 0 ∧ t.hub.ssSeq = s.hub.ssSeq + 1
      ∧ t.readLe a0 4 = 0x53594E ∧ t.readLe (a0 + 8) 8 = (s.hub.ssSeq + 1) % 2 ^ 64 := by
  subst h0 h1
  have hx : exec (.stmt cell) s = (((s.forwardAll (s.hub.cmdCtx cell)).newStatement (s.hub.cmdCtx cell) 2
      (sliceBytes (s.hub.cell cell) 24 32)).2.ownerWrite (s.hub.arg cell 0) ((s.forwardAll (s.hub.cmdCtx cell)).newStatement
        (s.hub.cmdCtx cell) 2 (sliceBytes (s.hub.cell cell) 24 32)).1).answer cell 0 0 0 := by
    rw [show exec (.stmt cell) s = execStmt cell s from rfl, execStmt, State.onCell_commanded h Nat.one_ne_zero]
    rcases hst with hst | hst
    all_goals simp only [hst, if_neg (Nat.not_lt.2 hl), hi, Bool.not_true, Bool.false_eq_true, if_false]
  rw [hx, State.newStatement]
  dsimp only
  generalize hu : State.setHub (s.forwardAll _) _ = u
  have hu1 : u.hub.ssSeq = s.hub.ssSeq + 1 := by
    rw [← hu, State.forwardAll_hub]
    rfl
  have hum : u.memOk := by
    rw [State.memOk, ← hu, State.setHub_mem, State.forwardAll_mem]
    exact hm
  rw [State.forwardAll_hub]
  obtain ⟨p, q, hb, hp⟩ := State.statement_begins u (s.hub.cmdCtx cell) 2 (s.hub.ssSeq + 1) (sliceBytes (s.hub.cell cell) 24 32)
  rw [hb]
  obtain ⟨t, ht, hr, hn, hrd⟩ := State.writes_answers hum cell (s.hub.arg cell 0) (leBytes 4 0x53594E ++ p ++
    leBytes 8 (s.hub.ssSeq + 1) ++ q)
  refine ⟨t, ht, hr, ?_, ?_, ?_⟩
  · rw [hn, hu1]
  · have := State.readLe_middle (p := []) (q := p ++ leBytes 8 (s.hub.ssSeq + 1) ++ q) (by simpa using hrd)
    simpa using this
  · have := State.readLe_middle hrd
    simpa [hp] using this

/-! GLEAN. -/

theorem State.clearLogs_ctx (s : State) (c k : Nat) : (s.clearLogs c).ctx k = s.ctx k := rfl

/-- GLEAN of a depth of 0 enables the logs. -/
theorem glean_enables {s : State} {cell : Nat} (h : s.Commanded cell 0x31 1)
    (hf : (s.ctx (s.hub.cmdCtx cell)).st ≠ .free) (he : (s.ctx (s.hub.cmdCtx cell)).st ≠ .ending)
    (hg : (s.ctx (s.hub.cmdCtx cell)).glean = none) (h2 : s.hub.arg cell 2 = 0) :
    ∃ t, exec (.glean cell) s = .next t ∧ t.Resulted cell 0 ∧ (t.ctx (s.hub.cmdCtx cell)).gleaning = true
      ∧ t.mem = s.mem := by
  rw [show exec (.glean cell) s = execGlean cell s from rfl, execGlean, State.onCell_commanded h Nat.one_ne_zero]
  simp only [BEq.rfl, Bool.not_true, Bool.false_eq_true, if_false, if_neg hf, hg, Option.isSome_none, he, or_self, h2,
    Nat.not_lt_zero, gt_iff_lt, ne_eq, not_true_eq_false, false_and, if_true]
  generalize hu : State.setCtx (State.clearLogs s _) _ _ = u
  obtain ⟨t, ht, hr, hc, hm⟩ := State.answer_code u cell 0
  refine ⟨t, ht, hr, ?_, hm.trans (hu ▸ rfl)⟩
  rw [State.ctx, hc, ← State.ctx, ← hu, State.ctx_setCtx, if_pos rfl]

/-- GLEAN of a depth takes a sample. -/
theorem glean_samples {s : State} {cell : Nat} (h : s.Commanded cell 0x31 1)
    (hf : (s.ctx (s.hub.cmdCtx cell)).st ≠ .free) (he : (s.ctx (s.hub.cmdCtx cell)).st ≠ .ending)
    (hg : (s.ctx (s.hub.cmdCtx cell)).glean = none) (h1 : 1 ≤ s.hub.arg cell 2) (h2 : s.hub.arg cell 2 ≤ 255)
    (h4 : 64 ≤ s.hub.arg cell 4) (hi : inHbm (s.hub.arg cell 3) (s.hub.arg cell 4) = true) :
    ∃ t, exec (.glean cell) s = .next t ∧ (t.ctx (s.hub.cmdCtx cell)).gleaning = true ∧ Tab.get 0 t.hub.busy cell = 2
      ∧ t.mem = s.mem ∧ (t.ctx (s.hub.cmdCtx cell)).glean = some ⟨bitsOf (s.hub.arg cell 0) 27 16,
        bitsOf (s.hub.arg cell 0) 15 0, s.hub.arg cell 1, s.hub.arg cell 2, s.hub.arg cell 3, s.hub.arg cell 4, cell, none⟩ := by
  rw [show exec (.glean cell) s = execGlean cell s from rfl, execGlean, State.onCell_commanded h Nat.one_ne_zero]
  have n0 : s.hub.arg cell 2 ≠ 0 := by omega
  have n1 : ¬ 255 < s.hub.arg cell 2 := by omega
  have n2 : ¬ s.hub.arg cell 4 < 64 := by omega
  simp only [BEq.rfl, Bool.not_true, Bool.false_eq_true, if_false, if_neg hf, hg, Option.isSome_none, he, or_self, n0, n1, n2,
    hi, gt_iff_lt, ne_eq, not_false_eq_true, and_false, if_neg n0]
  refine ⟨_, rfl, ?_, State.underWay_busy _ cell, rfl, ?_⟩
  · change ((State.setCtx _ _ _).ctx _).gleaning = true
    rw [State.ctx_setCtx, if_pos rfl]
  · change ((State.setCtx _ _ _).ctx _).glean = _
    rw [State.ctx_setCtx, if_pos rfl]

/-! LMCONFIG and LMREAD. -/

theorem inHbm_checked {a n : Nat} (ha : a % 64 = 0) (hi : inHbm a n = true) : ¬ (a % 64 ≠ 0 ∨ (!inHbm a n) = true) := by
  simp [ha, hi]

theorem ofLe_lt (bs : List Byte) : ofLe bs < 256 ^ bs.length := by
  induction bs with
  | nil => exact Nat.one_pos
  | cons b t ih =>
    have hb := b.isLt
    simp only [ofLe, List.length_cons, Nat.pow_succ]
    omega

theorem word64_readLe (s : State) (a : Nat) : (word64 (s.readLe a 8)).toNat = s.readLe a 8 := by
  have h := ofLe_lt (Memory.read s.mem a 8)
  exact Nat.mod_eq_of_lt (Nat.lt_of_lt_of_le h (by simp [Memory.read]))

theorem State.mbDone_die (s : State) (cell r d : Nat) : (s.mbDone cell r).die d = s.die d := by
  unfold State.mbDone State.vector
  dsimp only
  split <;> rfl

/-- A table made of the first `n` indices. -/
theorem Tab.get_range {α : Type} (d : α) (f : Nat → α) (n k : Nat) :
    Tab.get d ((List.range n).map fun j => (j, f j)) k = if k < n then f k else d := by
  have key : ∀ l : List Nat, Tab.get d (l.map fun j => (j, f j)) k = if k ∈ l then f k else d := by
    intro l
    induction l with
    | nil => rfl
    | cons j l ih =>
      rw [List.map_cons, Tab.get, ih]
      by_cases hj : j = k
      · simp [hj]
      · simp [hj, Ne.symm hj]
  rw [key]
  simp

/-- LMCONFIG loads the registers of a die's logic matrix. -/
theorem lmconfig_loads {s : State} {cell a0 a1 : Nat} (h : s.Commanded cell 0x32 1) (h0 : a0 = s.hub.arg cell 0)
    (h1 : a1 = s.hub.arg cell 1) (ha : a1 % 64 = 0) (hi : inHbm a1 512 = true) (hd : a0 < 4)
    (hres : ∀ n < 64, lmReserved n (s.readLe (a1 + 8 * n) 8) = false)
    (hord : ∀ b < 14, s.readLe (a1 + 8 * (21 + b)) 8 < s.readLe (a1 + 8 * (22 + b)) 8) :
    ∃ t, exec (.lmconfig cell) s = .next t ∧ t.Resulted cell 0 ∧ t.mem = s.mem
      ∧ (∀ n < 36, (t.die a0).lmReg n = s.readLe (a1 + 8 * n) 8) ∧ (∀ n, 36 ≤ n → (t.die a0).lmReg n = 0) := by
  subst h0 h1
  rw [show exec (.lmconfig cell) s = execLmconfig cell s from rfl, execLmconfig, State.onCell_commanded h Nat.one_ne_zero]
  dsimp only
  rw [if_neg (inHbm_checked ha hi), if_neg ?_]
  · have hreg : ∀ n, (((s.setDie (s.hub.arg cell 0) { s.die (s.hub.arg cell 0) with
          lm := (List.range 36).map fun n => (n, word64 (s.readLe (s.hub.arg cell 1 + 8 * n) 8)), lmRun := 0,
          lmLast := [] }).mbDone cell (resultWord 0 0 0)).die (s.hub.arg cell 0)).lmReg n
        = if n < 36 then s.readLe (s.hub.arg cell 1 + 8 * n) 8 else 0 := by
      intro n
      rw [State.mbDone_die, State.die_setDie, if_pos rfl]
      simp only [Die.lmReg, Tab.get_range]
      split
      · exact word64_readLe s _
      · rfl
    refine ⟨_, rfl, State.mbDone_resulted _ cell _, State.mbDone_mem _ _ _, fun n hn => ?_, fun n hn => ?_⟩
    · exact (hreg n).trans (if_pos hn)
    · exact (hreg n).trans (if_neg (Nat.not_lt.2 hn))
  · rintro (h3 | h3 | h3)
    · omega
    · obtain ⟨n, hn, hr⟩ := List.any_eq_true.1 h3
      rw [hres n (List.mem_range.1 hn)] at hr
      exact Bool.noConfusion hr
    · have hall : ((List.range 14).all fun b => decide (s.readLe (s.hub.arg cell 1 + 8 * (21 + b)) 8
          < s.readLe (s.hub.arg cell 1 + 8 * (22 + b)) 8)) = true :=
        List.all_eq_true.2 fun b hb => decide_eq_true (hord b (List.mem_range.1 hb))
      rw [hall] at h3
      exact Bool.noConfusion h3

/-- LMREAD copies the registers of a die's logic matrix. -/
theorem lmread_copies {s : State} {cell a0 a1 : Nat} (h : s.Commanded cell 0x33 1) (h0 : a0 = s.hub.arg cell 0)
    (h1 : a1 = s.hub.arg cell 1) (hm : s.memOk) (ha : a1 % 64 = 0) (hi : inHbm a1 512 = true) (hd : a0 < 4) :
    ∃ t, exec (.lmread cell) s = .next t ∧ t.Resulted cell 0
      ∧ ∀ n < 64, t.readLe (a1 + 8 * n) 8 = (s.die a0).lmReg n := by
  subst h0 h1
  rw [show exec (.lmread cell) s = execLmread cell s from rfl, execLmread, State.onCell_commanded h Nat.one_ne_zero]
  dsimp only
  rw [if_neg (inHbm_checked ha hi), if_neg (by omega)]
  obtain ⟨t, ht, hr, -, hrd⟩ := State.writes_answers hm cell (s.hub.arg cell 1)
    ((List.range 64).flatMap fun n => leBytes 8 (Tab.get 0 (s.die (s.hub.arg cell 0)).lm n).toNat)
  refine ⟨t, ht, hr, fun n hn => ?_⟩
  obtain ⟨p, q, hs, hp⟩ := flatMap_split (fun n => leBytes 8 (Tab.get 0 (s.die (s.hub.arg cell 0)).lm n).toNat) 8
    (fun _ => leBytes_length _ _) (l := List.range 64) (j := n) (by simpa using hn)
  rw [hs] at hrd
  rw [← hp, State.readLe_middle hrd, List.getElem_range]
  exact Nat.mod_eq_of_lt (BitVec.isLt _)

/-! TRCONFIG. -/

/-- TRCONFIG gives the context a trace buffer. -/
theorem trconfig_gives {s : State} {cell k a0 a1 a2 a3 : Nat} (h : s.Commanded cell 0x34 1) (h0 : a0 = s.hub.arg cell 0)
    (h1 : a1 = s.hub.arg cell 1) (h2 : a2 = s.hub.arg cell 2) (h3 : a3 = s.hub.arg cell 3)
    (hf : (s.ctx (s.hub.cmdCtx cell)).st ≠ .free) (he : (s.ctx (s.hub.cmdCtx cell)).st ≠ .ending) (hk : k ≤ 18)
    (hp : a1 = 4096 * 2 ^ k) (hn : a3 ≤ 8) (ha : a0 % a1 = 0) (hi : inHbm a0 a1 = true) (ht : inHbm a2 (8 * a3) = true) :
    ∃ t b, exec (.trconfig cell) s = .next t ∧ t.Resulted cell 0 ∧ (t.ctx (s.hub.cmdCtx cell)).trace = some b
      ∧ b.base = a0 ∧ b.size = a1 ∧ b.head = 0 ∧ b.ents.length = a3 := by
  subst h0 h1 h2 h3
  have hpow : ((List.range 19).any fun k => s.hub.arg cell 1 == 4096 * 2 ^ k) = true :=
    List.any_eq_true.2 ⟨k, List.mem_range.2 (by omega), by simpa using hp⟩
  have hx : exec (.trconfig cell) s = (((s.ownerZero (s.hub.arg cell 0) 64).setCtx (s.hub.cmdCtx cell)
      { (s.ownerZero (s.hub.arg cell 0) 64).ctx (s.hub.cmdCtx cell) with trace := some ⟨s.hub.arg cell 0, s.hub.arg cell 1,
        0, (List.range (s.hub.arg cell 3)).map fun k => s.matchEnt (s.hub.arg cell 2 + 8 * k)⟩ }).answer cell 0 0 0) := by
    rw [show exec (.trconfig cell) s = execTrconfig cell s from rfl, execTrconfig, State.onCell_commanded h Nat.one_ne_zero]
    dsimp only
    split
    next hst => exact absurd hst hf
    next hst => exact absurd hst he
    next =>
      rw [hpow, if_neg (by simpa using hn), if_neg (by simp [ha, hi, ht])]
  rw [hx]
  generalize hu : State.setCtx _ _ _ = u
  obtain ⟨t, ht, hr, hc, -⟩ := State.answer_code u cell 0
  refine ⟨t, ⟨s.hub.arg cell 0, s.hub.arg cell 1, 0, (List.range (s.hub.arg cell 3)).map fun k =>
    s.matchEnt (s.hub.arg cell 2 + 8 * k)⟩, ht, hr, ?_, rfl, rfl, rfl, ?_⟩
  · rw [State.ctx, hc, ← State.ctx, ← hu, State.ctx_setCtx, if_pos rfl]
  · simp

/-! SHEAFLIST and CNTREAD. -/

theorem sheaflist_copies {s : State} {cell a0 a1 : Nat} {bs : List Byte} (h : s.Commanded cell 0x35 1)
    (h0 : a0 = s.hub.arg cell 0) (h1 : a1 = s.hub.arg cell 1) (hm : s.memOk)
    (hst : (s.ctx (s.hub.cmdCtx cell)).st = .saved) (hbs : bs = s.sheafListBytes (s.hub.cmdCtx cell)) (hl : bs.length ≤ a1)
    (hi : inHbm a0 a1 = true) : ∃ t, exec (.sheaflist cell) s = .next t ∧ t.Resulted cell 0
      ∧ Memory.read t.mem a0 bs.length = bs := by
  subst h0 h1 hbs
  rw [show exec (.sheaflist cell) s = execSheaflist cell s from rfl, execSheaflist, State.onCell_commanded h Nat.one_ne_zero]
  simp only [hst, if_neg (Nat.not_lt.2 hl), hi, Bool.not_true, Bool.false_eq_true, if_false]
  obtain ⟨t, ht, hr, -, hrd⟩ := State.writes_answers hm cell (s.hub.arg cell 0) (s.sheafListBytes (s.hub.cmdCtx cell))
  exact ⟨t, ht, hr, hrd⟩

theorem cntread_copies {s : State} {cell a0 : Nat} (h : s.Commanded cell 0x36 1) (h0 : a0 = s.hub.arg cell 0) (hm : s.memOk)
    (hl : (s.ctx (s.hub.cmdCtx cell)).launched = true) (hi : inHbm a0 688 = true) :
    ∃ t, exec (.cntread cell) s = .next t ∧ t.Resulted cell 0
      ∧ ∀ j (hj : j < counterNumbers.length), t.readLe (a0 + 16 * j) 2 = counterNumbers[j]
        ∧ t.readLe (a0 + 16 * j + 8) 8
          = Tab.get 0 ((s.forwardAll (s.hub.cmdCtx cell)).ctx (s.hub.cmdCtx cell)).counters counterNumbers[j] % 2 ^ 64 := by
  subst h0
  rw [show exec (.cntread cell) s = execCntread cell s from rfl, execCntread, State.onCell_commanded h Nat.one_ne_zero]
  simp only [hl, hi, Bool.not_true, Bool.false_eq_true, if_false]
  have hum : (s.forwardAll (s.hub.cmdCtx cell)).memOk := by
    rw [State.memOk, State.forwardAll_mem]
    exact hm
  generalize (s.forwardAll (s.hub.cmdCtx cell)) = u at hum
  obtain ⟨t, ht, hr, -, hrd⟩ := State.writes_answers hum cell (s.hub.arg cell 0) (u.ctx (s.hub.cmdCtx cell)).counterBytes
  refine ⟨t, ht, hr, fun j hj => ?_⟩
  generalize u.ctx (s.hub.cmdCtx cell) = x at hrd
  obtain ⟨p, q, hs, hp⟩ := flatMap_split (fun k => leBytes 2 k ++ leBytes 1 (cond (Tab.get false x.sticky k) 1 0)
    ++ List.replicate 5 0 ++ leBytes 8 (Tab.get 0 x.counters k)) 16 (fun k => by simp) hj
  rw [Ctx.counterBytes, hs] at hrd
  constructor
  · have h2 := State.readLe_middle (s := t) (a := s.hub.arg cell 0) (p := p) (n := 2) (v := counterNumbers[j])
      (q := leBytes 1 (cond (Tab.get false x.sticky counterNumbers[j]) 1 0) ++ List.replicate 5 0
        ++ leBytes 8 (Tab.get 0 x.counters counterNumbers[j]) ++ q) (by simpa [List.append_assoc] using hrd)
    rw [← hp, h2]
    have hsmall : ∀ k ∈ counterNumbers, k < 256 ^ 2 := by decide
    exact Nat.mod_eq_of_lt (hsmall _ (List.getElem_mem hj))
  · have h8 := State.readLe_middle (s := t) (a := s.hub.arg cell 0) (n := 8) (v := Tab.get 0 x.counters counterNumbers[j])
      (p := p ++ leBytes 2 counterNumbers[j] ++ leBytes 1 (cond (Tab.get false x.sticky counterNumbers[j]) 1 0)
        ++ List.replicate 5 0) (q := q) (by simpa [List.append_assoc] using hrd)
    simp only [List.length_append, leBytes_length, List.length_replicate, hp] at h8
    exact h8

/-- Settles O57: each command writes or sets what its table gives. -/
theorem observationCommandsComplete : Obligations.ObservationCommandsComplete := by
  unfold Obligations.ObservationCommandsComplete
  rintro s cell c a0 a1 a2 a3 a4 rfl h0 h1 h2 h3 h4 hm
  refine ⟨fun h hst hl hi => stmt_writes h h0 h1 hm hst hl hi, fun h hf he hg => ⟨fun hz => ?_, fun hd1 hd2 h64 hi => ?_⟩,
    fun h ha hi hd hres hord => lmconfig_loads h h0 h1 ha hi hd hres hord, fun h ha hi hd => lmread_copies h h0 h1 hm ha hi hd,
    fun k h hf he hk hp hn ha hi ht => trconfig_gives h h0 h1 h2 h3 hf he hk hp hn ha hi ht,
    fun bs h hst hbs hl hi => sheaflist_copies h h0 h1 hm hst hbs hl hi, fun h hl hi => cntread_copies h h0 hm hl hi⟩
  · exact glean_enables h hf he hg (h2 ▸ hz)
  · subst h0 h1 h2 h3 h4
    exact glean_samples h hf he hg hd1 hd2 h64 hi

end Sys2Proof.Machine

/-! SETTLED. The journal's mailbox commands (20 R328, R332, R337, R338, Table 20-2; 18 R317). -/

namespace Sys2Proof.Machine

open Sys2Proof

/-! What a barn unit leaves of the hub. -/

/-- All of the hub but the units that wait for a barn port. -/
def Hub.unqueued (h : Hub) : Hub := { h with barnQ := [] }

theorem barnTry_hub (x : State × List BarnOut × List Nat) (b : BarnOut) : (barnTry x b).1.hub = x.1.hub := by
  unfold barnTry
  dsimp only
  split
  · rfl
  · split <;> rfl

theorem foldl_barnTry_hub (l : List BarnOut) (x : State × List BarnOut × List Nat) :
    (l.foldl barnTry x).1.hub = x.1.hub := by
  induction l generalizing x with
  | nil => rfl
  | cons b l ih => rw [List.foldl_cons, ih, barnTry_hub]

theorem State.barnFlush_hub (s : State) : s.barnFlush.hub.unqueued = s.hub.unqueued := by
  have h := congrArg Hub.unqueued (foldl_barnTry_hub s.hub.barnQ (s, [], []))
  exact h

theorem State.barnSend_hub (s : State) (chip : Nat) (u : PeerUnit) : (s.barnSend chip u).hub.unqueued = s.hub.unqueued :=
  State.barnFlush_hub _

theorem State.sendBarn_hub (s : State) (e : BarnEntry) : (s.sendBarn e).hub.unqueued = s.hub.unqueued := by
  unfold State.sendBarn
  split
  · exact State.barnSend_hub s _ _
  · rfl

theorem State.foldl_sendBarn_hub (l : List BarnEntry) (s : State) :
    (l.foldl (fun s e => s.sendBarn e) s).hub.unqueued = s.hub.unqueued := by
  induction l generalizing s with
  | nil => rfl
  | cons e l ih => exact (ih _).trans (State.sendBarn_hub s e)

/-- An answer leaves the rest of the hub. -/
theorem State.mbDone_hub {β : Type} (r : Hub → β)
    (hr : ∀ (h : Hub) a b c d, r { h with mb := a, busy := b, mbdone := c, pba := d } = r h) (s : State) (cell v : Nat) :
    r (s.mbDone cell v).hub = r s.hub := by
  unfold State.mbDone State.vector
  dsimp only
  split
  · exact hr s.hub _ _ _ _
  · exact hr s.hub _ _ _ _

/-! JCONFIG. -/

theorem jconfig_sets {s : State} {cell : Nat} {h : Hub} (hc : s.Commanded cell 0x10 1) (hh : h = s.hub) (hq : h.seqs = [])
    (hj : inHbm (h.arg cell 0) (h.arg cell 1) = true) (hb : inHbm (h.arg cell 2) (2 * h.arg cell 3) = true) :
    ∃ t, exec (.jconfig cell) s = .next t ∧ t.Resulted cell 0
      ∧ t.hub.jcfg = some (h.arg cell 0, h.arg cell 1, h.arg cell 2, h.arg cell 3) ∧ t.hub.jbuf = [] ∧ t.mem = s.mem := by
  subst hh
  rw [show exec (.jconfig cell) s = execJconfig cell s from rfl, execJconfig, State.onCell_commanded hc Nat.one_ne_zero]
  simp only [hq, List.isEmpty_nil, Bool.not_true, Bool.false_eq_true, if_false, hj, hb, Bool.or_false]
  refine ⟨_, rfl, State.mbDone_resulted _ _ _, ?_, ?_, State.mbDone_mem _ _ _⟩
  · exact State.mbDone_hub Hub.jcfg (fun _ _ _ _ _ => rfl) _ _ _
  · exact State.mbDone_hub Hub.jbuf (fun _ _ _ _ _ => rfl) _ _ _

/-! ROSTER. -/

theorem roster_loads {s : State} {cell : Nat} {r : Roster} (hc : s.Commanded cell 0x11 1)
    (he : (s.ctx (s.hub.cmdCtx cell)).st ≠ .ending) (hr : s.checkRoster (s.hub.cmdCtx cell) (s.hub.arg cell 0) = .ok r) :
    ∃ t, exec (.roster cell) s = .next t ∧ t.Resulted cell 0 ∧ (t.ctx (s.hub.cmdCtx cell)).roster = some r
      ∧ t.mem = s.mem := by
  rw [show exec (.roster cell) s = execRoster cell s from rfl, execRoster, State.onCell_commanded hc Nat.one_ne_zero]
  simp only [if_neg he, hr]
  refine ⟨_, rfl, State.mbDone_resulted _ _ _, ?_, State.mbDone_mem _ _ _⟩
  rw [State.mbDone_ctx, State.ctx_setCtx, if_pos rfl]

theorem roster_refuses {s : State} {cell r : Nat} (hc : s.Commanded cell 0x11 1)
    (he : (s.ctx (s.hub.cmdCtx cell)).st ≠ .ending) (hr : s.checkRoster (s.hub.cmdCtx cell) (s.hub.arg cell 0) = .error r) :
    ∃ t, exec (.roster cell) s = .next t ∧ t.Resulted cell (resultWord 3 r 0) ∧ t.ctxs = s.ctxs := by
  rw [show exec (.roster cell) s = execRoster cell s from rfl, execRoster, State.onCell_commanded hc Nat.one_ne_zero]
  simp only [if_neg he, hr]
  exact ⟨_, rfl, State.mbDone_resulted _ _ _, State.mbDone_ctxs _ _ _⟩

/-! PARTNER. -/

theorem partner_first {s : State} {cell : Nat} (hc : s.Commanded cell 0x12 1) (hs : s.hub.seeding = none) (b : Bool) :
    exec (.partner cell b) s =
      if s.hub.arg cell 1 > 1 ∨ !s.barnOpen ∨ s.hub.arg cell 0 = s.hub.chipId ∨ s.hub.lost.contains (s.hub.arg cell 0) ∨ !b then
        s.answer cell 3 1 0
      else if s.partnerClash (s.hub.arg cell 0) then s.answer cell 3 3 0
      else
        let h : Hub := { s.hub with
          partner := none
          seeding := some (cell, s.hub.arg cell 0, s.hub.arg cell 1)
          jbuf := s.hub.jbuf.map (fun e => (e.1, false))
          seqs := s.hub.seqs.map (fun q => { q with acked := none }) }
        let u := s.setHub ((h.dropEntries (fun k => k != s.hub.arg cell 0)).await cell h.seedOrder)
        .next (h.seedOrder.foldl (fun s e => s.sendBarn e) (u.underWay cell)) := by
  rw [show exec (.partner cell b) s = execPartner cell b s from rfl, execPartner, State.onCell_commanded hc Nat.one_ne_zero]
  simp only [BEq.rfl, if_true, hs, Option.isSome_none, Bool.false_eq_true, if_false]

theorem partner_closed {s : State} {cell : Nat} (hc : s.Commanded cell 0x12 1) (hs : s.hub.seeding = none)
    (ho : s.barnOpen = false) (b : Bool) :
    ∃ t, exec (.partner cell b) s = .next t ∧ t.Resulted cell (resultWord 3 1 0) ∧ t.hub.partner = s.hub.partner := by
  rw [partner_first hc hs, if_pos (.inr (.inl (by simp [ho])))]
  exact ⟨_, rfl, State.mbDone_resulted _ _ _, State.mbDone_hub Hub.partner (fun _ _ _ _ _ => rfl) _ _ _⟩

theorem partner_seeds {s : State} {cell : Nat} (hc : s.Commanded cell 0x12 1) (hs : s.hub.seeding = none)
    (hl : s.hub.arg cell 1 ≤ 1) (ho : s.barnOpen = true) (hn : s.hub.arg cell 0 ≠ s.hub.chipId)
    (hlost : s.hub.arg cell 0 ∉ s.hub.lost) (hclash : s.partnerClash (s.hub.arg cell 0) = false) :
    ∃ t, exec (.partner cell true) s = .next t
      ∧ t.hub.seeding = some (cell, s.hub.arg cell 0, s.hub.arg cell 1) ∧ Tab.get 0 t.hub.busy cell = 2
      ∧ ∀ e ∈ t.hub.jbuf, e.2 = false := by
  rw [partner_first hc hs, if_neg ?_, if_neg (by simp [hclash])]
  · have h := fun l u => State.foldl_sendBarn_hub l u
    refine ⟨_, rfl, ?_, ?_, ?_⟩
    · exact congrArg Hub.seeding (h _ _)
    · refine (congrArg (fun h : Hub => Tab.get 0 h.busy cell) (h _ _)).trans ?_
      exact State.underWay_busy _ cell
    · intro e he
      have hj := (congrArg Hub.jbuf (h _ _)) ▸ he
      obtain ⟨x, -, rfl⟩ := List.mem_map.1 hj
      rfl
  · simp only [ho, hn, Bool.not_true, Bool.false_eq_true, false_or, or_false, List.contains_iff_mem]
    rintro (h | h)
    · omega
    · exact hlost h

theorem State.handOver_hub (s : State) (c lc r : Nat) (v : Word) (cur : Option (XReg × Nat)) (z : Cause) :
    (s.handOver c lc r v cur z).hub = s.hub := by
  unfold State.handOver
  dsimp only
  split <;> rfl

theorem State.openGates_hub (s : State) : s.openGates.hub = s.hub := by
  unfold State.openGates
  exact (State.foldl_hub _ (fun u a => by exact State.handOver_hub u ..) _ _).trans rfl

theorem partner_completes {s : State} {cell : Nat} (hc : s.Commanded cell 0x12 2)
    (hs : s.hub.seeding = some (cell, s.hub.arg cell 0, s.hub.arg cell 1)) (hw : s.hub.awaited cell = []) (b : Bool) :
    ∃ t, exec (.partner cell b) s = .next t ∧ t.Resulted cell 0 ∧ t.hub.partner = some (s.hub.arg cell 0, s.hub.arg cell 1)
      ∧ t.hub.seeding = none := by
  rw [show exec (.partner cell b) s = execPartner cell b s from rfl, execPartner,
    State.onCell_commanded hc (Nat.succ_ne_zero 1)]
  simp only [show ((2 : Nat) == 1) = false from rfl, Bool.false_eq_true, if_false, hs, hw, and_self, if_true]
  refine ⟨_, rfl, State.mbDone_resulted _ _ _, ?_, ?_⟩
  · rw [State.mbDone_hub Hub.partner (fun _ _ _ _ _ => rfl), State.openGates_hub]
    rfl
  · rw [State.mbDone_hub Hub.seeding (fun _ _ _ _ _ => rfl), State.openGates_hub]
    rfl

/-! LOST. -/

theorem State.vector_lost (s : State) (v : Nat) : (s.vector v).hub.lost = s.hub.lost := by
  unfold State.vector
  split <;> rfl

theorem State.setHealth_lost (s : State) (h : Health) : (s.setHealth h).hub.lost = s.hub.lost := by
  unfold State.setHealth
  split
  · exact State.vector_lost _ _
  · rfl

theorem State.holeCount_lost (s : State) : s.holeCount.hub.lost = s.hub.lost := by
  unfold State.holeCount
  dsimp only
  split
  · exact State.setHealth_lost _ _
  · exact State.setHealth_lost _ _

theorem State.reply_lost (s : State) (f : Flight) (src : Nat × Nat) (body : Body) (ans : Answer) (u : Option Nat) (vc : Bool) :
    (s.reply f src body ans u vc).hub.lost = s.hub.lost := by
  unfold State.reply
  split
  · unfold State.hostAnswer
    split
    · split
      · rfl
      · split
        · exact State.holeCount_lost s
        · rfl
    · rfl
  · rfl
  · rfl
  · rfl
  · rfl

theorem State.synthLost_lost (s : State) (f : Flight) (src : Nat × Nat) : (s.synthLost f src).hub.lost = s.hub.lost := by
  unfold State.synthLost
  dsimp only
  split
  · exact State.reply_lost _ _ _ _ _ _ _
  · split
    · rfl
    · split
      · exact (State.reply_lost _ _ _ _ _ _ _).trans (State.reply_lost _ _ _ _ _ _ _)
      · exact State.reply_lost _ _ _ _ _ _ _
  · exact State.reply_lost _ _ _ _ _ _ _
  · rfl

theorem State.sweepLost_lost (s : State) : s.sweepLost.hub.lost = s.hub.lost := by
  unfold State.sweepLost
  dsimp only
  refine List.foldlRecOn (motive := fun t : State => t.hub.lost = s.hub.lost) _ _ rfl (fun u hu f _ => ?_)
  split
  · exact (State.synthLost_lost _ _ _).trans hu
  · exact hu

theorem lost_enters {s : State} {cell : Nat} (hc : s.Commanded cell 0x13 1) :
    ∃ t, exec (.lost cell) s = .next t ∧ t.Resulted cell 0 ∧ s.hub.arg cell 0 ∈ t.hub.lost ∧ t.mem = s.mem := by
  have hmem := execLost_keepsMem cell s
  rw [show exec (.lost cell) s = execLost cell s from rfl]
  unfold execLost at hmem ⊢
  rw [State.onCell_commanded hc Nat.one_ne_zero] at hmem ⊢
  dsimp only at hmem ⊢
  refine ⟨_, rfl, State.mbDone_resulted _ _ _, ?_, hmem _ rfl⟩
  rw [State.mbDone_hub Hub.lost (fun _ _ _ _ _ => rfl), State.sweepLost_lost]
  have hin : s.hub.arg cell 0 ∈ (if s.hub.lost.contains (s.hub.arg cell 0) then s.hub.lost
      else s.hub.lost ++ [s.hub.arg cell 0]) := by
    split
    next h => exact List.contains_iff_mem.1 h
    next => exact List.mem_append_right _ (List.mem_singleton_self _)
  split
  · split
    · rw [State.mbDone_hub Hub.lost (fun _ _ _ _ _ => rfl)]
      exact hin
    · exact hin
  · exact hin

/-! REPLAY. -/

theorem any_cell_false {l : List (Nat × List BarnEntry)} {cell : Nat} (h : ∀ w ∈ l, w.1 ≠ cell) :
    (l.any fun w => decide (w.1 = cell)) = false :=
  List.any_eq_false.2 fun w hw => by simpa using h w hw

theorem replay_running {s : State} {cell phase : Nat} (hc : s.Commanded cell 0x14 phase) (hp : phase ≠ 0)
    (hw : ∀ w ∈ s.hub.seedWaits, w.1 ≠ cell) (hst : (s.ctx (s.hub.cmdCtx cell)).st = .running)
    (held : Option (List BarnEntry)) :
    exec (.replay cell held) s =
      if s.hub.arg cell 1 = s.hub.chipId ∧ s.hub.geom.isSome then
        match s.hub.barn.find? (fun e => e.2.client = some (s.hub.arg cell 0)) with
        | some b => s.replayFrom cell (s.hub.cmdCtx cell) b.2.entries
        | none => s.answer cell 3 1 0
      else if !s.barnOpen then s.answer cell 3 1 0
      else if phase == 1 then .next ((s.underWay cell).barnSend (s.hub.arg cell 1) (.barnRead s.hub.chipId (s.hub.arg cell 0)))
      else match held with
        | some es => s.replayFrom cell (s.hub.cmdCtx cell) es
        | none => s.answer cell 3 1 0 := by
  rw [show exec (.replay cell held) s = execReplay cell held s from rfl, execReplay, State.onCell_commanded hc hp]
  simp only [any_cell_false hw, Bool.false_eq_true, if_false, hst] <;> rfl

theorem replay_asks {s : State} {cell : Nat} (hc : s.Commanded cell 0x14 1) (hw : ∀ w ∈ s.hub.seedWaits, w.1 ≠ cell)
    (hst : (s.ctx (s.hub.cmdCtx cell)).st = .running) (hn : s.hub.arg cell 1 ≠ s.hub.chipId) (ho : s.barnOpen = true)
    (held : Option (List BarnEntry)) :
    exec (.replay cell held) s = .next ((s.underWay cell).barnSend (s.hub.arg cell 1) (.barnRead s.hub.chipId (s.hub.arg cell 0))) := by
  rw [replay_running hc Nat.one_ne_zero hw hst, if_neg (fun h => hn h.1), if_neg (by simp [ho]),
    if_pos (by decide)]

theorem replay_closed {s : State} {cell : Nat} (hc : s.Commanded cell 0x14 1) (hw : ∀ w ∈ s.hub.seedWaits, w.1 ≠ cell)
    (hst : (s.ctx (s.hub.cmdCtx cell)).st = .running) (hn : s.hub.arg cell 1 ≠ s.hub.chipId) (ho : s.barnOpen = false)
    (held : Option (List BarnEntry)) :
    ∃ t, exec (.replay cell held) s = .next t ∧ t.Resulted cell (resultWord 3 1 0) ∧ t.mem = s.mem := by
  rw [replay_running hc Nat.one_ne_zero hw hst, if_neg (fun h => hn h.1), if_pos (by simp [ho])]
  exact ⟨_, rfl, State.mbDone_resulted _ _ _, State.mbDone_mem _ _ _⟩

theorem replay_unanswered {s : State} {cell : Nat} (hc : s.Commanded cell 0x14 2) (hw : ∀ w ∈ s.hub.seedWaits, w.1 ≠ cell)
    (hst : (s.ctx (s.hub.cmdCtx cell)).st = .running) (hn : s.hub.arg cell 1 ≠ s.hub.chipId) (ho : s.barnOpen = true) :
    ∃ t, exec (.replay cell none) s = .next t ∧ t.Resulted cell (resultWord 3 1 0) ∧ t.mem = s.mem := by
  rw [replay_running hc (Nat.succ_ne_zero 1) hw hst, if_neg (fun h => hn h.1), if_neg (by simp [ho]), if_neg (by decide)]
  exact ⟨_, rfl, State.mbDone_resulted _ _ _, State.mbDone_mem _ _ _⟩

/-- A replay writes its image and waits for its entries. -/
theorem State.replayFrom_writes {s : State} {cell c : Nat} {es : List BarnEntry} {bs : List Byte} (hm : s.memOk)
    (hbs : bs = replayImage (replayOf c es)) (hi : inHbm (s.hub.arg cell 2) (s.hub.arg cell 3) = true)
    (hl : bs.length ≤ s.hub.arg cell 3) :
    ∃ t, s.replayFrom cell c es = .next t ∧ Tab.get 0 t.hub.busy cell = 2 ∧ (∃ w ∈ t.hub.seedWaits, w.1 = cell)
      ∧ Memory.read t.mem (s.hub.arg cell 2) bs.length = bs := by
  subst hbs
  unfold State.replayFrom
  dsimp only
  rw [if_neg (by simp [hi, Nat.not_lt.2 hl])]
  refine ⟨_, rfl, State.underWay_busy _ _, ⟨_, List.mem_append_right _ (List.mem_singleton_self _), rfl⟩, ?_⟩
  have hk : ∀ (u : State) h, ((u.setHub h).underWay cell).mem = u.mem := fun u h => rfl
  rw [hk, State.foldl_mem _ (fun s r => State.openReplay_mem s _ r)]
  exact State.read_ownerWrite hm _ _

theorem replay_writes {s : State} {cell : Nat} {es : List BarnEntry} {held : Option (List BarnEntry)} {bs : List Byte}
    (hm : s.memOk) (hw : ∀ w ∈ s.hub.seedWaits, w.1 ≠ cell) (hst : (s.ctx (s.hub.cmdCtx cell)).st = .running)
    (hc : (s.Commanded cell 0x14 1 ∧ s.hub.arg cell 1 = s.hub.chipId ∧ s.hub.geom ≠ none
        ∧ (s.hub.barn.find? (fun e => e.2.client = some (s.hub.arg cell 0))).map (fun e => e.2.entries) = some es)
      ∨ (s.Commanded cell 0x14 2 ∧ s.hub.arg cell 1 ≠ s.hub.chipId ∧ s.barnOpen = true ∧ held = some es))
    (hbs : bs = replayImage (replayOf (s.hub.cmdCtx cell) es))
    (hi : inHbm (s.hub.arg cell 2) (s.hub.arg cell 3) = true) (hl : bs.length ≤ s.hub.arg cell 3) :
    ∃ t, exec (.replay cell held) s = .next t ∧ Tab.get 0 t.hub.busy cell = 2
      ∧ (∃ w ∈ t.hub.seedWaits, w.1 = cell) ∧ Memory.read t.mem (s.hub.arg cell 2) bs.length = bs := by
  rcases hc with ⟨hc, hq, hg, hf⟩ | ⟨hc, hq, ho, rfl⟩
  · rw [replay_running hc Nat.one_ne_zero hw hst, if_pos ⟨hq, Option.isSome_iff_ne_none.2 hg⟩]
    obtain ⟨b, hb, rfl⟩ := Option.map_eq_some_iff.1 hf
    rw [hb]
    exact State.replayFrom_writes hm hbs hi hl
  · rw [replay_running hc (Nat.succ_ne_zero 1) hw hst, if_neg (fun h => hq h.1), if_neg (by simp [ho]), if_neg (by decide)]
    exact State.replayFrom_writes hm hbs hi hl

theorem replay_completes {s : State} {cell : Nat} (hc : s.Commanded cell 0x14 2) (hw : ∃ w ∈ s.hub.seedWaits, w.1 = cell)
    (ha : s.hub.awaited cell = []) (held : Option (List BarnEntry)) :
    ∃ t, exec (.replay cell held) s = .next t ∧ t.Resulted cell 0 ∧ t.mem = s.mem := by
  have hany : (s.hub.seedWaits.any fun w => decide (w.1 = cell)) = true :=
    List.any_eq_true.2 (hw.imp fun w h => ⟨h.1, decide_eq_true h.2⟩)
  rw [show exec (.replay cell held) s = execReplay cell held s from rfl, execReplay,
    State.onCell_commanded hc (Nat.succ_ne_zero 1)]
  simp only [hany, if_true, ha]
  exact ⟨_, rfl, State.mbDone_resulted _ _ _, State.mbDone_mem _ _ _⟩

/-! BFREE and JSTAT. -/

theorem Tab.get?_del {α : Type} (t : Tab α) (k : Nat) : (t.del k).get? k = none := by
  induction t with
  | nil => rfl
  | cons e t ih =>
    obtain ⟨n, v⟩ := e
    by_cases h : n = k
    · subst h
      simpa [Tab.del] using ih
    · have h' : ((n, v) : Nat × α).1 != k := by simpa using h
      rw [Tab.del, List.filter_cons, if_pos h', Tab.get?, if_neg h]
      exact ih

theorem bfree_frees {s : State} {cell : Nat} (hc : s.Commanded cell 0x15 1) (hk : s.hub.arg cell 0 ≤ 1) :
    ∃ t, exec (.bfree cell) s = .next t ∧ t.Resulted cell 0 ∧ t.hub.barn.get? (s.hub.arg cell 0) = none
      ∧ t.mem = s.mem := by
  rw [show exec (.bfree cell) s = execBfree cell s from rfl, execBfree, State.onCell_commanded hc Nat.one_ne_zero]
  simp only [gt_iff_lt, if_neg (Nat.not_lt.2 hk)]
  refine ⟨_, rfl, State.mbDone_resulted _ _ _, ?_, State.mbDone_mem _ _ _⟩
  rw [State.mbDone_hub Hub.barn (fun _ _ _ _ _ => rfl)]
  exact Tab.get?_del _ _

theorem jstat_answers {s : State} {cell : Nat} (hc : s.Commanded cell 0x16 1) :
    ∃ t, exec (.jstat cell) s = .next t ∧ t.mem = s.mem ∧ t.ctxs = s.ctxs
      ∧ t.Resulted cell (s.hub.jstat (s.hub.cmdCtx cell) (BitVec.ofNat 32 (s.hub.arg cell 0))) := by
  rw [show exec (.jstat cell) s = execJstat cell s from rfl, execJstat, State.onCell_commanded hc Nat.one_ne_zero]
  exact ⟨_, rfl, State.mbDone_mem _ _ _, State.mbDone_ctxs _ _ _, State.mbDone_resulted _ _ _⟩

/-- Settles O56: each command of the journal by its step. -/
theorem journalCommandsComplete : Obligations.JournalCommandsComplete := by
  unfold Obligations.JournalCommandsComplete
  rintro s cell c h rfl rfl
  refine ⟨fun hc hq hj hb => jconfig_sets hc rfl hq hj hb, fun r hc he hr => roster_loads hc he hr,
    fun r hc he hr => roster_refuses hc he hr, ?_, lost_enters, fun hw hst => ⟨fun held hc hn => ⟨fun ho => ?_, fun ho => ?_⟩,
      fun es held bs hm hc hbs hi hl => replay_writes hm hw hst hc hbs hi hl,
      fun hc hn ho => replay_unanswered hc hw hst hn ho⟩, fun hc hw ha held => replay_completes hc hw ha held,
    bfree_frees, jstat_answers⟩
  · rintro chip slot rfl rfl
    exact ⟨fun hc hs ho b => partner_closed hc hs ho b,
      fun hc hs hl ho hn hlost hclash => partner_seeds hc hs hl ho hn hlost hclash,
      fun hc hs hw b => partner_completes hc hs hw b⟩
  · exact replay_asks hc hw hst hn ho held
  · exact replay_closed hc hw hst hn ho held

end Sys2Proof.Machine

/-! SETTLED. Translation in the slices (17 R296 to R299, R302, R303). -/

namespace Sys2Proof.Machine

open Sys2Proof

/-! Flights by number. -/

theorem State.flight?_spec {s : State} {id : Nat} {f : Flight} (h : s.flight? id = some f) : f ∈ s.flights ∧ f.id = id :=
  ⟨List.mem_of_find?_eq_some h, by simpa using List.find?_some h⟩

/-- A flight that is set stands among the flights. -/
theorem State.mem_setFlight {s : State} {f g : Flight} (h : f ∈ s.flights) (hg : g.id = f.id) :
    g ∈ (s.setFlight g).flights :=
  List.mem_map.2 ⟨f, h, if_pos hg.symm⟩

/-! A lookup. -/

/-- A request of a page that no walk looks for, with a walk free and none waiting before it, starts its walk at the root. -/
theorem State.beginWalk_root {s : State} {die k : Nat} {r : MemReq} (f : Flight) (hw : s.walkerFor die k r = none)
    (hl : (s.walksAt die k).length < 16) (ha : s.waitAhead die k f = false) :
    s.beginWalk die k f r = s.setFlight { f with
      stage := .sliceWalk (((s.ctx r.ctx).regionAt r.key.1).paddr + 8 * (r.key.2.1
        / 2 ^ (9 * (((s.ctx r.ctx).regionAt r.key.1).levels - 1)) % 512)) (((s.ctx r.ctx).regionAt r.key.1).levels - 1)
        ((s.ctx r.ctx).regionAt r.key.1).paddr } := by
  have hl' : (s.walksAt die k).length < Config.walksPerSlice := hl
  unfold State.beginWalk
  simp only [hw, hl', ha, decide_true, Bool.not_false, Bool.and_self, if_true]

theorem Flight.not_sliceWait {f : Flight} (h : f.arrived = true) : f.stage ≠ .sliceWait := by
  intro hs
  rw [Flight.arrived, hs] at h
  exact Bool.noConfusion h

/-- A request that has arrived at its slice is looked up. -/
theorem lookup_arrived {s : State} {id die k : Nat} {f : Flight} {r : MemReq} (hf : s.flight? id = some f)
    (hb : f.body = .req r) (hg : f.goal = .slice die k) (ha : f.arrived = true) :
    exec (.tlbSliceLookup id) s = match (s.sliceAt die k).find r.ctx r.key.1 r.key.2.1 with
      | some _ => .next (s.forward die k f r)
      | none => .next (s.beginWalk die k f r) := by
  have hn := Flight.not_sliceWait ha
  rw [show exec (.tlbSliceLookup id) s = execTlbSliceLookup id s from rfl, execTlbSliceLookup]
  simp only [hf, hb, hg, ha] <;> rfl

/-- A request whose pages are found is sent on with their addresses. -/
theorem State.forward_sends {s : State} {die k : Nat} {f : Flight} {r : MemReq} {tgt : Target} {w : Bool}
    {lt : Option (Nat × Target)} (hp : s.firstPage die r = .ok tgt w) (ha : r.ans ≠ .probe)
    (hl : (lt = none ∧ (r.ring.isSome = true ∨ s.laterPage die r = none)) ∨ (r.ring = none ∧ ∃ last tgt' w',
        s.laterPage die r = some (last, .ok tgt' w') ∧ lt = some (last - r.va, tgt'))) :
    s.forward die k f r = s.sendOn die k f { r with
      target := some tgt, later := lt, look := none, via := s.pagesOf die r lt.isSome } := by
  unfold State.forward
  rw [hp]
  rcases hl with ⟨rfl, hl⟩ | ⟨hr, last, tgt', w', hl, rfl⟩
  · have h0 : (if r.ring.isSome then none else s.laterPage die r) = none := by
      rcases hl with hl | hl <;> simp [hl]
    simp only [h0, State.pageBack, Option.bind_none, Option.isSome_none]
  · simp only [hr, hl, Option.isSome_none, Bool.false_eq_true, if_false, State.pageBack, Option.bind_some, Option.isSome_some]

/-- A request that is sent on stands at its slice's router with its new contents. -/
theorem State.sendOn_flight {s : State} {f : Flight} (hf : f ∈ s.flights) (die k : Nat) (r : MemReq) :
    ∃ x ∈ (s.sendOn die k f r).flights, x.id = f.id ∧ x.body = .req r
      ∧ x.stage = .router (xyOfQuad (64 * die + k)).1 (xyOfQuad (64 * die + k)).2 false := by
  unfold State.sendOn
  exact ⟨_, State.mem_setFlight (s := State.mapOp _ _ _) (f := f) hf rfl, rfl, rfl, rfl⟩

theorem lookup_found {s : State} {id die k : Nat} {f : Flight} {r : MemReq} {h : TlbEnt} {tgt : Target} {w : Bool}
    {lt : Option (Nat × Target)} (hf : s.flight? id = some f) (hb : f.body = .req r) (hg : f.goal = .slice die k)
    (ha : f.arrived = true) (hs : (s.sliceAt die k).find r.ctx r.key.1 r.key.2.1 = some h)
    (hp : s.firstPage die r = .ok tgt w) (hn : r.ans ≠ .probe)
    (hl : (lt = none ∧ (r.ring.isSome = true ∨ s.laterPage die r = none)) ∨ (r.ring = none ∧ ∃ last tgt' w',
        s.laterPage die r = some (last, .ok tgt' w') ∧ lt = some (last - r.va, tgt'))) :
    ∃ t, exec (.tlbSliceLookup id) s = .next t ∧ t.mem = s.mem
      ∧ ∃ x ∈ t.flights, x.id = id
        ∧ x.body = .req { r with target := some tgt, later := lt, look := none, via := s.pagesOf die r lt.isSome }
        ∧ x.stage = .router (xyOfQuad (64 * die + k)).1 (xyOfQuad (64 * die + k)).2 false := by
  obtain ⟨hm, hi⟩ := State.flight?_spec hf
  rw [lookup_arrived hf hb hg ha, hs]
  refine ⟨_, rfl, State.forward_mem s die k f r, ?_⟩
  rw [State.forward_sends hp hn hl, ← hi]
  exact State.sendOn_flight hm die k _

theorem lookup_missing {s : State} {id die k : Nat} {f : Flight} {r : MemReq} (hf : s.flight? id = some f)
    (hb : f.body = .req r) (hg : f.goal = .slice die k) (ha : f.arrived = true)
    (hs : (s.sliceAt die k).find r.ctx r.key.1 r.key.2.1 = none) :
    exec (.tlbSliceLookup id) s = .next (s.beginWalk die k f r) := by
  rw [lookup_arrived hf hb hg ha, hs]

/-! What forwarding and holding leave of the slices. -/

theorem State.reply_dies (s : State) (f : Flight) (src : Nat × Nat) (body : Body) (ans : Answer) (u : Option Nat) (vc : Bool) :
    (s.reply f src body ans u vc).dies = s.dies := by
  unfold State.reply
  split
  · unfold State.hostAnswer
    split
    · split
      · rfl
      · split
        · unfold State.holeCount State.setHealth State.vector
          dsimp only
          split
          · split
            · split <;> rfl
            · rfl
          · split
            · split <;> rfl
            · rfl
        · rfl
    · rfl
  all_goals rfl

theorem State.forward_dies (s : State) (die k : Nat) (f : Flight) (r : MemReq) : (s.forward die k f r).dies = s.dies := by
  have hback : ∀ (u : State) t va v, u.pageBack die k f r t va = some v → v.dies = u.dies := by
    intro u t va v hv
    unfold State.pageBack at hv
    dsimp only at hv
    split at hv
    · exact nomatch hv
    · obtain rfl := Option.some.inj hv
      exact State.reply_dies _ _ _ _ _ _ _
    · obtain rfl := Option.some.inj hv
      rfl
  unfold State.forward
  dsimp only
  split
  next h => exact hback _ _ _ _ h
  next =>
    split
    next h =>
      obtain ⟨e, -, he⟩ := Option.bind_eq_some_iff.1 h
      exact hback _ _ _ _ he
    next => split <;> rfl

theorem State.foldl_dies {α : Type} (f : State → α → State) (h : ∀ s a, (f s a).dies = s.dies) (l : List α) (s : State) :
    (l.foldl f s).dies = s.dies :=
  List.foldlRecOn (motive := fun t : State => t.dies = s.dies) l f rfl (fun u hu a _ => (h u a).trans hu)

theorem State.sliceAt_of_dies {s t : State} (h : t.dies = s.dies) (die k : Nat) : t.sliceAt die k = s.sliceAt die k := by
  simp only [State.sliceAt, State.die, h]

theorem State.sliceAt_setSlice (s : State) (die k : Nat) (x : Slice) : (s.setSlice die k x).sliceAt die k = x := by
  simp [State.setSlice, State.sliceAt, Tab.get_put]

/-- A message leaves the slices. -/
theorem State.deliver_dies (s : State) (w : Who) (o : Nat) (m : Msg) (t : Track) (x : Nat × Nat) (a b : List Nat) (r : Bool)
    (e : Option Nat) : (s.deliver w o m t x a b r e).dies = s.dies := by
  unfold State.deliver
  split
  · rfl
  · split <;> rfl

/-- A record's number is its die's own; the slices stand. -/
theorem State.nextFseq_slices (s : State) (src : Source) (c d : Nat) : ((s.nextFseq src c).2.die d).slices = (s.die d).slices := by
  unfold State.nextFseq
  split
  · rfl
  · rfl
  next e u j =>
    simp only [State.die_setDie]
    split
    next h => rw [h]
    next => rfl
  · rfl

theorem State.record_slices (s : State) (src : Source) (c code : Nat) (fatal ff : Bool) (r : RecInfo) (d : Nat) :
    ((s.record src c code fatal ff r).die d).slices = (s.die d).slices := by
  have hd : ∀ (u : State) w o m t x a b q e, ((u.deliver w o m t x a b q e).die d).slices = (u.die d).slices :=
    fun u w o m t x a b q e => by simp only [State.die, State.deliver_dies]
  unfold State.record
  dsimp only
  split
  · split
    · exact State.nextFseq_slices s src c d
    · exact (hd _ _ _ _ _ _ _ _ _ _).trans (State.nextFseq_slices s src c d)
  · exact (hd _ _ _ _ _ _ _ _ _ _).trans (State.nextFseq_slices s src c d)

/-! A walk's read. -/

theorem walkRead_started {s : State} {id die k word level table : Nat} {f : Flight} {r : MemReq} (hf : s.flight? id = some f)
    (hb : f.body = .req r) (hg : f.goal = .slice die k) (hst : f.stage = .sliceWalk word level table) {g : Region}
    (hr : g = (s.ctx r.ctx).regionAt r.key.1) {nt : Nat} (hw : s.walkRead g r.key.2.1 level table = .next nt) :
    exec (.pageWalkRead id) s = .next (s.setFlight { f with
        stage := .sliceWalk (nt + 8 * (r.key.2.1 / 2 ^ (9 * (level - 1)) % 512)) (level - 1) nt }) := by
  subst hr
  rw [show exec (.pageWalkRead id) s = execPageWalkRead id s from rfl, execPageWalkRead]
  simp only [hf, hb, hg, hst, hw]

/-- A walk that finds its leaf fills the slice with it. -/
theorem walkRead_fills {s : State} {id die k word level table pa : Nat} {w : Bool} {f : Flight} {r : MemReq}
    (hf : s.flight? id = some f) (hb : f.body = .req r) (hg : f.goal = .slice die k)
    (hst : f.stage = .sliceWalk word level table) {g : Region} (hr : g = (s.ctx r.ctx).regionAt r.key.1)
    (hw : s.walkRead g r.key.2.1 level table = .leaf pa w) :
    ∃ t, exec (.pageWalkRead id) s = .next t ∧ t.mem = s.mem
      ∧ ⟨r.ctx, r.key.1, r.key.2.1, pa, w⟩ ∈ (t.sliceAt die k).ents := by
  subst hr
  have hmem := execPageWalkRead_keepsMem id s
  rw [show exec (.pageWalkRead id) s = execPageWalkRead id s from rfl]
  unfold execPageWalkRead at hmem ⊢
  simp only [hf, hb, hg, hst, hw] at hmem ⊢
  refine ⟨_, rfl, hmem _ rfl, ?_⟩
  rw [State.sliceAt_of_dies (State.foldl_dies _ (fun u x => ?_) _ _), State.sliceAt_setSlice]
  · exact List.mem_append_right _ (List.mem_singleton_self _)
  · split
    · exact State.forward_dies _ _ _ _ _
    · rfl

/-! A page that is not present. -/

theorem State.record_flight_mem {s : State} {f : Flight} (hf : f ∈ s.flights) (src : Source) (c code : Nat) (fatal ff : Bool)
    (r : RecInfo) : f ∈ (s.record src c code fatal ff r).flights := by
  have hn : f ∈ (s.nextFseq src c).2.flights := by
    unfold State.nextFseq
    split <;> exact hf
  unfold State.record
  dsimp only
  split
  · split
    · exact hn
    · exact State.deliver_flight_mem (s := State.setCtx _ _ _) hn ..
  · exact State.deliver_flight_mem hn ..

theorem State.pageRecord_flight_mem {s : State} {f : Flight} (hf : f ∈ s.flights) (die k c word : Nat) (ff : Bool) (r : RecInfo) :
    f ∈ (s.pageRecord die k c word ff r).flights := by
  unfold State.pageRecord
  dsimp only
  split
  · exact hf
  · exact State.record_flight_mem (s := State.setSlice _ _ _ _) hf ..

/-- The word that is waited for is noted at the slice. -/
theorem State.pageRecord_words (s : State) (die k c word : Nat) (ff : Bool) (r : RecInfo) :
    (c, word) ∈ ((s.pageRecord die k c word ff r).sliceAt die k).words := by
  unfold State.pageRecord
  dsimp only
  split
  next h => exact List.contains_iff_mem.1 h
  next =>
    have hs : ∀ u : State, ∀ d, (u.record (.die die 7 k) c fPage false ff r).sliceAt die d = u.sliceAt die d := fun u d => by
      simp only [State.sliceAt, State.record_slices]
    rw [hs, State.sliceAt_setSlice]
    exact List.mem_append_right _ (List.mem_singleton_self _)

theorem State.reply_flight_mem {s : State} {g : Flight} (h : g ∈ s.flights) (f : Flight) (src : Nat × Nat) (n : Nat)
    (ans : Answer) : g ∈ (s.reply f src (.pf n) ans).flights := by
  unfold State.reply
  split
  · exact h
  all_goals exact List.mem_append_left _ h

theorem State.holdOn_holds {s : State} {die k : Nat} {f : Flight} (hf : f ∈ s.flights) (r : MemReq) (word level : Nat)
    (hh : s.heldCount die k < 256) : (r.ctx, word) ∈ ((s.holdOn die k f r word level).sliceAt die k).words
      ∧ ∃ x ∈ (s.holdOn die k f r word level).flights, x.id = f.id ∧ x.stage = .sliceHeld word false := by
  have hh' : ¬ Config.heldPerSlice ≤ s.heldCount die k := Nat.not_le.2 hh
  unfold State.holdOn
  rw [if_neg hh']
  dsimp only
  have hx := State.pageRecord_flight_mem (State.mem_setFlight (s := s.fresh.2) (f := f) hf (g := { f with
    body := .req { r with pfSent := true }, stage := .sliceHeld word false, arr := s.fresh.1 }) rfl) die k r.ctx word
      f.who.fromFault (State.sliceRec (s.fresh.2.setFlight { f with
        body := .req { r with pfSent := true }, stage := .sliceHeld word false, arr := s.fresh.1 }) f r.key.2.2 word level)
  split
  · refine ⟨?_, _, State.reply_flight_mem hx _ _ _ _, rfl, rfl⟩
    rw [State.sliceAt_of_dies (State.reply_dies _ _ _ _ _ _ _)]
    exact State.pageRecord_words _ _ _ _ _ _ _
  · exact ⟨State.pageRecord_words _ _ _ _ _ _ _, _, hx, rfl, rfl⟩

theorem walkRead_holds {s : State} {id die k word level table wd : Nat} {f : Flight} {r : MemReq} (hf : s.flight? id = some f)
    (hb : f.body = .req r) (hg : f.goal = .slice die k) (hst : f.stage = .sliceWalk word level table) {g : Region}
    (hr : g = (s.ctx r.ctx).regionAt r.key.1) (hw : s.walkRead g r.key.2.1 level table = .absent wd)
    (hgr : s.walkGroup die k f = [f]) (hh : s.heldCount die k < 256) :
    ∃ t, exec (.pageWalkRead id) s = .next t ∧ t.mem = s.mem ∧ (r.ctx, wd) ∈ (t.sliceAt die k).words
      ∧ ∃ x ∈ t.flights, x.id = id ∧ x.stage = .sliceHeld wd false := by
  subst hr
  obtain ⟨hm, hi⟩ := State.flight?_spec hf
  have hmem := execPageWalkRead_keepsMem id s
  rw [show exec (.pageWalkRead id) s = execPageWalkRead id s from rfl]
  unfold execPageWalkRead at hmem ⊢
  simp only [hf, hb, hg, hst, hw, hgr, List.foldl_cons, List.foldl_nil, Flight.req?] at hmem ⊢
  exact ⟨_, rfl, hmem _ rfl, hi ▸ State.holdOn_holds hm r wd level hh⟩

/-! A held request, a returned one, and an invalidation. -/

theorem rewalk_starts {s : State} {id die k word : Nat} {f : Flight} {r : MemReq} (hf : s.flight? id = some f)
    (hb : f.body = .req r) (hg : f.goal = .slice die k) (hst : f.stage = .sliceHeld word true)
    (hx : ∀ x ∈ s.heldAt die k, x.stage = .sliceHeld word true → f.arr ≤ x.arr) :
    exec (.pageFaultRewalk id) s = .next (s.beginWalk die k f r) := by
  rw [show exec (.pageFaultRewalk id) s = execPageFaultRewalk id s from rfl, execPageFaultRewalk]
  simp only [hf, hb, hg, hst]
  split
  next he =>
    obtain ⟨x, hxm, hlt⟩ := List.any_eq_true.1 he
    split at hlt
    next w hs =>
      simp only [Bool.and_eq_true, beq_iff_eq, decide_eq_true_eq] at hlt
      obtain ⟨rfl, hlt⟩ := hlt
      exact absurd (hx x hxm hs) (Nat.not_le.2 hlt)
    next => exact absurd hlt Bool.false_ne_true
  next => rfl

theorem retry_sends {s : State} {id : Nat} {f : Flight} (hf : s.flight? id = some f) (hst : f.stage = .sliceBack) :
    exec (.tlbRetry id) s = .next (({ s with nextId := s.nextId + 1 }).setFlight { f with
        stage := .router f.sx f.sy false, arr := s.nextId, cyc := s.clock, inp := entryPort f.who f.body }) := by
  rw [show exec (.tlbRetry id) s = execTlbRetry id s from rfl, execTlbRetry]
  simp only [hf, hst] <;> rfl

theorem invalidate_acknowledged {s : State} {die k : Nat} (hi : (s.sliceAt die k).inval = [])
    (hd : (s.sliceAt die k).drops ≠ []) (ha : (s.sliceAt die k).drops.all (fun x => !s.unapplied x) = true) :
    exec (.tlbInvalidate die k) s = .next (s.setSlice die k { s.sliceAt die k with drops := [] }) := by
  have hany : ¬ (s.sliceAt die k).drops.any s.unapplied = true := by
    rw [Bool.not_eq_true, List.any_eq_false]
    exact fun x hx => by simpa using List.all_eq_true.1 ha x hx
  rw [show exec (.tlbInvalidate die k) s = execTlbInvalidate die k s from rfl, execTlbInvalidate]
  dsimp only
  rw [if_neg (by simp [hi]), if_neg (by simpa using hd), if_neg hany, hi]

theorem invalidate_drops {s : State} {id die k : Nat} {f : Flight} {r : MemReq} {g : Region} {root : Stage}
    (hf : s.flight? id = some f) (hb : f.body = .req r) (hg : f.goal = .slice die k)
    (hr : g = (s.ctx r.ctx).regionAt r.key.1)
    (hroot : root = .sliceWalk (g.paddr + 8 * (r.key.2.1 / 2 ^ (9 * (g.levels - 1)) % 512)) (g.levels - 1) g.paddr)
    (hi : (s.sliceAt die k).inval ≠ []) :
    ∃ t, exec (.tlbInvalidate die k) s = .next t ∧ t.mem = s.mem ∧ (t.sliceAt die k).inval = []
      ∧ (t.sliceAt die k).drops.map Prod.fst = (s.sliceAt die k).drops.map Prod.fst ++ (s.sliceAt die k).inval
      ∧ (∀ e, e ∈ (t.sliceAt die k).ents ↔ e ∈ (s.sliceAt die k).ents
          ∧ ∀ x ∈ (s.sliceAt die k).inval, inRange x e.ctx e.region e.page = false)
      ∧ ∀ word level table x, f.stage = .sliceWalk word level table → x ∈ (s.sliceAt die k).inval →
          inRange x r.ctx r.key.1 r.key.2.1 = true → { f with stage := root } ∈ t.flights := by
  subst hr hroot
  rw [show exec (.tlbInvalidate die k) s = execTlbInvalidate die k s from rfl, execTlbInvalidate]
  rw [if_pos (by simpa using hi)]
  have hs : (s.dropRanges die k).sliceAt die k = { s.sliceAt die k with
      ents := (s.sliceAt die k).ents.filter fun e => !(s.sliceAt die k).inval.any fun x => inRange x e.ctx e.region e.page
      inval := []
      drops := (s.sliceAt die k).drops ++ ((s.sliceAt die k).inval.map fun e => (e, s.throughRange die k e)).map fun x =>
        (x.1, x.2.1, x.2.2) } := State.sliceAt_setSlice s die k _
  refine ⟨_, rfl, rfl, by rw [hs], by rw [hs]; simp [Function.comp_def], fun e => ?_, fun word level table x hst hx hin => ?_⟩
  · rw [hs, List.mem_filter]
    simp
  · refine List.mem_map.2 ⟨f, (State.flight?_spec hf).1, ?_⟩
    have hany : ((s.sliceAt die k).inval.any fun x => inRange x r.ctx r.key.1 r.key.2.1) = true :=
      List.any_eq_true.2 ⟨x, hx, hin⟩
    simp only [hb, hg, hst, hany, and_self, if_true] <;> rfl

/-- Settles O50: a lookup, a walk's read, a held request, a returned one and an invalidation, each by its rule. -/
theorem translationSteps : Obligations.TranslationSteps := by
  unfold Obligations.TranslationSteps
  intro s id f r die k g root hf hb hg hr hroot
  refine ⟨fun ha hs hw hl hwa => ?_, fun h tgt w lt ha hs hp hn hlt => lookup_found hf hb hg ha hs hp hn hlt,
    fun word level table hst => ⟨fun nt hw => walkRead_started hf hb hg hst hr hw,
      fun pa w hw => walkRead_fills hf hb hg hst hr hw, fun wd hw hgr hh => walkRead_holds hf hb hg hst hr hw hgr hh⟩,
    fun word hst hw hl hx hwa => ?_, fun hst => retry_sends hf hst, invalidate_acknowledged,
    fun hi => invalidate_drops hf hb hg hr hroot hi⟩
  · rw [lookup_missing hf hb hg ha hs, State.beginWalk_root f hw hl hwa, hroot, hr]
  · rw [rewalk_starts hf hb hg hst hx, State.beginWalk_root f hw hl hwa, hroot, hr]

end Sys2Proof.Machine

/-! SETTLED. Routers and links (11 R228 to R232, R234; 21 R358). -/

namespace Sys2Proof.Machine

open Sys2Proof

/-! Minimal routes. -/

/-- A step of the shorter way around a ring leaves one step less. -/
theorem ringWay_step : ∀ a < 16, ∀ b < 16, a ≠ b → (ringWay (ringStep a (ringWay a b).1) b).2 + 1 = (ringWay a b).2 := by
  decide

/-- An output of a flight at a router: along X or Y, the shorter way of a ring in which it has not arrived. -/
def Flight.Minimal (f : Flight) (x y : Nat) (o : Bool × Bool) : Prop :=
  (x ≠ f.dx ∧ o = (true, (ringWay x f.dx).1)) ∨ (y ≠ f.dy ∧ o = (false, (ringWay y f.dy).1))

theorem Flight.Minimal.hops {f : Flight} {x y : Nat} {o : Bool × Bool} (h : f.Minimal x y o) (hx : x < 16) (hy : y < 16)
    (hdx : f.dx < 16) (hdy : f.dy < 16) : hops (nextXY x y o.1 o.2) (f.dx, f.dy) + 1 = hops (x, y) (f.dx, f.dy) := by
  rcases h with ⟨hn, rfl⟩ | ⟨hn, rfl⟩
  · have := ringWay_step x hx f.dx hdx hn
    simp only [nextXY, Machine.hops, if_true]
    omega
  · have := ringWay_step y hy f.dy hdy hn
    simp only [nextXY, Machine.hops, Bool.false_eq_true, if_false]
    omega

theorem Flight.dimOutput_minimal {f : Flight} {x y : Nat} {o : Bool × Bool} (h : f.dimOutput x y = some o) :
    f.Minimal x y o := by
  unfold Flight.dimOutput at h
  split at h
  next hx => exact .inl ⟨hx, (Option.some.inj h).symm⟩
  next =>
    split at h
    next hy => exact .inr ⟨hy, (Option.some.inj h).symm⟩
    next => exact nomatch h

theorem Flight.Minimal.dimOutput {f : Flight} {x y : Nat} {o : Bool × Bool} (h : f.Minimal x y o) :
    ∃ out, f.dimOutput x y = some out := by
  unfold Flight.dimOutput
  split
  · exact ⟨_, rfl⟩
  next hx =>
    rcases h with ⟨hn, -⟩ | ⟨hn, -⟩
    · exact absurd hn hx
    · exact ⟨_, if_pos hn⟩

/-- The output that a router chooses lies on a minimal route; a request of the escape class keeps to it. -/
theorem State.outputFor_minimal {s : State} {f : Flight} {x y : Nat} {esc : Bool} {o : Bool × Bool} {e : Bool}
    (h : s.outputFor f x y esc = some (o, e)) : f.Minimal x y o ∧ (esc = true → e = true) := by
  have hx : ∀ p a, ((if x ≠ f.dx then some (true, (ringWay x f.dx).1) else none : Option (Bool × Bool)).filter p) = some a →
      f.Minimal x y a := by
    intro p a ha
    obtain ⟨ha, -⟩ := Option.filter_eq_some_iff.1 ha
    split at ha
    next hn => exact .inl ⟨hn, (Option.some.inj ha).symm⟩
    next => exact nomatch ha
  have hy : ∀ p a, ((if y ≠ f.dy then some (false, (ringWay y f.dy).1) else none : Option (Bool × Bool)).filter p) = some a →
      f.Minimal x y a := by
    intro p a ha
    obtain ⟨ha, -⟩ := Option.filter_eq_some_iff.1 ha
    split at ha
    next hn => exact .inr ⟨hn, (Option.some.inj ha).symm⟩
    next => exact nomatch ha
  unfold State.outputFor at h
  dsimp only at h
  cases esc with
  | true =>
    simp only [if_true] at h
    split at h
    next hd =>
      split at h
      · obtain ⟨rfl, rfl⟩ := Prod.mk.inj (Option.some.inj h)
        exact ⟨Flight.dimOutput_minimal hd, fun _ => rfl⟩
      · exact nomatch h
    next => exact nomatch h
  | false =>
    simp only [Bool.false_eq_true, if_false] at h
    refine ⟨?_, fun h => nomatch h⟩
    split at h
    next a b ha hb =>
      obtain ⟨ho, -⟩ := Prod.mk.inj (Option.some.inj h)
      subst ho
      split
      · exact hx _ _ ha
      · exact hy _ _ hb
    next a ha _ =>
      obtain ⟨rfl, -⟩ := Prod.mk.inj (Option.some.inj h)
      exact hx _ _ ha
    next b _ hb =>
      obtain ⟨rfl, -⟩ := Prod.mk.inj (Option.some.inj h)
      exact hy _ _ hb
    next =>
      split at h
      next hd =>
        split at h
        · obtain ⟨rfl, -⟩ := Prod.mk.inj (Option.some.inj h)
          exact Flight.dimOutput_minimal hd
        · exact nomatch h
      next => exact nomatch h

/-! A router. -/

theorem router_chooses {s : State} {id x y : Nat} {f : Flight} {esc e : Bool} {o : Bool × Bool} (hf : s.flight? id = some f)
    (hx : x < 16) (hy : y < 16) (hdx : f.dx < 16) (hdy : f.dy < 16) (hst : f.stage = .router x y esc) (hr : f.reply = false)
    (ho : s.outputFor f x y esc = some (o, e)) :
    exec (.quadRouterForward id (wayOf o e)) s
        = .next (({ s with nextId := s.nextId + 1 }).setFlight { f with stage := .lane x y o.1 o.2 e, arr := s.nextId })
      ∧ hops (nextXY x y o.1 o.2) (f.dx, f.dy) + 1 = hops (x, y) (f.dx, f.dy) ∧ (esc = true → e = true) := by
  obtain ⟨hm, he⟩ := State.outputFor_minimal ho
  obtain ⟨out, hd⟩ := hm.dimOutput
  refine ⟨?_, hm.hops hx hy hdx hdy, he⟩
  rw [show exec (.quadRouterForward id (wayOf o e)) s = execQuadRouterForward id (wayOf o e) s from rfl, execQuadRouterForward]
  simp only [hf, hst, hd, hr, Bool.false_eq_true, if_false, ho, if_true] <;> rfl

/-- What crosses stands at the next router of its die, or on the link to it. -/
theorem State.cross_stage {s : State} {f : Flight} (hf : f ∈ s.flights) (x y : Nat) (out : Bool × Bool) (esc : Bool) :
    ∃ g z, g ∈ (s.cross f x y out esc).flights ∧ g.id = f.id ∧ g.body = f.body ∧ z = nextXY x y out.1 out.2
      ∧ (linkOf (x, y) z = none → ∃ e, g.stage = .router z.1 z.2 e)
      ∧ ∀ l, linkOf (x, y) z = some l → ∃ e, g.stage = .link l z.1 z.2 e := by
  unfold State.cross
  dsimp only
  split
  next l hl =>
    refine ⟨_, nextXY x y out.1 out.2, State.mem_setFlight (f := f) hf rfl, rfl, rfl, rfl, fun h => ?_, fun k h => ?_⟩
    · exact absurd (h.symm.trans hl) nofun
    · obtain rfl := Option.some.inj (h.symm.trans hl)
      exact ⟨esc, rfl⟩
  next hl =>
    refine ⟨_, nextXY x y out.1 out.2, State.mem_setFlight (f := f) hf rfl, rfl, rfl, rfl, fun h => ⟨esc, rfl⟩, fun k h => ?_⟩
    exact absurd (h.symm.trans hl) nofun

/-- The first of its lane, with room in the cycle, crosses. -/
theorem router_crosses {s : State} {id x y : Nat} {f : Flight} {esc : Bool} {out : Bool × Bool} (way : RouteWay)
    (hf : s.flight? id = some f)
    (h : (f.reply = true ∧ f.stage = .router x y esc ∧ f.dimOutput x y = some out ∧ s.aheadOf f x y out false = false)
      ∨ (f.stage = .lane x y out.1 out.2 esc ∧ s.aheadOf f x y out esc = false)) (hl : s.laneTakes f x y out = true) :
    ∃ e, exec (.quadRouterForward id way) s = .next (s.cross f x y out e) := by
  rw [show exec (.quadRouterForward id way) s = execQuadRouterForward id way s from rfl, execQuadRouterForward]
  rcases h with ⟨hr, hst, hd, ha⟩ | ⟨hst, ha⟩
  · refine ⟨false, ?_⟩
    simp only [hf, hst, hd, hr, if_true, ha, hl, Bool.not_true, Bool.false_eq_true, if_false]
  · refine ⟨esc, ?_⟩
    simp only [hf, hst, ha, hl, Bool.not_true, Bool.false_eq_true, if_false]

/-! Links. -/

theorem d2dFrame_link {s : State} {link : Nat} (hl : link < 64) (up ok : Bool) :
    exec (.d2dFrameReceive (if up then link + 64 else link) ok) s = s.linkFrame link up ok := by
  rw [show exec (.d2dFrameReceive (if up then link + 64 else link) ok) s
    = execD2dFrameReceive (if up then link + 64 else link) ok s from rfl, execD2dFrameReceive]
  cases up with
  | true =>
    simp only [if_true]
    rw [if_neg (by omega), Nat.add_mod_right, Nat.mod_eq_of_lt hl, decide_eq_true (by omega)]
  | false =>
    simp only [Bool.false_eq_true, if_false]
    rw [if_neg (by omega), Nat.mod_eq_of_lt hl, decide_eq_false (by omega)]

/-- A frame of a link delivers what is on it in its direction. -/
theorem linkFrame_delivers {s : State} {link : Nat} {l : Link} (hl : l = s.linkAt link) (hd : l.dead = false) (up : Bool) :
    ∃ t, s.linkFrame link up true = .next t ∧ t.linkAt link = l.setFails up 0 ∧ t.mem = s.mem
      ∧ ∀ f ∈ s.flights, ∀ x y e, f.stage = .link link x y e → linkUp link x y = up →
        { f with stage := .router x y e, cyc := s.clock } ∈ t.flights := by
  subst hl
  unfold State.linkFrame
  dsimp only
  rw [if_neg (by simp [hd]), if_neg (by decide)]
  refine ⟨_, rfl, ?_, rfl, fun f hf x y e hst hu => List.mem_map.2 ⟨f, hf, ?_⟩⟩
  · change (s.setLink link _).linkAt link = _
    rw [State.linkAt_setLink, if_pos rfl]
  · simp only [hst, hu, and_self, if_true] <;> rfl

theorem State.vector_flights (s : State) (v : Nat) : (s.vector v).flights = s.flights := by
  unfold State.vector
  split <;> rfl

theorem State.vector_links (s : State) (v : Nat) : (s.vector v).links = s.links := by
  unfold State.vector
  split <;> rfl

theorem State.setHealth_flights (s : State) (h : Health) : (s.setHealth h).flights = s.flights := by
  unfold State.setHealth
  split
  · exact State.vector_flights _ _
  · rfl

theorem State.setHealth_links (s : State) (h : Health) : (s.setHealth h).links = s.links := by
  unfold State.setHealth
  split
  · exact State.vector_links _ _
  · rfl

theorem State.softError_flights (s : State) (die st : Nat) (u : Bool) : (s.softError die st u).flights = s.flights := by
  unfold State.softError
  dsimp only
  split
  · rfl
  · split
    · exact State.setHealth_flights _ _
    · rfl

theorem State.softError_links (s : State) (die st : Nat) (u : Bool) : (s.softError die st u).links = s.links := by
  unfold State.softError
  dsimp only
  split
  · rfl
  · split
    · exact State.setHealth_links _ _
    · rfl

theorem Link.fails_setFails (l : Link) (up : Bool) (n : Nat) (b : Bool) :
    ({ l.setFails up n with report := b }).fails up = n ∧ ({ l.setFails up n with report := b }).fails (!up) = l.fails (!up) := by
  cases up <;> exact ⟨rfl, rfl⟩

/-- A frame whose CRC fails is a failed sending. -/
theorem linkFrame_fails {s : State} {link : Nat} {l : Link} (hl : l = s.linkAt link) (hd : l.dead = false) (up : Bool) :
    ∃ t, s.linkFrame link up false = .next t ∧ (t.linkAt link).fails up = l.fails up + 1
      ∧ (t.linkAt link).fails (!up) = l.fails (!up)
      ∧ (t.linkAt link).report = (l.report || decide (17 ≤ l.fails up + 1)) ∧ t.flights = s.flights ∧ t.mem = s.mem := by
  subst hl
  unfold State.linkFrame
  dsimp only
  rw [if_neg (by simp [hd]), if_pos (by decide)]
  have hlink : ∀ x, ((s.setLink link x).softError (linkDie link) 10 false).linkAt link = x := fun x => by
    rw [State.linkAt, State.softError_links, ← State.linkAt, State.linkAt_setLink, if_pos rfl]
  refine ⟨_, rfl, ?_, ?_, ?_, State.softError_flights _ _ _ _, State.softError_mem _ _ _ _⟩
  · rw [hlink]
    exact (Link.fails_setFails _ _ _ _).1
  · rw [hlink]
    exact (Link.fails_setFails _ _ _ _).2
  · rw [hlink]

/-- What of the health record is set stands in it, but for its epoch. -/
theorem State.setHealth_health {β : Type} (r : Health → β) (hr : ∀ h n, r { h with hepoch := n } = r h) (s : State) (h : Health) :
    r (s.setHealth h).hub.health = r h := by
  have hv : ∀ (u : State) v, (u.vector v).hub.health = u.hub.health := fun u v => by
    unfold State.vector
    split <;> rfl
  unfold State.setHealth
  split
  · rw [hv]
    exact hr h _
  · rfl

/-- After 16 failed retries a link goes to half rate. -/
theorem linkHalfRate_halves {s : State} {link : Nat} {l : Link} (hl : l = s.linkAt link) (hd : l.dead = false)
    (hr : l.report = true) (hh : l.half = false) :
    ∃ t, exec (.linkHalfRate link) s = .next t
      ∧ t.linkAt link = { l with half := true, failsUp := 0, failsDown := 0, report := false }
      ∧ t.hub.health.replace = true ∧ t.hub.health.half.testBit (halfBit link) = true
      ∧ t.hub.health.rwhy.testBit 1 = true := by
  subst hl
  rw [show exec (.linkHalfRate link) s = execLinkHalfRate link s from rfl, execLinkHalfRate]
  dsimp only
  rw [if_neg (by simp [hd, hr]), if_neg (by simp [hh])]
  refine ⟨_, rfl, ?_, ?_, ?_, ?_⟩
  · rw [State.linkAt, State.setHealth_links, ← State.linkAt, State.linkAt_setLink, if_pos rfl]
  · exact State.setHealth_health Health.replace (fun _ _ => rfl) _ _
  · rw [State.setHealth_health Health.half (fun _ _ => rfl)]
    exact testBit_lor_two_pow _ _
  · rw [State.setHealth_health Health.rwhy (fun _ _ => rfl)]
    exact testBit_lor_two_pow _ 1

/-- The links, and which of them has failed. -/
def State.linkPart (s : State) : Tab Link × Option Nat := (s.links, s.hub.linkFailed)

theorem State.deliver_linkPart (s : State) (w : Who) (o : Nat) (m : Msg) (t : Track) (x : Nat × Nat) (a b : List Nat)
    (r : Bool) (e : Option Nat) : (s.deliver w o m t x a b r e).linkPart = s.linkPart := by
  unfold State.deliver
  split
  · rfl
  · split <;> rfl

theorem State.nextFseq_linkPart (s : State) (src : Source) (c : Nat) : (s.nextFseq src c).2.linkPart = s.linkPart := by
  unfold State.nextFseq
  split <;> rfl

theorem State.record_linkPart (s : State) (src : Source) (c code : Nat) (fatal ff : Bool) (r : RecInfo) :
    (s.record src c code fatal ff r).linkPart = s.linkPart := by
  have hn := State.nextFseq_linkPart s src c
  unfold State.record
  generalize s.nextFseq src c = u at hn
  obtain ⟨n, u⟩ := u
  dsimp only at hn ⊢
  split
  · split
    · exact hn
    · rw [State.deliver_linkPart]
      exact hn
  · rw [State.deliver_linkPart]
    exact hn

theorem State.fatal_linkPart (s : State) (src : Source) (c code : Nat) (r : RecInfo) :
    (s.fatal src c code r).linkPart = s.linkPart := by
  have hn := State.nextFseq_linkPart s src c
  unfold State.fatal
  generalize s.nextFseq src c = u at hn
  obtain ⟨n, u⟩ := u
  dsimp only at hn ⊢
  split
  · exact State.record_linkPart s src c code true false r
  · exact (State.deliver_linkPart u _ _ _ _ _ _ _ _ _).trans hn

/-- A fatal error leaves the links and which of them has failed. -/
theorem State.fatalAll_linkPart (s : State) (code det : Nat) : (s.fatalAll code det).linkPart = s.linkPart := by
  unfold State.fatalAll
  refine List.foldlRecOn (motive := fun t : State => t.linkPart = s.linkPart) _ _ rfl (fun u hu c _ => ?_)
  split
  · exact hu
  · exact (State.fatal_linkPart _ _ _ _ _).trans hu

/-- A link at half rate that fails again has failed. -/
theorem linkHalfRate_fails {s : State} {link : Nat} {l : Link} (hl : l = s.linkAt link) (hd : l.dead = false)
    (hr : l.report = true) (hh : l.half = true) :
    ∃ t, exec (.linkHalfRate link) s = .next t ∧ t.linkAt link = { l with dead := true, report := false }
      ∧ t.hub.linkFailed = some link := by
  subst hl
  rw [show exec (.linkHalfRate link) s = execLinkHalfRate link s from rfl, execLinkHalfRate]
  dsimp only
  rw [if_neg (by simp [hd, hr]), if_pos hh]
  generalize hu : State.setHub _ _ = u
  have hp := State.fatalAll_linkPart u fFabric link
  simp only [State.linkPart, Prod.mk.injEq] at hp
  obtain ⟨h1, h2⟩ := hp
  refine ⟨_, rfl, ?_, ?_⟩
  · rw [State.linkAt, h1, ← hu]
    exact (State.linkAt_setLink s link _ link).trans (if_pos rfl)
  · rw [h2, ← hu]
    rfl

/-- Settles O51: the routers by the minimal routes, the links by their frames. -/
theorem fabricMovesFlights : Obligations.FabricMovesFlights := by
  unfold Obligations.FabricMovesFlights
  refine ⟨fun s id x y f hf hx hy hdx hdy => ⟨fun esc o e hst hr ho => router_chooses hf hx hy hdx hdy hst hr ho,
    fun out esc way h hl => ?_⟩, fun s link l hl hlt hd => ⟨?_, linkHalfRate_halves hl hd, linkHalfRate_fails hl hd⟩⟩
  · obtain ⟨e, he⟩ := router_crosses way hf h hl
    obtain ⟨hm, hi⟩ := State.flight?_spec hf
    obtain ⟨g, z, hg, hid, hb, hz, hn, hk⟩ := State.cross_stage hm x y out e
    exact ⟨_, g, z, he, State.cross_mem s f x y out e, hg, hid.trans hi, hb, hz,
      fun ho => hz ▸ (Flight.dimOutput_minimal ho).hops hx hy hdx hdy, hn, hk⟩
  · rintro up n rfl
    rw [d2dFrame_link hlt, d2dFrame_link hlt]
    exact ⟨linkFrame_delivers hl hd up, linkFrame_fails hl hd up⟩

end Sys2Proof.Machine

/-! SETTLED. The ports and their key sessions (18 R312, R316 to R321; 21 R357). -/

namespace Sys2Proof.Machine

open Sys2Proof

/-! Ports that a step leaves. -/

theorem State.vector_ports (s : State) (v : Nat) : (s.vector v).ports = s.ports := by
  unfold State.vector
  split <;> rfl

theorem State.setHealth_ports (s : State) (h : Health) : (s.setHealth h).ports = s.ports := by
  unfold State.setHealth
  split
  · exact State.vector_ports _ _
  · rfl

theorem State.softError_ports (s : State) (die st : Nat) (u : Bool) : (s.softError die st u).ports = s.ports := by
  unfold State.softError
  dsimp only
  split
  · rfl
  · split
    · exact State.setHealth_ports _ _
    · rfl

theorem State.port_of_ports {s t : State} (h : t.ports = s.ports) (p : Nat) : t.port p = s.port p := by
  simp only [State.port, h]

/-- What is sent out stays sent. -/
theorem State.vector_outbox_mem {s : State} {o : Out} (h : o ∈ s.outbox) (v : Nat) : o ∈ (s.vector v).outbox := by
  unfold State.vector
  split
  · exact h
  · exact List.mem_append_left _ h

theorem State.setHealth_outbox_mem {s : State} {o : Out} (h : o ∈ s.outbox) (x : Health) : o ∈ (s.setHealth x).outbox := by
  unfold State.setHealth
  split
  · refine State.vector_outbox_mem ?_ _
    exact h
  · exact h

theorem State.softError_outbox_mem {s : State} {o : Out} (h : o ∈ s.outbox) (die st : Nat) (u : Bool) :
    o ∈ (s.softError die st u).outbox := by
  have key : ∀ (v : State), o ∈ v.outbox → o ∈ (v.setReplace 3).outbox := fun v hv => State.setHealth_outbox_mem hv _
  unfold State.softError
  dsimp only
  split
  · exact h
  · split
    · exact key _ h
    · exact h

/-! What a sending leaves of the ports. -/

/-- A port that has at most sent. -/
structure Port.Sent (q p : Port) : Prop where
  up : q.up = p.up
  phase : q.phase = p.phase
  remote : q.remote = p.remote
  kg : q.tx.kg = p.tx.kg
  switched : p.rekeying = .switched → q.rekeying = .switched

theorem Port.Sent.refl (p : Port) : p.Sent p := ⟨rfl, rfl, rfl, rfl, id⟩

theorem Port.Sent.trans {r q p : Port} (h : r.Sent q) (h' : q.Sent p) : r.Sent p :=
  ⟨h.up.trans h'.up, h.phase.trans h'.phase, h.remote.trans h'.remote, h.kg.trans h'.kg, fun hs => h.switched (h'.switched hs)⟩

theorem KeyBanks.put_kg (b : KeyBanks) (k : Bool) (n : Option Nat) : (b.put k n).kg = b.kg := by
  unfold KeyBanks.put
  split <;> rfl

theorem KeyBanks.bank_put_same (b : KeyBanks) (k : Bool) (n : Option Nat) : (b.put k n).bank k = n := by
  cases k <;> rfl

theorem KeyBanks.bank_put_other (b : KeyBanks) (k : Bool) (n : Option Nat) : (b.put (!k) n).bank k = b.bank k := by
  cases k <;> rfl

theorem State.sendFrame_sent (s : State) (port : Nat) (u : Option PeerUnit) (o : Out) (k : Nat) :
    ((s.sendFrame port u o).port k).Sent (s.port k) := by
  unfold State.sendFrame
  extract_lets p n vn1 fcnt w t q
  change Port.Sent ((s.setPort port q).port k) (s.port k)
  rw [State.port_setPort]
  split
  next hk =>
    subst hk
    refine ⟨rfl, rfl, rfl, KeyBanks.put_kg _ _ _, fun hs => ?_⟩
    have hs' : p.rekeying = .switched := hs
    refine (if_neg ?_).trans hs'
    rintro ⟨h, -⟩
    exact nomatch h.symm.trans hs'
  next => exact Port.Sent.refl _

theorem barnTry_sent (x : State × List BarnOut × List Nat) (b : BarnOut) (k : Nat) :
    ((barnTry x b).1.port k).Sent (x.1.port k) := by
  unfold barnTry
  dsimp only
  split
  · exact Port.Sent.refl _
  · split
    · exact Port.Sent.refl _
    · exact State.sendFrame_sent _ _ _ _ _

theorem foldl_barnTry_sent (l : List BarnOut) (x : State × List BarnOut × List Nat) (k : Nat) :
    ((l.foldl barnTry x).1.port k).Sent (x.1.port k) := by
  induction l generalizing x with
  | nil => exact Port.Sent.refl _
  | cons b l ih => exact (ih _).trans (barnTry_sent x b k)

theorem State.barnFlush_sent (s : State) (k : Nat) : (s.barnFlush.port k).Sent (s.port k) := by
  have h := foldl_barnTry_sent s.hub.barnQ (s, [], []) k
  exact h

/-! The remote table. -/

theorem Port.freeEntry_free {p : Port} {e : Nat} (h : p.freeEntry = some e) : p.remote.get? e = none := by
  have h1 := List.find?_some h
  simp only [Bool.and_eq_true, Option.isNone_iff_eq_none] at h1
  exact h1.1

theorem State.sendUnit_flights (s : State) (port : Nat) (f : Flight) (e : Nat) : (s.sendUnit port f e).flights = s.flights := by
  unfold State.sendUnit
  split <;> rfl

/-- A request takes a free entry of its port's remote table and waits there. -/
theorem remoteTable_takes {s : State} {id port e : Nat} {f : Flight} (hf : s.flight? id = some f) (hg : f.goal = .egress port)
    (ha : f.arrived = true) (hn : f.needsEntry = true) (hl : s.lostFor f port = false) (hu : (s.port port).up = true)
    (he : (s.port port).freeEntry = some e) (hs : s.maySend port f (4096 * port + e) = true) :
    ∃ t, exec (.remoteTableEntry id) s = .next t ∧ t.mem = s.mem ∧ (s.port port).remote.get? e = none
      ∧ (t.port port).remote.get? e = some id ∧ ∃ g ∈ t.flights, g.id = id ∧ g.stage = .remote port e := by
  obtain ⟨hm, hi⟩ := State.flight?_spec hf
  have hmem := execRemoteTableEntry_keepsMem id s
  rw [show exec (.remoteTableEntry id) s = execRemoteTableEntry id s from rfl]
  unfold execRemoteTableEntry at hmem ⊢
  simp only [hf, hg, ha, hn, hl, hu, he, hs, Bool.not_true, Bool.or_self, Bool.false_eq_true, if_false] at hmem ⊢
  refine ⟨_, rfl, hmem _ rfl, Port.freeEntry_free he, ?_, ?_⟩
  · change ((State.setPort _ port _).port port).remote.get? e = some id
    rw [State.port_setPort, if_pos rfl, Tab.get?_put]
  · refine ⟨_, List.mem_map.2 ⟨f, ?_, if_pos rfl⟩, hi, rfl⟩
    change f ∈ (s.sendUnit port f (4096 * port + e)).flights
    rw [State.sendUnit_flights]
    exact hm

/-! Frames that come. -/

/-- A frame comes to a port that is up, with units of its kind that it holds. -/
theorem frame_comes {s : State} {port : Nat} {f : Frame} (hp : port < 14) (hu : (s.port port).up = true)
    (hn : (f.units.map unitFlits).sum ≤ 25) (hk : f.units.all (unitOn port) = true) :
    ¬ ((!(s.port port).up || decide (14 ≤ port) || decide (25 < (f.units.map unitFlits).sum)
      || !f.units.all (unitOn port)) = true) := by
  simp [hu, hk, Nat.not_le.2 hp, Nat.not_lt.2 hn]

theorem frame_fails {s : State} {port : Nat} {p : Port} {f : Frame} (hpp : p = s.port port) (hp : port < 14) (hu : p.up = true)
    (hn : (f.units.map unitFlits).sum ≤ 25) (hk : f.units.all (unitOn port) = true) (hx : p.passes f = false) :
    ∃ t, exec (.druntasyFrameReceive port f) s = .next t
      ∧ (t.port port).retries = (if f.fseq = p.rxSeq then p.retries + 1 else p.retries)
      ∧ .again port p.rxSeq ∈ t.outbox ∧ t.flights = s.flights ∧ t.mem = s.mem := by
  subst hpp
  rw [show exec (.druntasyFrameReceive port f) s = execDruntasyFrameReceive port f s from rfl, execDruntasyFrameReceive]
  dsimp only
  rw [if_neg (frame_comes hp hu hn hk), if_pos (by simp [hx])]
  generalize hv : State.emit _ _ = v
  have hport : (v.port port).retries = if f.fseq = (s.port port).rxSeq then (s.port port).retries + 1 else (s.port port).retries := by
    rw [← hv]
    change ((s.setPort port _).port port).retries = _
    rw [State.port_setPort, if_pos rfl]
  have hout : .again port (s.port port).rxSeq ∈ v.outbox := hv ▸ List.mem_append_right _ (List.mem_singleton_self _)
  have hfl : v.flights = s.flights := hv ▸ rfl
  have hm : v.mem = s.mem := hv ▸ rfl
  split
  · exact ⟨_, rfl, hport, hout, hfl, hm⟩
  · split
    · refine ⟨_, rfl, ?_, State.softError_outbox_mem hout _ _ _, (State.softError_flights _ _ _ _).trans hfl,
        (State.softError_mem _ _ _ _).trans hm⟩
      rw [State.port_of_ports (State.softError_ports _ _ _ _)]
      exact hport
    · exact ⟨_, rfl, hport, hout, hfl, hm⟩

theorem frame_outOfOrder {s : State} {port : Nat} {p : Port} {f : Frame} (hpp : p = s.port port) (hp : port < 14)
    (hu : p.up = true) (hn : (f.units.map unitFlits).sum ≤ 25) (hk : f.units.all (unitOn port) = true)
    (hx : p.passes f = true) (hs : f.fseq ≠ p.rxSeq) :
    exec (.druntasyFrameReceive port f) s = .next (s.setPort port { p with lastGood := s.clock }) := by
  subst hpp
  rw [show exec (.druntasyFrameReceive port f) s = execDruntasyFrameReceive port f s from rfl, execDruntasyFrameReceive]
  dsimp only
  rw [if_neg (frame_comes hp hu hn hk), if_neg (by simp [hx]), if_pos hs]

theorem frame_taken {s : State} {port : Nat} {p : Port} {f : Frame} (hpp : p = s.port port) (hp : port < 14)
    (hu : p.up = true) (hn : (f.units.map unitFlits).sum ≤ 25) (hk : f.units.all (unitOn port) = true)
    (hx : p.passes f = true) (hs : f.fseq = p.rxSeq) :
    exec (.druntasyFrameReceive port f) s =
      let u := f.units.foldl (fun s u => s.arriveUnit port u) (s.setPort port (p.received f s.clock))
      .next (if 12 ≤ port then u.barnFlush else u) := by
  subst hpp
  rw [show exec (.druntasyFrameReceive port f) s = execDruntasyFrameReceive port f s from rfl, execDruntasyFrameReceive]
  dsimp only
  rw [if_neg (frame_comes hp hu hn hk), if_neg (by simp [hx]), if_neg (not_not.2 hs)]

theorem frame_empty {s : State} {port : Nat} {p : Port} {f : Frame} (hpp : p = s.port port) (hp : port < 14)
    (hu : p.up = true) (hn : (f.units.map unitFlits).sum ≤ 25) (hk : f.units.all (unitOn port) = true)
    (hx : p.passes f = true) (hs : f.fseq = p.rxSeq) (he : f.units = []) (h12 : port < 12) :
    exec (.druntasyFrameReceive port f) s = .next (s.setPort port (p.received f s.clock)) := by
  rw [frame_taken hpp hp hu hn hk hx hs, he]
  dsimp only [List.foldl_nil]
  rw [if_neg (Nat.not_le.2 h12)]

/-- A memory request in a frame enters the fabric for its owner. -/
theorem frame_request {s : State} {port : Nat} {p : Port} {f : Frame} (hpp : p = s.port port) (hp : port < 14)
    (hu : p.up = true) (hn : (f.units.map unitFlits).sum ≤ 25) (hk : f.units.all (unitOn port) = true)
    (hx : p.passes f = true) (hs : f.fseq = p.rxSeq) {gm : Geom} {here src : Nat × Nat × Nat} {cls : Bool}
    {chip e c pa n : Nat} {op : MemOp} {data : List Byte} {expect : Word} {more : Option (Nat × Nat)}
    (hg : s.hub.geom = some gm) (hd : gm.direction here.1 here.2.1 here.2.2 = none)
    (hq : f.units = [.via here src cls (.req chip e c op pa n data expect more)]) :
    ∃ t, exec (.druntasyFrameReceive port f) s = .next t ∧ t.mem = s.mem ∧ t.port port = p.received f s.clock
      ∧ ∃ g ∈ t.flights, ∃ r, g.body = .req r ∧ g.goal = .owner ∧ r.op = op ∧ r.ctx = c ∧ r.target = some (.here pa)
        ∧ r.later = more.map (fun m => (m.1, .here m.2))
        ∧ r.n = n ∧ r.data = data ∧ r.expect = expect ∧ r.ans = .peer chip e port
        ∧ g.home = some src ∧ g.vc = (cls != gm.wraps port) := by
  obtain ⟨x, y, z⟩ := here
  have h12 : ¬ 12 ≤ port := by
    rw [hq] at hk
    simpa [unitOn, barnUnit] using hk
  rw [frame_taken hpp hp hu hn hk hx hs, hq]
  dsimp only [List.foldl_cons, List.foldl_nil]
  rw [if_neg h12]
  have hgu : (s.setPort port (p.received f s.clock)).hub.geom = some gm := hg
  unfold State.arriveUnit
  simp only [hgu, hd]
  refine ⟨_, rfl, rfl, ?_, _, List.mem_append_right _ (List.mem_singleton_self _), _, rfl, rfl, rfl, rfl, rfl, rfl, rfl, rfl,
    rfl, rfl, rfl, rfl⟩
  change (s.setPort port _).port port = _
  rw [State.port_setPort, if_pos rfl]

/-! A port's life. -/

theorem heartbeat_sends {s : State} {port : Nat} {p : Port} (hpp : p = s.port port) (hp : port < 14) (hu : p.up = true)
    (hk : p.tx.inUse.isSome = true → p.keyed = true) :
    ∃ t, exec (.heartbeatFrame port) s = .next t ∧ (t.port port).fseq = (p.fseq + 1) % 65536
      ∧ (t.port port).unacked.length = p.unacked.length + 1
      ∧ (∃ z, t.outbox = s.outbox ++ [.trailer port z, .heartbeat port] ∧ z.fseq = p.fseq) ∧ t.mem = s.mem := by
  subst hpp
  rw [show exec (.heartbeatFrame port) s = execHeartbeatFrame port s from rfl, execHeartbeatFrame]
  rw [if_neg (by simp [hu, Nat.not_le.2 hp]), if_neg ?_]
  · refine ⟨_, rfl, ?_, ?_, ⟨_, List.append_assoc _ _ _, rfl⟩, rfl⟩
    · change ((s.setPort port _).port port).fseq = _
      rw [State.port_setPort, if_pos rfl]
    · change ((s.setPort port _).port port).unacked.length = _
      rw [State.port_setPort, if_pos rfl]
      simp
  · intro h
    obtain ⟨h1, h2⟩ := Bool.and_eq_true_iff.1 h
    rw [hk h1] at h2
    exact Bool.noConfusion h2

/-- A lost access leaves the ports. -/
theorem State.synthLost_ports (s : State) (f : Flight) (src : Nat × Nat) : (s.synthLost f src).ports = s.ports := by
  have hr : ∀ (v : State) g x b a u w, (v.reply g x b a u w).ports = v.ports := by
    intro v g x b a u w
    unfold State.reply
    split
    · unfold State.hostAnswer
      split
      · split
        · rfl
        · split
          · unfold State.holeCount
            dsimp only
            split
            · exact State.setHealth_ports _ _
            · exact State.setHealth_ports _ _
          · rfl
      · rfl
    all_goals rfl
  unfold State.synthLost
  dsimp only
  split
  · exact hr _ _ _ _ _ _ _
  · split
    · rfl
    · split
      · exact (hr _ _ _ _ _ _ _).trans (hr _ _ _ _ _ _ _)
      · exact hr _ _ _ _ _ _ _
  · exact hr _ _ _ _ _ _ _
  · rfl

theorem State.sweepLost_up (s : State) (k : Nat) : (s.sweepLost.port k).up = (s.port k).up := by
  unfold State.sweepLost
  dsimp only
  refine List.foldlRecOn (motive := fun t : State => (t.port k).up = (s.port k).up) _ _ rfl (fun u hu f _ => ?_)
  split
  next port e =>
    rw [State.port_of_ports (State.synthLost_ports _ _ _), State.port_setPort]
    split
    next h => exact h ▸ hu
    next => exact hu
  next => exact hu

/-- A port that is taken down is down. -/
theorem State.takeDown_up (s : State) (port : Nat) : ((s.takeDown port).port port).up = false := by
  have h0 : ((s.setPort port { s.port port with up := false, downAt := s.clock }).sweepLost.port port).up = false := by
    rw [State.sweepLost_up, State.port_setPort, if_pos rfl]
  unfold State.takeDown
  dsimp only
  split
  · rw [(State.barnFlush_sent _ _).up]
    change ((State.setPort _ port _).port port).up = false
    rw [State.port_setPort, if_pos rfl]
    exact h0
  · exact h0

theorem portDown_falls {s : State} {port : Nat} {p : Port} (hpp : p = s.port port) (hp : port < 14) (hu : p.up = true)
    (hf : p.lastGood + silenceCycles ≤ s.clock ∨ 17 ≤ p.retries) :
    ∃ t, exec (.portDown port) s = .next t ∧ (t.port port).up = false ∧ t.mem = s.mem := by
  subst hpp
  rw [show exec (.portDown port) s = execPortDown port s from rfl, execPortDown,
    if_neg (by simp [hu, Nat.not_le.2 hp]), if_pos (by simpa [State.portFails] using hf)]
  exact ⟨_, rfl, State.takeDown_up s port, State.takeDown_mem s port⟩

theorem portUp_rises {s : State} {port : Nat} {p : Port} (hpp : p = s.port port) (hp : port < 14) (hu : p.up = false) :
    exec (.druntasyPortUp port) s
      = .next (s.setPort port { Port.reset with up := true, lastGood := s.clock, remote := p.remote, owed := p.owed }) := by
  subst hpp
  rw [show exec (.druntasyPortUp port) s = execDruntasyPortUp port s from rfl, execDruntasyPortUp]
  dsimp only
  rw [if_neg (by simp [hu, Nat.not_le.2 hp])]

theorem portDay_reports {s : State} {port : Nat} {p : Port} (hpp : p = s.port port) (hp : port < 14) (hu : p.up = false)
    (hd : p.downDay = false) (hc : p.downAt + dayCycles ≤ s.clock) :
    ∃ t, exec (.portDownFor24Hours port) s = .next t ∧ (t.port port).downDay = true ∧ t.hub.health.replace = true
      ∧ t.hub.health.rwhy.testBit 4 = true := by
  subst hpp
  rw [show exec (.portDownFor24Hours port) s = execPortDownFor24Hours port s from rfl, execPortDownFor24Hours]
  rw [if_neg (by simp [hu, hd, Nat.not_le.2 hp, Nat.not_lt.2 hc])]
  refine ⟨_, rfl, ?_, ?_, ?_⟩
  · rw [State.setReplace, State.port_of_ports (State.setHealth_ports _ _), State.port_setPort, if_pos rfl]
  · exact State.setHealth_health Health.replace (fun _ _ => rfl) _ _
  · rw [State.setReplace, State.setHealth_health Health.rwhy (fun _ _ => rfl)]
    exact testBit_lor_two_pow _ 4

/-! The key session. -/

theorem State.mgmtStep_next {s : State} {port : Nat} {p : Port} {ok : Phase → Bool} (hpp : p = s.port port) (hp : port < 14)
    (hu : p.up = true) (ho : ok p.phase = true) (nxt : Phase) (what : Nat) :
    s.mgmtStep port ok nxt what = .next ((s.setPort port { p with phase := nxt }).emit (.mgmt port what)) := by
  subst hpp
  unfold State.mgmtStep
  dsimp only
  rw [if_neg (by simp [hu, ho, Nat.not_le.2 hp])]

/-- Each management message moves the session to its next phase. -/
theorem mgmt_moves {s : State} {port : Nat} {p : Port} (hpp : p = s.port port) (hp : port < 14) :
    ∀ r ∈ ([(.getVersion, [.none, .version, .caps, .algs, .digests, .cert, .keyEx, .active], .version, 0),
          (.getCapabilities, [.version], .caps, 1), (.negotiateAlgorithms, [.caps], .algs, 2),
          (.getDigests, [.algs], .digests, 3), (.getCertificate, [.algs, .digests], .cert, 4),
          (.keyExchange, [.cert], .keyEx, 5), (.heartbeat, [.active], .active, 9)]
            : List ((Nat → Instr) × List Phase × Phase × Nat)), p.up = true → p.phase ∈ r.2.1 → exec (r.1 port) s
        = .next ((s.setPort port { p with phase := r.2.2.1 }).emit (.mgmt port r.2.2.2)) := by
  intro r hr hu hm
  simp only [List.mem_cons, List.not_mem_nil, or_false] at hr
  rcases hr with rfl | rfl | rfl | rfl | rfl | rfl | rfl
  · exact State.mgmtStep_next (ok := fun _ => true) hpp hp hu rfl _ _
  all_goals simp only [List.mem_cons, List.not_mem_nil, or_false] at hm
  · exact State.mgmtStep_next (ok := (· == .version)) hpp hp hu (by rw [hm]; rfl) _ _
  · exact State.mgmtStep_next (ok := (· == .caps)) hpp hp hu (by rw [hm]; rfl) _ _
  · exact State.mgmtStep_next (ok := (· == .algs)) hpp hp hu (by rw [hm]; rfl) _ _
  · exact State.mgmtStep_next (ok := fun x => x == .algs || x == .digests) hpp hp hu (by rcases hm with hm | hm <;> rw [hm] <;> rfl) _ _
  · exact State.mgmtStep_next (ok := (· == .cert)) hpp hp hu (by rw [hm]; rfl) _ _
  · exact State.mgmtStep_next (ok := (· == .active)) hpp hp hu (by rw [hm]; rfl) _ _

/-- FINISH loads the first keys of each direction. -/
theorem finish_loads {s : State} {port : Nat} {p : Port} (hpp : p = s.port port) (hp : port < 14) (hu : p.up = true)
    (hk : p.phase = .keyEx) : ∃ t, exec (.finish port) s = .next t ∧ (t.port port).phase = .active
      ∧ (port < 12 → (t.port port).tx = ⟨some 0, none, false⟩ ∧ (t.port port).rx = ⟨some 0, none, false⟩) := by
  subst hpp
  rw [show exec (.finish port) s = execFinish port s from rfl, execFinish]
  dsimp only
  rw [if_neg (by simp [hu, hk, Nat.not_le.2 hp])]
  generalize hv : State.emit _ _ = v
  have hport : v.port port = { s.port port with
      phase := .active, tx := ⟨some 0, none, false⟩, rx := ⟨some 0, none, false⟩, rekeying := .none } := by
    rw [← hv]
    exact (State.port_setPort s port _ port).trans (if_pos rfl)
  by_cases h12 : 12 ≤ port
  · rw [if_pos h12]
    exact ⟨_, rfl, by rw [(State.barnFlush_sent v port).phase, hport], fun h => absurd h12 (Nat.not_le.2 h)⟩
  · rw [if_neg h12]
    exact ⟨_, rfl, by rw [hport], fun _ => by rw [hport]; exact ⟨rfl, rfl⟩⟩

theorem rekey_begins {s : State} {port : Nat} {p : Port} (hpp : p = s.port port) (ha : p.phase = .active)
    (hn : p.rekeying = .none) : exec (.rekey port) s = .next (s.setPort port { p with rekeying := .begun }) := by
  subst hpp
  rw [show exec (.rekey port) s = execRekey port s from rfl, execRekey]
  rw [if_neg (by simp [ha, hn])]

/-- A rekey loads the idle banks. -/
theorem keyUpdate_loads {s : State} {port : Nat} {p : Port} (hpp : p = s.port port) (hu : p.up = true) (ha : p.phase = .active)
    (hr : p.rekeying = .begun ∨ p.rekeying = .none) : ∃ t q, exec (.keyUpdate port) s = .next t
      ∧ q = t.port port ∧ q.rekeying = .loaded
      ∧ q.tx.bank (!p.tx.kg) = some 0 ∧ q.tx.bank p.tx.kg = p.tx.bank p.tx.kg ∧ q.tx.kg = p.tx.kg
      ∧ q.rx.bank (!p.rx.kg) = some 0 ∧ q.rx.bank p.rx.kg = p.rx.bank p.rx.kg ∧ q.rx.kg = p.rx.kg := by
  subst hpp
  rw [show exec (.keyUpdate port) s = execKeyUpdate port s from rfl, execKeyUpdate]
  dsimp only
  rw [if_neg (by rcases hr with hr | hr <;> simp [hu, ha, hr])]
  refine ⟨_, { s.port port with
      rekeying := .loaded
      tx := (s.port port).tx.put (!(s.port port).tx.kg) (some 0)
      rx := (s.port port).rx.put (!(s.port port).rx.kg) (some 0) }, rfl, ?_, rfl, KeyBanks.bank_put_same _ _ _,
    KeyBanks.bank_put_other _ _ _, KeyBanks.put_kg _ _ _, KeyBanks.bank_put_same _ _ _, KeyBanks.bank_put_other _ _ _,
    KeyBanks.put_kg _ _ _⟩
  rw [State.port_of_ports (State.emit_ports _ _)]
  split
  · exact ((State.port_setPort s port _ port).trans (if_pos rfl)).symm
  · exact ((State.port_setPort s port _ port).trans (if_pos rfl)).symm

theorem bankReady_switches {s : State} {port : Nat} {p : Port} (hpp : p = s.port port) (hr : p.rekeying = .loaded) :
    ∃ t, exec (.bankReady port) s = .next t ∧ (t.port port).rekeying = .switched ∧ (t.port port).tx.kg = !p.tx.kg
      ∧ (port < 12 → t = s.setPort port { p with rekeying := .switched, tx := { p.tx with kg := !p.tx.kg } }) := by
  subst hpp
  rw [show exec (.bankReady port) s = execBankReady port s from rfl, execBankReady]
  dsimp only
  rw [if_neg (by simp [hr])]
  generalize hv : State.setPort _ _ _ = v
  have hport : v.port port = { s.port port with rekeying := .switched, tx := { (s.port port).tx with kg := !(s.port port).tx.kg } } := by
    rw [← hv, State.port_setPort, if_pos rfl]
  by_cases h12 : 12 ≤ port
  · rw [if_pos h12]
    have hs := State.barnFlush_sent v port
    exact ⟨_, rfl, hs.switched (by rw [hport]), by rw [hs.kg, hport], fun h => absurd h12 (Nat.not_le.2 h)⟩
  · rw [if_neg h12]
    exact ⟨_, rfl, by rw [hport], by rw [hport], fun _ => rfl⟩

theorem bankRetired_erases {s : State} {port : Nat} {p : Port} (hpp : p = s.port port) (hr : p.rekeying = .switched)
    (hu : p.unacked.all (fun x => x.1.kg == p.tx.kg) = true) :
    ∃ t, exec (.bankRetired port) s = .next t ∧ (t.port port).rekeying = .none
      ∧ (t.port port).tx.bank (!p.tx.kg) = none ∧ (t.port port).tx.bank p.tx.kg = p.tx.bank p.tx.kg := by
  subst hpp
  have hany : ¬ (s.port port).unacked.any (fun e => e.1.kg != (s.port port).tx.kg) = true := by
    rw [Bool.not_eq_true, List.any_eq_false]
    exact fun x hx => by simpa using List.all_eq_true.1 hu x hx
  rw [show exec (.bankRetired port) s = execBankRetired port s from rfl, execBankRetired]
  rw [if_neg (by simp [hr]), if_neg hany]
  refine ⟨_, rfl, ?_⟩
  rw [State.port_of_ports (State.emit_ports _ _), State.port_setPort, if_pos rfl]
  exact ⟨rfl, KeyBanks.bank_put_same _ _ _, KeyBanks.bank_put_other _ _ _⟩

theorem endSession_erases {s : State} {port : Nat} {p : Port} (hpp : p = s.port port) (hu : p.up = true)
    (ha : p.phase = .active) : ∃ t, exec (.endSession port) s = .next t ∧ (t.port port).phase = .none
      ∧ ∀ k, (t.port port).tx.bank k = none ∧ (t.port port).rx.bank k = none := by
  subst hpp
  rw [show exec (.endSession port) s = execEndSession port s from rfl, execEndSession]
  rw [if_neg (by simp [hu, ha])]
  refine ⟨_, rfl, ?_⟩
  rw [State.port_of_ports (State.emit_ports _ _), State.port_setPort, if_pos rfl]
  exact ⟨rfl, fun k => by cases k <;> exact ⟨rfl, rfl⟩⟩

theorem bankLimit_falls {s : State} {port n : Nat} {p : Port} {k : Bool} (hpp : p = s.port port) (hu : p.up = true)
    (hk : p.tx.bank k = some n ∨ p.rx.bank k = some n) (hn : 2 ^ 48 ≤ n) :
    ∃ t, exec (.bankFcntLimit port) s = .next t ∧ (t.port port).up = false ∧ t.mem = s.mem := by
  subst hpp
  rw [show exec (.bankFcntLimit port) s = execBankFcntLimit port s from rfl, execBankFcntLimit]
  dsimp only
  rw [if_pos ?_]
  · exact ⟨_, rfl, State.takeDown_up s port, State.takeDown_mem s port⟩
  · have hf : (some n).any (fun k => decide (2 ^ 48 ≤ k)) = true := decide_eq_true hn
    rcases hk with hk | hk <;> cases k <;> simp only [KeyBanks.bank, Bool.false_eq_true, if_false, if_true] at hk <;>
      simp only [hu, hk, hf, Bool.true_and, Bool.or_true, Bool.true_or]

/-- Settles O52: frames by the checks of their port, the port's life and its keys by their phases. -/
theorem portsAndLinkKeys : Obligations.PortsAndLinkKeys := by
  unfold Obligations.PortsAndLinkKeys
  refine ⟨⟨fun s id port e f hf hg ha hn hl hu he hs => remoteTable_takes hf hg ha hn hl hu he hs,
    fun s port p f hpp hp hu hn hk => ⟨frame_fails hpp hp hu hn hk, frame_outOfOrder hpp hp hu hn hk, fun hx hs =>
      ⟨⟨_, frame_taken hpp hp hu hn hk hx hs⟩, frame_empty hpp hp hu hn hk hx hs,
        fun gm here src cls chip e c op pa n data expect more hg hd hq => frame_request hpp hp hu hn hk hx hs hg hd hq⟩⟩,
    fun s port p hpp hp => ⟨heartbeat_sends hpp hp, portDown_falls hpp hp, portUp_rises hpp hp, portDay_reports hpp hp⟩⟩,
    fun s port p hpp hp => ⟨mgmt_moves hpp hp, fun hu hk h12 => ?_, fun hu hk => ?_, rekey_begins hpp, keyUpdate_loads hpp,
      bankReady_switches hpp, bankRetired_erases hpp, endSession_erases hpp, fun k n hu hk hn => bankLimit_falls hpp hu hk hn⟩⟩
  · obtain ⟨t, ht, ha, hb⟩ := finish_loads hpp hp hu hk
    exact ⟨t, ht, ha, hb h12⟩
  · obtain ⟨t, ht, ha, -⟩ := finish_loads hpp hp hu hk
    exact ⟨t, ht, ha⟩

end Sys2Proof.Machine

/-! SETTLED. Errors, failures, counters and resets (21 R352 to R362; 22 R363, R366, R367). -/

namespace Sys2Proof.Machine

open Sys2Proof

/-! A scrub of one finding. -/

theorem scrub_one {s : State} {found : List Finding} {f : Finding} (hf : ∀ f ∈ found, Finding.place? f = true) (h : found = [f]) :
    exec (.patrolScrub found) s = .next ((s.markCopy f).finding f) := by
  subst h
  have hall : [f].all Finding.place? = true := List.all_eq_true.2 hf
  rw [show exec (.patrolScrub [f]) s = execPatrolScrub [f] s from rfl, execPatrolScrub, hall]
  rfl

theorem scrub_next {s : State} {found : List Finding} (hf : ∀ f ∈ found, Finding.place? f = true) :
    ∃ t, exec (.patrolScrub found) s = .next t := by
  have hall : found.all Finding.place? = true := List.all_eq_true.2 hf
  rw [show exec (.patrolScrub found) s = execPatrolScrub found s from rfl, execPatrolScrub, hall]
  exact ⟨_, rfl⟩

theorem scrub_one_mem (s : State) (f : Finding) : ((s.markCopy f).finding f).mem = s.mem := by
  rw [State.finding_mem, State.markCopy_mem]

/-! What an error counts. -/

/-- An error raises its structure's counter, up to its bound. -/
theorem State.softError_counts (s : State) (die st : Nat) (u : Bool) :
    Tab.get 0 (s.softError die st u).hub.health.counts (2 * (11 * die + st - 1) + cond u 1 0)
      = min (Tab.get 0 s.hub.health.counts (2 * (11 * die + st - 1) + cond u 1 0) + 1) (2 ^ 32 - 1) := by
  have hc : ∀ v : State, (v.setReplace 3).hub.health.counts = v.hub.health.counts := fun v => by
    rw [State.setReplace, State.setHealth_health Health.counts (fun _ _ => rfl)]
  unfold State.softError
  dsimp only
  split
  · exact (Tab.get_put _ _ _ _ _).trans (if_pos rfl)
  · split
    · rw [hc]
      exact (Tab.get_put _ _ _ _ _).trans (if_pos rfl)
    · exact (Tab.get_put _ _ _ _ _).trans (if_pos rfl)

/-- An uncorrected error changes the counts alone. -/
theorem State.softError_uncorrected (s : State) (die st : Nat) : s.softError die st true = s.setHub { s.hub with
      health := { s.hub.health with
        counts := Tab.put s.hub.health.counts (2 * (11 * die + st - 1) + 1)
          (min (Tab.get 0 s.hub.health.counts (2 * (11 * die + st - 1) + 1) + 1) (2 ^ 32 - 1)) } } := rfl

/-- Fewer than four errors of a quad in a day are noted, and the quad goes on. -/
theorem State.quadError_below {s u : State} {q : Nat} (h : (s.noteErr 1 q).hub.recentErrs s.clock 1 q < 4)
    (he : u.hub.errs = s.hub.errs) (hc : u.clock = s.clock) : u.quadError q = u.noteErr 1 q := by
  have hr : (u.noteErr 1 q).hub.recentErrs u.clock 1 q = (s.noteErr 1 q).hub.recentErrs s.clock 1 q := by
    simp only [State.noteErr, Hub.recentErrs, State.setHub, he, hc]
  have hcl : (u.noteErr 1 q).clock = u.clock := rfl
  unfold State.quadError
  dsimp only
  rw [hcl, hr, decide_eq_false (Nat.not_le.2 h)]
  rfl

/-! Findings. -/

theorem scrub_corrected {s : State} {found : List Finding} {die : Nat} {st : Structure21}
    (hf : ∀ f ∈ found, Finding.place? f = true) (h : found = [.corrected die st]) :
    ∃ t, exec (.patrolScrub found) s = .next t ∧ t.mem = s.mem
      ∧ Tab.get 0 t.hub.health.counts (2 * (11 * die + structNum st - 1))
        = min (Tab.get 0 s.hub.health.counts (2 * (11 * die + structNum st - 1)) + 1) (2 ^ 32 - 1) :=
  ⟨_, scrub_one hf h, scrub_one_mem _ _, State.softError_counts s die (structNum st) false⟩

/-- The poisoned blocks and the quads. -/
def State.placePart (s : State) : List Nat × Tab Quad := (s.poison, s.quads)

theorem State.vector_placePart (s : State) (v : Nat) : (s.vector v).placePart = s.placePart := by
  unfold State.vector
  split <;> rfl

theorem State.setHealth_placePart (s : State) (h : Health) : (s.setHealth h).placePart = s.placePart := by
  unfold State.setHealth
  split
  · exact State.vector_placePart _ _
  · rfl

theorem State.deliver_placePart (s : State) (w : Who) (o : Nat) (m : Msg) (t : Track) (x : Nat × Nat) (a b : List Nat)
    (r : Bool) (e : Option Nat) : (s.deliver w o m t x a b r e).placePart = s.placePart := by
  unfold State.deliver
  split
  · rfl
  · split <;> rfl

theorem State.hubRecord_placePart (s : State) (c code : Nat) (fatal ff : Bool) (r : RecInfo) :
    (s.record .hub c code fatal ff r).placePart = s.placePart := by
  unfold State.record
  dsimp only [State.nextFseq]
  split
  · split
    · rfl
    · rw [State.deliver_placePart]
      rfl
  · rw [State.deliver_placePart]
    rfl

theorem State.hubFatal_placePart (s : State) (c code : Nat) (r : RecInfo) : (s.fatal .hub c code r).placePart = s.placePart := by
  unfold State.fatal
  dsimp only [State.nextFseq]
  split
  · exact State.hubRecord_placePart s c code true false r
  · exact (State.deliver_placePart _ _ _ _ _ _ _ _ _ _).trans rfl

/-- The contexts on a failed quad. -/
def State.stopOn (s : State) (q : Nat) : State :=
  (List.range Config.nCtx).foldl (fun s c =>
    if (s.ctx c).st != .free && (s.ctx c).inQuad q then s.fatal .hub c fQuad { lcore := 1023, unit := 10, det := q } else s) s

theorem State.stopOn_placePart (s : State) (q : Nat) : (s.stopOn q).placePart = s.placePart := by
  refine List.foldlRecOn (motive := fun t : State => t.placePart = s.placePart) _ _ rfl (fun u hu c _ => ?_)
  split
  · exact (State.hubFatal_placePart _ _ _ _).trans hu
  · exact hu

theorem State.stopOn_mem (s : State) (q : Nat) : (s.stopOn q).mem = s.mem := by
  refine List.foldlRecOn (motive := fun t : State => t.mem = s.mem) _ _ rfl (fun u hu c _ => ?_)
  split
  · exact (State.fatal_mem _ _ _ _ _).trans hu
  · exact hu

/-- A failed quad stops the contexts on it, and a spare takes its place, or one working quad fewer is left. -/
theorem State.failQuad_eq (s : State) (q : Nat) :
    ∃ u, u = (s.setQuad q { s.quad q with failed := true, spare := false }).stopOn q ∧ (s.failQuad q = u
      ∨ (∃ p, s.failQuad q = u.setQuad p { u.quad p with spare := false })
      ∨ ∃ h, s.failQuad q = u.setHealth h ∨ s.failQuad q = (u.setHealth h).setReplace 0) := by
  refine ⟨_, rfl, ?_⟩
  unfold State.failQuad
  extract_lets x wasActive d s1 s2
  rw [show (s1.stopOn q) = s2 from rfl]
  clear_value s2
  split
  · exact .inl rfl
  · split
    · exact .inr (.inl ⟨_, rfl⟩)
    · refine .inr (.inr ?_)
      split
      · exact ⟨_, .inr rfl⟩
      · exact ⟨_, .inl rfl⟩

theorem State.failQuad_poison (s : State) (q : Nat) : (s.failQuad q).poison = s.poison := by
  obtain ⟨u, hu, h⟩ := State.failQuad_eq s q
  have hp : u.poison = s.poison := by
    have h1 := State.stopOn_placePart (s.setQuad q { s.quad q with failed := true, spare := false }) q
    simp only [State.placePart, Prod.mk.injEq] at h1
    rw [hu, h1.1]
    rfl
  have hh : ∀ (v : State) x, (v.setHealth x).poison = v.poison := fun v x => by
    have h1 := State.setHealth_placePart v x
    simp only [State.placePart, Prod.mk.injEq] at h1
    exact h1.1
  rcases h with h | ⟨p, h⟩ | ⟨x, h | h⟩
  · rw [h, hp]
  · rw [h]
    exact hp
  · rw [h, hh, hp]
  · rw [h, State.setReplace, hh, hh, hp]

theorem State.quadError_poison (s : State) (q : Nat) : (s.quadError q).poison = s.poison := by
  unfold State.quadError
  dsimp only
  split
  · exact State.failQuad_poison _ _
  · rfl

/-- A block that is poisoned stands among the poisoned ones. -/
theorem State.poisonBlock_poison (s : State) (pa : Nat) : pa / 64 ∈ (s.poisonBlock pa).poison := by
  have hh : ∀ (v : State) n, (v.setReplace n).poison = v.poison := fun v n => by
    have h1 := State.setHealth_placePart v { v.hub.health with replace := true, rwhy := Nat.lor v.hub.health.rwhy (2 ^ n) }
    simp only [State.placePart, Prod.mk.injEq] at h1
    exact h1.1
  unfold State.poisonBlock
  extract_lets b known u
  have hu : pa / 64 ∈ u.poison := by
    unfold u known b
    split
    next h => exact List.contains_iff_mem.1 h
    next => exact List.mem_cons_self
  clear_value u
  split
  · split
    · exact hu
    · dsimp only
      split
      · rw [hh]
        exact hu
      · exact hu
  · rw [State.quadError_poison]
    exact hu
  · rw [State.quadError_poison]
    exact hu
  · rw [State.quadError_poison]
    exact hu
  · exact hu

theorem scrub_block {s : State} {found : List Finding} {die pa : Nat} {st : Structure21}
    (hf : ∀ f ∈ found, Finding.place? f = true) (h : found = [.block die st pa]) :
    ∃ t, exec (.patrolScrub found) s = .next t ∧ t.mem = s.mem ∧ pa / 64 ∈ t.poison :=
  ⟨_, scrub_one hf h, scrub_one_mem _ _, State.poisonBlock_poison _ _⟩

/-! An error of a register, an entry or a spring's working state. -/

theorem State.noteErr_counts (s : State) (k q n : Nat) :
    Tab.get 0 (s.noteErr k q).hub.health.counts n = Tab.get 0 s.hub.health.counts n := rfl

theorem scrub_register {s : State} {p sl : Nat} {r : RegName}
    (hq : (s.noteErr 1 (quadOf p)).hub.recentErrs s.clock 1 (quadOf p) < 4) (hsl : sl < 8) :
    ∃ t, s.finding (.register p sl r) = t ∧ t.ctxs = s.ctxs
      ∧ Tab.get 0 t.hub.health.counts (2 * (11 * dieOf p + 1 - 1) + 1)
        = min (Tab.get 0 s.hub.health.counts (2 * (11 * dieOf p + 1 - 1) + 1) + 1) (2 ^ 32 - 1)
      ∧ ∀ i, s.inst? p sl = some i → t.inst? p sl = some (i.markBad r) := by
  have he : (s.softError (dieOf p) 1 true).quadError (quadOf p) = (s.softError (dieOf p) 1 true).noteErr 1 (quadOf p) :=
    State.quadError_below hq rfl rfl
  have hc := State.softError_counts s (dieOf p) 1 true
  refine ⟨_, rfl, ?_⟩
  unfold State.finding
  dsimp only
  rw [he]
  split
  next i hi =>
    refine ⟨rfl, hc, fun j hj => ?_⟩
    obtain rfl := Option.some.inj (hi.symm.trans hj)
    rw [State.inst?_setInst _ _ _ _ _ _ hsl, if_pos ⟨rfl, rfl⟩]
  next hi => exact ⟨rfl, hc, fun j hj => absurd (hi.symm.trans hj) nofun⟩

theorem scrub_entry {s : State} {q e : Nat} (hq : (s.noteErr 1 q).hub.recentErrs s.clock 1 q < 4) :
    ∃ t, s.finding (.entry q e) = t ∧ t.ctxs = s.ctxs
      ∧ Tab.get 0 t.hub.health.counts (2 * (11 * dieOfQuad q + 4 - 1) + 1)
        = min (Tab.get 0 s.hub.health.counts (2 * (11 * dieOfQuad q + 4 - 1) + 1) + 1) (2 ^ 32 - 1)
      ∧ ∀ w, (s.quad q).wbe.get? e = some w → (t.quad q).wbe.get? e = some { w with poisoned := true } := by
  have he : (s.softError (dieOfQuad q) 4 true).quadError q = (s.softError (dieOfQuad q) 4 true).noteErr 1 q :=
    State.quadError_below hq rfl rfl
  have hc := State.softError_counts s (dieOfQuad q) 4 true
  refine ⟨_, rfl, ?_⟩
  unfold State.finding
  dsimp only
  rw [he]
  split
  next w hw =>
    refine ⟨rfl, hc, fun w' hw' => ?_⟩
    obtain rfl := Option.some.inj (hw.symm.trans hw')
    rw [State.quad_setQuad_same, Tab.get?_put]
  next hw => exact ⟨rfl, hc, fun w' hw' => absurd (hw.symm.trans hw') nofun⟩

theorem scrub_springWork {s : State} {q : Nat} (hq : (s.noteErr 1 q).hub.recentErrs s.clock 1 q < 4) :
    ∃ t, s.finding (.springWork q) = t ∧ t.ctxs = s.ctxs
      ∧ Tab.get 0 t.hub.health.counts (2 * (11 * dieOfQuad q + 8 - 1) + 1)
        = min (Tab.get 0 s.hub.health.counts (2 * (11 * dieOfQuad q + 8 - 1) + 1) + 1) (2 ^ 32 - 1)
      ∧ (t.quad q).springBad = true := by
  have he : ((s.softError (dieOfQuad q) 8 true).setQuad q { s.quad q with springBad := true }).quadError q
      = ((s.softError (dieOfQuad q) 8 true).setQuad q { s.quad q with springBad := true }).noteErr 1 q :=
    State.quadError_below hq rfl rfl
  refine ⟨_, rfl, ?_⟩
  unfold State.finding
  dsimp only
  rw [he]
  refine ⟨rfl, State.softError_counts s (dieOfQuad q) 8 true, ?_⟩
  change ((State.setQuad _ q _).quad q).springBad = true
  rw [State.quad_setQuad_same]

/-- An error of a register, of a weight-buffer entry or of a spring's working state counts, and is marked. -/
theorem scrub_marks {s : State} {found : List Finding} {f : Finding} {q die st : Nat}
    (hf : ∀ f ∈ found, Finding.place? f = true) (h : found = [f])
    (hq : (s.noteErr 1 q).hub.recentErrs s.clock 1 q < 4)
    (hk : (∃ p sl r, f = .register p sl r ∧ q = quadOf p ∧ die = dieOf p ∧ st = 1)
      ∨ (∃ e, f = .entry q e ∧ die = dieOfQuad q ∧ st = 4) ∨ (f = .springWork q ∧ die = dieOfQuad q ∧ st = 8)) :
    ∃ t, exec (.patrolScrub found) s = .next t ∧ t.mem = s.mem ∧ t.ctxs = s.ctxs
      ∧ Tab.get 0 t.hub.health.counts (2 * (11 * die + st - 1) + 1)
        = min (Tab.get 0 s.hub.health.counts (2 * (11 * die + st - 1) + 1) + 1) (2 ^ 32 - 1)
      ∧ (∀ p sl r i, f = .register p sl r → s.inst? p sl = some i → t.inst? p sl = some (i.markBad r))
      ∧ (∀ e w, f = .entry q e → (s.quad q).wbe.get? e = some w → (t.quad q).wbe.get? e = some { w with poisoned := true })
      ∧ (f = .springWork q → (t.quad q).springBad = true) := by
  have hm := scrub_one_mem s f
  rw [scrub_one hf h]
  subst h
  rcases hk with ⟨p, sl, r, rfl, rfl, rfl, rfl⟩ | ⟨e, rfl, rfl, rfl⟩ | ⟨rfl, rfl, rfl⟩
  · have hsl : sl < 8 := by
      have h1 := hf _ (List.mem_singleton_self _)
      simp only [Finding.place?, Bool.and_eq_true, decide_eq_true_eq] at h1
      exact h1.2
    obtain ⟨t, ht, hc, hn, hi⟩ := scrub_register (r := r) hq hsl
    refine ⟨t, congrArg _ ht, ht ▸ hm, hc, hn, fun p' sl' r' i he hi' => ?_, fun _ _ he => ?_, fun he => ?_⟩
    · obtain ⟨rfl, rfl, rfl⟩ := Finding.register.inj he
      exact hi i hi'
    · cases he
    · cases he
  · obtain ⟨t, ht, hc, hn, hi⟩ := scrub_entry (e := e) hq
    refine ⟨t, congrArg _ ht, ht ▸ hm, hc, hn, fun _ _ _ _ he => ?_, fun e' w he hw => ?_, fun he => ?_⟩
    · cases he
    · obtain ⟨-, rfl⟩ := Finding.entry.inj he
      exact hi w hw
    · cases he
  · obtain ⟨t, ht, hc, hn, hi⟩ := scrub_springWork hq
    refine ⟨t, congrArg _ ht, ht ▸ hm, hc, hn, fun _ _ _ _ he => ?_, fun _ _ he => ?_, fun _ => hi⟩
    · cases he
    · cases he

/-! An error of a context's own structures, and of one copy of a spring slot. -/

theorem State.markOwned_marks {s : State} {die st at_ c : Nat} {quad : Option Nat} (hs : (s.ctx c).st ≠ .free)
    (hq : ∀ q, quad = some q → (s.noteErr 1 q).hub.recentErrs s.clock 1 q < 4) :
    (st, at_) ∈ ((s.markOwned die st at_ c quad).ctx c).marks ∧ ((s.markOwned die st at_ c quad).ctx c).st = (s.ctx c).st := by
  have key : ∀ u : State, u = (s.softError die st true).setCtx c { s.ctx c with marks := (st, at_) :: (s.ctx c).marks } →
      (st, at_) ∈ (u.ctx c).marks ∧ (u.ctx c).st = (s.ctx c).st := by
    rintro u rfl
    rw [State.ctx_setCtx, if_pos rfl]
    exact ⟨List.mem_cons_self, rfl⟩
  unfold State.markOwned
  dsimp only
  split
  next h =>
    rcases Bool.or_eq_true_iff.1 h with h | h
    · exact absurd (by simpa using h) hs
    · exact ⟨List.contains_iff_mem.1 h, rfl⟩
  next =>
    split
    next q =>
      have he : ((s.softError die st true).setCtx c { s.ctx c with marks := (st, at_) :: (s.ctx c).marks }).quadError q
          = ((s.softError die st true).setCtx c { s.ctx c with marks := (st, at_) :: (s.ctx c).marks }).noteErr 1 q :=
        State.quadError_below (hq q rfl) rfl rfl
      rw [he]
      have hk := key _ rfl
      exact hk
    next => exact key _ rfl

theorem scrub_owned {s : State} {found : List Finding} {f : Finding} {c q : Nat} {key : Nat × Nat}
    (hf : ∀ f ∈ found, Finding.place? f = true) (h : found = [f]) (hs : (s.ctx c).st ≠ .free)
    (hq : (s.noteErr 1 q).hub.recentErrs s.clock 1 q < 4)
    (hk : (f = .queue q c ∧ key = (5, q)) ∨ ∃ die, f = .silo die c ∧ (s.ctx c).areaOn die = true ∧ key = (11, die)) :
    ∃ t, exec (.patrolScrub found) s = .next t ∧ t.mem = s.mem ∧ key ∈ (t.ctx c).marks ∧ (t.ctx c).st = (s.ctx c).st := by
  refine ⟨_, scrub_one hf h, scrub_one_mem _ _, ?_⟩
  rcases hk with ⟨rfl, rfl⟩ | ⟨die, rfl, ha, rfl⟩
  · exact State.markOwned_marks (quad := some q) hs fun q' hq' => Option.some.inj hq' ▸ hq
  · have hm : s.markCopy (.silo die c) = s := rfl
    rw [hm, State.finding, ha, if_pos rfl]
    exact State.markOwned_marks (quad := none) hs nofun

theorem State.setPslot_pslot (s : State) (c q ps : Nat) (x : PSlot) : ((s.setPslot c q ps x).ctx c).pslot q ps = x := by
  rw [State.setPslot, State.ctx_setCtx, if_pos rfl, Ctx.pslot, Tab.get_put, if_pos rfl]

theorem State.vector_ctx (s : State) (v k : Nat) : (s.vector v).ctx k = s.ctx k := by
  simp only [State.ctx, State.vector_ctxs]

theorem State.setHealth_ctx (s : State) (h : Health) (k : Nat) : (s.setHealth h).ctx k = s.ctx k := by
  unfold State.setHealth
  split
  · exact State.vector_ctx _ _ _
  · rfl

theorem State.softError_ctx (s : State) (die st : Nat) (u : Bool) (k : Nat) : (s.softError die st u).ctx k = s.ctx k := by
  unfold State.softError
  dsimp only
  split
  · rfl
  · split
    · exact State.setHealth_ctx _ _ _
    · rfl

theorem PSlot.both_good {x : PSlot} (ha : x.goodA = true) (hb : x.goodB = true) :
    ({ x with goodA := true, goodB := true } : PSlot) = x := by
  cases x
  simp only at ha hb
  subst ha hb
  rfl

/-- A bad copy of a spring slot is rebuilt from the good one, and counted. -/
theorem State.checkSlot_rebuilds {s : State} {c q ps : Nat} {y : PSlot} (hy : (s.ctx c).pslot q ps = y)
    (hb : (y.goodA && y.goodB) = false) (hg : (y.goodA || y.goodB) = true) :
    s.checkSlot c q ps
      = ((s.setPslot c q ps { y with goodA := true, goodB := true }).softError (dieOfQuad q) 8 false, false) := by
  subst hy
  unfold State.checkSlot
  dsimp only
  rw [hb, hg]
  rfl

theorem scrub_springCopy {s : State} {found : List Finding} {q c ps : Nat} {a : Bool} {x : PSlot}
    (hf : ∀ f ∈ found, Finding.place? f = true) (h : found = [.springCopy q c ps a]) (hx : x = (s.ctx c).pslot q ps)
    (hl : x.loaded = true) (ha : x.goodA = true) (hb : x.goodB = true) :
    ∃ t, exec (.patrolScrub found) s = .next t ∧ t.mem = s.mem ∧ (t.ctx c).pslot q ps = x
      ∧ Tab.get 0 t.hub.health.counts (2 * (11 * dieOfQuad q + 7))
        = min (Tab.get 0 s.hub.health.counts (2 * (11 * dieOfQuad q + 7)) + 1) (2 ^ 32 - 1) := by
  refine ⟨_, scrub_one hf h, scrub_one_mem _ _, ?_⟩
  generalize hy : (if a then { x with goodA := false } else { x with goodB := false } : PSlot) = y
  have hm : s.markCopy (.springCopy q c ps a) = s.setPslot c q ps y := by
    rw [← hy, hx]
    rw [hx] at hl
    simp only [State.markCopy, hl, Bool.not_true, Bool.false_eq_true, if_false]
  have hback : ({ y with goodA := true, goodB := true } : PSlot) = x := by
    rw [← hy]
    cases a <;> exact PSlot.both_good ha hb
  have ht : (s.markCopy (.springCopy q c ps a)).finding (.springCopy q c ps a)
      = ((s.setPslot c q ps y).setPslot c q ps x).softError (dieOfQuad q) 8 false := by
    rw [hm, State.finding, State.checkSlot_rebuilds (State.setPslot_pslot s c q ps y) (by rw [← hy]; cases a <;> simp)
      (by rw [← hy]; cases a <;> simp [ha, hb]), hback]
    simp only [Bool.false_eq_true, if_false]
  have hn := State.softError_counts ((s.setPslot c q ps y).setPslot c q ps x) (dieOfQuad q) 8 false
  rw [cond_false, Nat.add_zero, show 11 * dieOfQuad q + 8 - 1 = 11 * dieOfQuad q + 7 from rfl] at hn
  rw [ht, State.softError_ctx, State.setPslot_pslot, hn]
  exact ⟨rfl, rfl⟩

/-! A quad that fails, and a memory port. -/

theorem State.hubRecord_ctx (s : State) (c code : Nat) (fatal ff : Bool) (r : RecInfo) {k : Nat} (h : k ≠ c) :
    (s.record .hub c code fatal ff r).ctx k = s.ctx k := by
  unfold State.record
  dsimp only [State.nextFseq]
  split
  · split
    · rw [State.ctx_setCtx, if_neg h]
      rfl
    · rw [State.deliver_ctx, State.ctx_setCtx, if_neg h]
      rfl
  · rw [State.deliver_ctx]
    rfl

theorem State.setHub_mapInsts_ctx (s : State) (c : Nat) (f : Inst → Option Inst) (h : Hub) (k : Nat) :
    ((s.mapInsts c f).setHub h).ctx k = s.ctx k := State.mapInsts_ctx s c f k

theorem State.hubFatal_ctx (s : State) (c code : Nat) (r : RecInfo) {k : Nat} (h : k ≠ c) :
    (s.fatal .hub c code r).ctx k = s.ctx k := by
  unfold State.fatal
  dsimp only [State.nextFseq]
  split
  · exact State.hubRecord_ctx s c code true false r h
  · rw [State.setHub_mapInsts_ctx, State.ctx_setCtx, if_neg h, State.deliver_ctx]
    rfl

theorem State.hubFatal_saving {s : State} {c : Nat} (h : (s.ctx c).halt = .none) (code : Nat) (r : RecInfo) :
    ((s.fatal .hub c code r).ctx c).st = .saving := by
  unfold State.fatal
  dsimp only [State.nextFseq]
  rw [h]
  dsimp only
  rw [State.setHub_mapInsts_ctx, State.ctx_setCtx, if_pos rfl]

/-- Every running context on a failed quad is being saved. -/
theorem State.stopOn_saving {s : State} {q c : Nat} (hc : c < 32) (hr : (s.ctx c).st = .running)
    (hq : (s.ctx c).inQuad q = true) (hh : (s.ctx c).halt = .none) : ((s.stopOn q).ctx c).st = .saving := by
  obtain ⟨l1, l2, hl⟩ := List.append_of_mem (List.mem_range.2 hc)
  have hnd : (l1 ++ c :: l2).Nodup := hl ▸ List.nodup_range
  obtain ⟨-, h2, hdisj⟩ := List.nodup_append.1 hnd
  have hn1 : ∀ a ∈ l1, c ≠ a := fun a ha => (hdisj a ha c List.mem_cons_self).symm
  have hn2 : ∀ a ∈ l2, c ≠ a := fun a ha hca => (List.nodup_cons.1 h2).1 (hca ▸ ha)
  have step : ∀ (u : State) a, c ≠ a → ((if (u.ctx a).st != .free && (u.ctx a).inQuad q then
      u.fatal .hub a fQuad { lcore := 1023, unit := 10, det := q } else u) : State).ctx c = u.ctx c := by
    intro u a ha
    split
    · exact State.hubFatal_ctx u a _ _ ha
    · rfl
  have fold : ∀ (l : List Nat) (u : State), (∀ a ∈ l, c ≠ a) → (l.foldl (fun s c =>
      if (s.ctx c).st != .free && (s.ctx c).inQuad q then s.fatal .hub c fQuad { lcore := 1023, unit := 10, det := q } else s)
      u).ctx c = u.ctx c := by
    intro l u hl
    refine List.foldlRecOn (motive := fun t : State => t.ctx c = u.ctx c) _ _ rfl (fun v hv a ha => ?_)
    exact (step v a (hl a ha)).trans hv
  unfold State.stopOn
  rw [show List.range Config.nCtx = l1 ++ c :: l2 from hl, List.foldl_append, List.foldl_cons, fold l2 _ hn2]
  have h1 := fold l1 s hn1
  generalize List.foldl _ s l1 = u at h1
  rw [h1, hr, hq]
  exact State.hubFatal_saving (h1 ▸ hh) _ _

theorem State.setHealth_quads (s : State) (h : Health) : (s.setHealth h).quads = s.quads :=
  congrArg Prod.snd (State.setHealth_placePart s h)

/-- A failed quad is marked, and stops the running contexts on it. -/
theorem quadFail_stops {s : State} {q : Nat} (hq : q < 256) (hf : (s.quad q).failed = false) :
    ∃ t, exec (.quadFail q) s = .next t ∧ t.mem = s.mem ∧ (t.quad q).failed = true
      ∧ ∀ c < 32, (s.ctx c).st = .running → (s.ctx c).inQuad q = true → (s.ctx c).halt = .none → (t.ctx c).st = .saving := by
  rw [show exec (.quadFail q) s = execQuadFail q s from rfl, execQuadFail,
    if_neg (by simp [hf, Nat.not_le.2 hq])]
  refine ⟨_, rfl, State.failQuad_mem s q, ?_⟩
  obtain ⟨u, hu, h⟩ := State.failQuad_eq s q
  have hquad : (u.quad q).failed = true := by
    have h1 := State.stopOn_placePart (s.setQuad q { s.quad q with failed := true, spare := false }) q
    simp only [State.placePart, Prod.mk.injEq] at h1
    rw [hu, State.quad, h1.2, ← State.quad, State.quad_setQuad_same]
  have hctx : ∀ c < 32, (s.ctx c).st = .running → (s.ctx c).inQuad q = true → (s.ctx c).halt = .none → (u.ctx c).st = .saving :=
    fun c hc hr hi hh => hu ▸ State.stopOn_saving hc hr hi hh
  have hh : ∀ (v : State) x, (v.setHealth x).quad q = v.quad q := fun v x => by
    simp only [State.quad, State.setHealth_quads]
  rcases h with h | ⟨p, h⟩ | ⟨x, h | h⟩
  · exact h ▸ ⟨hquad, hctx⟩
  · rw [h]
    refine ⟨?_, hctx⟩
    by_cases hp : q = p
    · subst hp
      rw [State.quad_setQuad_same]
      exact hquad
    · rw [State.quad_setQuad_other _ _ _ _ hp]
      exact hquad
  · rw [h, hh]
    exact ⟨hquad, fun c hc hr hi hx => by rw [State.setHealth_ctx]; exact hctx c hc hr hi hx⟩
  · rw [h, State.setReplace, hh, hh]
    exact ⟨hquad, fun c hc hr hi hx => by rw [State.setHealth_ctx, State.setHealth_ctx]; exact hctx c hc hr hi hx⟩

theorem State.setReplace_health (s : State) (bit : Nat) :
    (s.setReplace bit).hub.health.replace = true ∧ (s.setReplace bit).hub.health.rwhy.testBit bit = true := by
  rw [State.setReplace, State.setHealth_health Health.replace (fun _ _ => rfl), State.setHealth_health Health.rwhy (fun _ _ => rfl)]
  exact ⟨rfl, testBit_lor_two_pow _ _⟩

theorem memoryPortFail_replaces {s : State} {die port : Nat} (hd : die < 4) (hp : port < 16) :
    ∃ t, exec (.memoryPortFail die port) s = .next t ∧ t.hub.health.replace = true ∧ t.hub.health.rwhy.testBit 2 = true
      ∧ t.mem = s.mem := by
  rw [show exec (.memoryPortFail die port) s = execMemoryPortFail die port s from rfl, execMemoryPortFail, if_neg (by omega)]
  exact ⟨_, rfl, (State.setReplace_health s 2).1, (State.setReplace_health s 2).2, State.setReplace_mem s 2⟩

/-! Counters of a die, its throttle and its logic matrix. -/

theorem Tab.get?_del_other {α : Type} (t : Tab α) {k j : Nat} (h : j ≠ k) : (t.del k).get? j = t.get? j := by
  induction t with
  | nil => rfl
  | cons e t ih =>
    obtain ⟨n, v⟩ := e
    rw [Tab.del, List.filter_cons]
    split
    · rw [Tab.get?, Tab.get?]
      exact if_congr Iff.rfl rfl ih
    next hn =>
      have hn' : n = k := by simpa using hn
      rw [Tab.get?, if_neg (fun hj => h (hj.symm.trans hn')), ← ih]
      rfl

theorem State.forwardCtx_pendCnt (s : State) (die c : Nat) :
    ((s.forwardCtx die c).die die).pendCnt = (s.die die).pendCnt.del c := by
  unfold State.forwardCtx
  dsimp only
  rw [State.die_setDie, if_pos rfl]

/-- A die's increments reach the hub. -/
theorem counterForward_sends {s : State} {die : Nat} (hd : die < 4) :
    ∃ t, exec (.counterForward die) s = .next t ∧ t.mem = s.mem ∧ ∀ c < 32, (t.die die).pendCnt.get? c = none := by
  rw [show exec (.counterForward die) s = execCounterForward die s from rfl, execCounterForward, if_neg (by omega)]
  refine ⟨_, rfl, State.foldl_mem _ (fun u c => State.forwardCtx_mem u die c) _ _, fun c hc => ?_⟩
  have key : ∀ (l : List Nat) (u : State), (c ∈ l ∨ (u.die die).pendCnt.get? c = none) →
      ((l.foldl (fun s c => s.forwardCtx die c) u).die die).pendCnt.get? c = none := by
    intro l
    induction l with
    | nil => exact fun u h => h.resolve_left List.not_mem_nil
    | cons a l ih =>
      refine fun u h => ih _ ?_
      rw [State.forwardCtx_pendCnt]
      by_cases ha : c = a
      · exact .inr (ha ▸ Tab.get?_del _ _)
      · rw [Tab.get?_del_other _ ha]
        exact h.imp (fun hm => (List.mem_cons.1 hm).resolve_left ha) id
  exact key _ s (.inl (List.mem_range.2 hc))

theorem throttle_sets {s : State} {die : Nat} (hd : die < 4) (on : Bool) :
    exec (.thermalThrottle die on) s = .next (s.setDie die { s.die die with throttle := on }) := by
  rw [show exec (.thermalThrottle die on) s = execThermalThrottle die on s from rfl, execThermalThrottle, if_neg (by omega)]

theorem Die.lmReg_bump (d : Die) (n w j : Nat) (hw : w ≤ 64) : (d.bump n w).lmReg j
    = if j = n then min (d.lmReg n + 1) (2 ^ w - 1) else d.lmReg j := by
  have hp : 2 ^ w ≤ 2 ^ 64 := Nat.pow_le_pow_right (by decide) hw
  have hpos : 0 < 2 ^ w := Nat.two_pow_pos w
  simp only [Die.lmReg, Die.bump, Tab.get_put]
  split
  · refine Nat.mod_eq_of_lt (Nat.lt_of_le_of_lt (Nat.min_le_right _ _) ?_)
    omega
  · rfl

/-- The counts of the terms after a cycle: each true one is raised, the others stand. -/
theorem Die.bumps_lmReg (d : Die) (v : Nat → Bool) {k : Nat} (hk : k < 4) (hb : d.lmReg (36 + k) < 2 ^ 64 - 1) :
    (((List.range 4).foldl (fun (x : Die) t => if v t then x.bump (36 + t) 64 else x) d).lmReg (36 + k))
      = d.lmReg (36 + k) + if v k then 1 else 0 := by
  have step : ∀ (x : Die) t, (if v t then x.bump (36 + t) 64 else x : Die).lmReg (36 + k)
      = if t = k ∧ v k = true then min (x.lmReg (36 + k) + 1) (2 ^ 64 - 1) else x.lmReg (36 + k) := by
    intro x t
    by_cases ht : t = k
    · subst ht
      by_cases hv : v t = true
      · rw [if_pos hv, if_pos ⟨rfl, hv⟩, Die.lmReg_bump _ _ _ _ (Nat.le_refl _), if_pos rfl]
      · simp only [hv, and_false, if_false, Bool.false_eq_true]
    · simp only [ht, false_and, if_false]
      split
      · rw [Die.lmReg_bump _ _ _ _ (Nat.le_refl _), if_neg (by omega)]
      · rfl
  rw [show List.range 4 = [0, 1, 2, 3] from rfl]
  simp only [List.foldl_cons, List.foldl_nil, step]
  by_cases hv : v k = true
  · obtain rfl | rfl | rfl | rfl : k = 0 ∨ k = 1 ∨ k = 2 ∨ k = 3 := by omega
    all_goals
      simp [hv]
      omega
  · simp [hv]

theorem Die.bin_le (d : Die) (n : Nat) : d.bin n ≤ 15 := by
  unfold Die.bin
  cases h : (List.range 15).find? (fun b => decide (n ≤ d.lmReg (21 + b))) with
  | none => exact Nat.le_refl _
  | some b => exact Nat.le_of_lt (List.mem_range.1 (List.mem_of_find?_eq_some h))

theorem Die.matrixCycle_counts (d : Die) (on : List (Nat × Nat)) (b : Bool) {k : Nat} (hk : k < 4)
    (hm : bitsOf (d.lmReg (16 + k)) 15 14 ≠ 3) (hb : d.lmReg (36 + k) < 2 ^ 64 - 1) :
    (d.matrixCycle on b).lmReg (36 + k) = d.lmReg (36 + k) + if d.term on false k then 1 else 0 := by
  have hterm : d.term on b k = d.term on false k := by
    have hlt : bitsOf (d.lmReg (16 + k)) 15 14 < 4 := bitsOf_lt _ 15 14
    have hmode : bitsOf (d.lmReg (16 + k)) 15 14 = 0 ∨ bitsOf (d.lmReg (16 + k)) 15 14 = 1
        ∨ bitsOf (d.lmReg (16 + k)) 15 14 = 2 := by omega
    unfold Die.term
    rcases hmode with h | h | h
    all_goals simp only [h]
  rw [← hterm, ← Die.bumps_lmReg d (fun t => d.term on b t) hk hb]
  have hlast : ∀ (x : Die) l, ({ x with lmLast := l } : Die).lmReg (36 + k) = x.lmReg (36 + k) := fun _ _ => rfl
  have hrun : ∀ (x : Die) n, ({ x with lmRun := n } : Die).lmReg (36 + k) = x.lmReg (36 + k) := fun _ _ => rfl
  unfold Die.matrixCycle
  dsimp only
  rw [hlast]
  split
  · rfl
  · split
    · rfl
    · split
      · rfl
      · rw [hrun, Die.lmReg_bump _ _ _ _ (by decide), if_neg (by omega)]

/-- A cycle of the logic matrix counts the terms that are true. -/
theorem logicMatrix_counts {s : State} {die : Nat} (hd : die < 4) {sample on : List (Nat × Nat)}
    (ho : on = s.rawSignals die ++ sample.filter (fun e => e.1 == 6 && decide (e.2 < 16))) :
    ∃ t, exec (.logicMatrixCycle die sample) s = .next t ∧ t.mem = s.mem
      ∧ ∀ k < 4, bitsOf ((s.die die).lmReg (16 + k)) 15 14 ≠ 3 → (s.die die).lmReg (36 + k) < 2 ^ 64 - 1 →
          (t.die die).lmReg (36 + k)
            = (s.die die).lmReg (36 + k) + if (s.die die).term on false k then 1 else 0 := by
  subst ho
  rw [show exec (.logicMatrixCycle die sample) s = execLogicMatrixCycle die sample s from rfl, execLogicMatrixCycle,
    if_neg (by omega)]
  refine ⟨_, rfl, rfl, fun k hk hm hb => ?_⟩
  rw [State.die_setDie, if_pos rfl]
  exact Die.matrixCycle_counts (s.die die) _ _ hk hm hb

/-! Resets. -/

theorem Memory.readByte_filter_lt (n a : Nat) {m : List Host.Cell} : ∀ {lo : Option Nat}, Memory.wfFrom lo m = true →
    Memory.readByte (m.filter fun c => decide (c.1 < n)) a = if a < n then Memory.readByte m a else Memory.blank := by
  induction m with
  | nil =>
    intro lo _
    simp [Memory.readByte]
  | cons e t ih =>
    obtain ⟨k, v⟩ := e
    intro lo h
    simp only [Memory.wfFrom, Bool.and_eq_true] at h
    obtain ⟨-, h3⟩ := h
    have hlow := Memory.readByte_below (a := a) h3
    rw [List.filter_cons]
    by_cases hk : k < n
    · rw [if_pos (by simpa using hk), Memory.readByte_cons, Memory.readByte_cons, ih h3]
      by_cases h1 : k = a
      · rw [if_pos h1, if_pos h1, if_pos (by omega)]
      · rw [if_neg h1, if_neg h1]
        by_cases h2 : a < k
        · rw [if_pos h2, if_pos h2, ite_self]
        · rw [if_neg h2, if_neg h2]
    · rw [if_neg (by simpa using hk), Memory.readByte_cons, ih h3]
      by_cases ha : a < n
      · rw [if_pos ha, if_pos ha, if_neg (by omega), if_pos (by omega), hlow (by omega)]
      · rw [if_neg ha, if_neg ha]

theorem State.afterReset_ctx (s : State) (p : Power) (c : Nat) :
    (s.afterReset p).ctx c = { Ctx.reset with finalStmt := (s.ctx c).finalStmt } := by
  refine (Tab.get_map_of Ctx.afterReset id Ctx.afterReset (fun _ => rfl) Ctx.reset rfl s.ctxs c).trans ?_
  rfl

theorem State.afterReset_port (s : State) (p : Power) (k : Nat) :
    (s.afterReset p).port k = { Port.reset with downAt := ((s.afterReset p).port k).downAt } := by
  have h : (s.afterReset p).port k = if k < 14 then { Port.reset with downAt := s.clock } else Port.reset :=
    Tab.get_range Port.reset (fun _ => { Port.reset with downAt := s.clock }) 14 k
  rw [h]
  split <;> rfl

/-- What a reset keeps, and what it does not. -/
theorem State.afterReset_keeps (s : State) (p : Power) :
    (s.afterReset p).power = p ∧ (s.afterReset p).flights = [] ∧ (s.afterReset p).cores = [] ∧ (s.afterReset p).dies = []
      ∧ (∀ c, (s.afterReset p).ctx c = { Ctx.reset with finalStmt := (s.ctx c).finalStmt })
      ∧ (∀ k, (s.afterReset p).port k = { Port.reset with downAt := ((s.afterReset p).port k).downAt })
      ∧ (s.afterReset p).hub.barn = s.hub.barn ∧ (s.afterReset p).hub.ssSeq = s.hub.ssSeq
      ∧ (s.afterReset p).hub.jcfg = none ∧ (s.afterReset p).hub.seqs = [] ∧ (s.afterReset p).hub.geom = none
      ∧ (s.afterReset p).hub.health = s.hub.health
      ∧ (s.memOk → (s.afterReset p).memOk ∧ ∀ a, Memory.readByte (s.afterReset p).mem a
        = if a < 2 ^ 40 then Memory.readByte s.mem a else 0) :=
  ⟨rfl, rfl, rfl, rfl, s.afterReset_ctx p, s.afterReset_port p, rfl, rfl, rfl, rfl, rfl, rfl,
    fun hm => ⟨Memory.wf_filter _ hm, fun a => Memory.readByte_filter_lt (2 ^ 40) a hm⟩⟩

/-- A reset leaves its module as `afterReset` says; a thermal trip is a cause of REPLACE first. -/
theorem reset_step {s : State} {x : Instr} {p : Power}
    (h : (x = .powerOn ∧ s.power = .off ∧ p = .booting) ∨ (x = .hotReset ∧ s.power ≠ .off ∧ p = .booting)
      ∨ (x = .functionLevelReset ∧ s.power ≠ .off ∧ p = .booting) ∨ (x = .powerLoss ∧ s.power ≠ .off ∧ p = .off)
      ∨ (x = .thermalTrip ∧ s.power ≠ .off ∧ p = .off)) :
    exec x s = .next ((if x = .thermalTrip then s.setReplace 5 else s).afterReset p) := by
  rcases h with ⟨rfl, hp, rfl⟩ | ⟨rfl, hp, rfl⟩ | ⟨rfl, hp, rfl⟩ | ⟨rfl, hp, rfl⟩ | ⟨rfl, hp, rfl⟩
  · rw [show exec .powerOn s = execPowerOn s from rfl, execPowerOn, if_pos hp, if_neg nofun]
  · rw [show exec .hotReset s = s.warmReset from rfl, State.warmReset, if_neg hp, if_neg nofun]
  · rw [show exec .functionLevelReset s = s.warmReset from rfl, State.warmReset, if_neg hp, if_neg nofun]
  · rw [show exec .powerLoss s = execPowerLoss s from rfl, execPowerLoss, if_neg hp, if_neg nofun]
  · rw [show exec .thermalTrip s = execThermalTrip s from rfl, execThermalTrip, if_neg hp, if_pos rfl]

theorem State.setHealth_hub {β : Type} (r : Hub → β) (hr : ∀ (h : Hub) x b, r { h with health := x, pba := b } = r h)
    (s : State) (x : Health) : r (s.setHealth x).hub = r s.hub := by
  have h1 : ∀ y, r { s.hub with health := y } = r s.hub := fun y => hr s.hub y s.hub.pba
  unfold State.setHealth State.vector
  split
  · split
    · exact hr s.hub _ _
    · exact h1 _
  · exact h1 _

theorem reset_keeps {s : State} {x : Instr} {p : Power}
    (h : (x = .powerOn ∧ s.power = .off ∧ p = .booting) ∨ (x = .hotReset ∧ s.power ≠ .off ∧ p = .booting)
      ∨ (x = .functionLevelReset ∧ s.power ≠ .off ∧ p = .booting) ∨ (x = .powerLoss ∧ s.power ≠ .off ∧ p = .off)
      ∨ (x = .thermalTrip ∧ s.power ≠ .off ∧ p = .off)) :
    ∃ t, exec x s = .next t ∧ t.power = p ∧ t.flights = [] ∧ t.cores = [] ∧ t.dies = []
      ∧ (∀ c, t.ctx c = { Ctx.reset with finalStmt := (s.ctx c).finalStmt })
      ∧ (∀ k, t.port k = { Port.reset with downAt := (t.port k).downAt })
      ∧ t.hub.barn = s.hub.barn ∧ t.hub.ssSeq = s.hub.ssSeq ∧ t.hub.jcfg = none ∧ t.hub.seqs = [] ∧ t.hub.geom = none
      ∧ (x ≠ .thermalTrip → t.hub.health = s.hub.health)
      ∧ (x = .thermalTrip → t.hub.health.replace = true ∧ t.hub.health.rwhy.testBit 5 = true)
      ∧ (s.memOk → t.memOk ∧ ∀ a, Memory.readByte t.mem a = if a < 2 ^ 40 then Memory.readByte s.mem a else 0) := by
  refine ⟨_, reset_step h, ?_⟩
  by_cases ht : x = .thermalTrip
  · rw [if_pos ht]
    obtain ⟨hpw, hfl, hco, hdi, hcx, hpo, hba, hss, hj, hsq, hg, hh, hm⟩ := (s.setReplace 5).afterReset_keeps p
    refine ⟨hpw, hfl, hco, hdi, fun c => ?_, hpo, hba.trans ?_, hss.trans ?_, hj, hsq, hg, fun hn => absurd ht hn, fun _ => ?_,
      fun hmo => ?_⟩
    · rw [hcx c, State.setReplace, State.setHealth_ctx]
    · exact State.setHealth_hub Hub.barn (fun _ _ _ => rfl) s _
    · exact State.setHealth_hub Hub.ssSeq (fun _ _ _ => rfl) s _
    · rw [hh]
      exact State.setReplace_health s 5
    · have hmo' : (s.setReplace 5).memOk := by
        rw [State.memOk, State.setReplace_mem]
        exact hmo
      obtain ⟨h1, h2⟩ := hm hmo'
      exact ⟨h1, fun a => by rw [h2 a, State.setReplace_mem]⟩
  · rw [if_neg ht]
    obtain ⟨hpw, hfl, hco, hdi, hcx, hpo, hba, hss, hj, hsq, hg, hh, hm⟩ := s.afterReset_keeps p
    exact ⟨hpw, hfl, hco, hdi, hcx, hpo, hba, hss, hj, hsq, hg, fun _ => hh, fun h => absurd h ht, hm⟩

/-- Settles O60: findings by their structure, failures and counters by their steps, resets by what `afterReset` keeps. -/
theorem healthAndResetsComplete : Obligations.HealthAndResetsComplete := by
  unfold Obligations.HealthAndResetsComplete
  refine ⟨⟨fun s found hf => ⟨scrub_next hf, fun die st h => scrub_corrected hf h, fun die st pa h => scrub_block hf h,
      fun f q die st h hq hk => scrub_marks hf h hq hk, fun f c key q h hs hq hk => scrub_owned hf h hs hq hk,
      fun q c ps a x h hx hl ha hb => scrub_springCopy hf h hx hl ha hb⟩,
    fun s q hq hf => quadFail_stops hq hf, fun s die port hd hp => memoryPortFail_replaces hd hp,
    fun s die hd => ⟨counterForward_sends hd, fun on => throttle_sets hd on, fun sample on ho => logicMatrix_counts hd ho⟩⟩,
    fun s x p h => reset_keeps h⟩

end Sys2Proof.Machine

/-! SETTLED. A window read that is deferred to a stopped context (16 R287; 18 R307). -/

namespace Sys2Proof.Machine

open Sys2Proof

/-- A request that a stopped context's core defers is kept in a flush-reserve record, which the deferral writes. -/
theorem State.defer_req_mem {s : State} {f : Flight} {lc : Nat} {r : MemReq} (hbody : f.body = .req r)
    (hroom : s.reserveRoom f.ctx lc = true) :
    (s.defer f lc).mem = Memory.write s.mem (s.reserveAt f.ctx lc (s.freeReserve f.ctx lc))
      (leBytes 512 (Config.freeNat s.freeCtr)) := by
  unfold State.defer
  simp only [hroom, if_true, hbody]
  rw [State.openBytes, State.free, State.ownerWrite_mem]
  rfl

/-- A flight that starts at a router is not among the deferred ones. -/
theorem State.launchFlight_deferredOf (s : State) {f : Flight} {x y : Nat} {e : Bool} (hf : f.stage = .router x y e)
    (c lc : Nat) : (s.launchFlight f).2.deferredOf c lc = s.deferredOf c lc := by
  simp [State.deferredOf, State.launchFlight, State.fresh, List.filter_append, hf]

/-- A host's part for a scratchpad of a stopped context is deferred to the core that holds it. -/
theorem State.hostPart_deferred {s : State} {op : MemOp} {pa n c lc : Nat} {data : List Byte} (hplace : place pa ≠ .hole)
    (hdef : s.hostDeferral pa = some (c, lc)) (hroom : s.reserveRoom c lc = true) :
    (s.hostPart op pa n data).mem = Memory.write s.mem (s.reserveAt c lc (s.freeReserve c lc))
      (leBytes 512 (Config.freeNat s.freeCtr)) := by
  unfold State.hostPart
  split
  · exact absurd ‹_› hplace
  · simp only [hdef]
    refine (State.defer_req_mem rfl ?_).trans ?_
    · change State.reserveRoom (s.launchFlight _).2 c lc = true
      rw [State.reserveRoom, State.launchFlight_deferredOf s rfl]
      exact hroom
    · change Memory.write _ (State.reserveAt (s.launchFlight _).2 c lc (State.freeReserve (s.launchFlight _).2 c lc)) _ = _
      rw [State.freeReserve, State.launchFlight_deferredOf s rfl]
      rfl

/-- A saved context 0 that holds the first 64 KiB of core 0's scratchpad; the host's window is at the scratchpads, and the
byte where the core's first flush-reserve record stands is `b`. -/
def deferState (b : Byte) : State := { State.reset with
  mem := Memory.write State.reset.mem 196608 [b]
  ctxs := [(0, { Ctx.reset with st := .saved, lcs := [(0, { CtxCore.init 0 with callot := 2 ^ 56 })] })]
  hub := { Hub.reset with mwbase := 16 } }

/-- The access is within the window, the host's earlier ones are done, and the scratchpad's context is stopped. -/
theorem deferState_facts : ∀ b ∈ [(1 : Byte), 2], (deferState b).hostWritePending = false
    ∧ (deferState b).hostClear (2 ^ 40) 1 = true ∧ (deferState b).hostDeferral (2 ^ 40) = some (0, 0)
    ∧ (deferState b).reserveRoom 0 0 = true ∧ (deferState b).reserveAt 0 0 0 = 196608
    ∧ (deferState b).freeReserve 0 0 = 0 ∧ (deferState b).hub.windowPa 0 = 2 ^ 40 := by decide +kernel


/-- Whatever stood there, the record's bytes are the same after the access. -/
theorem deferState_overwritten {b : Byte} (hb : b ∈ [(1 : Byte), 2]) {t : State}
    (ht : exec (.hostWindowRead 0 1) (deferState b) = .next t) :
    Memory.read t.mem 196608 512 = leBytes 512 (Config.freeNat 0) := by
  obtain ⟨hw, hc, hd, hroom, hat, hfree, hwin⟩ := deferState_facts b hb
  rw [show exec (.hostWindowRead 0 1) (deferState b) = execHostWindowRead 0 1 (deferState b) from rfl, execHostWindowRead,
    if_neg (by decide), hw, hwin, hc] at ht
  simp only [Bool.false_eq_true, if_false, Bool.not_true, Host.Outcome.next.injEq] at ht
  rw [← ht, show hostParts (2 ^ 40) 1 = [(2 ^ 40, 1)] from by decide +kernel, List.foldl_cons, List.foldl_nil,
    State.hostPart_deferred (by decide) hd hroom, hfree, hat]
  have hread := Memory.read_write (m := (deferState b).mem) (leBytes 512 (Config.freeNat 0)) 196608
    (Memory.wf_write 196608 [b] (m := State.reset.mem) rfl)
  rw [leBytes_length] at hread
  exact hread

/-- The two states differ in that byte. -/
theorem deferState_differs : Memory.read (deferState 1).mem 196608 512 ≠ Memory.read (deferState 2).mem 196608 512 := by
  decide +kernel

/-- Refutes O58: a window read of a stopped context's scratchpad is deferred, which writes a flush-reserve record into
memory, where the statement says that a window read leaves memory as it was. -/
theorem not_hostAccessesComplete : ¬ Obligations.HostAccessesComplete := by
  rintro ⟨-, -, -, hread, -⟩
  have key : ∀ b ∈ [(1 : Byte), 2], Memory.read (deferState b).mem 196608 512 = leBytes 512 (Config.freeNat 0) :=
    fun b hb => by
      obtain ⟨hw, hc, -, -, -, -, hwin⟩ := deferState_facts b hb
      rw [← hwin] at hc
      obtain ⟨t, ht, hmem⟩ := (hread (deferState b) 0 1 (by decide) (by decide) (by decide) hw hc).1
      rw [← hmem]
      exact deferState_overwritten hb ht
  exact deferState_differs ((key 1 (by decide)).trans (key 2 (by decide)).symm)

end Sys2Proof.Machine

/-! SETTLED. Balance controllers and record dispatchers (13 R257 to R266). -/

namespace Sys2Proof.Machine

open Sys2Proof

/-! What a write leaves as it was. -/

/-- A part of the state that has no flight and no number in it, a delivery leaves. -/
theorem State.deliver_part {β : Type} (r : State → β) (hr : ∀ (s : State) n l, r { s with nextId := n, flights := l } = r s)
    (s : State) (w : Who) (o : Nat) (m : Msg) (t : Track) (x : Nat × Nat) (a b : List Nat) (rel : Bool) (e : Option Nat) :
    r (s.deliver w o m t x a b rel e) = r s := by
  unfold State.deliver
  split
  · exact hr s _ _
  · split
    · rfl
    · exact hr s _ _

theorem State.foldl_part {α β : Type} (r : State → β) (f : State → α → State) (h : ∀ s a, r (f s a) = r s) (l : List α)
    (s : State) : r (l.foldl f s) = r s :=
  List.foldlRecOn (motive := fun t : State => r t = r s) l f rfl (fun u hu a _ => (h u a).trans hu)

/-- A part of the state beside memory, its poison, the flights, the dies, the cores and the contexts, a write leaves. -/
theorem State.ownerWrite_part {β : Type} (r : State → β)
    (hr : ∀ (s : State) m p n l d k x, r { s with mem := m, poison := p, nextId := n, flights := l, dies := d, cores := k, ctxs := x }
      = r s) (s : State) (pa : Nat) (bs : List Byte) : r (s.ownerWrite pa bs) = r s := by
  have hd : ∀ (s : State) n l, r { s with nextId := n, flights := l } = r s := fun s n l => hr s _ _ n l _ _ _
  unfold State.ownerWrite
  split
  · rfl
  · unfold State.fireWatches
    refine (State.foldl_part r _ (fun u a => State.deliver_part r hd u ..) _ _).trans ?_
    refine (State.foldl_part r _ (fun u a => State.deliver_part r hd u ..) _ _).trans ?_
    refine (hr _ _ _ _ _ _ _ _).trans ?_
    refine (State.foldl_part r _ (fun u a => ?_) _ _).trans ?_
    · split
      split
      · exact State.deliver_part r hd u ..
      · rfl
    · exact hr s _ _ _ _ _ _ _

theorem State.ownerWrite_quad (s : State) (pa : Nat) (bs : List Byte) (q : Nat) : (s.ownerWrite pa bs).quad q = s.quad q :=
  State.ownerWrite_part (fun s => s.quad q) (fun _ _ _ _ _ _ _ _ => rfl) s pa bs

/-! What a translation and an engine's read depend on. -/

theorem Ctx.checkAddr_congr {x y : Ctx} (h : x.regions = y.regions) (va n : Nat) (wr : Bool) :
    x.checkAddr va n wr = y.checkAddr va n wr := by
  unfold Ctx.checkAddr Ctx.checkRegion Ctx.regionOf
  rw [h]

theorem State.walkRead_congr {s u : State} (hm : u.mem = s.mem) (hp : u.poison = s.poison) (r : Region)
    (page level table : Nat) : u.walkRead r page level table = s.walkRead r page level table := by
  unfold State.walkRead State.readLe State.poisonAt
  rw [hm, hp]

theorem State.walkFrom_congr {s u : State} (hm : u.mem = s.mem) (hp : u.poison = s.poison) (r : Region) (page l : Nat) :
    ∀ table, u.walkFrom r page l table = s.walkFrom r page l table := by
  induction l with
  | zero => intro table; rw [State.walkFrom, State.walkFrom, State.walkRead_congr hm hp]
  | succ l ih =>
    intro table
    rw [State.walkFrom, State.walkFrom, State.walkRead_congr hm hp]
    split
    · exact ih _
    · rfl

/-- A translation depends on the context's regions, the slices, memory and its poison. -/
theorem State.translate_congr {s u : State} {c : Nat} (hr : (u.ctx c).regions = (s.ctx c).regions) (hd : u.dies = s.dies)
    (hm : u.mem = s.mem) (hp : u.poison = s.poison) (die va : Nat) (wr : Bool) :
    u.translate die c va wr = s.translate die c va wr := by
  unfold State.translate State.sliceAt State.die State.walk
  simp only [Ctx.checkAddr_congr hr, hd, State.walkFrom_congr hm hp]

/-- A context's fields beside its regions and its roster have no part in what a piece reads. -/
theorem State.readPiece_setCtx {s : State} {c : Nat} {x : Ctx} (hr : x.regions = (s.ctx c).regions)
    (ho : x.roster = (s.ctx c).roster) (die cmd k va n : Nat) :
    (s.setCtx c x).readPiece die c cmd k va n = s.readPiece die c cmd k va n := by
  have hctx : (s.setCtx c x).ctx c = x := by rw [State.ctx_setCtx, if_pos rfl]
  have htr := State.translate_congr (s := s) (u := s.setCtx c x) (c := c) (by rw [hctx, hr]) rfl rfl rfl die va false
  have hlost : ∀ rank, (s.setCtx c x).chipLost c rank = s.chipLost c rank := fun rank => by
    unfold State.chipLost State.portsTo Ctx.rankEnt
    rw [hctx, ho]
    rfl
  unfold State.readPiece State.pieceAt
  rw [htr]
  simp only [hlost]
  rfl

/-- An engine's read that has its data reads the same data with such a context changed. -/
theorem State.engineRead_setCtx {s : State} {w : Who} {x : Ctx} {bs : List Byte} {c : Nat} (hw : w.ctx = c)
    (hr : x.regions = (s.ctx c).regions) (ho : x.roster = (s.ctx c).roster) {die cmd base : Nat} {ps : List (Nat × Nat)}
    (h : s.engineRead w die cmd base ps = .data bs) : (s.setCtx c x).engineRead w die cmd base ps = .data bs := by
  unfold State.engineRead at h ⊢
  simp only [hw, State.readPiece_setCtx hr ho] at h ⊢
  split_ifs at h ⊢
  exact h

/-! The balance controller. -/

/-- The first four bytes of the new table are EPOCH raised by one. -/
theorem balanceBytes_epoch (stepf nexp : Nat) (bs : List Byte) :
    ofLe ((balanceBytes stepf nexp bs).take 4) = (ofLe (sliceBytes bs 0 4) + 1) % 2 ^ 32 := by
  unfold balanceBytes
  have hlen : (leBytes 4 (ofLe (sliceBytes bs 0 4) + 1)).length = 4 := leBytes_length _ _
  rw [List.append_assoc, List.take_append_of_le_length (by rw [hlen]), List.take_of_length_le (by rw [hlen]), ofLe_leBytes]
  norm_num

/-- The first closing context whose table can be updated is the one whose episode closes. -/
theorem exec_balanceUpdate {s u : State} {die c : Nat} {k : Closing} {pre rest : List (Nat × Closing)}
    (hl : s.closingAt die = pre ++ (c, k) :: rest) (hpre : ∀ e ∈ pre, s.updated die e.1 = none)
    (hu : s.updated die c = some u) : exec (.balanceUpdate die) s = .next (u.closeDie die c k) := by
  have hfirst : pre.findSome? (fun e => (s.updated die e.1).map (fun t => t.closeDie die e.1 e.2)) = none :=
    List.findSome?_eq_none_iff.2 fun e he => by rw [hpre e he]; rfl
  rw [show exec (.balanceUpdate die) s = execBalanceUpdate die s from rfl, execBalanceUpdate, hl]
  simp only [List.findSome?_append, hfirst, List.findSome?_cons, hu, Option.map_some, Option.none_or]

/-! The record dispatcher. -/

/-- TAIL is taken on by one at the address that the ring's base translates to. -/
theorem State.consume_eq {s : State} {die c base pa : Nat} {w : Bool} (h : s.translate die c base true = .ok (.here pa) w)
    (tail : Nat) : s.consume die c base tail = (s.clearFetches (dispCmd die c)).ownerWrite pa (leBytes 8 (tail + 1)) := by
  have htr := State.translate_congr (s := s) (u := s.clearFetches (dispCmd die c)) (c := c) rfl rfl rfl rfl die base true
  rw [State.consume]
  simp only [htr, h]

/-- A consumed record leaves TAIL one more, and no other byte changed. -/
theorem State.consume_tail {s : State} {die c base pa : Nat} {w : Bool} (h : s.translate die c base true = .ok (.here pa) w)
    (hmem : s.memOk) (tail : Nat) : (s.consume die c base tail).readLe pa 8 = (tail + 1) % 2 ^ 64
      ∧ ∀ a, ¬ (pa ≤ a ∧ a < pa + 8) →
        Memory.readByte (s.consume die c base tail).mem a = Memory.readByte s.mem a := by
  rw [State.consume_eq h]
  have hlen : (leBytes 8 (tail + 1)).length = 8 := leBytes_length _ _
  constructor
  · have hread := State.read_ownerWrite (s := s.clearFetches (dispCmd die c)) hmem pa (leBytes 8 (tail + 1))
    rw [hlen] at hread
    rw [State.readLe, hread, ofLe_leBytes]
    norm_num
  · intro a ha
    rw [State.ownerWrite_mem]
    exact Memory.readByte_write_out _ pa hmem (by rw [hlen]; omega)

/-- The state in which a dispatcher whose TAIL could be read goes on: its mark of a bad TAIL is gone. -/
def State.tailRead (s : State) (die c : Nat) : State :=
  if (s.ctx c).badTails.contains die then
    s.setCtx c { s.ctx c with badTails := (s.ctx c).badTails.filter (fun d => d != die) }
  else s

/-- That mark is all that may differ. -/
theorem State.tailRead_cases (s : State) (die c : Nat) : s.tailRead die c = s
    ∨ ∃ b, s.tailRead die c = s.setCtx c { s.ctx c with badTails := b } := by
  unfold State.tailRead
  split
  · exact .inr ⟨_, rfl⟩
  · exact .inl rfl

/-- What the dispatcher reads of the state is the same without the mark. -/
theorem State.tailRead_same (s : State) (die c : Nat) :
    (∀ va wr, (s.tailRead die c).translate die c va wr = s.translate die c va wr)
    ∧ (∀ tag cmd base ps bs, s.engineRead (dispWho die c tag) die cmd base ps = .data bs →
        (s.tailRead die c).engineRead (dispWho die c tag) die cmd base ps = .data bs)
    ∧ (∀ r, ((s.tailRead die c).ctx c).recOk (s.tailRead die c) die r = (s.ctx c).recOk s die r)
    ∧ ((s.tailRead die c).ctx c).dchn = (s.ctx c).dchn ∧ (s.tailRead die c).mem = s.mem
    ∧ (s.tailRead die c).quads = s.quads := by
  obtain h | ⟨b, h⟩ := s.tailRead_cases die c
  · rw [h]
    exact ⟨fun _ _ => rfl, fun _ _ _ _ _ hb => hb, fun _ => rfl, rfl, rfl, rfl⟩
  · rw [h]
    have hctx : (s.setCtx c { s.ctx c with badTails := b }).ctx c = { s.ctx c with badTails := b } := by
      rw [State.ctx_setCtx, if_pos rfl]
    refine ⟨fun va wr => ?_,
      fun tag cmd base ps bs hb => ?_, fun r => ?_, by rw [hctx], rfl, rfl⟩
    · have hregions := congrArg Ctx.regions hctx
      generalize hu : s.setCtx c { s.ctx c with badTails := b } = u at hregions ⊢
      exact State.translate_congr hregions (by rw [← hu]; rfl) (by rw [← hu]; rfl) (by rw [← hu]; rfl) die va wr
    · have hw : (dispWho die c tag).ctx = c := rfl
      exact State.engineRead_setCtx hw (by rfl) (by rfl) hb
    · rw [hctx]
      rfl


/-- A dispatcher that can read TAIL and its record, whose lap marker is set, takes it. -/
theorem exec_recordDispatch {s : State} {die c pa tail slot : Nat} {w : Bool} {cfg : Word} {bs : List Byte}
    (hcfg : cfg = Tab.get 0 (s.ctx c).rdcfg die) (hen : rEn cfg = true) (hst : (s.ctx c).st = .running)
    (htr : s.translate die c (rBase cfg) true = .ok (.here pa) w) (hpoison : s.poisonAt pa 8 = none)
    (htail : tail = s.readLe pa 8) (hslot : slot = rBase cfg + 64 + 32 * (tail % rSize cfg))
    (hread : s.engineRead (dispWho die c 0) die (dispCmd die c) 0 (pieces slot 32) = .data bs)
    (hlap : bitsOf (ofLe bs) 24 24 = (tail / rSize cfg + 1) % 2) :
    exec (.recordDispatch die c) s = (s.tailRead die c).takeRec die c (rBase cfg) tail slot (ofLe bs) := by
  obtain ⟨-, hsame, -, -, hmem, -⟩ := s.tailRead_same die c
  have hr := hsame _ _ _ _ _ hread
  have hrl : (s.tailRead die c).readLe pa 8 = tail := by rw [State.readLe, hmem, ← State.readLe, htail]
  rw [show exec (.recordDispatch die c) s = execRecordDispatch die c s from rfl, execRecordDispatch]
  extract_lets base w' u
  have hu : u = s.tailRead die c := rfl
  have hb : base = rBase cfg := by rw [hcfg]
  clear_value u base
  subst hu hb
  rw [← hcfg, if_neg (by simp [hen, hst]), htr]
  dsimp only
  rw [hpoison]
  dsimp only
  rw [hrl, ← hslot, hr]
  dsimp only
  rw [if_neg (by simp [hlap])]

/-- A record with COUNT 0 is consumed. -/
theorem State.takeRec_empty {s : State} {die c base tail slot r : Nat} (hok : (s.ctx c).recOk s die r = true)
    (hcount : recCount r = 0) : s.takeRec die c base tail slot r = .next (s.consume die c base tail) := by
  simp [State.takeRec, hok, hcount]

/-- Another one, with its template, posts the tile and is consumed. -/
theorem State.takeRec_posts {s : State} {die c base tail slot r : Nat} {ts : List Byte}
    (hok : (s.ctx c).recOk s die r = true) (hcount : recCount r ≠ 0)
    (hread : s.engineRead (dispWho die c (recTag r)) die (dispCmd die c) 8 (pieces (recTaddr r) 32) = .data ts)
    (ht : templateOk (ofLe ts) = true) :
    s.takeRec die c base tail slot r = .next ((s.postRec die c r (ofLe ts)).consume die c base tail) := by
  simp only [State.takeRec, hok, hcount, hread, ht]
  rfl

/-- The posted tile stands last in its quad's array queue, and the set's NEXT counts two more. -/
theorem State.postRec_posts (s : State) (die c r t : Nat) : ∃ cmd stamp,
    ((s.postRec die c r t).quad (64 * die + recQpos r)).arrayQ = (s.quad (64 * die + recQpos r)).arrayQ ++
      [⟨cmd, BitVec.ofNat 256 (tileOfRec t r (Tab.get 0 (s.ctx c).dchn (2 * (64 * die + recQpos r) + tSet t))),
        dispWho die c (recTag r), 2, stamp⟩]
    ∧ Tab.get 0 ((s.postRec die c r t).ctx c).dchn (2 * (64 * die + recQpos r) + tSet t)
      = (Tab.get 0 (s.ctx c).dchn (2 * (64 * die + recQpos r) + tSet t) + 2) % 256 := by
  refine ⟨s.nextId, s.clock, ?_, ?_⟩
  · unfold State.postRec State.acceptTile
    rw [State.quad_setQuad_same]
    rfl
  · change Tab.get 0 ((s.setCtx c _).ctx c).dchn _ = _
    rw [State.ctx_setCtx, if_pos rfl, Tab.get_put, if_pos rfl]

/-- A tile posted changes no translation of its context, and no byte. -/
theorem State.postRec_same (s : State) (die c r t : Nat) (va : Nat) (wr : Bool) :
    (s.postRec die c r t).translate die c va wr = s.translate die c va wr ∧ (s.postRec die c r t).mem = s.mem := by
  refine ⟨?_, rfl⟩
  have hctx : ((s.postRec die c r t).ctx c).regions = (s.ctx c).regions := by
    change ((s.setCtx c _).ctx c).regions = _
    rw [State.ctx_setCtx, if_pos rfl]
  exact State.translate_congr hctx rfl rfl rfl die va wr

/-- Consuming a record changes no quad, and nothing of the context but its monitor entries. -/
theorem State.consume_keeps (s : State) (die c base tail q : Nat) : (s.consume die c base tail).quad q = s.quad q
    ∧ ((s.consume die c base tail).ctx c).dchn = (s.ctx c).dchn := by
  unfold State.consume
  dsimp only
  split
  · exact ⟨(State.ownerWrite_quad ..).trans rfl, (State.ownerWrite_ctx Ctx.dchn (fun _ _ _ => rfl) ..).trans rfl⟩
  · exact ⟨rfl, rfl⟩

/-- Settles O49: a controller writes its new table over the old one's pieces; a dispatcher's record is consumed by one write
of TAIL, behind the tile that it posts. -/
theorem expertUnitsComplete : Obligations.ExpertUnitsComplete := by
  intro s die c
  refine ⟨fun k l t0 t1 pre rest hl hpre h0 h1 hbad hphys => ?_,
    fun cfg pa w tail slot bs r hcfg hen hst hmem htr hpoison htail hslot hread hr hlap hok => ?_⟩
  · subst h0 h1
    have hu : s.updated die c = some (s.writeTable l (balanceBytes
        (bitsOf (Tab.get 0 (s.ctx c).bctl1 die).toNat 63 32) (bitsOf (Tab.get 0 (s.ctx c).bctl1 die).toNat 31 16)
        (l.flatMap (fun e => Memory.read s.mem e.1 e.2)))) := by
      rw [State.updated, hbad]
      dsimp only
      rw [State.balance, hphys]
      rfl
    exact ⟨_, _, exec_balanceUpdate hl hpre hu, State.closeDie_mem .., rfl, balanceBytes_epoch ..⟩
  · subst hr
    obtain ⟨htr', hread', hok', hchn, hmem', hquads⟩ := s.tailRead_same die c
    have hx := exec_recordDispatch hcfg hen hst htr hpoison htail hslot hread hlap
    have hm : (s.tailRead die c).memOk := by rw [State.memOk, hmem']; exact hmem
    refine ⟨fun hcount => ?_, fun ts q chn hcount hts htok hq hc => ?_⟩
    · rw [hx, State.takeRec_empty ((hok' _).trans hok) hcount]
      obtain ⟨h1, h2⟩ := State.consume_tail ((htr' _ _).trans htr) hm tail
      rw [hmem'] at h2
      exact ⟨_, rfl, h1, h2⟩
    · subst hq hc
      rw [hx, State.takeRec_posts ((hok' _).trans hok) hcount (hread' _ _ _ _ _ hts) htok]
      obtain ⟨cmd, stamp, hq, hd⟩ := (s.tailRead die c).postRec_posts die c (ofLe bs) (ofLe ts)
      obtain ⟨hposted, hpm⟩ := (s.tailRead die c).postRec_same die c (ofLe bs) (ofLe ts) (rBase cfg) true
      obtain ⟨h1, -⟩ := State.consume_tail (hposted.trans ((htr' _ _).trans htr)) (by rw [State.memOk, hpm]; exact hm) tail
      refine ⟨_, cmd, stamp, rfl, h1, ?_, ?_⟩
      · rw [(State.consume_keeps ..).1, hq, hchn, State.quad, hquads]
        rfl
      · rw [(State.consume_keeps _ die c (rBase cfg) tail 0).2, hd, hchn]

end Sys2Proof.Machine

/-! SETTLED. Counters and barriers (05 R102, R103; 06 R118; 10 R221). -/

namespace Sys2Proof.Machine

open Sys2Proof

/-! Counters. -/

@[simp] theorem State.ctr_setCtr (s : State) (p k : Nat) (x : Ctr) : (s.setCtr p k x).ctr p k = x := by
  simp [State.setCtr, State.ctr, State.core_setCore, Tab.get_put]

@[simp] theorem State.ctr_setInst (s : State) (q sl : Nat) (i : Option Inst) (p k : Nat) :
    (s.setInst q sl i).ctr p k = s.ctr p k := by
  simp only [State.ctr, State.setInst, State.core_setCore]
  split
  · next h => subst h; rfl
  · rfl

@[simp] theorem State.lc_setCtr (s : State) (p k : Nat) (x : Ctr) (c l : Nat) : (s.setCtr p k x).lc c l = s.lc c l := rfl
@[simp] theorem State.ctx_setCtr (s : State) (p k : Nat) (x : Ctr) (c : Nat) : (s.setCtr p k x).ctx c = s.ctx c := rfl

/-- The destination that a request's answer finds is a pending one of the instance in its slot. -/
theorem State.findPend_spec {s : State} {pid q sl : Nat} {i : Inst} {y : Pend} (h : s.findPend pid = some (q, sl, i, y)) :
    sl < 8 ∧ y ∈ i.pend ∧ y.id = pid := by
  unfold State.findPend at h
  obtain ⟨e, -, he⟩ := List.exists_of_findSome?_eq_some h
  split at he
  · next n hslot =>
    split at he
    · obtain ⟨z, hz, hez⟩ := Option.map_eq_some_iff.1 he
      cases hez
      exact ⟨List.mem_range.1 (List.mem_of_find?_eq_some hslot), List.mem_of_find?_eq_some hz, by
        simpa using List.find?_some hz⟩
    · cases he
  · cases he

/-- An answer writes its value into that destination, and no counter. -/
theorem State.fillId_fills {s : State} {pid q sl : Nat} {i : Inst} {y : Pend} (h : s.findPend pid = some (q, sl, i, y)) (v : Word) :
    (∃ j, (s.fillId pid v).inst? q sl = some j ∧ { y with value := some v } ∈ j.pend)
      ∧ (∀ p k, (s.fillId pid v).ctr p k = s.ctr p k) ∧ ∀ c l, (s.fillId pid v).lc c l = s.lc c l := by
  obtain ⟨hsl, hy, hid⟩ := State.findPend_spec h
  unfold State.fillId
  rw [h]
  dsimp only
  refine ⟨⟨_, (State.inst?_setInst _ q sl _ q sl hsl).trans (if_pos ⟨rfl, rfl⟩), ?_⟩, fun p k => State.ctr_setInst .., fun c l => rfl⟩
  exact List.mem_map.2 ⟨y, hy, if_pos hid⟩

/-- A counter that is not armed, or whose target has not come, does not fire. -/
theorem State.fireCtr_holds {s : State} {p c lc n : Nat} {x : Ctr} (hx : s.ctr p ((s.lc c lc).ctrb + n) = x)
    (h : x.armed = false ∨ x.count < x.target) (e : CtrEvent) : s.fireCtr p c lc n e = s := by
  unfold State.fireCtr
  dsimp only
  rw [hx]
  refine if_neg fun hf => ?_
  rcases h with h | h
  · rw [h] at hf; exact Bool.false_ne_true hf.1
  · exact absurd hf.2 (Nat.not_le.2 h)

/-- A counter armed with a tile posts it when its target has come. -/
theorem State.fireCtr_posts {s : State} {p c lc n k : Nat} {x : Ctr} {d : BitVec 256} {w : Who}
    (hk : k = (s.lc c lc).ctrb + n) (hx : s.ctr p k = x) (harmed : x.armed = true) (hcount : x.target ≤ x.count)
    (hact : x.act = .post d w) (hd : tileOk d.toNat = true) (ha : (s.ctx c).holdsArr (quadOf p) = true) (e : CtrEvent) :
    s.fireCtr p c lc n e = (s.setCtr p k { x with count := x.count - x.target, armed := false }).fresh.2.acceptTile (quadOf p)
      ⟨s.nextId, d, w, 1, s.clock⟩ := by
  subst hk
  unfold State.fireCtr
  dsimp only
  rw [hx]
  simp only [harmed, hcount, and_self, if_true, hact, hd, State.ctx_setCtr, ha, Bool.and_self]
  rfl

/-- The unit takes the oldest event that no earlier ARM holds back. -/
theorem exec_counterEvent {s : State} {p : Nat} {e : CtrEvent} {rest : List CtrEvent}
    (he : (s.core p).ctrEvents.find? (fun y => !s.armBehind p y) = some e) (hrest : rest = (s.core p).ctrEvents.erase e) :
    exec (.counterEvent p) s = .next ((s.setCore p { s.core p with ctrEvents := rest }).applyCtr p e) := by
  rw [show exec (.counterEvent p) s = execCounterEvent p s from rfl, execCounterEvent]
  simp only [he, ← hrest]

/-- Taking an event leaves the counters. -/
theorem State.ctr_setEvents (s : State) (p k : Nat) (rest : List CtrEvent) :
    (s.setCore p { s.core p with ctrEvents := rest }).ctr p k = s.ctr p k := by
  rw [State.ctr, State.core_setCore, if_pos rfl]
  rfl


/-- An addition, on the state without its event. -/
theorem State.applyCtr_add {s : State} {p lc k n : Nat} {e : CtrEvent} (hlc : (s.ctx e.ctx).lcoreAt p = some lc)
    (hk : k = (s.lc e.ctx lc).ctrb + e.n) (hadd : e.what = .add n) :
    s.applyCtr p e = (s.setCtr p k { s.ctr p k with count := min ((s.ctr p k).count + n) (2 ^ 32 - 1) }).fireCtr p e.ctx lc e.n e := by
  subst hk
  rw [State.applyCtr, hlc]
  simp only [hadd]

/-- An ARM, on the state without its event. -/
theorem State.applyCtr_arm {s : State} {p lc k target iid pid : Nat} {act : CtrAct} {e : CtrEvent}
    (hlc : (s.ctx e.ctx).lcoreAt p = some lc) (hk : k = (s.lc e.ctx lc).ctrb + e.n) (harm : e.what = .arm target act iid pid) :
    s.applyCtr p e = if (s.ctr p k).armed then s.fillId pid 1
      else ((s.setCtr p k { s.ctr p k with armed := true, target := target, act := act }).fillId pid 0).fireCtr p e.ctx lc e.n e := by
  subst hk
  rw [State.applyCtr, hlc]
  simp only [harm]

/-! Barriers. -/

/-- A message that finds a goal from its chip is on its way once it is delivered. -/
theorem State.deliver_sends {s : State} {m : Msg} {x : Nat × Nat} (h : (s.msgGoal m.hdr.ctx.toNat m.hdr x).isSome = true)
    (w : Who) (o : Nat) (t : Track) (a b : List Nat) (r : Bool) (e : Option Nat) :
    ∃ f ∈ (s.deliver w o m t x a b r e).flights, f.body = .msg m t := by
  obtain ⟨⟨goal, dst⟩, hg⟩ := Option.isSome_iff_exists.1 h
  unfold State.deliver
  rw [hg]
  exact ⟨_, List.mem_append_right _ (List.mem_singleton.2 rfl), rfl⟩

/-- A message finds a goal when its core is on another chip, is the hub, or is one of its context's. -/
theorem State.msgGoal_isSome {s : State} {h : Hdr} {c : Nat} (hr : s.reaches c h.dchip.toNat h.dcore.toNat) (x : Nat × Nat) :
    (s.msgGoal c h x).isSome = true := by
  unfold State.msgGoal
  dsimp only
  split
  · rfl
  · next hchip =>
    split
    · rfl
    · next hcore =>
      rcases hr with hr | hr | hr
      · exact absurd hr hchip
      · exact absurd hr hcore
      · obtain ⟨l, hl⟩ := Option.isSome_iff_exists.1 hr
        rw [hl]
        rfl

/-- Deliveries change no context. -/
theorem State.deliverAll_ctx (s : State) (c : Nat) (src : Nat × Nat) (unit : Nat) (ms : List Msg) (k : Nat) :
    (s.deliverAll c src unit ms).ctx k = s.ctx k :=
  State.foldl_part (fun u => u.ctx k) _ (fun u m => State.deliver_ctx u ..) ms s

/-- Each of several messages that find a goal is on its way once all are delivered. -/
theorem State.deliverAll_sends {c : Nat} {src : Nat × Nat} {unit : Nat} {m : Msg} : ∀ {ms : List Msg} {s : State}, m ∈ ms →
    m.hdr.ctx.toNat = c → s.reaches c m.hdr.dchip.toNat m.hdr.dcore.toNat →
    ∃ f ∈ (s.deliverAll c src unit ms).flights, f.body = .msg m .none := by
  intro ms
  induction ms with
  | nil => intro s hm; cases hm
  | cons a t ih =>
    intro s hm hc hr
    rcases List.mem_cons.1 hm with rfl | hm
    · obtain ⟨f, hf, hb⟩ := State.deliver_sends (by rw [hc]; exact State.msgGoal_isSome hr src)
        { Who.zero with ctx := c } 0 .none [] [] false (some unit)
      exact ⟨f, State.foldl_flight_mem _ (fun u a h => State.deliver_flight_mem h ..) t _ hf, hb⟩
    · refine ih hm hc ?_
      rw [State.reaches, State.deliver_ctx]
      exact hr

/-- The barrier that an arrival meets: its first arrival of an episode sets the target and begins the sum. -/
def Barrier.opened (b : Barrier) (target : Nat) : Barrier :=
  { b with target := target, sum := if b.count = 0 then 0 else b.sum }

theorem Barrier.opened_eq {b : Barrier} {target : Nat} (h : b.count ≠ 0 → b.target = target) :
    (if b.count = 0 then { b with target := target, sum := 0 } else b) = b.opened target := by
  unfold Barrier.opened
  by_cases hz : b.count = 0
  · rw [if_pos hz, if_pos hz]
  · rw [if_neg hz, if_neg hz, ← h hz]

/-- An arrival whose target agrees with the episode's is counted in it, or closes it. -/
theorem State.arrive_eq {s : State} {f : Flight} {a : BArr} {b : Barrier} {key : Nat} {sum : Word}
    (hkey : key = barrierKey a.level (barrierUnit a.level f.dx f.dy) a.n)
    (hb : b = Tab.get Barrier.reset (s.ctx a.ctx).barriers key) (ht : b.count ≠ 0 → b.target = a.target)
    (hs : sum = if b.count = 0 then a.value else b.sum + a.value) :
    (b.count + 1 < a.target → s.arrive f a = s.setCtx a.ctx { s.ctx a.ctx with
        barriers := (s.ctx a.ctx).barriers.put key ⟨a.target, b.count + 1, sum, b.episode, b.arrivals ++ [a]⟩ })
      ∧ (b.count + 1 = a.target → (s.ctx a.ctx).boundDies a.level (barrierUnit a.level f.dx f.dy) a.n = [] →
        s.arrive f a = (s.setCtx a.ctx { s.ctx a.ctx with
            barriers := (s.ctx a.ctx).barriers.put key ⟨a.target, 0, sum, b.episode + 1, []⟩ }).deliverAll a.ctx (f.dx, f.dy)
          (barrierSource a.level (barrierUnit a.level f.dx f.dy)).inp
          ((b.arrivals ++ [a]).map (fun e => s.completion e sum (b.episode + 1) a.target))) := by
  have hsum : (b.opened a.target).sum + a.value = sum := by
    rw [hs, Barrier.opened]
    split
    · exact zero_add _
    · rfl
  constructor
  · intro hlow
    unfold State.arrive
    dsimp only
    rw [← hkey, ← hb, Barrier.opened_eq ht, if_neg (by simp [Barrier.opened]), 
      if_pos (show (b.opened a.target).count + 1 < (b.opened a.target).target from hlow), hsum]
    rfl
  · intro hclose hdies
    unfold State.arrive
    dsimp only
    rw [← hkey, ← hb, Barrier.opened_eq ht, if_neg (by simp [Barrier.opened]), if_neg (by rw [Barrier.opened]; dsimp only; omega),
      hdies, hsum]
    rfl

/-- The unit of a running context counts the arrival that stands first, without an answer on its own chip. -/
theorem exec_barrierArrival {s : State} {id : Nat} {f : Flight} {a : BArr} (hf : s.flight? id = some f)
    (hbody : f.body = .barrier a) (hgoal : f.goal = .barrier) (hfirst : s.firstArrival f = true)
    (hrun : (s.ctx a.ctx).st = .running) (hrank : (s.ctx a.ctx).hasRank a.rank = true) :
    exec (.barrierArrival id) s = .next (((s.dropFlight id).arrive f a).answerArrival f a 0) := by
  rw [show exec (.barrierArrival id) s = execBarrierArrival id s from rfl, execBarrierArrival, hf]
  simp [hbody, hgoal, hfirst, hrun, hrank, Ctx.paused]

/-- An arrival of the chip's own rank needs no answer. -/
theorem State.answerArrival_own {s : State} {f : Flight} {a : BArr} (h : a.rank = (s.ctx a.ctx).desc.rank) (n : Nat) :
    s.answerArrival f a n = s := if_pos h

/-- Settles O47: the counter unit applies one event, and a barrier's unit counts one arrival; each writes its own record
and what it sends, and nothing else. -/
theorem countersAndBarriersCount : Obligations.CountersAndBarriersCount := by
  refine ⟨fun s p lc k e rest x he hrest hlc hk hx => ?_, fun s id f a key b sum hf hbody hgoal hfirst hctx hrun hrank hhas hkey
    hb ht hs => ?_⟩
  · rw [exec_counterEvent he hrest]
    generalize hu : s.setCore p { s.core p with ctrEvents := rest } = u
    have hux : u.ctr p k = x := by rw [← hu, State.ctr_setEvents, hx]
    have hue : (u.core p).ctrEvents = rest := by rw [← hu, State.core_setCore, if_pos rfl]
    have hulc : (u.ctx e.ctx).lcoreAt p = some lc := by rw [← hu]; exact hlc
    have huk : k = (u.lc e.ctx lc).ctrb + e.n := by rw [← hu]; exact hk
    refine ⟨fun n count hadd hc => ?_, fun target act iid pid q sl i y v harm hv => ?_⟩
    · rw [State.applyCtr_add hulc huk hadd, hux, ← hc]
      have hset : (u.setCtr p k { x with count := count }).ctr p ((u.lc e.ctx lc).ctrb + e.n) = { x with count := count } := by
        rw [← huk, State.ctr_setCtr]
      refine ⟨fun hlow => ?_, fun d w harmed hcount hact hd ha => ?_⟩
      · rw [State.fireCtr_holds (x := { x with count := count }) hset hlow]
        refine ⟨_, rfl, by rw [← hu]; rfl, ?_, State.ctr_setCtr ..⟩
        rw [State.setCtr, State.core_setCore, if_pos rfl, ← hue]
      · have hq : (u.quad (quadOf p)).arrayQ = (s.quad (quadOf p)).arrayQ := by rw [← hu]; rfl
        rw [State.fireCtr_posts (s := u.setCtr p k { x with count := count }) (x := { x with count := count }) huk (State.ctr_setCtr ..) harmed hcount hact hd
          (by rw [State.ctx_setCtr, ← hu]; exact ha)]
        refine ⟨_, u.nextId, rfl, by rw [← hu]; rfl, State.ctr_setCtr .., ?_⟩
        rw [State.acceptTile, State.quad_setQuad_same, ← hq]
        have hclock : u.clock = s.clock := by rw [← hu]; rfl
        rw [← hclock]
        rfl
    · subst hv
      rw [State.applyCtr_arm hulc huk harm, hux]
      refine ⟨fun harmed hp => ?_, fun harmed hlow hp => ?_⟩
      · obtain ⟨⟨j, hj, hmem⟩, hctr, -⟩ := State.fillId_fills hp 1
        rw [if_pos harmed]
        exact ⟨_, j, rfl, (hctr p k).trans hux, hj, hmem⟩
      · obtain ⟨⟨j, hj, hmem⟩, hctr, hl⟩ := State.fillId_fills hp 0
        have hset := (hctr p k).trans (State.ctr_setCtr ..)
        rw [if_neg (by rw [harmed]; decide),
          State.fireCtr_holds (x := ⟨x.count, true, target, act⟩) (by rw [hl, State.lc_setCtr, ← huk]; exact hset) (.inr hlow)]
        exact ⟨_, j, rfl, hset, hj, hmem⟩
  · have hx := exec_barrierArrival hf hbody hgoal hfirst hrun hhas
    obtain ⟨hcounts, hcloses⟩ := State.arrive_eq (s := s.dropFlight id) hkey hb ht hs
    refine ⟨fun hlow => ?_, fun hclose hdies => ?_⟩
    · rw [hx, hcounts hlow, State.answerArrival_own (by rw [State.ctx_setCtx, if_pos rfl]; exact hrank)]
      refine ⟨_, rfl, rfl, ?_⟩
      rw [State.ctx_setCtx, if_pos rfl, Tab.get_put, if_pos rfl]
    · rw [hx, hcloses hclose hdies, State.answerArrival_own (by
        rw [State.deliverAll_ctx, State.ctx_setCtx, if_pos rfl]; exact hrank)]
      refine ⟨_, rfl, State.deliverAll_mem .., fun z hz => ?_, fun e he hec hl hr => ?_⟩
      · rw [hz, State.deliverAll_ctx, State.ctx_setCtx, if_pos rfl, Tab.get_put, if_pos rfl]
        exact ⟨rfl, rfl, rfl⟩
      · obtain ⟨g, hg, hgb⟩ := State.deliverAll_sends (c := a.ctx) (src := (f.dx, f.dy))
          (unit := (barrierSource a.level (barrierUnit a.level f.dx f.dy)).inp)
          (s := (s.dropFlight id).setCtx a.ctx { (s.dropFlight id).ctx a.ctx with
            barriers := ((s.dropFlight id).ctx a.ctx).barriers.put key ⟨a.target, 0, sum, b.episode + 1, []⟩ })
          (List.mem_map_of_mem (f := fun e => (s.dropFlight id).completion e sum (b.episode + 1) a.target) he) (by
            change (BitVec.ofNat 5 e.ctx).toNat = _
            rw [BitVec.toNat_ofNat, hec, Nat.mod_eq_of_lt hctx]) (by
            rw [State.reaches, State.ctx_setCtx, if_pos rfl]
            change (BitVec.ofNat 16 e.rank).toNat ≠ (s.ctx a.ctx).desc.rank ∨ (BitVec.ofNat 10 e.lcore).toNat = 1023
              ∨ ((s.ctx a.ctx).lcs.get? (BitVec.ofNat 10 e.lcore).toNat).isSome = true
            rw [BitVec.toNat_ofNat, BitVec.toNat_ofNat, Nat.mod_eq_of_lt (show e.lcore < 2 ^ 10 from hl)]
            exact hr)
        exact ⟨g, hg, _, hgb, rfl, rfl, rfl, rfl, rfl⟩

end Sys2Proof.Machine

/-! SETTLED. Dispatch into the lowest free slot (10 R212). -/

namespace Sys2Proof.Machine

open Sys2Proof

/-! The slot and the core of a dispatch. -/

theorem Core.freeSlot_lt {k : Core} {sl : Nat} (h : k.freeSlot = some sl) : sl < 8 :=
  List.mem_range.1 (List.mem_of_find?_eq_some h)

/-- A handler is found by the context's tables, memory and its poison. -/
theorem State.handler?_congr {s u : State} {c : Nat} (ht : (u.ctx c).tables = (s.ctx c).tables) (hm : u.mem = s.mem)
    (hp : u.poison = s.poison) (gen hidx : Nat) : u.handler? c gen hidx = s.handler? c gen hidx := by
  unfold State.handler? State.imageBad State.handlerAddr State.readLe State.poisonAt
  rw [ht, hm, hp]

theorem State.handlerEntry_congr {s u : State} {c : Nat} (ht : (u.ctx c).tables = (s.ctx c).tables) (hm : u.mem = s.mem)
    (gen hidx : Nat) : u.handlerEntry c gen hidx = s.handlerEntry c gen hidx := by
  unfold State.handlerEntry State.readLe
  rw [ht, hm]

/-- A core's record has no part in its context's tables. -/
theorem State.setLc_tables (s : State) (c lc : Nat) (l : CtxCore) (k : Nat) : ((s.setLc c lc l).ctx k).tables = (s.ctx k).tables :=
  State.setLc_ctx Ctx.tables (fun _ _ => rfl) s c lc l k

@[simp] theorem State.logDispatch_ctx (s : State) (p : Nat) (i : Inst) (k : Nat) : (s.logDispatch p i).ctx k = s.ctx k := by
  unfold State.logDispatch
  split <;> rfl

/-- The dispatch log is one of the core's own fields. -/
theorem State.logDispatch_core {β : Type} (r : Core → β) (hr : ∀ (k : Core) l, r { k with dlog := l } = r k) (s : State) (p : Nat)
    (i : Inst) (j : Nat) : r ((s.logDispatch p i).core j) = r (s.core j) := by
  unfold State.logDispatch
  split
  · rw [State.core_setCore]
    split
    · next h => subst h; exact hr _ _
    · rfl
  · rfl

/-- What a started slot holds: the instance with the core's next number. -/
theorem State.startSlot_inst? (s : State) (p : Nat) {sl : Nat} (h : sl < 8) (i : Inst) :
    (s.startSlot p sl i).inst? p sl = some { i with inum := (s.core p).inums + 1 } := by
  refine (State.logDispatch_core (fun k => k.inst? sl) (fun k l => rfl) _ p _ p).trans ?_
  have hset := State.inst?_setInst s p sl (some { i with inum := (s.core p).inums + 1 }) p sl h
  rw [if_pos ⟨rfl, rfl⟩, State.setInst, State.inst?, State.core_setCore, if_pos rfl] at hset
  change (State.core (State.setCore s p _) p).inst? sl = _
  rw [State.core_setCore, if_pos rfl]
  exact hset

/-- A start changes nothing of the core but its slots, its instance number and its log. -/
theorem State.startSlot_core {β : Type} (r : Core → β)
    (hr : ∀ (k : Core) v n l, r { k with slots := v, inums := n, dlog := l } = r k) (s : State) (p sl : Nat) (i : Inst) (j : Nat) :
    r ((s.startSlot p sl i).core j) = r (s.core j) := by
  refine (State.logDispatch_core r (fun k l => hr k _ _ l) _ p _ j).trans ?_
  change r (State.core (State.setCore s p _) j) = _
  rw [State.core_setCore]
  split
  · next h =>
    subst h
    exact hr (s.core j) ((s.core j).setSlot sl _).slots _ (s.core j).dlog
  · rfl

@[simp] theorem State.startSlot_ctx (s : State) (p sl : Nat) (i : Inst) (k : Nat) : (s.startSlot p sl i).ctx k = s.ctx k :=
  (State.logDispatch_ctx _ _ _ _).trans rfl


/-! Replies. -/

/-- The instance of the reply-class handler of a reservation. -/
theorem exec_dispatch_reply {s : State} {p sl r st a : Nat} {v : Resv} {m : Msg} {h : HHdr}
    (hsl : (s.core p).freeSlot = some sl)
    (ho : oldestBy (fun e => (s.core p).ageOf e.2.2.2) (s.waitingReplies p) = some (r, v, m, st))
    (hh : s.handler? v.ctx v.gen v.rhidx = some (a, h)) :
    ∃ t i, exec (.dispatch p) s = .next t ∧ t.inst? p sl = some i ∧ i.reply = true ∧ i.hidx = v.rhidx ∧ i.ctx = v.ctx
      ∧ i.pc = word64 (a + 16) ∧ (t.core p).resv.get? r = none ∧ t.mem = s.mem := by
  rw [show exec (.dispatch p) s = execDispatch p s from rfl, execDispatch, hsl]
  dsimp only
  rw [ho]
  dsimp only
  rw [State.startReply]
  generalize hu : State.setCore (s.signal 3 (quadOf p)) p _ = u
  have hhu : u.handler? v.ctx v.gen v.rhidx = some (a, h) := by rw [← hu]; exact hh
  have hresv : (u.core p).resv.get? r = none := by
    rw [← hu, State.core_setCore, if_pos rfl]
    exact Tab.get?_del _ _
  rw [hhu]
  refine ⟨_, _, rfl, State.startSlot_inst? _ p (Core.freeSlot_lt hsl) _, rfl, rfl, rfl, rfl, ?_, ?_⟩
  · refine (State.startSlot_core (fun k => k.resv.get? r) (fun _ _ _ _ => rfl) ..).trans hresv
  · rw [State.startSlot_mem, ← hu]
    rfl

/-! Messages. -/

/-- The first eight m registers hold the header's words, the others the payload's. -/
theorem mRegs_read (h : Hdr) (bs : List Byte) (k : XReg) :
    (k.toNat < 8 → (mRegs h (payloadWords bs))[k.toNat] = hdrWord h k.toNat)
      ∧ (8 ≤ k.toNat → (mRegs h (payloadWords bs))[k.toNat] = word64 (ofLe (sliceBytes bs (8 * (k.toNat - 8)) 8))) := by
  have hlt : k.toNat < 16 := k.isLt
  unfold mRegs payloadWords
  rw [Vector.getElem_ofFn]
  dsimp only
  refine ⟨fun h8 => ?_, fun h8 => ?_⟩
  · rw [List.getElem?_append_left (by simpa using h8)]
    simp [h8]
  · rw [List.getElem?_append_right (by simpa using h8)]
    simp [show k.toNat - 8 < 8 by omega]

/-- An entry that R212 chooses is started where no reply waits. -/
theorem exec_dispatch_entry {s : State} {p sl c lc age : Nat} {e : QEntry} (hsl : (s.core p).freeSlot = some sl)
    (hnone : s.waitingReplies p = []) (hc : s.choose p = some ((c, lc, e), age)) :
    exec (.dispatch p) s = .next (((s.signal 3 (quadOf p)).setCore p { s.core p with age := age }).startEntry p sl c lc e) := by
  rw [show exec (.dispatch p) s = execDispatch p s from rfl, execDispatch, hsl]
  dsimp only
  rw [hnone]
  simp only [oldestBy, hc]


/-- An instance as a message starts it: the handler's, at its first word, with nothing in its registers but the message's
header and payload and the handler's ring bindings. -/
structure Inst.Begun (i : Inst) (s : State) (c lc a : Nat) (m : Msg) (h : HHdr) : Prop where
  ctx : i.ctx = c
  lcore : i.lcore = lc
  hidx : i.hidx = m.hdr.hidx.toNat
  tag : i.tag = m.hdr.tag.toNat
  pc : i.pc = word64 (a + 16)
  hbase : i.hbase = word64 (a + 16)
  hdr : i.hdr = h
  reply : i.reply = false
  g : i.g = Inst.fresh.g
  v : i.v = Inst.fresh.v
  d : i.d = Inst.fresh.d
  k : i.k = Inst.fresh.k
  link : i.link = 0
  q : i.q = ringBindings (s.handlerEntry c m.hdr.gen.toNat m.hdr.hidx.toNat)
  flags : i.flags = {}
  m : i.m = mRegs m.hdr (payloadWords m.payload)

theorem State.startMsg_begun {s : State} {p sl c lc a : Nat} {m : Msg} {e : QEntry} {h : HHdr} (hsl : sl < 8)
    (hh : s.handler? c m.hdr.gen.toNat m.hdr.hidx.toNat = some (a, h)) :
    ∃ i, (s.startMsg p sl c lc m e).inst? p sl = some i ∧ i.Begun s c lc a m h
      ∧ (s.startMsg p sl c lc m e).mem = s.mem ∧ ((s.startMsg p sl c lc m e).core p).age = (s.core p).age := by
  unfold State.startMsg
  extract_lets hd long l w
  have hw : (w.ctx c).tables = (s.ctx c).tables ∧ w.mem = s.mem ∧ (w.core p).age = (s.core p).age := by
    unfold w
    split
    · exact ⟨State.setLc_tables .., rfl, rfl⟩
    · exact ⟨rfl, rfl, rfl⟩
  clear_value w
  obtain ⟨htab, hmem, hage⟩ := hw
  rw [hh]
  simp only [State.newInst, State.fresh]
  rw [State.startSlot_inst? _ p hsl, State.startSlot_mem]
  refine ⟨_, rfl, ⟨rfl, rfl, rfl, rfl, rfl, rfl, rfl, rfl, rfl, rfl, rfl, rfl, rfl, ?_, rfl, rfl⟩, hmem,
    (State.startSlot_core Core.age (fun _ _ _ _ => rfl) ..).trans hage⟩
  exact congrArg ringBindings ((State.handlerEntry_congr (u := w) htab hmem _ _))

/-- The registers of a begun instance. -/
theorem Inst.Begun.registers {i : Inst} {s : State} {c lc a : Nat} {m : Msg} {h : HHdr} (hb : i.Begun s c lc a m h) :
    (∀ r, i.readG r = 0) ∧ (∀ r, i.readV r = 0) ∧ (∀ r, i.readD r = 0) ∧ (∀ r, r ≠ 0 → i.readK r = 0)
      ∧ (∀ k : XReg, k.toNat < 8 → i.readM k = hdrWord m.hdr k.toNat)
      ∧ ∀ k : XReg, 8 ≤ k.toNat → i.readM k = word64 (ofLe (sliceBytes m.payload (8 * (k.toNat - 8)) 8)) := by
  refine ⟨fun r => ?_, fun r => ?_, fun r => ?_, fun r hr => ?_, fun k hk => ?_, fun k hk => ?_⟩
  · simp [Inst.readG, hb.g, Inst.fresh]
  · simp [Inst.readV, hb.v, Inst.fresh]
  · simp [Inst.readD, hb.d, Inst.fresh]
  · have h0 : (0 : Nat) ≠ r.toNat := fun h0 => hr (BitVec.eq_of_toNat_eq h0.symm)
    rw [Inst.readK, if_neg hr, hb.k]
    simp only [Inst.fresh]
    rw [Vector.getElem_set_ne _ _ h0, Vector.getElem_replicate]
  · rw [Inst.readM, hb.m]
    exact (mRegs_read _ _ k).1 hk
  · rw [Inst.readM, hb.m]
    exact (mRegs_read _ _ k).2 hk

/-- The chosen message starts its instance. -/
theorem exec_dispatch_msg {s : State} {p sl c lc age a : Nat} {e : QEntry} {m : Msg} {h : HHdr}
    (hsl : (s.core p).freeSlot = some sl) (hnone : s.waitingReplies p = []) (hc : s.choose p = some ((c, lc, e), age))
    (he : e.item = .msg m) (hh : s.handler? c m.hdr.gen.toNat m.hdr.hidx.toNat = some (a, h)) :
    ∃ t i, exec (.dispatch p) s = .next t ∧ t.inst? p sl = some i ∧ t.mem = s.mem ∧ i.Begun s c lc a m h
      ∧ (t.core p).age = age := by
  rw [exec_dispatch_entry hsl hnone hc, State.startEntry]
  dsimp only
  rw [he]
  dsimp only
  generalize hu : State.setLc _ c lc _ = u
  have htab : (u.ctx c).tables = (s.ctx c).tables := by
    rw [← hu, State.setLc_tables]
    rfl
  have hmem : u.mem = s.mem := by rw [← hu]; rfl
  have hhu : u.handler? c m.hdr.gen.toNat m.hdr.hidx.toNat = some (a, h) := by
    rw [State.handler?_congr htab hmem (by rw [← hu]; rfl), hh]
  have hage : (u.core p).age = age := by
    rw [← hu]
    change (State.core (State.setCore _ p _) p).age = age
    rw [State.core_setCore, if_pos rfl]
  obtain ⟨i, hi, hb, hm, ha⟩ := State.startMsg_begun (p := p) (lc := lc) (e := e) (Core.freeSlot_lt hsl) hhu
  refine ⟨_, i, rfl, hi, hm.trans hmem, { hb with q := ?_ }, ha.trans hage⟩
  rw [hb.q, State.handlerEntry_congr htab hmem]


/-! Continuations. -/

theorem Inst.writeG_edge (i : Inst) (r : GReg) (x : Word) : (i.writeG r x).edge = i.edge := by
  unfold Inst.writeG Inst.setG
  split <;> rfl

/-- Settling a loop boundary leaves the instance's number. -/
theorem Inst.settleEdge_iid (i : Inst) : i.settleEdge.iid = i.iid := by
  unfold Inst.settleEdge
  split
  · obtain ⟨j, t, hj, e | e⟩ := Inst.boundary_cases { i with edge := false }
    all_goals
      rw [e]
      exact congrArg Prod.fst hj.keeps.name
  · rfl

theorem Inst.writeG_iid (i : Inst) (r : GReg) (x : Word) : (i.writeG r x).iid = i.iid := by
  unfold Inst.writeG Inst.setG
  split <;> rfl

/-- An instance that no loop boundary kept waiting goes on where it stood, with gD as the wake gives it. -/
theorem Inst.settleEdge_written {i : Inst} (h : i.edge = false) (r : GReg) (x : Word) :
    (i.writeG r x).settleEdge.pc = i.pc
      ∧ ∀ j : Inst, j.g = (i.writeG r x).settleEdge.g → ∀ r', j.readG r' = if r' = 0 then 0 else if r' = r then x else i.readG r' := by
  have hs : (i.writeG r x).settleEdge = i.writeG r x := by
    rw [Inst.settleEdge, Inst.writeG_edge, h]
    rfl
  rw [hs]
  refine ⟨Inst.writeG_pc i r x, fun j hj r' => ?_⟩
  have hread : j.readG r' = (i.writeG r x).readG r' := by rw [Inst.readG, Inst.readG, hj]
  rw [hread, Inst.readG_writeG]
  by_cases h0 : r' = 0
  · subst h0
    rw [if_pos rfl, if_neg (fun hr => hr.2 hr.1.symm)]
    rfl
  · rw [if_neg h0]
    by_cases hr : r' = r
    · rw [if_pos hr, if_pos ⟨hr, hr ▸ h0⟩]
    · rw [if_neg hr, if_neg (fun h => hr h.1)]

/-- A silo's control block is the only memory that its rewriting changes. -/
theorem State.siloControl_out {s : State} {c lc b : Nat} (h : s.memOk) (hb : ¬ (s.siloAt c lc ≤ b ∧ b < s.siloAt c lc + 4096)) :
    Memory.readByte (s.siloControl c lc).mem b = Memory.readByte s.mem b := by
  rw [State.siloControl, State.openBytes, State.free]
  dsimp only
  rw [State.ownerWrite_mem]
  exact Memory.readByte_write_out _ _ h (by rw [leBytes_length]; omega)

/-- A continuation goes on from its record, which frees. -/
theorem State.resume_wakes {s : State} {p sl c lc n : Nat} {e : QEntry} {k : Cont} (hsl : sl < 8)
    (hk : (s.lc c lc).conts.get? n = some k) (hemit : k.emit = none) :
    ∃ i, (s.resume p sl c lc n e).inst? p sl = some i ∧ i.iid = k.inst.iid ∧ i.waitOn = none
      ∧ i.pc = (k.inst.writeG k.dst (k.value.getD 0)).settleEdge.pc ∧ i.g = (k.inst.writeG k.dst (k.value.getD 0)).settleEdge.g
      ∧ (s.memOk → ∀ b, ¬ (s.siloAt c lc ≤ b ∧ b < s.siloAt c lc + 4096) →
          Memory.readByte (s.resume p sl c lc n e).mem b = Memory.readByte s.mem b)
      ∧ ((s.resume p sl c lc n e).lc c lc).conts.get? n = none := by
  unfold State.resume
  dsimp only
  rw [hk]
  simp only [hemit]
  generalize hu : State.setLc s c lc _ = u
  have hat : u.siloAt c lc = s.siloAt c lc := by
    rw [State.siloAt, State.siloAt, ← hu, State.lc_setLc]
    exact congrArg (fun d => d + lc * (s.lc c lc).siloZ) (State.setLc_ctx (fun x => x.desc.siloba) (fun _ _ => rfl) s c lc _ c)
  have hdel : (u.lc c lc).conts.get? n = none := by
    rw [← hu, State.lc_setLc]
    exact Tab.get?_del _ _
  have hum : u.mem = s.mem := by rw [← hu]; rfl
  rw [State.startSlot_inst? _ p hsl, State.startSlot_mem]
  refine ⟨_, rfl, ?_, rfl, ?_, ?_, fun hm b hb => ?_, ?_⟩
  · refine Eq.trans ?_ ((Inst.settleEdge_iid _).trans (Inst.writeG_iid k.inst k.dst (k.value.getD 0)))
    cases k.cur <;> rfl
  · cases k.cur <;> rfl
  · cases k.cur <;> rfl
  · have hout := State.siloControl_out (s := u) (by rw [State.memOk, hum]; exact hm) (by rw [hat]; exact hb)
    rw [hum] at hout
    exact hout
  · rw [State.lc, State.startSlot_ctx, ← State.lc]
    change ((u.siloControl c lc).lc c lc).conts.get? n = none
    rw [State.siloControl_lc]
    exact hdel

/-- The chosen wake brings its continuation back. -/
theorem exec_dispatch_wake {s : State} {p sl c lc age n : Nat} {e : QEntry} {k : Cont} (hsl : (s.core p).freeSlot = some sl)
    (hnone : s.waitingReplies p = []) (hc : s.choose p = some ((c, lc, e), age)) (he : e.item = .wake n)
    (hk : (s.lc c lc).conts.get? n = some k) (hemit : k.emit = none) :
    ∃ t i, exec (.dispatch p) s = .next t ∧ t.inst? p sl = some i ∧ i.iid = k.inst.iid ∧ i.waitOn = none
      ∧ i.pc = (k.inst.writeG k.dst (k.value.getD 0)).settleEdge.pc ∧ i.g = (k.inst.writeG k.dst (k.value.getD 0)).settleEdge.g
      ∧ (s.memOk → ∀ b, ¬ (s.siloAt c lc ≤ b ∧ b < s.siloAt c lc + 4096) →
          Memory.readByte t.mem b = Memory.readByte s.mem b)
      ∧ (t.lc c lc).conts.get? n = none := by
  rw [exec_dispatch_entry hsl hnone hc, State.startEntry]
  dsimp only
  rw [he]
  dsimp only
  generalize hu : State.setLc _ c lc _ = u
  have hmem : u.mem = s.mem := by rw [← hu]; rfl
  have hku : (u.lc c lc).conts.get? n = some k := by
    rw [← hu, State.lc_setLc]
    exact hk
  have hat : u.siloAt c lc = s.siloAt c lc := by
    rw [State.siloAt, State.siloAt, ← hu, State.lc_setLc]
    exact congrArg (fun d => d + lc * (s.lc c lc).siloZ)
      ((State.setLc_ctx (fun x => x.desc.siloba) (fun _ _ => rfl) _ c lc _ c).trans rfl)
  obtain ⟨i, hi, h1, h2, h3, h4, h5, h6⟩ := State.resume_wakes (p := p) (e := e) (Core.freeSlot_lt hsl) hku hemit
  rw [State.memOk, hat, hmem] at h5
  exact ⟨_, i, rfl, hi, h1, h2, h3, h4, h5, h6⟩

/-- Settles O48: one free slot takes a waiting reply, or else the entry that R212 chooses, as its own kind starts. -/
theorem dispatchStartsInstances : Obligations.DispatchStartsInstances := by
  intro s p sl hsl
  refine ⟨fun r v m st a h ho hh => exec_dispatch_reply hsl ho hh, fun c lc e age m a h hnone hc he hh => ?_,
    fun c lc e age n k hnone hc he hk hemit => ?_⟩
  · obtain ⟨t, i, ht, hi, hm, hb, ha⟩ := exec_dispatch_msg hsl hnone hc he hh
    obtain ⟨hg, hv, hd, hk, hm8, hpay⟩ := hb.registers
    exact ⟨t, i, ht, hi, hm, hb.ctx, hb.lcore, hb.hidx, hb.tag, hb.pc, hb.hbase, hb.hdr, hb.reply, hg, hv, hd, hk, hb.link, hb.q,
      hb.flags, hm8, hpay, ha⟩
  · obtain ⟨t, i, ht, hi, h1, h2, h3, h4, h5, h6⟩ := exec_dispatch_wake hsl hnone hc he hk hemit
    refine ⟨t, i, ht, hi, h1, h2, h3, h4, fun hedge => ?_, h5, h6⟩
    obtain ⟨hpc, hg⟩ := Inst.settleEdge_written hedge k.dst (k.value.getD 0)
    exact ⟨h3.trans hpc, hg i h4⟩

end Sys2Proof.Machine

/-! Arrivals at a core's units: the queues and the silo (10 R203 to R210). -/

namespace Sys2Proof.Machine

open Sys2Proof

/-- A byte after a write: the byte written in its range, and what it was beside it. -/
theorem Memory.readByte_write {m : List Host.Cell} (bs : List Byte) (h : Memory.wf m = true) (a x : Nat) :
    Memory.readByte (Memory.write m a bs) x = if a ≤ x ∧ x < a + bs.length then bs.getD (x - a) 0
      else Memory.readByte m x := by
  induction bs generalizing m a with
  | nil => rw [if_neg (by simp)]; rfl
  | cons b t ih =>
    have h' := Memory.wf_writeByte a b h
    rw [show Memory.write m a (b :: t) = Memory.write (Memory.writeByte m a b) (a + 1) t from rfl, ih h' (a + 1),
      Memory.readByte_writeByte a b x h, List.length_cons]
    rcases Nat.lt_trichotomy x a with hlt | rfl | hgt
    · rw [if_neg (by omega), if_neg (by omega), if_neg (by omega)]
    · rw [if_neg (by omega), if_pos rfl, if_pos (by omega), Nat.sub_self, List.getD_cons_zero]
    · obtain ⟨d, rfl⟩ := Nat.exists_eq_add_of_lt hgt
      rw [if_neg (show ¬ a + d + 1 = a by omega), show a + d + 1 - a = d + 1 by omega, List.getD_cons_succ,
        show a + d + 1 - (a + 1) = d by omega]
      by_cases hd : d < t.length
      · rw [if_pos (by omega), if_pos (by omega)]
      · rw [if_neg (by omega), if_neg (by omega)]

/-! A flight that is answered. -/

/-- A part of the state that has no flight and no number in it, an answer leaves. -/
theorem State.acceptAck_part {β : Type} (r : State → β) (hr : ∀ (s : State) n l, r { s with nextId := n, flights := l } = r s)
    {t : Track} (ht : ∀ y, t ≠ .initial y) (s : State) (f : Flight) (m : Msg) (src : Nat × Nat) (rstat stamp : Nat) :
    r (s.acceptAck f m t src rstat stamp) = r s := by
  unfold State.acceptAck
  extract_lets body inp
  clear_value body inp
  cases t with
  | initial c => exact absurd rfl (ht c)
  | none => rfl
  | record => rfl
  | _ => exact hr s _ _

/-! The state that a core's unit applies an arrival in: the flight is gone and its stamp is drawn. -/

/-- A core has drawn a stamp, for a flight that has left it or for what it has made. -/
structure State.Stamped (u s : State) (p : Nat) : Prop where
  ctxs : u.ctxs = s.ctxs
  mem : u.mem = s.mem
  poison : u.poison = s.poison
  core : u.core p = { s.core p with stamp := ((s.core p).stamp + 1) % 2 ^ 32 }

theorem State.newStamp_stamped {s v : State} (p : Nat) (hx : v.ctxs = s.ctxs) (hm : v.mem = s.mem) (hp : v.poison = s.poison)
    (hc : v.cores = s.cores) : (v.newStamp p).2.Stamped s p where
  ctxs := hx
  mem := hm
  poison := hp
  core := by
    have hcp : v.core p = s.core p := by rw [State.core, State.core, hc]
    rw [State.newStamp]
    dsimp only
    rw [State.core_setCore, if_pos rfl, hcp]

theorem State.Stamped.ctx {u s : State} {p : Nat} (h : u.Stamped s p) (c : Nat) : u.ctx c = s.ctx c := by
  rw [State.ctx, State.ctx, h.ctxs]

theorem State.Stamped.lc {u s : State} {p : Nat} (h : u.Stamped s p) (c l : Nat) : u.lc c l = s.lc c l :=
  State.lc_of_ctxs h.ctxs c l

theorem State.Stamped.handler? {u s : State} {p : Nat} (h : u.Stamped s p) (c gen hidx : Nat) :
    u.handler? c gen hidx = s.handler? c gen hidx := State.handler?_congr (by rw [h.ctx]) h.mem h.poison gen hidx

theorem State.Stamped.room {u s : State} {p c lc pr : Nat} (h : u.Stamped s p) (hr : s.Room c lc pr) : u.Room c lc pr := by
  obtain ⟨h1, h2, h3, h4⟩ := hr
  exact ⟨by rw [h.ctx]; exact h1, by rw [h.lc]; exact h2, by rw [h.lc]; exact h3, by rw [h.lc]; exact h4⟩

/-! Queues. -/

/-- With room in the queue an entry stands last in it. -/
theorem State.enqueue_room {s : State} {c lc : Nat} {e : QEntry} (h : s.Room c lc e.prio) :
    s.enqueue c lc e = s.setLc c lc { s.lc c lc with
      queues := (s.lc c lc).queues.put e.prio ((s.lc c lc).queue e.prio ++ [e]) } := by
  obtain ⟨hruns, hfree, hlist, hres⟩ := h
  unfold State.enqueue
  dsimp only
  rw [if_pos]
  simp [hruns, hfree, hlist, hres]

theorem State.enqueue_queue {s : State} {c lc : Nat} {e : QEntry} (h : s.Room c lc e.prio) :
    (s.enqueue c lc e).mem = s.mem ∧ (s.enqueue c lc e).cores = s.cores
      ∧ ((s.enqueue c lc e).lc c lc).queue e.prio = (s.lc c lc).queue e.prio ++ [e] := by
  rw [State.enqueue_room h]
  refine ⟨rfl, rfl, ?_⟩
  rw [State.lc_setLc, CtxCore.queue, Tab.get_put, if_pos rfl]

/-- Without room, while the silo has records, an entry goes to the tail of its silo list. -/
theorem State.enqueue_spills {s : State} {c lc : Nat} {e : QEntry}
    (hfull : (s.lc c lc).depth e.prio ≤ ((s.lc c lc).queue e.prio).length + Tab.get 0 (s.lc c lc).held e.prio
      ∨ (s.lc c lc).siloOf e.prio ≠ [])
    (hpool : (s.lc c lc).poolUsed < (s.lc c lc).poolMax) (hover : s.overflowed c lc = false) :
    s.enqueue c lc e = (s.spill c lc e).signal 4 (quadOf (s.lc c lc).pos) := by
  unfold State.enqueue
  dsimp only
  rw [if_neg, if_pos (by simp [hpool, hover])]
  rcases hfull with hfull | hfull
  · simp [Nat.not_lt.2 hfull]
  · simp [hfull]

/-! The silo's records. -/

/-- A record of the pool stands past its silo's control block. -/
theorem State.poolAt_past (s : State) (c lc n : Nat) : s.siloAt c lc + 4096 ≤ s.poolAt c lc n := by
  unfold State.poolAt
  omega

/-- A write past a silo's control block, and then the block: what was written stands, and no byte beside the two changed. -/
theorem State.siloControl_written {s u : State} {c lc pa : Nat} {bs : List Byte} (hm : s.memOk)
    (hu : u.mem = Memory.write s.mem pa bs) (hat : u.siloAt c lc = s.siloAt c lc) (hpast : s.siloAt c lc + 4096 ≤ pa) :
    (∀ k < bs.length, Memory.readByte (u.siloControl c lc).mem (pa + k) = bs.getD k 0)
      ∧ s.keepsBut (u.siloControl c lc) c lc pa bs.length := by
  have hum : u.memOk := by
    rw [State.memOk, hu]
    exact Memory.wf_write pa bs hm
  refine ⟨fun k hk => ?_, fun b hb hs => ?_⟩
  · rw [State.siloControl_out hum (by rw [hat]; omega), hu]
    rw [Memory.readByte_write bs hm, if_pos (by omega), Nat.add_sub_cancel_left]
  · rw [State.siloControl_out hum (by rw [hat]; exact hs), hu]
    exact Memory.readByte_write_out bs pa hm (by omega)


/-- A silo stands where the context's area and the core's share of it put it. -/
theorem State.siloAt_setLc {s : State} {c lc : Nat} {l : CtxCore} (h : l.dcfg = (s.lc c lc).dcfg) :
    (s.setLc c lc l).siloAt c lc = s.siloAt c lc := by
  rw [State.siloAt, State.siloAt, State.lc_setLc, CtxCore.siloZ, h]
  exact congrArg (fun d => d + lc * (s.lc c lc).siloZ) (State.setLc_ctx (fun x => x.desc.siloba) (fun _ _ => rfl) s c lc _ c)

/-- Spilling an entry changes nothing of a context but its cores and its monitor entries. -/
theorem State.spill_ctx {β : Type} (r : Ctx → β) (hr : ∀ c v w, r { c with saved := v, watchers := w } = r c)
    (hl : ∀ c l, r { c with lcs := l } = r c) (s : State) (c lc : Nat) (e : QEntry) (k : Nat) :
    r ((s.spill c lc e).ctx k) = r (s.ctx k) := by
  have hw : ∀ (u : State) a, r ((u.writeRecord a e).ctx k) = r (u.ctx k) := fun u a => by
    unfold State.writeRecord
    split
    · exact State.ownerWrite_ctx r hr ..
    · exact State.ownerWrite_ctx r hr ..
    · exact (State.ownerWrite_ctx r hr ..).trans rfl
  unfold State.spill
  exact (State.ownerWrite_ctx r hr ..).trans ((hw _ _).trans (State.setLc_ctx r hl ..))

/-- A message's record in the silo: its list holds it last, its bytes stand in its record, and no byte changed beside the
record and the control block. -/
theorem State.spill_msg {s : State} {c lc : Nat} {e : QEntry} {m : Msg} (hm : s.memOk) (he : e.item = .msg m) :
    ((s.spill c lc e).lc c lc).siloOf e.prio
        = (s.lc c lc).siloOf e.prio ++ [{ e with place := some (s.lc c lc).freeRec }]
      ∧ (∀ k < (msgRecord m e.stamp).length, Memory.readByte (s.spill c lc e).mem (s.poolAt c lc (s.lc c lc).freeRec + k)
          = (msgRecord m e.stamp).getD k 0)
      ∧ s.keepsBut (s.spill c lc e) c lc (s.poolAt c lc (s.lc c lc).freeRec) (msgRecord m e.stamp).length := by
  unfold State.spill State.writeRecord
  dsimp only
  rw [he]
  dsimp only
  generalize hu : State.setLc s c lc _ = u
  have hlc : (u.lc c lc).siloOf e.prio
      = (s.lc c lc).siloOf e.prio ++ [{ e with item := .msg m, place := some (s.lc c lc).freeRec }] := by
    rw [← hu, State.lc_setLc, CtxCore.siloOf, Tab.get_put, if_pos rfl]
  have hat : u.siloAt c lc = s.siloAt c lc := by
    rw [← hu]
    exact State.siloAt_setLc rfl
  have hmem : u.mem = s.mem := by rw [← hu]; rfl
  refine ⟨by rw [State.siloControl_lc, State.ownerWrite_lc, hlc], ?_⟩
  exact State.siloControl_written hm (by rw [State.ownerWrite_mem, hmem]) (by rw [State.ownerWrite_siloAt, hat])
    (State.poolAt_past ..)

/-! Messages at their cores. -/

/-- A message for a core's queues is taken by the core's arrival unit. -/
theorem exec_arrivalAccept {s : State} {id p c lc : Nat} {f : Flight} {m : Msg} {tr : Track} (hf : s.flight? id = some f)
    (hrec : s.receiver c p = some lc) (hp : (s.ctx c).paused = false) (hfirst : s.firstArrival f = true)
    (hat : f.atCore = some (p, m, tr)) (hc : m.hdr.ctx.toNat = c) (hkind : m.hdr.kind ≠ 1) (hs : s.toSheaf m = false) :
    exec (.arrivalAccept id) s = .next (s.acceptAt f p m tr) := by
  rw [show exec (.arrivalAccept id) s = execArrivalAccept id s from rfl, execArrivalAccept, hf]
  simp only [Option.bind_some, hat, Option.map_some, hkind, hs, hfirst, Bool.false_eq_true, or_self, if_false, Bool.not_true]
  unfold State.takeMsg
  dsimp only
  rw [hc, hrec]
  dsimp only
  rw [if_neg (fun h => by rw [hp] at h; exact Bool.false_ne_true h.2)]

/-- An unscaled message of the kinds that start handlers is taken in with the core's next stamp, and answered. -/
theorem State.acceptAt_taken {s : State} {p c lc : Nat} {f : Flight} {m : Msg} {tr : Track} (hrec : s.receiver c p = some lc)
    (hc : m.hdr.ctx.toNat = c) (hkind : m.hdr.kind ≠ 2) (hpeer : ∀ x y z, tr ≠ .peer x y z) (hscale : m.scale = none) :
    ∃ (u : State) (why : Cause), u.Stamped s p ∧ s.acceptAt f p m tr = (u.takeIn c p lc m (s.core p).stamp (tr == .record) true why).acceptAck f m tr
      (xyOfCore p) 0 (s.core p).stamp := by
  refine ⟨((s.dropFlight f.id).newStamp p).2, causeOf f m tr (s.core p).stamp, State.newStamp_stamped p rfl rfl rfl rfl, ?_⟩
  unfold State.acceptAt
  dsimp only
  have hrec' : (s.dropFlight f.id).receiver c p = some lc := hrec
  rw [hc, hrec']
  dsimp only
  rw [if_neg hkind, State.pairScale, hscale]
  dsimp only
  cases tr with
  | peer x y z => exact absurd rfl (hpeer x y z)
  | _ => rfl

/-- A message with a handler of this context is joined or queued, and then looked at by the trace filter. -/
theorem State.takeIn_eq {s : State} {c p lc st a : Nat} {m : Msg} {h : HHdr} {record : Bool} {why : Cause}
    (hh : s.handler? c m.hdr.gen.toNat m.hdr.hidx.toNat = some (a, h)) (hrcl : h.rcl = false) :
    s.takeIn c p lc m st record true why = (if h.join = 0 then
        s.enqueue c lc ⟨.msg m, m.hdr.prio.toNat, st, why, record, true, none⟩
      else s.joinArrival c lc m h.join st).traceMatch c p lc m.hdr := by
  unfold State.takeIn State.arrivalHandler
  rw [Bool.true_or, if_pos rfl, hh]
  dsimp only
  rw [hrcl]
  rfl

theorem State.traceMatch_none {s : State} {c : Nat} (h : (s.ctx c).trace = none) (p lc : Nat) (x : Hdr) :
    s.traceMatch c p lc x = s := by
  rw [State.traceMatch, h]

/-- A message whose handler joins nothing is no sheaf's. -/
theorem State.toSheaf_of_join_zero {s : State} {m : Msg} {a : Nat} {h : HHdr}
    (hh : s.handler? m.hdr.ctx.toNat m.hdr.gen.toNat m.hdr.hidx.toNat = some (a, h)) (hj : h.join = 0) : s.toSheaf m = false := by
  rw [State.toSheaf, hh]
  simp [hj]

/-- A message that starts a handler enters its queue. -/
theorem arrival_queued {s : State} {id p c lc pr a : Nat} {f : Flight} {m : Msg} {tr : Track} {h : HHdr}
    (hf : s.flight? id = some f) (hrec : s.receiver c p = some lc) (hp : (s.ctx c).paused = false)
    (hfirst : s.firstArrival f = true) (hat : f.atCore = some (p, m, tr)) (hc : m.hdr.ctx.toNat = c)
    (hkind : m.hdr.kind = 0 ∨ m.hdr.kind = 3) (hpeer : ∀ x y z, tr ≠ .peer x y z) (hinit : ∀ y, tr ≠ .initial y)
    (hscale : m.scale = none) (hh : s.handler? c m.hdr.gen.toNat m.hdr.hidx.toNat = some (a, h)) (hrcl : h.rcl = false)
    (hj : h.join = 0) (htrace : (s.ctx c).trace = none) (hpr : pr = m.hdr.prio.toNat) (hroom : s.Room c lc pr) :
    ∃ t why, exec (.arrivalAccept id) s = .next t ∧ t.mem = s.mem
      ∧ (t.lc c lc).queue pr = (s.lc c lc).queue pr ++ [⟨.msg m, pr, (s.core p).stamp, why, tr == .record, true, none⟩]
      ∧ (t.core p).stamp = ((s.core p).stamp + 1) % 2 ^ 32 := by
  subst hpr
  have hs : s.toSheaf m = false := State.toSheaf_of_join_zero (by rw [hc]; exact hh) hj
  have h1 : m.hdr.kind ≠ 1 := by rcases hkind with h | h <;> rw [h] <;> decide
  have h2 : m.hdr.kind ≠ 2 := by rcases hkind with h | h <;> rw [h] <;> decide
  obtain ⟨u, why, hu, heq⟩ := State.acceptAt_taken (f := f) hrec hc h2 hpeer hscale
  have hur := hu.room hroom
  obtain ⟨hmem, hcores, hqueue⟩ := State.enqueue_queue (e := ⟨.msg m, m.hdr.prio.toNat, (s.core p).stamp, why, tr == .record, true, none⟩) hur
  rw [exec_arrivalAccept hf hrec hp hfirst hat hc h1 hs, heq, State.takeIn_eq ((hu.handler? ..).trans hh) hrcl, if_pos hj,
    State.traceMatch_none]
  · refine ⟨_, why, rfl, ?_, ?_, ?_⟩
    · rw [State.acceptAck_mem, hmem, hu.mem]
    · rw [State.acceptAck_part (fun t => (t.lc c lc).queue m.hdr.prio.toNat) (fun _ _ _ => rfl) hinit, hqueue, hu.lc]
    · rw [State.acceptAck_part (fun t => (t.core p).stamp) (fun _ _ _ => rfl) hinit, State.core, hcores, ← State.core, hu.core]
  · rw [State.enqueue_room hur, State.setLc_ctx Ctx.trace (fun _ _ => rfl), hu.ctx, htrace]

/-- Without room it goes to the tail of its silo list. -/
theorem arrival_spilled {s : State} {id p c lc pr a : Nat} {f : Flight} {m : Msg} {tr : Track} {h : HHdr}
    (hf : s.flight? id = some f) (hrec : s.receiver c p = some lc) (hp : (s.ctx c).paused = false)
    (hfirst : s.firstArrival f = true) (hat : f.atCore = some (p, m, tr)) (hc : m.hdr.ctx.toNat = c)
    (hkind : m.hdr.kind = 0 ∨ m.hdr.kind = 3) (hpeer : ∀ x y z, tr ≠ .peer x y z) (hinit : ∀ y, tr ≠ .initial y)
    (hscale : m.scale = none) (hh : s.handler? c m.hdr.gen.toNat m.hdr.hidx.toNat = some (a, h)) (hrcl : h.rcl = false)
    (hj : h.join = 0) (htrace : (s.ctx c).trace = none) (hpr : pr = m.hdr.prio.toNat)
    (hfull : (s.lc c lc).depth pr ≤ ((s.lc c lc).queue pr).length + Tab.get 0 (s.lc c lc).held pr
      ∨ (s.lc c lc).siloOf pr ≠ []) (hpool : (s.lc c lc).poolUsed < (s.lc c lc).poolMax) (hover : s.overflowed c lc = false)
    (hm : s.memOk) :
    ∃ t why pa bs, exec (.arrivalAccept id) s = .next t
      ∧ (t.lc c lc).siloOf pr = (s.lc c lc).siloOf pr
          ++ [⟨.msg m, pr, (s.core p).stamp, why, tr == .record, true, some (s.lc c lc).freeRec⟩]
      ∧ pa = s.poolAt c lc (s.lc c lc).freeRec ∧ bs = msgRecord m (s.core p).stamp
      ∧ (∀ k < bs.length, Memory.readByte t.mem (pa + k) = bs.getD k 0) ∧ s.keepsBut t c lc pa bs.length := by
  subst hpr
  have hs : s.toSheaf m = false := State.toSheaf_of_join_zero (by rw [hc]; exact hh) hj
  have h1 : m.hdr.kind ≠ 1 := by rcases hkind with h | h <;> rw [h] <;> decide
  have h2 : m.hdr.kind ≠ 2 := by rcases hkind with h | h <;> rw [h] <;> decide
  obtain ⟨u, why, hu, heq⟩ := State.acceptAt_taken (f := f) hrec hc h2 hpeer hscale
  have hsame : u.overflowed c lc = false := by rw [State.overflowed, hu.lc, hu.ctx]; exact hover
  have hspill := State.enqueue_spills (e := ⟨.msg m, m.hdr.prio.toNat, (s.core p).stamp, why, tr == .record, true, none⟩)
    (by rw [hu.lc]; exact hfull) (by rw [hu.lc]; exact hpool) hsame
  obtain ⟨hsilo, hbytes, hkeeps⟩ := State.spill_msg (s := u) (c := c) (lc := lc)
    (e := ⟨.msg m, m.hdr.prio.toNat, (s.core p).stamp, why, tr == .record, true, none⟩) (by rw [State.memOk, hu.mem]; exact hm) rfl
  have hpool : u.poolAt c lc (u.lc c lc).freeRec = s.poolAt c lc (s.lc c lc).freeRec := by
    rw [State.poolAt, State.poolAt, State.siloAt_of_ctxs hu.ctxs, hu.lc]
  rw [hpool] at hbytes hkeeps
  have htr : ((u.spill c lc ⟨.msg m, m.hdr.prio.toNat, (s.core p).stamp, why, tr == .record, true, none⟩).ctx c).trace = none := by
    rw [State.spill_ctx Ctx.trace (fun _ _ _ => rfl) (fun _ _ => rfl), hu.ctx, htrace]
  generalize u.spill c lc _ = v at hspill hsilo hbytes hkeeps htr
  rw [exec_arrivalAccept hf hrec hp hfirst hat hc h1 hs, heq, State.takeIn_eq ((hu.handler? ..).trans hh) hrcl, if_pos hj,
    State.traceMatch_none, hspill]
  · refine ⟨_, why, _, _, rfl, ?_, rfl, rfl, fun k hk => ?_, fun b hb hc => ?_⟩
    · rw [State.acceptAck_part (fun t => (t.lc c lc).siloOf m.hdr.prio.toNat) (fun _ _ _ => rfl) hinit, ← hu.lc]
      exact hsilo
    · rw [State.acceptAck_mem]
      exact hbytes k hk
    · rw [State.acceptAck_mem]
      have hk := hkeeps b hb (by rw [State.siloAt_of_ctxs hu.ctxs]; exact hc)
      rw [hu.mem] at hk
      exact hk
  · rw [hspill]
    exact htr

end Sys2Proof.Machine

/-! SETTLED. Posts, replies, weirs, sheaves and what a core has made (10 R203 to R220). -/

namespace Sys2Proof.Machine

open Sys2Proof

/-! Posts. -/

/-- An addition of a running context is an event with the core's next stamp. -/
theorem State.counterEv_add {s : State} {p c n k lc : Nat} {src : Nat × Nat} (hlc : (s.ctx c).lcoreAt p = some lc)
    (hp : (s.ctx c).paused = false) : (s.counterEv p c n (.add k) src).mem = s.mem
      ∧ ((s.counterEv p c n (.add k) src).core p).ctrEvents
        = (s.core p).ctrEvents ++ [⟨(s.core p).stamp, c, n, .add k, src⟩] := by
  unfold State.counterEv
  simp only [hlc, hp, Bool.false_eq_true, if_false, State.newStamp, State.core_setCore, if_true]
  exact ⟨rfl, trivial⟩

theorem State.receiver_lcoreAt {s : State} {c p lc : Nat} (h : s.receiver c p = some lc) : (s.ctx c).lcoreAt p = some lc := by
  unfold State.receiver at h
  dsimp only at h
  split at h
  · cases h
  · cases h
  · exact h

/-- A post to a counter of the core's share is one of the core's counter events. -/
theorem arrival_posts {s : State} {id p c lc : Nat} {f : Flight} {m : Msg} {tr : Track} (hf : s.flight? id = some f)
    (hrec : s.receiver c p = some lc) (hp : (s.ctx c).paused = false) (hfirst : s.firstArrival f = true)
    (hat : f.atCore = some (p, m, tr)) (hc : m.hdr.ctx.toNat = c) (hkind : m.hdr.kind = 2) (hinit : ∀ y, tr ≠ .initial y)
    (hn : m.hdr.ctrn.toNat < (s.lc c lc).ctrn) :
    ∃ t, exec (.arrivalAccept id) s = .next t ∧ t.mem = s.mem
      ∧ (t.core p).ctrEvents = (s.core p).ctrEvents ++ [⟨(s.core p).stamp, c, m.hdr.ctrn.toNat, .add m.hdr.ccnt.toNat,
          (m.hdr.schip.toNat, m.hdr.score.toNat)⟩] := by
  have hs : s.toSheaf m = false := by rw [State.toSheaf, hkind]; rfl
  rw [exec_arrivalAccept hf hrec hp hfirst hat hc (by rw [hkind]; decide) hs]
  unfold State.acceptAt
  dsimp only
  rw [hc, show (s.dropFlight f.id).receiver c p = some lc from hrec]
  dsimp only
  rw [if_pos hkind, if_pos (show m.hdr.ctrn.toNat < ((s.dropFlight f.id).lc c lc).ctrn from hn)]
  generalize hu : State.acceptAck _ _ _ _ _ _ _ = u
  have hctx : u.ctx c = s.ctx c := by
    rw [← hu, State.acceptAck_part (fun t => t.ctx c) (fun _ _ _ => rfl) hinit]
    rfl
  have hcore : u.core p = s.core p := by
    rw [← hu, State.acceptAck_part (fun t => t.core p) (fun _ _ _ => rfl) hinit]
    rfl
  have hmem : u.mem = s.mem := by rw [← hu, State.acceptAck_mem]; rfl
  obtain ⟨h1, h2⟩ := State.counterEv_add (s := u) (p := p) (n := m.hdr.ctrn.toNat) (k := m.hdr.ccnt.toNat)
    (src := (m.hdr.schip.toNat, m.hdr.score.toNat)) (by rw [hctx]; exact State.receiver_lcoreAt hrec) (by rw [hctx]; exact hp)
  exact ⟨_, rfl, h1.trans hmem, by rw [h2, hcore]⟩

/-! Replies. -/

/-- What the launch of a context sends leaves every core as it is. -/
theorem State.inject_core (s : State) (c : Nat) (bs : List Byte) (p : Nat) : (s.inject c bs).core p = s.core p := by
  unfold State.inject
  dsimp only
  split
  · unfold State.count
    split <;> rfl
  · exact State.deliver_part (fun t => t.core p) (fun _ _ _ => rfl) ..

theorem State.acceptAck_core (s : State) (f : Flight) (m : Msg) (t : Track) (src : Nat × Nat) (rstat stamp p : Nat) :
    (s.acceptAck f m t src rstat stamp).core p = s.core p := by
  by_cases h : ∃ y, t = .initial y
  · obtain ⟨y, rfl⟩ := h
    change (State.launchedOne s y).core p = _
    unfold State.launchedOne State.becomeRunning
    dsimp only
    split
    · exact (State.foldl_part (fun t => t.core p) _ (fun u e => State.inject_core u ..) _ _).trans rfl
    · rfl
  · exact State.acceptAck_part (fun t => t.core p) (fun _ _ _ => rfl) (fun y hy => h ⟨y, hy⟩) ..

/-- A reply enters its open reservation with the core's next stamp. -/
theorem reply_enters {s : State} {id p c lc : Nat} {f : Flight} {m : Msg} {tr : Track} {v : Resv} (hf : s.flight? id = some f)
    (hrec : s.receiver c p = some lc) (hp : (s.ctx c).paused = false) (hfirst : s.firstReply f = true)
    (hat : f.atCore = some (p, m, tr)) (hc : m.hdr.ctx.toNat = c) (hkind : m.hdr.kind = 1) (hscale : m.scale = none)
    (htag : bitsOf m.hdr.tag.toNat 6 6 = 1) (hv : (s.core p).resv.get? (m.hdr.tag.toNat % 64) = some v) (hvc : v.ctx = c)
    (hvr : v.reply = none) :
    ∃ t, exec (.replyDelivery id) s = .next t ∧ t.mem = s.mem
      ∧ (t.core p).resv.get? (m.hdr.tag.toNat % 64) = some { v with reply := some (m, (s.core p).stamp) } := by
  rw [show exec (.replyDelivery id) s = execReplyDelivery id s from rfl, execReplyDelivery, hf]
  simp only [Option.bind_some, hat, Option.map_some, hkind, hfirst, ne_eq, not_true_eq_false, Bool.true_eq_false, or_self, if_false,
    hc, hrec, hp, Bool.false_eq_true]
  refine ⟨_, rfl, by simp, ?_⟩
  rw [State.acceptAck_core, State.deliverReply, State.pairScale, hscale]
  have hstamp := State.newStamp_stamped (s := s) (v := s.dropFlight id) p rfl rfl rfl rfl
  generalize hu : ((s.dropFlight id).newStamp p).2 = u at hstamp
  have hst : ((s.dropFlight id).newStamp p).1 = (s.core p).stamp := rfl
  dsimp only
  rw [hst, hu]
  simp only [hstamp.core, hv, htag, hvc, hc, hvr, Option.isNone_none, and_self, if_true]
  rw [State.core_setCore, if_pos rfl]
  exact Tab.get?_put _ _ _

/-! Weirs. -/

/-- The weir takes an insertion; the note that follows changes no byte and no weir. -/
theorem State.weirTake_inserts (s : State) (c p lc : Nat) (k : BitVec 32) (x : Nat) (note : Option Nat) :
    (s.weirTake c p lc k x note).mem = s.mem ∧ ((s.weirTake c p lc k x note).lc c lc).weir
      = (s.lc c lc).weir.insert (bitsOf (s.lc c lc).dcfg.toNat 15 12 + 1) k x := by
  unfold State.weirTake
  dsimp only
  generalize hu : State.setLc s c lc _ = u
  have hmem : u.mem = s.mem := by rw [← hu]; rfl
  have hweir : (u.lc c lc).weir = (s.lc c lc).weir.insert (bitsOf (s.lc c lc).dcfg.toNat 15 12 + 1) k x := by
    rw [← hu, State.lc_setLc]
  split
  · exact ⟨hmem, hweir⟩
  · split
    · exact ⟨hmem, hweir⟩
    · exact ⟨hmem, hweir⟩

/-- A weir insertion enters the weir of its core. -/
theorem weir_enters {s : State} {id p c lc x chip l : Nat} {f : Flight} {k : BitVec 32} {note : Option Nat}
    (hf : s.flight? id = some f) (hrec : s.receiver c p = some lc) (hp : (s.ctx c).paused = false)
    (hfirst : s.firstArrival f = true) (hbody : f.body = .wput k x note chip l) (hgoal : f.goal = .core p) (hc : f.who.ctx = c) :
    ∃ t, exec (.weirInsert id) s = .next t ∧ t.mem = s.mem
      ∧ (t.lc c lc).weir = (s.lc c lc).weir.insert (bitsOf (s.lc c lc).dcfg.toNat 15 12 + 1) k x := by
  rw [show exec (.weirInsert id) s = execWeirInsert id s from rfl, execWeirInsert, hf]
  dsimp only
  rw [hbody, hgoal]
  simp only [hfirst, Bool.not_true, Bool.false_eq_true, if_false, hc, hrec, hp]
  exact ⟨_, rfl, State.weirTake_inserts (s.dropFlight id) c p lc k x note⟩

/-! Sheaves. -/

/-- The sheaf that an arrival opens, with that arrival in it. -/
theorem Sheaf.add_opened (m : Msg) (arity st : Nat) :
    (((Sheaf.opened m.hdr arity).add m st).1).keyOf m.hdr = true ∧ ((Sheaf.opened m.hdr arity).add m st).1.arity = arity
      ∧ ((Sheaf.opened m.hdr arity).add m st).1.count = 1
      ∧ ∀ j, j = m.hdr.jslot.toNat → j < 4 → ((Sheaf.opened m.hdr arity).add m st).1.opnds[j]?
        = some (some (msgFirstWord m, m.hdr.schip.toNat, m.hdr.score.toNat, m.hdr)) := by
  refine ⟨by simp [Sheaf.keyOf, Sheaf.add, Sheaf.opened], rfl, rfl, fun j hj h4 => ?_⟩
  unfold Sheaf.add Sheaf.opened
  dsimp only
  rw [← hj]
  interval_cases j <;> rfl

/-- An arrival that does not complete its sheaf is counted in it; one that does takes it out, and the firing is made. -/
theorem State.applySheaf_eq {s : State} {c lc st : Nat} {m : Msg} {x x' : Sheaf}
    (hx : (s.lc c lc).sheaves.find? (fun x => x.keyOf m.hdr) = some x) (hx' : x' = (x.add m st).1) :
    (x.count + 1 < x.arity → (s.applySheaf c lc m st).mem = s.mem ∧ (s.applySheaf c lc m st).cores = s.cores
        ∧ (s.applySheaf c lc m st).lc c lc = { s.lc c lc with
          sheaves := (s.lc c lc).sheaves.map (fun y => if y.keyOf m.hdr then x' else y) })
      ∧ (x.arity ≤ x.count + 1 → (s.applySheaf c lc m st).mem = s.mem
        ∧ ((s.applySheaf c lc m st).core (s.lc c lc).pos).made
          = insertMade ⟨13, c, .sheaf lc x'⟩ (s.core (s.lc c lc).pos).made
        ∧ (s.applySheaf c lc m st).lc c lc = { s.lc c lc with
          sheaves := (s.lc c lc).sheaves.filter (fun y => !y.keyOf m.hdr) }) := by
  subst hx'
  have hcount : ∀ (b : Bool), (if b then s.count (dieOf (s.lc c lc).pos) c 0x101 1 else s).mem = s.mem
      ∧ (if b then s.count (dieOf (s.lc c lc).pos) c 0x101 1 else s).cores = s.cores
      ∧ (if b then s.count (dieOf (s.lc c lc).pos) c 0x101 1 else s).ctxs = s.ctxs := fun b => by
    cases b <;> exact ⟨rfl, rfl, rfl⟩
  unfold State.applySheaf
  dsimp only
  rw [hx]
  dsimp only
  obtain ⟨hmem, hcores, hctxs⟩ := hcount (x.add m st).2
  generalize (if (x.add m st).2 = true then s.count (dieOf (s.lc c lc).pos) c 0x101 1 else s) = u at hmem hcores hctxs
  refine ⟨fun hlow => ?_, fun hdone => ?_⟩
  · rw [if_neg (show ¬ (x.add m st).1.arity ≤ (x.add m st).1.count from Nat.not_le.2 hlow)]
    exact ⟨hmem, hcores, State.lc_setLc ..⟩
  · rw [if_pos (show (x.add m st).1.arity ≤ (x.add m st).1.count from hdone)]
    generalize hv : State.setLc u c lc _ = v
    have hlc : v.lc c lc = { s.lc c lc with sheaves := (s.lc c lc).sheaves.filter (fun y => !y.keyOf m.hdr) } := by
      rw [← hv, State.lc_setLc]
    have hvm : v.mem = s.mem := by rw [← hv]; exact hmem
    have hvc : v.cores = s.cores := by rw [← hv]; exact hcores
    refine ⟨hvm, ?_, hlc⟩
    rw [State.fireSheaf, State.make, hlc]
    dsimp only
    rw [State.core_setCore, if_pos rfl, State.core, hvc]
    rfl


/-- A sheaf's arrival changes nothing of a context but its cores. -/
theorem State.applySheaf_ctx {β : Type} (r : Ctx → β) (hl : ∀ c l, r { c with lcs := l } = r c) (s : State) (c lc : Nat) (m : Msg)
    (st k : Nat) : r ((s.applySheaf c lc m st).ctx k) = r (s.ctx k) := by
  unfold State.applySheaf
  dsimp only
  split
  · rfl
  · next x _ =>
    have hcount : (if (x.add m st).2 then s.count (dieOf (s.lc c lc).pos) c 0x101 1 else s).ctx k = s.ctx k := by
      split <;> rfl
    rw [← hcount]
    split
    · exact (State.setLc_ctx r hl ..)
    · exact (State.setLc_ctx r hl ..)

/-- A message that joins a sheaf is taken by the sheaf unit. -/
theorem exec_sheafArrival {s : State} {id p c lc a : Nat} {f : Flight} {m : Msg} {tr : Track} {h : HHdr} (hf : s.flight? id = some f)
    (hrec : s.receiver c p = some lc) (hp : (s.ctx c).paused = false) (hfirst : s.firstArrival f = true)
    (hat : f.atCore = some (p, m, tr)) (hc : m.hdr.ctx.toNat = c) (hkind : m.hdr.kind = 0 ∨ m.hdr.kind = 3)
    (hh : s.handler? c m.hdr.gen.toNat m.hdr.hidx.toNat = some (a, h)) (hrcl : h.rcl = false) (hj : 2 ≤ h.join) :
    exec (.sheafArrival id) s = .next (s.acceptAt f p m tr) := by
  have hs : s.toSheaf m = true := by
    rw [State.toSheaf, hc, hh]
    have hj0 : h.join ≠ 0 := by omega
    rcases hkind with hk | hk <;> simp [hk, hrcl, hj0]
  rw [show exec (.sheafArrival id) s = execSheafArrival id s from rfl, execSheafArrival, hf]
  simp only [Option.bind_some, hat, Option.map_some, hs, hfirst, Bool.not_true, Bool.false_eq_true, if_false]
  unfold State.takeMsg
  dsimp only
  rw [hc, hrec]
  dsimp only
  rw [if_neg (fun h => by rw [hp] at h; exact Bool.false_ne_true h.2)]

/-- What the sheaf unit does with it: a stamp, the sheaf's change, and the answer. -/
theorem sheafArrival_joins {s : State} {id p c lc a : Nat} {f : Flight} {m : Msg} {tr : Track} {h : HHdr} (hf : s.flight? id = some f)
    (hrec : s.receiver c p = some lc) (hp : (s.ctx c).paused = false) (hfirst : s.firstArrival f = true)
    (hat : f.atCore = some (p, m, tr)) (hc : m.hdr.ctx.toNat = c) (hkind : m.hdr.kind = 0 ∨ m.hdr.kind = 3)
    (hpeer : ∀ x y z, tr ≠ .peer x y z) (hinit : ∀ y, tr ≠ .initial y) (hscale : m.scale = none)
    (hh : s.handler? c m.hdr.gen.toNat m.hdr.hidx.toNat = some (a, h)) (hrcl : h.rcl = false) (hj : 2 ≤ h.join)
    (htrace : ∀ u : State, u.Stamped s p → ((u.joinArrival c lc m h.join (s.core p).stamp).ctx c).trace = none) :
    ∃ (u t : State), u.Stamped s p ∧ exec (.sheafArrival id) s = .next t
      ∧ t.mem = (u.joinArrival c lc m h.join (s.core p).stamp).mem
      ∧ t.core p = (u.joinArrival c lc m h.join (s.core p).stamp).core p
      ∧ t.lc c lc = (u.joinArrival c lc m h.join (s.core p).stamp).lc c lc := by
  have h2 : m.hdr.kind ≠ 2 := by rcases hkind with h | h <;> rw [h] <;> decide
  obtain ⟨u, why, hu, heq⟩ := State.acceptAt_taken (f := f) hrec hc h2 hpeer hscale
  rw [exec_sheafArrival hf hrec hp hfirst hat hc hkind hh hrcl hj, heq, State.takeIn_eq ((hu.handler? ..).trans hh) hrcl,
    if_neg (show ¬ h.join = 0 by omega), State.traceMatch_none (htrace u hu)]
  exact ⟨u, _, hu, rfl, State.acceptAck_mem .., State.acceptAck_part (fun t => t.core p) (fun _ _ _ => rfl) hinit ..,
    State.acceptAck_part (fun t => t.lc c lc) (fun _ _ _ => rfl) hinit ..⟩

/-- A running context's arrival for a sheaf: an open sheaf takes it, or one is opened for it, or it waits in the sheaf list. -/
theorem State.joinArrival_eq {s : State} {c lc arity st : Nat} {m : Msg} (hp : (s.ctx c).paused = false) :
    s.joinArrival c lc m arity st = if (s.lc c lc).sheaves.any (fun y => y.keyOf m.hdr) then s.applySheaf c lc m st
      else if (s.lc c lc).sheafList.isEmpty && s.mayOpen c lc then
        (s.setLc c lc { s.lc c lc with sheaves := (s.lc c lc).sheaves ++ [Sheaf.opened m.hdr arity] }).applySheaf c lc m st
      else s.spillSheaf c lc m st false := by
  unfold State.joinArrival
  dsimp only
  rw [if_neg (by rw [hp]; exact Bool.false_ne_true)]

/-- A new sheaf of more than one operand takes its first arrival and stays open. -/
theorem State.applySheaf_opened {s : State} {c lc arity st : Nat} {m : Msg} (hj : 2 ≤ arity)
    (hno : (s.lc c lc).sheaves.any (fun y => y.keyOf m.hdr) = false) :
    let t := (s.setLc c lc { s.lc c lc with
      sheaves := (s.lc c lc).sheaves ++ [Sheaf.opened m.hdr arity] }).applySheaf c lc m st
    t.mem = s.mem ∧ t.lc c lc = { s.lc c lc with
      sheaves := (s.lc c lc).sheaves ++ [((Sheaf.opened m.hdr arity).add m st).1] } := by
  intro t
  have hkey : (Sheaf.opened m.hdr arity).keyOf m.hdr = true := by simp [Sheaf.keyOf, Sheaf.opened]
  have hnone : ∀ y ∈ (s.lc c lc).sheaves, y.keyOf m.hdr = false := by simpa using hno
  have hfind : ((s.setLc c lc { s.lc c lc with
      sheaves := (s.lc c lc).sheaves ++ [Sheaf.opened m.hdr arity] }).lc c lc).sheaves.find? (fun x => x.keyOf m.hdr)
      = some (Sheaf.opened m.hdr arity) := by
    rw [State.lc_setLc]
    dsimp only
    rw [List.find?_append, List.find?_eq_none.2 (by simpa using hnone), Option.none_or, List.find?_singleton, if_pos hkey]
  obtain ⟨hmem, -, hlc⟩ := (State.applySheaf_eq (st := st) hfind rfl).1 (show 0 + 1 < arity from hj)
  refine ⟨hmem, hlc.trans ?_⟩
  rw [State.lc_setLc]
  dsimp only
  rw [List.map_append, List.map_singleton, if_pos hkey, List.map_congr_left (g := id) (fun y hy => by rw [hnone y hy]; rfl),
    List.map_id]


theorem State.siloControl_ctx {β : Type} (r : Ctx → β) (hr : ∀ c v w, r { c with saved := v, watchers := w } = r c) (s : State)
    (c lc k : Nat) : r ((s.siloControl c lc).ctx k) = r (s.ctx k) := (State.ownerWrite_ctx r hr ..).trans rfl

/-- An arrival's record in the sheaf list: the list holds it last, its bytes stand in its record, and no byte changed beside the
record and the control block. -/
theorem State.spillJoin_waits {s : State} {c lc st : Nat} {m : Msg} (hm : s.memOk) :
    (s.spillJoin c lc m st).lc c lc = { s.lc c lc with sheafList := (s.lc c lc).sheafList ++ [(m, st, (s.lc c lc).freeRec)] }
      ∧ (∀ k < (msgRecord m st).length, Memory.readByte (s.spillJoin c lc m st).mem (s.poolAt c lc (s.lc c lc).freeRec + k)
          = (msgRecord m st).getD k 0)
      ∧ s.keepsBut (s.spillJoin c lc m st) c lc (s.poolAt c lc (s.lc c lc).freeRec) (msgRecord m st).length := by
  unfold State.spillJoin
  dsimp only
  generalize hu : State.setLc s c lc _ = u
  have hat : u.siloAt c lc = s.siloAt c lc := by
    rw [← hu]
    exact State.siloAt_setLc rfl
  have hmem : u.mem = s.mem := by rw [← hu]; rfl
  obtain ⟨hbytes, hkeeps⟩ := State.siloControl_written (pa := s.poolAt c lc (s.lc c lc).freeRec) (bs := msgRecord m st)
    (u := u.ownerWrite (s.poolAt c lc (s.lc c lc).freeRec) (msgRecord m st)) hm (by rw [State.ownerWrite_mem, hmem])
    (by rw [State.ownerWrite_siloAt, hat]) (State.poolAt_past ..)
  refine ⟨?_, fun k hk => ?_, fun b hb hs => ?_⟩
  · rw [State.lc, State.signal_ctx, ← State.lc, State.siloControl_lc, State.ownerWrite_lc, ← hu, State.lc_setLc]
  · rw [State.signal_mem]
    exact hbytes k hk
  · rw [State.signal_mem]
    exact hkeeps b hb hs

/-- It changes nothing of a context but its cores and its monitor entries. -/
theorem State.spillJoin_ctx {β : Type} (r : Ctx → β) (hr : ∀ c v w, r { c with saved := v, watchers := w } = r c)
    (hl : ∀ c l, r { c with lcs := l } = r c) (s : State) (c lc : Nat) (m : Msg) (st k : Nat) :
    r ((s.spillJoin c lc m st).ctx k) = r (s.ctx k) := by
  unfold State.spillJoin
  dsimp only
  rw [State.signal_ctx, State.siloControl_ctx r hr, State.ownerWrite_ctx r hr, State.setLc_ctx r hl]

/-- With a record free in the pool an arrival that opens no sheaf waits in the sheaf list. -/
theorem State.spillSheaf_waits {s : State} {c lc st : Nat} {m : Msg} (hpool : (s.lc c lc).poolUsed < (s.lc c lc).poolMax)
    (hover : s.overflowed c lc = false) : s.spillSheaf c lc m st false = s.spillJoin c lc m st := by
  unfold State.spillSheaf
  dsimp only
  rw [if_pos (by simp [hpool, hover])]

theorem State.Stamped.mayOpen {u s : State} {p : Nat} (h : u.Stamped s p) (c lc : Nat) : u.mayOpen c lc = s.mayOpen c lc := by
  unfold State.mayOpen State.storeUsed
  rw [h.lc, h.ctxs]

/-! What a core has made. -/

/-- A context's sample has no part in its cores. -/
theorem Ctx.gleanFire_lcs (x : Ctx) (p hidx tag st : Nat) : (x.gleanFire p hidx tag st).lcs = x.lcs
    ∧ (x.gleanFire p hidx tag st).st = x.st := by
  unfold Ctx.gleanFire
  split
  · split_ifs <;> exact ⟨rfl, rfl⟩
  · exact ⟨rfl, rfl⟩

/-- A firing enters the queue of its leading message's priority with the core's next stamp. -/
theorem made_sheaf_queued {s : State} {c lc p cls : Nat} {x : Sheaf} (hroom : s.Room c lc x.leadHdr.prio.toNat)
    (hp : p = (s.lc c lc).pos) :
    (s.acceptMade p ⟨cls, c, .sheaf lc x⟩).mem = s.mem
      ∧ ((s.acceptMade p ⟨cls, c, .sheaf lc x⟩).lc c lc).queue x.leadHdr.prio.toNat = (s.lc c lc).queue x.leadHdr.prio.toNat
        ++ [⟨.sheaf x.leadHdr x.words x.note, x.leadHdr.prio.toNat, (s.core p).stamp,
            .sheaf x.note.1 x.note.2.1 x.note.2.2, false, true, none⟩] := by
  subst hp
  unfold State.acceptMade State.queueSheaf
  dsimp only
  have hstamp := State.newStamp_stamped (s := s) (v := s) (s.lc c lc).pos rfl rfl rfl rfl
  have hst : (s.newStamp (s.lc c lc).pos).1 = (s.core (s.lc c lc).pos).stamp := rfl
  generalize hu : (s.newStamp (s.lc c lc).pos).2 = u at hstamp
  rw [hst]
  generalize hv : State.setCtx u c _ = v
  obtain ⟨hlcs, hstc⟩ := Ctx.gleanFire_lcs (u.ctx c) (s.lc c lc).pos x.leadHdr.hidx.toNat x.leadHdr.tag.toNat (s.core (s.lc c lc).pos).stamp
  have hvc : v.ctx c = (u.ctx c).gleanFire (s.lc c lc).pos x.leadHdr.hidx.toNat x.leadHdr.tag.toNat (s.core (s.lc c lc).pos).stamp := by
    rw [← hv, State.ctx_setCtx, if_pos rfl]
  have hvlc : v.lc c lc = s.lc c lc := by rw [State.lc, hvc, Ctx.lc, hlcs, ← Ctx.lc, hstamp.ctx, ← State.lc]
  have hvr : v.Room c lc x.leadHdr.prio.toNat := by
    obtain ⟨h1, h2, h3, h4⟩ := hroom
    refine ⟨?_, by rw [hvlc]; exact h2, by rw [hvlc]; exact h3, by rw [hvlc]; exact h4⟩
    rw [Ctx.paused, hvc, hstc, hstamp.ctx, ← Ctx.paused]
    exact h1
  obtain ⟨h1, -, h3⟩ := State.enqueue_queue (e := ⟨.sheaf x.leadHdr x.words x.note, x.leadHdr.prio.toNat,
    (s.core (s.lc c lc).pos).stamp, .sheaf x.note.1 x.note.2.1 x.note.2.2, false, true, none⟩) hvr
  refine ⟨?_, ?_⟩
  · rw [h1, ← hv]
    exact hstamp.mem
  · rw [h3, hvlc]

/-- A wake enters the queue of its instance's priority with the core's next stamp. -/
theorem made_wake_queued {s : State} {c lc p cls n : Nat} {k : Cont} (hroom : s.Room c lc k.inst.prio)
    (hp : p = (s.lc c lc).pos) (hk : (s.lc c lc).conts.get? n = some k) (htrace : (s.ctx c).trace = none) :
    (s.acceptMade p ⟨cls, c, .wake lc n⟩).mem = s.mem
      ∧ ((s.acceptMade p ⟨cls, c, .wake lc n⟩).lc c lc).queue k.inst.prio = (s.lc c lc).queue k.inst.prio
        ++ [⟨.wake n, k.inst.prio, (s.core p).stamp, k.wcause, false, (s.core p).parkCache.contains (c, n), none⟩] := by
  subst hp
  unfold State.acceptMade
  dsimp only
  rw [hk]
  dsimp only
  have hstamp := State.newStamp_stamped (s := s) (v := s) (s.lc c lc).pos rfl rfl rfl rfl
  have hst : (s.newStamp (s.lc c lc).pos).1 = (s.core (s.lc c lc).pos).stamp := rfl
  generalize hu : (s.newStamp (s.lc c lc).pos).2 = u at hstamp
  rw [hst, State.queueWake]
  have hcache : (u.core (u.lc c lc).pos).parkCache = (s.core (s.lc c lc).pos).parkCache := by rw [hstamp.lc, hstamp.core]
  rw [hcache]
  obtain ⟨h1, -, h3⟩ := State.enqueue_queue (e := ⟨.wake n, k.inst.prio, (s.core (s.lc c lc).pos).stamp, k.wcause, false,
    (s.core (s.lc c lc).pos).parkCache.contains (c, n), none⟩) (hstamp.room hroom)
  rw [State.traceMatch_none]
  · exact ⟨h1.trans hstamp.mem, by rw [h3, hstamp.lc]⟩
  · rw [State.enqueue_room (hstamp.room hroom), State.setLc_ctx Ctx.trace (fun _ _ => rfl), hstamp.ctx, htrace]


/-! Moves off the lists of a silo. -/

/-- A list of a core is changed, and the silo's control block written. -/
theorem State.setLc_siloControl {s u : State} {c lc : Nat} {l : CtxCore} (hl : l.dcfg = (s.lc c lc).dcfg)
    (hu : u = (s.setLc c lc l).siloControl c lc) : u.lc c lc = l
      ∧ (s.memOk → ∀ b, ¬ (s.siloAt c lc ≤ b ∧ b < s.siloAt c lc + 4096) →
        Memory.readByte u.mem b = Memory.readByte s.mem b) := by
  subst hu
  refine ⟨by rw [State.siloControl_lc, State.lc_setLc], fun hm b hb => ?_⟩
  rw [State.siloControl_out (s := s.setLc c lc l) hm (by rw [State.siloAt_setLc hl]; exact hb)]
  rfl

/-- With no record in the flush reserve nothing is moved out of it. -/
theorem State.unreserve_nil {s : State} {c lc : Nat} (h : (s.lc c lc).reserve = []) : s.unreserve c lc = s := by
  unfold State.unreserve
  dsimp only
  rw [h]

/-- The head of the sheaf list, read back from its record, opens its sheaf. -/
theorem sheafList_opens {s u : State} {c lc st n a : Nat} {m₀ m : Msg} {rest : List (Msg × Nat × Nat)} {h : HHdr}
    (hp : (s.ctx c).paused = false) (hlist : (s.lc c lc).sheafList = (m₀, st, n) :: rest) (hopen : s.mayOpen c lc = true)
    (hres : (s.lc c lc).reserve = []) (hbad : s.poolBad c lc (some n) = none)
    (hmsg : m = msgOfRecord (Memory.read s.mem (s.poolAt c lc n) 512))
    (hno : (s.lc c lc).sheaves.any (fun x => x.keyOf m.hdr) = false)
    (hu : u = (s.setLc c lc { s.lc c lc with sheafList := rest }).siloControl c lc)
    (hh : u.handler? c m.hdr.gen.toNat m.hdr.hidx.toNat = some (a, h)) (hj : 2 ≤ h.join) :
    ∃ t x, exec (.sheafListReadback c lc) s = .next t ∧ t.mem = u.mem ∧ (t.lc c lc).sheafList = rest
      ∧ (s.memOk → ∀ b, ¬ (s.siloAt c lc ≤ b ∧ b < s.siloAt c lc + 4096) →
        Memory.readByte t.mem b = Memory.readByte s.mem b)
      ∧ (t.lc c lc).sheaves = (s.lc c lc).sheaves ++ [x] ∧ x.keyOf m.hdr = true ∧ x.count = 1 := by
  obtain ⟨hlc, hout⟩ := State.setLc_siloControl (s := s) (l := { s.lc c lc with sheafList := rest }) rfl hu
  have hx : exec (.sheafListReadback c lc) s = .next ((u.setLc c lc { u.lc c lc with
      sheaves := (u.lc c lc).sheaves ++ [Sheaf.opened m.hdr h.join] }).applySheaf c lc m st) := by
    rw [show exec (.sheafListReadback c lc) s = execSheafListReadback c lc s from rfl, execSheafListReadback,
      if_neg (by simp [hlist]), if_neg (by simp [hp, hopen]), State.readback]
    dsimp only
    rw [hlist]
    dsimp only
    rw [hbad]
    dsimp only
    rw [← hu, ← hmsg, hno, State.unreserve_nil (by rw [hlc]; exact hres), if_neg Bool.false_ne_true, hh]
  obtain ⟨hmem, ht⟩ := State.applySheaf_opened (s := u) (st := st) (m := m) hj (by rw [hlc]; exact hno)
  obtain ⟨hkey, -, hcount, -⟩ := Sheaf.add_opened m h.join st
  refine ⟨_, ((Sheaf.opened m.hdr h.join).add m st).1, hx, hmem, ?_, fun hm b hb => ?_, ?_, hkey, hcount⟩
  · rw [ht, hlc]
  · rw [hmem]
    exact hout hm b hb
  · rw [ht, hlc]

/-- The head of a silo list moves to its queue. -/
theorem silo_refills {s : State} {c lc pr : Nat} {e : QEntry} {rest : List QEntry} (hp : (s.ctx c).paused = false)
    (hlist : (s.lc c lc).siloOf pr = e :: rest) (hroom : (s.lc c lc).queueRoom pr = true) (hres : (s.lc c lc).reserve = [])
    (hbad : s.poolBad c lc e.place = none) :
    ∃ t, exec (.siloRefill c lc pr) s = .next t ∧ (t.lc c lc).siloOf pr = rest
      ∧ (s.memOk → ∀ b, ¬ (s.siloAt c lc ≤ b ∧ b < s.siloAt c lc + 4096) →
        Memory.readByte t.mem b = Memory.readByte s.mem b)
      ∧ (t.lc c lc).queue pr = (s.lc c lc).queue pr ++ [s.unspilled c lc e] := by
  rw [show exec (.siloRefill c lc pr) s = execSiloRefill c lc pr s from rfl, execSiloRefill, if_neg (by simp [hlist]),
    if_neg (by simp [hp, hroom]), State.refill]
  rw [hlist]
  dsimp only
  rw [hbad]
  generalize hu : State.siloControl (State.setLc s c lc _) c lc = u
  obtain ⟨hlc, hout⟩ := State.setLc_siloControl (by rfl) hu.symm
  rw [State.unreserve_nil (by rw [hlc]; exact hres)]
  refine ⟨_, rfl, ?_, hout, ?_⟩
  · rw [hlc, CtxCore.siloOf, Tab.get_put, if_pos rfl]
  · rw [hlc, CtxCore.queue, Tab.get_put, if_pos rfl]

/-! Wakes. -/

/-- Reading a wake's record marks every entry of it and moves none. -/
theorem CtxCore.readWake_wakeOf {l : CtxCore} {n : Nat} {e : QEntry} (h : l.wakeOf n = some e) :
    (l.readWake n).wakeOf n = some { e with ready := true } := by
  have hwakes : ∀ x : QEntry, (if x.wakes n then { x with ready := true } else x).wakes n = x.wakes n := fun x => by
    split <;> rfl
  have hflat : ∀ t : Tab (List QEntry), (t.map (fun q => (q.1, q.2.map (fun e : QEntry => if e.wakes n then { e with ready := true } else e)))).flatMap
      (fun q => q.2) = (t.flatMap (fun q => q.2)).map (fun e : QEntry => if e.wakes n then { e with ready := true } else e) := fun t => by
    rw [List.flatMap_map, List.map_flatMap]
  unfold CtxCore.wakeOf at h ⊢
  unfold CtxCore.readWake
  dsimp only
  rw [hflat, hflat, hflat, ← List.map_append, ← List.map_append, ← List.map_append, List.find?_map]
  have hcomp : (fun e : QEntry => e.wakes n) ∘ (fun e : QEntry => if e.wakes n then { e with ready := true } else e)
      = fun e => e.wakes n := funext hwakes
  rw [hcomp, h, Option.map_some, if_pos (by simpa using List.find?_some h)]

/-- A continuation whose wait has ended wakes, as one of the things its core has made; its record is read when it is queued. -/
theorem continuation_wakes {s : State} {c lc n : Nat} {k : Cont} (hk : (s.lc c lc).conts.get? n = some k)
    (hv : k.value.isSome = true) :
    ((s.lc c lc).wakeOf n = none → s.wakeMade c lc n = false → ∃ t, exec (.continuationWake c lc n) s = .next t ∧ t.mem = s.mem
        ∧ (t.core (s.lc c lc).pos).made = insertMade ⟨15, c, .wake lc n⟩ (s.core (s.lc c lc).pos).made)
      ∧ (∀ e, (s.lc c lc).wakeOf n = some e → e.ready = false → s.poisonAt (s.contAt c lc n) 4096 = none →
        ∃ t, exec (.continuationWake c lc n) s = .next t ∧ (t.lc c lc).wakeOf n = some { e with ready := true }
          ∧ (t.lc c lc).conts.get? n = some { k with inst := s.readCont c lc n k.inst }) := by
  have hnone : k.value.isNone = false := by rw [Option.isNone_eq_false_iff]; exact hv
  refine ⟨fun hw hmade => ?_, fun e hw hready hpoison => ?_⟩
  · rw [show exec (.continuationWake c lc n) s = execContinuationWake c lc n s from rfl, execContinuationWake]
    dsimp only
    rw [hk]
    dsimp only
    rw [hnone, hw, hmade]
    refine ⟨_, rfl, rfl, ?_⟩
    rw [State.make, State.core_setCore, if_pos rfl]
  · rw [show exec (.continuationWake c lc n) s = execContinuationWake c lc n s from rfl, execContinuationWake]
    dsimp only
    rw [hk]
    dsimp only
    rw [hnone, hw]
    dsimp only
    rw [hready, hpoison]
    refine ⟨_, rfl, ?_, ?_⟩
    · rw [State.lc_setLc]
      exact CtxCore.readWake_wakeOf hw
    · rw [State.lc_setLc]
      exact Tab.get?_put _ _ _


/-! Arrivals that join a sheaf. -/

/-- An arrival for a sheaf at its core: a message of a running context, without a scale and outside any trace, whose handler joins
two operands or more. -/
structure State.Joins (s : State) (id : Nat) (f : Flight) (p c lc : Nat) (m : Msg) (tr : Track) (h : HHdr) : Prop where
  here : s.flight? id = some f
  first : s.firstArrival f = true
  atCore : f.atCore = some (p, m, tr)
  onCtx : m.hdr.ctx.toNat = c
  receiver : s.receiver c p = some lc
  place : p = (s.lc c lc).pos
  runs : (s.ctx c).paused = false
  kind : m.hdr.kind = 0 ∨ m.hdr.kind = 3
  notPeer : ∀ x y z, tr ≠ .peer x y z
  notInitial : ∀ y, tr ≠ .initial y
  unscaled : m.scale = none
  untraced : (s.ctx c).trace = none
  handler : ∃ a, s.handler? c m.hdr.gen.toNat m.hdr.hidx.toNat = some (a, h)
  class0 : h.rcl = false
  joins : 2 ≤ h.join

theorem State.Joins.taken {s : State} {id p c lc : Nat} {f : Flight} {m : Msg} {tr : Track} {h : HHdr}
    (hj : s.Joins id f p c lc m tr h)
    (htrace : ∀ u : State, u.Stamped s p → ((u.joinArrival c lc m h.join (s.core p).stamp).ctx c).trace = none) :
    ∃ (u t : State), u.Stamped s p ∧ (u.ctx c).paused = false ∧ exec (.sheafArrival id) s = .next t
      ∧ t.mem = (u.joinArrival c lc m h.join (s.core p).stamp).mem
      ∧ t.core p = (u.joinArrival c lc m h.join (s.core p).stamp).core p
      ∧ t.lc c lc = (u.joinArrival c lc m h.join (s.core p).stamp).lc c lc := by
  obtain ⟨a, hh⟩ := hj.handler
  obtain ⟨u, t, hu, hx⟩ := sheafArrival_joins hj.here hj.receiver hj.runs hj.first hj.atCore hj.onCtx hj.kind hj.notPeer
    hj.notInitial hj.unscaled hh hj.class0 hj.joins htrace
  exact ⟨u, t, hu, by rw [hu.ctx]; exact hj.runs, hx⟩

/-- An arrival of a new key opens its sheaf. -/
theorem State.Joins.opens {s : State} {id p c lc : Nat} {f : Flight} {m : Msg} {tr : Track} {h : HHdr}
    (hj : s.Joins id f p c lc m tr h) (hno : (s.lc c lc).sheaves.any (fun x => x.keyOf m.hdr) = false)
    (hlist : (s.lc c lc).sheafList = []) (hopen : s.mayOpen c lc = true) :
    ∃ t x, exec (.sheafArrival id) s = .next t ∧ t.mem = s.mem
      ∧ (t.lc c lc).sheaves = (s.lc c lc).sheaves ++ [x] ∧ x.keyOf m.hdr = true ∧ x.arity = h.join ∧ x.count = 1
      ∧ (∀ j, j = m.hdr.jslot.toNat → j < 4 →
        x.opnds[j]? = some (some (msgFirstWord m, m.hdr.schip.toNat, m.hdr.score.toNat, m.hdr))) := by
  have heq : ∀ u : State, u.Stamped s p → u.joinArrival c lc m h.join (s.core p).stamp = (u.setLc c lc { u.lc c lc with
      sheaves := (u.lc c lc).sheaves ++ [Sheaf.opened m.hdr h.join] }).applySheaf c lc m (s.core p).stamp := fun u hu => by
    rw [State.joinArrival_eq (by rw [hu.ctx]; exact hj.runs), hu.lc, if_neg (by rw [hno]; exact Bool.false_ne_true),
      if_pos (by rw [hlist, hu.mayOpen, hopen]; rfl)]
  obtain ⟨u, t, hu, -, hx, hmem, -, hlc⟩ := hj.taken (fun u hu => by
    rw [heq u hu, State.applySheaf_ctx Ctx.trace (fun _ _ => rfl), State.setLc_ctx Ctx.trace (fun _ _ => rfl), hu.ctx]
    exact hj.untraced)
  obtain ⟨hm, ht⟩ := State.applySheaf_opened (s := u) (st := (s.core p).stamp) (m := m) hj.joins (by rw [hu.lc]; exact hno)
  rw [← heq u hu] at hm ht
  refine ⟨t, ((Sheaf.opened m.hdr h.join).add m (s.core p).stamp).1, hx, hmem.trans (hm.trans hu.mem), ?_, Sheaf.add_opened ..⟩
  rw [hlc, ht, hu.lc]

/-- It waits in the sheaf list where none may be opened. -/
theorem State.Joins.waits {s : State} {id p c lc : Nat} {f : Flight} {m : Msg} {tr : Track} {h : HHdr}
    (hj : s.Joins id f p c lc m tr h) (hno : (s.lc c lc).sheaves.any (fun x => x.keyOf m.hdr) = false)
    (hlist : (s.lc c lc).sheafList ≠ [] ∨ s.mayOpen c lc = false) (hpool : (s.lc c lc).poolUsed < (s.lc c lc).poolMax)
    (hover : s.overflowed c lc = false) (hm : s.memOk) :
    ∃ t pa bs, exec (.sheafArrival id) s = .next t ∧ (t.lc c lc).sheaves = (s.lc c lc).sheaves
      ∧ (t.lc c lc).sheafList = (s.lc c lc).sheafList ++ [(m, (s.core p).stamp, (s.lc c lc).freeRec)]
      ∧ pa = s.poolAt c lc (s.lc c lc).freeRec ∧ bs = msgRecord m (s.core p).stamp
      ∧ (∀ k < bs.length, Memory.readByte t.mem (pa + k) = bs.getD k 0) ∧ s.keepsBut t c lc pa bs.length := by
  have heq : ∀ u : State, u.Stamped s p → u.joinArrival c lc m h.join (s.core p).stamp = u.spillJoin c lc m (s.core p).stamp :=
    fun u hu => by
      have hcond : ((u.lc c lc).sheafList.isEmpty && u.mayOpen c lc) = false := by
        rw [hu.lc, hu.mayOpen]
        rcases hlist with hlist | hlist
        · rw [List.isEmpty_eq_false_iff.2 hlist]
          rfl
        · rw [hlist, Bool.and_false]
      rw [State.joinArrival_eq (by rw [hu.ctx]; exact hj.runs), if_neg (by rw [hu.lc, hno]; exact Bool.false_ne_true),
        if_neg (by rw [hcond]; exact Bool.false_ne_true)]
      exact State.spillSheaf_waits (by rw [hu.lc]; exact hpool) (by rw [State.overflowed, hu.lc, hu.ctx]; exact hover)
  obtain ⟨u, t, hu, -, hx, hmem, -, hlc⟩ := hj.taken (fun u hu => by
    rw [heq u hu, State.spillJoin_ctx Ctx.trace (fun _ _ _ => rfl) (fun _ _ => rfl), hu.ctx]
    exact hj.untraced)
  rw [heq u hu] at hmem hlc
  obtain ⟨ht, hbytes, hkeeps⟩ := State.spillJoin_waits (s := u) (c := c) (lc := lc) (st := (s.core p).stamp) (m := m)
    (by rw [State.memOk, hu.mem]; exact hm)
  have hpa : u.poolAt c lc (u.lc c lc).freeRec = s.poolAt c lc (s.lc c lc).freeRec := by
    rw [State.poolAt, State.poolAt, State.siloAt_of_ctxs hu.ctxs, hu.lc]
  rw [hpa, ← hmem] at hbytes
  rw [hpa] at hkeeps
  refine ⟨t, _, _, hx, ?_, ?_, rfl, rfl, hbytes, fun b hb hs => ?_⟩
  · rw [hlc, ht, hu.lc]
  · rw [hlc, ht, hu.lc]
  · have hk := hkeeps b hb (by rw [State.siloAt_of_ctxs hu.ctxs]; exact hs)
    rw [← hmem, hu.mem] at hk
    exact hk

/-- An arrival of an open sheaf is counted in it, or completes it. -/
theorem State.Joins.adds {s : State} {id p c lc : Nat} {f : Flight} {m : Msg} {tr : Track} {h : HHdr} {x x' : Sheaf}
    (hj : s.Joins id f p c lc m tr h) (hx : (s.lc c lc).sheaves.find? (fun x => x.keyOf m.hdr) = some x)
    (hx' : x' = (x.add m (s.core p).stamp).1) :
    (x.count + 1 < x.arity → ∃ t, exec (.sheafArrival id) s = .next t ∧ t.mem = s.mem
        ∧ (t.lc c lc).sheaves = (s.lc c lc).sheaves.map (fun y => if y.keyOf m.hdr then x' else y)
        ∧ x'.count = x.count + 1 ∧ (t.core p).made = (s.core p).made)
      ∧ (x.arity ≤ x.count + 1 → ∃ t, exec (.sheafArrival id) s = .next t ∧ t.mem = s.mem
        ∧ (t.lc c lc).sheaves = (s.lc c lc).sheaves.filter (fun y => !y.keyOf m.hdr)
        ∧ (t.core p).made = insertMade ⟨13, c, .sheaf lc x'⟩ (s.core p).made) := by
  have hany : (s.lc c lc).sheaves.any (fun y => y.keyOf m.hdr) = true :=
    List.any_eq_true.2 ⟨x, List.mem_of_find?_eq_some hx, List.find?_some (p := fun y : Sheaf => y.keyOf m.hdr) hx⟩
  have heq : ∀ u : State, u.Stamped s p → u.joinArrival c lc m h.join (s.core p).stamp = u.applySheaf c lc m (s.core p).stamp :=
    fun u hu => by rw [State.joinArrival_eq (by rw [hu.ctx]; exact hj.runs), if_pos (by rw [hu.lc]; exact hany)]
  obtain ⟨u, t, hu, -, hex, hmem, hcore, hlc⟩ := hj.taken (fun u hu => by
    rw [heq u hu, State.applySheaf_ctx Ctx.trace (fun _ _ => rfl), hu.ctx]
    exact hj.untraced)
  rw [heq u hu] at hmem hcore hlc
  have hux : (u.lc c lc).sheaves.find? (fun x => x.keyOf m.hdr) = some x := by rw [hu.lc]; exact hx
  have hmade : (u.core p).made = (s.core p).made := by rw [hu.core]
  obtain ⟨hcounts, hfires⟩ := State.applySheaf_eq hux hx'
  refine ⟨fun hlow => ?_, fun hdone => ?_⟩
  · obtain ⟨h1, h2, h3⟩ := hcounts hlow
    refine ⟨t, hex, hmem.trans (h1.trans hu.mem), by rw [hlc, h3, hu.lc], by rw [hx']; rfl, ?_⟩
    rw [hcore, State.core, h2, ← State.core, hmade]
  · obtain ⟨h1, h2, h3⟩ := hfires hdone
    refine ⟨t, hex, hmem.trans (h1.trans hu.mem), by rw [hlc, h3, hu.lc], ?_⟩
    rw [hu.lc, ← hj.place] at h2
    rw [hcore, h2, hmade]

/-- Settles O46: each unit of a core applies the first of what stands before it, as the rule of its kind says. -/
theorem arrivalsAndSheavesMove : Obligations.ArrivalsAndSheavesMove := by
  refine ⟨fun s id f p c lc hf hrec hp => ⟨fun m tr a h pr hfirst hat hc hkind hpeer hinit hscale hh hrcl hj htrace hpr =>
      ⟨fun hroom => ?_, fun hfull hpool hover hm => ?_⟩, fun m tr hfirst hat hc hkind hinit hn => ?_,
      fun m tr v hfirst hat hc hkind hscale htag hv hvc hvr => ?_, fun k x note chip l hfirst hbody hgoal hc => ?_⟩,
    fun s c lc hp => ⟨fun id f p m tr a h hf hfirst hat hc hrec hpos hkind hpeer hinit hscale htrace hh hrcl hj => ?_,
      fun p cls x hroom hpos => ?_, fun p cls n k hroom hpos hk htrace => ?_,
      fun m₀ m st n rest a h u hlist hopen hres hbad hmsg hno hu hh hj => ?_, fun pr e rest hlist hroom hres hbad => ?_,
      fun n k hk hv => continuation_wakes hk hv⟩⟩
  · exact arrival_queued hf hrec hp hfirst hat hc hkind hpeer hinit hscale hh hrcl hj htrace hpr hroom
  · exact arrival_spilled hf hrec hp hfirst hat hc hkind hpeer hinit hscale hh hrcl hj htrace hpr hfull hpool hover hm
  · exact arrival_posts hf hrec hp hfirst hat hc hkind hinit hn
  · exact reply_enters hf hrec hp hfirst hat hc hkind hscale htag hv hvc hvr
  · exact weir_enters hf hrec hp hfirst hbody hgoal hc
  · have hjoin : s.Joins id f p c lc m tr h :=
      ⟨hf, hfirst, hat, hc, hrec, hpos, hp, hkind, hpeer, hinit, hscale, htrace, ⟨a, hh⟩, hrcl, hj⟩
    exact ⟨hjoin.opens, hjoin.waits, fun x x' hx hx' => hjoin.adds hx hx'⟩
  · exact ⟨_, rfl, made_sheaf_queued hroom hpos⟩
  · exact ⟨_, rfl, made_wake_queued hroom hpos hk htrace⟩
  · exact sheafList_opens hp hlist hopen hres hbad hmsg hno hu hh hj
  · exact silo_refills hp hlist hroom hres hbad

end Sys2Proof.Machine

/-! SETTLED. An engine's question about a write at its owner (08 R166, R173). -/

namespace Sys2Proof.Machine

open Sys2Proof

/-- A request that asks whether a byte of HBM4 may be written; its answer ends an operation. -/
def checkReq : MemReq := { hostReq 0 .check 0 1 [] with ans := .ack none }

/-- That request, at its owner. -/
def checkFlight : Flight := mkFlight Who.zero 0 false (.req checkReq) .owner (ownerXY 0) (ownerXY 0)

/-- One cycle after its arrival, with nothing else under way. -/
def checkState : State := { State.reset with
  flights := [checkFlight]
  clock := 1 }

/-- The request stands first, is not deferred and is not refused. -/
theorem checkState_first : checkState.ripe checkFlight = true
    ∧ checkState.firstAtOwner checkFlight 0 = true ∧ checkState.windowDeferred checkReq 0 = none
    ∧ checkState.reqRefused checkReq 0 = 0 ∧ 0 < checkReq.partLen 0 ∧ checkState.poisonAt 0 (checkReq.partLen 0) = none := by
  decide +kernel

/-- Whether a flight carries no data as a reply. -/
def Flight.noData (g : Flight) : Bool :=
  match g.body with
  | .rep _ _ data => data.isEmpty
  | _ => true

/-- The owner answers it without data. -/
theorem exec_checkState : (match exec (.ownerApply 0) checkState with
    | .next t => t.flights.all Flight.noData
    | _ => false) = true := by decide +kernel

/-- Refutes O45: an owner answers a check without data, where the statement has every request but a read, a write and the
watch words answered with the bytes that stood at its address. -/
theorem not_ownersApplyRequests : ¬ Obligations.OwnersApplyRequests := by
  rintro ⟨happly, -⟩
  obtain ⟨hripe, hfirst, hdef, href, hlen, hpoison⟩ := checkState_first
  obtain ⟨-, -, hvalue, -⟩ := happly checkState 0 checkFlight checkReq 0 rfl rfl rfl rfl rfl rfl hripe hfirst
    (fun _ _ _ => ⟨nofun, nofun⟩) nofun hdef href hlen
  obtain ⟨t, ht, ⟨g, hg, hbody, -⟩, -⟩ := hvalue nofun nofun nofun nofun (by decide) hpoison
  have hall := exec_checkState
  rw [ht] at hall
  have hno := List.all_eq_true.1 hall g hg
  rw [Flight.noData, hbody] at hno
  exact absurd hno (by decide)

end Sys2Proof.Machine

/-! SETTLED. An error of a flit alone, for an instance that the slot table does not show (21 R352; log 48). -/

namespace Sys2Proof.Machine

open Sys2Proof

/-- A core whose first slot holds instance 7. -/
def flitCore : Core := Core.reset.setSlot 0 (some { Inst.fresh with iid := 7 })

/-- The error reply of a request of that instance. -/
def flitFlight : Flight := mkFlight { Who.zero with iid := 7 } 0 true
  (.rep { hostReq 0 .read 0 8 [] with ans := .reg (.g 8) none } 25 []) (.core 0) (xyOfCore 0) (xyOfCore 0)

/-- A running context's state that lists core 0 twice: a read of the core finds the first entry, with its slots free, while a
search for the instance goes through both. -/
def flitState : State := { State.reset with
  flights := [flitFlight]
  cores := [(0, Core.reset), (0, flitCore)]
  ctxs := [(0, { Ctx.reset with st := .running, lcs := [(0, CtxCore.init 0)] })] }

/-- The reply returns, its instance is found in core 0's first slot, and fault records have a core to go to. -/
theorem flitState_returns : flitState.canReturn flitFlight = true ∧ (flitState.ctx 0).st ≠ .free
    ∧ ((flitState.ctx 0).lcs.get? ((flitState.ctx 0).desc.fcore % 1024)).isSome = true := by
  decide +kernel

/-- The error is recorded, and the slot is as free as it was. -/
theorem exec_flitState : (match exec (.errorReply 0) flitState with
    | .next t => (t.inst? 0 0).isNone
    | _ => false) = true := by decide +kernel

/-- Refutes O44: the statement lets the core table list a core twice, and then the instance that a search finds is not the
one that a read of its slot gives; the slot is still empty after a flit's error. -/
theorem not_repliesComplete : ¬ Obligations.RepliesComplete := by
  rintro ⟨-, herror⟩
  obtain ⟨hret, hst, hcore⟩ := flitState_returns
  obtain ⟨-, hflit, -⟩ := herror flitState 0 flitFlight rfl
  obtain ⟨t, m, ht, hsome, -⟩ := hflit { hostReq 0 .read 0 8 [] with ans := .reg (.g 8) none } [] 0 0
    { Inst.fresh with iid := 7 } rfl hret (fun _ _ _ => ⟨nofun, nofun, nofun⟩) nofun (by decide) hst rfl hcore
  have hnone := exec_flitState
  rw [ht] at hnone
  dsimp only at hnone
  rw [Option.isNone_iff_eq_none] at hnone
  rw [hnone] at hsome
  exact absurd hsome (by decide)

end Sys2Proof.Machine

/-! SETTLED. The spring's requests, and the entries of the weight buffer (08 R159 to R161; 09 R194 to R196). -/

namespace Sys2Proof.Machine

open Sys2Proof

/-! What a spring's service leaves of its queue. -/

/-- The requests that wait at a quad's spring, the cycle of its last service, and the clock. -/
def State.springPart (s : State) (q : Nat) : List SpringReq × Option Nat × Nat :=
  ((s.quad q).springReqs, (s.quad q).springLast, s.clock)

theorem State.setQuad_springPart {s : State} {j : Nat} {k : Quad} (h1 : k.springReqs = (s.quad j).springReqs)
    (h2 : k.springLast = (s.quad j).springLast) (q : Nat) : (s.setQuad j k).springPart q = s.springPart q := by
  unfold State.springPart
  by_cases hq : q = j
  · subst hq
    rw [State.quad_setQuad_same, h1, h2]
    rfl
  · rw [State.quad_setQuad_other _ _ _ _ hq]
    rfl

theorem State.deliver_springPart (s : State) (w : Who) (o : Nat) (m : Msg) (t : Track) (x : Nat × Nat) (a b : List Nat)
    (r : Bool) (e : Option Nat) (q : Nat) : (s.deliver w o m t x a b r e).springPart q = s.springPart q :=
  State.deliver_part (fun u => u.springPart q) (fun _ _ _ => rfl) ..

theorem State.nextFseq_springPart (s : State) (src : Source) (c q : Nat) : (s.nextFseq src c).2.springPart q = s.springPart q := by
  cases src with
  | quad j u => exact State.setQuad_springPart (by rfl) (by rfl) q
  | _ => rfl

/-- A fault record leaves every spring's queue. -/
theorem State.record_springPart (s : State) (src : Source) (c code : Nat) (fatal ff : Bool) (r : RecInfo) (q : Nat) :
    (s.record src c code fatal ff r).springPart q = s.springPart q := by
  unfold State.record
  have hu := State.nextFseq_springPart s src c q
  generalize s.nextFseq src c = y at hu ⊢
  obtain ⟨n, u⟩ := y
  dsimp only at hu ⊢
  split
  · split
    · exact hu
    · rw [State.deliver_springPart]
      exact hu
  · rw [State.deliver_springPart, hu]

theorem State.vector_springPart (s : State) (v q : Nat) : (s.vector v).springPart q = s.springPart q := by
  unfold State.vector
  split <;> rfl

theorem State.setHealth_springPart (s : State) (h : Health) (q : Nat) : (s.setHealth h).springPart q = s.springPart q := by
  unfold State.setHealth
  split
  · exact State.vector_springPart _ _ _
  · rfl

theorem State.softError_springPart (s : State) (die st : Nat) (u : Bool) (q : Nat) :
    (s.softError die st u).springPart q = s.springPart q := by
  unfold State.softError
  dsimp only
  split
  · rfl
  · split
    · exact (State.setHealth_springPart ..).trans rfl
    · rfl

theorem State.checkSlot_springPart (s : State) (c j ps q : Nat) : (s.checkSlot c j ps).1.springPart q = s.springPart q := by
  unfold State.checkSlot
  dsimp only
  split
  · rfl
  · split
    · exact (State.softError_springPart ..).trans rfl
    · rfl

theorem State.fillId_springPart (s : State) (pid : Nat) (v : Word) (q : Nat) : (s.fillId pid v).springPart q = s.springPart q := by
  unfold State.fillId
  split <;> rfl

/-- The end of an instance leaves them too. -/
theorem State.endInst_springPart (s : State) (p sl : Nat) (i : Inst) (q : Nat) : (s.endInst p sl i).springPart q = s.springPart q := by
  have hcount : (s.countVec p i).springPart q = s.springPart q :=
    State.foldl_part (fun u => u.springPart q) _ (fun u e => by
      split
      · unfold State.count
        split <;> rfl
      · rfl) _ _
  have hunhold : ((s.countVec p i).unhold i).springPart q = (s.countVec p i).springPart q := by
    unfold State.unhold
    split <;> rfl
  exact hunhold.trans hcount

theorem State.raiseLate_springPart (s : State) (w : Who) (code addr det q : Nat) :
    (s.raiseLate w code addr det).springPart q = s.springPart q := by
  unfold State.raiseLate
  dsimp only
  split
  · exact (State.endInst_springPart ..).trans (State.record_springPart ..)
  · split
    · exact (show _ = (State.springPart (State.record _ _ _ _ _ _ _) q) from rfl).trans (State.record_springPart ..)
    · split
      · split
        · refine (State.record_springPart ..).trans ?_
          refine (State.foldl_part (fun u => u.springPart q) _ (fun u e => ?_) _ _).trans rfl
          unfold State.unhold
          split <;> rfl
        · exact State.record_springPart ..
      · exact State.record_springPart ..

theorem State.springFails_springPart (s : State) (j q : Nat) : (s.springFails j).2.springPart q = s.springPart q := by
  unfold State.springFails
  dsimp only
  split
  · exact State.setQuad_springPart (by rfl) (by rfl) q
  · rfl

theorem State.beginLoad_springPart (s : State) (j : Nat) (w : Who) (cmd x n q : Nat) :
    (s.beginLoad j w cmd x n).2.springPart q = s.springPart q := by
  unfold State.beginLoad
  dsimp only
  split
  · rfl
  · split
    · rfl
    · exact State.setQuad_springPart (by rfl) (by rfl) q

theorem State.serveLoad_springPart (s : State) (c j x : Nat) (bs : List Byte) (q : Nat) :
    (s.serveLoad c j x bs).2.springPart q = s.springPart q := by
  unfold State.serveLoad
  have hu := State.checkSlot_springPart s c j (bitsOf x 251 248) q
  dsimp only
  split
  · exact hu
  · split
    · exact hu
    · split
      · exact hu
      · exact hu


theorem State.corruptRec_springPart (s : State) (w : Who) (j ps unit wbe q : Nat) :
    (s.corruptRec w j ps unit wbe).springPart q = s.springPart q := State.record_springPart ..

/-- A service takes no request and makes none: only its turn does. -/
theorem State.serve_springPart (s : State) (j : Nat) (r : SpringReq) (q : Nat) : (s.serve j r).springPart q = s.springPart q := by
  unfold State.serve
  cases hr : r.what with
  | spload d bs pid => exact (State.fillId_springPart ..).trans (State.serveLoad_springPart ..)
  | spseed d pid =>
    have hu := State.checkSlot_springPart s r.who.ctx j (bitsOf d.toNat 251 248) q
    dsimp only
    split_ifs
    · exact (State.raiseLate_springPart ..).trans hu
    · exact (State.fillId_springPart ..).trans hu
    · exact (State.fillId_springPart ..).trans hu
    · exact (State.fillId_springPart ..).trans hu
  | wbload d pid cmd =>
    have hu := State.checkSlot_springPart s r.who.ctx j (wSlot d.toNat) q
    have hv := (State.springFails_springPart (s.checkSlot r.who.ctx j (wSlot d.toNat)).1 j q).trans hu
    dsimp only
    split_ifs
    · exact (State.fillId_springPart ..).trans rfl
    · exact (State.corruptRec_springPart ..).trans ((State.fillId_springPart ..).trans hv)
    · exact (State.fillId_springPart ..).trans ((State.beginLoad_springPart ..).trans hv)
  | gather cmd =>
    dsimp only
    split
    · rfl
    · next g _ =>
      have hu := State.checkSlot_springPart s r.who.ctx j (bitsOf g.desc.toNat 51 48) q
      have hv := (State.springFails_springPart (s.checkSlot r.who.ctx j (bitsOf g.desc.toNat 51 48)).1 j q).trans hu
      split_ifs
      · exact (State.corruptRec_springPart ..).trans hv
      · exact hv

/-- The spring's turn: the oldest request of an earlier cycle leaves the queue, and no other is served in the cycle. -/
theorem exec_springServe {s : State} {q : Nat} {r : SpringReq} (hr : firstSpring (s.quad q).springReqs = some r)
    (hcycle : r.cycle < s.clock) (hfree : s.springFree q = true) (hfirst : s.startFirst q r = false) :
    exec (.springServe q) s = .next ((s.setQuad q { s.quad q with
      springReqs := (s.quad q).springReqs.erase r, springLast := some s.clock }).serve q r) := by
  rw [show exec (.springServe q) s = execSpringServe q s from rfl, execSpringServe]
  dsimp only
  rw [hr]
  dsimp only
  rw [if_neg (by simp [hfree, hcycle]), if_neg (by rw [hfirst]; exact Bool.false_ne_true)]

/-- The state in which it serves. -/
theorem State.serve_turn (s : State) (q : Nat) (r : SpringReq) (l : List SpringReq) :
    (((s.setQuad q { s.quad q with springReqs := l, springLast := some s.clock }).serve q r).quad q).springReqs = l
      ∧ ((s.setQuad q { s.quad q with springReqs := l, springLast := some s.clock }).serve q r).springFree q = false := by
  have hpart := State.serve_springPart (s.setQuad q { s.quad q with springReqs := l, springLast := some s.clock }) q r q
  unfold State.springPart at hpart
  rw [State.quad_setQuad_same] at hpart
  simp only [Prod.mk.injEq] at hpart
  obtain ⟨h1, h2, h3⟩ := hpart
  refine ⟨h1, ?_⟩
  rw [State.springFree, h2, h3]
  exact bne_self_eq_false _


@[simp] theorem State.fillId_ctx (s : State) (pid : Nat) (v : Word) (c : Nat) : (s.fillId pid v).ctx c = s.ctx c := by
  unfold State.fillId
  split <;> rfl

/-- A sound slot is used as it stands. -/
theorem State.checkSlot_good {s : State} {c q ps : Nat} (ha : ((s.ctx c).pslot q ps).goodA = true)
    (hb : ((s.ctx c).pslot q ps).goodB = true) : s.checkSlot c q ps = (s, false) := by
  unfold State.checkSlot
  dsimp only
  rw [if_pos (by rw [ha, hb]; rfl)]

/-- A result of the spring reaches the register that waits for it. -/
theorem State.fillId_waiting {s u : State} {pid p sl : Nat} {i : Inst} {e : Pend} (hu : u.cores = s.cores)
    (h : s.findPend pid = some (p, sl, i, e)) (v : Word) :
    ∃ j, (u.fillId pid v).inst? p sl = some j ∧ { e with value := some v } ∈ j.pend := by
  have hfind : u.findPend pid = some (p, sl, i, e) := by
    rw [State.findPend, hu, ← State.findPend]
    exact h
  exact (State.fillId_fills hfind v).1

/-- A loaded slot that nothing refers to takes its seed. -/
theorem spring_seeds {u s : State} {q ps c pid p sl : Nat} {r : SpringReq} {x : PSlot} {i : Inst} {e : Pend} {d : DWord}
    (hctx : u.ctx c = s.ctx c) (hcores : u.cores = s.cores) (href : u.referenced c q ps = false) (hc : c = r.who.ctx)
    (hx : x = (s.ctx c).pslot q ps) (hwhat : r.what = .spseed d pid) (hps : ps = bitsOf d.toNat 251 248) (ha : x.goodA = true)
    (hb : x.goodB = true) (hl : x.loaded = true) (hp : s.findPend pid = some (p, sl, i, e)) :
    (u.serve q r).mem = u.mem ∧ ((u.serve q r).ctx c).pslot q ps = { x with seed := word64 (bitsOf d.toNat 127 64) }
      ∧ ∃ j, (u.serve q r).inst? p sl = some j ∧ { e with value := some 0 } ∈ j.pend := by
  subst hx hps hc
  rw [← hctx] at ha hb hl
  have hserve : u.serve q r = (u.setPslot r.who.ctx q (bitsOf d.toNat 251 248) { (s.ctx r.who.ctx).pslot q (bitsOf d.toNat 251 248) with
      seed := word64 (bitsOf d.toNat 127 64) }).fillId pid 0 := by
    unfold State.serve
    dsimp only
    rw [hwhat]
    dsimp only
    rw [State.checkSlot_good ha hb]
    rw [hctx] at hl
    simp only [href, hl, hctx, Bool.false_eq_true, if_false, Bool.not_true]
  rw [hserve]
  refine ⟨State.fillId_mem .., ?_, State.fillId_waiting (u := State.setPslot u _ _ _ _) hcores hp 0⟩
  rw [State.fillId_ctx, State.setPslot_pslot]

/-- Words whose CRC holds and whose construction succeeds load a slot that nothing refers to. -/
theorem spring_loads {u s : State} {q ps c pid p sl : Nat} {r : SpringReq} {x : PSlot} {i : Inst} {e : Pend} {d : DWord}
    {bs : List Byte} {g : Gen} (hctx : u.ctx c = s.ctx c) (hcores : u.cores = s.cores) (href : u.referenced c q ps = false)
    (hc : c = r.who.ctx) (hx : x = (s.ctx c).pslot q ps) (hwhat : r.what = .spload d bs pid)
    (hps : ps = bitsOf d.toNat 251 248) (ha : x.goodA = true) (hb : x.goodB = true)
    (hcrc : 2 ^ 32 - 1 - crc32c (2 ^ 32 - 1) bs = bitsOf d.toNat 183 152) (hg : construct (words32 bs) = .ok g)
    (hp : s.findPend pid = some (p, sl, i, e)) :
    (u.serve q r).mem = u.mem
      ∧ ((u.serve q r).ctx c).pslot q ps = loadedSlot (words32 bs) (word64 (bitsOf d.toNat 127 64)) g
      ∧ ∃ j, (u.serve q r).inst? p sl = some j ∧ { e with value := some 0 } ∈ j.pend := by
  subst hx hps hc
  rw [← hctx] at ha hb
  have hserve : u.serve q r = (u.setPslot r.who.ctx q (bitsOf d.toNat 251 248)
      (loadedSlot (words32 bs) (word64 (bitsOf d.toNat 127 64)) g)).fillId pid 0 := by
    unfold State.serve
    dsimp only
    rw [hwhat]
    dsimp only
    unfold State.serveLoad
    dsimp only
    rw [State.checkSlot_good ha hb]
    simp only [href, hcrc, hg, Bool.false_and, Bool.false_eq_true, if_false, ne_eq, not_true_eq_false]
    rfl
  rw [hserve]
  refine ⟨State.fillId_mem .., ?_, State.fillId_waiting (u := State.setPslot u _ _ _ _) hcores hp 0⟩
  rw [State.fillId_ctx, State.setPslot_pslot]

/-! The granules of an entry. -/

/-- The bytes from an offset of a list of granules are those written; no byte beside the granules changes. -/
theorem State.fillEntry_bytes (q : Nat) (l : List Nat) : ∀ (s : State) (o : Nat) (bs : List Byte), s.memOk → l.Nodup →
    (∀ a, (∀ g ∈ l, a < wbufBase q + 4096 * g ∨ wbufBase q + 4096 * g + 4096 ≤ a) →
      Memory.readByte (s.fillEntry q o l bs).mem a = Memory.readByte s.mem a)
    ∧ ∀ k < bs.length, (o + k) / 4096 < l.length → Memory.readByte (s.fillEntry q o l bs).mem
        (wbufBase q + 4096 * (l[(o + k) / 4096]?).getD 0 + (o + k) % 4096) = bs.getD k 0 := by
  induction l with
  | nil => exact fun s o bs _ _ => ⟨fun a _ => rfl, fun k _ h => absurd h (Nat.not_lt_zero _)⟩
  | cons g t ih =>
    intro s o bs hm hnd
    obtain ⟨hg, hnt⟩ := List.nodup_cons.1 hnd
    rw [State.fillEntry]
    split
    · next ho =>
      obtain ⟨hout, hin⟩ := ih s (o - 4096) bs hm hnt
      refine ⟨fun a ha => hout a fun g' hg' => ha g' (List.mem_cons_of_mem _ hg'), fun k hk hlt => ?_⟩
      have hdiv : (o + k) / 4096 = (o - 4096 + k) / 4096 + 1 := by omega
      have hmod : (o + k) % 4096 = (o - 4096 + k) % 4096 := by omega
      rw [hdiv, hmod, List.getElem?_cons_succ]
      exact hin k hk (by rw [hdiv, List.length_cons] at hlt; omega)
    · next ho =>
      generalize hu : s.ownerWrite (wbufBase q + 4096 * g + o) (bs.take (4096 - o)) = u
      have hum : u.mem = Memory.write s.mem (wbufBase q + 4096 * g + o) (bs.take (4096 - o)) := by
        rw [← hu, State.ownerWrite_mem]
      have hlen : (bs.take (4096 - o)).length ≤ 4096 - o := List.length_take_le _ _
      obtain ⟨hout, hin⟩ := ih u 0 (bs.drop (4096 - o)) (by rw [State.memOk, hum]; exact Memory.wf_write _ _ hm) hnt
      refine ⟨fun a ha => ?_, fun k hk hlt => ?_⟩
      · rw [hout a fun g' hg' => ha g' (List.mem_cons_of_mem _ hg'), hum]
        have hga := ha g List.mem_cons_self
        exact Memory.readByte_write_out _ _ hm (by omega)
      · by_cases hfirst : o + k < 4096
        · rw [show (o + k) / 4096 = 0 by omega, show (o + k) % 4096 = o + k by omega, List.getElem?_cons_zero, Option.getD_some]
          rw [hout _ fun g' hg' => ?_, hum, Memory.readByte_write _ hm, if_pos (by rw [List.length_take]; omega),
            show wbufBase q + 4096 * g + (o + k) - (wbufBase q + 4096 * g + o) = k by omega]
          · rw [List.getD_eq_getElem?_getD, List.getElem?_take, if_pos (by omega), List.getD_eq_getElem?_getD]
          · have hne : g ≠ g' := fun h => hg (h ▸ hg')
            omega
        · have hdiv : (o + k) / 4096 = (0 + (k - (4096 - o))) / 4096 + 1 := by omega
          have hmod : (o + k) % 4096 = (0 + (k - (4096 - o))) % 4096 := by omega
          rw [hdiv, hmod, List.getElem?_cons_succ, hin _ (by rw [List.length_drop]; omega)
            (by rw [hdiv, List.length_cons] at hlt; omega)]
          rw [List.getD_eq_getElem?_getD, List.getElem?_drop, List.getD_eq_getElem?_getD]
          congr 2
          omega


/-! Loads and frees of an entry. -/

theorem State.fillEntry_quad (q : Nat) (l : List Nat) : ∀ (s : State) (o : Nat) (bs : List Byte) (j : Nat),
    (s.fillEntry q o l bs).quad j = s.quad j := by
  induction l with
  | nil => exact fun _ _ _ _ => rfl
  | cons g t ih =>
    intro s o bs j
    rw [State.fillEntry]
    split
    · exact ih ..
    · exact (ih ..).trans (State.ownerWrite_quad ..)

/-- A load that a command has begun: the pieces of its values and scales, and how far it has come. -/
structure State.Loads (s : State) (q e : Nat) (x : WbEntry) (ps : List (Nat × Nat)) (cmd : Nat) (w : Who) (o : Nat) : Prop where
  ok : s.memOk
  entry : x = (s.quad q).entry e
  loading : x.st = .loading
  command : x.load = some (cmd, w)
  apart : x.gran.Nodup
  pieces : ps = s.loadPieces q x
  come : o = piecesLen ps x.filled

/-- The rest of a load has come: it stands in the entry's granules, and the entry is loaded. -/
theorem load_completes {s : State} {q e cmd o : Nat} {x : WbEntry} {ps : List (Nat × Nat)} {w : Who} {bs : List Byte}
    (h : s.Loads q e x ps cmd w o)
    (hread : s.engineRead w (dieOfQuad q) cmd x.filled (ps.drop x.filled) = .data bs) :
    ∃ t, exec (.wbloadComplete q e) s = .next t
      ∧ (t.quad q).entry e = { x with st := if x.evict.isSome then .evicting else .resident, load := none }
      ∧ ∀ k < bs.length, (o + k) / 4096 < x.gran.length → Memory.readByte t.mem (x.address q (o + k)) = bs.getD k 0 := by
  obtain ⟨hm, hx, hst, hload, hnd, hps, ho⟩ := h
  rw [show exec (.wbloadComplete q e) s = execWbloadComplete q e s from rfl, execWbloadComplete]
  dsimp only
  rw [← hx, hst, hload]
  dsimp only
  rw [← hps, hread]
  dsimp only
  rw [← ho]
  refine ⟨_, rfl, ?_, fun k hk hlt => ?_⟩
  · have hentry := State.setEntry_entry (((s.fillEntry q o x.gran bs).completeOp cmd).clearFetches cmd) q e
      { x with st := if x.evict.isSome then .evicting else .resident, load := none }
    unfold State.note
    split <;> exact hentry
  · rw [State.note_mem]
    exact (State.fillEntry_bytes q x.gran s o bs hm hnd).2 k hk hlt

/-- One block of it has come. -/
theorem load_goesOn {s : State} {q e cmd o va n : Nat} {x : WbEntry} {ps : List (Nat × Nat)} {w : Who} {bs : List Byte}
    (h : s.Loads q e x ps cmd w o) (hpiece : ps[x.filled]? = some (va, n))
    (hread : s.readPiece (dieOfQuad q) w.ctx cmd x.filled va n = .data bs) :
    ∃ t, s.loadBlock q e = .next t ∧ (t.quad q).entry e = { x with filled := x.filled + 1 }
      ∧ ∀ k < bs.length, (o + k) / 4096 < x.gran.length → Memory.readByte t.mem (x.address q (o + k)) = bs.getD k 0 := by
  obtain ⟨hm, hx, hst, hload, hnd, hps, ho⟩ := h
  unfold State.loadBlock
  dsimp only
  rw [← hx, hst, hload]
  dsimp only
  rw [← hps, hpiece]
  dsimp only
  rw [hread]
  dsimp only
  rw [← ho]
  exact ⟨_, rfl, State.setEntry_entry .., fun k hk hlt => (State.fillEntry_bytes q x.gran s o bs hm hnd).2 k hk hlt⟩

/-- An entry that is being evicted and that nothing uses becomes empty, with a message to the handler that asked. -/
theorem entry_frees {s : State} {q e : Nat} {x : WbEntry} {d : DWord} {w : Who} (hx : x = (s.quad q).entry e)
    (hst : x.st = .evicting) (hev : x.evict = some (d, w)) (hpin : x.pin = 0) (hreads : (s.quad q).readsEntry e = false) :
    ∃ t, exec (.wbEntryFree q e) s = .next t ∧ (t.quad q).entry e = WbEntry.reset ∧ t.mem = s.mem := by
  rw [show exec (.wbEntryFree q e) s = execWbEntryFree q e s from rfl, execWbEntryFree]
  dsimp only
  rw [← hx, hst, hev]
  dsimp only
  rw [if_neg (by simp [hpin, hreads])]
  refine ⟨_, rfl, ?_, ?_⟩
  · rw [State.deliver_part (fun u => (u.quad q).entry e) (fun _ _ _ => rfl)]
    exact State.setEntry_entry ..
  · rw [State.deliver_mem]
    rfl

/-- Settles O41: the spring serves the request whose turn it is, and an entry of the weight buffer fills, is loaded and is freed
by steps that write its own granules alone. -/
theorem springAndWeightBufferServe : Obligations.SpringAndWeightBufferServe := by
  refine ⟨fun s q ps c pid r x p sl i e hr hcycle hfree hfirst hc hx => ?_, fun s q e x hx =>
    ⟨fun ps cmd w bs o hm hst hload hnd hps ho => ?_, fun d w hst hev hpin hreads => entry_frees hx hst hev hpin hreads⟩⟩
  · have hex := exec_springServe hr hcycle hfree hfirst
    obtain ⟨hreqs, hturn⟩ := s.serve_turn q r ((s.quad q).springReqs.erase r)
    have href : ∀ b, s.referenced c q ps = b → (s.setQuad q { s.quad q with
        springReqs := (s.quad q).springReqs.erase r, springLast := some s.clock }).referenced c q ps = b := fun b hb => by
      rw [State.referenced, State.quad_setQuad_same]
      exact hb
    refine ⟨⟨_, hex, hreqs, hturn⟩, fun d hwhat hps ha hb hnr hl hp => ?_, fun d bs g hwhat hps ha hb hnr hcrc hg hp => ?_⟩
    · obtain ⟨h1, h2, j, h3, h4⟩ := spring_seeds (u := s.setQuad q { s.quad q with
        springReqs := (s.quad q).springReqs.erase r, springLast := some s.clock }) rfl rfl (href _ hnr) hc hx hwhat hps ha hb hl hp
      exact ⟨_, j, hex, h1, hreqs, h2, h3, h4⟩
    · obtain ⟨h1, h2, j, h3, h4⟩ := spring_loads (u := s.setQuad q { s.quad q with
        springReqs := (s.quad q).springReqs.erase r, springLast := some s.clock }) rfl rfl (href _ hnr) hc hx hwhat hps ha hb hcrc
        hg hp
      exact ⟨_, j, hex, h1, hreqs, h2, h3, h4⟩
  · have hloads : s.Loads q e x ps cmd w o := ⟨hm, hx, hst, hload, hnd, hps, ho⟩
    exact ⟨load_completes hloads, fun va n hpiece hread => load_goesOn hloads hpiece hread⟩

end Sys2Proof.Machine

/-! The journal at the hub: JREC, JCKPT, JTRUNC and JEMIT as their sequence stands (06 R125 to R127; 20 R334 to R336). -/

namespace Sys2Proof.Machine

open Sys2Proof

/-! What a unit of the barn network leaves. -/

/-- A part of the state beside the hub, the ports and the outbox. -/
theorem barnTry_part {β : Type} (r : State → β) (hr : ∀ (s : State) h ps o, r { s with hub := h, ports := ps, outbox := o } = r s)
    (x : State × List BarnOut × List Nat) (b : BarnOut) : r (barnTry x b).1 = r x.1 := by
  unfold barnTry
  dsimp only
  split
  · rfl
  · split
    · rfl
    · exact hr x.1 _ _ _

theorem State.barnFlush_part {β : Type} (r : State → β)
    (hr : ∀ (s : State) h ps o, r { s with hub := h, ports := ps, outbox := o } = r s) (s : State) : r s.barnFlush = r s := by
  have h : r (s.hub.barnQ.foldl barnTry (s, [], [])).1 = r s :=
    List.foldlRecOn (motive := fun x : State × List BarnOut × List Nat => r x.1 = r s) s.hub.barnQ barnTry rfl
      (fun x hx b _ => (barnTry_part r hr x b).trans hx)
  exact (hr _ _ _ _).trans h

theorem State.barnSend_part {β : Type} (r : State → β)
    (hr : ∀ (s : State) h ps o, r { s with hub := h, ports := ps, outbox := o } = r s) (s : State) (chip : Nat) (u : PeerUnit) :
    r (s.barnSend chip u) = r s :=
  (State.barnFlush_part r hr _).trans (hr _ _ _ _)

theorem State.sendBarn_part {β : Type} (r : State → β)
    (hr : ∀ (s : State) h ps o, r { s with hub := h, ports := ps, outbox := o } = r s) (s : State) (e : BarnEntry) :
    r (s.sendBarn e) = r s := by
  unfold State.sendBarn
  split
  · exact State.barnSend_part r hr s _ _
  · rfl

theorem Hub.unqueued_part {β : Type} (r : Hub → β) (hr : ∀ (h : Hub) q, r { h with barnQ := q } = r h) {h k : Hub}
    (hk : h.unqueued = k.unqueued) : r h = r k :=
  (hr h []).symm.trans ((congrArg r hk).trans (hr k []))

/-- The entries of JBUF and the sequences stand as they did when an entry leaves for the barn. -/
theorem State.sendBarn_jbuf (s : State) (e : BarnEntry) : (s.sendBarn e).hub.jbuf = s.hub.jbuf :=
  Hub.unqueued_part Hub.jbuf (fun _ _ => rfl) (s.sendBarn_hub e)

theorem State.sendBarn_seq? (s : State) (e : BarnEntry) (c : Nat) (q : BitVec 32) :
    (s.sendBarn e).hub.seq? c q = s.hub.seq? c q :=
  Hub.unqueued_part (fun h => h.seq? c q) (fun _ _ => rfl) (s.sendBarn_hub e)

theorem State.append_jbuf (s : State) (e : BarnEntry) : (s.append e).hub.jbuf = s.hub.jbuf ++ [(e, false)] :=
  State.sendBarn_jbuf _ e

theorem State.append_seq? (s : State) (e : BarnEntry) (c : Nat) (q : BitVec 32) :
    (s.append e).hub.seq? c q = s.hub.seq? c q :=
  State.sendBarn_seq? _ e c q

theorem State.closeSeq_jbuf (s : State) (c : Nat) (q : BitVec 32) :
    (s.closeSeq c q).hub.jbuf = withoutSeq s.hub.jbuf c q :=
  State.sendBarn_jbuf _ _

theorem State.closeSeq_seq? (s : State) (c : Nat) (q : BitVec 32) : (s.closeSeq c q).hub.seq? c q = none := by
  refine (State.sendBarn_seq? _ _ c q).trans ?_
  refine List.find?_eq_none.mpr (fun x hx => ?_)
  have h := (List.mem_filter.mp hx).2
  simpa only [Bool.not_eq_true] using (Bool.not_eq_true' _).mp h

/-- A sequence that is entered is the one found under its name. -/
theorem find?_putSeq (l : List JSeq) (x : JSeq) :
    (putSeq l x).find? (fun y => y.ctx = x.ctx && y.seq = x.seq) = some x := by
  have hself : (decide (x.ctx = x.ctx) && decide (x.seq = x.seq)) = true := by simp
  induction l with
  | nil => exact List.find?_cons_of_pos hself
  | cons y l ih =>
    unfold putSeq
    split
    · exact List.find?_cons_of_pos hself
    · next hne =>
      split
      · exact List.find?_cons_of_pos hself
      · rw [List.find?_cons_of_neg (by simpa using hne)]
        exact ih

theorem Hub.seq?_putSeq (h : Hub) {x : JSeq} {c : Nat} {q : BitVec 32} (hc : x.ctx = c) (hq : x.seq = q) :
    (h.putSeq x).seq? c q = some x := by
  subst hc hq
  exact find?_putSeq h.seqs x

/-- A sequence that is found bears the name it was asked by. -/
theorem Hub.seq?_named {h : Hub} {c : Nat} {q : BitVec 32} {x : JSeq} (hx : h.seq? c q = some x) : x.ctx = c ∧ x.seq = q := by
  have h := List.find?_some hx
  simpa using h

/-! The hub's answer. -/

/-- The journal alone has moved: memory, the cores and the contexts stand as they did. -/
structure State.JournalMoves (t s : State) : Prop where
  mem : t.mem = s.mem
  cores : t.cores = s.cores
  ctxs : t.ctxs = s.ctxs

namespace State.JournalMoves

theorem refl (s : State) : s.JournalMoves s := ⟨rfl, rfl, rfl⟩

theorem trans {s t u : State} (h : t.JournalMoves s) (k : u.JournalMoves t) : u.JournalMoves s :=
  ⟨k.mem.trans h.mem, k.cores.trans h.cores, k.ctxs.trans h.ctxs⟩

theorem setHub (s : State) (h : Hub) : (s.setHub h).JournalMoves s := ⟨rfl, rfl, rfl⟩

theorem sendBarn (s : State) (e : BarnEntry) : (s.sendBarn e).JournalMoves s :=
  ⟨s.sendBarn_mem e, s.sendBarn_part State.cores (fun _ _ _ _ => rfl) e, s.sendBarn_part State.ctxs (fun _ _ _ _ => rfl) e⟩

theorem append (s : State) (e : BarnEntry) : (s.append e).JournalMoves s := (setHub s _).trans (sendBarn _ e)

theorem closeSeq (s : State) (c : Nat) (q : BitVec 32) : (s.closeSeq c q).JournalMoves s := (setHub s _).trans (sendBarn _ _)

theorem truncate (s : State) (c : Nat) (q m : BitVec 32) : (s.truncate c q m).2.JournalMoves s := (setHub s _).trans (sendBarn _ _)

/-- The answer to a request leaves for its core. -/
theorem hubAnswers {s t : State} (h : t.JournalMoves s) (f : Flight) (a : HubAns) : (t.hubAnswers f a).HubSays s f a := by
  refine ⟨⟨_, List.mem_append_right _ (List.mem_singleton.mpr rfl), rfl, rfl, rfl, ?_, rfl⟩, h.mem, fun p sl => ?_⟩
  · have hl : t.lc f.who.ctx f.who.lcore = s.lc f.who.ctx f.who.lcore := by
      simp only [State.lc, State.ctx, h.ctxs]
    exact congrArg (fun l : CtxCore => Goal.core l.pos) hl
  · change t.inst? p sl = s.inst? p sl
    simp only [State.inst?, State.core, h.cores]

end State.JournalMoves

/-- A journal request that stands first at the hub is applied, and its answer leaves. -/
theorem State.journalDo_answers {s t : State} {id : Nat} {f : Flight} {j : JReq} {a : HubAns} (hf : s.flight? id = some f)
    (hb : f.body = .hubReq j) (ha : s.firstArrival f = true) (hj : s.journalDo f.who.ctx j = some (a, t))
    (hk : t.JournalMoves s) : ∃ u, exec (.jrecHubApply id) s = .next u ∧ u.HubSays s f a ∧ u.hub = t.hub := by
  refine ⟨t.hubAnswers f a, ?_, hk.hubAnswers f a, rfl⟩
  rw [show exec (.jrecHubApply id) s = execJrecHubApply id s from rfl, execJrecHubApply, hf]
  simp only [hb, ha, hj]

/-! JREC (20 R334). -/

/-- The sequence, the step, the step word and the entry of a record. -/
def recordSeq (bs : List Byte) : BitVec 32 := BitVec.ofNat 32 (ofLe (bs.take 4))
def recordStep (bs : List Byte) : BitVec 32 := BitVec.ofNat 32 (ofLe ((bs.drop 4).take 4))
def recordStepWord (bs : List Byte) : Nat := ofLe (bs.take 4) * 2 ^ 32 + ofLe ((bs.drop 4).take 4)
def Hub.recordEntry (h : Hub) (c : Nat) (bs : List Byte) : BarnEntry :=
  ⟨1, c, h.chipId, recordSeq bs, recordStep bs, bs⟩

/-- A sequence that step 0 has opened. -/
def openedSeq (c : Nat) (q : BitVec 32) : JSeq := ⟨c, q, .live, some 0, none, none, 0, []⟩

/-- The journal once step 0 has opened its sequence anew. -/
def State.opened (s : State) (c : Nat) (bs : List Byte) : State :=
  let s' := if (s.hub.seq? c (recordSeq bs)).isSome then s.closeSeq c (recordSeq bs) else s
  (s'.setHub (s'.hub.putSeq (openedSeq c (recordSeq bs)))).append (s.hub.recordEntry c bs)

section
variable {s : State} {c pa : Nat} {bs : List Byte} {dg : BitVec 32} {y : JSeq}

/-- The next step of a live sequence. -/
theorem State.jrecApply_next (hx : s.hub.seq? c (recordSeq bs) = some y) (hst : y.st = .live) {l : BitVec 32}
    (hl : y.last = some l) (hn : l.toNat + 1 = (recordStep bs).toNat) :
    s.jrecApply c pa bs dg = if s.hub.jbufTakes (entrySize (s.hub.recordEntry c bs)) = true then
      (.done 0 none, (s.setHub (s.hub.putSeq { y with last := some (recordStep bs) })).append (s.hub.recordEntry c bs))
      else (.done 2 none, s) := by
  have h0 : recordStep bs ≠ 0 := fun h => by rw [h] at hn; cases hn
  unfold recordSeq at hx
  unfold recordStep at hn h0
  simp only [State.jrecApply, hx, hst, hl, Option.map_some, hn, h0, if_true, if_false]
  rfl

/-- Step 0, where no sequence of that name replays or has diverged. -/
theorem State.jrecApply_opens (hn : recordStep bs = 0)
    (hst : ∀ y, s.hub.seq? c (recordSeq bs) = some y → y.st = .live ∨ y.st = .closed) :
    s.jrecApply c pa bs dg = if s.hub.jbufTakes (entrySize (s.hub.recordEntry c bs)) = false
        ∨ (s.hub.seq? c (recordSeq bs) = none ∧ 65536 ≤ s.hub.seqs.length) then (.done 2 none, s)
      else (.done 0 none, s.opened c bs) := by
  have hcond : ∀ (b : Bool) (o : Option JSeq) (p : Prop) [Decidable p],
      ((!b || o.isNone && decide p) = true) ↔ (b = false ∨ (o = none ∧ p)) := fun b o p _ => by
    simp only [Bool.or_eq_true, Bool.not_eq_true', Bool.and_eq_true, Option.isNone_iff_eq_none, decide_eq_true_eq]
  unfold State.jrecApply
  extract_lets w order q n h e fresh openIt
  have hopen : openIt s = if s.hub.jbufTakes (entrySize (s.hub.recordEntry c bs)) = false
        ∨ (s.hub.seq? c (recordSeq bs) = none ∧ 65536 ≤ s.hub.seqs.length) then (.done 2 none, s)
      else (.done 0 none, s.opened c bs) := by
    exact if_congr (hcond _ _ _) rfl rfl
  have hn' : n = 0 := hn
  have hst' : ∀ y, h.seq? c q = some y → y.st = .live ∨ y.st = .closed := hst
  rw [← hopen]
  split
  · exact if_pos hn'
  · next x hx =>
    obtain hl | hc := hst' x hx
    · simp only [hl, if_pos hn']
    · simp only [hc, if_pos hn']

/-- The step at the cursor of a replaying sequence. -/
theorem State.jrecApply_replays (hx : s.hub.seq? c (recordSeq bs) = some y) (hst : y.st = .replaying)
    (hn : recordStep bs = y.cursor) {r : List Byte} (hr : y.replay.find? (fun r => r.1 = recordStep bs) = some (recordStep bs, r)) :
    s.jrecApply c pa bs dg = if ofLe ((r.drop 24).take 4) ≠ dg.toNat then
        (.fault fDiverge (recordStepWord bs) (some (pa, padTo 304 r)), s.setHub (s.hub.putSeq { y with st := .diverged }))
      else (.done 1 (some (pa, padTo 304 r)), s.setHub (s.hub.putSeq { y with
          cursor := recordStep bs + 1
          last := some (recordStep bs)
          st := if y.replay.all (fun r => decide (r.1.toNat ≤ (recordStep bs).toNat)) = true then .live else .replaying })) := by
  unfold State.jrecApply
  extract_lets w order q n h e fresh openIt
  have hx' : h.seq? c q = some y := hx
  have hn' : n = y.cursor := hn
  have hr' : y.replay.find? (fun r => r.1 = n) = some (n, r) := hr
  simp only [hx', hst, if_pos hn', hr']
  rfl

/-- A step that is neither: the journal fault, and nothing changes. -/
theorem State.jrecApply_refuses
    (h : (s.hub.seq? c (recordSeq bs) = none ∧ recordStep bs ≠ 0) ∨ (∃ y, s.hub.seq? c (recordSeq bs) = some y ∧
      ((y.st = .closed ∧ recordStep bs ≠ 0) ∨ y.st = .diverged
        ∨ (y.st = .live ∧ recordStep bs ≠ 0 ∧ y.last.map (fun l => l.toNat + 1) ≠ some (recordStep bs).toNat)
        ∨ (y.st = .replaying ∧ recordStep bs ≠ y.cursor)))) :
    s.jrecApply c pa bs dg = (.fault fJournal (recordStepWord bs) none, s) := by
  unfold State.jrecApply
  unfold recordSeq recordStep at h
  obtain ⟨hx, hn⟩ | ⟨y, hx, ⟨hst, hn⟩ | hst | ⟨hst, hn, hl⟩ | ⟨hst, hn⟩⟩ := h
  · simp only [hx, if_neg hn]
    rfl
  · simp only [hx, hst, if_neg hn]
    rfl
  · simp only [hx, hst]
    rfl
  · simp only [hx, hst, if_neg hn, if_neg hl]
    rfl
  · simp only [hx, hst, if_neg hn]
    rfl

end

theorem State.opened_moves (s : State) (c : Nat) (bs : List Byte) : (s.opened c bs).JournalMoves s := by
  unfold State.opened
  split
  · exact ((JournalMoves.closeSeq s c _).trans (JournalMoves.setHub _ _)).trans (JournalMoves.append _ _)
  · exact (JournalMoves.setHub s _).trans (JournalMoves.append _ _)

theorem State.opened_jbuf (s : State) (c : Nat) (bs : List Byte) : (s.opened c bs).hub.jbuf =
    (if s.hub.seq? c (recordSeq bs) = none then s.hub.jbuf else withoutSeq s.hub.jbuf c (recordSeq bs))
      ++ [(s.hub.recordEntry c bs, false)] := by
  refine (State.append_jbuf _ _).trans (congrArg (· ++ [(s.hub.recordEntry c bs, false)]) ?_)
  cases hx : s.hub.seq? c (recordSeq bs) with
  | none => rfl
  | some y => exact State.closeSeq_jbuf s c (recordSeq bs)

theorem State.opened_seq? (s : State) (c : Nat) (bs : List Byte) :
    (s.opened c bs).hub.seq? c (recordSeq bs) = some (openedSeq c (recordSeq bs)) :=
  (State.append_seq? _ _ _ _).trans (Hub.seq?_putSeq _ rfl rfl)

/-- A JREC at the hub. -/
theorem jrecHubApply_records (s : State) (id pa : Nat) (bs : List Byte) (dg : BitVec 32) (d : GReg) (f : Flight)
    (hf : s.flight? id = some f) (hb : f.body = .hubReq (.jrec pa bs dg d)) (ha : s.firstArrival f = true)
    {a : HubAns} {t : State} (hj : s.jrecApply f.who.ctx pa bs dg = (a, t)) (hk : t.JournalMoves s) :
    ∃ u, exec (.jrecHubApply id) s = .next u ∧ u.HubSays s f a ∧ u.hub = t.hub :=
  State.journalDo_answers hf hb ha (congrArg some hj) hk

/-- What the hub answers to a JREC. -/
theorem jrecHubApply_answers (s : State) (id pa c : Nat) (bs : List Byte) (dg : BitVec 32) (d : GReg) (f : Flight)
    (q n : BitVec 32) (e : BarnEntry) (w : Nat) (x : Option JSeq) (hf : s.flight? id = some f)
    (hb : f.body = .hubReq (.jrec pa bs dg d)) (ha : s.firstArrival f = true) (hc : c = f.who.ctx) (hq : q = recordSeq bs)
    (hn : n = recordStep bs) (he : e = s.hub.recordEntry c bs) (hw : w = recordStepWord bs) (hx : x = s.hub.seq? c q) :
    (∀ y l, x = some y → y.st = .live → y.last = some l → l.toNat + 1 = n.toNat →
      (s.hub.jbufTakes (entrySize e) = true → ∃ t, exec (.jrecHubApply id) s = .next t ∧ t.HubSays s f (.done 0 none)
        ∧ t.hub.jbuf = s.hub.jbuf ++ [(e, false)] ∧ t.hub.seq? c q = some { y with last := some n })
      ∧ (s.hub.jbufTakes (entrySize e) = false → ∃ t, exec (.jrecHubApply id) s = .next t ∧ t.HubSays s f (.done 2 none)
        ∧ t.hub = s.hub))
    ∧ (n = 0 → (∀ y, x = some y → y.st = .live ∨ y.st = .closed) →
      (s.hub.jbufTakes (entrySize e) = true → (x = none → s.hub.seqs.length < 65536) →
        ∃ t, exec (.jrecHubApply id) s = .next t ∧ t.HubSays s f (.done 0 none)
          ∧ t.hub.jbuf = (if x = none then s.hub.jbuf else withoutSeq s.hub.jbuf c q) ++ [(e, false)]
          ∧ t.hub.seq? c q = some ⟨c, q, .live, some 0, none, none, 0, []⟩)
      ∧ ((s.hub.jbufTakes (entrySize e) = false ∨ (x = none ∧ 65536 ≤ s.hub.seqs.length)) →
        ∃ t, exec (.jrecHubApply id) s = .next t ∧ t.HubSays s f (.done 2 none) ∧ t.hub = s.hub))
    ∧ (∀ y r, x = some y → y.st = .replaying → n = y.cursor → y.replay.find? (fun r => r.1 = n) = some (n, r) →
      (ofLe ((r.drop 24).take 4) = dg.toNat → ∃ t, exec (.jrecHubApply id) s = .next t
        ∧ t.HubSays s f (.done 1 (some (pa, padTo 304 r))) ∧ t.hub.jbuf = s.hub.jbuf
        ∧ t.hub.seq? c q = some { y with
            cursor := n + 1, last := some n,
            st := if y.replay.all (fun r => decide (r.1.toNat ≤ n.toNat)) = true then .live else .replaying })
      ∧ (ofLe ((r.drop 24).take 4) ≠ dg.toNat → ∃ t, exec (.jrecHubApply id) s = .next t
        ∧ t.HubSays s f (.fault fDiverge w (some (pa, padTo 304 r))) ∧ t.hub.seq? c q = some { y with st := .diverged }))
    ∧ ((x = none ∧ n ≠ 0) ∨ (∃ y, x = some y ∧ ((y.st = .closed ∧ n ≠ 0) ∨ y.st = .diverged
          ∨ (y.st = .live ∧ n ≠ 0 ∧ y.last.map (fun l => l.toNat + 1) ≠ some n.toNat) ∨ (y.st = .replaying ∧ n ≠ y.cursor))) →
      ∃ t, exec (.jrecHubApply id) s = .next t ∧ t.HubSays s f (.fault fJournal w none) ∧ t.hub = s.hub) := by
  subst hc hq hn he hw hx
  have hrec := fun {a : HubAns} {t : State} => jrecHubApply_records s id pa bs dg d f hf hb ha (a := a) (t := t)
  refine ⟨fun y l hx hst hl hn => ?_, fun hn hst => ?_, fun y r hx hst hn hr => ?_, fun h => ?_⟩
  · have hj := State.jrecApply_next (pa := pa) (dg := dg) hx hst hl hn
    obtain ⟨hyc, hyq⟩ := Hub.seq?_named hx
    refine ⟨fun hroom => ?_, fun hfull => ?_⟩
    · obtain ⟨u, hu, hsays, hhub⟩ := hrec (hj.trans (if_pos hroom)) ((State.JournalMoves.setHub s _).trans (.append _ _))
      refine ⟨u, hu, hsays, ?_, ?_⟩
      · rw [hhub, State.append_jbuf]
        rfl
      · rw [hhub, State.append_seq?]
        exact Hub.seq?_putSeq _ hyc hyq
    · exact hrec (hj.trans (if_neg (by rw [hfull]; decide))) (.refl s)
  · have hj := State.jrecApply_opens (pa := pa) (dg := dg) hn hst
    refine ⟨fun hroom hlen => ?_, fun hfull => ?_⟩
    · have hno : ¬ (s.hub.jbufTakes (entrySize (s.hub.recordEntry f.who.ctx bs)) = false
          ∨ (s.hub.seq? f.who.ctx (recordSeq bs) = none ∧ 65536 ≤ s.hub.seqs.length)) := by
        rintro (h | ⟨hx, h⟩)
        · rw [hroom] at h
          cases h
        · exact absurd (hlen hx) (by omega)
      obtain ⟨u, hu, hsays, hhub⟩ := hrec (hj.trans (if_neg hno)) (s.opened_moves _ _)
      exact ⟨u, hu, hsays, hhub ▸ s.opened_jbuf _ _, hhub ▸ s.opened_seq? _ _⟩
    · exact hrec (hj.trans (if_pos hfull)) (.refl s)
  · have hj := State.jrecApply_replays (pa := pa) (dg := dg) hx hst hn hr
    obtain ⟨hyc, hyq⟩ := Hub.seq?_named hx
    refine ⟨fun hd => ?_, fun hd => ?_⟩
    · obtain ⟨u, hu, hsays, hhub⟩ := hrec (hj.trans (if_neg (not_not_intro hd))) (.setHub s _)
      refine ⟨u, hu, hsays, ?_, ?_⟩
      · rw [hhub]
        rfl
      · rw [hhub]
        exact Hub.seq?_putSeq _ hyc hyq
    · obtain ⟨u, hu, hsays, hhub⟩ := hrec (hj.trans (if_pos hd)) (.setHub s _)
      refine ⟨u, hu, hsays, ?_⟩
      rw [hhub]
      exact Hub.seq?_putSeq _ hyc hyq
  · exact hrec (State.jrecApply_refuses h) (.refl s)

/-! JCKPT, JTRUNC and JEMIT (20 R335, R336). -/

/-- A request whose answer leaves the hub as it was. -/
theorem State.journalDo_refuses {s : State} {id : Nat} {f : Flight} {j : JReq} {a : HubAns} (hf : s.flight? id = some f)
    (hb : f.body = .hubReq j) (ha : s.firstArrival f = true) (hj : s.journalDo f.who.ctx j = some (a, s)) :
    ∃ u, exec (.jrecHubApply id) s = .next u ∧ u.HubSays s f a ∧ u.hub = s.hub :=
  State.journalDo_answers hf hb ha hj (.refl s)

theorem seqOf_eq_extract (w : Word) : seqOf w = w.extractLsb' 32 32 := by
  simp [seqOf, BitVec.extractLsb', Nat.shiftRight_eq_div_pow]

theorem stepOf_eq_extract (w : Word) : stepOf w = w.extractLsb' 0 32 := by
  simp [stepOf, BitVec.extractLsb']

/-- A JCKPT of a step that has been recorded appends its marker; another is the journal fault. -/
theorem jckpt_answers {s : State} {id c : Nat} {f : Flight} {q n : BitVec 32} (hf : s.flight? id = some f)
    (ha : s.firstArrival f = true) (hc : c = f.who.ctx) {w loc : Word} (hb : f.body = .hubReq (.jckpt w loc))
    (hq : q = seqOf w) (hn : n = stepOf w) :
    (∀ y l, s.hub.seq? c q = some y → y.last = some l → n.toNat ≤ l.toNat → ∃ t, exec (.jrecHubApply id) s = .next t
      ∧ t.HubSays s f (.done 0 none)
      ∧ t.hub.jbuf = s.hub.jbuf ++ [(⟨2, c, s.hub.chipId, q, n, leBytes 8 loc.toNat⟩, false)])
    ∧ ((s.hub.seq? c q = none ∨ ∃ y, s.hub.seq? c q = some y ∧ ∀ l, y.last = some l → l.toNat < n.toNat) →
      ∃ t, exec (.jrecHubApply id) s = .next t ∧ t.HubSays s f (.fault fJournal w.toNat none) ∧ t.hub = s.hub) := by
  rw [seqOf_eq_extract] at hq
  rw [stepOf_eq_extract] at hn
  subst hc hq hn
  refine ⟨fun y l hx hl hle => ?_, fun h => ?_⟩
  · have hj : s.jckptApply f.who.ctx w loc = (.done 0 none,
        s.append ⟨2, f.who.ctx, s.hub.chipId, w.extractLsb' 32 32, w.extractLsb' 0 32, leBytes 8 loc.toNat⟩) := by
      simp only [State.jckptApply, hx, Option.bind_some, hl, if_pos hle]
    obtain ⟨u, hu, hsays, hhub⟩ := State.journalDo_answers hf hb ha (congrArg some hj) (.append s _)
    exact ⟨u, hu, hsays, hhub ▸ s.append_jbuf _⟩
  · refine State.journalDo_refuses hf hb ha (congrArg some ?_)
    obtain hx | ⟨y, hx, hl⟩ := h
    · simp only [State.jckptApply, hx, Option.bind_none]
    · simp only [State.jckptApply, hx, Option.bind_some]
      split
      · next l hly => rw [if_neg (by have := hl l hly; omega)]
      · rfl

/-- A JTRUNC with an established marker discards what the marker covers; without one it discards nothing. -/
theorem jtrunc_answers {s : State} {id c : Nat} {f : Flight} {q : BitVec 32} (hf : s.flight? id = some f)
    (ha : s.firstArrival f = true) (hc : c = f.who.ctx) (hb : f.body = .hubReq (.jtrunc q)) :
    (∀ y m, s.hub.seq? c q = some y → y.marker = some m → ∃ t, exec (.jrecHubApply id) s = .next t
      ∧ t.HubSays s f (.done (word64 (s.hub.jbuf.filter (fun e =>
          e.1.etype = 1 && e.1.ctx = c && e.1.seq = q && decide (e.1.step.toNat ≤ m.toNat))).length) none)
      ∧ t.hub.jbuf = s.hub.jbuf.filter (fun e => !(e.1.ctx = c && e.1.seq = q
          && ((e.1.etype = 1 && decide (e.1.step.toNat ≤ m.toNat)) || (e.1.etype = 2 && decide (e.1.step.toNat < m.toNat))))))
    ∧ ((∀ y, s.hub.seq? c q = some y → y.marker = none) →
      ∃ t, exec (.jrecHubApply id) s = .next t ∧ t.HubSays s f (.done 0 none) ∧ t.hub = s.hub) := by
  subst hc
  refine ⟨fun y m hx hm => ?_, fun h => ?_⟩
  · have hcount : (s.truncate f.who.ctx q m).1 = (s.hub.jbuf.filter (fun e => e.1.etype = 1 && e.1.ctx = f.who.ctx
        && e.1.seq = q && decide (e.1.step.toNat ≤ m.toNat))).length := by
      refine congrArg List.length (List.filter_congr (fun e _ => ?_))
      by_cases h1 : e.1.etype = 1 <;> simp [h1]
    have hj : s.jtruncApply f.who.ctx q
        = (.done (word64 (s.truncate f.who.ctx q m).1) none, (s.truncate f.who.ctx q m).2) := by
      simp only [State.jtruncApply, hx, Option.bind_some, hm]
    obtain ⟨u, hu, hsays, hhub⟩ := State.journalDo_answers hf hb ha (congrArg some hj) (.truncate s _ _ _)
    rw [hcount] at hsays
    exact ⟨u, hu, hsays, hhub ▸ State.sendBarn_jbuf _ _⟩
  · refine State.journalDo_refuses hf hb ha (congrArg some ?_)
    cases hx : s.hub.seq? f.who.ctx q with
    | none => simp only [State.jtruncApply, hx, Option.bind_none]
    | some y => simp only [State.jtruncApply, hx, Option.bind_some, h y hx]

/-- A JTRUNC of a whole sequence closes it. -/
theorem jclose_answers {s : State} {id c : Nat} {f : Flight} {q : BitVec 32} (hf : s.flight? id = some f)
    (ha : s.firstArrival f = true) (hc : c = f.who.ctx) (hb : f.body = .hubReq (.jclose q)) :
    (∀ y, s.hub.seq? c q = some y → ∃ t, exec (.jrecHubApply id) s = .next t
      ∧ t.HubSays s f (.done (word64 (s.hub.recordsOf c q)) none) ∧ t.hub.jbuf = withoutSeq s.hub.jbuf c q
      ∧ t.hub.seq? c q = none)
    ∧ (s.hub.seq? c q = none → ∃ t, exec (.jrecHubApply id) s = .next t ∧ t.HubSays s f (.done 0 none) ∧ t.hub = s.hub) := by
  subst hc
  refine ⟨fun y hx => ?_, fun hx => State.journalDo_refuses hf hb ha (congrArg some ?_)⟩
  · have hj : s.jcloseApply f.who.ctx q = (.done (word64 (s.hub.recordsOf f.who.ctx q)) none, s.closeSeq f.who.ctx q) := by
      simp only [State.jcloseApply, hx]
    obtain ⟨u, hu, hsays, hhub⟩ := State.journalDo_answers hf hb ha (congrArg some hj) (.closeSeq s _ _)
    exact ⟨u, hu, hsays, hhub ▸ s.closeSeq_jbuf _ _, hhub ▸ s.closeSeq_seq? _ _⟩
  · simp only [State.jcloseApply, hx]

/-- The hub judges a JEMIT by its gate. -/
theorem jemit_answers {s : State} {id c : Nat} {f : Flight} {q n : BitVec 32} (hf : s.flight? id = some f)
    (ha : s.firstArrival f = true) (hc : c = f.who.ctx) {st route token : Word} {d : GReg}
    (hb : f.body = .hubReq (.jemit st route token d)) (hq : q = seqOf st) (hn : n = stepOf st) :
    ∃ t, exec (.emissionGate id) s = .next t ∧ t.hub = s.hub
      ∧ t.HubSays s f (if s.hub.recorded c q n = false then .fault fJournal st.toNat none
          else if s.hub.gateOpen c q n = true then .emit st route token d else .shut st route token d false) := by
  subst hc hq hn
  refine ⟨_, ?_, ?_, State.JournalMoves.hubAnswers (.refl s) f _⟩
  · rw [show exec (.emissionGate id) s = execEmissionGate id s from rfl, execEmissionGate, hf]
    simp only [hb, ha, Bool.not_eq_true']
  · rfl

end Sys2Proof.Machine

/-! The hub's answers at the issuing core: gD, the replayed record, the fault, the emission and the park (06 R125 to R127). -/

namespace Sys2Proof.Machine

open Sys2Proof

/-! What a fatal silo leaves of slots and cores of a context. -/

@[simp] theorem State.nextFseq_inst? (s : State) (src : Source) (c p sl : Nat) :
    (s.nextFseq src c).2.inst? p sl = s.inst? p sl := by
  cases src with
  | core q u =>
    unfold State.nextFseq State.inst?
    rw [State.core_setCore]
    split
    · next h => subst h; rfl
    · rfl
  | _ => rfl

theorem State.record_inst? (s : State) (src : Source) (c code : Nat) (fatal ff : Bool) (r : RecInfo) (p sl : Nat) :
    (s.record src c code fatal ff r).inst? p sl = s.inst? p sl := by
  have hq := s.nextFseq_inst? src c p sl
  rcases hn : s.nextFseq src c with ⟨n, q⟩
  rw [hn] at hq
  simp only [State.record, hn]
  split
  · split
    · exact hq
    · exact (State.deliver_inst? ..).trans hq
  · exact (State.deliver_inst? ..).trans hq

/-- A part of a context that a fault record leaves. -/
theorem State.record_ctxPart {β : Type} (r : Ctx → β) (hr : ∀ x l n, r { x with records := l, ndrop := n } = r x) (s : State)
    (src : Source) (c code : Nat) (fatal ff : Bool) (w : RecInfo) (k : Nat) :
    r ((s.record src c code fatal ff w).ctx k) = r (s.ctx k) := by
  have hq : ∀ j, (s.nextFseq src c).2.ctx j = s.ctx j := s.nextFseq_ctx src c
  rcases hn : s.nextFseq src c with ⟨n, q⟩
  rw [hn] at hq
  have hset : ∀ l m, r ((q.setCtx c { q.ctx c with records := l, ndrop := m }).ctx k) = r (s.ctx k) := fun l m => by
    rw [State.ctx_setCtx, ← hq]
    split
    · next h => subst h; exact hr _ _ _
    · rfl
  simp only [State.record, hn]
  split
  · split
    · exact hset _ _
    · exact (congrArg r (State.deliver_ctx ..)).trans (hset _ _)
  · exact (congrArg r (State.deliver_ctx ..)).trans (congrArg r (hq k))

/-- A part of a context that a fatal fault leaves. -/
theorem State.fatal_ctxPart {β : Type} (r : Ctx → β)
    (hr : ∀ x t h l n d, r { x with st := t, halt := h, records := l, ndrop := n, dumpDies := d } = r x) (s : State)
    (src : Source) (c code : Nat) (w : RecInfo) (k : Nat) : r ((s.fatal src c code w).ctx k) = r (s.ctx k) := by
  unfold State.fatal
  dsimp only
  split
  · exact s.record_ctxPart r (fun x l n => hr x _ _ l n _) src c code true false w k
  · have hq : ∀ j, (s.nextFseq src c).2.ctx j = s.ctx j := s.nextFseq_ctx src c
    rcases hn : s.nextFseq src c with ⟨n, q⟩
    rw [hn] at hq
    dsimp only at hq ⊢
    generalize hu : q.deliver _ _ _ _ _ _ _ _ _ = u
    have huq : ∀ j, u.ctx j = s.ctx j := fun j => by rw [← hu, State.deliver_ctx, hq]
    change r ((u.setCtx c _).ctx k) = _
    rw [State.ctx_setCtx, ← huq k]
    split
    · next h => subst h; exact hr _ _ _ _ _ _
    · rfl

theorem State.fatal_lc (s : State) (src : Source) (c code : Nat) (w : RecInfo) (k l : Nat) :
    (s.fatal src c code w).lc k l = s.lc k l :=
  s.fatal_ctxPart (fun x => x.lc l) (fun _ _ _ _ _ _ => rfl) src c code w k

/-- A slot that is free stays so. -/
theorem State.fatal_inst?_none {s : State} {p sl : Nat} (h : s.inst? p sl = none) (src : Source) (c code : Nat) (w : RecInfo) :
    (s.fatal src c code w).inst? p sl = none := by
  unfold State.fatal
  dsimp only
  split
  · exact (State.record_inst? ..).trans h
  · have hq := s.nextFseq_inst? src c p sl
    rcases hn : s.nextFseq src c with ⟨n, q⟩
    rw [hn] at hq
    dsimp only at hq ⊢
    generalize hu : q.deliver _ _ _ _ _ _ _ _ _ = u
    have hun : u.inst? p sl = none := by rw [← hu, State.deliver_inst?, hq, h]
    change ((u.setCtx c _).mapInsts c _).inst? p sl = none
    rw [State.mapInsts_inst?, State.setCtx_inst?, hun, Option.bind_none]

/-- What a part keeps that a fatal fault leaves, a silo that overflows leaves. -/
theorem State.siloOverflow_keeps {P : State → Prop} {s : State} (hs : P s)
    (hf : ∀ src c code w, P (s.fatal src c code w)) (c lc det tag : Nat) (again : Bool) : P (s.siloOverflow c lc det tag again) := by
  unfold State.siloOverflow
  extract_lets x raised
  have hr : P (raised s) := by
    simp only [raised]
    split
    · exact hf ..
    · exact hf ..
  split
  · split
    · exact hs
    · exact hr
  · exact hs
  · exact hr

/-! The park of an instance, where its silo has room or overflows. -/

/-- The state once the record of an instance that parks and its silo's control block are written. -/
def State.parkWritten (s : State) (p sl : Nat) (i : Inst) (k : Cont) (bs : List Byte) : State :=
  ((s.parking p sl i k).ownerWrite (s.contAt i.ctx i.lcore (s.lc i.ctx i.lcore).nextCont) bs).siloControl i.ctx i.lcore

theorem State.park_cases (s : State) (p sl : Nat) (i : Inst) (k : Cont) : ∃ bs : List Byte, bs.length = 4096
    ∧ ((∃ r, s.park p sl i k = (s.parkWritten p sl i k bs).setCore p (((s.parkWritten p sl i k bs).core p).cachePark i.ctx r))
      ∨ s.park p sl i k = (s.parkWritten p sl i k bs).siloOverflow i.ctx i.lcore 1 i.tag false) := by
  have hnext : ((s.unhold i).lc i.ctx i.lcore).nextCont = (s.lc i.ctx i.lcore).nextCont :=
    s.unhold_lc_of CtxCore.nextCont (fun _ _ => rfl) i
  refine ⟨({ i.kept with stopped := .no } : Inst).recordBytes k.wait.word, padTo_length 4096 _, ?_⟩
  unfold State.parkWritten
  rw [← hnext, ← State.parking_contAt s p sl i k]
  by_cases hroom : ((s.unhold i).lc i.ctx i.lcore).nextCont < ((s.unhold i).lc i.ctx i.lcore).contMax
  · exact .inl ⟨((s.unhold i).lc i.ctx i.lcore).nextCont, if_pos hroom⟩
  · exact .inr (if_neg hroom)

section
variable (s : State) (p sl : Nat) (i : Inst) (k : Cont)

theorem State.parkWritten_lc (bs : List Byte) : ∃ h, (s.parkWritten p sl i k bs).lc i.ctx i.lcore = { s.lc i.ctx i.lcore with
    held := h
    conts := (s.lc i.ctx i.lcore).conts.put (s.lc i.ctx i.lcore).nextCont { k with inst := { i.kept with stopped := .no } } } := by
  obtain ⟨h, hh⟩ := s.unhold_lc i
  refine ⟨h, ?_⟩
  rw [State.parkWritten, State.siloControl_lc, State.ownerWrite_lc, State.parking, State.lc_setLc, hh]
  rfl

theorem State.parkWritten_inst? (bs : List Byte) (hsl : sl < 8) : (s.parkWritten p sl i k bs).inst? p sl = none := by
  have hfree : ((s.unhold i).setInst p sl none).inst? p sl = none := by
    rw [State.inst?_setInst _ _ _ _ _ _ hsl, if_pos ⟨rfl, rfl⟩]
  rw [State.parkWritten, State.siloControl_inst?, State.ownerWrite_inst?]
  exact hfree

theorem State.parkWritten_out {bs : List Byte} (hlen : bs.length = 4096) (hm : s.memOk) :
    s.keepsBut (s.parkWritten p sl i k bs) i.ctx i.lcore (s.contAt i.ctx i.lcore (s.lc i.ctx i.lcore).nextCont) 4096 := by
  intro b hc hs
  have hmem : (s.parking p sl i k).mem = s.mem := s.unhold_mem i
  have hm' : (s.parking p sl i k).memOk := by
    rw [State.memOk, hmem]
    exact hm
  have hwrite : ((s.parking p sl i k).ownerWrite (s.contAt i.ctx i.lcore (s.lc i.ctx i.lcore).nextCont) bs).memOk := by
    rw [State.memOk, State.ownerWrite_mem]
    exact Memory.wf_write _ _ hm'
  have hsilo : ((s.parking p sl i k).ownerWrite (s.contAt i.ctx i.lcore (s.lc i.ctx i.lcore).nextCont) bs).siloAt i.ctx i.lcore
      = s.siloAt i.ctx i.lcore := by
    rw [State.siloAt, State.ownerWrite_lc, State.ownerWrite_ctx Ctx.desc (fun _ _ _ => rfl)]
    exact State.parking_siloAt ..
  rw [State.parkWritten, State.siloControl_out hwrite (by rw [hsilo]; exact hs), State.ownerWrite_mem,
    Memory.readByte_write_out _ _ hm' (by omega), hmem]

/-- A park frees the slot, enters the continuation, and writes its record and the silo's control block alone. -/
theorem State.park_parks (hsl : sl < 8) : (s.park p sl i k).inst? p sl = none
    ∧ (∃ h, (s.park p sl i k).lc i.ctx i.lcore = { s.lc i.ctx i.lcore with
        held := h
        conts := (s.lc i.ctx i.lcore).conts.put (s.lc i.ctx i.lcore).nextCont { k with inst := { i.kept with stopped := .no } } })
    ∧ (s.memOk → s.keepsBut (s.park p sl i k) i.ctx i.lcore
        (s.contAt i.ctx i.lcore (s.lc i.ctx i.lcore).nextCont) 4096) := by
  obtain ⟨bs, hlen, hpark⟩ := s.park_cases p sl i k
  have hinst := s.parkWritten_inst? p sl i k bs hsl
  have hlc := s.parkWritten_lc p sl i k bs
  have hmem := s.parkWritten_out p sl i k hlen
  generalize s.parkWritten p sl i k bs = v at hpark hinst hlc hmem
  obtain ⟨r, hpark⟩ | hpark := hpark
  · have hcache : (v.setCore p ((v.core p).cachePark i.ctx r)).inst? p sl = v.inst? p sl := by
      rw [State.inst?, State.core_setCore, if_pos rfl]
      rfl
    rw [hpark]
    exact ⟨hcache.trans hinst, hlc, hmem⟩
  · rw [hpark]
    refine ⟨?_, ?_, fun hm => ?_⟩
    · exact State.siloOverflow_keeps (P := fun u => u.inst? p sl = none) hinst (fun _ _ _ _ => State.fatal_inst?_none hinst ..) ..
    · have hkeep := State.siloOverflow_keeps (P := fun u => u.lc i.ctx i.lcore = v.lc i.ctx i.lcore) rfl
        (fun _ _ _ _ => State.fatal_lc ..) i.ctx i.lcore 1 i.tag false
      rw [hkeep]
      exact hlc
    · intro b
      rw [State.siloOverflow_mem]
      exact hmem hm b

end

/-! Where the answer's instance stands. -/

/-- The instance that is found stands in a slot. -/
theorem State.findInst_lt {s : State} {iid p sl : Nat} {i : Inst} (h : s.findInst iid = some (p, sl, i)) : sl < 8 := by
  unfold State.findInst at h
  obtain ⟨e, -, he⟩ := List.exists_of_findSome?_eq_some h
  split at he
  · next n hslot =>
    obtain ⟨z, -, hez⟩ := Option.map_eq_some_iff.1 he
    cases hez
    exact List.mem_range.1 (List.mem_of_find?_eq_some hslot)
  · cases he

/-- An operation that has completed leaves the instances where they are found. -/
theorem State.completeOp_findInst (s : State) (o iid : Nat) : (s.completeOp o).findInst iid = s.findInst iid :=
  List.findSome?_map

theorem State.completeOp_findPend (s : State) (o pid : Nat) : (s.completeOp o).findPend pid = s.findPend pid :=
  List.findSome?_map

/-- The state in which an answer is taken: its flight has left, and its operation has completed. -/
def State.answering (s : State) (f : Flight) : State := (s.dropFlight f.id).completeOp f.opId

/-- The slot of the answer's instance, which waits no longer. -/
def State.unwaited (s : State) (f : Flight) (p sl : Nat) (i : Inst) : State :=
  { (s.answering f).setInst p sl (some { i with waitOn := none }) with curP := p, curS := sl }

section
variable {s : State} {f : Flight}

theorem State.answering_findInst (iid : Nat) : (s.answering f).findInst iid = s.findInst iid :=
  State.completeOp_findInst (s.dropFlight f.id) f.opId iid

theorem State.answering_findPend (pid : Nat) : (s.answering f).findPend pid = s.findPend pid :=
  State.completeOp_findPend (s.dropFlight f.id) f.opId pid

variable {p sl : Nat} {i : Inst} (h : s.findInst f.who.iid = some (p, sl, i))
include h

theorem State.takeHub_emit (st route token : Word) (d : GReg) : s.takeHub f (.emit st route token d)
    = ((s.unwaited f p sl i).emission { i with waitOn := none } st route token).setInst p sl
        (some (({ i with waitOn := none } : Inst).writeG d 0).settleEdge) := by
  unfold State.takeHub
  dsimp only
  rw [show ((s.dropFlight f.id).completeOp f.opId).findInst f.who.iid = some (p, sl, i) from
    (State.answering_findInst (s := s) (f := f) _).trans h]
  rfl

theorem State.takeHub_lost (v : Word) (d : GReg) : s.takeHub f (.lost v d)
    = (s.unwaited f p sl i).setInst p sl (some (({ i with waitOn := none } : Inst).writeG d v).settleEdge) := by
  unfold State.takeHub
  dsimp only
  rw [show ((s.dropFlight f.id).completeOp f.opId).findInst f.who.iid = some (p, sl, i) from
    (State.answering_findInst (s := s) (f := f) _).trans h]
  rfl

theorem State.takeHub_shut (st route token : Word) (d : GReg) (o : Bool) : s.takeHub f (.shut st route token d o)
    = (s.unwaited f p sl i).park p sl ({ i with waitOn := none } : Inst).safePoint
        ⟨{ i with waitOn := none }, .gate (seqOf st) (stepOf st), d, if o then some 1 else none, none,
          some (route, token, st), .none⟩ := by
  unfold State.takeHub
  dsimp only
  rw [show ((s.dropFlight f.id).completeOp f.opId).findInst f.who.iid = some (p, sl, i) from
    (State.answering_findInst (s := s) (f := f) _).trans h]
  rfl

end

end Sys2Proof.Machine

/-! An answer of the hub completes at its core (06 R125 to R127; 10 R220). -/

namespace Sys2Proof.Machine

open Sys2Proof

/-! A loop boundary and the requests that wait for a page. -/

theorem Inst.writeG_pageWait (i : Inst) (w : List Nat) (r : GReg) (x : Word) :
    ({ i with pageWait := w } : Inst).writeG r x = { i.writeG r x with pageWait := w } := by
  unfold Inst.writeG Inst.setG
  split <;> rfl

theorem loopCheck_pageWait (i : Inst) (w : List Nat) (l idx : Nat) : loopCheck { i with pageWait := w } l idx
    = ({ (loopCheck i l idx).1 with pageWait := w }, (loopCheck i l idx).2) := by
  unfold loopCheck
  rw [show ({ i with pageWait := w } : Inst).readG = i.readG from rfl,
    show ({ i with pageWait := w } : Inst).hbase = i.hbase from rfl]
  simp only [Inst.writeG_pageWait]
  split
  · split <;> rfl
  · rfl

theorem Inst.boundary_pageWait (i : Inst) (w : List Nat) :
    ({ i with pageWait := w } : Inst).boundary = { i.boundary with pageWait := w } := by
  unfold Inst.boundary
  dsimp only
  rw [show ({ i with pageWait := w } : Inst).index = i.index from rfl, loopCheck_pageWait]
  rcases loopCheck i 1 (i.index i.pc) with ⟨j, _ | t⟩
  · dsimp only
    rw [loopCheck_pageWait]
    rcases loopCheck j 0 (i.index i.pc) with ⟨k, _ | t⟩ <;> rfl
  · rfl

/-- A loop boundary that is settled leaves the requests that wait for a page, and does not look at them. -/
theorem Inst.settleEdge_pageWait (i : Inst) (w : List Nat) :
    ({ i with pageWait := w } : Inst).settleEdge = { i.settleEdge with pageWait := w } := by
  unfold Inst.settleEdge
  rw [show ({ i with pageWait := w } : Inst).edge = i.edge from rfl,
    show ({ i with pageWait := w } : Inst).loopPending = i.loopPending from rfl]
  split
  · exact Inst.boundary_pageWait { i with edge := false } w
  · rfl

/-! gD as an answer gives it. -/

theorem Inst.arrive_edge (i : Inst) (e : Pend) (x : Nat) : (i.arrive e x).edge = i.edge := by
  have hset : ∀ (j : Inst) r y, (j.setG r y).edge = j.edge := fun j r y => by
    unfold Inst.setG
    split <;> rfl
  unfold Inst.arrive
  dsimp only
  split
  · rfl
  · split
    · rfl
    · exact hset ..
    · rfl
    · rfl
    · exact hset ..
    · rfl

theorem Inst.arrive_readG (i : Inst) {e : Pend} {d : GReg} (hd : e.dst = .g d) (hl : e.live = true) (v : Word) :
    (i.arrive e v.toNat).readG d = if d = 0 then 0 else v := by
  have hw : word64 v.toNat = v := BitVec.ofNat_toNat 64 v
  have harr : i.arrive e v.toNat = (i.dropPend e.id).setG d (word64 v.toNat) := by
    simp only [Inst.arrive, hl, hd, Bool.not_true, Bool.false_eq_true, if_false]
  rw [harr, hw, Inst.readG_setG]
  by_cases h0 : d = 0
  · rw [if_neg (fun h => h.2 h0), if_pos h0, h0]
    rfl
  · rw [if_pos ⟨rfl, h0⟩, if_neg h0]

/-- The copy-queue check of an instance changes what it waits for there alone. -/
theorem State.latchFull_eq (s : State) (i : Inst) : ∃ o, s.latchFull i = { i with fullOn := o } := by
  unfold State.latchFull
  dsimp only
  split
  · split
    · exact ⟨_, rfl⟩
    · exact ⟨_, rfl⟩
  · exact ⟨_, rfl⟩

/-- A result enters the register that waits for it. -/
theorem State.fill_returns {s : State} {pid p sl : Nat} {i : Inst} {e : Pend} (h : s.findPend pid = some (p, sl, i, e)) (v : Word) :
    ∃ j : Inst, (s.fill pid v.toNat).inst? p sl = some j.settleEdge ∧ j.edge = i.edge
      ∧ ∀ d, e.dst = .g d → e.live = true → j.readG d = if d = 0 then 0 else v := by
  obtain ⟨hsl, -, -⟩ := State.findPend_spec h
  have hi : ∃ o, (if e.returning then s.latchFull i else i) = { i with fullOn := o } := by
    split
    · exact s.latchFull_eq i
    · exact ⟨i.fullOn, rfl⟩
  obtain ⟨o, ho⟩ := hi
  have hfill : s.fill pid v.toNat = s.setInst p sl (some
      { (({ i with fullOn := o } : Inst).arrive e v.toNat).settleEdge with pageWait := i.pageWait.filter (fun w => w != pid) }) := by
    simp only [State.fill, h, ho]
  refine ⟨{ ({ i with fullOn := o } : Inst).arrive e v.toNat with pageWait := i.pageWait.filter (fun w => w != pid) }, ?_, ?_,
    fun d hd hl => ?_⟩
  · rw [hfill, State.inst?_setInst _ _ _ _ _ _ hsl, if_pos ⟨rfl, rfl⟩]
    exact congrArg some (Inst.settleEdge_pageWait _ _).symm
  · exact Inst.arrive_edge ..
  · exact Inst.arrive_readG { i with fullOn := o } hd hl v

/-! Each answer. -/

/-- An answer that has come and may return is taken. -/
theorem loadReturn_takesHub {s : State} {id : Nat} {f : Flight} {a : HubAns} (hf : s.flight? id = some f)
    (hb : f.body = .hubRep a) (hr : s.canReturn f = true) (hc : s.hubClear a = true) :
    exec (.loadReturn id) s = .next (s.takeHub f a) := by
  rw [show exec (.loadReturn id) s = execLoadReturn id s from rfl, execLoadReturn, hf]
  simp only [hb, hr, hc, Bool.not_true, Bool.false_eq_true, if_false]

section
variable {s : State} {f : Flight} {p sl : Nat} {i : Inst}

/-- The answer to a word whose gD the hub gives. -/
theorem State.takeHub_done {e : Pend} (h : s.findPend f.opId = some (p, sl, i, e)) (v : Word) : ∃ j : Inst,
    (s.takeHub f (.done v none)).inst? p sl = some j.settleEdge ∧ (i.edge = false → j.settleEdge = j) ∧ j.edge = i.edge
      ∧ (s.takeHub f (.done v none)).mem = s.mem
      ∧ ∀ d, e.dst = .g d → e.live = true → j.readG d = if d = 0 then 0 else v := by
  obtain ⟨j, hj, hedge, hread⟩ := State.fill_returns ((State.answering_findPend (s := s) (f := f) _).trans h) v
  exact ⟨j, hj, fun h0 => Inst.settleEdge_of_no_edge (hedge.trans h0), hedge, State.fill_mem (s.answering f) _ _, hread⟩

/-- A record that is replayed is written where the JREC read its own. -/
theorem State.takeHub_writes (hm : s.memOk) (v : Word) (pa : Nat) (bs : List Byte) (b : Nat) :
    Memory.readByte (s.takeHub f (.done v (some (pa, bs)))).mem b
      = if pa ≤ b ∧ b < pa + bs.length then bs.getD (b - pa) 0 else Memory.readByte s.mem b := by
  have hmem : (s.takeHub f (.done v (some (pa, bs)))).mem = Memory.write s.mem pa bs :=
    (State.fill_mem _ _ _).trans (State.ownerWrite_mem (s.answering f) pa bs)
  rw [hmem]
  exact Memory.readByte_write bs hm pa b

/-- An answer that is a fault ends its instance. -/
theorem State.takeHub_faults {code det : Nat} (hcode : code = fJournal ∨ code = fDiverge) (hc : f.who.ctx < 32)
    (h : s.findInst f.who.iid = some (p, sl, i))
    (hl : ((s.ctx f.who.ctx).lcs.get? ((s.ctx f.who.ctx).desc.fcore % 1024)).isSome = true) :
    ∃ m, (s.takeHub f (.fault code det none)).inst? p sl = none ∧ (s.takeHub f (.fault code det none)).mem = s.mem
      ∧ (s.takeHub f (.fault code det none)).carries f.who.ctx m ∧ recordWord m 0 / 2 ^ 48 = code := by
  have htake : s.takeHub f (.fault code det none) = ((s.answering f).record (.core p 0) f.who.ctx code false f.who.fromFault
      (recOf { f.who with sl := sl } false 0 det)).endInst p sl i := by
    change (s.answering f).raiseLate f.who code 0 det = _
    unfold State.raiseLate
    dsimp only
    rw [State.answering_findInst, h]
  obtain ⟨m, hm, hrec⟩ := (s.answering f).record_carries (.core p 0) f.who.ctx code false f.who.fromFault
    (recOf { f.who with sl := sl } false 0 det) hc hl
  have hlt : code < 2 ^ 16 := by
    rcases hcode with rfl | rfl
    · decide
    · decide
  refine ⟨m, ?_, ?_, ?_, hrec.class_word hc hlt⟩
  · rw [htake]
    exact State.endInst_inst? _ _ _ _ (State.findInst_lt h)
  · rw [htake, State.endInst_mem, State.record_mem]
    rfl
  · rw [htake]
    simpa only [State.carries, State.endInst_flights, State.endInst_records] using hm

/-- The word that waited for the hub goes on with gD written. -/
theorem Inst.resumed (i : Inst) (d : GReg) (v : Word) : ∃ j : Inst, j = ({ i with waitOn := none } : Inst).writeG d v
    ∧ (i.edge = false → j.settleEdge = j) ∧ j.edge = i.edge ∧ j.waitOn = none ∧ (j.readG d = if d = 0 then 0 else v)
    ∧ j.pc = i.pc := by
  have hedge : (({ i with waitOn := none } : Inst).writeG d v).edge = i.edge := Inst.writeG_edge _ d v
  have hwait : (({ i with waitOn := none } : Inst).writeG d v).waitOn = none := by
    unfold Inst.writeG Inst.setG
    split <;> rfl
  refine ⟨_, rfl, fun h0 => Inst.settleEdge_of_no_edge (hedge.trans h0), hedge, hwait, ?_, Inst.writeG_pc _ d v⟩
  rw [Inst.readG_writeG]
  by_cases h0 : d = 0
  · rw [if_neg (fun h => h.2 h0), if_pos h0, h0]
    rfl
  · rw [if_pos ⟨rfl, h0⟩, if_neg h0]

variable (h : s.findInst f.who.iid = some (p, sl, i))
include h

/-- A JEMIT whose journal was lost goes on with the answer of the loss. -/
theorem State.takeHub_loses (v : Word) (d : GReg) : ∃ j : Inst, (s.takeHub f (.lost v d)).mem = s.mem
    ∧ (s.takeHub f (.lost v d)).inst? p sl = some j.settleEdge ∧ (i.edge = false → j.settleEdge = j) ∧ j.edge = i.edge
    ∧ j.waitOn = none ∧ j.readG d = if d = 0 then 0 else v := by
  obtain ⟨j, rfl, hset, hedge, hwait, hread, -⟩ := i.resumed d v
  refine ⟨_, ?_, ?_, hset, hedge, hwait, hread⟩
  · rw [State.takeHub_lost h]
    rfl
  · rw [State.takeHub_lost h, State.inst?_setInst _ _ _ _ _ _ (State.findInst_lt h), if_pos ⟨rfl, rfl⟩]

/-- A JEMIT whose gate is shut parks its instance. -/
theorem State.takeHub_parks (st route token : Word) (d : GReg) (o : Bool) :
    (s.takeHub f (.shut st route token d o)).inst? p sl = none
    ∧ ∀ r, r = (s.lc i.ctx i.lcore).nextCont →
      (((s.takeHub f (.shut st route token d o)).lc i.ctx i.lcore).conts.get? r).map (fun k => (k.wait, k.value))
          = some (.gate (seqOf st) (stepOf st), if o = true then some 1 else none)
      ∧ (s.memOk → s.keepsBut (s.takeHub f (.shut st route token d o)) i.ctx i.lcore (s.contAt i.ctx i.lcore r) 4096) := by
  obtain ⟨hinst, ⟨held, hlc⟩, hmem⟩ := (s.unwaited f p sl i).park_parks p sl ({ i with waitOn := none } : Inst).safePoint
    ⟨{ i with waitOn := none }, .gate (seqOf st) (stepOf st), d, if o then some 1 else none, none, some (route, token, st), .none⟩
    (State.findInst_lt h)
  rw [State.takeHub_shut h]
  refine ⟨hinst, ?_⟩
  rintro r rfl
  refine ⟨?_, hmem⟩
  have hlc' := congrArg (fun l : CtxCore => (l.conts.get? (s.lc i.ctx i.lcore).nextCont).map (fun k => (k.wait, k.value))) hlc
  refine hlc'.trans ?_
  exact congrArg (Option.map (fun k : Cont => (k.wait, k.value))) (Tab.get?_put (s.lc i.ctx i.lcore).conts
    (s.lc i.ctx i.lcore).nextCont _)

end

/-! The emission. -/

/-- The message of an emission. -/
def State.emitted (s : State) (i : Inst) (route st token : Word) (scope : Nat) : Msg :=
  ⟨sendHdr (s.ctx i.ctx) i (routeChip route.toNat) (routeCore route.toNat) 0
    (s.defaultPrio i.ctx (s.ctx i.ctx).gen (bitsOf route.toNat 31 20)) (bitsOf route.toNat 31 20)
    (route.toNat % 65536) (7 * 2 ^ 15 + 16) scope 0 0, leBytes 8 st.toNat ++ leBytes 8 token.toNat, none⟩

/-- An emission to a destination that can be reached is on its way. -/
theorem State.emission_sends {s : State} {i : Inst} {route : Word} (hc : i.ctx < 32)
    (hr : s.reaches i.ctx (bitsOf route.toNat 63 48) (bitsOf route.toNat 47 38)) (st token : Word) :
    ∃ g ∈ (s.emission i st route token).flights, ∃ m k, g.body = .msg m k
      ∧ m.payload = leBytes 8 st.toNat ++ leBytes 8 token.toNat ∧ m.hdr.kind = 0 ∧ m.hdr.plen = 16 ∧ m.hdr.chan = 0
      ∧ m.hdr.dchip.toNat = bitsOf route.toNat 63 48 ∧ m.hdr.dcore.toNat = bitsOf route.toNat 47 38
      ∧ m.hdr.hidx.toNat = bitsOf route.toNat 31 20 ∧ m.hdr.tag.toNat = route.toNat % 65536 := by
  have hlt := route.isLt
  have hchip : (BitVec.ofNat 16 (routeChip route.toNat)).toNat = bitsOf route.toNat 63 48 := by
    simp only [routeChip, bitsOf, BitVec.toNat_ofNat]
    omega
  have hcore : (BitVec.ofNat 10 (routeCore route.toNat)).toNat = bitsOf route.toNat 47 38 := by
    simp only [routeCore, bitsOf, BitVec.toNat_ofNat]
    omega
  have hhidx : (BitVec.ofNat 12 (bitsOf route.toNat 31 20)).toNat = bitsOf route.toNat 31 20 := by
    simp only [bitsOf, BitVec.toNat_ofNat]
    omega
  have htag : (BitVec.ofNat 16 (route.toNat % 65536)).toNat = route.toNat % 65536 := by
    simp only [BitVec.toNat_ofNat]
    omega
  have hctx : (BitVec.ofNat 5 i.ctx).toNat = i.ctx := by
    simp only [BitVec.toNat_ofNat]
    omega
  let m : Msg := s.emitted i route st token (s.sendScope i.ctx s.curP (routeChip route.toNat) (routeCore route.toNat))
  let u : State := (s.fresh.2).addOp s.curP
    { id := s.nextId, ctx := i.ctx, iid := i.iid, path := .snd, rd := false, taken := false,
      peer := decide (m.hdr.dchip.toNat ≠ (s.ctx i.ctx).desc.rank), mems := [], loose := [], unserved := false,
      blks := [], span := [] }
  have hreach : u.reaches m.hdr.ctx.toNat m.hdr.dchip.toNat m.hdr.dcore.toNat := by
    have hm : m.hdr.ctx.toNat = i.ctx := hctx
    have hd : m.hdr.dchip.toNat = bitsOf route.toNat 63 48 := hchip
    have hk : m.hdr.dcore.toNat = bitsOf route.toNat 47 38 := hcore
    rw [hm, hd, hk]
    exact hr
  obtain ⟨g, hg, hgb⟩ := State.deliver_sends (State.msgGoal_isSome hreach (xyOfCore s.curP)) (whoOf i s.curP s.curS) s.nextId
    .send (s.sendWaits i false (s.sendScope i.ctx s.curP (routeChip route.toNat) (routeCore route.toNat))).1
    (s.sendWaits i false (s.sendScope i.ctx s.curP (routeChip route.toNat) (routeCore route.toNat))).2 true none
  exact ⟨g, hg, m, .send, hgb, rfl, rfl, rfl, rfl, hchip, hcore, hhidx, htag⟩

section
variable {s : State} {f : Flight} {p sl : Nat} {i : Inst} (h : s.findInst f.who.iid = some (p, sl, i))
include h

/-- A JEMIT whose gate is open goes on with gD 0, and its message is on its way. -/
theorem State.takeHub_emits (st route token : Word) (d : GReg) : ∃ j : Inst,
    (s.takeHub f (.emit st route token d)).mem = s.mem
    ∧ (s.takeHub f (.emit st route token d)).inst? p sl = some j.settleEdge ∧ (i.edge = false → j.settleEdge = j)
    ∧ j.edge = i.edge ∧ j.waitOn = none ∧ j.readG d = 0 ∧ j.pc = i.pc
    ∧ (i.ctx < 32 → s.reaches i.ctx (bitsOf route.toNat 63 48) (bitsOf route.toNat 47 38) →
      ∃ g ∈ (s.takeHub f (.emit st route token d)).flights, ∃ m k, g.body = .msg m k
        ∧ m.payload = leBytes 8 st.toNat ++ leBytes 8 token.toNat ∧ m.hdr.kind = 0 ∧ m.hdr.plen = 16 ∧ m.hdr.chan = 0
        ∧ m.hdr.dchip.toNat = bitsOf route.toNat 63 48 ∧ m.hdr.dcore.toNat = bitsOf route.toNat 47 38
        ∧ m.hdr.hidx.toNat = bitsOf route.toNat 31 20 ∧ m.hdr.tag.toNat = route.toNat % 65536) := by
  obtain ⟨j, rfl, hset, hedge, hwait, hread, hpc⟩ := i.resumed d 0
  refine ⟨_, ?_, ?_, hset, hedge, hwait, hread.trans (ite_self 0), hpc, fun hc hr => ?_⟩
  · rw [State.takeHub_emit h, State.setInst_mem, State.emission_mem]
    rfl
  · rw [State.takeHub_emit h, State.inst?_setInst _ _ _ _ _ _ (State.findInst_lt h), if_pos ⟨rfl, rfl⟩]
  · rw [State.takeHub_emit h]
    exact State.emission_sends (s := s.unwaited f p sl i) (i := { i with waitOn := none }) hc hr st token

end

/-- The hub's answers at the core. -/
theorem loadReturn_answers (s : State) (id : Nat) (f : Flight) (a : HubAns) (hf : s.flight? id = some f)
    (hb : f.body = .hubRep a) (hr : s.canReturn f = true) (hcl : s.hubClear a = true) :
    (∀ v wr p sl i e, a = .done v wr →
      (wr = none → s.findPend f.opId = some (p, sl, i, e) → ∃ (t : State) (j : Inst), exec (.loadReturn id) s = .next t
        ∧ t.inst? p sl = some j.settleEdge ∧ (i.edge = false → j.settleEdge = j) ∧ j.edge = i.edge ∧ t.mem = s.mem
        ∧ ∀ d, e.dst = .g d → e.live = true → j.readG d = if d = 0 then 0 else v)
      ∧ (∀ pa bs, s.memOk → wr = some (pa, bs) → ∃ t, exec (.loadReturn id) s = .next t
        ∧ ∀ b, Memory.readByte t.mem b = if pa ≤ b ∧ b < pa + bs.length then bs.getD (b - pa) 0
            else Memory.readByte s.mem b))
    ∧ (∀ code det p sl i, a = .fault code det none → (code = fJournal ∨ code = fDiverge) → f.who.ctx < 32 →
      (s.ctx f.who.ctx).st ≠ .free → s.findInst f.who.iid = some (p, sl, i) →
      ((s.ctx f.who.ctx).lcs.get? ((s.ctx f.who.ctx).desc.fcore % 1024)).isSome = true →
      ∃ t m, exec (.loadReturn id) s = .next t ∧ t.inst? p sl = none ∧ t.mem = s.mem
        ∧ t.carries f.who.ctx m ∧ recordWord m 0 / 2 ^ 48 = code)
    ∧ (∀ p sl i, s.findInst f.who.iid = some (p, sl, i) →
      (∀ st route token d, a = .emit st route token d → ∃ (t : State) (j : Inst), exec (.loadReturn id) s = .next t
        ∧ t.mem = s.mem ∧ t.inst? p sl = some j.settleEdge ∧ (i.edge = false → j.settleEdge = j) ∧ j.edge = i.edge
        ∧ j.waitOn = none ∧ j.readG d = 0 ∧ j.pc = i.pc
        ∧ (i.ctx < 32 → s.reaches i.ctx (bitsOf route.toNat 63 48) (bitsOf route.toNat 47 38) →
          ∃ g ∈ t.flights, ∃ m k, g.body = .msg m k ∧ m.payload = leBytes 8 st.toNat ++ leBytes 8 token.toNat
            ∧ m.hdr.kind = 0 ∧ m.hdr.plen = 16 ∧ m.hdr.chan = 0
            ∧ m.hdr.dchip.toNat = bitsOf route.toNat 63 48 ∧ m.hdr.dcore.toNat = bitsOf route.toNat 47 38
            ∧ m.hdr.hidx.toNat = bitsOf route.toNat 31 20 ∧ m.hdr.tag.toNat = route.toNat % 65536))
      ∧ (∀ st route token d opened, a = .shut st route token d opened → ∃ t, exec (.loadReturn id) s = .next t
        ∧ t.inst? p sl = none
        ∧ ∀ r, r = (s.lc i.ctx i.lcore).nextCont →
          ((t.lc i.ctx i.lcore).conts.get? r).map (fun k => (k.wait, k.value))
              = some (.gate (seqOf st) (stepOf st), if opened = true then some 1 else none)
          ∧ (s.memOk → s.keepsBut t i.ctx i.lcore (s.contAt i.ctx i.lcore r) 4096))
      ∧ (∀ v d, a = .lost v d → ∃ (t : State) (j : Inst), exec (.loadReturn id) s = .next t ∧ t.mem = s.mem
        ∧ t.inst? p sl = some j.settleEdge ∧ (i.edge = false → j.settleEdge = j) ∧ j.edge = i.edge ∧ j.waitOn = none
        ∧ j.readG d = if d = 0 then 0 else v)) := by
  have hexec := loadReturn_takesHub hf hb hr hcl
  refine ⟨?_, ?_, fun p sl i hi => ⟨?_, ?_, ?_⟩⟩
  · rintro v wr p sl i e rfl
    refine ⟨?_, ?_⟩
    · rintro rfl hpend
      obtain ⟨j, hj⟩ := State.takeHub_done hpend v
      exact ⟨_, j, hexec, hj⟩
    · rintro pa bs hm rfl
      exact ⟨_, hexec, State.takeHub_writes hm v pa bs⟩
  · rintro code det p sl i rfl hcode hc - hi hl
    obtain ⟨m, hm⟩ := State.takeHub_faults (det := det) hcode hc hi hl
    exact ⟨_, m, hexec, hm⟩
  · rintro st route token d rfl
    obtain ⟨j, hj⟩ := State.takeHub_emits hi st route token d
    exact ⟨_, j, hexec, hj⟩
  · rintro st route token d opened rfl
    exact ⟨_, hexec, State.takeHub_parks hi st route token d opened⟩
  · rintro v d rfl
    obtain ⟨j, hj⟩ := State.takeHub_loses hi v d
    exact ⟨_, j, hexec, hj⟩

end Sys2Proof.Machine

/-! SETTLED. What the hub does with the journal, the barn and dumps (06 R124 to R127; 10 R220; 20 R331 to R338; 21 R348). -/

namespace Sys2Proof.Machine

open Sys2Proof

/-! Units of the barn network leave, or wait. -/

/-- A unit for the barn network has left on a port, or still waits. -/
def BarnPlaced (x : State × List BarnOut × List Nat) (b : BarnOut) : Prop :=
  (∃ pr, Out.barn pr b.chip b.unit ∈ x.1.outbox) ∨ b ∈ x.2.1

theorem BarnPlaced.barnTry {x : State × List BarnOut × List Nat} {b : BarnOut} (h : BarnPlaced x b) (e : BarnOut) :
    BarnPlaced (barnTry x e) b := by
  unfold Sys2Proof.Machine.barnTry
  dsimp only
  split
  · exact h.imp id (List.mem_append_left _)
  · split
    · exact h.imp id (List.mem_append_left _)
    · exact h.imp (fun ⟨pr, hp⟩ => ⟨pr, List.mem_append_left _ (List.mem_append_left _ hp)⟩) id

theorem barnTry_placed (x : State × List BarnOut × List Nat) (b : BarnOut) : BarnPlaced (barnTry x b) b := by
  unfold barnTry
  dsimp only
  split
  · exact .inr (List.mem_append_right _ (List.mem_singleton.2 rfl))
  · next pr _ =>
    split
    · exact .inr (List.mem_append_right _ (List.mem_singleton.2 rfl))
    · exact .inl ⟨pr, List.mem_append_right _ (List.mem_singleton.2 rfl)⟩

theorem foldl_barnTry_placed (l : List BarnOut) : ∀ (x : State × List BarnOut × List Nat) (b : BarnOut),
    BarnPlaced x b ∨ b ∈ l → BarnPlaced (l.foldl barnTry x) b := by
  induction l with
  | nil => exact fun x b h => h.elim id (fun hb => absurd hb (List.not_mem_nil))
  | cons e l ih =>
    intro x b h
    refine ih _ b ?_
    rcases h with h | h
    · exact .inl (h.barnTry e)
    · rcases List.mem_cons.1 h with rfl | h
      · exact .inl (barnTry_placed x b)
      · exact .inr h

/-- A unit has left on a barn port, or waits for one. -/
def State.barnSent (s : State) (chip : Nat) (u : PeerUnit) : Prop :=
  (∃ pr, Out.barn pr chip u ∈ s.outbox) ∨ ⟨chip, u⟩ ∈ s.hub.barnQ

theorem State.barnFlush_sends {s : State} {chip : Nat} {u : PeerUnit} (h : s.barnSent chip u) : s.barnFlush.barnSent chip u :=
  foldl_barnTry_placed s.hub.barnQ (s, [], []) ⟨chip, u⟩ (h.imp .inl id)

theorem State.barnSend_keeps {s : State} {chip : Nat} {u : PeerUnit} (h : s.barnSent chip u) (chip' : Nat) (u' : PeerUnit) :
    (s.barnSend chip' u').barnSent chip u :=
  State.barnFlush_sends (h.imp id (List.mem_append_left _))

theorem State.barnSend_sent (s : State) (chip : Nat) (u : PeerUnit) : (s.barnSend chip u).barnSent chip u :=
  State.barnFlush_sends (.inr (List.mem_append_right _ (List.mem_singleton.2 rfl)))

/-- A unit that may leave at once, with none waiting before it, leaves in the next frame of its port. -/
theorem State.barnSend_leaves {s : State} {chip pr : Nat} {u : PeerUnit} (hq : s.hub.barnQ = [])
    (hp : s.barnPort (barnSeq u) = some pr) (hm : (s.port pr).maySend (unitFlits u) false = true) :
    ∃ z, (s.barnSend chip u).outbox = s.outbox ++ [.trailer pr z, .barn pr chip u] := by
  have htry : ∀ v : State, v.barnPort (barnSeq u) = some pr → (v.port pr).maySend (unitFlits u) false = true →
      barnTry (v, [], []) ⟨chip, u⟩ = (v.sendFrame pr (some u) (.barn pr chip u), [], []) := fun v h1 h2 => by
    simp only [barnTry, h1, h2, List.contains_nil, Bool.not_true, Bool.or_false, Bool.false_eq_true, if_false]
  have hfold : (s.barnSend chip u).outbox
      = (barnTry (s.setHub { s.hub with barnQ := [⟨chip, u⟩] }, [], []) ⟨chip, u⟩).1.outbox := by
    unfold State.barnSend State.barnFlush
    rw [hq]
    rfl
  rw [hfold]
  generalize hv : s.setHub { s.hub with barnQ := [⟨chip, u⟩] } = v
  have hvp : v.barnPort (barnSeq u) = some pr := by
    rw [← hv]
    exact hp
  have hvm : (v.port pr).maySend (unitFlits u) false = true := by
    rw [← hv]
    exact hm
  have hvo : v.outbox = s.outbox := by
    rw [← hv]
    rfl
  rw [htry v hvp hvm, ← hvo]
  exact ⟨_, List.append_assoc v.outbox _ _⟩

/-! An entry at a barn. -/

theorem State.barnConfirm_barn (s : State) (es : List BarnEntry) (e : BarnEntry) : (s.barnConfirm es e).hub.barn = s.hub.barn := by
  have hsend : ∀ (u : State) chip x, (u.barnSend chip x).hub.barn = u.hub.barn := fun u chip x =>
    Hub.unqueued_part Hub.barn (fun _ _ => rfl) (u.barnSend_hub chip x)
  unfold State.barnConfirm
  dsimp only
  split
  · split
    · exact hsend ..
    · rfl
  · refine (hsend ..).trans ?_
    split
    · exact hsend ..
    · rfl

section
variable {s : State} {slot : Nat} {b : BarnSlot} {e : BarnEntry} {cfg : Nat × Nat × Nat × Nat}

theorem Hub.barnTakes_of (hj : s.hub.jcfg = some cfg) (hb : b = Tab.get ⟨none, [], []⟩ s.hub.barn slot) (hslot : slot ≤ 1)
    (hcl : b.client = none ∨ b.client = some e.src) : s.hub.barnTakes slot e = true := by
  subst hb
  unfold Hub.barnTakes
  dsimp only
  rw [hj]
  rcases hcl with h | h
  · rw [h]
    simp [hslot]
  · rw [h]
    simp [hslot]

/-- A record that a slot has room for is held, and what the slot has without a gap is confirmed. -/
theorem State.barnTake_record (hj : s.hub.jcfg = some cfg) (hb : b = Tab.get ⟨none, [], []⟩ s.hub.barn slot)
    (htakes : s.hub.barnTakes slot e = true) (ht : e.etype = 1) (hw : b.waiting = [])
    (hroom : (b.entries.map entrySize).sum + entrySize e ≤ cfg.2.2.2) (hnew : e ∉ b.entries) :
    s.barnTake slot e = (s.setHub { s.hub with barn := s.hub.barn.put slot ⟨some e.src, b.entries ++ [e], []⟩ }).barnConfirm
      (b.entries ++ [e]) e := by
  have hcov : ∀ x, barnCovers e x = false := fun x => by
    simp [barnCovers, ht]
  have hadmit : barnAdmit cfg.2.2.2 b.entries [e] = (b.entries ++ [e], []) := by
    have hc : b.entries.contains e = false := by simpa using hnew
    simp only [barnAdmit, hc, Bool.false_eq_true, if_false, if_pos hroom]
  have hkept : b.entries.filter (fun x => !barnCovers e x) = b.entries :=
    List.filter_eq_self.2 (fun x _ => by rw [hcov]; rfl)
  obtain ⟨c1, c2, c3, size⟩ := cfg
  have hne : ¬ (e.etype = 3 ∨ e.etype = 4) := by rw [ht]; decide
  simp only [State.barnTake, hj, ← hb, htakes, Bool.not_true, Bool.false_eq_true, if_false, hkept, hw, List.filter_nil,
    List.nil_append, if_neg hne, hadmit, List.length_cons, List.length_nil, Nat.zero_add, Nat.sub_zero, List.take_one,
    List.head?_cons, Option.toList_some, List.foldl_cons, List.foldl_nil]

/-- A record that is confirmed alone is acknowledged up to the last step without a gap. -/
theorem State.barnConfirm_acks {es : List BarnEntry} {n pr : Nat} (ht : e.etype = 1)
    (hn : (heldSteps (es.filter (fun x => sameSeq x e.ctx e.seq))).2 = n + 1) (hq : s.hub.barnQ = [])
    (hp : s.barnPort e.seq.toNat = some pr) (hm : (s.port pr).maySend 1 false = true) :
    ∃ z, (s.barnConfirm es e).outbox = s.outbox ++ [.trailer pr z,
      .barn pr e.src (.barnAck s.hub.chipId e.ctx e.seq (BitVec.ofNat 32 n) false)] := by
  have hne : ¬ e.etype = 2 := by rw [ht]; decide
  have hconf : s.barnConfirm es e = s.barnSend e.src (.barnAck s.hub.chipId e.ctx e.seq (BitVec.ofNat 32 n) false) := by
    unfold State.barnConfirm
    dsimp only
    rw [hn, if_neg hne, if_neg (Nat.succ_ne_zero n)]
    rfl
  rw [hconf]
  exact State.barnSend_leaves hq hp hm

/-- A barn slot keeps a record that it has room for, and acknowledges it. -/
theorem barnEntryReceive_keeps (hj : s.hub.jcfg = some cfg) (hb : b = Tab.get ⟨none, [], []⟩ s.hub.barn slot) (hslot : slot ≤ 1)
    (hcl : b.client = none ∨ b.client = some e.src) (hopen : s.barnOpen = true) :
    (∃ t, exec (.barnEntryReceive slot e) s = .next t ∧ t.mem = s.mem)
    ∧ (e.etype = 1 → b.waiting = [] → (b.entries.map entrySize).sum + entrySize e ≤ cfg.2.2.2 → e ∉ b.entries →
      ∃ t, exec (.barnEntryReceive slot e) s = .next t
        ∧ Tab.get ⟨none, [], []⟩ t.hub.barn slot = ⟨some e.src, b.entries ++ [e], []⟩
        ∧ ∀ n pr, (heldSteps ((b.entries ++ [e]).filter (fun x => sameSeq x e.ctx e.seq))).2 = n + 1 → s.hub.barnQ = [] →
            s.barnPort e.seq.toNat = some pr → (s.port pr).maySend 1 false = true →
            ∃ z, t.outbox = s.outbox ++ [.trailer pr z,
              .barn pr e.src (.barnAck s.hub.chipId e.ctx e.seq (BitVec.ofNat 32 n) false)]) := by
  have htakes := Hub.barnTakes_of hj hb hslot hcl
  have hexec : exec (.barnEntryReceive slot e) s = .next (s.barnTake slot e) := by
    rw [show exec (.barnEntryReceive slot e) s = execBarnEntryReceive slot e s from rfl, execBarnEntryReceive]
    simp only [hopen, htakes, Bool.not_true, Bool.false_eq_true, if_false]
  refine ⟨⟨_, hexec, State.barnTake_mem ..⟩, fun ht hw hroom hnew => ⟨_, hexec, ?_, fun n pr hn hq hp hm => ?_⟩⟩
  · rw [State.barnTake_record hj hb htakes ht hw hroom hnew, State.barnConfirm_barn]
    exact (Tab.get_put ..).trans (if_pos rfl)
  · rw [State.barnTake_record hj hb htakes ht hw hroom hnew]
    exact State.barnConfirm_acks (s := s.setHub _) ht hn hq hp hm

end

/-! An acknowledgement. -/

/-- The entries that an acknowledgement of the partner's barn marks. -/
def ackHits (c : Nat) (q n : BitVec 32) (marker : Bool) (e : BarnEntry) : Bool :=
  e.ctx = c && e.seq = q && (if marker then e.etype = 2 && e.step = n else e.etype = 1 && decide (e.step.toNat ≤ n.toNat))

/-- The step that an acknowledgement leaves: the acknowledged one, or a later one. -/
def ackedStep (old : Option (BitVec 32)) (n : BitVec 32) : Option (BitVec 32) :=
  match old with
  | some k => some (if k.toNat < n.toNat then n else k)
  | none => some n

theorem ackedStep_le (old : Option (BitVec 32)) (n : BitVec 32) : ∃ k, ackedStep old n = some k ∧ n.toNat ≤ k.toNat := by
  cases old with
  | none => exact ⟨n, rfl, le_refl _⟩
  | some k =>
    refine ⟨_, rfl, ?_⟩
    split
    · exact le_refl _
    · omega

/-- The sequence once an acknowledgement has reached it. -/
def JSeq.ackedTo (x : JSeq) (n : BitVec 32) (marker : Bool) : JSeq :=
  if marker then { x with marker := ackedStep x.marker n } else { x with acked := ackedStep x.acked n }

/-- What the hub holds once its partner's barn has acknowledged a step that was recorded here. -/
theorem State.barnAcked_hub {s : State} {c : Nat} {q n : BitVec 32} {x : JSeq} (ht : s.hub.barnTarget ≠ none)
    (hx : s.hub.seq? c q = some x) (hh : x.holds n = true) (marker : Bool) :
    (s.barnAcked (s.hub.barnTarget.map Prod.fst) c q n marker).hub.jbuf
        = s.hub.jbuf.map (fun e => if ackHits c q n marker e.1 then (e.1, true) else e)
      ∧ (s.barnAcked (s.hub.barnTarget.map Prod.fst) c q n marker).hub.seq? c q = some (x.ackedTo n marker) := by
  obtain ⟨tg, htg⟩ := Option.ne_none_iff_exists'.1 ht
  have hmine : (s.hub.barnTarget.any (fun t => s.hub.barnTarget.map Prod.fst == some t.1)) = true := by
    rw [htg]
    simp
  obtain ⟨hxc, hxq⟩ := Hub.seq?_named hx
  have hname : (x.ackedTo n marker).ctx = c ∧ (x.ackedTo n marker).seq = q := by
    unfold JSeq.ackedTo
    split
    · exact ⟨hxc, hxq⟩
    · exact ⟨hxc, hxq⟩
  unfold State.barnAcked
  dsimp only
  rw [hmine]
  simp only [Bool.not_true, Bool.false_and, Bool.false_eq_true, if_false, hx, hh, State.openGates_hub, Bool.true_and]
  exact ⟨rfl, Hub.seq?_putSeq _ (x := x.ackedTo n marker) hname.1 hname.2⟩

/-- An acknowledgement of the partner's barn marks the records up to its step, or a marker. -/
theorem barnAck_marks {s : State} {c : Nat} {q n l : BitVec 32} {x : JSeq} (hopen : s.barnOpen = true)
    (ht : s.hub.barnTarget ≠ none) (hx : s.hub.seq? c q = some x) (hl : x.last = some l) (hn : n.toNat ≤ l.toNat) (marker : Bool) :
    ∃ t, exec (.barnAck c q n marker) s = .next t ∧ t.mem = s.mem ∧ t.hub.jbuf.map Prod.fst = s.hub.jbuf.map Prod.fst
      ∧ (marker = false → ∀ e ∈ t.hub.jbuf, e.1.ctx = c → e.1.seq = q → e.1.etype = 1 → e.1.step.toNat ≤ n.toNat →
          e.2 = true)
      ∧ ∃ y, t.hub.seq? c q = some y ∧ (marker = false → ∃ k, y.acked = some k ∧ n.toNat ≤ k.toNat)
        ∧ (marker = true → ∃ k, y.marker = some k ∧ n.toNat ≤ k.toNat) := by
  have hexec : exec (.barnAck c q n marker) s = .next (s.barnAcked (s.hub.barnTarget.map Prod.fst) c q n marker) := by
    rw [show exec (.barnAck c q n marker) s = execBarnAck c q n marker s from rfl, execBarnAck]
    simp only [hopen, Bool.not_true, Bool.false_eq_true, if_false]
  have hholds : x.holds n = true := by
    simp [JSeq.holds, hl, hn]
  obtain ⟨hjbuf, hseq⟩ := State.barnAcked_hub ht hx hholds marker
  refine ⟨_, hexec, State.barnAcked_mem .., ?_, ?_, _, hseq, ?_, ?_⟩
  · rw [hjbuf, List.map_map]
    refine List.map_congr_left (fun e _ => ?_)
    exact (apply_ite Prod.fst _ _ _).trans (ite_self _)
  · rintro rfl e he hec heq het hes
    rw [hjbuf] at he
    obtain ⟨z, -, rfl⟩ := List.mem_map.1 he
    by_cases hz : ackHits c q n false z.1 = true
    · rw [if_pos hz]
    · rw [if_neg hz] at hec heq het hes
      exact absurd (by simp [ackHits, hec, heq, het, hes]) hz
  · rintro rfl
    exact ackedStep_le x.acked n
  · rintro rfl
    exact ackedStep_le x.marker n

/-! A read of a slot. -/

theorem State.foldl_barnSend_keeps {s : State} {chip : Nat} {u : PeerUnit} (client : Nat) (l : List BarnEntry)
    (h : s.barnSent chip u) : (l.foldl (fun s e => s.barnSend chip (.barnData client e)) s).barnSent chip u :=
  List.foldlRecOn (motive := fun t : State => t.barnSent chip u) l _ h (fun _ ht _ _ => State.barnSend_keeps ht _ _)

theorem State.foldl_barnSend_sends (chip client : Nat) : ∀ (l : List BarnEntry) (s : State) (e : BarnEntry), e ∈ l →
    (l.foldl (fun s e => s.barnSend chip (.barnData client e)) s).barnSent chip (.barnData client e) := by
  intro l
  induction l with
  | nil => exact fun s e h => absurd h List.not_mem_nil
  | cons a l ih =>
    intro s e he
    rcases List.mem_cons.1 he with rfl | he
    · exact State.foldl_barnSend_keeps client l (s.barnSend_sent chip _)
    · exact ih _ e he

theorem State.barnSend_barn (s : State) (chip : Nat) (u : PeerUnit) : (s.barnSend chip u).hub.barn = s.hub.barn :=
  Hub.unqueued_part Hub.barn (fun _ _ => rfl) (s.barnSend_hub chip u)

theorem State.barnAnswer_barn (s : State) (reader client : Nat) : (s.barnAnswer reader client).hub.barn = s.hub.barn := by
  unfold State.barnAnswer
  split
  · refine (State.barnSend_barn ..).trans ?_
    exact State.foldl_part (fun u => u.hub.barn) _ (fun u e => u.barnSend_barn ..) _ s
  · exact State.barnSend_barn ..

/-- A read of a slot is answered with its entries and their number. -/
theorem barnReadRequest_answers {s : State} (client : Nat) (hopen : s.barnOpen = true) :
    ∃ t, exec (.barnReadRequest client) s = .next t ∧ t.mem = s.mem ∧ t.hub.barn = s.hub.barn
      ∧ ∀ b u, b = s.hub.barn.find? (fun e => e.2.client = some client) →
        ((∃ k, b = some k ∧ ((∃ e ∈ k.2.entries, u = .barnData client e) ∨ u = .barnEnd client (some k.2.entries.length)))
          ∨ (b = none ∧ u = .barnEnd client none)) →
        (∃ pr, Out.barn pr 65536 u ∈ t.outbox) ∨ ⟨65536, u⟩ ∈ t.hub.barnQ := by
  refine ⟨s.barnAnswer 65536 client, ?_, State.barnAnswer_mem .., State.barnAnswer_barn .., fun b u hb h => ?_⟩
  · rw [show exec (.barnReadRequest client) s = execBarnReadRequest client s from rfl, execBarnReadRequest]
    simp only [hopen, Bool.not_true, Bool.false_eq_true, if_false]
  · change (s.barnAnswer 65536 client).barnSent 65536 u
    unfold State.barnAnswer
    rw [← hb]
    rcases h with ⟨k, rfl, ⟨e, he, rfl⟩ | rfl⟩ | ⟨rfl, rfl⟩
    · exact State.barnSend_keeps (State.foldl_barnSend_sends 65536 client k.2.entries s e he) _ _
    · exact State.barnSend_sent ..
    · exact State.barnSend_sent ..

/-! Dumps and stops (21 R348; 22 R371). -/

theorem Ctx.addCounter_saved (x : Ctx) (k n : Nat) : (x.addCounter k n).saved = x.saved := rfl

theorem State.forwardCtx_saved (s : State) (d c : Nat) : ((s.forwardCtx d c).ctx c).saved = (s.ctx c).saved := by
  have hfold : ∀ t : Tab Nat, (t.foldl (fun x e => x.addCounter e.1 e.2) (s.ctx c)).saved = (s.ctx c).saved := fun t =>
    List.foldlRecOn (motive := fun x : Ctx => x.saved = (s.ctx c).saved) t _ rfl (fun x hx e _ => (x.addCounter_saved ..).trans hx)
  unfold State.forwardCtx
  dsimp only
  change ((s.setCtx c _).ctx c).saved = _
  rw [State.ctx_setCtx, if_pos rfl]
  exact hfold _

theorem State.forwardAll_saved (s : State) (c : Nat) : ((s.forwardAll c).ctx c).saved = (s.ctx c).saved :=
  State.foldl_part (fun u => (u.ctx c).saved) _ (fun u d => u.forwardCtx_saved d c) _ s

/-- A context that is saved is SAVED, with what it left saved. -/
theorem State.saveCtx_saves (s : State) (c : Nat) (dies : List Nat) : ((s.saveCtx c dies).ctx c).st = .saved
    ∧ ((s.saveCtx c dies).ctx c).saved.isSome = true := by
  cases h : (s.ctx c).saved with
  | none =>
    obtain ⟨hst, hs⟩ := State.saveCtx_saved h dies
    exact ⟨hst, by rw [hs]; rfl⟩
  | some v =>
    have hsave : s.saveCtx c dies = (s.forwardAll c).setCtx c { (s.forwardAll c).ctx c with st := .saved, halt := .none } := by
      simp only [State.saveCtx, h]
    rw [hsave, State.ctx_setCtx, if_pos rfl]
    exact ⟨rfl, by rw [State.forwardAll_saved, h]; rfl⟩

/-- A write leaves a context with what it left saved, less the monitor entries that it hit. -/
theorem State.ownerWrite_saved (s : State) (pa : Nat) (bs : List Byte) (c : Nat) :
    ((s.ownerWrite pa bs).ctx c).saved.isSome = (s.ctx c).saved.isSome := by
  have hfire : ∀ (u : State) n, ((u.fireWatches pa n).ctx c).saved.isSome = (u.ctx c).saved.isSome := fun u n => by
    simp only [State.ctx, State.fireWatches_ctxs]
    exact Tab.get_map_of (fun x : Ctx => { x with
      saved := x.saved.map (fun v => { v with mons := v.mons.filter (fun m => !m.2.hit pa n) })
      watchers := x.watchers.filter (fun w => !overlap pa n w.pa 8) }) (fun x => x.saved.isSome) id
      (fun x => Option.isSome_map) _ rfl _ _
  unfold State.ownerWrite
  split
  · rfl
  · exact hfire ..

/-- A dump whose dies have all finished leaves its context SAVED and dumped. -/
theorem dumpComplete_dumps {s : State} {c : Nat} (hst : (s.ctx c).st = .saving) (hset : s.settledCtx c = true) {m : Msg}
    (hh : (s.ctx c).halt = .dump m) (hall : (s.ctx c).dies.all (fun d => (s.ctx c).dumpDies.contains d) = true) :
    ∃ t, exec (.dumpComplete c) s = .next t ∧ (t.ctx c).st = .saved ∧ (t.ctx c).dumped = true
      ∧ (t.ctx c).saved.isSome = true ∧ ∀ e ∈ t.hub.dumpQ, e.1 ≠ c := by
  rw [show exec (.dumpComplete c) s = execDumpComplete c s from rfl, execDumpComplete]
  obtain ⟨h1, h2⟩ := s.saveCtx_saves c []
  simp only [hst, hset, ne_eq, not_true_eq_false, Bool.not_true, Bool.false_eq_true, or_self, if_false, hh, hall]
  refine ⟨_, rfl, ?_⟩
  generalize hu : (s.saveCtx c []).ownerWrite _ _ = u
  have hust : (u.ctx c).st = .saved := by
    rw [← hu, State.ownerWrite_ctx Ctx.st (fun _ _ _ => rfl), h1]
  have husaved : (u.ctx c).saved.isSome = true := by
    rw [← hu, State.ownerWrite_saved, h2]
  refine ⟨?_, ?_, ?_, fun e he => ?_⟩
  · rw [State.deliver_ctx]
    change ((u.setCtx c _).ctx c).st = _
    rw [State.ctx_setCtx, if_pos rfl]
    exact hust
  · rw [State.deliver_ctx]
    change ((u.setCtx c _).ctx c).dumped = _
    rw [State.ctx_setCtx, if_pos rfl]
  · rw [State.deliver_ctx]
    change ((u.setCtx c _).ctx c).saved.isSome = _
    rw [State.ctx_setCtx, if_pos rfl]
    exact husaved
  · rw [State.deliver_hub] at he
    simpa using (List.mem_filter.1 he).2

/-- A stop whose context has settled leaves it SAVED. -/
theorem dumpComplete_stops {s : State} {c : Nat} (hst : (s.ctx c).st = .saving) (hset : s.settledCtx c = true)
    (hh : (s.ctx c).halt = .stop) : ∃ t, exec (.dumpComplete c) s = .next t ∧ (t.ctx c).st = .saved
      ∧ (t.ctx c).saved.isSome = true := by
  rw [show exec (.dumpComplete c) s = execDumpComplete c s from rfl, execDumpComplete]
  simp only [hst, hset, ne_eq, not_true_eq_false, Bool.not_true, Bool.false_eq_true, or_self, if_false, hh]
  exact ⟨_, rfl, s.saveCtx_saves c _⟩

/-- Settles O59: the journal's requests by their sequence, the answers at the core, the barn, and the end of a dump. -/
theorem hubStepsComplete : Obligations.HubStepsComplete := by
  refine ⟨?_, ?_, ?_, ?_, ?_, ?_, ?_⟩
  · intro s id pa c bs dg d f q n e w x hf hb ha hc hq hn he hw hx
    subst hq hn
    exact jrecHubApply_answers s id pa c bs dg d f _ _ e w x hf hb ha hc rfl rfl he hw hx
  · exact fun s id c f q n hf ha hc => ⟨fun w loc hb hq hn => jckpt_answers hf ha hc hb hq hn, fun hb => jtrunc_answers hf ha hc hb,
      fun hb => jclose_answers hf ha hc hb, fun st route token d hb hq hn => jemit_answers hf ha hc hb hq hn⟩
  · exact loadReturn_answers
  · rintro s slot size b e cfg hj rfl hb hslot hcl hopen
    exact barnEntryReceive_keeps hj hb hslot hcl hopen
  · exact fun s c q n l x hopen ht hx hl hn marker => barnAck_marks hopen ht hx hl hn marker
  · exact fun s client hopen => barnReadRequest_answers client hopen
  · exact fun s c hst hset => ⟨fun m hh hall => dumpComplete_dumps hst hset hh hall, fun hh => dumpComplete_stops hst hset hh⟩

end Sys2Proof.Machine

/-! SUPPORT. The accesses of engines: checks and writes of pieces on this chip and on peers (08 R166, R173; 12 R242). -/

namespace Sys2Proof.Machine

open Sys2Proof

/-! What an engine's write leaves of cores. -/

/-- A part of a core that does not depend on its monitor entries. -/
theorem State.ownerWrite_corePart {β : Type} (r : Core → β) (hr : ∀ k l, r { k with mons := l } = r k) (s : State) (pa : Nat)
    (bs : List Byte) (p : Nat) : r ((s.ownerWrite pa bs).core p) = r (s.core p) := by
  unfold State.ownerWrite
  split
  · rfl
  · exact State.fireWatches_core r hr _ pa _ p

theorem State.put_corePart {β : Type} (r : Core → β) (hr : ∀ k l, r { k with mons := l } = r k) (s : State) (w : Who) (cmd : Nat)
    (e : Put) (p : Nat) : r ((s.put w cmd e).core p) = r (s.core p) := by
  unfold State.put
  split
  · exact s.ownerWrite_corePart r hr ..
  · rfl

theorem State.puts_corePart {β : Type} (r : Core → β) (hr : ∀ k l, r { k with mons := l } = r k) (s : State) (w : Who) (cmd : Nat)
    (l : List Put) (p : Nat) : r ((l.foldl (fun u d => u.put w cmd d) s).core p) = r (s.core p) :=
  State.foldl_part (fun u => r (u.core p)) _ (fun u d => u.put_corePart r hr w cmd d p) l s

/-- A part of a core that does not depend on what it has made in this cycle. -/
theorem State.note_corePart {β : Type} (r : Core → β) (hr : ∀ k l, r { k with made := l } = r k) (s : State) (cls : Nat) (w : Who)
    (n : Option Nat) (p : Nat) : r ((s.note cls w n).core p) = r (s.core p) := by
  cases n with
  | none => rfl
  | some k =>
    unfold State.note State.make
    dsimp only
    rw [State.core_setCore]
    split
    · next h => subst h; exact hr _ _
    · rfl

/-- A part of a core that does not depend on the numbers of its fault records. -/
theorem State.record_corePart {β : Type} (r : Core → β) (hr : ∀ k t, r { k with fseq := t } = r k) (s : State) (src : Source)
    (c code : Nat) (fatal ff : Bool) (w : RecInfo) (p : Nat) : r ((s.record src c code fatal ff w).core p) = r (s.core p) := by
  have hq : r ((s.nextFseq src c).2.core p) = r (s.core p) := by
    cases src with
    | core j u =>
      unfold State.nextFseq
      dsimp only
      rw [State.core_setCore]
      split
      · next h => subst h; exact hr _ _
      · rfl
    | _ => rfl
  have hd : ∀ (u : State) (m : Msg) x, r ((u.deliver Who.zero 0 m .record x [] [] false (some src.inp)).core p) = r (u.core p) :=
    fun u m x => by rw [State.core, State.deliver_cores]; rfl
  rcases hn : s.nextFseq src c with ⟨n, q⟩
  rw [hn] at hq
  simp only [State.record, hn]
  split
  · split
    · exact hq
    · exact (hd ..).trans hq
  · exact (hd ..).trans hq

/-! A command with no request at a peer. -/

section
variable {s : State} {cmd : Nat} (h : ∀ f ∈ s.fetches, f.cmd ≠ cmd)
include h

theorem State.fetched_none (k : Nat) : s.fetched cmd k = none := by
  have hf : s.fetches.find? (fun e => e.cmd = cmd && e.n = k) = none :=
    List.find?_eq_none.2 (fun e he => by simp [h e he])
  rw [State.fetched, hf]
  rfl

theorem State.peersSaid_none (base : Nat) : s.peersSaid cmd base = .data [] := by
  have hf : s.fetches.filter (fun e => e.cmd = cmd && decide (base ≤ e.n) && decide (e.n < base + 100000)) = [] :=
    List.filter_eq_nil_iff.2 (fun e he => by simp [h e he])
  rw [State.peersSaid, hf]
  rfl

/-- A write with every piece on this chip is checked at once. -/
theorem State.engineFix_here {w : Who} {die : Nat} {ps : List (Nat × Nat)} {ts : List Target}
    (ht : s.engineMay w.ctx die ps = .ok ts) (hp : ∀ d ∈ ts, d.onPeer = false) : s.engineFix w die cmd ps = .places ts := by
  have hasks : ((ts.zip ps).zipIdx checkBase).filter (fun e => e.1.1.onPeer && (s.fetched cmd e.2).isNone) = [] := by
    refine List.filter_eq_nil_iff.2 (fun e he => ?_)
    have hmem : e.1 ∈ ts.zip ps := List.fst_mem_of_mem_zipIdx he
    rw [hp _ (List.of_mem_zip hmem).1]
    exact Bool.false_ne_true
  simp only [State.engineFix, ht, hasks, List.isEmpty_nil, Bool.not_true, Bool.false_eq_true, if_false, State.peersSaid_none h]

/-- A write with a piece on a peer asks the peer first. -/
theorem State.engineFix_asks {w : Who} {die : Nat} {ps : List (Nat × Nat)} {ts : List Target}
    (ht : s.engineMay w.ctx die ps = .ok ts) (hlen : ts.length ≤ ps.length) (hp : ∃ d ∈ ts, d.onPeer = true) :
    ∃ t, s.engineFix w die cmd ps = .sent t ∧ t.mem = s.mem ∧ t.cores = s.cores := by
  obtain ⟨d, hd, hpeer⟩ := hp
  obtain ⟨k, hk, rfl⟩ := List.mem_iff_getElem.1 hd
  have hasks : (((ts.zip ps).zipIdx checkBase).filter (fun e => e.1.1.onPeer && (s.fetched cmd e.2).isNone)).isEmpty = false := by
    rw [List.isEmpty_eq_false_iff_exists_mem]
    refine ⟨((ts[k], ps[k]), checkBase + k), List.mem_filter.2 ⟨?_, ?_⟩⟩
    · refine List.mem_iff_getElem.2 ⟨k, by simpa using ⟨hk, by omega⟩, ?_⟩
      simp
    · rw [State.fetched_none h, hpeer]
      rfl
  simp only [State.engineFix, ht, hasks, Bool.not_false, if_true]
  refine ⟨_, rfl, ?_, ?_⟩
  · refine State.foldl_part State.mem _ (fun u e => ?_) _ s
    split
    · exact State.askPiece_mem ..
    · rfl
  · refine State.foldl_part State.cores _ (fun u e => ?_) _ s
    split
    · rfl
    · rfl

/-- Pieces on this chip whose owners have applied what came before are written at one go. -/
theorem State.putRest_here {w : Who} {l : List Put} (hl : ∀ d ∈ l, ∃ pa, d.dst = .here pa ∧ s.ownerClear pa = true) :
    s.putRest w cmd l = .done (l.foldl (fun s e => s.put w cmd e) s) := by
  have hout : l.filter (fun e => e.dst.onPeer) = [] := List.filter_eq_nil_iff.2 (fun e he => by
    obtain ⟨pa, hpa, -⟩ := hl e he
    rw [hpa]
    exact Bool.false_ne_true)
  have hall : l.all (fun e => match e.dst with
      | .here pa => s.ownerClear pa
      | .chip _ _ => true) = true := List.all_eq_true.2 (fun e he => by
    obtain ⟨pa, hpa, hclear⟩ := hl e he
    rw [hpa]
    exact hclear)
  simp only [State.putRest, hout, List.isEmpty_nil, Bool.not_true, Bool.false_eq_true, if_false, State.peersSaid_none h]
  exact if_pos hall

/-- The next piece, on this chip, is written when its owner has applied what came before. -/
theorem State.putNext_here {w : Who} {d : Put} {l : List Put} {pa : Nat} (hd : d.dst = .here pa) (hc : s.ownerClear pa = true) :
    s.putNext w cmd (d :: l) = .moved (s.ownerWrite pa d.bytes) 1 := by
  have hput : s.put w cmd d = s.ownerWrite pa d.bytes := by
    simp only [State.put, hd]
  simp only [State.putNext, hd, State.peersSaid_none h, hc, if_true, hput]

end

/-- Each piece of a write is placed. -/
theorem State.engineMay_length {s : State} {c die : Nat} : ∀ {ps : List (Nat × Nat)} {ts : List Target},
    s.engineMay c die ps = .ok ts → ts.length = ps.length := by
  intro ps
  induction ps with
  | nil =>
    intro ts h
    cases h
    rfl
  | cons e t ih =>
    intro ts h
    obtain ⟨va, n⟩ := e
    unfold State.engineMay at h
    split at h
    · cases h
    · split at h
      · cases h
      · next l hl =>
        cases h
        exact congrArg (· + 1) (ih hl)

/-- The pieces of a write lie where its checks have found. -/
theorem engPuts_dst {ts : List Target} {ps : List (Nat × Nat)} {bs : List Byte} {d : Put} (h : d ∈ engPuts ts ps bs) :
    d.dst ∈ ts := by
  unfold engPuts at h
  have hmap : d ∈ ((ts.zip (cutBytes ps bs)).zipIdx writeBase).map (fun e => Put.mk e.1.1 e.1.2.1 e.2 e.1.2.2) :=
    (List.mem_append.1 h).elim (fun h => (List.mem_filter.1 h).1) (fun h => (List.mem_filter.1 h).1)
  obtain ⟨e, he, rfl⟩ := List.mem_map.1 hmap
  have hmem : e.1 ∈ ts.zip (cutBytes ps bs) := List.fst_mem_of_mem_zipIdx he
  exact (List.of_mem_zip hmem).1

/-- A piece that is written on this chip changes its own bytes alone. -/
theorem State.ownerWrite_bytes {s : State} (h : s.memOk) (pa : Nat) (bs : List Byte) (a : Nat) :
    Memory.readByte (s.ownerWrite pa bs).mem a = if pa ≤ a ∧ a < pa + bs.length then bs.getD (a - pa) 0
      else Memory.readByte s.mem a := by
  rw [State.ownerWrite_mem]
  exact Memory.readByte_write bs h pa a

end Sys2Proof.Machine

/-! The copy engine's blocks and chunks (08 R172, R173; 12 R242). -/

namespace Sys2Proof.Machine

open Sys2Proof

/-! The present command of a copy engine, changed. -/

section
variable {s : State} {p : Nat} {c0 c : CopyCmd} {rest : List CopyCmd} (hq : (s.core p).copyQ = c0 :: rest)
include hq

theorem State.setCopy_copyQ : ((s.setCopy p c).core p).copyQ = c :: rest := by
  unfold State.setCopy
  dsimp only
  rw [State.core_setCore, if_pos rfl, hq]
  rfl

/-- A chunk that has been written: the command goes on to its next one, or leaves the queue. -/
theorem State.chunkDone_copyQ : ((s.chunkDone p c).core p).copyQ
    = if 4096 * (c.chunk + 1) < streamLen c.desc.toNat (extOf (c.ext.map BitVec.toNat)) then c.atChunk (c.chunk + 1) :: rest
      else rest := by
  have hdrop : ((s.clearFetches c.id).core p).copyQ.drop 1 = rest := congrArg (List.drop 1) hq
  have hset : ∀ k : Core, (((s.clearFetches c.id).setCore p k).core p).copyQ = k.copyQ := fun k => by
    rw [State.core_setCore, if_pos rfl]
  unfold State.chunkDone
  dsimp only
  rw [hdrop]
  split
  · exact hset _
  · refine (State.note_corePart Core.copyQ (fun _ _ => rfl) ..).trans ?_
    refine (State.completeOp_keeps Core.copyQ (fun _ _ => rfl) ..).trans ?_
    exact hset _

/-- A fault stops the engine with the command kept, at the start of its chunk. -/
theorem State.copyFault_stops (code addr det : Nat) : ((s.copyFault p c code addr det).core p).copyStop = some (c.atChunk c.chunk)
    ∧ ((s.copyFault p c code addr det).core p).copyQ = rest := by
  have hdrop : (s.core p).copyQ.drop 1 = rest := congrArg (List.drop 1) hq
  have hset : ((s.copyStopped p c).core p).copyStop = some (c.atChunk c.chunk) ∧ ((s.copyStopped p c).core p).copyQ = rest := by
    unfold State.copyStopped
    dsimp only
    rw [hdrop]
    have hcore : ∀ k : Core, ((s.setCore p k).clearFetches c.id).core p = k := fun k =>
      (State.core_setCore ..).trans (if_pos rfl)
    rw [hcore]
    exact ⟨rfl, rfl⟩
  exact ⟨(State.record_corePart Core.copyStop (fun _ _ => rfl) ..).trans hset.1,
    (State.record_corePart Core.copyQ (fun _ _ => rfl) ..).trans hset.2⟩

end

/-- A check of a chunk's places that finds them. -/
theorem State.copyFix_places {s : State} {p : Nat} {c : CopyCmd} {ts : List Target}
    (h : s.engineFix c.who (dieOf p) c.id c.pieces.2 = .places ts) (go : State → CopyCmd → List Target → Out1) :
    s.copyFix p c go = go s { c with dst := some ts } ts := by
  rw [State.copyFix, h]

theorem State.copyFix_sent {s t : State} {p : Nat} {c : CopyCmd} (h : s.engineFix c.who (dieOf p) c.id c.pieces.2 = .sent t)
    (go : State → CopyCmd → List Target → Out1) : s.copyFix p c go = .next (t.setCopy p c) := by
  rw [State.copyFix, h]

theorem State.copyFix_bad {s : State} {p : Nat} {c : CopyCmd} {code addr det : Nat}
    (h : s.engineMay c.who.ctx (dieOf p) c.pieces.2 = .error (.bad code addr det)) (go : State → CopyCmd → List Target → Out1) :
    s.copyFix p c go = .next (s.copyFault p c code addr det) := by
  have hfix : s.engineFix c.who (dieOf p) c.id c.pieces.2 = .bad code addr det := by
    simp only [State.engineFix, h]
  rw [State.copyFix, hfix]

/-! Its steps. -/

/-- The engine's present command, which may go on, with no request at a peer. -/
structure State.Copies (s : State) (p : Nat) (c : CopyCmd) (rest : List CopyCmd) : Prop where
  runs : (s.core p).copyStop = none
  queue : (s.core p).copyQ = c :: rest
  context : (s.ctx c.who.ctx).paused = false
  asked : ∀ f ∈ s.fetches, f.cmd ≠ c.id

section
variable {s : State} {p : Nat} {c : CopyCmd} {rest : List CopyCmd} (h : s.Copies p c rest)
include h

theorem State.Copies.goes : s.copyHalts c = false := by
  rw [State.copyHalts, h.context]
  rfl

/-- How the write of a chunk begins in its own step. -/
def copyWrites (p : Nat) (s : State) (c : CopyCmd) (ts : List Target) : Out1 :=
  match s.putRest c.who c.id (c.left ts) with
  | .waits => .next (s.setCopy p c)
  | r => s.copyPut p c r

omit h in
theorem copyWrites_done {ts : List Target} {u : State} (hput : s.putRest c.who c.id (c.left ts) = .done u) :
    copyWrites p s c ts = s.copyPut p c (s.putRest c.who c.id (c.left ts)) := by
  rw [copyWrites, hput]

/-- A chunk that is all read is checked. -/
theorem State.Copies.fixes {bs : List Byte} (hd : c.dst = none)
    (hr : s.engineRead c.who (dieOf p) c.id c.reads (c.pieces.1.drop c.reads) = .data bs) :
    exec (.copyChunk p) s = s.copyFix p { c with reads := c.pieces.1.length, got := c.got ++ bs } (copyWrites p) := by
  have hruns := h.runs
  have hqueue := h.queue
  have hgoes := h.goes
  cases c with
  | mk id who desc ext chunk reads got dst puts =>
    dsimp only at hd
    subst hd
    rw [show exec (.copyChunk p) s = execCopyChunk p s from rfl, execCopyChunk]
    simp only [hruns, hqueue, hgoes, hr, Bool.false_eq_true, if_false]
    rfl

/-- A chunk that is read and whose places are all on this chip is written whole. -/
theorem State.Copies.writes {c' : CopyCmd} {ts : List Target} (hid : c'.id = c.id) (hat : ∀ n, c'.atChunk n = c.atChunk n)
    (hchunk : c'.chunk = c.chunk) (hdesc : c'.desc = c.desc) (hext : c'.ext = c.ext) {puts : List Put}
    (hputs : puts = c'.left ts) (hall : ∀ d ∈ puts, ∃ pa, d.dst = .here pa ∧ s.ownerClear pa = true) :
    ∃ t, s.copyPut p c' (s.putRest c'.who c'.id (c'.left ts)) = .next t
      ∧ t.mem = (puts.foldl (fun u d => u.put c'.who c'.id d) s).mem
      ∧ (t.core p).copyQ = if 4096 * (c.chunk + 1) < streamLen c.desc.toNat (extOf (c.ext.map BitVec.toNat)) then
          c.atChunk (c.chunk + 1) :: rest else rest := by
  subst hputs
  have hasked : ∀ f ∈ s.fetches, f.cmd ≠ c'.id := hid ▸ h.asked
  rw [State.putRest_here hasked hall]
  refine ⟨_, rfl, State.chunkDone_mem .., ?_⟩
  rw [State.chunkDone_copyQ (c0 := c) (rest := rest) ((State.puts_corePart Core.copyQ (fun _ _ => rfl) ..).trans h.queue), hat,
    hchunk, hdesc, hext]

variable {ts : List Target}

/-- All of a chunk is read, and its places are all on this chip. -/
theorem State.Copies.moves {bs : List Byte} (hd : c.dst = none)
    (hr : s.engineRead c.who (dieOf p) c.id c.reads (c.pieces.1.drop c.reads) = .data bs)
    (hm : s.engineMay c.who.ctx (dieOf p) c.pieces.2 = .ok ts) (hts : ∀ d ∈ ts, ∃ pa, d = .here pa ∧ s.ownerClear pa = true) :
    ∃ t, exec (.copyChunk p) s = .next t
      ∧ t.mem = (((engPuts ts c.pieces.2 (c.got ++ bs)).drop c.puts).foldl (fun u d => u.put c.who c.id d) s).mem
      ∧ (t.core p).copyQ = if 4096 * (c.chunk + 1) < streamLen c.desc.toNat (extOf (c.ext.map BitVec.toNat)) then
          c.atChunk (c.chunk + 1) :: rest else rest := by
  have hpeer : ∀ d ∈ ts, d.onPeer = false := fun d hd => by
    obtain ⟨pa, rfl, -⟩ := hts d hd
    rfl
  have hfix := State.engineFix_here h.asked hm hpeer
  have hall : ∀ d ∈ (engPuts ts c.pieces.2 (c.got ++ bs)).drop c.puts, ∃ pa, d.dst = .here pa ∧ s.ownerClear pa = true :=
    fun d hd => hts d.dst (engPuts_dst (List.mem_of_mem_drop hd))
  obtain ⟨t, ht, hmem, hq⟩ := h.writes (c' := { c with reads := c.pieces.1.length, got := c.got ++ bs, dst := some ts }) (ts := ts)
    rfl (fun _ => rfl) rfl rfl rfl rfl hall
  refine ⟨t, ?_, hmem, hq⟩
  rw [h.fixes hd hr, State.copyFix_places (c := { c with reads := c.pieces.1.length, got := c.got ++ bs }) hfix]
  exact (copyWrites_done (c := { c with reads := c.pieces.1.length, got := c.got ++ bs, dst := some ts }) (ts := ts)
    (State.putRest_here (w := c.who) h.asked hall)).trans ht

/-- All of a chunk is read, and a place of it is on a peer, who is asked first. -/
theorem State.Copies.asks {bs : List Byte} (hd : c.dst = none)
    (hr : s.engineRead c.who (dieOf p) c.id c.reads (c.pieces.1.drop c.reads) = .data bs)
    (hm : s.engineMay c.who.ctx (dieOf p) c.pieces.2 = .ok ts) (hts : ∃ d ∈ ts, d.onPeer = true) :
    ∃ t, exec (.copyChunk p) s = .next t ∧ t.mem = s.mem
      ∧ (t.core p).copyQ = { c with reads := c.pieces.1.length, got := c.got ++ bs } :: rest := by
  obtain ⟨u, hfix, hmem, hcores⟩ := State.engineFix_asks h.asked hm (State.engineMay_length hm).le hts
  have hq : (u.core p).copyQ = c :: rest := by
    rw [State.core, hcores]
    exact h.queue
  refine ⟨u.setCopy p { c with reads := c.pieces.1.length, got := c.got ++ bs }, ?_, hmem, State.setCopy_copyQ hq⟩
  rw [h.fixes hd hr]
  exact State.copyFix_sent (c := { c with reads := c.pieces.1.length, got := c.got ++ bs }) hfix _

/-- A chunk whose places are known, all of what is left of it on this chip. -/
theorem State.Copies.ends (hd : c.dst = some ts) {puts : List Put} (hputs : puts = c.left ts)
    (hall : ∀ d ∈ puts, ∃ pa, d.dst = .here pa ∧ s.ownerClear pa = true) :
    ∃ t, exec (.copyChunk p) s = .next t ∧ t.mem = (puts.foldl (fun u d => u.put c.who c.id d) s).mem
      ∧ (t.core p).copyQ = if 4096 * (c.chunk + 1) < streamLen c.desc.toNat (extOf (c.ext.map BitVec.toNat)) then
          c.atChunk (c.chunk + 1) :: rest else rest := by
  obtain ⟨t, ht, hmem, hq⟩ := h.writes (ts := ts) rfl (fun _ => rfl) rfl rfl rfl hputs hall
  refine ⟨t, ?_, hmem, hq⟩
  rw [show exec (.copyChunk p) s = execCopyChunk p s from rfl, execCopyChunk]
  simp only [h.runs, h.queue, h.goes, hd, Bool.false_eq_true, if_false]
  exact ht

/-- One block of a chunk whose places are known, on this chip. -/
theorem State.Copies.block (hd : c.dst = some ts) {d : Put} {l : List Put} {pa : Nat} (hputs : c.left ts = d :: l)
    (hpa : d.dst = .here pa) (hc : s.ownerClear pa = true) : ∃ t, s.copyBlock p = .next t
      ∧ (s.memOk → ∀ a, Memory.readByte t.mem a = if pa ≤ a ∧ a < pa + d.bytes.length then d.bytes.getD (a - pa) 0
          else Memory.readByte s.mem a)
      ∧ (t.core p).copyQ = { c with puts := c.puts + 1 } :: rest := by
  refine ⟨(s.ownerWrite pa d.bytes).setCopy p { c with puts := c.puts + 1 }, ?_, fun hm a => State.ownerWrite_bytes hm pa d.bytes a,
    State.setCopy_copyQ ((State.ownerWrite_corePart Core.copyQ (fun _ _ => rfl) ..).trans h.queue)⟩
  unfold State.copyBlock
  simp only [h.runs, h.queue, h.goes, hd, Bool.false_eq_true, if_false, hputs, State.putNext_here h.asked hpa hc, State.copyPut]

/-- One block of a chunk's source is read. -/
theorem State.Copies.reads {va n : Nat} {bs : List Byte} (hd : c.dst = none) (hsrc : c.pieces.1[c.reads]? = some (va, n))
    (hr : s.readPiece (dieOf p) c.who.ctx c.id c.reads va n = .data bs) : ∃ t, s.copyBlock p = .next t ∧ t.mem = s.mem
      ∧ (t.core p).copyQ = { c with reads := c.reads + 1, got := c.got ++ bs } :: rest := by
  refine ⟨s.setCopy p { c with reads := c.reads + 1, got := c.got ++ bs }, ?_, rfl, State.setCopy_copyQ h.queue⟩
  unfold State.copyBlock
  simp only [h.runs, h.queue, h.goes, hd, Bool.false_eq_true, if_false, hsrc, hr]

/-- The places of a chunk that is read are found, all on this chip. -/
theorem State.Copies.finds (hd : c.dst = none) (hsrc : c.pieces.1[c.reads]? = none)
    (hm : s.engineMay c.who.ctx (dieOf p) c.pieces.2 = .ok ts) (hts : ∀ d ∈ ts, d.onPeer = false) :
    ∃ t, s.copyBlock p = .next t ∧ t.mem = s.mem ∧ (t.core p).copyQ = { c with dst := some ts } :: rest := by
  refine ⟨s.setCopy p { c with dst := some ts }, ?_, rfl, State.setCopy_copyQ h.queue⟩
  unfold State.copyBlock
  simp only [h.runs, h.queue, h.goes, hd, Bool.false_eq_true, if_false, hsrc]
  exact State.copyFix_places (State.engineFix_here h.asked hm hts) _

/-- A chunk whose source or destination is refused stops the engine. -/
theorem State.Copies.stops {code addr det : Nat} (hd : c.dst = none)
    (hbad : (∃ k, s.engineRead c.who (dieOf p) c.id c.reads (c.pieces.1.drop c.reads) = .bad k code addr det)
      ∨ ∃ bs, s.engineRead c.who (dieOf p) c.id c.reads (c.pieces.1.drop c.reads) = .data bs
        ∧ s.engineMay c.who.ctx (dieOf p) c.pieces.2 = .error (.bad code addr det)) :
    ∃ t, exec (.copyChunk p) s = .next t ∧ t.mem = s.mem ∧ (t.core p).copyStop = some (c.atChunk c.chunk)
      ∧ (t.core p).copyQ = rest := by
  rcases hbad with ⟨k, hr⟩ | ⟨bs, hr, hm⟩
  · rw [show exec (.copyChunk p) s = execCopyChunk p s from rfl, execCopyChunk]
    simp only [h.runs, h.queue, h.goes, hd, hr, Bool.false_eq_true, if_false]
    exact ⟨_, rfl, State.copyFault_mem .., State.copyFault_stops h.queue code addr det⟩
  · rw [h.fixes hd hr]
    exact ⟨_, State.copyFix_bad (c := { c with reads := c.pieces.1.length, got := c.got ++ bs }) hm _, State.copyFault_mem ..,
      State.copyFault_stops (c := { c with reads := c.pieces.1.length, got := c.got ++ bs }) h.queue code addr det⟩

end

end Sys2Proof.Machine

/-! SETTLED. The copy engine's chunks and the gather stream's elements (08 R172 to R177; 12 R242). -/

namespace Sys2Proof.Machine

open Sys2Proof

/-! What the answers of an element leave of the stream's places. -/

/-- The elements that the commands of a core have sent. -/
def State.sent (s : State) (p : Nat) : List Nat := (s.core p).gathers.map GatherCmd.next

section
variable (s : State) (p : Nat)

theorem State.mapGather_core (cmd : Nat) (f : GatherCmd → GatherCmd) : ((s.mapGather p cmd f).core p).gathers
    = (s.core p).gathers.map (fun g => if g.id = cmd then f g else g) := by
  unfold State.mapGather
  dsimp only
  rw [State.core_setCore, if_pos rfl]

theorem State.mapGather_sent (cmd : Nat) {f : GatherCmd → GatherCmd} (hf : ∀ g, (f g).next = g.next) :
    (s.mapGather p cmd f).sent p = s.sent p := by
  rw [State.sent, State.mapGather_core, List.map_map]
  refine List.map_congr_left (fun g _ => ?_)
  refine (apply_ite GatherCmd.next _ _ _).trans ?_
  rw [hf, ite_self]

theorem State.elemDone_sent (cmd : Nat) : (s.elemDone p cmd).sent p = s.sent p := s.mapGather_sent p cmd (fun _ => rfl)

theorem State.elemRecord_sent (g : GatherCmd) (n code addr det : Nat) : (s.elemRecord p g n code addr det).sent p = s.sent p := by
  unfold State.elemRecord
  split
  · rfl
  · refine Eq.trans ?_ (s.mapGather_sent p g.id (f := fun g => { g with recorded := true }) (fun _ => rfl))
    exact State.record_corePart (fun k => k.gathers.map GatherCmd.next) (fun _ _ => rfl) ..

theorem State.sendElem_sent (g : GatherCmd) (tag jslot : Nat) (bs : List Byte) (src : Nat × Nat) (inp : Nat) :
    (s.sendElem p g tag jslot bs src inp).sent p = s.sent p := by
  unfold State.sent State.sendElem State.core
  dsimp only
  rw [State.deliver_cores]

theorem State.elemOut_sent (g : GatherCmd) (tag jslot : Nat) (src : Nat × Nat) (inp : Nat) :
    (s.elemOut p g tag jslot src inp).sent p = s.sent p := by
  have hcount : (s.count (dieOf p) g.who.ctx 0x103 1).sent p = s.sent p := rfl
  unfold State.elemOut
  dsimp only
  split
  · exact (State.elemDone_sent ..).trans hcount
  · exact (State.sendElem_sent ..).trans hcount

theorem State.issueElem_sent (g : GatherCmd) (e : GElem) (va : Nat) : (s.issueElem p g e va).sent p = s.sent p := by
  unfold State.issueElem
  dsimp only
  split
  · exact (State.elemOut_sent ..).trans (State.elemRecord_sent ..)
  · split
    · exact (State.elemDone_sent ..).trans (State.elemRecord_sent ..)
    · rfl

/-- An element that is sent moves its command on by one. -/
theorem State.elemSent_sent (g : GatherCmd) :
    (s.elemSent p g).sent p = (s.core p).gathers.map (fun h => if h.id = g.id then h.next + 1 else h.next) := by
  rw [State.sent, State.elemSent, State.mapGather_core, List.map_map]
  exact List.map_congr_left (fun h _ => apply_ite GatherCmd.next _ _ _)

end

/-- The gather stream sends the next element of its command. -/
theorem gatherElementIssue_sends {s : State} {p : Nat} {g : GatherCmd} (hg : (s.core p).sending = some g) (hs : g.served = true)
    (hp : (s.ctx g.who.ctx).paused = false) (hb : gServed g.desc.toNat = true → (s.quad (quadOf p)).springBad = false)
    (hc : s.streamClear p g = true) : ∃ t, exec (.gatherElementIssue p) s = .next t ∧ t.mem = s.mem
      ∧ (t.core p).gathers.map GatherCmd.next
        = (s.core p).gathers.map (fun h => if h.id = g.id then h.next + 1 else h.next) := by
  have hbad : (gServed g.desc.toNat && (s.quad (quadOf p)).springBad) = false := by
    cases hsrv : gServed g.desc.toNat with
    | false => rfl
    | true => rw [hb hsrv]; rfl
  rw [show exec (.gatherElementIssue p) s = execGatherElementIssue p s from rfl, execGatherElementIssue, hg]
  simp only [hs, hp, hbad, hc, Bool.not_true, Bool.false_eq_true, if_false]
  generalize hu : (if gServed g.desc.toNat = true then (s.elemSent p g).signal 8 (quadOf p) else s.elemSent p g) = u
  have humem : u.mem = s.mem := by
    rw [← hu]
    split
    · rfl
    · rfl
  have husent : u.sent p = (s.core p).gathers.map (fun h => if h.id = g.id then h.next + 1 else h.next) := by
    rw [← s.elemSent_sent p g, ← hu]
    split
    · rfl
    · rfl
  split
  · refine ⟨_, rfl, ?_, ?_⟩
    · rw [State.elemDone_mem, State.elemRecord_mem, humem]
    · exact (State.elemDone_sent ..).trans ((State.elemRecord_sent ..).trans husent)
  · split
    · refine ⟨_, rfl, ?_, ?_⟩
      · rw [State.elemOut_mem, humem]
      · exact (State.elemOut_sent ..).trans husent
    · refine ⟨_, rfl, ?_, ?_⟩
      · rw [State.issueElem_mem, humem]
      · exact (State.issueElem_sent ..).trans husent

/-! Elements at their owners. -/

/-- A part of an element's row that stands first at its owner. -/
structure State.AtOwner (s : State) (id p cmd n pa : Nat) (f : Flight) (r : MemReq) (g : GatherCmd) : Prop where
  flight : s.flight? id = some f
  ripe : s.ripe f = true
  body : f.body = .req r
  ans : r.ans = .elem p cmd n
  target : r.target = some (.here pa)
  goal : f.goal = .owner
  command : (s.core p).gathers.find? (fun g => g.id = cmd) = some g
  first : s.firstAtOwner f pa = true
  alone : s.elemAhead f r = false
  fits : s.reqRefused r pa = 0

section
variable {s : State} {id p cmd n pa : Nat} {f : Flight} {r : MemReq} {g : GatherCmd} (h : s.AtOwner id p cmd n pa f r g)
include h

theorem State.AtOwner.applies : exec (.gatherElementApply id) s = .next (s.applyElem f r p g n pa) := by
  rw [show exec (.gatherElementApply id) s = execGatherElementApply id s from rfl, execGatherElementApply, h.flight]
  simp only [h.body, h.ans, h.target, h.goal, h.ripe, h.first, h.alone, h.command, Bool.not_true, Bool.or_self,
    Bool.false_eq_true, if_false]

/-- A part of a scatter's row writes its bytes. -/
theorem State.AtOwner.writes (hm : s.memOk) (hg : g.scatter = true) (hlen : r.off + r.partLen pa ≤ r.data.length) :
    ∃ t, exec (.gatherElementApply id) s = .next t
      ∧ ∀ a, Memory.readByte t.mem a = if pa ≤ a ∧ a < pa + r.partLen pa then r.data.getD (r.off + (a - pa)) 0
          else Memory.readByte s.mem a := by
  refine ⟨_, h.applies, fun a => ?_⟩
  have hmem : (s.applyElem f r p g n pa).mem = ((s.dropFlight f.id).ownerWrite pa (sliceBytes r.data r.off (r.partLen pa))).mem := by
    unfold State.applyElem
    dsimp only
    rw [show (s.dropFlight f.id).reqRefused r pa = 0 from h.fits, if_neg (fun hne => hne rfl), if_pos hg]
    split
    · exact State.passOn_mem ..
    · exact State.memReply_mem ..
  have hlen' : r.partLen pa ≤ (r.data.drop r.off).length := by
    rw [List.length_drop]
    omega
  have hslice : sliceBytes r.data r.off (r.partLen pa) = (r.data.drop r.off).take (r.partLen pa) :=
    List.take_append_of_le_length hlen'
  rw [hmem, State.ownerWrite_bytes (s := s.dropFlight f.id) hm, hslice, List.length_take, Nat.min_eq_left hlen']
  by_cases hin : pa ≤ a ∧ a < pa + r.partLen pa
  · rw [if_pos hin, if_pos hin, List.getD_eq_getElem?_getD, List.getD_eq_getElem?_getD, List.getElem?_take_of_lt (by omega),
      List.getElem?_drop]
  · rw [if_neg hin, if_neg hin]
    rfl

/-- The last part of a gather's row makes its value message. -/
theorem State.AtOwner.sends (hg : g.scatter = false) (hp : s.poisonAt pa (r.partLen pa) = none)
    (hn : r.n ≤ r.off + r.partLen pa) (hc : g.who.ctx < 32)
    (hr : s.reaches g.who.ctx ((s.ctx g.who.ctx).desc.rank % 65536) (bitsOf g.desc.toNat 194 185)) :
    ∃ t, exec (.gatherElementApply id) s = .next t ∧ t.mem = s.mem
      ∧ ∃ h ∈ t.flights, ∃ k, h.body = .msg k (.elem p cmd)
        ∧ k.payload = gatherRow g.desc.toNat (r.got ++ Memory.read s.mem pa (r.partLen pa))
        ∧ k.hdr.tag = BitVec.ofNat 16 (r.expect.toNat % 65536)
        ∧ k.hdr.jslot = BitVec.ofNat 3 (r.expect.toNat / 65536) := by
  have hid : g.id = cmd := by simpa using List.find?_some h.command
  have hoff : ∀ bs, (r.onward pa bs).off = r.off + r.partLen pa ∧ (r.onward pa bs).got = r.got ++ bs := fun bs => by
    unfold MemReq.onward
    dsimp only
    split
    · split
      · exact ⟨rfl, rfl⟩
      · exact ⟨rfl, rfl⟩
    · exact ⟨rfl, rfl⟩
  obtain ⟨hoff, hgot⟩ := hoff (Memory.read s.mem pa (r.partLen pa))
  have happly : s.applyElem f r p g n pa = (s.dropFlight f.id).sendElem p g (r.expect.toNat % 65536) (r.expect.toNat / 65536)
      (gatherRow g.desc.toNat (r.got ++ Memory.read s.mem pa (r.partLen pa))) (ownerXY pa) (inpOwner pa) := by
    unfold State.applyElem
    dsimp only
    rw [show (s.dropFlight f.id).reqRefused r pa = 0 from h.fits, if_neg (fun hne => hne rfl), hg,
      if_neg Bool.false_ne_true, show (s.dropFlight f.id).poisonAt pa (r.partLen pa) = none from hp]
    dsimp only
    rw [show (s.dropFlight f.id).mem = s.mem from rfl, if_neg (by rw [hoff]; omega), hgot]
  refine ⟨_, h.applies, ?_, ?_⟩
  · rw [happly, State.sendElem_mem]
    rfl
  · rw [happly]
    have hctx : (BitVec.ofNat 5 g.who.ctx).toNat = g.who.ctx := by
      rw [BitVec.toNat_ofNat]
      omega
    have hchip : (BitVec.ofNat 16 (s.ctx g.who.ctx).desc.rank).toNat = (s.ctx g.who.ctx).desc.rank % 65536 :=
      BitVec.toNat_ofNat ..
    have hcore : (BitVec.ofNat 10 (bitsOf g.desc.toNat 194 185)).toNat = bitsOf g.desc.toNat 194 185 := by
      simp only [bitsOf, BitVec.toNat_ofNat]
      omega
    let x := g.desc.toNat
    let bs := gatherRow x (r.got ++ Memory.read s.mem pa (r.partLen pa))
    let u := s.dropFlight f.id
    let m0 := u.unitMsg g.who.ctx (bitsOf x 194 185) (bitsOf x 206 195) (r.expect.toNat % 65536)
      (u.defaultPrio g.who.ctx (u.ctx g.who.ctx).gen (bitsOf x 206 195)) 0 []
    let m : Msg := { m0 with
      hdr := { m0.hdr with
        score := BitVec.ofNat 10 g.who.lcore
        jslot := BitVec.ofNat 3 (r.expect.toNat / 65536)
        chan := BitVec.ofNat 5 (bitsOf x 184 180)
        plen := BitVec.ofNat 9 bs.length }
      payload := bs }
    have hreach : u.reaches m.hdr.ctx.toNat m.hdr.dchip.toNat m.hdr.dcore.toNat := by
      rw [show m.hdr.ctx.toNat = g.who.ctx from hctx, show m.hdr.dchip.toNat = (s.ctx g.who.ctx).desc.rank % 65536 from hchip,
        show m.hdr.dcore.toNat = bitsOf g.desc.toNat 194 185 from hcore]
      exact hr
    obtain ⟨e, he, hb⟩ := State.deliver_sends (State.msgGoal_isSome hreach (ownerXY pa)) { g.who with p := p } 0 (.elem p g.id)
      [] [] false (some (inpOwner pa))
    exact ⟨e, he, m, hid ▸ hb, rfl, rfl, rfl⟩

end

/-- A command whose elements are all finished completes. -/
theorem gatherComplete_completes {s : State} {p : Nat} {g : GatherCmd}
    (hg : (s.core p).gathers.find? (fun g => g.served && g.next = g.total && g.done = g.total) = some g) :
    ∃ t, exec (.gatherComplete p) s = .next t ∧ t.mem = s.mem
      ∧ (t.core p).gathers = (s.core p).gathers.filter (fun h => h.id != g.id) := by
  rw [show exec (.gatherComplete p) s = execGatherComplete p s from rfl, execGatherComplete]
  dsimp only
  rw [hg]
  refine ⟨_, rfl, ?_, ?_⟩
  · exact State.note_mem ..
  · refine (State.note_corePart Core.gathers (fun _ _ => rfl) ..).trans ?_
    refine (State.completeOp_keeps Core.gathers (fun _ _ => rfl) ..).trans ?_
    rw [State.core_setCore, if_pos rfl]

/-- Settles O43: a chunk is read, checked and written; an element is sent, applied and finished. -/
theorem copyAndGatherMove : Obligations.CopyAndGatherMove := by
  refine ⟨?_, ?_, ?_, ?_⟩
  · rintro s p c rest x len ext parts src dst hrun hq rfl rfl rfl hp hf rfl rfl rfl
    have h : s.Copies p c rest := ⟨hrun, hq, hp, hf⟩
    refine ⟨fun bs ts hd hr hm => ⟨fun hts => h.moves hd hr hm hts, fun hts => h.asks hd hr hm hts⟩,
      fun ts puts hd hputs => ⟨fun hall => h.ends hd hputs hall, fun d l pa hl hpa hc => h.block hd (hputs.symm.trans hl) hpa hc⟩,
      fun va n bs hd hsrc hr => h.reads hd hsrc hr, fun ts hd hsrc hm hts => h.finds hd hsrc hm hts,
      fun code addr det hd hbad => h.stops hd hbad⟩
  · exact fun s p g hg hs hp hb hc => gatherElementIssue_sends hg hs hp hb hc
  · rintro s id p cmd n pa m f r g hm hf hripe hb ha ht hgo hfind hfirst hahead rfl hfits
    have h : s.AtOwner id p cmd n pa f r g := ⟨hf, hripe, hb, ha, ht, hgo, hfind, hfirst, hahead, hfits⟩
    exact ⟨fun hg hlen => h.writes hm hg hlen, fun hg hp hn hc hr => h.sends hg hp hn hc hr⟩
  · exact fun s p g hg => gatherComplete_completes hg

end Sys2Proof.Machine

/-! The array's zeroing, and the end of its commands (08 R165 to R168, R180). -/

namespace Sys2Proof.Machine

open Sys2Proof

/-! Zeroing. -/

theorem State.fireWatches_quads (s : State) (pa n : Nat) : (s.fireWatches pa n).quads = s.quads := by
  have hd : ∀ (s : State) n l, State.quads { s with nextId := n, flights := l } = s.quads := fun _ _ _ => rfl
  unfold State.fireWatches
  refine (State.foldl_part State.quads _ (fun u a => State.deliver_part State.quads hd u ..) _ _).trans ?_
  refine (State.foldl_part State.quads _ (fun u a => State.deliver_part State.quads hd u ..) _ _).trans ?_
  refine Eq.trans (b := State.quads _) (rfl : _ = State.quads _) ?_
  refine (State.foldl_part State.quads _ (fun u a => ?_) _ _).trans rfl
  split
  split
  · exact State.deliver_part State.quads hd u ..
  · rfl

theorem State.ownerZero_quad (s : State) (pa n q : Nat) : (s.ownerZero pa n).quad q = s.quad q :=
  congrArg (fun t => Tab.get (Quad.init q) t q) (State.fireWatches_quads _ pa n)

theorem State.ownerZero_mem (s : State) (pa n : Nat) : (s.ownerZero pa n).mem = Memory.clear s.mem pa n :=
  State.fireWatches_mem _ pa n

section
variable (s : State) (q set lo hi : Nat)

theorem State.zeroBlocks_quad (j : Nat) : (s.zeroBlocks q set lo hi).quad j = s.quad j := by
  unfold State.zeroBlocks
  split
  · rfl
  · exact State.ownerZero_quad ..

theorem State.zeroBlocks_bytes (h : s.memOk) (a : Nat) : Memory.readByte (s.zeroBlocks q set lo hi).mem a
    = if setBase q set + 64 * lo ≤ a ∧ a < setBase q set + 64 * hi then 0 else Memory.readByte s.mem a := by
  unfold State.zeroBlocks
  split
  · rw [if_neg (by omega)]
  · rw [State.ownerZero_mem, Memory.readByte_clear _ _ _ h]
    refine if_congr ?_ rfl rfl
    omega

end

/-- A command with nothing left to zero leaves the state. -/
theorem State.zeroRest_of_le {s : State} {q : Nat} {r : ARun} (h : zeroCount r.cmd.desc.toNat ≤ r.zeroed) : (s.zeroRest q r).1 = s :=
  if_pos h

theorem State.zeroRest_quad (s : State) (q : Nat) (r : ARun) (j : Nat) : (s.zeroRest q r).1.quad j = s.quad j :=
  State.zeroBlocks_quad ..

/-! The end of a command. -/

/-- What the end of a command reads of its quad, and what it leaves. -/
structure Quad.SameArray (k l : Quad) : Prop where
  queue : k.arrayQ = l.arrayQ
  next0 : k.next0 = l.next0
  next1 : k.next1 = l.next1
  entries : k.wbe = l.wbe

theorem Quad.SameArray.of_eq {k l : Quad} (h : k = l) : k.SameArray l := by
  subst h
  exact ⟨rfl, rfl, rfl, rfl⟩

theorem Quad.SameArray.trans {k l m : Quad} (h : k.SameArray l) (g : l.SameArray m) : k.SameArray m :=
  ⟨h.queue.trans g.queue, h.next0.trans g.next0, h.next1.trans g.next1, h.entries.trans g.entries⟩

/-- A part of a quad that does not depend on the numbers of its fault records. -/
theorem State.record_quadPart {β : Type} (r : Quad → β) (hr : ∀ k t, r { k with fseq := t } = r k) (s : State) (src : Source)
    (c code : Nat) (fatal ff : Bool) (w : RecInfo) (q : Nat) : r ((s.record src c code fatal ff w).quad q) = r (s.quad q) := by
  have hq : r ((s.nextFseq src c).2.quad q) = r (s.quad q) := by
    cases src with
    | quad j u =>
      unfold State.nextFseq
      dsimp only
      by_cases h : q = j
      · subst h
        rw [State.quad_setQuad_same]
        exact hr _ _
      · rw [State.quad_setQuad_other _ _ _ _ h]
    | _ => rfl
  have hd : ∀ (u : State) (m : Msg) x, r ((u.deliver Who.zero 0 m .record x [] [] false (some src.inp)).quad q) = r (u.quad q) :=
    fun u m x => congrArg r (State.deliver_part (fun v => v.quad q) (fun _ _ _ => rfl) u ..)
  rcases hn : s.nextFseq src c with ⟨n, v⟩
  rw [hn] at hq
  simp only [State.record, hn]
  split
  · split
    · exact hq
    · exact (hd ..).trans hq
  · exact (hd ..).trans hq

/-- The record of a command leaves what its end reads. -/
theorem State.tileRecord_array (s : State) (q : Nat) (c : ACmd) (code addr det prog psl : Nat) :
    ((s.tileRecord q c code addr det prog psl).quad q).SameArray (s.quad q)
      ∧ ((s.tileRecord q c code addr det prog psl).quad q).running = (s.quad q).running :=
  ⟨⟨State.record_quadPart Quad.arrayQ (fun _ _ => rfl) .., State.record_quadPart Quad.next0 (fun _ _ => rfl) ..,
    State.record_quadPart Quad.next1 (fun _ _ => rfl) .., State.record_quadPart Quad.wbe (fun _ _ => rfl) ..⟩,
    State.record_quadPart Quad.running (fun _ _ => rfl) ..⟩

/-- A command's end in its quad. -/
theorem State.finishTile_quad (s : State) (q : Nat) (r : ARun) (flt : Bool) (flags : Flags) (nf kp : Nat) :
    (s.finishTile q r flt flags nf kp).quad q = { s.quad q with
      running := none
      next0 := if tSet r.cmd.desc.toNat = 0 then (tChn r.cmd.desc.toNat + 1) % 256 else (s.quad q).next0
      next1 := if tSet r.cmd.desc.toNat = 0 then (s.quad q).next1 else (tChn r.cmd.desc.toNat + 1) % 256
      wbe := if tOp r.cmd.desc.toNat < 3 then (s.quad q).wbe.put (tWbe r.cmd.desc.toNat)
          { (s.quad q).entry (tWbe r.cmd.desc.toNat) with pin := ((s.quad q).entry (tWbe r.cmd.desc.toNat)).pin - 1 }
        else (s.quad q).wbe } := by
  have hcount : ∀ (u : State) die c k n, (u.count die c k n).quad q = u.quad q := fun u die c k n => by
    unfold State.count
    split
    · rfl
    · rfl
  have hset : ∀ k : Quad, (((s.setQuad q k).completeOp r.cmd.id).clearFetches r.cmd.id).quad q = k := fun k =>
    s.quad_setQuad_same q k
  unfold State.finishTile
  extract_lets c x k0 nxt k1 e k2 u
  have hu : u.quad q = k2 := hset k2
  have hk : k2 = { s.quad q with
      running := none
      next0 := if tSet r.cmd.desc.toNat = 0 then (tChn r.cmd.desc.toNat + 1) % 256 else (s.quad q).next0
      next1 := if tSet r.cmd.desc.toNat = 0 then (s.quad q).next1 else (tChn r.cmd.desc.toNat + 1) % 256
      wbe := if tOp r.cmd.desc.toNat < 3 then (s.quad q).wbe.put (tWbe r.cmd.desc.toNat)
          { (s.quad q).entry (tWbe r.cmd.desc.toNat) with pin := ((s.quad q).entry (tWbe r.cmd.desc.toNat)).pin - 1 }
        else (s.quad q).wbe } := by
    simp only [k2, e, k1, k0, nxt, x, c]
    split
    · rfl
    · rfl
  rw [← hk, ← hu]
  split
  · rfl
  · exact (State.deliver_part (fun v => v.quad q) (fun _ _ _ => rfl) ..).trans (hcount ..)

theorem State.finishTile_done {s u : State} {q : Nat} {r r' : ARun} (hrun : (s.quad q).running = some r) (hr : r'.cmd = r.cmd)
    (hq : (u.quad q).SameArray (s.quad q)) (flt : Bool) (flags : Flags) (nf kp : Nat) :
    (u.finishTile q r' flt flags nf kp).ArrayDone s q r := by
  have hquad := u.finishTile_quad q r' flt flags nf kp
  refine ⟨?_, ?_, ?_, fun p => ?_⟩
  · rw [hquad]
  · unfold State.next
    rw [hquad, hr]
    by_cases h0 : tSet r.cmd.desc.toNat = 0
    · rw [if_pos h0]
      exact if_pos h0
    · rw [if_neg h0]
      exact if_neg h0
  · rw [hquad]
    exact hq.queue
  · rw [hquad]
    unfold Quad.pendingOf
    dsimp only
    rw [hrun, hq.queue]
    dsimp only
    omega

theorem State.finishTile_unpins {s : State} {q : Nat} {r : ARun} (h : tOp r.cmd.desc.toNat < 3) (flt : Bool) (flags : Flags)
    (nf kp : Nat) : (((s.finishTile q r flt flags nf kp).quad q).entry (tWbe r.cmd.desc.toNat)).pin
      = ((s.quad q).entry (tWbe r.cmd.desc.toNat)).pin - 1 := by
  rw [s.finishTile_quad q r flt flags nf kp, if_pos h, Quad.entry]
  dsimp only
  rw [Tab.get_put, if_pos rfl]

end Sys2Proof.Machine

/-! The array's steps: every element of a tile in its place (02 R33 to R36; 08 R165, R170). -/

namespace Sys2Proof.Machine

open Sys2Proof

/-- A field reads as before when its bytes do. -/
theorem State.readLe_congr {s t : State} {a n : Nat}
    (h : ∀ b, a ≤ b → b < a + n → Memory.readByte t.mem b = Memory.readByte s.mem b) : t.readLe a n = s.readLe a n :=
  congrArg ofLe (Memory.read_congr n a h)

/-- The results of a row, written. -/
theorem State.ownerWrite_row {s : State} (h : s.memOk) (base : Nat) (l : List (Nat × Flags)) :
    (∀ j, (hj : j < l.length) →
      (s.ownerWrite base (l.flatMap (fun e => leBytes 4 e.1))).readLe (base + 4 * j) 4 = (l[j]).1 % 2 ^ 32)
    ∧ ∀ b, ¬ (base ≤ b ∧ b < base + 4 * l.length) →
      Memory.readByte (s.ownerWrite base (l.flatMap (fun e => leBytes 4 e.1))).mem b = Memory.readByte s.mem b := by
  have hf : ∀ e : Nat × Flags, (leBytes 4 e.1).length = 4 := fun e => leBytes_length 4 e.1
  have hlen : (l.flatMap (fun e => leBytes 4 e.1)).length = 4 * l.length := by
    rw [List.length_flatMap, List.map_congr_left (fun e _ => hf e), List.map_const', List.sum_replicate, smul_eq_mul, Nat.mul_comm]
  refine ⟨fun j hj => ?_, fun b hb => ?_⟩
  · obtain ⟨p, q, hsplit, hp⟩ := flatMap_split (fun e : Nat × Flags => leBytes 4 e.1) 4 hf hj
    have hread := State.read_ownerWrite h base (l.flatMap (fun e => leBytes 4 e.1))
    rw [← hp]
    refine (State.readLe_middle (p := p) (q := q) (v := (l[j]).1) ?_).trans rfl
    rw [← hsplit]
    exact hread
  · rw [State.ownerWrite_bytes h, hlen, if_neg hb]

/-- A place of a tile's element. -/
def elemAt (q x i j : Nat) : Nat := setBase q (tSet x) + 512 * i + 4 * j

/-- What some rows of a tile hold after steps `lo` to `hi - 1`: each element, by what it held before; and every other byte. -/
structure State.Stepped (t s : State) (q : Nat) (v : Tile) (coords : List (Nat × Nat)) (lo hi : Nat) (rows : List Nat) : Prop where
  elements : ∀ i ∈ rows, ∀ j < v.n,
    t.readLe (elemAt q v.x i j) 4 = (v.element coords i j lo hi (s.readLe (elemAt q v.x i j) 4)).1 % 2 ^ 32
  others : ∀ b, (∀ i ∈ rows, ∀ j < v.n, ¬ (elemAt q v.x i j ≤ b ∧ b < elemAt q v.x i j + 4)) →
    Memory.readByte t.mem b = Memory.readByte s.mem b

/-- One row of a tile, after some steps. -/
theorem State.ownerWrite_steps {s : State} (h : s.memOk) (q : Nat) (v : Tile) (coords : List (Nat × Nat)) (lo hi i : Nat) :
    (s.ownerWrite (setBase q (tSet v.x) + 512 * i) (((List.range v.n).map (fun j =>
      v.element coords i j lo hi (s.readLe (setBase q (tSet v.x) + 512 * i + 4 * j) 4))).flatMap (fun e => leBytes 4 e.1))).Stepped
      s q v coords lo hi [i] := by
  obtain ⟨hin, hout⟩ := State.ownerWrite_row h (setBase q (tSet v.x) + 512 * i) ((List.range v.n).map (fun j =>
      v.element coords i j lo hi (s.readLe (setBase q (tSet v.x) + 512 * i + 4 * j) 4)))
  have hlen : ((List.range v.n).map (fun j =>
      v.element coords i j lo hi (s.readLe (setBase q (tSet v.x) + 512 * i + 4 * j) 4))).length = v.n := by
    rw [List.length_map, List.length_range]
  refine ⟨fun k hk j hj => ?_, fun b hb => hout b (fun hrow => ?_)⟩
  · rw [List.mem_singleton.1 hk]
    refine (hin j (by rw [hlen]; exact hj)).trans ?_
    rw [List.getElem_map, List.getElem_range]
    rfl
  · rw [hlen] at hrow
    refine hb i (List.mem_singleton.2 rfl) ((b - (setBase q (tSet v.x) + 512 * i)) / 4) (by omega) ?_
    unfold elemAt
    omega

/-- The rows of a tile lie apart. -/
theorem elemAt_apart {q x i k j l b : Nat} (hne : i ≠ k) (hj : j < 128) (hl : l < 128)
    (h : elemAt q x i j ≤ b ∧ b < elemAt q x i j + 4) : ¬ (elemAt q x k l ≤ b ∧ b < elemAt q x k l + 4) := by
  unfold elemAt at h ⊢
  omega

/-- Some rows of a tile, after some steps. -/
theorem State.tileRows_steps (o : State) (q : Nat) (v : Tile) (coords : List (Nat × Nat)) (lo hi : Nat) (hn : v.n ≤ 128) :
    ∀ (rows : List Nat) (acc : State × Flags), rows.Nodup → acc.1.memOk →
      (o.tileRows q v coords lo hi rows acc).1.Stepped acc.1 q v coords lo hi rows := by
  intro rows
  induction rows with
  | nil => exact fun acc _ _ => ⟨fun i hi => absurd hi List.not_mem_nil, fun b _ => rfl⟩
  | cons i rows ih =>
    intro acc hnd hm
    obtain ⟨hi', hnd⟩ := List.nodup_cons.1 hnd
    have hrow := State.ownerWrite_steps hm q v coords lo hi i
    have htail := ih (acc.1.ownerWrite (setBase q (tSet v.x) + 512 * i) (((List.range v.n).map (fun j =>
      v.element coords i j lo hi (acc.1.readLe (setBase q (tSet v.x) + 512 * i + 4 * j) 4))).flatMap (fun e => leBytes 4 e.1)),
      ((List.range v.n).map (fun j =>
      v.element coords i j lo hi (acc.1.readLe (setBase q (tSet v.x) + 512 * i + 4 * j) 4))).foldl (fun f e => f.or e.2) acc.2) hnd
      (by rw [State.memOk, State.ownerWrite_mem]; exact Memory.wf_write _ _ hm)
    rw [State.tileRows]
    generalize o.tileRows q v coords lo hi rows _ = out at htail
    generalize acc.1.ownerWrite _ _ = u at hrow htail
    have hout : ∀ k ∈ rows, ∀ j < v.n, ∀ b, elemAt q v.x i j ≤ b ∧ b < elemAt q v.x i j + 4 →
        ∀ l < v.n, ¬ (elemAt q v.x k l ≤ b ∧ b < elemAt q v.x k l + 4) := fun k hk j hj b hb l hl =>
      elemAt_apart (fun he : i = k => hi' (by rw [he]; exact hk)) (by omega) (by omega) hb
    refine ⟨fun k hk j hj => ?_, fun b hb => ?_⟩
    · rcases List.mem_cons.1 hk with rfl | hk
      · rw [← hrow.elements k (List.mem_singleton.2 rfl) j hj]
        exact State.readLe_congr (fun b h1 h2 => htail.others b (fun m hm' l hl => hout m hm' j hj b ⟨h1, h2⟩ l hl))
      · rw [htail.elements k hk j hj]
        refine congrArg (fun y => (v.element coords k j lo hi y).1 % 2 ^ 32) (State.readLe_congr (fun b h1 h2 => ?_))
        refine hrow.others b (fun m hm' l hl hb => ?_)
        rw [List.mem_singleton.1 hm'] at hb
        exact hout k hk l hl b hb j hj ⟨h1, h2⟩
    · rw [htail.others b (fun k hk => hb k (List.mem_cons_of_mem _ hk)),
        hrow.others b (fun k hk => hb k (List.mem_singleton.1 hk ▸ List.mem_cons_self ..))]

/-- The rows of a tile leave the quads. -/
theorem State.tileRows_quad (o : State) (q : Nat) (v : Tile) (coords : List (Nat × Nat)) (lo hi j : Nat) :
    ∀ (rows : List Nat) (acc : State × Flags), (o.tileRows q v coords lo hi rows acc).1.quad j = acc.1.quad j := by
  intro rows
  induction rows with
  | nil => exact fun acc => rfl
  | cons i rows ih => exact fun acc => (ih _).trans (State.ownerWrite_quad ..)

/-- Some steps of a command. -/
theorem State.stepTile_steps {s : State} (h : s.memOk) (q : Nat) (r : ARun) (v : Tile) (coords : List (Nat × Nat)) (hi : Nat)
    (hn : v.n ≤ 128) : (s.stepTile q r v coords hi).1.Stepped s q v coords r.steps hi (List.range (tRows v.x))
      ∧ (∀ j, (s.stepTile q r v coords hi).1.quad j = s.quad j) ∧ (s.stepTile q r v coords hi).2.cmd = r.cmd
      ∧ (s.stepTile q r v coords hi).2.steps = hi := by
  have hrows := State.tileRows_steps s q v coords r.steps hi hn (List.range (tRows v.x)) (s, r.flags) List.nodup_range h
  have hquad := fun j => State.tileRows_quad s q v coords r.steps hi j (List.range (tRows v.x)) (s, r.flags)
  have hcount : ∀ (u : State) die c k n, (u.count die c k n).mem = u.mem ∧ ∀ j, (u.count die c k n).quad j = u.quad j :=
    fun u die c k n => by
      unfold State.count
      split
      · exact ⟨rfl, fun _ => rfl⟩
      · exact ⟨rfl, fun _ => rfl⟩
  have hmem : ∀ (t u : State), t.mem = u.mem → u.Stepped s q v coords r.steps hi (List.range (tRows v.x)) →
      t.Stepped s q v coords r.steps hi (List.range (tRows v.x)) := fun t u e hu =>
    ⟨fun i hi' j hj => (State.readLe_congr (fun b _ _ => by rw [e])).trans (hu.elements i hi' j hj), fun b hb => by
      rw [e]
      exact hu.others b hb⟩
  unfold State.stepTile
  generalize s.tileRows q v coords r.steps hi (List.range (tRows v.x)) (s, r.flags) = out at hrows hquad
  obtain ⟨u, flags⟩ := out
  dsimp only at hrows hquad ⊢
  split
  · exact ⟨hmem _ _ (((hcount ..).1).trans (hcount ..).1) hrows,
      fun j => (((hcount ..).2 j).trans ((hcount ..).2 j)).trans (hquad j), rfl, rfl⟩
  · exact ⟨hmem _ _ (hcount ..).1 hrows, fun j => ((hcount ..).2 j).trans (hquad j), rfl, rfl⟩

end Sys2Proof.Machine

/-! MMA, SEL and SPARSE run, and DRAIN writes its rows (08 R165 to R168, R170). -/

namespace Sys2Proof.Machine

open Sys2Proof

/-! The running tile. -/

/-- A command of the array that runs, MMA, SEL or SPARSE, with its operands in place: the state `z` once its zeroing is done,
its entry and its tile. -/
structure State.Tiles (s z : State) (q : Nat) (r : ARun) (e : WbEntry) (a sa : Nat) (v : Tile) : Prop where
  memOk : s.memOk
  runs : (s.quad q).running = some r
  sound : r.flt = false
  op : tOp r.cmd.desc.toNat < 3
  zeroed : z = (s.zeroRest q r).1
  entry : e = (s.quad q).entry (tWbe r.cmd.desc.toNat)
  operands : z.tileOperands r.cmd.who.ctx q r.cmd.desc.toNat (tileK r.cmd.desc.toNat e.desc.toNat) = some (a, sa)
  tile : ∃ kind, pairKind (tFmt r.cmd.desc.toNat) (wFmt e.desc.toNat) = some kind
    ∧ v = z.tileOf q e r.cmd.desc.toNat kind a sa (z.entryValues q e)
  width : v.n ≤ 128
  values : r.values = v.b
  spring : tOp r.cmd.desc.toNat = 2 → (s.quad q).springBad = false
  clean : z.tilePoison q e v a sa r.steps = none

/-- What an array step signals. -/
def State.stepSignals (s : State) (q x : Nat) : State :=
  if tOp x = 2 then (s.signal 1 q).signal 8 q else s.signal 1 q

theorem State.stepSignals_keeps {β : Type} (r : State → β) (hr : ∀ (s : State) l, r { s with signals := l } = r s) (s : State)
    (q x : Nat) : r (s.stepSignals q x) = r s := by
  unfold State.stepSignals
  split
  · exact (hr _ _).trans (hr _ _)
  · exact hr _ _

theorem State.Stepped.of_mem {t s u : State} {q : Nat} {v : Tile} {coords : List (Nat × Nat)} {lo hi : Nat} {rows : List Nat}
    (h : t.Stepped u q v coords lo hi rows) (hm : u.mem = s.mem) : t.Stepped s q v coords lo hi rows :=
  ⟨fun i hi' j hj => by
    rw [h.elements i hi' j hj, State.readLe_congr (s := s) (t := u) (fun b _ _ => by rw [hm])],
    fun b hb => by rw [h.others b hb, hm]⟩

section
variable {s z : State} {q : Nat} {r : ARun} {e : WbEntry} {a sa : Nat} {v : Tile} (h : s.Tiles z q r e a sa v)
include h

theorem State.Tiles.zeroed_quad (j : Nat) : z.quad j = s.quad j := by
  rw [h.zeroed]
  exact State.zeroRest_quad ..

theorem State.Tiles.zeroed_memOk : z.memOk := by
  rw [h.zeroed]
  exact State.zeroBlocks_wf _ _ _ _ _ h.memOk

theorem State.Tiles.desc : v.x = r.cmd.desc.toNat := by
  obtain ⟨kind, -, hv⟩ := h.tile
  rw [hv]
  rfl

/-- The operands of the command, as the zeroing leaves them. -/
theorem State.Tiles.found {r' : ARun} (hcmd : r'.cmd = r.cmd) (hvals : r'.values = r.values) :
    z.runOperands q r' = (some (v, a, sa), z) := by
  obtain ⟨kind, hk, hv⟩ := h.tile
  have he : (z.quad q).entry (tWbe r.cmd.desc.toNat) = e := by rw [h.zeroed_quad, ← h.entry]
  unfold State.runOperands
  rw [hcmd]
  dsimp only
  rw [he, h.operands, hk]
  dsimp only
  rw [← hv, if_pos (by rw [hvals, h.values])]

theorem State.Tiles.springOk : (decide (tOp r.cmd.desc.toNat = 2) && (z.quad q).springBad) = false := by
  rw [h.zeroed_quad]
  by_cases h2 : tOp r.cmd.desc.toNat = 2
  · rw [h.spring h2, Bool.and_false]
  · rw [decide_eq_false h2, Bool.false_and]

/-- A command with no operand poisoned completes by the steps that are left. -/
theorem State.Tiles.completes : ∃ t, exec (.arrayCommandComplete q) s = .next t
    ∧ t.Stepped z q v (z.tilePositions q e) r.steps v.k (List.range (tRows v.x)) ∧ t.ArrayDone s q r
    ∧ ((t.quad q).entry (tWbe r.cmd.desc.toNat)).pin = e.pin - 1 := by
  let r' : ARun := { r with zeroed := zeroCount r.cmd.desc.toNat }
  generalize hu : z.stepSignals q r.cmd.desc.toNat = u
  have humem : u.mem = z.mem := by
    rw [← hu]
    exact z.stepSignals_keeps State.mem (fun _ _ => rfl) ..
  have hupos : u.tilePositions q e = z.tilePositions q e := by
    rw [← hu]
    exact z.stepSignals_keeps (fun s => s.tilePositions q e) (fun _ _ => rfl) ..
  have hupoison : u.tilePoison q e v a sa r.steps = none := by
    rw [← h.clean, ← hu]
    exact z.stepSignals_keeps (fun s => s.tilePoison q e v a sa r.steps) (fun _ _ => rfl) ..
  have huquad : ∀ j, u.quad j = s.quad j := fun j => by
    rw [← h.zeroed_quad, ← hu]
    exact z.stepSignals_keeps (fun s => s.quad j) (fun _ _ => rfl) ..
  obtain ⟨hstep, hquad, hcmd, -⟩ := State.stepTile_steps (s := u)
    (by rw [State.memOk, humem]; exact h.zeroed_memOk) q r' v (u.tilePositions q e) v.k h.width
  have hexec : exec (.arrayCommandComplete q) s = .next (u.runTile q r' v e a sa) := by
    rw [show exec (.arrayCommandComplete q) s = execArrayCommandComplete q s from rfl, execArrayCommandComplete, h.runs]
    have h4 : ¬ tOp r.cmd.desc.toNat = 4 := by have := h.op; omega
    have h3 : ¬ tOp r.cmd.desc.toNat = 3 := by have := h.op; omega
    have hz : s.zeroRest q r = (z, r') := by rw [h.zeroed]; rfl
    simp only [h.sound, Bool.false_eq_true, if_false, if_neg h4, hz]
    rw [if_neg h3, h.springOk, if_neg Bool.false_ne_true, h.found (r' := r') rfl rfl, ← h.entry, ← hu]
    rfl
  have hrun : u.runTile q r' v e a sa = (u.stepTile q r' v (u.tilePositions q e) v.k).1.finishTile q
      (u.stepTile q r' v (u.tilePositions q e) v.k).2 false (u.stepTile q r' v (u.tilePositions q e) v.k).2.flags
      (u.stepTile q r' v (u.tilePositions q e) v.k).2.nf ((u.stepTile q r' v (u.tilePositions q e) v.k).1.kPrime q e v.x) := by
    unfold State.runTile
    dsimp only
    rw [show u.tilePoison q e v a sa r'.steps = none from hupoison]
  refine ⟨_, hexec, ?_, ?_, ?_⟩
  · rw [hrun, ← hupos]
    have hs := hstep.of_mem humem
    exact ⟨fun i hi j hj => (State.readLe_congr (fun b _ _ => by rw [State.finishTile_mem])).trans (hs.elements i hi j hj),
      fun b hb => by rw [State.finishTile_mem]; exact hs.others b hb⟩
  · rw [hrun]
    exact State.finishTile_done h.runs hcmd (.of_eq ((hquad q).trans (huquad q))) ..
  · have hop : tOp (u.stepTile q r' v (u.tilePositions q e) v.k).2.cmd.desc.toNat < 3 := by
      rw [hcmd]
      exact h.op
    have hpin := State.finishTile_unpins (s := (u.stepTile q r' v (u.tilePositions q e) v.k).1) (q := q) hop false
      (u.stepTile q r' v (u.tilePositions q e) v.k).2.flags (u.stepTile q r' v (u.tilePositions q e) v.k).2.nf
      ((u.stepTile q r' v (u.tilePositions q e) v.k).1.kPrime q e v.x)
    rw [hcmd, hquad, huquad] at hpin
    rw [hrun]
    exact hpin.trans (by rw [h.entry])

/-- Once its zeroing is done, a command takes one step, or one step pair. -/
theorem State.Tiles.steps {hi : Nat} (hz : zeroCount r.cmd.desc.toNat ≤ r.zeroed)
    (hhi : hi = r.steps + (if v.kind = .float true then 2 else 1)) (hlt : hi < v.k) : ∃ t r', s.arrayStep q = .next t
      ∧ (t.quad q).running = some r' ∧ r'.cmd = r.cmd ∧ r'.steps = hi
      ∧ t.Stepped s q v (z.tilePositions q e) r.steps hi (List.range (tRows v.x)) := by
  have hzs : z = s := h.zeroed.trans (State.zeroRest_of_le hz)
  subst hzs
  obtain ⟨hstep, hquad, hcmd, hsteps⟩ := State.stepTile_steps h.memOk q r v (z.tilePositions q e) hi h.width
  have h4 : ¬ (tOp r.cmd.desc.toNat = 4 ∧ r.done < tRows r.cmd.desc.toNat) := by have := h.op; omega
  have hlate : (decide (v.k ≤ hi) || (z.tilePoison q e v a sa r.steps).isSome
      || (decide (tOp r.cmd.desc.toNat = 2) && (z.quad q).springBad)) = false := by
    rw [h.springOk, h.clean, decide_eq_false (by omega)]
    rfl
  have hexec : z.arrayStep q = .next (if tOp r.cmd.desc.toNat = 2 then
      (((z.stepTile q r v (z.tilePositions q e) hi).1.signal 1 q).setRun q (z.stepTile q r v (z.tilePositions q e) hi).2).signal 8 q
      else ((z.stepTile q r v (z.tilePositions q e) hi).1.signal 1 q).setRun q (z.stepTile q r v (z.tilePositions q e) hi).2) := by
    unfold State.arrayStep
    rw [h.runs]
    dsimp only
    rw [h.sound, if_neg Bool.false_ne_true, if_neg h4, if_neg (by omega), if_neg (by have := h.op; omega)]
    unfold State.tileStep
    dsimp only
    rw [h.found rfl rfl, ← h.entry]
    dsimp only
    rw [← hhi, hlate, if_neg Bool.false_ne_true]
  generalize z.stepTile q r v (z.tilePositions q e) hi = out at hexec hstep hcmd hsteps
  obtain ⟨u, r'⟩ := out
  have hrun : ((((u.signal 1 q).setRun q r').quad q).running) = some r' :=
    congrArg Quad.running ((u.signal 1 q).quad_setQuad_same q _)
  refine ⟨_, r', hexec, ?_, hcmd, hsteps, ?_⟩
  · split
    · exact hrun
    · exact hrun
  · split
    · exact ⟨hstep.elements, hstep.others⟩
    · exact ⟨hstep.elements, hstep.others⟩

end

end Sys2Proof.Machine

/-! SETTLED. The array starts, zeroes, accumulates and drains (02 R33 to R36; 08 R163 to R170, R180; 09 R195). -/

namespace Sys2Proof.Machine

open Sys2Proof

/-! DRAIN. -/

section
variable {s u : State} {q n : Nat} {r : ARun} {ts : List Target}

theorem State.drainBlock_moves (hrow : r.row = some ts) {k : Nat}
    (hp : s.putNext r.cmd.who r.cmd.id (s.rowLeft q r ts) = .moved u k) :
    s.drainBlock q r = .next (u.setRun q { r with blocks := r.blocks + k }) := by
  cases r with
  | mk =>
    dsimp only at hrow
    subst hrow
    unfold State.drainBlock
    dsimp only
    rw [hp]

theorem State.drainRows_writes (hrow : r.row = some ts)
    (hp : s.putRest r.cmd.who r.cmd.id (s.rowLeft q r ts) = .done u) :
    State.drainRows q (n + 1) r s = State.drainRows q n r.rowDone (u.clearFetches r.cmd.id) := by
  cases r with
  | mk =>
    dsimp only at hrow
    subst hrow
    rw [State.drainRows]
    dsimp only
    rw [hp]

theorem State.engineFix_bad {w : Who} {die cmd : Nat} {ps : List (Nat × Nat)} {code addr det : Nat}
    (hbad : s.engineMay w.ctx die ps = .error (.bad code addr det)) : s.engineFix w die cmd ps = .bad code addr det := by
  simp only [State.engineFix, hbad]

/-- A row that is refused stops its command. -/
theorem State.drainRows_stops (hrow : r.row = none) {code addr det : Nat}
    (hpo : s.poisonAt (setBase q (tSet r.cmd.desc.toNat) + 512 * r.done) 512 = none)
    (hbad : s.engineMay r.cmd.who.ctx (dieOfQuad q) (drainRow r.cmd.desc.toNat r.done) = .error (.bad code addr det)) :
    State.drainRows q (n + 1) r s = .next (s.drainStop q r code addr det) := by
  cases r with
  | mk =>
    dsimp only at hrow hpo hbad
    subst hrow
    rw [State.drainRows]
    dsimp only
    unfold State.drainFix
    dsimp only
    rw [hpo]
    dsimp only
    rw [State.engineFix_bad hbad]

end

/-- A DRAIN that runs. -/
structure State.Drains (s : State) (q : Nat) (r : ARun) : Prop where
  memOk : s.memOk
  runs : (s.quad q).running = some r
  sound : r.flt = false
  op : tOp r.cmd.desc.toNat = 4

section
variable {s : State} {q : Nat} {r : ARun} (h : s.Drains q r)
include h

theorem State.Drains.exec_complete : exec (.arrayCommandComplete q) s = State.drainRows q (tRows r.cmd.desc.toNat - r.done) r s := by
  rw [show exec (.arrayCommandComplete q) s = execArrayCommandComplete q s from rfl, execArrayCommandComplete, h.runs]
  dsimp only
  rw [h.sound, if_neg Bool.false_ne_true, if_pos h.op]

theorem State.Drains.step (hd : r.done < tRows r.cmd.desc.toNat) : s.arrayStep q = s.drainBlock q r := by
  unfold State.arrayStep
  rw [h.runs]
  dsimp only
  rw [h.sound, if_neg Bool.false_ne_true, if_pos ⟨h.op, hd⟩]

/-- With no row left, what is left to zero is zeroed, and the command ends. -/
theorem State.Drains.ends (hd : tRows r.cmd.desc.toNat ≤ r.done) : ∃ t, exec (.arrayCommandComplete q) s = .next t
    ∧ t.mem = (s.zeroRest q r).1.mem ∧ t.ArrayDone s q r := by
  refine ⟨(s.zeroRest q r).1.finishTile q (s.zeroRest q r).2 false {} 0 0, ?_, State.finishTile_mem ..,
    State.finishTile_done h.runs rfl (.of_eq (s.zeroRest_quad q r q)) ..⟩
  rw [h.exec_complete, Nat.sub_eq_zero_of_le hd]
  rfl

variable (hd : r.done < tRows r.cmd.desc.toNat)
include hd

/-- A row whose places are found, all on this chip. -/
theorem State.Drains.finds (hrow : r.row = none) (hpo : s.poisonAt (setBase q (tSet r.cmd.desc.toNat) + 512 * r.done) 512 = none)
    {ts : List Target} (hm : s.engineMay r.cmd.who.ctx (dieOfQuad q) (drainRow r.cmd.desc.toNat r.done) = .ok ts)
    (hts : ∀ d ∈ ts, d.onPeer = false) (hf : ∀ f ∈ s.fetches, f.cmd ≠ r.cmd.id) : ∃ t, s.arrayStep q = .next t ∧ t.mem = s.mem
      ∧ (t.quad q).running = some { r with row := some ts } := by
  refine ⟨s.setRun q { r with row := some ts }, ?_, rfl, congrArg Quad.running (s.quad_setQuad_same q _)⟩
  rw [h.step hd, State.drainBlock, hrow]
  dsimp only
  unfold State.drainFix
  dsimp only
  rw [hpo]
  dsimp only
  rw [State.engineFix_here hf hm hts]

/-- A row that is refused. -/
theorem State.Drains.stops (hrow : r.row = none) (hpo : s.poisonAt (setBase q (tSet r.cmd.desc.toNat) + 512 * r.done) 512 = none)
    {code addr det : Nat}
    (hbad : s.engineMay r.cmd.who.ctx (dieOfQuad q) (drainRow r.cmd.desc.toNat r.done) = .error (.bad code addr det)) :
    ∃ t, exec (.arrayCommandComplete q) s = .next t ∧ t.mem = s.mem ∧ t.ArrayDone s q r := by
  refine ⟨s.drainStop q r code addr det, ?_, ?_, ?_⟩
  · obtain ⟨n, hn⟩ : ∃ n, tRows r.cmd.desc.toNat - r.done = n + 1 := ⟨tRows r.cmd.desc.toNat - r.done - 1, by omega⟩
    rw [h.exec_complete, hn]
    exact State.drainRows_stops hrow hpo hbad
  · rw [State.drainStop, State.finishTile_mem, State.tileRecord_mem]
  · exact State.finishTile_done h.runs rfl (State.tileRecord_array ..).1 ..

variable {ts : List Target} (hrow : r.row = some ts) (hf : ∀ f ∈ s.fetches, f.cmd ≠ r.cmd.id)
include hrow hf

/-- One block of a row whose places are known, on this chip. -/
theorem State.Drains.block {d : Put} {l : List Put} {pa : Nat} (hputs : s.rowLeft q r ts = d :: l) (hpa : d.dst = .here pa)
    (hc : s.ownerClear pa = true) : ∃ t, s.arrayStep q = .next t
      ∧ (∀ a, Memory.readByte t.mem a = if pa ≤ a ∧ a < pa + d.bytes.length then d.bytes.getD (a - pa) 0
          else Memory.readByte s.mem a)
      ∧ (t.quad q).running = some { r with blocks := r.blocks + 1 } := by
  have hnext : s.putNext r.cmd.who r.cmd.id (s.rowLeft q r ts) = .moved (s.ownerWrite pa d.bytes) 1 := by
    rw [hputs]
    exact State.putNext_here hf hpa hc
  exact ⟨_, (h.step hd).trans (State.drainBlock_moves hrow hnext), fun a => State.ownerWrite_bytes h.memOk pa d.bytes a,
    congrArg Quad.running (State.quad_setQuad_same ..)⟩

/-- The last row, with all of what is left of it on this chip, and nothing to zero. -/
theorem State.Drains.last (hlast : r.done + 1 = tRows r.cmd.desc.toNat) (hz : tZf r.cmd.desc.toNat = false)
    (hall : ∀ d ∈ s.rowLeft q r ts, ∃ pa, d.dst = .here pa ∧ s.ownerClear pa = true) :
    ∃ t, exec (.arrayCommandComplete q) s = .next t
      ∧ t.mem = ((s.rowLeft q r ts).foldl (fun u d => u.put r.cmd.who r.cmd.id d) s).mem ∧ t.ArrayDone s q r := by
  generalize hu : (s.rowLeft q r ts).foldl (fun u d => u.put r.cmd.who r.cmd.id d) s = u
  have hput : s.putRest r.cmd.who r.cmd.id (s.rowLeft q r ts) = .done u := by
    rw [State.putRest_here hf hall, hu]
  have hquad : u.quad q = s.quad q := by
    rw [← hu]
    refine State.foldl_part (fun v => v.quad q) _ (fun v d => ?_) _ s
    unfold State.put
    split
    · exact State.ownerWrite_quad ..
    · rfl
  have hcount : zeroCount r.cmd.desc.toNat = 0 := by
    unfold zeroCount
    rw [if_neg (by rw [h.op]; decide), hz]
    rfl
  have hzero : ((u.clearFetches r.cmd.id).zeroRest q r.rowDone).1 = u.clearFetches r.cmd.id :=
    State.zeroRest_of_le (show zeroCount r.cmd.desc.toNat ≤ _ by rw [hcount]; exact Nat.zero_le _)
  refine ⟨((u.clearFetches r.cmd.id).zeroRest q r.rowDone).1.finishTile q ((u.clearFetches r.cmd.id).zeroRest q r.rowDone).2
    false {} 0 0, ?_, ?_, ?_⟩
  · rw [h.exec_complete, show tRows r.cmd.desc.toNat - r.done = 0 + 1 by omega, State.drainRows_writes hrow hput]
    rfl
  · rw [State.finishTile_mem, hzero]
    rfl
  · have hq : ((u.clearFetches r.cmd.id).zeroRest q r.rowDone).1.quad q = s.quad q :=
      (State.zeroRest_quad (u.clearFetches r.cmd.id) q r.rowDone q).trans hquad
    exact State.finishTile_done (r' := ((u.clearFetches r.cmd.id).zeroRest q r.rowDone).2) h.runs (by rfl) (.of_eq hq) _ _ _ _

end

/-! Zeroing. -/

/-- A ZERO completes by the zeroing that is left. -/
theorem arrayZero_completes {s : State} {q : Nat} {r : ARun} (hrun : (s.quad q).running = some r) (hflt : r.flt = false)
    (hop : tOp r.cmd.desc.toNat = 3) : ∃ t, exec (.arrayCommandComplete q) s = .next t
      ∧ t.mem = (s.zeroRest q r).1.mem ∧ t.ArrayDone s q r := by
  refine ⟨(s.zeroRest q r).1.finishTile q (s.zeroRest q r).2 false {} 0 0, ?_, State.finishTile_mem ..,
    State.finishTile_done hrun rfl (.of_eq (s.zeroRest_quad q r q)) ..⟩
  rw [show exec (.arrayCommandComplete q) s = execArrayCommandComplete q s from rfl, execArrayCommandComplete, hrun]
  dsimp only
  rw [hflt, if_neg Bool.false_ne_true, if_neg (by omega), if_pos hop]

/-- The next block that a command is to zero. -/
theorem arrayStep_zeroes {s : State} {q : Nat} {r : ARun} (hm : s.memOk) (hrun : (s.quad q).running = some r) (hflt : r.flt = false)
    (hrows : tOp r.cmd.desc.toNat = 4 → tRows r.cmd.desc.toNat ≤ r.done) (hz : r.zeroed < zeroCount r.cmd.desc.toNat) :
    ∃ t r', s.arrayStep q = .next t ∧ (t.quad q).running = some r' ∧ r'.zeroed = r.zeroed + 1
      ∧ ∀ a, Memory.readByte t.mem a = if setBase q (tSet r.cmd.desc.toNat) + 64 * r.zeroed ≤ a
            ∧ a < setBase q (tSet r.cmd.desc.toNat) + 64 * r.zeroed + 64 then 0
          else Memory.readByte s.mem a := by
  have h4 : ¬ (tOp r.cmd.desc.toNat = 4 ∧ r.done < tRows r.cmd.desc.toNat) := fun h => by
    have := hrows h.1
    omega
  refine ⟨(s.zeroBlocks q (tSet r.cmd.desc.toNat) r.zeroed (r.zeroed + 1)).setRun q { r with zeroed := r.zeroed + 1 },
    { r with zeroed := r.zeroed + 1 }, ?_, congrArg Quad.running (State.quad_setQuad_same ..), rfl, fun a => ?_⟩
  · unfold State.arrayStep
    rw [hrun]
    dsimp only
    rw [if_neg (show ¬ r.flt = true by rw [hflt]; exact Bool.false_ne_true), if_neg h4, if_pos hz]
    rfl
  · exact s.zeroBlocks_bytes q (tSet r.cmd.desc.toNat) r.zeroed (r.zeroed + 1) hm a

/-! The start. -/

theorem State.setHealth_quad (s : State) (h : Health) (j : Nat) : (s.setHealth h).quad j = s.quad j := by
  have hvector : ∀ (u : State) v, (u.vector v).quad j = u.quad j := fun u v => by
    unfold State.vector
    split
    · rfl
    · rfl
  unfold State.setHealth
  split
  · exact hvector ..
  · rfl

theorem State.softError_quad (s : State) (die st : Nat) (b : Bool) (j : Nat) : (s.softError die st b).quad j = s.quad j := by
  unfold State.softError
  dsimp only
  split
  · rfl
  · split
    · exact State.setHealth_quad ..
    · rfl

theorem State.checkSlot_quad (s : State) (c q ps j : Nat) : (s.checkSlot c q ps).1.quad j = s.quad j := by
  unfold State.checkSlot
  dsimp only
  split
  · rfl
  · split
    · exact State.softError_quad ..
    · rfl

/-- The checks of a command leave the quads. -/
theorem State.checkTile_quad (s : State) (c q : Nat) (e : WbEntry) (x j : Nat) : (s.checkTile c q e x).2.quad j = s.quad j := by
  have hslot : (s.checkSlot e.ctx q (wSlot e.desc.toNat)).1.quad j = s.quad j := s.checkSlot_quad ..
  unfold State.checkTile
  dsimp only
  (repeat' split) <;> simp only [hslot]

/-- What a start leaves: the command runs alone, taken from the queue, with its entry pinned once more. -/
structure State.Started (t s : State) (q : Nat) (c : ACmd) : Prop where
  run : ∃ r, (t.quad q).running = some r ∧ r.cmd = c ∧ r.done = 0 ∧ r.steps = 0 ∧ r.zeroed = 0
  queue : (t.quad q).arrayQ = (s.quad q).arrayQ.erase c
  pin : tOp c.desc.toNat < 3 →
    ((t.quad q).entry (tWbe c.desc.toNat)).pin = ((s.quad q).entry (tWbe c.desc.toNat)).pin + 1

section
variable {s : State} {q : Nat} {c : ACmd} (hrun : (s.quad q).running = none)
  (hold : oldest ((s.quad q).arrayQ.filter (s.eligible q)) = some c)
include hrun hold

theorem State.startable_oldest : s.startable q = some c := by
  rw [State.startable, hrun, hold]
  rfl

/-- A SPARSE whose turn at the spring has not come asks for it. -/
theorem arrayCommandStart_asks (hop : tOp c.desc.toNat = 2) (hturn : s.springTurn q c = false) :
    ∃ t, exec (.arrayCommandStart q) s = .next t ∧ (t.quad q).running = none ∧ (t.quad q).arrayQ = (s.quad q).arrayQ
      ∧ (t.quad q).springAsk = some (s.askedAt q c, c.id) := by
  refine ⟨s.setQuad q { s.quad q with springAsk := some (s.askedAt q c, c.id) }, ?_, ?_⟩
  · rw [show exec (.arrayCommandStart q) s = execArrayCommandStart q s from rfl, execArrayCommandStart,
      State.startable_oldest hrun hold]
    dsimp only
    rw [hturn, decide_eq_true hop]
    rfl
  · rw [State.quad_setQuad_same]
    exact ⟨hrun, rfl, rfl⟩

/-- The oldest command that may start does so, a SPARSE in its turn. -/
theorem arrayCommandStart_starts (hturn : tOp c.desc.toNat = 2 → s.springTurn q c = true) :
    ∃ t, exec (.arrayCommandStart q) s = .next t ∧ t.Started s q c := by
  have hask : (decide (tOp c.desc.toNat = 2) && !s.springTurn q c) = false := by
    by_cases h2 : tOp c.desc.toNat = 2
    · rw [hturn h2]
      exact Bool.and_false _
    · rw [decide_eq_false h2]
      rfl
  rw [show exec (.arrayCommandStart q) s = execArrayCommandStart q s from rfl, execArrayCommandStart,
    State.startable_oldest hrun hold]
  dsimp only
  rw [hask, if_neg Bool.false_ne_true]
  generalize hu : s.setQuad q { s.quad q with
      arrayQ := (s.quad q).arrayQ.erase c, springAsk := none,
      springLast := if tOp c.desc.toNat = 2 then some s.clock else (s.quad q).springLast } = u
  have huq : (u.quad q).arrayQ = (s.quad q).arrayQ.erase c ∧ (u.quad q).wbe = (s.quad q).wbe := by
    rw [← hu, State.quad_setQuad_same]
    exact ⟨rfl, rfl⟩
  have hset : ∀ (v : State) (r : ARun), ((v.setRun q r).quad q).running = some r ∧ ((v.setRun q r).quad q).arrayQ = (v.quad q).arrayQ
      ∧ ((v.setRun q r).quad q).wbe = (v.quad q).wbe := fun v r => by
    rw [State.setRun, State.quad_setQuad_same]
    exact ⟨rfl, rfl, rfl⟩
  by_cases h3 : 3 ≤ tOp c.desc.toNat
  · rw [if_pos h3]
    obtain ⟨h1, h2, -⟩ := hset u (ARun.start c false 0 (tTr c.desc.toNat))
    exact ⟨_, rfl, ⟨_, h1, rfl, rfl, rfl, rfl⟩, h2.trans huq.1, fun h => absurd h (by omega)⟩
  · rw [if_neg h3]
    generalize hv : u.setEntry q (tWbe c.desc.toNat) _ = v
    have hpin : ((v.quad q).entry (tWbe c.desc.toNat)).pin = ((s.quad q).entry (tWbe c.desc.toNat)).pin + 1 := by
      rw [← hv, State.setEntry_entry]
    have hvq : (v.quad q).arrayQ = (s.quad q).arrayQ.erase c := by
      rw [← hv, State.setEntry, State.quad_setQuad_same]
      exact huq.1
    have hcheck := v.checkTile_quad c.who.ctx q ((s.quad q).entry (tWbe c.desc.toNat)) c.desc.toNat q
    generalize v.checkTile c.who.ctx q ((s.quad q).entry (tWbe c.desc.toNat)) c.desc.toNat = y at hcheck
    obtain ⟨o, w⟩ := y
    dsimp only at hcheck
    have hstart : ∀ flt values, ((w.setRun q (ARun.start c flt values (tTr c.desc.toNat))).quad q).running
          = some (ARun.start c flt values (tTr c.desc.toNat))
        ∧ ((w.setRun q (ARun.start c flt values (tTr c.desc.toNat))).quad q).arrayQ = (s.quad q).arrayQ.erase c
        ∧ (((w.setRun q (ARun.start c flt values (tTr c.desc.toNat))).quad q).entry (tWbe c.desc.toNat)).pin
          = ((s.quad q).entry (tWbe c.desc.toNat)).pin + 1 := fun flt values => by
      obtain ⟨h1, h2, hw⟩ := hset w (ARun.start c flt values (tTr c.desc.toNat))
      refine ⟨h1, ?_, ?_⟩
      · rw [h2, hcheck, hvq]
      · rw [Quad.entry, hw, hcheck]
        exact hpin
    cases o with
    | error d =>
      obtain ⟨h1, h2, hw⟩ := hstart true 0
      obtain ⟨hrec, hrun'⟩ := (w.setRun q (ARun.start c true 0 (tTr c.desc.toNat))).tileRecord_array q c d.1 0 d.2 0
        ((s.quad q).entry (tWbe c.desc.toNat)).psl
      refine ⟨_, rfl, ⟨_, hrun'.trans h1, rfl, rfl, rfl, rfl⟩, hrec.queue.trans h2, fun _ => ?_⟩
      rw [Quad.entry, hrec.entries]
      exact hw
    | ok t =>
      obtain ⟨h1, h2, hw⟩ := hstart false t.b
      exact ⟨_, rfl, ⟨_, h1, rfl, rfl, rfl, rfl⟩, h2, fun _ => hw⟩

end

/-- Settles O42: starts, zeroing, steps and rows, each by what it leaves of the tile and of the quad. -/
theorem arrayRuns : Obligations.ArrayRuns := by
  refine ⟨⟨?_, ?_⟩, ?_, ?_⟩
  · rintro s q c x hrun hold rfl
    refine ⟨fun hturn => ?_, fun hop hturn => arrayCommandStart_asks hrun hold hop hturn⟩
    obtain ⟨t, ht, ⟨r, hr, hc, hd, hs, hz⟩, hq, hp⟩ := arrayCommandStart_starts hrun hold hturn
    exact ⟨t, r, ht, hr, hc, hd, hs, hz, hq, hp⟩
  · rintro s q r x base hm rfl rfl
    exact ⟨fun a => s.zeroBlocks_bytes q _ r.zeroed _ hm a, fun hrun hflt hop => arrayZero_completes hrun hflt hop,
      fun hrun hflt hrows hz => arrayStep_zeroes hm hrun hflt hrows hz⟩
  · rintro s z q r x e a sa kind v coords hm hrun hflt rfl hop rfl rfl hops hk rfl hn hvals hspring rfl hclean
    have h : s.Tiles (s.zeroRest q r).1 q r ((s.quad q).entry (tWbe r.cmd.desc.toNat)) a sa _ :=
      ⟨hm, hrun, hflt, hop, rfl, rfl, hops, ⟨kind, hk, rfl⟩, hn, hvals, hspring, hclean⟩
    refine ⟨?_, fun hi hz hhi hlt => ?_⟩
    · obtain ⟨t, ht, hstep, hdone, hpin⟩ := h.completes
      refine ⟨t, ht, ?_, fun b hb => hstep.others b (fun i hi j hj => hb i (List.mem_range.1 hi) j hj), hdone, hpin⟩
      rintro i hi j hj b rfl
      exact hstep.elements i (List.mem_range.2 hi) j hj
    · obtain ⟨t, r', ht, hr, hc, hs, hstep⟩ := h.steps hz hhi hlt
      refine ⟨t, r', ht, hr, hc, hs, ?_, fun b hb => hstep.others b (fun i hi j hj => hb i (List.mem_range.1 hi) j hj)⟩
      rintro i hi' j hj b rfl
      exact hstep.elements i (List.mem_range.2 hi') j hj
  · rintro s q r x w set hm hrun hflt rfl hop rfl rfl
    have h : s.Drains q r := ⟨hm, hrun, hflt, hop⟩
    refine ⟨h.ends, fun hd hrow hpo => ⟨fun ts hmay hts hf => h.finds hd hrow hpo hmay hts hf,
      fun code addr det hbad => h.stops hd hrow hpo hbad⟩, ?_⟩
    rintro ts puts hd hrow rfl hf
    exact ⟨fun d l pa hputs hpa hc => h.block hd hrow hf hputs hpa hc, fun hlast hz hall => h.last hd hrow hf hlast hz hall⟩

end Sys2Proof.Machine
